-- ==== Sys2Proof/Word.lean ====
section
/-! DEFINITION. The word types of the model: bytes and the 64-bit words of Anvil registers (R171). -/
namespace Sys2Proof

/-- One byte. -/
abbrev Byte := BitVec 8

/-- One 64-bit word: a general register (R171), a register word, an eighth of a task register block. -/
abbrev W64 := BitVec 64

end Sys2Proof
end

