-- ==== Sys2Proof/Syntax.lean ====
section
/-! DEFINITION. The commands of the block: one constructor per row of spec/opcode_table.json, with the operands each row's
rules name. What the spec leaves to the world outside the module (host answers, media outcomes, verification results,
the passing of time) arrives as an operand of the command it bears on. -/
namespace Sys2Proof

/-- Time that passes before a time-driven event: REFCLK-derived nanoseconds, and how much of a correction in force is
removed in them (R41). -/
structure Elapse where
  ns : Nat
  corr : Nat
  deriving DecidableEq, Repr

/-- What the check codes of an SRAM or DRAM line find on an access (R237, R265, R268): nothing, a correctable error, an
uncorrectable error, an uncorrectable error of the valid-bitmap line. -/
inductive MErr
  | ok | corr | uncorr | bitmap
  deriving DecidableEq, Repr

/-- A task-register write's form (R96). -/
inductive WForm
  | dmwr | posted
  deriving DecidableEq, Repr

/-- What a retranslation or translation finds (R86, R101): access, with the base-2 logarithm of the size of its translation (12 to 30), or
none. -/
inductive Xlate
  | access (size : Nat)
  | noAccess
  deriving DecidableEq, Repr

/-- A page-request group response (R101). -/
inductive PageResp
  | success (again : Xlate) | invalid | failure
  deriving DecidableEq, Repr

/-- How a host memory read fails (R103). -/
inductive HostErr
  | ur | ca | poisoned
  deriving DecidableEq, Repr

/-- How far a transfer of a thread has moved when an event meets it: thread, transfer number, bytes moved in all, the data host
memory returned since the last such event, the protection information of every frame, what the codes find in the
lines of its frames: by 65 × frame + line, line 64 the metadata (R101 to R103, R158, R271). -/
structure DmaPart where
  t : Nat
  n : Nat
  upto : Nat
  data : List Byte
  pis : List Byte
  errs : List (Nat × MErr)
  deriving DecidableEq, Repr

/-- What hard decode finds in one slot (R322): decoded with this many bits corrected, not decoded, or a raw codeword with at
most 64 zero bits (a slot of an erased page). -/
inductive SlotRead
  | ok (bits : Nat)
  | fail
  | erased
  deriving DecidableEq, Repr

/-- A member read of an on-the-fly rebuild that did not end HARD_OK without a corrected bit (R354): slot, member position, code, bits that
hard decode corrected. -/
structure MRead where
  slot : Nat
  member : Nat
  code : Nat
  bits : Nat
  deriving DecidableEq, Repr

/-- A redundant copy of a parameter page: whether its CRC checks, and the geometry it gives (R280). -/
structure ParamPage where
  good : Bool
  planes : Nat
  pages : Nat
  eblks : Nat
  deriving DecidableEq, Repr

/-- A die whose package answers entry 0x00 of discovery: global index and the copies of its parameter page, in order (R280). -/
structure FoundDie where
  die : Nat
  copies : List ParamPage
  deriving DecidableEq, Repr

/-- A record's stamp: CHR_NOW with the stamp-flag byte (R39, R40). -/
structure Stamp where
  now : Nat
  flags : Nat
  deriving DecidableEq, Repr

/-- One almanac entry (R48). -/
structure AlmEntry where
  due : Nat
  period : Nat
  arg : Nat
  kind : Nat
  rank : Nat
  en : Bool
  needset : Bool
  fired : Bool
  count : Nat
  deriving DecidableEq, Repr

/-- The binding of a host context (R114): its own binding is in force, tenant, PASID, permitted volumes. -/
structure Bind where
  bound : Bool
  tenant : Nat
  pasidEn : Bool
  pasid : Nat
  vols : List Nat
  deriving DecidableEq, Repr

/-- One token bucket's parameters (R394). -/
structure Bucket where
  en : Bool
  rate : Nat
  cap : Nat
  deriving DecidableEq, Repr

/-- A tenant's three buckets: commands, bytes, media µs (R393). -/
structure Quota where
  b0 : Bucket
  b1 : Bucket
  b2 : Bucket
  deriving DecidableEq, Repr

/-- Actions of a staged entry (R189, R191). -/
inductive Act
  | fine | coarse | unmap | zero
  deriving DecidableEq, Repr

/-- An entry of a MAP record (R219). -/
structure JEnt where
  lbn : Nat
  act : Act
  rel : Bool
  skip : Bool
  gen : Nat
  target : Nat
  deriving DecidableEq, Repr

/-- Journal record types (R218). -/
inductive JTyp
  | map | range | volume | round | pad
  deriving DecidableEq, Repr

/-- A journal record (R218) with where it stands: acknowledged by the partner, committed, applied. -/
structure JRec where
  typ : JTyp
  ents : List JEnt
  jseq : Nat
  stamp : Stamp
  nskip : Nat
  thread : Nat
  seq : Nat
  tag : Nat
  unit : Nat
  last : Bool
  /-- RANGE: first billet, count; VOLUME: number, new table entry; PAD: its length -/
  a : Nat
  b : Nat
  committed : Bool
  applied : Bool
  deriving DecidableEq, Repr

/-- An entry of the stripes-in-flight journal (R348). -/
structure Sif where
  band : Nat
  plane : Nat
  page : Nat
  /-- 0 freed and not yet acknowledged, 1 OPEN, 2 CLOSING, 3 ORPHAN -/
  st : Nat
  wide : Bool
  compat : Bool
  slot : Nat
  quad : Nat
  prog : Nat
  /-- parity pages whose program ended CODE 0, whether the partner acknowledged the entry's last change, and the state it is treated
  as in until then (R349) -/
  parDone : Nat
  acked : Bool
  prev : Nat
  deriving DecidableEq, Repr

/-- Where the stripes-in-flight journal is recovered from (R350): RSM, the partner's mirror with its entries, the newest flash
copy. -/
inductive SifSrc
  | rsm | peer (entries : List (Nat × Option Sif)) | flash
  deriving DecidableEq, Repr

/-- A checkpoint round (R225, R226) with the map image its segment copies hold and the flash copy of the stripes-in-flight journal
written in it (R350), and its directory: 8 MiB segments with the PPAs of their newest copies. -/
structure Round where
  num : Nat
  jstart : Nat
  jdone : Nat
  dirs : List Nat
  jseg : Nat
  stampNow : Nat
  image : List (Nat × Byte)
  sif : List (Nat × Option Sif)
  dir : List (Nat × Nat)
  deriving DecidableEq, Repr

/-- What a checkpoint round writes beside its record (R225): its directory in three copies, and the copies of the segments that changed
since theirs, each with its PPA. -/
structure RoundDir where
  dirs : List Nat
  segs : List (Nat × Nat)
  deriving DecidableEq, Repr

/-- A change that the active module mirrors (R425, CFG), or the master of a cascade passes on (R448): an RSM register word, an
almanac entry, a binding, a tenant's quota; from the master also a volume table entry and a range to unmap. -/
inductive CfgChange
  | reg (off value : Nat)
  | alm (i : Nat) (e : AlmEntry)
  | bind (c : Nat) (b : Bind)
  | quota (n : Nat) (q : Quota) (fill : Bool)
  | vol (v entry : Nat)
  | range (first count : Nat)
  deriving DecidableEq, Repr

/-- Group states (R351). -/
inductive GSt
  | healthy | degraded | rebuilding | reshaping | offline
  deriving DecidableEq, Repr

/-- A parity group (R338, R351, R357): state, parity members per stripe, member dies in ascending channel, positions lost,
new group of a reshape, position being rebuilt, bands rebuilt for it. -/
structure Group where
  st : GSt
  np : Nat
  mem : List Nat
  lost : List Nat
  pending : Bool
  kreb : Nat
  rebuilt : List Nat
  deriving DecidableEq, Repr

/-- A redirect entry (R357, R358, R362): failed die, its replacement, group, bands not erased since it was made, and whether
the rebuild of its position has ended. -/
structure Redir where
  old : Nat
  new : Nat
  group : Nat
  left : List Nat
  full : Bool
  deriving DecidableEq, Repr

/-- A media change ring record as the partner receives it (R318, R425): bytes written to the media region, or the retained
tables. -/
inductive MedChange
  | write (addr : Nat) (data : List Byte)
  | tables (groups : List (Nat × Option Group)) (spares : List Nat) (redirs : List Redir)
  deriving DecidableEq, Repr

/-- SALV (R440): a request for write-buffer frames, or one frame with its metadata, and whether it carries an uncorrectable
error. -/
inductive SalvMsg
  | request (frames : List Nat)
  | frame (n : Nat) (data meta_ : List Byte) (bad : Bool)
  deriving DecidableEq, Repr

/-- What a module that takes the active role finds on the flash it has not driven (R437 steps 5 to 7, R438, R443): the slots
programmed and their information bytes, what discovery reports, the journal records read forward from the last JEND received,
and where the stripes-in-flight journal comes from. -/
structure TakeIn where
  flash : List (Nat × List Byte)
  found : List FoundDie
  train : List Nat
  tprog : List (Nat × Nat)
  endur : Nat
  walk : List JRec
  src : SifSrc
  deriving DecidableEq, Repr

/-- A tenant's counters in the layout of R398; MAPPED is taken from the map. -/
structure Cnt where
  rcmd : Nat
  wcmd : Nat
  rbytes : Nat
  wbytes : Nat
  mediaUs : Nat
  qparkUs : Nat
  mapped : Nat
  qparks : Nat
  errs : Nat
  deriving DecidableEq, Repr

/-- A slot of the minute ring with its descriptor (R399). -/
structure MinSlot where
  seq : Nat
  stamp : Nat
  endMin : Nat
  flags : Nat
  loss : Bool
  mirror : Bool
  recs : List (Nat × Cnt)
  deriving DecidableEq, Repr

/-- How a flash block of a data command reads (R288, R297, R300, R322, R354): block offset; CODE of the decode (0 HARD_OK, 1 SOFT_OK, 2 RETRY_OK,
3 none of them, 4 the timer path of the script); bits that hard decode corrected; rows its walk tried; die time of its script runs in µs;
the member reads of its rebuild that do not end HARD_OK without a corrected bit. -/
structure BlockRead where
  block : Nat
  code : Nat
  bits : Nat
  rows : Nat
  us : Nat
  members : List MRead
  deriving DecidableEq, Repr

/-- What cipher units that failed since KINDLE do to a frame (R372): the bits of its ciphertext and metadata that are changed as CENC leaves
them or CDEC reads them, and whether the guard unit reports a wrong guard. -/
structure CipherFlaw where
  frame : Nat
  mask : List Byte
  guard : Bool
  deriving DecidableEq, Repr

/-- What a cipher transfer meets: errors that the codes find (65 × frame + line), and the flaws of failed units (R270, R372). -/
structure CipherRun where
  errs : List (Nat × MErr)
  flaws : List CipherFlaw
  deriving DecidableEq, Repr

/-- What a data command meets outside the module while its handler runs: the bytes that host memory returns at DADDR and MADDR, flash
blocks that do not read HARD_OK without a corrected bit in the nominal time, a transfer that host memory fails (block, and detail of R101 or
R103), what the codes find in DRAM and the map cache (block; 0 to 63 a line of its frame, 64 the metadata, from 65 the lines of its map
lookup), and what failed cipher units do (R372). -/
structure DataIn where
  data : List Byte
  pis : List Byte
  reads : List BlockRead
  fail : Option (Nat × Nat)
  mem : List (Nat × Nat × MErr)
  flaws : List CipherFlaw
  deriving DecidableEq, Repr

/-- The drain of a slice's oldest write-through entry: the slice, and what the codes find under it (R240, R270). -/
structure Drain where
  q : Nat
  found : MErr
  deriving DecidableEq, Repr

/-- A fault of the pair link: whether the link was lost, and the messages sent again, which a failed CRC alone also asks for (R425). -/
structure LinkFault where
  down : Bool
  resent : Nat
  deriving DecidableEq, Repr

/-- The read of an admin command's parameter buffer: the bytes host memory returns, and the detail of R101 or R103 with which it fails
(0: it does not). -/
structure ParamBuf where
  data : List Byte
  fail : Nat
  deriving DecidableEq, Repr

/-- VIN below the reset threshold: its level in mV, and whether the stop falls inside a write in progress (R60, R71, R474). -/
structure VinFall where
  mv : Nat
  cut : Bool
  deriving DecidableEq, Repr

/-- A low pulse on RST_N: whether one too short to be certain is taken, and whether the stop falls inside a write (R71, R515). -/
structure PinLow where
  taken : Bool
  cut : Bool
  deriving DecidableEq, Repr

/-- A port's function enters D3hot, or with `back` returns to D0 (R86, R104). -/
structure PmMove where
  port : Nat
  back : Bool
  deriving DecidableEq, Repr

/-- An ATS invalidation: its PASID and range, and what the transfers under way bring in (R102). -/
structure InvalReq where
  pasid : Nat
  addr : Nat
  len : Nat
  ds : List DmaPart
  deriving DecidableEq, Repr

/-- A poisoned posted write: its port and the header of its TLP (R107). -/
structure PoisonedWrite where
  port : Nat
  hdr : Nat
  deriving DecidableEq, Repr

/-- A malformed request: a read or a write of a wrong shape (R94), or a Malformed TLP with its header (R107). -/
structure BadRequest where
  read : Bool
  tlp : Option Nat
  deriving DecidableEq, Repr

/-- A partial store to DRAM or SRAM: its IMM and what the codes find under it (R270). -/
structure Merge where
  imm : Nat
  found : MErr
  deriving DecidableEq, Repr

/-- A thread at its next instruction, and whether a register or local-store word that it reads has an uncorrectable error (R167). -/
structure Fetch where
  thread : Nat
  flaw : Bool
  deriving DecidableEq, Repr

/-- A journal segment written: its last record, its page and the next segment's (R227). -/
structure SegEnd where
  jend : Nat
  ppa : Nat
  next : Nat
  deriving DecidableEq, Repr

/-- A retraining's result: the rate it settles on (0: none), and whether it first failed at the current one (R281). -/
structure Retrain where
  code : Nat
  again : Bool
  deriving DecidableEq, Repr

/-- One command of the block (one row of spec/opcode_table.json each). -/
inductive Instr
  /-- POWER_ON (R60): VIN reaches 4.5 V with RST_N high, or the later of the two, and the module leaves OFF for KINDLE and starts the ROM. -/
  | powerOn (vin : Nat)
  /-- VIN_BELOW_RESET (R60): VIN falls below 4.2 V and the module goes OFF within 1 µs from any mode. -/
  | vinBelowReset (v : VinFall)
  /-- RST_N_RESET (R515): A low pulse of 10 µs or more on RST_N resets the module to OFF and acts as PCIe fundamental reset. -/
  | rstNReset (ns : Nat) (low : PinLow)
  /-- STAGED_IMAGE_COPY (R474): When DUE = 1, the ROM verifies the staging slot and copies it into the active slot with read-back. -/
  | stagedImageCopy (reprog : Nat)
  /-- SETTINGS_RESTORE (R70): The valid RSM settings copy with the higher SEQ is restored, or factory values apply when no copy is valid. -/
  | settingsRestore (badA badB fault : Bool) (kat seals : List Nat) (el : Elapse)
  /-- DRAM_TRAIN (R63): DRAM is trained and the valid bitmap cleared so that every line reads zero. -/
  | dramTrain (el : Elapse)
  /-- ROLE_SETTLE (R65): At step 6 the module settles its active or standby role from pairing, retained role and OWN_IN. -/
  | roleSettle (ownIn : Bool)
  /-- FLASH_DISCOVERY (R280): Channels reset, identify and train every die, and the inventory is compared with the retained one. -/
  | flashDiscovery (found : List FoundDie) (train : List Nat) (tprog : List (Nat × Nat)) (endur : Nat)
  /-- MAP_CHECKPOINT_LOAD (R228): The NEWEST checkpoint round, or PREVIOUS, is loaded from flash into DRAM. -/
  | mapCheckpointLoad (newest previous : Bool)
  /-- JOURNAL_REPLAY (R228): Journal records from JSTART to JEND are replayed in JSEQ order, then the media ring and stripes journal are recovered. -/
  | journalReplay (badRec : Option Nat) (src : SifSrc)
  /-- KINDLE_COMPLETE (R63): The mode becomes RUN or STANDBY, CLOSED is cleared or kept, internal threads are armed and MSI-X vector 0 is signalled. -/
  | kindleComplete
  /-- VALID_RECOUNT_DONE (R324): The band VALID recount after KINDLE or takeover ends and RECOUNT is cleared. -/
  | validRecountDone
  /-- VIN_WARNING (R406): VIN falls below WARN with VEN = 1 and raises a power warning. -/
  | vinWarning (mv : Nat)
  /-- PFAIL_N_LOW (R407): PFAIL_N stays low for 300 ns and raises a power warning. -/
  | pfailNLow (ns : Nat) (taken : Bool)
  /-- D3HOT_ENTRY (R408): A port function enters D3hot and raises one power warning. -/
  | d3hotEntry (m : PmMove)
  /-- QUENCH (R411): On a power warning in RUN, BANKED or SERVICE the module stops, discards work, flushes, closes stripes and marks DONE. -/
  | quench (el : Elapse)
  /-- QUENCH_PEER_ACK_TIMEOUT (R415): A record appended in QUENCH gets no partner acknowledgement within 1 ms and commits alone with PEERLOST set. -/
  | quenchPeerAckTimeout (el : Elapse)
  /-- QUENCH_RETURN (R418): After QUENCH completes and PFAIL_N and VIN allow, the module returns to its prior mode without reset. -/
  | quenchReturn
  /-- QUENCH_TO_SAFE (R79): QUENCH completes with a held SAFE cause and the module enters SAFE instead of returning. -/
  | quenchToSafe
  /-- HOLD_SAMPLE (R409): Each millisecond VSENSE_HOLD is sampled and HOLD_LOW is raised when the bank voltage falls below VMIN. -/
  | holdSample (mv : Nat) (el : Elapse)
  /-- VIN_SAMPLE (R421): Each millisecond VIN is sampled into PWR_VIN and the minimum updated. -/
  | vinSample (mv : Nat) (el : Elapse)
  /-- THERMAL_COMPARE (R524): Each millisecond Tj is compared with WARN_C and 115 °C, raising the warning or the THERMAL cause. -/
  | thermalCompare (tc : List Int) (el : Elapse)
  /-- TEMPERATURE_SAMPLE (R335): Each second the eight sensors are read, and the minute maximum is added to the histogram at each minute. -/
  | temperatureSample (tc : List Int) (el : Elapse)
  /-- LIFE_HOUR_COUNT (R525): Each hour outside OFF is weighted by its Tj band and added to HELM_LIFE. -/
  | lifeHourCount (tc : Int)
  /-- SAFE_ENTRY (R78): A SAFE cause arises; CLOSED is set, work discarded, and the write buffer flushed unless the cause forbids it. -/
  | safeEntry (cause : Nat) (fails : Bool)
  /-- CHR_TICK (R36): A tick candidate on CHR_TICK is accepted or rejected, its phase error taken and slewed, and pending SET_TIME applied. -/
  | chrTick (hi lo : Nat) (el : Elapse)
  /-- DEAD_RECKONING_ENTRY (R46): 1.5 P passes without an accepted tick and the chronometer enters dead reckoning. -/
  | deadReckoningEntry (el : Elapse)
  /-- SLEW_COMPLETE (R41): The part of a correction still to be removed falls below 1 µs and SLEW is cleared. -/
  | slewComplete (el : Elapse)
  /-- ALMANAC_SCAN (R53): At each millisecond boundary of CHR_NOW the almanac is scanned and due entries fire in kind order. -/
  | almanacScan (el : Elapse)
  /-- WATCH (R51): At a watch boundary the helm clears way error counts, writes CHR_NOW, computes and applies S, rearms internal threads and resynchronises a masked core. -/
  | watch
  /-- REFILL (R396): At each millisecond boundary hardware refills every enabled token bucket and serves parked charges. -/
  | refill
  /-- SNAPSHOT (R399): Every tenant's live counters are copied into the next minute-ring slot and zeroed. -/
  | snapshot
  /-- LODESTAR (R454): The lodestar digest is sent to the partner and to the master at each minute boundary. -/
  | lodestar
  /-- SCRUB (R269): An almanac SCRUB entry sets the DRAM patrol rate LPMS. -/
  | scrub
  /-- PATROL (R328): An almanac PATROL entry sets the media patrol rate PPS. -/
  | patrol
  /-- SWAP (R442): An almanac SWAP entry starts a planned role swap when its named side is not active and the partner is eligible. -/
  | swap
  /-- ACTIVATE (R475): An almanac ACTIVATE entry makes the staged image due and restarts, or starts the pair activation. -/
  | activate
  /-- POST (R49): An almanac POST entry posts a message stamped with the helm as sender to a mailbox. -/
  | post
  /-- CHANNEL_BUDGET_RESET (R288): At each millisecond boundary each channel sets its background budget B and resets USED. -/
  | channelBudgetReset (el : Elapse)
  /-- SWAPAT_REACHED (R442): CHR_NOW reaches the time held in PAIR_SWAPAT and the requested swap starts or is skipped. -/
  | swapatReached (el : Elapse)
  /-- HELM_DISAGREEMENT (R422): One helm core differs from the others in a CCLK and is masked, or a second disagreement sends the module to SAFE. -/
  | helmDisagreement (core : Nat)
  /-- TASK_REGISTER_WRITE (R113): A DMWr or posted write of the 64-byte block to a context page is accepted or refused against the state word. -/
  | taskRegisterWrite (p : Nat) (form : WForm) (c block : Nat) (whole : Bool) (poison : Option Nat)
  /-- CTX_ABORT_WRITE (R142): An 8-byte write to CTX_ABORT is decided at the state word against the command's completion or commit. -/
  | ctxAbortWrite (p c seq : Nat)
  /-- DISPATCH (R161): An ARMED thread's context is initialised from the dispatch or role table and it becomes READY. -/
  | dispatch (t : Nat)
  /-- SLOT_GRANT (R151): A free active slot is granted to a READY internal or host thread, which becomes RUNNING. -/
  | slotGrant (q : Nat)
  /-- QUANTUM_EXPIRY (R152): A thread that has issued its quantum of instructions returns to READY when a peer is READY. -/
  | quantumExpiry (t : Nat)
  /-- WAIT_TIMEOUT (R167): A thread stays WAITING longer than ANV_TMO.WAIT_MS and takes TIMEOUT fault 0x01. -/
  | waitTimeout (t : Nat) (el : Elapse)
  /-- LOCK_HOLD_TIMEOUT (R167): A billet lock is held longer than ANV_TMO.LOCK_MS and its holder takes TIMEOUT fault 0x02. -/
  | lockHoldTimeout (t : Nat) (el : Elapse)
  /-- RUN_LIMIT_TIMEOUT (R167): A thread issues RUNLIM × 65,536 instructions without a wait, YIELD or DONE and takes TIMEOUT fault 0x03. -/
  | runLimitTimeout (t : Nat)
  /-- THREAD_FAULT (R168): A faulted thread's operations end, uncommitted map changes drop, locks and buffers are released and its completion is written. -/
  | threadFault (t : Nat) (x : Xlate)
  /-- COMMAND_COMPLETION (R138): After DONE, a discard or a winning abort, the record, mirror, IDLE and MSI-X message are issued in order. -/
  | commandCompletion (c : Nat) (x : Xlate)
  /-- READ (R119): Data command 0x01 reads blocks to DADDR, with protection information to MADDR when PIX = 1. -/
  | read (c : Nat) (x : DataIn)
  /-- WRITE (R119): Data command 0x02 writes blocks from DADDR, committed atomically per unit. -/
  | write (c : Nat) (x : DataIn)
  /-- WRITE_ZEROES (R122): Data command 0x03 makes blocks read as zeros with generated protection information. -/
  | writeZeroes (c : Nat) (el : Elapse)
  /-- TRIM (R121): Data command 0x04 makes blocks unmapped. -/
  | trim (c : Nat) (el : Elapse)
  /-- FLUSH (R126): Data command 0x05 completes when the blocks buffered at acceptance are programmed and their stripes closed. -/
  | flush
  /-- FLUSH_ANSWER (R531): The helm answers a passed FLUSH once its blocks are programmed and stripes closed. -/
  | flushAnswer (i : Nat)
  /-- VERIFY (R119): Data command 0x06 reads, decodes and checks blocks without transfer. -/
  | verify (c : Nat) (x : DataIn)
  /-- COMPARE (R119): Data command 0x07 reads blocks and compares them with host data and PI. -/
  | compare (c : Nat) (x : DataIn)
  /-- COMPARE_AND_WRITE (R125): Data command 0x08 compares under billet locks and writes the second half only on a full match. -/
  | compareAndWrite (c : Nat) (x : DataIn)
  /-- COPY (R124): Data command 0x09 copies blocks between volumes, decrypting, checking and re-encrypting. -/
  | copy (c : Nat) (x : DataIn)
  /-- HEALTH_READ (R331): Data command 0x0A copies health or accounting pages to DADDR. -/
  | healthRead (c : Nat) (x : DataIn)
  /-- VOLUME_CREATE (R231): Admin command 0x80 allocates the lowest free logical range and appends a VOLUME record. -/
  | volumeCreate
  /-- VOLUME_DELETE (R232): Admin command 0x81 marks a volume DELETING and, after its commands drain, unmaps and frees its range. -/
  | volumeDelete
  /-- VOLUME_DELETE_DRAINED (R232): No command on a deleting volume remains, and the range lock, RANGE record and FREE record follow. -/
  | volumeDeleteDrained
  /-- CONTEXT_BIND (R391): Admin command 0x82 binds a context to a tenant, PASID and permitted volumes. -/
  | contextBind (pb : ParamBuf)
  /-- CONTEXT_UNBIND (R130): CONTEXT_BIND with UNBIND = 1 clears a context's binding and volumes. -/
  | contextUnbind
  /-- KEY_LOAD_LOAD (R376): KEY_LOAD kind 0 writes keys into the non-write version, which becomes the write version. -/
  | keyLoadLoad (pb : ParamBuf) (partner : Nat)
  /-- KEY_LOAD_RETIRE (R376): KEY_LOAD kind 1 zeroises the non-write version of a key page. -/
  | keyLoadRetire (pb : ParamBuf) (partner : Nat)
  /-- KEY_LOAD_ERASE (R376): KEY_LOAD kind 2 zeroises both versions of a key page. -/
  | keyLoadErase (pb : ParamBuf) (partner : Nat)
  /-- SET_POWER_RUN (R60): SET_POWER with target RUN completes at once in RUN or wakes the module from BANKED. -/
  | setPowerRun
  /-- SET_POWER_BANKED (R73): SET_POWER with target BANKED parks threads, drains, flushes, checkpoints and powers down to BANKED. -/
  | setPowerBanked
  /-- BANKED_ENTRY_DONE (R74): No command is in flight, the write buffer is empty and the tail checkpointed, so BANKED is entered and SET_POWER completes. -/
  | bankedEntryDone
  /-- SET_MODE_RUN (R82): SET_MODE with target RUN returns the module from SERVICE to RUN. -/
  | setModeRun
  /-- SET_MODE_SERVICE (R82): SET_MODE with target SERVICE drains and flushes from RUN and enters SERVICE. -/
  | setModeService
  /-- SET_MODE_SAFE (R76): SET_MODE with target SAFE enters SAFE with cause ADMIN. -/
  | setModeSafe
  /-- SET_MODE_RESTART (R83): SET_MODE with target RESTART drains, flushes, writes CHR_NOW and resets into KINDLE. -/
  | setModeRestart
  /-- REQUESTED_CHANGE_DRAINED (R62): Commands of a requested change have finished, the write buffer is flushed and the tail checkpointed, and the change proceeds. -/
  | requestedChangeDrained
  /-- SET_TIME (R42): Admin command 0x86 sets, slews, steps or refuses the site time of day. -/
  | setTime
  /-- ALMANAC_SET (R50): Admin command 0x87 writes one almanac entry, with fixed-entry and NEEDSET rules. -/
  | almanacSet (pb : ParamBuf)
  /-- SHAPE_CHANGE_RESHAPE (R366): SHAPE_CHANGE kind 1 starts a reshape of old groups into new groups beside the old layout. -/
  | shapeChangeReshape (pb : ParamBuf)
  /-- SHAPE_CHANGE_ADMIT (R364): SHAPE_CHANGE kind 2 admits unused dies to the spare pool and inventory. -/
  | shapeChangeAdmit (pb : ParamBuf)
  /-- SHAPE_CHANGE_RELEASE (R364): SHAPE_CHANGE kind 3 clears failed dies with no redirect and returns them to the spare pool. -/
  | shapeChangeRelease (pb : ParamBuf)
  /-- SHAPE_CHANGE_FAIL (R364): SHAPE_CHANGE kind 4 fails the named dies. -/
  | shapeChangeFail (pb : ParamBuf)
  /-- SHAPE_CHANGE_REFORM (R364): SHAPE_CHANGE kind 5 re-forms an empty OFFLINE group without its failed dies as HEALTHY. -/
  | shapeChangeReform (pb : ParamBuf)
  /-- RESHAPE_HANDOVER (R366): Once band e of every old group is FREE or WITHDRAWN, it is retired and band e of every new group created. -/
  | reshapeHandover (e : Nat)
  /-- RESHAPE_SWITCH (R366): When no index is left, the old groups are removed and Dbil and LCAP recomputed. -/
  | reshapeSwitch
  /-- SWAP_ROLE (R442): Admin command 0x89 holds a planned swap time in PAIR_SWAPAT. -/
  | swapRole
  /-- ATTEST (R480): Admin command 0x8A writes a signed attestation report over the nonce. -/
  | attest (pb : ParamBuf)
  /-- FORMAT (R232): Admin command 0x8B unmaps every billet of a volume and leaves it ACTIVE. -/
  | format
  /-- SETTINGS_WIPE (R72): Admin command 0x8C invalidates both settings copies and restarts into factory values. -/
  | settingsWipe
  /-- QUOTA_SET (R394): Admin command 0x8D sets a tenant's bucket parameters, effective at the next millisecond. -/
  | quotaSet (pb : ParamBuf)
  /-- LOG_CLEAR (R500): Admin command 0x8E empties the logbook and writes a LOG_ cleared entry. -/
  | logClear
  /-- ENROLL (R478): Admin command 0x8F enrols or revokes owner keys from a signed object. -/
  | enroll (pb : ParamBuf)
  /-- PAGE_REQUEST_RESPONSE (R101): A PRI group response arrives and the parked DMA resumes or its command is discarded. -/
  | pageRequestResponse (p i : Nat) (r : PageResp)
  /-- PAGE_REQUEST_TIMEOUT (R101): No page-request response arrives within 1 s and the command is discarded HOST_MEMORY_FAULT 0x03. -/
  | pageRequestTimeout (p i : Nat) (el : Elapse)
  /-- ATS_INVALIDATION (R102): An ATS invalidation stops use of a translation, waits for its traffic and completes. -/
  | atsInvalidation (p tag : Nat) (r : InvalReq)
  /-- DMA_READ_ERROR (R103): A DMA read completion returns UR, CA or poisoned data and the command is discarded. -/
  | dmaReadError (d : DmaPart) (e : HostErr)
  /-- DMA_COMPLETION_TIMEOUT (R103): A DMA read gets no completion within 50 ms and the command is discarded HOST_MEMORY_FAULT 0x08. -/
  | dmaCompletionTimeout (d : DmaPart) (el : Elapse)
  /-- PORT_DOWN (R91): A PCIe port goes down and its commands are decided by commit point with mirrors written. -/
  | portDown (p : Nat)
  /-- PORT_TRAINED (R89): A port settles its rate and width, entering or leaving configuration-only state. -/
  | portTrained (p rate width : Nat) (flit l0p : Bool)
  /-- POISONED_POSTED_WRITE (R107): A poisoned posted write to a context page or register is discarded with a logbook event. -/
  | poisonedPostedWrite (w : PoisonedWrite)
  /-- REGISTER_WRITE (R10): A write to a register that has no row of its own applies its fields by their access codes. -/
  | registerWrite (p : Nat) (bar2 : Bool) (off size v : Nat)
  /-- REGISTER_READ_CLEAR (R10): A read of a register with RC fields returns and clears them. -/
  | registerReadClear (p sp off size : Nat) (e : MErr)
  /-- MALFORMED_REQUEST (R94): A BAR request of wrong size or alignment is discarded or reads zero and is counted. -/
  | malformedRequest (p : Nat) (r : BadRequest)
  /-- HELM_ADMIN_WRITE (R114): A write to HELM_ADMIN changes the admin source or context and updates ADMIN and BOUND after its completion. -/
  | helmAdminWrite (v : Nat)
  /-- SAFE_CAUSE_CLEAR (R85): A write of 0xFF to HELM_SAFE_CAUSE.CAUSE clears it as a whole, MORE and UNFLUSHED clearing by their own bits. -/
  | safeCauseClear (v : Nat)
  /-- TICK_EN_WRITE (R46): A write of 0 to CHR_CTL.TICK_EN enters dead reckoning at once; a write of 1 resumes tick acceptance. -/
  | tickEnWrite (v : Bool)
  /-- MAP_OP_WRITE (R233): A write to MAP_OP in SERVICE recomputes LCAP or is refused. -/
  | mapOpWrite (v : Nat)
  /-- MC_DISABLE (R251): A write of MC_CTL.EN := 0 starts a slice drain; EN := 1 cancels it or re-enables an empty slice. -/
  | mcDisable (q : Nat) (en : Bool)
  /-- SLICE_DRAINED (R251): A disabling slice's queue and fills are empty and every line is invalidated, DRAINED := 1. -/
  | sliceDrained (q : Nat)
  /-- SCRATCHPAD_CONVERSION (R248): A write to MC_SP.SPWAYS in SERVICE converts cache ways to zeroed scratchpad. -/
  | scratchpadConversion (q n : Nat)
  /-- WAY_REENABLE (R250): Writing 1 to a MC_WAYDIS bit returns a disabled way empty. -/
  | wayReenable (q w : Nat)
  /-- CE_TABLE_CLEAR (R270): A write of DRM_CECTL.CLR empties the correctable-error table and clears OVF. -/
  | ceTableClear
  /-- ROLE_SUSP_CLEAR (R169): Clearing a bit of ANV_ROLE_SUSP lets the role's threads be armed again. -/
  | roleSuspClear (v : Nat)
  /-- CLRMIN (R421): A write of PWR_CTL.CLRMIN sets the VIN minimum to 0xFFFF. -/
  | clrmin
  /-- FORCE (R436): PAIR_CTL.FORCE lets an ineligible standby take over once OWN_IN is released. -/
  | force
  /-- RESYNC (R444): PAIR_CTL.RESYNC starts resynchronisation and, at a reference, sends the configuration class. -/
  | resync
  /-- SWAPCAN (R442): PAIR_CTL.SWAPCAN cancels the swap held in PAIR_SWAPAT. -/
  | swapcan
  /-- MANUAL (R503): A write of LOG_CTL.MANUAL raises LOG_ event 1. -/
  | manual
  /-- LOG_WINDOW_AUTOINC_READ (R500): A read that includes bytes 4 to 7 of LOG_WIN31 with AUTOINC = 1 advances LOG_CUR.INDEX. -/
  | logWindowAutoincRead (p : Nat) (half : Bool)
  /-- LOG_TRIGGER (R498): An enabled trigger writes a stamped logbook entry with captured registers, or is dropped when full. -/
  | logTrigger
  /-- LOG_INTERRUPT (R498): At most once per millisecond MSI-X vector 1 announces entries committed since the last message. -/
  | logInterrupt (el : Elapse)
  /-- ADD (R184): ALU add of two registers modulo 2^64. -/
  | add (t rd rs1 rs2 : Nat)
  /-- SUB (R184): ALU subtract of two registers modulo 2^64. -/
  | sub (t rd rs1 rs2 : Nat)
  /-- AND (R184): ALU bitwise AND. -/
  | and (t rd rs1 rs2 : Nat)
  /-- OR (R184): ALU bitwise OR. -/
  | or (t rd rs1 rs2 : Nat)
  /-- XOR (R184): ALU bitwise exclusive OR. -/
  | xor (t rd rs1 rs2 : Nat)
  /-- SHL (R184): ALU shift left by a register count. -/
  | shl (t rd rs1 rs2 : Nat)
  /-- SHR (R184): ALU logical shift right by a register count. -/
  | shr (t rd rs1 rs2 : Nat)
  /-- SRA (R184): ALU arithmetic shift right by a register count. -/
  | sra (t rd rs1 rs2 : Nat)
  /-- MUL (R184): ALU low 64 bits of a product. -/
  | mul (t rd rs1 rs2 : Nat)
  /-- SLT (R184): ALU signed set-less-than. -/
  | slt (t rd rs1 rs2 : Nat)
  /-- SLTU (R184): ALU unsigned set-less-than. -/
  | sltu (t rd rs1 rs2 : Nat)
  /-- EXT (R184): ALU extract a bit field, zero-extended. -/
  | ext (t rd rs1 lsb width : Nat)
  /-- INS (R184): ALU insert a bit field into rd. -/
  | ins (t rd rs1 lsb width : Nat)
  /-- MFS (R184): Read a special register pc, tid, tenant or wreason. -/
  | mfs (t rd sel : Nat)
  /-- ADDI (R184): ALU add of a sign-extended immediate. -/
  | addi (t rd rs1 imm : Nat)
  /-- ANDI (R184): ALU AND with an immediate. -/
  | andi (t rd rs1 imm : Nat)
  /-- ORI (R184): ALU OR with an immediate. -/
  | ori (t rd rs1 imm : Nat)
  /-- XORI (R184): ALU exclusive OR with an immediate. -/
  | xori (t rd rs1 imm : Nat)
  /-- SHLI (R184): ALU shift left by an immediate. -/
  | shli (t rd rs1 imm : Nat)
  /-- SHRI (R184): ALU logical shift right by an immediate. -/
  | shri (t rd rs1 imm : Nat)
  /-- SLTIU (R184): ALU unsigned compare with an immediate. -/
  | sltiu (t rd rs1 imm : Nat)
  /-- LIH (R184): Load an immediate into the high 32 bits. -/
  | lih (t rd rs1 imm : Nat)
  /-- BR (R185): Conditional branch by a register comparison. -/
  | br (t cond rs1 rs2 imm : Nat)
  /-- JAL (R185): Jump and link to a relative target. -/
  | jal (t rd imm : Nat)
  /-- JALR (R185): Jump and link to a register plus immediate. -/
  | jalr (t rd rs1 imm : Nat)
  /-- LDL (R186): Load from the thread's local store. -/
  | ldl (t size rd rs1 imm : Nat) (e : MErr)
  /-- STL (R186): Store to the thread's local store. -/
  | stl (t size rs2 rs1 imm : Nat)
  /-- LDS (R186): Load from the quadrant scratchpad. -/
  | lds (t size rd rs1 imm : Nat) (e : MErr)
  /-- STS (R186): Store to the quadrant scratchpad, system threads only. -/
  | sts (t size rs2 rs1 imm : Nat)
  /-- LDP (R186): Load from the program store as data. -/
  | ldp (t size rd rs1 imm : Nat)
  /-- LDB (R187): Load from a held buffer's frames or metadata. -/
  | ldb (t size rd rs1 rs2 imm : Nat) (e : MErr)
  /-- STB (R187): Store into a held buffer's frames or metadata. -/
  | stb (t size rs2 rs1 rd : Nat) (m : Merge)
  /-- LDD (R187): System-only load from a DRAM address. -/
  | ldd (t size rd rs1 imm : Nat) (e : MErr)
  /-- STD (R187): System-only store to a DRAM address. -/
  | std (t size rs2 rs1 : Nat) (m : Merge)
  /-- VLBN (R189): Check mode, volume, permission and range, and return the first LBN or a status. -/
  | vlbn (t rd rs1 rs2 : Nat) (c src : Bool)
  /-- MLOOK (R189): Return the location word of an LBN and hold the location. -/
  | mlook (t rd rs1 : Nat) (errs : List (Nat × MErr))
  /-- MGEN (R213): Return the write generation the map holds for an LBN. -/
  | mgen (t rd rs1 : Nat) (errs : List (Nat × MErr))
  /-- MGNEW (R427): Return a new write generation above all given before in the pair. -/
  | mgnew (t rd : Nat)
  /-- MSET (R191): Stage one FINE, COARSE, UNMAP or ZERO entry in a staging slot. -/
  | mset (t rd rs1 rs2 frame slot act : Nat) (rel wb : Bool)
  /-- MCOMMIT (R220): Commit a staging slot as one journal record: allocate, test, append, mirror, commit and apply. -/
  | mcommit (t rd slot : Nat) (last : Bool) (errs : List (Nat × MErr))
  /-- MDROP (R189): Empty a staging slot without writing. -/
  | mdrop (t slot : Nat)
  /-- MREL (R190): Give up every location the thread holds. -/
  | mrel (t : Nat)
  /-- LOCKB (R192): Take a billet lock, parking with reason LOCK while another thread holds it. -/
  | lockb (t rs1 : Nat)
  /-- UNLOCK (R192): Release a billet lock to the longest waiter. -/
  | unlock (t rs1 : Nat)
  /-- BALLOC (R257): Allocate a zeroed buffer from a pool with fallback, parking with reason BUFFER when none is free. -/
  | balloc (t rd pool : Nat) (wb : Bool)
  /-- BFREE (R188): Free a buffer after its strikes and transfers end, handing it to the oldest satisfied park. -/
  | bfree (t rs1 : Nat)
  /-- BSHARE (R261): Share a buffer with another thread as final owner, or put a WB buffer on the flush queue. -/
  | bshare (t rs1 rs2 : Nat) (give : Bool)
  /-- BTAKE (R261): Take the oldest buffer of the flush queue, parking when it is empty. -/
  | btake (t rd : Nat)
  /-- STRIKE (R193): Issue a media strike on a PPA through the redirect table to its channel sequencer. -/
  | strike (t rd rs1 rs2 entry frame : Nat) (rb flim limit raw : Bool) (nslot : Nat)
  /-- MWAIT (R193): Wait for and collect the outcome of a strike tag. -/
  | mwait (t rd rs1 : Nat)
  /-- MWANY (R193): Wait for and collect the outcome of the earliest-ended strike. -/
  | mwany (t rd : Nat)
  /-- MPOLL (R193): Collect a strike outcome if ended, otherwise return PENDING. -/
  | mpoll (t rd rs1 : Nat)
  /-- XIN (R194): Start a transfer from host memory into frames with the ingress check. -/
  | xin (t rd rs1 : Nat)
  /-- XOUT (R194): Start a transfer from frames to host memory with the egress check. -/
  | xout (t rd rs1 : Nat)
  /-- XCOPY (R194): Start a copy of frames and metadata between buffers without checks. -/
  | xcopy (t rd rs1 : Nat)
  /-- XWAIT (R194): Wait for and collect a transfer's SV word. -/
  | xwait (t rd rs1 : Nat)
  /-- XPOLL (R194): Collect a transfer's result if ended, otherwise return PENDING. -/
  | xpoll (t rd rs1 : Nat)
  /-- CENC (R195): Queue a cipher transfer that checks PI, encrypts and tags frames. -/
  | cenc (t rd rs1 : Nat)
  /-- CDEC (R195): Queue a cipher transfer that checks tags, decrypts and checks PI. -/
  | cdec (t rd rs1 : Nat)
  /-- PXOPEN (R343): Open a stripe in its accumulator with a durable stripes-in-flight entry. -/
  | pxopen (t rd rs1 : Nat)
  /-- PXADD (R344): Add or remove a member page in a stripe's parity. -/
  | pxadd (t rd rs1 rs2 frame mem : Nat)
  /-- PXCLOSE (R345): Write a stripe's parity pages into a buffer and make its entry CLOSING. -/
  | pxclose (t rd rs1 rs2 frame : Nat)
  /-- PXREB (R356): Rebuild one member page from the other members of its stripe. -/
  | pxreb (t rd rs1 : Nat)
  /-- TNOW (R198): Return CHR_NOW. -/
  | tnow (t rd : Nat)
  /-- TFLAGS (R198): Return the current stamp-flag byte. -/
  | tflags (t rd : Nat)
  /-- TWAIT (R198): Park with reason TIME until CHR_NOW reaches a deadline. -/
  | twait (t rs1 : Nat)
  /-- TIME_DEADLINE (R155): CHR_NOW reaches a parked thread's TIME deadline and it becomes READY. -/
  | timeDeadline (t : Nat) (el : Elapse)
  /-- QCHG (R396): Charge the tenant's buckets, parking with reason QUOTA when the charge does not fit. -/
  | qchg (t rs1 rs2 imm : Nat)
  /-- MSEND (R495): Send a stamped message to a mailbox. -/
  | msend (t rs1 rs2 : Nat)
  /-- MRECV (R495): Take a message from a mailbox, parking while it is empty. -/
  | mrecv (t rd rs1 rs2 : Nat)
  /-- MACK (R496): Write a return code to a mailbox's acknowledge register. -/
  | mack (t rs1 rs2 : Nat)
  /-- MHELM (R199): Pass the command's latched block to the helm and park until it answers. -/
  | mhelm (t rs1 : Nat)
  /-- HELM_COMMAND_ANSWER (R16): The helm finishes an admin command and returns its completion to the parked handler. -/
  | helmCommandAnswer (fail : Nat)
  /-- DONE (R200): End a thread: check locks and status, wait for outstanding work, free resources and start completion. -/
  | done (t rs1 rs2 : Nat)
  /-- YIELD (R200): Return the thread from RUNNING to READY. -/
  | yield (t : Nat)
  /-- FAULT (R200): Raise PROGRAM fault 0x09 with an immediate code. -/
  | fault (t imm : Nat)
  /-- UNDEFINED_INSTRUCTION (R175): An undefined encoding or bad pc at fetch raises a PROGRAM fault. -/
  | undefinedInstruction (f : Fetch)
  /-- MAP_FILL (R239): A map-cache line arrives from DRAM, is filled with merged changes and releases its MAPMISS waiters. -/
  | mapFill (line : Nat) (e : MErr)
  /-- WRITE_THROUGH_DRAIN (R240): A slice's write-through queue writes an entry to DRAM. -/
  | writeThroughDrain (x : Drain)
  /-- JOURNAL_TAIL_SPACE (R227): JEND advances after a segment write and records waiting for tail-ring space proceed. -/
  | journalTailSpace (g : SegEnd)
  /-- OVERLAY_SPACE_FREED (R211): Tempering frees overlay chunks or groups and a waiting MCOMMIT proceeds. -/
  | overlaySpaceFreed
  /-- CHECKPOINT_ROOT_UPDATE (R225): JEND reaches a round's JDONE and the RSM checkpoint root makes the round NEWEST. -/
  | checkpointRootUpdate (x : RoundDir) (jseg : Nat)
  /-- TRANSFER_END (R194): A host or buffer transfer ends or stops at a failing frame, releasing DMA waiters. -/
  | transferEnd (t n : Nat) (data pis : List Byte) (errs : List (Nat × MErr)) (reads : List MRead)
  /-- CIPHER_TRANSFER_END (R370): The last frame of a CENC or CDEC transfer ends its steps. -/
  | cipherTransferEnd (t n : Nat) (x : CipherRun)
  /-- STRIKE_START (R287): A die with no strike in progress starts its chosen foreground or background strike. -/
  | strikeStart (ch : Nat)
  /-- SWAGE_END (R296): Script instruction END ends the script with a code or the decode outcome. -/
  | swageEnd (ch code : Nat) (dec : Bool)
  /-- SWAGE_CMD (R296): Script instruction CMD drives one command cycle. -/
  | swageCmd (ch byte : Nat)
  /-- SWAGE_ADDR (R296): Script instruction ADDR drives address cycles. -/
  | swageAddr (ch ncyc src reg pln : Nat)
  /-- SWAGE_DOUT (R296): Script instruction DOUT sends encoded frames or register bytes. -/
  | swageDout (ch src reg cnt pln : Nat) (errs : List (Nat × MErr))
  /-- SWAGE_DIN (R296): Script instruction DIN reads slots to the decoder or bytes into a register. -/
  | swageDin (ch dst reg cnt : Nat) (data : List Nat)
  /-- SWAGE_WAITRDY (R296): Script instruction WAITRDY yields the bus and polls status until ready. -/
  | swageWaitrdy (ch scmd b : Nat)
  /-- SWAGE_STATUS (R296): Script instruction STATUS reads one status into v7. -/
  | swageStatus (ch scmd status : Nat)
  /-- SWAGE_TEST (R296): Script instruction TEST sets the flag F from a register mask. -/
  | swageTest (ch reg mask : Nat) (all : Bool)
  /-- SWAGE_BRANCH (R296): Script instruction BRANCH jumps on a condition of F. -/
  | swageBranch (ch cond target : Nat)
  /-- SWAGE_CALL (R296): Script instruction CALL pushes a return address. -/
  | swageCall (ch target : Nat)
  /-- SWAGE_RET (R296): Script instruction RET pops the return address. -/
  | swageRet (ch : Nat)
  /-- SWAGE_TIMER (R296): Script instruction TIMER sets or cancels the script's timer. -/
  | swageTimer (ch unit count target : Nat)
  /-- STATUS_POLL (R289): A status poll of a script in WAITRDY sees the die ready and the script waits for the bus. -/
  | statusPoll (i status : Nat) (el : Elapse)
  /-- SCRIPT_TIMER_EXPIRY (R297): A script's timer expires, stopping WAITRDY and continuing at TARGET. -/
  | scriptTimerExpiry (i : Nat) (el : Elapse)
  /-- HARD_DECODE (R322): Hard decode of a strike's slots ends and undecoded slots pass to soft decode, retry or LOST. -/
  | hardDecode (i : Nat) (res : List SlotRead)
  /-- SOFT_DECODE (R322): Soft decode of the remaining slots ends. -/
  | softDecode (i : Nat) (res : List Bool)
  /-- READ_RETRY_ROW (R300): One row of the read-retry walk is applied, reread and decoded, and the walk advances or ends. -/
  | readRetryRow (i : Nat)
  /-- STRIKE_OUTCOME (R290): A strike's outcome word is written, band, stripe and die-failure bookkeeping update, and MEDIA waiters are released. -/
  | strikeOutcome (i : Nat)
  /-- PARITY_REBUILD (R354): After the member reads end, a LOST slot is solved from parity or ends LOST or OFFLINE. -/
  | parityRebuild (i : Nat) (reads : List MRead)
  /-- ERASE_SUSPEND (R301): A foreground read on an erasing die triggers suspension of an eligible erase. -/
  | eraseSuspend (die : Nat) (el : Elapse)
  /-- ERASE_RESUME (R301): No read for the die remains or the window expires, and the erase resumes. -/
  | eraseResume (die : Nat) (el : Elapse)
  /-- CHANNEL_RETRAIN (R281): Every RETRAIN minutes a channel holds its strikes and re-runs calibration and training. -/
  | channelRetrain (ch : Nat) (r : Retrain) (el : Elapse)
  /-- HELM_REQUEST_SERVICE (R314): The helm reads a pending request slot and answers it after durable state change. -/
  | helmRequestService
  /-- REQ_OPEN (R315): Request 1 grants the FREE band of a group with the lowest ECOUNT as OPEN. -/
  | reqOpen (t : Nat)
  /-- REQ_CLOSE (R315): Request 2 makes the thread's OPEN band FULL and SHORT. -/
  | reqClose (t : Nat)
  /-- REQ_GC (R315): Request 3 makes a FULL band GC_SOURCE owned by the thread. -/
  | reqGc (t : Nat)
  /-- REQ_RELEASE (R315): Request 4 returns the thread's GC_SOURCE band to FULL, marking rebuild where it applies. -/
  | reqRelease (t : Nat)
  /-- REQ_ERASE (R315): Request 5 makes an empty GC_SOURCE band ERASING. -/
  | reqErase (t : Nat)
  /-- REQ_PATROL (R328): Request 6 names the next page to patrol and its NOTBEFORE time. -/
  | reqPatrol (t : Nat)
  /-- SPARE_ASSIGN (R357): The helm assigns a spare to a DEGRADED group, adding a redirect and starting REBUILDING. -/
  | spareAssign
  /-- DRAM_SCRUB_STEP (R269): Each millisecond the scrubber advances LPMS line positions, checking and correcting written lines. -/
  | dramScrubStep (errs : List (Nat × MErr)) (el : Elapse)
  /-- SRAM_SCRUB (R273): Every 10 s hardware scrubs a quadrant's data SRAM and writes corrections back. -/
  | sramScrub (q corr : Nat) (unc : List Nat) (el : Elapse)
  /-- LEASE_EXPIRY (R430): The ownership lease expires without renewal; drivers go high impedance and OWN_OUT is released. -/
  | leaseExpiry (el : Elapse)
  /-- INTERLOCK_DETECT (R432): OWN_IN is found asserted while this module drives flash and it enters SAFE with cause INTERLOCK. -/
  | interlockDetect
  /-- OWNERSHIP_ACQUIRE (R431): A module samples OWN_IN, asserts OWN_OUT and enables its drivers, or releases and retries after its side's delay. -/
  | ownershipAcquire (in1 in2 : Bool) (el : Elapse)
  /-- OWNERSHIP_RETRY (R431): The retry delay of 5 µs or 25 µs expires and acquisition starts again. -/
  | ownershipRetry (el : Elapse)
  /-- TAKEOVER (R437): OWN_IN is released at an eligible standby, which takes ownership, salvages, walks the journal and enters RUN. -/
  | takeover (take : TakeIn)
  /-- TAKEOVER_WITHHELD (R436): OWN_IN is released at an ineligible standby, which logs, signals vector 4 and stays STANDBY. -/
  | takeoverWithheld
  /-- SALVAGE_END (R440): Salvage ends or its time expires and unarrived frames become lost frames. -/
  | salvageEnd (el : Elapse)
  /-- MAP_SEGMENT_LOAD (R439): A map segment's copy is loaded and its replay records applied, making it current. -/
  | mapSegmentLoad (seg : Nat)
  /-- HB_SEND (R425): Every 50 µs each module sends an HB with mode, JSEQ, JEND and generation ceiling. -/
  | hbSend (el : Elapse)
  /-- PARTNER_ABSENT (R428): No acknowledgement or HB arrives for ACKTMO_US and the partner is declared absent. -/
  | partnerAbsent (noAck : Bool) (el : Elapse)
  /-- PAIR_HB (R425): An HB message from the partner is received. -/
  | pairHb (m jseq jend ceil sth : Nat)
  /-- PAIR_JREC (R425): A mirrored journal record is stored in the mirror ring and acknowledged. -/
  | pairJrec (r : JRec)
  /-- PAIR_ROOT (R425): A mirrored checkpoint root is committed in RSM and acknowledged. -/
  | pairRoot (round : Option Round) (jend : Nat)
  /-- PAIR_SIF (R425): A stripes-in-flight entry change is committed in RSM and acknowledged. -/
  | pairSif (i : Nat) (e : Option Sif)
  /-- PAIR_MEDC (R425): A media change ring record is committed in RSM and acknowledged. -/
  | pairMedc (c : MedChange)
  /-- PAIR_CFG (R425): A configuration change is applied as a local retained write and acknowledged. -/
  | pairCfg (c : CfgChange)
  /-- PAIR_SLOT (R401): A committed minute slot is written into the standby's ring with MIRROR set. -/
  | pairSlot (i : Nat) (x : MinSlot)
  /-- PAIR_KEY (R379): A key object for the partner is checked and applied, then acknowledged or refused. -/
  | pairKey (o : List Byte)
  /-- PAIR_LODE (R454): A lodestar digest arrives and is compared, raising a mismatch when it differs. -/
  | pairLode (i : Nat) (w : List Nat)
  /-- PAIR_SALV (R440): A salvage request is answered with write-buffer frames, or frames arrive at the new active module. -/
  | pairSalv (m : SalvMsg)
  /-- PAIR_SWAP (R443): A swap start or swap done message is received and the swap advances. -/
  | pairSwap (done : Bool) (jseq : Nat) (take : TakeIn)
  /-- PAIR_MBX (R496): A mailbox message or acknowledge arrives over the pair or cascade link. -/
  | pairMbx (pos : Nat) (isAck : Bool) (dst out sender flags stamp : Nat) (body : List Byte)
  /-- PAIR_ACK (R426): A mirror acknowledgement arrives and the waiting record, request or stripe entry commits. -/
  | pairAck (kind n : Nat)
  /-- LODESTAR_RECOMPUTE (R454): Within 50 ms of a change the lodestar is recomputed into CAS_LODE. -/
  | lodestarRecompute
  /-- RESYNC_COMPLETE (R445): The active module has sent all state and PSTATE becomes IN_SYNC. -/
  | resyncComplete
  /-- SELF_TEST_CYCLE (R434): Every 10 minutes an uncascaded standby runs BIST, scrub, loopbacks and an interlock exercise. -/
  | selfTestCycle (qpass : Nat) (dram links ilock : Bool) (el : Elapse)
  /-- SWAP_OVERDUE (R435): More than 30 days since the last swap, vector 4 and an event are raised, daily. -/
  | swapOverdue (el : Elapse)
  /-- SWAP_BUFFER_DRAINED (R443): The write buffer falls to SWWB_MIB and CLOSED is set on the active module. -/
  | swapBufferDrained
  /-- SWAP_DRAIN_TIMEOUT (R443): SWDRAIN_MS passes and commands still in flight are discarded ABORTED_TAKEOVER. -/
  | swapDrainTimeout (el : Elapse)
  /-- CASCADE_PART_RECEIVE (R449): A subordinate receives a command part and runs it in context c. -/
  | cascadePartReceive (c off tot block : Nat)
  /-- CASCADE_READY (R450): All parts of a spanning unit report READY and the master commits the intent. -/
  | cascadeReady (c u pos : Nat) (appended : Bool)
  /-- CASCADE_GO (R450): A position receives GO and appends its held record. -/
  | cascadeGo (c u : Nat)
  /-- CASCADE_ABANDON (R450): A position receives ABANDON and drops its held record. -/
  | cascadeAbandon (c u : Nat) (abort : Bool)
  /-- CASCADE_PART_END (R451): A part ends and, when all have, the master writes one completion. -/
  | cascadePartEnd (c pos off cls detail : Nat) (offset : Option Nat) (result : Nat)
  /-- POSITION_TIMEOUT (R452): A position answers nothing for TMO_MS and its parts complete ABORTED_TAKEOVER. -/
  | positionTimeout (pos : Nat) (taken : Bool) (el : Elapse)
  /-- CASCADE_ADMIN_TIMEOUT (R448): A cascaded admin change gets no answer from every position within 100 ms and completes with an event. -/
  | cascadeAdminTimeout (silent : List Nat) (el : Elapse)
  /-- IMG_QGO (R463): Writing bits of IMG_QGO submits image-store descriptors as QUEUED. -/
  | imgQgo (go : Nat) (helm : Bool) (desc buf : List Byte)
  /-- DESCRIPTOR_START (R464): A queued descriptor's bank frees and it is checked and starts RUNNING. -/
  | descriptorStart (n : Nat)
  /-- DESCRIPTOR_END (R465): A READ, PROGRAM or ERASE descriptor ends and STATUS, STAMP and QDONE are written. -/
  | descriptorEnd (n : Nat)
  /-- DESCRIPTOR_TIMEOUT (R464): A bank does not finish by 1.5 × its maximum and the descriptor ends TIMEOUT. -/
  | descriptorTimeout (n : Nat) (junk : List Byte) (el : Elapse)
  /-- IMG_WP_WRITE (R462): A write to IMG_WP sets sector write-protect bits until reset. -/
  | imgWpWrite (k v : Nat)
  /-- INTAKE_TIMEOUT (R472): 10 s pass without a frame and the open intake ends ABANDONED. -/
  | intakeTimeout (el : Elapse)
  /-- ACTIVATION_NOTICE (R476): A helm activation notice arrives and the partner answers READY or REFUSE. -/
  | activationNotice (mb : Nat)
  /-- ACTIVATION_ANSWER (R476): The partner's answer or its 1 s absence decides whether the pair activation proceeds. -/
  | activationAnswer (el : Elapse)
  /-- ACTIVATED_NOTICE (R476): The activated notice arrives and the new active module restarts for the second half. -/
  | activatedNotice (pos : Nat)
  /-- SVC_STATUS (R484): Service-port instruction 0x05 returns the status word. -/
  | svcStatus
  /-- SVC_WRITE_FRAME (R487): Service-port instruction 0x02 delivers one frame to the receive buffer, where it is checked. -/
  | svcWriteFrame (b : List Byte)
  /-- SVC_READ_FRAME (R483): Service-port instruction 0x0B returns the oldest reply frame and removes it when read whole. -/
  | svcReadFrame (n : Nat)
  /-- CMD (R488): Frame 0x01 carries one command block executed as from the service port, answered RESP. -/
  | cmd
  /-- REG_RD (R489): Frame 0x02 reads register words, answered REG_DATA. -/
  | regRd
  /-- REG_WR (R489): Frame 0x03 writes register words where permitted, answered ACK. -/
  | regWr
  /-- MBX_SEND (R495): Frame 0x04 sends a message to a mailbox as the service port. -/
  | mbxSend
  /-- MBX_RECV (R495): Frame 0x05 takes the message of mailbox 2 or answers EMPTY. -/
  | mbxRecv
  /-- MBX_ACK (R496): Frame 0x06 acknowledges mailbox 2 with a return code. -/
  | mbxAck
  /-- IMG_DATA (R490): Frame 0x07 carries intake stream bytes that are verified and programmed into the staging slot. -/
  | imgData (diffs : List (Nat × Nat))
  /-- IMG_END (R471): Frame 0x08 ends the intake stream and stages the image. -/
  | imgEnd
  /-- MBX_CTL_SEND (R502): MBX_CTL.SEND sends MBX_BODY to a mailbox as host admin software. -/
  | mbxCtlSend (n : Nat)
  /-- MBX_CTL_TAKE (R502): MBX_CTL.TAKE takes the held message of mailbox 1. -/
  | mbxCtlTake (n : Nat)
  /-- MBX_CTL_ACK (R502): MBX_CTL.ACK acknowledges mailbox 1 with CODE. -/
  | mbxCtlAck (n code : Nat)
  /-- TST_START (R504): TST_CTL.START starts a PRBS run on the selected unit or is refused. -/
  | tstStart
  /-- TST_STOP (R505): TST_CTL.STOP ends the run in progress. -/
  | tstStop (bits errs : Nat)
  /-- TEST_RUN_END (R505): DUR_MS elapses, or a mode change, QUENCH or interlock cuts the run short with ABORT. -/
  | testRunEnd (bits errs : Nat) (el : Elapse)
  /-- CHECKER_LOCK_LOST (R506): 64 errors in 128 bits clear LOCK, count RELOCK and reseed the checker. -/
  | checkerLockLost (bits errs : Nat)
  /-- BYPASS (R507): TAP instruction BYPASS. -/
  | bypass
  /-- IDCODE (R507): TAP instruction IDCODE returns 0xB04A_09EB. -/
  | idcode
  /-- SAMPLE_PRELOAD (R507): TAP instruction SAMPLE/PRELOAD. -/
  | samplePreload
  /-- EXTEST (R507): TAP instruction EXTEST holds the core in reset and drives lands, flash only while OWN_IN is released. -/
  | extest (ownIn : Bool)
  /-- EXTEST_PULSE (R507): TAP instruction EXTEST_PULSE for AC-coupled lanes. -/
  | extestPulse
  /-- EXTEST_TRAIN (R507): TAP instruction EXTEST_TRAIN for AC-coupled lanes. -/
  | extestTrain
  /-- CLAMP (R507): TAP instruction CLAMP holds the core in reset. -/
  | clamp
  /-- HIGHZ (R507): TAP instruction HIGHZ holds the core in reset with outputs at high impedance. -/
  | highz
  /-- CHECKER_LOCK (R506): The PRBS checker sees 64 consecutive error-free bits and sets LOCK, from which point errors and bits are counted. -/
  | checkerLock
  /-- POWER_WARNING_RELEASE (R406): VIN rises to the release level or PFAIL_N stays high for 1 ms, so VWARN or PFAIL clears and no power warning holds any longer. -/
  | powerWarningRelease (mv : Nat) (pfHigh : Bool) (el : Elapse)
  /-- PAIR_LINK_DOWN (R425): The pair link is lost, PAIR_LINK.DOWN counts it and unacknowledged messages are held for resending when it returns. -/
  | pairLinkDown (x : LinkFault)
  /-- CASCADE_LINK_DOWN (R446): A cascade port goes down, CAS_STAT.PORTS clears its bit and traffic takes the other way round the ring. -/
  | cascadeLinkDown (n : Nat)
  /-- CASCADE_LINK_UP (R446): A cascade port comes up again, CAS_STAT.PORTS sets its bit and traffic returns to the shorter way. -/
  | cascadeLinkUp (n : Nat) (lcaps : List Nat)
  /-- TRANSLATION_COMPLETION (R101): An ATS translation completion arrives, and the DMA continues or, on no access, sends a page request and its thread goes from WAITING to PARKED with reason PAGEREQ. -/
  | translationCompletion (d : DmaPart) (meta_ : Bool) (x : Xlate)
  /-- ATS_ENABLE (R101): Host software enables or disables ATS on a port, switching DMA between translated and untranslated addresses and resuming page requests stopped after a Response Failure. -/
  | atsEnable (p : Nat) (on : Bool)
  /-- CORRECTABLE_LINK_ERROR (R107): A FEC-corrected flit, a replay or a receiver error on a port is counted in the AER correctable status. -/
  | correctableLinkError (p : Nat)
  /-- TAP_RESET (R507): TRST_N is asserted and the TAP resets, leaving any instruction that held the core die in reset. -/
  | tapReset
  deriving DecidableEq, Repr

end Sys2Proof
end

