-- ==== Sys2Proof/Decode.lean ====
section
/-! DEFINITION. The reading of a command from a word. No row of spec/opcode_table.json gives bits: a command of this block is an
event, not a word. Anvil's own instruction words (R174) are the program store's data, read by the meanings of the Anvil rows. -/
namespace Sys2Proof

/-- The command that a word spells by the table's bits: none, since no row has any. -/
def decodeTableWord (_nbits _w : Nat) : Option Instr := none

end Sys2Proof
end

