-- ==== Sys2Proof/Config.lean ====
section
/-! DEFINITION. Values the spec leaves open and nothing in Lean can evaluate: free values, what manufacture gives each module,
and the outcomes of the standards the spec names without stating their computation. -/
namespace Sys2Proof.Config
open Sys2Proof

/-- SPARE_PCT when HELM_MEDCFG.SPR is 0 or no die is fitted: R332 divides by zero there (DESIGN CHOICE, log 20). -/
opaque sparePct : Nat → Nat

/-- WEAR_PCT for this highest ECOUNT when HELM_MEDCFG.ENDUR is 0: R332 divides by zero there (DESIGN CHOICE, log 20). -/
opaque wearPct : Nat → Nat

/-- ECOUNT_AVG when every band is WITHDRAWN or there is none: R332 states no mean of no bands (DESIGN CHOICE, log 20). -/
opaque ecountAvg : Nat → Nat

/-- Lowest (even argument) and highest (odd) reading of a temperature sensor before any was made: R335 states none (DESIGN CHOICE,
log 20). -/
opaque tempNone : Nat → Int

/-- PWR_QBUD.BUD_MS for an Rf of 0, or for a budget past the field's 16 bits: R413 states no value (DESIGN CHOICE, log 20). -/
opaque qbudMs : Nat → Nat

/-- Byte of the manufacturing area of the image store, sectors 0 to 255: the identity certificate and the sealed private keys,
which differ from module to module (R461, R479; DESIGN CHOICE, log 33). -/
opaque mfgByte : Nat → Byte

/-- What a sector byte holds after a PROGRAM or an ERASE that a power loss or a reset cut short, by cut and offset: the spec states
no value (DESIGN CHOICE, log 119). -/
opaque cutByte : Nat → Nat → Byte

/-- SHA-384 of the ROM stage (R480), and of the Vurnaholt key pair fixed in the ROM (R468): per revision, not in the spec
(DESIGN CHOICE, log 33). -/
opaque romDigest : List Byte
opaque vurnKidRsa : List Byte
opaque vurnKidSlh : List Byte

/-- RSASSA-PSS and SLH-DSA-SHA2-192s verification (R468): public key, message, signature (DESIGN CHOICE, log 34). -/
opaque rsaVerify : List Byte → List Byte → List Byte → Bool
opaque slhVerify : List Byte → List Byte → List Byte → Bool

/-- The two signatures under the module's identity keys, 384 and 16,224 bytes (R480; DESIGN CHOICE, log 34). -/
opaque identRsaSign : List Byte → List Byte
opaque identSlhSign : List Byte → List Byte

/-- The private exponent of the module's key-transport key, created at manufacture (R378; DESIGN CHOICE, log 34). -/
opaque ktkPrivate : Nat

end Sys2Proof.Config
end

