-- ==== Sys2Proof/Machine/Maps.lean ====
section
/-! DEFINITION. Sparse maps in one canonical form (sorted by key, no entry equal to the default),
byte memories over them, and the little-endian helpers that records and frames use (R7). -/
namespace Sys2Proof.Machine

/-- A sparse map from numbers: what an unlisted key reads as is named at each read. -/
abbrev NMap (α : Type) := List (Nat × α)

/-- The entry of key `i`, or `d` where none is listed. -/
def mget {α : Type} (d : α) : NMap α → Nat → α
  | [], _ => d
  | (k, v) :: t, i => if i = k then v else mget d t i

/-- Put an entry in its sorted place, replacing one of the same key. -/
def mput {α : Type} : NMap α → Nat → α → NMap α
  | [], i, x => [(i, x)]
  | (k, v) :: t, i, x =>
    if i < k then (i, x) :: (k, v) :: t
    else if i = k then (i, x) :: t
    else (k, v) :: mput t i x

/-- Remove the entry of key `i`. -/
def mdel {α : Type} : NMap α → Nat → NMap α
  | [], _ => []
  | (k, v) :: t, i => if i = k then mdel t i else (k, v) :: mdel t i

/-- Write key `i`; writing the default removes the entry, so equal maps are equal lists. -/
def mset {α : Type} [DecidableEq α] (d : α) (m : NMap α) (i : Nat) (x : α) : NMap α :=
  if x = d then mdel m i else mput m i x

/-- The canonical form: keys strictly rising, no entry equal to the default. -/
abbrev MapWf {α : Type} (d : α) (m : NMap α) : Prop :=
  (m.map Prod.fst).Pairwise (· < ·) ∧ ∀ e ∈ m, e.2 ≠ d

/-- The number that `n` little-endian bytes spell (R7). -/
def leNat : List Byte → Nat
  | [] => 0
  | b :: t => b.toNat + 256 * leNat t

/-- `n` little-endian bytes of a number. -/
def leBytes : Nat → Nat → List Byte
  | 0, _ => []
  | n + 1, v => BitVec.ofNat 8 v :: leBytes n (v / 256)

/-- Bits `[lo + w - 1 : lo]` of a number. -/
def bits (v lo w : Nat) : Nat := v / 2 ^ lo % 2 ^ w

/-- One bit of a number. -/
def bit (v i : Nat) : Bool := v / 2 ^ i % 2 == 1

/-- `v` with bits `[lo + w - 1 : lo]` replaced by those of `x`. -/
def putBits (v lo w x : Nat) : Nat :=
  v - bits v lo w * 2 ^ lo + x % 2 ^ w * 2 ^ lo

/-- A Bool as the bit it is shown as. -/
def b2n (b : Bool) : Nat := if b then 1 else 0

/-- A saturating count in `w` bits. -/
def satAdd (w v d : Nat) : Nat := min (v + d) (2 ^ w - 1)

/-- `n` bytes of a byte map from address `a`; unlisted bytes read zero. -/
def rdBytes (m : NMap Byte) (a : Nat) : Nat → List Byte
  | 0 => []
  | n + 1 => mget 0 m a :: rdBytes m (a + 1) n

/-- Store bytes from address `a` on. -/
def wrBytes (m : NMap Byte) (a : Nat) : List Byte → NMap Byte
  | [] => m
  | b :: t => wrBytes (mset 0 m a b) (a + 1) t

/-- `n` bytes read as one little-endian number. -/
def rdLe (m : NMap Byte) (a n : Nat) : Nat := leNat (rdBytes m a n)

/-- One number stored in `n` little-endian bytes. -/
def wrLe (m : NMap Byte) (a n v : Nat) : NMap Byte := wrBytes m a (leBytes n v)

/-- Zero `n` bytes from `a` (as removal of every entry of the range). -/
def clrBytes (m : NMap Byte) (a n : Nat) : NMap Byte :=
  m.filter fun e => !(decide (a ≤ e.1) && decide (e.1 < a + n))

/-- Insert into a sorted set of numbers. -/
def sins (i : Nat) : List Nat → List Nat
  | [] => [i]
  | k :: t => if i < k then i :: k :: t else if i = k then k :: t else k :: sins i t

/-- Remove from a set of numbers. -/
def srem (i : Nat) (l : List Nat) : List Nat := l.filter (· != i)

/-- Ceiling division. -/
def ceilDiv (a b : Nat) : Nat := (a + b - 1) / b

/-- The first `n` elements of a list, padded with `d` to length `n`. -/
def padTo {α : Type} (d : α) : Nat → List α → List α
  | 0, _ => []
  | n + 1, [] => d :: padTo d n []
  | n + 1, x :: t => x :: padTo d n t

end Sys2Proof.Machine
end

