-- ==== Sys2Proof/Machine/Codes.lean ====
section
/-! DEFINITION. Check codes and ciphers as functions of bytes: CRC-32 and CRC-64 (R386, R485), AES-256, XTS, GHASH and GMAC
(R382, R383). -/
namespace Sys2Proof.Machine

/-! ### CRCs -/

/-- One byte into a reflected CRC: `poly` is the reflected polynomial. -/
def crcRefl (poly c : Nat) (b : Byte) : Nat :=
  (List.range 8).foldl (fun c _ => if c % 2 = 1 then (c / 2) ^^^ poly else c / 2) (c ^^^ b.toNat)

/-- CRC-64 of R386: polynomial 0xAD93_D235_94C9_3659 reflected, initial value and final exclusive OR all ones. -/
def crc64 (l : List Byte) : Nat := l.foldl (crcRefl 0x9A6C9329AC4BC9B5) (2 ^ 64 - 1) ^^^ (2 ^ 64 - 1)

/-- CRC-32 (IEEE 802.3) of R485. -/
def crc32 (l : List Byte) : Nat := l.foldl (crcRefl 0xEDB88320) (2 ^ 32 - 1) ^^^ (2 ^ 32 - 1)

/-! ### AES-256 -/

/-- Multiplication by x in the field of AES. -/
def aesX (a : Nat) : Nat := if 128 ≤ a then (2 * a - 256) ^^^ 0x1B else 2 * a

/-- Multiplication in the field of AES. -/
def aesMul (a b : Nat) : Nat :=
  ((List.range 8).foldl (fun (r : Nat × Nat) i => (if bit b i then r.1 ^^^ r.2 else r.1, aesX r.2)) (0, a)).1

/-- The inverse as the 254th power; 0 of 0. -/
def aesInv (a : Nat) : Nat :=
  let sq := fun x => aesMul x x
  let a2 := sq a
  let a4 := sq a2
  let a8 := sq a4
  let a16 := sq a8
  let a32 := sq a16
  let a64 := sq a32
  let a128 := sq a64
  aesMul (aesMul (aesMul a2 a4) (aesMul a8 a16)) (aesMul (aesMul a32 a64) a128)

/-- An 8-bit rotation to the left. -/
def rot8 (a n : Nat) : Nat := (a * 2 ^ n) % 256 + a / 2 ^ (8 - n)

/-- The S-box and its inverse. -/
def aesS (a : Nat) : Nat :=
  let b := aesInv a
  b ^^^ rot8 b 1 ^^^ rot8 b 2 ^^^ rot8 b 3 ^^^ rot8 b 4 ^^^ 0x63

def aesSInv (a : Nat) : Nat := aesInv (rot8 a 1 ^^^ rot8 a 3 ^^^ rot8 a 6 ^^^ 0x05)

def xorL (a b : List Nat) : List Nat := List.zipWith (· ^^^ ·) a b

/-- The next key word from the words so far, newest first (FIPS 197, eight key words). -/
def aesWord (ws : List (List Nat)) (i rcon : Nat) : List Nat :=
  let t := ws.headD [0, 0, 0, 0]
  let old := ws.getD 7 [0, 0, 0, 0]
  let t' := if i % 8 = 0 then xorL ((t.drop 1 ++ t.take 1).map aesS) [rcon, 0, 0, 0]
    else if i % 8 = 4 then t.map aesS else t
  xorL old t'

/-- The 60 words of the key schedule, in order. -/
def aesKeys (key : List Nat) : List (List Nat) :=
  let w0 := (List.range 8).map fun i => (key.drop (4 * i)).take 4
  ((List.range 52).foldl (fun (st : List (List Nat) × Nat) j =>
    (aesWord st.1 (j + 8) st.2 :: st.1, if (j + 8) % 8 = 0 then aesX st.2 else st.2)) (w0.reverse, 1)).1.reverse

def aesRoundKey (ks : List (List Nat)) (r : Nat) : List Nat := ((ks.drop (4 * r)).take 4).flatten

/-- Row shifts on a block of 16 bytes in column order. -/
def aesShift (b : List Nat) : List Nat := (List.range 16).map fun i => b.getD ((i / 4 + i % 4) % 4 * 4 + i % 4) 0
def aesUnshift (b : List Nat) : List Nat := (List.range 16).map fun i => b.getD ((i / 4 + 4 - i % 4) % 4 * 4 + i % 4) 0

/-- Columns multiplied by a circulant of coefficients. -/
def aesMix (m : List Nat) (b : List Nat) : List Nat :=
  (List.range 16).map fun i => (List.range 4).foldl (fun a k =>
    a ^^^ aesMul (m.getD ((k + 4 - i % 4) % 4) 0) (b.getD (i / 4 * 4 + k) 0)) 0

/-- AES-256 encryption of a block under a schedule. -/
def aesEnc (ks : List (List Nat)) (b : List Nat) : List Nat :=
  let b := (List.range 13).foldl (fun b r =>
    xorL (aesMix [2, 3, 1, 1] (aesShift (b.map aesS))) (aesRoundKey ks (r + 1))) (xorL b (aesRoundKey ks 0))
  xorL (aesShift (b.map aesS)) (aesRoundKey ks 14)

/-- AES-256 decryption. -/
def aesDec (ks : List (List Nat)) (b : List Nat) : List Nat :=
  let b := (List.range 13).foldl (fun b r =>
    aesMix [14, 11, 13, 9] (xorL ((aesUnshift b).map aesSInv) (aesRoundKey ks (13 - r)))) (xorL b (aesRoundKey ks 14))
  xorL ((aesUnshift b).map aesSInv) (aesRoundKey ks 0)

def toNats (l : List Byte) : List Nat := l.map fun b => b.toNat
def toBytes (l : List Nat) : List Byte := l.map fun n => BitVec.ofNat 8 n

/-! ### XTS (R382) -/

/-- The next tweak: multiplication by α (IEEE 1619), on the little-endian number of 16 bytes. -/
def xtsNext (t : Nat) : Nat := (2 * t) % 2 ^ 128 ^^^ (if 2 ^ 127 ≤ t then 0x87 else 0)

/-- XTS over whole blocks with tweak value `i`. -/
def xts (f : List (List Nat) → List Nat → List Nat) (k1 k2 : List Byte) (i : Nat) (d : List Byte) : List Byte :=
  let ks := aesKeys (toNats k1)
  let t0 := leNat (toBytes (aesEnc (aesKeys (toNats k2)) (toNats (leBytes 16 i))))
  ((List.range (d.length / 16)).foldl (fun (st : List Byte × Nat) j =>
    let tw := toNats (leBytes 16 st.2)
    let p := toNats ((d.drop (16 * j)).take 16)
    (st.1 ++ toBytes (xorL (f ks (xorL p tw)) tw), xtsNext st.2)) ([], t0)).1

def xtsEnc := xts aesEnc
def xtsDec := xts aesDec

/-! ### GMAC (R383) -/

/-- A block as the big-endian number whose top bit is the first (SP 800-38D). -/
def beNat (l : List Byte) : Nat := l.foldl (fun a b => 256 * a + b.toNat) 0
def beBytes (n v : Nat) : List Byte := (leBytes n v).reverse

/-- Multiplication in the field of GHASH. -/
def ghMul (x y : Nat) : Nat :=
  ((List.range 128).foldl (fun (zv : Nat × Nat) i =>
    (if bit x (127 - i) then zv.1 ^^^ zv.2 else zv.1,
     if zv.2 % 2 = 1 then (zv.2 / 2) ^^^ (0xE1 * 2 ^ 120) else zv.2 / 2)) (0, y)).1

/-- GHASH over whole blocks. -/
def ghash (h : Nat) (d : List Byte) : Nat :=
  (List.range (d.length / 16)).foldl (fun y j => ghMul (y ^^^ beNat ((d.drop (16 * j)).take 16)) h) 0

/-- GMAC under `kt` with a 16-byte IV over additional data of whole blocks. -/
def gmac (kt iv aad : List Byte) : List Byte :=
  let ks := aesKeys (toNats kt)
  let h := beNat (toBytes (aesEnc ks (List.replicate 16 0)))
  let j0 := ghash h (iv ++ beBytes 16 (8 * iv.length))
  let y := ghash h (aad ++ beBytes 8 (8 * aad.length) ++ beBytes 8 0)
  beBytes 16 (y ^^^ beNat (toBytes (aesEnc ks (toNats (beBytes 16 j0)))))

end Sys2Proof.Machine
end

