-- ==== Sys2Proof/Machine/Regs.lean ====
section
/-! DEFINITION. Every register field the spec gives the machine a place for, one definition per field
(key: 64 × register offset + lowest bit; width; value where nothing was written since reset, or the factory value of an
RSM field; whether the field lives in the settings record), and the table of the register words that host software and
the service port address (R10, R12, R92). Windows and derived fields are marked as views: they are computed, not stored. -/
namespace Sys2Proof.Machine

/-- A stored register field. -/
structure Fld where
  key : Nat
  w : Nat
  dflt : Nat
  ret : Bool
  deriving DecidableEq, Repr

/-- The access codes of R10. -/
inductive Acc
  | rw | ro | wo | w1c | w1s | rc
  deriving DecidableEq, Repr

/-- The reset or factory value of a field of a register table: a number, or one that depends on the index (R105, R502, R503). -/
inductive Dflt
  | num (v : Nat)
  | vec
  | rcv
  | logSel
  deriving DecidableEq, Repr

/-- One row of a register table: place, access code, value at reset, whether retained, whether computed, and the values
that are no reserved encoding (R9): from `vlo` to `vhi` in steps of `vst`. -/
structure FDef where
  lo : Nat
  w : Nat
  acc : Acc
  dflt : Dflt
  ret : Bool
  view : Bool
  vlo : Nat
  vhi : Nat
  vst : Nat
  deriving DecidableEq, Repr

/-- One register, or an array of them: `cntN` blocks `strN` bytes apart (channel, slice, mailbox, port), `cntK` words `strK` apart. -/
structure RDef where
  base : Nat
  cntN : Nat
  strN : Nat
  cntK : Nat
  strK : Nat
  fields : List FDef
  deriving DecidableEq, Repr

/-- Factory values of LOG_SEL.OFFSET by capture slot (R503). -/
def logSelFactory : Nat → Nat
  | 0 => 0x01000000
  | 1 => 0x01000008
  | 2 => 0x01010018
  | 3 => 0x010C0008
  | _ => 0

/-- The value of a default for block `n`, index `k`. -/
def Dflt.val : Dflt → Nat → Nat → Nat
  | .num v, _, _ => v
  | .vec, _, k => 16 + k % 2032
  | .rcv, n, _ => 4096 + n
  | .logSel, _, k => logSelFactory k


/-- CHR_CTL.TICK_EN (R58). -/
def CHR_CTL_TICK_EN : Fld := ⟨0x01010000 * 64 + 0, 1, 1, true⟩
/-- CHR_CTL.TICK_EDGE (R58). -/
def CHR_CTL_TICK_EDGE : Fld := ⟨0x01010000 * 64 + 1, 1, 0, true⟩
/-- CHR_TICK_PER.PERIOD_US (R58). -/
def CHR_TICK_PER_PERIOD_US : Fld := ⟨0x01010008 * 64 + 0, 20, 1000000, true⟩
/-- CHR_STAT.DR (R58). -/
def CHR_STAT_DR : Fld := ⟨0x01010018 * 64 + 0, 1, 0, false⟩
/-- CHR_STAT.SLEW (R58). -/
def CHR_STAT_SLEW : Fld := ⟨0x01010018 * 64 + 1, 1, 0, false⟩
/-- CHR_STAT.UNSET (R58). -/
def CHR_STAT_UNSET : Fld := ⟨0x01010018 * 64 + 2, 1, 1, false⟩
/-- CHR_STAT.LATE (R58). -/
def CHR_STAT_LATE : Fld := ⟨0x01010018 * 64 + 3, 1, 0, false⟩
/-- CHR_STAT.GLITCH (R58). -/
def CHR_STAT_GLITCH : Fld := ⟨0x01010018 * 64 + 4, 1, 0, false⟩
/-- CHR_STAT.DR_SEEN (R58). -/
def CHR_STAT_DR_SEEN : Fld := ⟨0x01010018 * 64 + 5, 1, 0, false⟩
/-- CHR_ERR.LAST_ERR_NS (R58). -/
def CHR_ERR_LAST_ERR_NS : Fld := ⟨0x01010020 * 64 + 0, 32, 0, false⟩
/-- CHR_GLITCH_CNT.COUNT (R58). -/
def CHR_GLITCH_CNT_COUNT : Fld := ⟨0x01010028 * 64 + 0, 32, 0, false⟩
/-- CHR_WATCH.PERIOD_MS (R58). -/
def CHR_WATCH_PERIOD_MS : Fld := ⟨0x01010030 * 64 + 0, 10, 100, true⟩
/-- CHR_WSHARE.BASE (R58). -/
def CHR_WSHARE_BASE : Fld := ⟨0x01010038 * 64 + 0, 8, 32, true⟩
/-- CHR_WSHARE.OVERLAY (R58). -/
def CHR_WSHARE_OVERLAY : Fld := ⟨0x01010038 * 64 + 8, 8, 128, true⟩
/-- CHR_WSHARE.SPARE (R58). -/
def CHR_WSHARE_SPARE : Fld := ⟨0x01010038 * 64 + 16, 8, 160, true⟩
/-- CHR_WSHARE.REBUILD (R58). -/
def CHR_WSHARE_REBUILD : Fld := ⟨0x01010038 * 64 + 24, 8, 96, true⟩
/-- CHR_WSHARE.CAP (R58). -/
def CHR_WSHARE_CAP : Fld := ⟨0x01010038 * 64 + 32, 8, 192, true⟩
/-- CHR_SHARE_NOW.SHARE (R58). -/
def CHR_SHARE_NOW_SHARE : Fld := ⟨0x01010040 * 64 + 0, 8, 0, false⟩
/-- CHR_SHARE_NOW.WATCH_SEQ (R58). -/
def CHR_SHARE_NOW_WATCH_SEQ : Fld := ⟨0x01010040 * 64 + 32, 32, 0, false⟩
/-- CHR_ALM_IDX.INDEX (R58). -/
def CHR_ALM_IDX_INDEX : Fld := ⟨0x01010100 * 64 + 0, 8, 0, false⟩
/-- HELM_MODE.CUR (R85). -/
def HELM_MODE_CUR : Fld := ⟨0x01000000 * 64 + 0, 4, 1, false⟩
/-- HELM_MODE.PREV (R85). -/
def HELM_MODE_PREV : Fld := ⟨0x01000000 * 64 + 4, 4, 0, false⟩
/-- HELM_MODE.CHANGING (R85). -/
def HELM_MODE_CHANGING : Fld := ⟨0x01000000 * 64 + 8, 1, 0, false⟩
/-- HELM_MODE.SINCE (R85). -/
def HELM_MODE_SINCE : Fld := ⟨0x01000000 * 64 + 32, 32, 0, false⟩
/-- HELM_SAFE_CAUSE.CAUSE (R85). -/
def HELM_SAFE_CAUSE_CAUSE : Fld := ⟨0x01000008 * 64 + 0, 8, 0, true⟩
/-- HELM_SAFE_CAUSE.MORE (R85). -/
def HELM_SAFE_CAUSE_MORE : Fld := ⟨0x01000008 * 64 + 8, 9, 0, true⟩
/-- HELM_SAFE_CAUSE.UNFLUSHED (R85). -/
def HELM_SAFE_CAUSE_UNFLUSHED : Fld := ⟨0x01000008 * 64 + 17, 1, 0, true⟩
/-- HELM_SAFE_CAUSE.HELD (R85). -/
def HELM_SAFE_CAUSE_HELD : Fld := ⟨0x01000008 * 64 + 18, 1, 0, false⟩
/-- HELM_KINDLE.STEP (R85). -/
def HELM_KINDLE_STEP : Fld := ⟨0x01000010 * 64 + 0, 4, 1, false⟩
/-- HELM_KINDLE.SLOT (R85). -/
def HELM_KINDLE_SLOT : Fld := ⟨0x01000010 * 64 + 4, 1, 0, false⟩
/-- HELM_KINDLE.FACTORY (R85). -/
def HELM_KINDLE_FACTORY : Fld := ⟨0x01000010 * 64 + 5, 1, 0, false⟩
/-- HELM_KINDLE.COPIED (R85). -/
def HELM_KINDLE_COPIED : Fld := ⟨0x01000010 * 64 + 6, 1, 0, false⟩
/-- HELM_KINDLE.ROLE (R85). -/
def HELM_KINDLE_ROLE : Fld := ⟨0x01000010 * 64 + 7, 1, 0, false⟩
/-- HELM_ADMIN.SRC (R85). -/
def HELM_ADMIN_SRC : Fld := ⟨0x01000018 * 64 + 0, 1, 0, true⟩
/-- HELM_ADMIN.CTX (R85). -/
def HELM_ADMIN_CTX : Fld := ⟨0x01000018 * 64 + 4, 12, 0, true⟩
/-- HELM_RESET_CAUSE.POWER (R85). -/
def HELM_RESET_CAUSE_POWER : Fld := ⟨0x01000020 * 64 + 0, 1, 0, false⟩
/-- HELM_RESET_CAUSE.PIN (R85). -/
def HELM_RESET_CAUSE_PIN : Fld := ⟨0x01000020 * 64 + 1, 1, 0, false⟩
/-- HELM_RESET_CAUSE.RESTART (R85). -/
def HELM_RESET_CAUSE_RESTART : Fld := ⟨0x01000020 * 64 + 2, 1, 0, false⟩
/-- HELM_RESET_CAUSE.ACTIVATE (R85). -/
def HELM_RESET_CAUSE_ACTIVATE : Fld := ⟨0x01000020 * 64 + 3, 1, 0, false⟩
/-- HELM_RESET_CAUSE.WIPE (R85). -/
def HELM_RESET_CAUSE_WIPE : Fld := ⟨0x01000020 * 64 + 4, 1, 0, false⟩
/-- HELM_RESET_CAUSE.BROWNOUT (R85). -/
def HELM_RESET_CAUSE_BROWNOUT : Fld := ⟨0x01000020 * 64 + 5, 1, 0, false⟩
/-- VECMAP.VEC (R105). -/
def VECMAP_VEC (k : Nat) : Fld := ⟨(0x02010000 + 0x2 * k) * 64 + 0, 11, 16 + k % 2032, true⟩
/-- VECMAP.EN (R105). -/
def VECMAP_EN (k : Nat) : Fld := ⟨(0x02010000 + 0x2 * k) * 64 + 15, 1, 1, true⟩
/-- HLV_STAT.RATE (R108). -/
def HLV_STAT_RATE (n : Nat) : Fld := ⟨(0x10000010 + 0x1000 * n) * 64 + 0, 2, 0, false⟩
/-- HLV_STAT.WIDTH (R108). -/
def HLV_STAT_WIDTH (n : Nat) : Fld := ⟨(0x10000010 + 0x1000 * n) * 64 + 2, 5, 0, false⟩
/-- HLV_STAT.FLIT (R108). -/
def HLV_STAT_FLIT (n : Nat) : Fld := ⟨(0x10000010 + 0x1000 * n) * 64 + 7, 1, 0, false⟩
/-- HLV_STAT.CFG_ONLY (R108). -/
def HLV_STAT_CFG_ONLY (n : Nat) : Fld := ⟨(0x10000010 + 0x1000 * n) * 64 + 8, 1, 0, false⟩
/-- HLV_STAT.L0P_EN (R108). -/
def HLV_STAT_L0P_EN (n : Nat) : Fld := ⟨(0x10000010 + 0x1000 * n) * 64 + 9, 1, 0, false⟩
/-- HLV_STAT.ATS_EN (R108). -/
def HLV_STAT_ATS_EN (n : Nat) : Fld := ⟨(0x10000010 + 0x1000 * n) * 64 + 10, 1, 0, false⟩
/-- HLV_REFUSED.COUNT (R108). -/
def HLV_REFUSED_COUNT (n : Nat) : Fld := ⟨(0x10000014 + 0x1000 * n) * 64 + 0, 32, 0, false⟩
/-- HLV_MALFORMED.COUNT (R108). -/
def HLV_MALFORMED_COUNT (n : Nat) : Fld := ⟨(0x10000018 + 0x1000 * n) * 64 + 0, 32, 0, false⟩
/-- HLV_DOWN.COUNT (R108). -/
def HLV_DOWN_COUNT (n : Nat) : Fld := ⟨(0x1000001C + 0x1000 * n) * 64 + 0, 32, 0, false⟩
/-- ANV_SEL.THREAD (R170). -/
def ANV_SEL_THREAD : Fld := ⟨0x01110000 * 64 + 0, 13, 0, false⟩
/-- ANV_QSTAT.INTSLOTS (R170). -/
def ANV_QSTAT_INTSLOTS (k : Nat) : Fld := ⟨(0x01110040 + 0x8 * k) * 64 + 56, 7, 64, false⟩
/-- ANV_TMO.WAIT_MS (R170). -/
def ANV_TMO_WAIT_MS : Fld := ⟨0x01110060 * 64 + 0, 16, 500, true⟩
/-- ANV_TMO.LOCK_MS (R170). -/
def ANV_TMO_LOCK_MS : Fld := ⟨0x01110060 * 64 + 16, 16, 250, true⟩
/-- ANV_TMO.QUANTUM (R170). -/
def ANV_TMO_QUANTUM : Fld := ⟨0x01110060 * 64 + 32, 16, 64, true⟩
/-- ANV_TMO.RUNLIM (R170). -/
def ANV_TMO_RUNLIM : Fld := ⟨0x01110060 * 64 + 48, 8, 16, true⟩
/-- ANV_FCNT.DATA (R170). -/
def ANV_FCNT_DATA : Fld := ⟨0x01110068 * 64 + 0, 16, 0, false⟩
/-- ANV_FCNT.PROGRAM (R170). -/
def ANV_FCNT_PROGRAM : Fld := ⟨0x01110068 * 64 + 16, 16, 0, false⟩
/-- ANV_FCNT.ACCESS (R170). -/
def ANV_FCNT_ACCESS : Fld := ⟨0x01110068 * 64 + 32, 16, 0, false⟩
/-- ANV_FCNT.TIMEOUT (R170). -/
def ANV_FCNT_TIMEOUT : Fld := ⟨0x01110068 * 64 + 48, 16, 0, false⟩
/-- ANV_ROLE_SUSP.SUSP (R170). -/
def ANV_ROLE_SUSP_SUSP : Fld := ⟨0x01110070 * 64 + 1, 8, 0, true⟩
/-- ANV_ISSUE_H.COUNT (R170). -/
def ANV_ISSUE_H_COUNT (k : Nat) : Fld := ⟨(0x01110080 + 0x10 * k) * 64 + 0, 64, 0, false⟩
/-- ANV_ISSUE_I.COUNT (R170). -/
def ANV_ISSUE_I_COUNT (k : Nat) : Fld := ⟨(0x01110088 + 0x10 * k) * 64 + 0, 64, 0, false⟩
/-- MAP_LCAP.BILLETS (R234). -/
def MAP_LCAP_BILLETS : Fld := ⟨0x01040000 * 64 + 0, 32, 0, false⟩
/-- MAP_OP.OP (R234). -/
def MAP_OP_OP : Fld := ⟨0x01040008 * 64 + 0, 8, 24, true⟩
/-- MAP_GEOM.PLANES (R234). -/
def MAP_GEOM_PLANES : Fld := ⟨0x01040010 * 64 + 0, 3, 0, false⟩
/-- MAP_GEOM.PAGES (R234). -/
def MAP_GEOM_PAGES : Fld := ⟨0x01040010 * 64 + 3, 12, 0, false⟩
/-- MAP_GEOM.EBLKS (R234). -/
def MAP_GEOM_EBLKS : Fld := ⟨0x01040010 * 64 + 15, 14, 0, false⟩
/-- MAP_TEMPER.FINE_THR (R234). -/
def MAP_TEMPER_FINE_THR : Fld := ⟨0x01040018 * 64 + 0, 9, 64, true⟩
/-- MAP_TEMPER.OVL_HI (R234). -/
def MAP_TEMPER_OVL_HI : Fld := ⟨0x01040018 * 64 + 16, 8, 192, true⟩
/-- MAP_TEMPER.OVL_LO (R234). -/
def MAP_TEMPER_OVL_LO : Fld := ⟨0x01040018 * 64 + 24, 8, 160, true⟩
/-- MAP_OVL.CHUNKS (R234). -/
def MAP_OVL_CHUNKS : Fld := ⟨0x01040020 * 64 + 0, 29, 0, false⟩
/-- MAP_OVL.OVER (R234). -/
def MAP_OVL_OVER : Fld := ⟨0x01040020 * 64 + 29, 1, 0, false⟩
/-- MAP_OVL.GROUPS (R234). -/
def MAP_OVL_GROUPS : Fld := ⟨0x01040020 * 64 + 32, 25, 0, false⟩
/-- MAP_OVL_WAIT.COUNT (R234). -/
def MAP_OVL_WAIT_COUNT : Fld := ⟨0x01040028 * 64 + 0, 32, 0, false⟩
/-- MAP_JSEQ.LAST (R234). -/
def MAP_JSEQ_LAST : Fld := ⟨0x01040030 * 64 + 0, 64, 0, false⟩
/-- MAP_JSTAT.TAIL_KIB (R234). -/
def MAP_JSTAT_TAIL_KIB : Fld := ⟨0x01040038 * 64 + 0, 17, 0, false⟩
/-- MAP_JSTAT.SINCE_MIB (R234). -/
def MAP_JSTAT_SINCE_MIB : Fld := ⟨0x01040038 * 64 + 32, 31, 0, false⟩
/-- MAP_JSTAT.OVERLIM (R234). -/
def MAP_JSTAT_OVERLIM : Fld := ⟨0x01040038 * 64 + 63, 1, 0, false⟩
/-- MAP_JCTL.JLIM_GIB (R234). -/
def MAP_JCTL_JLIM_GIB : Fld := ⟨0x01040040 * 64 + 0, 4, 2, true⟩
/-- MAP_CKPT.ROUNDS (R234). -/
def MAP_CKPT_ROUNDS : Fld := ⟨0x01040048 * 64 + 0, 32, 0, false⟩
/-- MAP_CKPT.ACTIVE (R234). -/
def MAP_CKPT_ACTIVE : Fld := ⟨0x01040048 * 64 + 32, 1, 0, false⟩
/-- MAP_CKPT.PREV_USED (R234). -/
def MAP_CKPT_PREV_USED : Fld := ⟨0x01040048 * 64 + 33, 1, 0, false⟩
/-- MAP_CK_JSEQ.JSTART (R234). -/
def MAP_CK_JSEQ_JSTART : Fld := ⟨0x01040050 * 64 + 0, 64, 0, true⟩
/-- MAP_VOL_IDX.VOLUME (R234). -/
def MAP_VOL_IDX_VOLUME : Fld := ⟨0x01040100 * 64 + 0, 13, 0, false⟩
/-- MC_CTL.EN (R253). -/
def MC_CTL_EN (n : Nat) : Fld := ⟨(0x01050000 + 0x1000 * n) * 64 + 0, 1, 1, true⟩
/-- MC_CTL.ISTREAM (R253). -/
def MC_CTL_ISTREAM (n : Nat) : Fld := ⟨(0x01050000 + 0x1000 * n) * 64 + 1, 1, 1, true⟩
/-- MC_CTL.PF_EN (R253). -/
def MC_CTL_PF_EN (n : Nat) : Fld := ⟨(0x01050000 + 0x1000 * n) * 64 + 2, 1, 1, true⟩
/-- MC_STAT.DRAINED (R253). -/
def MC_STAT_DRAINED (n : Nat) : Fld := ⟨(0x01050008 + 0x1000 * n) * 64 + 0, 1, 0, false⟩
/-- MC_STAT.FLOOR (R253). -/
def MC_STAT_FLOOR (n : Nat) : Fld := ⟨(0x01050008 + 0x1000 * n) * 64 + 1, 1, 0, false⟩
/-- MC_SP.SPWAYS (R253). -/
def MC_SP_SPWAYS (n : Nat) : Fld := ⟨(0x01050010 + 0x1000 * n) * 64 + 0, 4, 0, true⟩
/-- MC_SP.STEPS (R253). -/
def MC_SP_STEPS (n : Nat) : Fld := ⟨(0x01050010 + 0x1000 * n) * 64 + 8, 4, 0, false⟩
/-- MC_SP.SHORT (R253). -/
def MC_SP_SHORT (n : Nat) : Fld := ⟨(0x01050010 + 0x1000 * n) * 64 + 12, 1, 0, false⟩
/-- MC_SP.WAYS (R253). -/
def MC_SP_WAYS (n : Nat) : Fld := ⟨(0x01050010 + 0x1000 * n) * 64 + 16, 16, 0, false⟩
/-- MC_WAYDIS.DIS (R253). -/
def MC_WAYDIS_DIS (n : Nat) : Fld := ⟨(0x01050018 + 0x1000 * n) * 64 + 0, 16, 0, true⟩
/-- MC_ERRTHR.THR (R253). -/
def MC_ERRTHR_THR (n : Nat) : Fld := ⟨(0x01050020 + 0x1000 * n) * 64 + 0, 8, 16, true⟩
/-- MC_PF.DEPTH (R253). -/
def MC_PF_DEPTH (n : Nat) : Fld := ⟨(0x01050028 + 0x1000 * n) * 64 + 0, 4, 2, true⟩
/-- MC_PF.CONF (R253). -/
def MC_PF_CONF (n : Nat) : Fld := ⟨(0x01050028 + 0x1000 * n) * 64 + 4, 2, 2, true⟩
/-- MC_PF.MAXSTRIDE (R253). -/
def MC_PF_MAXSTRIDE (n : Nat) : Fld := ⟨(0x01050028 + 0x1000 * n) * 64 + 8, 8, 64, true⟩
/-- MC_ERRCNT.WATCH (R253). -/
def MC_ERRCNT_WATCH (n k : Nat) : Fld := ⟨(0x01050040 + 0x1000 * n + 0x8 * k) * 64 + 0, 8, 0, false⟩
/-- MC_ERRCNT.CORR (R253). -/
def MC_ERRCNT_CORR (n k : Nat) : Fld := ⟨(0x01050040 + 0x1000 * n + 0x8 * k) * 64 + 16, 32, 0, false⟩
/-- MC_ERRCNT.UNCORR (R253). -/
def MC_ERRCNT_UNCORR (n k : Nat) : Fld := ⟨(0x01050040 + 0x1000 * n + 0x8 * k) * 64 + 48, 16, 0, false⟩
/-- MC_HITS.COUNT (R253). -/
def MC_HITS_COUNT (n : Nat) : Fld := ⟨(0x010500C0 + 0x1000 * n) * 64 + 0, 64, 0, false⟩
/-- MC_MISSES.COUNT (R253). -/
def MC_MISSES_COUNT (n : Nat) : Fld := ⟨(0x010500C8 + 0x1000 * n) * 64 + 0, 64, 0, false⟩
/-- MC_VHITS.COUNT (R253). -/
def MC_VHITS_COUNT (n : Nat) : Fld := ⟨(0x010500D0 + 0x1000 * n) * 64 + 0, 64, 0, false⟩
/-- MC_PFILLS.COUNT (R253). -/
def MC_PFILLS_COUNT (n : Nat) : Fld := ⟨(0x010500D8 + 0x1000 * n) * 64 + 0, 64, 0, false⟩
/-- BUF_WB.SIZE (R274). -/
def BUF_WB_SIZE : Fld := ⟨0x01060028 * 64 + 0, 4, 4, true⟩
/-- BUF_WB.CUR (R274). -/
def BUF_WB_CUR : Fld := ⟨0x01060028 * 64 + 4, 4, 4, true⟩
/-- BUF_CAP.P2CAP (R274). -/
def BUF_CAP_P2CAP : Fld := ⟨0x01060040 * 64 + 0, 17, 0, false⟩
/-- BUF_CAP.P3CAP (R274). -/
def BUF_CAP_P3CAP : Fld := ⟨0x01060040 * 64 + 32, 15, 0, false⟩
/-- BUF_FBCNT.COUNT (R274). -/
def BUF_FBCNT_COUNT : Fld := ⟨0x01060050 * 64 + 0, 32, 0, false⟩
/-- BUF_FBCNT.PARKS (R274). -/
def BUF_FBCNT_PARKS : Fld := ⟨0x01060050 * 64 + 32, 32, 0, false⟩
/-- DRM_STAT.TRAINED (R275). -/
def DRM_STAT_TRAINED : Fld := ⟨0x01070000 * 64 + 0, 1, 0, false⟩
/-- DRM_STAT.SELFREF (R275). -/
def DRM_STAT_SELFREF : Fld := ⟨0x01070000 * 64 + 1, 1, 0, false⟩
/-- DRM_SCRUB.LPMS (R275). -/
def DRM_SCRUB_LPMS : Fld := ⟨0x01070008 * 64 + 0, 16, 25, true⟩
/-- DRM_SCRUB.PASSES (R275). -/
def DRM_SCRUB_PASSES : Fld := ⟨0x01070008 * 64 + 32, 32, 0, false⟩
/-- DRM_SCRUBPOS.LINE (R275). -/
def DRM_SCRUBPOS_LINE : Fld := ⟨0x01070010 * 64 + 0, 31, 0, false⟩
/-- DRM_ECNT.CORR (R275). -/
def DRM_ECNT_CORR (k : Nat) : Fld := ⟨(0x01070040 + 0x8 * k) * 64 + 0, 32, 0, false⟩
/-- DRM_ECNT.UNCORR (R275). -/
def DRM_ECNT_UNCORR (k : Nat) : Fld := ⟨(0x01070040 + 0x8 * k) * 64 + 32, 16, 0, false⟩
/-- DRM_ECNT.BMERR (R275). -/
def DRM_ECNT_BMERR (k : Nat) : Fld := ⟨(0x01070040 + 0x8 * k) * 64 + 48, 16, 0, false⟩
/-- DRM_CECTL.THR (R275). -/
def DRM_CECTL_THR : Fld := ⟨0x01070080 * 64 + 0, 8, 8, true⟩
/-- DRM_CECTL.CLR (R275). -/
def DRM_CECTL_CLR : Fld := ⟨0x01070080 * 64 + 8, 1, 0, false⟩
/-- DRM_CESTAT.OVF (R275). -/
def DRM_CESTAT_OVF : Fld := ⟨0x01070088 * 64 + 6, 1, 0, false⟩
/-- DRM_CE_IDX.INDEX (R275). -/
def DRM_CE_IDX_INDEX : Fld := ⟨0x01070090 * 64 + 0, 5, 0, false⟩
/-- DRM_UELOG.ADDR (R275). -/
def DRM_UELOG_ADDR : Fld := ⟨0x010700B0 * 64 + 0, 37, 0, false⟩
/-- DRM_UELOG.CH (R275). -/
def DRM_UELOG_CH : Fld := ⟨0x010700B0 * 64 + 37, 3, 0, false⟩
/-- DRM_UELOG.SRC (R275). -/
def DRM_UELOG_SRC : Fld := ⟨0x010700B0 * 64 + 40, 4, 0, false⟩
/-- DRM_UELOG.VALID (R275). -/
def DRM_UELOG_VALID : Fld := ⟨0x010700B0 * 64 + 44, 1, 0, false⟩
/-- DRM_UESTAMP.NOW (R275). -/
def DRM_UESTAMP_NOW : Fld := ⟨0x010700B8 * 64 + 0, 64, 0, false⟩
/-- DRM_SRAMCNT.CORR (R275). -/
def DRM_SRAMCNT_CORR (k : Nat) : Fld := ⟨(0x010700C0 + 0x8 * k) * 64 + 0, 32, 0, false⟩
/-- DRM_SRAMCNT.UNCORR (R275). -/
def DRM_SRAMCNT_UNCORR (k : Nat) : Fld := ⟨(0x010700C0 + 0x8 * k) * 64 + 32, 16, 0, false⟩
/-- CH_CFG.EN (R305). -/
def CH_CFG_EN (n : Nat) : Fld := ⟨(0x01080000 + 0x800 * n) * 64 + 0, 1, 1, true⟩
/-- CH_CFG.MAXRATE (R305). -/
def CH_CFG_MAXRATE (n : Nat) : Fld := ⟨(0x01080000 + 0x800 * n) * 64 + 1, 3, 7, true⟩
/-- CH_CFG.RETRAIN (R305). -/
def CH_CFG_RETRAIN (n : Nat) : Fld := ⟨(0x01080000 + 0x800 * n) * 64 + 8, 8, 10, true⟩
/-- CH_STAT.RATE (R305). -/
def CH_STAT_RATE (n : Nat) : Fld := ⟨(0x01080008 + 0x800 * n) * 64 + 0, 3, 0, false⟩
/-- CH_STAT.TRAINED (R305). -/
def CH_STAT_TRAINED (n : Nat) : Fld := ⟨(0x01080008 + 0x800 * n) * 64 + 3, 1, 0, false⟩
/-- CH_STAT.DRV (R305). -/
def CH_STAT_DRV (n : Nat) : Fld := ⟨(0x01080008 + 0x800 * n) * 64 + 4, 1, 0, false⟩
/-- CH_STAT.FAILED (R305). -/
def CH_STAT_FAILED (n : Nat) : Fld := ⟨(0x01080008 + 0x800 * n) * 64 + 5, 1, 0, false⟩
/-- CH_STAT.PKGS (R305). -/
def CH_STAT_PKGS (n : Nat) : Fld := ⟨(0x01080008 + 0x800 * n) * 64 + 6, 5, 0, false⟩
/-- CH_PKGMAP.FITTED (R305). -/
def CH_PKGMAP_FITTED (n : Nat) : Fld := ⟨(0x01080010 + 0x800 * n) * 64 + 0, 16, 0, false⟩
/-- CH_DIEMAP.FITTED (R305). -/
def CH_DIEMAP_FITTED (n k : Nat) : Fld := ⟨(0x01080018 + 0x800 * n + 0x8 * k) * 64 + 0, 64, 0, false⟩
/-- CH_DIEFAIL.FAILED (R305). -/
def CH_DIEFAIL_FAILED (n k : Nat) : Fld := ⟨(0x01080038 + 0x800 * n + 0x8 * k) * 64 + 0, 64, 0, true⟩
/-- CH_ROWFMT.PAGE_W (R305). -/
def CH_ROWFMT_PAGE_W (n : Nat) : Fld := ⟨(0x01080058 + 0x800 * n) * 64 + 0, 4, 0, false⟩
/-- CH_ROWFMT.PLANE_W (R305). -/
def CH_ROWFMT_PLANE_W (n : Nat) : Fld := ⟨(0x01080058 + 0x800 * n) * 64 + 4, 2, 0, false⟩
/-- CH_ROWFMT.BLK_W (R305). -/
def CH_ROWFMT_BLK_W (n : Nat) : Fld := ⟨(0x01080058 + 0x800 * n) * 64 + 6, 4, 0, false⟩
/-- CH_ROWFMT.LUN_W (R305). -/
def CH_ROWFMT_LUN_W (n : Nat) : Fld := ⟨(0x01080058 + 0x800 * n) * 64 + 10, 3, 0, false⟩
/-- CH_ROWFMT.RCYC (R305). -/
def CH_ROWFMT_RCYC (n : Nat) : Fld := ⟨(0x01080058 + 0x800 * n) * 64 + 13, 3, 0, false⟩
/-- CH_ROWFMT.IFACE (R305). -/
def CH_ROWFMT_IFACE (n : Nat) : Fld := ⟨(0x01080058 + 0x800 * n) * 64 + 16, 1, 0, false⟩
/-- CH_SLOT.SLOTB (R305). -/
def CH_SLOT_SLOTB (n : Nat) : Fld := ⟨(0x01080060 + 0x800 * n) * 64 + 0, 13, 0, false⟩
/-- CH_TIMING.TCA_NS (R305). -/
def CH_TIMING_TCA_NS (n : Nat) : Fld := ⟨(0x01080068 + 0x800 * n) * 64 + 0, 8, 0, false⟩
/-- CH_TIMING.POLL_NS (R305). -/
def CH_TIMING_POLL_NS (n : Nat) : Fld := ⟨(0x01080068 + 0x800 * n) * 64 + 8, 16, 0, false⟩
/-- CH_SCHED.AGE_MS (R305). -/
def CH_SCHED_AGE_MS (n : Nat) : Fld := ⟨(0x01080070 + 0x800 * n) * 64 + 0, 16, 20, true⟩
/-- CH_SUSP.EN (R305). -/
def CH_SUSP_EN (n : Nat) : Fld := ⟨(0x01080078 + 0x800 * n) * 64 + 0, 1, 1, true⟩
/-- CH_SUSP.MAXSUSP (R305). -/
def CH_SUSP_MAXSUSP (n : Nat) : Fld := ⟨(0x01080078 + 0x800 * n) * 64 + 8, 4, 4, true⟩
/-- CH_SUSP.MIN_US (R305). -/
def CH_SUSP_MIN_US (n : Nat) : Fld := ⟨(0x01080078 + 0x800 * n) * 64 + 16, 16, 400, true⟩
/-- CH_SUSP.WINDOW_US (R305). -/
def CH_SUSP_WINDOW_US (n : Nat) : Fld := ⟨(0x01080078 + 0x800 * n) * 64 + 32, 16, 300, true⟩
/-- CH_BUDGET.B (R305). -/
def CH_BUDGET_B (n : Nat) : Fld := ⟨(0x01080088 + 0x800 * n) * 64 + 0, 32, 0, false⟩
/-- CH_BUDGET.USED (R305). -/
def CH_BUDGET_USED (n : Nat) : Fld := ⟨(0x01080088 + 0x800 * n) * 64 + 32, 32, 0, false⟩
/-- CH_MTIME_FG.COUNT (R305). -/
def CH_MTIME_FG_COUNT (n : Nat) : Fld := ⟨(0x01080090 + 0x800 * n) * 64 + 0, 64, 0, false⟩
/-- CH_MTIME_BG.COUNT (R305). -/
def CH_MTIME_BG_COUNT (n : Nat) : Fld := ⟨(0x01080098 + 0x800 * n) * 64 + 0, 64, 0, false⟩
/-- CH_ERR.SFAULT (R305). -/
def CH_ERR_SFAULT (n : Nat) : Fld := ⟨(0x010800A0 + 0x800 * n) * 64 + 0, 16, 0, false⟩
/-- CH_ERR.TIMEOUT (R305). -/
def CH_ERR_TIMEOUT (n : Nat) : Fld := ⟨(0x010800A0 + 0x800 * n) * 64 + 16, 16, 0, false⟩
/-- CH_ERR.BADADDR (R305). -/
def CH_ERR_BADADDR (n : Nat) : Fld := ⟨(0x010800A0 + 0x800 * n) * 64 + 32, 16, 0, false⟩
/-- CH_ERR.TRAINFAIL (R305). -/
def CH_ERR_TRAINFAIL (n : Nat) : Fld := ⟨(0x010800A0 + 0x800 * n) * 64 + 48, 16, 0, false⟩
/-- CH_SFLOG.ENTRY (R305). -/
def CH_SFLOG_ENTRY (n : Nat) : Fld := ⟨(0x010800A8 + 0x800 * n) * 64 + 0, 8, 0, false⟩
/-- CH_SFLOG.WORD (R305). -/
def CH_SFLOG_WORD (n : Nat) : Fld := ⟨(0x010800A8 + 0x800 * n) * 64 + 8, 14, 0, false⟩
/-- CH_SFLOG.CAUSE (R305). -/
def CH_SFLOG_CAUSE (n : Nat) : Fld := ⟨(0x010800A8 + 0x800 * n) * 64 + 22, 4, 0, false⟩
/-- CH_SFLOG.VALID (R305). -/
def CH_SFLOG_VALID (n : Nat) : Fld := ⟨(0x010800A8 + 0x800 * n) * 64 + 31, 1, 0, false⟩
/-- CH_SUSPCNT.SUSPENSIONS (R305). -/
def CH_SUSPCNT_SUSPENSIONS (n : Nat) : Fld := ⟨(0x010800B0 + 0x800 * n) * 64 + 0, 32, 0, false⟩
/-- CH_SUSPCNT.DENIED (R305). -/
def CH_SUSPCNT_DENIED (n : Nat) : Fld := ⟨(0x010800B0 + 0x800 * n) * 64 + 32, 32, 0, false⟩
/-- CH_RETRY.WALKS (R305). -/
def CH_RETRY_WALKS (n : Nat) : Fld := ⟨(0x010800B8 + 0x800 * n) * 64 + 0, 32, 0, false⟩
/-- CH_RETRY.ROWS (R305). -/
def CH_RETRY_ROWS (n : Nat) : Fld := ⟨(0x010800B8 + 0x800 * n) * 64 + 32, 32, 0, false⟩
/-- HELM_MEDCFG.SPR (R337). -/
def HELM_MEDCFG_SPR : Fld := ⟨0x01001000 * 64 + 0, 5, 12, true⟩
/-- HELM_MEDCFG.ENDUR (R337). -/
def HELM_MEDCFG_ENDUR : Fld := ⟨0x01001000 * 64 + 8, 24, 3000, true⟩
/-- HELM_MEDTHR.LOW (R337). -/
def HELM_MEDTHR_LOW : Fld := ⟨0x01001008 * 64 + 0, 8, 8, true⟩
/-- HELM_MEDTHR.GCRSV (R337). -/
def HELM_MEDTHR_GCRSV : Fld := ⟨0x01001008 * 64 + 8, 8, 4, true⟩
/-- HELM_MEDTHR.RBER (R337). -/
def HELM_MEDTHR_RBER : Fld := ⟨0x01001008 * 64 + 16, 12, 120, true⟩
/-- HELM_PATROL.PPS (R337). -/
def HELM_PATROL_PPS : Fld := ⟨0x01001010 * 64 + 0, 32, 100000, true⟩
/-- HELM_PATROL.PASSES (R337). -/
def HELM_PATROL_PASSES : Fld := ⟨0x01001010 * 64 + 32, 32, 0, false⟩
/-- HELM_MEDSTAT.RECOUNT (R337). -/
def HELM_MEDSTAT_RECOUNT : Fld := ⟨0x01001018 * 64 + 0, 1, 0, false⟩
/-- HELM_HTHR.SPARE_LO (R337). -/
def HELM_HTHR_SPARE_LO : Fld := ⟨0x01001030 * 64 + 0, 8, 10, true⟩
/-- HELM_HTHR.WEAR_HI (R337). -/
def HELM_HTHR_WEAR_HI : Fld := ⟨0x01001030 * 64 + 8, 8, 90, true⟩
/-- HELM_BAND_IDX.BAND (R337). -/
def HELM_BAND_IDX_BAND : Fld := ⟨0x01001040 * 64 + 0, 20, 0, false⟩
/-- PAR_CFG.AUTOSPARE (R368). -/
def PAR_CFG_AUTOSPARE : Fld := ⟨0x01090000 * 64 + 0, 1, 1, true⟩
/-- PAR_CFG.DFTHR (R368). -/
def PAR_CFG_DFTHR : Fld := ⟨0x01090000 * 64 + 8, 8, 16, true⟩
/-- PAR_CFG.FWIDTH (R368). -/
def PAR_CFG_FWIDTH : Fld := ⟨0x01090000 * 64 + 16, 6, 32, true⟩
/-- PAR_CFG.FMODE (R368). -/
def PAR_CFG_FMODE : Fld := ⟨0x01090000 * 64 + 22, 1, 0, true⟩
/-- PAR_JSTAT.FLASHSRC (R368). -/
def PAR_JSTAT_FLASHSRC : Fld := ⟨0x01090010 * 64 + 29, 1, 0, false⟩
/-- PAR_JSTAT.PEERSRC (R368). -/
def PAR_JSTAT_PEERSRC : Fld := ⟨0x01090010 * 64 + 30, 1, 0, false⟩
/-- PAR_JSTAT.ORPHANED (R368). -/
def PAR_JSTAT_ORPHANED : Fld := ⟨0x01090010 * 64 + 32, 32, 0, false⟩
/-- PAR_GSEL.GROUP (R368). -/
def PAR_GSEL_GROUP : Fld := ⟨0x01090100 * 64 + 0, 10, 0, false⟩
/-- PAR_RDSEL.INDEX (R368). -/
def PAR_RDSEL_INDEX : Fld := ⟨0x01090180 * 64 + 0, 8, 0, false⟩
/-- PAR_RSHP.ACTIVE (R368). -/
def PAR_RSHP_ACTIVE : Fld := ⟨0x01090200 * 64 + 0, 1, 0, false⟩
/-- PAR_RSHP.FIRSTNEW (R368). -/
def PAR_RSHP_FIRSTNEW : Fld := ⟨0x01090200 * 64 + 1, 10, 0, false⟩
/-- PAR_RSHP.LEFT (R368). -/
def PAR_RSHP_LEFT : Fld := ⟨0x01090200 * 64 + 16, 14, 0, false⟩
/-- PAR_RSHP.NNEW (R368). -/
def PAR_RSHP_NNEW : Fld := ⟨0x01090200 * 64 + 32, 9, 0, false⟩
/-- PAR_DSEL.DIE (R368). -/
def PAR_DSEL_DIE : Fld := ⟨0x01090300 * 64 + 0, 13, 0, false⟩
/-- PAR_OFFLOG.GROUP (R368). -/
def PAR_OFFLOG_GROUP : Fld := ⟨0x01090310 * 64 + 0, 10, 0, false⟩
/-- PAR_OFFLOG.VALID (R368). -/
def PAR_OFFLOG_VALID : Fld := ⟨0x01090310 * 64 + 16, 1, 0, false⟩
/-- PAR_OFFSTAMP.NOW (R368). -/
def PAR_OFFSTAMP_NOW : Fld := ⟨0x01090318 * 64 + 0, 64, 0, false⟩
/-- CIP_STAT.KAT_DONE (R390). -/
def CIP_STAT_KAT_DONE : Fld := ⟨0x010A0000 * 64 + 0, 1, 0, false⟩
/-- CIP_STAT.QDOWN (R390). -/
def CIP_STAT_QDOWN : Fld := ⟨0x010A0000 * 64 + 4, 4, 0, false⟩
/-- CIP_EPOCH.EPOCH (R390). -/
def CIP_EPOCH_EPOCH : Fld := ⟨0x010A0008 * 64 + 0, 32, 0, true⟩
/-- CIP_EPOCH.LOADS (R390). -/
def CIP_EPOCH_LOADS : Fld := ⟨0x010A0008 * 64 + 32, 32, 0, true⟩
/-- CIP_ENGDIS.DIS (R390). -/
def CIP_ENGDIS_DIS (k : Nat) : Fld := ⟨(0x010A0010 + 0x8 * k) * 64 + 0, 24, 0, false⟩
/-- CIP_ENGDIS.TWKDIS (R390). -/
def CIP_ENGDIS_TWKDIS (k : Nat) : Fld := ⟨(0x010A0010 + 0x8 * k) * 64 + 24, 2, 0, false⟩
/-- CIP_ENGDIS.TAGDIS (R390). -/
def CIP_ENGDIS_TAGDIS (k : Nat) : Fld := ⟨(0x010A0010 + 0x8 * k) * 64 + 26, 2, 0, false⟩
/-- CIP_ENGDIS.GRDDIS (R390). -/
def CIP_ENGDIS_GRDDIS (k : Nat) : Fld := ⟨(0x010A0010 + 0x8 * k) * 64 + 28, 2, 0, false⟩
/-- CIP_PSEL.PAGE (R390). -/
def CIP_PSEL_PAGE : Fld := ⟨0x010A0040 * 64 + 0, 11, 0, false⟩
/-- CIP_ERR.AUTH (R390). -/
def CIP_ERR_AUTH (k : Nat) : Fld := ⟨(0x010A0080 + 0x8 * k) * 64 + 0, 16, 0, false⟩
/-- CIP_ERR.PI_PRE (R390). -/
def CIP_ERR_PI_PRE (k : Nat) : Fld := ⟨(0x010A0080 + 0x8 * k) * 64 + 16, 16, 0, false⟩
/-- CIP_ERR.PI_POST (R390). -/
def CIP_ERR_PI_POST (k : Nat) : Fld := ⟨(0x010A0080 + 0x8 * k) * 64 + 32, 16, 0, false⟩
/-- CIP_PIX.INGRESS (R390). -/
def CIP_PIX_INGRESS : Fld := ⟨0x010A00A0 * 64 + 0, 32, 0, false⟩
/-- CIP_PIX.EGRESS (R390). -/
def CIP_PIX_EGRESS : Fld := ⟨0x010A00A0 * 64 + 32, 32, 0, false⟩
/-- CIP_KTK_IDX.INDEX (R390). -/
def CIP_KTK_IDX_INDEX : Fld := ⟨0x010A0200 * 64 + 0, 6, 0, false⟩
/-- TEN_RSEL.SLOT (R404). -/
def TEN_RSEL_SLOT : Fld := ⟨0x010B0000 * 64 + 0, 6, 0, false⟩
/-- TEN_RING.NEWSLOT (R404). -/
def TEN_RING_NEWSLOT : Fld := ⟨0x010B0008 * 64 + 0, 6, 59, true⟩
/-- TEN_RING.SEQ (R404). -/
def TEN_RING_SEQ : Fld := ⟨0x010B0008 * 64 + 32, 32, 0, true⟩
/-- TEN_TSEL.TENANT (R404). -/
def TEN_TSEL_TENANT : Fld := ⟨0x010B0010 * 64 + 0, 10, 0, false⟩
/-- PWR_WARN.MV (R421). -/
def PWR_WARN_MV : Fld := ⟨0x010C0000 * 64 + 0, 14, 10500, true⟩
/-- PWR_WARN.HYST (R421). -/
def PWR_WARN_HYST : Fld := ⟨0x010C0000 * 64 + 16, 6, 25, true⟩
/-- PWR_WARN.VEN (R421). -/
def PWR_WARN_VEN : Fld := ⟨0x010C0000 * 64 + 24, 1, 1, true⟩
/-- PWR_STAT.VWARN (R421). -/
def PWR_STAT_VWARN : Fld := ⟨0x010C0008 * 64 + 0, 1, 0, false⟩
/-- PWR_STAT.PFAIL (R421). -/
def PWR_STAT_PFAIL : Fld := ⟨0x010C0008 * 64 + 1, 1, 0, false⟩
/-- PWR_STAT.HOLD_LOW (R421). -/
def PWR_STAT_HOLD_LOW : Fld := ⟨0x010C0008 * 64 + 2, 1, 0, false⟩
/-- PWR_STAT.QACTIVE (R421). -/
def PWR_STAT_QACTIVE : Fld := ⟨0x010C0008 * 64 + 3, 1, 0, false⟩
/-- PWR_STAT.QSTEP (R421). -/
def PWR_STAT_QSTEP : Fld := ⟨0x010C0008 * 64 + 4, 3, 0, false⟩
/-- PWR_STAT.QDONE (R421). -/
def PWR_STAT_QDONE : Fld := ⟨0x010C0008 * 64 + 7, 1, 0, false⟩
/-- PWR_VIN.VIN_MV (R421). -/
def PWR_VIN_VIN_MV : Fld := ⟨0x010C0010 * 64 + 0, 16, 0, false⟩
/-- PWR_VIN.MIN_MV (R421). -/
def PWR_VIN_MIN_MV : Fld := ⟨0x010C0010 * 64 + 16, 16, 65535, false⟩
/-- PWR_HOLD.HOLD_MV (R421). -/
def PWR_HOLD_HOLD_MV : Fld := ⟨0x010C0018 * 64 + 0, 16, 0, false⟩
/-- PWR_HCFG.EN (R421). -/
def PWR_HCFG_EN : Fld := ⟨0x010C0020 * 64 + 0, 1, 0, true⟩
/-- PWR_HCFG.DIV (R421). -/
def PWR_HCFG_DIV : Fld := ⟨0x010C0020 * 64 + 4, 12, 320, true⟩
/-- PWR_HCFG.VMIN (R421). -/
def PWR_HCFG_VMIN : Fld := ⟨0x010C0020 * 64 + 16, 16, 0, true⟩
/-- PWR_QBUD.BUD_MS (R421). -/
def PWR_QBUD_BUD_MS : Fld := ⟨0x010C0028 * 64 + 0, 16, 0, false⟩
/-- PWR_QBUD.RATE (R421). -/
def PWR_QBUD_RATE : Fld := ⟨0x010C0028 * 64 + 16, 16, 0, false⟩
/-- PWR_QBUD.SHORT (R421). -/
def PWR_QBUD_SHORT : Fld := ⟨0x010C0028 * 64 + 32, 1, 0, false⟩
/-- PWR_LASTQ.DONE (R421). -/
def PWR_LASTQ_DONE : Fld := ⟨0x010C0030 * 64 + 0, 1, 0, true⟩
/-- PWR_LASTQ.STEP (R421). -/
def PWR_LASTQ_STEP : Fld := ⟨0x010C0030 * 64 + 1, 3, 0, true⟩
/-- PWR_LASTQ.CAUSE (R421). -/
def PWR_LASTQ_CAUSE : Fld := ⟨0x010C0030 * 64 + 4, 2, 0, true⟩
/-- PWR_LASTQ.RETURNED (R421). -/
def PWR_LASTQ_RETURNED : Fld := ⟨0x010C0030 * 64 + 6, 1, 0, true⟩
/-- PWR_LASTQ.PEERLOST (R421). -/
def PWR_LASTQ_PEERLOST : Fld := ⟨0x010C0030 * 64 + 7, 1, 0, true⟩
/-- PWR_LASTQ.DUR_US (R421). -/
def PWR_LASTQ_DUR_US : Fld := ⟨0x010C0030 * 64 + 32, 32, 0, true⟩
/-- PWR_LASTQ_STAMP.NOW (R421). -/
def PWR_LASTQ_STAMP_NOW : Fld := ⟨0x010C0038 * 64 + 0, 64, 0, true⟩
/-- PWR_CNT.QUENCHES (R421). -/
def PWR_CNT_QUENCHES : Fld := ⟨0x010C0040 * 64 + 0, 16, 0, true⟩
/-- PWR_CNT.BROWNOUTS (R421). -/
def PWR_CNT_BROWNOUTS : Fld := ⟨0x010C0040 * 64 + 16, 16, 0, true⟩
/-- PWR_CNT.INCOMPLETE (R421). -/
def PWR_CNT_INCOMPLETE : Fld := ⟨0x010C0040 * 64 + 32, 16, 0, true⟩
/-- PWR_CTL.CLRMIN (R421). -/
def PWR_CTL_CLRMIN : Fld := ⟨0x010C0048 * 64 + 0, 1, 0, false⟩
/-- HELM_VOTE.MASKED (R457). -/
def HELM_VOTE_MASKED : Fld := ⟨0x01000028 * 64 + 0, 3, 0, false⟩
/-- HELM_VOTE.EVENTS (R457). -/
def HELM_VOTE_EVENTS : Fld := ⟨0x01000028 * 64 + 8, 16, 0, false⟩
/-- HELM_VOTE.LASTCORE (R457). -/
def HELM_VOTE_LASTCORE : Fld := ⟨0x01000028 * 64 + 24, 2, 0, false⟩
/-- HELM_VOTE.RESYNCS (R457). -/
def HELM_VOTE_RESYNCS : Fld := ⟨0x01000028 * 64 + 32, 32, 0, false⟩
/-- PAIR_CFG.EN (R458). -/
def PAIR_CFG_EN : Fld := ⟨0x010D0000 * 64 + 0, 1, 0, true⟩
/-- PAIR_CFG.ROLE (R458). -/
def PAIR_CFG_ROLE : Fld := ⟨0x010D0000 * 64 + 1, 1, 0, true⟩
/-- PAIR_CFG.STEST (R458). -/
def PAIR_CFG_STEST : Fld := ⟨0x010D0000 * 64 + 2, 1, 1, true⟩
/-- PAIR_CFG.LEASE_MS (R458). -/
def PAIR_CFG_LEASE_MS : Fld := ⟨0x010D0000 * 64 + 3, 5, 5, true⟩
/-- PAIR_CFG.ACKTMO_US (R458). -/
def PAIR_CFG_ACKTMO_US : Fld := ⟨0x010D0000 * 64 + 16, 16, 1000, true⟩
/-- PAIR_CFG.SWDRAIN_MS (R458). -/
def PAIR_CFG_SWDRAIN_MS : Fld := ⟨0x010D0000 * 64 + 32, 8, 50, true⟩
/-- PAIR_CFG.SWWB_MIB (R458). -/
def PAIR_CFG_SWWB_MIB : Fld := ⟨0x010D0000 * 64 + 40, 12, 256, true⟩
/-- PAIR_STAT.OWN (R458). -/
def PAIR_STAT_OWN : Fld := ⟨0x010D0008 * 64 + 1, 1, 0, false⟩
/-- PAIR_STAT.PSTATE (R458). -/
def PAIR_STAT_PSTATE : Fld := ⟨0x010D0008 * 64 + 3, 2, 0, false⟩
/-- PAIR_STAT.LODEMIS (R458). -/
def PAIR_STAT_LODEMIS : Fld := ⟨0x010D0008 * 64 + 6, 1, 0, false⟩
/-- PAIR_STAT.MAPLOAD (R458). -/
def PAIR_STAT_MAPLOAD : Fld := ⟨0x010D0008 * 64 + 8, 1, 0, false⟩
/-- PAIR_STAT.SWAPPING (R458). -/
def PAIR_STAT_SWAPPING : Fld := ⟨0x010D0008 * 64 + 9, 1, 0, false⟩
/-- PAIR_STAT.SALVAGE (R458). -/
def PAIR_STAT_SALVAGE : Fld := ⟨0x010D0008 * 64 + 10, 1, 0, false⟩
/-- PAIR_CTL.FORCE (R458). -/
def PAIR_CTL_FORCE : Fld := ⟨0x010D0010 * 64 + 0, 1, 0, false⟩
/-- PAIR_CTL.RESYNC (R458). -/
def PAIR_CTL_RESYNC : Fld := ⟨0x010D0010 * 64 + 1, 1, 0, false⟩
/-- PAIR_CTL.SWAPCAN (R458). -/
def PAIR_CTL_SWAPCAN : Fld := ⟨0x010D0010 * 64 + 2, 1, 0, false⟩
/-- PAIR_SWAPAT.AT (R458). -/
def PAIR_SWAPAT_AT : Fld := ⟨0x010D0018 * 64 + 0, 64, 0, false⟩
/-- PAIR_LINK.RETRY (R458). -/
def PAIR_LINK_RETRY : Fld := ⟨0x010D0020 * 64 + 0, 16, 0, false⟩
/-- PAIR_LINK.DOWN (R458). -/
def PAIR_LINK_DOWN : Fld := ⟨0x010D0020 * 64 + 16, 16, 0, false⟩
/-- PAIR_LINK.ABSENT (R458). -/
def PAIR_LINK_ABSENT : Fld := ⟨0x010D0020 * 64 + 32, 16, 0, false⟩
/-- PAIR_LOST.FRAMES (R458). -/
def PAIR_LOST_FRAMES : Fld := ⟨0x010D0030 * 64 + 0, 32, 0, false⟩
/-- PAIR_LOST.SALVAGED (R458). -/
def PAIR_LOST_SALVAGED : Fld := ⟨0x010D0030 * 64 + 32, 32, 0, false⟩
/-- PAIR_LASTACT.NOW (R458). -/
def PAIR_LASTACT_NOW : Fld := ⟨0x010D0038 * 64 + 0, 64, 0, true⟩
/-- PAIR_STH.QPASS (R458). -/
def PAIR_STH_QPASS : Fld := ⟨0x010D0040 * 64 + 0, 4, 0, false⟩
/-- PAIR_STH.DRAM (R458). -/
def PAIR_STH_DRAM : Fld := ⟨0x010D0040 * 64 + 4, 1, 0, false⟩
/-- PAIR_STH.LINKS (R458). -/
def PAIR_STH_LINKS : Fld := ⟨0x010D0040 * 64 + 5, 1, 0, false⟩
/-- PAIR_STH.ILOCK (R458). -/
def PAIR_STH_ILOCK : Fld := ⟨0x010D0040 * 64 + 6, 1, 0, false⟩
/-- PAIR_STH.VALID (R458). -/
def PAIR_STH_VALID : Fld := ⟨0x010D0040 * 64 + 7, 1, 0, false⟩
/-- PAIR_STH.CYCLES (R458). -/
def PAIR_STH_CYCLES : Fld := ⟨0x010D0040 * 64 + 32, 32, 0, false⟩
/-- PAIR_PEERH.QPASS (R458). -/
def PAIR_PEERH_QPASS : Fld := ⟨0x010D0048 * 64 + 0, 4, 0, false⟩
/-- PAIR_PEERH.DRAM (R458). -/
def PAIR_PEERH_DRAM : Fld := ⟨0x010D0048 * 64 + 4, 1, 0, false⟩
/-- PAIR_PEERH.LINKS (R458). -/
def PAIR_PEERH_LINKS : Fld := ⟨0x010D0048 * 64 + 5, 1, 0, false⟩
/-- PAIR_PEERH.ILOCK (R458). -/
def PAIR_PEERH_ILOCK : Fld := ⟨0x010D0048 * 64 + 6, 1, 0, false⟩
/-- PAIR_PEERH.VALID (R458). -/
def PAIR_PEERH_VALID : Fld := ⟨0x010D0048 * 64 + 7, 1, 0, false⟩
/-- PAIR_PEERH.CYCLES (R458). -/
def PAIR_PEERH_CYCLES : Fld := ⟨0x010D0048 * 64 + 32, 32, 0, false⟩
/-- CAS_CFG.EN (R459). -/
def CAS_CFG_EN : Fld := ⟨0x010E0000 * 64 + 0, 1, 0, true⟩
/-- CAS_CFG.SHAPE (R459). -/
def CAS_CFG_SHAPE : Fld := ⟨0x010E0000 * 64 + 1, 1, 0, true⟩
/-- CAS_CFG.NPOS (R459). -/
def CAS_CFG_NPOS : Fld := ⟨0x010E0000 * 64 + 2, 2, 0, true⟩
/-- CAS_CFG.TMO_MS (R459). -/
def CAS_CFG_TMO_MS : Fld := ⟨0x010E0000 * 64 + 16, 8, 20, true⟩
/-- CAS_STAT.MASTER (R459). -/
def CAS_STAT_MASTER : Fld := ⟨0x010E0008 * 64 + 2, 1, 0, false⟩
/-- CAS_STAT.UP (R459). -/
def CAS_STAT_UP : Fld := ⟨0x010E0008 * 64 + 3, 4, 0, false⟩
/-- CAS_STAT.PORTS (R459). -/
def CAS_STAT_PORTS : Fld := ⟨0x010E0008 * 64 + 7, 2, 0, false⟩
/-- CAS_STAT.FROZEN (R459). -/
def CAS_STAT_FROZEN : Fld := ⟨0x010E0008 * 64 + 9, 1, 0, false⟩
/-- CAS_POS.START (R459). -/
def CAS_POS_START (k : Nat) : Fld := ⟨(0x010E0010 + 0x8 * k) * 64 + 0, 32, 0, false⟩
/-- CAS_POS.COUNT (R459). -/
def CAS_POS_COUNT (k : Nat) : Fld := ⟨(0x010E0010 + 0x8 * k) * 64 + 32, 32, 0, false⟩
/-- CAS_LODE.WORD (R459). -/
def CAS_LODE_WORD (k : Nat) : Fld := ⟨(0x010E0040 + 0x8 * k) * 64 + 0, 64, 0, false⟩
/-- CAS_LSEL.POS (R459). -/
def CAS_LSEL_POS : Fld := ⟨0x010E0080 * 64 + 0, 2, 0, false⟩
/-- CAS_LSEL.MEMBER (R459). -/
def CAS_LSEL_MEMBER : Fld := ⟨0x010E0080 * 64 + 2, 1, 0, false⟩
/-- CAS_LSTAT.MISMATCH (R459). -/
def CAS_LSTAT_MISMATCH : Fld := ⟨0x010E00C0 * 64 + 0, 8, 0, false⟩
/-- CAS_LSTAT.RECEIVED (R459). -/
def CAS_LSTAT_RECEIVED : Fld := ⟨0x010E00C0 * 64 + 8, 8, 0, false⟩
/-- IMG_BOOT.SLOT (R482). -/
def IMG_BOOT_SLOT : Fld := ⟨0x010F0000 * 64 + 0, 1, 0, false⟩
/-- IMG_BOOT.OWNPACK (R482). -/
def IMG_BOOT_OWNPACK : Fld := ⟨0x010F0000 * 64 + 1, 1, 0, false⟩
/-- IMG_BOOT.OPFAIL (R482). -/
def IMG_BOOT_OPFAIL : Fld := ⟨0x010F0000 * 64 + 2, 1, 0, false⟩
/-- IMG_BOOT.ARB (R482). -/
def IMG_BOOT_ARB : Fld := ⟨0x010F0000 * 64 + 32, 32, 0, true⟩
/-- IMG_VER.VERSION (R482). -/
def IMG_VER_VERSION : Fld := ⟨0x010F0008 * 64 + 0, 64, 0, false⟩
/-- IMG_OWNER.OARB (R482). -/
def IMG_OWNER_OARB : Fld := ⟨0x010F0010 * 64 + 0, 32, 0, true⟩
/-- IMG_OWNER.OSEQ (R482). -/
def IMG_OWNER_OSEQ : Fld := ⟨0x010F0010 * 64 + 32, 32, 0, true⟩
/-- IMG_STAGE.STATE (R482). -/
def IMG_STAGE_STATE : Fld := ⟨0x010F0018 * 64 + 0, 2, 0, true⟩
/-- IMG_STAGE.DUE (R482). -/
def IMG_STAGE_DUE : Fld := ⟨0x010F0018 * 64 + 2, 1, 0, true⟩
/-- IMG_STAGE.OWNPACK (R482). -/
def IMG_STAGE_OWNPACK : Fld := ⟨0x010F0018 * 64 + 3, 1, 0, true⟩
/-- IMG_STAGE_VER.VERSION (R482). -/
def IMG_STAGE_VER_VERSION : Fld := ⟨0x010F0020 * 64 + 0, 64, 0, true⟩
/-- IMG_INTAKE.RESULT (R482). -/
def IMG_INTAKE_RESULT : Fld := ⟨0x010F0028 * 64 + 0, 8, 0, false⟩
/-- IMG_INTAKE.PHASE (R482). -/
def IMG_INTAKE_PHASE : Fld := ⟨0x010F0028 * 64 + 8, 3, 0, false⟩
/-- IMG_INTAKE.BYTES (R482). -/
def IMG_INTAKE_BYTES : Fld := ⟨0x010F0028 * 64 + 32, 32, 0, false⟩
/-- IMG_ACT.RESULT (R482). -/
def IMG_ACT_RESULT : Fld := ⟨0x010F0030 * 64 + 0, 4, 0, true⟩
/-- IMG_ACT.WHEN (R482). -/
def IMG_ACT_WHEN : Fld := ⟨0x010F0030 * 64 + 32, 32, 0, true⟩
/-- IMG_QDONE.DONE (R482). -/
def IMG_QDONE_DONE : Fld := ⟨0x010F0040 * 64 + 0, 32, 0, false⟩
/-- IMG_ERR.TIMEOUT (R482). -/
def IMG_ERR_TIMEOUT : Fld := ⟨0x010F0050 * 64 + 0, 16, 0, false⟩
/-- IMG_ERR.NOTBLANK (R482). -/
def IMG_ERR_NOTBLANK : Fld := ⟨0x010F0050 * 64 + 16, 16, 0, false⟩
/-- IMG_ERR.PROTECTED (R482). -/
def IMG_ERR_PROTECTED : Fld := ⟨0x010F0050 * 64 + 32, 16, 0, false⟩
/-- IMG_ERR.REPROG (R482). -/
def IMG_ERR_REPROG : Fld := ⟨0x010F0050 * 64 + 48, 16, 0, false⟩
/-- IMG_WP.WP (R482). -/
def IMG_WP_WP (k : Nat) : Fld := ⟨(0x010F2000 + 0x8 * k) * 64 + 0, 64, 0, false⟩
/-- SVC_CFG.IRQEN (R501). -/
def SVC_CFG_IRQEN : Fld := ⟨0x01120000 * 64 + 0, 1, 1, true⟩
/-- SVC_STAT.INTAKE (R501). -/
def SVC_STAT_INTAKE : Fld := ⟨0x01120008 * 64 + 5, 1, 0, false⟩
/-- SVC_STAT.SEQ (R501). -/
def SVC_STAT_SEQ : Fld := ⟨0x01120008 * 64 + 16, 16, 0, false⟩
/-- SVC_ERR.CRC (R501). -/
def SVC_ERR_CRC : Fld := ⟨0x01120010 * 64 + 0, 16, 0, false⟩
/-- SVC_ERR.FORMAT (R501). -/
def SVC_ERR_FORMAT : Fld := ⟨0x01120010 * 64 + 16, 16, 0, false⟩
/-- SVC_ERR.OVERFLOW (R501). -/
def SVC_ERR_OVERFLOW : Fld := ⟨0x01120010 * 64 + 32, 16, 0, false⟩
/-- SVC_ERR.BUSY (R501). -/
def SVC_ERR_BUSY : Fld := ⟨0x01120010 * 64 + 48, 16, 0, false⟩
/-- SVC_LAST.SEQ (R501). -/
def SVC_LAST_SEQ : Fld := ⟨0x01120018 * 64 + 0, 16, 0, false⟩
/-- SVC_LAST.TYPE (R501). -/
def SVC_LAST_TYPE : Fld := ⟨0x01120018 * 64 + 16, 8, 0, false⟩
/-- SVC_LAST.CODE (R501). -/
def SVC_LAST_CODE : Fld := ⟨0x01120018 * 64 + 24, 8, 0, false⟩
/-- MBX_CFG.RCV (R502). -/
def MBX_CFG_RCV (n : Nat) : Fld := ⟨(0x01020000 + 0x100 * n) * 64 + 0, 13, 4096 + n, true⟩
/-- MBX_CFG.HOSTSEND (R502). -/
def MBX_CFG_HOSTSEND (n : Nat) : Fld := ⟨(0x01020000 + 0x100 * n) * 64 + 13, 1, 0, true⟩
/-- MBX_BODY.WORD (R502). -/
def MBX_BODY_WORD (n k : Nat) : Fld := ⟨(0x01020040 + 0x100 * n + 0x8 * k) * 64 + 0, 64, 0, false⟩
/-- MBX_CTL.SEND (R502). -/
def MBX_CTL_SEND (n : Nat) : Fld := ⟨(0x01020060 + 0x100 * n) * 64 + 0, 1, 0, false⟩
/-- MBX_CTL.TAKE (R502). -/
def MBX_CTL_TAKE (n : Nat) : Fld := ⟨(0x01020060 + 0x100 * n) * 64 + 1, 1, 0, false⟩
/-- MBX_CTL.ACK (R502). -/
def MBX_CTL_ACK (n : Nat) : Fld := ⟨(0x01020060 + 0x100 * n) * 64 + 2, 1, 0, false⟩
/-- MBX_CTL.CODE (R502). -/
def MBX_CTL_CODE (n : Nat) : Fld := ⟨(0x01020060 + 0x100 * n) * 64 + 16, 16, 0, false⟩
/-- LOG_CTL.IRQEN (R503). -/
def LOG_CTL_IRQEN : Fld := ⟨0x01030000 * 64 + 0, 1, 1, true⟩
/-- LOG_CTL.AUTOINC (R503). -/
def LOG_CTL_AUTOINC : Fld := ⟨0x01030000 * 64 + 1, 1, 1, true⟩
/-- LOG_CTL.MANUAL (R503). -/
def LOG_CTL_MANUAL : Fld := ⟨0x01030000 * 64 + 2, 1, 0, false⟩
/-- LOG_CTL.NREG (R503). -/
def LOG_CTL_NREG : Fld := ⟨0x01030000 * 64 + 8, 5, 4, true⟩
/-- LOG_STAT.FULL (R503). -/
def LOG_STAT_FULL : Fld := ⟨0x01030008 * 64 + 14, 1, 0, true⟩
/-- LOG_STAT.LOST (R503). -/
def LOG_STAT_LOST : Fld := ⟨0x01030008 * 64 + 32, 32, 0, true⟩
/-- LOG_CUR.INDEX (R503). -/
def LOG_CUR_INDEX : Fld := ⟨0x01030010 * 64 + 0, 13, 0, false⟩
/-- LOG_EN.EN (R503). -/
def LOG_EN_EN (k : Nat) : Fld := ⟨(0x01030040 + 0x8 * k) * 64 + 0, 32, 4294967295, true⟩
/-- LOG_SEL.OFFSET (R503). -/
def LOG_SEL_OFFSET (k : Nat) : Fld := ⟨(0x01030100 + 0x8 * k) * 64 + 0, 25, logSelFactory k, true⟩
/-- TST_SEL.UNIT (R508). -/
def TST_SEL_UNIT : Fld := ⟨0x01100000 * 64 + 0, 7, 0, false⟩
/-- TST_CTL.PAT (R508). -/
def TST_CTL_PAT : Fld := ⟨0x01100008 * 64 + 0, 2, 0, false⟩
/-- TST_CTL.MODE (R508). -/
def TST_CTL_MODE : Fld := ⟨0x01100008 * 64 + 2, 2, 0, false⟩
/-- TST_CTL.INV (R508). -/
def TST_CTL_INV : Fld := ⟨0x01100008 * 64 + 4, 1, 0, false⟩
/-- TST_CTL.START (R508). -/
def TST_CTL_START : Fld := ⟨0x01100008 * 64 + 5, 1, 0, false⟩
/-- TST_CTL.STOP (R508). -/
def TST_CTL_STOP : Fld := ⟨0x01100008 * 64 + 6, 1, 0, false⟩
/-- TST_CTL.DUR_MS (R508). -/
def TST_CTL_DUR_MS : Fld := ⟨0x01100008 * 64 + 16, 16, 0, false⟩
/-- TST_STAT.RUN (R508). -/
def TST_STAT_RUN : Fld := ⟨0x01100010 * 64 + 0, 1, 0, false⟩
/-- TST_STAT.LOCK (R508). -/
def TST_STAT_LOCK : Fld := ⟨0x01100010 * 64 + 1, 1, 0, false⟩
/-- TST_STAT.ABORT (R508). -/
def TST_STAT_ABORT : Fld := ⟨0x01100010 * 64 + 2, 1, 0, false⟩
/-- TST_STAT.REFUSED (R508). -/
def TST_STAT_REFUSED : Fld := ⟨0x01100010 * 64 + 3, 1, 0, false⟩
/-- TST_STAT.RELOCK (R508). -/
def TST_STAT_RELOCK : Fld := ⟨0x01100010 * 64 + 32, 16, 0, false⟩
/-- TST_ERR.ERRORS (R508). -/
def TST_ERR_ERRORS : Fld := ⟨0x01100018 * 64 + 0, 48, 0, false⟩
/-- TST_BITS.BITS (R508). -/
def TST_BITS_BITS : Fld := ⟨0x01100020 * 64 + 0, 64, 0, false⟩
/-- HELM_THERM.WARN_C (R528). -/
def HELM_THERM_WARN_C : Fld := ⟨0x01001100 * 64 + 0, 8, 100, true⟩
/-- HELM_THERM.HOT (R528). -/
def HELM_THERM_HOT : Fld := ⟨0x01001100 * 64 + 8, 1, 0, false⟩
/-- HELM_THERM.WARNED (R528). -/
def HELM_THERM_WARNED : Fld := ⟨0x01001100 * 64 + 9, 1, 0, false⟩
/-- HELM_THERM.HELD (R528). -/
def HELM_THERM_HELD : Fld := ⟨0x01001100 * 64 + 10, 1, 0, false⟩
/-- HELM_THERM.TJ (R528). -/
def HELM_THERM_TJ : Fld := ⟨0x01001100 * 64 + 16, 8, 0, false⟩
/-- HELM_LIFE.EQH (R528). -/
def HELM_LIFE_EQH : Fld := ⟨0x01001108 * 64 + 0, 32, 0, true⟩
/-- HELM_LIFE.HOTH (R528). -/
def HELM_LIFE_HOTH : Fld := ⟨0x01001108 * 64 + 32, 32, 0, true⟩

/-- The register table of the CHR block. -/
def regsCHR : List RDef := [
  ⟨0x01010000, 1, 0x0, 1, 0x0, -- CHR_CTL
    [⟨0, 1, .rw, .num 1, true, false, 0, 1, 1⟩,
     ⟨1, 1, .rw, .num 0, true, false, 0, 1, 1⟩]⟩,
  ⟨0x01010008, 1, 0x0, 1, 0x0, -- CHR_TICK_PER
    [⟨0, 20, .rw, .num 1000000, true, false, 1000, 1000000, 1⟩]⟩,
  ⟨0x01010010, 1, 0x0, 1, 0x0, -- CHR_NOW
    [⟨0, 64, .ro, .num 0, true, true, 0, 18446744073709551615, 1⟩]⟩,
  ⟨0x01010018, 1, 0x0, 1, 0x0, -- CHR_STAT
    [⟨0, 1, .ro, .num 0, false, false, 0, 1, 1⟩,
     ⟨1, 1, .ro, .num 0, false, false, 0, 1, 1⟩,
     ⟨2, 1, .ro, .num 1, false, false, 0, 1, 1⟩,
     ⟨3, 1, .w1c, .num 0, false, false, 0, 1, 1⟩,
     ⟨4, 1, .w1c, .num 0, false, false, 0, 1, 1⟩,
     ⟨5, 1, .w1c, .num 0, false, false, 0, 1, 1⟩]⟩,
  ⟨0x01010020, 1, 0x0, 1, 0x0, -- CHR_ERR
    [⟨0, 32, .ro, .num 0, false, false, 0, 4294967295, 1⟩]⟩,
  ⟨0x01010028, 1, 0x0, 1, 0x0, -- CHR_GLITCH_CNT
    [⟨0, 32, .rc, .num 0, false, false, 0, 4294967295, 1⟩]⟩,
  ⟨0x01010030, 1, 0x0, 1, 0x0, -- CHR_WATCH
    [⟨0, 10, .rw, .num 100, true, false, 10, 1000, 1⟩]⟩,
  ⟨0x01010038, 1, 0x0, 1, 0x0, -- CHR_WSHARE
    [⟨0, 8, .rw, .num 32, true, false, 0, 255, 1⟩,
     ⟨8, 8, .rw, .num 128, true, false, 0, 255, 1⟩,
     ⟨16, 8, .rw, .num 160, true, false, 0, 255, 1⟩,
     ⟨24, 8, .rw, .num 96, true, false, 0, 255, 1⟩,
     ⟨32, 8, .rw, .num 192, true, false, 0, 255, 1⟩]⟩,
  ⟨0x01010040, 1, 0x0, 1, 0x0, -- CHR_SHARE_NOW
    [⟨0, 8, .ro, .num 0, false, false, 0, 255, 1⟩,
     ⟨32, 32, .ro, .num 0, false, false, 0, 4294967295, 1⟩]⟩,
  ⟨0x01010100, 1, 0x0, 1, 0x0, -- CHR_ALM_IDX
    [⟨0, 8, .rw, .num 0, false, false, 0, 255, 1⟩]⟩,
  ⟨0x01010108, 1, 0x0, 4, 0x8, -- CHR_ALM_DATA
    [⟨0, 64, .ro, .num 0, true, true, 0, 18446744073709551615, 1⟩]⟩]

/-- The register table of the HELM block. -/
def regsHELM : List RDef := [
  ⟨0x01000000, 1, 0x0, 1, 0x0, -- HELM_MODE
    [⟨0, 4, .ro, .num 1, false, false, 0, 15, 1⟩,
     ⟨4, 4, .ro, .num 0, false, false, 0, 15, 1⟩,
     ⟨8, 1, .ro, .num 0, false, false, 0, 1, 1⟩,
     ⟨32, 32, .ro, .num 0, false, false, 0, 4294967295, 1⟩]⟩,
  ⟨0x01000008, 1, 0x0, 1, 0x0, -- HELM_SAFE_CAUSE
    [⟨0, 8, .w1c, .num 0, true, false, 0, 255, 1⟩,
     ⟨8, 9, .w1c, .num 0, true, false, 0, 511, 1⟩,
     ⟨17, 1, .w1c, .num 0, true, false, 0, 1, 1⟩,
     ⟨18, 1, .ro, .num 0, false, false, 0, 1, 1⟩]⟩,
  ⟨0x01000010, 1, 0x0, 1, 0x0, -- HELM_KINDLE
    [⟨0, 4, .ro, .num 1, false, false, 0, 15, 1⟩,
     ⟨4, 1, .ro, .num 0, false, false, 0, 1, 1⟩,
     ⟨5, 1, .ro, .num 0, false, false, 0, 1, 1⟩,
     ⟨6, 1, .ro, .num 0, false, false, 0, 1, 1⟩,
     ⟨7, 1, .ro, .num 0, false, false, 0, 1, 1⟩]⟩,
  ⟨0x01000018, 1, 0x0, 1, 0x0, -- HELM_ADMIN
    [⟨0, 1, .rw, .num 0, true, false, 0, 1, 1⟩,
     ⟨4, 12, .rw, .num 0, true, false, 0, 4095, 1⟩]⟩,
  ⟨0x01000020, 1, 0x0, 1, 0x0, -- HELM_RESET_CAUSE
    [⟨0, 1, .w1c, .num 0, false, false, 0, 1, 1⟩,
     ⟨1, 1, .w1c, .num 0, false, false, 0, 1, 1⟩,
     ⟨2, 1, .w1c, .num 0, false, false, 0, 1, 1⟩,
     ⟨3, 1, .w1c, .num 0, false, false, 0, 1, 1⟩,
     ⟨4, 1, .w1c, .num 0, false, false, 0, 1, 1⟩,
     ⟨5, 1, .w1c, .num 0, false, false, 0, 1, 1⟩]⟩,
  ⟨0x01001000, 1, 0x0, 1, 0x0, -- HELM_MEDCFG
    [⟨0, 5, .rw, .num 12, true, false, 0, 16, 1⟩,
     ⟨8, 24, .rw, .num 3000, true, false, 0, 16777215, 1⟩]⟩,
  ⟨0x01001008, 1, 0x0, 1, 0x0, -- HELM_MEDTHR
    [⟨0, 8, .rw, .num 8, true, false, 0, 255, 1⟩,
     ⟨8, 8, .rw, .num 4, true, false, 0, 255, 1⟩,
     ⟨16, 12, .rw, .num 120, true, false, 0, 4095, 1⟩]⟩,
  ⟨0x01001010, 1, 0x0, 1, 0x0, -- HELM_PATROL
    [⟨0, 32, .rw, .num 100000, true, false, 0, 4294967295, 1⟩,
     ⟨32, 32, .ro, .num 0, false, false, 0, 4294967295, 1⟩]⟩,
  ⟨0x01001018, 1, 0x0, 1, 0x0, -- HELM_MEDSTAT
    [⟨0, 1, .ro, .num 0, false, false, 0, 1, 1⟩,
     ⟨1, 1, .ro, .num 0, false, true, 0, 1, 1⟩,
     ⟨2, 1, .ro, .num 0, false, true, 0, 1, 1⟩,
     ⟨12, 20, .ro, .num 0, false, true, 0, 1048575, 1⟩,
     ⟨32, 20, .ro, .num 0, false, true, 0, 1048575, 1⟩]⟩,
  ⟨0x01001020, 1, 0x0, 1, 0x0, -- HELM_SPACE
    [⟨0, 48, .ro, .num 0, false, true, 0, 281474976710655, 1⟩]⟩,
  ⟨0x01001028, 1, 0x0, 1, 0x0, -- HELM_UBIL
    [⟨0, 32, .ro, .num 0, false, true, 0, 4294967295, 1⟩,
     ⟨32, 32, .ro, .num 0, false, true, 0, 4294967295, 1⟩]⟩,
  ⟨0x01001030, 1, 0x0, 1, 0x0, -- HELM_HTHR
    [⟨0, 8, .rw, .num 10, true, false, 0, 255, 1⟩,
     ⟨8, 8, .rw, .num 90, true, false, 0, 255, 1⟩]⟩,
  ⟨0x01001040, 1, 0x0, 1, 0x0, -- HELM_BAND_IDX
    [⟨0, 20, .rw, .num 0, false, false, 0, 1048575, 1⟩]⟩,
  ⟨0x01001048, 1, 0x0, 2, 0x8, -- HELM_BAND_DATA
    [⟨0, 64, .ro, .num 0, false, true, 0, 18446744073709551615, 1⟩]⟩,
  ⟨0x01000028, 1, 0x0, 1, 0x0, -- HELM_VOTE
    [⟨0, 3, .ro, .num 0, false, false, 0, 7, 1⟩,
     ⟨8, 16, .rc, .num 0, false, false, 0, 65535, 1⟩,
     ⟨24, 2, .ro, .num 0, false, false, 0, 3, 1⟩,
     ⟨32, 32, .ro, .num 0, false, false, 0, 4294967295, 1⟩]⟩,
  ⟨0x01001100, 1, 0x0, 1, 0x0, -- HELM_THERM
    [⟨0, 8, .rw, .num 100, true, false, 70, 110, 1⟩,
     ⟨8, 1, .ro, .num 0, false, false, 0, 1, 1⟩,
     ⟨9, 1, .w1c, .num 0, false, false, 0, 1, 1⟩,
     ⟨10, 1, .ro, .num 0, false, false, 0, 1, 1⟩,
     ⟨16, 8, .ro, .num 0, false, false, 0, 255, 1⟩]⟩,
  ⟨0x01001108, 1, 0x0, 1, 0x0, -- HELM_LIFE
    [⟨0, 32, .ro, .num 0, true, false, 0, 4294967295, 1⟩,
     ⟨32, 32, .ro, .num 0, true, false, 0, 4294967295, 1⟩]⟩,
  ⟨0x01001110, 1, 0x0, 1, 0x0, -- HELM_STRAP
    [⟨0, 1, .ro, .num 0, false, true, 0, 1, 1⟩,
     ⟨1, 1, .ro, .num 0, false, true, 0, 1, 1⟩,
     ⟨2, 2, .ro, .num 0, false, true, 0, 3, 1⟩]⟩]

/-- The register table of the VECMAP block. -/
def regsVECMAP : List RDef := [
  ⟨0x02010000, 1, 0x0, 4096, 0x2, -- VECMAP
    [⟨0, 11, .rw, .vec, true, false, 16, 2047, 1⟩,
     ⟨15, 1, .rw, .num 1, true, false, 0, 1, 1⟩]⟩]

/-- The register table of the HLV block. -/
def regsHLV : List RDef := [
  ⟨0x1000000C, 2, 0x1000, 1, 0x0, -- HLV_CFG
    [⟨0, 1, .ro, .num 0, false, true, 0, 1, 1⟩,
     ⟨1, 1, .ro, .num 0, false, true, 0, 1, 1⟩]⟩,
  ⟨0x10000010, 2, 0x1000, 1, 0x0, -- HLV_STAT
    [⟨0, 2, .ro, .num 0, false, false, 0, 3, 1⟩,
     ⟨2, 5, .ro, .num 0, false, false, 0, 31, 1⟩,
     ⟨7, 1, .ro, .num 0, false, false, 0, 1, 1⟩,
     ⟨8, 1, .ro, .num 0, false, false, 0, 1, 1⟩,
     ⟨9, 1, .ro, .num 0, false, false, 0, 1, 1⟩,
     ⟨10, 1, .ro, .num 0, false, false, 0, 1, 1⟩]⟩,
  ⟨0x10000014, 2, 0x1000, 1, 0x0, -- HLV_REFUSED
    [⟨0, 32, .rc, .num 0, false, false, 0, 4294967295, 1⟩]⟩,
  ⟨0x10000018, 2, 0x1000, 1, 0x0, -- HLV_MALFORMED
    [⟨0, 32, .rc, .num 0, false, false, 0, 4294967295, 1⟩]⟩,
  ⟨0x1000001C, 2, 0x1000, 1, 0x0, -- HLV_DOWN
    [⟨0, 32, .rc, .num 0, false, false, 0, 4294967295, 1⟩]⟩]

/-- The register table of the ANV block. -/
def regsANV : List RDef := [
  ⟨0x01110000, 1, 0x0, 1, 0x0, -- ANV_SEL
    [⟨0, 13, .rw, .num 0, false, false, 0, 4607, 1⟩]⟩,
  ⟨0x01110008, 1, 0x0, 1, 0x0, -- ANV_THREAD
    [⟨0, 3, .ro, .num 0, false, true, 0, 7, 1⟩,
     ⟨8, 4, .ro, .num 0, false, true, 0, 15, 1⟩,
     ⟨27, 11, .ro, .num 0, false, true, 0, 2047, 1⟩,
     ⟨38, 4, .ro, .num 0, false, true, 0, 15, 1⟩,
     ⟨42, 4, .ro, .num 0, false, true, 0, 15, 1⟩,
     ⟨46, 12, .ro, .num 0, false, true, 0, 4095, 1⟩]⟩,
  ⟨0x01110010, 1, 0x0, 1, 0x0, -- ANV_PC
    [⟨0, 23, .ro, .num 0, false, true, 0, 8388607, 1⟩]⟩,
  ⟨0x01110018, 1, 0x0, 1, 0x0, -- ANV_WAITARG
    [⟨0, 64, .ro, .num 0, false, true, 0, 18446744073709551615, 1⟩]⟩,
  ⟨0x01110020, 1, 0x0, 1, 0x0, -- ANV_WAITSINCE
    [⟨0, 64, .ro, .num 0, false, true, 0, 18446744073709551615, 1⟩]⟩,
  ⟨0x01110028, 1, 0x0, 1, 0x0, -- ANV_FAULT
    [⟨0, 2, .ro, .num 0, false, true, 0, 3, 1⟩,
     ⟨2, 1, .w1c, .num 0, false, true, 0, 1, 1⟩,
     ⟨8, 8, .ro, .num 0, false, true, 0, 255, 1⟩,
     ⟨16, 23, .ro, .num 0, false, true, 0, 8388607, 1⟩]⟩,
  ⟨0x01110040, 1, 0x0, 4, 0x8, -- ANV_QSTAT
    [⟨0, 7, .ro, .num 0, false, true, 0, 127, 1⟩,
     ⟨8, 11, .ro, .num 0, false, true, 0, 2047, 1⟩,
     ⟨20, 11, .ro, .num 0, false, true, 0, 2047, 1⟩,
     ⟨32, 11, .ro, .num 0, false, true, 0, 2047, 1⟩,
     ⟨56, 7, .ro, .num 64, false, false, 0, 127, 1⟩]⟩,
  ⟨0x01110060, 1, 0x0, 1, 0x0, -- ANV_TMO
    [⟨0, 16, .rw, .num 500, true, false, 1, 65535, 1⟩,
     ⟨16, 16, .rw, .num 250, true, false, 1, 65535, 1⟩,
     ⟨32, 16, .rw, .num 64, true, false, 1, 65535, 1⟩,
     ⟨48, 8, .rw, .num 16, true, false, 1, 255, 1⟩]⟩,
  ⟨0x01110068, 1, 0x0, 1, 0x0, -- ANV_FCNT
    [⟨0, 16, .rc, .num 0, false, false, 0, 65535, 1⟩,
     ⟨16, 16, .rc, .num 0, false, false, 0, 65535, 1⟩,
     ⟨32, 16, .rc, .num 0, false, false, 0, 65535, 1⟩,
     ⟨48, 16, .rc, .num 0, false, false, 0, 65535, 1⟩]⟩,
  ⟨0x01110070, 1, 0x0, 1, 0x0, -- ANV_ROLE_SUSP
    [⟨1, 8, .w1c, .num 0, true, false, 0, 255, 1⟩]⟩,
  ⟨0x01110080, 1, 0x0, 4, 0x10, -- ANV_ISSUE_H
    [⟨0, 64, .ro, .num 0, false, false, 0, 18446744073709551615, 1⟩]⟩,
  ⟨0x01110088, 1, 0x0, 4, 0x10, -- ANV_ISSUE_I
    [⟨0, 64, .ro, .num 0, false, false, 0, 18446744073709551615, 1⟩]⟩,
  ⟨0x01110100, 1, 0x0, 32, 0x8, -- ANV_GREG
    [⟨0, 64, .ro, .num 0, false, true, 0, 18446744073709551615, 1⟩]⟩]

/-- The register table of the MAP block. -/
def regsMAP : List RDef := [
  ⟨0x01040000, 1, 0x0, 1, 0x0, -- MAP_LCAP
    [⟨0, 32, .ro, .num 0, false, false, 0, 4294967295, 1⟩]⟩,
  ⟨0x01040008, 1, 0x0, 1, 0x0, -- MAP_OP
    [⟨0, 8, .rw, .num 24, true, false, 0, 255, 1⟩]⟩,
  ⟨0x01040010, 1, 0x0, 1, 0x0, -- MAP_GEOM
    [⟨0, 3, .ro, .num 0, false, false, 0, 7, 1⟩,
     ⟨3, 12, .ro, .num 0, false, false, 0, 4095, 1⟩,
     ⟨15, 14, .ro, .num 0, false, false, 0, 16383, 1⟩]⟩,
  ⟨0x01040018, 1, 0x0, 1, 0x0, -- MAP_TEMPER
    [⟨0, 9, .rw, .num 64, true, false, 1, 256, 1⟩,
     ⟨16, 8, .rw, .num 192, true, false, 0, 255, 1⟩,
     ⟨24, 8, .rw, .num 160, true, false, 0, 255, 1⟩]⟩,
  ⟨0x01040020, 1, 0x0, 1, 0x0, -- MAP_OVL
    [⟨0, 29, .ro, .num 0, false, false, 0, 536870911, 1⟩,
     ⟨29, 1, .ro, .num 0, false, false, 0, 1, 1⟩,
     ⟨32, 25, .ro, .num 0, false, false, 0, 33554431, 1⟩]⟩,
  ⟨0x01040028, 1, 0x0, 1, 0x0, -- MAP_OVL_WAIT
    [⟨0, 32, .rc, .num 0, false, false, 0, 4294967295, 1⟩]⟩,
  ⟨0x01040030, 1, 0x0, 1, 0x0, -- MAP_JSEQ
    [⟨0, 64, .ro, .num 0, false, false, 0, 18446744073709551615, 1⟩]⟩,
  ⟨0x01040038, 1, 0x0, 1, 0x0, -- MAP_JSTAT
    [⟨0, 17, .ro, .num 0, false, false, 0, 131071, 1⟩,
     ⟨32, 31, .ro, .num 0, false, false, 0, 2147483647, 1⟩,
     ⟨63, 1, .w1c, .num 0, false, false, 0, 1, 1⟩]⟩,
  ⟨0x01040040, 1, 0x0, 1, 0x0, -- MAP_JCTL
    [⟨0, 4, .rw, .num 2, true, false, 1, 15, 1⟩]⟩,
  ⟨0x01040048, 1, 0x0, 1, 0x0, -- MAP_CKPT
    [⟨0, 32, .ro, .num 0, false, false, 0, 4294967295, 1⟩,
     ⟨32, 1, .ro, .num 0, false, false, 0, 1, 1⟩,
     ⟨33, 1, .ro, .num 0, false, false, 0, 1, 1⟩]⟩,
  ⟨0x01040050, 1, 0x0, 1, 0x0, -- MAP_CK_JSEQ
    [⟨0, 64, .ro, .num 0, true, false, 0, 18446744073709551615, 1⟩]⟩,
  ⟨0x01040058, 1, 0x0, 1, 0x0, -- MAP_VFREE
    [⟨0, 32, .ro, .num 0, false, true, 0, 4294967295, 1⟩,
     ⟨32, 32, .ro, .num 0, false, true, 0, 4294967295, 1⟩]⟩,
  ⟨0x01040100, 1, 0x0, 1, 0x0, -- MAP_VOL_IDX
    [⟨0, 13, .rw, .num 0, false, false, 0, 8191, 1⟩]⟩,
  ⟨0x01040108, 1, 0x0, 4, 0x8, -- MAP_VOL_DATA
    [⟨0, 64, .ro, .num 0, false, true, 0, 18446744073709551615, 1⟩]⟩]

/-- The register table of the MC block. -/
def regsMC : List RDef := [
  ⟨0x01050000, 4, 0x1000, 1, 0x0, -- MC_CTL
    [⟨0, 1, .rw, .num 1, true, false, 0, 1, 1⟩,
     ⟨1, 1, .rw, .num 1, true, false, 0, 1, 1⟩,
     ⟨2, 1, .rw, .num 1, true, false, 0, 1, 1⟩]⟩,
  ⟨0x01050008, 4, 0x1000, 1, 0x0, -- MC_STAT
    [⟨0, 1, .ro, .num 0, false, false, 0, 1, 1⟩,
     ⟨1, 1, .w1c, .num 0, false, false, 0, 1, 1⟩,
     ⟨16, 10, .ro, .num 0, false, true, 0, 1023, 1⟩,
     ⟨32, 9, .ro, .num 0, false, true, 0, 511, 1⟩]⟩,
  ⟨0x01050010, 4, 0x1000, 1, 0x0, -- MC_SP
    [⟨0, 4, .rw, .num 0, true, false, 0, 8, 1⟩,
     ⟨8, 4, .ro, .num 0, false, false, 0, 15, 1⟩,
     ⟨12, 1, .ro, .num 0, false, false, 0, 1, 1⟩,
     ⟨16, 16, .ro, .num 0, false, false, 0, 65535, 1⟩]⟩,
  ⟨0x01050018, 4, 0x1000, 1, 0x0, -- MC_WAYDIS
    [⟨0, 16, .w1c, .num 0, true, false, 0, 65535, 1⟩,
     ⟨16, 5, .ro, .num 16, false, true, 0, 31, 1⟩]⟩,
  ⟨0x01050020, 4, 0x1000, 1, 0x0, -- MC_ERRTHR
    [⟨0, 8, .rw, .num 16, true, false, 1, 255, 1⟩]⟩,
  ⟨0x01050028, 4, 0x1000, 1, 0x0, -- MC_PF
    [⟨0, 4, .rw, .num 2, true, false, 1, 8, 1⟩,
     ⟨4, 2, .rw, .num 2, true, false, 1, 3, 1⟩,
     ⟨8, 8, .rw, .num 64, true, false, 1, 255, 1⟩]⟩,
  ⟨0x01050040, 4, 0x1000, 16, 0x8, -- MC_ERRCNT
    [⟨0, 8, .ro, .num 0, false, false, 0, 255, 1⟩,
     ⟨16, 32, .rc, .num 0, false, false, 0, 4294967295, 1⟩,
     ⟨48, 16, .rc, .num 0, false, false, 0, 65535, 1⟩]⟩,
  ⟨0x010500C0, 4, 0x1000, 1, 0x0, -- MC_HITS
    [⟨0, 64, .ro, .num 0, false, false, 0, 18446744073709551615, 1⟩]⟩,
  ⟨0x010500C8, 4, 0x1000, 1, 0x0, -- MC_MISSES
    [⟨0, 64, .ro, .num 0, false, false, 0, 18446744073709551615, 1⟩]⟩,
  ⟨0x010500D0, 4, 0x1000, 1, 0x0, -- MC_VHITS
    [⟨0, 64, .ro, .num 0, false, false, 0, 18446744073709551615, 1⟩]⟩,
  ⟨0x010500D8, 4, 0x1000, 1, 0x0, -- MC_PFILLS
    [⟨0, 64, .ro, .num 0, false, false, 0, 18446744073709551615, 1⟩]⟩]

/-- The register table of the BUF block. -/
def regsBUF : List RDef := [
  ⟨0x01060000, 1, 0x0, 4, 0x8, -- BUF_FREEQ
    [⟨0, 11, .ro, .num 1024, false, true, 0, 2047, 1⟩,
     ⟨16, 10, .ro, .num 640, false, true, 0, 1023, 1⟩]⟩,
  ⟨0x01060020, 1, 0x0, 1, 0x0, -- BUF_FREED
    [⟨0, 17, .ro, .num 65536, false, true, 0, 131071, 1⟩,
     ⟨32, 15, .ro, .num 19456, false, true, 0, 32767, 1⟩]⟩,
  ⟨0x01060028, 1, 0x0, 1, 0x0, -- BUF_WB
    [⟨0, 4, .rw, .num 4, true, false, 1, 8, 1⟩,
     ⟨4, 4, .ro, .num 4, true, false, 0, 15, 1⟩,
     ⟨8, 13, .ro, .num 0, false, true, 0, 8191, 1⟩,
     ⟨32, 13, .ro, .num 0, false, true, 0, 8191, 1⟩]⟩,
  ⟨0x01060030, 1, 0x0, 1, 0x0, -- BUF_FLUSHQ
    [⟨0, 13, .ro, .num 0, false, true, 0, 8191, 1⟩]⟩,
  ⟨0x01060038, 1, 0x0, 1, 0x0, -- BUF_SYS
    [⟨0, 17, .ro, .num 0, false, true, 0, 131071, 1⟩,
     ⟨32, 15, .ro, .num 0, false, true, 0, 32767, 1⟩]⟩,
  ⟨0x01060040, 1, 0x0, 1, 0x0, -- BUF_CAP
    [⟨0, 17, .ro, .num 0, false, false, 0, 131071, 1⟩,
     ⟨32, 15, .ro, .num 0, false, false, 0, 32767, 1⟩]⟩,
  ⟨0x01060048, 1, 0x0, 1, 0x0, -- BUF_PARK
    [⟨0, 13, .ro, .num 0, false, true, 0, 8191, 1⟩,
     ⟨16, 13, .ro, .num 0, false, true, 0, 8191, 1⟩]⟩,
  ⟨0x01060050, 1, 0x0, 1, 0x0, -- BUF_FBCNT
    [⟨0, 32, .rc, .num 0, false, false, 0, 4294967295, 1⟩,
     ⟨32, 32, .rc, .num 0, false, false, 0, 4294967295, 1⟩]⟩]

/-- The register table of the DRM block. -/
def regsDRM : List RDef := [
  ⟨0x01070000, 1, 0x0, 1, 0x0, -- DRM_STAT
    [⟨0, 1, .ro, .num 0, false, false, 0, 1, 1⟩,
     ⟨1, 1, .ro, .num 0, false, false, 0, 1, 1⟩]⟩,
  ⟨0x01070008, 1, 0x0, 1, 0x0, -- DRM_SCRUB
    [⟨0, 16, .rw, .num 25, true, false, 0, 65535, 1⟩,
     ⟨32, 32, .ro, .num 0, false, false, 0, 4294967295, 1⟩]⟩,
  ⟨0x01070010, 1, 0x0, 1, 0x0, -- DRM_SCRUBPOS
    [⟨0, 31, .ro, .num 0, false, false, 0, 2147483647, 1⟩]⟩,
  ⟨0x01070040, 1, 0x0, 8, 0x8, -- DRM_ECNT
    [⟨0, 32, .rc, .num 0, false, false, 0, 4294967295, 1⟩,
     ⟨32, 16, .rc, .num 0, false, false, 0, 65535, 1⟩,
     ⟨48, 16, .rc, .num 0, false, false, 0, 65535, 1⟩]⟩,
  ⟨0x01070080, 1, 0x0, 1, 0x0, -- DRM_CECTL
    [⟨0, 8, .rw, .num 8, true, false, 1, 255, 1⟩,
     ⟨8, 1, .wo, .num 0, false, false, 0, 1, 1⟩]⟩,
  ⟨0x01070088, 1, 0x0, 1, 0x0, -- DRM_CESTAT
    [⟨0, 6, .ro, .num 0, false, true, 0, 63, 1⟩,
     ⟨6, 1, .ro, .num 0, false, false, 0, 1, 1⟩]⟩,
  ⟨0x01070090, 1, 0x0, 1, 0x0, -- DRM_CE_IDX
    [⟨0, 5, .rw, .num 0, false, false, 0, 31, 1⟩]⟩,
  ⟨0x01070098, 1, 0x0, 1, 0x0, -- DRM_CE_DATA
    [⟨0, 37, .ro, .num 0, false, true, 0, 137438953471, 1⟩,
     ⟨37, 3, .ro, .num 0, false, true, 0, 7, 1⟩,
     ⟨40, 8, .ro, .num 0, false, true, 0, 255, 1⟩]⟩,
  ⟨0x010700A0, 1, 0x0, 1, 0x0, -- DRM_CE_STAMP
    [⟨0, 64, .ro, .num 0, false, true, 0, 18446744073709551615, 1⟩]⟩,
  ⟨0x010700B0, 1, 0x0, 1, 0x0, -- DRM_UELOG
    [⟨0, 37, .ro, .num 0, false, false, 0, 137438953471, 1⟩,
     ⟨37, 3, .ro, .num 0, false, false, 0, 7, 1⟩,
     ⟨40, 4, .ro, .num 0, false, false, 0, 15, 1⟩,
     ⟨44, 1, .w1c, .num 0, false, false, 0, 1, 1⟩]⟩,
  ⟨0x010700B8, 1, 0x0, 1, 0x0, -- DRM_UESTAMP
    [⟨0, 64, .ro, .num 0, false, false, 0, 18446744073709551615, 1⟩]⟩,
  ⟨0x010700C0, 1, 0x0, 4, 0x8, -- DRM_SRAMCNT
    [⟨0, 32, .rc, .num 0, false, false, 0, 4294967295, 1⟩,
     ⟨32, 16, .rc, .num 0, false, false, 0, 65535, 1⟩]⟩]

/-- The register table of the CH block. -/
def regsCH : List RDef := [
  ⟨0x01080000, 32, 0x800, 1, 0x0, -- CH_CFG
    [⟨0, 1, .rw, .num 1, true, false, 0, 1, 1⟩,
     ⟨1, 3, .rw, .num 7, true, false, 1, 7, 1⟩,
     ⟨8, 8, .rw, .num 10, true, false, 0, 255, 1⟩]⟩,
  ⟨0x01080008, 32, 0x800, 1, 0x0, -- CH_STAT
    [⟨0, 3, .ro, .num 0, false, false, 0, 7, 1⟩,
     ⟨3, 1, .ro, .num 0, false, false, 0, 1, 1⟩,
     ⟨4, 1, .ro, .num 0, false, false, 0, 1, 1⟩,
     ⟨5, 1, .ro, .num 0, false, false, 0, 1, 1⟩,
     ⟨6, 5, .ro, .num 0, false, false, 0, 31, 1⟩,
     ⟨16, 7, .ro, .num 0, false, true, 0, 127, 1⟩]⟩,
  ⟨0x01080010, 32, 0x800, 1, 0x0, -- CH_PKGMAP
    [⟨0, 16, .ro, .num 0, false, false, 0, 65535, 1⟩]⟩,
  ⟨0x01080018, 32, 0x800, 4, 0x8, -- CH_DIEMAP
    [⟨0, 64, .ro, .num 0, false, false, 0, 18446744073709551615, 1⟩]⟩,
  ⟨0x01080038, 32, 0x800, 4, 0x8, -- CH_DIEFAIL
    [⟨0, 64, .ro, .num 0, true, false, 0, 18446744073709551615, 1⟩]⟩,
  ⟨0x01080058, 32, 0x800, 1, 0x0, -- CH_ROWFMT
    [⟨0, 4, .ro, .num 0, false, false, 0, 15, 1⟩,
     ⟨4, 2, .ro, .num 0, false, false, 0, 3, 1⟩,
     ⟨6, 4, .ro, .num 0, false, false, 0, 15, 1⟩,
     ⟨10, 3, .ro, .num 0, false, false, 0, 7, 1⟩,
     ⟨13, 3, .ro, .num 0, false, false, 0, 7, 1⟩,
     ⟨16, 1, .ro, .num 0, false, false, 0, 1, 1⟩]⟩,
  ⟨0x01080060, 32, 0x800, 1, 0x0, -- CH_SLOT
    [⟨0, 13, .ro, .num 0, false, false, 0, 8191, 1⟩]⟩,
  ⟨0x01080068, 32, 0x800, 1, 0x0, -- CH_TIMING
    [⟨0, 8, .ro, .num 0, false, false, 0, 255, 1⟩,
     ⟨8, 16, .ro, .num 0, false, false, 0, 65535, 1⟩]⟩,
  ⟨0x01080070, 32, 0x800, 1, 0x0, -- CH_SCHED
    [⟨0, 16, .rw, .num 20, true, false, 1, 65535, 1⟩]⟩,
  ⟨0x01080078, 32, 0x800, 1, 0x0, -- CH_SUSP
    [⟨0, 1, .rw, .num 1, true, false, 0, 1, 1⟩,
     ⟨8, 4, .rw, .num 4, true, false, 1, 15, 1⟩,
     ⟨16, 16, .rw, .num 400, true, false, 0, 65535, 1⟩,
     ⟨32, 16, .rw, .num 300, true, false, 1, 65535, 1⟩]⟩,
  ⟨0x01080080, 32, 0x800, 1, 0x0, -- CH_QUEUE
    [⟨0, 18, .ro, .num 0, false, true, 0, 262143, 1⟩,
     ⟨32, 18, .ro, .num 0, false, true, 0, 262143, 1⟩]⟩,
  ⟨0x01080088, 32, 0x800, 1, 0x0, -- CH_BUDGET
    [⟨0, 32, .ro, .num 0, false, false, 0, 4294967295, 1⟩,
     ⟨32, 32, .ro, .num 0, false, false, 0, 4294967295, 1⟩]⟩,
  ⟨0x01080090, 32, 0x800, 1, 0x0, -- CH_MTIME_FG
    [⟨0, 64, .ro, .num 0, false, false, 0, 18446744073709551615, 1⟩]⟩,
  ⟨0x01080098, 32, 0x800, 1, 0x0, -- CH_MTIME_BG
    [⟨0, 64, .ro, .num 0, false, false, 0, 18446744073709551615, 1⟩]⟩,
  ⟨0x010800A0, 32, 0x800, 1, 0x0, -- CH_ERR
    [⟨0, 16, .rc, .num 0, false, false, 0, 65535, 1⟩,
     ⟨16, 16, .rc, .num 0, false, false, 0, 65535, 1⟩,
     ⟨32, 16, .rc, .num 0, false, false, 0, 65535, 1⟩,
     ⟨48, 16, .rc, .num 0, false, false, 0, 65535, 1⟩]⟩,
  ⟨0x010800A8, 32, 0x800, 1, 0x0, -- CH_SFLOG
    [⟨0, 8, .ro, .num 0, false, false, 0, 255, 1⟩,
     ⟨8, 14, .ro, .num 0, false, false, 0, 16383, 1⟩,
     ⟨22, 4, .ro, .num 0, false, false, 0, 15, 1⟩,
     ⟨31, 1, .w1c, .num 0, false, false, 0, 1, 1⟩]⟩,
  ⟨0x010800B0, 32, 0x800, 1, 0x0, -- CH_SUSPCNT
    [⟨0, 32, .rc, .num 0, false, false, 0, 4294967295, 1⟩,
     ⟨32, 32, .rc, .num 0, false, false, 0, 4294967295, 1⟩]⟩,
  ⟨0x010800B8, 32, 0x800, 1, 0x0, -- CH_RETRY
    [⟨0, 32, .rc, .num 0, false, false, 0, 4294967295, 1⟩,
     ⟨32, 32, .rc, .num 0, false, false, 0, 4294967295, 1⟩]⟩]

/-- The register table of the PAR block. -/
def regsPAR : List RDef := [
  ⟨0x01090000, 1, 0x0, 1, 0x0, -- PAR_CFG
    [⟨0, 1, .rw, .num 1, true, false, 0, 1, 1⟩,
     ⟨8, 8, .rw, .num 16, true, false, 1, 255, 1⟩,
     ⟨16, 6, .rw, .num 32, true, false, 8, 32, 1⟩,
     ⟨22, 1, .rw, .num 0, true, false, 0, 1, 1⟩]⟩,
  ⟨0x01090008, 1, 0x0, 1, 0x0, -- PAR_STAT
    [⟨0, 11, .ro, .num 0, false, true, 0, 2047, 1⟩,
     ⟨16, 14, .ro, .num 0, false, true, 0, 16383, 1⟩,
     ⟨32, 11, .ro, .num 0, false, true, 0, 2047, 1⟩,
     ⟨48, 11, .ro, .num 0, false, true, 0, 2047, 1⟩]⟩,
  ⟨0x01090010, 1, 0x0, 1, 0x0, -- PAR_JSTAT
    [⟨0, 13, .ro, .num 0, false, true, 0, 8191, 1⟩,
     ⟨16, 13, .ro, .num 0, false, true, 0, 8191, 1⟩,
     ⟨29, 1, .w1c, .num 0, false, false, 0, 1, 1⟩,
     ⟨30, 1, .w1c, .num 0, false, false, 0, 1, 1⟩,
     ⟨32, 32, .rc, .num 0, false, false, 0, 4294967295, 1⟩]⟩,
  ⟨0x01090100, 1, 0x0, 1, 0x0, -- PAR_GSEL
    [⟨0, 10, .rw, .num 0, false, false, 0, 1023, 1⟩]⟩,
  ⟨0x01090108, 1, 0x0, 1, 0x0, -- PAR_GRP
    [⟨0, 3, .ro, .num 0, false, true, 0, 7, 1⟩,
     ⟨3, 1, .ro, .num 0, false, true, 0, 1, 1⟩,
     ⟨4, 6, .ro, .num 0, false, true, 0, 63, 1⟩,
     ⟨10, 2, .ro, .num 0, false, true, 0, 3, 1⟩,
     ⟨12, 1, .ro, .num 0, false, true, 0, 1, 1⟩,
     ⟨14, 14, .ro, .num 0, false, true, 0, 16383, 1⟩,
     ⟨32, 5, .ro, .num 0, false, true, 0, 31, 1⟩]⟩,
  ⟨0x01090110, 1, 0x0, 8, 0x8, -- PAR_GMEM
    [⟨0, 64, .ro, .num 0, false, true, 0, 18446744073709551615, 1⟩]⟩,
  ⟨0x01090180, 1, 0x0, 1, 0x0, -- PAR_RDSEL
    [⟨0, 8, .rw, .num 0, false, false, 0, 255, 1⟩]⟩,
  ⟨0x01090188, 1, 0x0, 1, 0x0, -- PAR_RDDATA
    [⟨0, 13, .ro, .num 0, false, true, 0, 8191, 1⟩,
     ⟨16, 13, .ro, .num 0, false, true, 0, 8191, 1⟩,
     ⟨32, 10, .ro, .num 0, false, true, 0, 1023, 1⟩,
     ⟨63, 1, .ro, .num 0, false, true, 0, 1, 1⟩]⟩,
  ⟨0x01090200, 1, 0x0, 1, 0x0, -- PAR_RSHP
    [⟨0, 1, .ro, .num 0, false, false, 0, 1, 1⟩,
     ⟨1, 10, .ro, .num 0, false, false, 0, 1023, 1⟩,
     ⟨16, 14, .ro, .num 0, false, false, 0, 16383, 1⟩,
     ⟨32, 9, .ro, .num 0, false, false, 0, 511, 1⟩]⟩,
  ⟨0x01090300, 1, 0x0, 1, 0x0, -- PAR_DSEL
    [⟨0, 13, .rw, .num 0, false, false, 0, 8191, 1⟩]⟩,
  ⟨0x01090308, 1, 0x0, 1, 0x0, -- PAR_DINFO
    [⟨0, 2, .ro, .num 0, false, true, 0, 3, 1⟩,
     ⟨2, 10, .ro, .num 0, false, true, 0, 1023, 1⟩,
     ⟨12, 5, .ro, .num 0, false, true, 0, 31, 1⟩,
     ⟨24, 8, .ro, .num 0, false, true, 0, 255, 1⟩]⟩,
  ⟨0x01090310, 1, 0x0, 1, 0x0, -- PAR_OFFLOG
    [⟨0, 10, .ro, .num 0, false, false, 0, 1023, 1⟩,
     ⟨16, 1, .w1c, .num 0, false, false, 0, 1, 1⟩]⟩,
  ⟨0x01090318, 1, 0x0, 1, 0x0, -- PAR_OFFSTAMP
    [⟨0, 64, .ro, .num 0, false, false, 0, 18446744073709551615, 1⟩]⟩]

/-- The register table of the CIP block. -/
def regsCIP : List RDef := [
  ⟨0x010A0000, 1, 0x0, 1, 0x0, -- CIP_STAT
    [⟨0, 1, .ro, .num 0, false, false, 0, 1, 1⟩,
     ⟨4, 4, .ro, .num 0, false, false, 0, 15, 1⟩]⟩,
  ⟨0x010A0008, 1, 0x0, 1, 0x0, -- CIP_EPOCH
    [⟨0, 32, .ro, .num 0, true, false, 0, 4294967295, 1⟩,
     ⟨32, 32, .ro, .num 0, true, false, 0, 4294967295, 1⟩]⟩,
  ⟨0x010A0010, 1, 0x0, 4, 0x8, -- CIP_ENGDIS
    [⟨0, 24, .ro, .num 0, false, false, 0, 16777215, 1⟩,
     ⟨24, 2, .ro, .num 0, false, false, 0, 3, 1⟩,
     ⟨26, 2, .ro, .num 0, false, false, 0, 3, 1⟩,
     ⟨28, 2, .ro, .num 0, false, false, 0, 3, 1⟩]⟩,
  ⟨0x010A0040, 1, 0x0, 1, 0x0, -- CIP_PSEL
    [⟨0, 11, .rw, .num 0, false, false, 0, 1039, 1⟩]⟩,
  ⟨0x010A0048, 1, 0x0, 1, 0x0, -- CIP_PAGE
    [⟨0, 1, .ro, .num 0, true, true, 0, 1, 1⟩,
     ⟨1, 1, .ro, .num 0, true, true, 0, 1, 1⟩,
     ⟨2, 1, .ro, .num 0, true, true, 0, 1, 1⟩,
     ⟨3, 1, .ro, .num 0, true, true, 0, 1, 1⟩,
     ⟨32, 32, .ro, .num 0, true, true, 0, 4294967295, 1⟩]⟩,
  ⟨0x010A0080, 1, 0x0, 4, 0x8, -- CIP_ERR
    [⟨0, 16, .rc, .num 0, false, false, 0, 65535, 1⟩,
     ⟨16, 16, .rc, .num 0, false, false, 0, 65535, 1⟩,
     ⟨32, 16, .rc, .num 0, false, false, 0, 65535, 1⟩]⟩,
  ⟨0x010A00A0, 1, 0x0, 1, 0x0, -- CIP_PIX
    [⟨0, 32, .rc, .num 0, false, false, 0, 4294967295, 1⟩,
     ⟨32, 32, .rc, .num 0, false, false, 0, 4294967295, 1⟩]⟩,
  ⟨0x010A00C0, 1, 0x0, 4, 0x8, -- CIP_QSTAT
    [⟨0, 16, .ro, .num 0, false, true, 0, 65535, 1⟩,
     ⟨16, 16, .ro, .num 0, false, true, 0, 65535, 1⟩]⟩,
  ⟨0x010A01F0, 1, 0x0, 2, 0x8, -- CIP_UID
    [⟨0, 64, .ro, .num 0, false, true, 0, 18446744073709551615, 1⟩]⟩,
  ⟨0x010A0200, 1, 0x0, 1, 0x0, -- CIP_KTK_IDX
    [⟨0, 6, .rw, .num 0, false, false, 0, 47, 1⟩]⟩,
  ⟨0x010A0208, 1, 0x0, 1, 0x0, -- CIP_KTK_DATA
    [⟨0, 64, .ro, .num 0, false, true, 0, 18446744073709551615, 1⟩]⟩]

/-- The register table of the TEN block. -/
def regsTEN : List RDef := [
  ⟨0x010B0000, 1, 0x0, 1, 0x0, -- TEN_RSEL
    [⟨0, 6, .rw, .num 0, false, false, 0, 59, 1⟩]⟩,
  ⟨0x010B0008, 1, 0x0, 1, 0x0, -- TEN_RING
    [⟨0, 6, .ro, .num 59, true, false, 0, 63, 1⟩,
     ⟨32, 32, .ro, .num 0, true, false, 0, 4294967295, 1⟩]⟩,
  ⟨0x010B0010, 1, 0x0, 1, 0x0, -- TEN_TSEL
    [⟨0, 10, .rw, .num 0, false, false, 0, 1023, 1⟩]⟩,
  ⟨0x010B0018, 1, 0x0, 1, 0x0, -- TEN_QFLAGS
    [⟨0, 3, .ro, .num 0, true, true, 0, 7, 1⟩,
     ⟨16, 13, .ro, .num 0, false, true, 0, 8191, 1⟩]⟩,
  ⟨0x010B0020, 1, 0x0, 3, 0x8, -- TEN_QRATE
    [⟨0, 47, .ro, .num 0, true, true, 0, 140737488355327, 1⟩]⟩,
  ⟨0x010B0038, 1, 0x0, 3, 0x8, -- TEN_QCAP
    [⟨0, 47, .ro, .num 0, true, true, 0, 140737488355327, 1⟩]⟩,
  ⟨0x010B0050, 1, 0x0, 3, 0x8, -- TEN_QBAL
    [⟨0, 47, .ro, .num 0, false, true, 0, 140737488355327, 1⟩]⟩]

/-- The register table of the PWR block. -/
def regsPWR : List RDef := [
  ⟨0x010C0000, 1, 0x0, 1, 0x0, -- PWR_WARN
    [⟨0, 14, .rw, .num 10500, true, false, 6000, 12000, 50⟩,
     ⟨16, 6, .rw, .num 25, true, false, 0, 50, 1⟩,
     ⟨24, 1, .rw, .num 1, true, false, 0, 1, 1⟩]⟩,
  ⟨0x010C0008, 1, 0x0, 1, 0x0, -- PWR_STAT
    [⟨0, 1, .ro, .num 0, false, false, 0, 1, 1⟩,
     ⟨1, 1, .ro, .num 0, false, false, 0, 1, 1⟩,
     ⟨2, 1, .ro, .num 0, false, false, 0, 1, 1⟩,
     ⟨3, 1, .ro, .num 0, false, false, 0, 1, 1⟩,
     ⟨4, 3, .ro, .num 0, false, false, 0, 7, 1⟩,
     ⟨7, 1, .ro, .num 0, false, false, 0, 1, 1⟩]⟩,
  ⟨0x010C0010, 1, 0x0, 1, 0x0, -- PWR_VIN
    [⟨0, 16, .ro, .num 0, false, false, 0, 65535, 1⟩,
     ⟨16, 16, .ro, .num 65535, false, false, 0, 65535, 1⟩]⟩,
  ⟨0x010C0018, 1, 0x0, 1, 0x0, -- PWR_HOLD
    [⟨0, 16, .ro, .num 0, false, false, 0, 65535, 1⟩]⟩,
  ⟨0x010C0020, 1, 0x0, 1, 0x0, -- PWR_HCFG
    [⟨0, 1, .rw, .num 0, true, false, 0, 1, 1⟩,
     ⟨4, 12, .rw, .num 320, true, false, 16, 4095, 1⟩,
     ⟨16, 16, .rw, .num 0, true, false, 0, 65535, 1⟩]⟩,
  ⟨0x010C0028, 1, 0x0, 1, 0x0, -- PWR_QBUD
    [⟨0, 16, .ro, .num 0, false, false, 0, 65535, 1⟩,
     ⟨16, 16, .ro, .num 0, false, false, 0, 65535, 1⟩,
     ⟨32, 1, .ro, .num 0, false, false, 0, 1, 1⟩]⟩,
  ⟨0x010C0030, 1, 0x0, 1, 0x0, -- PWR_LASTQ
    [⟨0, 1, .ro, .num 0, true, false, 0, 1, 1⟩,
     ⟨1, 3, .ro, .num 0, true, false, 0, 7, 1⟩,
     ⟨4, 2, .ro, .num 0, true, false, 0, 3, 1⟩,
     ⟨6, 1, .ro, .num 0, true, false, 0, 1, 1⟩,
     ⟨7, 1, .ro, .num 0, true, false, 0, 1, 1⟩,
     ⟨32, 32, .ro, .num 0, true, false, 0, 4294967295, 1⟩]⟩,
  ⟨0x010C0038, 1, 0x0, 1, 0x0, -- PWR_LASTQ_STAMP
    [⟨0, 64, .ro, .num 0, true, false, 0, 18446744073709551615, 1⟩]⟩,
  ⟨0x010C0040, 1, 0x0, 1, 0x0, -- PWR_CNT
    [⟨0, 16, .ro, .num 0, true, false, 0, 65535, 1⟩,
     ⟨16, 16, .ro, .num 0, true, false, 0, 65535, 1⟩,
     ⟨32, 16, .ro, .num 0, true, false, 0, 65535, 1⟩]⟩,
  ⟨0x010C0048, 1, 0x0, 1, 0x0, -- PWR_CTL
    [⟨0, 1, .wo, .num 0, false, false, 0, 1, 1⟩]⟩]

/-- The register table of the PAIR block. -/
def regsPAIR : List RDef := [
  ⟨0x010D0000, 1, 0x0, 1, 0x0, -- PAIR_CFG
    [⟨0, 1, .rw, .num 0, true, false, 0, 1, 1⟩,
     ⟨1, 1, .ro, .num 0, true, false, 0, 1, 1⟩,
     ⟨2, 1, .rw, .num 1, true, false, 0, 1, 1⟩,
     ⟨3, 5, .rw, .num 5, true, false, 1, 20, 1⟩,
     ⟨16, 16, .rw, .num 1000, true, false, 100, 10000, 1⟩,
     ⟨32, 8, .rw, .num 50, true, false, 1, 150, 1⟩,
     ⟨40, 12, .rw, .num 256, true, false, 64, 4095, 1⟩]⟩,
  ⟨0x010D0008, 1, 0x0, 1, 0x0, -- PAIR_STAT
    [⟨0, 1, .ro, .num 0, false, true, 0, 1, 1⟩,
     ⟨1, 1, .ro, .num 0, false, false, 0, 1, 1⟩,
     ⟨2, 1, .ro, .num 0, false, true, 0, 1, 1⟩,
     ⟨3, 2, .ro, .num 0, false, false, 0, 3, 1⟩,
     ⟨5, 1, .ro, .num 0, false, true, 0, 1, 1⟩,
     ⟨6, 1, .ro, .num 0, false, false, 0, 1, 1⟩,
     ⟨7, 1, .ro, .num 0, false, true, 0, 1, 1⟩,
     ⟨8, 1, .ro, .num 0, false, false, 0, 1, 1⟩,
     ⟨9, 1, .ro, .num 0, false, false, 0, 1, 1⟩,
     ⟨10, 1, .ro, .num 0, false, false, 0, 1, 1⟩]⟩,
  ⟨0x010D0010, 1, 0x0, 1, 0x0, -- PAIR_CTL
    [⟨0, 1, .wo, .num 0, false, false, 0, 1, 1⟩,
     ⟨1, 1, .wo, .num 0, false, false, 0, 1, 1⟩,
     ⟨2, 1, .wo, .num 0, false, false, 0, 1, 1⟩]⟩,
  ⟨0x010D0018, 1, 0x0, 1, 0x0, -- PAIR_SWAPAT
    [⟨0, 64, .ro, .num 0, false, false, 0, 18446744073709551615, 1⟩]⟩,
  ⟨0x010D0020, 1, 0x0, 1, 0x0, -- PAIR_LINK
    [⟨0, 16, .rc, .num 0, false, false, 0, 65535, 1⟩,
     ⟨16, 16, .rc, .num 0, false, false, 0, 65535, 1⟩,
     ⟨32, 16, .rc, .num 0, false, false, 0, 65535, 1⟩]⟩,
  ⟨0x010D0030, 1, 0x0, 1, 0x0, -- PAIR_LOST
    [⟨0, 32, .rc, .num 0, false, false, 0, 4294967295, 1⟩,
     ⟨32, 32, .rc, .num 0, false, false, 0, 4294967295, 1⟩]⟩,
  ⟨0x010D0038, 1, 0x0, 1, 0x0, -- PAIR_LASTACT
    [⟨0, 64, .ro, .num 0, true, false, 0, 18446744073709551615, 1⟩]⟩,
  ⟨0x010D0040, 1, 0x0, 1, 0x0, -- PAIR_STH
    [⟨0, 4, .ro, .num 0, false, false, 0, 15, 1⟩,
     ⟨4, 1, .ro, .num 0, false, false, 0, 1, 1⟩,
     ⟨5, 1, .ro, .num 0, false, false, 0, 1, 1⟩,
     ⟨6, 1, .ro, .num 0, false, false, 0, 1, 1⟩,
     ⟨7, 1, .ro, .num 0, false, false, 0, 1, 1⟩,
     ⟨32, 32, .ro, .num 0, false, false, 0, 4294967295, 1⟩]⟩,
  ⟨0x010D0048, 1, 0x0, 1, 0x0, -- PAIR_PEERH
    [⟨0, 4, .ro, .num 0, false, false, 0, 15, 1⟩,
     ⟨4, 1, .ro, .num 0, false, false, 0, 1, 1⟩,
     ⟨5, 1, .ro, .num 0, false, false, 0, 1, 1⟩,
     ⟨6, 1, .ro, .num 0, false, false, 0, 1, 1⟩,
     ⟨7, 1, .ro, .num 0, false, false, 0, 1, 1⟩,
     ⟨32, 32, .ro, .num 0, false, false, 0, 4294967295, 1⟩]⟩]

/-- The register table of the CAS block. -/
def regsCAS : List RDef := [
  ⟨0x010E0000, 1, 0x0, 1, 0x0, -- CAS_CFG
    [⟨0, 1, .rw, .num 0, true, false, 0, 1, 1⟩,
     ⟨1, 1, .rw, .num 0, true, false, 0, 1, 1⟩,
     ⟨2, 2, .rw, .num 0, true, false, 0, 3, 1⟩,
     ⟨16, 8, .rw, .num 20, true, false, 1, 255, 1⟩]⟩,
  ⟨0x010E0008, 1, 0x0, 1, 0x0, -- CAS_STAT
    [⟨0, 2, .ro, .num 0, false, true, 0, 3, 1⟩,
     ⟨2, 1, .ro, .num 0, false, false, 0, 1, 1⟩,
     ⟨3, 4, .ro, .num 0, false, false, 0, 15, 1⟩,
     ⟨7, 2, .ro, .num 0, false, false, 0, 3, 1⟩,
     ⟨9, 1, .ro, .num 0, false, false, 0, 1, 1⟩,
     ⟨32, 16, .ro, .num 0, false, true, 0, 65535, 1⟩,
     ⟨48, 16, .ro, .num 0, false, true, 0, 65535, 1⟩]⟩,
  ⟨0x010E0010, 1, 0x0, 4, 0x8, -- CAS_POS
    [⟨0, 32, .ro, .num 0, false, false, 0, 4294967295, 1⟩,
     ⟨32, 32, .ro, .num 0, false, false, 0, 4294967295, 1⟩]⟩,
  ⟨0x010E0040, 1, 0x0, 6, 0x8, -- CAS_LODE
    [⟨0, 64, .ro, .num 0, false, false, 0, 18446744073709551615, 1⟩]⟩,
  ⟨0x010E0080, 1, 0x0, 1, 0x0, -- CAS_LSEL
    [⟨0, 2, .rw, .num 0, false, false, 0, 3, 1⟩,
     ⟨2, 1, .rw, .num 0, false, false, 0, 1, 1⟩]⟩,
  ⟨0x010E0088, 1, 0x0, 6, 0x8, -- CAS_LPEER
    [⟨0, 64, .ro, .num 0, false, true, 0, 18446744073709551615, 1⟩]⟩,
  ⟨0x010E00C0, 1, 0x0, 1, 0x0, -- CAS_LSTAT
    [⟨0, 8, .ro, .num 0, false, false, 0, 255, 1⟩,
     ⟨8, 8, .ro, .num 0, false, false, 0, 255, 1⟩]⟩]

/-- The register table of the IMG block. -/
def regsIMG : List RDef := [
  ⟨0x010F0000, 1, 0x0, 1, 0x0, -- IMG_BOOT
    [⟨0, 1, .ro, .num 0, false, false, 0, 1, 1⟩,
     ⟨1, 1, .ro, .num 0, false, false, 0, 1, 1⟩,
     ⟨2, 1, .ro, .num 0, false, false, 0, 1, 1⟩,
     ⟨32, 32, .ro, .num 0, true, false, 0, 4294967295, 1⟩]⟩,
  ⟨0x010F0008, 1, 0x0, 1, 0x0, -- IMG_VER
    [⟨0, 64, .ro, .num 0, false, false, 0, 18446744073709551615, 1⟩]⟩,
  ⟨0x010F0010, 1, 0x0, 1, 0x0, -- IMG_OWNER
    [⟨0, 32, .ro, .num 0, true, false, 0, 4294967295, 1⟩,
     ⟨32, 32, .ro, .num 0, true, false, 0, 4294967295, 1⟩]⟩,
  ⟨0x010F0018, 1, 0x0, 1, 0x0, -- IMG_STAGE
    [⟨0, 2, .ro, .num 0, true, false, 0, 3, 1⟩,
     ⟨2, 1, .ro, .num 0, true, false, 0, 1, 1⟩,
     ⟨3, 1, .ro, .num 0, true, false, 0, 1, 1⟩]⟩,
  ⟨0x010F0020, 1, 0x0, 1, 0x0, -- IMG_STAGE_VER
    [⟨0, 64, .ro, .num 0, true, false, 0, 18446744073709551615, 1⟩]⟩,
  ⟨0x010F0028, 1, 0x0, 1, 0x0, -- IMG_INTAKE
    [⟨0, 8, .ro, .num 0, false, false, 0, 255, 1⟩,
     ⟨8, 3, .ro, .num 0, false, false, 0, 7, 1⟩,
     ⟨32, 32, .ro, .num 0, false, false, 0, 4294967295, 1⟩]⟩,
  ⟨0x010F0030, 1, 0x0, 1, 0x0, -- IMG_ACT
    [⟨0, 4, .ro, .num 0, true, false, 0, 15, 1⟩,
     ⟨32, 32, .ro, .num 0, true, false, 0, 4294967295, 1⟩]⟩,
  ⟨0x010F0038, 1, 0x0, 1, 0x0, -- IMG_QGO
    [⟨0, 32, .w1s, .num 0, false, true, 0, 4294967295, 1⟩]⟩,
  ⟨0x010F0040, 1, 0x0, 1, 0x0, -- IMG_QDONE
    [⟨0, 32, .w1c, .num 0, false, false, 0, 4294967295, 1⟩]⟩,
  ⟨0x010F0048, 1, 0x0, 1, 0x0, -- IMG_QSTAT
    [⟨0, 6, .ro, .num 0, false, true, 0, 63, 1⟩,
     ⟨8, 4, .ro, .num 0, false, true, 0, 15, 1⟩]⟩,
  ⟨0x010F0050, 1, 0x0, 1, 0x0, -- IMG_ERR
    [⟨0, 16, .rc, .num 0, false, false, 0, 65535, 1⟩,
     ⟨16, 16, .rc, .num 0, false, false, 0, 65535, 1⟩,
     ⟨32, 16, .rc, .num 0, false, false, 0, 65535, 1⟩,
     ⟨48, 16, .rc, .num 0, false, false, 0, 65535, 1⟩]⟩,
  ⟨0x010F2000, 1, 0x0, 1024, 0x8, -- IMG_WP
    [⟨0, 64, .w1s, .num 0, false, false, 0, 18446744073709551615, 1⟩]⟩]

/-- The register table of the SVC block. -/
def regsSVC : List RDef := [
  ⟨0x01120000, 1, 0x0, 1, 0x0, -- SVC_CFG
    [⟨0, 1, .rw, .num 1, true, false, 0, 1, 1⟩]⟩,
  ⟨0x01120008, 1, 0x0, 1, 0x0, -- SVC_STAT
    [⟨0, 4, .ro, .num 0, false, true, 0, 15, 1⟩,
     ⟨4, 1, .ro, .num 0, false, true, 0, 1, 1⟩,
     ⟨5, 1, .ro, .num 0, false, false, 0, 1, 1⟩,
     ⟨16, 16, .ro, .num 0, false, false, 0, 65535, 1⟩]⟩,
  ⟨0x01120010, 1, 0x0, 1, 0x0, -- SVC_ERR
    [⟨0, 16, .rc, .num 0, false, false, 0, 65535, 1⟩,
     ⟨16, 16, .rc, .num 0, false, false, 0, 65535, 1⟩,
     ⟨32, 16, .rc, .num 0, false, false, 0, 65535, 1⟩,
     ⟨48, 16, .rc, .num 0, false, false, 0, 65535, 1⟩]⟩,
  ⟨0x01120018, 1, 0x0, 1, 0x0, -- SVC_LAST
    [⟨0, 16, .ro, .num 0, false, false, 0, 65535, 1⟩,
     ⟨16, 8, .ro, .num 0, false, false, 0, 255, 1⟩,
     ⟨24, 8, .ro, .num 0, false, false, 0, 255, 1⟩]⟩]

/-- The register table of the MBX block. -/
def regsMBX : List RDef := [
  ⟨0x01020000, 64, 0x100, 1, 0x0, -- MBX_CFG
    [⟨0, 13, .rw, .rcv, true, false, 0, 8191, 1⟩,
     ⟨13, 1, .rw, .num 0, true, false, 0, 1, 1⟩]⟩,
  ⟨0x01020008, 64, 0x100, 1, 0x0, -- MBX_STAT
    [⟨0, 1, .ro, .num 0, false, true, 0, 1, 1⟩,
     ⟨1, 1, .w1c, .num 0, false, true, 0, 1, 1⟩,
     ⟨2, 1, .w1c, .num 0, false, true, 0, 1, 1⟩,
     ⟨16, 16, .ro, .num 0, false, true, 0, 65535, 1⟩,
     ⟨32, 32, .ro, .num 0, false, true, 0, 4294967295, 1⟩]⟩,
  ⟨0x01020010, 64, 0x100, 6, 0x8, -- MBX_MSG
    [⟨0, 64, .ro, .num 0, false, true, 0, 18446744073709551615, 1⟩]⟩,
  ⟨0x01020040, 64, 0x100, 4, 0x8, -- MBX_BODY
    [⟨0, 64, .wo, .num 0, false, false, 0, 18446744073709551615, 1⟩]⟩,
  ⟨0x01020060, 64, 0x100, 1, 0x0, -- MBX_CTL
    [⟨0, 1, .wo, .num 0, false, false, 0, 1, 1⟩,
     ⟨1, 1, .wo, .num 0, false, false, 0, 1, 1⟩,
     ⟨2, 1, .wo, .num 0, false, false, 0, 1, 1⟩,
     ⟨16, 16, .wo, .num 0, false, false, 0, 65535, 1⟩]⟩]

/-- The register table of the LOG block. -/
def regsLOG : List RDef := [
  ⟨0x01030000, 1, 0x0, 1, 0x0, -- LOG_CTL
    [⟨0, 1, .rw, .num 1, true, false, 0, 1, 1⟩,
     ⟨1, 1, .rw, .num 1, true, false, 0, 1, 1⟩,
     ⟨2, 1, .wo, .num 0, false, false, 0, 1, 1⟩,
     ⟨8, 5, .rw, .num 4, true, false, 0, 16, 1⟩]⟩,
  ⟨0x01030008, 1, 0x0, 1, 0x0, -- LOG_STAT
    [⟨0, 14, .ro, .num 0, true, true, 0, 16383, 1⟩,
     ⟨14, 1, .ro, .num 0, true, false, 0, 1, 1⟩,
     ⟨32, 32, .ro, .num 0, true, false, 0, 4294967295, 1⟩]⟩,
  ⟨0x01030010, 1, 0x0, 1, 0x0, -- LOG_CUR
    [⟨0, 13, .rw, .num 0, false, false, 0, 8191, 1⟩]⟩,
  ⟨0x01030040, 1, 0x0, 19, 0x8, -- LOG_EN
    [⟨0, 32, .rw, .num 4294967295, true, false, 0, 4294967295, 1⟩]⟩,
  ⟨0x01030100, 1, 0x0, 16, 0x8, -- LOG_SEL
    [⟨0, 25, .rw, .logSel, true, false, 0, 33554431, 8⟩]⟩,
  ⟨0x01030200, 1, 0x0, 32, 0x8, -- LOG_WIN
    [⟨0, 64, .ro, .num 0, false, true, 0, 18446744073709551615, 1⟩]⟩]

/-- The register table of the TST block. -/
def regsTST : List RDef := [
  ⟨0x01100000, 1, 0x0, 1, 0x0, -- TST_SEL
    [⟨0, 7, .rw, .num 0, false, false, 0, 65, 1⟩]⟩,
  ⟨0x01100008, 1, 0x0, 1, 0x0, -- TST_CTL
    [⟨0, 2, .rw, .num 0, false, false, 0, 3, 1⟩,
     ⟨2, 2, .rw, .num 0, false, false, 1, 2, 1⟩,
     ⟨4, 1, .rw, .num 0, false, false, 0, 1, 1⟩,
     ⟨5, 1, .wo, .num 0, false, false, 0, 1, 1⟩,
     ⟨6, 1, .wo, .num 0, false, false, 0, 1, 1⟩,
     ⟨16, 16, .rw, .num 0, false, false, 0, 65535, 1⟩]⟩,
  ⟨0x01100010, 1, 0x0, 1, 0x0, -- TST_STAT
    [⟨0, 1, .ro, .num 0, false, false, 0, 1, 1⟩,
     ⟨1, 1, .ro, .num 0, false, false, 0, 1, 1⟩,
     ⟨2, 1, .w1c, .num 0, false, false, 0, 1, 1⟩,
     ⟨3, 1, .w1c, .num 0, false, false, 0, 1, 1⟩,
     ⟨32, 16, .ro, .num 0, false, false, 0, 65535, 1⟩]⟩,
  ⟨0x01100018, 1, 0x0, 1, 0x0, -- TST_ERR
    [⟨0, 48, .ro, .num 0, false, false, 0, 281474976710655, 1⟩]⟩,
  ⟨0x01100020, 1, 0x0, 1, 0x0, -- TST_BITS
    [⟨0, 64, .ro, .num 0, false, false, 0, 18446744073709551615, 1⟩]⟩]

/-- Every register of BAR0 (R92). -/
def regTable : List RDef :=
  regsCHR ++ regsHELM ++ regsVECMAP ++ regsANV ++ regsMAP ++ regsMC ++ regsBUF ++ regsDRM ++ regsCH ++ regsPAR ++ regsCIP ++ regsTEN ++ regsPWR ++ regsPAIR ++ regsCAS ++ regsIMG ++ regsSVC ++ regsMBX ++ regsLOG ++ regsTST

end Sys2Proof.Machine
end

