-- ==== Sys2Proof/Machine/State.lean ====
section
/-! DEFINITION. The state of the module: everything the spec gives it, as plain data. -/
namespace Sys2Proof.Machine
open Sys2Proof

/-- Why a run stops with a fault. No rule of the spec stops the module: every fault the spec names (a thread fault, SAFE, a
bus error) is a next state. -/
inductive Fault
  /-- Raised by no command. -/
  | none_
  deriving DecidableEq, Repr

/-- Why a command has no meaning in this model. -/
inductive Refusal
  /-- A command whose meaning is not written: the model stops where the module would go on (safe). -/
  | notModelled (mnemonic : String)
  deriving DecidableEq, Repr

/-- An unused entry: every field zero (R48, R72). -/
def AlmEntry.unused : AlmEntry := ⟨0, 0, 0, 0, 0, false, false, false, 0⟩

/-- Entries 0 to 3 in their factory form (R50, R72), aligned to a CHR_NOW of 0.
DESIGN CHOICE (log 6): the first DUE is the first boundary after 0. -/
def AlmEntry.factory : NMap AlmEntry :=
  [(0, ⟨100000000, 100000000, 0, 1, 0, true, false, false, 0⟩),
   (1, ⟨1000000, 1000000, 0, 2, 0, true, false, false, 0⟩),
   (2, ⟨60000000000, 60000000000, 0, 3, 0, true, false, false, 0⟩),
   (3, ⟨60000000000, 60000000000, 0, 4, 0, true, false, false, 0⟩)]

/-- No binding: the factory value of CTX_BIND and CTX_VOLS (R114). -/
def Bind.none : Bind := ⟨false, 0, false, 0, []⟩

/-- A SET_TIME that waits for a tick edge (R42, R43): T rounded, CHR_NOW at acceptance, the value at which the
awaited edge was due, and who is answered. -/
structure SetPend where
  t : Nat
  acceptedAt : Nat
  edge : Nat
  req : Nat
  deriving DecidableEq, Repr

/-- The chronometer's own state beside its registers (R35 to R47) and the almanac scan in progress (R53 to R55). -/
structure Clk where
  /-- CHR_NOW, in ns since the site epoch (R38). -/
  now : Nat
  /-- REFCLK-derived ns since reset, which bounds and timeouts run on (R45). -/
  refNs : Nat
  /-- What the correction in force still has to remove: positive while CHR_NOW is ahead (R41). -/
  slewRem : Int
  /-- the correction in force came from SET_TIME -/
  fromSet : Bool
  /-- CHR_NOW at the last accepted tick, if one was accepted since KINDLE. -/
  lastTick : Option Nat
  /-- CHR_NOW from which 1.5 P are counted before the first tick (R46). -/
  tickBase : Nat
  /-- The next candidate is accepted unconditionally (R36). -/
  anyNext : Bool
  /-- CHR_NOW at which dead reckoning began (R47). -/
  drSince : Nat
  pend : Option SetPend
  /-- Steps of CHR_NOW made by SET_TIME, and the count each stamper saw at its last stamp (JUMP, R40, R45). -/
  steps : Nat
  jumpSeen : NMap Nat
  /-- Millisecond of CHR_NOW last scanned, and last given channel budgets. -/
  scanMs : Nat
  budgetMs : Nat
  /-- Entries that are due in the scan in progress, in firing order: (kind, entry). -/
  due : List (Nat × Nat)
  /-- CHR_NOW by which the scan in progress fires (R53), and the last millisecond boundary that passed during a scan (R55). -/
  scanAt : Nat
  lateMs : Nat
  /-- Entries whose DUE a forward step skipped and that have not fired since (R44). -/
  skip : List Nat
  /-- CHR_NOW up to which refills were held by the mode or skipped by a step (R45, R57). -/
  refHold : Nat
  /-- The watch length in force, in ms: a new CHR_WATCH.PERIOD_MS takes effect at the next boundary (R58). -/
  watchMs : Nat
  deriving DecidableEq, Repr

/-- The chronometer after reset. -/
def Clk.reset : Clk := ⟨0, 0, 0, false, none, 0, true, 0, none, 0, [], 0, 0, [], 0, 0, [], 0, 100⟩

/-- Thread states (R145). -/
inductive TSt
  | idle | armed | ready | running | waiting | parked | done | faulted
  deriving DecidableEq, Repr

/-- Wait reasons (R155). -/
inductive Why
  | none | mapmiss | media | buffer | pagereq | dma | lock | time | quota | mailbox
  deriving DecidableEq, Repr

/-- What a thread that waits does when its release event comes: the instruction's remaining effect. -/
inductive Cont
  /-- nothing more: the next instruction follows -/
  | nothing
  /-- the instruction is issued again (a STRIKE or a transfer that found every number in use) -/
  | again
  /-- MLOOK (`gen` false) or MGEN (`gen` true) waits for its map line -/
  | look (rd lbn : Nat) (gen : Bool) (seen : Nat)
  /-- MWAIT for strike tag -/
  | mwait (rd tag : Nat)
  | mwany (rd : Nat)
  | balloc (rd pool : Nat) (wb : Bool)
  | btake (rd : Nat)
  | bfree (h : Nat)
  | pxopen (rd group : Nat) (arg : Nat)
  | xwait (rd n : Nat)
  | commit (rd slot : Nat) (last : Bool)
  | qchg (cmds bytes us : Nat)
  | mrecv (rd box addr : Nat)
  | mhelm (addr : Nat)
  /-- DONE waits for outstanding strikes and transfers (R200), then ends with this status word and RESULT -/
  | ending (status result : Nat)
  /-- what the wait returned met an uncorrectable error: DATA fault 0x04 is raised when the thread resumes (R167) -/
  | spoiled
  /-- a data command performed whole (rows READ to HEALTH_READ) waits for its QUOTA charge -/
  | charged
  deriving DecidableEq, Repr

/-- A strike as its thread's tag sees it (R193): outstanding, or ended with an outcome word and the order of its end. -/
structure TagSt where
  ended : Bool
  outcome : Nat
  order : Nat
  deriving DecidableEq, Repr

/-- What a transfer does (R194, R195, R197). -/
inductive XKind
  | xin | xout | xcopy | cenc | cdec | pxadd | pxclose | pxreb
  deriving DecidableEq, Repr

/-- A transfer in one of a thread's 16 numbers: the words captured at issue (R181, R182, R344, R356), the buffer handles it
names, its SV word once ended. -/
structure Xfer where
  kind : XKind
  w : List Nat
  hs : List Nat
  ended : Bool
  sv : Nat
  /-- stopped at a page request of this group index (R101), and the page address; 512 when waiting for an index -/
  page : Option (Nat × Nat)
  /-- bytes moved so far (R158) -/
  pos : Nat
  deriving DecidableEq, Repr

/-- One staged entry (R191): LBN, action, location (a PPA, or with `wb` a write-buffer frame), generation, REL. -/
structure Staged where
  lbn : Nat
  act : Act
  loc : Nat
  wb : Bool
  gen : Nat
  rel : Bool
  deriving DecidableEq, Repr

/-- A staging slot (R171, R191). -/
structure Slot where
  ents : List Staged
  full : Bool
  deriving DecidableEq, Repr

def Slot.empty : Slot := ⟨[], false⟩

/-- How a command ends (R137, R144): CLASS, DETAIL, OFFSET with OFFV, RESULT. An offset of 2^14 or more is an OFFSET field with
OFFV = 0, which DONE can make (R200). -/
structure Ending where
  cls : Nat
  detail : Nat
  offset : Option Nat
  result : Nat
  deriving DecidableEq, Repr

/-- What a block of a unit becomes: data with protection information, zero, or unmapped. -/
inductive Put
  | data (d p : List Byte)
  | zero
  | unmap
  deriving DecidableEq, Repr

/-- What a COPY or COMPARE_AND_WRITE performed whole has read and still has to write, and its end when that is done. -/
structure Work where
  puts : List Put
  ending : Ending
  deriving DecidableEq, Repr

/-- One hardware thread context (R145, R171). -/
structure Thread where
  st : TSt
  why : Why
  /-- the special register wreason: reason of the most recent wait since dispatch (R171) -/
  lastWhy : Why
  arg : Nat
  sinceNow : Nat
  sinceRef : Nat
  /-- place of the wait in the order of arrival (R156, R239, R258) -/
  waitAt : Nat
  pc : Nat
  g : NMap W64
  ls : NMap Byte
  /-- lines of the local store written since it was cleared, and its 8-byte words whose check fails until they are written whole (R273) -/
  lsValid : List Nat
  lsBad : List Nat
  stamp : Nat
  role : Nat
  cont : Cont
  tags : NMap TagSt
  xfers : NMap (Option Xfer)
  slots : NMap Slot
  /-- billet locks held, ascending, each with the REFCLK time it was taken -/
  locks : List (Nat × Nat)
  /-- locations MLOOK returned and the thread still holds (R190) -/
  held : List Nat
  /-- order in which it became READY, and in which it was granted its slot -/
  readyAt : Nat
  slotAt : Nat
  /-- instructions issued since the last grant, and since the last wait, YIELD or dispatch -/
  issued : Nat
  runIssued : Nat
  units : Nat
  /-- units that a write performed whole has placed before it had to wait, and what a COPY or COMPARE_AND_WRITE has still to write -/
  unitAt : Nat
  work : Option Work
  lastMade : Bool
  withHelm : Bool
  charged : Bool
  waited : Bool
  ending : Option Ending
  /-- the end that a discard decided, whose RESULT counts the units committed when it completes (R133, R203) -/
  cut : Option Ending
  faultValid : Bool
  faultCls : Nat
  faultCode : Nat
  faultPc : Nat
  faultImm : Nat
  deriving DecidableEq, Repr

/-- A thread with no work and nothing recorded. -/
def Thread.idle : Thread :=
  ⟨.idle, .none, .none, 0, 0, 0, 0, 0, [], [], [], [], 0, 0, .nothing, [], [], [], [], [], 0, 0, 0, 0, 0, 0, none, false, false, false, false,
   none, none, false, 0, 0, 0, 0⟩

/-- A block that a FLUSH waits for (R126): in a write-buffer frame, or programmed at a PPA whose stripe is to close. -/
inductive Owed
  | frame (lbn f : Nat)
  | stripe (ppa : Nat)
  deriving DecidableEq, Repr

/-- A host context's page state (R109 to R114, R137, R141); its thread state is the thread's. -/
structure Ctx where
  /-- the task register block its thread runs, as a little-endian number of 64 bytes: the latched one, in a cascade that of a part -/
  block : Nat
  /-- the latched task register block as last accepted (R109) -/
  shown : Nat
  commit : Bool
  last : Nat
  seq : Nat
  tag : Nat
  port : Nat
  mirror : Nat
  abSeq : Nat
  abOut : Nat
  abDetail : Nat
  abPend : Bool
  /-- the command's port went down: completion takes mirror and IDLE only (R138) -/
  portGone : Bool
  /-- accepted while a requested change drains that turns its data commands away (R62) -/
  late : Bool
  /-- blocks that the write buffer held when this FLUSH was accepted, those done left out, and how many it held (R126) -/
  owed : List Owed
  owedN : Nat
  deriving DecidableEq, Repr

/-- A context page after reset. -/
def Ctx.reset : Ctx := ⟨0, 0, false, 0, 0, 0, 0, 0, 0, 0, 0, false, false, false, [], 0⟩
/-- The memories: DRAM, data SRAM and scratchpad contents, the valid bits as the sets of lines written (R266, R273), and the DRAM lines and
8-byte SRAM words whose check fails until they are written whole (R272). DRAM addresses are those of R204 and R264; an unlisted
byte is 0. -/
structure Mem where
  dram : NMap Byte
  valid : List Nat
  bad : List Nat
  /-- data SRAM by quadrant: P0 and P1 frames and metadata at quadrant × 2^24 (R254) -/
  sram : NMap Byte
  sramValid : List Nat
  sramBad : List Nat
  /-- scratchpads, in the layout of R186 -/
  scratch : NMap Byte
  scratchValid : List Nat
  scratchBad : List Nat
  /-- correctable-error table: line address, COUNT, STAMP (R270) -/
  ceTab : List (Nat × Nat × Nat)
  deriving DecidableEq, Repr

def Mem.reset : Mem := ⟨[], [], [], [], [], [], [], [], [], []⟩

/-- One buffer in use (R179, R188, R254): pool, index in its population (for P0 and P1, quadrant × population + index),
write-buffer region or not, the threads that hold it, its final owner, whether it was shared. -/
structure Buf where
  pool : Nat
  wb : Bool
  idx : Nat
  holders : List Nat
  owner : Nat
  shared : Bool
  deriving DecidableEq, Repr

/-- A parked allocation request (R258): thread, pool, WB; `take` for a BTAKE. -/
structure BufReq where
  t : Nat
  pool : Nat
  wb : Bool
  take : Bool
  deriving DecidableEq, Repr

/-- The buffer pool manager (R254 to R263). -/
structure BufMgr where
  bufs : NMap (Option Buf)
  flushq : List Nat
  reqs : List BufReq
  /-- WB P3 slots split into P2 WB buffers (R262) -/
  split : List Nat
  deriving DecidableEq, Repr

def BufMgr.reset : BufMgr := ⟨[], [], [], []⟩

/-- A present map-cache line: its way and AGE (R243). -/
structure LineSt where
  way : Nat
  age : Nat
  deriving DecidableEq, Repr

/-- A fill outstanding in a slice (R239, R247): its DRAM read is issued once no queued write for the line is left. -/
structure Fill where
  line : Nat
  stream : Bool
  pf : Bool
  /-- allocates a line when it arrives: the slice was enabled when the miss was detected (R251) -/
  alloc : Bool
  read : Bool
  deriving DecidableEq, Repr

/-- One of the 8 eviction registers (R245): the line held, if any, when it was last used, and since when it holds. -/
structure Evict where
  line : Option Nat
  used : Nat
  since : Nat
  deriving DecidableEq, Repr

/-- A map-cache slice (R235 to R252): present lines, eviction registers, write-through queue of changed bytes, fills
outstanding, ways converted to scratchpad, held copies in which the codes will find an error, and the bytes of those copies that
a store past the cache left behind DRAM (R238). Other copies equal the map, so the slice holds no data for them. -/
structure Slice where
  lines : NMap (Option LineSt)
  evict : List Evict
  wtq : List (Nat × List Byte)
  fills : List Fill
  spWays : List Nat
  errs : NMap MErr
  copies : NMap (List Byte)
  deriving DecidableEq, Repr

/-- An empty slice. -/
def Slice.empty : Slice := ⟨[], List.replicate 8 ⟨none, 0, 0⟩, [], [], [], [], []⟩

/-- A stride-detector record (R246): line, stride in lines, confidence. -/
structure Stride where
  last : Nat
  d : Int
  c : Nat
  deriving DecidableEq, Repr

/-- The RSM checkpoint root (R226). -/
structure CkRoot where
  newest : Option Round
  previous : Option Round
  jend : Nat
  deriving DecidableEq, Repr

/-- A flash journal segment (R227): the first and last JSEQ it holds, its PPA, the PPA reserved for the next, the length of the PAD
record that fills its end (R218). -/
structure JSeg where
  first : Nat
  last : Nat
  ppa : Nat
  next : Nat
  pad : Nat
  deriving DecidableEq, Repr

/-- Map control's own state (R218 to R229). -/
structure MapCtl where
  /-- records of the journal, oldest first: those at or below JEND lie in flash segments, the others in the tail ring -/
  recs : List JRec
  /-- JSEQ of the last record appended, and bytes ever appended to the tail ring -/
  jseq : Nat
  ringPos : Nat
  /-- round in progress: number, JSTART, and JDONE once its directory is written -/
  round : Option (Nat × Nat × Option Nat)
  /-- when the last round began, on CHR_NOW -/
  roundAt : Nat
  /-- map image taken by the round in progress -/
  roundImage : NMap Byte
  /-- the stripes-in-flight journal as that round copied it to flash (R350) -/
  roundSif : NMap (Option Sif)
  /-- PPAs of the three copies of its directory -/
  roundDirs : List Nat
  roundSegs : List (Nat × Nat)
  /-- the range lock of a RANGE record: first billet, count (R232) -/
  rangeLock : Option (Nat × Nat)
  /-- write generations: next value, end of the reserved block, highest ceiling known of the partner (R189, R427) -/
  genNext : Nat
  genCeil : Nat
  genPeer : Nat
  /-- ceiling up to which the partner acknowledged the reservation (R427) -/
  genAck : Nat
  /-- records whose mirror acknowledgement is awaited -/
  acks : List Nat
  /-- REFCLK time at which each of them was sent, by JSEQ (R45, R415) -/
  sentAt : NMap Nat
  /-- map segments not yet loaded after a takeover (R439) -/
  toLoad : List Nat
  /-- flash journal segments, oldest first (R227) -/
  segs : List JSeg
  /-- chunks and groups taken at append for a record not yet applied, by JSEQ (R211); for one that waits for tail space by 2^64 + thread, for
  one held for its unit by 2^65 + 64 × thread + unit (R220, R450) -/
  ovl : NMap (List Nat × List Nat)
  deriving DecidableEq, Repr

def MapCtl.reset : MapCtl := ⟨[], 0, 0, none, 0, [], [], [], [], none, 1, 2 ^ 24, 0, 0, [], [], [], [], []⟩
/-- What a script run is for (R299, R300, R301). -/
inductive SJob
  /-- the strike's own entry -/
  | main
  | soft
  /-- the RETRY entry with a row of the walk, and with row 0 after it -/
  | retry | restore
  | suspend | resume
  deriving DecidableEq, Repr

/-- A Swage script run (R295 to R298): what it is for, its entry, word address of the next instruction, return stack, v0 to
v7, F, timer (REFCLK time of expiry, TARGET), the WAITRDY it is in (SCMD, BIT), the order in which that WAITRDY saw the die
ready, whether it holds the bus, instructions of this bus hold, DIN DATA runs so far, REFCLK time of its first command cycle and of its
last status poll. -/
structure Script where
  job : SJob
  entry : Nat
  pc : Nat
  stack : List Nat
  v : NMap Nat
  f : Bool
  timer : Option (Nat × Nat)
  wait : Option (Nat × Nat)
  ready : Option Nat
  bus : Bool
  hold : Nat
  dins : Nat
  cmdAt : Option Nat
  pollAt : Option Nat
  deriving DecidableEq, Repr

/-- Where a strike stands (R285 to R290, R299). -/
inductive SPhase
  /-- queued on its die -/
  | queued
  /-- a script of it runs -/
  | script
  /-- slots await hard decode, then soft decode -/
  | hard | soft
  /-- the read-retry walk stands before its next row or its end -/
  | walk
  /-- every decode step is done and RB applies to a LOST slot -/
  | rebuild
  /-- its outcome is decided and not yet written -/
  | finish
  deriving DecidableEq, Repr

/-- A strike at its sequencer (R193, R285 to R290). Slot codes: none until decoded, else the CODE of R183, with 20 for a
slot of an erased page (LOST, R322). -/
structure Strike where
  t : Nat
  tag : Nat
  ppa : Nat
  entry : Nat
  cls : Nat
  h : Nat
  frame : Nat
  rb : Bool
  limit : Bool
  raw : Bool
  nslot : Nat
  fg : Bool
  /-- REFCLK time of arrival -/
  at_ : Nat
  /-- a READ counted in CH_SUSPCNT.DENIED (R301) -/
  denied : Bool
  phase : SPhase
  script : Option Script
  /-- the erase script at its WAITRDY while the erase is suspended, its timer holding the time that remains (R297, R301) -/
  frozen : Option Script
  slots : List (Option Nat)
  /-- program: information parts sent so far, by 8 × plane offset + slot -/
  got : NMap (List Byte)
  code : Nat
  reb : Nat
  /-- column from which the last DIN DATA delivered slots (R296) -/
  col : Nat
  /-- read-retry walk: in progress, row to try, rows tried -/
  walking : Bool
  row : Nat
  rows : Nat
  /-- erase: times suspended, REFCLK time of the suspension in force, REFCLK time it was last busy from -/
  susps : Nat
  suspended : Option Nat
  busyFrom : Nat
  /-- a timer of its scripts expired (R353) -/
  timedOut : Bool
  deriving DecidableEq, Repr

/-- The 32 sequencers (R276 to R303). -/
structure Chans where
  strikes : NMap (Option Strike)
  nextId : Nat
  /-- LASTROW by die × 8 + table; 1 where nothing is listed (R300) -/
  lastRow : NMap Nat
  /-- failures of this watch by global die (R353) -/
  errw : NMap Nat
  /-- CHR_NOW at the last retraining, by channel -/
  trainedAt : NMap Nat
  /-- the script store, one copy for all channels (R293) -/
  store : NMap Byte
  /-- what the bus of a channel has carried in the hold in progress, newest first: kind (0 command, 1 address, 2 data), byte -/
  bus : NMap (List (Nat × Nat))
  /-- the strike polled last on a channel (R289) -/
  polled : NMap Nat
  deriving DecidableEq, Repr

def Chans.reset : Chans := ⟨[], 0, [], [], [], [], [], []⟩

/-- Geometry and dies of the flash inventory (R68, R69, R280). -/
structure Inventory where
  dies : List Nat
  planes : Nat
  pages : Nat
  eblks : Nat
  deriving DecidableEq, Repr

def Inventory.none : Inventory := ⟨[], 0, 0, 0⟩

/-- A reshape in progress (R366). -/
structure Reshape where
  olds : List Nat
  news : List Nat
  left : List Nat
  lcap : Nat
  deriving DecidableEq, Repr

/-- An open stripe in an accumulator (R343 to R345): thread that opened it, serial, journal entry, members added, and the
accumulated P and Q of its eight slots. -/
structure ParAcc where
  t : Nat
  serial : Nat
  sif : Nat
  added : Nat
  p : List Byte
  q : List Byte
  deriving DecidableEq, Repr

/-- The media and parity state the helm and the accumulators keep beside DRAM and RSM (R306 to R368). -/
structure Media where
  /-- flash contents by slot PPA: 4,160 information bytes of every programmed slot (R308) -/
  flash : NMap (List Byte)
  accs : NMap (Option ParAcc)
  serial : Nat
  openSeq : Nat
  /-- blocks reserved at step 7 of R131, by thread (R325) -/
  reserved : NMap Nat
  /-- blocks with a location of KIND 2, 3 or 4 (R325) -/
  mapped : Nat
  patrolBand : Nat
  patrolPage : Nat
  patrolAt : Nat
  spareLow : Bool
  wearHigh : Bool
  reshape : Option Reshape
  /-- dies found but not in the inventory or not admitted -/
  unused : List Nat
  /-- ERASE strikes ended CODE 0 since the ERASE grant: (band, die, plane) -/
  erased : List (Nat × Nat × Nat)
  /-- ERASING bands whose owner went IDLE while strikes were in flight (R313, R317) -/
  leaving : List Nat
  /-- counters of R333 by class (retained in RSM), and by 100 + 16 × channel + class for R334 -/
  errs : NMap Nat
  /-- 4 KiB units programmed, blocks written by host commands, seconds outside OFF, since first power (R332) -/
  bytesW : Nat
  bytesH : Nat
  powerOn : Nat
  /-- DRAM writes of a granted request, held until the partner acknowledges its ring record (R316) -/
  await : Option (List (Nat × List Byte))
  /-- the band that the awaited grant of a RELEASE marks rebuilt (R361) -/
  awaitMark : Option Nat
  /-- the four-plane program time that the parameter page of each die declares, in ns (R413); none before discovery -/
  tprog : Option (NMap Nat)
  deriving DecidableEq, Repr

def Media.reset : Media := ⟨[], [], 0, 0, [], 0, 0, 0, 0, false, false, none, [], [], [], [], 0, 0, 0, none, none, none⟩
/-- Every bucket disabled: the factory form (R394). -/
def Quota.none : Quota := ⟨⟨false, 0, 0⟩, ⟨false, 0, 0⟩, ⟨false, 0, 0⟩⟩

/-- Bucket `b` of a tenant. -/
def quotaAt (q : Quota) : Nat → Bucket
  | 0 => q.b0 | 1 => q.b1 | _ => q.b2

/-- Retained items of the later chapters: the buckets' parameters as QUOTA_SET recorded them (R394). -/
structure RetMore where
  quota : NMap Quota
  deriving DecidableEq, Repr

def RetMore.factory : RetMore := ⟨[]⟩

def Cnt.zero : Cnt := ⟨0, 0, 0, 0, 0, 0, 0, 0, 0⟩

def MinSlot.blank : MinSlot := ⟨0, 0, 0, 0, false, false, []⟩

/-- Tenancy beside RSM (R393 to R398): parameters in force, tenants whose recorded parameters take effect at the next
millisecond boundary, with FILL, CHR_NOW of the recording and the parameters, balances by 4 × tenant + bucket, parked charges in order (thread, commands, bytes, µs), live counters,
counts of this interval missing. -/
structure Tenancy where
  force : NMap Quota
  due : List (Nat × Bool × Nat × Quota)
  bal : NMap Nat
  parked : List (Nat × Nat × Nat × Nat)
  live : NMap Cnt
  loss : Bool
  deriving DecidableEq, Repr

def Tenancy.reset : Tenancy := ⟨[], [], [], [], [], false⟩

/-- A mailbox (R492 to R496): FULL, COLL, the held message, and the acknowledge register. `back` says where the acknowledge of
a message from another module goes: the out mailbox it left through, and the cascade position (4 for the pair). -/
structure Mbox where
  full : Bool
  coll : Bool
  sender : Nat
  flags : Nat
  stamp : Nat
  body : List Byte
  back : Option (Nat × Nat)
  ackV : Bool
  ackCode : Nat
  ackBy : Nat
  deriving DecidableEq, Repr

def Mbox.empty : Mbox := ⟨false, false, 0, 0, 0, [], none, false, 0, 0⟩

/-- A command block passed to the helm (R16, R128, R488): the context that sent it, or 9999 for the service port; its block;
the parameter bytes of a service-port CMD; where its completion goes in local store; its answer, with the output bytes. -/
structure HelmReq where
  src : Nat
  block : Nat
  params : List Byte
  addr : Nat
  running : Bool
  answer : Option Ending
  out : List Byte
  deriving DecidableEq, Repr

/-- Start-up (R63, R518): whether the ROM has begun since reset, and the straps as sampled at power-on. -/
structure Boot where
  begun : Bool
  /-- an image was verified and runs; until then only the ROM runs (R63, R64, R80) -/
  image : Bool
  split : Bool
  side : Bool
  cas : Nat
  /-- values in force since this KINDLE of fields that take effect at the next one: HELM_MEDCFG.SPR, PAIR_CFG.EN, CAS_CFG.EN,
  and channels whose CH_CFG.EN is 0 -/
  spr : Nat
  pairEn : Bool
  casEn : Bool
  chOff : List Nat
  /-- the running image: SHA-384 of its signed header part, ARB, that of the owner pack in force (R473, R480) -/
  mImage : List Byte
  arb : Nat
  oarb : Option Nat
  /-- an incomplete QUENCH or a refused owner pack waits to be announced in RUN (R419, R473) -/
  tell5 : Bool
  /-- the event of R410 was recorded for the warning that holds step 10 -/
  told10 : Bool
  deriving DecidableEq, Repr

def Boot.reset : Boot := ⟨false, false, false, false, 0, 12, false, false, [], [], 0, none, false, false⟩

/-- Blocks of the later chapters. -/
structure Blocks where
  /-- thread faults by role in this watch (R169) -/
  roleFaults : NMap Nat
  /-- millisecond of CHR_NOW of the last DRAM scrub step, REFCLK time of each quadrant's last SRAM scrub (R269, R273) -/
  scrubMs : Nat
  sramAt : NMap Nat
  ten : Tenancy
  box : NMap Mbox
  /-- commands passed to the helm, oldest first -/
  helm : List HelmReq
  /-- internal threads held parked for BANKED (R73): 0 none, 1 all but FLUSH and CHECKPOINT, 2 all; and those parked by it -/
  hold : Nat
  held : List Nat
  /-- CLOSED of every state word, which the helm sets and clears as one (R112, R115) -/
  closed : Bool
  deriving DecidableEq, Repr

def Blocks.reset : Blocks := ⟨[], 0, [], Tenancy.reset, [], [], 0, [], true⟩

/-- The three AES-256 keys of a valid key version (R373). -/
structure KeySet where
  k1 : List Byte
  k2 : List Byte
  kt : List Byte
  deriving DecidableEq, Repr

/-- A key page (R373, R390): versions A and B, the write version and whether one exists, EPOCH of its last change. -/
structure KeyPage where
  a : Option KeySet
  b : Option KeySet
  wver : Nat
  wset : Bool
  epoch : Nat
  deriving DecidableEq, Repr

def KeyPage.empty : KeyPage := ⟨none, none, 0, false, 0⟩

/-- RSM regions outside the settings record: the key pages as sealed (R375), the minute ring with its newest slot and SEQ (R399), the live counters as QUENCH
or a restart wrote them, none after any other stop (R400). -/
structure Rsm where
  slots : NMap MinSlot
  newSlot : Nat
  minSeq : Nat
  saved : Option (NMap Cnt)
  keys : NMap KeyPage
  deriving DecidableEq, Repr

/-- RSM at first power: no slot, NEWSLOT 59, nothing counted yet, every key page empty (R375, R404). -/
def Rsm.blank : Rsm := ⟨[], 59, 0, some [], []⟩


/-! ### The image store, the service port, the logbook, pairing, power and test (R405 to R509) -/

/-- A submitted image-store descriptor (R463): its copy, whether it has started, and since when. -/
structure QDesc where
  n : Nat
  op : Nat
  count : Nat
  addr : Nat
  buf : Nat
  reserved : Bool
  running : Bool
  start : Nat
  deriving DecidableEq, Repr

/-- An open intake (R471): phase, bytes of the header received so far, bytes of the current object received, VERSION of the
firmware, where the next byte goes, where the current body ends, an owner pack was stored, it failed. -/
structure Intake where
  phase : Nat
  hdr : List Byte
  got : Nat
  ver : Nat
  next : Nat
  bodyAt : Nat
  endAt : Nat
  own : Bool
  failed : Bool
  deriving DecidableEq, Repr

/-- The image store's volatile part: transfer buffer, descriptors, those submitted in order of submission, the intake, and the
REFCLK time of its last frame. -/
structure Img where
  xbuf : NMap Byte
  desc : NMap Byte
  queue : List QDesc
  intake : Option Intake
  frameAt : Nat
  deriving DecidableEq, Repr

def Img.reset : Img := ⟨[], [], [], none, 0⟩

/-- A frame in the receive buffer (R485). -/
structure Frame where
  ty : Nat
  seq : Nat
  crc : Nat
  pay : List Byte
  deriving DecidableEq, Repr

/-- The service port (R483 to R490): replies in the out queue, oldest first; frames of the receive buffer that passed the checks
of R487, oldest first; the frame whose CMD executes; SEQ, CRC and reply of the last accepted frame. -/
structure Svc where
  out : List (List Byte)
  rx : List Frame
  cmd : Option Frame
  last : Option (Nat × Nat × List Byte)
  deriving DecidableEq, Repr

def Svc.reset : Svc := ⟨[], [], none, none⟩

/-- A requested change that drains (R62): 1 SERVICE, 2 BANKED, 3 RESTART, 4 activation restart, 5 SETTINGS_WIPE, 6 swap; the
source that asked (a context, 9999 the service port, 9998 nobody); its step. -/
structure Change where
  kind : Nat
  src : Nat
  step : Nat
  deriving DecidableEq, Repr

/-- QUENCH in progress (R411 to R418): the mode it was entered from, step in progress (5 complete), REFCLK time of entry. -/
structure Quench where
  frm : Nat
  step : Nat
  at_ : Nat
  deriving DecidableEq, Repr

/-- An acquisition of ownership (R66, R431): 1 for KINDLE, 2 for a takeover, 3 for a swap; REFCLK time before which no retry
begins; whether it is a retry. -/
structure Acquire where
  why : Nat
  at_ : Nat
  retry : Bool
  deriving DecidableEq, Repr

/-- A KEY_LOAD at step 5 of R379: who asked, this module's own object (empty: none), whether the partner's answer is in and the change still
waits for its transfers (R380). -/
structure KeyWait where
  src : Nat
  obj : List Byte
  acked : Bool
  deriving DecidableEq, Repr

/-- Pairing beside its registers (R424 to R445): acquisition in progress, FORCE written (R436), takeover or swap in progress by
its step, REFCLK time its current step began, what HB last told of the partner (mode, JSEQ, JEND), REFCLK time of the last HB
received and sent, and of the last self-test, salvage frames awaited, their deadline and those that came bad, records
mirrored here, day of the last overdue report, activation in progress (0 none, else its step), its version and when it was asked,
the lodestar received, the KEY_LOAD that waits for the partner. -/
structure Pair where
  acq : Option Acquire
  force : Bool
  step : Nat
  stepAt : Nat
  pmode : Nat
  pjseq : Nat
  pjend : Nat
  hbRx : Nat
  hbTx : Nat
  testAt : Nat
  salv : List Nat
  salvAt : Nat
  /-- frames that arrived with an uncorrectable error (R440) -/
  lost : List Nat
  mirror : List JRec
  odDay : Nat
  actv : Nat
  actvVer : Nat
  actvAt : Nat
  lode : List Nat
  key : Option KeyWait
  deriving DecidableEq, Repr

def Pair.reset : Pair := ⟨none, false, 0, 0, 0, 0, 0, 0, 0, 0, [], 0, [], [], 0, 0, 0, 0, [], none⟩

/-- A part of a cascaded command at the master (R449 to R451): position, block offset in the command, blocks, its task register
block, whether it was sent, the units it reported READY, its end. -/
structure CPart where
  pos : Nat
  off : Nat
  nblk : Nat
  block : Nat
  sent : Bool
  ready : List Nat
  done : Option Ending
  deriving DecidableEq, Repr

/-- The cascade beside its registers (R446 to R456): parts of each context's command at the master; contexts that run a part here
(its block offset + 2^16 × blocks of the whole command); positions whose answer an admin change awaits, and since when; lodestars
received by 2 × position + member. -/
structure Cas where
  parts : NMap (List CPart)
  here : NMap (Option Nat)
  wait : List Nat
  waitAt : Nat
  peers : NMap (List Nat)
  deriving DecidableEq, Repr

def Cas.reset : Cas := ⟨[], [], [], 0, []⟩

/-- The link test in progress (R505): REFCLK time of START, and its unit. -/
structure Tst where
  at_ : Nat
  unit : Nat
  deriving DecidableEq, Repr

/-- Blocks of chapters 16 to 20 and the samples of R335 and R524. -/
structure Aux where
  img : Img
  svc : Svc
  change : Option Change
  quench : Option Quench
  pair : Pair
  cas : Cas
  tst : Option Tst
  /-- power warnings that hold: VIN below WARN; PFAIL_N low (also in PWR_STAT); REFCLK time PFAIL_N last went high -/
  pfHighAt : Nat
  /-- SAFE causes held in BANKED or QUENCH (R79, R524): the first is entered next -/
  heldCause : List Nat
  /-- the SAFE entry whose flush is under way: its cause and the source that asked (R61, R78) -/
  safing : Option (Nat × Nat)
  /-- the power warning that QUENCH has yet to answer: 1 VIN, 2 PFAIL_N, 3 D3hot (R406 to R408, R411) -/
  warn : Nat
  /-- Tj at the last comparison, none since KINDLE; highest readings of this minute by sensor, and the minute and the second
  last sampled (R335) -/
  tj : Option Int
  tmax : List Int
  tsec : Nat
  tmin : Nat
  /-- HOLD_MV rose above VMIN since HOLD_LOW was last raised (R409); millisecond of the last samples of R409, R421, R524 -/
  holdMs : Nat
  vinMs : Nat
  tempMs : Nat
  /-- millisecond of CHR_NOW in which LOG_INTERRUPT was last sent, and whether a committed entry is unannounced (R498) -/
  logMs : Nat
  unannounced : Bool
  /-- FLUSH commands the helm tracks: source, blocks still owed, their number at acceptance (R126, R531) -/
  flushes : List (Nat × List Owed × Nat)
  /-- VOLUME_DELETE or FORMAT in progress: volume, source, FORMAT (R232) -/
  deleting : List (Nat × Nat × Bool)
  /-- the resynchronisation in progress also sends the configuration class to the mismatched modules (R456) -/
  resync : Bool
  deriving DecidableEq, Repr

def Aux.reset : Aux :=
  ⟨Img.reset, Svc.reset, none, none, Pair.reset, Cas.reset, none, 0, [], none, 0, none, [], 0, 0, 0, 0, 0, 0, false, [], [], false⟩

/-- A logbook entry (R498). -/
structure LogEnt where
  trig : Nat
  flags : Nat
  nreg : Nat
  seq : Nat
  stamp : Nat
  detail : List Nat
  value : List Nat
  offset : List Nat
  deriving DecidableEq, Repr

/-- RSM regions of the later chapters: logbook, entries written since the last clear, temperature histogram by 64 × sensor +
bucket, lowest and highest reading by sensor (R335), hours by Tj band toward HELM_LIFE in tenths, cascade records held (context, unit, record) and the
intents of a master (context, unit + 64 × bits of the positions whose append is not yet reported) (R450). -/
structure Keep where
  log : List LogEnt
  logSeq : Nat
  hist : NMap Nat
  tlo : List (Nat × Int)
  thi : List (Nat × Int)
  lifeTenths : Nat
  held : List (Nat × Nat × JRec)
  intents : List (Nat × Nat)
  /-- a QUENCH began and has neither completed nor been counted as incomplete (R419; DEDUCED, log 37) -/
  qOpen : Bool
  /-- originals retired and not yet replaced: die, plane, erase block (R311, R312; DEDUCED, log 114) -/
  retired : List (Nat × Nat × Nat)
  /-- groups were formed and no checkpoint round has completed since: step 9 gives the spare table its first form (R311, R339;
  DEDUCED, log 122) -/
  fresh : Bool
  /-- operations of the image store that a stop has cut short: the model's own count, which tells one undefined sector from the next
  (DESIGN CHOICE, log 119) -/
  cuts : Nat
  deriving DecidableEq, Repr

def Keep.blank : Keep := ⟨[], 0, [], [], [], 0, [], [], false, [], false, 0⟩
/-- What the module sends to the world outside it, newest first in `State.sent`. -/
inductive Msg
  /-- an MSI-X message on a port's function (R104, R105) -/
  | msix (port vec : Nat)
  /-- a DMWr completion (R97): 0 Successful Completion, 1 Request Retry Status, 2 Completer Abort, 3 Unsupported Request -/
  | dmwr (port ctx status : Nat)
  /-- a posted write to host memory: port, PASID + 1 or 0, address, bytes -/
  | hostWrite (port pasid addr : Nat) (data : List Byte)
  /-- read data returned to a port's host, with the poison mark -/
  | readData (port value : Nat) (poison : Bool)
  /-- a page request (R101): port, group index, PASID + 1 or 0, page address, write -/
  | pageReq (port idx pasid addr : Nat) (write : Bool)
  /-- an ATS invalidation completion (R102) -/
  | invalDone (port tag : Nat)
  /-- an Unsupported Request completion (R89, R96) -/
  | unsupported (port : Nat)
  /-- a message on the pair link (R425): kind, then its words -/
  | pair (kind : Nat) (w : List Nat)
  /-- a message on the cascade link to a position: kind, words -/
  | cascade (pos kind : Nat) (w : List Nat)
  /-- a reply frame put in the service port's out queue -/
  | svc (frame : List Byte)
  /-- bytes clocked out of the service port in a transaction (R483) -/
  | svcOut (data : List Byte)
  /-- serial data out of the TAP -/
  | tdo (value : Nat)
  deriving DecidableEq, Repr

/-- A raised logbook trigger that LOG_TRIGGER has not yet written (R498). -/
structure Trig where
  fam : Nat
  ev : Nat
  detail : List Nat
  stamp : Stamp
  /-- it was held over KINDLE steps 1 to 3 -/
  held : Bool
  deriving DecidableEq, Repr

/-- One port's function (R86 to R108). -/
structure Port where
  up : Bool
  d3hot : Bool
  /-- width it trained to, in lanes -/
  width : Nat
  flitRate : Nat
  /-- a Response Failure stopped page requests until ATS is enabled again (R101) -/
  noPages : Bool
  /-- page-request group indices outstanding: thread and transfer, REFCLK time sent -/
  groups : NMap (Option (Nat × Nat × Nat))
  /-- threads waiting for an index, in order of arrival -/
  waiters : List (Nat × Nat)
  /-- the MSI-X table (2,048 entries of 16 bytes); the mask bits read 1 where nothing was written (PRESUMED, log 9) -/
  msix : NMap Byte
  pba : List Nat
  /-- AER: correctable and uncorrectable status, and the header log of the first uncorrectable error (R86, R107; PRESUMED, log 106) -/
  aerCorr : Nat
  aerUncorr : Nat
  aerHdr : Nat
  /-- translations held in the Address Translation Cache, oldest first: PASID + 1 or 0, first address, logarithm of the size (R86) -/
  atc : List (Nat × Nat × Nat)
  deriving DecidableEq, Repr

def Port.reset : Port := ⟨false, false, 0, 0, false, [], [], [], [], 0, 0, 0, []⟩

/-- The settings record as it stands in force (R69): every RSM field, the almanac, the bindings, the inventory, the group
table, the retained quotas and roles. -/
structure Retained where
  fields : NMap Nat
  alm : NMap AlmEntry
  bind : NMap Bind
  now : Nat
  inv : Inventory
  grouped : Bool
  groups : NMap (Option Group)
  spares : List Nat
  redirs : List Redir
  more : RetMore
  deriving DecidableEq, Repr

/-- Factory values (R70, R72). -/
def Retained.factory : Retained := ⟨[], AlmEntry.factory, [], 0, Inventory.none, false, [], [], [], RetMore.factory⟩

/-- One copy of the settings record (R70): MAGIC, FORMAT, SEQ, LENGTH of the body in bytes, STAMP, body, CRC-64. -/
structure RsmCopy where
  magic : Nat
  format : Nat
  seq : Nat
  length : Nat
  stamp : Nat
  body : Retained
  crc : Nat
  deriving DecidableEq, Repr

/-- A copy of zeros, which is no valid copy. -/
def RsmCopy.blank : RsmCopy := ⟨0, 0, 0, 0, 0, Retained.factory, 0⟩

/-- The pins (R276, R429, R513 to R518): VIN in mV, RST_N, PFAIL_N, OWN_IN, TRST_N, and the levels on the strap lands. -/
structure Pins where
  vin : Nat
  rstN : Bool
  pfailN : Bool
  ownIn : Bool
  trstN : Bool
  split : Bool
  side : Bool
  cas : Nat
  deriving DecidableEq, Repr

/-- Pins as the model presents them after reset (DESIGN CHOICE, log 5): nominal supply, nothing asserted. -/
def Pins.reset : Pins := ⟨12000, true, true, false, true, false, false, 0⟩

/-- The machine (R15 to R19, R109, R145, R171, R204, R254, R276, R348 and the blocks' own chapters). -/
structure State where
  /-- register fields that do not outlive a reset, by field key -/
  vf : NMap Nat
  ret : Retained
  copyA : RsmCopy
  copyB : RsmCopy
  pins : Pins
  clk : Clk
  boot : Boot
  link : NMap Port
  /-- the program store: the program pack as loaded from the image (R93, R173) -/
  prog : NMap Byte
  ctx : NMap Ctx
  thr : NMap Thread
  mem : Mem
  buf : BufMgr
  slices : NMap Slice
  strides : NMap Stride
  map : MapCtl
  ck : CkRoot
  ch : Chans
  md : Media
  sif : NMap (Option Sif)
  /-- media change ring: writes to the media region made by each change of band state (R318) -/
  ring : List (Nat × List Byte)
  trigs : List Trig
  /-- order counter for first-come queues -/
  order : Nat
  d : Blocks
  rsm : Rsm
  x : Aux
  keep : Keep
  /-- the image store outside the manufacturing area; an unlisted byte is erased (R460) -/
  store : NMap Byte
  /-- the TAP's instruction (R507): 0 BYPASS, 1 IDCODE, 2 SAMPLE/PRELOAD, 3 EXTEST, 4 EXTEST_PULSE, 5 EXTEST_TRAIN, 6 CLAMP, 7 HIGHZ -/
  tap : Nat
  sent : List Msg
  pending : List Instr
  deriving DecidableEq, Repr

/-- Right after reset at first power: every field at its Reset value, nothing restored yet (R12, R63, R85). -/
def State.reset : State where
  vf := []
  ret := Retained.factory
  copyA := RsmCopy.blank
  copyB := RsmCopy.blank
  pins := Pins.reset
  clk := Clk.reset
  boot := Boot.reset
  link := []
  prog := []
  ctx := []
  thr := []
  mem := Mem.reset
  buf := BufMgr.reset
  slices := []
  strides := []
  map := MapCtl.reset
  ck := ⟨none, none, 0⟩
  ch := Chans.reset
  md := Media.reset
  sif := []
  ring := []
  trigs := []
  order := 0
  d := Blocks.reset
  rsm := Rsm.blank
  x := Aux.reset
  keep := Keep.blank
  store := []
  tap := 1
  sent := []
  pending := []

/-- The outcome of a command. -/
abbrev Res := Host.Outcome State Fault Refusal

end Sys2Proof.Machine
end

