-- ==== Sys2Proof/Machine/Ops.lean ====
section
/-! DEFINITION. Named operations over registers, the settings record, stamps, time, interrupts, the logbook queue, threads
and context pages. -/
namespace Sys2Proof.Machine
open Sys2Proof

/-! ### Outcomes -/

/-- A command whose condition holds has its effect; one whose condition does not hold has none (DESIGN CHOICE, log 1). -/
def act (c : Bool) (s t : State) : Res := .next (if c then t else s)

/-! ### Register fields (R10, R12) -/

/-- The value of a stored register field, never wider than the field. -/
def getF (s : State) (f : Fld) : Nat :=
  (if f.ret then mget f.dflt s.ret.fields f.key else mget f.dflt s.vf f.key) % 2 ^ f.w

/-! ### The settings record (R69 to R71) -/

/-- Group states as shown in PAR_GRP.STATE (R351, R368). -/
def gstCode : GSt → Nat
  | .healthy => 0 | .degraded => 1 | .rebuilding => 2 | .reshaping => 3 | .offline => 4

/-- The body of a copy in bytes: every item as a list of 8-byte words. R69 gives the items and no layout (DESIGN CHOICE, log 97). -/
def bodyBytes (r : Retained) : List Byte :=
  let q := fun (b : Bucket) => [b2n b.en, b.rate, b.cap]
  (r.fields.flatMap (fun e => [e.1, e.2])
    ++ r.alm.flatMap (fun e => [e.1, e.2.due, e.2.period, e.2.arg, e.2.kind, e.2.rank, b2n e.2.en, b2n e.2.needset, b2n e.2.fired, e.2.count])
    ++ r.bind.flatMap (fun e => [e.1, b2n e.2.bound, e.2.tenant, b2n e.2.pasidEn, e.2.pasid] ++ e.2.vols)
    ++ [r.now, r.inv.planes, r.inv.pages, r.inv.eblks, b2n r.grouped] ++ r.inv.dies ++ r.spares
    ++ r.groups.flatMap (fun e => match e.2 with
      | some g => [e.1, gstCode g.st, g.np, b2n g.pending, g.kreb] ++ g.mem ++ g.lost ++ g.rebuilt
      | none => [])
    ++ r.redirs.flatMap (fun d => [d.old, d.new, d.group, b2n d.full] ++ d.left)
    ++ r.more.quota.flatMap (fun e => e.1 :: (q e.2.b0 ++ q e.2.b1 ++ q e.2.b2))).flatMap (leBytes 8)

/-- The header of a copy (R70). -/
def headBytes (c : RsmCopy) : List Byte :=
  leBytes 4 c.magic ++ leBytes 4 c.format ++ leBytes 8 c.seq ++ leBytes 8 c.length ++ leBytes 8 c.stamp

/-- The CRC-64 over header and body (R70). -/
def copyCrc (c : RsmCopy) : Nat := crc64 (headBytes c ++ bodyBytes c.body)

/-- A copy as a commit writes it. -/
def sealCopy (c : RsmCopy) : RsmCopy := { c with crc := copyCrc c }

/-- The copy holds a record: MAGIC and FORMAT check. -/
def RsmCopy.valid (c : RsmCopy) : Bool := c.magic == 0x52534D53 && c.format == 2

/-- A copy as KINDLE reads it: one whose CRC does not check is no valid copy (R70). -/
def crcChecked (c : RsmCopy) : RsmCopy := if c.valid && c.crc != copyCrc c then RsmCopy.blank else c

/-- Commit the settings record in force to the copy that does not hold the higher SEQ (R70, R71). -/
def commit (s : State) : State :=
  let hiA := s.copyA.valid && (!s.copyB.valid || s.copyB.seq ≤ s.copyA.seq)
  let seq := max (if s.copyA.valid then s.copyA.seq else 0) (if s.copyB.valid then s.copyB.seq else 0) + 1
  let c := sealCopy ⟨0x52534D53, 2, seq, (bodyBytes s.ret).length, s.clk.now, s.ret, 0⟩
  if hiA then { s with copyB := c } else { s with copyA := c }

/-- The changes from `s` to `s'` were one write: they are one commit (R71). -/
def oneCommit (s s' : State) : State :=
  if s'.copyA.seq == s.copyA.seq && s'.copyB.seq == s.copyB.seq then s' else commit { s' with copyA := s.copyA, copyB := s.copyB }

/-! ### Storing fields -/

/-- Store a register field, cut to its width. An RSM field is stored in the settings record in force and committed (R69, R71). -/
def setF (s : State) (f : Fld) (v : Nat) : State :=
  if f.ret then commit { s with ret := { s.ret with fields := mset f.dflt s.ret.fields f.key (v % 2 ^ f.w) } }
  else { s with vf := mset f.dflt s.vf f.key (v % 2 ^ f.w) }

/-- A one-bit field as a Bool. -/
def flag (s : State) (f : Fld) : Bool := getF s f == 1

/-- A saturating counter field (R10, "saturating"). -/
def addSat (s : State) (f : Fld) (d : Nat) : State := setF s f (satAdd f.w (getF s f) d)

/-- A wrapping counter field. -/
def addWrap (s : State) (f : Fld) (d : Nat) : State := setF s f (getF s f + d)

/-- Store an RSM field (R71). -/
def setC (s : State) (f : Fld) (v : Nat) : State := setF s f v

/-- The valid copy with the higher SEQ (R70). -/
def bestCopy (s : State) : Option RsmCopy :=
  if s.copyA.valid && (!s.copyB.valid || s.copyB.seq ≤ s.copyA.seq) then some s.copyA
  else if s.copyB.valid then some s.copyB else none

/-- The newest copy is lost when its commit lies within the last 10 µs, so the other holds (R71). -/
def dropCommit (s : State) : State :=
  let young := fun (c : RsmCopy) => c.valid && decide (s.clk.now ≤ c.stamp + 10000)
  let hiA := s.copyA.valid && (!s.copyB.valid || s.copyB.seq ≤ s.copyA.seq)
  if hiA && young s.copyA then { s with copyA := RsmCopy.blank }
  else if !hiA && young s.copyB then { s with copyB := RsmCopy.blank } else s

/-! ### Modes (R59) -/

def mOff : Nat := 0
def mKindle : Nat := 1
def mStandby : Nat := 2
def mRun : Nat := 3
def mBanked : Nat := 4
def mService : Nat := 5
def mQuench : Nat := 6
def mSafe : Nat := 7

/-- The current mode: HELM_MODE.CUR (R59, R85). -/
def mode (s : State) : Nat := getF s HELM_MODE_CUR

/-- A test of the current mode. -/
def inMode (s : State) (l : List Nat) : Bool := l.contains (mode s)

/-- The register family of an offset (R92). -/
def famOf (off : Nat) : Nat := (off - 0x01000000) / 0x10000

/-- Registers of a family answer: none in OFF, HELM_ and SVC_ alone while only the ROM runs (R80; DEDUCED, log 53). -/
def regOk (s : State) (fam : Nat) : Bool :=
  if mode s == mOff then false
  else if !s.boot.image then fam == 0 || fam == 18
  else true

/-! ### Stamps (R39, R40) -/

/-- Sources of stamps other than threads (which stamp under their own numbers): the JUMP flag is set in each source's first
stamp after a step of CHR_NOW (DEDUCED, log 7). -/
def srcSnapshot : Nat := 5000
def srcLog : Nat := 5001
def srcMbx : Nat := 5002
def srcJournal : Nat := 5003
def srcHealth : Nat := 5004
def srcMisc : Nat := 5005

/-- The stamp-flag byte as it stands now for source `src` (R40). -/
def stampFlags (s : State) (src : Nat) : Nat :=
  getF s CHR_STAT_DR + 2 * getF s CHR_STAT_SLEW + 4 * getF s CHR_STAT_UNSET
    + 8 * b2n (mget 0 s.clk.jumpSeen src < s.clk.steps)

/-- The stamp taken now by source `src`. -/
def stampOf (s : State) (src : Nat) : Stamp := ⟨s.clk.now, stampFlags s src⟩

/-- Source `src` has stamped: its next stamps carry no JUMP until the next step. -/
def stamped (s : State) (src : Nat) : State :=
  { s with clk := { s.clk with jumpSeen := mset 0 s.clk.jumpSeen src s.clk.steps } }

/-! ### Messages, interrupts, logbook -/

/-- Send a message to the outside. -/
def send (s : State) (m : Msg) : State := { s with sent := m :: s.sent }

def port (s : State) (p : Nat) : Port := mget Port.reset s.link p
def setPort (s : State) (p : Nat) (x : Port) : State := { s with link := mset Port.reset s.link p x }

/-- Ports present: A, and B when PCIE_SPLIT reads 1 (R88). -/
def ports (s : State) : List Nat := if s.boot.split then [0, 1] else [0]

/-- In KINDLE step `n` is complete (R63). -/
def kindlePast (s : State) (n : Nat) : Bool := mode s != mKindle || decide (n < getF s HELM_KINDLE_STEP)

/-- A port is there, up and answering, in KINDLE once step 6 is complete (R67); and it takes requests to its BARs (R88, R89). -/
def portUp (s : State) (p : Nat) : Bool := mode s != mOff && kindlePast s 6 && (ports s).contains p && (port s p).up
def portOpen (s : State) (p : Nat) : Bool := portUp s p && !flag s (HLV_STAT_CFG_ONLY p)

/-- An uncorrectable error enters the AER record of a port: its status bit, and the header where the log is free (R107; PRESUMED,
log 106). -/
def aerError (s : State) (p b hdr : Nat) : State :=
  let x := port s p
  setPort s p { x with aerUncorr := putBits x.aerUncorr b 1 1, aerHdr := if x.aerUncorr = 0 then hdr % 2 ^ 128 else x.aerHdr }

/-- The mask bit of an MSI-X table entry (R105). -/
def masked (p : Port) (vec : Nat) : Bool := (mget 1 p.msix (16 * vec + 12)).toNat % 2 == 1

/-- Signal one vector on one port: the message, or the pending bit when the entry is masked (R105). -/
def msixOn (s : State) (p vec : Nat) : State :=
  if masked (port s p) vec then setPort s p { port s p with pba := sins vec (port s p).pba }
  else send s (.msix p vec)

/-- Signal an event vector on every port that is up (R104). -/
def event (s : State) (vec : Nat) : State :=
  (ports s).foldl (fun s p => if (port s p).up then msixOn s p vec else s) s

/-- Raise a logbook trigger (R498, R499); LOG_TRIGGER writes its entry. -/
def logEv (s : State) (fam ev : Nat) (detail : List Nat) : State :=
  stamped { s with trigs := s.trigs ++ [⟨fam, ev, detail, stampOf s srcLog, false⟩] } srcLog

/-! ### Time (R38, R41) -/

/-- Modes that hold the almanac's refills (R57). -/
def holdsRefill (m : Nat) : Bool := [mKindle, mStandby, mQuench].contains m

/-- Time passes in every mode except OFF (R39): CHR_NOW and the REFCLK count advance; at most 1 ns per µs of the correction in
force is removed, never more than is left of it, and SLEW falls once less than 1 µs is left (R41).
DESIGN CHOICE (log 3, log 95): the operand says how much time passes; an uncorrected ns of CHR_NOW is one ns of REFCLK. -/
def elapse (s : State) (e : Elapse) : State :=
  if mode s == mOff then s else
  let r := s.clk.slewRem
  let c := min (min e.corr (e.ns / 1000)) r.natAbs
  let now := if 0 ≤ r then s.clk.now + e.ns - c else s.clk.now + e.ns + c
  let r' := if 0 ≤ r then r - c else r + c
  let s := { s with clk := { s.clk with now := now, refNs := s.clk.refNs + e.ns, slewRem := r'
                                        refHold := if holdsRefill (mode s) then now else s.clk.refHold } }
  if r'.natAbs < 1000 then setF s CHR_STAT_SLEW 0 else s

/-- A length in ms as ns. -/
def ms (n : Nat) : Nat := n * 1000000

/-! ### Threads and context pages (R109, R145, R171) -/

def th (s : State) (t : Nat) : Thread := mget Thread.idle s.thr t
def setTh (s : State) (t : Nat) (x : Thread) : State := { s with thr := mset Thread.idle s.thr t x }
def modTh (s : State) (t : Nat) (f : Thread → Thread) : State := setTh s t (f (th s t))

def cx (s : State) (c : Nat) : Ctx := mget Ctx.reset s.ctx c
def setCx (s : State) (c : Nat) (x : Ctx) : State := { s with ctx := mset Ctx.reset s.ctx c x }
def modCx (s : State) (c : Nat) (f : Ctx → Ctx) : State := setCx s c (f (cx s c))

/-- Host threads are those of the 4,096 contexts; 4,096 to 4,607 are internal (R18). -/
def isHost (t : Nat) : Bool := t < 4096

/-- The quadrant of a thread (R18, R19). -/
def quadOf (t : Nat) : Nat := if t < 4096 then t / 1024 else (t - 4096) / 128

/-- A system thread: stamp bit 10 (R165). -/
def isSys (s : State) (t : Nat) : Bool := bit (th s t).stamp 10

/-- The binding of a context (R114). -/
def bindOf (s : State) (c : Nat) : Bind := mget Bind.none s.ret.bind c

/-- The admin context (R84). -/
def adminCtx (s : State) : Nat := getF s HELM_ADMIN_CTX

/-- CTX_STATE.BOUND: a binding is in force, or the context is HELM_ADMIN.CTX (R112, R114). -/
def boundOf (s : State) (c : Nat) : Bool := (bindOf s c).bound || c == adminCtx s

/-- General register `r` of thread `t`; g0 reads 0 (R171). -/
def gr (s : State) (t r : Nat) : W64 := if r = 0 then 0 else mget 0 (th s t).g r

/-- A register value of a thread record; a write to g0 is discarded (R171). -/
def Thread.setG (x : Thread) (r : Nat) (v : W64) : Thread :=
  if r = 0 then x else { x with g := mset 0 x.g r v }

/-- The next number of the order counter. -/
def tick (s : State) : State := { s with order := s.order + 1 }

/-- Thread states as shown in TSTATE (R112, R145). -/
def TSt.code : TSt → Nat
  | .idle => 0 | .armed => 1 | .ready => 2 | .running => 3 | .waiting => 4 | .parked => 5 | .done => 6 | .faulted => 7

/-- Wait reasons as shown in WREASON (R112, R155). -/
def Why.code : Why → Nat
  | .none => 0 | .mapmiss => 1 | .media => 2 | .buffer => 3 | .pagereq => 4 | .dma => 5 | .lock => 6 | .time => 7 | .quota => 8
  | .mailbox => 9

/-- The state a wait reason holds its thread in (R155). -/
def Why.state : Why → TSt
  | .mapmiss | .media | .dma => .waiting
  | _ => .parked

/-- A thread begins to wait: state, reason, object named, moment, what it does on release (R155). -/
def wait (s : State) (t : Nat) (w : Why) (arg : Nat) (k : Cont) : State :=
  modTh (tick s) t fun x => { x with st := w.state, why := w, lastWhy := w, arg := arg, sinceNow := s.clk.now,
                                     sinceRef := s.clk.refNs, waitAt := s.order, cont := k, waited := true, runIssued := 0 }

/-- BANKED holds this thread parked with reason TIME (R73). -/
def heldBack (s : State) (t : Nat) : Bool :=
  !isHost t && (s.d.hold == 2 || (s.d.hold == 1 && (th s t).role != 2 && (th s t).role != 8))

/-- A thread parks with reason TIME until the module leaves BANKED (R73, R155). -/
def holdPark (s : State) (t : Nat) : State :=
  modTh { s with d := { s.d with held := sins t s.d.held } } t fun x =>
    { x with st := .parked, why := .time, lastWhy := .time, arg := 2 ^ 64 - 1, sinceNow := s.clk.now, sinceRef := s.clk.refNs }

/-- Threads of a quadrant and class in a state. A thread whose data command is performed whole takes no slot. -/
def inQuad (s : State) (q : Nat) (host : Bool) (st : TSt) : List (Nat × Thread) :=
  s.thr.filter fun e => quadOf e.1 = q && isHost e.1 = host && e.2.st = st && !e.2.charged

/-- L of a quadrant (R150); QUENCH knows no limit (R154). -/
def slotLimit (s : State) (q : Nat) : Nat := if mode s == mQuench then 64 else getF s (ANV_QSTAT_INTSLOTS q)

/-- A thread leaves its slot for READY, or for the park of R73. -/
def giveBack (s : State) (t : Nat) : State :=
  let s' := modTh (tick s) t fun x => { x with st := .ready, readyAt := s.order }
  if heldBack s t then holdPark s' t else s'

/-- While a host thread is READY, internal threads of its quadrant hold at most L slots: those past it go back to READY, latest
grants first (R150, R153). -/
def preempt (s : State) (q : Nat) : State :=
  if (inQuad s q true .ready).isEmpty then s else
  let run := (inQuad s q false .running).map fun e => (e.2.slotAt, e.1)
  ((run.mergeSort fun a b => b.1 ≤ a.1).take (run.length - slotLimit s q)).foldl (fun s e => giveBack s e.2) s

/-- A host thread that became READY meets the limit of its quadrant. -/
def enforceL (s : State) (t : Nat) : State := if isHost t then preempt s (quadOf t) else s

/-- A thread in WAITING or PARKED goes to READY (R146), or to the park of R73. -/
def toReady (s : State) (t : Nat) : State :=
  let s' := modTh (tick s) t fun x => { x with st := .ready, why := .none, cont := .nothing, readyAt := s.order }
  if heldBack s t then holdPark s' t else enforceL s' t

/-- Release with a result register (R155: the next instruction, with the result). -/
def releaseWith (s : State) (t rd : Nat) (v : W64) : State :=
  toReady (modTh s t fun x => x.setG rd v) t

/-- Threads that satisfy a test, in ascending number. -/
def threadsWhere (s : State) (p : Nat → Thread → Bool) : List Nat :=
  (s.thr.filter fun e => p e.1 e.2).map Prod.fst

/-- A status word (R177). -/
def svWord (cls detail : Nat) (offset : Option Nat) : W64 :=
  BitVec.ofNat 64 (2 ^ 63 + cls + 256 * detail + (match offset with | some o => 65536 * (o % 2 ^ 14) + 2 ^ 30 | none => 0))

/-- The pc of the instruction a thread is at: one that waits has its pc already past the waiting instruction, unless that
instruction issues again. -/
def Thread.atPc (x : Thread) : Nat :=
  if (x.st = .waiting || x.st = .parked) && x.cont != .again then x.pc - 8 else x.pc

/-- A thread faults: FAULTED, and ANV_FAULT records class, code and pc (R167, R168 step 1). The clean-up is THREAD_FAULT's. -/
def raise (s : State) (t cls code : Nat) : State :=
  modTh s t fun x => { x with st := .faulted, why := .none, cont := .nothing, faultValid := true, faultCls := cls,
                              faultCode := code, faultPc := x.atPc % 2 ^ 23, faultImm := 0 }

end Sys2Proof.Machine
end

