-- ==== Sys2Proof/Machine/Memory.lean ====
section
/-! DEFINITION. DRAM, data SRAM and scratchpad accesses: the valid bitmap, check codes, the correctable-error table and the
uncorrectable-error log (R204, R248, R264 to R273). -/
namespace Sys2Proof.Machine
open Sys2Proof

/-! ### DRAM map (R204, R262, R264, R309) -/

/-- The byte memories are in their canonical form: addresses strictly rising, no zero listed. -/
abbrev Memory.wf (m : Mem) : Prop := MapWf 0 m.dram ∧ MapWf 0 m.sram ∧ MapWf 0 m.scratch

def aCoarse : Nat := 0x80
def aCoarseGen : Nat := 0x0700010000
def aChunk : Nat := 0x0E00010000
def aChunkGen : Nat := 0x1200010000
def aGroup : Nat := 0x1600010000
def aCand : Nat := 0x1700010000
def aGroupMap : Nat := 0x1700210000
def aVol : Nat := 0x1700410000
def aSpare : Nat := 0x1700800000
def aChunkMap : Nat := 0x1701000000
def aSlots : Nat := 0x1703000000
def aBand : Nat := 0x1703002000
def aRing : Nat := 0x1704000000
def mapEnd : Nat := 0x1704000000
def aWb : Nat := 0x1708000000
def aWbMeta : Nat := 0x1808000000
def aP2 : Nat := 0x180C000000
def aP2Meta : Nat := 0x190C000000
def aP3 : Nat := 0x1910000000
def aP3Meta : Nat := 0x1DD0000000
def aHelm : Nat := 0x1DE3000000
def aEnd : Nat := 0x1DF0000000

/-- Line numbers that `n` bytes from `a` touch. -/
def linesOf (a n : Nat) : List Nat :=
  if n = 0 then [] else (List.range ((a + n - 1) / 64 - a / 64 + 1)).map (a / 64 + ·)

/-- Counter `i` of R333 grows. -/
def errInc (s : State) (i n : Nat) : State :=
  { s with md := { s.md with errs := mset 0 s.md.errs i (mget 0 s.md.errs i + n) } }

/-- Counter `i` of R333 grows, and its per-channel copy of R334. -/
def errIncCh (s : State) (ch i n : Nat) : State := errInc (errInc s i n) (100 + 16 * ch + i) n

/-- Bytes of DRAM as a load returns them: zero in the helm's range and past the end (R264). -/
def dramRd (s : State) (a n : Nat) : List Byte :=
  if aHelm ≤ a then List.replicate n 0 else rdBytes s.mem.dram a n

def dramLe (s : State) (a n : Nat) : Nat := leNat (dramRd s a n)

/-- A store to DRAM: discarded in the helm's range and past the end (R264); a line written whole passes its check again, a
line written in part keeps failing (R266, R272). -/
def dramWr (s : State) (a : Nat) (b : List Byte) : State :=
  if aHelm ≤ a then s else
  let ls := linesOf a b.length
  let whole := ls.filter fun l => a ≤ 64 * l && 64 * l + 64 ≤ a + b.length
  { s with mem := { s.mem with dram := wrBytes s.mem.dram a b, valid := ls.foldl (fun v l => sins l v) s.mem.valid,
                               bad := s.mem.bad.filter fun l => !whole.contains l } }

def dramWrLe (s : State) (a n v : Nat) : State := dramWr s a (leBytes n v)

/-- The allocation clear: the valid bits of a range of lines fall, so the range reads zero (R267). -/
def dramClear (s : State) (a n : Nat) : State :=
  let inR := fun l => a / 64 ≤ l && l < (a + n) / 64
  { s with mem := { s.mem with dram := clrBytes s.mem.dram a n, valid := s.mem.valid.filter fun l => !inR l,
                               bad := s.mem.bad.filter fun l => !inR l } }

/-- A correctable DRAM error on a line: the channel's count and the table of R270. -/
def dramCorr (s : State) (line : Nat) : State :=
  let a := 64 * line
  let s := errInc (addSat s (DRM_ECNT_CORR (line % 8)) 1) 5 1
  match s.mem.ceTab.find? (fun e => e.1 == a) with
  | some (_, c, _) =>
    let c' := min (c + 1) 255
    let s := { s with mem := { s.mem with ceTab := s.mem.ceTab.map fun e => if e.1 = a then (a, c', e.2.2) else e } }
    if c < c' && c' == getF s DRM_CECTL_THR then event (logEv s 7 0 [a, line % 8, c']) 5 else s
  | none =>
    if s.mem.ceTab.length < 32 then
      let s := { s with mem := { s.mem with ceTab := s.mem.ceTab ++ [(a, 1, s.clk.now)] } }
      if getF s DRM_CECTL_THR == 1 then event (logEv s 7 0 [a, line % 8, 1]) 5 else s
    else setF s DRM_CESTAT_OVF 1

/-- DRM_UELOG and DRM_UESTAMP take an error. -/
def ueLog (s : State) (line src : Nat) : State :=
  setF (setF (setF (setF (setF s DRM_UELOG_ADDR (64 * line)) DRM_UELOG_CH (line % 8)) DRM_UELOG_SRC src) DRM_UELOG_VALID 1)
    DRM_UESTAMP_NOW s.clk.now

/-- An uncorrectable DRAM error reaches requester kind `src` (R271); the line keeps failing (R272). -/
def dramUe (s : State) (line src : Nat) : State :=
  let s := { s with mem := { s.mem with bad := sins line s.mem.bad } }
  let s := errInc (addSat s (DRM_ECNT_UNCORR (line % 8)) 1) 6 1
  event (logEv (ueLog s line src) 7 1 [64 * line, line % 8, src]) 5

/-- A bitmap line fails: all 512 bits of its span are set, and lines never written fail from then on (R268). -/
def bitmapErr (s : State) (line : Nat) : State :=
  let first := line / 512 * 512
  let span := (List.range 512).map (first + ·)
  let fresh := span.filter fun l => !s.mem.valid.contains l
  let s := { s with mem := { s.mem with valid := fresh.foldl (fun v l => sins l v) s.mem.valid,
                                        bad := fresh.foldl (fun v l => sins l v) s.mem.bad } }
  let s := addSat s (DRM_ECNT_BMERR (line % 8)) 1
  event (logEv (ueLog s first 6) 7 2 [64 * first]) 5

/-- A DRAM read of `n` bytes at `a` meets what the codes find: whether it ends in a bus error, and the bookkeeping
(R268, R270, R271). `src` is the requester kind of R271. -/
def dramCheck (s : State) (a n : Nat) (e : MErr) (src : Nat) : Bool × State :=
  if aHelm ≤ a then (false, s) else
  let s := match e with
    | .corr => if s.mem.valid.contains (a / 64) then dramCorr s (a / 64) else s
    | .bitmap => bitmapErr s (a / 64)
    | _ => s
  match (linesOf a n).find? (fun l => s.mem.bad.contains l) with
  | some l => (true, dramUe s l src)
  | none => if e = .uncorr && s.mem.valid.contains (a / 64) then (true, dramUe s (a / 64) src) else (false, s)

/-- The merge read of a store that covers its line in part, and the bitmap read of any store (R266, R268, R270, R272); a line that fails
already fails there too. An uncorrectable error that a merge finds is counted under source 0 (DESIGN CHOICE, log 107). -/
def dramMerge (s : State) (a n : Nat) (e : MErr) : State :=
  if aHelm ≤ a then s else
  let live := s.mem.valid.contains (a / 64) && !(decide (a % 64 = 0) && decide (64 ≤ n))
  if live && s.mem.bad.contains (a / 64) then dramUe s (a / 64) 0 else
  match e with
  | .ok => s
  | .corr => if live then dramCorr s (a / 64) else s
  | .uncorr => if live then dramUe s (a / 64) 0 else s
  | .bitmap => bitmapErr s (a / 64)

/-! ### Data SRAM and scratchpads (R248, R254, R273) -/

/-- A data-SRAM read of `n` bytes meets what the codes find: its first word may hold a new error, words that failed go on failing,
and lines never written hold none (R273). -/
def sramCheck (s : State) (a n : Nat) (e : MErr) : Bool × State :=
  let q := a / 2 ^ 24
  let live := s.mem.sramValid.contains (a / 64)
  let s := if e = .corr && live then errInc (addSat s (DRM_SRAMCNT_CORR q) 1) 7 1 else s
  let s := if e = .uncorr && live then { s with mem := { s.mem with sramBad := sins (a / 8) s.mem.sramBad } } else s
  if s.mem.sramBad.any fun w => decide (a < 8 * w + 8) && decide (8 * w < a + n) then
    (true, errInc (addSat s (DRM_SRAMCNT_UNCORR q) 1) 13 1)
  else (false, s)

/-- A store to data SRAM: its lines become valid, and a word written whole passes its check again (R273). -/
def sramWr (s : State) (a : Nat) (b : List Byte) : State :=
  { s with mem := { s.mem with sram := wrBytes s.mem.sram a b
                               sramValid := (linesOf a b.length).foldl (fun v l => sins l v) s.mem.sramValid
                               sramBad := s.mem.sramBad.filter fun w => !(decide (a ≤ 8 * w) && decide (8 * w + 8 ≤ a + b.length)) } }

def slice (s : State) (q : Nat) : Slice := mget Slice.empty s.slices q
def setSlice (s : State) (q : Nat) (x : Slice) : State := { s with slices := mset Slice.empty s.slices q x }

/-- Scratchpad steps granted in a quadrant (R248). -/
def spSteps (s : State) (q : Nat) : Nat := (slice s q).spWays.length

/-- A scratchpad address in the layout of R186 lies in a converted step. -/
def spMapped (s : State) (a : Nat) : Bool :=
  a < 4 * 6291456 && a % 6291456 < spSteps s (a / 6291456) * 786432

def spRd (s : State) (a n : Nat) : List Byte :=
  if spMapped s a then rdBytes s.mem.scratch a n else List.replicate n 0

def spWr (s : State) (a : Nat) (b : List Byte) : State :=
  if spMapped s a then { s with mem := { s.mem with scratch := wrBytes s.mem.scratch a b,
                                                    scratchValid := (linesOf a b.length).foldl (fun v l => sins l v) s.mem.scratchValid,
                                                    scratchBad := s.mem.scratchBad.filter fun w =>
                                                      !(decide (a ≤ 8 * w) && decide (8 * w + 8 ≤ a + b.length)) } } else s

/-- A word of a scratchpad read that fails its check. -/
def spBad (s : State) (a n : Nat) : Bool :=
  spMapped s a && s.mem.scratchBad.any fun w => decide (a < 8 * w + 8) && decide (8 * w < a + n)

end Sys2Proof.Machine
end

