-- ==== Sys2Proof/Machine/MapOps.lean ====
section
/-! DEFINITION. Map control: coarse entries, the fine overlay, generations, locations, journal records and their apply
(R204 to R222), the write-through queues every change passes (R240 to R242), and the media addresses of blocks (R207, R306). -/
namespace Sys2Proof.Machine
open Sys2Proof

/-! ### Map words through the write-through queues (R238, R240) -/

/-- The home slice of a DRAM address (R25). -/
def homeSlice (a : Nat) : Nat := a / 64 % 4

/-- The line is held in a way or in an eviction register. -/
def Slice.has (x : Slice) (l : Nat) : Bool := (mget none x.lines l).isSome || x.evict.any fun v => v.line = some l

/-- The byte at `a` as map control sees it: the copy of a line that a store past the cache left behind, else DRAM under every
queued change of its slice (R238, R240). -/
def mapByte (s : State) (a : Nat) : Byte :=
  let x := slice s (homeSlice a)
  let held := mget [] x.copies (a / 64)
  if !held.isEmpty && x.has (a / 64) then held.getD (a % 64) 0 else
  match x.wtq.reverse.find? (fun e => e.1 ≤ a && a < e.1 + e.2.length) with
  | some (b, l) => l.getD (a - b) 0
  | none => mget 0 s.mem.dram a

def mapBytes (s : State) (a n : Nat) : List Byte := (List.range n).map fun i => mapByte s (a + i)

/-- A little-endian map word of `n` bytes. -/
def mapLe (s : State) (a n : Nat) : Nat := leNat (mapBytes s a n)

/-- Fills whose line has no queued write left have their DRAM read issued (R239 step 2). -/
def Slice.issue (x : Slice) : Slice :=
  { x with fills := x.fills.map fun f => if x.wtq.any (fun e => e.1 / 64 = f.line) then f else { f with read := true } }

/-- The oldest entry of a slice's write-through queue reaches DRAM (R240); `e` is what the codes find anew under it (R270). -/
def wtDrain (s : State) (q : Nat) (e : MErr := .ok) : State :=
  match (slice s q).wtq with
  | [] => s
  | (a, b) :: t => dramWr (dramMerge (setSlice s q ({ slice s q with wtq := t } : Slice).issue) a b.length e) a b

/-- Every queued change of a line reaches DRAM, with those queued before the last of them (R238). -/
def drainLine (s : State) (l : Nat) : State :=
  (slice s (l % 4)).wtq.foldl (fun s _ =>
    if (slice s (l % 4)).wtq.any (fun e => e.1 / 64 = l) then wtDrain s (l % 4) else s) s

/-- A store past the cache comes to a line that the cache holds: the copy keeps its bytes (R238). -/
def keepCopy (s : State) (l : Nat) : State :=
  let x := slice s (l % 4)
  if l < mapEnd / 64 && x.has l && (mget [] x.copies l).isEmpty then
    setSlice s (l % 4) { x with copies := mset [] x.copies l (mapBytes s (64 * l) 64) }
  else s

/-- A line's copies and their errors are forgotten: it leaves the cache or is filled anew. -/
def Slice.forget (x : Slice) (l : Nat) : Slice := { x with errs := mdel x.errs l, copies := mdel x.copies l }

/-- Remove a line from its way. -/
def Slice.drop (x : Slice) (l : Nat) : Slice := { x.forget l with lines := mdel x.lines l }

/-- An eviction register that holds the line is freed. -/
def Slice.unheld (x : Slice) (l : Nat) : Slice :=
  { x with evict := x.evict.map fun e => if e.line = some l then { e with line := none } else e }

/-- A change to map bytes within one line enters the queue of the home slice, a full queue freeing an entry first; bytes that stay
as they are do not (R240). A held copy in an eviction register is discarded (R245), and a copy in a way is updated, or invalidated
when it holds an uncorrectable error (R242). -/
def mapWr (s : State) (a : Nat) (b : List Byte) : State :=
  if mapBytes s a b.length = b then s else
  let q := homeSlice a
  let l := a / 64
  let s := if 512 ≤ (slice s q).wtq.length then wtDrain s q else s
  let x := slice s q
  let held := mget [] x.copies l
  let x := if held.isEmpty then x else
    { x with copies := mset [] x.copies l (held.take (a % 64) ++ b ++ held.drop (a % 64 + b.length)) }
  let x := if mget .ok x.errs l = .uncorr then x.drop l else x
  setSlice s q (({ x with wtq := x.wtq ++ [(a, b)] } : Slice).unheld l)

def mapWrLe (s : State) (a n v : Nat) : State := mapWr s a (leBytes n v)

/-! ### Geometry (R207, R282, R306) -/

def planes (s : State) : Nat := getF s MAP_GEOM_PLANES
def pages (s : State) : Nat := getF s MAP_GEOM_PAGES
def eblks (s : State) : Nat := getF s MAP_GEOM_EBLKS

/-- Billets per erase block and plane. -/
def geoQ (s : State) : Nat := (pages s - 1) / 32
/-- Leading pages of each erase block. -/
def geoRp (s : State) : Nat := pages s - 32 * geoQ s
/-- Bands per group (R306). -/
def nbe (s : State) : Nat := eblks s - s.boot.spr

def ppaSlot (p : Nat) : Nat := bits p 0 3
def ppaPage (p : Nat) : Nat := bits p 3 12
def ppaEblk (p : Nat) : Nat := bits p 15 14
def ppaPlane (p : Nat) : Nat := bits p 29 2
/-- The global die index (R282). -/
def ppaDie (p : Nat) : Nat := bits p 31 13
def ppaChan (p : Nat) : Nat := bits p 39 5

/-- The PPA of its parts (R282). -/
def mkPpa (die plane eblk page slot : Nat) : Nat :=
  slot + 2 ^ 3 * page + 2 ^ 15 * eblk + 2 ^ 29 * plane + 2 ^ 31 * die

/-- The PPA of block `k` of the flash billet a PBA names (R207). -/
def pbaPpa (s : State) (pba k : Nat) : Nat :=
  let b := bits pba 0 19
  let t := b / geoQ s
  mkPpa (bits pba 19 13) (t % planes s) (t / planes s) (geoRp s + 32 * (b % geoQ s) + k / 8) (k % 8)

/-- The PBA of the billet that contains a PPA; none below page Rp or past the last billet (R215). -/
def ppaPba (s : State) (p : Nat) : Option Nat :=
  if ppaPage p < geoRp s || geoRp s + 32 * geoQ s ≤ ppaPage p then none
  else some ((ppaPage p - geoRp s) / 32 + geoQ s * (ppaPlane p + planes s * ppaEblk p) + 2 ^ 19 * ppaDie p)

/-! ### Groups and bands (R306, R311, R312, R357) -/

def group (s : State) (g : Nat) : Option Group := mget none s.ret.groups g

/-- A spare-table entry (R311). -/
def spareEnt (s : State) (die plane k : Nat) : Nat := dramLe s (aSpare + 256 * (4 * die + plane) + 8 * k) 8

/-- The spare-table entries of a die and plane. -/
def spareEnts (s : State) (die plane : Nat) : List Nat := (List.range 32).map fun k => spareEnt s die plane k

/-- The band a spare serves, or served before it was retired, until another spare is ASSIGNED to it (R311, R312). -/
def spareBand (s : State) (die plane eblk : Nat) : Option Nat :=
  let l := spareEnts s die plane
  match l.find? (fun w => 2 ≤ bits w 14 2 && bits w 0 14 = eblk) with
  | some w => if bits w 14 2 = 3 && l.any (fun v => bits v 14 2 = 2 && bits v 16 20 = bits w 16 20) then none else some (bits w 16 20)
  | none => none

/-- An original that a spare has replaced: it took an entry as RETIRED (R311, R329). -/
def replaced (s : State) (die plane eblk : Nat) : Bool := (spareEnts s die plane).any fun w => bits w 14 2 = 3 && bits w 0 14 = eblk

/-- The group whose bands a die's erase block `e` belongs to: the new group of a reshape once index `e` is handed over, also where a spare has
followed the die there (R366, R367). -/
def groupOf (s : State) (die e : Nat) : Option Nat :=
  let gs := (s.ret.groups.filter fun x => match x.2 with | some g => g.mem.contains die | none => false).map Prod.fst
  let fresh := fun g => match group s g with | some x => x.pending | none => false
  let handed := match s.md.reshape with | some r => !r.left.contains e | none => true
  match gs.find? (fun g => if handed then fresh g else !fresh g) with
  | some g => some g
  | none => match s.ret.redirs.find? (fun r => r.old = die && handed && fresh r.group) with
    | some r => some r.group
    | none => match gs.head? with
      | some g => some g
      | none => (s.ret.redirs.find? fun r => r.old = die).map (·.group)

/-- The band a PPA lies in (R306, R312). -/
def bandOf (s : State) (p : Nat) : Option Nat :=
  if ppaEblk p < nbe s then
    if replaced s (ppaDie p) (ppaPlane p) (ppaEblk p) then none
    else (groupOf s (ppaDie p) (ppaEblk p)).map fun g => g * nbe s + ppaEblk p
  else spareBand s (ppaDie p) (ppaPlane p) (ppaEblk p)

/-- A band entry (R310). -/
def bandEnt (s : State) (b : Nat) : Nat := dramLe s (aBand + 16 * b) 16

/-- Write a band entry. -/
def setBandEnt (s : State) (b v : Nat) : State := dramWrLe s (aBand + 16 * b) 16 v

def bandState (s : State) (b : Nat) : Nat := bits (bandEnt s b) 0 3
def bandValid (s : State) (b : Nat) : Nat := bits (bandEnt s b) 32 32

/-- VALID of a band changes by `up − down` (R324). -/
def bandCount (s : State) (b up down : Nat) : State :=
  let e := bandEnt s b
  setBandEnt s b (putBits e 32 32 (bits e 32 32 + up - down))

/-! ### A billet as records see it (R206 to R213) -/

/-- A fine entry in the overlay: kind 0 UNMAPPED, 1 ZERO, 3 FINE, 4 WBUF; ADDR; generation (R210). -/
structure Fine where
  kind : Nat
  addr : Nat
  gen : Nat
  deriving DecidableEq, Repr

/-- A billet read out of the map: its coarse word, its coarse generation, its base, and its fine entries by block. -/
structure Bil where
  pba : Option Nat
  base : Nat
  gen : Nat
  fines : List (Nat × Fine)
  deriving DecidableEq, Repr

def coarseWord (s : State) (i : Nat) : Nat := mapLe s (aCoarse + 8 * i) 8
def coState (w : Nat) : Nat := bits w 34 3
def coPba (w : Nat) : Nat := bits w 0 34
def coOv (w : Nat) : Nat := bits w 37 24
def coEgen (w : Nat) : Nat := bits w 61 3

def grpPresent (s : State) (g k : Nat) : Bool := bit (mapByte s (aGroup + 256 * g + 32 + k / 8)).toNat (k % 8)
def grpChunk (s : State) (g n : Nat) : Nat := mapLe s (aGroup + 256 * g + 64 + 4 * n) 4

/-- The fine entry of block `k` in group `g`, when PRESENT (R209, R210). -/
def fineAt (s : State) (g k : Nat) : Option Fine :=
  if grpPresent s g k then
    let c := bits (grpChunk s g (k / 8)) 0 28
    let w := mapLe s (aChunk + 64 * c + 8 * (k % 8)) 8
    some ⟨bits w 44 3, bits w 0 44, mapLe s (aChunkGen + 64 * c + 8 * (k % 8)) 8⟩
  else none

/-- Read a billet. -/
def loadBil (s : State) (i : Nat) : Bil :=
  let w := coarseWord s i
  let st := coState w
  { pba := if st = 2 || st = 3 then some (coPba w) else none
    base := if st = 4 then (mapByte s (aGroup + 256 * coOv w + 4)).toNat % 2 else if st = 1 then 1 else 0
    gen := mapLe s (aCoarseGen + 8 * i) 8
    fines := if st = 3 || st = 4 then
        (List.range 256).filterMap fun k => (fineAt s (coOv w) k).map fun f => (k, f) else [] }

def Bil.fine (b : Bil) (k : Nat) : Option Fine := (b.fines.find? fun x => x.1 = k).map Prod.snd

/-- The location word of block `k` (R180, R207, R208). -/
def Bil.loc (s : State) (b : Bil) (k : Nat) : Nat :=
  match b.fine k with
  | some f => match f.kind with
    | 0 => 0
    | 1 => 2 ^ 48
    | 4 => f.addr + 4 * 2 ^ 48
    | _ => f.addr + 3 * 2 ^ 48
  | none => match b.pba with
    | some p => if bit p 33 then 256 * bits p 0 12 + k + 4 * 2 ^ 48 else pbaPpa s p k + 2 * 2 ^ 48
    | none => if b.base = 1 then 2 ^ 48 else 0

/-- The generation of block `k` (R213). -/
def Bil.genOf (b : Bil) (k : Nat) : Nat :=
  match b.fine k with
  | some f => f.gen
  | none => b.gen

/-- Block `k` takes a fine entry. -/
def Bil.put (b : Bil) (k : Nat) (f : Fine) : Bil := { b with fines := (k, f) :: b.fines.filter fun x => x.1 != k }

/-- One entry of a record takes effect on its billet (R191, R213, R215). -/
def Bil.entry (b : Bil) (e : JEnt) : Bil :=
  if e.skip then b else
  match e.act with
  | .coarse => if e.rel then { b with pba := some (e.target % 2 ^ 34) }
               else { b with pba := some (e.target % 2 ^ 34), gen := e.gen, fines := [] }
  | .fine => b.put (e.lbn % 256) ⟨bits e.target 44 3, bits e.target 0 44, e.gen⟩
  | .unmap => b.put (e.lbn % 256) ⟨0, 0, e.gen⟩
  | .zero => b.put (e.lbn % 256) ⟨1, 0, e.gen⟩

/-- R208: the state is set again after a record; `g` is the generation rule 1 stores. -/
def Bil.settle (b : Bil) (g : Nat) : Bil :=
  let all := fun kd => b.fines.length = 256 && b.fines.all fun x => x.2.kind = kd
  if all 0 then ⟨none, 0, g, []⟩
  else if all 1 then ⟨none, 1, g, []⟩
  else
    let b := if b.pba.isSome && b.fines.length = 256 then { b with pba := none, base := 0 } else b
    if b.pba.isSome then b else { b with fines := b.fines.filter fun x => x.2.kind != b.base }

/-- The STATE a billet is stored under (R206, R208). -/
def Bil.state (b : Bil) : Nat :=
  match b.pba, b.fines with
  | some _, [] => 2
  | some _, _ => 3
  | none, [] => if b.base = 1 then 1 else 0
  | none, _ => 4

/-! ### Overlay space (R211, R212) -/

/-- The lowest zero bit of a bitmap in the map, among the first `n`. -/
def firstZero (s : State) (base : Nat) : Nat → Nat → Option Nat
  | 0, _ => none
  | n + 1, i => if bit (mapByte s (base + i / 8)).toNat (i % 8) then firstZero s base n (i + 1) else some i

def setBit (s : State) (base i : Nat) (v : Bool) : State :=
  let o := (mapByte s (base + i / 8)).toNat
  mapWr s (base + i / 8) [BitVec.ofNat 8 (putBits o (i % 8) 1 (b2n v))]

/-- OVER follows the chunks and groups in use (R212). -/
def overUpdate (s : State) : State :=
  let c := getF s MAP_OVL_CHUNKS
  let g := getF s MAP_OVL_GROUPS
  let hi := getF s MAP_TEMPER_OVL_HI
  let lo := getF s MAP_TEMPER_OVL_LO
  if hi * 2 ^ 28 ≤ 256 * c || hi * 2 ^ 24 ≤ 256 * g then setF s MAP_OVL_OVER 1
  else if 256 * c < lo * 2 ^ 28 && 256 * g < lo * 2 ^ 24 then setF s MAP_OVL_OVER 0 else s

/-- Allocate the lowest free chunk or group (DESIGN CHOICE, log 14: the spec names no order). -/
def newChunk (s : State) : Nat × State :=
  let i := (firstZero s aChunkMap (getF s MAP_OVL_CHUNKS + 1) 0).getD 0
  (i, setF (setBit s aChunkMap i true) MAP_OVL_CHUNKS (getF s MAP_OVL_CHUNKS + 1))

def newGroup (s : State) : Nat × State :=
  let i := (firstZero s aGroupMap (getF s MAP_OVL_GROUPS + 1) 0).getD 0
  (i, setF (setBit s aGroupMap i true) MAP_OVL_GROUPS (getF s MAP_OVL_GROUPS + 1))

/-- Chunks and groups for a record are allocated (R211, R220 step 2) under a number of `map.ovl`. -/
def reserveOverlay (s : State) (j : Nat) (n : Nat × Nat) : State :=
  let (cs, s) := (List.range n.1).foldl (fun (p : List Nat × State) _ => let (c, s) := newChunk p.2; (p.1 ++ [c], s)) ([], s)
  let (gs, s) := (List.range n.2).foldl (fun (p : List Nat × State) _ => let (g, s) := newGroup p.2; (p.1 ++ [g], s)) ([], s)
  { s with map := { s.map with ovl := mset ([], []) s.map.ovl j (cs, gs) } }

/-- A chunk for record `j` as it is applied: one of those taken for it, else a new one. -/
def takeChunk (s : State) (j : Nat) : Nat × State :=
  match mget ([], []) s.map.ovl j with
  | (c :: cs, gs) => (c, { s with map := { s.map with ovl := mset ([], []) s.map.ovl j (cs, gs) } })
  | _ => newChunk s

def takeGroup (s : State) (j : Nat) : Nat × State :=
  match mget ([], []) s.map.ovl j with
  | (cs, g :: gs) => (g, { s with map := { s.map with ovl := mset ([], []) s.map.ovl j (cs, gs) } })
  | _ => newGroup s

def freeChunk (s : State) (i : Nat) : State :=
  setF (setBit s aChunkMap i false) MAP_OVL_CHUNKS (getF s MAP_OVL_CHUNKS - 1)

def freeGroup (s : State) (i : Nat) : State :=
  setF (setBit (setBit s aGroupMap i false) aCand i false) MAP_OVL_GROUPS (getF s MAP_OVL_GROUPS - 1)

/-- What a record was given and did not need is free again. -/
def releaseOverlay (s : State) (j : Nat) : State :=
  let (cs, gs) := mget ([], []) s.map.ovl j
  let s := gs.foldl freeGroup (cs.foldl freeChunk s)
  { s with map := { s.map with ovl := mdel s.map.ovl j } }

/-- What was allocated under `k` belongs to the record of JSEQ `j`. -/
def moveOverlay (s : State) (k j : Nat) : State :=
  { s with map := { s.map with ovl := mset ([], []) (mdel s.map.ovl k) j (mget ([], []) s.map.ovl k) } }

/-- The bits set in a bitmap of the map. -/
def bitsSet (s : State) (a n : Nat) : Nat :=
  ((s.mem.dram.filter fun e => decide (a ≤ e.1) && decide (e.1 < a + n)).map fun e =>
    ((List.range 8).filter (bit e.2.toNat)).length).sum

/-- MAP_OVL shows what the bitmaps of a loaded round hold (R212, R234). -/
def countOverlay (s : State) : State :=
  setF (setF s MAP_OVL_CHUNKS (bitsSet s aChunkMap 0x2000000)) MAP_OVL_GROUPS (bitsSet s aGroupMap 0x200000)

/-- Free a group with its chunks. -/
def dropGroup (s : State) (g : Nat) : State :=
  let s := (List.range 32).foldl (fun s n =>
    let c := grpChunk s g n
    if bit c 31 then freeChunk (mapWrLe s (aGroup + 256 * g + 64 + 4 * n) 4 0) (bits c 0 28) else s) s
  freeGroup s g

/-- Store one fine entry of a group, allocating its chunk when its eight had none (R210). -/
def storeFine (j : Nat) (s : State) (g : Nat) (x : Nat × Fine) : State :=
  let n := x.1 / 8
  let (c, s) := if bit (grpChunk s g n) 31 then (bits (grpChunk s g n) 0 28, s) else
    let (c, s) := takeChunk s j
    (c, mapWrLe s (aGroup + 256 * g + 64 + 4 * n) 4 (c + 2 ^ 31))
  let s := mapWrLe s (aChunk + 64 * c + 8 * (x.1 % 8)) 8 (x.2.addr % 2 ^ 44 + 2 ^ 44 * x.2.kind)
  let s := mapWrLe s (aChunkGen + 64 * c + 8 * (x.1 % 8)) 8 x.2.gen
  setBit s (aGroup + 256 * g + 32) x.1 true

/-- Clear the PRESENT bits of blocks with no fine entry, and free chunks whose last entry went (R210). -/
def retireFines (s : State) (g : Nat) (b : Bil) : State :=
  let s := (List.range 256).foldl (fun s k =>
    if grpPresent s g k && (b.fine k).isNone then setBit s (aGroup + 256 * g + 32) k false else s) s
  (List.range 32).foldl (fun s n =>
    let c := grpChunk s g n
    if bit c 31 && !(b.fines.any fun x => x.1 / 8 = n) then
      freeChunk (mapWrLe s (aGroup + 256 * g + 64 + 4 * n) 4 0) (bits c 0 28)
    else s) s

/-- Write a billet back: coarse entry with EGEN, coarse generation, group and chunks, candidate bit (R206, R209, R223).
`touched` says that the record, `j`, appended at `at_`, changed its fine entries. -/
def storeBil (j at_ : Nat) (s : State) (i : Nat) (b : Bil) (touched : Bool) : State :=
  let w := coarseWord s i
  let had := coState w = 3 || coState w = 4
  let st := b.state
  let need := st = 3 || st = 4
  let (g, s) := if need && !had then
      let (g, s) := takeGroup s j
      let s := mapWr s (aGroup + 256 * g) (leBytes 16 i ++ leBytes 8 at_ ++ leBytes 40 0)
      let s := mapWr s (aGroup + 256 * g + 64) (leBytes 64 0)
      (g, mapWr s (aGroup + 256 * g + 128) (leBytes 64 0))
    else (coOv w, s)
  let s := if need then
      let s := retireFines s g b
      let s := b.fines.reverse.foldl (fun s x => storeFine j s g x) s
      let fd := (b.fines.filter fun x => 3 ≤ x.2.kind).length
      let s := mapWrLe s (aGroup + 256 * g + 4) 1 (if st = 4 then b.base else 0)
      let s := mapWrLe s (aGroup + 256 * g + 8) 2 fd
      let s := mapWrLe s (aGroup + 256 * g + 10) 2 (b.fines.length - fd)
      let s := if touched then mapWrLe s (aGroup + 256 * g + 12) 4 (satAdd 32 (mapLe s (aGroup + 256 * g + 12) 4) 1) else s
      setBit s aCand g (decide (getF s MAP_TEMPER_FINE_THR ≤ fd))
    else if had then dropGroup s (coOv w) else s
  let pba := b.pba.getD 0
  let ov := if need then g else 0
  let chg := pba != coPba w || st != coState w || ov != coOv w
  let w' := pba + 2 ^ 34 * st + 2 ^ 37 * ov + 2 ^ 61 * (if chg then (coEgen w + 1) % 8 else coEgen w)
  let s := if chg then mapWrLe s (aCoarse + 8 * i) 8 w' else s
  let s := if b.gen != mapLe s (aCoarseGen + 8 * i) 8 then mapWrLe s (aCoarseGen + 8 * i) 8 b.gen else s
  overUpdate s

/-- The band and MAPPED share of a location word (R324, R325). -/
def locBand (s : State) (l : Nat) : Option Nat :=
  if bits l 48 3 = 2 || bits l 48 3 = 3 then bandOf s (bits l 0 48) else none

/-- What an owed block becomes when billet `i` changes from `b` to `b'`: once it is on flash its stripe is owed, and a block overwritten or
trimmed before is owed no longer (R126; DEDUCED, log 135). -/
def Owed.follow (s : State) (i : Nat) (b b' : Bil) (o : Owed) : List Owed :=
  match o with
  | .stripe _ => [o]
  | .frame l f =>
    let w := b'.loc s (l % 256)
    if l / 256 != i || b.loc s (l % 256) != f + 4 * 2 ^ 48 || w = f + 4 * 2 ^ 48 then [o]
    else if bits w 48 3 = 2 || bits w 48 3 = 3 then [.stripe (bits w 0 44)] else []

/-- Every FLUSH, accepted or tracked by the helm, follows a billet's change. -/
def noteOwed (s : State) (i : Nat) (b b' : Bil) : State :=
  let f := fun (l : List Owed) => l.flatMap (Owed.follow s i b b')
  { s with ctx := s.ctx.map fun e => (e.1, if e.2.owed.isEmpty then e.2 else { e.2 with owed := f e.2.owed })
           x := { s.x with flushes := s.x.flushes.map fun (t, l, n) => (t, f l, n) } }

/-- VALID and MAPPED follow a billet's change (R324, R325). -/
def moveCounts (s : State) (b b' : Bil) : State :=
  (List.range 256).foldl (fun s k =>
    let l := b.loc s k
    let l' := b'.loc s k
    if l = l' then s else
    let s := match locBand s l with | some x => bandCount s x 0 1 | none => s
    let s := match locBand s l' with | some x => bandCount s x 1 0 | none => s
    { s with md := { s.md with mapped := s.md.mapped + b2n (2 ≤ bits l' 48 3) - b2n (2 ≤ bits l 48 3) } }) s

/-- A billet's change with all that follows it. -/
def changeBil (j at_ : Nat) (s : State) (i : Nat) (b b' : Bil) (touched : Bool) : State :=
  storeBil j at_ (moveCounts (noteOwed s i b b') b b') i b' touched

/-- Apply the entries of a record to one billet (R220 step 7); rule 1 of R208 stores the generation of its last REL = 0 entry
(R213). -/
def applyBil (r : JRec) (s : State) (i : Nat) : State :=
  let mine := r.ents.filter fun e => e.lbn / 256 = i && !e.skip
  let co := mine.filter fun e => e.act = .coarse
  let fi := mine.filter fun e => e.act != .coarse
  let b := loadBil s i
  let b₁ := fi.foldl Bil.entry (co.foldl Bil.entry b)
  let b' := b₁.settle (((fi.filter fun e => !e.rel).getLast?.map (·.gen)).getD b₁.gen)
  if mine.isEmpty then s else
  changeBil r.jseq r.stamp.now s i b b' (!fi.isEmpty || co.any fun e => !e.rel)

/-- The billets a record changes, without repeats. -/
def recBillets (es : List JEnt) : List Nat := (es.map fun e => e.lbn / 256).dedup

/-- A RANGE record: every billet UNMAPPED with coarse generation 0, groups and chunks freed (R232). -/
def applyRange (s : State) (first count : Nat) : State :=
  (List.range count).foldl (fun s n =>
    let b := loadBil s (first + n)
    let b' : Bil := ⟨none, 0, 0, []⟩
    if b = b' then s else changeBil 0 0 s (first + n) b b' false) s

/-- Apply a record to the map (R220 step 7, R228, R232). -/
def applyRec (s : State) (r : JRec) : State :=
  match r.typ with
  | .map => (recBillets r.ents).foldl (applyBil r) s
  | .range => applyRange s r.a r.b
  | .volume => mapWrLe s (aVol + 32 * r.a) 32 r.b
  | .round | .pad => s

/-! ### Journal (R218 to R222, R227) -/

/-- The action code of a map entry (R219). -/
def actCode : Act → Nat
  | .fine => 0 | .coarse => 1 | .unmap => 2 | .zero => 3

/-- The type code of a record (R218). -/
def jtypCode : JTyp → Nat
  | .map => 0x4D01 | .range => 0x4D02 | .volume => 0x4D03 | .round => 0x4D04 | .pad => 0x4D00

/-- The length of a record in bytes (R218). -/
def recLen (r : JRec) : Nat :=
  match r.typ with
  | .map => 64 + 24 * r.ents.length
  | .range => 80
  | .volume => 104
  | .round => 64
  | .pad => r.a

/-- Bytes of the journal whose records lie above a JSEQ. -/
def bytesAbove (s : State) (j : Nat) : Nat := ((s.map.recs.filter fun r => j < r.jseq).map recLen).sum

/-- The tail ring holds 64 MiB of records above JEND (R204, R227). -/
def ringRoom (s : State) (len : Nat) : Bool := bytesAbove s s.ck.jend + len ≤ 2 ^ 26

/-- Bytes of journal since NEWEST's JSTART. -/
def sinceStart (s : State) : Nat :=
  let js := match s.ck.newest with | some r => r.jstart | none => 0
  ((s.map.recs.filter fun r => js ≤ r.jseq).map recLen).sum

/-- The status of the tail and the journal in MAP_JSTAT, and OVERLIM with its event (R229). -/
def jstat (s : State) : State :=
  let since := sinceStart s
  let s := setF (setF s MAP_JSTAT_TAIL_KIB (ceilDiv (bytesAbove s s.ck.jend) 1024)) MAP_JSTAT_SINCE_MIB
    (min (since / 2 ^ 20) (2 ^ 31 - 1))
  if getF s MAP_JCTL_JLIM_GIB * 2 ^ 30 < since && !flag s MAP_JSTAT_OVERLIM then
    event (logEv (setF s MAP_JSTAT_OVERLIM 1) 4 0 [since]) 5
  else s

/-- The bytes of a record (R218, R219), its CRC over the record with the field zero. -/
def recBytes (r : JRec) : List Byte :=
  let body := match r.typ with
    | .map => r.ents.flatMap fun e => leBytes 8 (e.lbn % 2 ^ 48 + 2 ^ 48 * actCode e.act + 2 ^ 50 * b2n e.rel + 2 ^ 51 * b2n e.skip)
        ++ leBytes 8 e.gen ++ leBytes 8 (e.target % 2 ^ 47)
    | .range => leBytes 8 r.a ++ leBytes 8 r.b
    | .volume => leBytes 8 r.a ++ leBytes 32 r.b
    | .round => []
    | .pad => List.replicate (r.a - 64) 0
  let h := leBytes 2 (jtypCode r.typ) ++ leBytes 2 r.ents.length ++ leBytes 4 (recLen r) ++ leBytes 8 r.jseq ++ leBytes 8 r.stamp.now
    ++ leBytes 1 r.stamp.flags ++ leBytes 2 r.nskip ++ leBytes 5 0
    ++ leBytes 8 (r.seq + 2 ^ 16 * r.tag + 2 ^ 32 * r.thread + 2 ^ 45 * r.unit + 2 ^ 51 * b2n r.last) ++ leBytes 16 0
  h ++ leBytes 8 (crc64 (h ++ leBytes 8 0 ++ body)) ++ body

/-- A round descriptor of the RSM checkpoint root (R226). -/
def descBytes (r : Round) : List Byte :=
  let b := leBytes 8 r.num ++ leBytes 8 r.jstart ++ leBytes 8 r.jdone ++ (r.dirs.take 3).flatMap (leBytes 8) ++ leBytes 8 r.jseg
  b ++ leBytes 8 (crc64 b)

/-- The RSM checkpoint root: NEWEST, PREVIOUS, JEND (R226); a round that never was is zeros. -/
def rootBytes (c : CkRoot) : List Byte :=
  let d := fun (o : Option Round) => match o with | some r => descBytes r | none => List.replicate 64 0
  d c.newest ++ d c.previous ++ leBytes 8 c.jend

/-- The root as the words of a ROOT message (R425). -/
def rootWords (s : State) : List Nat :=
  (List.range 17).map fun i => leNat (((rootBytes s.ck).drop (8 * i)).take 8)

/-! ### The cascade's logical space (R447) -/

/-- Positions of the cascade. -/
def casN (s : State) : Nat := if s.boot.casEn then getF s CAS_CFG_NPOS + 1 else 1

/-- The local billet of a system billet (R447). -/
def localBil (s : State) (b : Nat) : Nat :=
  if !s.boot.casEn then b
  else if flag s CAS_CFG_SHAPE then b - getF s (CAS_POS_START s.boot.cas) else b / casN s

/-- The system billet of a local billet. -/
def sysBil (s : State) (i : Nat) : Nat :=
  if !s.boot.casEn then i
  else if flag s CAS_CFG_SHAPE then i + getF s (CAS_POS_START s.boot.cas) else i * casN s + s.boot.cas

/-- The position that holds a system billet. -/
def posOfBil (s : State) (b : Nat) : Nat :=
  if !s.boot.casEn then s.boot.cas
  else if flag s CAS_CFG_SHAPE then
    (((List.range 4).filter fun p => getF s (CAS_POS_START p) ≤ b && b < getF s (CAS_POS_START p) + getF s (CAS_POS_COUNT p)).head?).getD 0
  else b % casN s

/-- Map control's translation of a system LBN before any access. -/
def localLbn (s : State) (l : Nat) : Nat := 256 * localBil s (l / 256) + l % 256
def sysLbn (s : State) (l : Nat) : Nat := 256 * sysBil s (l / 256) + l % 256

/-- The local billets of a range of system billets, as first and count. -/
def localRange (s : State) (a n : Nat) : Nat × Nat :=
  if !s.boot.casEn then (a, n)
  else if flag s CAS_CFG_SHAPE then
    let st := getF s (CAS_POS_START s.boot.cas)
    let lo := max a st
    let hi := min (a + n) (st + getF s (CAS_POS_COUNT s.boot.cas))
    (lo - st, hi - lo)
  else
    let lo := ceilDiv (a - s.boot.cas) (casN s)
    (lo, ceilDiv (a + n - s.boot.cas) (casN s) - lo)

/-- Billets that volumes may take: the system capacity (R230, R447). -/
def volCap (s : State) : Nat :=
  if s.boot.casEn then ((List.range 4).map fun p => getF s (CAS_POS_COUNT p)).sum else getF s MAP_LCAP_BILLETS

/-- The active member of a pair with its partner present mirrors its records (R220 step 5, R428). -/
def mirrors (s : State) : Bool := s.boot.pairEn && 2 ≤ getF s PAIR_STAT_PSTATE && mode s != mStandby

/-- A JREC message: the record (R425). -/
def jrecMsg (r : JRec) : Msg := .pair 2 (toNats (recBytes r))

/-- A record's bytes go into the tail ring region (R204). -/
def ringStore (s : State) (r : JRec) : State :=
  let b := recBytes r
  let pos := s.map.ringPos % 2 ^ 26
  let head := b.take (2 ^ 26 - pos)
  let s := dramWr (dramWr s (aRing + pos) head) aRing (b.drop head.length)
  { s with map := { s.map with ringPos := s.map.ringPos + b.length } }

/-- Append a record to the tail ring (R220 step 4): next JSEQ, stamp, bytes stored in the ring. -/
def append (s : State) (r : JRec) : JRec × State :=
  let r := { r with jseq := s.map.jseq + 1, stamp := stampOf s srcJournal }
  let s := ringStore s r
  let s := jstat (stamped { s with map := { s.map with recs := s.map.recs ++ [r], jseq := s.map.jseq + 1 } } srcJournal)
  (r, if mirrors s then send s (jrecMsg r) else s)

/-- Mark a record committed and applied, with MAP_JSEQ (R220 steps 6 and 7). -/
def commitRec (s : State) (j : Nat) : State :=
  match s.map.recs.find? (fun r => r.jseq = j) with
  | none => s
  | some r =>
    let s := { s with map := { s.map with recs := s.map.recs.map fun x =>
      if x.jseq = j then { x with committed := true, applied := true } else x } }
    overUpdate (releaseOverlay (applyRec (setF s MAP_JSEQ_LAST j) r) j)

/-- Billets in the commit window: of records appended and not yet applied (R220, R221). -/
def inWindow (s : State) (i : Nat) : Bool :=
  s.map.recs.any fun r => !r.applied && ((recBillets r.ents).contains i || (r.typ = .range && r.a ≤ i && i < r.a + r.b))

/-! ### Volumes (R230) -/

def volEnt (s : State) (v : Nat) : Nat := mapLe s (aVol + 32 * v) 32
def volBase (e : Nat) : Nat := bits e 0 32
def volSize (e : Nat) : Nat := bits e 32 32
def volTenant (e : Nat) : Nat := bits e 64 10
def volState (e : Nat) : Nat := bits e 76 2

/-- A volume table entry (R230). -/
def mkVol (base size tenant st created : Nat) : Nat :=
  base + 2 ^ 32 * size + 2 ^ 64 * tenant + 2 ^ 76 * st + 2 ^ 128 * created

/-- Numbers of volumes not FREE. -/
def volsUsed (s : State) : List Nat := (List.range 8192).filter fun v => volState (volEnt s v) != 0

/-- The volume a billet lies in, among a list of candidates. -/
def volHolds (s : State) (i v : Nat) : Bool :=
  let e := volEnt s v
  volState e != 0 && volBase e ≤ i && i < volBase e + volSize e

/-- The permission of R166 for map access by LBN: a host thread within its CTX_VOLS, a system thread anywhere. -/
def mayLbn (s : State) (t lbn : Nat) : Bool := isSys s t || (bindOf s t).vols.any (volHolds s (lbn / 256))

/-- MAP_LCAP.BILLETS as a block bound (R189, R233). -/
def lcapBlocks (s : State) : Nat := 256 * getF s MAP_LCAP_BILLETS

/-! ### What the map names (R126, R324) -/

/-- Billets whose coarse entry has been written. -/
def listedBillets (s : State) : List Nat :=
  let inR := fun a => aCoarse ≤ a && a < aCoarseGen
  let d := (s.mem.dram.filter fun e => inR e.1).map fun e => (e.1 - aCoarse) / 8
  let q := ((List.range 4).flatMap fun q => (slice s q).wtq).filter (fun e => inR e.1) |>.map fun e => (e.1 - aCoarse) / 8
  (d ++ q).dedup

/-- Mapped blocks in the write buffer: local LBN and frame. -/
def wbBlocks (s : State) : List (Nat × Nat) :=
  (listedBillets s).flatMap fun i =>
    let b := loadBil s i
    (List.range 256).filterMap fun k =>
      let l := b.loc s k
      if bits l 48 3 = 4 then some (256 * i + k, bits l 0 20) else none

end Sys2Proof.Machine
end

