-- ==== Sys2Proof/Machine/AnvilWord.lean ====
section
/-! DEFINITION. Fetch and issue of Anvil instructions: the instruction word of R174, the program store, issue counting, and
the condition under which a thread issues an instruction (R148, R173, R174). -/
namespace Sys2Proof.Machine
open Sys2Proof

/-- The 64-bit instruction word (R174). Fields that do not fit spell no word: 2^64, which no program store holds. -/
def aw (op rd rs1 rs2 fn imm : Nat) : Nat :=
  if op < 256 && rd < 32 && rs1 < 32 && rs2 < 32 && fn < 512 && imm < 2 ^ 32 then
    op * 2 ^ 56 + rd * 2 ^ 51 + rs1 * 2 ^ 46 + rs2 * 2 ^ 41 + fn * 2 ^ 32 + imm
  else 2 ^ 64

/-- An immediate limited to `n`: one past it spells no word. -/
def immLt (imm n : Nat) : Nat := if imm < n then imm else 2 ^ 32

/-- The IMM of EXT and INS: lsb in [5:0], width − 1 in [11:6] (R184). -/
def fieldImm (lsb width : Nat) : Nat :=
  if lsb < 64 && 1 ≤ width && width ≤ 64 then lsb + 64 * (width - 1) else 2 ^ 32

/-- The word of the program store at a pc (R173, R174). -/
def progWord (s : State) (pc : Nat) : Nat := rdLe s.prog pc 8

/-- The part of IMM that an operation uses. Bits it neither uses nor marks reserved have no effect (R175). -/
def usedImm (op imm : Nat) : Nat :=
  if op = 0xB1 then imm % 2 ^ 13
  else if op = 0xB2 then imm % 256
  else if [0x0C, 0x0D, 0x0E, 0x54, 0x80, 0xC3, 0xEF].contains op then imm
  else if (1 ≤ op && op < 0x0C) || (0x50 ≤ op && op < 0xEF) then 0 else imm

/-- An instruction word with the immediate bits that its operation does not use taken as zero. -/
def bareWord (w : Nat) : Nat := w - bits w 0 32 + usedImm (bits w 56 8) (bits w 0 32)

/-- A pc from which an instruction can be fetched (R173). -/
def pcOk (pc : Nat) : Bool := pc < 2 ^ 23 && pc % 8 == 0

/-- The data path runs Anvil threads in this mode: RUN, SERVICE, QUENCH (flush work), KINDLE (checkpoint threads), BANKED
entry is still RUN (R59, R154, R163). -/
def anvilMode (s : State) : Bool := inMode s [mKindle, mRun, mService, mQuench, mSafe]

/-- Thread `t` issues the instruction word `w` now: it is RUNNING, no earlier instruction of it is unfinished, and its pc
holds that word (R145, R148, R173, R201). -/
def issues (s : State) (t w : Nat) : Bool :=
  (th s t).st == .running && (th s t).cont == .nothing && pcOk (th s t).pc && bareWord (progWord s (th s t).pc) == w

/-- The counters of an issued instruction: quantum and run limit (R152, R167), and the quadrant's ANV_ISSUE counts. -/
def counted (s : State) (t : Nat) : State :=
  let s := modTh s t fun x => { x with issued := x.issued + 1, runIssued := x.runIssued + 1 }
  addWrap s (if isHost t then ANV_ISSUE_H_COUNT (quadOf t) else ANV_ISSUE_I_COUNT (quadOf t)) 1

/-- The instruction is issued and the pc moves on (R171: sequential issue). -/
def adv (s : State) (t : Nat) : State :=
  counted (modTh s t fun x => { x with pc := x.pc + 8 }) t

/-- The instruction retires with a result in `rd`. -/
def retire (s : State) (t rd : Nat) (v : W64) : State :=
  adv (modTh s t fun x => x.setG rd v) t

/-- An Anvil row: when `t` issues word `w`, its effect; otherwise none. -/
def anvil (s : State) (t w : Nat) (eff : State) : Res := act (issues s t w) s eff

/-- An instruction begins a wait: it is issued, then the thread leaves RUNNING (R146). -/
def advWait (s : State) (t : Nat) (w : Why) (arg : Nat) (k : Cont) : State := wait (adv s t) t w arg k

/-- A 32-bit immediate, sign-extended. -/
def sext32 (imm : Nat) : W64 := (BitVec.ofNat 32 imm).signExtend 64

/-- The number a register holds. -/
def gn (s : State) (t r : Nat) : Nat := (gr s t r).toNat

/-- A local-store address of `n` bytes, or none where it is misaligned or runs past byte 511 (R172). -/
def lsAddr (s : State) (t r imm n align : Nat) : Option Nat :=
  let a := (gr s t r + BitVec.ofNat 64 imm).toNat % 512
  if a % align = 0 && a + n ≤ 512 then some a else none

/-- `n` bytes of a thread's local store as a number. -/
def lsLe (s : State) (t a n : Nat) : Nat := rdLe (th s t).ls a n

/-- Store into a thread's local store: its lines become valid, and a word written whole passes its check again (R273). -/
def lsWr (s : State) (t a : Nat) (b : List Byte) : State :=
  modTh s t fun x => { x with ls := wrBytes x.ls a b
                              lsValid := (linesOf a b.length).foldl (fun v l => sins l v) x.lsValid
                              lsBad := x.lsBad.filter fun w => !(decide (a ≤ 8 * w) && decide (8 * w + 8 ≤ a + b.length)) }

/-- A local-store read of `n` bytes meets what the codes find: an error in a line never written is none, and a word that fails goes on
failing until it is written whole (R272, R273). -/
def lsCheck (s : State) (t a n : Nat) (e : MErr) : Bool × State :=
  let s := if e = .uncorr && (th s t).lsValid.contains (a / 64) then modTh s t fun x => { x with lsBad := sins (a / 8) x.lsBad } else s
  ((th s t).lsBad.any fun w => decide (a < 8 * w + 8) && decide (8 * w < a + n), s)

/-- The eight 64-bit words of a task register block; byte range `[off, off + n)` of a block. -/
def blkField (b off n : Nat) : Nat := bits b (8 * off) (8 * n)

end Sys2Proof.Machine
end

