-- ==== Sys2Proof/Machine/CacheOps.lean ====
section
/-! DEFINITION. The map cache: placement, hits, misses, ages, victims, eviction registers, prefetch, error counts and way
disable, scratchpad conversion, and the lookups of MLOOK and MGEN over it (R235 to R252). -/
namespace Sys2Proof.Machine
open Sys2Proof

/-! ### Placement and ways (R236, R248, R250) -/

/-- Set index of a line number (R236). -/
def setOf (l : Nat) : Nat := l / 4 % 12288

/-- Ways disabled in a slice (R250). -/
def wayDis (s : State) (q w : Nat) : Bool := bit (getF s (MC_WAYDIS_DIS q)) w

/-- Enabled ways of a slice, whether cache or scratchpad. -/
def waysOn (s : State) (q : Nat) : List Nat := (List.range 16).filter fun w => !wayDis s q w

/-- Enabled cache ways (R248, R250). -/
def cacheWays (s : State) (q : Nat) : List Nat := (waysOn s q).filter fun w => !(slice s q).spWays.contains w

/-- Remove every line of a way. -/
def Slice.dropWay (x : Slice) (w : Nat) : Slice :=
  (x.lines.filter fun e => match e.2 with | some y => y.way == w | none => false).foldl (fun x e => x.drop e.1) x

/-- An error found in a way: its per-watch count, its counters, and the automatic disable with its floor (R249, R250). -/
def wayErr (s : State) (q w : Nat) (unc : Bool) : State :=
  let thr := getF s (MC_ERRTHR_THR q)
  let old := getF s (MC_ERRCNT_WATCH q w)
  let new := if unc then max thr (old + 1) else old + 1
  let s := setF s (MC_ERRCNT_WATCH q w) (min new 255)
  let s := if unc then addSat s (MC_ERRCNT_UNCORR q w) 1 else addSat s (MC_ERRCNT_CORR q w) 1
  if old < thr && thr ≤ new && (cacheWays s q).contains w then
    if (cacheWays s q).length ≤ 4 then logEv (setF s (MC_STAT_FLOOR q) 1) 5 1 [q, w, new]
    else
      let s := setSlice s q ((slice s q).dropWay w)
      let s := errInc (setC s (MC_WAYDIS_DIS q) (putBits (getF s (MC_WAYDIS_DIS q)) w 1 1)) 14 1
      event (logEv s 5 0 [q, w, new]) 5
  else s

/-! ### Accesses (R239, R243, R245) -/

/-- An access is streaming (R243). -/
def streaming (s : State) (t q : Nat) : Bool :=
  if isHost t then bit (cx s t).block 8 else flag s (MC_CTL_ISTREAM q)

/-- A miss takes an entry of its slice, unless its line's fill is outstanding or all 256 are in use (R239). -/
def missTake (s : State) (q l : Nat) (str pf : Bool) : State :=
  let x := slice s q
  if x.fills.any (fun f => f.line = l) || 256 ≤ x.fills.length then s
  else setSlice s q ({ x with fills := x.fills ++ [⟨l, str, pf, flag s (MC_CTL_EN q), false⟩] } : Slice).issue

/-- A prefetch of line `l` (R247). -/
def prefetch (s : State) (l : Nat) (str : Bool) : State :=
  let q := l % 4
  let x := slice s q
  if 64 * l < mapEnd && (mget none x.lines l).isNone && !(x.fills.any fun f => f.line = l) && x.fills.length < 224 then
    missTake s q l str true
  else s

/-- The map region of a stride record: coarse entries, generation column, chunks, generation chunks, groups (R246). -/
def regionOf (a : Nat) : Nat :=
  if a < aCoarseGen then 0 else if a < aChunk then 1 else if a < aChunkGen then 2 else if a < aGroup then 3 else 4

/-- The stride detector sees an access of thread `t` to line `l` (R246). -/
def strideStep (s : State) (t l : Nat) : State :=
  let q := l % 4
  let key := 8 * t + regionOf (64 * l)
  let r := mget ⟨0, 0, 0⟩ s.strides key
  let n : Int := (l : Int) - r.last
  if n = 0 then s else
  let r' : Stride := if n = r.d && n.natAbs ≤ getF s (MC_PF_MAXSTRIDE q) then ⟨l, r.d, min (r.c + 1) 3⟩ else ⟨l, n, 0⟩
  let s := { s with strides := mset ⟨0, 0, 0⟩ s.strides key r' }
  if flag s (MC_CTL_PF_EN q) && getF s (MC_PF_CONF q) ≤ r'.c then
    (List.range (getF s (MC_PF_DEPTH q))).foldl (fun s (k : Nat) =>
      let a := (l : Int) + ((k : Int) + 1) * r'.d
      if 0 ≤ a then prefetch s a.toNat (streaming s t q) else s) s
  else s

/-- What an access to a line finds. -/
inductive Found
  | hit | miss | bad
  deriving DecidableEq, Repr

/-- Held copies take errors that the codes will find at their next access (R237, R249). -/
def spoil (s : State) (errs : List (Nat × MErr)) : State :=
  errs.foldl (fun s e =>
    let x := slice s (e.1 % 4)
    if x.has e.1 then setSlice s (e.1 % 4) { x with errs := mset .ok x.errs e.1 e.2 } else s) s

/-- A held copy whose error was found is lost: its way's line is invalidated and the error counted there, or its eviction register
is freed (R249). -/
def loseCopy (s : State) (l : Nat) (unc : Bool) : State :=
  let q := l % 4
  let x := slice s q
  match mget none x.lines l with
  | some y => wayErr (setSlice s q (x.drop l)) q y.way unc
  | none => setSlice s q ((x.forget l).unheld l)

/-- An access of thread `t` to line `l` (R239, R243, R245, R249). -/
def access (s : State) (t l : Nat) : Found × State :=
  let q := l % 4
  let s := strideStep s t l
  let x := slice s q
  let e := mget .ok x.errs l
  match mget none x.lines l with
  | some y =>
    let s := addWrap s (MC_HITS_COUNT q) 1
    match e with
    | .ok =>
      let y' := if streaming s t q then y else { y with age := 0 }
      (.hit, setSlice s q { x with lines := mput x.lines l (some y') })
    | .corr => (.hit, loseCopy s l false)
    | _ => (.bad, loseCopy s l true)
  | none =>
    if x.evict.any (fun v => v.line = some l) then
      let s := addWrap s (MC_VHITS_COUNT q) 1
      match e with
      | .ok => (.hit, setSlice (tick s) q { x with evict := x.evict.map (fun v =>
          if v.line = some l then { v with used := s.order } else v) })
      | .corr => (.hit, loseCopy s l false)
      | _ => (.bad, loseCopy s l true)
    else (.miss, missTake (addWrap s (MC_MISSES_COUNT q) 1) q l (streaming s t q) false)

/-! ### Fills (R239 to R245) -/

/-- The way a fill takes: the lowest empty enabled cache way, else the lowest of AGE 3, else ages rise and the rule is
applied again (R244). Answers the way, its victim and the slice with the ages raised. -/
def victim (ways : List Nat) (l : Nat) : Nat → Slice → Option (Nat × Option Nat × Slice)
  | 0, _ => none
  | n + 1, x =>
    let inSet := x.lines.filter fun e => setOf e.1 = setOf l
    let atW := fun w => inSet.find? fun e => match e.2 with | some y => y.way = w | none => false
    match ways.find? (fun w => (atW w).isNone) with
    | some w => some (w, none, x)
    | none =>
      match ways.find? (fun w => match atW w with | some (_, some y) => y.age = 3 | _ => false) with
      | some w => some (w, (atW w).map Prod.fst, x)
      | none => victim ways l n { x with lines := x.lines.map (fun e =>
          if setOf e.1 = setOf l then (e.1, e.2.map fun y => { y with age := min 3 (y.age + 1) }) else e) }

/-- The place of the least element of a list by a measure. -/
def argMin {α : Type} (f : α → Nat) : List α → Option α
  | [] => none
  | x :: t => match argMin f t with
    | none => some x
    | some y => if f x ≤ f y then some x else some y

/-- A victim line moves into an eviction register: the free one used least recently, else the one that has held its line
longest (R245). -/
def intoEvict (x : Slice) (v now : Nat) : Slice :=
  let ix := (List.range x.evict.length).filterMap fun i => (x.evict[i]?).map fun e => (i, e)
  let pick := match argMin (fun p : Nat × Evict => p.2.used) (ix.filter fun p => p.2.line.isNone) with
    | some p => some p.1
    | none => (argMin (fun p : Nat × Evict => p.2.since) ix).map Prod.fst
  match pick with
  | some i => { x with evict := x.evict.set i ⟨some v, now, now⟩ }
  | none => x

/-- A line is filled (R243, R244, R245). -/
def fillLine (s : State) (q l : Nat) (f : Fill) : State :=
  let x := slice s q
  let x := (x.forget l).unheld l
  match victim (cacheWays s q) l 4 x with
  | none => setSlice s q x
  | some (w, v, x) =>
    let x := match v with | some l' => intoEvict { x with lines := mdel x.lines l' } l' s.order | none => x
    let age := if f.pf then (if f.stream then 3 else 2) else if f.stream then 3 else 0
    setSlice (tick s) q { x with lines := mput x.lines l (some ⟨w, age⟩) }

/-! ### Lookups (R189, R221, R239) -/

/-- The lines an MLOOK or MGEN reads, in order. -/
def lookLines (s : State) (lbn : Nat) (gen : Bool) : List Nat :=
  let i := lbn / 256
  let k := lbn % 256
  let w := coarseWord s i
  let co := (aCoarse + 8 * i) / 64
  let ov := coState w = 3 || coState w = 4
  let g := coOv w
  let c := bits (grpChunk s g (k / 8)) 0 28
  let here := ov && grpPresent s g k
  if gen then
    if here then [(aGroup + 256 * g) / 64, (aChunkGen + 64 * c) / 64] else [co, (aCoarseGen + 8 * i) / 64]
  else
    [co] ++ (if ov then [(aGroup + 256 * g) / 64] else [])
      ++ (if here then [(aGroup + 256 * g + 64 + 4 * (k / 8)) / 64, (aChunk + 64 * c) / 64] else [])

/-- The number of a lookup that waits on a commit window, and of one that waits for a map segment (R221, R439). -/
def seenWindow : Nat := 100
def seenSegment : Nat := 101

/-- The 8 MiB map segment of an address. -/
def segOf (a : Nat) : Nat := a / 2 ^ 23

/-- A lookup that meets an uncorrectable error: DATA fault 0x04, raised when the thread resumes if it waited (R167). -/
def lookFault (s : State) (t : Nat) : State :=
  if (th s t).st = .running then raise s t 0 4 else modTh (toReady s t) t fun x => { x with cont := .spoiled }

/-- The result of a finished lookup goes to the thread: READY with it after a wait, else the instruction retires. MLOOK's
location is held from now on (R190). -/
def lookDone (s : State) (t rd lbn : Nat) (gen : Bool) : State :=
  let w := coarseWord s (lbn / 256)
  if 5 ≤ coState w then lookFault s t else
  let b := loadBil s (lbn / 256)
  let v := if gen then b.genOf (lbn % 256) else b.loc s (lbn % 256)
  let s := if gen then s else modTh s t fun x => { x with held := v :: x.held }
  if (th s t).st = .running then retire s t rd (BitVec.ofNat 64 v) else releaseWith s t rd (BitVec.ofNat 64 v)

/-- The lookup waits: the instruction is issued once; a wait that goes on keeps its beginning, and takes a new place in the order of
arrival. -/
def lookWait (s : State) (t : Nat) (arg : Nat) (k : Cont) : State :=
  if (th s t).st = .running then advWait s t .mapmiss arg k
  else modTh (tick s) t fun x => { x with arg := arg, cont := k, waitAt := s.order }

/-- The remaining accesses of a lookup, `n` of them already made. -/
def lookGo (s : State) (t rd lbn : Nat) (gen : Bool) : Nat → List Nat → State
  | _, [] => lookDone s t rd lbn gen
  | n, l :: rest =>
    if s.map.toLoad.contains (segOf (64 * l)) then lookWait s t (64 * l) (.look rd lbn gen seenSegment) else
    match access s t l with
    | (.hit, s) => lookGo s t rd lbn gen (n + 1) rest
    | (.bad, s) => lookFault s t
    | (.miss, s) => lookWait s t (64 * l) (.look rd lbn gen n)

/-- A lookup from its `n`-th access on; a billet in the commit window makes it wait (R221). -/
def look (s : State) (t rd lbn : Nat) (gen : Bool) (n : Nat) : State :=
  if isSys s t && lcapBlocks s ≤ lbn then
    if (th s t).st = .running then retire s t rd 0 else releaseWith s t rd 0
  else if inWindow s (lbn / 256) then
    lookWait s t ((aCoarse + 8 * (lbn / 256)) / 64 * 64) (.look rd lbn gen seenWindow)
  else lookGo s t rd lbn gen n ((lookLines s lbn gen).drop n)

/-- Threads that wait, in the order in which their waits began (R156). -/
def byArrival (s : State) (p : Thread → Bool) : List Nat :=
  (threadsWhere s fun _ x => p x).mergeSort fun a b => (th s a).waitAt ≤ (th s b).waitAt

/-- Lookups that waited on a commit window go on once no billet of theirs is in it (R221). -/
def wakeWindow (s : State) : State :=
  (byArrival s fun x => x.why = .mapmiss).foldl (fun s t =>
    match (th s t).cont with
    | .look rd lbn gen n =>
      if n = seenWindow && !inWindow s (lbn / 256) then look s t rd lbn gen 0 else s
    | _ => s) s

/-! ### Conversion to scratchpad and slice drain (R248, R251, R252) -/

/-- SPWAYS ways are converted: the highest-numbered enabled ways, at most all but four; converted ways are zeroed, ways
given back come back empty (R248). -/
def convert (s : State) (q : Nat) : State :=
  let n := getF s (MC_SP_SPWAYS q)
  let on := waysOn s q
  let steps := min n (on.length - 4)
  let ways := (on.reverse).take steps
  let x := slice s q
  let x := ways.foldl (fun x w => x.dropWay w) { x with spWays := ways }
  let s := setSlice s q x
  let s := { s with mem := { s.mem with scratch := clrBytes s.mem.scratch (q * 6291456) 6291456,
                                        scratchValid := s.mem.scratchValid.filter fun l => l * 64 / 6291456 != q,
                                        scratchBad := s.mem.scratchBad.filter fun l => l * 8 / 6291456 != q } }
  let s := setF (setF s (MC_SP_STEPS q) steps) (MC_SP_WAYS q) ((ways.map (2 ^ ·)).sum)
  let s := setF s (MC_SP_SHORT q) (b2n (steps < n))
  if steps < n then logEv s 5 2 [q, n, steps] else s

/-- Every slice starts empty (R252). -/
def emptySlices (s : State) : State :=
  (List.range 4).foldl (fun s q => setSlice s q { Slice.empty with spWays := (slice s q).spWays }) s

end Sys2Proof.Machine
end

