-- ==== Sys2Proof/Machine/Alu.lean ====
section
/-! DEFINITION. Anvil ALU, branch, local-store, scratchpad and program-store instructions (R184 to R186). -/
namespace Sys2Proof.Machine
open Sys2Proof

/-- A three-register ALU instruction (R184): rd := f rs1 rs2. -/
def alu3 (op : Nat) (f : W64 → W64 → W64) (t rd rs1 rs2 : Nat) (s : State) : Res :=
  anvil s t (aw op rd rs1 rs2 0 0) (retire s t rd (f (gr s t rs1) (gr s t rs2)))

/-- An ALU instruction with an immediate (R184): rd := f rs1 imm. -/
def aluI (op : Nat) (f : W64 → W64) (t rd rs1 imm : Nat) (s : State) : Res :=
  anvil s t (aw op rd rs1 0 0 imm) (retire s t rd (f (gr s t rs1)))

/-- A truth value as a register result. -/
def w1 (b : Bool) : W64 := if b then 1 else 0

/-- A zero-extended immediate (R184). -/
def zx (imm : Nat) : W64 := BitVec.ofNat 64 (imm % 2 ^ 32)

/-- The field of EXT: bits past 63 do not exist (R184). -/
def extField (v : W64) (lsb width : Nat) : W64 := (v >>> lsb) &&& BitVec.ofNat 64 (2 ^ width - 1)

/-- The field of INS: the other bits of `d` are kept (R184). -/
def insField (d v : W64) (lsb width : Nat) : W64 :=
  let m := BitVec.ofNat 64 (2 ^ width - 1)
  (d &&& ~~~(m <<< lsb)) ||| ((v &&& m) <<< lsb)

def execAdd (t rd rs1 rs2 : Nat) (s : State) : Res := alu3 0x01 (· + ·) t rd rs1 rs2 s
def execSub (t rd rs1 rs2 : Nat) (s : State) : Res := alu3 0x02 (· - ·) t rd rs1 rs2 s
def execAnd (t rd rs1 rs2 : Nat) (s : State) : Res := alu3 0x03 (· &&& ·) t rd rs1 rs2 s
def execOr (t rd rs1 rs2 : Nat) (s : State) : Res := alu3 0x04 (· ||| ·) t rd rs1 rs2 s
def execXor (t rd rs1 rs2 : Nat) (s : State) : Res := alu3 0x05 (· ^^^ ·) t rd rs1 rs2 s
def execShl (t rd rs1 rs2 : Nat) (s : State) : Res := alu3 0x06 (fun a b => a <<< (b.toNat % 64)) t rd rs1 rs2 s
def execShr (t rd rs1 rs2 : Nat) (s : State) : Res := alu3 0x07 (fun a b => a >>> (b.toNat % 64)) t rd rs1 rs2 s
def execSra (t rd rs1 rs2 : Nat) (s : State) : Res :=
  alu3 0x08 (fun a b => a.sshiftRight (b.toNat % 64)) t rd rs1 rs2 s
def execMul (t rd rs1 rs2 : Nat) (s : State) : Res := alu3 0x09 (· * ·) t rd rs1 rs2 s
def execSlt (t rd rs1 rs2 : Nat) (s : State) : Res := alu3 0x0A (fun a b => w1 (a.slt b)) t rd rs1 rs2 s
def execSltu (t rd rs1 rs2 : Nat) (s : State) : Res := alu3 0x0B (fun a b => w1 (a.ult b)) t rd rs1 rs2 s

/-- EXT (R184): IMM[5:0] = lsb, IMM[11:6] = width − 1. -/
def execExt (t rd rs1 lsb width : Nat) (s : State) : Res :=
  aluI 0x0C (fun a => extField a lsb width) t rd rs1 (fieldImm lsb width) s

/-- INS (R184): rd is a source too. -/
def execIns (t rd rs1 lsb width : Nat) (s : State) : Res :=
  aluI 0x0D (fun a => insField (gr s t rd) a lsb width) t rd rs1 (fieldImm lsb width) s

/-- The special register a selector names (R171): pc of the MFS itself, tid, tenant, wreason. -/
def specialReg (s : State) (t sel : Nat) : Nat :=
  match sel with
  | 0 => (th s t).pc
  | 1 => t
  | 2 => (th s t).stamp
  | _ => (th s t).lastWhy.code

/-- MFS (R171, R184): a selector above 3 is an undefined encoding (R175). -/
def execMfs (t rd sel : Nat) (s : State) : Res :=
  anvil s t (aw 0x0E rd 0 0 0 (immLt sel 4)) (retire s t rd (BitVec.ofNat 64 (specialReg s t sel)))

def execAddi (t rd rs1 imm : Nat) (s : State) : Res := aluI 0x11 (· + sext32 imm) t rd rs1 imm s
def execAndi (t rd rs1 imm : Nat) (s : State) : Res := aluI 0x13 (· &&& zx imm) t rd rs1 imm s
def execOri (t rd rs1 imm : Nat) (s : State) : Res := aluI 0x14 (· ||| zx imm) t rd rs1 imm s
def execXori (t rd rs1 imm : Nat) (s : State) : Res := aluI 0x15 (· ^^^ zx imm) t rd rs1 imm s

/-- SHLI (R184): IMM[31:6] is reserved. -/
def execShli (t rd rs1 imm : Nat) (s : State) : Res := aluI 0x16 (· <<< imm) t rd rs1 (immLt imm 64) s
def execShri (t rd rs1 imm : Nat) (s : State) : Res := aluI 0x17 (· >>> imm) t rd rs1 (immLt imm 64) s
def execSltiu (t rd rs1 imm : Nat) (s : State) : Res := aluI 0x1B (fun a => w1 (a.ult (zx imm))) t rd rs1 imm s

/-- LIH (R184): rd := IMM × 2^32 + rs1[31:0]. -/
def execLih (t rd rs1 imm : Nat) (s : State) : Res :=
  aluI 0x1F (fun a => BitVec.ofNat 64 (imm % 2 ^ 32 * 2 ^ 32 + a.toNat % 2 ^ 32)) t rd rs1 imm s

/-! ### Branches (R185) -/

/-- A taken branch: a target that is misaligned or outside the program store faults, otherwise the pc moves there. -/
def jump (s s' : State) (t : Nat) (target : W64) : State :=
  if pcOk target.toNat then modTh (counted s' t) t fun x => { x with pc := target.toNat } else raise s t 1 2

/-- The conditions of BR (R185). -/
def brCond (c : Nat) (a b : W64) : Bool :=
  match c with
  | 0 => a == b
  | 1 => a != b
  | 2 => a.slt b
  | 3 => !a.slt b
  | 4 => a.ult b
  | _ => !a.ult b

/-- BR (R185): conditions 6 and 7 are reserved, so the word is undefined (R175). -/
def execBr (t cond rs1 rs2 imm : Nat) (s : State) : Res :=
  act (issues s t (aw 0x20 0 rs1 rs2 cond imm) && cond ≤ 5) s
    (if brCond cond (gr s t rs1) (gr s t rs2) then jump s s t (BitVec.ofNat 64 (th s t).pc + sext32 imm) else adv s t)

/-- The return address of JAL and JALR: pc + 8 (R185). -/
def linkTo (s : State) (t rd : Nat) : State := modTh s t fun x => x.setG rd (BitVec.ofNat 64 ((th s t).pc + 8))

def execJal (t rd imm : Nat) (s : State) : Res :=
  anvil s t (aw 0x21 rd 0 0 0 imm) (jump s (linkTo s t rd) t (BitVec.ofNat 64 (th s t).pc + sext32 imm))

/-- JALR (R185): the target is read before the link is written. -/
def execJalr (t rd rs1 imm : Nat) (s : State) : Res :=
  anvil s t (aw 0x22 rd rs1 0 0 imm) (jump s (linkTo s t rd) t (gr s t rs1 + sext32 imm))

/-! ### Local store, scratchpad, program store (R172, R173, R186) -/

/-- The access size of FN[1:0] (R186). -/
def sizeOf_ (size : Nat) : Nat := 2 ^ (size % 4)

/-- LDL (R172, R186): an uncorrectable error in the local store is DATA fault 0x01. -/
def execLdl (t size rd rs1 imm : Nat) (e : MErr) (s : State) : Res :=
  act (issues s t (aw 0x30 rd rs1 0 size imm) && size ≤ 3) s <|
    match lsAddr s t rs1 imm (sizeOf_ size) (sizeOf_ size) with
    | none => raise s t 1 0x0A
    | some a => match lsCheck s t a (sizeOf_ size) e with
      | (true, s) => raise s t 0 1
      | (false, s) => retire s t rd (BitVec.ofNat 64 (lsLe s t a (sizeOf_ size)))

def execStl (t size rs2 rs1 imm : Nat) (s : State) : Res :=
  act (issues s t (aw 0x31 0 rs1 rs2 size imm) && size ≤ 3) s <|
    match lsAddr s t rs1 imm (sizeOf_ size) (sizeOf_ size) with
    | none => raise s t 1 0x0A
    | some a => adv (lsWr s t a (leBytes (sizeOf_ size) (gn s t rs2))) t

/-- An effective address rs1 + IMM. The immediate is taken zero-extended (DEDUCED, log 12: R184 sign-extends in ADDI only). -/
def effAddr (s : State) (t rs1 imm : Nat) : Nat := (gr s t rs1 + zx imm).toNat

/-- The slice and way that back a scratchpad address (R248). -/
def spWay (s : State) (a : Nat) : Nat × Nat := (a / 6291456, (slice s (a / 6291456)).spWays.getD (a % 6291456 / 786432) 0)

/-- A scratchpad read of `n` bytes meets what the codes find, in a line that was written: errors are counted for the way, and an uncorrectable
one is told (R248, R249, R273). -/
def spCheck (s : State) (a n : Nat) (e : MErr) : Bool × State :=
  if !spMapped s a then (false, s) else
  let (q, w) := spWay s a
  let live := s.mem.scratchValid.contains (a / 64)
  let s := if e = .uncorr && live then { s with mem := { s.mem with scratchBad := sins (a / 8) s.mem.scratchBad } } else s
  if spBad s a n then (true, wayErr s q w true)
  else (false, if e = .corr && live then wayErr s q w false else s)

/-- LDS (R186, R248): unconverted parts read zero; an uncorrectable error is DATA fault 0x05. -/
def execLds (t size rd rs1 imm : Nat) (e : MErr) (s : State) : Res :=
  act (issues s t (aw 0x34 rd rs1 0 size imm) && size ≤ 3) s <|
    let a := effAddr s t rs1 imm
    if a % sizeOf_ size != 0 then raise s t 1 0x0A
    else match spCheck s a (sizeOf_ size) e with
      | (true, s) => raise s t 0 5
      | (false, s) => retire s t rd (BitVec.ofNat 64 (leNat (spRd s a (sizeOf_ size))))

/-- STS (R166, R186): system threads only. -/
def execSts (t size rs2 rs1 imm : Nat) (s : State) : Res :=
  act (issues s t (aw 0x35 0 rs1 rs2 size imm) && size ≤ 3) s <|
    let a := effAddr s t rs1 imm
    if !isSys s t then raise s t 2 5
    else if a % sizeOf_ size != 0 then raise s t 1 0x0A
    else adv (spWr s a (leBytes (sizeOf_ size) (gn s t rs2))) t

/-- LDP (R173, R186): an address at or above 8 MiB reads zero. -/
def execLdp (t size rd rs1 imm : Nat) (s : State) : Res :=
  act (issues s t (aw 0x36 rd rs1 0 size imm) && size ≤ 3) s <|
    let a := effAddr s t rs1 imm
    if a % sizeOf_ size != 0 then raise s t 1 0x0A
    else retire s t rd (if 2 ^ 23 ≤ a then 0 else BitVec.ofNat 64 (rdLe s.prog a (sizeOf_ size)))

end Sys2Proof.Machine
end

