-- ==== Sys2Proof/Machine/BufOps.lean ====
section
/-! DEFINITION. The buffer pool manager: populations, handles, fallback, parking, the background cap, sharing, the flush
queue, and the addresses of frames (R179, R188, R254 to R263). -/
namespace Sys2Proof.Machine
open Sys2Proof

/-! ### Pools and handles (R179, R254) -/

/-- Frames of a buffer of each pool (R179). -/
def frames (pool : Nat) : Nat :=
  match pool with
  | 0 => 1 | 1 => 4 | 2 => 16 | _ => 256

/-- A handle: the pool in bits 31:30 and never zero (R179); the other bits are the model's (DESIGN CHOICE, log 15). -/
def mkHandle (pool : Nat) (wb : Bool) (idx : Nat) : Nat := pool * 2 ^ 30 + b2n wb * 2 ^ 29 + idx + 1

def bufAt (s : State) (h : Nat) : Option Buf := mget none s.buf.bufs h
def setBuf (s : State) (h : Nat) (b : Option Buf) : State :=
  { s with buf := { s.buf with bufs := mset none s.buf.bufs h b } }

/-- The thread holds the handle. -/
def holds (s : State) (t h : Nat) : Bool :=
  match bufAt s h with
  | some b => b.holders.contains t
  | none => false

/-- The write-buffer frame of frame `f` of a write-buffer buffer (R262). -/
def wbFrame (b : Buf) (f : Nat) : Nat := if b.pool = 3 then 256 * b.idx + f else 16 * b.idx + f

/-- A memory address: data SRAM or DRAM. -/
inductive Loc
  | sram (a : Nat)
  | dram (a : Nat)
  deriving DecidableEq, Repr

/-- Where frame `f` of a buffer lies (R254, R262, R264). P0 and P1 lie in the data SRAM of their quadrant. -/
def frameLoc (b : Buf) (f : Nat) : Loc :=
  match b.pool with
  | 0 => .sram (b.idx / 1024 * 2 ^ 24 + b.idx % 1024 * 4096)
  | 1 => .sram (b.idx / 640 * 2 ^ 24 + 4194304 + b.idx % 640 * 16384 + f * 4096)
  | 2 => .dram (if b.wb then aWb + 4096 * wbFrame b f else aP2 + 65536 * b.idx + 4096 * f)
  | _ => .dram (if b.wb then aWb + 4096 * wbFrame b f else aP3 + 1048576 * b.idx + 4096 * f)

/-- Where the metadata area of frame `f` lies (R179, R262, R264). -/
def metaLoc (b : Buf) (f : Nat) : Loc :=
  match b.pool with
  | 0 => .sram (b.idx / 1024 * 2 ^ 24 + 14680064 + b.idx % 1024 * 64)
  | 1 => .sram (b.idx / 640 * 2 ^ 24 + 14680064 + 65536 + (b.idx % 640 * 4 + f) * 64)
  | 2 => .dram (if b.wb then aWbMeta + 64 * wbFrame b f else aP2Meta + 64 * (16 * b.idx + f))
  | _ => .dram (if b.wb then aWbMeta + 64 * wbFrame b f else aP3Meta + 64 * (256 * b.idx + f))

def Loc.plus (l : Loc) (o : Nat) : Loc :=
  match l with
  | .sram a => .sram (a + o)
  | .dram a => .dram (a + o)

def locRd (s : State) (l : Loc) (n : Nat) : List Byte :=
  match l with
  | .sram a => rdBytes s.mem.sram a n
  | .dram a => dramRd s a n

def locWr (s : State) (l : Loc) (b : List Byte) : State :=
  match l with
  | .sram a => sramWr s a b
  | .dram a => dramWr s a b

/-- A read at a location meets what the codes find (R271, R273). -/
def locCheck (s : State) (l : Loc) (n : Nat) (e : MErr) (src : Nat) : Bool × State :=
  match l with
  | .sram a => sramCheck s a n e
  | .dram a => dramCheck s a n e src

/-- A read of a frame and its metadata meets what the codes find; `errs` lists new errors by 65 × frame + line, line 64 the metadata
(R270 to R273). -/
def pairCheck (s : State) (dl ml : Loc) (k : Nat) (errs : List (Nat × MErr)) (src : Nat) : Bool × State :=
  let r := (errs.filter fun e => e.1 / 65 = k).foldl (fun (r : Bool × State) e =>
    if r.1 then r else locCheck r.2 (if e.1 % 65 = 64 then ml else dl.plus (64 * (e.1 % 65))) 64 e.2 src) (false, s)
  if r.1 then r else
  match locCheck r.2 dl 4096 .ok src with
  | (true, s) => (true, s)
  | (false, s) => locCheck s ml 64 .ok src

/-- What the codes find under a store (R268, R270, R273). -/
def locMerge (s : State) (l : Loc) (n : Nat) (e : MErr) : State :=
  match l with
  | .sram a => if n < 8 then (sramCheck s (a / 8 * 8) 8 e).2 else s
  | .dram a => dramMerge s a n e

/-- The allocation clear of a buffer (R255, R267). -/
def clearBuf (s : State) (b : Buf) : State :=
  let n := frames b.pool
  match b.pool, frameLoc b 0, metaLoc b 0 with
  | _, .dram a, .dram m => dramClear (dramClear s a (4096 * n)) m (64 * n)
  | _, .sram a, .sram m =>
    { s with mem := { s.mem with sram := clrBytes (clrBytes s.mem.sram a (4096 * n)) m (64 * n)
                                 sramValid := s.mem.sramValid.filter fun l =>
                                   !(decide (a / 64 ≤ l) && decide (l < (a + 4096 * n) / 64))
                                     && !(decide (m / 64 ≤ l) && decide (l < (m + 64 * n) / 64))
                                 sramBad := s.mem.sramBad.filter fun w =>
                                   !(decide (a / 8 ≤ w) && decide (w < (a + 4096 * n) / 8))
                                     && !(decide (m / 8 ≤ w) && decide (w < (m + 64 * n) / 8)) } }
  | _, _, _ => s

/-! ### Free populations (R254, R262) -/

/-- Buffers in use of a pool and region. -/
def usedIdx (s : State) (pool : Nat) (wb : Bool) : List Nat :=
  s.buf.bufs.filterMap fun e => match e.2 with
    | some b => if b.pool = pool && b.wb = wb then some b.idx else none
    | none => none

/-- The lowest index from `base` below `base + n` that is not in use (DESIGN CHOICE, log 15). -/
def lowFree (used : List Nat) (base n : Nat) : Option Nat :=
  ((List.range (min n (used.length + 1))).map (base + ·)).find? fun i => !used.contains i

/-- WB P3 slots there are: BUF_WB.CUR × 512 (R254). -/
def wbSlots (s : State) : Nat := 512 * getF s BUF_WB_CUR

/-- A write-buffer frame is held by some thread's location (R190). -/
def wbHeld (s : State) (lo n : Nat) : Bool :=
  s.thr.any fun e => e.2.held.any fun l => bits l 48 3 = 4 && lo ≤ bits l 0 48 && bits l 0 48 < lo + n

/-- A WB P3 slot is free: in use neither whole nor split, and no frame of it held (R190, R262). -/
def wbSlotFree (s : State) (b : Nat) : Bool :=
  !(usedIdx s 3 true).contains b && !s.buf.split.contains b && !wbHeld s (256 * b) 256

def lowWbSlot (s : State) : Option Nat := (List.range (wbSlots s)).find? (wbSlotFree s)

/-- A free part of a slot already split (R262). -/
def lowWbPart (s : State) : Option Nat :=
  (s.buf.split.flatMap fun b => (List.range 16).map (16 * b + ·)).find? fun i =>
    !(usedIdx s 2 true).contains i && !wbHeld s (16 * i) 16

/-- Free index of one pool for a requester in quadrant `q`. -/
def freeIn (s : State) (q pool : Nat) : Option Nat :=
  match pool with
  | 0 => lowFree (usedIdx s 0 false) (1024 * q) 1024 |>.filter (· < 1024 * q + 1024)
  | 1 => lowFree (usedIdx s 1 false) (640 * q) 640 |>.filter (· < 640 * q + 640)
  | 2 => lowFree (usedIdx s 2 false) 0 65536
  | _ => lowFree (usedIdx s 3 false) 0 19456

/-- General P2 or P3 buffers held by system threads (R259). -/
def sysHeld (s : State) (pool : Nat) : Nat :=
  (s.buf.bufs.filter fun e => match e.2 with
    | some b => b.pool = pool && !b.wb && b.holders.any (isSys s)
    | none => false).length

/-- A host thread is parked with reason BUFFER (R259). -/
def hostParked (s : State) : Bool := s.thr.any fun e => isHost e.1 && e.2.st = .parked && e.2.why = .buffer

/-- R259 permits this thread a buffer of this pool. -/
def capAllows (s : State) (t pool : Nat) : Bool :=
  !isSys s t || !hostParked s || mode s == mQuench || pool < 2
    || sysHeld s pool < (if pool = 2 then getF s BUF_CAP_P2CAP else getF s BUF_CAP_P3CAP)

/-- Give a buffer to a thread: cleared before the handle is written (R255). -/
def giveBuf (s : State) (t pool : Nat) (wb : Bool) (idx : Nat) : Nat × State :=
  let b : Buf := ⟨pool, wb, idx, [t], t, false⟩
  (mkHandle pool wb idx, setBuf (clearBuf s b) (mkHandle pool wb idx) (some b))

/-- MiB of the write-buffer region in use: a slot is 1 MiB (R262, R443). -/
def wbUsed (s : State) : Nat := ((List.range (wbSlots s)).filter fun b => !wbSlotFree s b).length

/-- A swap admits write-buffer allocations only while the region holds at most SWWB_MIB (R443 step 1). -/
def swapHolds (s : State) : Bool :=
  flag s PAIR_STAT_SWAPPING && mode s == mRun && decide (getF s PAIR_CFG_SWWB_MIB < wbUsed s)

/-- Serve an allocation now, with the fallback of R257 and its count; none when every pool it may use is empty, or when R259
withholds the buffer it would get. -/
def tryAlloc (s : State) (t pool : Nat) (wb : Bool) : Option (Nat × State) :=
  if wb && swapHolds s then none
  else if wb then
    if pool = 3 then (lowWbSlot s).map fun i => giveBuf s t 3 true i
    else match lowWbPart s with
      | some i => some (giveBuf s t 2 true i)
      | none => (lowWbSlot s).map fun b =>
          giveBuf (addSat { s with buf := { s.buf with split := sins b s.buf.split } } BUF_FBCNT_COUNT 1) t 2 true (16 * b)
  else
    let cand := (List.range 4).filter fun p => pool ≤ p && (freeIn s (quadOf t) p).isSome
    cand.head?.bind fun p => if !capAllows s t p then none else (freeIn s (quadOf t) p).map fun i =>
      giveBuf (if p = pool then s else addSat s BUF_FBCNT_COUNT 1) t p false i

/-- One pass over the parked requests in order of arrival (R258). -/
def servePass (s : State) : State :=
  s.buf.reqs.foldl (fun s r =>
    if r.take then
      match s.buf.flushq with
      | [] => s
      | h :: q =>
        let s := { s with buf := { s.buf with flushq := q, reqs := s.buf.reqs.filter (· != r) } }
        let s := match bufAt s h with | some b => setBuf s h (some { b with holders := sins r.t b.holders, owner := r.t }) | none => s
        match (th s r.t).cont with
        | .btake rd => releaseWith s r.t rd (BitVec.ofNat 64 h)
        | _ => s
    else
      match tryAlloc s r.t r.pool r.wb with
      | none => s
      | some (h, s) =>
        let s := { s with buf := { s.buf with reqs := s.buf.reqs.filter (· != r) } }
        match (th s r.t).cont with
        | .balloc rd _ _ => releaseWith s r.t rd (BitVec.ofNat 64 h)
        | _ => toReady s r.t) s

/-- Parked requests are served in order of arrival (R258); a host thread that goes on may lift the cap of R259 for others. -/
def serveBufs (s : State) : State := (List.range (s.buf.reqs.length + 1)).foldl (fun s _ => servePass s) s

/-- A new request takes a free handle only when no parked request is satisfied by it (R258). -/
def newAlloc (s : State) (t pool : Nat) (wb : Bool) : Option (Nat × State) := tryAlloc (serveBufs s) t pool wb

/-- Free a buffer (R188, R262): its handle goes; a split slot whose 16 parts are free returns to the WB P3 pool. A holder beside the
final owner loses its access with it: R188 says that the buffer is freed and that a holder keeps access (DESIGN CHOICE, log 137). -/
def freeBuf (s : State) (h : Nat) : State :=
  match bufAt s h with
  | none => s
  | some b =>
    let s := setBuf s h none
    let s := if b.wb && b.pool = 2 && !((usedIdx s 2 true).any fun i => i / 16 = b.idx / 16) then
        { s with buf := { s.buf with split := srem (b.idx / 16) s.buf.split } } else s
    serveBufs { s with buf := { s.buf with flushq := s.buf.flushq.filter (· != h) } }

/-- Put a WB buffer on the flush queue (R261). -/
def toFlush (s : State) (h : Nat) : State :=
  match bufAt s h with
  | none => s
  | some b => serveBufs { setBuf s h (some { b with shared := true, owner := 0x1FFF })
                          with buf := { (setBuf s h (some { b with shared := true, owner := 0x1FFF })).buf
                                        with flushq := s.buf.flushq ++ [h] } }

/-- A committed journal record names a frame of the buffer (R261): one still kept, or by what the map holds one released since (R225). -/
def wbNamed (s : State) (b : Buf) : Bool :=
  let lo := wbFrame b 0
  let n := frames b.pool
  (wbBlocks s).any (fun e => lo ≤ e.2 && e.2 < lo + n) || s.map.recs.any fun r => r.committed && r.ents.any fun e => !e.skip &&
    (match e.act with
     | .coarse => bit e.target 33 && 256 * bits e.target 0 12 < lo + n && lo < 256 * bits e.target 0 12 + 256
     | .fine => bits e.target 44 3 = 4 && lo ≤ bits e.target 0 20 && bits e.target 0 20 < lo + n
     | _ => false)

/-- A thread ends: what becomes of the buffers it holds (R168 step 4, R200 step 4, R261): access alone goes where another is the
final owner, a WB buffer that a committed record names goes back to the flush queue, any other is freed. -/
def dropBufs (s : State) (t : Nat) : State :=
  let hs := (s.buf.bufs.filter fun e => match e.2 with | some b => b.holders.contains t | none => false).map Prod.fst
  hs.foldl (fun s h =>
    match bufAt s h with
    | none => s
    | some b =>
      if b.shared && b.owner != t then setBuf s h (some { b with holders := srem t b.holders })
      else if b.wb && wbNamed s b then
        toFlush (setBuf s h (some { b with holders := [] })) h
      else freeBuf s h) s

/-- The background caps of R259 follow S (BUF_CAP); a higher cap may serve a parked request. -/
def setCaps (s : State) : State :=
  let sh := getF s CHR_SHARE_NOW_SHARE
  serveBufs (setF (setF s BUF_CAP_P2CAP (ceilDiv (65536 * sh) 256)) BUF_CAP_P3CAP (ceilDiv (19456 * sh) 256))

/-- Withdraw a thread's parked request; its place passes to the next (R159, R258). -/
def dropReq (s : State) (t : Nat) : State :=
  if s.buf.reqs.any fun r => r.t = t then
    serveBufs { s with buf := { s.buf with reqs := s.buf.reqs.filter fun r => r.t != t } }
  else s

/-- The lowest outstanding transfer of a thread that names a buffer handle. -/
def xferNames (s : State) (t h : Nat) : Option Nat :=
  ((th s t).xfers.find? fun e => match e.2 with
    | some x => !x.ended && x.hs.contains h
    | none => false).map Prod.fst

/-- A strike or transfer of any thread that names a buffer handle and has not ended (R188): its thread, and its tag or number; a
strike first. -/
def namesBuf (s : State) (h : Nat) : Option (Nat × Bool × Nat) :=
  match s.ch.strikes.find? (fun e => match e.2 with
    | some k => k.h = h && (k.t = 9999 || !(mget ⟨true, 0, 0⟩ (th s k.t).tags k.tag).ended)
    | none => false) with
  | some (_, some k) => some (k.t, true, k.tag)
  | _ => s.thr.findSome? fun e => (xferNames s e.1 h).map fun n => (e.1, false, n)

/-- The offset of LDB and STB in a buffer of `n` frames (R187): the location of an access there, or none where a bound breaks. -/
def bufOff (b : Buf) (o : Nat) : Option Loc :=
  if 2 ^ 32 ≤ o then none
  else if o < 2 ^ 31 then
    if o < 4096 * frames b.pool then some ((frameLoc b (o / 4096)).plus (o % 4096)) else none
  else
    let m := o - 2 ^ 31
    if m < 64 * frames b.pool then some ((metaLoc b (m / 64)).plus (m % 64)) else none

end Sys2Proof.Machine
end

