-- ==== Sys2Proof/Machine/Buffers.lean ====
section
/-! DEFINITION. Anvil DRAM and buffer instructions (R187, R188, R254 to R263). -/
namespace Sys2Proof.Machine
open Sys2Proof

/-- The buffer offset of LDB and STB: register plus IMM (R187). -/
def bufOffset (s : State) (t r imm : Nat) : Nat := effAddr s t r imm

/-- The check order of LDB and STB (R187): handle held, bounds, alignment. Answers the fault or the location. -/
def bufPlace (s : State) (t h o sz : Nat) : Sum (Nat × Nat) Loc :=
  match bufAt s h with
  | none => .inl (1, 4)
  | some b =>
    if !b.holders.contains t then .inl (1, 4)
    else match bufOff b o with
      | none => .inl (2, 4)
      | some l => if o % sz != 0 then .inl (1, 0x0A) else .inr l

/-- LDB (R187, R271, R273). -/
def execLdb (t size rd rs1 rs2 imm : Nat) (e : MErr) (s : State) : Res :=
  act (issues s t (aw 0x40 rd rs1 rs2 size imm) && size ≤ 3) s <|
    match bufPlace s t (gn s t rs1) (bufOffset s t rs2 imm) (sizeOf_ size) with
    | .inl (c, k) => raise s t c k
    | .inr l =>
      match locCheck s l (sizeOf_ size) e 0 with
      | (true, s) => raise s t 0 (match l with | .sram _ => 2 | .dram _ => 3)
      | (false, s) => retire s t rd (BitVec.ofNat 64 (leNat (locRd s l (sizeOf_ size))))

/-- STB (R187): rd is a source, the offset register; `m` holds what the codes find under a partial write (R270). -/
def execStb (t size rs2 rs1 rd : Nat) (m : Merge) (s : State) : Res :=
  act (issues s t (aw 0x41 rd rs1 rs2 size m.imm) && size ≤ 3) s <|
    match bufPlace s t (gn s t rs1) (bufOffset s t rd m.imm) (sizeOf_ size) with
    | .inl (c, k) => raise s t c k
    | .inr l => adv (locWr (locMerge s l (sizeOf_ size) m.found) l (leBytes (sizeOf_ size) (gn s t rs2))) t

/-- LDD (R187, R238, R264, R271): after every queued write-through entry of its line. -/
def execLdd (t size rd rs1 imm : Nat) (e : MErr) (s : State) : Res :=
  act (issues s t (aw 0x42 rd rs1 0 size imm) && size ≤ 3) s <|
    let a := effAddr s t rs1 imm
    if !isSys s t then raise s t 2 7
    else if a % sizeOf_ size != 0 then raise s t 1 0x0A
    else match dramCheck (drainLine s (a / 64)) a (sizeOf_ size) e 0 with
      | (true, s) => raise s t 0 3
      | (false, s) => retire s t rd (BitVec.ofNat 64 (dramLe s a (sizeOf_ size)))

/-- STD (R187, R238, R264, R314): past the map cache, whose copy of the line stays as it was. -/
def execStd (t size rs2 rs1 : Nat) (m : Merge) (s : State) : Res :=
  act (issues s t (aw 0x43 0 rs1 rs2 size m.imm) && size ≤ 3) s <|
    let a := effAddr s t rs1 m.imm
    if !isSys s t then raise s t 2 7
    else if a % sizeOf_ size != 0 then raise s t 1 0x0A
    else adv (dramWrLe (dramMerge (keepCopy s (a / 64)) a (sizeOf_ size) m.found) a (sizeOf_ size) (gn s t rs2)) t

/-- A thread parks for a buffer: its place in the manager's order, and the count of parks (R258, BUF_FBCNT). -/
def parkBuf (s : State) (t arg : Nat) (r : BufReq) (k : Cont) : State :=
  let s := addSat { s with buf := { s.buf with reqs := s.buf.reqs ++ [r] } } BUF_FBCNT_PARKS 1
  advWait s t .buffer arg k

/-- BALLOC (R188, R257, R258): WB with P0 or P1 is an undefined combination, PROGRAM fault 0x01. -/
def execBalloc (t rd pool : Nat) (wb : Bool) (s : State) : Res :=
  act (issues s t (aw 0x70 rd 0 0 (immLt pool 4 + 4 * b2n wb) 0)) s <|
    if wb && pool < 2 then raise s t 1 1
    else match newAlloc s t pool wb with
      | some (h, s) => retire s t rd (BitVec.ofNat 64 h)
      | none => parkBuf (serveBufs s) t pool ⟨t, pool, wb, false⟩ (.balloc rd pool wb)

/-- BFREE (R188, R261): the free waits for every strike and transfer that names the buffer. -/
def execBfree (t rs1 : Nat) (s : State) : Res :=
  anvil s t (aw 0x71 0 rs1 0 0 0) <|
    let h := gn s t rs1
    match bufAt s h with
    | none => raise s t 1 4
    | some b =>
      if !b.holders.contains t then raise s t 1 4
      else if b.shared && b.owner != t then raise s t 1 3
      else match namesBuf s h with
        | some (_, true, g) => advWait s t .media g (.bfree h)
        | some (_, false, n) => advWait s t .dma n (.bfree h)
        | none => adv (freeBuf s h) t

/-- BSHARE (R188, R261): once per buffer; 0x1FFF puts a WB buffer on the flush queue. A thread number that does not exist becomes holder and
final owner as any other does: R188 gives no outcome (DESIGN CHOICE, log 144). -/
def execBshare (t rs1 rs2 : Nat) (give : Bool) (s : State) : Res :=
  anvil s t (aw 0x72 0 rs1 rs2 (b2n give) 0) <|
    let h := gn s t rs1
    let dst := gn s t rs2 % 2 ^ 13
    match bufAt s h with
    | none => raise s t 1 4
    | some b =>
      if !b.holders.contains t then raise s t 1 4
      else if b.shared then raise s t 1 3
      else
        let keep := if give then srem t b.holders else b.holders
        if dst = 0x1FFF then
          if !b.wb then raise s t 1 1
          else adv (toFlush (setBuf s h (some { b with holders := keep })) h) t
        else adv (setBuf s h (some { b with holders := sins dst keep, owner := dst, shared := true })) t

/-- BTAKE (R188, R261): the oldest buffer of the flush queue; system-only. -/
def execBtake (t rd : Nat) (s : State) : Res :=
  anvil s t (aw 0x73 rd 0 0 0 0) <|
    if !isSys s t then raise s t 2 7
    else match s.buf.flushq with
      | h :: q =>
        let s := { s with buf := { s.buf with flushq := q } }
        let s := match bufAt s h with
          | some b => setBuf s h (some { b with holders := sins t b.holders, owner := t }) | none => s
        retire s t rd (BitVec.ofNat 64 h)
      | [] => parkBuf s t 4 ⟨t, 4, true, true⟩ (.btake rd)

end Sys2Proof.Machine
end

