-- ==== Sys2Proof/Machine/TenOps.lean ====
section
/-! DEFINITION. Token buckets, their parked charges, and the tenants' live counters (R392 to R398). -/
namespace Sys2Proof.Machine
open Sys2Proof

/-- The tenant a thread's charges and counts go to (R165, R392). -/
def tenantOf (s : State) (t : Nat) : Nat := bits (th s t).stamp 0 10

def setTen (s : State) (x : Tenancy) : State := { s with d := { s.d with ten := x } }

/-- The buckets of a tenant in force (R395). -/
def quotaOf (s : State) (n : Nat) : Quota := mget Quota.none s.d.ten.force n

/-- The balance of bucket `b`: 0 when disabled (R395). -/
def balOf (s : State) (n b : Nat) : Nat := mget 0 s.d.ten.bal (4 * n + b)

def setBal (s : State) (n b v : Nat) : State := setTen s { s.d.ten with bal := mset 0 s.d.ten.bal (4 * n + b) v }

/-- Live counters of a tenant (R398). -/
def cntOf (s : State) (n : Nat) : Cnt := mget Cnt.zero s.d.ten.live n

def modCnt (s : State) (n : Nat) (f : Cnt → Cnt) : State :=
  setTen s { s.d.ten with live := mset Cnt.zero s.d.ten.live n (f (cntOf s n)) }

/-- A charge fits a bucket: always when disabled; one larger than the capacity when the bucket is full (R198, R395). -/
def fitsB (s : State) (n b c : Nat) : Bool :=
  let k := quotaAt (quotaOf s n) b
  !k.en || decide (c ≤ balOf s n b) || (decide (k.cap < c) && balOf s n b == k.cap)

/-- The lowest bucket that a charge of three amounts does not fit (R396). -/
def missB (s : State) (n c y u : Nat) : Option Nat :=
  ([(0, c), (1, y), (2, u)].find? fun x => !fitsB s n x.1 x.2).map Prod.fst

/-- One bucket pays; a charge above the capacity takes all of it (R198). -/
def payB (s : State) (n b c : Nat) : State :=
  if (quotaAt (quotaOf s n) b).en then setBal s n b (balOf s n b - c) else s

/-- Read class and write class of a command's OPC (R398). -/
def readOpc (o : Nat) : Bool := [0x01, 0x06, 0x07, 0x0A].contains o || decide (0x80 ≤ o)
def writeOpc (o : Nat) : Bool := (decide (2 ≤ o) && decide (o ≤ 5)) || o == 8 || o == 9

/-- The latched OPC of a context's command (R115). -/
def opcOf (s : State) (c : Nat) : Nat := bits (cx s c).block 0 8

/-- The charge is made, and counted under the class of the command (R398). -/
def makeCharge (s : State) (t c y u : Nat) : State :=
  let n := tenantOf s t
  let o := opcOf s t
  modCnt (payB (payB (payB s n 0 c) n 1 y) n 2 u) n fun k =>
    { k with rcmd := if readOpc o then satAdd 32 k.rcmd c else k.rcmd
             wcmd := if writeOpc o then satAdd 32 k.wcmd c else k.wcmd
             rbytes := if readOpc o then satAdd 64 k.rbytes y else k.rbytes
             wbytes := if writeOpc o then satAdd 64 k.wbytes y else k.wbytes
             mediaUs := satAdd 64 k.mediaUs u }

/-- A charge that cannot be made now parks behind the tenant's earlier ones (R396). -/
def parkCharge (s : State) (t c y u : Nat) (k : Cont) : State :=
  let n := tenantOf s t
  let s := modCnt s n fun x => { x with qparks := satAdd 32 x.qparks 1 }
  let s := setTen s { s.d.ten with parked := s.d.ten.parked ++ [(t, c, y, u)] }
  wait s t .quota ((missB s n c y u).getD 3) k

/-- A tenant has a parked thread. -/
def tenantParked (s : State) (n : Nat) : Bool := s.d.ten.parked.any fun p => tenantOf s p.1 == n

/-- The charge can be made at once: it fits and nothing of the tenant is parked before it (R396). -/
def chargeFits (s : State) (t c y u : Nat) : Bool :=
  !tenantParked s (tenantOf s t) && (missB s (tenantOf s t) c y u).isNone

/-- A thread leaves its QUOTA park: its place goes and the time is counted (R159, R398). -/
def unparkCharge (s : State) (t : Nat) : State :=
  if s.d.ten.parked.any fun p => p.1 == t then
    let us := (s.clk.refNs - (th s t).sinceRef) / 1000
    modCnt (setTen s { s.d.ten with parked := s.d.ten.parked.filter fun p => p.1 != t }) (tenantOf s t)
      fun x => { x with qparkUs := satAdd 64 x.qparkUs us }
  else s

/-- The parked charges in order of parking; the first of a tenant that does not fit ends that tenant's service (R396). -/
def serveCharges : List (Nat × Nat × Nat × Nat) → List Nat → State → State
  | [], _, s => s
  | (t, c, y, u) :: l, stop, s =>
    let n := tenantOf s t
    if stop.contains n then
      serveCharges l stop (modTh s t fun x => { x with arg := (missB s n c y u).getD 3 })
    else match missB s n c y u with
      | some b => serveCharges l (n :: stop) (modTh s t fun x => { x with arg := b })
      | none =>
        let k := (th s t).cont
        let s := toReady (makeCharge (unparkCharge s t) t c y u) t
        serveCharges l stop (modTh s t fun x => { x with charged := x.charged || k = .charged })

/-- Parameters of a tenant are recorded: retained at once, in force from the next millisecond boundary, with FILL or not (R71, R394, R395). -/
def recordQuota (s : State) (n : Nat) (q : Quota) (fill : Bool) : State :=
  let s := commit { s with ret := { s.ret with more := { s.ret.more with quota := mset Quota.none s.ret.more.quota n q } } }
  setTen s { s.d.ten with due := s.d.ten.due ++ [(n, fill, s.clk.now, q)] }

/-- The retained parameters are those in force; no bucket has a balance yet (R394, R397, R404). -/
def loadQuotas (s : State) : State := setTen s { s.d.ten with force := s.ret.more.quota, due := [], bal := [] }

/-- At a millisecond boundary of CHR_NOW the parameters that QUOTA_SET recorded before it take effect (R395). -/
def applyQuota (s : State) (now : Nat) : State :=
  let s' := (s.d.ten.due.filter fun d => d.2.2.1 < now).foldl (fun s d =>
    let q := d.2.2.2
    let o := quotaOf s d.1
    let s := [0, 1, 2].foldl (fun s b =>
      let k := quotaAt q b
      let v := if !k.en then 0 else if !(quotaAt o b).en || d.2.1 then k.cap else min (balOf s d.1 b) k.cap
      setBal s d.1 b v) s
    setTen s { s.d.ten with force := mset Quota.none s.d.ten.force d.1 q }) s
  setTen s' { s'.d.ten with due := s.d.ten.due.filter fun d => !decide (d.2.2.1 < now) }

/-- Tenants with a bucket in force. -/
def quotaTenants (s : State) : List Nat := s.d.ten.force.map Prod.fst

/-- REFILL: every enabled bucket, then the parked charges (R396). -/
def refill (s : State) : State :=
  let s := (quotaTenants s).foldl (fun s n => [0, 1, 2].foldl (fun s b =>
    let k := quotaAt (quotaOf s n) b
    if k.en then setBal s n b (min k.cap (balOf s n b + k.rate)) else s) s) s
  serveCharges s.d.ten.parked [] s

/-- At the end of KINDLE every enabled bucket starts at its CAP (R397). -/
def fillBuckets (s : State) : State :=
  let s := loadQuotas s
  (quotaTenants s).foldl (fun s n => [0, 1, 2].foldl (fun s b =>
    if (quotaAt (quotaOf s n) b).en then setBal s n b (quotaAt (quotaOf s n) b).cap else s) s) s

/-- A command of a context ends with CLASS 0x10 or above (R398). -/
def countErr (s : State) (c cls : Nat) : State :=
  if 0x10 ≤ cls then modCnt s (bindOf s c).tenant fun x => { x with errs := satAdd 32 x.errs 1 } else s

end Sys2Proof.Machine
end

