-- ==== Sys2Proof/Machine/MapInstr.lean ====
section
/-! DEFINITION. Anvil map and billet-lock instructions, and the commit of a staging slot (R189 to R192, R211 to R222). -/
namespace Sys2Proof.Machine
open Sys2Proof

/-- The mode executes data opcodes (R59): RUN, and BANKED entry, during which the mode is RUN. -/
def dataMode (s : State) : Bool := mode s == mRun

/-- VLBN (R131 steps 3, 4, 5, 6; R189): with C the mode, also for a command that a drain turns away (R62), and the VOLUME field;
without C permission and range. -/
def vlbn (s : State) (t : Nat) (a b : Nat) (c src : Bool) : W64 :=
  let v := a % 2 ^ 16
  if c then
    if !dataMode s || (isHost t && (cx s t).late) then svWord 0x13 0x02 none
    else if 8191 < v then svWord 0x11 0x04 none
    else 0
  else
    let e := volEnt s (v % 8192)
    let n := bits a 32 32
    if 8191 < v || volState e = 0 || (!isSys s t && !(bindOf s t).vols.contains v) then svWord 0x13 0x01 none
    else if volState e = 2 then svWord 0x13 0x05 none
    else if 256 * volSize e ≤ b + n then svWord 0x12 (b2n src) none
    else BitVec.ofNat 64 (256 * volBase e + b)

def execVlbn (t rd rs1 rs2 : Nat) (c src : Bool) (s : State) : Res :=
  anvil s t (aw 0x50 rd rs1 rs2 (b2n c + 2 * b2n src) 0) (retire s t rd (vlbn s t (gn s t rs1) (gn s t rs2) c src))

/-- MLOOK and MGEN (R189, R190): permission, then the lookup; `errs` are errors that arise in held copies (R237). -/
def execMlook (t rd rs1 : Nat) (errs : List (Nat × MErr)) (s : State) : Res :=
  anvil s t (aw 0x51 rd rs1 0 0 0) <|
    if mayLbn s t (gn s t rs1) then look (spoil s errs) t rd (localLbn s (gn s t rs1)) false 0 else raise s t 2 1

def execMgen (t rd rs1 : Nat) (errs : List (Nat × MErr)) (s : State) : Res :=
  anvil s t (aw 0x52 rd rs1 0 0 0) <|
    if mayLbn s t (gn s t rs1) then look (spoil s errs) t rd (localLbn s (gn s t rs1)) true 0 else raise s t 2 1

/-- A new write generation (R189, R427): greater than every one given before by this module or its partner; the reserved block
grows by 2^24 when it is used up. -/
def takeGen (s : State) : Nat × State :=
  let g := max s.map.genNext (s.map.genPeer + 1)
  (g, { s with map := { s.map with genNext := g + 1
                                   genCeil := if s.map.genCeil ≤ g then g + 2 ^ 24 else s.map.genCeil } })

/-- The next generation may be used: in a pair the partner has acknowledged the HB that reserved its block (R427). -/
def genReady (s : State) : Bool := !mirrors s || decide (max s.map.genNext (s.map.genPeer + 1) < s.map.genAck)

/-- MGNEW (R189); it does not issue before its value may be used (R427). -/
def execMgnew (t rd : Nat) (s : State) : Res :=
  act (issues s t (aw 0x53 rd 0 0 0 0) && genReady s) s (retire (takeGen s).2 t rd (BitVec.ofNat 64 (takeGen s).1))

def slotOf (s : State) (t n : Nat) : Slot := mget Slot.empty (th s t).slots n
def setSlot (s : State) (t n : Nat) (x : Slot) : State :=
  modTh s t fun y => { y with slots := mset Slot.empty y.slots n x }

/-- A staged location that names no place a COARSE or FINE entry can take: the entry is skipped and counted (R216). -/
def noPlace : Nat := 2 ^ 64

/-- What MSET stages as the location (R189, R216): the location word, or with WB the write-buffer frame. A handle of no write-buffer buffer and a
frame past the buffer name no place: R191 gives them no outcome (DESIGN CHOICE, log 145). -/
def stagedLoc (s : State) (act : Act) (wb : Bool) (w frame : Nat) : Nat :=
  if !wb then w else
  match bufAt s w with
  | some b =>
    if act = .coarse then (if b.wb && b.pool = 3 && frame = 0 then wbFrame b 0 + 4 * 2 ^ 48 else noPlace)
    else if b.wb && frame < frames b.pool then wbFrame b frame + 4 * 2 ^ 48 else noPlace
  | none => noPlace

def actOf (n : Nat) : Act :=
  match n with
  | 0 => .fine | 1 => .coarse | 2 => .unmap | _ => .zero

/-- MSET (R189, R191): a second entry for an LBN replaces the first, in a full slot too; on a full slot any other MSET is discarded. A COARSE
entry and one for the first block of its billet stand side by side (DESIGN CHOICE, log 145, for both). -/
def execMset (t rd rs1 rs2 frame slot act_ : Nat) (rel wb : Bool) (s : State) : Res :=
  act (issues s t (aw 0x54 rd rs1 rs2 (immLt slot 4 + 4 * immLt act_ 4 + 16 * b2n rel + 32 * b2n wb) (immLt frame 256))) s <|
    let lbn := gn s t rs1
    if !mayLbn s t lbn then raise s t 2 1
    else if wb && !holds s t (gn s t rs2) then raise s t 1 4
    else if isSys s t && lcapBlocks s ≤ localLbn s lbn then adv s t
    else
      let lbn := localLbn s lbn
      let a := actOf act_
      let l := if a = .coarse then lbn / 256 * 256 else lbn
      let e : Staged := ⟨l, a, stagedLoc s a wb (gn s t rs2) frame, wb, gn s t rd, rel⟩
      let x := slotOf s t slot
      let rest := x.ents.filter fun y => !(y.lbn = l && (y.act = .coarse) = (a = .coarse))
      if 256 ≤ rest.length then adv (setSlot s t slot { x with full := true }) t
      else adv (setSlot s t slot { x with ents := rest ++ [e] }) t

/-- The journal entry of a staged entry, with SKIP decided by its test (R215, R216, R219, R220 step 3). -/
def entOf (s : State) (e : Staged) : JEnt :=
  let i := e.lbn / 256
  let b := loadBil s i
  let kd := bits e.loc 48 3
  let mk := fun a tgt ok => (⟨e.lbn, a, e.rel, !ok, e.gen, tgt⟩ : JEnt)
  match e.act with
  | .coarse =>
    let relOk := !e.rel || (mapLe s (aCoarseGen + 8 * i) 8 = e.gen && b.pba.isSome)
    if e.loc = noPlace then mk .coarse 0 false
    else if kd = 4 then mk .coarse (2 ^ 33 + bits e.loc 0 48 / 256) (relOk && bits e.loc 0 48 % 256 = 0)
    else match ppaPba s (bits e.loc 0 48) with
      | some p => mk .coarse p relOk
      | none => mk .coarse 0 false
  | a =>
    let ok := !e.rel || b.genOf (e.lbn % 256) = e.gen
    match a, kd with
    | .unmap, _ => mk .unmap 0 ok
    | .zero, _ => mk .zero 0 ok
    | _, 0 => if e.loc = noPlace then mk .fine 0 false else mk .unmap 0 ok
    | _, 1 => mk .zero 0 ok
    | _, 4 => mk .fine (bits e.loc 0 20 + 4 * 2 ^ 44) ok
    | _, _ => mk .fine (bits e.loc 0 44 + 3 * 2 ^ 44) ok

/-- Chunks and groups a record needs beyond those its billets have (R211). -/
def overlayNeed (s : State) (es : List JEnt) : Nat × Nat :=
  let f := es.filter fun e => e.act != .coarse && !e.skip
  let ov := fun i => coState (coarseWord s i) = 3 || coState (coarseWord s i) = 4
  let ch := (f.map fun e => (e.lbn / 256, e.lbn % 256 / 8)).dedup.filter fun p =>
    !(ov p.1 && bit (grpChunk s (coOv (coarseWord s p.1)) p.2) 31)
  (ch.length, ((f.map fun e => e.lbn / 256).dedup.filter fun i => !ov i).length)

/-- The overlay has room for a record of this thread, or the record has its space: host threads may not use the reserve (R211). -/
def overlayRoom (s : State) (t : Nat) (es : List JEnt) : Bool :=
  let n := overlayNeed s es
  let rc := if isSys s t then 0 else 2 ^ 20
  let rg := if isSys s t then 0 else 2 ^ 16
  (s.map.ovl.any fun e => e.1 = 2 ^ 64 + t)
    || ((n.1 = 0 || getF s MAP_OVL_CHUNKS + n.1 + rc ≤ 2 ^ 28) && (n.2 = 0 || getF s MAP_OVL_GROUPS + n.2 + rg ≤ 2 ^ 24))

/-- A record of the thread has its overlay space (R220 step 2) and waits for tail space (step 4). -/
def keepSpace (s : State) (t : Nat) (es : List JEnt) : State :=
  if s.map.ovl.any fun e => e.1 = 2 ^ 64 + t then s else overUpdate (reserveOverlay s (2 ^ 64 + t) (overlayNeed s es))

/-- The first device LBN of a thread's command, for the unit of a record (R134, R218). -/
def cmdFirst (s : State) (t : Nat) : Nat :=
  let b := (cx s t).block
  256 * volBase (volEnt s (blkField b 4 2 % 8192)) + blkField b 8 8

/-- Opcodes that commit journal records: their RESULT is a bitmap of units (R119, R135). -/
def unitsOpc (o : Nat) : Bool := [2, 3, 4, 8, 9].contains o

/-- The parts of a cascaded command at its master, and those that hold blocks of unit `u` (R449). -/
def partsOf (s : State) (c : Nat) : List CPart := mget [] s.x.cas.parts c
def unitParts (s : State) (c u : Nat) : List CPart :=
  (partsOf s c).filter fun x => decide (x.off < 256 * u + 256) && decide (256 * u < x.off + x.nblk)

/-- Unit `u` of a cascaded command has committed, as far as its master has heard: a unit on two positions with its intent, which follows the
last READY; another one in its part's end, or here as its record commits (R450). -/
def unitIn (s : State) (c u : Nat) : Bool :=
  let l := unitParts s c u
  if 1 < (l.map (·.pos)).dedup.length then l.all fun x => x.ready.contains u
  else l.all fun x => match x.done with
    | some e => bit e.result u
    | none => x.pos = s.boot.cas && x.sent && bit (th s c).units u

/-- A cascaded command reaches its commit point when the last of all its units has committed (R135; DEDUCED, log 138). -/
def commitWhole (s : State) (c : Nat) : State :=
  let l := partsOf s c
  let n := (l.map fun x => x.off + x.nblk).foldl max 0
  if !l.isEmpty && unitsOpc (opcOf s c) && (List.range (ceilDiv n 256)).all (unitIn s c) then modCx s c fun y => { y with commit := true }
  else s

/-- What a committed record of a thread does beside the map: units, COMMIT with LAST, the unit's reservation (R135, R325). -/
def commitEffects (s : State) (r : JRec) : State :=
  if isHost r.thread then
    let s := modTh s r.thread fun x => { x with units := x.units ||| 2 ^ r.unit }
    let s := if !(partsOf s r.thread).isEmpty then commitWhole s r.thread else if r.last then modCx s r.thread fun c => { c with commit := true } else s
    let n := ((r.ents.map fun e => if e.act = .coarse then 256 else 1).sum)
    let w := ((r.ents.filter fun e => e.act = .coarse || e.act = .fine).map fun e => if e.act = .coarse then 256 else 1).sum
    { s with md := { s.md with reserved := mset 0 s.md.reserved r.thread (mget 0 s.md.reserved r.thread - n)
                               bytesH := s.md.bytesH + w } }
  else s

/-- A record whose conditions of R28 hold: committed and applied in one update, then readers that waited on its billets go
on, and the thread that waits in MCOMMIT goes READY with NSKIP (R220 steps 6 to 8, R221). -/
def commitApply (s : State) (j : Nat) : State :=
  match s.map.recs.find? (fun r => r.jseq = j) with
  | none => s
  | some r =>
    if r.applied then s else
    wakeWindow (commitRec (commitEffects s r) j)

/-- The thread that waits in MCOMMIT for record `j` goes on. -/
def wakeCommit (s : State) (r : JRec) : State :=
  if r.typ != .map then s else
  match (th s r.thread).cont with
  | .commit rd _ _ => if (th s r.thread).why = .dma then releaseWith s r.thread rd (BitVec.ofNat 64 r.nskip) else s
  | _ => s

/-- A record awaits the partner's acknowledgement (R220 step 5). -/
def awaitAck (s : State) (j : Nat) : State :=
  { s with map := { s.map with acks := s.map.acks ++ [j], sentAt := mset 0 s.map.sentAt j s.clk.refNs } }

/-- A record takes its place in the journal with the overlay space it needs, or was given under `k` (R211, R220 steps 2 and 4 to 8): the thread
waits for the partner, or the record commits. -/
def placeOne (s : State) (r : JRec) (k : Nat) : JRec × Bool × State :=
  let (r, s) := append s r
  let s := if s.map.ovl.any fun e => e.1 = k then moveOverlay s k r.jseq
    else overUpdate (reserveOverlay s r.jseq (overlayNeed s r.ents))
  if mirrors s then (r, true, awaitAck s r.jseq)
  else (r, false, commitApply s r.jseq)

/-- A checkpoint round starts with its ROUND record, which a CHECKPOINT thread appends (R225 step 1). -/
def startRound (s : State) : State :=
  if s.map.round.isSome then s else
  let n := (match s.ck.newest with | some r => r.num | none => 0) + 1
  let t := (threadsWhere s fun t x => !isHost t && x.role = 8 && x.st != .idle).head?.getD 0x1FFF
  let (r, _, s) := placeOne s ⟨.round, [], 0, ⟨0, 0⟩, 0, t, 0, 0, 0, false, 0, 0, false, false⟩ 0
  let s := setF s MAP_CKPT_ACTIVE 1
  { s with map := { s.map with round := some (n, r.jseq, none), roundAt := s.clk.now } }

/-- CHECKPOINT threads may begin a round (R229, R439), and the tail ring has room for its ROUND record (R227). -/
def mayRound (s : State) : Bool := inMode s [mRun, mService] && s.map.toLoad.isEmpty && s.map.round.isNone && ringRoom s 64

/-- A journal past half its limit starts a round (R229). -/
def halfFull (s : State) : State := if mayRound s && getF s MAP_JCTL_JLIM_GIB * 2 ^ 29 ≤ sinceStart s then startRound s else s

/-- A record takes its place; one that brings the journal to half its limit starts a round (R229). -/
def placeRec (s : State) (r : JRec) (k : Nat) : JRec × Bool × State :=
  let (r, w, s) := placeOne s r k
  (r, w, halfFull s)

/-- Offset and whole length in blocks of the command whose part thread `t` runs (R449). -/
def partOf (s : State) (t : Nat) : Nat × Nat :=
  match mget none s.x.cas.here t with
  | some v => (v % 2 ^ 16, v / 2 ^ 16)
  | none => (0, blkField (cx s t).block 16 4 + 1)

/-- Blocks of unit `u` of the command lie on another position (R450). -/
def spansUnit (s : State) (t u : Nat) : Bool :=
  let (off, tot) := partOf s t
  let n := blkField (cx s t).block 16 4 + 1
  (mget none s.x.cas.here t).isSome && !(decide (off ≤ 256 * u) && decide (min (256 * u + 256) tot ≤ off + n))

/-- The record of a thread's entries, for unit `u` of its command (R218). -/
def unitRec (s : State) (t u : Nat) (last : Bool) (es : List JEnt) : JRec :=
  let c := cx s t
  ⟨.map, es, 0, ⟨0, 0⟩, (es.filter (·.skip)).length, t, if isHost t then c.seq else 0,
    if isHost t then c.tag else 0, if isHost t then u % 64 else 0, last, 0, 0, false, false⟩

/-- Steps 3 to 7 of R220 for entries whose checks passed and for which there is room: whether the thread has to wait, and the record.
A part's record of a unit that spans positions is held, and READY reported (R450). -/
def commitEnts (s : State) (t u : Nat) (last : Bool) (es : List JEnt) : Bool × JRec × State :=
  let r := unitRec s t u last es
  let s := if last && isHost t then modTh s t fun x => { x with lastMade := true } else s
  if isHost t && spansUnit s t u then
    let s := { s with keep := { s.keep with held := s.keep.held ++ [(t, u % 64, r)] } }
    let k := 2 ^ 65 + 64 * t + u % 64
    let s := if s.map.ovl.any fun e => e.1 = 2 ^ 64 + t then moveOverlay s (2 ^ 64 + t) k else overUpdate (reserveOverlay s k (overlayNeed s es))
    let s := if mirrors s then send s (jrecMsg r) else s
    (true, r, send s (.cascade 0 2 [t, u % 64, s.boot.cas]))
  else match placeRec s r (2 ^ 64 + t) with
    | (r, w, s) => (w, r, s)

/-- A staging slot is committed: the unit is that of its lowest block. -/
def commitSlot (s : State) (t rd slot : Nat) (last : Bool) (es : List JEnt) : State :=
  let u := ((partOf s t).1 + (((es.map fun e => sysLbn s e.lbn).foldl min (2 ^ 48)) - cmdFirst s t)) / 256
  match commitEnts (setSlot s t slot Slot.empty) t u last es with
  | (true, _, s) => advWait s t .dma (0x100 + slot) (.commit rd slot last)
  | (false, r, s) => retire s t rd (BitVec.ofNat 64 r.nskip)

/-- The map lines that a commit reads: the coarse entries of its billets, the generations that relocations test, and the chunk words of
blocks that take fine entries. -/
def commitLines (s : State) (es : List Staged) : List Nat :=
  (es.flatMap fun e =>
    let i := e.lbn / 256
    let w := coarseWord s i
    let ov := coState w = 3 || coState w = 4
    (aCoarse + 8 * i) / 64
      :: (if !e.rel then [] else if e.act = .coarse then [(aCoarseGen + 8 * i) / 64] else lookLines s e.lbn true)
      ++ (if ov && e.act != .coarse then [(aGroup + 256 * coOv w + 64 + 4 * (e.lbn % 256 / 8)) / 64] else [])).dedup

/-- A commit's reads meet the errors of held copies, and in DRAM those of a line that no slice holds: whether one is uncorrectable (R23, R249,
R272). -/
def commitErrs (s : State) (es : List Staged) : Bool × State :=
  (commitLines s es).foldl (fun p l =>
    if (slice p.2 (l % 4)).has l then
      match mget .ok (slice p.2 (l % 4)).errs l with
      | .ok => p
      | .corr => (p.1, loseCopy p.2 l false)
      | _ => (true, loseCopy p.2 l true)
    else match dramCheck p.2 (64 * l) 64 .ok 1 with
      | (b, s) => (p.1 || b, s)) (false, s)

/-- MCOMMIT (R191, R211, R220); `errs` are errors that arise in held copies (R237). -/
def execMcommit (t rd slot : Nat) (last : Bool) (errs : List (Nat × MErr)) (s : State) : Res :=
  act (issues s t (aw 0x55 rd 0 0 (immLt slot 4 + 4 * b2n last) 0)) s <|
    let s := spoil s errs
    let x := slotOf s t slot
    if !isSys s t && (th s t).lastMade then retire s t rd (svWord 0xF3 0 none)
    else if x.full then retire (setSlot s t slot Slot.empty) t rd (svWord 0xF4 0 none)
    else if !(x.ents.all fun e => (th s t).locks.any fun l => l.1 = e.lbn / 256) then retire s t rd (svWord 0xF2 0 none)
    else if x.ents.isEmpty then retire s t rd 0
    else
      let (bad, s) := commitErrs s x.ents
      if bad then raise s t 0 4 else
      let es := x.ents.map (entOf s)
      if !overlayRoom s t es then
        advWait (addSat s MAP_OVL_WAIT_COUNT 1) t .dma (0x100 + slot) (.commit rd slot last)
      else if !ringRoom s (64 + 24 * es.length) then advWait (keepSpace s t es) t .dma (0x100 + slot) (.commit rd slot last)
      else commitSlot s t rd slot last es

/-- A commit that waited for overlay or tail space goes on when there is room (R211, R220 step 4); its reads may meet an error (R249). -/
def retryCommit (s : State) (t : Nat) : State :=
  match (th s t).cont with
  | .commit rd slot last =>
    let x := slotOf s t slot
    let es := x.ents.map (entOf s)
    if (th s t).why != .dma || x.ents.isEmpty || !overlayRoom s t es then s
    else if !ringRoom s (64 + 24 * es.length) then keepSpace s t es
    else
      let (bad, s) := commitErrs s x.ents
      if bad then lookFault s t else
      let pc := (th s t).pc
      let n := (th s t).issued
      let m := (th s t).runIssued
      let s := commitSlot (modTh s t fun y => { y with st := .running }) t rd slot last es
      let s := modTh s t fun y => { y with pc := pc, issued := n, runIssued := m }
      if (th s t).st = .running then toReady s t else s
  | _ => s

/-- MDROP and MREL (R189, R190). -/
def execMdrop (t slot : Nat) (s : State) : Res :=
  act (issues s t (aw 0x56 0 0 0 (immLt slot 4) 0)) s (adv (setSlot s t slot Slot.empty) t)

def execMrel (t : Nat) (s : State) : Res :=
  anvil s t (aw 0x57 0 0 0 0 0) (adv (serveBufs (modTh s t fun x => { x with held := [] })) t)

/-! ### Billet locks (R155, R166, R192, R232) -/

/-- The thread that holds a billet's lock. -/
def lockHolder (s : State) (i : Nat) : Option Nat :=
  (s.thr.find? fun e => e.2.locks.any fun l => l.1 = i).map Prod.fst

/-- The range lock of a RANGE record covers the billet (R232). -/
def inRange (s : State) (i : Nat) : Bool :=
  match s.map.rangeLock with
  | some (a, n) => a ≤ i && i < a + n
  | none => false

/-- A thread takes the lock of a billet now. -/
def takeLock (s : State) (t i : Nat) : State :=
  modTh s t fun x => { x with locks := x.locks ++ [(i, s.clk.refNs)] }

/-- Threads that wait for a billet's lock, in order of request. -/
def lockWaiters (s : State) (i : Nat) : List Nat := byArrival s fun x => x.why = .lock && x.arg = i

/-- A billet is free: its longest waiter takes the lock (R155, R192). -/
def grantLock (s : State) (i : Nat) : State :=
  if (lockHolder s i).isSome || inRange s i then s else
  match lockWaiters s i with
  | [] => s
  | t :: _ => toReady (takeLock s t i) t

/-- Release one lock of a thread. -/
def dropLock (s : State) (t i : Nat) : State :=
  grantLock (modTh s t fun x => { x with locks := x.locks.filter fun l => l.1 != i }) i

/-- LOCKB (R167, R192). -/
def execLockb (t rs1 : Nat) (s : State) : Res :=
  anvil s t (aw 0x60 0 rs1 0 0 0) <|
    let i := localBil s (gn s t rs1)
    if (th s t).locks.any (fun l => i ≤ l.1) then raise s t 1 5
    else if 8 ≤ (th s t).locks.length then raise s t 1 6
    else if !mayLbn s t (256 * gn s t rs1) then raise s t 2 1
    else if (lockHolder s i).isSome || inRange s i then advWait s t .lock i .nothing
    else adv (takeLock s t i) t

/-- UNLOCK (R167, R192). -/
def execUnlock (t rs1 : Nat) (s : State) : Res :=
  anvil s t (aw 0x61 0 rs1 0 0 0) <|
    let i := localBil s (gn s t rs1)
    if (th s t).locks.any (fun l => l.1 = i) then adv (dropLock s t i) t else raise s t 1 8

end Sys2Proof.Machine
end

