-- ==== Sys2Proof/Machine/MediaOps.lean ====
section
/-! DEFINITION. Bands, spares, the stripes-in-flight journal, space and health thresholds (R306 to R336, R347, R348). -/
namespace Sys2Proof.Machine
open Sys2Proof

/-! ### The media change ring (R318) -/

/-- A change of the media region: recorded in the ring, mirrored, and made (R318). -/
def ringPut (s : State) (a : Nat) (b : List Byte) : State :=
  let s := { s with ring := s.ring ++ [(a, b)] }
  dramWr (if mirrors s then send s (.pair 5 (a :: b.map (·.toNat))) else s) a b

/-- A change recorded in the ring that changes retained tables only (R338, R357, R366). -/
def ringNote (s : State) : State := ringPut s aBand []

/-- The ring is full (R318). -/
def ringFull (s : State) : Bool := 131072 ≤ s.ring.length

/-! ### Band entries (R310) -/

def bRefresh (e : Nat) : Bool := bit e 3
def bWithdrawn (e : Nat) : Bool := bit e 4
def bECount (e : Nat) : Nat := bits e 8 24
def bOwner (e : Nat) : Nat := bits e 64 13
def bNextPg (e : Nat) : Nat := bits e 77 12

/-- No owner. -/
def noOwner : Nat := 0x1FFF

/-- A band entry changes: SINCE follows a change of STATE, and the change is recorded in the ring (R310, R318). -/
def bandSet (s : State) (b new : Nat) : State :=
  let new := if bits new 0 3 = bandState s b then new else putBits new 96 32 (s.clk.now / 2 ^ 32)
  ringPut s (aBand + 16 * b) (leBytes 16 new)

/-- The band's entry in STATE `st` with this owner. -/
def bandTo (s : State) (b st owner : Nat) : State :=
  bandSet s b (putBits (putBits (bandEnt s b) 0 3 st) 64 13 owner)

/-- Bands of a group, with a group of a reshape having those handed over (R306, R366). -/
def groupBands (s : State) (g : Nat) : List Nat :=
  match group s g with
  | none => []
  | some x =>
    ((List.range (nbe s)).filter fun e => match s.md.reshape with
      | some r => if x.pending then !r.left.contains e else if r.olds.contains g then r.left.contains e else true
      | none => true).map (g * nbe s + ·)

def groupNums (s : State) : List Nat := s.ret.groups.map Prod.fst

/-- Every band there is. -/
def allBands (s : State) : List Nat := (groupNums s).flatMap (groupBands s)

/-- REFRESH := 1 in the band of a page (R323, R347). -/
def setRefresh (s : State) (b : Nat) : State :=
  if bRefresh (bandEnt s b) then s else setBandEnt s b (putBits (bandEnt s b) 3 1 1)

/-! ### Members, failed dies and retired erase blocks (R311, R312, R353) -/

/-- The die is failed: its CH_DIEFAIL bit (R353). -/
def dieFailed (s : State) (die : Nat) : Bool := bit (getF s (CH_DIEFAIL_FAILED (die / 256) (die % 256 / 64))) (die % 64)

/-- The die is fitted: its CH_DIEMAP bit (R280). -/
def dieFitted (s : State) (die : Nat) : Bool := bit (getF s (CH_DIEMAP_FITTED (die / 256) (die % 256 / 64))) (die % 64)

/-- The 32 spare-table entries of a die and plane with their numbers. -/
def spares (s : State) (die plane : Nat) : List (Nat × Nat) :=
  (List.range 32).map fun k => (k, spareEnt s die plane k)

/-- A spare-table entry (R311). -/
def mkSpare (eblk kind band ecount : Nat) : Nat := eblk + 2 ^ 14 * kind + 2 ^ 16 * (band % 2 ^ 20) + 2 ^ 36 * (ecount % 2 ^ 24)

/-- A change of a spare-table entry, recorded in the ring. -/
def setSpare (s : State) (die plane k w : Nat) : State :=
  ringPut s (aSpare + 256 * (4 * die + plane) + 8 * k) (leBytes 8 w)

/-- A member of a band: the ASSIGNED spare's erase block, else the original (R312). -/
def memberBlk (s : State) (die plane b : Nat) : Nat :=
  match (spares s die plane).find? (fun x => bits x.2 14 2 = 2 && bits x.2 16 20 = b) with
  | some x => bits x.2 0 14
  | none => b % nbe s

/-- Where a band's data lies on a die and plane: the member, or a spare retired in the band's service whose data is still mapped (R320;
DEDUCED, log 21). -/
def dataBlk (s : State) (die plane b : Nat) : Nat :=
  match (spares s die plane).find? (fun x => bits x.2 14 2 = 2 && bits x.2 16 20 = b) with
  | some x => bits x.2 0 14
  | none =>
    match (spares s die plane).find? (fun x => bits x.2 14 2 = 3 && bits x.2 16 20 = b && nbe s ≤ bits x.2 0 14) with
    | some x => bits x.2 0 14
    | none => b % nbe s

/-- A program or an erase of the block failed: its spare-table entry is RETIRED, or it is an original that awaits replacement (R311,
R313). -/
def blkFailed (s : State) (die plane eblk : Nat) : Bool :=
  s.keep.retired.contains (die, plane, eblk) || ((spares s die plane).any fun x => bits x.2 14 2 = 3 && bits x.2 0 14 = eblk)

/-- The erase block is RETIRED: it failed, or its band is WITHDRAWN (R312). -/
def blkRetired (s : State) (die plane eblk : Nat) : Bool :=
  blkFailed s die plane eblk
    || (match bandOf s (mkPpa die plane eblk 0 0) with | some b => bWithdrawn (bandEnt s b) | none => false)

/-- Retire an erase block, of band `b` if of one: a spare's own entry becomes RETIRED, an original is RETIRED and takes an entry when it is
replaced (R311, R313, R320, R329). -/
def retireBlk (s : State) (die plane eblk : Nat) (b : Option Nat) : State :=
  if blkFailed s die plane eblk then s else
  match (spares s die plane).find? (fun x => (bits x.2 14 2 = 1 || bits x.2 14 2 = 2) && bits x.2 0 14 = eblk) with
  | some x => setSpare s die plane x.1 (putBits (putBits x.2 14 2 3) 16 20 (b.getD (bits x.2 16 20)))
  | none => { s with keep := { s.keep with retired := s.keep.retired ++ [(die, plane, eblk)] } }

/-- An original that a spare has replaced takes an unused entry as RETIRED (R311, R329). Its erase count is the band's before this return to
FREE, in which no erase of it ended CODE 0. -/
def buryOriginal (s : State) (die plane b : Nat) : State :=
  let e := b % nbe s
  if !s.keep.retired.contains (die, plane, e) then s else
  match (spares s die plane).find? (fun x => bits x.2 14 2 = 0) with
  | some x => setSpare { s with keep := { s.keep with retired := s.keep.retired.erase (die, plane, e) } } die plane x.1
      (mkSpare e 3 b (bECount (bandEnt s b) - 1))
  | none => s

/-- Die and plane pairs of a band's members that are neither RETIRED nor on a failed die (R313, R359). -/
def liveMembers (s : State) (b : Nat) : List (Nat × Nat) :=
  match group s (b / nbe s) with
  | none => []
  | some x => (x.mem.flatMap fun d => (List.range (planes s)).map fun p => (d, p)).filter fun m =>
      !dieFailed s m.1 && !blkRetired s m.1 m.2 (memberBlk s m.1 m.2 b)

/-! ### Health and space (R325, R332, R336, R342) -/

/-- Data billets of one band of a group (R342). -/
def bandBillets (s : State) (x : Group) : Nat := (x.mem.length - x.np) * planes s * geoQ s

/-- Ubil (R325, R342). -/
def ubil (s : State) : Nat :=
  (s.ret.groups.map fun e => match e.2 with
    | some x => if x.st = .offline then 0
        else bandBillets s x * ((groupBands s e.1).filter fun b => !bWithdrawn (bandEnt s b)).length
    | none => 0).sum

/-- RSVBIL: GCRSV bands' worth of every group that counts toward Ubil (R325). -/
def rsvbil (s : State) : Nat :=
  (s.ret.groups.map fun e => match e.2 with
    | some x => if x.st = .offline then 0 else bandBillets s x * getF s HELM_MEDTHR_GCRSV
    | none => 0).sum

/-- AVAIL (R325), negative where space is overdrawn. -/
def availInt (s : State) : Int :=
  256 * ((ubil s : Int) - rsvbil s) - s.md.mapped - ((s.md.reserved.map Prod.snd).sum : Nat)

def avail (s : State) : Nat := (availInt s).toNat

/-- FREE bands of a group. -/
def freeBands (s : State) (g : Nat) : List Nat :=
  (groupBands s g).filter fun b => bandState s b = 0 && !bWithdrawn (bandEnt s b)

/-- LOWFREE (R325). -/
def lowFreeBands (s : State) : Bool := (groupNums s).any fun g => (freeBands s g).length < getF s HELM_MEDTHR_LOW

/-- The fitted dies, CH_DIEMAP's bits, ascending (R280). -/
def fittedDies (s : State) : List Nat :=
  (List.range 128).flatMap fun i =>
    let v := getF s (CH_DIEMAP_FITTED (i / 4) (i % 4))
    if v = 0 then [] else ((List.range 64).filter (bit v)).map (64 * i + ·)

/-- FREE spares over the module (R332). -/
def freeSpares (s : State) : Nat :=
  ((fittedDies s).map fun d => ((List.range (planes s)).map fun p =>
    ((spares s d p).filter fun x => bits x.2 14 2 = 1).length).sum).sum

/-- SPARE_PCT (R332). -/
def sparePct (s : State) : Nat :=
  let n := s.boot.spr * ((fittedDies s).length * planes s)
  if n = 0 then Config.sparePct (freeSpares s) else 100 * freeSpares s / n

/-- The highest band ECOUNT. -/
def ecountMax (s : State) : Nat := ((allBands s).map fun b => bECount (bandEnt s b)).foldl max 0

/-- WEAR_PCT (R332). -/
def wearPct (s : State) : Nat :=
  let n := getF s HELM_MEDCFG_ENDUR
  if n = 0 then Config.wearPct (ecountMax s) else min 255 (100 * ecountMax s / n)

/-- The thresholds of R336: one signal and one event for each crossing of each. -/
def healthCheck (s : State) : State :=
  let sp := sparePct s
  let we := wearPct s
  let lo := decide (sp < getF s HELM_HTHR_SPARE_LO)
  let hi := decide (getF s HELM_HTHR_WEAR_HI < we)
  let tell := fun (on : Bool) (s : State) => if on then event (logEv s 0 8 [sp, we]) 5 else s
  tell (hi && !s.md.wearHigh) (tell (lo && !s.md.spareLow) { s with md := { s.md with spareLow := lo, wearHigh := hi } })

/-! ### The stripes-in-flight journal (R347, R348) -/

def sifAt (s : State) (i : Nat) : Option Sif := mget none s.sif i

/-- CRC-16, polynomial 0x1021, from zero, most significant bit first (R348; DEDUCED, log 120). -/
def crc16 (b : List Byte) : Nat :=
  b.foldl (fun c x => (List.range 8).foldl (fun c _ => if 2 ^ 15 ≤ c then (2 * c % 2 ^ 16) ^^^ 0x1021 else 2 * c) (c ^^^ (x.toNat * 2 ^ 8))) 0

/-- The 16 bytes of a journal entry (R348); a free one is zeros under its CHK. -/
def sifBytes (x : Option Sif) : List Byte :=
  let b := match x with
    | some y => leBytes 8 (y.band + 2 ^ 20 * y.plane + 2 ^ 22 * y.page + 2 ^ 34 * y.st + 2 ^ 36 * b2n y.wide + 2 ^ 37 * b2n y.compat
        + 2 ^ 38 * (if y.st = 1 then y.slot else 0) + 2 ^ 43 * y.quad) ++ leBytes 4 y.prog ++ leBytes 2 0
    | none => leBytes 14 0
  b ++ leBytes 2 (crc16 b)

/-- A SIF message: the entry's number and its two words (R425). -/
def sifMsg (i : Nat) (x : Option Sif) : Msg := .pair 4 [i, leNat ((sifBytes x).take 8), leNat ((sifBytes x).drop 8)]

/-- The state an entry is treated as in: its previous one until the partner acknowledged the change (R349). -/
def sifEff (y : Sif) : Nat := if y.acked then y.st else y.prev

/-- A journal entry changes in one RSM write. In a pair the change is mirrored, and until its acknowledgement the entry counts as
before; one that is freed keeps its number till then (R348, R349). -/
def setSif (s : State) (i : Nat) (x : Option Sif) : State :=
  if mirrors s then
    let old := sifAt s i
    let was := match old with | some y => sifEff y | none => 0
    let new := match x with
      | some y => some { y with acked := false, prev := was }
      | none => old.map fun y => { y with st := 0, acked := false, prev := was }
    send { s with sif := mset none s.sif i new } (sifMsg i x)
  else { s with sif := mset none s.sif i (x.map fun y => { y with acked := true, prev := y.st }) }

/-- Entry numbers that satisfy a test, those freed left out. -/
def sifWhere (s : State) (p : Sif → Bool) : List Nat :=
  (s.sif.filter fun e => match e.2 with | some x => x.st != 0 && p x | none => false).map Prod.fst

/-- The stripe of an entry becomes ORPHAN and its band takes REFRESH (R347). -/
def orphan (s : State) (i : Nat) : State :=
  match sifAt s i with
  | none => s
  | some x => if x.st = 3 || x.st = 0 then s else
    addSat (setRefresh (setSif s i (some { x with st := 3 })) x.band) PAR_JSTAT_ORPHANED 1

/-- Every OPEN and CLOSING stripe of a band becomes ORPHAN (R347). -/
def orphanBand (s : State) (b : Nat) : State := (sifWhere s fun x => x.band = b).foldl orphan s

/-- A band leaves OPEN for FULL (R313): SHORT as given, its unfinished stripes orphaned. -/
def toFull (s : State) (b : Nat) (short : Bool) : State :=
  let e := putBits (putBits (bandEnt s b) 0 3 2) 64 13 noOwner
  let s := bandSet s b (if short then putBits e 5 1 1 else e)
  if short then orphanBand s b else s

/-! ### FREE again (R313, R329, R330, R362) -/

/-- One RETIRED member is replaced by the FREE spare of its die and plane with the lowest ECOUNT, then index; without one
the band is WITHDRAWN (R329, R330). -/
def replaceMember (s : State) (b die plane : Nat) : State :=
  if dieFailed s die || bWithdrawn (bandEnt s b) || !blkFailed s die plane (memberBlk s die plane b) then s else
  match argMin (fun x : Nat × Nat => bits x.2 36 24 * 64 + x.1) ((spares s die plane).filter fun x => bits x.2 14 2 = 1) with
  | some x => buryOriginal (setSpare s die plane x.1 (putBits (putBits x.2 14 2 2) 16 20 b)) die plane b
  | none => event (logEv (bandSet s b (putBits (bandEnt s b) 4 1 1)) 0 7 [b]) 5

/-- Every RETIRED member of a band is replaced. -/
def replaceMembers (s : State) (b : Nat) : State :=
  match group s (b / nbe s) with
  | none => s
  | some x => (x.mem.flatMap fun d => (List.range (planes s)).map fun p => (d, p)).foldl
      (fun s m => replaceMember s b m.1 m.2) s

/-- The spare-table counts of the members of a band rise with the band's (R313). -/
def countMembers (s : State) (b : Nat) : State :=
  (liveMembers s b).foldl (fun s m =>
    match (spares s m.1 m.2).find? (fun x => bits x.2 14 2 = 2 && bits x.2 16 20 = b) with
    | some x => setSpare s m.1 m.2 x.1 (putBits x.2 36 24 (bits x.2 36 24 + 1))
    | none => s) s

/-- A redirect entry goes once every band that was not FREE when it was made has been erased (R362); that change of the table is recorded in
the ring (R338). -/
def redirErased (s : State) (b : Nat) : State :=
  let rs := (s.ret.redirs.map fun r => { r with left := r.left.filter (· != b) }).filter fun r => !r.left.isEmpty
  if rs = s.ret.redirs then s else
  let n := commit { s with ret := { s.ret with redirs := rs } }
  if rs.length = s.ret.redirs.length then n else ringPut n aBand []

/-- ERASING to FREE: ECOUNT rises, REFRESH and SHORT clear, retired members are replaced (R313, R329). -/
def bandFree (s : State) (b : Nat) : State :=
  let e := bandEnt s b
  let e := putBits (putBits (putBits (putBits e 0 3 0) 3 1 0) 5 1 0) 64 13 noOwner
  let e := putBits e 8 24 (min (bECount e + 1) (2 ^ 24 - 1))
  let s := countMembers (bandSet s b (putBits e 77 12 0)) b
  let s := { s with md := { s.md with erased := s.md.erased.filter fun x => x.1 != b, leaving := srem b s.md.leaving } }
  healthCheck (redirErased (replaceMembers s b) b)

/-- An ERASING band whose every live member has ended CODE 0 becomes FREE (R313). -/
def tryFree (s : State) (b : Nat) : State :=
  if bandState s b = 4 && (liveMembers s b).all (fun m => s.md.erased.contains (b, m.1, m.2)) then bandFree s b else s

/-- An ORPHAN entry is freed; an accumulator still held for its stripe belongs to no entry from then on, whatever stripe takes the number
(R347). -/
def freeOrphan (s : State) (i : Nat) : State :=
  setSif { s with md := { s.md with accs := s.md.accs.map fun e =>
    (e.1, e.2.map fun a => if a.sif = i then { a with sif := 4096 } else a) } } i none

/-- An ERASING band is entered: its ORPHAN entries are freed and no erase counts yet (R313, R347). -/
def enterErasing (s : State) (b : Nat) : State :=
  let s := (sifWhere s fun x => x.band = b && x.st = 3).foldl freeOrphan s
  { s with md := { s.md with erased := s.md.erased.filter fun x => x.1 != b, leaving := srem b s.md.leaving } }

/-! ### Programs and erases that end (R313, R320, R345) -/

/-- A page of a member has been programmed: its first slot is listed. -/
def pageProgrammed (s : State) (die plane eblk page : Nat) : Bool :=
  (s.md.flash.find? fun e => e.1 = mkPpa die plane eblk page 0).isSome

/-- The lowest page from `p` on that is not programmed on every live member (NEXTPG, R310). -/
def nextPage (s : State) (b : Nat) : Nat → Nat → Nat
  | 0, p => p
  | n + 1, p =>
    if (liveMembers s b).all fun m => pageProgrammed s m.1 m.2 (memberBlk s m.1 m.2 b) p then nextPage s b n (p + 1) else p

/-- NEXTPG follows the programs of an OPEN band; once page PAGES − 1 is programmed on every member the band is FULL (R310, R313). -/
def bandProgress (s : State) (b : Nat) : State :=
  if bandState s b != 1 then s
  else if (liveMembers s b).all fun m => pageProgrammed s m.1 m.2 (memberBlk s m.1 m.2 b) (pages s - 1) then toFull s b false
  else setBandEnt s b (putBits (bandEnt s b) 77 12 (nextPage s b (pages s - bNextPg (bandEnt s b)) (bNextPg (bandEnt s b))))

/-- The position of a die in its group, a failed die keeping its position. -/
def posOf (x : Group) (die : Nat) : Option Nat := x.mem.findIdx? (· = die)

/-- The die that stands in a group for `die`, through every spare that followed it (R357, R362). -/
def chainEnd (s : State) : Nat → Nat → Nat
  | 0, die => die
  | n + 1, die => match s.ret.redirs.find? fun r => r.old = die with
    | some r => chainEnd s n r.new
    | none => die

/-- The member position of a PPA's die: its own, or that of the die which replaced it (R357). -/
def memberPos (s : State) (x : Group) (die : Nat) : Option Nat :=
  match posOf x die with
  | some k => some k
  | none => posOf x (chainEnd s 8 die)

/-- Parity positions of a stripe (R341). -/
def parityPos (x : Group) (e : Nat) : List Nat :=
  let w := x.mem.length
  if w = 0 then [] else if x.np = 2 then [e % w, (e % w + 1) % w] else [e % w]

/-- The journal entry of a stripe: its own, or a WIDE one of its band, which stands for every plane; one freed counts until the partner has
acknowledged that (R343, R348, R349, R354). -/
def sifOf (s : State) (b plane page : Nat) : Option (Nat × Sif) :=
  let ix := (s.sif.filterMap fun e => e.2.map fun x => (e.1, x)).filter fun e =>
    sifEff e.2 != 0 && e.2.band = b && ((!e.2.wide && e.2.plane = plane && e.2.page = page) || (e.2.wide && e.2.page ≤ page))
  ix.head?

/-- A program of a member page ended (R345): CODE 0 sets its PROG bit, the last parity page of a CLOSING entry frees it, a
parity page's failure makes it ORPHAN. -/
def sifProgram (s : State) (b die plane page : Nat) (ok : Bool) : State :=
  match sifOf s b plane page, group s (b / nbe s) with
  | some (i, y), some x =>
    match memberPos s x die with
    | none => s
    | some k =>
      let par := parityPos x (b % nbe s)
      if y.st = 3 || y.st = 0 || y.wide then s
      else if !ok then (if par.contains k then orphan s i else s)
      else
        let y := { y with prog := y.prog ||| 2 ^ k, parDone := if par.contains k then y.parDone + 1 else y.parDone }
        if sifEff y = 2 && par.all (fun k => bit y.prog k) then setSif s i none else setSif s i (some y)
  | _, _ => s

/-- The partner acknowledged an entry's change: it takes effect, and a CLOSING entry whose parity pages have all ended is freed (R345,
R349). -/
def sifAck (s : State) (i : Nat) : State :=
  match sifAt s i with
  | none => s
  | some y =>
    let s := { s with sif := mset none s.sif i (if y.st = 0 then none else some { y with acked := true, prev := y.st }) }
    match group s (y.band / nbe s) with
    | some x => if y.st = 2 && (parityPos x (y.band % nbe s)).all (fun k => bit y.prog k) then setSif s i none else s
    | none => s

/-- No acknowledgement is awaited any more: every entry stands as it was last written. -/
def sifSettled (l : NMap (Option Sif)) : NMap (Option Sif) :=
  (l.filter fun e => match e.2 with | some y => y.st != 0 | none => false).map fun e =>
    (e.1, e.2.map fun y => { y with acked := true, prev := y.st })

/-- A PROGRAM strike of `m` planes ended CODE 0: contents, NEXTPG, stripes (R308, R313, R345). -/
def programOk (s : State) (ppa m : Nat) (got : NMap (List Byte)) : State :=
  let s := (List.range (8 * m)).foldl (fun s i =>
    let a := mkPpa (ppaDie ppa) (ppaPlane ppa + i / 8) (ppaEblk ppa) (ppaPage ppa) (i % 8)
    { s with md := { s.md with flash := mset [] s.md.flash a (mget [] got i) } }) s
  let s := { s with md := { s.md with bytesW := s.md.bytesW + 8 * m } }
  (List.range m).foldl (fun s i =>
    match bandOf s (mkPpa (ppaDie ppa) (ppaPlane ppa + i) (ppaEblk ppa) (ppaPage ppa) 0) with
    | some b => bandProgress (sifProgram s b (ppaDie ppa) (ppaPlane ppa + i) (ppaPage ppa) true) b
    | none => s) s

/-- A PROGRAM strike ended PROG_FAIL: its erase blocks are retired, the band FULL, SHORT and REFRESH (R320). -/
def programFail (s : State) (ppa m : Nat) : State :=
  let s := errIncCh s (ppaChan ppa) 11 1
  let bs := ((List.range m).filterMap fun i =>
    bandOf s (mkPpa (ppaDie ppa) (ppaPlane ppa + i) (ppaEblk ppa) (ppaPage ppa) 0)).dedup
  let s := (List.range m).foldl (fun s i =>
    match bandOf s (mkPpa (ppaDie ppa) (ppaPlane ppa + i) (ppaEblk ppa) (ppaPage ppa) 0) with
    | some b => retireBlk (sifProgram s b (ppaDie ppa) (ppaPlane ppa + i) (ppaPage ppa) false) (ppaDie ppa)
                  (ppaPlane ppa + i) (ppaEblk ppa) (some b)
    | none => retireBlk s (ppaDie ppa) (ppaPlane ppa + i) (ppaEblk ppa) none) s
  let s := bs.foldl (fun s b =>
    let s := if bandState s b = 1 then toFull s b true else s
    setRefresh s b) s
  healthCheck (logEv s 0 6 [ppa])

/-- Contents of an erase block go. -/
def eraseContents (s : State) (die plane eblk : Nat) : State :=
  let lo := mkPpa die plane eblk 0 0
  { s with md := { s.md with flash := s.md.flash.filter fun e => !(lo ≤ e.1 && e.1 < lo + 2 ^ 15) } }

/-- An ERASE strike of `m` planes ended CODE 0 (R313). -/
def eraseOk (s : State) (ppa m : Nat) : State :=
  (List.range m).foldl (fun s i =>
    let p := ppaPlane ppa + i
    let s := eraseContents s (ppaDie ppa) p (ppaEblk ppa)
    match bandOf s (mkPpa (ppaDie ppa) p (ppaEblk ppa) 0 0) with
    | some b =>
      if bandState s b = 4 then
        tryFree { s with md := { s.md with erased := (b, ppaDie ppa, p) :: s.md.erased } } b
      else s
    | none => s) s

/-- An ERASE strike ended ERASE_FAIL: its erase blocks are retired (R313, R333). -/
def eraseFail (s : State) (ppa m : Nat) : State :=
  let s := errIncCh s (ppaChan ppa) 12 1
  let s := (List.range m).foldl (fun s i =>
    match bandOf s (mkPpa (ppaDie ppa) (ppaPlane ppa + i) (ppaEblk ppa) 0 0) with
    | some b => tryFree (retireBlk s (ppaDie ppa) (ppaPlane ppa + i) (ppaEblk ppa) (some b)) b
    | none => retireBlk s (ppaDie ppa) (ppaPlane ppa + i) (ppaEblk ppa) none) s
  healthCheck s

/-! ### A thread goes IDLE (R317, R347) -/

/-- Accumulator slots of a stripe's serial are freed. -/
def freeAccs (s : State) (serial : Nat) : State :=
  { s with md := { s.md with accs := s.md.accs.filter fun e => match e.2 with | some a => a.serial != serial | none => true } }

/-- A strike of the thread on the band is still at its sequencer. -/
def strikeOnBand (s : State) (b : Nat) : Bool :=
  s.ch.strikes.any fun e => match e.2 with
    | some k => k.cls = 2 && k.phase != .finish && bandOf s k.ppa = some b
    | none => false

/-- An ERASING band whose owner went IDLE returns to GC_SOURCE with OWNER none once its strikes have ended (R313). -/
def unownedErase (s : State) (b : Nat) : State :=
  if bandState s b = 4 && s.md.leaving.contains b && !strikeOnBand s b then
    bandTo { s with md := { s.md with leaving := srem b s.md.leaving } } b 3 noOwner
  else s

/-- The helm releases what an idle thread owned: bands, request slot, open stripes (R317, R347). -/
def idleRelease (s : State) (t : Nat) : State :=
  let s := (s.md.accs.filterMap fun e => e.2.bind fun a => if a.t = t then some (a.serial, a.sif) else none).foldl
    (fun s x => freeAccs (orphan s x.2) x.1) s
  let s := ((allBands s).filter fun b => bOwner (bandEnt s b) = t && bandState s b != 0).foldl (fun s b =>
    match bandState s b with
    | 1 => toFull s b true
    | 3 => bandTo s b 3 noOwner
    | 4 => unownedErase { s with md := { s.md with leaving := sins b s.md.leaving } } b
    | _ => s) s
  if isHost t then s else dramWr s (aSlots + 16 * (t - 4096)) (leBytes 16 0)

end Sys2Proof.Machine
end

