-- ==== Sys2Proof/Machine/ParityOps.lean ====
section
/-! DEFINITION. Parity groups, die failure, redirects, GF(2^8) parity and its solution, stripes in the accumulators
(R338 to R363). -/
namespace Sys2Proof.Machine
open Sys2Proof

/-! ### GF(2^8) (R341) -/

/-- Times x, reduced by 0x11D. -/
def gfX (a : Nat) : Nat := if 128 ≤ a then (2 * a) ^^^ 0x11D else 2 * a

/-- The product in GF(2^8) with reduction polynomial 0x11D. -/
def gfMul (a b : Nat) : Nat :=
  ((List.range 8).foldl (fun (r : Nat × Nat) i => (if bit b i then r.1 ^^^ r.2 else r.1, gfX r.2)) (0, a)).1

/-- g^n with g = 2. -/
def gfPow (n : Nat) : Nat := (List.range n).foldl (fun a _ => gfX a) 1

/-- The inverse: the 254th power. -/
def gfInv (a : Nat) : Nat := (List.range 254).foldl (fun r _ => gfMul r a) 1

/-- Byte-wise sum and product over information parts. -/
def xorB (a b : List Byte) : List Byte := List.zipWith (· ^^^ ·) a b
def scaleB (c : Nat) (a : List Byte) : List Byte := a.map fun x => BitVec.ofNat 8 (gfMul c x.toNat)

/-- An information part of zeros (R308). -/
def zeroPart : List Byte := List.replicate 4160 0

/-- The data index of member `k` (R341). -/
def dataIdx (x : Group) (e k : Nat) : Nat := ((List.range k).filter fun j => !(parityPos x e).contains j).length

/-! ### Group states (R351, R352) -/

/-- The group table changes in RSM, recorded in the ring (R338). -/
def setGroup (s : State) (g : Nat) (x : Option Group) : State :=
  ringNote (commit { s with ret := { s.ret with groups := mset none s.ret.groups g x } })

/-! ### The QUENCH budget (R413) -/

/-- Fitted dies, in the inventory or unused (R338), neither failed nor members of an OFFLINE group. -/
def duDies (s : State) : List Nat :=
  let off := s.ret.groups.flatMap fun e => match e.2 with | some g => if g.st = .offline then g.mem else [] | none => []
  (s.ret.inv.dies ++ s.md.unused.filter fun d => !s.ret.inv.dies.contains d).filter fun d =>
    dieFitted s d && !dieFailed s d && !off.contains d

/-- The largest four-plane program time that their parameter pages declare, in ns. -/
def tprogMax (s : State) : Nat := ((duDies s).map fun d => mget 0 (s.md.tprog.getD []) d).foldl max 1

/-- A channel's rate code in units of 100 MB/s (R279). -/
def rateMb (c : Nat) : Nat := [0, 8, 16, 24, 32, 36, 40, 48].getD c 0

/-- Rf in bytes per second (R413). -/
def rfBytes (s : State) : Nat :=
  let prog := 7 * (duDies s).length * 131072 * 10 ^ 9 / (10 * tprogMax s)
  let ch := 7 * (((List.range 32).filter fun n => !s.boot.chOff.contains n && !flag s (CH_STAT_FAILED n)).map fun n =>
    rateMb (getF s (CH_STAT_RATE n))).sum * 10 ^ 7
  min (30 * 10 ^ 9) (min prog ch)

/-- PWR_QBUD after discovery and after every change of Du; a short budget is announced once (R413). With Rf = 0, or past the field's
16 bits, no value is stated (DESIGN CHOICE, log 20). -/
def qbudUpdate (s : State) : State :=
  if s.md.tprog.isNone then s else
  let rf := rfBytes s
  let t := 50 + ceilDiv (getF s BUF_WB_CUR * 2 ^ 29 * 1000) rf
  let ms := if rf = 0 || 65535 < t then Config.qbudMs rf else t
  let short := decide (rf < 30 * 10 ^ 9)
  let was := flag s PWR_QBUD_SHORT
  let s := setF (setF (setF s PWR_QBUD_BUD_MS ms) PWR_QBUD_RATE (rf / 10 ^ 8)) PWR_QBUD_SHORT (b2n short)
  if short && !was then event (logEv s 12 4 []) 5 else s

/-- A group changes: an event and vector 5 with each transition of R352. -/
def groupTo (s : State) (g : Nat) (x : Group) (st : GSt) : State :=
  let s' := setGroup s g (some { x with st := st })
  let s' := if st = .offline && x.st != .offline then
      setF (setF (setF s' PAR_OFFLOG_GROUP g) PAR_OFFLOG_VALID 1) PAR_OFFSTAMP_NOW s.clk.now else s'
  qbudUpdate (event (logEv s' 9 0 [g, gstCode x.st, gstCode st]) 5)

/-- The group, if any, of which a die is a member. -/
def groupsOf (s : State) (die : Nat) : List Nat :=
  (s.ret.groups.filter fun e => match e.2 with | some x => x.mem.contains die | none => false).map Prod.fst

/-- Open and closing stripes of a group whose P or Q lies on a position become ORPHAN (R347). -/
def orphanPos (s : State) (g : Nat) (x : Group) (k : Nat) : State :=
  (sifWhere s fun y => y.band / nbe s = g && (parityPos x (y.band % nbe s)).contains k).foldl orphan s

/-- The spare the helm takes for a lost position: on a channel no other member uses, the failed die's own channel first, then
the lowest global index (R357). -/
def pickSpare (s : State) (x : Group) (k : Nat) : Option Nat :=
  let old := x.mem.getD k 0
  let used := ((List.range x.mem.length).filter (· != k)).map fun j => x.mem.getD j 0 / 256
  let ok := s.ret.spares.filter fun d => !used.contains (d / 256)
  match argMin id (ok.filter fun d => d / 256 = old / 256) with
  | some d => some d
  | none => argMin id ok

/-- Assign a spare to the lowest lost position of a group (R357); none where AUTOSPARE, the limit of 16 or the pool forbids. -/
def assignSpare (s : State) (g : Nat) : Option State :=
  match group s g with
  | none => none
  | some x =>
    let running := (s.ret.groups.filter fun e => match e.2 with
      | some y => y.st = .rebuilding && e.1 != g | none => false).length
    match argMin id x.lost with
    | none => none
    | some k =>
      if !flag s PAR_CFG_AUTOSPARE || 16 ≤ running || 256 ≤ s.ret.redirs.length then none
      else match pickSpare s x k with
      | none => none
      | some d =>
        let busy := (groupBands s g).filter fun b => bandState s b != 0 && !bWithdrawn (bandEnt s b)
        let r : Redir := ⟨x.mem.getD k 0, d, g, busy, false⟩
        let s := { s with ret := { s.ret with spares := s.ret.spares.filter (· != d), redirs := s.ret.redirs ++ [r] } }
        some (groupTo s g { x with mem := x.mem.set k d, kreb := k, rebuilt := [] } .rebuilding)

/-- A member die of a group fails: the position is lost, or, where the position was being rebuilt, stays the same loss and
takes another spare or leaves the group DEGRADED (R352, R362). -/
def memberFail (s : State) (g die : Nat) : State :=
  match group s g with
  | none => s
  | some x =>
    match posOf x die with
    | none => s
    | some k =>
      if x.st = .rebuilding && x.kreb = k then
        let s := orphanPos s g x k
        let x' := { x with rebuilt := [] }
        match assignSpare { s with ret := { s.ret with groups := mset none s.ret.groups g (some x') } } g with
        | some s' => s'
        | none => groupTo s g x' .degraded
      else if x.lost.contains k then s
      else
        let x' := { x with lost := sins k x.lost }
        let s := orphanPos s g x k
        if x.st = .offline then setGroup s g (some x')
        else if x.np < x'.lost.length then groupTo s g x' .offline
        else match x.st with
          | .healthy => groupTo s g x' .degraded
          | .reshaping => setGroup s g (some x')
          | st => groupTo s g x' st

/-- A die becomes failed (R353); a band whose other members have all been erased is then FREE (R359). -/
def dieFail (s : State) (die : Nat) : State :=
  if dieFailed s die then s else
  let f := CH_DIEFAIL_FAILED (die / 256) (die % 256 / 64)
  let s := setC s f (putBits (getF s f) (die % 64) 1 1)
  let s := ringNote { s with ret := { s.ret with spares := s.ret.spares.filter (· != die) } }
  let s := event (logEv (commit s) 9 1 [die]) 5
  let s := qbudUpdate ((groupsOf s die).foldl (fun s g => memberFail s g die) s)
  ((groupsOf s die).flatMap (groupBands s)).foldl tryFree s

/-- One more failed strike of a die in this watch (R353). -/
def dieError (s : State) (die : Nat) : State :=
  let n := min 255 (mget 0 s.ch.errw die + 1)
  let s := { s with ch := { s.ch with errw := mset 0 s.ch.errw die n } }
  if getF s PAR_CFG_DFTHR ≤ n then dieFail s die else s

/-! ### Redirects (R358) -/

/-- A band is rebuilt for the redirect's position: on the spare that the redirects of its die end at, also once the group is OFFLINE (R357,
R358, R362). -/
def rebuiltFor (s : State) (r : Redir) (b : Nat) : Bool :=
  r.full || (match group s r.group with
    | some x => x.rebuilt.contains (b % nbe s) && x.mem.getD x.kreb 0 = chainEnd s 8 r.new
    | none => false)

/-- One application of the redirect table to a PPA. -/
def redirStep (s : State) (ppa : Nat) : Option Nat :=
  (s.ret.redirs.find? fun r => r.old = ppaDie ppa &&
    (match (if ppaEblk ppa < nbe s then some (r.group * nbe s + ppaEblk ppa)
            else spareBand s r.old (ppaPlane ppa) (ppaEblk ppa)) with
     | some b => rebuiltFor s r b
     | none => false)).map fun r =>
  let b := if ppaEblk ppa < nbe s then r.group * nbe s + ppaEblk ppa
    else (spareBand s r.old (ppaPlane ppa) (ppaEblk ppa)).getD 0
  mkPpa r.new (ppaPlane ppa) (dataBlk s r.new (ppaPlane ppa) b) (ppaPage ppa) (ppaSlot ppa)

/-- The redirect table as STRIKE applies it at issue (R358): an entry for a spare that failed in its turn follows (R362). -/
def redirect (s : State) : Nat → Nat → Nat
  | 0, ppa => ppa
  | n + 1, ppa => match redirStep s ppa with
    | some p => redirect s n p
    | none => ppa

/-! ### Rebuilding slots (R354) -/

/-- What a slot of a member page holds, where it was programmed. -/
def slotPart (s : State) (die plane eblk page slot : Nat) : Option (List Byte) :=
  (s.md.flash.find? fun e => e.1 = mkPpa die plane eblk page slot).map Prod.snd

/-- The accumulator of a stripe that counts as OPEN (R349). -/
def accOf (s : State) (b plane page : Nat) : Option ParAcc :=
  (s.md.accs.filterMap Prod.snd).find? fun a => match sifAt s a.sif with
    | some y => sifEff y = 1 && y.band = b && y.plane = plane && y.page = page
    | none => false

/-- A member's data of index `e` is lost with its die: the die is failed, or its position is lost and the band not rebuilt there (R351,
R354). -/
def onFailedDie (s : State) (x : Group) (e j : Nat) : Bool :=
  dieFailed s (x.mem.getD j 0) || (x.lost.contains j && !(x.kreb = j && x.rebuilt.contains e))

/-- The rule of R354 that decides a lost slot: its group is OFFLINE; it is LOST; the stripe is OPEN, with its accumulator; the
stripe's other members are read. With the group, the band's index and the lost position. -/
inductive RebRule
  | offline
  | lost
  | acc (a : ParAcc) (x : Group) (e k : Nat)
  | read (x : Group) (e k : Nat)

/-- R354 up to rule 4, for a slot of this page. -/
def rebRule (s : State) (ppa : Nat) : RebRule :=
  match bandOf s ppa with
  | none => .lost
  | some b =>
    match group s (b / nbe s) with
    | none => .lost
    | some x =>
      let pl := ppaPlane ppa
      let pg := ppaPage ppa
      if x.st = .offline then .offline
      else match memberPos s x (ppaDie ppa) with
      | none => .lost
      | some k =>
        if pg < geoRp s then .lost
        else if (match sifOf s b pl pg with | some (_, y) => sifEff y = 3 || y.wide | none => false) then .lost
        else match accOf s b pl pg with
        | some a => if bit a.added k then .acc a x (b % nbe s) k else .lost
        | none => if (sifOf s b pl pg).any fun y => sifEff y.2 = 1 then .lost else .read x (b % nbe s) k

/-- The members whose slot is read for the rebuild: those added where the stripe is OPEN, else all others; none on a failed die
(R354). -/
def membersRead (s : State) (ppa : Nat) : List Nat :=
  match rebRule s ppa with
  | .acc a x _ k => (List.range x.mem.length).filter fun j => bit a.added j && j != k && !dieFailed s (x.mem.getD j 0)
  | .read x _ k => (List.range x.mem.length).filter fun j => j != k && !dieFailed s (x.mem.getD j 0)
  | _ => []

/-- A member read's outcome: as `reads` lists it, else HARD_OK without a corrected bit. -/
def mreadAt (reads : List MRead) (slot j : Nat) : MRead :=
  (reads.find? fun r => r.slot = slot && r.member = j).getD ⟨slot, j, 0, 0⟩

/-- How a lost slot ends: PARITY_OK with its contents, LOST, or OFFLINE; `off` where the group becomes OFFLINE by rule 5. -/
inductive Rebuilt
  | ok (part : List Byte)
  | lost
  | offline
  | goOffline
  deriving DecidableEq, Repr

/-- The parts that the lost members of a stripe had: `known` gives each member's part, `lost` the members without. One lost
data member is solved from P, or from Q where P is lost; two from P and Q (R341, R354). -/
def solve (x : Group) (e k : Nat) (lost : List Nat) (known : Nat → List Byte) : List Byte :=
  let w := x.mem.length
  let par := parityPos x e
  let p0 := par.getD 0 0
  let q0 := par.getD 1 w
  let datas := (List.range w).filter fun j => !par.contains j && !lost.contains j
  let sumP := datas.foldl (fun a j => xorB a (known j)) zeroPart
  let sumQ := datas.foldl (fun a j => xorB a (scaleB (gfPow (dataIdx x e j)) (known j))) zeroPart
  let lostData := lost.filter fun j => !par.contains j
  -- the parts of lost data members, as (member, part)
  let sol : List (Nat × List Byte) := match lostData with
    | [] => []
    | [a] =>
      if !lost.contains p0 then [(a, xorB sumP (known p0))]
      else [(a, scaleB (gfInv (gfPow (dataIdx x e a))) (xorB sumQ (known q0)))]
    | a :: b :: _ =>
      let ga := gfPow (dataIdx x e a)
      let gb := gfPow (dataIdx x e b)
      let p := xorB sumP (known p0)
      let q := xorB sumQ (known q0)
      -- Da + Db = p; ga Da + gb Db = q
      let da := scaleB (gfInv (ga ^^^ gb)) (xorB q (scaleB gb p))
      [(a, da), (b, xorB p da)]
  let allP := sol.foldl (fun a d => xorB a d.2) sumP
  let allQ := sol.foldl (fun a d => xorB a (scaleB (gfPow (dataIdx x e d.1)) d.2)) sumQ
  if k = p0 then allP else if k = q0 then allQ
  else match sol.find? (fun d => d.1 = k) with | some d => d.2 | none => zeroPart

/-- What slot `slot` of member `j`'s page of the same stripe holds, where it was programmed. -/
def memberPart (s : State) (x : Group) (ppa slot j : Nat) : Option (List Byte) :=
  match x.mem[j]?, bandOf s ppa with
  | some d, some b => slotPart s d (ppaPlane ppa) (dataBlk s d (ppaPlane ppa) b) (ppaPage ppa) slot
  | _, _ => none

/-- R354 for slot `slot` of a lost member page; `bad` lists the other members whose read of that slot does not decode. -/
def rebuildSlot (s : State) (ppa slot : Nat) (bad : List Nat) : Rebuilt :=
  let part := fun (x : Group) (j : Nat) => memberPart s x ppa slot j
  let gone := fun (x : Group) (j : Nat) => dieFailed s (x.mem.getD j 0) || bad.contains j || (part x j).isNone
  match rebRule s ppa with
  | .offline => .offline
  | .lost => .lost
  | .acc a x e k =>
    -- rule 3: the accumulator's P, or P and Q, take the place of the parity pages
    let lost := (List.range x.mem.length).filter fun j => bit a.added j && (j = k || gone x j)
    let accP := (a.p.drop (4160 * slot)).take 4160
    let accQ := (a.q.drop (4160 * slot)).take 4160
    let par := parityPos x e
    let known := fun j => if j = par.getD 0 x.mem.length then accP else if j = par.getD 1 x.mem.length then accQ
      else if bit a.added j then (part x j).getD zeroPart else zeroPart
    if x.np < lost.length then .lost else .ok (solve x e k lost known)
  | .read x e k =>
    let lost := (List.range x.mem.length).filter fun j => j = k || gone x j
    if lost.length ≤ x.np then .ok (solve x e k lost fun j => (part x j).getD zeroPart)
    else if (x.st = .degraded || x.st = .rebuilding || x.st = .reshaping)
        && (dieFailed s (ppaDie ppa) || lost.any (onFailedDie s x e)) then .goOffline
    else .lost

/-- The stripe is CLOSING: the rebuild waits for its parity programs (R354 rule 4). -/
def rebuildWaits (s : State) (ppa : Nat) : Bool :=
  match bandOf s ppa with
  | some b => (match sifOf s b (ppaPlane ppa) (ppaPage ppa) with | some (_, y) => y.st = 2 || sifEff y = 2 | none => false)
  | none => false

/-- The member reads of a slot's rebuild are counted by outcome and channel, with the read-retry walks that `walks` says they take, and set
REFRESH as every read does; an erased slot does neither (R300, R322, R323, R333, R334, R354). -/
def countMember (s : State) (x : Group) (ppa : Nat) (walks : Bool) (r : MRead) : State :=
  let s := if walks && (r.code = 2 || r.code = 4) then errInc (addSat s (CH_RETRY_WALKS (x.mem.getD r.member 0 / 256)) 1) 4 1 else s
  let s' := match r.code with
    | 0 => errInc (errInc s 0 1) 1 r.bits
    | 1 => errInc s 2 1
    | 2 => errInc s 3 1
    | 4 => errIncCh s (x.mem.getD r.member 0 / 256) 9 1
    | _ => s
  if r.code = 1 || r.code = 2 || r.code = 4 || (r.code = 0 && getF s HELM_MEDTHR_RBER < r.bits) then
    match bandOf s ppa with | some b => setRefresh s' b | none => s'
  else s'

/-- Every member read of the slot, where the page's group is known. -/
def countReads (s : State) (ppa slot : Nat) (walks : Bool) (reads : List MRead) : State :=
  match rebRule s ppa with
  | .acc _ x _ _ | .read x _ _ => (membersRead s ppa).foldl (fun s j => countMember s x ppa walks (mreadAt reads slot j)) s
  | _ => s

/-- The group of a page goes OFFLINE (R354 rule 5, R363). -/
def pageOffline (s : State) (ppa : Nat) : State :=
  match bandOf s ppa with
  | none => s
  | some b => match group s (b / nbe s) with
    | some x => if x.st = .offline then s else groupTo s (b / nbe s) x .offline
    | none => s

/-! ### Rebuild onto a spare (R357, R361) -/

/-- A band of a REBUILDING group is marked rebuilt, and with it every WITHDRAWN one (R361; DEDUCED, log 121); when MARK reaches NBE the
position is whole again. -/
def markRebuilt (s : State) (b : Nat) : State :=
  let g := b / nbe s
  match group s g with
  | none => s
  | some x =>
    if x.st != .rebuilding then s else
    let gone := (List.range (nbe s)).filter fun e => bWithdrawn (bandEnt s (g * nbe s + e))
    let x' := { x with rebuilt := gone.foldl (fun l e => sins e l) (sins (b % nbe s) x.rebuilt) }
    if nbe s ≤ x'.rebuilt.length then
      let d := x.mem.getD x.kreb 0
      let rs := (s.ret.redirs.map fun r => if r.group = g && chainEnd s 8 r.new = d then { r with full := true } else r).filter
        fun r => !r.left.isEmpty
      let x' := { x' with lost := srem x.kreb x.lost, rebuilt := [] }
      let s := { s with ret := { s.ret with redirs := rs } }
      if x'.lost.isEmpty then groupTo s g x' .healthy
      else match assignSpare { s with ret := { s.ret with groups := mset none s.ret.groups g (some x') } } g with
        | some s' => s'
        | none => groupTo s g x' .degraded
    else commit { s with ret := { s.ret with groups := mset none s.ret.groups g (some x') } }

/-- An ERASE strike by a REBUILD thread on the spare's member erase block of a FREE band ended CODE 0 (R361). -/
def rebuildErase (s : State) (t ppa m : Nat) : State :=
  if isHost t || (th s t).role != 4 then s else
  (List.range m).foldl (fun s i =>
    match bandOf s (mkPpa (ppaDie ppa) (ppaPlane ppa + i) (ppaEblk ppa) 0 0) with
    | some b =>
      match group s (b / nbe s) with
      | some x => if x.st = .rebuilding && x.mem.getD x.kreb 0 = ppaDie ppa && bandState s b = 0 then markRebuilt s b else s
      | none => s
    | none => s) s

/-! ### PXOPEN (R343) -/

/-- The quadrant of a stripe's accumulator: that of its P channel (R25). -/
def parQuad (x : Group) (e : Nat) : Nat := x.mem.getD ((parityPos x e).getD 0 0) 0 / 256 / 8

/-- Free slots of a quadrant's accumulator. -/
def freeSlots (s : State) (q : Nat) : List Nat := (List.range 32).filter fun i => (mget none s.md.accs (32 * q + i)).isNone

def lowFreeSif (s : State) : Option Nat :=
  (List.range (min 4096 (s.sif.length + 1))).find? fun i => (sifAt s i).isNone

/-- What PXOPEN finds: a refusal, too little room, or the handle with the stripe opened (R343). -/
inductive PxRes
  | invalid
  | full
  | opened (h : Nat) (s : State)

def pxOpen (s : State) (t op : Nat) : PxRes :=
  let g := bits op 0 16
  let e := bits op 16 14
  let pl := bits op 30 2
  let pg := bits op 32 12
  let b := g * nbe s + e
  match group s g with
  | none => .invalid
  | some x =>
    if nbe s ≤ e || bandState s b != 1 || bOwner (bandEnt s b) != t || bWithdrawn (bandEnt s b) || planes s ≤ pl
        || pg < geoRp s || pages s ≤ pg || (sifOf s b pl pg).isSome then .invalid
    else
      let q := parQuad x e
      let fr := freeSlots s q
      let need := if x.np = 2 then 2 else 1
      match lowFreeSif s, fr.take need with
      | some j, a :: rest =>
        if rest.length + 1 < need then .full else
        let ser := (s.md.serial + 1) % 2 ^ 16
        let acc : ParAcc := ⟨t, ser, j, 0, (List.replicate 8 zeroPart).flatten, (List.replicate 8 zeroPart).flatten⟩
        let accs := (a :: rest).foldl (fun m i => mput m (32 * q + i) (some acc)) s.md.accs
        let s := { s with md := { s.md with accs := accs, serial := ser } }
        .opened (a + 32 * q + 2 ^ 32 * ser) (setSif s j (some ⟨b, pl, pg, 1, false, x.np = 2, a, q, 0, 0, true, 0⟩))
      | _, _ => .full

/-- The accumulator a stripe handle names, when this thread opened it: of a compatibility stripe's two slots the handle has the first (R343). -/
def accAt (s : State) (t h : Nat) : Option (Nat × ParAcc) :=
  let i := bits h 0 7
  match mget none s.md.accs i with
  | some a =>
    let first := (s.md.accs.find? fun e => match e.2 with | some z => z.serial = a.serial | none => false).map Prod.fst
    if a.t = t && a.serial = bits h 32 16 && first = some i && bits h 7 25 = 0 && bits h 48 16 = 0 then some (i, a) else none
  | none => none

/-- Threads parked in PXOPEN try again, in order of request, when a slot or a journal entry may have come free (R155, R343). -/
def wakePx (s : State) : State :=
  (byArrival s fun x => x.why = .buffer && (match x.cont with | .pxopen _ _ 0 => true | _ => false)).foldl (fun s t =>
    match (th s t).cont with
    | .pxopen rd g 0 => (match pxOpen s t g with
      | .invalid => releaseWith s t rd (svWord 0x11 0 none)
      | .full => s
      | .opened h s' =>
        if mirrors s then modTh (toReady s' t) t fun x => { x with cont := .pxopen rd h 1 }
        else releaseWith s' t rd (BitVec.ofNat 64 h))
    | _ => s) s

/-- With the partner absent no journal entry awaits an acknowledgement (R349, R428). -/
def sifUnmirrored (s : State) : State := wakePx (s.sif.foldl (fun s e => sifAck s e.1) s)

/-- A write of a granted request takes place: in a band entry VALID and REFRESH stay as records applied and reads made meanwhile have left
them (R316, R323, R324). -/
def landWrite (s : State) (a : Nat) (d : List Byte) : State :=
  if aBand ≤ a && a < aSpare then
    let now := bandEnt s ((a - aBand) / 16)
    dramWr s a (leBytes 16 (putBits (putBits (leNat d) 32 32 (bits now 32 32)) 3 1 (bits now 3 1)))
  else dramWr s a d

/-- The DRAM writes of a granted request take place, and what the grant marks (R316, R361). -/
def landAwait (s : State) : State :=
  match s.md.await with
  | some l =>
    let m := s.md.awaitMark
    let s := l.foldl (fun s e => landWrite s e.1 e.2) { s with md := { s.md with await := none, awaitMark := none } }
    wakePx (match m with | some b => markRebuilt s b | none => s)
  | none => s

end Sys2Proof.Machine
end

