-- ==== Sys2Proof/Machine/ChanOps.lean ====
section
/-! DEFINITION. The 32 sequencers: script entries, the checks of a strike, queues and the choice of the next strike, the bus,
script control, decode results and outcomes (R276 to R303, R322). -/
namespace Sys2Proof.Machine
open Sys2Proof

/-! ### Script entries (R293, R294) -/

def entryRec (s : State) (e : Nat) : Nat := if e < 256 then rdLe s.ch.store (8 * e) 8 else 0
def eStart (s : State) (e : Nat) : Nat := bits (entryRec s e) 0 14
def eCls (s : State) (e : Nat) : Nat := bits (entryRec s e) 16 3
def eValid (s : State) (e : Nat) : Bool := bit (entryRec s e) 19
def eParam (s : State) (e : Nat) : Nat := bits (entryRec s e) 20 4
def eNom (s : State) (e : Nat) : Nat := bits (entryRec s e) 48 16

/-- The read-retry table of an entry, if any. -/
def eRrt (s : State) (e : Nat) : Option Nat :=
  let r := bits (entryRec s e) 24 8
  if eCls s e = 0 && r < 8 then some r else none

/-- An AUX entry, treated as none where it is 0xFF or of the wrong class. -/
def eAux (s : State) (e lo cls : Nat) : Option Nat :=
  let a := bits (entryRec s e) lo 8
  if a != 255 && eValid s a && eCls s a = cls then some a else none

def softEntry (s : State) (e : Nat) : Option Nat := eAux s e 32 4
def retryEntry (s : State) (e : Nat) : Option Nat := eAux s e 40 5
def suspEntry (s : State) (e : Nat) : Option Nat := eAux s e 32 6
def resumeEntry (s : State) (e : Nat) : Option Nat := eAux s e 40 7

/-- A row of a read-retry table (R300). -/
def rrtRow (s : State) (t r : Nat) : Nat := rdLe s.ch.store (0x800 + 256 * t + 8 * r) 8

/-- The number of rows: the index of the first row with VALID = 0. -/
def rrtLen (s : State) (t : Nat) : Nat := ((List.range 32).find? fun r => !bit (rrtRow s t r) 40).getD 32

/-! ### Strikes at their sequencers (R285 to R287) -/

def strikeAt (s : State) (i : Nat) : Option Strike := mget none s.ch.strikes i
def setStrike (s : State) (i : Nat) (k : Option Strike) : State :=
  { s with ch := { s.ch with strikes := mset none s.ch.strikes i k } }

/-- The strikes that satisfy a test, oldest first. -/
def strikesWhere (s : State) (p : Strike → Bool) : List (Nat × Strike) :=
  s.ch.strikes.filterMap fun e => e.2.bind fun k => if p k then some (e.1, k) else none

def Strike.die (k : Strike) : Nat := ppaDie k.ppa
def Strike.chan (k : Strike) : Nat := ppaChan k.ppa

/-- An added member of the OPEN stripe of `ppa` has a PROGRAM strike that has not ended: reads for a rebuild wait for it (R287, R354). -/
def addedRunning (s : State) (ppa : Nat) : Bool :=
  match rebRule s ppa with
  | .acc a x _ k => !(strikesWhere s fun j => j.cls = 1 && j.phase != .finish && ppaPage j.ppa = ppaPage ppa
      && ppaPlane j.ppa ≤ ppaPlane ppa && ppaPlane ppa < ppaPlane j.ppa + max 1 (eParam s j.entry)
      && bandOf s (mkPpa (ppaDie j.ppa) (ppaPlane ppa) (ppaEblk j.ppa) 0 0) = bandOf s ppa
      && (match memberPos s x (ppaDie j.ppa) with | some p => bit a.added p && p != k | none => false)).isEmpty
  | _ => false

/-- A rebuild of the page waits: its stripe is CLOSING, or an added member's PROGRAM strike has not ended (R354 rules 3 and 4). -/
def rebuildHeld (s : State) (ppa : Nat) : Bool := rebuildWaits s ppa || addedRunning s ppa

/-- In progress: from its first script instruction to its END, a READ to the end of its walk (R287, R299). -/
def Strike.inProg (k : Strike) : Bool :=
  k.phase = .script || k.phase = .hard || k.phase = .soft || k.phase = .walk

/-- Planes the strike names. -/
def strikePlanes (s : State) (k : Strike) : Nat := if k.cls = 1 || k.cls = 2 then max 1 (eParam s k.entry) else 1

/-- An erase of one of the strike's erase blocks is in progress or suspended (R285 check 4, R302). -/
def erasingNamed (s : State) (k : Strike) : Bool :=
  s.ch.strikes.any fun e => match e.2 with
    | some x => x.cls = 2 && x.inProg && x.die = k.die && ppaEblk x.ppa = ppaEblk k.ppa
        && ppaPlane x.ppa < ppaPlane k.ppa + strikePlanes s k && ppaPlane k.ppa < ppaPlane x.ppa + strikePlanes s x
    | none => false

/-- The flash drivers of the module are enabled (R277). -/
def drivers (s : State) (ch : Nat) : Bool := flag s (CH_STAT_DRV ch)

/-- Checks 1 and 2 of R285 fail (BADADDR). -/
def badAddr (s : State) (k : Strike) : Bool :=
  255 < k.entry || !eValid s k.entry || 4 ≤ k.cls || bits k.ppa 44 4 != 0 || s.boot.chOff.contains k.chan
    || !dieFitted s k.die || pages s ≤ ppaPage k.ppa || eblks s ≤ ppaEblk k.ppa
    || (k.cls = 0 && (7 < ppaSlot k.ppa + k.nslot || planes s ≤ ppaPlane k.ppa))
    || (k.cls = 1 && (ppaSlot k.ppa != 0 || k.nslot != 7))
    || ((k.cls = 1 || k.cls = 2) && planes s < ppaPlane k.ppa + strikePlanes s k)

/-- Every slot of a READ is LOST; RB then applies (R285 check 3, R298, R299). -/
def Strike.allLost (k : Strike) : Strike :=
  { k with slots := k.slots.map fun c => some (c.getD 4), phase := if k.rb then .rebuild else .finish, script := none, walking := false }

/-- The erase in progress on a die that is not suspended and not being suspended or resumed. -/
def runningErase (s : State) (die : Nat) : Option (Nat × Strike) :=
  (strikesWhere s fun k => k.cls = 2 && k.inProg && k.die = die && k.suspended.isNone && k.frozen.isNone).head?

/-- A foreground READ queued on the die for an erase block that erase `x` does not hold (R301). -/
def readFor (s : State) (x k : Strike) : Bool :=
  k.phase = .queued && k.cls = 0 && k.fg && k.die = x.die
    && !(ppaEblk k.ppa = ppaEblk x.ppa && decide (ppaPlane x.ppa ≤ ppaPlane k.ppa)
      && decide (ppaPlane k.ppa < ppaPlane x.ppa + strikePlanes s x))

/-- Suspension is enabled, the erase's entry names both scripts, and the erase has a suspension left (R301). -/
def mayEverSuspend (s : State) (x : Strike) : Bool :=
  flag s (CH_SUSP_EN x.chan) && (suspEntry s x.entry).isSome && (resumeEntry s x.entry).isSome
    && decide (x.susps < getF s (CH_SUSP_MAXSUSP x.chan))

/-- Foreground READs that find the die's erase not eligible for suspension are counted, each once (R301, CH_SUSPCNT.DENIED). -/
def denyReads (s : State) (die : Nat) : State :=
  match runningErase s die with
  | none => s
  | some (_, x) =>
    if mayEverSuspend s x then s else
    (strikesWhere s fun k => readFor s x k && !k.denied).foldl (fun s k =>
      setStrike (addSat s (CH_SUSPCNT_DENIED x.chan) 1) k.1 (some { k.2 with denied := true })) s

/-- An erase ends: READs of its die for other erase blocks that waited for that are counted, each once, a background READ among them (R301;
DEDUCED, log 142). -/
def denyWaited (s : State) (x : Strike) : State :=
  if x.cls != 2 then s else
  (strikesWhere s fun k => readFor s x { k with fg := true } && !k.denied).foldl (fun s k =>
    setStrike (addSat s (CH_SUSPCNT_DENIED x.chan) 1) k.1 (some { k.2 with denied := true })) s

/-- A strike arrives: the checks of R285, then its queue. -/
def arrive (s : State) (k : Strike) : State :=
  let k := if badAddr s k then { k with phase := .finish, code := 9, slots := [] }
    else if dieFailed s k.die || flag s (CH_STAT_FAILED k.chan) then
      (if k.cls = 0 then k.allLost else { k with phase := .finish, code := 9, slots := [] })
    else if erasingNamed s k then { k with phase := .finish, code := 6, slots := [] }
    else k
  denyReads (setStrike { s with ch := { s.ch with nextId := s.ch.nextId + 1 } } s.ch.nextId (some k)) k.die

/-! ### The choice of R287 and R288 -/

/-- The erase in progress on a die that stands suspended. -/
def suspendedErase (s : State) (die : Nat) : Option (Nat × Strike) :=
  (strikesWhere s fun k => k.cls = 2 && k.inProg && k.die = die && k.suspended.isSome).head?

/-- The die has a strike in progress other than a suspended erase. -/
def dieBusy (s : State) (die : Nat) : Bool :=
  !(strikesWhere s fun k => k.inProg && k.die = die && !(k.cls = 2 && k.suspended.isSome && k.script.isNone)).isEmpty

/-- The strike's thread has been discarded or has ended: in QUENCH it stands behind every foreground strike of its channel (R303). -/
def orphaned (s : State) (k : Strike) : Bool :=
  k.t = 9999 || [TSt.done, .faulted, .idle].contains (th s k.t).st

/-- Queued strikes of a die that may start now: none but READs while its erase is suspended, and none once WINDOW_US has passed; in QUENCH no erase, and those of
discarded threads only behind the channel's foreground strikes (R287, R301, R303). -/
def startable (s : State) (die : Nat) : List (Nat × Strike) :=
  strikesWhere s fun k => k.phase = .queued && k.die = die
    && (match suspendedErase s die with
        | none => true
        | some (_, x) => k.cls = 0 && (mode s == mQuench
            || decide (s.clk.refNs < x.suspended.getD 0 + 1000 * getF s (CH_SUSP_WINDOW_US (die / 256)))))
    && !(mode s == mQuench && k.cls = 2)
    && !(mode s == mQuench && orphaned s k
         && !(strikesWhere s fun j => j.phase = .queued && j.fg && !orphaned s j && j.chan = k.chan).isEmpty)

/-- The strike that a die with none in progress starts next, if any (R287). -/
def choose (s : State) (die : Nat) : Option (Nat × Strike) :=
  if dieBusy s die then none else
  let q := startable s die
  let fg := q.find? fun x => x.2.fg
  let bg := q.find? fun x => !x.2.fg
  let ch := die / 256
  let fgOn := !(strikesWhere s fun k => k.phase = .queued && k.fg && k.chan = ch).isEmpty
  match bg, fg with
  | some b, f =>
    if (ms (getF s (CH_SCHED_AGE_MS ch)) ≤ s.clk.refNs - b.2.at_ || f.isNone)
        && (getF s (CH_BUDGET_USED ch) < getF s (CH_BUDGET_B ch) || !fgOn) then some b else f
  | none, f => f

/-- The dies of a channel with strikes queued. -/
def queuedDies (s : State) (ch : Nat) : List Nat :=
  ((strikesWhere s fun k => k.phase = .queued && k.chan = ch).map fun x => x.2.die).dedup

/-- Strikes in progress on a channel (CH_STAT.INPROG). -/
def inProgOn (s : State) (ch : Nat) : Nat := (strikesWhere s fun k => k.inProg && k.chan = ch).length

/-- A test run holds the channel's strikes (R505); in SAFE it holds nothing. -/
def testHolds (s : State) (ch : Nat) : Bool :=
  match s.x.tst with
  | some x => x.unit = 16 + ch && mode s != mSafe
  | none => false

/-- The next strike a channel starts: foreground choices first, then in order of arrival (R287, R289). -/
def nextStart (s : State) (ch : Nat) : Option (Nat × Strike) :=
  let c := (queuedDies s ch).filterMap (choose s)
  if 64 ≤ inProgOn s ch || testHolds s ch then none else
  match argMin (fun x : Nat × Strike => x.1) (c.filter fun x => x.2.fg) with
  | some x => some x
  | none => argMin (fun x : Nat × Strike => x.1) c

/-! ### The bus (R289) -/

/-- The strike whose script holds the bus of a channel. -/
def busHolder (s : State) (ch : Nat) : Option (Nat × Strike × Script) :=
  (strikesWhere s fun k => k.chan = ch && (match k.script with | some x => x.bus | none => false)).head?.bind fun x =>
    x.2.script.map fun c => (x.1, x.2, c)

def clearBus (s : State) (ch : Nat) : State := { s with ch := { s.ch with bus := mset [] s.ch.bus ch [] } }

/-- The free bus goes to the script whose WAITRDY saw its die ready, foreground first and then in order of becoming ready,
else to a script of a started strike that is about to start or go on, foreground first and then in order of arrival (R289). -/
def grantBus (s : State) (ch : Nat) : State :=
  if (busHolder s ch).isSome then s else
  let rdy := strikesWhere s fun k => k.chan = ch && (match k.script with | some x => x.wait.isSome && x.ready.isSome | none => false)
  let beg := strikesWhere s fun k => k.chan = ch && k.phase = .script && (match k.script with | some x => x.wait.isNone | none => false)
  let rank := fun x : Nat × Strike => (if x.2.fg then 0 else 2 ^ 40) + (match x.2.script with | some y => y.ready.getD 0 | none => 0)
  let pick := match argMin rank rdy with
    | some x => some x
    | none => match argMin (fun x : Nat × Strike => x.1) (beg.filter fun x => x.2.fg) with
      | some x => some x
      | none => argMin (fun x : Nat × Strike => x.1) beg
  match pick with
  | some (i, k) =>
    clearBus (setStrike s i (some { k with script := k.script.map fun x =>
      { x with bus := true, wait := none, ready := none, hold := 0 } })) ch
  | none => s

/-! ### Scripts (R295 to R298) -/

/-- The row address of a strike (R295). -/
def rowAddr (s : State) (k : Strike) : Nat :=
  let c := k.chan
  let pw := getF s (CH_ROWFMT_PAGE_W c)
  let lw := getF s (CH_ROWFMT_PLANE_W c)
  let bw := getF s (CH_ROWFMT_BLK_W c)
  let page := if k.cls = 2 then 0 else ppaPage k.ppa
  (page ||| (ppaPlane k.ppa <<< pw) ||| (ppaEblk k.ppa <<< (pw + lw)) ||| (bits k.ppa 31 4 <<< (pw + lw + bw))) % 2 ^ 32

/-- A script run begins, without the bus; `r` is the row of the walk for RETRY (R295). -/
def beginScript (s : State) (i : Nat) (k : Strike) (job : SJob) (entry r : Nat) : State :=
  let cls := eCls s entry
  let row := match eRrt s k.entry with | some t => rrtRow s t r | none => 0
  let v0 := mset 0 [] 0 (rowAddr s k)
  let col := if k.cls = 0 then ppaSlot k.ppa * getF s (CH_SLOT_SLOTB k.chan) else 0
  let v := mset 0 v0 1 (col % 2 ^ 32)
  let v := if cls = 5 then mset 0 (mset 0 v 3 (bits row 0 8)) 4 (bits row 8 32) else v
  let x : Script := ⟨job, entry, eStart s entry, [], v, false, none, none, none, false, 0, 0, none, none⟩
  setStrike s i (some { k with phase := .script, script := some x })

/-- Die time spent by a script run, in µs, from its first command cycle to its end (CH_MTIME, R288). -/
def spendRun (s : State) (k : Strike) (x : Script) : State :=
  match x.cmdAt with
  | some a => addWrap s (if k.fg then CH_MTIME_FG_COUNT k.chan else CH_MTIME_BG_COUNT k.chan) ((s.clk.refNs - a) / 1000)
  | none => s

/-- A run of a strike ends. A suspension's own runs fall within the erase's run, which ends with one of them only where `last` says so. -/
def spendTime (s : State) (k : Strike) (x : Script) (last : Bool := true) : State :=
  match x.job with
  | .suspend | .resume => if last then (match k.frozen with | some y => spendRun s k y | none => s) else s
  | _ => spendRun s k x

/-- A strike leaves progress for rebuild or its outcome, and the bus is free for another. -/
def leave (s : State) (i : Nat) (k : Strike) (ph : SPhase) : State :=
  grantBus (setStrike (denyWaited s k) i (some { k with phase := ph, script := none, frozen := none, walking := false })) k.chan

/-- The decode steps of a READ end: die-failure count for a read that lost every slot (R353; erased pages do not count,
DEDUCED, log 22), then RB or the outcome. -/
def readDone (s : State) (i : Nat) (k : Strike) : State :=
  let k := { k with slots := k.slots.map fun c => some (c.getD 4) }
  let allLost := !k.slots.isEmpty && k.slots.all fun c => c = some 4
  let lost := k.slots.any fun c => c = some 4 || c = some 20
  let s := leave s i k (if lost && k.rb then .rebuild else .finish)
  if allLost || k.timedOut then dieError s k.die else s

/-- The table a READ walks, with its rows: it has one, a RETRY entry, and the strike does not take LIMIT (R299). -/
def walkTable (s : State) (k : Strike) : Option (Nat × Nat) :=
  match eRrt s k.entry, retryEntry s k.entry with
  | some t, some _ => if k.limit || rrtLen s t = 0 then none else some (t, rrtLen s t)
  | _, _ => none

/-- Slots are still not decoded after soft decode: the walk begins or goes to its next row, or the read ends (R299, R300). -/
def enterWalk (s : State) (i : Nat) (k : Strike) : State :=
  match walkTable s k with
  | none => readDone s i k
  | some (t, n) =>
    if k.walking then
      let r := if k.row + 1 = n then 1 else k.row + 1
      grantBus (setStrike s i (some { k with phase := .walk, script := none, row := r })) k.chan
    else
      let s := errInc (addSat s (CH_RETRY_WALKS k.chan) 1) 4 1
      let r := mget 1 s.ch.lastRow (8 * k.die + t)
      let r := if r = 0 || n ≤ r then 1 else r
      grantBus (setStrike s i (some { k with phase := .walk, script := none, walking := true, row := r, rows := 0 })) k.chan

/-- Every slot decoded: a walk stands before its end, any other read ends (R299, R300). -/
def allDecoded (s : State) (i : Nat) (k : Strike) : State :=
  if k.walking then grantBus (setStrike s i (some { k with phase := .walk, script := none })) k.chan else readDone s i k

/-- After hard decode: soft decode, the walk, or the end (R299). -/
def afterHard (s : State) (i : Nat) (k : Strike) : State :=
  if k.slots.all (·.isSome) then allDecoded s i k
  else match softEntry s k.entry with
  | some e => grantBus (beginScript s i k .soft e 0) k.chan
  | none => enterWalk s i k

/-- A script fault (R298): counted, logged, and the outcome by class. -/
def scriptFault (s : State) (i : Nat) (k : Strike) (x : Script) (word cause : Nat) : State :=
  let c := k.chan
  let s := addSat (spendTime s k x) (CH_ERR_SFAULT c) 1
  let s := setF (setF (setF (setF s (CH_SFLOG_ENTRY c) x.entry) (CH_SFLOG_WORD c) word) (CH_SFLOG_CAUSE c) cause) (CH_SFLOG_VALID c) 1
  let s := logEv s 8 0 [c, x.entry, cause]
  match k.cls with
  | 0 => readDone s i k
  | 2 => leave s i { k with code := 8 } .finish
  | _ => leave s i { k with code := 7 } .finish

/-- END's permitted codes by class (R298). -/
def endOk (cls code : Nat) (dec : Bool) : Bool :=
  match cls with
  | 0 | 4 => (dec && code = 0) || (!dec && code = 4)
  | 5 => !dec && (code = 0 || code = 4)
  | 1 | 3 => !dec && (code = 0 || code = 7)
  | _ => !dec && (code = 0 || code = 8)

/-- The script holding the bus moves on by one instruction, to `pc` (R298 causes 5 and 8 at the next fetch). -/
def stepScript (s : State) (i : Nat) (k : Strike) (x : Script) (pc : Nat) : State :=
  setStrike s i (some { k with script := some { x with pc := pc, hold := x.hold + 1 } })

/-- A word of the script store (R293). -/
def scriptWord (s : State) (pc : Nat) : Nat := rdLe s.ch.store (4 * pc) 4

/-- The script that holds channel `ch`'s bus executes word `w` now. -/
def runsWord (s : State) (ch w : Nat) : Option (Nat × Strike × Script) :=
  match busHolder s ch with
  | some (i, k, x) => if drivers s ch && x.pc < 2 ^ 14 && x.hold < 4096 && scriptWord s x.pc = w then some (i, k, x) else none
  | none => none

/-- A Swage word is defined: its op is in R296, no bit outside its fields is 1, and its fields hold values listed there. -/
def swDefined (w : Nat) : Bool :=
  match bits w 28 4 with
  | 0x0 => bits w 5 23 = 0
  | 0x1 => bits w 8 20 = 0
  | 0x2 => bits w 13 15 = 0 && bits w 3 1 = 0 && bits w 7 1 = 0 &&
      (match bits w 4 3 with
       | 0 => 1 ≤ bits w 0 3 && bits w 0 3 ≤ 2
       | 1 => 1 ≤ bits w 0 3 && bits w 0 3 ≤ 4
       | 2 => 3 ≤ bits w 0 3 && bits w 0 3 ≤ 6
       | 3 => 1 ≤ bits w 0 3 && bits w 0 3 ≤ 4
       | _ => false)
  | 0x3 => bits w 9 19 = 0 && bits w 0 2 ≤ 1
  | 0x4 => bits w 7 21 = 0 && bits w 0 2 ≤ 1
  | 0x5 => bits w 11 17 = 0
  | 0x6 => bits w 8 20 = 0
  | 0x7 => bits w 3 5 = 0 && bits w 17 11 = 0
  | 0x8 => bits w 14 12 = 0 && bits w 26 2 ≤ 2
  | 0x9 => bits w 14 14 = 0
  | 0xA => bits w 0 28 = 0
  | 0xB => true
  | _ => false

/-- A target in the code region (R293, R298). -/
def inCode (a : Nat) : Bool := 0x410 ≤ a && a ≤ 0x3FFF

/-- The fault, if any, that the script holding the bus meets at its next fetch (R298 causes 1, 5 and 8). -/
def fetchFault (s : State) (x : Script) : Option Nat :=
  if 2 ^ 14 ≤ x.pc then some 5
  else if 4096 ≤ x.hold then some 8
  else if !swDefined (scriptWord s x.pc) then some 1 else none

/-- Scripts that meet a fault at their fetch end, until the bus is free or its holder can go on. -/
def settleBus (s : State) (ch : Nat) : Nat → State
  | 0 => s
  | n + 1 => match busHolder s ch with
    | some (i, k, x) => (match fetchFault s x with
      | some c => settleBus (scriptFault s i k x x.pc c) ch n
      | none => s)
    | none => s

/-- The bus of a channel settles after a script has moved. -/
def settleCh (s : State) (ch : Nat) : State := settleBus s ch (s.ch.strikes.length + 1)

/-- Levels of FCn_CE_N: the chip enable of the package whose script holds the bus is low; high impedance, none, while the drivers are
disabled (R276, R277, R295). -/
def chipEnables (s : State) (ch : Nat) : Option Nat :=
  if !drivers s ch then none else
  some (match busHolder s ch with
    | some (_, k, _) => 0xFFFF - 2 ^ bits k.ppa 35 4
    | none => 0xFFFF)

/-- Level of FCn_WP_N: driven high while the drivers are enabled (R276, R277). -/
def writeProtect (s : State) (ch : Nat) : Option Bool := if drivers s ch then some true else none

/-- Bytes driven on a channel's bus: kind and byte, newest first. -/
def drive (s : State) (ch kind : Nat) (b : List Nat) : State :=
  { s with ch := { s.ch with bus := mset [] s.ch.bus ch ((b.map fun x => (kind, x % 256)).reverse ++ mget [] s.ch.bus ch) } }

/-- The script's bus hold ends and another script takes the bus (R289). -/
def yieldBus (s : State) (i : Nat) (k : Strike) (x : Script) : State :=
  grantBus (setStrike s i (some { k with script := some { x with bus := false } })) k.chan

/-! ### Frames of a strike (R179, R193, R284) -/

/-- Data and metadata locations of frame `f` of the strike's buffer. -/
def strikeFrame (s : State) (k : Strike) (f : Nat) : Option (Loc × Loc) :=
  (bufAt s k.h).map fun b => (frameLoc b f, metaLoc b f)

/-- Write an information part into a frame and its metadata area. -/
def putFrame (s : State) (k : Strike) (f : Nat) (part : List Byte) : State :=
  match strikeFrame s k f with
  | some (d, m) => locWr (locWr s d (padTo 0 4096 part)) m (padTo 0 64 (part.drop 4096))
  | none => s

/-- The information part a frame holds. -/
def getFrame (s : State) (k : Strike) (f : Nat) : List Byte :=
  match strikeFrame s k f with
  | some (d, m) => locRd s d 4096 ++ locRd s m 64
  | none => zeroPart

/-- The contents of slot offset `j` of a READ strike's page, from the column at which DIN DATA began; bytes that begin inside a slot decode to
none (R296). -/
def readPart (s : State) (k : Strike) (j : Nat) : Option (List Byte) :=
  let b := getF s (CH_SLOT_SLOTB k.chan)
  let n := k.col / b + j
  if k.col % b = 0 && n < 8 then slotPart s k.die (ppaPlane k.ppa) (ppaEblk k.ppa) (ppaPage k.ppa) n else none

/-- Slot offset `j` decodes with this code: its frame is written (R283, R290). -/
def decoded (s : State) (i j code : Nat) : State :=
  match strikeAt s i with
  | none => s
  | some k =>
    match readPart s k j with
    | none => s
    | some p =>
      let s := putFrame s k (k.frame + j) p
      setStrike s i (some { k with slots := k.slots.set j (some code) })

/-- REFRESH in the band of the strike's page (R323). -/
def refreshPage (s : State) (ppa : Nat) : State :=
  match bandOf s ppa with | some b => setRefresh s b | none => s

/-! ### Outcomes (R183, R290) -/

/-- The greatest code, and the masks, of a READ. -/
def readCode (k : Strike) : Nat := (k.slots.map fun c => if c.getD 4 = 20 then 4 else c.getD 4).foldl max 0
def lostMask (k : Strike) : Nat :=
  ((List.range k.slots.length).map fun j => if (k.slots.getD j none) = some 4 || (k.slots.getD j none) = some 20 then 2 ^ j else 0).sum

/-- The outcome word (R183). -/
def outcomeWord (s : State) (k : Strike) : Nat :=
  let rd := k.cls = 0 && !k.slots.isEmpty
  let code := if rd then readCode k else k.code
  let pg := if rd && 3 ≤ code && code ≤ 5 then (groupOf s k.die (ppaEblk k.ppa)).getD 0 else 0
  code + 2 ^ 8 * (if rd then lostMask k else 0) + 2 ^ 16 * (if rd then k.reb else 0) + 2 ^ 32 * pg + 2 ^ 56 * k.tag

/-- NOTAG and PENDING as outcome words. -/
def noTag (tag : Nat) : Nat := 15 + 2 ^ 56 * tag
def pendingWord (tag : Nat) : Nat := 14 + 2 ^ 56 * tag

end Sys2Proof.Machine
end

