-- ==== Sys2Proof/Machine/Ends.lean ====
section
/-! DEFINITION. How threads end and commands complete: freeing what a thread holds, discards, completion records
(R91, R133 to R142, R159, R168, R200), and what the end of a strike or a transfer releases (R155). -/
namespace Sys2Proof.Machine
open Sys2Proof

/-! ### Status words (R177) -/

/-- The ending a status word and RESULT spell. -/
def endingOf (status result : Nat) : Ending :=
  let o := bits status 16 14
  ⟨bits status 0 8, bits status 8 8, if bit status 30 then some o else if o = 0 then none else some (2 ^ 14 + o), result⟩

/-- The OFFSET field with OFFV of an ending (R137). -/
def offBits (o : Option Nat) : Nat :=
  match o with
  | some o => o % 2 ^ 14 + (if o < 2 ^ 14 then 2 ^ 14 else 0)
  | none => 0

/-- A CLASS that DONE takes: in R144, other than 0x44 and 0x60 (R200). -/
def doneClass (c : Nat) : Bool :=
  [0x00, 0x01, 0x10, 0x11, 0x12, 0x13, 0x20, 0x21, 0x22, 0x23, 0x24, 0x30, 0x31, 0x32, 0x40, 0x41, 0x42, 0x43, 0x50].contains c

/-! ### What a thread has outstanding (R200) -/

/-- Its lowest-numbered strike tag not ended, and transfer number not ended. -/
def openTag (x : Thread) : Option Nat := (x.tags.find? fun e => !e.2.ended).map Prod.fst
def openXfer (x : Thread) : Option Nat :=
  (x.xfers.find? fun e => match e.2 with | some y => !y.ended | none => false).map Prod.fst

/-! ### Freeing (R159, R168 step 4, R200 step 4) -/

/-- Withdraw a thread's places in the queues it occupies (R159): BUFFER, QUOTA and PAGEREQ here; LOCK and MAILBOX places are
its wait reason itself. A page-request index stays taken until the response, which is then ignored (its holder reads 9999). A command of it at the helm goes on without it. -/
def withdraw (s : State) (t : Nat) : State :=
  let s := unparkCharge (dropReq s t) t
  let s := { s with d := { s.d with held := srem t s.d.held
                                    helm := s.d.helm.map fun r : HelmReq => if r.src = t then { r with src := 9998 } else r }
                    x := { s.x with flushes := s.x.flushes.map fun (f : Nat × List Owed × Nat) => if f.1 = t then (9998, f.2) else f
                                    deleting := s.x.deleting.map fun (d : Nat × Nat × Bool) => if d.2.1 = t then (d.1, 9998, d.2.2) else d } }
  { s with link := s.link.map fun e =>
    (e.1, { e.2 with waiters := e.2.waiters.filter fun w => w.1 != t
                     groups := e.2.groups.map fun g => (g.1, g.2.map fun x => if x.1 = t then (9999, x.2) else x) }) }

/-- Staging slots are emptied, held locations released, tags and numbers freed, buffers freed (R200 step 4). -/
def releaseAll (s : State) (t : Nat) : State :=
  let s := modTh s t fun x => { x with slots := [], held := [], tags := [], xfers := [] }
  let s := if s.map.ovl.any fun e => e.1 = 2 ^ 64 + t then overUpdate (releaseOverlay s (2 ^ 64 + t)) else s
  serveBufs (dropBufs s t)

/-- Every lock of a thread is released, each to its longest waiter. -/
def dropLocks (s : State) (t : Nat) : State :=
  ((th s t).locks.map Prod.fst).foldl (fun s i => dropLock s t i) s

/-- Strikes still queued of a thread that ends go on without it; their buffers are freed when they end (R168, R193, R303;
DESIGN CHOICE, log 24). -/
def orphanStrikes (s : State) (t : Nat) : State :=
  let hs := (strikesWhere s fun k => k.t = t && k.cls ≤ 1).map fun x => x.2.h
  let s := { s with ch := { s.ch with strikes := s.ch.strikes.map fun e =>
    (e.1, e.2.map fun k => if k.t = t then { k with t := 9999 } else k) } }
  hs.foldl (fun s h => match bufAt s h with
    | some b => setBuf s h (some { b with holders := sins 9999 (srem t b.holders), owner := if b.owner = t then 9999 else b.owner })
    | none => s) s

/-- The last strike of ended threads that names a buffer has ended: the buffer passes on as it would have with its thread (R261). -/
def freeOrphanBuf (s : State) (h : Nat) : State :=
  match bufAt s h with
  | some b =>
    if !b.holders.contains 9999 || !(strikesWhere s fun k => k.t = 9999 && k.h = h && k.phase != .finish).isEmpty then s
    else if b.owner != 9999 then setBuf s h (some { b with holders := srem 9999 b.holders })
    else if b.wb && wbNamed s b then toFlush (setBuf s h (some { b with holders := [] })) h
    else freeBuf s h
  | none => s

/-- Steps 2 to 4 of R168 once the thread's operations in progress have ended. -/
def cleanUp (s : State) (t : Nat) : State :=
  let s := withdraw (orphanStrikes s t) t
  releaseAll (dropLocks s t) t

/-- The thread has an operation that must run to its end first: a strike in progress, a transfer burst of the media parity
kind, or a record appended that goes on to commit (R132, R168 step 2, R203). -/
def mustWait (s : State) (t : Nat) : Bool :=
  !(strikesWhere s fun k => k.t = t && (k.inProg || k.phase = .rebuild || k.phase = .finish)).isEmpty
    || s.map.recs.any fun r => r.thread = t && !r.applied && r.typ = .map && s.map.acks.contains r.jseq

/-! ### Discards and completion (R61, R91, R133, R137, R138, R142) -/

/-- A host thread with a command short of its end. -/
def inFlight (s : State) (c : Nat) : Bool :=
  let st := (th s c).st
  isHost c && (st = .armed || st = .ready || st = .running || st = .waiting || st = .parked)

/-- Discard a command with a status: the thread goes DONE (R133, R146). A command in DONE or FAULTED keeps the end already
decided, and at a position that is not its master a part that is READY waits for the master (R450). -/
def discard (s : State) (c cls detail : Nat) (off : Option Nat) : State :=
  if !inFlight s c || ((partsOf s c).isEmpty && s.keep.held.any fun h => h.1 = c) then s else
  let s := withdraw s c
  modTh s c fun x => { x with st := .done, why := .none, cont := .nothing, ending := some ⟨cls, detail, off, 0⟩
                              cut := some ⟨cls, detail, off, 0⟩ }

/-- RESULT of an ending: a discarded command shows its committed units as they stand, DONE's RESULT is its own (R134, R144, R200). -/
def resultOf (s : State) (c : Nat) (e : Ending) : Nat :=
  if (th s c).cut.isSome then (th s c).units % 2 ^ 64 else e.result

/-- The context runs a part of a cascaded command, or its command runs in parts (R449). -/
def partHere (s : State) (c : Nat) : Bool := (mget none s.x.cas.here c).isSome
def inParts (s : State) (c : Nat) : Bool := partHere s c || !(mget [] s.x.cas.parts c).isEmpty

/-- A command that commits no journal record reaches its commit point as its handler executes DONE (R135). -/
def commitAtDone (s : State) (c : Nat) : State :=
  if unitsOpc (opcOf s c) || inParts s c then s else modCx s c fun y => { y with commit := true }

/-- Host memory can fail a DMA of context `c` with detail `d` (R101, R103): a posted write meets failures of translation alone, which
need ATS. -/
def dmaFails (s : State) (c d : Nat) (write : Bool) : Bool :=
  decide (1 ≤ d) && decide (d ≤ 8) && !(write && decide (5 ≤ d)) && (decide (5 ≤ d) || flag s (HLV_STAT_ATS_EN (cx s c).port))

/-- A Response Failure stops page requests on the port (R101). -/
def stopPages (s : State) (c d : Nat) : State :=
  if d = 2 then setPort s (cx s c).port { port s (cx s c).port with noPages := true } else s

/-- The completion record as a number of 16 bytes (R137). -/
def recordOf (s : State) (c : Nat) (e : Ending) : Nat :=
  e.cls % 256 + 2 ^ 8 * (e.detail % 256) + 2 ^ 16 * (cx s c).tag + 2 ^ 32 * (cx s c).seq
    + 2 ^ 48 * offBits e.offset + 2 ^ 64 * (resultOf s c e % 2 ^ 64)

/-- The vector of a context (R105). -/
def signalCtx (s : State) (c : Nat) : State :=
  if flag s (VECMAP_EN c) then msixOn s (cx s c).port (getF s (VECMAP_VEC c)) else s

/-- PASID + 1 of a context's DMA, or 0 (R118). -/
def pasidOf (s : State) (c : Nat) : Nat := if (bindOf s c).pasidEn then (bindOf s c).pasid + 1 else 0

/-- The completion of a context's command in the order of R138. Where ATS finds no access at CADDR the record is not written and
RECFAIL is set in the mirror (R101, R139); after the port went down only mirror and IDLE remain (R91). -/
def complete (s : State) (c : Nat) (e : Ending) (x : Xlate) : State :=
  let r := recordOf s c e
  let ca := blkField (cx s c).block 48 8
  let gone := (cx s c).portGone
  let fail := ca != 0 && !gone && x = .noAccess && flag s (HLV_STAT_ATS_EN (cx s c).port)
  let s' := if ca != 0 && !gone && !fail then send s (.hostWrite (cx s c).port (pasidOf s c) ca (leBytes 16 r)) else s
  let s' := countErr (if fail then logEv s' 0 12 [c] else s') c e.cls
  let s' := modCx s' c fun y => { y with mirror := r + (if fail then 2 ^ 63 else 0), abPend := false, portGone := false }
  let s' := { s' with md := { s'.md with reserved := mset 0 s'.md.reserved c 0 } }
  let s' := modTh s' c fun y => { y with st := .idle, why := .none, cont := .nothing, ending := none }
  let s' := idleRelease s' c
  wakePx (if gone then s' else signalCtx s' c)

/-- DONE's steps 4 and 5 (R200): a host thread goes DONE with its status, an internal thread IDLE. -/
def finishDone (s : State) (t status result : Nat) : State :=
  let s := releaseAll s t
  if isHost t then
    modTh (commitAtDone s t) t fun x => { x with st := .done, why := .none, cont := .nothing, ending := some (endingOf status result) }
  else wakePx (idleRelease (modTh s t fun x => { x with st := .idle, why := .none, cont := .nothing }) t)

/-! ### The end of a strike or a transfer (R155, R188, R200) -/

/-- A thread goes READY with what it was to do still to do: it looks again when it next runs. -/
def readyAgain (s : State) (t : Nat) : State :=
  let k := (th s t).cont
  modTh (toReady s t) t fun x => { x with cont := k }

/-- What a wait for transfer `n` shows: DMA, or PAGEREQ with the page while the transfer is stopped at one (R146, R155). -/
def dmaWhy (s : State) (t n : Nat) : Why × Nat :=
  match (mget none (th s t).xfers n).bind (·.page) with
  | some (_, a) => (.pagereq, a)
  | none => (.dma, n)

/-- A thread begins to wait for a transfer of thread `t'`. -/
def waitXfer (s : State) (t t' n : Nat) (k : Cont) : State := let (w, a) := dmaWhy s t' n; wait s t w a k

/-- A thread in WAITING waits for another operation now. -/
def waitNext (s : State) (t : Nat) (w : Why × Nat) : State :=
  modTh s t fun x => { x with st := w.1.state, why := w.1, lastWhy := w.1, arg := w.2 }

/-- A thread that waits in DONE shows the reason of what is outstanding; with nothing left it goes READY, and ends when it
next runs (R200 step 3). One that is PARKED goes READY first in either case (R146). -/
def endingStep (s : State) (t : Nat) : State :=
  if (th s t).st = .parked then readyAgain s t else
  match openTag (th s t), openXfer (th s t) with
  | some g, _ => waitNext s t (.media, g)
  | none, some n => waitNext s t (dmaWhy s t n)
  | none, none => readyAgain s t

/-- BFREE waits on (R188): the next operation that names the buffer, or the free itself. -/
def bfreeStep (s : State) (t h : Nat) : State :=
  if (th s t).st = .parked then readyAgain s t else
  match namesBuf s h with
  | some (_, true, g) => waitNext s t (.media, g)
  | some (t', false, n) => waitNext s t (dmaWhy s t' n)
  | none => toReady (freeBuf s h) t

/-- A thread that waits in BFREE, one parked for the page request of a transfer that has ended among them. -/
def bfreeWaits (s : State) (x : Thread) : Bool :=
  match x.cont with
  | .bfree h => x.st = .waiting || (x.st = .parked && x.why = .pagereq && (match namesBuf s h with
    | some (t', false, n) => dmaWhy s t' n != (.pagereq, x.arg)
    | _ => true))
  | _ => false

/-- Threads that wait in BFREE look again after an operation ended. -/
def wakeBfree (s : State) : State :=
  (threadsWhere s fun _ x => bfreeWaits s x).foldl (fun s t =>
    match (th s t).cont with
    | .bfree h => bfreeStep s t h
    | _ => s) s

/-- The lowest free strike tag; with every tag in use, that of the strike that ended earliest (DESIGN CHOICE, log 23). -/
def freeTag (x : Thread) : Option Nat :=
  match (List.range 32).find? (fun i => !(x.tags.any fun e => e.1 = i)) with
  | some i => some i
  | none => (argMin (fun e : Nat × TagSt => e.2.order) (x.tags.filter fun e => e.2.ended)).map Prod.fst

/-- The earliest-ended strike not yet collected (R193). -/
def endedTag (x : Thread) : Option (Nat × TagSt) :=
  argMin (fun e : Nat × TagSt => e.2.order) (x.tags.filter fun e => e.2.ended)

/-- A tag is freed. -/
def dropTag (s : State) (t g : Nat) : State := modTh s t fun x => { x with tags := mdel x.tags g }

/-- A strike of thread `t` ended: what waits for it goes on (R155). -/
def wakeMedia (s : State) (t g : Nat) : State :=
  let x := th s t
  if x.why != .media then s else
  match x.cont with
  | .mwait rd g' => if g = g' then
      releaseWith (dropTag s t g) t rd (BitVec.ofNat 64 (mget ⟨true, 0, 0⟩ x.tags g).outcome) else s
  | .mwany rd => (match endedTag x with
      | some (g', o) => releaseWith (dropTag s t g') t rd (BitVec.ofNat 64 o.outcome)
      | none => s)
  | .again => toReady s t
  | .ending _ _ => endingStep s t
  | _ => s

/-- The tag of a strike takes its outcome word (R193, R290). -/
def endTag (s : State) (t g w : Nat) : State :=
  wakeBfree (if t = 9999 then s else
    wakeMedia (modTh (tick s) t fun x => { x with tags := mput x.tags g ⟨true, w, s.order + 1⟩ }) t g)

/-! ### Transfers (R196) -/

def xferAt (x : Thread) (n : Nat) : Option Xfer := mget none x.xfers n

/-- The lowest free transfer number. -/
def freeXfer (x : Thread) : Option Nat := (List.range 16).find? fun i => (xferAt x i).isNone

def dropXfer (s : State) (t n : Nat) : State := modTh s t fun x => { x with xfers := mset none x.xfers n none }

/-- A transfer of thread `t` ended: what waits for it goes on (R155). -/
def wakeDma (s : State) (t n : Nat) : State :=
  let x := th s t
  if x.why != .dma && x.why != .pagereq then s else
  match x.cont with
  | .xwait rd n' => if n = n' then
      (match xferAt x n with
       | some y => releaseWith (dropXfer s t n) t rd (BitVec.ofNat 64 y.sv)
       | none => s) else s
  | .again => toReady s t
  | .ending _ _ => endingStep s t
  | _ => s

/-- A transfer ends with an SV word (R194). -/
def endXfer (s : State) (t n sv : Nat) : State :=
  wakeBfree (wakeDma (modTh s t fun x => { x with xfers := mset none x.xfers n ((xferAt x n).map fun y =>
    { y with ended := true, sv := sv, page := none }) }) t n)

/-- The SV status of a transfer that fails at frame `k` (R194). -/
def xferFail (cls detail k : Nat) : Nat := (svWord cls detail (some k)).toNat

/-! ### Acceptance (R113) and abort (R142) -/

/-- The blocks that a FLUSH accepted now waits for: those that the write buffer holds (R126). -/
def owedNow (s : State) (block : Nat) : List Owed :=
  if bits block 0 8 = 5 then (wbBlocks s).map fun e => .frame e.1 e.2 else []

/-- A task-register write decided at the state word (R113). -/
def acceptBlock (s : State) (c port block : Nat) : Nat × State :=
  let x := cx s c
  if s.d.closed then (3, setCx s c { x with last := 3 })
  else if !boundOf s c then (4, setCx s c { x with last := 4 })
  else if (th s c).st != .idle then (2, setCx s c { x with last := 2 })
  else
    let tag := bits block 16 16
    let s := setCx s c { x with block := block, last := 1, seq := (x.seq + 1) % 2 ^ 16, tag := tag, commit := false,
                                port := port, portGone := false
                                shown := block, owed := owedNow s block, owedN := (owedNow s block).length
                                late := match s.x.change with | some k => k.kind != 2 && k.kind != 6 | none => false }
    (1, modTh s c fun y => { y with st := .armed, why := .none, cont := .nothing, ending := none, cut := none, units := 0, unitAt := 0, work := none,
                                    lastMade := false, withHelm := false, charged := false, waited := false })

/-- A write to CTX_ABORT decided at the state word: the first row of R142 that matches. -/
def abortWrite (s : State) (c seq : Nat) : State :=
  let x := cx s c
  let st := (th s c).st
  let out := fun (s : State) o d p => modCx s c fun y => { y with abSeq := seq, abOut := o, abDetail := d, abPend := p || y.abPend }
  if seq != x.seq then out s 0x11 0 false
  else if x.abPend || (x.abOut = 0x40 && x.abSeq = seq && !inFlight s c) then s
  else if inFlight s c && !x.commit && !(th s c).withHelm then out (discard s c 0x40 0 none) 0x40 0 true
  else if st = .idle || st = .done || st = .faulted then
    out s 0x44 1 false
  else if x.commit then out s 0x44 2 false
  else out s 0x44 3 false

/-! ### A fault's own bookkeeping (R168, R169) -/

/-- The helm's count of a role's faults in this watch, kept by role; three suspend the role (R169). -/
def roleFault (s : State) (t : Nat) : State :=
  let r := (th s t).role
  let n := mget 0 s.d.roleFaults r + 1
  let s := { s with d := { s.d with roleFaults := mset 0 s.d.roleFaults r n } }
  if n = 3 && r != 2 && r != 8 && 1 ≤ r then
    event (logEv (setC s ANV_ROLE_SUSP_SUSP (putBits (getF s ANV_ROLE_SUSP_SUSP) (r - 1) 1 1)) 17 1 [r]) 5
  else s

end Sys2Proof.Machine
end

