-- ==== Sys2Proof/Machine/Strikes.lean ====
section
/-! DEFINITION. Anvil MEDIA instructions and the life of a strike at its sequencer (R193, R281 to R303, R322, R354). -/
namespace Sys2Proof.Machine
open Sys2Proof

/-! ### STRIKE, MWAIT, MWANY, MPOLL (R193) -/

/-- A strike of this thread is foreground (R286). -/
def isFg (s : State) (t : Nat) : Bool := isHost t || (th s t).role = 2 || (th s t).role = 8 || mode s == mQuench

/-- The LIMIT a strike takes (R193, R299). -/
def takesLimit (s : State) (t : Nat) (flim limit : Bool) : Bool := limit || (flim && isHost t && bit (cx s t).block 9)

/-- Frames a strike of a class uses (R284). -/
def strikeFrames (s : State) (entry nslot : Nat) : Nat :=
  match eCls s entry with
  | 0 => nslot + 1
  | 1 => 8 * eParam s entry
  | _ => 0

/-- The fault of a STRIKE at issue, if any: handle, frame range, access, judged by the quadrant's copy of CLASS and PARAM (R193, R284). -/
def strikeFault (s : State) (t h entry frame nslot : Nat) (raw : Bool) : Option (Nat × Nat) :=
  let n := strikeFrames s entry nslot
  let buf : Option (Nat × Nat) := if n = 0 then none else
    match bufAt s h with
    | none => some (1, 4)
    | some b => if !b.holders.contains t then some (1, 4) else if frames b.pool < frame + n then some (2, 4) else none
  match buf with
  | some f => some f
  | none => if !isSys s t && (raw || eCls s entry != 0) then some (2, 3) else none

/-- The strike of a STRIKE instruction, redirected (R193, R358). -/
def mkStrike (s : State) (t tag ppa h entry frame nslot : Nat) (rb limit raw : Bool) : Strike :=
  let cls := eCls s entry
  { t := t, tag := tag, ppa := redirect s 8 ppa, entry := entry, cls := cls, h := h, frame := frame, rb := rb && cls = 0
    limit := limit, raw := raw && cls = 0, nslot := nslot, fg := isFg s t, at_ := s.clk.refNs, denied := false, phase := .queued
    script := none, frozen := none, slots := if cls = 0 then List.replicate (nslot + 1) none else [], got := [], code := 0
    reb := 0, col := ppaSlot ppa * getF s (CH_SLOT_SLOTB (ppaChan ppa)), walking := false, row := 0, rows := 0, susps := 0, suspended := none, busyFrom := 0, timedOut := false }

def execStrike (t rd rs1 rs2 entry frame : Nat) (rb flim limit raw : Bool) (nslot : Nat) (s : State) : Res :=
  let fn := b2n rb + 2 * b2n flim + 4 * b2n limit + 8 * b2n raw + 16 * immLt nslot 8
  let imm := if entry < 2 ^ 16 then entry + 2 ^ 16 * immLt frame 256 else 2 ^ 32
  act (issues s t (aw 0x80 rd rs1 rs2 fn imm)) s <|
    match strikeFault s t (gn s t rs2) entry frame nslot raw with
    | some (c, d) => raise s t c d
    | none =>
      match freeTag (th s t) with
      | none => wait s t .media ((openTag (th s t)).getD 0) .again
      | some g =>
        let k := mkStrike s t g (gn s t rs1 % 2 ^ 48) (gn s t rs2) entry frame nslot rb (takesLimit s t flim limit) raw
        let s := modTh s t fun x => { x with tags := mput x.tags g ⟨false, 0, 0⟩ }
        retire (arrive s k) t rd (BitVec.ofNat 64 g)

/-- MWAIT and MPOLL (R193): a tag not in use answers NOTAG at once. -/
def execMwait (t rd rs1 : Nat) (s : State) : Res :=
  anvil s t (aw 0x81 rd rs1 0 0 0) <|
    let g := gn s t rs1 % 32
    match (th s t).tags.find? (fun e => e.1 = g) with
    | none => retire s t rd (BitVec.ofNat 64 (noTag g))
    | some (_, o) => if o.ended then retire (dropTag s t g) t rd (BitVec.ofNat 64 o.outcome)
        else advWait s t .media g (.mwait rd g)

def execMwany (t rd : Nat) (s : State) : Res :=
  anvil s t (aw 0x82 rd 0 0 0 0) <|
    match endedTag (th s t), openTag (th s t) with
    | some (g, o), _ => retire (dropTag s t g) t rd (BitVec.ofNat 64 o.outcome)
    | none, some g => advWait s t .media g (.mwany rd)
    | none, none => retire s t rd (BitVec.ofNat 64 (noTag 0))

def execMpoll (t rd rs1 : Nat) (s : State) : Res :=
  anvil s t (aw 0x83 rd rs1 0 0 0) <|
    let g := gn s t rs1 % 32
    match (th s t).tags.find? (fun e => e.1 = g) with
    | none => retire s t rd (BitVec.ofNat 64 (noTag g))
    | some (_, o) => if o.ended then retire (dropTag s t g) t rd (BitVec.ofNat 64 o.outcome)
        else retire s t rd (BitVec.ofNat 64 (pendingWord g))

/-! ### Start, decode, outcome -/

/-- The bus of a channel is free, and no script of a started strike waits for it. -/
def busFree (s : State) (ch : Nat) : Bool :=
  (busHolder s ch).isNone && (busHolder (grantBus s ch) ch).isNone

/-- STRIKE_START (R285 check 4, R287, R288, R289): the strike the channel chooses next begins its script on the bus. -/
def execStrikeStart (ch : Nat) (s : State) : Res :=
  match nextStart s ch with
  | none => act false s s
  | some (i, k) => act (busFree s ch && drivers s ch) s <|
      if erasingNamed s k then setStrike s i (some { k with phase := .finish, code := 6, slots := [] })
      else
        let s := if k.fg then s else setF s (CH_BUDGET_USED ch) (getF s (CH_BUDGET_USED ch) + eNom s k.entry)
        settleCh (grantBus (denyReads (beginScript s i k .main k.entry 0) k.die) ch) ch

/-- One slot's hard decode (R322, R323). -/
def hardSlot (s : State) (i j : Nat) (r : SlotRead) : State :=
  match strikeAt s i with
  | none => s
  | some k =>
    if (k.slots.getD j (some 0)).isSome then s else
    match r with
    | .fail => s
    | .erased => setStrike s i (some { k with slots := k.slots.set j (some 20) })
    | .ok n =>
      if (readPart s k j).isNone then s
      else
        let s := decoded s i j (if k.walking then 2 else 0)
        let s := errInc s 1 n
        if !k.walking && getF s HELM_MEDTHR_RBER < n then refreshPage s k.ppa else s

/-- HARD_DECODE: `res` gives, by slot offset, what hard decode found; an undecoded slot passes on (R299, R322). -/
def execHardDecode (i : Nat) (res : List SlotRead) (s : State) : Res :=
  match strikeAt s i with
  | none => act false s s
  | some k => act (k.phase = .hard) s <|
      let s := (List.range (k.nslot + 1)).foldl (fun s j => hardSlot s i j (res.getD j .fail)) s
      match strikeAt s i with
      | some k => settleCh (afterHard s i k) k.chan
      | none => s

/-- SOFT_DECODE: `res` says, by slot offset, whether soft decode succeeded (R299, R322). -/
def execSoftDecode (i : Nat) (res : List Bool) (s : State) : Res :=
  match strikeAt s i with
  | none => act false s s
  | some k => act (k.phase = .soft) s <|
      let s := (List.range (k.nslot + 1)).foldl (fun s j =>
        match strikeAt s i with
        | some k => if (k.slots.getD j (some 0)).isNone && res.getD j false then decoded s i j (if k.walking then 2 else 1) else s
        | none => s) s
      match strikeAt s i with
      | some k => settleCh (if k.slots.all (·.isSome) then allDecoded s i k else enterWalk s i k) k.chan
      | none => s

/-- READ_RETRY_ROW: the walk applies its next row, or ends and restores the defaults (R300). -/
def execReadRetryRow (i : Nat) (s : State) : Res :=
  match strikeAt s i with
  | none => act false s s
  | some k => act (k.phase = .walk && k.walking) s <|
      match walkTable s k, retryEntry s k.entry with
      | some (tb, n), some e =>
        let done := k.slots.all (·.isSome)
        let s := if done then { s with ch := { s.ch with lastRow := mset 1 s.ch.lastRow (8 * k.die + tb) k.row } } else s
        if done || n ≤ k.rows + 1 then settleCh (grantBus (beginScript s i k .restore e 0) k.chan) k.chan
        else
          let s := addSat s (CH_RETRY_ROWS k.chan) 1
          settleCh (grantBus (beginScript s i { k with rows := k.rows + 1 } .retry e k.row) k.chan) k.chan
      | _, _ => readDone s i k

/-- The counters of R333 and REFRESH for each slot of a READ (R323). -/
def countSlots (s : State) (k : Strike) : State :=
  k.slots.foldl (fun s c =>
    let s := match c with
      | some 0 => errInc s 0 1
      | some 1 => errInc s 2 1
      | some 2 => errInc s 3 1
      | some 3 => errIncCh s k.chan 8 1
      | some 4 => errIncCh s k.chan 9 1
      | some 5 => errInc s 10 1
      | _ => s
    if c = some 1 || c = some 2 || c = some 3 || c = some 4 then refreshPage s k.ppa else s) s

/-- The media bookkeeping of a strike's end (R313, R320, R333, R345, R353, R361). -/
def strikeEffects (s : State) (k : Strike) : State :=
  let m := strikePlanes s k
  let s := if k.code = 9 && k.slots.isEmpty then addSat s (CH_ERR_BADADDR k.chan) 1 else s
  let s := match k.cls with
    | 0 => if k.raw then s else countSlots s k
    | 1 => if k.code = 0 then programOk s k.ppa m k.got else if k.code = 7 then programFail s k.ppa m else s
    | 2 => if k.code = 0 then rebuildErase (eraseOk s k.ppa m) k.t k.ppa m else if k.code = 8 then eraseFail s k.ppa m else s
    | _ => s
  let s := if k.cls != 0 && (k.code = 7 || k.code = 8 || k.timedOut) then dieError s k.die else s
  match bandOf s k.ppa with
  | some b => unownedErase s b
  | none => s

/-- STRIKE_OUTCOME: the outcome word is written and MEDIA waiters go on (R290). -/
def execStrikeOutcome (i : Nat) (s : State) : Res :=
  match strikeAt s i with
  | none => act false s s
  | some k => act (k.phase = .finish) s <|
      let w := outcomeWord s k
      wakePx (freeOrphanBuf (endTag (strikeEffects (setStrike s i none) k) k.t k.tag w) k.h)

/-- PARITY_REBUILD: after the member reads end, each LOST slot is solved, or stays LOST, or ends OFFLINE (R354). `reads` lists
the member reads that did not end HARD_OK without a corrected bit. -/
def execParityRebuild (i : Nat) (reads : List MRead) (s : State) : Res :=
  match strikeAt s i with
  | none => act false s s
  | some k =>
    act (k.phase = .rebuild && !rebuildHeld s k.ppa) s <|
      let s := (List.range (k.nslot + 1)).foldl (fun s j =>
        match strikeAt s i with
        | none => s
        | some k =>
          if k.slots.getD j (some 0) != some 4 && k.slots.getD j (some 0) != some 20 then s else
          let slot := ppaSlot k.ppa + j
          let bad := (reads.filter fun r => r.slot = slot && 4 ≤ r.code).map (·.member)
          let s := countReads s k.ppa slot (walkTable s k).isSome reads
          match rebuildSlot s k.ppa slot bad with
          | .ok p => setStrike (putFrame s k (k.frame + j) p) i
              (some { k with slots := k.slots.set j (some 3), reb := k.reb ||| 2 ^ j })
          | .lost => s
          | .offline => setStrike s i (some { k with slots := k.slots.set j (some 5) })
          | .goOffline => setStrike (pageOffline s k.ppa) i (some { k with slots := k.slots.set j (some 5) })) s
      match strikeAt s i with
      | some k => setStrike s i (some { k with phase := .finish })
      | none => s

/-! ### Erase suspend and resume (R301, R303) -/

/-- A foreground READ for another erase block of the die is queued (R301). -/
def readQueued (s : State) (x : Strike) : Bool := !(strikesWhere s (readFor s x)).isEmpty

/-- ERASE_SUSPEND (R301, R303): the erase script freezes at its WAITRDY and the SUSPEND entry runs. -/
def execEraseSuspend (die : Nat) (el : Elapse) (s0 : State) : Res :=
  let s := elapse s0 el
  match runningErase s die with
  | none => .next s
  | some (i, k) =>
    let ch := k.chan
    let q := mode s == mQuench
    let ok := q || (flag s (CH_SUSP_EN ch) && readQueued s k
      && getF s (CH_SUSP_MIN_US ch) * 1000 ≤ s.clk.refNs - k.busyFrom && k.susps < getF s (CH_SUSP_MAXSUSP ch))
    match suspEntry s k.entry, resumeEntry s k.entry, k.script with
    | some e, some _, some x =>
      act (ok && x.wait.isSome && x.ready.isNone) s <|
        let x := { x with timer := x.timer.map fun tm => (tm.1 - s.clk.refNs, tm.2) }
        let s := addSat s (CH_SUSPCNT_SUSPENSIONS ch) 1
        settleCh (grantBus (beginScript s i { k with frozen := some x, susps := k.susps + 1 } .suspend e 0) ch) ch
    | _, _, _ => .next s

/-- ERASE_RESUME (R301): no READ for the die remains, or the window has passed; the RESUME entry runs. -/
def execEraseResume (die : Nat) (el : Elapse) (s0 : State) : Res :=
  let s := elapse s0 el
  match suspendedErase s die with
  | none => .next s
  | some (i, k) =>
    match k.suspended, resumeEntry s k.entry with
    | some at0, some e =>
      let noRead := (strikesWhere s fun j => j.cls = 0 && j.die = die && (j.phase = .queued || j.inProg)).isEmpty
      let out := getF s (CH_SUSP_WINDOW_US k.chan) * 1000 ≤ s.clk.refNs - at0
      act (mode s != mQuench && k.script.isNone && !dieBusy s die && (noRead || out)) s
        (settleCh (grantBus (beginScript s i k .resume e 0) k.chan) k.chan)
    | _, _ => .next s

/-! ### Channels over time (R281, R288) -/

/-- Dies of a channel fitted and not failed. -/
def goodDies (s : State) (ch : Nat) : Nat :=
  ((List.range 256).filter fun k => dieFitted s (256 * ch + k) && !dieFailed s (256 * ch + k)).length

/-- CHANNEL_RETRAIN: `r.code` is the rate at which training succeeds, 0 where it fails at every code; `r.again` says that it first failed at
the current one (R281). -/
def execChannelRetrain (ch : Nat) (r : Retrain) (el : Elapse) (s0 : State) : Res :=
  let s := elapse s0 el
  let every := getF s (CH_CFG_RETRAIN ch)
  let cur := getF s (CH_STAT_RATE ch)
  act (ch < 32 && every != 0 && drivers s ch && flag s (CH_STAT_TRAINED ch) && r.code ≤ cur
      && mget 0 s.ch.trainedAt ch + every * 60000000000 ≤ s.clk.now && (busHolder s ch).isNone) s <|
    let s := { s with ch := { s.ch with trainedAt := mset 0 s.ch.trainedAt ch s.clk.now } }
    if r.code = cur && !r.again then s
    else
      let s := logEv (addSat s (CH_ERR_TRAINFAIL ch) 1) 8 1 [ch, r.code]
      let s := setF s (CH_STAT_RATE ch) r.code
      if r.code = 0 then
        let s := setF (setF s (CH_STAT_FAILED ch) 1) (CH_STAT_TRAINED ch) 0
        ((List.range 256).filter fun k => dieFitted s (256 * ch + k)).foldl (fun s k => dieFail s (256 * ch + k)) s
      else s

/-- CHANNEL_BUDGET_RESET: at a millisecond boundary each channel sets B and USED := 0 (R288). -/
def execChannelBudgetReset (el : Elapse) (s0 : State) : Res :=
  let s := elapse s0 el
  act (s.clk.budgetMs < s.clk.now / 1000000) s <|
    let s := { s with clk := { s.clk with budgetMs := s.clk.now / 1000000 } }
    (List.range 32).foldl (fun s ch =>
      setF (setF s (CH_BUDGET_B ch) (getF s CHR_SHARE_NOW_SHARE * goodDies s ch * 1000 / 256)) (CH_BUDGET_USED ch) 0) s

end Sys2Proof.Machine
end

