-- ==== Sys2Proof/Machine/Media.lean ====
section
/-! DEFINITION. The helm's media work: request slots, the VALID recount, spares, and the steps of a reshape
(R233, R314 to R318, R324, R328, R342, R357, R366). -/
namespace Sys2Proof.Machine
open Sys2Proof

/-! ### Requests (R314, R315) -/

def slotWord (s : State) (t : Nat) : Nat := dramLe s (aSlots + 16 * (t - 4096)) 8

/-- A pending slot: RESP = 0 and REQ ≠ 0. -/
def slotPending (s : State) (t : Nat) : Bool := bits (slotWord s t) 0 4 != 0 && bits (slotWord s t) 4 4 = 0

/-- The pending slot of the lowest thread number (R316). -/
def firstPending (s : State) : Option Nat := ((List.range 512).map (4096 + ·)).find? (slotPending s)

/-- The slot's bytes as answered: RESP, BAND, PAGE, NOTBEFORE. -/
def answerBytes (w resp band page nb : Nat) : List Byte :=
  leBytes 8 (putBits (putBits (putBits w 4 4 resp) 32 20 band) 52 12 page) ++ leBytes 8 nb

/-- A request that fails sets RESP and changes nothing else (R314, R315). -/
def refuse (s : State) (t resp : Nat) : State :=
  dramWr s (aSlots + 16 * (t - 4096)) (leBytes 8 (putBits (slotWord s t) 4 4 resp) ++ leBytes 8 0)

/-- The slot is answered. -/
def answer (s : State) (t resp band page nb : Nat) : State :=
  dramWr s (aSlots + 16 * (t - 4096)) (answerBytes (slotWord s t) resp band page nb)

/-- A change of a band's entry with the answer: in a pair the record goes to the partner first, and entry and slot follow its
acknowledgement (R316). -/
def grant (s : State) (t b new : Nat) : State :=
  let new := if bits new 0 3 = bandState s b then new else putBits new 96 32 (s.clk.now / 2 ^ 32)
  let w1 := (aBand + 16 * b, leBytes 16 new)
  let w2 := (aSlots + 16 * (t - 4096), answerBytes (slotWord s t) 1 b 0 0)
  if mirrors s then
    send { s with ring := s.ring ++ [w1], md := { s.md with await := some [w1, w2] } } (.pair 5 (w1.1 :: w1.2.map (·.toNat)))
  else dramWr (dramWr { s with ring := s.ring ++ [w1] } w1.1 w1.2) w2.1 w2.2

/-- The helm can serve slots: none of its answers awaits the partner. -/
def helmFree (s : State) : Bool := s.md.await.isNone

/-- The entry of band `b` with STATE and OWNER replaced. -/
def bandWith (s : State) (b st owner : Nat) : Nat := putBits (putBits (bandEnt s b) 0 3 st) 64 13 owner

/-- FREE bands that count for an OPEN of group `g` (R359). -/
def openable (s : State) (g : Nat) : List Nat :=
  match group s g with
  | none => []
  | some x => match x.st with
    | .healthy => freeBands s g
    | .degraded => if x.lost.isEmpty then freeBands s g else []
    | .rebuilding => (freeBands s g).filter fun b => x.rebuilt.contains (b % nbe s)
    | _ => []

def bandExists (s : State) (b : Nat) : Bool := (groupBands s (b / nbe s)).contains b && nbe s != 0

/-- A location in the band is held by some thread (R190, R315). -/
def bandHeld (s : State) (b : Nat) : Bool := s.thr.any fun e => e.2.held.any fun l => locBand s l = some b

/-- REQ 1 OPEN. -/
def reqOpen (s : State) (t : Nat) : State :=
  let g := bits (slotWord s t) 16 16
  if (group s g).isNone then refuse s t 5
  else match argMin (fun b => bECount (bandEnt s b) * 2 ^ 20 + b) (openable s g) with
    | none => refuse s t 4
    | some b =>
      if ringFull s then refuse s t 3
      else grant { s with md := { s.md with openSeq := s.md.openSeq + 1 } } t b (putBits (bandWith s b 1 t) 77 12 0)

/-- REQ 2 CLOSE; a full ring answers BUSY (R318). -/
def reqClose (s : State) (t : Nat) : State :=
  let b := bits (slotWord s t) 32 20
  if bandExists s b && bandState s b = 1 && bOwner (bandEnt s b) = t && !bWithdrawn (bandEnt s b) then
    if ringFull s then refuse s t 3 else grant (orphanBand s b) t b (putBits (bandWith (orphanBand s b) b 2 noOwner) 5 1 1)
  else refuse s t 2

/-- REQ 3 GC. -/
def reqGc (s : State) (t : Nat) : State :=
  let b := bits (slotWord s t) 32 20
  let e := bandEnt s b
  if !bandExists s b then refuse s t 5
  else if bWithdrawn e || !(bandState s b = 2 || (bandState s b = 3 && bOwner e = noOwner)) then refuse s t 2
  else if ringFull s then refuse s t 3
  else grant s t b (bandWith s b 3 t)

/-- REQ 4 RELEASE: once granted to a REBUILD thread it marks the band rebuilt (R361); a full ring answers BUSY (R318). -/
def reqRelease (s : State) (t : Nat) : State :=
  let b := bits (slotWord s t) 32 20
  if bandExists s b && bandState s b = 3 && bOwner (bandEnt s b) = t && !bWithdrawn (bandEnt s b) then
    if ringFull s then refuse s t 3 else
    let s := grant s t b (bandWith s b 2 noOwner)
    if (th s t).role != 4 then s
    else if helmFree s then markRebuilt s b else { s with md := { s.md with awaitMark := some b } }
  else refuse s t 2

/-- REQ 5 ERASE. -/
def reqErase (s : State) (t : Nat) : State :=
  let b := bits (slotWord s t) 32 20
  if !(bandExists s b && bandState s b = 3 && bOwner (bandEnt s b) = t && !bWithdrawn (bandEnt s b)) then refuse s t 2
  else if bandValid s b != 0 || bandHeld s b || flag s HELM_MEDSTAT_RECOUNT || ringFull s then refuse s t 3
  else grant (enterErasing s b) t b (bandWith s b 4 t)

/-- Band and page of every programmed page of an OPEN, FULL or GC_SOURCE band, as band × 2^12 + page. -/
def patrolPages (s : State) : List Nat :=
  s.md.flash.filterMap fun e =>
    (bandOf s e.1).bind fun b =>
      let st := bandState s b
      if (st = 1 || st = 2 || st = 3) && !bWithdrawn (bandEnt s b) then some (b * 2 ^ 12 + ppaPage e.1) else none

/-- Plane-pages that one PATROL grant reads. -/
def patrolCost (s : State) (b : Nat) : Nat :=
  match group s (b / nbe s) with | some x => x.mem.length * planes s | none => 0

/-- REQ 6 PATROL: the next page in ascending band and page, paced by PPS (R328). -/
def reqPatrol (s : State) (t : Nat) : State :=
  let pps := getF s HELM_PATROL_PPS
  let ps := patrolPages s
  if pps = 0 || ps.isEmpty then refuse s t 4
  else
    let cur := s.md.patrolBand * 2 ^ 12 + s.md.patrolPage
    let nxt := argMin id (ps.filter fun p => cur ≤ p)
    let s := if nxt.isNone then addWrap s HELM_PATROL_PASSES 1 else s
    match (match nxt with | some p => some p | none => argMin id ps) with
    | none => refuse s t 4
    | some p =>
      let b := p / 2 ^ 12
      let nb := max s.clk.now s.md.patrolAt
      let s := { s with md := { s.md with patrolBand := (p + 1) / 2 ^ 12, patrolPage := (p + 1) % 2 ^ 12,
                                          patrolAt := nb + ceilDiv (patrolCost s b * 1000000000) pps } }
      answer s t 1 b (p % 2 ^ 12) nb

/-- The helm serves a pending slot (R315, R316). -/
def serveSlot (s : State) (t : Nat) : State :=
  match bits (slotWord s t) 0 4 with
  | 1 => reqOpen s t
  | 2 => reqClose s t
  | 3 => reqGc s t
  | 4 => reqRelease s t
  | 5 => reqErase s t
  | 6 => reqPatrol s t
  | _ => refuse s t 5

def execHelmRequestService (s : State) : Res :=
  match firstPending s with
  | some t => act (helmFree s) s (wakePx (serveSlot s t))
  | none => act false s s

/-- A row of R315: thread `t`'s slot is the next pending one and holds request `r`. -/
def reqRow (r t : Nat) (eff : State) (s : State) : Res :=
  act (helmFree s && firstPending s = some t && bits (slotWord s t) 0 4 = r) s eff

def execReqOpen (t : Nat) (s : State) : Res := reqRow 1 t (reqOpen s t) s
def execReqClose (t : Nat) (s : State) : Res := reqRow 2 t (reqClose s t) s
def execReqGc (t : Nat) (s : State) : Res := reqRow 3 t (reqGc s t) s
def execReqRelease (t : Nat) (s : State) : Res := reqRow 4 t (reqRelease s t) s
def execReqErase (t : Nat) (s : State) : Res := reqRow 5 t (wakePx (reqErase s t)) s
def execReqPatrol (t : Nat) (s : State) : Res := reqRow 6 t (reqPatrol s t) s

/-! ### The recount (R324) -/

/-- The locations of every mapped block. -/
def mappedLocs (s : State) : List Nat :=
  (listedBillets s).flatMap fun i =>
    let b := loadBil s i
    ((List.range 256).map fun k => b.loc s k).filter fun l => 2 ≤ bits l 48 3

/-- MAPPED is the number of mapped blocks (R325). -/
def countMapped (s : State) : State := { s with md := { s.md with mapped := (mappedLocs s).length } }

/-- Every VALID recounted from the map, and MAPPED with it. -/
def recount (s : State) : State :=
  let ls := mappedLocs s
  let bs := ls.filterMap (locBand s)
  let s := (allBands s).foldl (fun s b =>
    let n := (bs.filter (· = b)).length
    if bandValid s b = n then s else setBandEnt s b (putBits (bandEnt s b) 32 32 n)) s
  countMapped s

/-- VALID_RECOUNT_DONE (R324). -/
def execValidRecountDone (s : State) : Res :=
  act (flag s HELM_MEDSTAT_RECOUNT) s (setF (recount s) HELM_MEDSTAT_RECOUNT 0)

/-! ### Capacity (R233, R342) -/

/-- Dbil over the groups that are not new groups of a reshape in progress. -/
def dbil (s : State) : Nat :=
  (s.ret.groups.map fun e => match e.2 with
    | some x => if x.pending then 0 else bandBillets s x * nbe s
    | none => 0).sum

/-- LCAP of a Dbil and an OP (R233). -/
def lcapOf (d op : Nat) : Nat := min 0xE0000000 (d * (256 - op) / 256)

/-- The end, in billets of this module, of the highest ACTIVE or DELETING volume (R233, R447). -/
def volumesEnd (s : State) : Nat :=
  ((volsUsed s).map fun v =>
    let r := localRange s (volBase (volEnt s v)) (volSize (volEnt s v))
    if r.2 = 0 then 0 else r.1 + r.2).foldl max 0

/-- MAP_LCAP.BILLETS as computed now; a reshape in progress bounds it (R233, R366). -/
def setLcap (s : State) : State :=
  let l := lcapOf (dbil s) (getF s MAP_OP_OP)
  setF s MAP_LCAP_BILLETS (match s.md.reshape with | some r => min l r.lcap | none => l)

/-! ### Spares and reshape (R357, R366) -/

/-- SPARE_ASSIGN: the helm gives a spare to the lowest-numbered DEGRADED group that can take one (R357). -/
def execSpareAssign (s : State) : Res :=
  match ((groupNums s).filter fun g => match group s g with | some x => x.st = .degraded | none => false).findSome?
      (assignSpare s) with
  | some s' => .next s'
  | none => act false s s

/-- Band `e` of the old groups is retired and band `e` of the new groups created (R366 step 2). -/
def handOver (s : State) (r : Reshape) (e : Nat) : State :=
  let left := srem e r.left
  let s := { s with md := { s.md with reshape := some { r with left := left } } }
  let s := r.news.foldl (fun s g => bandSet s (g * nbe s + e) (3 + 2 ^ 64 * noOwner)) s
  let s := r.news.foldl (fun s g => match group s g with
    | none => s
    | some x => (x.mem.flatMap fun d => (List.range (planes s)).map fun p => (d, p)).foldl (fun s m =>
        (spares s m.1 m.2).foldl (fun s y =>
          if bits y.2 14 2 = 2 && r.olds.contains (bits y.2 16 20 / nbe s) && bits y.2 16 20 % nbe s = e then
            setSpare s m.1 m.2 y.1 (putBits y.2 16 20 (g * nbe s + e)) else s) s) s) s
  ringNote s

def execReshapeHandover (e : Nat) (s : State) : Res :=
  match s.md.reshape with
  | none => act false s s
  | some r =>
    act (r.left.contains e && r.olds.all fun g =>
      bandState s (g * nbe s + e) = 0 || bWithdrawn (bandEnt s (g * nbe s + e))) s (handOver s r e)

/-- The switch: the old groups go, PENDING clears, Dbil and LCAP are computed again, freed dies join the spare pool
(R366 step 4); each old group's leaving is a transition of its own (R352), and Du may change with them (R413). -/
def reshapeSwitch (s : State) (r : Reshape) : State :=
  let oldDies := r.olds.flatMap fun g => match group s g with | some x => x.mem | none => []
  let newDies := r.news.flatMap fun g => match group s g with | some x => x.mem | none => []
  let gs := (s.ret.groups.filter fun e => !r.olds.contains e.1).map fun e =>
    (e.1, e.2.map fun x => if r.news.contains e.1 then { x with pending := false } else x)
  let gone := r.olds.filter fun g => match group s g with | some x => x.st = .reshaping | none => false
  let free := oldDies.filter fun d => !newDies.contains d && !dieFailed s d
  let rs := s.ret.redirs.filter fun x => !r.olds.contains x.group
  let s := commit { s with ret := { s.ret with groups := gs, spares := free.foldl (fun l d => sins d l) s.ret.spares, redirs := rs }
                           md := { s.md with reshape := none } }
  let s := gone.foldl (fun s g => event (logEv s 9 0 [g, gstCode .reshaping]) 5) (setLcap (ringNote s))
  qbudUpdate (event (logEv s 9 2 [r.news.headD 0]) 5)

def execReshapeSwitch (s : State) : Res :=
  match s.md.reshape with
  | none => act false s s
  | some r => act r.left.isEmpty s (reshapeSwitch s r)

end Sys2Proof.Machine
end

