-- ==== Sys2Proof/Machine/MapEvents.lean ====
section
/-! DEFINITION. Map-cache, journal, checkpoint and memory events (R211, R225 to R229, R238 to R252, R269 to R273). -/
namespace Sys2Proof.Machine
open Sys2Proof

/-! ### Fills and drains (R239, R240) -/

/-- A thread waits for a line, not for a commit window or a map segment. -/
def Thread.missing (x : Thread) : Bool :=
  x.why = .mapmiss && (match x.cont with | .look _ _ _ n => n < seenWindow | _ => false)

/-- Threads that wait for a line, in order of arrival. -/
def lineWaiters (s : State) (l : Nat) : List Nat := byArrival s fun x => x.missing && x.arg = 64 * l

/-- A thread whose line has arrived: its lookup goes on behind that access, or faults (R239, R249). -/
def lineArrived (s : State) (t : Nat) (bad : Bool) : State :=
  match (th s t).cont with
  | .look rd lbn gen n => if bad then lookFault s t else look s t rd lbn gen (n + 1)
  | _ => s

/-- Accesses that found every miss entry in use take entries as they free, in order of arrival (R239). -/
def missWaiters (s : State) (q : Nat) : State :=
  (byArrival s fun x => x.missing && x.arg / 64 % 4 = q).foldl (fun s t => missTake s q ((th s t).arg / 64) (streaming s t q) false) s

/-- An uncorrectable error on a prefetch fill is counted in the way that the line would have taken (R247, R249;
DESIGN CHOICE, log 108). -/
def prefetchErr (s : State) (q l : Nat) : State :=
  match victim (cacheWays s q) l 4 (slice s q) with
  | some (w, _, _) => wayErr s q w true
  | none => s

/-- A line whose DRAM read was issued arrives, and changes queued since are merged into it; whether it met an uncorrectable error (R239,
R241, R244, R247, R249, R251). -/
def fillArrives (s : State) (f : Fill) (e : MErr) : Bool × State :=
  let q := f.line % 4
  let s := setSlice s q { slice s q with fills := (slice s q).fills.filter fun g => g.line != f.line }
  let (bad, s) := dramCheck s (64 * f.line) 64 e 1
  let s := if f.pf then addWrap s (MC_PFILLS_COUNT q) 1 else s
  let s := if bad then (if f.pf then prefetchErr s q f.line else s) else if f.alloc then fillLine s q f.line f else s
  (bad, missWaiters ((lineWaiters s f.line).foldl (fun s t => lineArrived s t bad) s) q)

/-- MAP_FILL. -/
def execMapFill (line : Nat) (e : MErr) (s : State) : Res :=
  match (slice s (line % 4)).fills.find? (fun f => f.line = line) with
  | none => act false s s
  | some f => act f.read s (fillArrives s f e).2

/-- WRITE_THROUGH_DRAIN: the oldest entry of the queue reaches DRAM (R240). Drains that another access forces meet no new error (DESIGN
CHOICE, log 141). -/
def execWriteThroughDrain (x : Drain) (s : State) : Res := act (!(slice s x.q).wtq.isEmpty) s (wtDrain s x.q x.found)

/-! ### Slice and way control (R248, R250, R251) -/

/-- A write of MC_CTL.EN (R251). -/
def mcEnWrite (s : State) (q : Nat) (en : Bool) : State :=
  if en then setF (setF s (MC_CTL_EN q) 1) (MC_STAT_DRAINED q) 0 else setF s (MC_CTL_EN q) 0

/-- SLICE_DRAINED (R251 step 3). -/
def execSliceDrained (q : Nat) (s : State) : Res :=
  let x := slice s q
  act (q < 4 && !flag s (MC_CTL_EN q) && !flag s (MC_STAT_DRAINED q) && x.wtq.isEmpty && x.fills.isEmpty) s <|
    setF (setSlice s q { x with lines := [], errs := [], copies := [], evict := x.evict.map fun v => { v with line := none } }) (MC_STAT_DRAINED q) 1

/-- A write of MC_SP.SPWAYS: in SERVICE it is kept and the ways converted, elsewhere refused with an event (R248). -/
def spWrite (s : State) (q n : Nat) : State :=
  if 8 < n then s
  else if mode s = mService then convert (setC s (MC_SP_SPWAYS q) n) q
  else logEv s 0 9 [q, n]

/-- Clearing a bit of MC_WAYDIS.DIS returns the way empty (R250). -/
def wayEnable (s : State) (q w : Nat) : State :=
  if wayDis s q w then setC (setSlice s q ((slice s q).dropWay w)) (MC_WAYDIS_DIS q) (putBits (getF s (MC_WAYDIS_DIS q)) w 1 0) else s

def execWayReenable (q w : Nat) (s : State) : Res := act (q < 4 && w < 16 && regOk s 5) s (wayEnable s q w)

/-! ### The journal and checkpoint rounds (R211, R225 to R229) -/

/-- Commits that wait for room go on in the order in which they began to wait (R211, R220). -/
def retryAll (s : State) : State :=
  (byArrival s fun x => x.why = .dma && (match x.cont with | .commit _ _ _ => true | _ => false)).foldl retryCommit s

/-- Records above JEND up to record `j`. -/
def tailRecs (s : State) (j : Nat) : List JRec := s.map.recs.filter fun r => r.jseq ≤ j && s.ck.jend < r.jseq

/-- The bytes of a flash segment that holds them behind its header (R227). -/
def segBytes (s : State) (j : Nat) : Nat := 64 + ((tailRecs s j).map recLen).sum

/-- A flash segment takes the records up to `j`, and a PAD record fills its end where one fits (R218, R227). It lies at the PPA
that its predecessor reserved; the first one at `ppa`. -/
def writeSeg (s : State) (j ppa next : Nat) : State :=
  let left := 2 ^ 20 - segBytes s j
  let g : JSeg := ⟨s.ck.jend + 1, j, match s.map.segs.getLast? with | some g => g.next | none => ppa, next, if left < 64 then 0 else left⟩
  { s with map := { s.map with segs := s.map.segs ++ [g] } }

/-- JEND rises in RSM, and the root reaches the partner (R226, R227, R425). -/
def setJend (s : State) (j : Nat) : State :=
  let s := jstat { s with ck := { s.ck with jend := j } }
  if mirrors s then send s (.pair 3 (rootWords s)) else s

/-- JOURNAL_TAIL_SPACE: a journal segment, which no record leaves half, is written up to record `g.jend`, the last program strike of a
CHECKPOINT thread ended, and waiting records take the room (R220, R227). A segment may be written before it is full (DEDUCED, log 109). -/
def execJournalTailSpace (g : SegEnd) (s : State) : Res :=
  act (s.ck.jend < g.jend && (strikesWhere s fun k => k.cls = 1 && (th s k.t).role = 8).isEmpty && (tailRecs s g.jend).all (·.committed) && decide (segBytes s g.jend ≤ 2 ^ 20)
      && s.map.recs.any fun r => r.jseq = g.jend) s
    (retryAll (setJend (writeSeg s g.jend g.ppa g.next) g.jend))

/-- OVERLAY_SPACE_FREED: waiting MCOMMITs proceed where overlay space allows (R211). -/
def execOverlaySpaceFreed (s : State) : Res :=
  act (s.thr.any fun e => e.2.why = .dma && (match e.2.cont with | .commit _ _ _ => true | _ => false)) s (retryAll s)

/-- The map regions as their segment copies hold them (R225 step 2). Overlay space of records not yet applied is free there: their replay takes
it (R228; DEDUCED, log 136). -/
def mapImage (s0 : State) : NMap Byte :=
  let s := s0.map.ovl.foldl (fun s e => releaseOverlay s e.1) s0
  let d := s.mem.dram.filter fun e => e.1 < mapEnd
  ((List.range 4).flatMap fun q => (slice s q).wtq).foldl (fun m e => wrBytes m e.1 e.2) d

/-- The 8 MiB segments in which two images of the map regions differ (R225 step 2). -/
def changedSegs (a b : NMap Byte) : List Nat :=
  (((a ++ b).map fun e => e.1 / 2 ^ 23).dedup).filter fun g => (a.filter fun e => e.1 / 2 ^ 23 = g) != b.filter fun e => e.1 / 2 ^ 23 = g

/-- A round copies the segments that changed since their last copies, and no other (R225 step 2). A segment that never held anything has no copy
(DEDUCED, log 110). -/
def copiesChanged (s : State) (segs : List (Nat × Nat)) : Bool :=
  let l := changedSegs (mapImage s) (match s.ck.newest with | some r => r.image | none => [])
  decide (segs.map Prod.fst).Nodup && (l.all fun g => segs.any fun e => e.1 = g) && segs.all fun e => l.contains e.1

/-- The directory of a round: its own copies, and its predecessor's of every other segment; a copy that no round of the root names any more is
released with that (R225). -/
def newDir (s : State) : List (Nat × Nat) :=
  s.map.roundSegs ++ match s.ck.newest with
    | some r => r.dir.filter fun e => !(s.map.roundSegs.any fun x => x.1 = e.1)
    | none => []

/-- The round in progress becomes NEWEST; the media ring empties, its changes being in the round's copy of the media region; records and segments below
PREVIOUS's JSTART are released (R225 step 4, R227, R318). JSEG is the segment that holds JSTART, or `jseg` where this module wrote
none that does. -/
def rootUpdate (s : State) (n js jd : Nat) (jseg : Nat) : State :=
  let g := match s.map.segs.find? fun g => g.first ≤ js && js ≤ g.last with | some g => g.ppa | none => jseg
  let r : Round := ⟨n, js, jd, s.map.roundDirs, g, s.map.roundAt, s.ring.foldl (fun m e => wrBytes m e.1 e.2) s.map.roundImage,
    s.map.roundSif, newDir s⟩
  let keep := match s.ck.newest with | some p => p.jstart | none => js
  let s := { s with ck := { s.ck with previous := s.ck.newest, newest := some r }, ring := [], keep := { s.keep with fresh := false }
                    map := { s.map with round := none, roundImage := [], roundSif := [], roundDirs := [], roundSegs := [], segs := s.map.segs.filter fun x => keep ≤ x.last
                                        recs := s.map.recs.filter fun x => keep ≤ x.jseq } }
  let s := setF (addWrap s MAP_CKPT_ROUNDS 1) MAP_CKPT_ACTIVE 0
  let s := jstat s
  if mirrors s then send s (.pair 3 (rootWords s)) else s

/-- Three PPAs on dies of three different channels (R225 step 3). -/
def threeChannels (dirs : List Nat) : Bool := dirs.length == 3 && decide (dirs.map ppaChan).Nodup

/-- CHECKPOINT_ROOT_UPDATE: the round's directory is written in three copies at `dirs`, which fixes JDONE; once JEND has reached it
the root takes the round (R225). What the segment copies hold stands as the image of the map regions (DEDUCED, log 110). -/
def execCheckpointRootUpdate (x : RoundDir) (jseg : Nat) (s : State) : Res :=
  match s.map.round with
  | none => act false s s
  | some (n, js, some jd) => .next (if jd ≤ s.ck.jend then rootUpdate s n js jd jseg else s)
  | some (n, js, none) => act (threeChannels x.dirs && copiesChanged s x.segs) s <|
      let d := s.map.jseq
      let s := { s with map := { s.map with
        round := some (n, js, some d)
        roundImage := mapImage s
        roundSif := s.sif
        roundDirs := x.dirs
        roundSegs := x.segs } }
      if d ≤ s.ck.jend then rootUpdate s n js d jseg else s

/-! ### DRAM and SRAM scrub (R269, R270, R273) -/

/-- The scrubber runs in this mode (R269); in STANDBY as a part of the self-test (R434, R435). -/
def scrubMode (s : State) : Bool :=
  inMode s [mRun, mService, mSafe] || (mode s == mStandby && !s.boot.casEn && flag s PAIR_CFG_STEST)

/-- DRAM_SCRUB_STEP: one millisecond's positions; `errs` lists what the codes find anew in lines of them. Lines
that failed before fail again (R272). -/
def execDramScrubStep (errs : List (Nat × MErr)) (el : Elapse) (s0 : State) : Res :=
  let s := elapse s0 el
  act (scrubMode s && s.d.scrubMs < s.clk.now / 1000000) s <|
    let s := { s with d := { s.d with scrubMs := s.clk.now / 1000000 } }
    let n := getF s DRM_SCRUB_LPMS
    let pos := getF s DRM_SCRUBPOS_LINE
    let inR := fun l => (pos ≤ l && l < pos + n) || (l + 2 ^ 31 < pos + n)
    let s := errs.foldl (fun s x =>
      if !inR x.1 then s
      else match x.2 with
        | .bitmap => bitmapErr s x.1
        | .corr => if s.mem.valid.contains x.1 && !s.mem.bad.contains x.1 then dramCorr s x.1 else s
        | .uncorr => if s.mem.valid.contains x.1 then { s with mem := { s.mem with bad := sins x.1 s.mem.bad } } else s
        | .ok => s) s
    let s := (s.mem.bad.filter fun l => inR l && s.mem.valid.contains l).foldl (fun s l => dramUe s l 5) s
    let s := if 2 ^ 31 ≤ pos + n then addWrap s DRM_SCRUB_PASSES 1 else s
    setF s DRM_SCRUBPOS_LINE ((pos + n) % 2 ^ 31)

/-- SRAM_SCRUB: a quadrant's data SRAM every 10 s; `corr` words corrected, `unc` lines that cannot be (R273). -/
def execSramScrub (q corr : Nat) (unc : List Nat) (el : Elapse) (s0 : State) : Res :=
  let s := elapse s0 el
  act (q < 4 && mget 0 s.d.sramAt q + 10000000000 ≤ s.clk.refNs) s <|
    let s := { s with d := { s.d with sramAt := mset 0 s.d.sramAt q s.clk.refNs } }
    let s := errInc (addSat s (DRM_SRAMCNT_CORR q) corr) 7 corr
    let s := unc.foldl (fun s l =>
      let a := q * 2 ^ 24 + 64 * (l % 2 ^ 18)
      if s.mem.sramValid.contains (a / 64) then { s with mem := { s.mem with sramBad := sins (a / 8) s.mem.sramBad } } else s) s
    let n := (s.mem.sramBad.filter fun w => w * 8 / 2 ^ 24 = q).length
    errInc (addSat s (DRM_SRAMCNT_UNCORR q) n) 13 n

/-- The table of R270 is emptied and OVF cleared. -/
def clearCe (s : State) : State := setF { s with mem := { s.mem with ceTab := [] } } DRM_CESTAT_OVF 0

def execCeTableClear (s : State) : Res := act (regOk s 7) s (clearCe s)

end Sys2Proof.Machine
end

