-- ==== Sys2Proof/Machine/Tenancy.lean ====
section
/-! DEFINITION. The minute ring and the blocks a tenant has mapped (R398 to R401). -/
namespace Sys2Proof.Machine
open Sys2Proof

/-- Volumes of a tenant. -/
def tenantVols (s : State) (n : Nat) : List Nat := (volsUsed s).filter fun v => volTenant (volEnt s v) == n

/-- Blocks of a billet with a location of KIND 2, 3 or 4 (R398). -/
def billetMapped (s : State) (i : Nat) : Nat :=
  let b := loadBil s i
  ((List.range 256).filter fun k => 2 ≤ bits (b.loc s k) 48 3).length

/-- MAPPED of a tenant: of its volumes, which lie in system billets, what this module maps (R398, R401, R447). -/
def mappedOf (s : State) (n : Nat) : Nat :=
  let vs := (tenantVols s n).map fun v => (volBase (volEnt s v), volSize (volEnt s v))
  (((listedBillets s).filter fun i => vs.any fun v => v.1 ≤ sysBil s i && sysBil s i < v.1 + v.2).map (billetMapped s)).sum

/-- Tenants with anything to record: counters that moved, or a volume. -/
def tenantsSeen (s : State) : List Nat :=
  (s.d.ten.live.map Prod.fst ++ (volsUsed s).map fun v => volTenant (volEnt s v)).dedup

/-- A tenant's record as it stands, MAPPED included. -/
def liveRec (s : State) (n : Nat) : Cnt := { cntOf s n with mapped := mappedOf s n }

/-- A committed slot takes its place in the ring (R399); the newest slot is the one of the highest SEQ, in whatever order slots of the
partner arrive (R401). -/
def putSlot (s : State) (i : Nat) (x : MinSlot) : State :=
  let r := { s.rsm with slots := mset MinSlot.blank s.rsm.slots i x }
  { s with rsm := if s.rsm.minSeq < x.seq then { r with newSlot := i, minSeq := x.seq } else r }

/-- The words of a slot on the pair link (R401): index, descriptor, then each record after its tenant. -/
def slotWords (i : Nat) (x : MinSlot) : List Nat :=
  [i, x.seq, x.stamp, x.endMin, x.flags, b2n x.loss] ++ x.recs.flatMap fun e =>
    [e.1, e.2.rcmd, e.2.wcmd, e.2.rbytes, e.2.wbytes, e.2.mediaUs, e.2.qparkUs, e.2.mapped, e.2.qparks, e.2.errs]

/-- SNAPSHOT (R399, R401): the live counters go to the next slot and begin again; a standby writes no slot. -/
def snapshot (s : State) : State :=
  if mode s == mStandby then s else
  let i := (s.rsm.newSlot + 1) % 60
  let x : MinSlot := ⟨s.rsm.minSeq + 1, s.clk.now, s.clk.now / 60000000000, stampFlags s srcSnapshot, s.d.ten.loss, false,
    (tenantsSeen s).foldl (fun m n => mset Cnt.zero m n (liveRec s n)) []⟩
  let s := stamped (putSlot s i x) srcSnapshot
  let s := setTen s { s.d.ten with live := [], loss := false }
  if mirrors s then send s (.pair 7 (slotWords i x)) else s

end Sys2Proof.Machine
end

