-- ==== Sys2Proof/Machine/Threads.lean ====
section
/-! DEFINITION. Thread events: dispatch, slots, quantum, pre-emption, bounds, faults, completion, and the instructions of
time, quota and ending (R145 to R169, R175, R198, R200). -/
namespace Sys2Proof.Machine
open Sys2Proof

/-! ### Dispatch (R160, R161) -/

/-- The handler entry for an opcode: that of entry 0 where the opcode's is not VALID (R160). -/
def dispatchEntry (s : State) (opc : Nat) : Nat :=
  let w := rdLe s.prog (8 * opc) 8
  bits (if bit w 23 then w else rdLe s.prog 0 8) 0 23

/-- The role-table entry of an internal thread (R162). -/
def roleEntry (s : State) (t : Nat) : Nat := rdLe s.prog (0x800 + 8 * ((t - 4096) % 128)) 8

/-- The role of an internal thread: 0 when its entry is not VALID or its code is reserved (R162, R164). -/
def roleOf (s : State) (t : Nat) : Nat :=
  let w := roleEntry s t
  if bit w 23 && 1 ≤ bits w 24 4 && bits w 24 4 ≤ 8 then bits w 24 4 else 0

/-- Registers at dispatch (R161). -/
def dispatchRegs (s : State) (t : Nat) : NMap W64 :=
  let w := if isHost t then (List.range 8).map fun i => blkField (cx s t).block (8 * i) 8
    else [bits (roleEntry s t) 32 32, roleOf s t]
  (List.range w.length).foldl (fun g i => mset 0 g (i + 1) (BitVec.ofNat 64 (w.getD i 0))) []

/-- The context that dispatch gives a thread (R161, R165). -/
def dispatched (s : State) (t : Nat) : Thread :=
  let x := th s t
  { Thread.idle with
    st := .ready
    pc := if isHost t then dispatchEntry s (opcOf s t) else bits (roleEntry s t) 0 23
    g := dispatchRegs s t
    stamp := if isHost t then (bindOf s t).tenant else 0x400
    role := if isHost t then 0 else roleOf s t
    readyAt := s.order
    faultValid := x.faultValid
    faultCls := x.faultCls
    faultCode := x.faultCode
    faultPc := x.faultPc
    faultImm := x.faultImm }

/-- DISPATCH (R161); the stride records of the thread are cleared (R246). -/
def execDispatch (t : Nat) (s : State) : Res :=
  act (t < 4608 && (th s t).st = .armed && anvilMode s) s <|
    let s' := { setTh (tick s) t (dispatched s t) with strides := s.strides.filter fun e => e.1 / 8 != t }
    if heldBack s' t then holdPark s' t else enforceL s' t

/-- The helm arms an internal thread whose role-table entry is valid and not suspended (R163, R169). -/
def armInternal (s : State) (t : Nat) : State :=
  let r := roleOf s t
  let susp := r != 2 && r != 8 && bit (getF s ANV_ROLE_SUSP_SUSP) (r - 1)
  if r != 0 && !susp && (th s t).st = .idle then modTh s t fun x => { x with st := .armed, role := r } else s

/-- Internal thread numbers. -/
def internals : List Nat := (List.range 512).map (4096 + ·)

/-- Every internal thread that the mode lets run is armed (R163). -/
def armAll (s : State) : State := internals.foldl armInternal s

/-- CHECKPOINT threads alone, as KINDLE arms them (R163). -/
def armCheckpoint (s : State) : State := (internals.filter fun t => roleOf s t = 8).foldl armInternal s

/-! ### Slots (R149 to R153) -/

/-- Role priority (R164). -/
def rolePrio (r : Nat) : Nat :=
  match r with
  | 1 => 4 | 2 => 1 | 3 => 3 | 4 => 2 | 5 => 5 | 6 => 6 | 7 => 6 | 8 => 1 | _ => 7

/-- The internal thread next in line: highest role priority, then READY longest (R151). -/
def nextInternal (s : State) (q : Nat) : Option Nat :=
  let l := inQuad s q false .ready
  match argMin (fun e : Nat × Thread => rolePrio e.2.role) l with
  | none => none
  | some e => (argMin (fun e : Nat × Thread => e.2.readyAt) (l.filter fun x => rolePrio x.2.role = rolePrio e.2.role)).map Prod.fst

/-- The host thread that has been READY longest. -/
def nextHost (s : State) (q : Nat) : Option Nat := (argMin (fun e : Nat × Thread => e.2.readyAt) (inQuad s q true .ready)).map Prod.fst

/-- Who gets a free active slot of a quadrant (R151). -/
def slotTo (s : State) (q : Nat) : Option Nat :=
  match nextInternal s q, nextHost s q with
  | some i, some h => if (inQuad s q false .running).length < slotLimit s q then some i else some h
  | some i, none => some i
  | none, o => o

/-- XWAIT goes on after its transfer's page request was answered: the result if it has ended, else the wait (R155, R158). -/
def resumeXwait (s : State) (t rd n : Nat) : State :=
  match xferAt (th s t) n with
  | some y => if y.ended then modTh (dropXfer s t n) t fun x => x.setG rd (BitVec.ofNat 64 y.sv) else waitXfer s t t n (.xwait rd n)
  | none => s

/-- DONE's wait for outstanding operations, or its end (R200 steps 3 to 5). -/
def doneRest (s : State) (t status res : Nat) : State :=
  match openTag (th s t), openXfer (th s t) with
  | some g, _ => wait s t .media g (.ending status res)
  | none, some n => waitXfer s t t n (.ending status res)
  | none, none => finishDone s t status res

/-- BFREE goes on after a page request of a transfer that names the buffer was answered (R188). -/
def resumeBfree (s : State) (t h : Nat) : State :=
  match namesBuf s h with
  | some (_, true, g) => wait s t .media g (.bfree h)
  | some (t', false, n) => waitXfer s t t' n (.bfree h)
  | none => freeBuf s h

/-- A thread takes a slot: RUNNING, its quantum begins (R151, R152). A thread whose DONE waited ends now (R200), and
one whose wait met an uncorrectable error faults (R167). -/
def takeSlot (s : State) (t : Nat) : State :=
  let k := (th s t).cont
  let s' := modTh (tick s) t fun x => { x with st := .running, why := .none, slotAt := s.order, issued := 0 }
  match k with
  | .ending st res => doneRest (modTh s' t fun x => { x with cont := .nothing }) t st res
  | .bfree h => resumeBfree (modTh s' t fun x => { x with cont := .nothing }) t h
  | .xwait rd n => resumeXwait (modTh s' t fun x => { x with cont := .nothing }) t rd n
  | .spoiled => modTh (raise s' t 0 4) t fun x => { x with faultPc := (x.pc - 8) % 2 ^ 23 }
  | _ => s'

/-- SLOT_GRANT: a free slot of quadrant `q` (R151). -/
def execSlotGrant (q : Nat) (s : State) : Res :=
  let busy := (inQuad s q true .running).length + (inQuad s q false .running).length
  match slotTo s q with
  | some t => act (q < 4 && decide (busy < 64) && anvilMode s) s (takeSlot s t)
  | none => .next s

/-- A thread gives its slot back and is READY; what it does next stays (R152). -/
def backToReady (s : State) (t : Nat) : State := enforceL (giveBack s t) t

/-- QUANTUM_EXPIRY (R152). -/
def execQuantumExpiry (t : Nat) (s : State) : Res :=
  act ((th s t).st = .running && getF s ANV_TMO_QUANTUM * 64 ≤ (th s t).issued
      && !(inQuad s (quadOf t) (isHost t) .ready).isEmpty) s (backToReady s t)

/-! ### Bounds (R167) -/

/-- A fault that strikes a thread from outside: its queue places go with it (R159, R168). -/
def strikeDown (s : State) (t cls code : Nat) : State := raise (withdraw s t) t cls code

/-- WAIT_TIMEOUT: WAITING longer than ANV_TMO.WAIT_MS (R167). -/
def execWaitTimeout (t : Nat) (el : Elapse) (s0 : State) : Res :=
  let s := elapse s0 el
  .next (if (th s t).st = .waiting && ms (getF s ANV_TMO_WAIT_MS) < s.clk.refNs - (th s t).sinceRef then strikeDown s t 3 1 else s)

/-- LOCK_HOLD_TIMEOUT: a billet lock held longer than ANV_TMO.LOCK_MS (R167). -/
def execLockHoldTimeout (t : Nat) (el : Elapse) (s0 : State) : Res :=
  let s := elapse s0 el
  let st := (th s t).st
  let live := st = .ready || st = .running || st = .waiting || st = .parked
  .next (if live && (th s t).locks.any (fun l => ms (getF s ANV_TMO_LOCK_MS) < s.clk.refNs - l.2) then strikeDown s t 3 2 else s)

/-- RUN_LIMIT_TIMEOUT (R167). -/
def execRunLimitTimeout (t : Nat) (s : State) : Res :=
  act ((th s t).st = .running && getF s ANV_TMO_RUNLIM * 65536 ≤ (th s t).runIssued) s (raise s t 3 3)

/-! ### Faults and completions -/

/-- The counter of a fault class (R170). -/
def faultCnt (cls : Nat) : Fld :=
  match cls with
  | 0 => ANV_FCNT_DATA | 1 => ANV_FCNT_PROGRAM | 2 => ANV_FCNT_ACCESS | _ => ANV_FCNT_TIMEOUT

/-- The ending of a faulted command: its own status once acknowledged by commit, ABORTED_FAULT otherwise (R135, R168). -/
def faultEnding (s : State) (t : Nat) : Ending :=
  if (cx s t).commit then ⟨0, 0, none, (th s t).units % 2 ^ 64⟩ else ⟨0x41, 0x10 + (th s t).faultCls, none, (th s t).units % 2 ^ 64⟩

/-- THREAD_FAULT: steps 2 to 6 of R168 once its operations in progress have ended; `x` says whether the completion record
reaches host memory. -/
def execThreadFault (t : Nat) (x : Xlate) (s : State) : Res :=
  act ((th s t).st = .faulted && !mustWait s t) s <|
    let f := th s t
    let e := faultEnding s t
    let s := cleanUp s t
    let s := if inParts s t then modTh s t fun y => { y with st := .done, why := .none, cont := .nothing, ending := some e }
      else if isHost t then complete s t e x
      else idleRelease (roleFault (modTh s t fun y => { y with st := .idle, why := .none, cont := .nothing }) t) t
    let s := errInc (addSat s (faultCnt f.faultCls) 1) 15 1
    logEv s 17 0 [t, f.faultCls * 256 + f.faultCode, f.faultPc + f.faultImm * 2 ^ 32]

/-- COMMAND_COMPLETION: the steps of R138 for a command in DONE. -/
def execCommandCompletion (c : Nat) (x : Xlate) (s : State) : Res :=
  match (th s c).ending with
  | some e => act (isHost c && (th s c).st = .done && !mustWait s c && !inParts s c) s (complete (cleanUp s c) c e x)
  | none => .next s

/-! ### Time and quota (R198) -/

def execTnow (t rd : Nat) (s : State) : Res :=
  anvil s t (aw 0xC0 rd 0 0 0 0) (retire s t rd (BitVec.ofNat 64 s.clk.now))

/-- TFLAGS (R40, R198): the stamp-flag byte of the thread's own next stamp. -/
def execTflags (t rd : Nat) (s : State) : Res :=
  anvil s t (aw 0xC1 rd 0 0 0 0) (retire s t rd (BitVec.ofNat 64 (stampFlags s t)))

/-- TWAIT (R156, R198). -/
def execTwait (t rs1 : Nat) (s : State) : Res :=
  anvil s t (aw 0xC2 0 rs1 0 0 0)
    (if gn s t rs1 ≤ s.clk.now then adv s t else advWait s t .time (gn s t rs1) .nothing)

/-- TIME_DEADLINE: the first CCLK with CHR_NOW at or past a parked thread's deadline (R155). -/
def execTimeDeadline (t : Nat) (el : Elapse) (s0 : State) : Res :=
  let s := elapse s0 el
  .next (if (th s t).st = .parked && (th s t).why = .time && !s.d.held.contains t && (th s t).arg ≤ s.clk.now then toReady s t else s)

/-- QCHG (R198, R396): three amounts at once; a system thread charges nothing. -/
def execQchg (t rs1 rs2 imm : Nat) (s : State) : Res :=
  anvil s t (aw 0xC3 0 rs1 rs2 0 imm) <|
    let c := gn s t rs1
    let y := gn s t rs2
    if isSys s t then adv s t
    else if chargeFits s t c y imm then adv (makeCharge s t c y imm) t
    else parkCharge (adv s t) t c y imm .nothing

/-! ### Ending (R175, R200) -/

/-- DONE (R200). -/
def execDone (t rs1 rs2 : Nat) (s : State) : Res :=
  anvil s t (aw 0xE0 0 rs1 rs2 0 0) <|
    if !(th s t).locks.isEmpty then raise s t 1 7
    else if isHost t && !doneClass (gn s t rs1 % 256) then raise s t 1 1
    else doneRest (modTh (adv s t) t fun x => { x with runIssued := 0 }) t (gn s t rs1) (gn s t rs2)

/-- YIELD (R146, R200). -/
def execYield (t : Nat) (s : State) : Res :=
  anvil s t (aw 0xE8 0 0 0 0 0) (backToReady (modTh (adv s t) t fun x => { x with runIssued := 0 }) t)

/-- FAULT (R200): PROGRAM fault 0x09, IMM[7:0] for the logbook event. -/
def execFault (t imm : Nat) (s : State) : Res :=
  anvil s t (aw 0xEF 0 0 0 0 (immLt imm 256)) (modTh (raise s t 1 9) t fun x => { x with faultImm := imm })

/-- Which register fields an OP uses (rd, rs1, rs2), and which FN and IMM values it defines (R175, R184 to R200). -/
def opShape (op fn imm : Nat) : Option (Bool × Bool × Bool × Bool) :=
  let f (a b c : Bool) (ok : Bool) := some (a, b, c, ok)
  let z := fn == 0
  match op with
  | 0x01 | 0x02 | 0x03 | 0x04 | 0x05 | 0x06 | 0x07 | 0x08 | 0x09 | 0x0A | 0x0B => f true true true z
  | 0x0C | 0x0D => f true true false (fn == 0 && decide (imm < 4096))
  | 0x0E => f true false false (fn == 0 && decide (imm < 4))
  | 0x11 | 0x13 | 0x14 | 0x15 | 0x1B | 0x1F => f true true false (fn == 0)
  | 0x16 | 0x17 => f true true false (fn == 0 && decide (imm < 64))
  | 0x20 => f false true true (decide (fn ≤ 5))
  | 0x21 => f true false false (fn == 0)
  | 0x22 => f true true false (fn == 0)
  | 0x30 | 0x34 | 0x36 => f true true false (decide (fn < 4))
  | 0x31 | 0x35 => f false true true (decide (fn < 4))
  | 0x40 | 0x41 => f true true true (decide (fn < 4))
  | 0x42 => f true true false (decide (fn < 4))
  | 0x43 => f false true true (decide (fn < 4))
  | 0x50 => f true true true (decide (fn < 4))
  | 0x51 | 0x52 => f true true false z
  | 0x53 => f true false false z
  | 0x54 => f true true true (decide (fn < 64) && decide (imm < 256))
  | 0x55 => f true false false (decide (fn < 8))
  | 0x56 => f false false false (decide (fn < 4))
  | 0x57 => f false false false z
  | 0x60 | 0x61 => f false true false z
  | 0x70 => f true false false (decide (fn < 8))
  | 0x71 => f false true false z
  | 0x72 => f false true true (decide (fn < 2))
  | 0x73 => f true false false z
  | 0x80 => f true true true (decide (fn < 128) && decide (imm < 2 ^ 24))
  | 0x81 | 0x83 => f true true false z
  | 0x82 => f true false false z
  | 0x90 | 0x91 | 0x92 | 0x93 | 0x94 | 0xA0 | 0xA1 | 0xB0 | 0xB3 => f true true false z
  | 0xB1 | 0xB2 => f true true true z
  | 0xC0 | 0xC1 => f true false false z
  | 0xC2 => f false true false z
  | 0xC3 => f false true true (fn == 0)
  | 0xD0 | 0xD2 => f false true true z
  | 0xD1 => f true true true z
  | 0xD3 => f false true false z
  | 0xE0 => f false true true z
  | 0xE8 => f false false false z
  | 0xEF => f false false false (fn == 0 && decide (imm < 256))
  | _ => none

/-- The word is a defined instruction (R175). -/
def wordDefined (w : Nat) : Bool :=
  match opShape (bits w 56 8) (bits w 32 9) (bits w 0 32) with
  | none => false
  | some (rd, r1, r2, ok) => ok && (rd || bits w 51 5 == 0) && (r1 || bits w 46 5 == 0) && (r2 || bits w 41 5 == 0)

/-- UNDEFINED_INSTRUCTION: a pc outside the program store or misaligned, else an undefined word (R173, R175), else, with `f.flaw`, an
uncorrectable error in a register or local-store word that the instruction reads (R167, DATA 0x01). -/
def execUndefinedInstruction (f : Fetch) (s : State) : Res :=
  let x := th s f.thread
  let on := x.st = .running && x.cont = .nothing
  if on && !pcOk x.pc then .next (raise s f.thread 1 2)
  else if on && !wordDefined (progWord s x.pc) then .next (raise s f.thread 1 1)
  else act (on && f.flaw) s (raise s f.thread 0 1)

end Sys2Proof.Machine
end

