-- ==== Sys2Proof/Machine/Mail.lean ====
section
/-! DEFINITION. Mailboxes (R199, R492 to R497), the instructions and host registers over them, and MHELM (R16). -/
namespace Sys2Proof.Machine
open Sys2Proof

def box (s : State) (n : Nat) : Mbox := mget Mbox.empty s.d.box n
def setBox (s : State) (n : Nat) (b : Mbox) : State := { s with d := { s.d with box := mset Mbox.empty s.d.box n b } }

/-- SENDER of a local sender (R493). -/
def senderId (s : State) (kind num tenant : Nat) : Nat :=
  num + 2 ^ 13 * kind + 2 ^ 17 * b2n s.boot.side + 2 ^ 18 * s.boot.cas + 2 ^ 20 * tenant

def threadId (s : State) (t : Nat) : Nat := senderId s 0 t (th s t).stamp
def helmId (s : State) : Nat := senderId s 1 0 0
def svcId (s : State) : Nat := senderId s 2 0 0
def hostId (s : State) : Nat := senderId s 3 0 0

/-- The same identity as it arrives over a link (R493). -/
def remoteId (i : Nat) : Nat := putBits i 16 1 1

/-- A thread that waits for a message of mailbox `n`. -/
def boxWaiter (s : State) (n : Nat) : Option (Nat × Nat × Nat) :=
  s.thr.findSome? fun e => match e.2.cont with
    | .mrecv rd k a => if k = n && e.2.st = .parked then some (e.1, rd, a) else none
    | _ => none

/-- The message of a mailbox is taken: FULL clears (R495). -/
def takeBox (s : State) (n : Nat) : State := setBox s n { box s n with full := false }

/-- A thread receives the message held: BODY, then STAMP, into its local store (R493). -/
def recvInto (s : State) (t n a : Nat) : State :=
  lsWr (takeBox s n) t a ((box s n).body ++ leBytes 8 (box s n).stamp)

/-- A message is stored in a local mailbox (R495); mailbox 1 signals vector 2 (R492). -/
def storeMsg (s : State) (n sender flags stamp : Nat) (body : List Byte) (back : Option (Nat × Nat)) : State :=
  let b := box s n
  let s := if b.full then logEv s 2 0 [] else s
  let s := setBox s n { b with full := true, coll := b.coll || b.full, sender := sender, flags := flags, stamp := stamp,
                               body := padTo 0 32 body, back := back }
  let s := if n = 1 then event s 2 else s
  match boxWaiter s n with
  | some (t, rd, a) => releaseWith (recvInto s t n a) t rd (BitVec.ofNat 64 sender)
  | none => s

/-- A mailbox's acknowledge register takes a code (R496). -/
def ackReg (s : State) (n code ackBy : Nat) : State :=
  setBox s n { box s n with ackV := true, ackCode := code % 2 ^ 16, ackBy := ackBy }

/-- A message cannot be delivered (R496). -/
def undeliverable (s : State) (n : Nat) : Bool :=
  if n < 56 then !s.boot.pairEn || getF s PAIR_STAT_PSTATE ≤ 1
  else !s.boot.casEn || !bit (getF s CAS_STAT_UP) ((n - 56) % 4)

/-- Send to a mailbox: stored here, or forwarded by an out mailbox (R492, R495, R496). Messages on a link: 0, mailbox, out
mailbox, SENDER, flags, stamp, then the body. -/
def sendMsg (s : State) (n sender src : Nat) (body : List Byte) : State :=
  let fl := stampFlags s src
  let now := s.clk.now
  let s := stamped s src
  let words (dst : Nat) := [0, dst, n, remoteId sender, fl, now] ++ (padTo 0 32 body).map fun x => x.toNat
  if n < 48 then storeMsg s n sender fl now body none
  else if undeliverable s n then ackReg s n 0xFFFF 0
  else if n < 56 then send s (.pair 10 (words (n - 48)))
  else send s (.cascade ((n - 56) % 4) 10 (words (if n < 60 then 0 else 1)))

/-- Acknowledge a mailbox (R496): its register, and over the link for a message from another module. Codes 0xFF00 and up are
the module's own, so such a code writes nothing (DEDUCED, log 25). -/
def ackBox (s : State) (n code ackBy : Nat) : State :=
  if 0xFF00 ≤ code % 2 ^ 16 then s else
  let s := ackReg s n code ackBy
  match (box s n).back with
  | some (o, 4) => send s (.pair 10 [1, o, code % 2 ^ 16, remoteId ackBy])
  | some (o, p) => send s (.cascade p 10 [1, o, code % 2 ^ 16, remoteId ackBy])
  | none => s

/-- A thread may receive from and acknowledge a mailbox (R494). -/
def boxRcv (s : State) (t n : Nat) : Bool := 4 ≤ n && n < 48 && getF s (MBX_CFG_RCV n) == t

/-- A local-store operand of `n` bytes, 8-byte aligned, within byte 511 (R172). -/
def lsDesc (s : State) (t r n : Nat) : Option Nat := lsAddr s t r 0 n 8

/-- MSEND (R199, R494). -/
def execMsend (t rs1 rs2 : Nat) (s : State) : Res :=
  anvil s t (aw 0xD0 0 rs1 rs2 0 0) <|
    let n := gn s t rs1 % 64
    if !isSys s t && !(4 ≤ n && n < 48 && flag s (MBX_CFG_HOSTSEND n)) then raise s t 2 6
    else match lsDesc s t rs2 32 with
      | none => raise s t 1 0x0A
      | some a => sendMsg (adv s t) n (threadId s t) t (rdBytes (th s t).ls a 32)

/-- MRECV (R199, R494, R495). -/
def execMrecv (t rd rs1 rs2 : Nat) (s : State) : Res :=
  anvil s t (aw 0xD1 rd rs1 rs2 0 0) <|
    let n := gn s t rs1 % 64
    if !boxRcv s t n then raise s t 2 6
    else match lsDesc s t rs2 40 with
      | none => raise s t 1 0x0A
      | some a =>
        if (box s n).full then retire (recvInto s t n a) t rd (BitVec.ofNat 64 (box s n).sender)
        else advWait s t .mailbox n (.mrecv rd n a)

/-- MACK (R199, R496). -/
def execMack (t rs1 rs2 : Nat) (s : State) : Res :=
  anvil s t (aw 0xD2 0 rs1 rs2 0 0) <|
    let n := gn s t rs1 % 64
    if !boxRcv s t n then raise s t 2 6 else adv (ackBox s n (gn s t rs2) (threadId s t)) t

/-! ### The helm's queue (R16, R128) -/

/-- Admin opcodes (R129), and FLUSH, which the helm answers from any bound context (R199, R531). -/
def helmOpc (o : Nat) : Bool := o == 5 || (0x80 ≤ o && o ≤ 0x8F)

/-- The context is the selected admin source (R84, R128). -/
def isAdminCtx (s : State) (c : Nat) : Bool := !flag s HELM_ADMIN_SRC && c == adminCtx s

/-- What the helm answers at once: a block other than FLUSH from another source than the admin source, an opcode it does not know
(R84, R128, R199). -/
def helmRefusal (s : State) (src opc : Nat) : Option Ending :=
  if opc != 5 && !(if src = 9999 then flag s HELM_ADMIN_SRC else isAdminCtx s src) then some ⟨0x13, 3, none, 0⟩
  else if !helmOpc opc then some ⟨0x10, 0, none, 0⟩
  else none

/-- A block passes to the helm. -/
def toHelm (s : State) (src block : Nat) (params : List Byte) (addr : Nat) : State :=
  let r : HelmReq := ⟨src, block, params, addr, false, helmRefusal s src (bits block 0 8), []⟩
  { s with d := { s.d with helm := s.d.helm ++ [r] } }

/-- MHELM (R16, R199): the latched block goes to the helm, and the thread parks until it answers; its ANV_WAITARG names no mailbox and
shows 0 (DESIGN CHOICE, log 105). -/
def execMhelm (t rs1 : Nat) (s : State) : Res :=
  anvil s t (aw 0xD3 0 rs1 0 0 0) <|
    if isSys s t then raise s t 2 7
    else match lsDesc s t rs1 16 with
      | none => raise s t 1 0x0A
      | some a =>
        let s := modTh (advWait s t .mailbox 0 (.mhelm a)) t fun x => { x with withHelm := opcOf s t != 5 }
        toHelm s t (cx s t).block [] a

/-! ### Host admin software (R494, R502) -/

/-- MBX_CTL.SEND: MBX_BODY of mailbox `n` goes to it. -/
def mbxSend (s : State) (n : Nat) : State :=
  sendMsg s n (hostId s) srcMbx ((List.range 4).flatMap fun k => leBytes 8 (getF s (MBX_BODY_WORD n k)))

/-- MBX_CTL.TAKE: mailbox 1 only. -/
def mbxTake (s : State) (n : Nat) : State := if n = 1 then takeBox s 1 else s

/-- MBX_CTL.ACK: mailbox 1 only. -/
def mbxAck (s : State) (n code : Nat) : State := if n = 1 then ackBox s 1 code (hostId s) else s

def execMbxCtlSend (n : Nat) (s : State) : Res := act (n < 64 && regOk s 2) s (mbxSend s n)
def execMbxCtlTake (n : Nat) (s : State) : Res := act (n < 64 && regOk s 2) s (mbxTake s n)
def execMbxCtlAck (n code : Nat) (s : State) : Res := act (n < 64 && regOk s 2) s (mbxAck s n code)

end Sys2Proof.Machine
end

