-- ==== Sys2Proof/Machine/Xfers.lean ====
section
/-! DEFINITION. Transfers, cipher and parity accumulators: XIN to XPOLL, CENC, CDEC, PXOPEN to PXREB, and the ends of their
transfers (R181, R182, R194 to R197, R343 to R345, R356, R382 to R389). -/
namespace Sys2Proof.Machine
open Sys2Proof

/-! ### Descriptors (R181, R182) -/

/-- The 8-byte words of a descriptor in local store. -/
def descWords (s : State) (t a n : Nat) : List Nat := (List.range n).map fun i => lsLe s t (a + 8 * i) 8

def ctlHandle (w : Nat) : Nat := bits w 0 32
def ctlFrame (w : Nat) : Nat := bits w 32 8
/-- Frames of the transfer. -/
def ctlCount (w : Nat) : Nat := bits w 40 8 + 1
def ctlPix (w : Nat) : Bool := bit w 48
def ctlGuard (w : Nat) : Bool := bit w 49
def ctlRef (w : Nat) : Bool := bit w 50
def ctlApp (w : Nat) : Bool := bit w 51
def ctlZero (w : Nat) : Bool := bit w 52
def ctlZpi (w : Nat) : Bool := bit w 53

/-- A buffer operand: held, and its frames within the buffer (R194). -/
def bufFault (s : State) (t h first n : Nat) : Option (Nat × Nat) :=
  if !holds s t h then some (1, 4)
  else match bufAt s h with
    | some b => if frames b.pool < first + n then some (2, 4) else none
    | none => some (1, 4)

/-- Begin a transfer in the lowest free number, or wait with reason DMA while 16 are in use (R194, R196). -/
def startXfer (s : State) (t rd : Nat) (kind : XKind) (w hs : List Nat) : State :=
  match freeXfer (th s t) with
  | none => wait s t .dma ((openXfer (th s t)).getD 0) .again
  | some n =>
    retire (modTh s t fun x => { x with xfers := mset none x.xfers n (some ⟨kind, w, hs, false, 0, none, 0⟩) }) t rd
      (BitVec.ofNat 64 n)

/-- XIN, XOUT and XCOPY issue (R194). -/
def issueXfer (op : Nat) (kind : XKind) (t rd rs1 : Nat) (s : State) : Res :=
  anvil s t (aw op rd rs1 0 0 0) <|
    match lsDesc s t rs1 48 with
    | none => raise s t 1 0x0A
    | some a =>
      let w := descWords s t a 6
      let c := w.getD 2 0
      let src := bits (w.getD 0 0) 0 32
      let f1 := bufFault s t (ctlHandle c) (ctlFrame c) (ctlCount c)
      let f2 := if kind = .xcopy then bufFault s t src (bits (w.getD 0 0) 32 8) (ctlCount c) else none
      match f1.or f2 with
      | some (k, d) => raise s t k d
      | none => startXfer s t rd kind w (if kind = .xcopy then [ctlHandle c, src] else [ctlHandle c])

def execXin (t rd rs1 : Nat) (s : State) : Res := issueXfer 0x90 .xin t rd rs1 s
def execXout (t rd rs1 : Nat) (s : State) : Res := issueXfer 0x91 .xout t rd rs1 s
def execXcopy (t rd rs1 : Nat) (s : State) : Res := issueXfer 0x92 .xcopy t rd rs1 s

/-- NOTAG and PENDING as SV words (R178). -/
def svNotag : W64 := svWord 0xF5 0 none
def svPending : W64 := svWord 0xF1 0 none

/-- XWAIT (R194): a transfer stopped at a page request shows PAGEREQ (R155). -/
def execXwait (t rd rs1 : Nat) (s : State) : Res :=
  anvil s t (aw 0x93 rd rs1 0 0 0) <|
    let n := gn s t rs1 % 16
    match xferAt (th s t) n with
    | none => retire s t rd svNotag
    | some y =>
      if y.ended then dropXfer (retire s t rd (BitVec.ofNat 64 y.sv)) t n
      else match y.page with
        | some (_, a) => advWait s t .pagereq a (.xwait rd n)
        | none => advWait s t .dma n (.xwait rd n)

def execXpoll (t rd rs1 : Nat) (s : State) : Res :=
  anvil s t (aw 0x94 rd rs1 0 0 0) <|
    let n := gn s t rs1 % 16
    match xferAt (th s t) n with
    | none => retire s t rd svNotag
    | some y => if y.ended then dropXfer (retire s t rd (BitVec.ofNat 64 y.sv)) t n else retire s t rd svPending

/-! ### Protection information (R385 to R387) -/

/-- The 16 bytes of protection information. -/
def piBytes (guard app ref : Nat) : List Byte := leBytes 8 guard ++ leBytes 2 app ++ leBytes 6 ref

/-- The first check that fails, in the order of R387, as a status class. -/
def piCheck (g r a : Bool) (data pi : List Byte) (ref apptag appmask : Nat) : Option Nat :=
  if g && leNat (pi.take 8) != crc64 data then some 0x20
  else if r && leNat ((pi.drop 10).take 6) != ref then some 0x21
  else if a && (leNat ((pi.drop 8).take 2) ^^^ apptag) &&& appmask != 0 then some 0x22
  else none

/-- REFTAG of frame `k`; APPTAG and APPMASK of a descriptor. -/
def refAt (w : List Nat) (k : Nat) : Nat := (bits (w.getD 3 0) 0 48 + k) % 2 ^ 48
def appTag (w : List Nat) : Nat := bits (w.getD 4 0) 32 16
def appMask (w : List Nat) : Nat := bits (w.getD 4 0) 48 16

/-- The data and metadata of frame `f` of a buffer. -/
def frameData (s : State) (b : Buf) (f : Nat) : List Byte := locRd s (frameLoc b f) 4096
def frameMeta (s : State) (b : Buf) (f : Nat) : List Byte := locRd s (metaLoc b f) 64

/-- Plaintext protection information stands where PIC stands in a frame's metadata area (DEDUCED, log 26). -/
def framePi (s : State) (b : Buf) (f : Nat) : List Byte := ((frameMeta s b f).drop 16).take 16
def setFramePi (s : State) (b : Buf) (f : Nat) (p : List Byte) : State := locWr s ((metaLoc b f).plus 16) (padTo 0 16 p)

/-- Bytes `[lo, hi)` of frame `f` are stored: under a line covered in part the codes may find an error, which `errs` lists as `pairCheck`
does, the frame being number `k` (R268, R270, R272). -/
def storePart (s : State) (b : Buf) (f k lo hi : Nat) (errs : List (Nat × MErr)) (d : List Byte) : State :=
  let at_ := fun i => ((errs.find? fun e => e.1 = i).map Prod.snd).getD .ok
  let s := if lo % 64 = 0 then s else locMerge s ((frameLoc b f).plus lo) 1 (at_ (65 * k + lo / 64))
  let s := if hi % 64 = 0 || (lo % 64 != 0 && lo / 64 = hi / 64) then s
    else locMerge s ((frameLoc b f).plus (hi / 64 * 64)) 1 (at_ (65 * k + hi / 64))
  locWr s ((frameLoc b f).plus lo) d

/-- A transfer reads frame `f` of a buffer, its own frame `k`, with its metadata (R271). -/
def frameCheck (s : State) (b : Buf) (f k : Nat) (errs : List (Nat × MErr)) : Bool × State :=
  pairCheck s (frameLoc b f) (metaLoc b f) k errs 2

/-- The status word of a failure at frame `k`. -/
def failAt (cls detail k : Nat) : Option Nat := some (xferFail cls detail k)

/-! ### Host transfers (R194) -/

/-- One frame, or part of one, of an XIN: bytes `[lo, hi)` of frame `k` arrive; with its last byte the frame's protection
information is taken or generated and checked. -/
def xinPart (s : State) (y : Xfer) (k lo hi : Nat) (data pis : List Byte) (errs : List (Nat × MErr)) : Option Nat × State :=
  let c := y.w.getD 2 0
  match bufAt s (ctlHandle c) with
  | none => (none, s)
  | some b =>
    let f := ctlFrame c + k
    let s := storePart s b f k lo hi errs (padTo 0 (hi - lo) data)
    if hi < 4096 then (none, s) else
    let d := frameData s b f
    let p := if ctlPix c then padTo 0 16 ((pis.drop (16 * k)).take 16) else piBytes (crc64 d) (appTag y.w) (refAt y.w k)
    let s := locMerge s ((metaLoc b f).plus 16) 16 (((errs.find? fun e => e.1 = 65 * k + 64).map Prod.snd).getD .ok)
    let s := setFramePi s b f p
    if ctlPix c then
      match piCheck (ctlGuard c) (ctlRef c) (ctlApp c) d p (refAt y.w k) (appTag y.w) (appMask y.w) with
      | some e => (failAt e 1 k, addSat s CIP_PIX_INGRESS 1)
      | none => (none, s)
    else (none, s)

/-- What XOUT sends for a frame: data and protection information, zeros under ZERO and ZPI (R121, R122, R181). -/
def xoutFrame (s : State) (b : Buf) (y : Xfer) (k : Nat) : List Byte × List Byte :=
  let c := y.w.getD 2 0
  let z := List.replicate 4096 (0 : Byte)
  if ctlZero c then (z, List.replicate 16 0xFF)
  else if ctlZpi c then (z, piBytes (crc64 z) 0 ((y.w.getD 5 0 + k) % 2 ^ 48))
  else (frameData s b (ctlFrame c + k), framePi s b (ctlFrame c + k))

/-- One frame, or part of one, of an XOUT: checked as its first byte passes, then sent. -/
def xoutPart (s : State) (t : Nat) (y : Xfer) (k lo hi : Nat) (errs : List (Nat × MErr)) : Option Nat × State :=
  let c := y.w.getD 2 0
  match bufAt s (ctlHandle c) with
  | none => (none, s)
  | some b =>
    let raw := !ctlZero c && !ctlZpi c
    let (err, s) := if lo = 0 && raw then frameCheck s b (ctlFrame c + k) k errs else (false, s)
    if err then (failAt 0x41 0x10 k, s) else
    let (d, p) := xoutFrame s b y k
    let chk := if lo = 0 && !ctlZero c then
        piCheck (ctlGuard c) (ctlRef c) (ctlApp c) d p (refAt y.w k) (appTag y.w) (appMask y.w) else none
    match chk with
    | some e => (failAt e 4 k, addSat s CIP_PIX_EGRESS 1)
    | none =>
      let s := send s (.hostWrite (cx s t).port (pasidOf s t) (y.w.getD 0 0 + 4096 * k + lo) ((d.drop lo).take (hi - lo)))
      let s := if hi = 4096 && ctlPix c then
          send s (.hostWrite (cx s t).port (pasidOf s t) (y.w.getD 1 0 + 16 * k) p) else s
      (none, s)

/-- A host transfer goes on from byte `lo` to byte `hi` of its data, stopping at the first frame that fails. `data` holds the
bytes host memory returns from `lo` on, `pis` the protection information of every frame. -/
def moveTo (s : State) (t : Nat) (y : Xfer) (lo hi : Nat) (data pis : List Byte) (errs : List (Nat × MErr)) : Option Nat × State :=
  (List.range (ctlCount (y.w.getD 2 0))).foldl (fun (r : Option Nat × State) k =>
    let a := max lo (4096 * k)
    let e := min hi (4096 * k + 4096)
    if r.1.isSome || e ≤ a then r
    else if y.kind = .xin then xinPart r.2 y k (a - 4096 * k) (e - 4096 * k) (data.drop (a - lo)) pis errs
    else xoutPart r.2 t y k (a - 4096 * k) (e - 4096 * k) errs) (none, s)

/-- XCOPY: data and metadata of every frame, without checks (R194). -/
def copyFrames (s : State) (y : Xfer) (errs : List (Nat × MErr)) : Option Nat × State :=
  let c := y.w.getD 2 0
  match bufAt s (ctlHandle c), bufAt s (bits (y.w.getD 0 0) 0 32) with
  | some b, some b0 =>
    (List.range (ctlCount c)).foldl (fun (r : Option Nat × State) k =>
      if r.1.isSome then r else
      let f0 := bits (y.w.getD 0 0) 32 8 + k
      let (err, s) := frameCheck r.2 b0 f0 k errs
      if err then (failAt 0x41 0x10 k, s)
      else (none, locWr (locWr s (frameLoc b (ctlFrame c + k)) (frameData s b0 f0)) (metaLoc b (ctlFrame c + k)) (frameMeta s b0 f0)))
      (none, s)
  | _, _ => (none, s)

/-! ### Cipher (R182, R195, R370 to R374, R382 to R389) -/

def keyPage (s : State) (p : Nat) : KeyPage := mget KeyPage.empty s.rsm.keys p
def KeyPage.ver (k : KeyPage) (v : Nat) : Option KeySet := if v = 0 then k.a else k.b
/-- The page has a write version (R373). -/
def KeyPage.writable (k : KeyPage) : Bool := k.wset && (k.ver k.wver).isSome

/-- The key page a KEY word selects for a thread, none where its stamp forbids it (R166, R182). Bits 10:0 of a host thread, which must be 0, are
ignored: R182 gives another value no outcome (DESIGN CHOICE, log 146). -/
def keySel (s : State) (t w : Nat) : Option Nat :=
  if isSys s t then
    if bit w 11 && 1024 ≤ bits w 0 11 && bits w 0 11 < 1040 then some (bits w 0 11) else none
  else if bit w 11 then none else some (tenantOf s t)

/-- CENC and CDEC issue (R182, R195, R374). The words kept are the descriptor's, then the key page, then for CENC the write
version at issue (R380). -/
def issueCipher (op : Nat) (enc : Bool) (t rd rs1 : Nat) (s : State) : Res :=
  anvil s t (aw op rd rs1 0 0 0) <|
    match lsDesc s t rs1 56 with
    | none => raise s t 1 0x0A
    | some a =>
      let w := descWords s t a 7
      let c := w.getD 2 0
      let src := w.getD 5 0
      match keySel s t (w.getD 6 0) with
      | none => raise s t 2 2
      | some p =>
        if enc && !(keyPage s p).writable then raise s t 2 2 else
        match bufFault s t (ctlHandle c) (ctlFrame c) (ctlCount c) with
        | some (k, d) => raise s t k d
        | none =>
          if !enc && src != 0 && (bits src 48 3 != 4 || (!isSys s t && !(th s t).held.contains src)) then raise s t 2 4
          else startXfer s t rd (if enc then .cenc else .cdec) (w ++ [p, (keyPage s p).wver]) [ctlHandle c]

def execCenc (t rd rs1 : Nat) (s : State) : Res := issueCipher 0xA0 true t rd rs1 s
def execCdec (t rd rs1 : Nat) (s : State) : Res := issueCipher 0xA1 false t rd rs1 s

/-- The metadata of R384. -/
def blockMeta (tag pic : List Byte) (lbn kver gen : Nat) : List Byte :=
  tag ++ pic ++ leBytes 8 (lbn % 2 ^ 48 + 2 ^ 48 * kver) ++ leBytes 8 gen ++ List.replicate 16 0

/-- The tag of a block: GMAC over data and PI ciphertext and metadata bytes 32 to 47 (R383). -/
def blockTag (kt ct pic : List Byte) (lbn gen : Nat) (m32 : List Byte) : List Byte :=
  gmac kt (leBytes 8 lbn ++ leBytes 8 gen) (ct ++ pic ++ m32)

/-- A block encrypted and tagged under a key version: ciphertext, and its metadata (R382 to R384). -/
def sealBlock (ks : KeySet) (kver lbn gen : Nat) (d p : List Byte) : List Byte × List Byte :=
  let ct := xtsEnc ks.k1 ks.k2 lbn d
  let pic := xtsEnc ks.k1 ks.k2 (lbn + 2 ^ 64) p
  let m := blockMeta [] [] lbn kver gen
  (ct, blockTag ks.kt ct pic (lbn % 2 ^ 64) gen (m.take 16) ++ pic ++ m)

/-- A block's data and protection information from ciphertext and metadata, under the version the metadata names; none on a tag
mismatch, which an empty version is too (R374, R389). -/
def openBlock (kp : KeyPage) (lbn : Nat) (ct m : List Byte) : Option (List Byte × List Byte) :=
  let pic := (m.drop 16).take 16
  match kp.ver (b2n (bit (leNat ((m.drop 32).take 8)) 48)) with
  | none => none
  | some ks =>
    if blockTag ks.kt ct pic (lbn % 2 ^ 64) (leNat ((m.drop 40).take 8)) ((m.drop 32).take 16) != m.take 16 then none
    else some (xtsDec ks.k1 ks.k2 lbn ct, xtsDec ks.k1 ks.k2 (lbn + 2 ^ 64) pic)

/-- What failed cipher units do to frame `k` (R372). -/
def flawAt (l : List CipherFlaw) (k : Nat) : CipherFlaw := (l.find? fun f => f.frame = k).getD ⟨k, [], false⟩

/-- Ciphertext and metadata as failed units leave or read them. -/
def flawOn (f : CipherFlaw) (ct m : List Byte) : List Byte × List Byte :=
  if f.mask.isEmpty then (ct, m) else
  let b := xorB (ct ++ m) (padTo 0 (ct ++ m).length f.mask)
  (b.take ct.length, b.drop ct.length)

/-- The guard check of a unit that failed reports PI_GUARD (R372, R387). -/
def flawCheck (f : CipherFlaw) (r : Option Nat) : Option Nat := if f.guard then some 0x20 else r

/-- Frames of a cipher transfer: one for a CDEC with SRC (R182). -/
def Xfer.cipherCount (y : Xfer) : Nat := if y.kind = .cdec && y.w.getD 5 0 != 0 then 1 else ctlCount (y.w.getD 2 0)

/-- CENC of one frame (R195). -/
def cencFrame (s : State) (q : Nat) (y : Xfer) (k : Nat) (x : CipherRun) : Option Nat × State :=
  let c := y.w.getD 2 0
  match bufAt s (ctlHandle c), (keyPage s (y.w.getD 7 0)).ver (y.w.getD 8 0) with
  | some b, some ks =>
    let f := ctlFrame c + k
    let (err, s) := frameCheck s b f k x.errs
    if err then (failAt 0x41 0x10 k, s) else
    let d := frameData s b f
    let p := framePi s b f
    match flawCheck (flawAt x.flaws k) (piCheck true (ctlRef c) (ctlApp c) d p (refAt y.w k) (appTag y.w) (appMask y.w)) with
    | some e => (failAt e 2 k, addSat s (CIP_ERR_PI_PRE q) 1)
    | none =>
      let (ct, m) := sealBlock ks (y.w.getD 8 0) (y.w.getD 0 0 + k) (y.w.getD 1 0) d p
      let (ct, m) := flawOn (flawAt x.flaws k) ct m
      (none, locWr (locWr s (frameLoc b f) ct) (metaLoc b f) m)
  | _, _ => (none, s)

/-- CDEC of one frame (R195, R389). With SRC it reads a write-buffer frame. -/
def cdecFrame (s : State) (q : Nat) (y : Xfer) (k : Nat) (x : CipherRun) : Option Nat × State :=
  let c := y.w.getD 2 0
  let src := y.w.getD 5 0
  match bufAt s (ctlHandle c) with
  | none => (none, s)
  | some b =>
    let f := ctlFrame c + k
    let w := bits src 0 48
    let dl := if src = 0 then frameLoc b f else .dram (aWb + 4096 * w)
    let ml := if src = 0 then metaLoc b f else .dram (aWbMeta + 64 * w)
    let (err, s) := pairCheck s dl ml k x.errs 2
    if err then (failAt 0x41 0x10 k, s) else
    let m := locRd s ml 64
    let (ct, m') := flawOn (flawAt x.flaws k) (locRd s dl 4096) m
    match openBlock (keyPage s (y.w.getD 7 0)) (y.w.getD 0 0 + k) ct m' with
    | none => (failAt 0x23 0 k, addSat (locWr (locWr s (frameLoc b f) (List.replicate 4096 0)) (metaLoc b f)
        (List.replicate 64 0)) (CIP_ERR_AUTH q) 1)
    | some (d, p) =>
      let s := setFramePi (locWr (locWr s (metaLoc b f) m) (frameLoc b f) d) b f p
      match flawCheck (flawAt x.flaws k) (piCheck true (ctlRef c) (ctlApp c) d p (refAt y.w k) (appTag y.w) (appMask y.w)) with
      | some e => (failAt e 3 k, addSat s (CIP_ERR_PI_POST q) 1)
      | none => (none, s)

/-- Every frame of a cipher transfer in ascending order; a quadrant without a usable cipher fails at its first frame (R372). -/
def cipherFrames (s : State) (t : Nat) (y : Xfer) (x : CipherRun) : Option Nat × State :=
  let q := quadOf t
  if bit (getF s CIP_STAT_QDOWN) q then (failAt 0x41 0x10 0, s) else
  (List.range y.cipherCount).foldl (fun (r : Option Nat × State) k =>
    if r.1.isSome then r else if y.kind = .cenc then cencFrame r.2 q y k x else cdecFrame r.2 q y k x) (none, s)

/-! ### Parity (R197, R343 to R345, R356) -/

/-- PXOPEN's answer reaches its register: the entry is durable, in a pair with the partner too (R349). -/
def pxOpened (s : State) (t rd h : Nat) : State := modTh s t fun x => { x.setG rd (BitVec.ofNat 64 h) with cont := .nothing }

/-- PXOPEN (R197, R343, R349); its park for an accumulator is one of BUF_FBCNT.PARKS (R274). -/
def execPxopen (t rd rs1 : Nat) (s : State) : Res :=
  anvil s t (aw 0xB0 rd rs1 0 0 0) <|
    if !isSys s t then raise s t 2 7
    else match pxOpen s t (gn s t rs1) with
      | .invalid => retire s t rd (svWord 0x11 0 none)
      | .full => advWait (addSat s BUF_FBCNT_PARKS 1) t .buffer 5 (.pxopen rd (gn s t rs1) 0)
      | .opened h s' =>
        if mirrors s then modTh (adv s' t) t fun x => { x with cont := .pxopen rd h 1 } else retire s' t rd (BitVec.ofNat 64 h)

/-- PXADD (R344). -/
def execPxadd (t rd rs1 rs2 frame mem : Nat) (s : State) : Res :=
  anvil s t (aw 0xB1 rd rs1 rs2 0 (if mem < 32 then immLt frame 256 + 256 * mem else 2 ^ 32)) <|
    if !isSys s t then raise s t 2 7
    else match accAt s t (gn s t rs1), bufFault s t (gn s t rs2) frame 8 with
      | none, _ => raise s t 1 4
      | _, some (c, d) => raise s t c d
      | some (i, _), none => startXfer s t rd .pxadd [i, frame, mem] [gn s t rs2]

/-- The parity members of an accumulator's stripe: two pages in compatibility mode. -/
def accPages (s : State) (a : ParAcc) : Nat :=
  match sifAt s a.sif with | some y => if y.compat then 2 else 1 | none => 1

/-- PXCLOSE (R345). -/
def execPxclose (t rd rs1 rs2 frame : Nat) (s : State) : Res :=
  anvil s t (aw 0xB2 rd rs1 rs2 0 (immLt frame 256)) <|
    if !isSys s t then raise s t 2 7
    else match accAt s t (gn s t rs1) with
      | none => raise s t 1 4
      | some (i, a) => match bufFault s t (gn s t rs2) frame (8 * accPages s a) with
        | some (c, d) => raise s t c d
        | none => startXfer s t rd .pxclose [i, frame] [gn s t rs2]

/-- PXREB (R356). -/
def execPxreb (t rd rs1 : Nat) (s : State) : Res :=
  anvil s t (aw 0xB3 rd rs1 0 0 0) <|
    if !isSys s t then raise s t 2 7
    else match lsDesc s t rs1 16 with
      | none => raise s t 1 0x0A
      | some a =>
        let w := descWords s t a 2
        let c := w.getD 1 0
        match bufFault s t (ctlHandle c) (ctlFrame c) (bits c 40 3 + 1) with
        | some (k, d) => raise s t k d
        | none => startXfer s t rd .pxreb w [ctlHandle c]

/-- PXADD ends: the member's parts join P, and Q with coefficient g^i; a second one removes them (R344). -/
def pxaddEnd (s : State) (y : Xfer) (errs : List (Nat × MErr)) : Option Nat × State :=
  let i := y.w.getD 0 0
  let k := y.w.getD 2 0
  match mget none s.md.accs i with
  | none => (none, s)
  | some a =>
    match sifAt s a.sif, bufAt s (y.hs.getD 0 0) with
    | some st, some b =>
      match group s (st.band / nbe s) with
      | none => (none, s)
      | some g =>
        let e := st.band % nbe s
        if g.mem.length ≤ k || (parityPos g e).contains k then (some (svWord 0x11 0 none).toNat, s) else
        let f0 := y.w.getD 1 0
        let r := (List.range 8).foldl (fun (r : Option Nat × State) j =>
          if r.1.isSome then r else
          let (err, s) := frameCheck r.2 b (f0 + j) j errs
          (if err then failAt 0x41 0x10 j else none, s)) (none, s)
        if r.1.isSome then r else
        let s := r.2
        let part := (List.range 8).flatMap fun j => frameData s b (f0 + j) ++ frameMeta s b (f0 + j)
        let a' : ParAcc := { a with p := xorB a.p part, q := xorB a.q (scaleB (gfPow (dataIdx g e k)) part)
                                    added := putBits a.added k 1 (1 - bits a.added k 1) }
        (none, { s with md := { s.md with accs := s.md.accs.map fun x => match x.2 with
          | some z => if z.serial = a.serial then (x.1, some a') else x
          | none => x } })
    | _, _ => (none, s)

/-- Store eight information parts in frames `f` to `f + 7`. -/
def putParts (s : State) (b : Buf) (f : Nat) (parts : List Byte) : State :=
  (List.range 8).foldl (fun s j =>
    let p := (parts.drop (4160 * j)).take 4160
    locWr (locWr s (frameLoc b (f + j)) (p.take 4096)) (metaLoc b (f + j)) (p.drop 4096)) s

/-- PXCLOSE ends: parity goes to the frames, the slots are freed, the entry is CLOSING (R345). -/
def pxcloseEnd (s : State) (y : Xfer) : State :=
  match mget none s.md.accs (y.w.getD 0 0) with
  | none => s
  | some a =>
    match bufAt s (y.hs.getD 0 0) with
    | none => s
    | some b =>
      let f := y.w.getD 1 0
      let s := putParts s b f a.p
      let s := if accPages s a = 2 then putParts s b (f + 8) a.q else s
      let s := freeAccs s a.serial
      wakePx (match sifAt s a.sif with
        | some st => if st.st = 1 then setSif s a.sif (some { st with st := 2 }) else s
        | none => s)

/-- PXREB ends (R356): each slot by the rules of R354; 1 when every slot read from the other members is erased. -/
def pxrebEnd (s : State) (y : Xfer) (reads : List MRead) : Option Nat × State :=
  let ppa := bits (y.w.getD 0 0) 0 48
  let c := y.w.getD 1 0
  match bufAt s (ctlHandle c) with
  | none => (none, s)
  | some b =>
    let n := bits c 40 3 + 1
    let blank := match rebRule s ppa with
      | .acc _ x _ _ | .read x _ _ => !(membersRead s ppa).isEmpty && (membersRead s ppa).all fun i => (List.range n).all fun j =>
          (memberPart s x ppa (ppaSlot ppa + j) i).isNone
      | _ => false
    if blank then (some 1, s) else
    let res := (List.range n).map fun j =>
      rebuildSlot s ppa (ppaSlot ppa + j) ((reads.filter fun r => r.slot = ppaSlot ppa + j && 4 ≤ r.code).map (·.member))
    let s := (List.range n).foldl (fun s j => countReads s ppa (ppaSlot ppa + j) (retryEntry s 0x10).isSome reads) s
    if res.any (· == .offline) then (some (svWord 0x31 0 none).toNat, s)
    else if res.any (· == .goOffline) then (some (svWord 0x31 0 none).toNat, pageOffline s ppa)
    else if res.any (· == .lost) then (some (svWord 0x30 1 none).toNat, s)
    else
      (none, (List.range n).foldl (fun s j => match res.getD j .lost with
        | .ok p => locWr (locWr s (frameLoc b (ctlFrame c + j)) (p.take 4096)) (metaLoc b (ctlFrame c + j)) (p.drop 4096)
        | _ => s) s)

/-! ### Ends -/

/-- A transfer of a thread that runs: issued, not ended, not stopped at a page request. -/
def liveXfer (s : State) (t n : Nat) : Option Xfer :=
  match xferAt (th s t) n with
  | some y => if y.ended || y.page.isSome then none else some y
  | none => none

/-- TRANSFER_END (R194, R344, R345, R356): what is left of the transfer is moved. `data` and `pis` are what host memory
returns, `errs` what the codes find in the frames read, `reads` the member reads of a rebuild that did not end HARD_OK
without a corrected bit. -/
def execTransferEnd (t n : Nat) (data pis : List Byte) (errs : List (Nat × MErr)) (reads : List MRead) (s : State) : Res :=
  match liveXfer s t n with
  | none => .next s
  | some y =>
    match y.kind with
    | .cenc | .cdec => .next s
    | .xin | .xout =>
      let (e, s') := moveTo s t y y.pos (4096 * ctlCount (y.w.getD 2 0)) data pis errs
      .next (endXfer s' t n (e.getD 0))
    | .xcopy => let (e, s') := copyFrames s y errs
                .next (endXfer s' t n (e.getD 0))
    | .pxadd => let (e, s') := pxaddEnd s y errs
                .next (endXfer s' t n (e.getD 0))
    | .pxclose => .next (endXfer (pxcloseEnd s y) t n 0)
    | .pxreb =>
      act (!rebuildHeld s (bits (y.w.getD 0 0) 0 48)) s <|
        let (e, s') := pxrebEnd s y reads
        endXfer s' t n (e.getD 0)

/-- CIPHER_TRANSFER_END (R370): the last frame of a CENC or CDEC ends its steps. -/
def execCipherTransferEnd (t n : Nat) (x : CipherRun) (s : State) : Res :=
  match liveXfer s t n with
  | none => .next s
  | some y =>
    act (y.kind = .cenc || y.kind = .cdec) s <|
      let (e, s') := cipherFrames s t y x
      endXfer s' t n (e.getD 0)

end Sys2Proof.Machine
end

