-- ==== Sys2Proof/Machine/Clock.lean ====
section
/-! DEFINITION. The chronometer: ticks, corrections, SET_TIME, dead reckoning; the almanac's scan and the entries that end in
this module: WATCH, REFILL, SNAPSHOT, SCRUB, PATROL, POST (R35 to R57). -/
namespace Sys2Proof.Machine
open Sys2Proof

/-- The tick period P in ns (R35). -/
def tickP (s : State) : Nat := 1000 * getF s CHR_TICK_PER_PERIOD_US

/-- The helm answers the oldest command of a source it is still working on (R16). -/
def answerFirst (src : Nat) (e : Ending) (out : List Byte) : List HelmReq → List HelmReq
  | [] => []
  | r :: l => if r.src = src && r.answer.isNone then { r with answer := some e, out := out } :: l else r :: answerFirst src e out l

def answerHelm (s : State) (src : Nat) (e : Ending) (out : List Byte) : State :=
  { s with d := { s.d with helm := answerFirst src e out s.d.helm } }

def okEnd : Ending := ⟨0, 0, none, 0⟩

/-! ### Corrections and steps (R41, R44, R45) -/

/-- A correction of `e` begins: SLEW shows while 1 µs or more is left (R41). -/
def slewBy (s : State) (e : Int) (fromSet : Bool) : State :=
  setF { s with clk := { s.clk with slewRem := e, fromSet := fromSet } } CHR_STAT_SLEW (b2n (1000 ≤ e.natAbs))

/-- A periodic almanac entry after a backward step to `now`: DUE becomes the first multiple of its period after CHR_NOW, an entry
still due stays due (R44; DEDUCED, log 30). -/
def realign (now : Nat) (e : AlmEntry) : AlmEntry :=
  if e.period = 0 || e.due ≤ now then e else { e with due := (now / e.period + 1) * e.period }

/-- An almanac entry as 32 bytes (R48). -/
def almBytes (e : AlmEntry) : List Byte :=
  leBytes 8 e.due ++ leBytes 8 e.period ++ leBytes 8 e.arg ++ leBytes 1 e.kind ++ leBytes 1 e.rank
    ++ leBytes 1 (b2n e.en + 2 * b2n e.needset + 4 * b2n e.fired) ++ leBytes 1 0 ++ leBytes 4 e.count

/-- An almanac entry is written: committed under R71, and in a pair mirrored to the partner (R48, R425). -/
def setAlm (s : State) (i : Nat) (e : AlmEntry) : State :=
  let s := commit { s with ret := { s.ret with alm := mset AlmEntry.unused s.ret.alm i e } }
  if mirrors s then send s (.pair 6 ([1, i] ++ toNats (almBytes e))) else s

/-- CHR_NOW is stepped to `t` by SET_TIME: deadlines of waiting threads move with it and the channel budgets stay until the next
boundary (R45), the scan goes on from the new value, a forward step notes the entries it skips, a backward one realigns the
periodic entries (R44). -/
def stepTo (s : State) (t : Nat) : State :=
  let old := s.clk.now
  let mv := fun (d : Nat) => if old ≤ t then d + (t - old) else d - (old - t)
  let s := { s with thr := s.thr.map fun (e : Nat × Thread) =>
    (e.1, if e.2.st = TSt.parked && e.2.why = Why.time && !s.d.held.contains e.1 then { e.2 with arg := mv e.2.arg } else e.2) }
  let s := setTen s { s.d.ten with due := s.d.ten.due.map fun d => (d.1, d.2.1, min t d.2.2.1, d.2.2.2) }
  let s := { s with clk := { s.clk with now := t, steps := s.clk.steps + 1, slewRem := 0, fromSet := false, scanMs := t / 1000000
                                        lastTick := s.clk.lastTick.map mv, tickBase := mv s.clk.tickBase
                                        drSince := mv s.clk.drSince, budgetMs := t / 1000000
                                        refHold := if old ≤ t then t else min t s.clk.refHold
                                        skip := if old ≤ t then s.clk.skip ++ (s.ret.alm.filter fun e => e.2.en && old < e.2.due && e.2.due ≤ t).map Prod.fst else s.clk.skip } }
  let s := setF s CHR_STAT_SLEW 0
  if t < old then
    s.ret.alm.foldl (fun s (e : Nat × AlmEntry) => if realign t e.2 = e.2 then s else setAlm s e.1 (realign t e.2)) s
  else s

/-- UNSET falls, and what waits for the time of day no longer waits (R42, R53). -/
def timeSet (s : State) : State := setF s CHR_STAT_UNSET 0

/-- The nearest multiple of P (R37); midway the lower one (DESIGN CHOICE, log 31). -/
def nearest (p n : Nat) : Nat := if 2 * (n % p) ≤ p then n / p * p else n / p * p + p

/-- Signed phase error against the nearest multiple of P. -/
def phaseErr (s : State) : Int := (s.clk.now : Int) - (nearest (tickP s) s.clk.now : Nat)

/-- CHR_ERR.LAST_ERR_NS: two's complement, saturating (R58). -/
def errField (e : Int) : Nat := ((max (-(2 ^ 31 - 1)) (min e (2 ^ 31 - 1))) % 2 ^ 32).toNat

/-- A pending SET_TIME takes effect with CHR_NOW at `v` (R42, R43). -/
def applyPend (s : State) (p : SetPend) (v : Nat) : State :=
  answerHelm (timeSet (stepTo { s with clk := { s.clk with pend := none } } v)) p.req okEnd []

/-! ### Ticks and dead reckoning (R36, R37, R46, R47) -/

/-- Dead reckoning begins (R46), or goes on with its first candidate awaited again (DEDUCED, log 131); a SET_TIME that awaited a tick is
applied (R43). -/
def enterDr (s : State) : State :=
  let s := { s with clk := { s.clk with anyNext := true, lastTick := none, drSince := if flag s CHR_STAT_DR then s.clk.drSince else s.clk.now } }
  if flag s CHR_STAT_DR then s else
  let s := event (logEv (setF (setF s CHR_STAT_DR 1) CHR_STAT_DR_SEEN 1) 1 0 []) 6
  match s.clk.pend with
  | some p => applyPend s p (p.t + s.clk.now - p.edge)
  | none => s

/-- The phase error of the tick just accepted is stored (R37). -/
def storeErr (s : State) : State := setF s CHR_ERR_LAST_ERR_NS (errField (phaseErr s))

/-- The phase error of an accepted tick is taken and removed by slewing (R37). What is left of a SET_TIME correction stays to be
removed, and the error CHR_NOW will show after it is added, unless `replace` (R41, R47; DEDUCED, log 29). -/
def tickErr (s : State) (replace : Bool) : State :=
  let r := s.clk.slewRem
  if s.clk.fromSet && r != 0 && !replace then
    slewBy (storeErr s) (r + phaseErr { s with clk := { s.clk with now := ((s.clk.now : Int) - r).toNat } }) true
  else slewBy (storeErr s) (phaseErr s) false

/-- The chronometer leaves dead reckoning at the second good tick and starts the fix (R47). -/
def leaveDr (s : State) : State :=
  let late := 2000 * tickP s < s.clk.now - s.clk.drSince
  let s := event (logEv (setF s CHR_STAT_DR 0) 1 1 []) 6
  tickErr (if late then setF s CHR_STAT_UNSET 1 else s) true

/-- CHR_TICK: time passes up to the rise of a pulse `hi` ns high after `lo` ns low; the active edge that CHR_CTL.TICK_EDGE selects
is its rise or, `hi` later, its fall (R35); a candidate is accepted or rejected (R36). -/
def execChrTick (hi lo : Nat) (el : Elapse) (s0 : State) : Res :=
  let s := elapse s0 ⟨el.ns + (if flag s0 CHR_CTL_TICK_EDGE then hi else 0), el.corr⟩
  if mode s = mOff || !flag s CHR_CTL_TICK_EN || hi < 100 || lo < 100 then .next s else
  let p := tickP s
  let at_ := fun (s : State) => { s with clk := { s.clk with lastTick := some s.clk.now, anyNext := false } }
  let good := match s.clk.lastTick with
    | some l => decide (9 * p ≤ 10 * (s.clk.now - l)) && decide (10 * (s.clk.now - l) ≤ 11 * p)
    | none => false
  if s.clk.anyNext || s.clk.lastTick.isNone then
    let s := at_ s
    .next (match s.clk.pend with
      | some q => at_ (applyPend (storeErr s) q q.t)
      | none => if flag s CHR_STAT_DR then storeErr s else tickErr s false)
  else if good then
    let s := at_ s
    .next (match s.clk.pend with
      | some q => at_ (applyPend (storeErr s) q q.t)
      | none => if flag s CHR_STAT_DR then leaveDr s else tickErr s false)
  else .next (setF (addSat s CHR_GLITCH_CNT_COUNT 1) CHR_STAT_GLITCH 1)

/-- DEAD_RECKONING_ENTRY: 1.5 P pass without an accepted tick (R46). -/
def execDeadReckoningEntry (el : Elapse) (s0 : State) : Res :=
  let s := elapse s0 el
  let since := s.clk.lastTick.getD s.clk.tickBase
  .next (if mode s != mOff && (mode s != mKindle || 5 ≤ getF s HELM_KINDLE_STEP)
      && 3 * tickP s ≤ 2 * (s.clk.now - since) && !(flag s CHR_STAT_DR && s.clk.lastTick.isNone) then enterDr s else s)

/-- SLEW_COMPLETE: less than 1 µs is left of the correction (R41). -/
def execSlewComplete (el : Elapse) (s0 : State) : Res :=
  let s := elapse s0 el
  .next (if s.clk.slewRem.natAbs < 1000 then setF s CHR_STAT_SLEW 0 else s)

/-- A write to CHR_CTL.TICK_EN (R46, R58). -/
def tickEnWrite (s : State) (v : Bool) : State :=
  let s := setF s CHR_CTL_TICK_EN (b2n v)
  if v then { s with clk := { s.clk with anyNext := true } } else if flag s CHR_STAT_DR then s else enterDr s

def execTickEnWrite (v : Bool) (s : State) : Res := act (regOk s 1) s (tickEnWrite s v)

/-- SET_TIME with site time `t` from source `src` (R42, R43): the command is answered at once or when the step is made.
The helm takes a SET_TIME up only while no earlier one awaits its edge (DESIGN CHOICE, log 32). Before the first tick since KINDLE
the edge awaited is due at the next multiple of P of CHR_NOW (DESIGN CHOICE, log 96). -/
def setTime (s : State) (src t : Nat) : State :=
  let p := tickP s
  let dr := flag s CHR_STAT_DR
  let now := s.clk.now
  let edge := match s.clk.lastTick with
    | some l => l + ((now - l) / p + 1) * p
    | none => (now / p + 1) * p
  let await := { s with clk := { s.clk with pend := some ⟨nearest p t, now, edge, src⟩, slewRem := 0, fromSet := false } }
  let await := setF await CHR_STAT_SLEW 0
  if flag s CHR_STAT_UNSET then
    if dr then answerHelm (timeSet (stepTo s t)) src okEnd [] else await
  else if t ≤ now + 1000000000 && now ≤ t + 1000000000 then answerHelm (slewBy s ((now : Int) - t) true) src okEnd []
  else if now < t then (if dr then answerHelm (stepTo s t) src okEnd [] else await)
  else answerHelm s src ⟨0x13, 6, none, 0⟩ []

/-! ### The almanac (R48 to R57) -/

def almEntry (s : State) (i : Nat) : AlmEntry := mget AlmEntry.unused s.ret.alm i
/-- A kind fires in this mode (R57). -/
def kindFires (s : State) (k : Nat) : Bool :=
  if inMode s [mRun, mBanked, mSafe, mService] then true
  else if mode s = mStandby then [1, 3, 4, 5, 7, 9].contains k
  else false

/-- The order of kinds within a scan (R54). -/
def kindOrder (k : Nat) : Nat :=
  match k with
  | 2 => 0 | 1 => 1 | 3 => 2 | n => n

/-- An entry of kind `k` fires in the scan in progress (R53, R57). -/
def firesNow (s : State) (k : Nat) (e : AlmEntry) : Bool :=
  e.en && e.kind == k && decide (e.due ≤ s.clk.scanAt) && !(e.needset && flag s CHR_STAT_UNSET) && kindFires s k

/-- Entries that fire in a scan, in firing order (R53, R54). Refills are hardware's and in no list (R55). -/
def scanDue (s : State) : List (Nat × Nat) :=
  let l := s.ret.alm.filter fun e => e.2.kind != 0 && e.2.kind != 2 && e.2.kind ≤ 9 && firesNow s e.2.kind e.2
  let key := fun (e : Nat × AlmEntry) => (kindOrder e.2.kind * 256 + e.2.rank) * 256 + e.1
  (l.mergeSort fun a b => key a ≤ key b).map fun e => (e.2.kind, e.1)

/-- The listed entries that still fire: an entry written since, or held since by a change of mode, does not (R53, R57). -/
def dueNow (s : State) : List (Nat × Nat) := s.clk.due.filter fun e => firesNow s e.1 (almEntry s e.2)

/-- ALMANAC_SCAN: at a millisecond boundary QUOTA_SET's parameters take effect (R395) and the entries due are listed (R53). A scan
still in progress is late, and the scans of the boundaries that pass meanwhile follow it one by one (R55). -/
def execAlmanacScan (el : Elapse) (s0 : State) : Res :=
  let s := elapse s0 el
  let ms := s.clk.now / 1000000
  .next (if mode s = mOff || ms ≤ s.clk.scanMs then s
    else if !(dueNow s).isEmpty then setF { s with clk := { s.clk with lateMs := ms } } CHR_STAT_LATE 1
    else
      let b := if s.clk.scanMs < s.clk.lateMs then s.clk.scanMs + 1 else ms
      let s := applyQuota { s with clk := { s.clk with scanMs := b, scanAt := if b < ms then b * 1000000 else s.clk.now } } (b * 1000000)
      { s with clk := { s.clk with due := scanDue s } })

/-- A fired entry: COUNT grows, DUE advances by whole periods past CHR_NOW, or after a forward step that skipped it to the first
multiple of its period (R44); a one-shot entry is FIRED (R48, R53). -/
def firedEntry (now : Nat) (skipped : Bool) (e : AlmEntry) : AlmEntry :=
  let c := (e.count + 1) % 2 ^ 32
  if e.period = 0 then { e with fired := true, en := false, count := c }
  else if skipped then { e with due := (now / e.period + 1) * e.period, count := c }
  else { e with due := if e.due ≤ now then e.due + ((now - e.due) / e.period + 1) * e.period else e.due, count := c }

/-- Entry `i` fires at CHR_NOW `now`: its new form is stored. -/
def fireAt (s : State) (now i : Nat) : State :=
  let e := firedEntry now (s.clk.skip.contains i) (almEntry s i)
  setAlm { s with clk := { s.clk with skip := s.clk.skip.filter (· != i) } } i e

/-- CHR_NOW of the millisecond boundary at which a refill entry fires: the first at or after its DUE, and after a hold or a step the
first boundary that follows it (R45, R55, R57). -/
def refillAt (s : State) (e : AlmEntry) : Nat :=
  if e.due ≤ s.clk.refHold then (s.clk.refHold / 1000000 + 1) * 1000000 else ceilDiv e.due 1000000 * 1000000

/-- The refill entry that fires next, with the boundary it fires at: none while no boundary is reached. -/
def nextRefill (s : State) : Option (Nat × Nat) :=
  (((s.ret.alm.filter fun e => e.2.en && e.2.kind == 2 && !(e.2.needset && flag s CHR_STAT_UNSET) && kindFires s 2
      && decide (refillAt s e.2 ≤ s.clk.now)).map fun e => (refillAt s e.2, e.2.rank, e.1)).mergeSort
    fun a b => a.1 < b.1 || (a.1 == b.1 && a.2.1 * 256 + a.2.2 ≤ b.2.1 * 256 + b.2.2)).head?.map fun e => (e.2.2, e.1)

/-- The next entry due is of kind `k`: its number, its ARG, and the state with the entry fired. The refill of the scan's boundary
comes before every other kind (R54). -/
def fire (s : State) (k : Nat) : Option (Nat × Nat × State) :=
  match dueNow s, nextRefill s with
  | (k', i) :: l, r =>
    if k' = k && !(r.any fun r => decide (r.2 ≤ s.clk.scanAt)) then
      some (i, (almEntry s i).arg, fireAt { s with clk := { s.clk with due := l } } s.clk.scanAt i)
    else none
  | [], _ => none

/-- A row of R49: the action of the next entry due when it is of kind `k`. -/
def almRow (k : Nat) (s : State) (f : Nat → State → State) : Res :=
  match fire s k with
  | some (_, arg, s') => .next (f arg s')
  | none => .next s

/-- The share of R52. -/
def shareOf (s : State) : Nat :=
  let b := getF s CHR_WSHARE_BASE
  let b := if flag s MAP_OVL_OVER then max b (getF s CHR_WSHARE_OVERLAY) else b
  let b := if lowFreeBands s then max b (getF s CHR_WSHARE_SPARE) else b
  let busy := s.ret.groups.any fun e => match e.2 with | some g => g.st = .rebuilding || g.st = .reshaping | none => false
  let b := if busy then max b (getF s CHR_WSHARE_REBUILD) else b
  min b (getF s CHR_WSHARE_CAP)

/-- S takes effect in every quadrant: L, pre-emption, buffer caps (R150, R153, R259). -/
def applyShare (s : State) : State :=
  let sh := shareOf s
  let s := setF s CHR_SHARE_NOW_SHARE sh
  let s := (List.range 4).foldl (fun s q => setF s (ANV_QSTAT_INTSLOTS q) (min 64 (ceilDiv (64 * sh) 256))) s
  setCaps ((List.range 4).foldl preempt s)

/-- CHR_NOW is written to RSM (R39). -/
def saveNow (s : State) : State := commit { s with ret := { s.ret with now := s.clk.now } }

/-- A checkpoint round starts at this watch boundary 10 minutes after the last, or when the journal is past half its limit (R229). -/
def dueRound (s : State) : State :=
  if mayRound s && (600000000000 ≤ s.clk.now - s.map.roundAt || getF s MAP_JCTL_JLIM_GIB * 2 ^ 29 ≤ sinceStart s) then startRound s else s

/-- The helm's work at a watch boundary in the order of R51, then what R163, R169, R229 and R353 tie to it. -/
def watch (s : State) : State :=
  let s := (List.range 4).foldl (fun s q => (List.range 16).foldl (fun s w => setF s (MC_ERRCNT_WATCH q w) 0) s) s
  let s := { s with ch := { s.ch with errw := [] }, d := { s.d with roleFaults := [] } }
  let s := saveNow s
  let s := addWrap (applyShare s) CHR_SHARE_NOW_WATCH_SEQ 1
  let s := if getF s HELM_VOTE_MASKED != 0 then addWrap (setF s HELM_VOTE_MASKED 0) HELM_VOTE_RESYNCS 1 else s
  let s := { s with clk := { s.clk with watchMs := getF s CHR_WATCH_PERIOD_MS } }
  let e := almEntry s 0
  let p := ms s.clk.watchMs
  let s := if e.period = p then s else setAlm s 0 { e with period := p, due := (s.clk.now / p + 1) * p }
  dueRound (if inMode s [mRun, mService] then armAll s else s)

def execWatch (s : State) : Res := almRow 1 s fun _ s => watch s
/-- REFILL: hardware refills at each millisecond boundary reached, whatever the helm's scan does, and QUOTA_SET's parameters take effect
before it (R55, R57, R395). -/
def execRefill (s : State) : Res :=
  match nextRefill s with
  | some (i, b) => .next (refill (fireAt (applyQuota s b) b i))
  | none => .next s
def execSnapshot (s : State) : Res := almRow 3 s fun _ s => snapshot s
/-- SCRUB writes ARG[15:0] into DRM_SCRUB.LPMS (R269). -/
def execScrub (s : State) : Res := almRow 5 s fun arg s => setF s DRM_SCRUB_LPMS arg
/-- PATROL sets the media patrol rate (R328). -/
def execPatrol (s : State) : Res := almRow 6 s fun arg s => setF s HELM_PATROL_PPS arg
/-- POST: the message code to mailbox ARG[5:0], as the helm (R49, R493). -/
def execPost (s : State) : Res := almRow 9 s fun arg s => sendMsg s (arg % 64) (helmId s) srcMbx (leBytes 4 (bits arg 32 32))

end Sys2Proof.Machine
end

