-- ==== Sys2Proof/Machine/Sha.lean ====
section
/-! DEFINITION. SHA-384 (FIPS 180-4), which R453, R466 to R469 and R480 compute over images, settings and keys. -/
namespace Sys2Proof.Machine
open Sys2Proof

/-- The largest natural number below 2^67 whose `k`-th power is at most `n`. -/
def rootBelow (k n : Nat) : Nat :=
  (List.range 67).foldl (fun r i => if (r + 2 ^ (66 - i)) ^ k ≤ n then r + 2 ^ (66 - i) else r) 0

/-- The primes below a bound, in rising order. -/
def primesTo (n : Nat) : List Nat :=
  (List.range n).filter fun p => 2 ≤ p && (List.range p).all fun d => d < 2 || p % d != 0

/-- The round constants: 64 bits after the point of the cube roots of the first 80 primes. -/
def shaK : List W64 := (primesTo 410).map fun p => BitVec.ofNat 64 (rootBelow 3 (p <<< 192))

/-- The initial hash value of SHA-384: 64 bits after the point of the square roots of the 9th to the 16th prime. -/
def shaH : List W64 := ((primesTo 54).drop 8).map fun p => BitVec.ofNat 64 (rootBelow 2 (p <<< 128))

/-- The sum over GF(2) of a word's rotations. -/
def spins (x : W64) (l : List Nat) : W64 := l.foldl (fun a n => a ^^^ x.rotateRight n) 0

/-- Word `n` back from the newest of a schedule held newest first. -/
def back (l : List W64) (n : Nat) : W64 := l.getD (n - 1) 0

/-- A schedule, newest word first, with its next word. -/
def shaNext (l : List W64) : List W64 :=
  let far := spins (back l 15) [1, 8] ^^^ back l 15 >>> 7
  let near := spins (back l 2) [19, 61] ^^^ back l 2 >>> 6
  (near + back l 7 + far + back l 16) :: l

/-- The 80-word message schedule of a block of 16 words. -/
def shaSchedule (w : List W64) : List W64 := ((List.range 64).foldl (fun l _ => shaNext l) w.reverse).reverse

/-- One round over the eight working variables, `v` the first to the eighth: the second to fourth and the sixth to eighth are the
ones before them. -/
def shaRound (v : List W64) (kw : W64) : List W64 :=
  let at_ (i : Nat) : W64 := v.getD i 0
  let choice := at_ 6 ^^^ (at_ 4 &&& (at_ 5 ^^^ at_ 6))
  let most := (at_ 0 &&& at_ 1) ||| (at_ 2 &&& (at_ 0 ||| at_ 1))
  let low := kw + at_ 7 + choice + spins (at_ 4) [14, 18, 41]
  (low + most + spins (at_ 0) [28, 34, 39]) :: v.take 3 ++ (low + at_ 3) :: (v.drop 4).take 3

/-- The hash value after one block. -/
def shaBlock (h w : List W64) : List W64 :=
  List.zipWith (· + ·) ((List.zipWith (· + ·) shaK (shaSchedule w)).foldl shaRound h) h

/-- A message padded to whole blocks of 128 bytes. -/
def shaPad (m : List Byte) : List Byte :=
  m ++ [0x80] ++ List.replicate ((239 - m.length % 128) % 128) 0 ++ beBytes 16 (8 * m.length)

/-- The words of block `i`. -/
def shaWords (m : List Byte) (i : Nat) : List W64 :=
  (List.range 16).map fun k => BitVec.ofNat 64 (beNat ((m.drop (128 * i + 8 * k)).take 8))

/-- SHA-384 of a message: 48 bytes. -/
def sha384 (m : List Byte) : List Byte :=
  let p := shaPad m
  let h := (List.range (p.length / 128)).foldl (fun h i => shaBlock h (shaWords p i)) shaH
  (h.take 6).flatMap fun x => beBytes 8 x.toNat

end Sys2Proof.Machine
end

