-- ==== Sys2Proof/Machine/Image.lean ====
section
/-! DEFINITION. The image store, its descriptors, signed objects, intake and boot (R460 to R474). -/
namespace Sys2Proof.Machine
open Sys2Proof

/-! ### The store (R460 to R462) -/

/-- A byte of the image store: the manufacturing area is fixed, an unlisted byte is erased (R460, R461). -/
def storeByte (s : State) (a : Nat) : Byte := if a < 2 ^ 20 then Config.mfgByte a else mget 0xFF s.store a

def storeRd (s : State) (a n : Nat) : List Byte := (List.range n).map fun i => storeByte s (a + i)
def storeLe (s : State) (a n : Nat) : Nat := leNat (storeRd s a n)

/-- Bytes programmed from store address `a`. -/
def storeWr (s : State) (a : Nat) (b : List Byte) : State :=
  { s with store := (b.foldl (fun (r : Nat × NMap Byte) x => (r.1 + 1, mset 0xFF r.2 r.1 x)) (a, s.store)).2 }

/-- `n` sectors erased from sector `k`. -/
def storeErase (s : State) (k n : Nat) : State := { s with store := clrBytes s.store (4096 * k) (4096 * n) }

/-- Store addresses of the areas (R461). -/
def ownerA : Nat := 256 * 4096
def ownerB : Nat := 272 * 4096
def activeSlot : Nat := 1024 * 4096
def stagingSlot : Nat := 33280 * 4096

/-- A sector's write-protect bit (R462). -/
def sectorWp (s : State) (k : Nat) : Bool := bit (getF s (IMG_WP_WP (k / 64))) (k % 64)

/-- Set write-protect bits of sectors `k` to `k + n - 1`, a register word at a time. -/
def protectRange (s : State) (k n : Nat) : State :=
  (List.range (ceilDiv (k % 64 + n) 64)).foldl (fun s i =>
    let j := k / 64 + i
    let lo := max k (64 * j) - 64 * j
    let hi := min (k + n) (64 * j + 64) - 64 * j
    setF s (IMG_WP_WP j) (getF s (IMG_WP_WP j) ||| (2 ^ hi - 2 ^ lo))) s

/-! ### Signed objects (R466 to R470) -/

/-- A little-endian field of an object. -/
def oLe (h : List Byte) (a n : Nat) : Nat := leNat ((h.drop a).take n)
def oBytes (h : List Byte) (a n : Nat) : List Byte := (h.drop a).take n
def allZero (l : List Byte) : Bool := l.all (· == 0)

def oType (h : List Byte) : Nat := oLe h 6 1
def oArb (h : List Byte) : Nat := oLe h 24 4
def oBlen (h : List Byte) : Nat := oLe h 32 4
def oVersion (h : List Byte) : Nat := oLe h 16 8
/-- Section entries in use: KIND, OFFSET, LENGTH (R467). -/
def oSects (h : List Byte) : List (Nat × Nat × Nat) :=
  (List.range (min 8 (oLe h 36 4))).map fun i => (oLe h (256 + 32 * i) 1, oLe h (264 + 32 * i) 4, oLe h (268 + 32 * i) 4)

/-- What a type admits (R467): signer, sections in ascending OFFSET by KIND and largest LENGTH, largest BLEN. -/
def typeOk (h : List Byte) : Bool :=
  let kinds := (oSects h).map Prod.fst
  let len (k : Nat) := (((oSects h).find? fun x => x.1 == k).map fun x => x.2.2).getD 0
  match oType h with
  | 1 => oLe h 7 1 == 0 && kinds.length == 3 && [1, 2, 3].all kinds.contains && decide (len 1 ≤ 2 ^ 24)
      && decide (len 2 ≤ 2 ^ 23) && len 3 == 65536 && decide (oBlen h ≤ 2 ^ 25)
  | 2 => oLe h 7 1 == 1 && kinds == [2] && decide (len 2 ≤ 2 ^ 23) && decide (oBlen h ≤ 2 ^ 23)
  | 3 => oLe h 7 1 == 0 && kinds == [4] && len 4 == 4096 && oBlen h == 4096
  | 4 => oLe h 7 1 == 0 && kinds == [5] && len 5 == 4096 && oBlen h == 4096
  | _ => false

/-- Sections lie in ascending OFFSET from `at_`, aligned, without overlap, within BLEN (R467). -/
def sectsOk (blen : Nat) : Nat → List (Nat × Nat × Nat) → Bool
  | _, [] => true
  | a, (_, o, l) :: r => decide (a ≤ o) && o % 4096 == 0 && decide (o + l ≤ blen) && sectsOk blen (o + l) r

/-- Check 5 of R469. -/
def layoutOk (h : List Byte) : Bool :=
  let n := oLe h 36 4
  oLe h 28 4 == 20480 && oBlen h % 4096 == 0 && decide (1 ≤ n) && decide (n ≤ 8) && typeOk h && sectsOk (oBlen h) 0 (oSects h)
    && ((List.range 8).all fun i =>
      let e := oBytes h (256 + 32 * i) 32
      if i < n then allZero (oBytes e 1 7) && allZero (e.drop 16) else allZero e)
    && allZero (oBytes h 13 3) && allZero (oBytes h 200 56) && allZero (oBytes h 17552 2928)

/-- The module's own UID, from its identity certificate (R479). -/
def ownUid : Nat := leNat ((List.range 16).map fun i => Config.mfgByte (20480 + 816 + i))

/-- The counter of check 7 (R469). -/
def arbOk (s : State) (h : List Byte) : Bool :=
  match oType h with
  | 1 => decide (getF s IMG_BOOT_ARB ≤ oArb h)
  | 2 => decide (getF s IMG_OWNER_OARB ≤ oArb h)
  | 3 => decide (getF s IMG_OWNER_OSEQ < oArb h)
  | _ => true

/-- The key bytes of an enrolment body: RSA modulus and SLH-DSA key, none when REVOKE is set (R478). -/
def enrolKeys (b : List Byte) : Option (List Byte × List Byte) :=
  if (b.getD 432 0).toNat % 2 == 1 then none else some (b.take 384, oBytes b 384 48)

/-- Check 8: the object's own key hashes, and the expected pair of R468. `own` are the owner keys in force. -/
def keysOk (own : Option (List Byte × List Byte)) (h : List Byte) : Bool :=
  let kr := oBytes h 104 48
  let ks := oBytes h 152 48
  kr == sha384 (oBytes h 17120 384) && ks == sha384 (oBytes h 17504 48) &&
    if oLe h 7 1 == 0 then kr == Config.vurnKidRsa && ks == Config.vurnKidSlh
    else match own with
      | some (r, l) => kr == sha384 r && ks == sha384 l
      | none => false

/-- Checks 1 to 10 of R469 in order: the code of the first that fails. `cnt` judges the counter, `own` are the owner keys. -/
def headCheck (types : List Nat) (cnt : Bool) (own : Option (List Byte × List Byte)) (h : List Byte) : Option Nat :=
  let uid := oLe h 40 16
  if oLe h 0 4 != 0x4D494E56 then some 0x10
  else if oLe h 4 2 != 1 then some 0x11
  else if !types.contains (oType h) then some 0x12
  else if oLe h 8 4 != 0x4A0 || oLe h 12 1 != 0x0B then some 0x13
  else if !layoutOk h then some 0x14
  else if !((oType h != 4 && uid == 0) || (3 ≤ oType h && uid == ownUid)) then some 0x15
  else if !cnt then some 0x16
  else if !keysOk own h then some 0x17
  else if !Config.rsaVerify (oBytes h 17120 384) (h.take 512) (oBytes h 512 384) then some 0x18
  else if !Config.slhVerify (oBytes h 17504 48) (h.take 512) (oBytes h 896 16224) then some 0x19
  else none

/-- A PACK section is valid (R470). -/
def packOk (p : List Byte) : Bool :=
  let dis := (List.range 256).map fun i => oLe p (8 * i) 8
  let rol := (List.range 128).map fun i => oLe p (0x800 + 8 * i) 8
  bit (dis.getD 0 0) 23 && dis.all (fun w => bits w 24 40 == 0) && rol.all (fun w => bits w 28 4 == 0)
    && (dis ++ rol).all fun w => !bit w 23 || (bits w 0 23 % 8 == 0 && decide (bits w 0 23 < p.length))

/-- A SCRIPTS section is valid (check 12 of R469). -/
def scriptsOk (p : List Byte) : Bool :=
  (List.range 256).all fun i =>
    let w := oLe p (8 * i) 8
    if 7 ≤ i && i ≤ 15 then !bit w 19 else !bit w 19 || (decide (0x410 ≤ bits w 0 14) && decide (bits w 0 14 ≤ 0x3FFF))

/-- A KEYS section is valid (R478). -/
def enrolOk (b : List Byte) : Bool :=
  let f := (b.getD 432 0).toNat
  decide (f < 2) && allZero (b.drop 433) && ((f == 1) == allZero (b.take 432))

/-- A section's bytes in a body. -/
def sectBytes (h b : List Byte) (kind : Nat) : List Byte :=
  match (oSects h).find? fun x => x.1 == kind with
  | some (_, o, l) => oBytes b o l
  | none => []

/-- Checks 11 and 12 of R469. -/
def bodyCheck (h b : List Byte) : Option Nat :=
  if sha384 b != oBytes h 56 48 then some 0x1A
  else if (match oType h with
      | 1 => packOk (sectBytes h b 2) && scriptsOk (sectBytes h b 3)
      | 2 => packOk (sectBytes h b 2)
      | 3 => enrolOk b
      | _ => true) then none
  else some 0x1B

/-! ### Owner keys (R462, R478) -/

/-- The header and body of an object at a store address. -/
def storeHead (s : State) (a : Nat) : List Byte := storeRd s a 20480
def storeBody (s : State) (a : Nat) : List Byte := storeRd s (a + 20480) (oBlen (storeHead s a))

/-- An owner copy is valid: its enrolment object stands, whatever its sequence (R478). -/
def ownerValid (s : State) (a : Nat) : Bool :=
  (headCheck [3] true none (storeHead s a)).isNone && (bodyCheck (storeHead s a) (storeBody s a)).isNone

/-- The owner copy in force: the valid one with the higher sequence (R462, R478). -/
def ownerCopy (s : State) : Option Nat :=
  match ownerValid s ownerA, ownerValid s ownerB with
  | true, true => some (if oArb (storeHead s ownerB) ≤ oArb (storeHead s ownerA) then ownerA else ownerB)
  | true, false => some ownerA
  | false, true => some ownerB
  | false, false => none

/-- Owner keys in force. -/
def ownerKeys (s : State) : Option (List Byte × List Byte) := (ownerCopy s).bind fun a => enrolKeys (storeBody s a)

/-- The write-protect bits that the ROM sets at every start (R462). -/
def romProtect (s : State) : State :=
  let s := protectRange (protectRange (protectRange s 0 256) 288 736) 1024 32256
  match ownerCopy s with
  | some a => protectRange s (a / 4096) 16
  | none => s

/-! ### Boot (R64, R473, R474) -/

/-- The firmware object of a slot fails with a code, or stands (checks 1 to 12). -/
def slotCheck (s : State) (a : Nat) : Option Nat :=
  let h := storeHead s a
  match headCheck [1] (arbOk s h) none h with
  | some c => some c
  | none => bodyCheck h (storeBody s a)

/-- Where an owner-pack object of a slot would lie. -/
def packAt (s : State) (a : Nat) : Nat := a + 20480 + oBlen (storeHead s a)

/-- The slot holds a TYPE 2 header after the firmware body. -/
def hasOwnerPack (s : State) (a : Nat) : Bool :=
  oLe (storeHead s (packAt s a)) 0 4 == 0x4D494E56 && oType (storeHead s (packAt s a)) == 2

/-- The owner pack of a slot stands against the keys in force (R473). -/
def ownerPackOk (s : State) (a : Nat) : Bool :=
  let h := storeHead s (packAt s a)
  (headCheck [2] (arbOk s h) (ownerKeys s) h).isNone && (bodyCheck h (storeBody s (packAt s a))).isNone

/-- Bytes as a memory from address 0. -/
def asMem (l : List Byte) : NMap Byte := wrBytes [] 0 l

/-- The parameter block of the script store loads CH_ROWFMT, CH_SLOT and CH_TIMING of every channel (R293). -/
def loadParams (s : State) : State :=
  let w0 := rdLe s.ch.store 0x1000 8
  let w1 := rdLe s.ch.store 0x1008 8
  let w2 := rdLe s.ch.store 0x1010 8
  (List.range 32).foldl (fun s n =>
    [(CH_ROWFMT_PAGE_W n, bits w0 0 4), (CH_ROWFMT_PLANE_W n, bits w0 4 2), (CH_ROWFMT_BLK_W n, bits w0 6 4),
     (CH_ROWFMT_LUN_W n, bits w0 10 3), (CH_ROWFMT_RCYC n, bits w0 13 3), (CH_ROWFMT_IFACE n, bits w0 16 1),
     (CH_SLOT_SLOTB n, bits w1 0 13), (CH_TIMING_TCA_NS n, bits w2 0 8), (CH_TIMING_POLL_NS n, bits w2 8 16)].foldl
      (fun s x => setF s x.1 x.2) s) s

/-- The script store is loaded from the image that runs, at step 4 of R63 (R293): the staging slot's where R64 settled on it and
nothing was copied, else the active slot's (DEDUCED, log 87). -/
def loadScripts (s : State) : State :=
  let a := if getF s HELM_KINDLE_SLOT = 1 && !flag s HELM_KINDLE_COPIED then stagingSlot else activeSlot
  loadParams { s with ch := { s.ch with store := asMem (sectBytes (storeHead s a) (storeBody s a) 3) } }

/-- The image of a slot is loaded: program store, IMG_VER, IMG_BOOT (R470, R473). `shown` is the slot settled by R64. -/
def loadSlot (s : State) (a shown : Nat) : State :=
  let h := storeHead s a
  let own := hasOwnerPack s a
  let ok := own && ownerPackOk s a
  let pack := if ok then sectBytes (storeHead s (packAt s a)) (storeBody s (packAt s a)) 2 else sectBytes h (storeBody s a) 2
  let s := { s with prog := asMem (pack.take (2 ^ 23))
                    boot := { s.boot with image := true, mImage := sha384 (h.take 512), arb := oArb h
                                          oarb := if ok then some (oArb (storeHead s (packAt s a))) else none
                                          tell5 := s.boot.tell5 || (own && !ok) } }
  let s := setF (setF s IMG_VER_VERSION (oVersion h)) IMG_BOOT_SLOT shown
  let s := setF (setF s IMG_BOOT_OWNPACK (b2n ok)) IMG_BOOT_OPFAIL (b2n (own && !ok))
  let s := setF s HELM_KINDLE_SLOT shown
  if own && !ok then logEv s 15 2 [] else s

/-- The slot that boots (R64): the active one, else the staging one. -/
def bootSlot (s : State) : Option (Nat × Nat) :=
  if (slotCheck s activeSlot).isNone then some (activeSlot, 0)
  else if (slotCheck s stagingSlot).isNone then some (stagingSlot, 1)
  else none

/-- The staging slot's objects, as bytes: firmware, and its owner pack where one follows (R474). -/
def slotBytes (s : State) (a : Nat) : List Byte :=
  storeHead s a ++ storeBody s a ++ (if hasOwnerPack s a then storeHead s (packAt s a) ++ storeBody s (packAt s a) else [])

/-- The copy of step 3 (R474), with `rep` sectors programmed again. -/
def copyStaged (s : State) (rep : Nat) : State :=
  let b := slotBytes s stagingSlot
  let s := storeErase s 1024 (b.length / 4096 + 1)
  let s := addSat (storeWr s activeSlot b) IMG_ERR_REPROG rep
  setF (setC (setC s IMG_STAGE_DUE 0) IMG_STAGE_STATE 3) HELM_KINDLE_COPIED 1

/-! ### Intake (R471, R472, R490) -/

def setImg (s : State) (i : Img) : State := { s with x := { s.x with img := i } }
def setIntake (s : State) (i : Option Intake) : State :=
  setF (setF (setImg s { s.x.img with intake := i }) SVC_STAT_INTAKE (b2n i.isSome)) IMG_INTAKE_PHASE
    ((i.map fun x => if x.failed then 0 else x.phase).getD 0)

/-- The intake fails or is refused with a code. -/
def intakeFail (s : State) (i : Intake) (code : Nat) : State :=
  setF (setIntake s (some { i with failed := true })) IMG_INTAKE_RESULT code

/-- A sector's object begins in the staging slot: its sectors are erased and its header programmed (step 2 of R471). -/
def beginObject (s : State) (i : Intake) (a phase : Nat) : State :=
  let n := 20480 + oBlen i.hdr
  let s := storeWr (storeErase s (a / 4096) (n / 4096)) a i.hdr
  setIntake s (some { i with phase := phase, next := a + 20480, bodyAt := a, endAt := a + n, own := phase == 4
                             ver := if phase == 2 then oVersion i.hdr else i.ver })

/-- A whole header was received (steps 1 and 4 of R471). -/
def headReady (s : State) (i : Intake) : State :=
  let first := i.phase == 1
  let other := oLe i.hdr 0 4 == 0x4D494E56 && oLe i.hdr 4 2 == 1 && oType i.hdr == (if first then 2 else 1)
  if other then intakeFail s i 0x23
  else match headCheck [if first then 1 else 2] (arbOk s i.hdr) (ownerKeys s) i.hdr with
    | some c => intakeFail s i c
    | none =>
      if first then beginObject (setC s IMG_STAGE_STATE 1) i stagingSlot 2 else beginObject s i i.endAt 4

/-- A whole body was received (steps 3 and 4 of R471). -/
def bodyReady (s : State) (i : Intake) : State :=
  match bodyCheck (storeHead s i.bodyAt) (storeBody s i.bodyAt) with
  | some c => intakeFail s i c
  | none => setIntake s (some { i with phase := if i.phase == 2 then 3 else 5, hdr := [] })

/-- The stream goes on with these bytes; `fuel` bounds the phases one frame can pass. -/
def intakeFeed (s : State) (d : List Byte) : Nat → State
  | 0 => s
  | fuel + 1 =>
    match s.x.img.intake, d with
    | none, _ => s
    | _, [] => s
    | some i, _ =>
      if i.failed then s
      else if i.phase == 5 then intakeFail s i 0x23
      else if i.phase == 1 || i.phase == 3 then
        let n := min d.length (20480 - i.hdr.length)
        let i' := { i with hdr := i.hdr ++ d.take n, got := i.hdr.length + n }
        let s := setF (setIntake s (some i')) IMG_INTAKE_BYTES i'.got
        intakeFeed (if i'.hdr.length == 20480 then headReady s i' else s) (d.drop n) fuel
      else
        let n := min d.length (i.endAt - i.next)
        let i' := { i with next := i.next + n, got := i.got + n }
        let s := setF (setIntake (storeWr s i.next (d.take n)) (some i')) IMG_INTAKE_BYTES i'.got
        intakeFeed (if i'.next == i'.endAt then bodyReady s i' else s) (d.drop n) fuel

/-- An activation keeps intake out (R472): it was notified here, or to a position of this master's cascade, or its copy is due. -/
def intakeBusy (s : State) : Bool := s.x.pair.actv == 1 || decide (10 ≤ s.x.pair.actv) || flag s IMG_STAGE_DUE

/-- The intake failed, and its end mark is awaited. -/
def intakeFailed (s : State) : Bool := match s.x.img.intake with | some i => i.failed | none => false

/-- Intake bytes arrive (R471, R472, R490). `diffs` are the sectors whose read-back differed, and how often: each is programmed
again at most twice, and a third difference ends the intake. -/
def intakeData (s : State) (d : List Byte) (diffs : List (Nat × Nat)) : State :=
  let open_ := s.x.img.intake.isSome
  let s := setImg s { s.x.img with frameAt := s.clk.refNs }
  if intakeBusy s then
    if open_ && intakeFailed s then s else intakeFail (setIntake s none) ⟨1, [], 0, 0, 0, 0, 0, false, true⟩ 0x22
  else
    let s := if open_ then s else
      setF (setF (setIntake s (some ⟨1, [], 0, 0, 0, 0, 0, false, false⟩)) IMG_INTAKE_RESULT 1) IMG_INTAKE_BYTES 0
    let s := intakeFeed s d 8
    match s.x.img.intake with
    | some i =>
      if i.failed || i.phase == 1 then s else
      let s := addSat s IMG_ERR_REPROG ((diffs.map fun x => min 2 x.2).sum)
      if diffs.any fun x => 3 ≤ x.2 then intakeFail s i 0x20 else s
    | none => s

/-- The stream ends (step 5 of R471): staged, or the code of a failure; the intake closes. -/
def intakeEnd (s : State) : State :=
  match s.x.img.intake with
  | none => s
  | some i =>
    if i.failed then setIntake s none
    else if (i.phase == 3 && i.hdr.isEmpty) || i.phase == 5 then
      let s := storeErase s (i.endAt / 4096) 1
      let s := setC (setC (setC s IMG_STAGE_STATE 2) IMG_STAGE_VER_VERSION i.ver) IMG_STAGE_OWNPACK (b2n (i.phase == 5))
      logEv (setF (setIntake s none) IMG_INTAKE_RESULT 2) 15 0 []
    else setF (setIntake s none) IMG_INTAKE_RESULT 0x23

/-- An intake is abandoned: QUENCH, a reset or 10 s without a frame (R472). -/
def intakeAbandon (s : State) : State :=
  match s.x.img.intake with
  | none => s
  | some _ => logEv (setF (setIntake s none) IMG_INTAKE_RESULT 0x21) 18 0 []

/-- Steps 2 to 5 of R471 are under way (R82). -/
def intakeRuns (s : State) : Bool :=
  match s.x.img.intake with
  | some i => !i.failed && 2 ≤ i.phase
  | none => false

/-- INTAKE_TIMEOUT (R472). -/
def execIntakeTimeout (el : Elapse) (s0 : State) : Res :=
  let s := elapse s0 el
  .next (if s.x.img.intake.isSome && 10000000000 ≤ s.clk.refNs - s.x.img.frameAt then intakeAbandon s else s)

/-! ### Descriptors (R463 to R465) -/

/-- STATUS of a descriptor, and its STAMP. -/
def descStatus (s : State) (n : Nat) : Nat := (mget 0 s.x.img.desc (32 * n + 1)).toNat
def setDesc (s : State) (n st : Nat) : State := setImg s { s.x.img with desc := wrLe s.x.img.desc (32 * n + 1) 1 st }

/-- A descriptor ends (R464). -/
def descEnd (s : State) (n st : Nat) : State :=
  let s := setDesc s n st
  let s := setImg s { s.x.img with desc := wrLe s.x.img.desc (32 * n + 16) 8 s.clk.now
                                   queue := s.x.img.queue.filter fun q => q.n != n }
  let s := setF s IMG_QDONE_DONE (getF s IMG_QDONE_DONE ||| 2 ^ n)
  if st = 0x15 then addSat s IMG_ERR_TIMEOUT 1 else if st = 0x11 then addSat s IMG_ERR_NOTBLANK 1
  else if st = 0x12 then addSat s IMG_ERR_PROTECTED 1 else s

/-- Submit descriptor `n` (R463). -/
def submit (s : State) (n : Nat) : State :=
  if descStatus s n = 1 || descStatus s n = 2 then s else
  let d := s.x.img.desc
  let w := 32 * n
  let res := bits (rdLe d (w + 4) 4) 28 4 != 0 || bits (rdLe d (w + 8) 4) 14 18 != 0 || rdLe d (w + 12) 4 != 0 || rdLe d (w + 24) 8 != 0
  let q : QDesc := ⟨n, rdLe d w 1, rdLe d (w + 2) 2, bits (rdLe d (w + 4) 4) 0 28, bits (rdLe d (w + 8) 4) 0 14, res, false, 0⟩
  let s := setDesc s n 1
  setImg s { s.x.img with queue := s.x.img.queue ++ [q] }

/-- A write of GO bits by the administrative source: bits 0 to 23 are ignored (R463, R482). -/
def qgo (s : State) (go : Nat) : State := ((List.range 8).map (24 + ·)).foldl (fun s n => if bit go n then submit s n else s) s

/-- The helm submits descriptors 0 to 23 in an intake, having written its descriptors and its part of the buffer. -/
def helmGo (s : State) (go : Nat) (desc buf : List Byte) : State :=
  let s := setImg s { s.x.img with desc := wrBytes s.x.img.desc 0 (desc.take 768), xbuf := wrBytes s.x.img.xbuf 0 (buf.take 0x3000) }
  (List.range 24).foldl (fun s n => if bit go n then submit s n else s) s

/-- IMG_QGO (R463): by the administrative source, or by the helm while an intake writes the store. -/
def execImgQgo (go : Nat) (helm : Bool) (desc buf : List Byte) (s : State) : Res :=
  if helm then act (intakeRuns s) s (helmGo s go desc buf) else act (regOk s 15) s (qgo s go)

/-- A descriptor may start (R463): queued, its bank free, nothing submitted earlier on its sector still there, fewer than eight
running. -/
def mayStart (s : State) (n : Nat) : Option QDesc :=
  let l := s.x.img.queue
  match l.find? fun q => q.n = n && !q.running with
  | none => none
  | some q =>
    let busy := (l.filter fun x => x.running)
    let before := l.takeWhile fun x => x.n != n
    if busy.length < 8 && !(busy.any fun x => x.addr / 4096 % 8 = q.addr / 4096 % 8)
        && !(before.any fun x => x.addr / 4096 = q.addr / 4096) then some q else none

/-- The checks at start (R464): the status of the first that fails. -/
def descCheck (s : State) (q : QDesc) : Option Nat :=
  let rw := q.op = 1 || q.op = 2
  let part := if q.n < 24 then q.buf + 8 * q.count ≤ 0x3000 else 0x3000 ≤ q.buf && q.buf + 8 * q.count ≤ 0x4000
  let ok := !q.reserved && (if rw then 1 ≤ q.count && q.count ≤ 512 && q.addr % 8 = 0 && q.addr % 4096 + 8 * q.count ≤ 4096
      && q.buf % 8 = 0 && part else q.op = 3 && q.count = 0 && q.addr % 4096 = 0)
  if !ok then some 0x13
  else if q.op != 1 && 24 ≤ q.n then some 0x14
  else if q.op != 1 && sectorWp s (q.addr / 4096) then some 0x12
  else if q.op = 2 && (storeRd s q.addr (8 * q.count)).any (· != 0xFF) then some 0x11
  else none

/-- DESCRIPTOR_START (R463, R464). -/
def execDescriptorStart (n : Nat) (s : State) : Res :=
  match mayStart s n with
  | none => .next s
  | some q =>
    match descCheck s q with
    | some st => .next (descEnd s n st)
    | none =>
      let s := setDesc s n 2
      .next (setImg s { s.x.img with queue := s.x.img.queue.map fun x =>
        if x.n = n then { x with running := true, start := s.clk.refNs } else x })

/-- A running descriptor. -/
def descRuns (s : State) (n : Nat) : Option QDesc := s.x.img.queue.find? fun q => q.n = n && q.running

/-- DESCRIPTOR_END (R463 to R465). -/
def execDescriptorEnd (n : Nat) (s : State) : Res :=
  match descRuns s n with
  | none => .next s
  | some q =>
    let s := match q.op with
      | 1 => setImg s { s.x.img with xbuf := wrBytes s.x.img.xbuf q.buf (storeRd s q.addr (8 * q.count)) }
      | 2 => storeWr s q.addr (rdBytes s.x.img.xbuf q.buf (8 * q.count))
      | _ => storeErase s (q.addr / 4096) 1
    .next (descEnd s n 0x10)

/-- The longest time of an operation in ns (R465). -/
def descMax (q : QDesc) : Nat := if q.op = 1 then 1000 + 32 * q.count else if q.op = 2 then 20000 * q.count + 2000 else 60000000

/-- DESCRIPTOR_TIMEOUT (R464): after 1.5 × the maximum. `junk` is what the sector then holds, which the spec leaves undefined. -/
def execDescriptorTimeout (n : Nat) (junk : List Byte) (el : Elapse) (s0 : State) : Res :=
  let s := elapse s0 el
  match descRuns s n with
  | none => .next s
  | some q =>
    if 2 * (s.clk.refNs - q.start) < 3 * descMax q then .next s else
    let s := if q.op = 1 then s else
      storeWr (storeErase s (q.addr / 4096) 1) (q.addr / 4096 * 4096) (padTo 0xFF 4096 junk)
    .next (descEnd s n 0x15)

/-- QUENCH entry ends descriptors still QUEUED (R464). -/
def descAbandon (s : State) : State :=
  (s.x.img.queue.filter fun q => !q.running).foldl (fun s q => descEnd s q.n 0x16) s

/-- IMG_WP_WRITE (R462): bits can be set and not cleared. -/
def wpWrite (s : State) (k v : Nat) : State := setF s (IMG_WP_WP k) (getF s (IMG_WP_WP k) ||| v % 2 ^ 64)

def execImgWpWrite (k v : Nat) (s : State) : Res := act (k < 1024 && regOk s 15) s (wpWrite s k v)

end Sys2Proof.Machine
end

