-- ==== Sys2Proof/Machine/Modes.lean ====
section
/-! DEFINITION. Modes and their changes: SAFE, requested changes, BANKED, restart and OFF (R59 to R62, R72 to R85), and the
power warnings and QUENCH (R405 to R421). -/
namespace Sys2Proof.Machine
open Sys2Proof

/-! ### Powering the quadrants down and up (R73, R75, R106, R248, R252) -/

/-- Every write-through queue is written to DRAM (R240). -/
def drainSlices (s : State) : State :=
  (List.range 4).foldl (fun s q => (List.range (slice s q).wtq.length).foldl (fun s _ => wtDrain s q) s) s

/-- The width that each port that is up shows: ×1 under L0p, else the trained width. -/
def showWidths (s : State) (narrow : Bool) : State :=
  (ports s).foldl (fun s p =>
    if (port s p).up then setF s (HLV_STAT_WIDTH p) (if narrow && flag s (HLV_STAT_L0P_EN p) then 1 else (port s p).width) else s) s

/-- Step 5 of R73: quadrants down, scratchpad contents gone, DRAM in self-refresh, links at ×1. -/
def powerDown (s : State) : State :=
  let s := emptySlices (drainSlices s)
  showWidths (setF { s with mem := { s.mem with scratch := [], scratchValid := [], scratchBad := [] } } DRM_STAT_SELFREF 1) true

/-- The quadrants, DRAM and links return (R75). -/
def powerUp (s : State) : State :=
  if flag s DRM_STAT_SELFREF then showWidths (setF s DRM_STAT_SELFREF 0) false else s

/-! ### Changing the mode (R59, R85, R104, R115) -/

/-- A test run ends early (R505): ABORT, a logbook event with UNIT, ERRORS, BITS (R509). -/
def testAbort (s : State) : State :=
  if flag s TST_STAT_RUN then
    let u := match s.x.tst with | some x => x.unit | none => 0
    let s := { s with x := { s.x with tst := none } }
    logEv (setF (setF s TST_STAT_RUN 0) TST_STAT_ABORT 1) 16 0 [u, getF s TST_ERR_ERRORS, getF s TST_BITS_BITS]
  else s

/-- CLOSED of every state word (R115). -/
def closedIn (s : State) (m : Nat) : Bool :=
  if m == mSafe then !s.boot.image else !(m == mRun || m == mBanked || m == mService)

/-- The mode changes: HELM_MODE, CLOSED, a logbook event, vector 0; a test run ends (R59, R85, R104, R115, R499, R505). -/
def toMode (s : State) (m : Nat) : State :=
  let s := setF (setF s HELM_MODE_PREV (mode s)) HELM_MODE_CUR m
  let s := setF s HELM_MODE_SINCE (s.clk.now / 2 ^ 32)
  event (logEv (testAbort { s with d := { s.d with closed := closedIn s m } }) 0 0 []) 0

def setAux (s : State) (x : Aux) : State := { s with x := x }

/-! ### Flash drivers and internal threads -/

/-- The flash drivers go to high impedance: operations in progress are cut short, their pages stay unused (R277, R321). -/
def driversOff (s : State) : State :=
  let s := (List.range 32).foldl (fun s n => setF s (CH_STAT_DRV n) 0) s
  { s with ch := { s.ch with strikes := s.ch.strikes.filter fun e => match e.2 with | some k => !k.inProg | none => false } }

/-- Drivers first, then OWN_OUT (R430). -/
def releaseOwn (s : State) : State :=
  let s := setF (driversOff (testAbort s)) PAIR_STAT_OWN 0
  setAux s { s.x with pair := { s.x.pair with acq := none } }

/-- Every internal thread stops: what it holds is freed, and it is IDLE at once, the DONE of a discard passed through (R61, R146). R78 and R80
name no thread state (DESIGN CHOICE, log 132). -/
def stopInternals (s : State) : State :=
  (threadsWhere s fun t x => !isHost t && x.st != .idle).foldl (fun s t =>
    modTh (cleanUp s t) t fun x => { x with st := .idle, why := .none, cont := .nothing }) s

/-- Internal threads are held parked: 1 all but FLUSH and CHECKPOINT, 2 all (R73, R411). -/
def holdThreads (s : State) (n : Nat) : State :=
  let s := { s with d := { s.d with hold := n } }
  (threadsWhere s fun t x => heldBack s t && (x.st == .ready || x.st == .running)).foldl holdPark s

/-- Threads parked by the hold are released, READY to go on where they stood (R75). -/
def unhold (s : State) : State :=
  let l := s.d.held
  let s := { s with d := { s.d with hold := 0, held := [] } }
  l.foldl (fun s t => modTh (tick s) t fun x => { x with st := .ready, why := .none, readyAt := s.order }) s

/-! ### Discards (R61) -/

/-- Every command in flight and not acknowledged is discarded, the service port's CMD among them, but that of `src`, the request
that causes the change. -/
def discardAll (s : State) (src cls detail : Nat) : State :=
  let s := ((threadsWhere s fun t _ => inFlight s t).filter fun c => !(cx s c).commit && c != src).foldl
    (fun s c => discard s c cls detail none) s
  if s.x.svc.cmd.isSome && src != 9999 then answerHelm s 9999 ⟨cls, detail, none, 0⟩ [] else s

/-- The write buffer holds a frame that a committed record names. -/
def wbOwed (s : State) : Bool := s.buf.bufs.any fun e => match e.2 with | some b => b.wb && wbNamed s b | none => false

/-- A program strike of a FLUSH thread has not ended (R530). -/
def flushing (s : State) : Bool := !(strikesWhere s fun k => k.cls = 1 && (th s k.t).role = 2).isEmpty

/-- A committed record is not yet in a flash journal segment. -/
def tailOwed (s : State) : Bool := s.map.recs.any fun r => r.committed && decide (s.ck.jend < r.jseq)

/-- A helm command is answered and its context completes without its handler, where handlers do not run (BANKED; DEDUCED, log 35). -/
def finishReq (s : State) (src : Nat) (e : Ending) : State :=
  if isHost src then
    let s := { s with d := { s.d with helm := s.d.helm.filter fun r => r.src != src } }
    if (th s src).st = .idle then s
    else modTh (cleanUp s src) src fun x => { x with st := .done, why := .none, cont := .nothing, ending := some e }
  else answerHelm s src e []

/-! ### SAFE (R76 to R81, R524) -/

/-- Triggers of KINDLE steps 1 to 3 go to the logbook as the module leaves them: at most 16, stamped now; later ones are lost
(R498). -/
def releaseTrigs (s : State) : State :=
  if mode s == mKindle && getF s HELM_KINDLE_STEP ≤ 4 then
    let n := s.trigs.length - 16
    let s := { s with trigs := (s.trigs.take 16).map fun (x : Trig) => { x with stamp := stampOf s srcLog, held := true } }
    if n = 0 then s else addSat s LOG_STAT_LOST n
  else s

def causeAdmin : Nat := 9

/-- A cause is recorded: first CAUSE, then MORE (R77, R85). A cause that opens a later SAFE while CAUSE was never cleared goes to
MORE too (DESIGN CHOICE, log 98). -/
def recordCause (s : State) (c : Nat) : State :=
  if getF s HELM_SAFE_CAUSE_CAUSE = 0 then setC s HELM_SAFE_CAUSE_CAUSE c
  else setC s HELM_SAFE_CAUSE_MORE (getF s HELM_SAFE_CAUSE_MORE ||| 2 ^ (c - 1))

/-- Causes for which nothing is flushed (R78). -/
def noFlush (c : Nat) : Bool := [3, 4, 7, 8].contains c

/-- The write buffer is flushed, its program strikes ended and its relocations committed (R530), and the journal tail is checkpointed. -/
def flushOver (s : State) : Bool := !wbOwed s && !flushing s && !tailOwed s

/-- SAFE is entered (R61, R78, R80): `src` is the SET_MODE that asked for it. From KINDLE before step 4 the CHR_NOW written is
the count since the reset (DESIGN CHOICE, log 99). -/
def enterSafe (s : State) (src : Nat) : State :=
  let s := if inMode s [mRun, mService] then discardAll { s with d := { s.d with closed := true } } src 0x41 2 else s
  let s := if wbOwed s || tailOwed s then setC s HELM_SAFE_CAUSE_UNFLUSHED 1 else s
  let s := powerUp (releaseOwn (stopInternals (releaseTrigs s)))
  let s := { s with d := { s.d with hold := 0, held := [] }, clk := { s.clk with due := [] }
                    rsm := { s.rsm with saved := if inMode s [mKindle, mStandby] then s.rsm.saved else none } }
  let s := setAux s { s.x with change := none, safing := none, quench := none, heldCause := [], warn := 0
                               pair := { s.x.pair with step := 0, salv := [], lost := [] } }
  let s := setF (setF (setF s HELM_MODE_CHANGING 0) HELM_SAFE_CAUSE_HELD 0) PWR_STAT_QACTIVE 0
  let s := setF (setF (setF s PWR_STAT_QSTEP 0) PWR_STAT_QDONE 0) PAIR_STAT_SWAPPING 0
  answerHelm (logEv (toMode (saveNow s) mSafe) 0 1 []) src okEnd []

/-- SAFE entry from RUN or SERVICE begins: CLOSED, discards, and the flush by FLUSH and CHECKPOINT threads (R78). CHANGING shows
the flush of any cause (DESIGN CHOICE, log 100). -/
def beginSafe (s : State) (c src : Nat) : State :=
  let s := discardAll { s with d := { s.d with closed := true } } src 0x41 2
  setF (setAux (holdThreads s 1) { s.x with change := none, safing := some (c, src) }) HELM_MODE_CHANGING 1

/-- The SET_MODE whose SAFE entry is under way completes with whatever enters SAFE (R61). -/
def safingSrc (s : State) (src : Nat) : Nat :=
  match s.x.safing with
  | some (_, r) => if src = 9998 then r else src
  | none => src

/-- A cause of SAFE arises (R76 to R79, R524). -/
def safeArise (s : State) (c src : Nat) : State :=
  let m := mode s
  if m == mOff then s else
  let s := recordCause s c
  if m == mSafe then logEv s 0 1 []
  else if m == mBanked && c == 5 then setF s HELM_THERM_HELD 1
  else if m == mQuench then
    if c == 7 then enterSafe s src
    else if c == 5 then setF s HELM_THERM_HELD 1
    else setAux (setF s HELM_SAFE_CAUSE_HELD 1) { s.x with heldCause := s.x.heldCause ++ [c] }
  else if m == mRun || m == mService then
    if noFlush c then enterSafe s (safingSrc s src)
    else if s.x.safing.isSome then s
    else beginSafe s c src
  else enterSafe s src

/-- A power warning holds (R410, R418): VWARN counts while VEN = 1. -/
def warned (s : State) : Bool := (flag s PWR_WARN_VEN && flag s PWR_STAT_VWARN) || flag s PWR_STAT_PFAIL

/-- RUN is entered: a power warning that holds leads to QUENCH (R60), a held THERMAL cause takes effect at once (R524); what waits
to be announced in RUN (R419, R473). -/
def enterRun (s : State) : State :=
  let s := toMode s mRun
  let s := if warned s then setAux s { s.x with warn := if flag s PWR_STAT_PFAIL then 2 else 1 } else s
  let s := if s.boot.tell5 then event { s with boot := { s.boot with tell5 := false } } 5 else s
  if flag s HELM_THERM_HELD then beginSafe (setF s HELM_THERM_HELD 0) 5 9998 else s

/-- SAFE_ENTRY (R78): a physical cause arises (HELM_MEM, RSM_FAULT), or the entry whose flush is under way ends, flushed (R530), or
unable to finish (`fails`). -/
def execSafeEntry (cause : Nat) (fails : Bool) (s : State) : Res :=
  match s.x.safing with
  | some (_, src) =>
    if cause == 8 then .next (safeArise s 8 src)
    else if cause == 6 then .next (safeArise s 6 src)
    else act (inMode s [mRun, mService] && (fails || flushOver s)) s (enterSafe s src)
  | none => act (cause == 6 || cause == 8) s (safeArise s cause 9998)

/-! ### Reset and OFF (R12, R60, R83, R518) -/

/-- PROGRAMs and ERASEs of the image store that run at a stop are cut off: their sectors are undefined (R464). -/
def cutSectors (s : State) : State :=
  (s.x.img.queue.filter fun q => q.running && q.op != 1).foldl (fun s q =>
    let a := q.addr / 4096 * 4096
    { storeWr s a ((List.range 4096).map fun i => Config.cutByte s.keep.cuts (a + i)) with keep := { s.keep with cuts := s.keep.cuts + 1 } }) s

/-- What a reset of the core die leaves: RSM, with where a running activation stands (R476), the image store, flash, the pins, and
straps until OFF. The causes of earlier resets read zero again (R12; DEDUCED, log 52). The
generation block in use is left behind (R427); a journal record above JEND is gone with DRAM (R60, R419). -/
def resetCore (s0 : State) : State :=
  let s := cutSectors s0
  { State.reset with
    ret := s.ret
    copyA := s.copyA
    copyB := s.copyB
    pins := s.pins
    boot := { Boot.reset with split := s.boot.split, side := s.boot.side, cas := s.boot.cas }
    map := { MapCtl.reset with recs := s.map.recs.filter fun r => decide (r.jseq ≤ s.ck.jend)
                               segs := s.map.segs
                               jseq := s.ck.jend
                               genNext := s.map.genCeil, genCeil := s.map.genCeil + 2 ^ 24, genPeer := s.map.genPeer }
    ck := s.ck
    md := { Media.reset with flash := s.md.flash, spareLow := s.md.spareLow, wearHigh := s.md.wearHigh, reshape := s.md.reshape, errs := s.md.errs, bytesW := s.md.bytesW
                             bytesH := s.md.bytesH, powerOn := s.md.powerOn }
    sif := s.sif
    ring := s.ring
    rsm := s.rsm
    keep := s.keep
    x := { Aux.reset with pair := { Pair.reset with actv := if getF s IMG_ACT_RESULT = 2 then s.x.pair.actv else 0
                                                    actvVer := s.x.pair.actvVer } }
    store := s.store
    tap := s.tap
    sent := s.sent
    pending := s.pending }

/-- The RSM fields kept apart from the settings record: those of the logbook and of the life count, which survive its loss and
SETTINGS_WIPE (R500, R525). -/
def keptFields : List Fld := [LOG_STAT_FULL, LOG_STAT_LOST, HELM_LIFE_EQH, HELM_LIFE_HOTH]

/-- Factory values, with what is kept apart. -/
def factoryOver (r : Retained) : Retained :=
  { Retained.factory with fields := keptFields.foldl (fun m f => mset f.dflt m f.key (mget f.dflt r.fields f.key)) [] }

/-- What RSM holds as the settings record (R70). -/
def rsmRet (s : State) : Retained :=
  match bestCopy s with
  | some c => c.body
  | none => factoryOver s.ret

/-- Power fails inside the copy of step 3: the active slot fails at the next start (R474; DESIGN CHOICE, log 117). -/
def cutCopy (s : State) : State :=
  if (slotCheck s stagingSlot).isNone then storeErase s 1024 ((slotBytes s stagingSlot).length / 4096 + 1) else s

/-- The module goes OFF (R60): an intake is abandoned, ownership goes with the drivers. With `cut` the stop falls inside the copy of
KINDLE step 3, or elsewhere inside the 10 µs of the last commit, whose field comes back as it was (R71, R474). -/
def toOff (s : State) (cause : Fld) (cut : Bool) : State :=
  if mode s == mOff then s else
  let copying := mode s == mKindle && getF s HELM_KINDLE_STEP = 3
  let s := if !cut then s else if copying then cutCopy s else dropCommit s
  let s := if cut && !copying then { s with ret := rsmRet s } else s
  let s := setF (resetCore (releaseOwn s)) cause 1
  setF s HELM_MODE_CUR mOff

/-- VIN_BELOW_RESET (R60): VIN in mV. -/
def execVinBelowReset (v : VinFall) (s : State) : Res :=
  act (decide (v.mv < 4200)) s (toOff { s with pins := { s.pins with vin := v.mv } } HELM_RESET_CAUSE_POWER v.cut)

/-- RST_N_RESET (R515): a low pulse of `ns`; one between 100 ns and 10 µs may or may not be taken. -/
def execRstNReset (ns : Nat) (low : PinLow) (s : State) : Res :=
  act (decide (10000 ≤ ns) || (decide (100 ≤ ns) && low.taken)) s (toOff s HELM_RESET_CAUSE_PIN low.cut)

/-- No image: SAFE with only the ROM running (R64, R80), which has set the protection of every start (R462). -/
def noImage (s : State) : State := enterSafe (recordCause (romProtect s) 2) 9998

/-- KINDLE steps 1 and 2 (R63, R64, R473): the active slot, else the staging slot, else SAFE with cause NO_IMAGE. -/
def romStart (s : State) : State :=
  let s := setF (setF s HELM_MODE_CUR mKindle) HELM_KINDLE_STEP 2
  let s := loadQuotas { s with ret := rsmRet s, boot := { s.boot with begun := true } }
  match bootSlot s with
  | none => noImage s
  | some (a, shown) =>
    let s := loadSlot s a shown
    if flag s IMG_STAGE_DUE then setF s HELM_KINDLE_STEP 3 else setF (romProtect s) HELM_KINDLE_STEP 4

/-- POWER_ON (R60, R513, R518): VIN in mV, RST_N high; the straps are sampled and the ROM begins. -/
def execPowerOn (vin : Nat) (s : State) : Res :=
  act (decide (4500 ≤ vin) && (mode s == mOff || (mode s == mKindle && !s.boot.begun)) && decide (s.tap ≤ 2)) s <|
    let s := setF s HELM_MODE_PREV mOff
    romStart { s with pins := { s.pins with vin := vin, rstN := true }
                      boot := { s.boot with split := s.pins.split, side := s.pins.side, cas := s.pins.cas } }

/-! ### Requested changes (R62, R73, R82, R83) -/

/-- A requested change begins to drain. -/
def startChange (s : State) (kind src : Nat) : State :=
  setF (setAux s { s.x with change := some ⟨kind, src, 1⟩ }) HELM_MODE_CHANGING 1

/-- The requested change is over. -/
def endChange (s : State) : State := setF (setAux s { s.x with change := none }) HELM_MODE_CHANGING 0

/-- Every accepted command but that of `src` has completed. -/
def commandsDone (s : State) (src : Nat) : Bool :=
  !(s.thr.any fun e => isHost e.1 && e.2.st != .idle && e.1 != src) && (s.x.svc.cmd.isNone || src == 9999)

/-- Steps 2 to 4 of R62 are done. -/
def drained (s : State) (src : Nat) : Bool := commandsDone s src && flushOver s

/-- A restart resets the core die into KINDLE (R83): CHR_NOW and the live counters are in RSM, vector 0 was signalled. Counters that no
active KINDLE has taken up since stay as they are saved (R400). PREV shows the mode the module came from (DESIGN CHOICE, log 101). -/
def restart (s : State) (cause : Fld) (wipe : Bool) : State :=
  let s := releaseOwn (saveNow (intakeAbandon s))
  let kept := mode s == mSafe && [mKindle, mStandby].contains (getF s HELM_MODE_PREV)
  let s := { s with rsm := { s.rsm with saved := if kept then s.rsm.saved else some s.d.ten.live } }
  let s := event s 0
  let s := if wipe then { s with copyA := RsmCopy.blank, copyB := RsmCopy.blank, ret := factoryOver s.ret } else s
  romStart (setF (setF (resetCore s) cause 1) HELM_MODE_PREV (mode s))

/-- Which reset cause a restart records (R85). -/
def restartCause (kind : Nat) : Fld :=
  if kind = 4 then HELM_RESET_CAUSE_ACTIVATE else if kind = 5 then HELM_RESET_CAUSE_WIPE else HELM_RESET_CAUSE_RESTART

/-- The completion of the request is delivered: nothing of it is left with the helm, its context or the service port. -/
def delivered (s : State) (src : Nat) : Bool :=
  if isHost src then (th s src).st = .idle else if src = 9999 then s.x.svc.cmd.isNone else true

/-- BANKED_ENTRY_DONE (R59, R73, R74): no command in flight, the write buffer empty of named frames, the tail checkpointed, the
channels idle. -/
def execBankedEntryDone (s : State) : Res :=
  match s.x.change with
  | none => .next s
  | some k =>
    act (k.kind = 2 && drained s k.src && mode s == mRun && (strikesWhere s fun _ => true).isEmpty) s <|
      let s := holdThreads (endChange s) 2
      let s := (List.range 32).foldl (fun s n => setF s (CH_STAT_DRV n) 0) s
      finishReq (toMode (powerDown s) mBanked) k.src okEnd

/-- The module wakes from BANKED (R75): drivers return, threads go on. -/
def wake (s : State) : State :=
  if mode s != mBanked then s else
  let s := (List.range 32).foldl (fun s n => if s.boot.chOff.contains n then s else setF s (CH_STAT_DRV n) 1) s
  enterRun (unhold (powerUp s))

/-! ### Power warnings (R405 to R410) -/

/-- WARN and the release level in mV (R405). -/
def warnMv (s : State) : Nat := getF s PWR_WARN_MV
def releaseMv (s : State) : Nat := getF s PWR_WARN_MV + 10 * getF s PWR_WARN_HYST

/-- A power warning is raised (R60, R104, R406 to R411, R416): QUENCH follows from RUN, BANKED and SERVICE, and signals vector 3
itself; STANDBY and KINDLE record an event; in QUENCH it has no effect. -/
def powerWarning (s : State) (cause : Nat) : State :=
  if inMode s [mRun, mBanked, mService] then (if s.x.warn = 0 then setAux s { s.x with warn := cause } else s)
  else if inMode s [mStandby, mKindle, mSafe] then
    event (if inMode s [mStandby, mKindle] && s.boot.image then logEv s 0 4 [] else s) 3
  else s

/-- VIN_WARNING (R406, R421): VWARN shows the level whatever VEN is; with VEN = 1 it is a power warning. -/
def execVinWarning (mv : Nat) (s : State) : Res :=
  act (decide (mv < warnMv s) && decide (4200 ≤ mv) && mode s != mOff && !flag s PWR_STAT_VWARN) s <|
    let s := setF { s with pins := { s.pins with vin := mv } } PWR_STAT_VWARN 1
    if flag s PWR_WARN_VEN then powerWarning s 1 else s

/-- PFAIL_N_LOW (R407): a low level of `ns`; between 100 ns and 300 ns it may or may not be taken. -/
def execPfailNLow (ns : Nat) (taken : Bool) (s : State) : Res :=
  act (mode s != mOff && (decide (300 ≤ ns) || (decide (100 ≤ ns) && taken)) && !flag s PWR_STAT_PFAIL) s
    (powerWarning (setF { s with pins := { s.pins with pfailN := false } } PWR_STAT_PFAIL 1) 2)

/-- D3HOT_ENTRY (R104, R408), and with `back` the function's return to D0 (R86). -/
def execD3hotEntry (m : PmMove) (s : State) : Res :=
  act ((ports s).contains m.port && (port s m.port).up && (port s m.port).d3hot = m.back) s
    (if m.back then setPort s m.port { port s m.port with d3hot := false }
     else powerWarning (setPort s m.port { port s m.port with d3hot := true }) 3)

/-- POWER_WARNING_RELEASE (R405 to R407): VIN at or above the release level clears VWARN; PFAIL_N high for 1 ms clears PFAIL. -/
def execPowerWarningRelease (mv : Nat) (pfHigh : Bool) (el : Elapse) (s0 : State) : Res :=
  let s := elapse s0 el
  if mode s == mOff then .next s else
  let s := { s with pins := { s.pins with vin := mv } }
  let s := if releaseMv s ≤ mv then setF s PWR_STAT_VWARN 0 else s
  .next (if pfHigh && decide (1000000 ≤ el.ns) then
    setF { s with pins := { s.pins with pfailN := true } } PWR_STAT_PFAIL 0 else s)

/-! ### QUENCH (R411 to R419) -/

/-- A SAFE entry that a power warning overtakes: its cause is held over QUENCH like one that arises in it (R60, R79; DEDUCED, log 133). -/
def holdSafing (s : State) : State :=
  match s.x.safing with
  | some (5, _) => setF s HELM_THERM_HELD 1
  | some (c, _) => setAux (setF s HELM_SAFE_CAUSE_HELD 1) { s.x with heldCause := s.x.heldCause ++ [c] }
  | none => s

/-- Entry to QUENCH (step 1 of R411): a requested change is abandoned (R414), work discarded. -/
def quenchEntry (s0 : State) : State :=
  let s := holdSafing s0
  let frm := mode s
  let banked := match s.x.change with | some k => if k.kind = 2 then some k.src else none | none => none
  let s := setC (setC (setC s PWR_LASTQ_DONE 0) PWR_LASTQ_STEP 0) PWR_LASTQ_CAUSE s.x.warn
  let s := setC (setC (setC s PWR_LASTQ_RETURNED 0) PWR_LASTQ_PEERLOST 0) PWR_LASTQ_DUR_US 0
  let s := addSat (setC s PWR_LASTQ_STAMP_NOW s.clk.now) PWR_CNT_QUENCHES 1
  let s := setAux { s with clk := { s.clk with due := [] } } { s.x with quench := some ⟨frm, 1, s.clk.refNs⟩, warn := 0, change := none, safing := none }
  let s := setF (setF (setF (setF s HELM_MODE_CHANGING 0) PAIR_STAT_SWAPPING 0) PWR_STAT_QACTIVE 1) PWR_STAT_QSTEP 1
  let s := event (logEv (toMode s mQuench) 12 0 []) 3
  let s := match banked with | some c => discard s c 0x42 2 none | none => s
  let s := match s.x.svc.cmd, banked with
    | some _, some 9999 => answerHelm s 9999 ⟨0x42, 2, none, 0⟩ []
    | _, _ => s
  let s := intakeAbandon (descAbandon (discardAll s 9998 0x42 1))
  let s := { s with keep := { s.keep with qOpen := true } }
  holdThreads s (if frm = mBanked then 2 else 1)

/-- The step of R411 in progress has done its work. From BANKED there is nothing to do (R414). The programs of FLUSH and CHECKPOINT threads
belong to steps 2 and 3. -/
def quenchStepDone (s : State) (q : Quench) : Bool :=
  q.frm == mBanked ||
  match q.step with
  | 1 => (strikesWhere s fun k => k.inProg && k.cls = 1 && (th s k.t).role != 2 && (th s k.t).role != 8).isEmpty
      && !(s.thr.any fun e => isHost e.1 && (e.2.st == .done || e.2.st == .faulted) && !(s.keep.held.any fun h => h.1 = e.1))
  | 2 => !wbOwed s && !flushing s
  | 3 => (sifWhere s fun x => x.st = 1 || x.st = 2).isEmpty && !tailOwed s
  | _ => (strikesWhere s fun k => k.inProg && k.suspended.isNone).isEmpty

/-- The step ends (R411, R419): PWR_LASTQ.STEP is committed, and the live counters with what the discarded commands added (R400); step 4
marks DONE. -/
def quenchAdvance (s0 : State) (q : Quench) : State :=
  let s := { s0 with rsm := { s0.rsm with saved := some s0.d.ten.live } }
  let s := setC s PWR_LASTQ_STEP q.step
  if q.step < 4 then setF (setAux s { s.x with quench := some { q with step := q.step + 1 } }) PWR_STAT_QSTEP (q.step + 1)
  else
    let s := { s with keep := { s.keep with qOpen := false } }
    let s := setC (saveNow s) PWR_LASTQ_DUR_US (min ((s.clk.refNs - q.at_) / 1000) (2 ^ 32 - 1))
    setF (setC (setAux s { s.x with quench := some { q with step := 5 } }) PWR_LASTQ_DONE 1) PWR_STAT_QDONE 1

/-- QUENCH (R411): entry on a power warning; executed again, it ends the step in progress once its work is done. -/
def execQuench (el : Elapse) (s0 : State) : Res :=
  let s := elapse s0 el
  match s.x.quench with
  | none => act (s.x.warn != 0 && inMode s [mRun, mBanked, mService]) s (quenchEntry s)
  | some q => act (decide (q.step ≤ 4) && quenchStepDone s q) s (quenchAdvance s q)

/-- QUENCH is complete and R60 lets the module leave (R418): PFAIL_N high for 1 ms, VIN at the release level while VEN = 1. -/
def mayReturn (s : State) : Bool :=
  (match s.x.quench with | some q => q.step == 5 | none => false) && !warned s
    && (!flag s PWR_WARN_VEN || decide (releaseMv s ≤ s.pins.vin))

/-- The QUENCH state is over: internal threads return to their share (R418). -/
def quenchOver (s : State) : State :=
  setF (setF (setF (setAux s { s.x with quench := none, warn := 0 }) PWR_STAT_QACTIVE 0) PWR_STAT_QSTEP 0) PWR_STAT_QDONE 0

/-- QUENCH_RETURN (R418). -/
def execQuenchReturn (s : State) : Res :=
  match s.x.quench with
  | none => .next s
  | some q =>
    act (mayReturn s && s.x.heldCause.isEmpty) s <|
      let s := quenchOver s
      let s := { s with rsm := { s.rsm with saved := none } }
      let s := setF (setC (addSat s PWR_CNT_BROWNOUTS 1) PWR_LASTQ_RETURNED 1) HELM_RESET_CAUSE_BROWNOUT 1
      let s := if flag s PWR_LASTQ_PEERLOST && s.boot.pairEn then setF s PAIR_STAT_PSTATE 2 else s
      let s := if q.frm = mBanked then toMode s mBanked
        else applyShare (if q.frm = mRun then enterRun (unhold s) else toMode (unhold s) q.frm)
      logEv s 12 1 []

/-- QUENCH_TO_SAFE (R79). -/
def execQuenchToSafe (s : State) : Res :=
  act ((match s.x.quench with | some q => q.step == 5 | none => false) && !s.x.heldCause.isEmpty) s (enterSafe s 9998)

/-! ### Samples (R409, R421) -/

/-- HOLD_SAMPLE (R409): VSENSE_HOLD in mV, once a millisecond while PWR_HCFG.EN = 1. -/
def execHoldSample (mv : Nat) (el : Elapse) (s0 : State) : Res :=
  let s := elapse s0 el
  act (flag s PWR_HCFG_EN && mode s != mOff && s.x.holdMs != s.clk.refNs / 1000000) s <|
    let h := min 65535 (mv * getF s PWR_HCFG_DIV / 16)
    let s := setF (setAux s { s.x with holdMs := s.clk.refNs / 1000000 }) PWR_HOLD_HOLD_MV h
    let v := getF s PWR_HCFG_VMIN
    if h < v then (if flag s PWR_STAT_HOLD_LOW then s else event (logEv (setF s PWR_STAT_HOLD_LOW 1) 12 3 []) 5)
    else if v < h then setF s PWR_STAT_HOLD_LOW 0 else s

/-- VIN_SAMPLE (R421): VIN in mV, once a millisecond. -/
def execVinSample (mv : Nat) (el : Elapse) (s0 : State) : Res :=
  let s := elapse s0 el
  act (mode s != mOff && s.x.vinMs != s.clk.refNs / 1000000) s <|
    let v := min mv 65535
    let s := setAux { s with pins := { s.pins with vin := mv } } { s.x with vinMs := s.clk.refNs / 1000000 }
    let s := setF s PWR_VIN_VIN_MV v
    if v < getF s PWR_VIN_MIN_MV then setF s PWR_VIN_MIN_MV v else s

/-- CLRMIN (R421). -/
def clrMin (s : State) : State := setF s PWR_VIN_MIN_MV 0xFFFF
def execClrmin (s : State) : Res := act (regOk s 12) s (clrMin s)

/-! ### Temperature and life (R335, R523 to R525) -/

/-- Tj: the highest of sensors 0 to 4, in °C (R523). -/
def tjOf (t : List Int) : Int := (t.take 5).foldl max (-128)

/-- Tj in two's complement, eight bits. -/
def tjBits (t : Int) : Nat := (t % 256).toNat

/-- THERMAL_COMPARE (R524): the five sensor readings in °C, once a millisecond. -/
def execThermalCompare (t : List Int) (el : Elapse) (s0 : State) : Res :=
  let s := elapse s0 el
  act (mode s != mOff && s.boot.image && s.x.tempMs != s.clk.refNs / 1000000) s <|
    let j := tjOf t
    let w : Int := getF s HELM_THERM_WARN_C
    let arises := decide (115 ≤ j) && (match s.x.tj with | some o => decide (o < 115) | none => true)
    let s := setF (setAux s { s.x with tj := some j, tempMs := s.clk.refNs / 1000000 }) HELM_THERM_TJ (tjBits j)
    let s := if w ≤ j then
        (if flag s HELM_THERM_HOT then s else event (setF (setF s HELM_THERM_HOT 1) HELM_THERM_WARNED 1) 5)
      else if j ≤ w - 5 then setF s HELM_THERM_HOT 0 else s
    if arises then safeArise s 5 9998 else s

/-- The histogram bucket of a temperature in °C (R335). -/
def bucketOf (t : Int) : Nat := (min 63 (max 0 ((t + 40) / 2))).toNat

/-- TEMPERATURE_SAMPLE (R335): the eight readings in 1/16 °C, once a second; at a minute boundary of CHR_NOW the highest of the
minute that ended joins the histogram. -/
def execTemperatureSample (t : List Int) (el : Elapse) (s0 : State) : Res :=
  let s := elapse s0 el
  let sec := s.clk.refNs / 1000000000
  let mn := s.clk.now / 60000000000
  act (mode s != mOff && s.x.tsec != sec && t.length = 8) s <|
    let k := s.keep
    let roll := s.x.tmin != mn && s.x.tmax.length = 8
    let hist := if roll then
        (List.range 8).foldl (fun m i =>
          let b := 64 * i + bucketOf (s.x.tmax.getD i 0 / 16)
          mset 0 m b (satAdd 32 (mget 0 m b) 1)) k.hist
      else k.hist
    let lo := (List.range 8).map fun i => (i, min (t.getD i 0) ((k.tlo.find? fun e => e.1 = i).map Prod.snd |>.getD (t.getD i 0)))
    let hi := (List.range 8).map fun i => (i, max (t.getD i 0) ((k.thi.find? fun e => e.1 = i).map Prod.snd |>.getD (t.getD i 0)))
    let mx := if s.x.tmin != mn || s.x.tmax.length != 8 then t
      else (List.range 8).map fun i => max (t.getD i 0) (s.x.tmax.getD i 0)
    let s := { s with keep := { k with hist := hist, tlo := lo, thi := hi }, md := { s.md with powerOn := s.md.powerOn + (sec - s.x.tsec) } }
    setAux s { s.x with tsec := sec, tmin := mn, tmax := mx }

/-- Tenths of an equivalent hour per hour at Tj (R525). -/
def lifeWeight (t : Int) : Nat :=
  if t ≤ 95 then 10 else if t ≤ 100 then 16 else if t ≤ 105 then 25 else if t ≤ 110 then 40 else 63

/-- LIFE_HOUR_COUNT (R525): an hour outside OFF at a Tj. -/
def execLifeHourCount (t : Int) (s : State) : Res :=
  act (mode s != mOff) s <|
    let n := s.keep.lifeTenths + lifeWeight t
    let s := addSat { s with keep := { s.keep with lifeTenths := n % 10 } } HELM_LIFE_EQH (n / 10)
    if 95 < t then addSat s HELM_LIFE_HOTH 1 else s

/-! ### The voting helm (R422, R423) -/

/-- HELM_DISAGREEMENT (R422, R423): `core` differs (3: all three differ). One core is masked; a second disagreement before the
resynchronisation is cause HELM_VOTE. -/
def execHelmDisagreement (core : Nat) (s : State) : Res :=
  let m := getF s HELM_VOTE_MASKED
  act (mode s != mOff && s.boot.image && decide (core ≤ 3) && !(decide (core < 3) && bit m core)) s <|
    let s := addSat s HELM_VOTE_EVENTS 1
    if core = 3 || m != 0 then safeArise (setF (logEv s 0 3 []) HELM_VOTE_MASKED 0) 1 9998
    else logEv (setF (setF s HELM_VOTE_MASKED (2 ^ core)) HELM_VOTE_LASTCORE core) 0 3 []

end Sys2Proof.Machine
end

