-- ==== Sys2Proof/Machine/Kindle.lean ====
section
/-! DEFINITION. The KINDLE sequence from step 3 on, and the taking of flash ownership (R63 to R72, R228, R280, R318, R339,
R350, R372, R375, R431). -/
namespace Sys2Proof.Machine
open Sys2Proof

/-- KINDLE is at a step. -/
def atStep (s : State) (n : Nat) : Bool := mode s == mKindle && s.boot.image && getF s HELM_KINDLE_STEP == n

def toStep (s : State) (n : Nat) : State := setF s HELM_KINDLE_STEP n

/-- STAGED_IMAGE_COPY, step 3 (R474): the staging image is verified and copied, or refused; then the active slot's image runs. -/
def execStagedImageCopy (reprog : Nat) (s : State) : Res :=
  act (atStep s 3) s <|
    if (slotCheck s stagingSlot).isSome then
      toStep (romProtect (logEv (setC s IMG_STAGE_DUE 0) 15 1 [])) 4
    else toStep (romProtect (loadSlot (copyStaged s reprog) activeSlot (getF s HELM_KINDLE_SLOT))) 4

/-! ### Step 4: settings, keys, cipher tests (R39, R69, R70, R372, R375, R419, R498) -/

/-- A data engine or unit of a quadrant fails its test: bit 0 to 23 data engines, 24 and 25 tweak, 26 and 27 tag, 28 and 29
guard units (R372). Codes are 32 × quadrant + bit. -/
def katFail (s : State) (c : Nat) : State :=
  let q := c / 32
  let b := c % 32
  let f := if b < 24 then CIP_ENGDIS_DIS q else if b < 26 then CIP_ENGDIS_TWKDIS q else if b < 28 then CIP_ENGDIS_TAGDIS q
    else CIP_ENGDIS_GRDDIS q
  let i := if b < 24 then b else (b - 24) % 2
  logEv (setF s f (putBits (getF s f) i 1 1)) 10 0 [q, b]

/-- A quadrant whose engines or units of one kind all fail is down (R372). -/
def quadDown (s : State) (q : Nat) : Bool :=
  getF s (CIP_ENGDIS_DIS q) == 2 ^ 24 - 1 || getF s (CIP_ENGDIS_TWKDIS q) == 3 || getF s (CIP_ENGDIS_TAGDIS q) == 3
    || getF s (CIP_ENGDIS_GRDDIS q) == 3

/-- The known-answer test with the units that fail. -/
def runKat (s : State) (l : List Nat) : State :=
  let s := (l.filter fun c => c < 128 && c % 32 < 30).foldl katFail s
  let d := ((List.range 4).map fun q => b2n (quadDown s q) * 2 ^ q).sum
  let s := setF (setF s CIP_STAT_QDOWN d) CIP_STAT_KAT_DONE 1
  if d = 0 then s else event s 5

/-- A sealed version fails to open: 2 × page + version (R375). -/
def sealFail (s : State) (c : Nat) : State :=
  let p := c / 2
  let k := mget KeyPage.empty s.rsm.keys p
  let k' : KeyPage := if c % 2 = 0 then { k with a := none } else { k with b := none }
  let k'' : KeyPage := if k.wset && k.wver = c % 2 then { k' with wset := false } else k'
  logEv { s with rsm := { s.rsm with keys := mset KeyPage.empty s.rsm.keys p k'' } } 10 1 [p]

/-- Settings in force since this KINDLE (R248, R254, R337, R424, R459): write-buffer size, SPR, pairing, cascade, channels off,
scratchpad ways; the watch length. -/
def kindleSettings (s : State) : State :=
  let s := (List.range 4).foldl convert (setC s BUF_WB_CUR (getF s BUF_WB_SIZE))
  { s with boot := { s.boot with spr := getF s HELM_MEDCFG_SPR, pairEn := flag s PAIR_CFG_EN, casEn := flag s CAS_CFG_EN
                                 chOff := (List.range 32).filter fun n => !flag s (CH_CFG_EN n) }
           clk := { s.clk with watchMs := getF s CHR_WATCH_PERIOD_MS } }

/-- The chronometer resumes (R39, R46). -/
def resumeClock (s : State) : State :=
  let n := s.ret.now
  setF { s with clk := { s.clk with now := n, tickBase := n, lastTick := none, anyNext := true, scanMs := n / 1000000
                                    budgetMs := n / 1000000, refHold := n } } CHR_STAT_UNSET 1

/-- SETTINGS_RESTORE, step 4: `badA`, `badB` copies whose MAGIC, FORMAT or CRC fail; `fault` RSM fails to read (R76); units
that fail their test; sealed versions that fail to open. The script store is loaded as well (R293). With TICK_EN = 0 dead reckoning is in force at once (R58; DEDUCED, log 55). -/
def execSettingsRestore (badA badB fault : Bool) (kat seals : List Nat) (el : Elapse) (s0 : State) : Res :=
  let s := elapse s0 el
  if !atStep s 4 then .next s
  else if fault then .next (safeArise s 8 9998)
  else
    let s := { s with copyA := if badA then RsmCopy.blank else crcChecked s.copyA
                      copyB := if badB then RsmCopy.blank else crcChecked s.copyB }
    let none_ := (bestCopy s).isNone
    let s := resumeClock (loadQuotas { loadScripts s with ret := rsmRet s })
    let s := setF s HELM_KINDLE_FACTORY (b2n none_)
    let s := releaseTrigs s
    let s := if none_ then logEv (commit s) 0 2 [] else s
    let s := if flag s CHR_CTL_TICK_EN then s else enterDr s
    let s := runKat ((seals.filter (· < 2080)).foldl sealFail (kindleSettings s)) kat
    let s := if s.keep.qOpen then
        logEv (addSat { s with keep := { s.keep with qOpen := false }, rsm := { s.rsm with saved := none }, boot := { s.boot with tell5 := true } } PWR_CNT_INCOMPLETE 1)
          12 2 [getF s PWR_LASTQ_STEP]
      else s
    .next (toStep s 5)

/-- DRAM_TRAIN, step 5: the valid bitmap is cleared and every line reads zero (R63, R266). -/
def execDramTrain (el : Elapse) (s0 : State) : Res :=
  let s := elapse s0 el
  act (atStep s 5) s (toStep (setF { s with mem := { s.mem with dram := [], valid := [], bad := [] } } DRM_STAT_TRAINED 1) 6)

/-! ### Step 6: the role, and flash ownership (R65, R66, R431) -/

/-- The standby role is settled: steps 7 to 9 are left out (R63). -/
def settleStandby (s : State) : State := toStep (setF s HELM_KINDLE_ROLE 1) 10

/-- An active module that KINDLE leaves without ownership becomes the standby: a role change (R104). -/
def turnStandby (s : State) : State := event (settleStandby s) 4

/-- The cascade as it stands: the master is the active module of position 0; every position is counted as answering
until it is found silent (R446, R452). -/
def casRole (s : State) (active : Bool) : State :=
  if !s.boot.casEn then s else
  setF (setF (setF s CAS_STAT_MASTER (b2n (active && s.boot.cas = 0))) CAS_STAT_UP (2 ^ (getF s CAS_CFG_NPOS + 1) - 1)) CAS_STAT_PORTS 3

/-- Begin to take ownership (R431): 1 for KINDLE, 2 for a takeover, 3 for a swap. -/
def beginAcquire (s : State) (why : Nat) : State := setAux s { s.x with pair := { s.x.pair with acq := some ⟨why, 0, false⟩ } }

/-- ROLE_SETTLE, step 6 (R65): `ownIn` is the level of OWN_IN. -/
def execRoleSettle (ownIn : Bool) (s : State) : Res :=
  act (atStep s 6) s <|
    let s := { s with pins := { s.pins with ownIn := ownIn } }
    let s := setF s PAIR_STAT_PSTATE (b2n s.boot.pairEn)
    let standby := s.boot.pairEn && (flag s PAIR_CFG_ROLE || ownIn)
    let s := casRole s (!standby)
    if standby then settleStandby s else beginAcquire (setF s HELM_KINDLE_ROLE 0) 1

/-- Drivers are enabled with ownership (R431 step 5): on every channel with CH_CFG.EN = 1 (R280). -/
def driversOn (s : State) : State :=
  (List.range 32).foldl (fun s n => if s.boot.chOff.contains n then s else setF s (CH_STAT_DRV n) 1) (setF s PAIR_STAT_OWN 1)

/-- Ownership is held: what it was taken for goes on (R66, R437 step 3, R443 step 7). -/
def owned (s : State) (why : Nat) : State :=
  let s := driversOn (setAux s { s.x with pair := { s.x.pair with acq := none } })
  if why = 1 then toStep s 7
  else
    let s := setC (setC s PAIR_CFG_ROLE 0) PAIR_LASTACT_NOW s.clk.now
    setAux s { s.x with pair := { s.x.pair with step := if why = 2 then 4 else 8, stepAt := s.clk.refNs } }

/-- OWNERSHIP_ACQUIRE (R66, R431): OWN_IN at step 3 and at step 5. -/
def execOwnershipAcquire (in1 in2 : Bool) (el : Elapse) (s0 : State) : Res :=
  let s := elapse s0 el
  match s.x.pair.acq with
  | none => .next s
  | some a =>
    act (a.at_ = 0) s <|
      let s := { s with pins := { s.pins with ownIn := in1 || in2 } }
      if in1 then
        if a.why = 1 && a.retry then
          turnStandby (setC (setAux s { s.x with pair := { s.x.pair with acq := none } }) PAIR_CFG_ROLE 1)
        else s
      else if in2 then
        setAux s { s.x with pair := { s.x.pair with
          acq := some ⟨a.why, s.clk.refNs + (if s.boot.side then 25000 else 5000), true⟩ } }
      else owned s a.why

/-- OWNERSHIP_RETRY (R431): the delay of this side is over and acquisition starts again. -/
def execOwnershipRetry (el : Elapse) (s0 : State) : Res :=
  let s := elapse s0 el
  match s.x.pair.acq with
  | none => .next s
  | some a => act (a.at_ != 0 && decide (a.at_ ≤ s.clk.refNs)) s
      (setAux s { s.x with pair := { s.x.pair with acq := some { a with at_ := 0 } } })

/-! ### Step 7: discovery (R68, R279, R280, R308, R339) -/

/-- The parameter page of a die is the first of its copies whose CRC checks: planes, pages and erase blocks per plane; zeros where no copy
checks, which is no geometry (R280). -/
def dieGeometry (x : FoundDie) : Nat × Nat × Nat :=
  match x.copies.find? (·.good) with
  | some p => (p.planes, p.pages, p.eblks)
  | none => (0, 0, 0)

/-- The geometry every die must report: the inventory's, else the one most dies report, ties to the lowest die (R280). -/
def geometryOf (s : State) (found : List FoundDie) : Nat × Nat × Nat :=
  if s.ret.inv.planes != 0 then (s.ret.inv.planes, s.ret.inv.pages, s.ret.inv.eblks) else
  let g := dieGeometry
  let n (x : FoundDie) := (found.filter fun y => g y == g x).length
  let best := (found.filter fun x => g x != (0, 0, 0)).foldl (fun (b : Option FoundDie) x => match b with
    | none => some x
    | some y => if n y < n x || (n y = n x && x.die < y.die) then some x else some y) none
  match best with
  | some x => g x
  | none => (0, 0, 0)

/-- Packages that answer and fitted dies are shown (R280). -/
def showDies (s : State) (answer dies : List Nat) : State :=
  let s := answer.foldl (fun s d =>
    let p := CH_PKGMAP_FITTED (d / 256)
    setF s p (putBits (getF s p) (d % 256 / 16) 1 1)) s
  let s := dies.foldl (fun s d =>
    let f := CH_DIEMAP_FITTED (d / 256) (d % 256 / 64)
    setF s f (putBits (getF s f) (d % 64) 1 1)) s
  (List.range 32).foldl (fun s n =>
    setF s (CH_STAT_PKGS n) ((List.range 16).filter fun i => bit (getF s (CH_PKGMAP_FITTED n)) i).length) s

/-- The rate a channel settles (R279): the highest code in `ok`, the codes its packages declare and training passes, within
MAXRATE and the package count; none fails the channel. -/
def settleRate (s : State) (n ok : Nat) : State :=
  let top := min (getF s (CH_CFG_MAXRATE n)) (if getF s (CH_STAT_PKGS n) ≤ 8 then 7 else 5)
  match ((List.range 7).map (7 - ·)).find? fun c => c ≤ top && bit ok c with
  | some c => setF (setF { s with ch := { s.ch with trainedAt := mset 0 s.ch.trainedAt n s.clk.now } } (CH_STAT_RATE n) c) (CH_STAT_TRAINED n) 1
  | none => setF s (CH_STAT_FAILED n) 1

/-- SLOTB leaves a parity length that R308 allows. -/
def slotbOk (s : State) : Bool :=
  let p := getF s (CH_SLOT_SLOTB 0) - 4160
  decide (4160 ≤ getF s (CH_SLOT_SLOTB 0)) && p % 32 == 0 && decide (64 ≤ p) && decide (p ≤ 960)

/-- Runs of `w` of a list. -/
def runsOf (w : Nat) : Nat → List Nat → List (List Nat)
  | 0, _ => []
  | n + 1, l => if l.isEmpty then [] else l.take w :: runsOf w n (l.drop w)

/-- The spare table's bytes. -/
def inSpareTable (a : Nat) : Bool := aSpare ≤ a && a < aSpare + 2 ^ 23

/-- Groups are formed where RSM holds no group table (R339); the spare table starts anew with them (R311). -/
def formGroups (s : State) (dies : List Nat) : State :=
  let w := max 1 (getF s PAR_CFG_FWIDTH)
  let np := if flag s PAR_CFG_FMODE then 2 else 1
  let runs := (List.range 256).flatMap fun j => runsOf w 32 (dies.filter fun d => d % 256 == j)
  let r := runs.foldl (fun (r : NMap (Option Group) × List Nat) x =>
    if x.length < 8 || 1024 ≤ r.1.length || 1048064 < (r.1.length + 1) * nbe s then (r.1, r.2 ++ x)
    else (r.1 ++ [(r.1.length, some ⟨.healthy, np, x, [], false, 0, []⟩)], r.2)) ([], [])
  ringNote { s with ret := { s.ret with groups := r.1, spares := r.2.foldl (fun l d => sins d l) [], grouped := true, redirs := [] }
                    ring := s.ring.filter fun e => !inSpareTable e.1
                    keep := { s.keep with fresh := true, retired := [] } }

/-- LCAP at the end of step 7 is bounded by the end of the highest volume (R233). -/
def lcapBound (s : State) : State :=
  let s := setLcap s
  let e := volumesEnd s
  if getF s MAP_LCAP_BILLETS < e then event (logEv (setF s MAP_LCAP_BILLETS e) 4 2 []) 5 else s

/-- Discovery (R68, R279, R280): the dies that answer with the copies of their parameter pages; by channel, the rate codes declared and
trained; by die, the program time its parameter page declares in ns, and the rated cycles they give, 0 for none. A die of more than 2^19
billets is not fitted (R207). The answers of entries 0x00 to 0x06 are operands (DESIGN CHOICE, log 115). -/
def discover (s : State) (found : List FoundDie) (train : List Nat) (tprog : List (Nat × Nat)) (endur : Nat) : State :=
  let all := found.filter fun x => x.die < 8192 && !s.boot.chOff.contains (x.die / 256)
  let found := all.filter fun x => match dieGeometry x with | (p, g, e) => decide ((g - 1) / 32 * p * e ≤ 2 ^ 19)
  let (pl, pg, eb) := geometryOf s found
  let good := found.filter fun x => dieGeometry x == (pl, pg, eb) && dieGeometry x != (0, 0, 0)
  let s := (found.filter fun x => !good.contains x).foldl (fun s x => logEv s 0 13 [x.die]) s
  let dies := good.foldl (fun l x => sins x.die l) []
  let s := showDies (setF (setF (setF s MAP_GEOM_PLANES pl) MAP_GEOM_PAGES pg) MAP_GEOM_EBLKS eb) (all.map (·.die)) dies
  let s := (List.range 32).foldl (fun s n =>
    if !slotbOk s then setF s (CH_STAT_FAILED n) 1
    else if s.boot.chOff.contains n then s
    else settleRate s n (train.getD n 0)) s
  let first := s.ret.inv.planes == 0
  let s := if first then
      let s := { s with ret := { s.ret with inv := ⟨dies, pl, pg, eb⟩ } }
      if endur = 0 then s else setC s HELM_MEDCFG_ENDUR endur
    else { s with md := { s.md with unused := dies.filter fun d => !s.ret.inv.dies.contains d } }
  let s := { s with md := { s.md with tprog := some (dies.map fun d => (d, max 1 (mget 1 tprog d))) } }
  let gone := (s.ret.inv.dies.filter fun d => !dies.contains d) ++ (dies.filter fun d => flag s (CH_STAT_FAILED (d / 256)))
  let s := gone.foldl (fun s d => dieFail s d) (commit s)
  let s := if s.ret.grouped then s else commit (formGroups s (dies.filter fun d => !dieFailed s d))
  qbudUpdate (lcapBound s)

/-- FLASH_DISCOVERY, step 7. -/
def execFlashDiscovery (found : List FoundDie) (train : List Nat) (tprog : List (Nat × Nat)) (endur : Nat) (s : State) : Res :=
  act (atStep s 7 && flag s PAIR_STAT_OWN) s (toStep (discover s found train tprog endur) 8)

/-! ### Steps 8 and 9 (R228, R318, R350) -/

/-- A round's map regions in DRAM; the tail ring and what lies above it stay (R204). MAPPED is counted
from them (R325). The next round is due 10 minutes after NEWEST began, `at_` (R229). -/
def loadRound (s : State) (r : Round) (at_ : Nat) : State :=
  let img := r.image.filter fun e => e.1 < aRing
  let m := { s.mem with
    dram := img ++ s.mem.dram.filter fun e => aRing ≤ e.1
    valid := (img.map fun e => e.1 / 64).dedup ++ s.mem.valid.filter fun l => aRing / 64 ≤ l }
  countMapped (armCheckpoint (countOverlay { s with mem := m, map := { s.map with roundAt := at_ } }))

/-- MAP_CHECKPOINT_LOAD, step 8: which rounds are readable. A module that never completed a round starts from the empty map
(DEDUCED, log 38). -/
def execMapCheckpointLoad (newest previous : Bool) (s : State) : Res :=
  act (atStep s 8) s <|
    match s.ck.newest with
    | none => toStep (armCheckpoint s) 9
    | some r =>
      if newest then toStep (loadRound s r r.stampNow) 9
      else match s.ck.previous with
        | some p => if previous then toStep (logEv (setF (loadRound s p r.stampNow) MAP_CKPT_PREV_USED 1) 4 1 []) 9 else safeArise s 3 9998
        | none => safeArise s 3 9998

/-- The round that was loaded. -/
def loadedRound (s : State) : Option Round := if flag s MAP_CKPT_PREV_USED then s.ck.previous else s.ck.newest

/-- JSTART of the round that was loaded. -/
def loadedStart (s : State) : Nat :=
  match loadedRound s with
  | some r => r.jstart
  | none => 1

/-- The records to replay, and whether they follow each other without a gap up to JEND. -/
def replayRecs (s : State) : List JRec × Bool :=
  let a := loadedStart s
  let l := s.map.recs.filter fun r => a ≤ r.jseq && r.jseq ≤ s.ck.jend
  (l, l.map (·.jseq) == (List.range (s.ck.jend + 1 - a)).map (a + ·))

/-- Steps 2 to 5 of the list of R318 for the media region. -/
def recoverMedia (s : State) : State :=
  let s := (allBands s).foldl (fun s b =>
    let e := bandEnt s b
    let e := putBits e 64 13 noOwner
    let e := if bits e 0 3 = 1 then putBits (putBits e 0 3 2) 5 1 1 else if bits e 0 3 = 4 then putBits e 0 3 3 else e
    if e = bandEnt s b then s else if bits e 0 3 = bandState s b then setBandEnt s b e else bandSet s b e) s
  setF (dramClear s aSlots 8192) HELM_MEDSTAT_RECOUNT 1

/-- The stripes-in-flight journal is recovered (R350): from RSM, from the entries of the partner's mirror, or from the flash copy of the
round that was loaded, where every OPEN band gets a WIDE ORPHAN entry. -/
def recoverSif (s : State) (src : SifSrc) : State :=
  let put := fun (l : List (Nat × Option Sif)) =>
    { s with sif := sifSettled (l.foldl (fun m (e : Nat × Option Sif) => if e.1 < 4096 then mset none m e.1 e.2 else m) []) }
  let s := match src with
    | .rsm => put s.sif
    | .peer l => if s.boot.pairEn && 2 ≤ getF s PAIR_STAT_PSTATE then setF (put l) PAR_JSTAT_PEERSRC 1 else put s.sif
    | .flash =>
      (allBands s).foldl (fun s b =>
        if bandState s b = 1 then
          match lowFreeSif s with
          | some i => setRefresh (setSif s i (some ⟨b, 0, geoRp s, 3, true, false, 0, 0, 0, 0, true, 3⟩)) b
          | none => s
        else s) (setF (put (match loadedRound s with | some r => r.sif | none => [])) PAR_JSTAT_FLASHSRC 1)
  let s := (sifWhere s fun x => x.st = 1 || x.st = 2).foldl orphan s
  { s with md := { s.md with accs := [] } }

/-- The spare table's first form, where no checkpoint round holds a later one (R311). -/
def freshSpares (s : State) : State :=
  if !s.keep.fresh then s else
  let row := (List.range 32).flatMap fun k => leBytes 8 (if k < s.boot.spr then mkSpare (nbe s + k) 1 0 0 else 0)
  s.ret.inv.dies.foldl (fun s d => (List.range (planes s)).foldl (fun s p => dramWr s (aSpare + 256 * (4 * d + p)) row) s) s

/-- Ring records newer than the loaded round are applied to the media region (R318). -/
def applyRing (s : State) : State := s.ring.foldl (fun s e => dramWr s e.1 e.2) (freshSpares s)

/-- JOURNAL_REPLAY, step 9: a record at or below JEND that fails its CRC, or a gap, is cause REPLAY. -/
def execJournalReplay (badRec : Option Nat) (src : SifSrc) (s : State) : Res :=
  let (l, ok) := replayRecs s
  let bad := match badRec with | some j => l.any fun r => r.jseq == j | none => false
  act (atStep s 9) s <|
    if !ok || bad then safeArise s 4 9998
    else
      let s := l.foldl applyRec s
      let s := { s with map := { s.map with recs := s.map.recs.map fun (r : JRec) => { r with committed := true, applied := true } } }
      let s := recoverMedia (recoverSif (applyRing s) src)
      let s := jstat (setF (overUpdate s) MAP_JSEQ_LAST s.map.jseq)
      toStep (lcapBound s) 10

/-! ### Step 10 (R63, R163, R397, R400, R410, R473) -/

/-- The retained counters follow the booted image (R473). -/
def raiseArb (s : State) : State :=
  let s := setC s IMG_BOOT_ARB (max (getF s IMG_BOOT_ARB) s.boot.arb)
  match s.boot.oarb with
  | some a => setC s IMG_OWNER_OARB (max (getF s IMG_OWNER_OARB) a)
  | none => s

/-- The live counters go on from what QUENCH or a restart wrote, else this interval misses counts (R400). -/
def resumeCounters (s : State) : State :=
  match s.rsm.saved with
  | some l => { setTen s { s.d.ten with live := l } with rsm := { s.rsm with saved := none } }
  | none => setTen s { s.d.ten with live := [], loss := true }

/-- A position that holds records of spanning units asks the master (R450). -/
def askMaster (s : State) : State :=
  s.keep.held.foldl (fun s h => send s (.cascade 0 2 [h.1, h.2.1, s.boot.cas])) s

/-- What every entry to RUN as the active module begins with (R154, R163, R397). -/
def beginActive (s : State) : State := applyShare (armAll (fillBuckets s))

/-- A helm notice (R497). -/
def notice (s : State) (mb code ver : Nat) : State := sendMsg s mb (helmId s) srcMbx (leBytes 4 code ++ leBytes 4 0 ++ leBytes 8 ver)

/-- Step 4 of R476: the initiator of an activation returns in STANDBY, armed, and tells its partner. -/
def returned (s : State) : State :=
  if s.x.pair.actv = 2 then
    notice (setAux s { s.x with pair := { s.x.pair with force := true } }) 51 2 (getF s IMG_VER_VERSION)
  else s

/-- KINDLE_COMPLETE, step 10: in either role every enabled bucket starts at its CAP (R397). -/
def execKindleComplete (s : State) : Res :=
  act (atStep s 10) s <|
    if flag s HELM_KINDLE_ROLE then
      let s := applyShare (toMode (fillBuckets (raiseArb s)) mStandby)
      returned (setF { s with mem := { s.mem with dram := [], valid := [], bad := [] } } PAIR_STAT_PSTATE 2)
    else if warned s then
      if s.boot.told10 then s else logEv { s with boot := { s.boot with told10 := true } } 0 5 []
    else askMaster (beginActive (enterRun (resumeCounters (raiseArb s))))

end Sys2Proof.Machine
end

