-- ==== Sys2Proof/Machine/RegRead.lean ====
section
/-! DEFINITION. What register reads return: stored fields, windows and derived fields, context pages, vector map, MSI-X
structures and BAR2 (R9, R10, R92 to R94, R109, R112, R114, R137, R141, and the register tables of every block). -/
namespace Sys2Proof.Machine
open Sys2Proof

/-! ### Finding a register -/

/-- Block and index of an offset within a register array. -/
def regIdx (d : RDef) (off : Nat) : Option (Nat × Nat) :=
  if off < d.base then none else
  let o := off - d.base
  let n := if d.strN = 0 then 0 else min (o / d.strN) (d.cntN - 1)
  let r := o - n * d.strN
  let k := if d.strK = 0 then 0 else r / d.strK
  if k < d.cntK && n * d.strN + k * d.strK = o then some (n, k) else none

/-- The register at a word offset of BAR0, with its block and index. -/
def regAt (off : Nat) : Option (RDef × Nat × Nat) :=
  regTable.findSome? fun d => (regIdx d off).map fun x => (d, x.1, x.2)

/-! ### Windows -/

/-- Word `k` of a list of bytes. -/
def wordOf (b : List Byte) (k : Nat) : Nat := leNat ((b.drop (8 * k)).take 8)

/-- A mailbox message as 48 bytes (R493); zero when none is held (DEDUCED, log 40). -/
def msgBytes (b : Mbox) : List Byte :=
  if b.full then leBytes 4 b.sender ++ leBytes 1 b.flags ++ leBytes 3 0 ++ leBytes 8 b.stamp ++ padTo 0 32 b.body else []

/-- A logbook entry as 256 bytes (R498). -/
def logBytes (e : LogEnt) : List Byte :=
  leBytes 2 e.trig ++ leBytes 1 e.flags ++ leBytes 1 e.nreg ++ leBytes 4 e.seq ++ leBytes 8 e.stamp
    ++ (padTo 0 3 e.detail).flatMap (leBytes 8) ++ (padTo 0 16 e.value).flatMap (leBytes 8)
    ++ (padTo 0 16 e.offset).flatMap (leBytes 4)

/-- Billets below LCAP in no volume, and the largest free range (R234). -/
def volFree (s : State) : Nat × Nat :=
  let cap := volCap s
  let l := ((volsUsed s).map fun v => (volBase (volEnt s v), volSize (volEnt s v))).mergeSort fun a b => a.1 ≤ b.1
  let r := (l ++ [(cap, 0)]).foldl (fun (x : Nat × Nat × Nat) (e : Nat × Nat) => (max x.1 (e.1 + e.2), x.2.1 + (e.1 - x.1), max x.2.2 (e.1 - x.1)))
    (0, 0, 0)
  (r.2.1, r.2.2)

/-- A member of a group as PAR_GMEM shows it. -/
def gmemHalf (s : State) (x : Group) (i : Nat) : Nat :=
  match x.mem[i]? with
  | some d => d + 2 ^ 15 * b2n (dieFailed s d)
  | none => 0x1FFF

/-- PAR_DINFO of a die (R368). -/
def dieInfo (s : State) (d : Nat) : Nat :=
  let g := s.ret.groups.findSome? fun e => match e.2 with
    | some x => (posOf x d).map fun k => (e.1, k)
    | none => none
  let errw := 2 ^ 24 * min 255 (mget 0 s.ch.errw d)
  if dieFailed s d then 3 + errw
  else match g with
    | some (n, k) => 1 + 4 * n + 2 ^ 12 * k + errw
    | none => (if s.ret.spares.contains d then 2 else 0) + errw

/-- The digest CAS_LPEER shows (R459). -/
def lpeer (s : State) : List Nat :=
  let m := getF s CAS_LSEL_MEMBER
  let p := getF s CAS_LSEL_POS
  if flag s CAS_STAT_MASTER && p != s.boot.cas then mget [] s.x.cas.peers (2 * p + m)
  else if m = 1 then s.x.pair.lode else []

/-- Cipher transfers of a quadrant that have not ended (R370). -/
def cipherQ (s : State) (q : Nat) : List Xfer :=
  s.thr.flatMap fun e => if quadOf e.1 = q then e.2.xfers.filterMap fun y => match y.2 with
    | some z => if !z.ended && (z.kind = .cenc || z.kind = .cdec) then some z else none
    | none => none else []

/-- A thread as the registers show it: in BANKED every internal thread is parked with reason TIME (R163; DEDUCED, log 111). -/
def shown (s : State) (t : Nat) (x : Thread) : Thread :=
  if mode s == mBanked && !isHost t && x.st != .idle then { x with st := .parked, why := .time, arg := 2 ^ 64 - 1 } else x

def selThread (s : State) : Thread := shown s (getF s ANV_SEL_THREAD) (th s (getF s ANV_SEL_THREAD))
def selGroup (s : State) : Option Group := group s (getF s PAR_GSEL_GROUP)
def countWhere (s : State) (p : Nat → Thread → Bool) : Nat := (threadsWhere s fun t x => p t (shown s t x)).length

/-- Descriptors QUEUED or RUNNING. -/
def descBusy (s : State) (r : Bool) : List QDesc := s.x.img.queue.filter fun q => q.running = r

/-- Every item of a self-test result passed (R434). -/
def testPassed (q : Nat) (dram links ilock valid : Bool) : Bool := !valid || (q == 15 && dram && links && ilock)

/-- PAIR_STAT.STESTOFF (R434, R435). -/
def stestOff (s : State) : Bool := s.boot.pairEn && (s.boot.casEn || !flag s PAIR_CFG_STEST)

/-- PAIR_STAT.ELIG (R424): of this module as a standby, of the partner as the active module sees it. -/
def eligible (s : State) : Bool :=
  let own := mode s == mStandby
  let ok := if own then
      testPassed (getF s PAIR_STH_QPASS) (flag s PAIR_STH_DRAM) (flag s PAIR_STH_LINKS) (flag s PAIR_STH_ILOCK) (flag s PAIR_STH_VALID)
    else testPassed (getF s PAIR_PEERH_QPASS) (flag s PAIR_PEERH_DRAM) (flag s PAIR_PEERH_LINKS) (flag s PAIR_PEERH_ILOCK)
      (flag s PAIR_PEERH_VALID)
  s.boot.pairEn && getF s PAIR_STAT_PSTATE == 3 && !flag s PAIR_STAT_LODEMIS && (stestOff s || ok)

/-- The computed bits of a register, by its base offset, block and index. -/
def viewWord (s : State) (base n k : Nat) : Nat :=
  match base with
  | 0x01010010 => s.clk.now
  | 0x01010108 => wordOf (almBytes (almEntry s (getF s CHR_ALM_IDX_INDEX))) k
  | 0x01001110 => b2n s.boot.split + 2 * b2n s.boot.side + 4 * s.boot.cas
  | 0x01001018 => 2 * b2n (lowFreeBands s) + 4 * b2n (ringFull s)
      + 2 ^ 12 * ((allBands s).filter fun b => bandState s b = 0 && !bWithdrawn (bandEnt s b)).length
      + 2 ^ 32 * ((allBands s).filter fun b => bWithdrawn (bandEnt s b)).length
  | 0x01001020 => avail s
  | 0x01001028 => ubil s % 2 ^ 32 + 2 ^ 32 * rsvbil s
  | 0x01001048 => wordOf (leBytes 16 (bandEnt s (getF s HELM_BAND_IDX_BAND))) k
  | 0x01110008 =>
      let x := selThread s
      let t := getF s ANV_SEL_THREAD
      x.st.code + 2 ^ 8 * x.why.code + 2 ^ 27 * x.stamp + 2 ^ 38 * x.role + 2 ^ 42 * x.locks.length
        + 2 ^ 46 * (s.buf.bufs.filter fun e => match e.2 with | some b => b.holders.contains t | none => false).length
  | 0x01110010 => (selThread s).pc
  | 0x01110018 => (selThread s).arg
  | 0x01110020 => (selThread s).sinceNow
  | 0x01110028 =>
      let x := selThread s
      x.faultCls + 4 * b2n x.faultValid + 2 ^ 8 * x.faultCode + 2 ^ 16 * x.faultPc
  | 0x01110040 =>
      let c := fun (st : TSt) => countWhere s fun t x => quadOf t = k && x.st = st
      c .running + 2 ^ 8 * c .ready + 2 ^ 20 * c .waiting + 2 ^ 32 * c .parked
  | 0x01110100 => if (selThread s).st = .running || k = 0 then 0 else (mget 0 (selThread s).g k).toNat
  | 0x01040050 => (s.ck.newest.map (·.jstart)).getD 0
  | 0x01040058 => (volFree s).1 + 2 ^ 32 * (volFree s).2
  | 0x01040108 => wordOf (leBytes 32 (volEnt s (getF s MAP_VOL_IDX_VOLUME))) k
  | 0x01050008 => 2 ^ 16 * (slice s n).wtq.length + 2 ^ 32 * (slice s n).fills.length
  | 0x01050018 => 2 ^ 16 * (cacheWays s n).length
  | 0x01060000 =>
      let used := fun pool size => ((usedIdx s pool false).filter fun i => i / size = k).length
      (1024 - used 0 1024) + 2 ^ 16 * (640 - used 1 640)
  | 0x01060020 => (65536 - (usedIdx s 2 false).length) + 2 ^ 32 * (19456 - (usedIdx s 3 false).length)
  | 0x01060028 => 2 ^ 8 * ((List.range (wbSlots s)).filter (wbSlotFree s)).length + 2 ^ 32 * s.buf.split.length
  | 0x01060030 => s.buf.flushq.length
  | 0x01060038 => sysHeld s 2 + 2 ^ 32 * sysHeld s 3
  | 0x01060048 => countWhere s (fun t x => isHost t && x.why = .buffer) + 2 ^ 16 * countWhere s fun t x => !isHost t && x.why = .buffer
  | 0x01070088 => s.mem.ceTab.length
  | 0x01070098 => match s.mem.ceTab[getF s DRM_CE_IDX_INDEX]? with
      | some (a, c, _) => a + 2 ^ 37 * (a / 64 % 8) + 2 ^ 40 * c
      | none => 0
  | 0x010700A0 => match s.mem.ceTab[getF s DRM_CE_IDX_INDEX]? with
      | some (_, _, t) => t
      | none => 0
  | 0x01080008 => 2 ^ 16 * inProgOn s n
  | 0x01080080 =>
      let q := fun fg => (strikesWhere s fun x => x.phase = .queued && x.chan = n && x.fg = fg).length
      q true + 2 ^ 32 * q false
  | 0x01090008 =>
      let c := fun (p : Group → Bool) => (s.ret.groups.filter fun e => match e.2 with | some g => p g | none => false).length
      c (fun _ => true) + 2 ^ 16 * s.ret.spares.length + 2 ^ 32 * c (fun g => g.st = .degraded || g.st = .rebuilding)
        + 2 ^ 48 * c (fun g => g.st = .offline)
  | 0x01090010 => (sifWhere s fun _ => true).length + 2 ^ 16 * (sifWhere s fun x => x.st = 3).length
  | 0x01090108 => match selGroup s with
      | some g => gstCode g.st + 8 * (g.np - 1) + 2 ^ 4 * g.mem.length + 2 ^ 10 * (g.lost.length % 4) + 2 ^ 12 * b2n g.pending
          + 2 ^ 14 * g.rebuilt.length + 2 ^ 32 * g.kreb
      | none => 0
  | 0x01090110 => match selGroup s with
      | some g => ((List.range 4).map fun i => 2 ^ (16 * i) * gmemHalf s g (4 * k + i)).sum
      | none => 0
  | 0x01090188 => match s.ret.redirs[getF s PAR_RDSEL_INDEX]? with
      | some r => r.old + 2 ^ 16 * r.new + 2 ^ 32 * r.group + 2 ^ 63
      | none => 0
  | 0x01090200 => match s.md.reshape with
      | some r => 1 + 2 * r.news.headD 0 + 2 ^ 16 * r.left.length + 2 ^ 32 * r.news.length
      | none => 0
  | 0x01090308 => dieInfo s (getF s PAR_DSEL_DIE)
  | 0x010A0048 =>
      let p := keyPage s (getF s CIP_PSEL_PAGE)
      b2n p.a.isSome + 2 * b2n p.b.isSome + 4 * p.wver + 8 * b2n p.wset + 2 ^ 32 * p.epoch
  | 0x010A00C0 =>
      let l := cipherQ s k
      17 * (l.map Xfer.cipherCount).sum % 2 ^ 16 + 2 ^ 16 * l.length
  | 0x010A01F0 => ownUid / 2 ^ (64 * k) % 2 ^ 64
  | 0x010A0208 => leNat ((List.range 8).map fun i => Config.mfgByte (20480 + 432 + 8 * getF s CIP_KTK_IDX_INDEX + i))
  | 0x010B0008 => s.rsm.newSlot + 2 ^ 32 * (s.rsm.minSeq % 2 ^ 32)
  | 0x010B0018 =>
      let q := quotaOf s (getF s TEN_TSEL_TENANT)
      b2n q.b0.en + 2 * b2n q.b1.en + 4 * b2n q.b2.en
        + 2 ^ 16 * (s.d.ten.parked.filter fun p => tenantOf s p.1 == getF s TEN_TSEL_TENANT).length
  | 0x010B0020 => (quotaAt (quotaOf s (getF s TEN_TSEL_TENANT)) k).rate
  | 0x010B0038 => (quotaAt (quotaOf s (getF s TEN_TSEL_TENANT)) k).cap
  | 0x010B0050 => balOf s (getF s TEN_TSEL_TENANT) k
  | 0x010C0018 => if flag s PWR_HCFG_EN then getF s PWR_HOLD_HOLD_MV else 0
  | 0x010D0008 => b2n s.boot.side + 4 * b2n s.pins.ownIn + 2 ^ 5 * b2n (eligible s) + 2 ^ 7 * b2n (stestOff s)
  | 0x010E0008 => s.boot.cas + 2 ^ 32 * s.keep.intents.length + 2 ^ 48 * s.keep.held.length
  | 0x010E0088 => (lpeer s).getD k 0
  | 0x010F0038 => (s.x.img.queue.map fun q => 2 ^ q.n).sum
  | 0x010F0048 => (descBusy s false).length + 2 ^ 8 * (descBusy s true).length
  | 0x01120008 => s.x.svc.out.length + 2 ^ 4 * b2n s.x.svc.cmd.isSome
  | 0x01020008 =>
      let b := box s n
      b2n b.full + 2 * b2n b.coll + 4 * b2n b.ackV + 2 ^ 16 * b.ackCode + 2 ^ 32 * b.ackBy
  | 0x01020010 => wordOf (msgBytes (box s n)) k
  | 0x01030008 => s.keep.log.length
  | 0x01030200 => match s.keep.log.reverse[getF s LOG_CUR_INDEX]? with
      | some e => wordOf (logBytes e) k
      | none => 0
  | _ => 0

/-- Registers whose every field is computed, whatever the table's row says. -/
def derivedRegs : List Nat := [0x01040050, 0x01090110, 0x01090200, 0x010B0008, 0x010C0018]

/-- One field as a read returns it (R10). -/
def readField (s : State) (d : RDef) (n k off : Nat) (f : FDef) : Nat :=
  if f.acc = .wo then 0
  else if f.view || derivedRegs.contains d.base then bits (viewWord s d.base n k) f.lo f.w
  else getF s ⟨off * 64 + f.lo, f.w, f.dflt.val n k, f.ret⟩

/-- The image-store descriptors and buffer as the administrative source sees them: its own part, zero elsewhere (R463). -/
def imgWord (s : State) (off : Nat) : Nat :=
  let o := off - 0x010F0000
  if 0x1000 + 32 * 24 ≤ o && o < 0x1000 + 32 * 32 then rdLe s.x.img.desc (o - 0x1000) 8
  else if 0x7000 ≤ o && o < 0x8000 then rdLe s.x.img.xbuf (o - 0x4000) 8 else 0

/-- The 8-byte word held at an offset of the register families; reserved offsets read zero (R9, R94). -/
def regWord (s : State) (off : Nat) : Nat :=
  match regAt off with
  | some (d, n, k) => (d.fields.map fun f => readField s d n k off f * 2 ^ f.lo).sum
  | none => if 0x010F1000 ≤ off && off < 0x010F8000 then imgWord s off else 0

/-- What a read of it returns: a family that does not answer in the present mode reads zero (R80). -/
def readWord (s : State) (off : Nat) : Nat := if regOk s (famOf off) then regWord s off else 0

/-! ### Context pages (R109, R112, R114, R137, R141) -/

/-- CTX_STATE (R112). -/
def ctxState (s : State) (c : Nat) : Nat :=
  let x := th s c
  x.st.code + 8 * b2n s.d.closed + 16 * b2n (boundOf s c) + 32 * b2n (cx s c).commit + 2 ^ 8 * x.why.code
    + 2 ^ 12 * (cx s c).last + 2 ^ 16 * (cx s c).seq + 2 ^ 32 * (cx s c).tag

/-- CTX_ABORT (R141). -/
def ctxAbort (s : State) (c : Nat) : Nat :=
  let x := cx s c
  x.abSeq + 2 ^ 16 * x.abOut + 2 ^ 24 * x.abDetail + 2 ^ 32 * b2n x.abPend

/-- CTX_BIND (R114). -/
def ctxBind (s : State) (c : Nat) : Nat :=
  let b := bindOf s c
  b.tenant + 2 ^ 10 * b2n (c == adminCtx s) + 2 ^ 11 * b2n b.pasidEn + 2 ^ 12 * b.pasid + 2 ^ 32 * b.vols.length

/-- The 8-byte word at an offset of a context page (R109). -/
def ctxWord (s : State) (c o : Nat) : Nat :=
  if o < 0x40 then blkField (cx s c).shown o 8
  else if o = 0x40 then ctxState s c
  else if o = 0x48 then ctxAbort s c
  else if o = 0x80 || o = 0x88 then (cx s c).mirror / 2 ^ (8 * (o - 0x80)) % 2 ^ 64
  else if o = 0x100 then ctxBind s c
  else if 0x400 ≤ o && o < 0x800 then
    (((bindOf s c).vols.filter fun v => v / 64 = (o - 0x400) / 8).map fun v => 2 ^ (v % 64)).sum
  else 0

/-! ### The whole of BAR0 and BAR2 (R92, R93) -/

/-- The pending bits of a port as 256 bytes. -/
def pbaWord (s : State) (p o : Nat) : Nat := (((port s p).pba.filter fun v => v / 64 = o / 8).map fun v => 2 ^ (v % 64)).sum

/-- An MSI-X table byte: mask bits read 1 where nothing was written (log 9). -/
def msixByte (s : State) (p a : Nat) : Byte := if a % 16 = 12 then mget 1 (port s p).msix a else mget 0 (port s p).msix a

/-- Four entries of the context vector map (R105). -/
def vecWord (s : State) (o : Nat) : Nat :=
  ((List.range 4).map fun i => 2 ^ (16 * i) * (getF s (VECMAP_VEC (o / 2 + i)) + 2 ^ 15 * getF s (VECMAP_EN (o / 2 + i)))).sum

/-- The aligned 8-byte word of BAR0 at `off`, read through port `p`. -/
def bar0Word (s : State) (p off : Nat) : Nat :=
  if mode s == mOff then 0
  else if off < 0x01000000 then ctxWord s (off / 0x1000) (off % 0x1000)
  else if off < 0x01130000 then readWord s off
  else if !s.boot.image then 0
  else if 0x02000000 ≤ off && off < 0x02008000 then leNat ((List.range 8).map fun i => msixByte s p (off - 0x02000000 + i))
  else if 0x02008000 ≤ off && off < 0x02008100 then pbaWord s p (off - 0x02008000)
  else if 0x02010000 ≤ off && off < 0x02012000 then vecWord s (off - 0x02010000)
  else 0

/-- A byte of BAR2 (R93). -/
def bar2Byte (s : State) (a : Nat) : Byte :=
  if a < 0x0800000 then mget 0 s.prog a
  else if a < 0x2000000 then (spRd s (a - 0x0800000) 1).headD 0 else 0

/-- An aligned read of 4 or 8 bytes of BAR0. -/
def bar0Read (s : State) (p off size : Nat) : Nat :=
  bits (bar0Word s p (off / 8 * 8)) (8 * (off % 8)) (8 * size)

end Sys2Proof.Machine
end

