-- ==== Sys2Proof/Machine/Log.lean ====
section
/-! DEFINITION. The logbook: writing entries, its interrupt, its window, and clearing it (R498 to R500, R503). -/
namespace Sys2Proof.Machine
open Sys2Proof

/-- TRIG of a trigger (R498). -/
def trigId (x : Trig) : Nat := 32 * x.fam + x.ev

/-- The trigger's event is enabled: LOG_EN of its family; LOG_ event 0 always (R503). -/
def trigOn (s : State) (x : Trig) : Bool := (x.fam == 3 && x.ev == 0) || bit (getF s (LOG_EN_EN x.fam)) x.ev

/-- A register captured into an entry: one read without side effect; zero outside the register families (R498). -/
def capture (s : State) (off : Nat) : Nat := if 0x01000000 ≤ off && off < 0x01130000 then regWord s off else 0

/-- An entry is written, or the trigger dropped and counted where 8,192 are held (R498). -/
def writeEntry (s : State) (x : Trig) : State :=
  if !trigOn s x then s
  else if 8192 ≤ s.keep.log.length then addSat (setC s LOG_STAT_FULL 1) LOG_STAT_LOST 1
  else
    let n := getF s LOG_CTL_NREG
    let offs := (List.range 16).map fun k => getF s (LOG_SEL_OFFSET k)
    let e : LogEnt := ⟨trigId x, x.stamp.flags, n, s.keep.logSeq + 1, x.stamp.now, x.detail, (offs.take n).map (capture s), offs⟩
    setAux { s with keep := { s.keep with log := e :: s.keep.log, logSeq := s.keep.logSeq + 1 } } { s.x with unannounced := true }

/-- The next trigger to write: the oldest; of several raised at one moment the lowest TRIG, but held ones in the order they
occurred (R498). -/
def nextTrig (s : State) : Option Trig :=
  match s.trigs with
  | [] => none
  | x :: _ => if x.held then some x
      else argMin trigId (s.trigs.takeWhile fun y => y.stamp.now = x.stamp.now && !y.held)

/-- Triggers may be written: not in OFF, nor in KINDLE before step 4 ends (R498). -/
def logMode (s : State) : Bool := mode s != mOff && !(mode s == mKindle && getF s HELM_KINDLE_STEP ≤ 4)

/-- LOG_TRIGGER (R498). -/
def execLogTrigger (s : State) : Res :=
  match nextTrig s with
  | none => .next s
  | some x => act (logMode s) s (writeEntry { s with trigs := s.trigs.erase x } x)

/-- LOG_INTERRUPT (R498): vector 1, once per millisecond of CHR_NOW, covers the entries since the last message. -/
def execLogInterrupt (el : Elapse) (s0 : State) : Res :=
  let s := elapse s0 el
  act (s.x.unannounced && flag s LOG_CTL_IRQEN && s.x.logMs != s.clk.now / 1000000 + 1 && mode s != mOff) s
    (event (setAux s { s.x with unannounced := false, logMs := s.clk.now / 1000000 + 1 }) 1)

/-- LOG_CTL.MANUAL (R503). -/
def manual (s : State) : State := logEv s 3 1 []

def execManual (s : State) : Res := act (regOk s 3) s (manual s)

/-- The read of LOG_WIN31's upper bytes steps the window (R500). -/
def logAuto (s : State) : State := if flag s LOG_CTL_AUTOINC then addWrap s LOG_CUR_INDEX 1 else s

/-- LOG_WINDOW_AUTOINC_READ (R500): an 8-byte read of LOG_WIN31, or a 4-byte read of its upper half, through port `p`. -/
def execLogWindowAutoincRead (p : Nat) (half : Bool) (s : State) : Res :=
  act (regOk s 3 && portUp s p) s <|
    if !portOpen s p then send s (.unsupported p) else
    let v := bar0Read s p (if half then 0x010302FC else 0x010302F8) (if half then 4 else 8)
    logAuto (send s (.readData p v false))

/-- The oldest trigger that waits is written. -/
def writeNext (s : State) : State :=
  match nextTrig s with
  | some x => writeEntry { s with trigs := s.trigs.erase x } x
  | none => s

/-- LOG_CLEAR's one step (R500): triggers before it go to the old contents, which are then emptied, and LOG_ event 0 is written first. -/
def clearLog (s : State) : State :=
  let s := (List.range s.trigs.length).foldl (fun s _ => writeNext s) s
  let n := s.keep.log.length
  let l := getF s LOG_STAT_LOST
  let s := setF (setC (setC s LOG_STAT_FULL 0) LOG_STAT_LOST 0) LOG_CUR_INDEX 0
  let s := { s with keep := { s.keep with log := [], logSeq := 0 }, trigs := [] }
  writeEntry (stamped s srcLog) ⟨3, 0, [n, l], stampOf s srcLog, false⟩

end Sys2Proof.Machine
end

