-- ==== Sys2Proof/Machine/Keys.lean ====
section
/-! DEFINITION. Key objects and KEY_LOAD (R376 to R380), and what the helm's admin commands share: taking a request, its checks,
its answer, and passing a change on to the partner and the positions of a cascade (R16, R128 to R131, R425, R448). -/
namespace Sys2Proof.Machine
open Sys2Proof

/-! ### Changes passed on (R425, R448) -/

/-- The module holds the active role. -/
def isActive (s : State) : Bool := inMode s [mRun, mBanked, mService, mQuench]

/-- The module takes changes from the cascade's master and passes them on to its own partner (R448). -/
def subordinate (s : State) : Bool := s.boot.casEn && s.boot.image && s.boot.cas != 0 && isActive s

/-- Positions of the cascade other than this one that answer. -/
def otherPos (s : State) : List Nat :=
  (List.range (casN s)).filter fun p => p != s.boot.cas && bit (getF s CAS_STAT_UP) p

/-- A bucket set in the layout of QUOTA_SET (R394). -/
def quotaBytes (q : Quota) : List Byte :=
  leBytes 8 (b2n q.b0.en + 2 * b2n q.b1.en + 4 * b2n q.b2.en)
    ++ [q.b0, q.b1, q.b2].flatMap fun b => leBytes 8 b.rate ++ leBytes 8 b.cap

/-- The RSM fields of a register word, as they stand there. -/
def retFields (off : Nat) : List Fld :=
  match regAt off with
  | some (d, n, k) => (d.fields.filter fun f => f.ret && !f.view).map fun f => ⟨off * 64 + f.lo, f.w, f.dflt.val n k, true⟩
  | none => []

/-- The register belongs to the configuration class (R453 item 3). -/
def configReg (d : RDef) : Bool :=
  let off := d.base
  let fam := famOf off
  ([1, 4, 5, 6, 7, 8, 9, 11, 17].contains fam || [0x01000018, 0x01001000, 0x01001008, 0x01001010, 0x01001030].contains off)
    && !([0x01010010, 0x010B0008].contains off)
    && !([MC_WAYDIS_DIS 0, CH_DIEFAIL_FAILED 0 0, ANV_ROLE_SUSP_SUSP, MAP_CK_JSEQ_JSTART].any fun f => f.key / 64 = off)

/-- Offsets of a register's array. -/
def regOffs (d : RDef) : List Nat :=
  (List.range d.cntN).flatMap fun n => (List.range d.cntK).map fun k => d.base + n * d.strN + k * d.strK

/-- Configuration-class registers with an RSM field, in ascending BAR0 address. -/
def configOffs : List Nat :=
  ((regTable.filter fun d => configReg d && d.fields.any fun f => f.ret && !f.view).flatMap regOffs).mergeSort (· ≤ ·)

/-- The RSM fields of a register word, every other field zero. -/
def retWord (s : State) (off : Nat) : Nat := ((retFields off).map fun f => getF s f * 2 ^ (f.key % 64)).sum

/-- The digest of R453. -/
def lodestar (s : State) : List Byte :=
  sha384 (rdBytes s.prog 0 (2 ^ 23) ++ rdBytes s.ch.store 0 (2 ^ 16)
    ++ configOffs.flatMap (fun o => leBytes 8 (retWord s o))
    ++ (List.range 4096).flatMap (fun c => leBytes 8 (ctxBind s c)
        ++ (List.range 128).flatMap fun i => leBytes 8 (ctxWord s c (0x400 + 8 * i)))
    ++ (List.range 1024).flatMap (fun i => leBytes 8 (vecWord s (8 * i)))
    ++ (List.range 252).flatMap (fun i => almBytes { almEntry s (4 + i) with due := 0, count := 0, fired := false })
    ++ (List.range 1024).flatMap (fun n => quotaBytes (mget Quota.none s.ret.more.quota n))
    ++ leBytes 4 (getF s CIP_EPOCH_EPOCH))

/-- The digest as six words. -/
def lodeWords (s : State) : List Nat := (List.range 6).map fun k => wordOf (lodestar s) k

/-- The lodestar is recomputed (R454). -/
def newLode (s : State) : State :=
  let w := lodeWords s
  (List.range 6).foldl (fun s k => setF s (CAS_LODE_WORD k) (w.getD k 0)) s

/-- The words of a change of the configuration class, a volume or a range (R425, R448). -/
def cfgWords (c : CfgChange) : List Nat :=
  match c with
  | .reg off v => [0, off, v]
  | .alm i e => [1, i] ++ toNats (almBytes e)
  | .bind c b => [2, c, b.tenant + 2 ^ 10 * b2n b.bound + 2 ^ 11 * b2n b.pasidEn + 2 ^ 12 * b.pasid] ++ b.vols
  | .quota n q fill => [3, n, b2n fill] ++ toNats (quotaBytes q)
  | .vol v e => [4, v, e]
  | .range a n => [5, a, n]

/-- A change goes to the partner, and from the master to every position. -/
def passOn (s : State) (w : List Nat) : State :=
  let s := if mirrors s then send s (.pair 6 w) else s
  if flag s CAS_STAT_MASTER then (otherPos s).foldl (fun s p => send s (.cascade p 7 w)) s else s

/-- The same for an admin command, which waits for every position (R448). -/
def passOnWait (s : State) (w : List Nat) : State :=
  let s := passOn s w
  if flag s CAS_STAT_MASTER && !(otherPos s).isEmpty then
    setAux s { s.x with cas := { s.x.cas with wait := otherPos s, waitAt := s.clk.refNs } }
  else s

/-- A record of the helm: it commits at once, or on the partner's acknowledgement (R220, R231, R232). -/
def helmRecord (s : State) (typ : JTyp) (a b : Nat) : State :=
  let r : JRec := ⟨typ, [], 0, ⟨0, 0⟩, 0, 0x1FFF, 0, 0, 0, false, a, b, false, false⟩
  let (r, s) := append s r
  halfFull (if mirrors s then awaitAck s r.jseq else commitApply s r.jseq)

/-- A record of the helm is not yet committed. -/
def helmPending (s : State) : Bool := s.map.recs.any fun r => !r.applied && (r.typ = .volume || r.typ = .range)

/-! ### Requests with the helm (R16, R128) -/

def ARG0 (r : HelmReq) : Nat := blkField r.block 8 8
def ARG1 (r : HelmReq) : Nat := blkField r.block 56 8
def PLEN (r : HelmReq) : Nat := blkField r.block 16 4
def reqOpc (r : HelmReq) : Nat := bits r.block 0 8

/-- The helm's next request: the oldest that it has neither answered nor begun. -/
def nextReq (s : State) : Option HelmReq := s.d.helm.find? fun r => r.answer.isNone && !r.running

/-- The helm begins a request. -/
def beginReq (s : State) (src : Nat) : State :=
  { s with d := { s.d with helm := s.d.helm.map fun (r : HelmReq) =>
      if r.src = src && r.answer.isNone then { r with running := true } else r } }

/-- The parameter bytes: the payload of a CMD, else what the read of host memory returned (R129, R488). -/
def reqBuf (r : HelmReq) (pb : ParamBuf) : List Byte := padTo 0 (PLEN r) (if r.src = 9999 then r.params else pb.data)

def answerReq (s : State) (r : HelmReq) (cls detail : Nat) : State := answerHelm s r.src ⟨cls, detail, none, 0⟩ []

/-- The field checks of R130 that every admin opcode shares, in ascending offset: ARG0 (`a0` says it is valid), PLEN, PADDR,
CADDR, ARG1, and a PLEN below `need`. The service port ignores PADDR and CADDR (R488). 0x82 comes before 0x80, which R130 leaves open
(DESIGN CHOICE, log 147). -/
def fieldCheck (r : HelmReq) (a0 a1 : Bool) (need : Option Nat) : Option Nat :=
  let svc := r.src == 9999
  if !a0 then some 0x08
  else if need.isSome && decide (65536 < PLEN r) then some 0x10
  else if need.isSome && !svc && blkField r.block 32 8 % 8 != 0 then some 0x20
  else if !svc && blkField r.block 48 8 % 16 != 0 then some 0x30
  else if !a1 then some 0x38
  else match need with
    | some n => if PLEN r < n || (svc && decide (r.params.length < PLEN r)) then some 0x82 else none
    | none => none

/-- A request of opcode `opc` that `sel` picks is executed (R131): mode, freeze, fields, then `eff`, which answers. The freeze of
R130 is judged with the mode (DESIGN CHOICE, log 43). -/
def adminRow (opc : Nat) (sel : HelmReq → Bool) (modes : List Nat) (field : State → HelmReq → Option Nat)
    (eff : HelmReq → State → State) (s : State) : Res :=
  match nextReq s with
  | none => .next s
  | some r =>
    act (reqOpc r = opc && sel r && s.boot.image && mode s != mOff) s <|
      let s := beginReq s r.src
      if !inMode s modes then answerReq s r 0x13 4
      else if flag s CAS_STAT_FROZEN && [0x80, 0x81, 0x82, 0x83, 0x87, 0x88, 0x8D].contains opc
          && !(opc = 0x83 && bits (ARG0 r) 16 2 < 3) then answerReq s r 0x13 8
      else match field s r with
        | some d => answerHelm s r.src ⟨0x11, d, none, if opc = 0x8A && d = 0x82 then 17824 else 0⟩ []
        | none => eff r s

def anyReq (_ : HelmReq) : Bool := true

/-- The read of the parameter buffer fails: DETAIL of HOST_MEMORY_FAULT (R101, R103, R118). -/
def bufFail (s : State) (r : HelmReq) (pb : ParamBuf) : Option Nat :=
  if isHost r.src && dmaFails s r.src pb.fail false then some pb.fail else none

/-- `adminRow` for an opcode with a parameter buffer, which is read after the fields are judged and before its content is: a read that
host memory fails is the command's HOST_MEMORY_FAULT (R118, R144; DESIGN CHOICE, log 113). -/
def adminBufRow (opc : Nat) (pb : ParamBuf) (sel : HelmReq → Bool) (modes : List Nat) (field : State → HelmReq → Option Nat)
    (eff : HelmReq → State → State) (s : State) : Res :=
  adminRow opc sel modes
    (fun s r => if (bufFail s r pb).isSome && field s r = some 0x80 then none else field s r)
    (fun r s => match bufFail s r pb with
      | some d => answerHelm (stopPages s r.src d) r.src ⟨0x50, d, some 0, 0⟩ []
      | none => eff r s) s

/-! ### Key objects (R376, R377, R379) -/

/-- The objects of a parameter buffer, walked by LENGTH; none when the walk fails. -/
def keyWalk : Nat → List Byte → Option (List (List Byte))
  | 0, b => if b.isEmpty then some [] else none
  | n + 1, b =>
    if b.isEmpty then some [] else
    let l := oLe b 12 4
    if (l = 64 || l = 448) && l ≤ b.length then (keyWalk n (b.drop l)).map fun t => b.take l :: t else none

def keyUid (o : List Byte) : Nat := oLe o 16 16
def keyEpoch (o : List Byte) : Nat := oLe o 32 4

/-- Step 2 of R379: MAGIC, FORMAT, reserved bytes, KIND and PAGE as ARG0 has them, LENGTH. -/
def keyHeadOk (kind page : Nat) (o : List Byte) : Bool :=
  oLe o 0 4 == 0x4B504F31 && oLe o 4 2 == 1 && oLe o 6 1 == kind && oLe o 7 1 == 0 && oLe o 8 2 == page && oLe o 10 2 == 0
    && oLe o 12 4 == (if kind = 0 then 448 else 64) && allZero ((o.drop 36).take 28)

/-- The key-transport modulus that CIP_KTK_DATA shows, little-endian there (R378). -/
def ktkModulus : Nat := leNat ((List.range 384).map fun i => Config.mfgByte (20480 + 432 + i))

/-- A power modulo `n`, its exponent's bits taken from bit `k - 1` down. -/
def powMod (n b e : Nat) : Nat → Nat
  | 0 => 1 % n
  | k + 1 =>
    let h := powMod n b (e / 2) k
    h * h % n * (if e % 2 = 1 then b else 1) % n

/-- MGF1 with SHA-384 (R377). -/
def mgf1 (seed : List Byte) (n : Nat) : List Byte :=
  ((List.range (ceilDiv n 48)).flatMap fun i => sha384 (seed ++ beBytes 4 i)).take n

/-- RSAES-OAEP decryption with SHA-384 and MGF1 under the module's key-transport key, public exponent 65,537; the private exponent is the
module's own (R377, R378). -/
def oaepOpen (label ct : List Byte) : Option (List Byte) :=
  let c := beNat ct
  let m := powMod ktkModulus c Config.ktkPrivate 3072
  let em := beBytes 384 m
  let seed := xorB ((em.drop 1).take 48) (mgf1 (em.drop 49) 48)
  let db := xorB (em.drop 49) (mgf1 seed 335)
  let rest := (db.drop 48).dropWhile (· = 0)
  if ct.length = 384 && c < ktkModulus && powMod ktkModulus m 65537 17 = c && em.headD 1 = 0 && db.take 48 = sha384 label
      && rest.headD 0 = 1 then some rest.tail else none

/-- Step 4: the three keys of a LOAD object. -/
def keyOpen (o : List Byte) : Option KeySet :=
  match oaepOpen (o.take 64) (o.drop 64) with
  | some p => if p.length = 96 && p.take 32 != (p.drop 32).take 32 then some ⟨p.take 32, (p.drop 32).take 32, p.drop 64⟩ else none
  | none => none

/-- Steps 2 to 4 for an object of this module. -/
def keyOk (s : State) (kind page : Nat) (o : List Byte) : Bool :=
  keyHeadOk kind page o && decide (getF s CIP_EPOCH_EPOCH < keyEpoch o) && (kind != 0 || (keyOpen o).isSome)

def setKeyPage (s : State) (p : Nat) (k : KeyPage) : State :=
  { s with rsm := { s.rsm with keys := mset KeyPage.empty s.rsm.keys p k } }

/-- The version a LOAD writes (R376): with no valid version A; without a write version the empty one; else the other one. -/
def loadVer (k : KeyPage) : Nat :=
  if k.a.isNone && k.b.isNone then 0
  else if !k.writable then (if k.a.isNone then 0 else 1)
  else 1 - k.wver

/-- R380: a kind is applied as one change. -/
def applyKey (s : State) (o : List Byte) : State :=
  let kind := oLe o 6 1
  let p := oLe o 8 2
  let k := keyPage s p
  let k' : KeyPage :=
    if kind = 0 then
      let v := loadVer k
      let ks := keyOpen o
      { k with a := if v = 0 then ks else k.a, b := if v = 0 then k.b else ks, wver := v, wset := true }
    else if kind = 1 then { k with a := if k.wver = 0 then k.a else none, b := if k.wver = 0 then none else k.b }
    else { k with a := none, b := none, wset := false }
  newLode (addWrap (setC (setKeyPage s p { k' with epoch := keyEpoch o }) CIP_EPOCH_EPOCH (keyEpoch o)) CIP_EPOCH_LOADS 1)

/-- The key versions that a cipher transfer names: a CENC the one at its issue, a CDEC what the metadata of its frames says (R374). -/
def cipherVers (s : State) (z : Xfer) : List Nat :=
  let c := z.w.getD 2 0
  let src := z.w.getD 5 0
  if z.kind = .cenc then [z.w.getD 8 0]
  else match bufAt s (ctlHandle c) with
    | some b => (List.range z.cipherCount).map fun k =>
        bits (leNat (((locRd s (if src = 0 then metaLoc b (ctlFrame c + k) else .dram (aWbMeta + 64 * bits src 0 48)) 64).drop 32).take 8)) 48 1
    | none => []

/-- A CENC or CDEC queued or in progress names a version that the kind would zeroise (R380). -/
def keyBusy (s : State) (kind page : Nat) : Bool :=
  kind != 0 && s.thr.any fun e => e.2.xfers.any fun y => match y.2 with
    | some z => !z.ended && z.w.getD 7 0 = page && (z.kind = .cdec || z.kind = .cenc)
        && (kind = 2 || (cipherVers s z).any (· != (keyPage s page).wver))
    | none => false

/-- The mode check of KEY_LOAD at step 3 (R130, R376). -/
def keyModeBad (s : State) (r : HelmReq) : Bool :=
  let kind := bits (ARG0 r) 16 2
  let p := bits (ARG0 r) 0 11
  mode s == mRun && (kind == 1 || kind == 2 || (kind == 0 && p ≤ 1039 && ((keyPage s p).a.isSome || (keyPage s p).b.isSome)))

/-- The page takes the kind: a LOAD needs an empty version, a RETIRE a write version in force. -/
def keyFits (s : State) (kind p : Nat) : Bool :=
  let k := keyPage s p
  if kind = 0 then !(k.a.isSome && k.b.isSome) else if kind = 1 then k.wset else true

/-- The partner is present, so its object is sought (R379 step 1). -/
def keyPartner (s : State) : Bool := mirrors s

/-- KEY_LOAD, the steps of R379. `partner` is the partner's UID. -/
def keyLoad (r : HelmReq) (pb : ParamBuf) (partner : Nat) (s : State) : State :=
  let kind := bits (ARG0 r) 16 2
  let page := bits (ARG0 r) 0 11
  let bad := answerReq s r 0x11 0x80
  match keyWalk 1025 (reqBuf r pb) with
  | none => bad
  | some os =>
    let mine := os.filter fun o => keyUid o = ownUid
    let theirs := if keyPartner s then os.filter fun o => keyUid o = partner else []
    match mine, theirs with
    | [o], [] =>
      if keyPartner s || !keyOk s kind page o || !keyFits s kind page then bad
      else answerReq (passOnWait (applyKey s o) (6 :: toNats (reqBuf r pb))) r 0 0
    | [o], [q] =>
      if !keyOk s kind page o || !keyHeadOk kind page q || keyEpoch q != keyEpoch o || !keyFits s kind page then bad
      else send (setAux s { s.x with pair := { s.x.pair with key := some ⟨r.src, o, false⟩ } }) (.pair 8 (toNats q))
    | [], [q] =>
      -- R456: the objects name only modules that lag, at the reference epoch
      if !keyHeadOk kind page q || keyEpoch q != getF s CIP_EPOCH_EPOCH then bad
      else send (setAux s { s.x with pair := { s.x.pair with key := some ⟨r.src, [], false⟩ } }) (.pair 8 (toNats q))
    | [], [] =>
      if flag s CAS_STAT_MASTER && !os.isEmpty && os.all (fun q => keyHeadOk kind page q && keyEpoch q = getF s CIP_EPOCH_EPOCH) then
        answerReq (passOnWait s (6 :: toNats (reqBuf r pb))) r 0 0
      else bad
    | _, _ => bad

/-- The transfers that a change awaiting its answer names are over (R380). -/
def keyIdle (s : State) (o : List Byte) : Bool := o.isEmpty || !keyBusy s (oLe o 6 1) (oLe o 8 2)

/-- The partner has applied its object, or refused it, or is gone (R379 steps 5 and 6); the change waits for its transfers (R380). -/
def keyAnswered (s : State) (ok : Bool) : State :=
  match s.x.pair.key with
  | none => s
  | some w =>
    let done := setAux s { s.x with pair := { s.x.pair with key := none } }
    if !ok then answerHelm done w.src ⟨0x11, 0x80, none, 0⟩ []
    else if !keyIdle s w.obj then setAux s { s.x with pair := { s.x.pair with key := some { w with acked := true } } }
    else answerHelm (if w.obj.isEmpty then done else applyKey done w.obj) w.src okEnd []

/-- A row of KEY_LOAD: one that waits for its transfers ends, or the next request begins. -/
def keyRow (sel : Nat → Bool) (pb : ParamBuf) (partner : Nat) (s : State) : Res :=
  if (match s.x.pair.key with | some w => w.acked && keyIdle s w.obj && sel (oLe w.obj 6 1) | none => false) then .next (keyAnswered s true) else
  match nextReq s with
  | none => .next s
  | some r =>
    let kind := bits (ARG0 r) 16 2
    if reqOpc r = 0x83 && sel kind && keyModeBad s r then act (s.boot.image) s (answerReq (beginReq s r.src) r 0x13 4)
    else if keyBusy s kind (bits (ARG0 r) 0 11) then .next s
    else adminBufRow 0x83 pb (fun r => sel (bits (ARG0 r) 16 2)) [mRun, mService]
      (fun _ r => fieldCheck r (bits (ARG0 r) 16 2 != 3 && decide (bits (ARG0 r) 0 11 ≤ 1039)) true
        (some (if bits (ARG0 r) 16 2 = 0 then 448 else 64)))
      (fun r s => if flag s CAS_STAT_FROZEN && !(((keyWalk 1025 (reqBuf r pb)).getD []).all fun o => keyUid o != ownUid) then
          answerReq s r 0x13 8
        else keyLoad r pb partner s) s

/-- KEY_LOAD kind 0 (and the reserved kind 3). -/
def execKeyLoadLoad (pb : ParamBuf) (partner : Nat) (s : State) : Res := keyRow (fun k => k = 0 || k = 3) pb partner s
def execKeyLoadRetire (pb : ParamBuf) (partner : Nat) (s : State) : Res := keyRow (· = 1) pb partner s
def execKeyLoadErase (pb : ParamBuf) (partner : Nat) (s : State) : Res := keyRow (· = 2) pb partner s

/-- PAIR_KEY (R379 step 5, R448): an object for this module arrives from the active module, or at a subordinate position from the
master; it is checked and applied here, and acknowledged or refused. -/
def execPairKey (o : List Byte) (s : State) : Res :=
  let kind := oLe o 6 1
  let page := oLe o 8 2
  act (((s.boot.pairEn && s.boot.image && mode s == mStandby) || subordinate s) && !keyBusy s kind page) s <|
    let ok := decide (kind ≤ 2) && decide (page ≤ 1039) && keyUid o == ownUid && keyOk s kind page o && keyFits s kind page
    send (if ok then applyKey s o else s) (.pair 13 [8, b2n ok])

end Sys2Proof.Machine
end

