-- ==== Sys2Proof/Machine/Pair.lean ====
section
/-! DEFINITION. The pair: heartbeat, mirrors and acknowledgements, absence, the ownership lease and interlock, takeover,
planned swap, resynchronisation and the lodestar (R424 to R445, R453 to R456), and the end of a requested change (R62). -/
namespace Sys2Proof.Machine
open Sys2Proof

def setPair (s : State) (p : Pair) : State := setAux s { s.x with pair := p }

/-- The module is a member of a pair whose role is settled, with an image running. -/
def inPair (s : State) : Bool := s.boot.pairEn && s.boot.image && getF s PAIR_STAT_PSTATE != 0 && mode s != mOff

/-- An acknowledgement of a message kind, cumulative up to `n` for JREC (R425, R426). -/
def ack (s : State) (kind n : Nat) : State := send s (.pair 13 [kind, n])

/-! ### Heartbeat (R425, R427, R428) -/

/-- PAIR_STH as a number. -/
def sthWord (s : State) : Nat :=
  getF s PAIR_STH_QPASS + 2 ^ 4 * getF s PAIR_STH_DRAM + 2 ^ 5 * getF s PAIR_STH_LINKS + 2 ^ 6 * getF s PAIR_STH_ILOCK
    + 2 ^ 7 * getF s PAIR_STH_VALID + 2 ^ 32 * getF s PAIR_STH_CYCLES

/-- HB_SEND (R425, R427): every 50 µs; a new block of generations is reserved while half of one is left. -/
def execHbSend (el : Elapse) (s0 : State) : Res :=
  let s := elapse s0 el
  act (inPair s && decide (s.x.pair.hbTx + 50000 ≤ s.clk.refNs)) s <|
    let g := max s.map.genNext (s.map.genPeer + 1)
    let c := if s.map.genCeil < g + 2 ^ 23 then max s.map.genCeil g + 2 ^ 24 else s.map.genCeil
    let s := setPair { s with map := { s.map with genCeil := c } } { s.x.pair with hbTx := s.clk.refNs }
    send s (.pair 1 [mode s, s.map.jseq, s.ck.jend, c, sthWord s])

/-- A self-test result with a failed item. -/
def sthFails (w : Nat) : Bool := !testPassed (bits w 0 4) (bit w 4) (bit w 5) (bit w 6) (bit w 7)

/-- The partner's self-test result is shown (R434). -/
def showPeer (s : State) (w : Nat) : State :=
  let s := setF (setF (setF s PAIR_PEERH_QPASS (bits w 0 4)) PAIR_PEERH_DRAM (bits w 4 1)) PAIR_PEERH_LINKS (bits w 5 1)
  setF (setF (setF s PAIR_PEERH_ILOCK (bits w 6 1)) PAIR_PEERH_VALID (bits w 7 1)) PAIR_PEERH_CYCLES (bits w 32 32)

/-- A standby that was told of a swap, and that has not seen it done, hears that the partner left RUN or is absent: the swap was
abandoned (R414, R442; DESIGN CHOICE, log 118). -/
def swapCalledOff (s : State) : State := if mode s == mStandby && s.x.pair.step = 0 then setF s PAIR_STAT_SWAPPING 0 else s

/-- OWN_IN as the partner's OWN_OUT drives it: high while a partner that tells of an active mode holds ownership (R429, R430; DEDUCED,
log 134). At a module that holds ownership itself, INTERLOCK_DETECT reads it. -/
def partnerOwns (s : State) (m : Nat) : State :=
  if flag s PAIR_STAT_OWN then s
  else { s with pins := { s.pins with ownIn := [mRun, mBanked, mService, mQuench].contains m } }

/-- PAIR_HB (R425, R428, R434): an absent partner is back, in QUENCH only once it ends (R415); a new failed cycle of a standby is announced
by the active module. -/
def execPairHb (m jseq jend ceil sth : Nat) (s : State) : Res :=
  act (inPair s) s <|
    let new := bits sth 32 32 != getF s PAIR_PEERH_CYCLES
    let s := setPair { s with map := { s.map with genPeer := max s.map.genPeer ceil } }
      { s.x.pair with pmode := m, pjseq := jseq, pjend := jend, hbRx := s.clk.refNs }
    let s := partnerOwns s m
    let s := showPeer (if getF s PAIR_STAT_PSTATE = 1 && mode s != mQuench then setF s PAIR_STAT_PSTATE 2 else s) sth
    let s := if m != mRun then swapCalledOff s else s
    ack (if new && sthFails sth && isActive s then event (logEv s 13 4 []) 4 else s) 1 0

/-- A PXOPEN that waits for its journal entry's acknowledgement goes on (R349). -/
def openAcked (s : State) (p : Nat → Bool) : State :=
  (threadsWhere s fun _ x => match x.cont with | .pxopen _ _ 1 => true | _ => false).foldl (fun s t =>
    match (th s t).cont with
    | .pxopen rd h 1 => (match accAt s t h with
        | some (_, a) => if p a.sif then pxOpened s t rd h else s
        | none => pxOpened s t rd h)
    | _ => s) s

/-- Records up to `j` whose acknowledgement was awaited commit, in JSEQ order (R220, R221). -/
def commitUpTo (s : State) (j : Nat) : State :=
  let l := s.map.recs.filter fun r => s.map.acks.contains r.jseq && decide (r.jseq ≤ j)
  l.foldl (fun s r => wakeCommit (commitApply s r.jseq) r)
    { s with map := { s.map with acks := s.map.acks.filter fun x => decide (j < x)
                                 sentAt := s.map.sentAt.filter fun e => decide (j < e.1) } }

/-- The partner is declared absent (R428): this module goes on alone, and every record that waits commits without it, in order; in QUENCH
that is PEERLOST (R415). -/
def declareAbsent (s : State) : State :=
  let s := if mode s == mQuench && !s.map.acks.isEmpty then setC s PWR_LASTQ_PEERLOST 1 else s
  let s := swapCalledOff (event (logEv (addSat (setF s PAIR_STAT_PSTATE 1) PAIR_LINK_ABSENT 1) 13 0 []) 4)
  keyAnswered (openAcked (sifUnmirrored (landAwait (commitUpTo s s.map.jseq))) fun _ => true) true

/-- How long an answer may stay out, in ns: ACKTMO_US, in QUENCH 1 ms (R415, R428). -/
def absentAfter (s : State) : Nat := if mode s == mQuench then 1000000 else 1000 * getF s PAIR_CFG_ACKTMO_US

/-- PARTNER_ABSENT (R428): no HB, or a message unacknowledged, for that long. -/
def execPartnerAbsent (noAck : Bool) (el : Elapse) (s0 : State) : Res :=
  let s := elapse s0 el
  act (inPair s && decide (2 ≤ getF s PAIR_STAT_PSTATE)
      && (decide (s.x.pair.hbRx + absentAfter s ≤ s.clk.refNs) || (noAck && decide (absentAfter s ≤ el.ns)))) s (declareAbsent s)

/-- QUENCH_PEER_ACK_TIMEOUT (R415): the acknowledgement of a record stays out 1 ms. -/
def execQuenchPeerAckTimeout (el : Elapse) (s0 : State) : Res :=
  let s := elapse s0 el
  let l := s.map.recs.filter fun r => !r.committed && s.map.acks.contains r.jseq && decide (mget 0 s.map.sentAt r.jseq + 1000000 ≤ s.clk.refNs)
  act (mode s == mQuench && !l.isEmpty) s (declareAbsent s)

/-- PAIR_LINK_DOWN (R425): a loss of the link is counted; messages sent again, for a loss or for a CRC that failed, count in RETRY. -/
def execPairLinkDown (x : LinkFault) (s : State) : Res :=
  act (inPair s) s (addSat (if x.down then addSat s PAIR_LINK_DOWN 1 else s) PAIR_LINK_RETRY x.resent)

/-! ### Mirrors at the receiver (R401, R425, R426) -/

/-- The module keeps its partner's mirrors. -/
def mirrorHere (s : State) : Bool := inPair s && mode s == mStandby

/-- PAIR_JREC: the record joins the mirror ring, in this module's tail ring region (R204, R425); one of JSEQ 0 is held for a cascade's master
(R450). -/
def execPairJrec (r : JRec) (s : State) : Res :=
  act (mirrorHere s) s <|
    let m := s.x.pair.mirror
    let rest := s.keep.held.filter fun h => !(h.1 = r.thread && h.2.1 = r.unit)
    if r.jseq = 0 then { s with keep := { s.keep with held := rest ++ [(r.thread, r.unit, r)] } }
    else
      let s := { s with keep := { s.keep with held := if r.typ = .map then rest else s.keep.held } }
      ack (if m.any fun x => x.jseq = r.jseq then s else setPair (ringStore s r) { s.x.pair with mirror := m ++ [r] }) 2 r.jseq

/-- PAIR_ROOT: JEND rises, or a new round becomes NEWEST; records at or below JEND leave the mirror ring. -/
def execPairRoot (round : Option Round) (jend : Nat) (s : State) : Res :=
  act (mirrorHere s) s <|
    let new := match round, s.ck.newest with
      | some r, some o => if r.num != o.num then some r else none
      | some r, none => some r
      | none, _ => none
    let s := match new with
      | some r => { s with ck := { s.ck with previous := s.ck.newest, newest := some r }, ring := [], keep := { s.keep with fresh := false } }
      | none => s
    let s := { s with ck := { s.ck with jend := jend } }
    ack (setPair s { s.x.pair with mirror := s.x.pair.mirror.filter fun r => decide (jend < r.jseq) }) 3 0

/-- PAIR_SIF. -/
def execPairSif (i : Nat) (e : Option Sif) (s : State) : Res :=
  act (mirrorHere s) s (ack { s with sif := mset none s.sif i (e.map fun x => { x with acked := true, prev := x.st }) } 4 i)

/-- PAIR_MEDC. -/
def execPairMedc (c : MedChange) (s : State) : Res :=
  act (mirrorHere s) s <|
    let s := match c with
      | .write a d => { s with ring := s.ring ++ [(a, d)] }
      | .tables g sp rd =>
        let s := { s with keep := { s.keep with fresh := false } }
        commit { s with ret := { s.ret with groups := g, spares := sp, redirs := rd, grouped := true } }
    ack s 5 0

/-- A mirrored RSM field takes its value with what a local write does beside (R425): TICK_EN (R46), MAP_OP (R233), the cache enable
(R251), scratchpad ways (R248), the health thresholds (R336), VEN (R421). The module that the change comes from has judged it. -/
def mirrorField (s : State) (off v : Nat) (f : Fld) : State :=
  let lo := f.key % 64
  let x := bits v lo f.w
  let q := (off - 0x01050000) / 0x1000
  if off = 0x01010000 && lo = 0 then (if getF s f = x then s else tickEnWrite s (x = 1))
  else if off = 0x01040008 && lo = 0 then
    let s := setC s f x
    if mode s == mStandby then s else setLcap s
  else if (List.range 4).any (fun q => off = 0x01050000 + 0x1000 * q) && lo = 0 then (if getF s f = x then s else mcEnWrite s q (x = 1))
  else if (List.range 4).any (fun q => off = 0x01050010 + 0x1000 * q) && lo = 0 then
    (if getF s f = x then s else convert (setC s f x) q)
  else if off = 0x010C0020 && lo = 0 then (if x = 0 then setF (setC s f x) PWR_HOLD_HOLD_MV 0 else setC s f x)
  else if (off = 0x01001000 || off = 0x01001030) && mode s != mStandby then healthCheck (setC s f x)
  else setC s f x

/-- A register word's RSM fields are written, as one commit (R71). -/
def putRet (s : State) (off v : Nat) : State :=
  oneCommit s ((retFields off).foldl (fun s f => mirrorField s off v f) s)

/-- A mirrored change is applied as a local write (R71, R425). -/
def applyCfg (s : State) (c : CfgChange) : State :=
  match c with
  | .reg off v => putRet s off v
  | .alm i e => commit { s with ret := { s.ret with alm := mset AlmEntry.unused s.ret.alm i e } }
  | .bind c b => commit { s with ret := { s.ret with bind := mset Bind.none s.ret.bind c b } }
  | .quota n q fill => recordQuota s n q fill
  | .vol v e => helmRecord s .volume v e
  | .range a n => let r := localRange s a n; if r.2 = 0 then s else helmRecord s .range r.1 r.2

/-- A record that the change needs has its place in the tail ring (R227). -/
def cfgRoom (s : State) (c : CfgChange) : Bool :=
  match c with
  | .vol _ _ | .range _ _ => ringRoom s 104
  | _ => true

/-- PAIR_CFG: a change arrives from the active module, or at a subordinate position from the master. -/
def execPairCfg (c : CfgChange) (s : State) : Res :=
  if subordinate s then act (cfgRoom s c) s (send (passOn (applyCfg s c) (cfgWords c)) (.cascade 0 13 [7, s.boot.cas]))
  else act (mirrorHere s) s (ack (applyCfg s c) 6 0)

/-- PAIR_SLOT (R401): the slot enters this ring with MIRROR = 1. -/
def execPairSlot (i : Nat) (x : MinSlot) (s : State) : Res :=
  act (mirrorHere s && decide (i < 60)) s (ack (putSlot s i { x with mirror := true }) 7 0)

/-- PAIR_ACK (R426): a reserved block of generations may be used (R427), records commit, a granted request's writes take place, an opened stripe goes on. -/
def execPairAck (kind n : Nat) (s : State) : Res :=
  act (inPair s) s <|
    if kind = 1 then { s with map := { s.map with genAck := s.map.genCeil } }
    else if kind = 2 then commitUpTo s n
    else if kind = 5 then landAwait s
    else if kind = 4 then wakePx (openAcked (sifAck s n) (· = n))
    else if kind = 8 then keyAnswered s (n = 1)
    else s

/-- PAIR_MBX (R492, R496): a message or an acknowledge of one arrives over the pair link (`pos` 4) or from a cascade position. -/
def execPairMbx (pos : Nat) (isAck : Bool) (dst out sender flags stamp : Nat) (body : List Byte) (s : State) : Res :=
  act (s.boot.image && mode s != mOff && (if pos = 4 then inPair s else s.boot.casEn && decide (pos < 4)) && decide (dst < 64)) s <|
    if isAck then ackReg s dst stamp sender
    else if 48 ≤ dst then s
    else storeMsg s dst sender flags stamp body (some (out, pos))

/-! ### The ownership lease and the interlock (R430, R432) -/

/-- LEASE_EXPIRY (R430). -/
def execLeaseExpiry (el : Elapse) (s0 : State) : Res :=
  let s := elapse s0 el
  act (flag s PAIR_STAT_OWN && decide (ms (getF s PAIR_CFG_LEASE_MS) ≤ el.ns)) s (releaseOwn s)

/-- Some flash driver is enabled. -/
def driving (s : State) : Bool := (List.range 32).any fun n => flag s (CH_STAT_DRV n)

/-- INTERLOCK_DETECT (R432): OWN_IN is found asserted. -/
def execInterlockDetect (s : State) : Res :=
  let on := s.boot.image && mode s != mOff
  let a := flag s PAIR_STAT_OWN && driving s && s.x.pair.acq.isNone
  let b := !flag s PAIR_STAT_OWN && inMode s [mRun, mBanked, mService]
  act (on && (a || b)) s <|
    let s := { s with pins := { s.pins with ownIn := true } }
    safeArise (if b then discardAll s (safingSrc s 9998) 0x43 1 else s) 7 9998

/-! ### Taking the active role (R437 to R441, R443) -/

/-- The lowest JSEQ that replay needs. -/
def replayFrom (s : State) : Nat := match s.ck.newest with | some r => r.jstart | none => 1

/-- Records that follow one another from JSEQ `j` (R438). -/
def takeRun (l : List JRec) : Nat → Nat → List JRec
  | 0, _ => []
  | n + 1, j => match l.find? fun r => r.jseq = j with
    | some r => { r with committed := true, applied := true } :: takeRun l n (j + 1)
    | none => []

/-- Write-buffer frames that the map names (R440). -/
def namedFrames (s : State) : List Nat :=
  ((mappedLocs s).filterMap fun l => if bits l 48 3 = 4 then some (bits l 0 20) else none).dedup

/-- Map segments of the map region (R225). -/
def allSegments : List Nat := List.range (mapEnd / 2 ^ 23)

/-- The flash, the journal and the map as the new active module takes them (R437 steps 5 to 7, R438, R439). -/
def takeFlash (s : State) (t : TakeIn) : State :=
  let s := { s with md := { s.md with flash := t.flash.foldl (fun m e => mput m e.1 e.2) [] } }
  let s := discover s t.found t.train t.tprog t.endur
  let all := s.map.recs ++ t.walk ++ s.x.pair.mirror
  let l := takeRun all all.length (replayFrom s)
  let last := match l.getLast? with | some r => r.jseq | none => replayFrom s - 1
  let img := match s.ck.newest with | some r => r.image | none => []
  let g := max s.map.genNext (s.map.genPeer + 1)
  let at_ := match s.ck.newest with | some r => r.stampNow | none => s.map.roundAt
  let s := { s with mem := { s.mem with dram := img, valid := (img.map fun e => e.1 / 64).dedup, bad := [] }
                    map := { s.map with recs := l, jseq := last, acks := [], sentAt := [], toLoad := allSegments, genNext := g, roundAt := at_
                                        genCeil := max s.map.genCeil (g + 2 ^ 24) } }
  let s := countOverlay (setPair s { s.x.pair with mirror := [] })
  let s := l.foldl applyRec s
  let s := recoverMedia (recoverSif (applyRing s) t.src)
  lcapBound (jstat (setF (setF (overUpdate s) MAP_JSEQ_LAST last) PAIR_STAT_MAPLOAD 1))

/-- CTX_STATE.SEQ of every context starts at 0; the rest of its page stays (R112, R441). -/
def seqZero (s : State) : State := s.ctx.foldl (fun s e => modCx s e.1 fun x => { x with seq := 0 }) s

/-- RUN as the active module: contexts start with SEQ 0 (R441), vectors 0 and 4 (R437 step 9, R443 step 9). -/
def becomeActive (s : State) (ev : Nat) : State :=
  let s := setF (setF { seqZero s with rsm := { s.rsm with saved := none } } HELM_MODE_CHANGING 0) PAIR_STAT_SWAPPING 0
  let s := setPair (setF s PAIR_STAT_SALVAGE 0) { s.x.pair with step := 0, force := false, salv := [], lost := [] }
  let s := setTen (casRole s true) { s.d.ten with live := [], loss := true }
  askMaster (event (logEv (beginActive (enterRun s)) 13 ev []) 4)

/-- A standby that nothing keeps from a takeover (R436). -/
def freeStandby (s : State) : Bool :=
  mirrorHere s && s.x.pair.step = 0 && s.x.pair.acq.isNone && !flag s PAIR_STAT_SWAPPING

/-- TAKEOVER (R436 to R440): OWN_IN is released at an eligible or forced standby and acquisition begins; executed again once
ownership is held (R437 step 3), it takes the flash and requests salvage. -/
def execTakeover (t : TakeIn) (s : State) : Res :=
  if s.x.pair.step = 4 && flag s PAIR_STAT_OWN then
    let s := takeFlash s t
    let fr := namedFrames s
    let s := setPair s { s.x.pair with step := 5, stepAt := s.clk.refNs, salv := fr, salvAt := s.clk.refNs, lost := [] }
    .next (send (setF s PAIR_STAT_SALVAGE 1) (.pair 11 (0 :: fr)))
  else
    act (freeStandby s && (eligible s || s.x.pair.force)) s <|
      let s := setF { s with pins := { s.pins with ownIn := false } } HELM_MODE_CHANGING 1
      beginAcquire (setPair s { s.x.pair with step := 1, stepAt := s.clk.refNs }) 2

/-- TAKEOVER_WITHHELD (R436). -/
def execTakeoverWithheld (s : State) : Res :=
  act (freeStandby s && !eligible s && !s.x.pair.force) s
    (event (logEv { s with pins := { s.pins with ownIn := false } } 13 6 []) 4)

/-- PAIR_CTL.FORCE (R436). -/
def force (s : State) : State := if mode s == mStandby then setPair s { s.x.pair with force := true } else s

def execForce (s : State) : Res := act (regOk s 13) s (force s)

/-- Lines of a write-buffer frame. -/
def frameLines (n : Nat) : List Nat := (List.range 64).map fun i => (aWb + 4096 * n) / 64 + i

/-- Frames are lost (R440): poisoned and counted. -/
def loseFrames (s : State) (l : List Nat) : State :=
  addSat { s with mem := { s.mem with bad := l.foldl (fun b n => (frameLines n).foldl (fun b x => sins x b) b) s.mem.bad } }
    PAIR_LOST_FRAMES l.length

/-- Frames that were lost are reported (R440): an event for each record that names one or more of them, vector 5. -/
def reportLost (s : State) (l : List Nat) : State :=
  if l.isEmpty then s else
  let hit := fun (r : JRec) => r.ents.filter fun e => !e.skip && (match e.act with
    | .coarse => bit e.target 33 && l.any fun n => n / 256 = bits e.target 0 12
    | .fine => bits e.target 44 3 = 4 && l.contains (bits e.target 0 20)
    | _ => false)
  let s := (s.map.recs.filter fun r => !(hit r).isEmpty).foldl (fun s r =>
    let b := (hit r).map (·.lbn)
    logEv s 13 7 [b.foldl min (2 ^ 48), b.foldl max 0]) s
  event s 5

/-- PAIR_SALV (R440): the old module's helm answers a request while its DRAM can be read; a frame arrives at the new one. -/
def execPairSalv (m : SalvMsg) (s : State) : Res :=
  match m with
  | .request l =>
    act (inPair s && flag s DRM_STAT_TRAINED) s <|
      l.foldl (fun s n =>
        let bad := (frameLines n).any s.mem.bad.contains
        send s (.pair 11 ([1, n, b2n bad] ++ toNats (dramRd s (aWb + 4096 * n) 4096 ++ dramRd s (aWbMeta + 64 * n) 64)))) s
  | .frame n d x bad =>
    act (s.x.pair.step = 5 && s.x.pair.salv.contains n) s <|
      let s := setPair s { s.x.pair with salv := srem n s.x.pair.salv, lost := if bad then n :: s.x.pair.lost else s.x.pair.lost }
      if bad then loseFrames s [n]
      else addSat (dramWr (dramWr s (aWb + 4096 * n) (padTo 0 4096 d)) (aWbMeta + 64 * n) (padTo 0 64 x)) PAIR_LOST_SALVAGED 1

/-- The slots of frames taken over are allocated and wait to be flushed (R440). -/
def queueFrames (s : State) (l : List Nat) : State :=
  (l.map (· / 256)).dedup.foldl (fun s i =>
    let h := mkHandle 3 true i
    { setBuf s h (some ⟨3, true, i, [], 0x1FFF, true⟩) with
        buf := { (setBuf s h (some ⟨3, true, i, [], 0x1FFF, true⟩)).buf with flushq := s.buf.flushq ++ [h] } }) s

/-- SALVAGE_END (R437 steps 8 and 9, R440): every frame has arrived, or 700 ms are over; RUN follows. -/
def execSalvageEnd (el : Elapse) (s0 : State) : Res :=
  let s := elapse s0 el
  act (s.x.pair.step = 5 && mode s == mStandby && (s.x.pair.salv.isEmpty || decide (s.x.pair.salvAt + 700000000 ≤ s.clk.refNs))) s <|
    let s := queueFrames s (namedFrames s)
    becomeActive (reportLost (loseFrames s s.x.pair.salv) (s.x.pair.lost ++ s.x.pair.salv)) 1

/-- MAP_SEGMENT_LOAD (R439): a segment becomes current, and lookups that waited for it go on. -/
def execMapSegmentLoad (seg : Nat) (s : State) : Res :=
  act (s.map.toLoad.contains seg) s <|
    let s := { s with map := { s.map with toLoad := srem seg s.map.toLoad } }
    let s := if s.map.toLoad.isEmpty then setF s PAIR_STAT_MAPLOAD 0 else s
    (byArrival s fun x => x.why = .mapmiss).foldl (fun s t =>
      match (th s t).cont with
      | .look rd lbn gen n => if n = seenSegment && segOf (th s t).arg = seg then look s t rd lbn gen 0 else s
      | _ => s) s

/-! ### The planned swap (R442, R443) -/

/-- A swap is skipped (R442). -/
def skipSwap (s : State) : State := event (logEv s 13 3 []) 4

/-- The time of a swap comes at the active module (R442, R443 step 1). A swap that comes while another requested change
drains is skipped too (DESIGN CHOICE, log 42). -/
def swapDue (s : State) : State :=
  let s := if mode s == mBanked && eligible s then wake s else s
  if !eligible s || mode s != mRun || s.x.change.isSome || s.x.safing.isSome then skipSwap s
  else send (setF (startChange s 6 9998) PAIR_STAT_SWAPPING 1) (.pair 12 [0, s.map.jseq])

/-- The almanac's SWAP entry (R49, R442). -/
def execSwap (s : State) : Res :=
  almRow 7 s fun arg s => if inPair s && isActive s && arg % 2 != b2n s.boot.side then swapDue s else s

/-- SWAPAT_REACHED (R442). -/
def execSwapatReached (el : Elapse) (s0 : State) : Res :=
  let s := elapse s0 el
  let at_ := getF s PAIR_SWAPAT_AT
  act (inPair s && isActive s && at_ != 0 && decide (at_ ≤ s.clk.now)) s (swapDue (setF s PAIR_SWAPAT_AT 0))

/-- PAIR_CTL.SWAPCAN (R442). -/
def swapCan (s : State) : State := setF s PAIR_SWAPAT_AT 0

def execSwapcan (s : State) : Res := act (regOk s 13) s (swapCan s)

/-- A swap stands at step `n` of its drain: 1 the write buffer, 2 commands in flight. -/
def swapAt (s : State) (n : Nat) : Bool := match s.x.change with | some k => k.kind = 6 && k.step = n | none => false

/-- SWAP_BUFFER_DRAINED (R443 steps 2 and 3). -/
def execSwapBufferDrained (s : State) : Res :=
  act (swapAt s 1 && decide (wbUsed s ≤ getF s PAIR_CFG_SWWB_MIB)) s <|
    setAux { s with d := { s.d with closed := true } }
      { s.x with change := some ⟨6, 9998, 2⟩, pair := { s.x.pair with stepAt := s.clk.refNs } }

/-- SWAP_DRAIN_TIMEOUT (R443 step 4). -/
def execSwapDrainTimeout (el : Elapse) (s0 : State) : Res :=
  let s := elapse s0 el
  act (swapAt s 2 && decide (s.x.pair.stepAt + ms (getF s PAIR_CFG_SWDRAIN_MS) ≤ s.clk.refNs)) s (discardAll s 9998 0x43 1)

/-- The old active module enters STANDBY (R433, R443 step 6, R444): DRAM reads as zero, nothing runs, nothing is cached. -/
def enterStandby (s : State) : State :=
  let s := setC (setC (emptySlices (stopInternals (releaseOwn s))) PAIR_CFG_ROLE 1) PAIR_LASTACT_NOW s.clk.now
  let s := { s with mem := { s.mem with dram := [], valid := [], bad := [] }, md := { s.md with accs := [] }
                    map := { s.map with toLoad := [], round := none, roundImage := [], roundSif := [] }, buf := BufMgr.reset }
  let s := setPair s { s.x.pair with step := 0, mirror := [] }
  let s := setF (setF (endChange s) PAIR_STAT_SWAPPING 0) PAIR_STAT_MAPLOAD 0
  event (logEv (setF (casRole (toMode s mStandby) false) PAIR_STAT_PSTATE 2) 13 2 []) 4

/-- No stripe is open and nothing is left to flush or to checkpoint (R443 step 5). -/
def swapFlushed (s : State) : Bool :=
  commandsDone s 9998 && flushOver s && (sifWhere s fun x => x.st = 1 || x.st = 2).isEmpty

/-- REQUESTED_CHANGE_DRAINED (R62, R82, R83, R443): SERVICE is entered; a swap's ownership is released and STANDBY entered; or
the request is answered and, its completion delivered, the core die restarts. -/
def execRequestedChangeDrained (s : State) : Res :=
  match s.x.change with
  | none => .next s
  | some k =>
    if k.kind = 2 then .next s
    else if k.kind = 6 then
      act (k.step = 2 && swapFlushed s) s (enterStandby (send s (.pair 12 [1, s.map.jseq])))
    else if k.step = 2 then
      act (inMode s [mRun, mService, mSafe] && delivered s k.src && commandsDone s 9998 && (mode s == mSafe || flushOver s)) s
        (restart s (restartCause k.kind) (k.kind = 5))
    else act (inMode s [mRun, mService, mSafe] && drained s k.src) s <|
      if k.kind = 1 then answerHelm (endChange (toMode s mService)) k.src okEnd []
      else answerHelm (setAux s { s.x with change := some { k with step := 2 } }) k.src okEnd []

/-- PAIR_SWAP (R443): swap start; swap done, on which acquisition begins; executed again once ownership is held, the flash is
taken without salvage and RUN entered. -/
def execPairSwap (done : Bool) (jseq : Nat) (t : TakeIn) (s : State) : Res :=
  if s.x.pair.step = 8 && flag s PAIR_STAT_OWN then .next (becomeActive (takeFlash s t) 2)
  else
    act (mirrorHere s && s.x.pair.step = 0) s <|
      if !done then setF s PAIR_STAT_SWAPPING 1
      else if flag s PAIR_STAT_SWAPPING then
        let s := { s with pins := { s.pins with ownIn := false } }
        let s := setPair (setF s HELM_MODE_CHANGING 1) { s.x.pair with step := 6, stepAt := s.clk.refNs, pjseq := jseq }
        beginAcquire s 3
      else s

/-! ### The standby's duties (R434, R435) -/

/-- SELF_TEST_CYCLE (R434): every 10 minutes on an uncascaded standby, with what the cycle found. -/
def execSelfTestCycle (qpass : Nat) (dram links ilock : Bool) (el : Elapse) (s0 : State) : Res :=
  let s := elapse s0 el
  act (mirrorHere s && !stestOff s && decide (s.x.pair.testAt + 600000000000 ≤ s.clk.refNs)) s <|
    let s := setPair s { s.x.pair with testAt := s.clk.refNs }
    let s := setF (setF (setF s PAIR_STH_QPASS qpass) PAIR_STH_DRAM (b2n dram)) PAIR_STH_LINKS (b2n links)
    let s := addWrap (setF (setF s PAIR_STH_ILOCK (b2n ilock)) PAIR_STH_VALID 1) PAIR_STH_CYCLES 1
    if sthFails (sthWord s) then logEv s 13 4 [] else s

/-- SWAP_OVERDUE (R435): more than 30 days since the last swap or takeover, once a day. -/
def execSwapOverdue (el : Elapse) (s0 : State) : Res :=
  let s := elapse s0 el
  let day := s.clk.now / 86400000000000
  act (inPair s && isActive s && decide (30 * 86400000000000 < s.clk.now - getF s PAIR_LASTACT_NOW)
      && s.x.pair.odDay != day + 1) s
    (event (logEv (setPair s { s.x.pair with odDay := day + 1 }) 13 5 []) 4)

/-! ### The lodestar (R453 to R455) -/

/-- The digest CAS_LODE shows. -/
def ownLode (s : State) : List Nat := (List.range 6).map fun k => getF s (CAS_LODE_WORD k)

/-- LODESTAR_RECOMPUTE (R454). -/
def execLodestarRecompute (s : State) : Res :=
  act (s.boot.image && mode s != mOff) s (newLode s)

/-- The almanac's LODESTAR entry (R54, R56, R454): a new exchange begins. -/
def execLodestar (s : State) : Res :=
  almRow 4 s fun _ s =>
    let s := setF s CAS_LSTAT_RECEIVED 0
    let s := if inPair s then send s (.pair 9 (ownLode s)) else s
    if s.boot.casEn && s.boot.cas != 0 then send s (.cascade 0 9 (ownLode s)) else s

/-- A member's digest is compared with this module's (R454, R455): `i` is 2 × position + member, `pair` says it is the partner's.
The freeze lifts when no member mismatches (R456). -/
def compareLode (s : State) (i : Nat) (pair same : Bool) : State :=
  let s := setF s CAS_LSTAT_RECEIVED (putBits (getF s CAS_LSTAT_RECEIVED) i 1 1)
  let was := bit (getF s CAS_LSTAT_MISMATCH) i
  let s := setF s CAS_LSTAT_MISMATCH (putBits (getF s CAS_LSTAT_MISMATCH) i 1 (b2n !same))
  let s := if pair then setF s PAIR_STAT_LODEMIS (b2n !same) else s
  if same then (if getF s CAS_LSTAT_MISMATCH = 0 then setF s CAS_STAT_FROZEN 0 else s)
  else
    let s := setF s CAS_STAT_FROZEN 1
    if was then s else event (logEv s 14 0 [i]) 4

/-- The lodestars of a pair agree again after an activation (step 6 of R476). -/
def activationEnd (s : State) : State :=
  if s.x.pair.actv ≤ 1 || 9 < s.x.pair.actv || flag s IMG_STAGE_DUE || getF s IMG_STAGE_STATE != 3 then s
  else setC (setPair s { s.x.pair with actv := 0 }) IMG_ACT_RESULT 3

/-- PAIR_LODE (R454, R455): the partner's digest (`i` 8), or at the master that of member `i` = 2 × position + member. -/
def execPairLode (i : Nat) (w : List Nat) (s : State) : Res :=
  let own := ownLode s
  let me := 2 * s.boot.cas + b2n (mode s == mStandby)
  if i = 8 then
    act (inPair s) s <|
      let s := setPair s { s.x.pair with lode := w }
      let s := if w = own then activationEnd s else s
      ack (compareLode s (me - b2n (mode s == mStandby) + b2n (mode s != mStandby)) true (w = own)) 9 0
  else
    act (flag s CAS_STAT_MASTER && decide (i < 8) && i != me) s <|
      compareLode (setAux s { s.x with cas := { s.x.cas with peers := mset [] s.x.cas.peers i w } }) i false (w = own)

/-! ### Resynchronisation (R444, R445, R456) -/

/-- Every configuration-class value, as the words of a CFG message (R453). -/
def configMsgs (s : State) : List (List Nat) :=
  (configOffs.map fun o => cfgWords (.reg o (retWord s o))) ++ (s.ret.alm.map fun e => cfgWords (.alm e.1 e.2))
    ++ (s.ret.bind.map fun e => cfgWords (.bind e.1 e.2)) ++ s.ret.more.quota.map fun e => cfgWords (.quota e.1 e.2 false)

/-- A cascade's master sends every configuration-class value to the positions whose lodestars mismatch (R456). -/
def sendMismatched (s : State) : State :=
  if !flag s CAS_STAT_MASTER then s else
  ((List.range 4).filter fun p => p != s.boot.cas && bits (getF s CAS_LSTAT_MISMATCH) (2 * p) 2 != 0).foldl (fun s p =>
    (configMsgs s).foldl (fun s w => send s (.cascade p 7 w)) s) s

/-- PAIR_CTL.RESYNC (R444, R456). -/
def resync (s0 : State) : State :=
  let s := sendMismatched s0
  if inPair s then setAux (setF s PAIR_STAT_PSTATE 2) { s.x with resync := true } else s

def execResync (s : State) : Res := act (regOk s 13) s (resync s)

/-- Every configuration-class value goes to the partner. -/
def sendConfig (s : State) : State := (configMsgs s).foldl (fun s w => send s (.pair 6 w)) s

/-- All that R445 lists. -/
def sendAll (s : State) : State :=
  let s := send s (.pair 3 (rootWords s))
  let s := (s.map.recs.filter fun r => decide (s.ck.jend < r.jseq)).foldl (fun s r => send s (jrecMsg r)) s
  let s := s.sif.foldl (fun s e => send s (sifMsg e.1 e.2)) s
  let s := s.ring.foldl (fun s e => send s (.pair 5 (e.1 :: toNats e.2))) s
  let s := sendConfig s
  let s := s.rsm.slots.foldl (fun s e => send s (.pair 7 (slotWords e.1 e.2))) s
  send s (.pair 1 [mode s, s.map.jseq, s.ck.jend, s.map.genCeil, sthWord s])

/-- RESYNC_COMPLETE (R445). -/
def execResyncComplete (s : State) : Res :=
  act (inPair s && getF s PAIR_STAT_PSTATE == 2 && mode s != mQuench && (isActive s || mode s == mStandby)) s <|
    let s := if isActive s then sendAll s else s
    setAux (setF s PAIR_STAT_PSTATE 3) { s.x with resync := false }

end Sys2Proof.Machine
end

