-- ==== Sys2Proof/Machine/Admin.lean ====
section
/-! DEFINITION. The helm's admin commands (R42, R50, R60, R62, R72, R82 to R84, R114, R128 to R131, R231, R232, R364 to R366,
R391, R394, R442, R478, R480, R500), FLUSH (R126, R531), and the answers it returns (R16, R488). -/
namespace Sys2Proof.Machine
open Sys2Proof

/-! ### Service-port replies (R485, R486, R501) -/

/-- A frame of the module. -/
def frameOf (ty seq : Nat) (pay : List Byte) : List Byte :=
  let b := leBytes 2 0x4656 ++ leBytes 1 ty ++ [0] ++ leBytes 2 seq ++ leBytes 2 0 ++ leBytes 4 pay.length ++ leBytes 4 0 ++ pay
  b ++ leBytes 4 (crc32 b)

def setSvc (s : State) (v : Svc) : State := setAux s { s.x with svc := v }

/-- A reply joins the out queue. -/
def queueReply (s : State) (f : List Byte) : State := send (setSvc s { s.x.svc with out := s.x.svc.out ++ [f] }) (.svc f)

/-- The reply of an accepted frame, which becomes the last accepted one (R487, R501). -/
def replyTo (s : State) (f : Frame) (ty : Nat) (pay : List Byte) : State :=
  let b := frameOf ty f.seq pay
  let s := setF (setF s SVC_LAST_SEQ f.seq) SVC_LAST_TYPE f.ty
  let s := if ty = 0x83 then setF s SVC_LAST_CODE ((pay.getD 0 0).toNat) else s
  queueReply (setSvc s { s.x.svc with last := some (f.seq, f.crc, b) }) b

def ackPay (code detail : Nat) : List Byte := leBytes 1 code ++ leBytes 1 detail ++ leBytes 6 0

/-- A request that asks for a mode change when one is under way already is refused (DESIGN CHOICE, log 45). -/
def changeFree (s : State) : Bool := s.x.change.isNone && s.x.safing.isNone

def noField (_ : State) (r : HelmReq) : Option Nat := fieldCheck r true true none

/-! ### Volumes (R130, R231, R232) -/

def ARG0vol (r : HelmReq) : Nat := bits (ARG0 r) 0 13

/-- The lowest base of a free range of `n` billets. -/
def freeBase (s : State) (n : Nat) : Option Nat :=
  let l := ((volsUsed s).map fun v => (volBase (volEnt s v), volSize (volEnt s v))).mergeSort fun a b => a.1 ≤ b.1
  let bases := 0 :: l.map fun e => e.1 + e.2
  let clear (b : Nat) : Bool := decide (b + n ≤ volCap s) && l.all fun e => decide (b + n ≤ e.1) || decide (e.1 + e.2 ≤ b)
  argMin id (bases.filter clear)

/-- A volume table entry changes, here and at every position. -/
def putVol (s : State) (v e : Nat) (wait : Bool) : State :=
  let s := helmRecord s .volume v e
  if wait then passOnWait s (cfgWords (.vol v e)) else passOn s (cfgWords (.vol v e))

/-- The tail ring has room for a record of the helm; an admin command that needs one waits for it (R227). -/
def helmRoom (s : State) : Bool := ringRoom s 104

/-- VOLUME_CREATE (R130, R231). -/
def execVolumeCreate (s : State) : Res :=
  if !helmRoom s then .next s else adminRow 0x80 anyReq [mRun, mService]
    (fun s r => fieldCheck r (volState (volEnt s (ARG0vol r)) = 0) (1 ≤ ARG1 r && ARG1 r ≤ 0xFFFFFFFF) none)
    (fun r s => match freeBase s (ARG1 r) with
      | none => answerReq s r 0x32 2
      | some b => answerHelm (putVol s (ARG0vol r) (mkVol b (ARG1 r) (bits (ARG0 r) 16 10) 1 s.clk.now) true) r.src
          ⟨0, 0, none, 256 * b⟩ []) s

/-- A volume entry with another STATE. -/
def volWith (e st : Nat) : Nat := putBits e 76 2 st

/-- VOLUME_DELETE's acceptance (R232): DELETING through a VOLUME record. A volume that is being deleted already is NOT_PERMITTED
0x05 (R130). -/
def execVolumeDelete (s : State) : Res :=
  if !helmRoom s then .next s else adminRow 0x81 anyReq [mRun, mService]
    (fun s r => fieldCheck r (volState (volEnt s (ARG0vol r)) != 0) true none)
    (fun r s =>
      let v := ARG0vol r
      let e := volEnt s v
      if volState e = 2 then answerReq s r 0x13 5
      else
        let s := putVol s v (volWith e 2) false
        setAux s { s.x with deleting := s.x.deleting ++ [(v, r.src, false)] }) s

/-- FORMAT (R232): its range waits for locks as a deletion's does. -/
def execFormat (s : State) : Res :=
  adminRow 0x8B anyReq [mService]
    (fun s r => fieldCheck r (volState (volEnt s (ARG0vol r)) != 0) true none)
    (fun r s =>
      if volState (volEnt s (ARG0vol r)) = 2 then answerReq s r 0x13 5
      else setAux s { s.x with deleting := s.x.deleting ++ [(ARG0vol r, r.src, true)] }) s

/-- A command names a volume. -/
def namesVol (s : State) (c v : Nat) : Bool :=
  let b := (cx s c).block
  let o := bits b 0 8
  (1 ≤ o && o ≤ 9 && o != 5 && blkField b 4 2 = v) || (o = 9 && blkField b 30 2 = v)

/-- No command on the volume is in flight, and no billet of its range is locked. -/
def volDrained (s : State) (v : Nat) : Bool :=
  let e := volEnt s v
  let (a, n) := localRange s (volBase e) (volSize e)
  !(s.thr.any fun x => isHost x.1 && x.2.st != .idle && namesVol s x.1 v)
    && !(s.thr.any fun x => x.2.locks.any fun l => decide (a ≤ l.1) && decide (l.1 < a + n))

/-- The range lock is released: threads that waited for a billet in it go on. -/
def releaseRange (s : State) : State :=
  match s.map.rangeLock with
  | none => s
  | some (a, n) =>
    let s := { s with map := { s.map with rangeLock := none } }
    let l := (threadsWhere s fun _ x => x.why = .lock && decide (a ≤ x.arg) && decide (x.arg < a + n)).map fun t => (th s t).arg
    l.dedup.foldl grantLock s

/-- The volume leaves every CTX_VOLS (R130). -/
def dropVol (s : State) (v : Nat) : State :=
  let cs := (s.ret.bind.filter fun e => e.2.vols.contains v).map Prod.fst
  let s := commit { s with ret := { s.ret with bind := s.ret.bind.map fun e => (e.1, { e.2 with vols := srem v e.2.vols }) } }
  cs.foldl (fun s c => passOn s (cfgWords (.bind c (mget Bind.none s.ret.bind c)))) s

/-- Steps 3 and 4 of R232, and the answer. -/
def finishRange (s : State) (v src : Nat) (format : Bool) : State :=
  let s := releaseRange s
  let s := setAux s { s.x with deleting := s.x.deleting.drop 1 }
  let s := if format then s else dropVol (putVol s v 0 true) v
  answerHelm s src okEnd []

/-- VOLUME_DELETE_DRAINED (R130, R232), for a FORMAT too: the range lock, the RANGE record, then steps 3 and 4 once that record has
committed. -/
def execVolumeDeleteDrained (s : State) : Res :=
  match s.x.deleting with
  | [] => .next s
  | (v, src, format) :: _ =>
    let e := volEnt s v
    if s.map.rangeLock.isSome then act (!helmPending s && helmRoom s) s (finishRange s v src format)
    else act (volDrained s v && !helmPending s && ringRoom s 184) s <|
      let (a, n) := localRange s (volBase e) (volSize e)
      let s := helmRecord { s with map := { s.map with rangeLock := some (a, n) } } .range a n
      let s := passOn s (cfgWords (.range (volBase e) (volSize e)))
      if helmPending s then s else finishRange s v src format

/-! ### Bindings (R114, R130, R391) -/

def unbind (r : HelmReq) : Bool := bit (ARG0 r) 31

/-- A binding is written, or the named context is busy (R130). -/
def bindTo (s : State) (r : HelmReq) (b : Bind) : State :=
  let c := bits (ARG0 r) 0 12
  if (th s c).st != .idle then answerReq s r 0x13 9
  else answerReq (passOnWait (commit { s with ret := { s.ret with bind := mset Bind.none s.ret.bind c b } }) (cfgWords (.bind c b))) r 0 0

/-- CONTEXT_BIND with UNBIND = 0. A volume in state DELETING exists still, and is bound: R130 refuses commands that name it, and says nothing of a
bitmap (DESIGN CHOICE, log 148). -/
def execContextBind (pb : ParamBuf) (s : State) : Res :=
  let vols (r : HelmReq) := (List.range 8192).filter fun v => bit ((reqBuf r pb).getD (v / 8) 0).toNat (v % 8)
  let ten (r : HelmReq) := bits (ARG0 r) 16 10
  adminBufRow 0x82 pb (fun r => !unbind r) [mRun, mService]
    (fun s r => match fieldCheck r true true (some 1024) with
      | some d => some d
      | none => if (vols r).all fun v => volState (volEnt s v) != 0 && volTenant (volEnt s v) == ten r then none else some 0x80)
    (fun r s => bindTo s r ⟨true, ten r, bit (ARG1 r) 20, bits (ARG1 r) 0 20, vols r⟩) s

/-- CONTEXT_BIND with UNBIND = 1. -/
def execContextUnbind (s : State) : Res :=
  adminRow 0x82 unbind [mRun, mService] noField (fun r s => bindTo s r Bind.none) s

/-! ### Power and mode (R60, R62, R73, R76, R82, R83) -/

def target (r : HelmReq) : Nat := bits (ARG0 r) 0 4

/-- SET_POWER with target RUN, and any target but RUN and BANKED, a reserved encoding (R9). -/
def execSetPowerRun (s : State) : Res :=
  adminRow 0x84 (fun r => target r != 4) [mRun, mBanked] (fun _ r => fieldCheck r (target r == 3) true none)
    (fun r s => answerReq (wake s) r 0 0) s

/-- SET_POWER with target BANKED (R73 step 1). -/
def execSetPowerBanked (s : State) : Res :=
  adminRow 0x84 (fun r => target r == 4) [mRun] noField
    (fun r s => if changeFree s then holdThreads (startChange s 2 r.src) 1 else answerReq s r 0x13 4) s

/-- An operation that keeps SERVICE runs (R82): a format, a key load that waits for the partner, a SETTINGS_WIPE, an image intake. -/
def serviceBusy (s : State) : Bool :=
  s.x.deleting.any (fun d => d.2.2) || intakeRuns s || s.x.pair.key.isSome || s.x.change.any fun k => k.kind = 5

/-- SET_MODE with target RUN, and any target that is a reserved encoding. -/
def execSetModeRun (s : State) : Res :=
  adminRow 0x85 (fun r => !([5, 7, 8].contains (target r))) [mRun, mService, mSafe]
    (fun s r => if mode s == mSafe then none else fieldCheck r (target r == 3) true none)
    (fun r s => if mode s != mService then answerReq s r 0x13 4
      else if serviceBusy s then answerReq s r 0x13 0x0A
      else if !changeFree s then answerReq s r 0x13 4
      else answerReq (enterRun s) r 0 0) s

/-- SET_MODE with target SERVICE. -/
def execSetModeService (s : State) : Res :=
  adminRow 0x85 (fun r => target r == 5) [mRun] noField
    (fun r s => if changeFree s then startChange s 1 r.src else answerReq s r 0x13 4) s

/-- SET_MODE with target SAFE: cause ADMIN (R76). -/
def execSetModeSafe (s : State) : Res :=
  adminRow 0x85 (fun r => target r == 7) [mRun, mService] noField
    (fun r s => if s.x.safing.isSome then answerReq s r 0x13 4 else safeArise s causeAdmin r.src) s

/-- SET_MODE with target RESTART; in SAFE nothing drains. -/
def execSetModeRestart (s : State) : Res :=
  adminRow 0x85 (fun r => target r == 8) [mRun, mService, mSafe] noField
    (fun r s => if !changeFree s then answerReq s r 0x13 4
      else if mode s == mSafe then
        answerReq (setAux s { s.x with change := some ⟨3, r.src, 2⟩ }) r 0 0
      else startChange s 3 r.src) s

/-- SETTINGS_WIPE (R72). -/
def execSettingsWipe (s : State) : Res :=
  adminRow 0x8C anyReq [mService] noField
    (fun r s => if changeFree s then startChange s 5 r.src else answerReq s r 0x13 4) s

/-! ### Time and the almanac (R42, R48, R50) -/

/-- SET_TIME (R42). -/
def execSetTime (s : State) : Res :=
  adminRow 0x86 anyReq [mRun, mService, mSafe] noField (fun r s => setTime s r.src (ARG0 r)) s

/-- The entry that 32 bytes spell, as ALMANAC_SET stores it: FIRED clear, COUNT 0, NEEDSET forced for SWAP and ACTIVATE. -/
def almOf (b : List Byte) : AlmEntry :=
  let k := oLe b 24 1
  let f := oLe b 26 1
  ⟨oLe b 0 8, oLe b 8 8, oLe b 16 8, k, oLe b 25 1, bit f 0, bit f 1 || k = 7 || k = 8, false, 0⟩

/-- A fixed entry keeps KIND, EN and PERIOD, and its DUE stays on its boundary (R50). -/
def fixedOk (s : State) (i : Nat) (e : AlmEntry) : Bool :=
  let o := almEntry s i
  e.kind == o.kind && e.en == o.en && e.period == o.period && e.due % (max 1 o.period) == 0

/-- ALMANAC_SET (R50). -/
def execAlmanacSet (pb : ParamBuf) (s : State) : Res :=
  adminBufRow 0x87 pb anyReq [mRun, mService]
    (fun _ r => match fieldCheck r true true (some 32) with
      | some d => some d
      | none =>
        let e := almOf (reqBuf r pb)
        if e.kind ≤ 9 && e.period % 1000000 = 0 then none else some 0x80)
    (fun r s =>
      let i := bits (ARG0 r) 0 8
      let e := almOf (reqBuf r pb)
      if i < 4 && !fixedOk s i e then answerReq s r 0x13 7
      else
        let s := commit { s with ret := { s.ret with alm := mset AlmEntry.unused s.ret.alm i e } }
        answerReq (passOnWait s (cfgWords (.alm i e))) r 0 0) s

/-! ### SHAPE_CHANGE (R364 to R367) -/

/-- A new-group record of a RESHAPE: MODE, member dies in order; none when its form is wrong. -/
def groupRec (b : List Byte) : Option (Nat × List Nat) :=
  let w := oLe b 0 1
  let d := (List.range 32).map fun i => oLe b (8 + 2 * i) 2
  if 8 ≤ w && w ≤ 32 && oLe b 1 1 ≤ 1 && (d.drop w).all (· == 0xFFFF) then some (oLe b 1 1, d.take w) else none

/-- Old group numbers and new-group records of a RESHAPE descriptor. -/
def reshapeOf (b : List Byte) : List Nat × List (Option (Nat × List Nat)) :=
  let nold := oLe b 2 2
  let at_ := 8 + ceilDiv (2 * nold) 8 * 8
  ((List.range nold).map fun i => oLe b (8 + 2 * i) 2,
   (List.range (oLe b 4 2)).map fun j => groupRec ((b.drop (at_ + 72 * j)).take 72))

/-- Bytes a shape descriptor needs. -/
def shapeLen (b : List Byte) : Nat :=
  match oLe b 0 1 with
  | 1 => 8 + ceilDiv (2 * oLe b 2 2) 8 * 8 + 72 * oLe b 4 2
  | 2 | 3 | 4 => 8 + 2 * oLe b 4 2
  | _ => 8

/-- The dies that ADMIT, RELEASE and FAIL list. -/
def dieList (b : List Byte) : List Nat := (List.range (oLe b 4 2)).map fun i => oLe b (8 + 2 * i) 2

/-- Dies ascend in channel, one channel each. -/
def ascending : List Nat → Bool
  | a :: b :: t => decide (a / 256 < b / 256) && ascending (b :: t)
  | _ => true

/-- The lowest free group numbers. -/
def freeGroups (s : State) (n : Nat) : List Nat := ((List.range 1024).filter fun g => (group s g).isNone).take n

/-- The second check of R365 for a RESHAPE. -/
def reshapeOk (s : State) (first : Nat) (b : List Byte) : Bool :=
  let (olds, recs) := reshapeOf b
  let news := recs.filterMap id
  let dies := news.flatMap (·.2)
  let oldDies := olds.flatMap fun g => match group s g with | some x => x.mem | none => []
  let nums := freeGroups s news.length
  1 ≤ olds.length && olds.length ≤ 256 && 1 ≤ recs.length && recs.length ≤ 256 && news.length = recs.length
    && olds.headD 0 = first && olds.dedup.length = olds.length && dies.dedup.length = dies.length
    && olds.all (fun g => match group s g with | some x => x.st = .healthy || x.st = .degraded | none => false)
    && news.all (fun x => ascending x.2)
    && dies.all (fun d => dieFitted s d && ((oldDies.contains d && !dieFailed s d) || s.ret.spares.contains d))
    && s.ret.groups.length + news.length ≤ 1024 && nums.length = news.length
    && ((groupNums s ++ nums).foldl max 0 + 1) * nbe s ≤ 1048064

/-- Step 1 of R366. -/
def reshapeStart (s : State) (b : List Byte) : State :=
  let (olds, recs) := reshapeOf b
  let news := recs.filterMap id
  let nums := freeGroups s news.length
  let used := news.flatMap (·.2)
  let gs := (List.range nums.length).foldl (fun (m : NMap (Option Group)) j =>
    let x := news.getD j (0, [])
    mset none m (nums.getD j 0) (some ⟨.healthy, x.1 + 1, x.2, [], true, 0, []⟩)) s.ret.groups
  let gs := gs.map fun e => if olds.contains e.1 then (e.1, e.2.map fun x => { x with st := .reshaping }) else e
  let was := olds.map fun g => match group s g with | some x => gstCode x.st | none => 0
  let after := (gs.map fun e => match e.2 with
    | some x => if olds.contains e.1 then 0 else bandBillets s x * nbe s
    | none => 0).sum
  let r : Reshape := ⟨olds, nums, List.range (nbe s), min (getF s MAP_LCAP_BILLETS) (lcapOf after (getF s MAP_OP_OP))⟩
  let s := ringNote (commit { s with ret := { s.ret with groups := gs, spares := s.ret.spares.filter fun d => !used.contains d }
                                     md := { s.md with reshape := some r } })
  let s := (List.range olds.length).foldl (fun s i => event (logEv s 9 0 [olds.getD i 0, was.getD i 0, gstCode .reshaping]) 5) s
  qbudUpdate (setF s MAP_LCAP_BILLETS r.lcap)

/-- Dbil of the shape after a RESHAPE. -/
def reshapeDbil (s : State) (b : List Byte) : Nat :=
  let (olds, recs) := reshapeOf b
  let keep := (s.ret.groups.map fun e => match e.2 with
    | some x => if olds.contains e.1 || x.pending then 0 else bandBillets s x * nbe s
    | none => 0).sum
  keep + ((recs.filterMap id).map fun x => (x.2.length - (x.1 + 1)) * planes s * geoQ s * nbe s).sum

/-- Spare-table rows of dies that join the inventory, in their first form (R311). -/
def freshRows (s : State) (dies : List Nat) : State :=
  dies.foldl (fun s d => (List.range (planes s)).foldl (fun s p => (List.range 32).foldl (fun s k =>
    setSpare s d p k (if k < s.boot.spr then mkSpare (nbe s + k) 1 0 0 else 0)) s) s) s

def addSpares (s : State) (l : List Nat) : List Nat := l.foldl (fun a d => sins d a) s.ret.spares

/-- ADMIT. -/
def shapeAdmit (s : State) (l : List Nat) : State :=
  let inv := { s.ret.inv with dies := l.foldl (fun a d => sins d a) s.ret.inv.dies }
  let s := commit { s with ret := { s.ret with spares := addSpares s l, inv := inv }
                           md := { s.md with unused := s.md.unused.filter fun d => !l.contains d } }
  qbudUpdate (ringNote (freshRows { s with keep := { s.keep with retired := s.keep.retired.filter fun x => !l.contains x.1 } } l))

/-- RELEASE. -/
def shapeRelease (s : State) (l : List Nat) : State :=
  let s := l.foldl (fun s d =>
    let f := CH_DIEFAIL_FAILED (d / 256) (d % 256 / 64)
    setC s f (putBits (getF s f) (d % 64) 1 0)) s
  qbudUpdate (ringNote (commit { s with ret := { s.ret with spares := addSpares s l } }))

/-- REFORM. -/
def shapeReform (s : State) (g : Nat) : State :=
  match group s g with
  | none => s
  | some x => groupTo s g { x with mem := x.mem.filter fun d => !dieFailed s d, lost := [], kreb := 0, rebuilt := [] } .healthy

/-- The second check of R365, by kind. -/
def shapeOk (s : State) (kind a0 : Nat) (b : List Byte) : Bool :=
  let l := dieList b
  let n := decide (1 ≤ l.length) && decide (l.length ≤ 8192) && decide (l.dedup.length = l.length) && a0 == 0xFFFF
  match kind with
  | 1 => reshapeOk s a0 b
  | 2 => n && l.all fun d => dieFitted s d && s.md.unused.contains d
  | 3 => n && l.all fun d => dieFitted s d && dieFailed s d && !(s.ret.redirs.any fun x => x.old = d || x.new = d)
  | 4 => n && l.all fun d => dieFitted s d
  | 5 => match group s a0 with
    | some x => x.st = .offline && decide (8 ≤ (x.mem.filter fun d => !dieFailed s d).length)
        && (groupBands s a0).all fun b => bandValid s b = 0
    | none => false
  | _ => false

/-- Groups that a descriptor names. -/
def shapeGroups (kind a0 : Nat) (b : List Byte) : List Nat := if kind = 1 then (reshapeOf b).1 else if kind = 5 then [a0] else []

def shapeEffect (s : State) (kind a0 : Nat) (b : List Byte) : State :=
  match kind with
  | 1 => reshapeStart s b
  | 2 => shapeAdmit s (dieList b)
  | 3 => shapeRelease s (dieList b)
  | 4 => (dieList b).foldl dieFail s
  | _ => shapeReform s a0

/-- SHAPE_CHANGE of a kind: the checks of R365 in their order. -/
def shapeRow (sel : Nat → Bool) (pb : ParamBuf) (s : State) : Res :=
  adminBufRow 0x88 pb (fun r => sel (oLe (reqBuf r pb) 0 1)) [mRun, mService]
    (fun _ r => fieldCheck r true true (some (shapeLen (reqBuf r pb))))
    (fun r s =>
      let b := reqBuf r pb
      let k := oLe b 0 1
      let a0 := bits (ARG0 r) 0 16
      let busy := (shapeGroups k a0 b).any fun g => match group s g with | some x => x.st = .rebuilding | none => false
      if s.md.reshape.isSome || busy then answerReq s r 0x13 0x0A
      else if !shapeOk s k a0 b then answerReq s r 0x11 0x80
      else
        let s' := shapeEffect s k a0 b
        let d := if k = 1 then reshapeDbil s b else dbil s'
        if lcapOf d (getF s MAP_OP_OP) < volumesEnd s then answerReq s r 0x32 1
        else answerReq (if k = 1 then s' else setLcap s') r 0 0) s

/-- SHAPE_CHANGE kind 1, and kinds that are no kind. -/
def execShapeChangeReshape (pb : ParamBuf) (s : State) : Res := shapeRow (fun k => k = 1 || k = 0 || 5 < k) pb s
def execShapeChangeAdmit (pb : ParamBuf) (s : State) : Res := shapeRow (· = 2) pb s
def execShapeChangeRelease (pb : ParamBuf) (s : State) : Res := shapeRow (· = 3) pb s
def execShapeChangeFail (pb : ParamBuf) (s : State) : Res := shapeRow (· = 4) pb s
def execShapeChangeReform (pb : ParamBuf) (s : State) : Res := shapeRow (· = 5) pb s

/-! ### Swap, attestation, quotas, logbook, owner keys -/

/-- SWAP_ROLE (R442): ARG1 0 is now. -/
def execSwapRole (s : State) : Res :=
  adminRow 0x89 anyReq [mRun] noField
    (fun r s => if !eligible s then answerReq s r 0x13 4
      else answerReq (setF s PAIR_SWAPAT_AT (if ARG1 r = 0 then s.clk.now else ARG1 r)) r 0 0) s

/-- The report of R480 before its signatures. -/
def reportBody (s : State) (nonce : List Byte) : List Byte :=
  let boot := getF s IMG_BOOT_SLOT + 2 * getF s IMG_BOOT_OWNPACK + 4 * getF s IMG_BOOT_OPFAIL + 8 * getF s HELM_KINDLE_FACTORY
  let kid := match ownerKeys s with | some (m, k) => sha384 m ++ sha384 k | none => List.replicate 96 0
  leBytes 4 0x52545441 ++ leBytes 2 1 ++ leBytes 2 0 ++ leBytes 16 ownUid ++ leBytes 8 s.clk.now ++ leBytes 1 (stampFlags s srcMisc)
    ++ leBytes 1 (mode s) ++ leBytes 1 boot ++ leBytes 1 0 ++ leBytes 4 (getF s IMG_BOOT_ARB) ++ leBytes 8 (getF s IMG_VER_VERSION)
    ++ padTo 0 48 nonce ++ padTo 0 48 Config.romDigest ++ padTo 0 48 s.boot.mImage ++ sha384 (rdBytes s.prog 0 (2 ^ 23)) ++ lodestar s
    ++ leBytes 4 (getF s CIP_EPOCH_EPOCH) ++ leBytes 4 (getF s IMG_OWNER_OSEQ) ++ kid
    ++ ((List.range 432).map fun i => Config.mfgByte (20480 + i)) ++ ((List.range 384).map fun i => Config.mfgByte (20480 + 432 + i))
    ++ leBytes 8 0

/-- ATTEST (R480). -/
def execAttest (pb : ParamBuf) (s : State) : Res :=
  adminBufRow 0x8A pb anyReq [mRun, mService, mSafe] (fun _ r => fieldCheck r true true (some 17824))
    (fun r s =>
      let b := reportBody s ((reqBuf r pb).take 48)
      answerHelm (stamped s srcMisc) r.src ⟨0, 0, none, 17824⟩
        (b ++ padTo 0 384 (Config.identRsaSign b) ++ padTo 0 16224 (Config.identSlhSign b))) s

/-- The buckets that a QUOTA_SET buffer spells. -/
def quotaOfBuf (b : List Byte) : Quota :=
  let f := oLe b 48 1
  ⟨⟨bit f 0, oLe b 0 8, oLe b 8 8⟩, ⟨bit f 1, oLe b 16 8, oLe b 24 8⟩, ⟨bit f 2, oLe b 32 8, oLe b 40 8⟩⟩

/-- A bucket meets R394. -/
def bucketOk (x : Bucket) : Bool :=
  if x.en then decide (1 ≤ x.rate) && decide (x.rate ≤ x.cap) && decide (x.cap < 2 ^ 47) else x.rate == 0 && x.cap == 0

/-- QUOTA_SET (R394, R395). -/
def execQuotaSet (pb : ParamBuf) (s : State) : Res :=
  adminBufRow 0x8D pb anyReq [mRun, mService]
    (fun _ r => match fieldCheck r true true (some 64) with
      | some d => some d
      | none =>
        let q := quotaOfBuf (reqBuf r pb)
        if bucketOk q.b0 && bucketOk q.b1 && bucketOk q.b2 then none else some 0x80)
    (fun r s =>
      let n := bits (ARG0 r) 0 10
      let b := reqBuf r pb
      let fill := bit (oLe b 48 1) 3
      answerReq (passOnWait (recordQuota s n (quotaOfBuf b) fill) (cfgWords (.quota n (quotaOfBuf b) fill))) r 0 0) s

/-- LOG_CLEAR (R500). -/
def execLogClear (s : State) : Res :=
  adminRow 0x8E anyReq [mRun, mService, mSafe] noField (fun r s => answerReq (clearLog s) r 0 0) s

/-- The owner copy that is writable (R462, R478). -/
def ownerTarget (s : State) : Nat := if sectorWp s (ownerA / 4096) then ownerB else ownerA

/-- ENROLL (R478). -/
def execEnroll (pb : ParamBuf) (s : State) : Res :=
  adminBufRow 0x8F pb anyReq [mService]
    (fun s r => match fieldCheck r true true (some 24576) with
      | some d => some d
      | none =>
        let o := (reqBuf r pb).take 24576
        let h := o.take 20480
        if (headCheck [3] (arbOk s h) (ownerKeys s) h).isSome || (bodyCheck h ((o.drop 20480).take (oBlen h))).isSome then some 0x80
        else none)
    (fun r s =>
      let o := (reqBuf r pb).take 24576
      let a := ownerTarget s
      let s := storeWr (storeErase s (a / 4096) 16) a o
      answerReq (setC (setC s IMG_OWNER_OSEQ (oArb o)) IMG_OWNER_OARB 0) r 0 0) s

/-! ### FLUSH (R126, R531) -/

/-- FLUSH (R126): checked by the helm (R131), which then tracks the blocks that the write buffer held at acceptance. -/
def execFlush (s : State) : Res :=
  match nextReq s with
  | none => .next s
  | some r =>
    act (reqOpc r = 5 && s.boot.image && mode s != mOff) s <|
      let s := beginReq s r.src
      if !dataMode s || (isHost r.src && (cx s r.src).late) then answerReq s r 0x13 2
      else if blkField r.block 4 2 != 0 then answerReq s r 0x11 4
      else if blkField r.block 48 8 % 16 != 0 then answerReq s r 0x11 0x30
      else
        setAux s { s.x with flushes := s.x.flushes ++ [(r.src, (cx s r.src).owed, (cx s r.src).owedN)] }

/-- A block owed is on flash and its stripe closed, or ORPHAN and not to be closed. -/
def flushed (s : State) (o : Owed) : Bool :=
  match o with
  | .frame _ _ => false
  | .stripe p => match bandOf s p with
    | some b => match sifOf s b (ppaPlane p) (ppaPage p) with
      | some (_, x) => x.st = 3
      | none => true
    | none => true

/-- FLUSH_ANSWER (R531): the `i`-th FLUSH that the helm tracks is answered. -/
def execFlushAnswer (i : Nat) (s : State) : Res :=
  match s.x.flushes[i]? with
  | none => .next s
  | some (src, l, n) =>
    act (l.all (flushed s)) s <|
      answerHelm (setAux s { s.x with flushes := s.x.flushes.eraseIdx i }) src ⟨0, 0, none, 4096 * n⟩ []

/-! ### The helm's answers (R16, R199, R488) -/

/-- The record of a CMD (R488): TAG from its block, SEQ the count of CMDs. -/
def cmdRecord (s : State) (block : Nat) (e : Ending) : List Byte :=
  leBytes 16 (e.cls % 256 + 2 ^ 8 * (e.detail % 256) + 2 ^ 16 * bits block 16 16 + 2 ^ 32 * getF s SVC_STAT_SEQ
    + 2 ^ 48 * offBits e.offset + 2 ^ 64 * (e.result % 2 ^ 64))

/-- An answer is delivered: the record reaches the parked handler's local store, with output bytes in host memory; the service
port gets RESP; a request whose asker is gone is dropped. Output whose write translation fails with DETAIL `fail` discards the
command (R101, R118; DESIGN CHOICE, log 113). -/
def deliver (s : State) (r : HelmReq) (e : Ending) (fail : Nat) : State :=
  let s := { s with d := { s.d with helm := s.d.helm.erase r } }
  if r.src = 9999 then
    match s.x.svc.cmd with
    | some f => replyTo (setSvc s { s.x.svc with cmd := none }) f 0x81 (cmdRecord s r.block e ++ r.out)
    | none => s
  else if isHost r.src then
    if !r.out.isEmpty && dmaFails s r.src fail true then discard (stopPages s r.src fail) r.src 0x50 fail (some 0)
    else
      let s := if r.out.isEmpty then s
        else send s (.hostWrite (cx s r.src).port (pasidOf s r.src) (blkField r.block 32 8) r.out)
      match (th s r.src).cont with
      | .mhelm a => toReady (lsWr s r.src a (leBytes 16 (recordOf s r.src e))) r.src
      | _ => s
  else s

/-- HELM_COMMAND_ANSWER (R16): the oldest answered request; an admin change waits for its records to commit and for every
position of a cascade (R220, R448). -/
def execHelmCommandAnswer (fail : Nat) (s : State) : Res :=
  match s.d.helm.find? fun r => r.answer.isSome with
  | none => .next s
  | some r =>
    match r.answer with
    | none => .next s
    | some e => act (!(r.src = 9999 && 8 ≤ s.x.svc.out.length) && !(0x80 ≤ reqOpc r && (helmPending s || !s.x.cas.wait.isEmpty))) s (deliver s r e fail)

end Sys2Proof.Machine
end

