-- ==== Sys2Proof/Machine/Cascade.lean ====
section
/-! DEFINITION. The cascade: parts of commands, units that span positions, admin changes, silent positions and links
(R446 to R452). -/
namespace Sys2Proof.Machine
open Sys2Proof

def setCas (s : State) (x : Cas) : State := setAux s { s.x with cas := x }

def setParts (s : State) (c : Nat) (l : List CPart) : State := setCas s { s.x.cas with parts := mset [] s.x.cas.parts c l }

/-- The position is heard from: it answers again (R452). -/
def hearFrom (s : State) (p : Nat) : State :=
  if s.boot.casEn && p < 4 then setF s CAS_STAT_UP (putBits (getF s CAS_STAT_UP) p 1 1) else s

/-! ### Fields of a data command's block (R117) -/

def bVol (b : Nat) : Nat := blkField b 4 2
def bPix (b : Nat) : Bool := bit (blkField b 6 2) 0
def bGuard (b : Nat) : Bool := bit (blkField b 6 2) 1
def bRef (b : Nat) : Bool := bit (blkField b 6 2) 2
def bApp (b : Nat) : Bool := bit (blkField b 6 2) 3
def bSlba (b : Nat) : Nat := blkField b 8 8
/-- NBLK as the field holds it. -/
def bNblk (b : Nat) : Nat := blkField b 16 4
def bAux (b : Nat) : Nat := blkField b 30 2
def bDaddr (b : Nat) : Nat := blkField b 32 8
def bMaddr (b : Nat) : Nat := blkField b 40 8
def bArg (b : Nat) : Nat := blkField b 56 8
/-- The reference tag expected of block `k`. -/
def bTag (b k : Nat) : Nat := (blkField b 24 6 + k) % 2 ^ 48

/-- A check of protection information under a block's fields, the guard as given (R387). -/
def blockCheck (b : Nat) (g : Bool) (d p : List Byte) (k : Nat) : Option Nat :=
  piCheck g (bRef b) (bApp b) d p (bTag b k) (blkField b 20 2) (blkField b 22 2)

/-! ### The checks of R131 -/

/-- The lowest invalid field (R120). -/
def fieldFault (b : Nat) : Option Nat :=
  let o := bits b 0 8
  ([(4, if o = 0x0A then bVol b != 0 else 8191 < bVol b),
    (16, 16383 < bNblk b || (o = 8 && 255 < bNblk b) || (o = 0x0A && 255 < bNblk b + bits (bArg b) 0 8)),
    (30, o = 9 && 8191 < bAux b),
    (32, [1, 2, 7, 8, 0x0A].contains o && bDaddr b % 4 != 0),
    (40, [1, 2, 7, 8].contains o && bPix b && bMaddr b % 4 != 0),
    (48, blkField b 48 8 % 16 != 0)].find? fun (x : Nat × Bool) => x.2).map Prod.fst

/-- Step 5 for one volume. -/
def volFault (s : State) (c v : Nat) : Option Nat :=
  let e := volEnt s v
  if volState e = 0 || !(bindOf s c).vols.contains v then some 1 else if volState e = 2 then some 5 else none

/-- Step 6 for one range. -/
def outOfVol (s : State) (v lba n : Nat) : Bool := decide (256 * volSize (volEnt s v) ≤ lba + n)

/-- Steps 3 to 6 of R131 for a data command: the first failure. A COPY's destination is judged before its source at each step (DESIGN CHOICE,
log 139, for two volumes that fail differently). -/
def blockFault (s : State) (c : Nat) : Option Ending :=
  let b := (cx s c).block
  let o := bits b 0 8
  let no := fun cls d => some (⟨cls, d, none, 0⟩ : Ending)
  if !dataMode s || (cx s c).late then no 0x13 2
  else match fieldFault b with
  | some d => no 0x11 d
  | none =>
    if o = 0x0A then none else
    match (volFault s c (bVol b)).or (if o = 9 then volFault s c (bAux b) else none) with
    | some d => no 0x13 d
    | none =>
      if outOfVol s (bVol b) (bSlba b) (bNblk b) then no 0x12 0
      else if o = 9 && outOfVol s (bAux b) (bArg b) (bNblk b) then no 0x12 1
      else none

/-- Steps 3 to 7 of R131 for a data command: the first failure. -/
def dataFault (s : State) (c : Nat) : Option Ending :=
  let b := (cx s c).block
  (blockFault s c).or
    (if [2, 8, 9].contains (bits b 0 8) && availInt s < bNblk b + 1 then some ⟨0x32, 1, none, 0⟩ else none)

/-! ### Splitting a command (R449) -/

/-- Runs of blocks of one position: (position, first block offset, blocks). -/
def cutRuns (s : State) (lbn n : Nat) : List (Nat × Nat × Nat) :=
  ((List.range ((lbn % 256 + n + 255) / 256)).foldl (fun (l : List (Nat × Nat × Nat)) i =>
    let lo := max lbn (256 * (lbn / 256 + i))
    let hi := min (lbn + n) (256 * (lbn / 256 + i + 1))
    let p := posOfBil s (lbn / 256 + i)
    match l with
    | (q, o, m) :: t => if q = p then (q, o, m + (hi - lo)) :: t else (p, lo - lbn, hi - lo) :: l
    | [] => [(p, lo - lbn, hi - lo)]) []).reverse

/-- A copy of the block moved to a part: SLBA, NBLK, REFTAG and DADDR, and MADDR when PIX = 1. -/
def partBlock (b off n : Nat) : Nat :=
  let b := putBits b 64 64 (blkField b 8 8 + off)
  let b := putBits b 128 32 (n - 1)
  let b := putBits b 192 48 (blkField b 24 6 + off)
  let b := putBits b 256 64 (blkField b 32 8 + 4096 * off)
  if bit (blkField b 6 2) 0 then putBits b 320 64 (blkField b 40 8 + 16 * off) else b

/-- The parts of an accepted command; none where it runs as on a single module. -/
def splitOf (s : State) (c : Nat) : List CPart :=
  let b := (cx s c).block
  let o := bits b 0 8
  let e := volEnt s (blkField b 4 2 % 8192)
  if !flag s CAS_STAT_MASTER then []
  else if o = 5 then (List.range (casN s)).map fun p => ⟨p, 0, 1, b, false, [], none⟩
  else if o = 0x0A then
    let p := bits (blkField b 56 8) 8 2
    if p = s.boot.cas || casN s ≤ p then [] else [⟨p, 0, 1, b, false, [], none⟩]
  else if (1 ≤ o && o ≤ 4) || (6 ≤ o && o ≤ 9) then
    let runs := cutRuns s (256 * volBase e + blkField b 8 8) (blkField b 16 4 + 1)
    if (blockFault s c).isSome || runs.all fun r => r.1 = s.boot.cas then []
    else runs.map fun r => ⟨r.1, r.2.1, r.2.2, partBlock b r.2.1 r.2.2, false, [], none⟩
  else []

/-- A part starts here: the thread of the context runs its block. COMMIT at the master is that of the whole command (R135). -/
def startPart (s : State) (c off tot block : Nat) : State :=
  let s := setCas (modCx s c fun x => { x with block := block, commit := !(partsOf s c).isEmpty && x.commit }) { s.x.cas with here := mset none s.x.cas.here c (some (off + 2 ^ 16 * tot)) }
  modTh s c fun y => { y with st := .armed, why := .none, cont := .nothing, ending := none, units := 0, unitAt := 0, work := none, lastMade := false
                              withHelm := false, charged := false, waited := false }

/-- Silence, or a takeover there: the part ends ABORTED_TAKEOVER (R452). -/
def takenEnd : Ending := ⟨0x43, 1, none, 0⟩

/-- Parts not yet sent end with a discarded command (R133). -/
def cutParts (s : State) (c : Nat) : State :=
  match (th s c).cut with
  | some e => setParts s c ((partsOf s c).map fun x => if !x.sent && x.done.isNone then { x with done := some e } else x)
  | none => s

/-- The next part of each position that runs none is sent; a position that does not answer ends its parts at once. -/
def sendParts (s0 : State) (c : Nat) : State :=
  let s := cutParts s0 c
  let tot := ((partsOf s c).map fun x => x.off + x.nblk).foldl max 0
  (List.range 4).foldl (fun s p =>
    let l := partsOf s c
    if p != s.boot.cas && !bit (getF s CAS_STAT_UP) p then
      setParts s c (l.map fun x => if x.pos = p && x.done.isNone then { x with done := some takenEnd } else x)
    else if l.any fun x => x.pos = p && x.sent && x.done.isNone then s
    else match l.find? fun x => x.pos = p && !x.sent && x.done.isNone with
      | none => s
      | some x =>
        let s := setParts s c (l.map fun y => if y = x then { y with sent := true } else y)
        if p = s.boot.cas then startPart s c x.off tot x.block
        else send s (.cascade p 1 ([c, x.off, tot] ++ (List.range 8).map fun i => blkField x.block (8 * i) 8))) s

/-- Bit `k`: unit `k` committed at every position that holds part of it (R451). -/
def unitsAll (l : List CPart) : Nat :=
  ((List.range 64).map fun k =>
    let on := l.filter fun x => decide (x.off < 256 * k + 256) && decide (256 * k < x.off + x.nblk)
    if !on.isEmpty && on.all (fun x => match x.done with | some e => bit e.result k | none => false) then 2 ^ k else 0).sum

/-- Where a part's failure lies in the command. -/
def failOff (x : CPart) (e : Ending) : Nat := x.off + e.offset.getD 0 % 2 ^ 14

/-- The completion of a cascaded command: a discard's or an abort's own status, else that of its parts (R133, R451). -/
def partsEnding (s : State) (c : Nat) (l : List CPart) : Ending :=
  let o := bits (((l.head?).map (·.block)).getD 0) 0 8
  let ends := l.filterMap fun x => x.done.map fun e => (x, e)
  let bad := ends.filter fun p => 1 < p.2.cls
  let reb := ends.filter fun p => p.2.cls = 1
  let res := if unitsOpc o then unitsAll l else (ends.map fun p => p.2.result).sum
  let got := if unitsOpc o then res else 0
  if (cx s c).abPend && (cx s c).abOut = 0x40 then ⟨0x40, 0, none, got⟩
  else match (th s c).cut with
  | some e => { e with result := got }
  | none => match argMin (fun p : CPart × Ending => failOff p.1 p.2) bad with
    | some (x, e) => ⟨e.cls, e.detail, e.offset.map fun k => if k < 2 ^ 14 then x.off + k else k, if unitsOpc o then res else e.result⟩
    | none => match argMin (fun p : CPart × Ending => failOff p.1 p.2) reb with
      | some (x, e) => ⟨1, min 255 (reb.map fun p => p.2.detail).sum, some (failOff x e), res⟩
      | none => ⟨0, 0, none, res⟩

/-- Once every part has ended the command goes DONE with one status (R451); its task register block reads as it was accepted. -/
def joinParts (s : State) (c : Nat) : State :=
  let l := partsOf s c
  if l.isEmpty || l.any (fun x => x.done.isNone) then s else
  let e := partsEnding s c l
  let b0 := match l.head? with | some x => x.block | none => (cx s c).block
  let n := (l.map (·.nblk)).sum
  let s := modCx s c fun x => { x with block := if bits b0 0 8 = 5 || bits b0 0 8 = 0x0A then b0 else putBits b0 128 32 (n - 1) }
  let s := setCas (setParts s c []) { (setParts s c []).x.cas with here := mset none s.x.cas.here c none }
  modTh (commitAtDone s c) c fun y =>
    { y with st := .done, why := .none, cont := .nothing, ending := some e, cut := none
             units := if unitsOpc (bits b0 0 8) then unitsAll l else y.units }

/-- The parts of a command with a block on a position that does not answer: none is sent, and each ends ABORTED_TAKEOVER (R452). -/
def silentParts (s : State) (l : List CPart) : List CPart :=
  if l.any fun x => x.pos != s.boot.cas && !bit (getF s CAS_STAT_UP) x.pos && bits x.block 0 8 != 5 then
    l.map fun x => { x with done := some takenEnd }
  else l

/-- After acceptance at the master: a command that does not lie on it whole runs in parts (R449). Where no part is its own, the
thread waits for them (DESIGN CHOICE, log 46). -/
def splitCommand (s : State) (c : Nat) : State :=
  let l := silentParts s (splitOf s c)
  if l.isEmpty then s else
  let s := modTh (setParts s c l) c fun y => { y with st := .waiting, why := .dma, arg := 0, sinceNow := s.clk.now, sinceRef := s.clk.refNs }
  joinParts (sendParts s c) c

/-- The master's decision for a unit goes out. -/
def sendGo (s : State) (c u mask kind : Nat) : State :=
  ((List.range 4).filter fun p => bit mask p && p != s.boot.cas).foldl (fun s p => send s (.cascade p kind [c, u])) s

/-- The master tells every position of a failed unit, when a part failed before READY (R450). -/
def abandonUnits (s : State) (c : Nat) : State :=
  (List.range 64).foldl (fun s u =>
    let l := unitParts s c u
    let failed := l.any fun x => match x.done with | some _ => !x.ready.contains u | none => false
    let mask := ((l.filter fun x => x.ready.contains u).map (·.pos)).dedup.foldl (fun m p => putBits m p 1 1) 0
    if failed && mask != 0 && !(s.keep.intents.any fun x => x.1 = c && x.2 % 64 = u) then sendGo s c u mask 4 else s) s

/-! ### A part at its position (R449, R451) -/

/-- CASCADE_PART_RECEIVE. -/
def execCascadePartReceive (c off tot block : Nat) (s : State) : Res :=
  act (subordinate s && isHost c && (th s c).st = .idle) s <|
    let s := modCx s c fun x =>
      { x with seq := (x.seq + 1) % 2 ^ 16, tag := bits block 16 16, last := 1, port := 0, portGone := false, late := false
               owed := owedNow s block, owedN := (owedNow s block).length }
    startPart (modTh s c fun y => { y with cut := none }) c off tot block

/-- CASCADE_PART_END (R451): a part that ended here, no record of it held, is reported to the master, or is the master's own (`pos` this position); at the
master the report of another position arrives: block offset of the part and its status, RESULT counting units of the command. -/
def execCascadePartEnd (c pos off cls detail : Nat) (offset : Option Nat) (result : Nat) (s : State) : Res :=
  if pos = s.boot.cas then
    match mget none s.x.cas.here c, (th s c).ending with
    | some v, some e =>
      act ((th s c).st = .done && !mustWait s c && !(s.keep.held.any fun h => h.1 = c)) s <|
        let s := cleanUp s c
        let e := { e with result := resultOf s c e }
        let s := setCas s { s.x.cas with here := mset none s.x.cas.here c none }
        if flag s CAS_STAT_MASTER then
          let s := setParts s c ((partsOf s c).map fun x => if x.pos = pos && x.off = v % 2 ^ 16 && x.sent then { x with done := some e } else x)
          let s := modTh s c fun y => { y with st := .waiting, why := .dma, arg := 0, ending := none }
          joinParts (sendParts (abandonUnits (commitWhole s c) c) c) c
        else
          let s := modTh s c fun y => { y with st := .idle, why := .none, cont := .nothing, ending := none }
          wakePx (send { s with md := { s.md with reserved := mset 0 s.md.reserved c 0 } }
            (.cascade 0 5 ([c, pos, v % 2 ^ 16, e.cls, e.detail, e.result] ++ e.offset.toList)))
    | _, _ => .next s
  else
    act (flag s CAS_STAT_MASTER && (partsOf s c).any fun x => x.pos = pos && x.off = off && x.sent && x.done.isNone) s <|
      let s := hearFrom s pos
      let s := setParts s c ((partsOf s c).map fun x =>
        if x.pos = pos && x.off = off && x.sent && x.done.isNone then { x with done := some ⟨cls, detail, offset, result⟩ } else x)
      joinParts (sendParts (abandonUnits (commitWhole s c) c) c) c

/-! ### Units on two positions (R450) -/

/-- CASCADE_READY (R450): at the master, a position reports READY for a unit, or (`appended`) that its record is appended. Once every
part is READY the intent is the unit's commit point. A report for a unit that no command of the master has is answered by its intent:
GO where one stands, else ABANDON. -/
def execCascadeReady (c u pos : Nat) (appended : Bool) (s : State) : Res :=
  act (flag s CAS_STAT_MASTER && decide (pos < 4) && decide (u < 64)) s <|
    let s := hearFrom s pos
    let it := s.keep.intents.find? fun x => x.1 = c && x.2 % 64 = u
    if appended then
      { s with keep := { s.keep with intents := (s.keep.intents.map fun x =>
          if x.1 = c && x.2 % 64 = u then (c, u + 64 * putBits (x.2 / 64) pos 1 0) else x).filter fun x => 64 ≤ x.2 } }
    else if it.isSome then sendGo s c u (2 ^ pos) 3
    else
      let s := setParts s c ((partsOf s c).map fun x =>
        if x.pos = pos && (unitParts s c u).contains x then { x with ready := sins u x.ready } else x)
      let l := unitParts s c u
      if l.isEmpty then sendGo s c u (2 ^ pos) 4
      else if l.all fun x => x.ready.contains u then
        let mask := (l.map (·.pos)).dedup.foldl (fun m p => putBits m p 1 1) 0
        sendGo (commitWhole { s with keep := { s.keep with intents := s.keep.intents ++ [(c, u + 64 * mask)] } } c) c u mask 3
      else s

/-- The held record of a unit. -/
def heldRec (s : State) (c u : Nat) : Option JRec := (s.keep.held.find? fun h => h.1 = c && h.2.1 = u).map fun h => h.2.2
def unheld (s : State) (c u : Nat) : State :=
  { s with keep := { s.keep with held := s.keep.held.filter fun h => !(h.1 = c && h.2.1 = u) } }

/-- A held record is dropped, and the overlay space it was given is free again. -/
def dropHeld (s : State) (c u : Nat) : State := overUpdate (releaseOverlay (unheld s c u) (2 ^ 65 + 64 * c + u))

/-- There is room for a held record: the space it was given when it was staged (R220 step 2), or after a reset any there is. -/
def heldRoom (s : State) (c u : Nat) (r : JRec) : Bool :=
  ringRoom s (64 + 24 * r.ents.length) && ((s.map.ovl.any fun e => e.1 = 2 ^ 65 + 64 * c + u) || overlayRoom s c r.ents)

/-- CASCADE_GO (R450): the held record is appended from step 4 of R220 on; the append is reported. -/
def execCascadeGo (c u : Nat) (s : State) : Res :=
  match heldRec s c u with
  | none => .next s
  | some r =>
    act (isActive s && heldRoom s c u r
        && (!flag s CAS_STAT_MASTER || s.keep.intents.any fun x => x.1 = c && x.2 % 64 = u)) s <|
      let s := match placeRec (unheld s c u) r (2 ^ 65 + 64 * c + u) with
        | (_, true, s) => s
        | (r, false, s) => wakeCommit s r
      send s (.cascade 0 3 [c, u, s.boot.cas])

/-- CASCADE_ABANDON (R450, R451): the held record is dropped and the part ends without its unit; `abort` is the abort that the master
sends to every position that runs a part. -/
def execCascadeAbandon (c u : Nat) (abort : Bool) (s : State) : Res :=
  if abort then act (partHere s c && !(cx s c).commit) s (discard s c 0x40 0 none)
  else act ((heldRec s c u).isSome && !(s.keep.intents.any fun x => x.1 = c && x.2 % 64 = u)) s <|
    let s := dropHeld s c u
    if inFlight s c && partHere s c then
      modTh (withdraw s c) c fun x => { x with st := .done, why := .none, cont := .nothing, ending := some ⟨0, 0, none, x.units⟩ }
    else s

/-! ### Silence and links (R446, R448, R452) -/

/-- POSITION_TIMEOUT (R452): a position answers nothing for TMO_MS, or its standby took over (`taken`). -/
def execPositionTimeout (pos : Nat) (taken : Bool) (el : Elapse) (s0 : State) : Res :=
  let s := elapse s0 el
  let out := s.x.cas.parts.filter fun e => e.2.any fun x => x.pos = pos && x.done.isNone
  act (flag s CAS_STAT_MASTER && decide (pos < 4) && pos != s.boot.cas
      && (taken || decide (ms (getF s CAS_CFG_TMO_MS) ≤ el.ns))) s <|
    let s := if taken then s
      else event (logEv (setF s CAS_STAT_UP (putBits (getF s CAS_STAT_UP) pos 1 0)) 14 1 [2 ^ pos]) 4
    out.foldl (fun s e =>
      let s := setParts s e.1 ((partsOf s e.1).map fun x => if x.pos = pos && x.done.isNone then { x with done := some takenEnd } else x)
      joinParts (abandonUnits s e.1) e.1) s

/-- CASCADE_ADMIN_TIMEOUT (R448): the positions of an admin change have answered (`silent` empty), or 100 ms are over and an event
names those that did not. -/
def execCascadeAdminTimeout (silent : List Nat) (el : Elapse) (s0 : State) : Res :=
  let s := elapse s0 el
  act (!s.x.cas.wait.isEmpty && (silent.isEmpty || decide (s.x.cas.waitAt + 100000000 ≤ s.clk.refNs))) s <|
    let mask := (silent.dedup.filter fun p => s.x.cas.wait.contains p).foldl (fun m p => putBits m p 1 1) 0
    let s := setCas s { s.x.cas with wait := [] }
    if mask = 0 then s else logEv s 14 1 [mask]

/-- CASCADE_LINK_DOWN (R446). -/
def execCascadeLinkDown (n : Nat) (s : State) : Res :=
  act (s.boot.casEn && s.boot.image && decide (n < 2)) s (setF s CAS_STAT_PORTS (putBits (getF s CAS_STAT_PORTS) n 1 0))

/-- CAS_POS from the capacities of the positions (R447). -/
def showPositions (s : State) (lcaps : List Nat) : State :=
  let l := (lcaps.take (casN s))
  let lo := l.foldl min (l.headD 0)
  (List.range l.length).foldl (fun s p =>
    let st := if flag s CAS_CFG_SHAPE then (l.take p).sum else 0
    setF (setF s (CAS_POS_START p) st) (CAS_POS_COUNT p) (if flag s CAS_CFG_SHAPE then l.getD p 0 else lo)) s

/-- CASCADE_LINK_UP (R446): traffic returns, and the positions make their capacities known (DESIGN CHOICE, log 47). -/
def execCascadeLinkUp (n : Nat) (lcaps : List Nat) (s : State) : Res :=
  act (s.boot.casEn && s.boot.image && decide (n < 2) && lcaps.length = casN s) s
    (showPositions (setF s CAS_STAT_PORTS (putBits (getF s CAS_STAT_PORTS) n 1 1)) lcaps)

end Sys2Proof.Machine
end

