-- ==== Sys2Proof/Machine/Activate.lean ====
section
/-! DEFINITION. Image activation: the almanac's ACTIVATE, and the notices of a pair and of a cascade (R49, R475, R476, R497).
Where an activation stands (`actv`): 1 the partner's answer is awaited, 2 this module is the initiator under way, 3 the partner of one;
at a cascade's master 10 + p and 20 + p while position p is asked and while it activates (DESIGN CHOICE, log 50). -/
namespace Sys2Proof.Machine
open Sys2Proof

/-- The staged image is the one named (R475). -/
def stagedOk (s : State) (ver : Nat) : Bool := getF s IMG_STAGE_STATE == 2 && getF s IMG_STAGE_VER_VERSION == ver

def setActv (s : State) (n : Nat) : State := setPair s { s.x.pair with actv := n }

/-- The version of the activation under way, and the number plus one of the almanac entry that fired, 0 for none. -/
def actVersion (s : State) : Nat := s.x.pair.actvVer % 2 ^ 64
def actEntry (s : State) : Nat := s.x.pair.actvVer / 2 ^ 64

/-- An activation restart may begin: no change is under way, and the mode is one it leads from, or BANKED, from which the module wakes first
(R60, R62, R83). -/
def mayRestart (s : State) : Bool := changeFree s && inMode s [mRun, mService, mSafe, mBanked]

/-- The staged image is made due, and the module restarts (R83, R475); in SAFE nothing drains. -/
def dueRestart (s : State) : State :=
  let s := setC (wake s) IMG_STAGE_DUE 1
  if mode s == mSafe then setF (setAux s { s.x with change := some ⟨4, 9998, 2⟩ }) HELM_MODE_CHANGING 1
  else startChange s 4 9998

/-- Nothing restarts (R475, R476). -/
def notMade (s : State) (result : Nat) : State := setC (setActv s 0) IMG_ACT_RESULT result

/-- The check of R475 fails: RESULT, an event, vector 5. -/
def notStaged (s : State) : State :=
  event (logEv (notMade s (if getF s IMG_STAGE_STATE = 2 then 9 else 8)) 15 3 []) 5

/-- This module activates: alone at once, in a pair once its partner agrees (R475, R476 step 1). -/
def activateOwn (s : State) (ver : Nat) : State :=
  if !stagedOk s ver then notStaged s
  else if s.boot.pairEn then
    let s := setBox s 51 { box s 51 with ackV := false }
    let s := setC (setPair s { s.x.pair with actv := 1, actvAt := s.clk.refNs }) IMG_ACT_RESULT 2
    notice s 51 1 ver
  else setC (dueRestart s) IMG_ACT_RESULT 1

/-- Positions that a master activates before its own, highest first. -/
def actPositions (s : State) : List Nat := ((List.range (casN s)).filter (· != s.boot.cas)).reverse

/-- The master asks position `p`, or activates itself when every other one is done. -/
def activateNext (s : State) (ps : List Nat) (ver : Nat) : State :=
  match ps with
  | [] => activateOwn s ver
  | p :: _ =>
    let s := setBox s (56 + p) { box s (56 + p) with ackV := false }
    let s := setC (setPair s { s.x.pair with actv := 10 + p, actvAt := s.clk.refNs }) IMG_ACT_RESULT 2
    notice s (56 + p) 1 ver

/-- An ACTIVATE entry fires at a module that begins an activation: the active member, in a cascade the master (R475, R476). A change
under way is let end first (DESIGN CHOICE, log 50). -/
def activate (s : State) (i ver : Nat) : State :=
  let s := setC (wake s) IMG_ACT_WHEN (s.clk.now / 2 ^ 32)
  let s := setPair s { s.x.pair with actvVer := ver + 2 ^ 64 * (i + 1) }
  if !s.boot.casEn then activateOwn s ver
  else if !flag s CAS_STAT_MASTER then s
  else if !stagedOk s ver then notStaged s
  else activateNext s (actPositions s) ver

/-- ACTIVATE (R49, R475, R476). -/
def execActivate (s : State) : Res :=
  match fire s 8 with
  | some (i, ver, s') => act (mayRestart s) s (activate s' i ver)
  | none => .next s

/-! ### Notices (R476, R497) -/

/-- The helm's notice that a mailbox holds: its code and VERSION. -/
def noticeIn (s : State) (mb : Nat) : Option (Nat × Nat) :=
  let b := box s mb
  if b.full && bits b.sender 13 3 = 1 && bit b.sender 16 then some (leNat (b.body.take 4), leNat ((b.body.drop 8).take 8)) else none

/-- ACTIVATION_NOTICE: the partner's helm answers the notice in mailbox 3, that of a position's active module the master's in mailbox 0,
with READY or REFUSE; READY makes the image due, or begins the position's own activation. -/
def execActivationNotice (mb : Nat) (s : State) : Res :=
  match noticeIn s mb with
  | some (1, ver) =>
    act ((mb = 3 && s.boot.pairEn && mode s == mStandby) || (mb = 0 && subordinate s && mayRestart s)) s <|
      let ok := stagedOk s ver
      let s := ackBox (takeBox s mb) mb (if ok then 0 else 1) (helmId s)
      if !ok then s
      else if mb = 3 then setC (setC (setActv s 3) IMG_STAGE_DUE 1) IMG_ACT_RESULT 2
      else activateOwn (setPair s { s.x.pair with actvVer := ver }) ver
  | _ => .next s

/-- The entry that fired takes FIRED with EN clear, on the partner through the mirrored almanac (R476 step 2). -/
def markFired (s : State) : State :=
  if actEntry s = 0 then s
  else setAlm s (actEntry s - 1) { almEntry s (actEntry s - 1) with fired := true, en := false }

/-- ACTIVATION_ANSWER: READY, REFUSE, UNDELIVERED, or silence for 1 s. -/
def execActivationAnswer (el : Elapse) (s0 : State) : Res :=
  let s := elapse s0 el
  let a := s.x.pair.actv
  let b := box s (if a = 1 then 51 else 46 + a)
  act ((a = 1 || (10 ≤ a && a < 14)) && mayRestart s && (b.ackV || s.x.pair.actvAt + 1000000000 ≤ s.clk.refNs)) s <|
    if !(b.ackV && b.ackCode = 0) then notMade s 10
    else if a = 1 then markFired (dueRestart (setActv s 2))
    else setActv s (a + 10)

/-- ACTIVATED_NOTICE: the notice in mailbox 3 restarts the new active module for the second half (R476 step 5); at a cascade's master
`pos` below 4 says that the position has ended step 6 (DESIGN CHOICE, log 50), and the next one begins. -/
def execActivatedNotice (pos : Nat) (s : State) : Res :=
  if pos < 4 then
    act (s.x.pair.actv = 20 + pos && mayRestart s) s
      (activateNext s ((actPositions s).filter (· < pos)) (actVersion s))
  else match noticeIn s 3 with
    | some (2, _) =>
      act (isActive s && mayRestart s) s <|
        let s := ackBox (takeBox s 3) 3 0 (helmId s)
        if s.x.pair.actv = 3 && flag s IMG_STAGE_DUE then dueRestart s else s
    | _ => .next s

end Sys2Proof.Machine
end

