-- ==== Sys2Proof/Machine/Health.lean ====
section
/-! DEFINITION. The health and accounting pages of HEALTH_READ (R331 to R335, R398, R402, R403). -/
namespace Sys2Proof.Machine
open Sys2Proof

def dieChan (d : Nat) : Nat := d / 256

/-- Spare-table entries of the dies in the inventory that satisfy a test, over the channels that satisfy another. -/
def spareWhere (s : State) (onChan : Nat → Bool) (p : Nat → Bool) : List Nat :=
  (s.ret.inv.dies.filter fun d => onChan (dieChan d)).flatMap fun d => (List.range (planes s)).flatMap fun pl =>
    ((spares s d pl).map Prod.snd).filter p

/-- ECOUNT_AVG: the mean, rounded down (DEDUCED, log 20). -/
def ecountAvg (s : State) : Nat :=
  let l := ((allBands s).filter fun b => !bWithdrawn (bandEnt s b)).map fun b => bECount (bandEnt s b)
  if l.isEmpty then Config.ecountAvg (allBands s).length else l.sum / l.length

/-- RETIRED erase blocks on the channels that satisfy a test: RETIRED in the spare table, failed originals that wait for their replacement, and
the members of WITHDRAWN bands (R312). -/
def retiredBlks (s : State) (onChan : Nat → Bool) : List (Nat × Nat × Nat) :=
  let tab := s.ret.inv.dies.flatMap fun d => (List.range (planes s)).flatMap fun pl =>
    (spares s d pl).filterMap fun x => if bits x.2 14 2 = 3 then some (d, pl, bits x.2 0 14) else none
  let out := ((allBands s).filter fun b => bWithdrawn (bandEnt s b)).flatMap fun b =>
    match group s (b / nbe s) with
    | some x => x.mem.flatMap fun d => (List.range (planes s)).map fun pl => (d, pl, memberBlk s d pl b)
    | none => []
  (tab ++ s.keep.retired ++ out).dedup.filter fun m => onChan (dieChan m.1)

/-- A 64-bit count, saturating (R331). -/
def cap64 (n : Nat) : List Byte := leBytes 8 (min n (2 ^ 64 - 1))

/-- Page 0x00 (R332). -/
def pageSummary (s : State) : List Byte :=
  leBytes 8 s.clk.now ++ leBytes 1 (stampFlags s srcHealth) ++ leBytes 1 (sparePct s) ++ leBytes 1 (wearPct s) ++ leBytes 1 0
    ++ leBytes 4 (ecountAvg s) ++ leBytes 4 (ecountMax s)
    ++ leBytes 4 ((allBands s).filter fun b => bandState s b = 0 && !bWithdrawn (bandEnt s b)).length
    ++ leBytes 4 ((allBands s).filter fun b => bWithdrawn (bandEnt s b)).length
    ++ leBytes 4 (retiredBlks s fun _ => true).length
    ++ leBytes 8 (ubil s) ++ leBytes 8 (getF s MAP_LCAP_BILLETS) ++ leBytes 8 s.md.mapped ++ leBytes 8 (avail s)
    ++ cap64 s.md.bytesW ++ cap64 s.md.bytesH ++ cap64 s.md.powerOn

/-- A 64-bit counter of R333, saturating. -/
def cnt64 (s : State) (i : Nat) : List Byte := cap64 (mget 0 s.md.errs i)

/-- Page 0x01 (R333). -/
def pageErrors (s : State) : List Byte := (List.range 16).flatMap (cnt64 s)

/-- Page 0x02 (R334). -/
def pageChannels (s : State) : List Byte :=
  (List.range 32).flatMap fun n =>
    let on := fun c => c == n
    let fails := (List.range 4).any fun k => getF s (CH_DIEFAIL_FAILED n k) != 0
    padTo 0 128 (leBytes 4 (spareWhere s on fun w => bits w 14 2 = 1).length
      ++ leBytes 4 (retiredBlks s on).length
      ++ leBytes 4 (((spareWhere s on fun _ => true).map fun w => bits w 36 24).foldl max 0)
      ++ leBytes 4 (getF s (CH_STAT_FAILED n) + 2 * b2n fails)
      ++ [8, 9, 11, 12].flatMap fun i => cnt64 s (100 + 16 * n + i) ++ leBytes 8 0)

/-- A signed 16-bit value. -/
def i16 (x : Int) : List Byte := leBytes 2 (x % 65536).toNat

/-- Page 0x03 (R335). -/
def pageTemps (s : State) : List Byte :=
  let rd := fun (l : List (Nat × Int)) i o => ((l.find? fun e => e.1 = i).map Prod.snd).getD (Config.tempNone (2 * i + o))
  (List.range 512).flatMap (fun k => leBytes 4 (mget 0 s.keep.hist k))
    ++ (List.range 8).flatMap fun i => i16 (rd s.keep.tlo i 0) ++ i16 (rd s.keep.thi i 1) ++ leBytes 4 0

/-- An accounting record of 64 bytes (R398). -/
def recBytes64 (k : Cnt) (endMin : Nat) : List Byte :=
  leBytes 4 k.rcmd ++ leBytes 4 k.wcmd ++ leBytes 8 k.rbytes ++ leBytes 8 k.wbytes ++ leBytes 8 k.mediaUs ++ leBytes 8 k.qparkUs
    ++ leBytes 8 k.mapped ++ leBytes 4 k.qparks ++ leBytes 4 k.errs ++ leBytes 8 endMin

def minSlot (s : State) (i : Nat) : MinSlot := mget MinSlot.blank s.rsm.slots i

/-- The directory, page 0x40 (R399, R402). -/
def pageDirectory (s : State) : List Byte :=
  leBytes 8 (minSlot s s.rsm.newSlot).seq ++ leBytes 1 s.rsm.newSlot ++ List.replicate 55 0
    ++ (List.range 60).flatMap fun i =>
      let x := minSlot s i
      leBytes 8 x.seq ++ leBytes 8 x.stamp ++ leBytes 8 x.endMin ++ leBytes 1 x.flags ++ leBytes 1 (b2n x.loss + 2 * b2n x.mirror)
        ++ leBytes 6 0

/-- Page `p` of 16 pages of a slot; records of tenants other than `own` read zero where one is given (R403). -/
def pageSlot (x : MinSlot) (p : Nat) (own : Option Nat) : List Byte :=
  (List.range 64).flatMap fun i =>
    let t := 64 * p + i
    if own.isSome && own != some t then List.replicate 64 0 else recBytes64 (mget Cnt.zero x.recs t) x.endMin

/-- Page 0x61: one tenant's records, live counters and balances. -/
def pageOwn (s : State) (n : Nat) : List Byte :=
  (List.range 60).flatMap (fun i => recBytes64 (mget Cnt.zero (minSlot s i).recs n) (minSlot s i).endMin)
    ++ recBytes64 (liveRec s n) 0 ++ (List.range 3).flatMap fun b => leBytes 8 (balOf s n b)

/-- Health page `p` as a source reads it: its tenant, and whether it sees the records of every tenant (R403). -/
def healthPage (s : State) (tenant : Nat) (all : Bool) (p : Nat) : List Byte :=
  let own := if all then none else some tenant
  padTo 0 4096 (
    if p = 0 then pageSummary s
    else if p = 1 then pageErrors s
    else if p = 2 then pageChannels s
    else if p = 3 then pageTemps s
    else if p = 0x40 then pageDirectory s
    else if 0x41 ≤ p ∧ p ≤ 0x50 then pageSlot (minSlot s s.rsm.newSlot) (p - 0x41) own
    else if 0x51 ≤ p ∧ p ≤ 0x60 then pageSlot (minSlot s (getF s TEN_RSEL_SLOT)) (p - 0x51) own
    else if p = 0x61 then pageOwn s tenant
    else [])

end Sys2Proof.Machine
end

