-- ==== Sys2Proof/Machine/DataCmds.lean ====
section
/-! DEFINITION. Data commands as a handler performs them whole: READ, WRITE, WRITE_ZEROES, TRIM, VERIFY, COMPARE,
COMPARE_AND_WRITE, COPY and HEALTH_READ (R116 to R136, R144, R217, R382 to R389, R403). -/
namespace Sys2Proof.Machine
open Sys2Proof

/-! ### How a whole command ends -/

/-- A record of the thread is appended and not yet committed, or held for its unit (R220, R450). -/
def recsOut (s : State) (c : Nat) : Bool :=
  s.keep.held.any (fun h => h.1 = c) || s.map.recs.any fun r => r.thread = c && !r.applied && r.typ = .map

/-- Statuses of a write that show its committed units (R119, R144). -/
def showsUnits (cls : Nat) : Bool := [0, 1, 0x20, 0x21, 0x22, 0x41, 0x50].contains cls

/-- The thread ends with a status, which for an opcode without journal record is its commit point (R135, R200). A Response Failure
also stops page requests on the port (R101). A thread that faulted ends by THREAD_FAULT. -/
def endData (s : State) (c : Nat) (e : Ending) : State :=
  if (th s c).st = .faulted then s else
  let s := if e.cls = 0x50 then stopPages s c e.detail else s
  let s := commitAtDone (releaseAll (dropLocks s c) c) c
  let e := if unitsOpc (opcOf s c) && showsUnits e.cls then { e with result := (th s c).units % 2 ^ 64 } else e
  modTh s c fun x => { x with st := .done, why := .none, cont := .nothing, ending := some e }

/-- It ends now, or when its records have committed. -/
def finishData (s : State) (c : Nat) (e : Ending) : State :=
  if (th s c).st = .faulted then s else if recsOut s c then wait s c .dma 0x100 (.ending (svWord e.cls e.detail e.offset).toNat e.result) else endData s c e

/-! ### Blocks in order (R132) -/

/-- Blocks done in order: the failure that ended them, blocks rebuilt, the first of them. -/
structure Run where
  s : State
  bad : Option Ending
  reb : Nat
  first : Nat

def overBlocks (n : Nat) (s : State) (f : State → Nat → Option Ending × Bool × State) : Run :=
  (List.range n).foldl (fun (r : Run) k =>
    if r.bad.isSome then r else
    match f r.s k with
    | (e, reb, s) => ⟨s, e, r.reb + b2n reb, if reb && r.reb = 0 then k else r.first⟩) ⟨s, none, 0, 0⟩

/-- OK or OK_REBUILT with a RESULT (R144). -/
def Run.okEnd (r : Run) (res : Nat) : Ending :=
  if r.reb = 0 then ⟨0, 0, none, res⟩ else ⟨1, min 255 r.reb, some r.first, res⟩

def Run.ending (r : Run) : Ending := r.bad.getD (r.okEnd 0)

/-- A failure at block `k` (R144: a thread fault's status has no OFFSET). -/
def failBlk (cls detail k res : Nat) : Ending := ⟨cls, detail, if cls = 0x41 then none else some k, res⟩

/-- Host memory fails the transfer of block `j` (R101, R103). -/
def struck (s : State) (c j : Nat) (x : DataIn) (write : Bool) : Option Nat :=
  match x.fail with
  | some (i, d) =>
    if i = j && dmaFails s c d write then some d else none
  | none => none

/-! ### Reading one block -/

/-- A block as read: its location KIND, plaintext, protection information, rebuilt or not; or CLASS, DETAIL and RESULT, which a thread
that faulted does not deliver. -/
inductive BlkRes
  | ok (kind : Nat) (d p : List Byte) (reb : Bool)
  | bad (cls detail res : Nat)

/-- A map line that the handler reads, in its home slice (R25, R239): a line that misses arrives with what DRAM holds, where `e` says what the
codes find. The answer says whether it meets an uncorrectable error. -/
def lineNow (s : State) (c l : Nat) (e : MErr) : Bool × State :=
  match access (spoil s (if e = .ok then [] else [(l, e)])) c l with
  | (.hit, s) => (false, s)
  | (.bad, s) => (true, s)
  | (.miss, s) => match (slice s (l % 4)).fills.find? fun f => f.line = l with
    | none => dramCheck (drainLine s l) (64 * l) 64 e 1
    | some f => fillArrives (drainLine s l) f e

/-- What the codes find for block `k` in line `i` of the list of `DataIn`. -/
def memAt (x : DataIn) (k i : Nat) : MErr := ((x.mem.find? fun e => e.1 = k && e.2.1 = i).map fun e => e.2.2).getD .ok

/-- The map lookup of block `k`: an uncorrectable error is the thread's DATA fault 0x04 (R23, R167). -/
def rowLook (s : State) (c lbn k : Nat) (x : DataIn) : Bool × State :=
  let ls := lookLines s lbn false
  let (bad, s) := (List.range ls.length).foldl (fun (a : Bool × State) i =>
    if a.1 then a else lineNow a.2 c (ls.getD i 0) (memAt x k (65 + i))) (false, s)
  if bad || decide (5 ≤ coState (coarseWord s (lbn / 256))) then (true, raise s c 0 4) else (false, s)

/-- The location word of a system block (R180, R447). -/
def locOf (s : State) (l : Nat) : Nat :=
  let i := localLbn s l
  (loadBil s (i / 256)).loc s (i % 256)

/-- The entry of page reads, with the nominal time that reads charge and take (R288, R393). -/
def readEntry : Nat := 0x10

/-- How block `k` reads from flash: HARD_OK without a corrected bit in the nominal time, unless listed. -/
def readAt (s : State) (x : DataIn) (k : Nat) : BlockRead := (x.reads.find? fun r => r.block = k).getD ⟨k, 0, 0, 0, eNom s readEntry, []⟩

/-- LIMIT, which READ, VERIFY and COMPARE know (R127). -/
def limitOf (b : Nat) : Bool := bit b 9 && [1, 6, 7].contains (bits b 0 8)

/-- A read of the entry walks: it names a table with rows and a RETRY entry, and does not take LIMIT (R299). -/
def walksFor (s : State) (limit : Bool) : Bool :=
  !limit && (retryEntry s readEntry).isSome && (match eRrt s readEntry with | some t => rrtLen s t != 0 | none => false)

/-- The slot holds a programmed page of a die that answers. -/
def slotLive (s : State) (p : Nat) : Bool :=
  (slotPart s (ppaDie p) (ppaPlane p) (ppaEblk p) (ppaPage p) (ppaSlot p)).isSome && !dieFailed s (ppaDie p)

/-- The slot is decoded without die parity: it is live, and a step that LIMIT allows decodes it (R127, R322). -/
def decodes (s : State) (p : Nat) (limit : Bool) (r : BlockRead) : Bool :=
  slotLive s p && (r.code ≤ 1 || (r.code = 2 && walksFor s limit))

/-- What the strike of one slot's read counts at its channel and die before any rebuild (R288, R297, R300, R333, R353). -/
def slotStrike (s : State) (p : Nat) (limit : Bool) (r : BlockRead) : State :=
  let ch := ppaChan p
  if !slotLive s p then s else
  let s := addWrap s (CH_MTIME_FG_COUNT ch) r.us
  let s := if (r.code = 2 || r.code = 3) && walksFor s limit then
      (List.range r.rows).foldl (fun s _ => addSat s (CH_RETRY_ROWS ch) 1) (errInc (addSat s (CH_RETRY_WALKS ch) 1) 4 1) else s
  let s := if r.code = 4 then addSat s (CH_ERR_TIMEOUT ch) 1 else s
  if decodes s p limit r then s else dieError s (ppaDie p)

/-- The slot of a flash block, with the counts and REFRESH that its read makes (R322, R323, R333, R354). The read of one block is one
strike (DESIGN CHOICE, log 54). -/
def flashSlot (s : State) (p : Nat) (limit : Bool) (r : BlockRead) : Sum (Nat × Nat × Nat) (Bool × List Byte) × State :=
  let part := slotPart s (ppaDie p) (ppaPlane p) (ppaEblk p) (ppaPage p) (ppaSlot p)
  let ch := ppaChan p
  let grp := match bandOf s p with | some b => b / nbe s | none => 0
  let ok := decodes s p limit r
  let s := slotStrike s p limit r
  if ok then
    let s := match r.code with
      | 0 => errInc (errInc s 0 1) 1 r.bits
      | 1 => errInc s 2 1
      | _ => errInc s 3 1
    let s := if r.code != 0 || getF s HELM_MEDTHR_RBER < r.bits then refreshPage s p else s
    (.inr (false, part.getD []), s)
  else
    let s := countReads s p (ppaSlot p) (walksFor s limit) r.members
    match rebuildSlot s p (ppaSlot p) ((r.members.filter fun m => m.slot = ppaSlot p && 4 ≤ m.code).map (·.member)) with
    | .ok d => (.inr (true, d), refreshPage (errIncCh s ch 8 1) p)
    | .offline => (.inl (0x31, 0, grp), errInc s 10 1)
    | .goOffline => (.inl (0x31, 0, grp), errInc (pageOffline s p) 10 1)
    | .lost => (.inl (0x30, if limit then 2 else 1, 0), if part.isSome then refreshPage (errIncCh s ch 9 1) p else s)

/-- Block `k` at system LBN `l`, volume LBA `v`: the map lookup in the home slice, then up to the checks after decryption (R25, R121,
R122, R132, R388, R389). `here` says that a zero block's tags are checked at this point. -/
def readBlock (s0 : State) (c k l v : Nat) (here : Bool) (x : DataIn) : BlkRes × State :=
  let (bad, s) := rowLook s0 c (localLbn s0 l) k x
  if bad then (.bad 0x41 0x10 0, s) else
  let b := (cx s c).block
  let q := quadOf c
  let w := locOf s l
  let z := List.replicate 4096 (0 : Byte)
  let opened := fun (s : State) (reb : Bool) (part : List Byte) =>
    let (ct, m) := flawOn (flawAt x.flaws k) (part.take 4096) (part.drop 4096)
    if bit (getF s CIP_STAT_QDOWN) q then (BlkRes.bad 0x41 0x10 0, s)
    else match openBlock (keyPage s (tenantOf s c)) l ct m with
      | none => (.bad 0x23 0 0, addSat s (CIP_ERR_AUTH q) 1)
      | some (d, p) => match flawCheck (flawAt x.flaws k) (blockCheck b true d p k) with
        | some e => (.bad e 3 0, addSat s (CIP_ERR_PI_POST q) 1)
        | none => (.ok 2 d p reb, s)
  match bits w 48 3 with
  | 0 => (.ok 0 z (List.replicate 16 0xFF) false, s)
  | 1 =>
    let p := piBytes (crc64 z) 0 (v % 2 ^ 48)
    (match (if here then blockCheck b false z p k else none) with
     | some e => .bad e 3 0
     | none => .ok 1 z p false, s)
  | 4 =>
    let f := bits w 0 20
    let found := (x.mem.filter fun e => e.1 = k && e.2.1 ≤ 64).map fun e => (e.2.1, e.2.2)
    let (err, s) := pairCheck s (.dram (aWb + 4096 * f)) (.dram (aWbMeta + 64 * f)) 0 found 2
    if err then (.bad 0x41 0x10 0, s)
    else opened s false (dramRd s (aWb + 4096 * f) 4096 ++ dramRd s (aWbMeta + 64 * f) 64)
  | _ =>
    match flashSlot s (redirect s 8 (bits w 0 48)) (limitOf b) (readAt s x k) with
    | (.inl (cls, det, res), s) => (.bad cls det res, s)
    | (.inr (reb, part), s) => opened s reb part

/-- The flash pages that hold a range of system blocks, behind the redirects. -/
def flashPages (s : State) (l n : Nat) : List Nat :=
  (List.range n).filterMap fun k =>
    let w := locOf s (l + k)
    if bits w 48 3 = 2 || bits w 48 3 = 3 then some (redirect s 8 (bits w 0 48)) else none

/-- The running erase of a die may be suspended for a read that comes now (R301). -/
def yieldsNow (s : State) (k : Strike) : Bool :=
  mayEverSuspend s k && decide (getF s (CH_SUSP_MIN_US k.chan) * 1000 ≤ s.clk.refNs - k.busyFrom)
    && (match k.script with | some x => x.wait.isSome && x.ready.isNone | none => false)

/-- A strike for the page may start: its channel drives, and its die is free or erases another block and may be suspended (R285, R287,
R301). -/
def pageFree (s : State) (p : Nat) : Bool :=
  dieFailed s (ppaDie p) || (drivers s (ppaChan p) && (!dieBusy s (ppaDie p) || (match runningErase s (ppaDie p) with
    | some (_, k) => yieldsNow s k && !(ppaEblk k.ppa = ppaEblk p && decide (ppaPlane k.ppa ≤ ppaPlane p)
        && decide (ppaPlane p < ppaPlane k.ppa + strikePlanes s k))
    | none => false)))

/-- The erases of the dies that the reads come to are suspended for them, each once (R301). -/
def suspendFor (s : State) (ps : List Nat) : State :=
  (ps.map ppaDie).dedup.foldl (fun s d => match runningErase s d with
    | some (i, k) => if dieFailed s d then s else setStrike (addSat s (CH_SUSPCNT_SUSPENSIONS k.chan) 1) i (some { k with susps := k.susps + 1 })
    | none => s) s

/-- No block of the range lies in the commit window or in a map segment not yet loaded, none waits for its stripe to close or for a strike
of its die to end (R221, R287, R354, R439). -/
def readable (s : State) (c l n : Nat) (x : DataIn) : Bool :=
  ((List.range n).all fun k =>
    let p := redirect s 8 (bits (locOf s (l + k)) 0 48)
    let kd := bits (locOf s (l + k)) 48 3
    !inWindow s (localLbn s (l + k) / 256)
      && !((lookLines s (localLbn s (l + k)) false).any fun m => s.map.toLoad.contains (segOf (64 * m)))
      && !((kd = 2 || kd = 3) && !decodes s p (limitOf (cx s c).block) (readAt s x k) && rebuildHeld s p))
    && (flashPages s l n).all (pageFree s)

/-- Buffers granted to a thread for blocks it has not placed yet: of the pool, or for a general one of a larger pool too (R257). -/
def grants (s : State) (c pool : Nat) (wb : Bool) : List Nat :=
  s.buf.bufs.filterMap fun e => match e.2 with
    | some b => if b.wb = wb && (if wb then b.pool = pool else pool ≤ b.pool) && b.holders = [c] && b.owner = c && !b.shared then some e.1 else none
    | none => none

/-- `n` buffers of a pool for the thread, those it was granted before among them: whether it has them all, and what it has in either case
(R257, R258, R263). -/
def draw (s : State) (c pool n : Nat) (wb : Bool) : Bool × State :=
  (List.range (n - (grants s c pool wb).length)).foldl (fun a _ =>
    if !a.1 then a else match newAlloc a.2 c pool wb with
      | some (_, s) => (true, s)
      | none => (false, serveBufs a.2)) (true, s)

/-- The thread parks for a buffer (R258, R263). -/
def parkFrames (s : State) (c pool : Nat) (wb : Bool) : State :=
  wait (addSat { s with buf := { s.buf with reqs := s.buf.reqs ++ [⟨c, pool, wb, false⟩] } } BUF_FBCNT_PARKS 1) c .buffer pool .charged

/-- Blocks that lie in flash are read through a P0 buffer of the thread's quadrant, which is free again behind them; without one the thread
parks. Erases in their way are suspended (R25, R258, R301). -/
def throughBuf (s : State) (c l n : Nat) (run : State → State) : State :=
  match flashPages s l n with
  | [] => run s
  | ps => match draw s c 0 1 false with
    | (false, s) => parkFrames s c 0 false
    | (true, s) => run (suspendFor s ps)

/-- The buffer of `throughBuf` is free. -/
def freeRead (s : State) (c : Nat) : State := (grants s c 0 false).foldl freeBuf s

/-- The first system LBN of a volume range. -/
def sysBase (s : State) (v lba : Nat) : Nat := 256 * volBase (volEnt s v) + lba

/-- The media time that a data command charges: the nominal time of the page-read entry for each block read, none for writes (R393). -/
def mediaCharge (s : State) (o n : Nat) : Nat := if [1, 6, 7, 8, 9].contains o then eNom s readEntry * n else 0

/-- A whole-command row: step by step what a handler does with opcode `o` (R131). The command of an ARMED context is checked and charged; one
whose charge was parked goes on when it has been made; one whose records are on their way ends when they have committed. One that waits for
overlay or tail space, or parked for a buffer or a lock, goes on where it stood. `run` answers none while it must wait. -/
def dataRow (o c : Nat) (run : State → Option State) (s : State) : Res :=
  let x := th s c
  if !(isHost c && anvilMode s && opcOf s c = o) then .next s
  else match x.st, x.cont with
  | .waiting, .ending st res =>
    act (x.why = .dma && (openTag x).isNone && (openXfer x).isNone && !recsOut s c) s (endData s c (endingOf st res))
  | .ready, _ => .next (if x.charged then (run s).getD s else s)
  | .waiting, .charged => .next ((run s).getD s)
  | .armed, _ =>
    let s1 := { setTh (tick s) c (dispatched s c) with strides := s.strides.filter fun e => e.1 / 8 != c }
    .next (match dataFault s1 c with
    | some e => endData s1 c e
    | none =>
      let n := bNblk (cx s c).block + 1
      let us := mediaCharge s o n
      let s2 := if [2, 8, 9].contains o then { s1 with md := { s1.md with reserved := mset 0 s1.md.reserved c n } } else s1
      if chargeFits s2 c 1 (4096 * n) us then
        let s3 := modTh (makeCharge s2 c 1 (4096 * n) us) c fun x => { x with charged := true }
        (run s3).getD s3
      else parkCharge s2 c 1 (4096 * n) us .charged)
  | _, _ => .next s

/-! ### READ, VERIFY, COMPARE -/

/-- A block goes to the host: the checks at egress, then data and, with PIX, protection information (R119, R388). -/
def sendBlock (s : State) (c k : Nat) (x : DataIn) (kind : Nat) (d p : List Byte) : Option Ending × State :=
  let b := (cx s c).block
  match (if kind = 0 then none else blockCheck b (bGuard b) d p k) with
  | some e => (some (failBlk e 4 k 0), addSat s CIP_PIX_EGRESS 1)
  | none => match struck s c k x true with
    | some f => (some (failBlk 0x50 f k 0), s)
    | none =>
      let s := send s (.hostWrite (cx s c).port (pasidOf s c) (bDaddr b + 4096 * k) d)
      (none, if bPix b then send s (.hostWrite (cx s c).port (pasidOf s c) (bMaddr b + 16 * k) p) else s)

/-- READ (R119). -/
def execRead (c : Nat) (x : DataIn) (s : State) : Res :=
  dataRow 1 c (fun s =>
    let b := (cx s c).block
    let l := sysBase s (bVol b) (bSlba b)
    if !readable s c l (bNblk b + 1) x then none else some <|
    throughBuf s c l (bNblk b + 1) fun s =>
    let r := overBlocks (bNblk b + 1) s fun s k =>
      match readBlock s c k (l + k) (bSlba b + k) false x with
      | (.bad cls det res, s) => (some (failBlk cls det k res), false, s)
      | (.ok kind d p reb, s) => match sendBlock s c k x kind d p with | (e, s) => (e, reb, s)
    endData r.s c r.ending) s

/-- VERIFY (R119). -/
def execVerify (c : Nat) (x : DataIn) (s : State) : Res :=
  dataRow 6 c (fun s =>
    let b := (cx s c).block
    let l := sysBase s (bVol b) (bSlba b)
    if !readable s c l (bNblk b + 1) x then none else some <|
    throughBuf s c l (bNblk b + 1) fun s =>
    let r := overBlocks (bNblk b + 1) s fun s k =>
      match readBlock s c k (l + k) (bSlba b + k) true x with
      | (.bad cls det res, s) => (some (failBlk cls det k res), false, s)
      | (.ok _ _ _ reb, s) => (none, reb, s)
    endData r.s c r.ending) s

/-- Block `k` of what host memory returns: data and protection information. -/
def hostData (x : DataIn) (k : Nat) : List Byte := padTo 0 4096 ((x.data.drop (4096 * k)).take 4096)
def hostPi (x : DataIn) (k : Nat) : List Byte := padTo 0 16 ((x.pis.drop (16 * k)).take 16)

/-- The index of the first byte of `a` that differs from `b`, the first being number `i`. -/
def diffFrom (i : Nat) : List Byte → List Byte → Option Nat
  | [], _ => none
  | x :: a, b => if x != b.headD 0 then some i else diffFrom (i + 1) a b.tail

def firstDiff (a b : List Byte) : Option Nat := diffFrom 0 a b

/-- RESULT of the first difference of block `k` of the command (R144). -/
def miscompare (pix : Bool) (k : Nat) (d p hd hp : List Byte) : Option Nat :=
  match firstDiff d hd with
  | some i => some (4096 * k + i)
  | none => if pix then (firstDiff p hp).map fun i => 2 ^ 63 + 16 * k + i else none

/-- Stored blocks against the first blocks of host memory, for COMPARE and COMPARE_AND_WRITE. -/
def compareBlocks (s : State) (c : Nat) (x : DataIn) : Run :=
  let b := (cx s c).block
  let l := sysBase s (bVol b) (bSlba b)
  overBlocks (bNblk b + 1) s fun s k =>
    match readBlock s c k (l + k) (bSlba b + k) true x with
    | (.bad cls det res, s) => (some (failBlk cls det k res), false, s)
    | (.ok _ d p reb, s) =>
      match struck s c k x false with
      | some f => (some (failBlk 0x50 f k 0), reb, s)
      | none => ((miscompare (bPix b) ((partOf s c).1 + k) d p (hostData x k) (hostPi x k)).map fun r => failBlk 0x24 0 k r, reb, s)

/-- COMPARE (R119). -/
def execCompare (c : Nat) (x : DataIn) (s : State) : Res :=
  dataRow 7 c (fun s =>
    let b := (cx s c).block
    let l := sysBase s (bVol b) (bSlba b)
    if !readable s c l (bNblk b + 1) x then none else some <|
    throughBuf s c l (bNblk b + 1) fun s =>
    let r := compareBlocks s c x
    endData r.s c r.ending) s

/-! ### Writing (R134, R135, R217) -/

def Put.isData : Put → Bool
  | .data _ _ => true
  | _ => false

/-- A billet whose lock another thread holds, or that a range lock covers. -/
def lockBusy (s : State) (c i : Nat) : Bool :=
  inRange s i || (match lockHolder s i with | some t => t != c | none => false)

/-- Local billets of `n` system blocks from `l`. -/
def billetsOf (s : State) (l n : Nat) : List Nat := ((List.range n).map fun k => localLbn s (l + k) / 256).dedup

/-- Blocks sealed into their frames with one generation, as the cipher units leave them; `k0` is the first block's number (R195, R214, R372). -/
def sealInto (s : State) (l gen : Nat) (ks : KeySet) (kver k0 : Nat) (flaws : List CipherFlaw) (fs : List Nat) (puts : List Put) : State :=
  ((List.range puts.length).foldl (fun (a : State × List Nat) k =>
    match puts.getD k .unmap, a.2 with
    | .data d p, f :: fs =>
      let (ct, m) := sealBlock ks kver (l + k) gen d p
      let (ct, m) := flawOn (flawAt flaws (k0 + k)) ct m
      (dramWr (dramWr a.1 (aWb + 4096 * f) ct) (aWbMeta + 64 * f) m, fs)
    | _, _ => a) (s, fs)).1

/-- The entries of a unit (R217). -/
def unitEnts (s : State) (l gen : Nat) (whole : Bool) (fs : List Nat) (puts : List Put) : List Staged :=
  if whole then [⟨localLbn s l, .coarse, fs.headD 0 + 4 * 2 ^ 48, true, gen, false⟩]
  else ((List.range puts.length).foldl (fun (a : List Staged × List Nat) k =>
    match puts.getD k .unmap, a.2 with
    | .data _ _, f :: fs => (a.1 ++ [⟨localLbn s (l + k), .fine, f + 4 * 2 ^ 48, true, gen, false⟩], fs)
    | .zero, fs => (a.1 ++ [⟨localLbn s (l + k), .zero, 0, false, gen, false⟩], fs)
    | _, fs => (a.1 ++ [⟨localLbn s (l + k), .unmap, 0, false, gen, false⟩], fs)) ([], fs)).1

/-- How the placing of a unit ends: placed, stopped with an ending, or by a fault of the thread. -/
inductive UnitRes
  | placed
  | stop (e : Ending)
  | fault
  /-- the write buffer has no buffer of the pool (R263) -/
  | park (pool : Nat)
  /-- no overlay space (`ovl`) or tail space for its record (R211, R220) -/
  | hold (ovl : Bool)
  /-- another thread holds the billet's lock (R192) -/
  | busy (i : Nat)
  /-- the next generation may not be used yet (R427) -/
  | gen

/-- The thread holds the locks of billets that are free (R192). -/
def lockAll (s : State) (c : Nat) (l : List Nat) : State :=
  l.foldl (fun s i => if (th s c).locks.any (fun x => x.1 = i) then s else takeLock s c i) s

/-- The granted buffers now hold a unit's blocks. -/
def useBufs (s : State) (hs : List Nat) : State :=
  hs.foldl (fun s h => match bufAt s h with | some b => setBuf s h (some { b with shared := true }) | none => s) s

/-- The write-buffer frames of buffers, in order. -/
def framesOf (s : State) (hs : List Nat) : List Nat :=
  hs.flatMap fun h => match bufAt s h with | some b => (List.range (frames b.pool)).map (wbFrame b) | none => []

/-- The pool that a unit's data takes its buffers from, and how many: one P3 for a whole billet, else P2s of 16 frames (R217). -/
def unitBufs (l : Nat) (puts : List Put) : Nat × Nat :=
  let nd := (puts.filter Put.isData).length
  if nd = 256 && l % 256 = 0 then (3, 1) else (2, ceilDiv nd 16)

/-- The first block of a unit that fails the check before encryption (R388). -/
def preCheck (s : State) (c k0 : Nat) (flaws : List CipherFlaw) (puts : List Put) : Option (Nat × Nat) :=
  (List.range puts.length).findSome? fun k => match puts.getD k .unmap with
    | .data d p => (flawCheck (flawAt flaws (k0 + k)) (blockCheck (cx s c).block true d p (k0 + k))).map fun e => (e, k0 + k)
    | _ => none

/-- One unit of `puts` from system LBN `l`, its first block being block `k0` of the thread's range: locks, frames, cipher, record
(R195, R217, R220, R374). Its billets stay locked while its record waits for space, for the partner or for another position. -/
def placeUnit (s : State) (c u k0 l : Nat) (last : Bool) (flaws : List CipherFlaw) (puts : List Put) : UnitRes × State :=
  let n := puts.length
  let bs := billetsOf s l n
  let (pool, nb) := unitBufs l puts
  let kp := keyPage s (tenantOf s c)
  let q := quadOf c
  match bs.find? (lockBusy s c) with
  | some i => (.busy i, s)
  | none => match draw s c pool nb true with
    | (false, s) => (.park pool, s)
    | (true, s) =>
      if !genReady s then (.gen, s)
      else if nb != 0 && !kp.writable then (.fault, raise s c 2 2)
      else if nb != 0 && bit (getF s CIP_STAT_QDOWN) q then (.stop (failBlk 0x41 0x10 k0 0), s)
      else match preCheck s c k0 flaws puts with
      | some (e, k) => (.stop (failBlk e 2 k 0), addSat s (CIP_ERR_PI_PRE q) 1)
      | none =>
        let hs := (grants s c pool true).take nb
        let fs := framesOf s hs
        let staged := fun g => unitEnts s l g (pool = 3) fs puts
        let (bad, s) := commitErrs s (staged 0)
        if bad then (.fault, raise s c 0 4) else
        let es := (staged 0).map (entOf s)
        if !overlayRoom s c es then (.hold true, lockAll s c bs)
        else if !ringRoom s (64 + 24 * es.length) then (.hold false, lockAll (keepSpace s c es) c bs)
        else
          let (g, s) := takeGen (useBufs (lockAll s c bs) hs)
          let s := match kp.ver kp.wver with | some ks => sealInto s l g ks kp.wver k0 flaws fs puts | none => s
          match commitEnts s c u last ((staged g).map (entOf s)) with
          | (_, _, s) => (.placed, if recsOut s c || (th s c).work.isSome then s else dropLocks s c)

/-- The blocks of a unit from their source, or the failure of the first that fails. -/
def unitPuts (s : State) (lo n : Nat) (src : State → Nat → Sum Ending Put × State) : Sum Ending (List Put) × State :=
  (List.range n).foldl (fun (a : Sum Ending (List Put) × State) k => match a with
    | (.inr l, s) => (match src s (lo + k) with
      | (.inl e, s) => (.inl e, s)
      | (.inr p, s) => (.inr (l ++ [p]), s))
    | r => r) (.inr [], s)

/-- The units of a command, or of a part of one, in ascending order from the first not yet placed (R134). -/
def writeUnits (s : State) (c : Nat) (flaws : List CipherFlaw) (src : State → Nat → Sum Ending Put × State) : UnitRes × State :=
  let b := (cx s c).block
  let n := bNblk b + 1
  let off := (partOf s c).1
  let l := sysBase s (bVol b) (bSlba b)
  let top := (off + n - 1) / 256
  (List.range (top + 1 - off / 256 - (th s c).unitAt)).foldl (fun (a : UnitRes × State) _ => match a with
    | (.placed, s) =>
      let u := off / 256 + (th s c).unitAt
      let lo := max (256 * u) off - off
      let hi := min (256 * u + 256) (off + n) - off
      (match unitPuts s lo (hi - lo) src with
       | (.inl e, s) => (.stop e, s)
       | (.inr ps, s) => (match placeUnit s c u lo (l + lo) (u = top) flaws ps with
         | (.placed, s) => (.placed, modTh s c fun x => { x with unitAt := x.unitAt + 1 })
         | r => r))
    | r => r) (.placed, s)

/-- The thread waits for overlay or tail space; each wait for overlay space counts once (R211). -/
def holdUnit (s : State) (c : Nat) (ovl : Bool) : State :=
  if (th s c).st = .waiting then s
  else wait (if ovl then addSat s MAP_OVL_WAIT_COUNT 1 else s) c .dma 0x100 .charged

/-- The thread parks for a billet's lock (R192). -/
def waitLock (s : State) (c i : Nat) : State := wait s c .lock i .charged

/-- The units of a command from their source, and its end with `e` when all are placed; where one must wait, the thread waits there. -/
def runUnits (s : State) (c : Nat) (e : Ending) (flaws : List CipherFlaw) (src : State → Nat → Sum Ending Put × State) : State :=
  match writeUnits s c flaws src with
  | (.placed, s) => serveBufs (finishData s c e)
  | (.stop e, s) => serveBufs (finishData s c e)
  | (.fault, s) => serveBufs s
  | (.park pool, s) => parkFrames s c pool true
  | (.hold ovl, s) => holdUnit s c ovl
  | (.busy i, s) => waitLock s c i
  | (.gen, s) => modTh s c fun x => { x with st := .ready, why := .none, cont := .nothing }

/-- What a COPY or COMPARE_AND_WRITE has read is written (R124, R125). -/
def runWork (s : State) (c : Nat) (flaws : List CipherFlaw) : Option State :=
  (th s c).work.map fun w => runUnits s c w.ending flaws fun s k => (.inr (w.puts.getD k .unmap), s)

/-- Block `k` from host memory, `j` its place there, with the checks at ingress (R117, R388). -/
def fromHost (c : Nat) (x : DataIn) (k j : Nat) (s : State) : Sum Ending Put × State :=
  let b := (cx s c).block
  match struck s c j x false with
  | some f => (.inl (failBlk 0x50 f k 0), s)
  | none =>
    let d := hostData x j
    let p := if bPix b then hostPi x j else piBytes (crc64 d) (blkField b 20 2) (bTag b k)
    match (if bPix b then blockCheck b (bGuard b) d p k else none) with
    | some e => (.inl (failBlk e 1 k 0), addSat s CIP_PIX_INGRESS 1)
    | none => (.inr (.data d p), s)

/-- WRITE (R119). -/
def execWrite (c : Nat) (x : DataIn) (s : State) : Res :=
  dataRow 2 c (fun s => some (runUnits s c ⟨0, 0, none, 0⟩ x.flaws fun s k => fromHost c x k k s)) s

/-- WRITE_ZEROES (R122). -/
def execWriteZeroes (c : Nat) (el : Elapse) (s : State) : Res :=
  dataRow 3 c (fun s => some (runUnits s c ⟨0, 0, none, 0⟩ [] fun s _ => (.inr .zero, s))) (elapse s el)

/-- TRIM (R121). -/
def execTrim (c : Nat) (el : Elapse) (s : State) : Res :=
  dataRow 4 c (fun s => some (runUnits s c ⟨0, 0, none, 0⟩ [] fun s _ => (.inr .unmap, s))) (elapse s el)

/-- The blocks of a command's second buffer half, or the failure of the first that fails (R125). -/
def hostPuts (s : State) (c : Nat) (x : DataIn) (n : Nat) : Sum Ending (List Put) × State :=
  unitPuts s 0 n fun s k => fromHost c x k (n + k) s

/-- COMPARE_AND_WRITE (R125): its billets are locked from the comparison to the commit of what it writes. -/
def execCompareAndWrite (c : Nat) (x : DataIn) (s : State) : Res :=
  dataRow 8 c (fun s =>
    if (th s c).work.isSome then runWork s c x.flaws else
    let b := (cx s c).block
    let n := bNblk b + 1
    let l := sysBase s (bVol b) (bSlba b)
    let bs := billetsOf s l n
    match bs.find? (lockBusy s c) with
    | some i => some (waitLock s c i)
    | none =>
      if !readable s c l n x then none else some <|
      throughBuf (lockAll s c bs) c l n fun s =>
      let r := compareBlocks s c x
      let s := freeRead r.s c
      match r.bad with
      | some e => endData s c e
      | none => match hostPuts s c x n with
        | (.inl e, s) => endData s c e
        | (.inr ps, s) =>
          let s := modTh s c fun y => { y with work := some ⟨ps, r.okEnd 0⟩ }
          (runWork s c x.flaws).getD s) s

/-- The blocks of a COPY's source, each as its destination takes it (R124). -/
def copyBlocks (s : State) (c : Nat) (x : DataIn) : Run × List Put :=
  let b := (cx s c).block
  let l := sysBase s (bAux b) (bArg b)
  (List.range (bNblk b + 1)).foldl (fun (a : Run × List Put) k =>
    if a.1.bad.isSome then a else
    match readBlock a.1.s c k (l + k) (bArg b + k) true x with
    | (.bad cls det res, s) => ({ a.1 with s := s, bad := some (failBlk cls det k res) }, a.2)
    | (.ok kind d p reb, s) =>
      ({ a.1 with s := s, reb := a.1.reb + b2n reb, first := if reb && a.1.reb = 0 then k else a.1.first },
       a.2 ++ [if kind = 0 then .unmap else if kind = 1 then .zero else .data d p])) ((⟨s, none, 0, 0⟩ : Run), [])

/-- COPY (R124): every source block is read before any destination block is written. In a cascade the source is read here, at the local
place that its LBN computes to: the spec gives no way to a source on another position (DESIGN CHOICE, log 143). -/
def execCopy (c : Nat) (x : DataIn) (s : State) : Res :=
  dataRow 9 c (fun s =>
    if (th s c).work.isSome then runWork s c x.flaws else
    let b := (cx s c).block
    let l := sysBase s (bAux b) (bArg b)
    if !readable s c l (bNblk b + 1) x then none else some <|
    throughBuf s c l (bNblk b + 1) fun s =>
    let (r, ps) := copyBlocks s c x
    let s := freeRead r.s c
    match r.bad with
    | some e => endData s c e
    | none =>
      let s := modTh s c fun y => { y with work := some ⟨ps, r.okEnd 0⟩ }
      (runWork s c x.flaws).getD s) s

/-! ### HEALTH_READ (R331, R402, R403) -/

/-- HEALTH_READ of a context. -/
def execHealthRead (c : Nat) (x : DataIn) (s : State) : Res :=
  dataRow 0x0A c (fun s =>
    let b := (cx s c).block
    let r := overBlocks (bNblk b + 1) s fun s' k =>
      match struck s' c k x true with
      | some f => (some (failBlk 0x50 f k 0), false, s')
      | none => (none, false, send s' (.hostWrite (cx s' c).port (pasidOf s' c) (bDaddr b + 4096 * k)
          (healthPage s (bindOf s c).tenant (c == adminCtx s) (bits (bArg b) 0 8 + k))))
    some (endData (stamped r.s srcHealth) c r.ending)) s

end Sys2Proof.Machine
end

