-- ==== Sys2Proof/Machine/Ports.lean ====
section
/-! DEFINITION. The PCIe ports: task-register writes and aborts, translation, page requests, DMA errors, links and requests that
are turned away (R86 to R108, R113, R142, R158). -/
namespace Sys2Proof.Machine
open Sys2Proof

/-! ### Task-register writes (R24, R90, R96, R97, R113, R449) -/

/-- What a write that was accepted does beside the state word: a wake from BANKED (R75), and at a cascade's master its parts. -/
def acceptedBlock (s : State) (c : Nat) : State := splitCommand (wake s) c

/-- TASK_REGISTER_WRITE through port `p`: `whole` says that it covers exactly the task register block of context `c`. -/
def execTaskRegisterWrite (p : Nat) (form : WForm) (c block : Nat) (whole : Bool) (poison : Option Nat) (s : State) : Res :=
  act (portUp s p && decide (c < 4096)) s <|
    let d := form = .dmwr
    if flag s (HLV_STAT_CFG_ONLY p) then (if d then send s (.unsupported p) else s)
    else if !whole then (if d then send s (.unsupported p) else addSat s (HLV_MALFORMED_COUNT p) 1)
    else if let some hdr := poison then logEv (if d then send s (.dmwr p c 2) else aerError s p 12 hdr) 0 11 [c]
    else
      let (o, s') := acceptBlock s c p (block % 2 ^ 512)
      if o = 1 then acceptedBlock (if d then send s' (.dmwr p c 0) else s') c
      else if d then addSat (send s' (.dmwr p c 1)) (HLV_REFUSED_COUNT p) 1 else s'

/-- An abort that won goes to every position that runs a part; parts not yet sent end with it (R451). -/
def abortParts (s : State) (c : Nat) : State :=
  if (partsOf s c).isEmpty then s else
  let out := (partsOf s c).filter fun x => x.sent && x.done.isNone && x.pos != s.boot.cas
  let s := setParts s c ((partsOf s c).map fun x => if !x.sent && x.done.isNone then { x with done := some ⟨0x40, 0, none, 0⟩ } else x)
  joinParts (out.foldl (fun s x => send s (.cascade x.pos 6 [c])) s) c

/-- CTX_ABORT_WRITE (R141, R142). -/
def execCtxAbortWrite (p c seq : Nat) (s : State) : Res :=
  act (portOpen s p && decide (c < 4096)) s <|
    let won := (cx s c).abPend
    let s' := abortWrite s c (seq % 2 ^ 16)
    if (cx s' c).abPend && !won then abortParts s' c else s'

/-! ### Host memory faults (R101, R103) -/

/-- The port whose host memory a thread's DMA addresses: the command's; port A for an internal thread (R90). -/
def dmaPort (s : State) (t : Nat) : Nat := if isHost t then (cx s t).port else 0

def setXfer (s : State) (t n : Nat) (y : Option Xfer) : State := modTh s t fun x => { x with xfers := mset none x.xfers n y }

/-- A DMA fails: its transfer ends HOST_MEMORY_FAULT at the frame it struck (R132, R194), and the handler completes the command with
that status (DEDUCED, log 27). -/
def hostFault (s : State) (t n detail : Nat) : State :=
  match xferAt (th s t) n with
  | some y => endXfer (setXfer s t n (some { y with page := none })) t n (xferFail 0x50 detail (y.pos / 4096))
  | none => s

/-- A host transfer under way: XIN or XOUT, neither ended nor stopped. -/
def hostXfer (s : State) (t n : Nat) : Option Xfer :=
  (liveXfer s t n).filter fun y => y.kind = .xin || y.kind = .xout

/-- The transfer of `d` moves to `d.upto` bytes; it ends at the first frame that fails its checks. -/
def moveDma (s : State) (d : DmaPart) (y : Xfer) : Bool × State :=
  let hi := min (max y.pos d.upto) (4096 * ctlCount (y.w.getD 2 0))
  let (e, s) := moveTo s d.t y y.pos hi d.data d.pis d.errs
  match e with
  | some v => (true, endXfer s d.t d.n v)
  | none => (false, setXfer s d.t d.n (some { y with pos := hi }))

/-! ### Page requests (R101, R155, R158) -/

/-- A group index of a port that is free. -/
def freeIndex (s : State) (p : Nat) : Option Nat := (List.range 512).find? fun i => (mget none (port s p).groups i).isNone

/-- The page request of a stopped transfer goes out under an index. -/
def askPage (s : State) (p i t n addr : Nat) (wr : Bool) : State :=
  let x := port s p
  let s := setPort s p { x with groups := mset none x.groups i (some (t, n, s.clk.refNs)) }
  let s := match xferAt (th s t) n with
    | some y => setXfer s t n (some { y with page := some (i, addr) })
    | none => s
  send s (.pageReq p i (if isHost t then pasidOf s t else 0) addr wr)

/-- Threads that wait for an index take the free ones in order of arrival. -/
def servePages (s : State) (p : Nat) : State :=
  (port s p).waiters.foldl (fun s (w : Nat × Nat) =>
    if (port s p).noPages || !flag s (HLV_STAT_ATS_EN p) then s else
    match freeIndex s p with
    | none => s
    | some i =>
      let s := setPort s p { port s p with waiters := (port s p).waiters.filter (· != w) }
      match xferAt (th s w.1) w.2 with
      | some y => askPage s p i w.1 w.2 ((y.page.map Prod.snd).getD 0) (y.kind = .xout)
      | none => s) s

/-- A transfer stops at a page that gives no access: the thread that waits for it parks with reason PAGEREQ; without a free index,
or while page requests are stopped, it joins the port's waiters (R101; DESIGN CHOICE, log 28, for the second). -/
def pageStop (s : State) (t n addr : Nat) : State :=
  let p := dmaPort s t
  let s := match xferAt (th s t) n with
    | some y => setXfer s t n (some { y with page := some (512, addr) })
    | none => s
  let s := if (th s t).st = .waiting && (th s t).why = .dma && (th s t).arg = n then
      modTh s t fun x => { x with st := .parked, why := .pagereq, lastWhy := .pagereq, arg := addr, sinceNow := s.clk.now,
                                  sinceRef := s.clk.refNs }
    else s
  servePages (setPort s p { port s p with waiters := (port s p).waiters ++ [(t, n)] }) p

/-- A translation of 4 KiB to 1 GiB for a thread's address enters the port's cache of 8,192 entries, the oldest leaving it (R86; DESIGN CHOICE, log 112). -/
def cacheTrans (s : State) (p t a size : Nat) : State :=
  let x := port s p
  let z := min 30 (max 12 size)
  let e := (if isHost t then pasidOf s t else 0, a / 2 ^ z * 2 ^ z, z)
  let l := x.atc.filter (· != e) ++ [e]
  setPort s p { x with atc := l.drop (l.length - 8192) }

/-- TRANSLATION_COMPLETION (R101): the transfer has reached `d.upto`, and the translation of the next byte (of protection
information with `meta_`) arrives. -/
def execTranslationCompletion (d : DmaPart) (meta_ : Bool) (x : Xlate) (s : State) : Res :=
  match hostXfer s d.t d.n with
  | none => .next s
  | some y =>
    act (portUp s (dmaPort s d.t) && flag s (HLV_STAT_ATS_EN (dmaPort s d.t))) s <|
      let (fin, s') := moveDma s d y
      let at_ := min (max y.pos d.upto) (4096 * ctlCount (y.w.getD 2 0))
      let a := (if meta_ then y.w.getD 1 0 + 16 * (at_ / 4096) else y.w.getD 0 0 + at_) / 4096 * 4096
      if fin then s'
      else match x with
        | .access z => cacheTrans s' (dmaPort s d.t) d.t a z
        | .noAccess => pageStop s' d.t d.n a

/-- The transfer goes on at the byte reached; its thread, parked for it, is READY again and waits on when it runs (R155, R158). -/
def pageResume (s : State) (t n : Nat) : State :=
  let a := ((xferAt (th s t) n).bind fun y => y.page.map Prod.snd).getD 0
  let s := match xferAt (th s t) n with
    | some y => setXfer s t n (some { y with page := none })
    | none => s
  let k := (th s t).cont
  if (th s t).why = .pagereq && (th s t).arg = a then
    modTh (toReady s t) t fun x => { x with cont := if k = .again then .nothing else k }
  else s

/-- A group index ends: the transfer that held it, and the next waiter is served. -/
def endIndex (s : State) (p i : Nat) (f : State → Nat → Nat → State) : State :=
  let x := port s p
  match mget none x.groups i with
  | none => s
  | some (t, n, _) =>
    let s := setPort s p { x with groups := mset none x.groups i none }
    let s := if t = 9999 || ((xferAt (th s t) n).map fun y => y.page.isSome) != some true then s else f s t n
    servePages s p

/-- PAGE_REQUEST_RESPONSE (R101). -/
def execPageRequestResponse (p i : Nat) (r : PageResp) (s : State) : Res :=
  act (portUp s p && decide (i < 512) && (mget none (port s p).groups i).isSome) s <|
    match r with
    | .success (.access z) => endIndex s p i fun s t n =>
        pageResume (cacheTrans s p t (((xferAt (th s t) n).bind fun y => y.page.map Prod.snd).getD 0) z) t n
    | .success .noAccess => endIndex s p i fun s t n => hostFault s t n 4
    | .invalid => endIndex s p i fun s t n => hostFault s t n 1
    | .failure =>
      let late := (mget none (port s p).groups i).any fun e => e.1 = 9999
      endIndex (if late then s else setPort s p { port s p with noPages := true }) p i fun s t n => hostFault s t n 2

/-- A group index ends for its transfer and stays taken until the response, which is then ignored (R101, R159; log 48). -/
def dropIndex (s : State) (p i t n at_ : Nat) (f : State → Nat → Nat → State) : State :=
  let x := port s p
  let s := setPort s p { x with groups := mset none x.groups i (some (9999, n, at_)) }
  if ((xferAt (th s t) n).map fun y => y.page.isSome) != some true then s else f s t n

/-- PAGE_REQUEST_TIMEOUT (R101): 1 s without a response. -/
def execPageRequestTimeout (p i : Nat) (el : Elapse) (s0 : State) : Res :=
  let s := elapse s0 el
  match mget none (port s p).groups i with
  | none => .next s
  | some (t, n, at_) => act (t != 9999 && decide (at_ + 1000000000 ≤ s.clk.refNs)) s (dropIndex s p i t n at_ fun s t n => hostFault s t n 3)

/-- ATS_INVALIDATION of `len` bytes from `addr` (R102): the transfers that use the translation have brought in what they expected
under it; they go on at the next byte with a new translation. -/
def execAtsInvalidation (p tag : Nat) (r : InvalReq) (s : State) : Res :=
  act (portUp s p && flag s (HLV_STAT_ATS_EN p)) s <|
    let s := r.ds.foldl (fun s d => match hostXfer s d.t d.n with
      | some y => if dmaPort s d.t = p then (moveDma s d y).2 else s
      | none => s) s
    let x := port s p
    let gone := fun (e : Nat × Nat × Nat) => e.1 = r.pasid && decide (r.addr < e.2.1 + 2 ^ e.2.2) && decide (e.2.1 < r.addr + r.len)
    send (setPort s p { x with atc := x.atc.filter fun e => !gone e }) (.invalDone p tag)

/-- Transfers of a port that are stopped at a page. -/
def stoppedXfers (s : State) (p : Nat) : List (Nat × Nat) :=
  s.thr.flatMap fun e => if dmaPort s e.1 != p then [] else e.2.xfers.filterMap fun y => match y.2 with
    | some z => if z.page.isSome && !z.ended then some (e.1, y.1) else none
    | none => none

/-- ATS is disabled: the port's translations go, and transfers stopped at a page go on with untranslated addresses; an index they
hold stays taken until its response (R101, R159; DESIGN CHOICE, log 102). -/
def atsOff (s : State) (p : Nat) : State :=
  let l := stoppedXfers s p
  let x := port s p
  let s := setPort s p { x with waiters := [], atc := [], groups := x.groups.map fun g => (g.1, g.2.map fun (_, n, at_) => (9999, n, at_)) }
  l.foldl (fun s y => pageResume s y.1 y.2) s

/-- ATS_ENABLE (R101): with ATS enabled again, page requests that were stopped go out. -/
def execAtsEnable (p : Nat) (on : Bool) (s : State) : Res :=
  act (portUp s p) s <|
    let s := setF s (HLV_STAT_ATS_EN p) (b2n on)
    if on then servePages (setPort s p { port s p with noPages := false }) p else atsOff s p

/-! ### DMA read errors (R103) -/

/-- The detail of a failed DMA read. -/
def hostErrDetail : HostErr → Nat
  | .ur => 5 | .ca => 6 | .poisoned => 7

/-- A DMA read fails after `d.upto` bytes. -/
def readFails (s : State) (d : DmaPart) (y : Xfer) (detail : Nat) : State :=
  let (fin, s') := moveDma s d y
  if fin then s' else hostFault s' d.t d.n detail

/-- DMA_READ_ERROR (R103). -/
def execDmaReadError (d : DmaPart) (e : HostErr) (s : State) : Res :=
  match hostXfer s d.t d.n with
  | none => .next s
  | some y => act (y.kind = .xin) s (readFails s d y (hostErrDetail e))

/-- DMA_COMPLETION_TIMEOUT (R103): 50 ms without a completion. -/
def execDmaCompletionTimeout (d : DmaPart) (el : Elapse) (s0 : State) : Res :=
  let s := elapse s0 el
  match hostXfer s d.t d.n with
  | none => .next s
  | some y => act (y.kind = .xin && decide (50000000 ≤ el.ns)) s (readFails s d y 8)

/-! ### Links (R88, R89, R91, R107) -/

/-- PORT_TRAINED (R88, R89): the rate code of HLV_STAT, the width, FLIT mode, and whether host software has L0p enabled. In a
cascade only the master trains its host link (R91), and in KINDLE no link trains before step 6 (R67; DEDUCED, log 140). -/
def execPortTrained (p rate width : Nat) (flit l0p : Bool) (s : State) : Res :=
  let ok := (ports s).contains p && decide (rate ≤ 3) && [1, 2, 4, 8, 16].contains width && (width != 16 || !s.boot.split)
    && (!s.boot.casEn || flag s CAS_STAT_MASTER)
  act (mode s != mOff && kindlePast s 5 && ok) s <|
    let cfg := decide (rate = 0) || !flit
    let s := setPort s p { port s p with up := true, d3hot := false, width := width }
    let s := setF (setF (setF s (HLV_STAT_RATE p) (if cfg then 0 else rate)) (HLV_STAT_WIDTH p) width) (HLV_STAT_FLIT p) (b2n flit)
    let s := setF (setF s (HLV_STAT_CFG_ONLY p) (b2n cfg)) (HLV_STAT_L0P_EN p) (b2n l0p)
    if cfg then logEv s 0 10 [p] else s

/-- Commands of a port with their end not yet written. -/
def portCmds (s : State) (p : Nat) : List Nat := threadsWhere s fun t x => isHost t && x.st != .idle && (cx s t).port = p

/-- PORT_DOWN (R91): commands short of their commit point are discarded; of none is a record written or a message sent. CFG_ONLY ends
at retraining (R89); page requests, ATS_EN and L0P_EN stay (DESIGN CHOICE, log 103). -/
def execPortDown (p : Nat) (s : State) : Res :=
  act (portUp s p) s <|
    let s := (portCmds s p).foldl (fun s c =>
      let s := modCx s c fun x => { x with portGone := true }
      if (cx s c).commit then s else discard s c 0x41 1 none) s
    let s := setPort (aerError s p 5 0) p { port (aerError s p 5 0) p with up := false, d3hot := false }
    let s := setF (setF (setF s (HLV_STAT_RATE p) 0) (HLV_STAT_WIDTH p) 0) (HLV_STAT_FLIT p) 0
    addSat s (HLV_DOWN_COUNT p) 1

/-- CORRECTABLE_LINK_ERROR (R107): a bit of the AER correctable status. The rule names none: every kind, a FEC-corrected flit, a replay and a
receiver error, sets the receiver-error bit (DESIGN CHOICE, log 106). -/
def execCorrectableLinkError (p : Nat) (s : State) : Res :=
  act (portUp s p) s (setPort s p { port s p with aerCorr := putBits (port s p).aerCorr 0 1 1 })

/-- POISONED_POSTED_WRITE to a context page or register (R107), with the header of its TLP. -/
def execPoisonedPostedWrite (w : PoisonedWrite) (s : State) : Res :=
  act (portOpen s w.port) s (logEv (aerError s w.port 12 w.hdr) 0 11 [])

/-- A request is counted as malformed on its port (R93, R94, R96). -/
def malformed (s : State) (p : Nat) : State := addSat s (HLV_MALFORMED_COUNT p) 1

/-- MALFORMED_REQUEST: a Malformed TLP with its header goes to the AER record (R107); of the requests of R94 a write is discarded
and a read returns zero; a port in CFG_ONLY answers Unsupported Request (R89). -/
def execMalformedRequest (p : Nat) (r : BadRequest) (s : State) : Res :=
  act (portUp s p) s <|
    match r.tlp with
    | some h => aerError s p 18 h
    | none =>
      if portOpen s p then malformed (if r.read then send s (.readData p 0 false) else s) p
      else if r.read then send s (.unsupported p) else s

end Sys2Proof.Machine
end

