-- ==== Sys2Proof/Machine/Test.lean ====
section
/-! DEFINITION. Link tests and the TAP (R504 to R509). -/
namespace Sys2Proof.Machine
open Sys2Proof

/-! ### Runs (R504 to R506) -/

/-- The port of a PCIe lane (R88). -/
def lanePort (s : State) (u : Nat) : Nat := if s.boot.split && 8 ≤ u then 1 else 0

/-- The modes of R504 permit the test of a unit in a MODE; a port in Loopback is not up. -/
def testMode (s : State) (u m : Nat) : Bool :=
  let any := !inMode s [mOff, mKindle, mQuench]
  if m != 1 && m != 2 then false
  else if u < 16 then !(port s (lanePort s u)).up
  else if u < 48 then (if m = 1 then any else mode s == mService)
  else if u < 56 then inMode s [mService, mSafe, mStandby]
  else if u < 58 then (if m = 1 then any else decide (getF s PAIR_STAT_PSTATE ≤ 1))
  else u ≤ 65 && (if m = 1 then any else !s.boot.casEn)

/-- DUR_MS is one that R505 permits. -/
def testDur (s : State) (u m d : Nat) : Bool :=
  if 16 ≤ u && u < 56 && !(mode s == mSafe && u < 48 && m = 1) then 1 ≤ d && d ≤ 200 else true

/-- TST_CTL.START (R504, R506, R508). -/
def tstStart (s : State) : State :=
  let u := getF s TST_SEL_UNIT
  let m := getF s TST_CTL_MODE
  if flag s TST_STAT_RUN || !testMode s u m || !testDur s u m (getF s TST_CTL_DUR_MS) then setF s TST_STAT_REFUSED 1
  else
    let s := setAux s { s.x with tst := some ⟨s.clk.refNs, u⟩ }
    let s := setF (setF (setF s TST_STAT_RUN 1) TST_STAT_LOCK 0) TST_STAT_RELOCK 0
    setF (setF s TST_ERR_ERRORS 0) TST_BITS_BITS 0

/-- Bits and errors that the checker counted while locked. -/
def tstCount (s : State) (bits errs : Nat) : State :=
  if flag s TST_STAT_LOCK then addSat (addSat s TST_BITS_BITS bits) TST_ERR_ERRORS errs else s

/-- The run ends as it should. -/
def tstEnd (s : State) : State :=
  if flag s TST_STAT_RUN then setF (setAux s { s.x with tst := none }) TST_STAT_RUN 0 else s

/-- TST_CTL.STOP (R505). -/
def tstStop (s : State) : State := tstEnd s

def execTstStart (s : State) : Res := act (regOk s 16) s (tstStart s)

/-- TST_STOP, after the bits and errors counted so far. -/
def execTstStop (bits errs : Nat) (s : State) : Res :=
  act (regOk s 16) s (tstStop (if flag s TST_STAT_RUN then tstCount s bits errs else s))

/-- TEST_RUN_END (R505): DUR_MS is over. A run that is cut short ends with what cuts it (`testAbort`). -/
def execTestRunEnd (bits errs : Nat) (el : Elapse) (s0 : State) : Res :=
  let s := elapse s0 el
  match s.x.tst with
  | none => .next s
  | some x =>
    let d := getF s TST_CTL_DUR_MS
    act (flag s TST_STAT_RUN && d != 0 && decide (x.at_ + ms d ≤ s.clk.refNs)) s (tstEnd (tstCount s bits errs))

/-- CHECKER_LOCK (R506): 64 consecutive bits without error. -/
def execCheckerLock (s : State) : Res := act (flag s TST_STAT_RUN) s (setF s TST_STAT_LOCK 1)

/-- CHECKER_LOCK_LOST (R506, R509): 64 or more errors within 128 bits. -/
def execCheckerLockLost (bits errs : Nat) (s : State) : Res :=
  act (flag s TST_STAT_RUN && flag s TST_STAT_LOCK && decide (64 ≤ errs) && decide (64 ≤ bits)) s <|
    let s := setF (addSat (tstCount s bits errs) TST_STAT_RELOCK 1) TST_STAT_LOCK 0
    let u := match s.x.tst with | some x => x.unit | none => 0
    logEv s 16 1 [u, getF s TST_ERR_ERRORS, getF s TST_BITS_BITS]

/-! ### TAP (R507) -/

/-- An instruction is in force. All but BYPASS, IDCODE and SAMPLE/PRELOAD hold the core die in reset, OWN_OUT released first. -/
def tapTo (s : State) (k : Nat) : State :=
  { (if 2 < k then toOff s HELM_RESET_CAUSE_PIN false else s) with tap := k }

def idcode : Nat := 0xB04A09EB

def execBypass (s : State) : Res := .next (tapTo s 0)
def execIdcode (s : State) : Res := .next (send (tapTo s 1) (.tdo idcode))
def execSamplePreload (s : State) : Res := .next (tapTo s 2)

/-- EXTEST: the flash lands are driven only while OWN_IN reads released. -/
def execExtest (ownIn : Bool) (s : State) : Res :=
  let s := tapTo s 3
  .next { s with pins := { s.pins with ownIn := ownIn } }

def execExtestPulse (s : State) : Res := .next (tapTo s 4)
def execExtestTrain (s : State) : Res := .next (tapTo s 5)
def execClamp (s : State) : Res := .next (tapTo s 6)
def execHighz (s : State) : Res := .next (tapTo s 7)

/-- EXTEST drives the flash lands. -/
def extestDrives (s : State) : Bool := s.tap == 3 && !s.pins.ownIn

/-- TAP_RESET: no instruction holds the core die; the TAP selects IDCODE, as IEEE 1149.1 has it (PRESUMED, log 49). -/
def execTapReset (s : State) : Res := .next (tapTo s 1)

end Sys2Proof.Machine
end

