-- ==== Sys2Proof/Machine/RegWrite.lean ====
section
/-! DEFINITION. Register writes and the reads that clear: one operation over the register tables, with the effects that single
fields have, the MSI-X table, the context vector map, and BAR2 (R9 to R11, R71, R85, R92 to R94, R105, R114, R169, R233). -/
namespace Sys2Proof.Machine
open Sys2Proof

/-! ### Fields with effects of their own -/

/-- A value is no reserved encoding of the field (R9). -/
def fieldOk (f : FDef) (v : Nat) : Bool := f.vlo ≤ v && v ≤ f.vhi && (v - f.vlo) % f.vst = 0

/-- MAP_OP.OP (R233). -/
def mapOpWrite (s : State) (v : Nat) : State :=
  let s' := setLcap (setC s MAP_OP_OP v)
  if mode s != mService || getF s' MAP_LCAP_BILLETS < volumesEnd s then logEv s 0 9 [v] else s'

/-- HELM_MEDCFG.SPR (R337). -/
def sprWrite (s : State) (v : Nat) : State :=
  if (volsUsed s).isEmpty then setC s HELM_MEDCFG_SPR v else logEv s 0 9 [v]

/-- A RW field takes a value. `base`, `n` name its register and block. -/
def storeField (s : State) (base n lo : Nat) (f : Fld) (v : Nat) : State :=
  match base, lo with
  | 0x01010000, 0 => tickEnWrite s (v = 1)
  | 0x01001000, 0 => sprWrite s v
  | 0x01040008, 0 => mapOpWrite s v
  | 0x01050000, 0 => mcEnWrite s n (v = 1)
  | 0x01050010, 0 => spWrite s n v
  | 0x01001000, 8 | 0x01001030, 0 | 0x01001030, 8 => healthCheck (setF s f v)
  | 0x010C0020, 0 => if v = 0 then setF (setF s f v) PWR_HOLD_HOLD_MV 0 else setF s f v
  | _, _ => setF s f v

/-- The fault record of the selected thread loses VALID. -/
def clearFault (s : State) : State := modTh s (getF s ANV_SEL_THREAD) fun x => { x with faultValid := false }

/-- A W1C field: the bits of `x` are cleared (R10). `whole` says that the write covers the whole field. -/
def clearField (s : State) (base n lo : Nat) (f : Fld) (x : Nat) (whole : Bool) : State :=
  match base, lo with
  | 0x01000008, 0 => if x = 0xFF && whole then setF s f 0 else s
  | 0x01050018, 0 => ((List.range 16).filter fun w => bit x w).foldl (fun s w => wayEnable s n w) s
  | 0x01110028, 2 => if x = 1 then clearFault s else s
  | 0x01020008, 1 => if x = 1 then setBox s n { box s n with coll := false } else s
  | 0x01020008, 2 => if x = 1 then setBox s n { box s n with ackV := false } else s
  | _, _ => setF s f (getF s f - (getF s f &&& x))

/-- A W1S field (R10). -/
def raiseField (s : State) (base k : Nat) (f : Fld) (x : Nat) : State :=
  match base with
  | 0x010F0038 => qgo s x
  | 0x010F2000 => wpWrite s k x
  | _ => setF s f (getF s f ||| x)

/-- A WO field (R10): `v` is the whole word written. -/
def actField (s : State) (base n lo : Nat) (f : Fld) (x v : Nat) : State :=
  match base, lo with
  | 0x01070080, 8 => if x = 1 then clearCe s else s
  | 0x010C0048, 0 => if x = 1 then clrMin s else s
  | 0x010D0010, 0 => if x = 1 then force s else s
  | 0x010D0010, 1 => if x = 1 then resync s else s
  | 0x010D0010, 2 => if x = 1 then swapCan s else s
  | 0x01030000, 2 => if x = 1 then manual s else s
  | 0x01100008, 5 => if x = 1 then tstStart s else s
  | 0x01100008, 6 => if x = 1 then tstStop s else s
  | 0x01020060, 0 => if x = 1 then mbxSend s n else s
  | 0x01020060, 1 => if x = 1 then mbxTake s n else s
  | 0x01020060, 2 => if x = 1 then mbxAck s n (bits v 16 16) else s
  | 0x01020060, _ => s
  | _, _ => setF s f x

/-! ### One word -/

/-- A write's bits of one field, with those it covers (R10). -/
def writeField (s : State) (d : RDef) (n k off mask v : Nat) (f : FDef) : State :=
  let m := bits mask f.lo f.w
  let x := bits v f.lo f.w &&& m
  let fld : Fld := ⟨off * 64 + f.lo, f.w, f.dflt.val n k, f.ret⟩
  if m = 0 then s else
  match f.acc with
  | .ro | .rc => s
  | .rw =>
    let new := (getF s fld - (getF s fld &&& m)) ||| x
    if fieldOk f new then storeField s d.base n f.lo fld new else s
  | .w1c => clearField s d.base n f.lo fld x (m = 2 ^ f.w - 1)
  | .w1s => raiseField s d.base k fld x
  | .wo => actField s d.base n f.lo fld (if f.w = 64 then (getF s fld - (getF s fld &&& m)) ||| x else x) v

/-- MAP_TEMPER is judged on the pair it would leave: OVL_LO above OVL_HI keeps both. -/
def temperMask (s : State) (mask v : Nat) : Nat :=
  let w := regWord s 0x01040018
  let new := (w - (w &&& mask)) ||| (v &&& mask)
  if bits new 16 8 < bits new 24 8 then mask - (mask &&& (0xFFFF * 2 ^ 16)) else mask

/-- Offsets whose changes the active module mirrors: the configuration class and the context vector map (R425, R453). -/
def mirrored (d : RDef) : Bool := d.base == 0x02010000 || configReg d

/-- From `s` to `s'` the register at `off` was written: a change of its RSM fields is passed on (R425, R453). -/
def mirrorReg (s s' : State) (off : Nat) : State :=
  if retWord s' off != retWord s off then passOn s' (cfgWords (.reg off (retWord s' off))) else s'

/-- A register word is written: stored fields first, then what acts, as one commit (R71). A change of the configuration class is passed
on. -/
def writeReg (s : State) (d : RDef) (n k off mask v : Nat) : State :=
  let mask := if off = 0x01040018 then temperMask s mask v else mask
  let s' := (d.fields.filter fun f => f.acc != .wo).foldl (fun s f => writeField s d n k off mask v f) s
  let s' := if off = 0x01040018 then overUpdate s' else s'
  let s' := (d.fields.filter fun f => f.acc = .wo).foldl (fun s f => writeField s d n k off mask v f) s'
  let s' := oneCommit s s'
  if mirrored d then mirrorReg s s' off else s'

/-- The image-store descriptors and transfer buffer: the administrative source's own part (R463, R482). STATUS is the module's. -/
def imgWrite (s : State) (off : Nat) (b : List Byte) : State :=
  let o := off - 0x010F0000
  if 0x1000 + 32 * 24 ≤ o && o + b.length ≤ 0x1000 + 32 * 32 then
    let a := o - 0x1000
    let keep := mget 0 s.x.img.desc (a / 32 * 32 + 1)
    setImg s { s.x.img with desc := wrBytes (wrBytes s.x.img.desc a b) (a / 32 * 32 + 1) [keep] }
  else if 0x7000 ≤ o && o + b.length ≤ 0x8000 then setImg s { s.x.img with xbuf := wrBytes s.x.img.xbuf (o - 0x4000) b }
  else s

/-- Four or eight aligned bytes written within the register families; families that do not answer discard them (R80, R94). -/
def writeFam (s : State) (off size v : Nat) : State :=
  if !regOk s (famOf off) then s else
  let w := off / 8 * 8
  let sh := 8 * (off % 8)
  match regAt w with
  | some (d, n, k) => writeReg s d n k w ((2 ^ (8 * size) - 1) * 2 ^ sh) (v % 2 ^ (8 * size) * 2 ^ sh)
  | none => imgWrite s off (leBytes size v)

/-- An 8-byte write of a register word. -/
def writeWord (s : State) (off v : Nat) : State := writeFam s off 8 v

/-! ### The rest of BAR0 and BAR2 (R90, R93, R105) -/

/-- The context vector map: the entries a write covers. -/
def vecWrite (s : State) (off size v : Nat) : State :=
  (List.range (size / 2)).foldl (fun s i =>
    match regAt (off + 2 * i) with
    | some (d, n, k) => writeReg s d n k (off + 2 * i) 0xFFFF (bits v (16 * i) 16)
    | none => s) s

/-- A byte of an MSI-X table entry as it is stored: of the vector control the mask bit alone. -/
def msixStored (a : Nat) (x : Byte) : Byte := if a % 16 = 12 then x &&& 1 else if 12 < a % 16 then 0 else x

/-- The MSI-X table of a port; an entry unmasked with its pending bit set sends its message (R105; PRESUMED, log 104). -/
def msixWrite (s : State) (p a size v : Nat) : State :=
  let vec := a / 16
  let s := (List.range size).foldl (fun s i =>
    let x := port s p
    let b := msixStored (a + i) (BitVec.ofNat 8 (v / 2 ^ (8 * i)))
    setPort s p { x with msix := if (a + i) % 16 = 12 then mset 1 x.msix (a + i) b else mset 0 x.msix (a + i) b }) s
  if (port s p).pba.contains vec && !masked (port s p) vec then
    send (setPort s p { port s p with pba := srem vec (port s p).pba }) (.msix p vec)
  else s

/-- A write of 4 or 8 aligned bytes to BAR0 outside the context pages. -/
def bar0Write (s : State) (p off size v : Nat) : State :=
  if off < 0x01130000 then writeFam s off size v
  else if !s.boot.image then s
  else if 0x02000000 ≤ off && off < 0x02008000 then msixWrite s p (off - 0x02000000) size v
  else if 0x02010000 ≤ off && off < 0x02012000 then vecWrite s off size v
  else s

/-- The request is naturally aligned, of 4 or 8 bytes (R94, R110). -/
def regShape (off size : Nat) : Bool := (size == 4 || size == 8) && off % size == 0

/-- Context pages, register families, MSI-X structures and the context vector map, reserved offsets in them included (R94, R110; DEDUCED,
log 130). -/
def regArea (off : Nat) : Bool :=
  decide (off < 0x01130000) || (decide (0x02000000 ≤ off) && decide (off < 0x02008100))
    || (decide (0x02010000 ≤ off) && decide (off < 0x02012000))

/-- REGISTER_WRITE: a posted write of `size` bytes through port `p`, to BAR2 or BAR0. In a context page CTX_ABORT alone takes a
write that is no task-register write (R110). -/
def execRegisterWrite (p : Nat) (bar2 : Bool) (off size v : Nat) (s : State) : Res :=
  act (portOpen s p && decide (size ≤ 512)) s <|
    if bar2 then
      if off < 0x0800000 then malformed s p
      else spWr s (off - 0x0800000) (leBytes size v)
    else if off < 0x01000000 then
      if off % 0x1000 = 0x48 && size = 8 then
        let won := (cx s (off / 0x1000)).abPend
        let s' := abortWrite s (off / 0x1000) (v % 2 ^ 16)
        if (cx s' (off / 0x1000)).abPend && !won then abortParts s' (off / 0x1000) else s'
      else malformed s p
    else if !regShape off size then (if regArea off then malformed s p else s)
    else bar0Write s p off size v

/-! ### Reads that clear (R10, R94, R108, R500) -/

/-- The capability of R108: the word at one of its offsets, the standard header first (the order of its fields is PRESUMED, log 106). -/
def hlvWord (s : State) (p o : Nat) : Nat :=
  match o with
  | 0x00 => 0x0001000B
  | 0x04 => 0x4A01 + 2 ^ 16 + 0x20 * 2 ^ 20
  | 0x0C => b2n s.boot.split + 2 * p
  | 0x10 => getF s (HLV_STAT_RATE p) + 2 ^ 2 * getF s (HLV_STAT_WIDTH p) + 2 ^ 7 * getF s (HLV_STAT_FLIT p)
      + 2 ^ 8 * getF s (HLV_STAT_CFG_ONLY p) + 2 ^ 9 * getF s (HLV_STAT_L0P_EN p) + 2 ^ 10 * getF s (HLV_STAT_ATS_EN p)
  | 0x14 => getF s (HLV_REFUSED_COUNT p)
  | 0x18 => getF s (HLV_MALFORMED_COUNT p)
  | 0x1C => getF s (HLV_DOWN_COUNT p)
  | _ => 0

/-- The identity words of the function's configuration header, and what its BARs read once all ones were written: type and size (R86; their
offsets and that form are PRESUMED, log 106). -/
def idWord (o : Nat) : Nat :=
  match o with
  | 0x00 => 0x1C7B + 2 ^ 16 * 0x04A0
  | 0x08 => 0x0B + 2 ^ 8 * 0x018000
  | 0x10 => 2 ^ 32 - 2 ^ 26 + 0x4
  | 0x14 => 2 ^ 32 - 1
  | 0x18 => 2 ^ 32 - 2 ^ 25 + 0xC
  | 0x1C => 2 ^ 32 - 1
  | _ => 0

/-- The AER record: uncorrectable status, correctable status, header log (R86, R107; the layout is PRESUMED, log 106). -/
def aerWord (s : State) (p o : Nat) : Nat :=
  match o with
  | 0x04 => (port s p).aerUncorr
  | 0x10 => (port s p).aerCorr
  | 0x1C => bits (port s p).aerHdr 0 32
  | 0x20 => bits (port s p).aerHdr 32 32
  | 0x24 => bits (port s p).aerHdr 64 32
  | 0x28 => bits (port s p).aerHdr 96 32
  | _ => 0

/-- A word of configuration space: the capability of R108 (`sp` 1), the header (3), the AER record (4). -/
def cfgWord (s : State) (p sp o : Nat) : Nat := if sp = 1 then hlvWord s p o else if sp = 3 then idWord o else aerWord s p o

/-- The DRAM address behind a window register: the volume table (R234), a band entry (R332). -/
def windowAt (s : State) (off : Nat) : Option Nat :=
  if 0x01040108 ≤ off && off < 0x01040128 then some (aVol + 32 * getF s MAP_VOL_IDX_VOLUME + (off - 0x01040108))
  else if 0x01001048 ≤ off && off < 0x01001058 then some (aBand + 16 * getF s HELM_BAND_IDX_BAND + (off - 0x01001048))
  else none

/-- A BAR read meets what the codes find in the memory behind it: whether it is poisoned (R94, R248, R271). -/
def barCheck (s : State) (sp off size : Nat) (e : MErr) : Bool × State :=
  if sp = 2 then (if off < 0x0800000 then (e == .uncorr, s) else spCheck s (off - 0x0800000) size e)
  else match windowAt s off with
    | some a => dramCheck s a size e 4
    | none => (e == .uncorr, s)

/-- A configuration read of a link register clears its RC field. -/
def hlvRead (s : State) (p o : Nat) : State :=
  match o with
  | 0x14 => setF s (HLV_REFUSED_COUNT p) 0
  | 0x18 => setF s (HLV_MALFORMED_COUNT p) 0
  | 0x1C => setF s (HLV_DOWN_COUNT p) 0
  | _ => s

/-- The RC fields that a read's bytes touch are cleared. -/
def clearRead (s : State) (off size : Nat) : State :=
  let w := off / 8 * 8
  let mask := (2 ^ (8 * size) - 1) * 2 ^ (8 * (off % 8))
  if !regOk s (famOf w) then s else
  match regAt w with
  | some (d, n, k) => d.fields.foldl (fun s f =>
      if f.acc = .rc && bits mask f.lo f.w != 0 then setF s ⟨w * 64 + f.lo, f.w, f.dflt.val n k, f.ret⟩ 0 else s) s
  | none => s

/-- What a read of a register word does beside returning it: RC fields, and the logbook window's step (R500). -/
def readEffect (s : State) (off size : Nat) : State :=
  let s := clearRead s off size
  if regOk s 3 && (off = 0x010302FC || (off = 0x010302F8 && size = 8)) then logAuto s else s

/-- REGISTER_READ_CLEAR: a read through port `p` of configuration space (`sp` 1, 3, 4), BAR2 (`sp` 2) or BAR0; `e` is what the codes
find anew in the memory behind it (R94). A port in CFG_ONLY answers Unsupported Request (R89). -/
def execRegisterReadClear (p sp off size : Nat) (e : MErr) (s : State) : Res :=
  if [1, 3, 4].contains sp then
    act (portUp s p) s (if sp = 1 then hlvRead (send s (.readData p (cfgWord s p sp off) false)) p off
      else send s (.readData p (cfgWord s p sp off) false))
  else act (portUp s p && decide (size ≤ 512)) s <|
    if !portOpen s p then send s (.unsupported p)
    else if sp = 2 then
      let (bad, s) := barCheck s sp off size e
      send s (.readData p (leNat ((List.range size).map fun i => bar2Byte s (off + i))) bad)
    else if !regShape off size then
      (if regArea off then malformed (send s (.readData p 0 false)) p else send s (.readData p 0 false))
    else
      let (bad, s) := barCheck s sp off size e
      let s' := send s (.readData p (bar0Read s p off size) bad)
      if 0x01000000 ≤ off && off < 0x01130000 then readEffect s' off size else s'

/-! ### Registers with rows of their own -/

/-- HELM_ADMIN_WRITE (R84, R114): ADMIN and BOUND follow the field. -/
def execHelmAdminWrite (v : Nat) (s : State) : Res := act (regOk s 0) s (writeWord s 0x01000018 v)

/-- SAFE_CAUSE_CLEAR (R85). -/
def execSafeCauseClear (v : Nat) (s : State) : Res := act (regOk s 0) s (writeWord s 0x01000008 v)

/-- MAP_OP_WRITE (R233). -/
def execMapOpWrite (v : Nat) (s : State) : Res := act (regOk s 4) s (writeWord s 0x01040008 v)

/-- MC_DISABLE (R251): `en` is written to the EN field of slice `q`. -/
def execMcDisable (q : Nat) (en : Bool) (s : State) : Res :=
  act (q < 4 && regOk s 5) s (mirrorReg s (mcEnWrite s q en) (0x01050000 + 0x1000 * q))

/-- SCRATCHPAD_CONVERSION (R248): `n` is written to SPWAYS of slice `q`. -/
def execScratchpadConversion (q n : Nat) (s : State) : Res :=
  act (q < 4 && regOk s 5) s (mirrorReg s (spWrite s q n) (0x01050010 + 0x1000 * q))

/-- ROLE_SUSP_CLEAR (R169): `v` as a write of the register. -/
def execRoleSuspClear (v : Nat) (s : State) : Res := act (regOk s 17) s (writeWord s 0x01110070 v)

end Sys2Proof.Machine
end

