-- ==== Sys2Proof/Machine/Svc.lean ====
section
/-! DEFINITION. The service port: transactions, the checks of received frames, and the frame types (R483 to R491, R495, R496). -/
namespace Sys2Proof.Machine
open Sys2Proof

/-! ### The port (R483, R484) -/

/-- Bytes of the receive buffer in use. -/
def rxUsed (s : State) : Nat := ((s.x.svc.rx ++ s.x.svc.cmd.toList).map fun f => 20 + f.pay.length).sum

/-- RXFREE (R484). -/
def rxFree (s : State) : Nat := if 8 ≤ s.x.svc.out.length then 0 else 196608 - rxUsed s

/-- The status word (R484). -/
def svcStatus (s : State) : Nat :=
  rxFree s + 2 ^ 18 * b2n (!s.x.svc.out.isEmpty) + 2 ^ 19 * b2n s.x.svc.cmd.isSome + 2 ^ 20 * b2n (!s.boot.image)
    + 2 ^ 21 * b2n (box s 2).full + 2 ^ 24 * mode s

/-- SVC_IRQ_N is driven low (R484). -/
def svcIrq (s : State) : Bool := flag s SVC_CFG_IRQEN && (!s.x.svc.out.isEmpty || (box s 2).full)

/-- SVC_STATUS. -/
def execSvcStatus (s : State) : Res := act (mode s != mOff) s (send s (.svcOut (leBytes 4 (svcStatus s))))

/-- SVC_READ_FRAME: `n` bytes are clocked out; the frame leaves the queue when it was read whole. Bytes past its last are given as
0x00 (DEDUCED, log 51). -/
def execSvcReadFrame (n : Nat) (s : State) : Res :=
  act (mode s != mOff) s <|
    match s.x.svc.out with
    | [] => send s (.svcOut (List.replicate n 0))
    | f :: t =>
      let s := send s (.svcOut (padTo 0 n f))
      if f.length ≤ n then setSvc s { s.x.svc with out := t } else s

/-! ### Received frames (R485 to R487) -/

/-- Payload lengths and reserved bytes that a TYPE allows (R486). -/
def payOk (ty : Nat) (p : List Byte) : Bool :=
  let n := p.length
  match ty with
  | 0x01 => 64 ≤ n && n ≤ 65600
  | 0x02 => n = 8 && 1 ≤ oLe p 4 4 && oLe p 4 4 ≤ 64
  | 0x03 => 16 ≤ n && n ≤ 520 && n % 8 = 0 && oLe p 4 4 = 0
  | 0x04 => n = 40 && oLe p 1 7 = 0
  | 0x05 => n = 0
  | 0x06 => n = 8 && oLe p 2 6 = 0
  | 0x07 => 1 ≤ n && n ≤ 65536
  | 0x08 => n = 0
  | _ => false

/-- The first check of R487. -/
def formatOk (b : List Byte) : Bool :=
  20 ≤ b.length && oLe b 0 2 = 0x4656 && oLe b 3 1 = 0 && oLe b 6 2 = 0 && oLe b 12 4 = 0 && oLe b 8 4 + 20 = b.length
    && payOk (oLe b 2 1) ((b.drop 16).take (oLe b 8 4))

/-- An ACK that is no acceptance: the code is shown; CRC failures and busy replies are counted (R487, R501). -/
def nak (s : State) (seq code detail : Nat) : State :=
  let s := match code with
    | 1 => addSat s SVC_ERR_CRC 1
    | 4 => addSat s SVC_ERR_BUSY 1
    | _ => s
  queueReply (setF s SVC_LAST_CODE code) (frameOf 0x83 seq (ackPay code detail))

/-- Offset and words of a REG_RD or REG_WR. -/
def regRange (f : Frame) : Nat × Nat :=
  (oLe f.pay 0 4, if f.ty = 2 then oLe f.pay 4 4 else (f.pay.length - 8) / 8)

/-- The frame is one that the ROM serves (R80, R487). -/
def romServes (f : Frame) : Bool :=
  f.ty = 7 || f.ty = 8 ||
    ((f.ty = 2 || f.ty = 3) && (List.range (regRange f).2).all fun i => [0, 18].contains (famOf ((regRange f).1 + 8 * i)))

/-- The reply given to the last accepted frame, where `f` has its SEQ and CRC: `f` repeats it (R487). -/
def repeated (s : State) (f : Frame) : Option (List Byte) :=
  match s.x.svc.last with
  | some (q, c, r) => if q = f.seq && c = f.crc then some r else none
  | none => none

/-- SVC_WRITE_FRAME: the bytes of one transaction. A failure of the first check counts in SVC_ERR.FORMAT (R487); the ACK 0x02 that R489
gives for a range does not (DEDUCED, log 51). -/
def execSvcWriteFrame (b : List Byte) (s : State) : Res :=
  act (mode s != mOff) s <|
    let seq := oLe b 4 2
    let f : Frame := ⟨oLe b 2 1, seq, oLe b (b.length - 4) 4, (b.drop 16).take (oLe b 8 4)⟩
    if rxFree s < b.length || 8 ≤ s.x.svc.out.length then addSat s SVC_ERR_OVERFLOW 1
    else if !formatOk b then nak (addSat s SVC_ERR_FORMAT 1) seq 2 0
    else if crc32 (b.take (b.length - 4)) != f.crc then nak s seq 1 0
    else if mode s == mQuench then nak s seq 4 mQuench
    else if !s.boot.image && !romServes f then nak s seq 8 0
    else match repeated s f with
      | some r => queueReply s r
      | none => setSvc s { s.x.svc with rx := s.x.svc.rx ++ [f] }

/-- A frame type's row: frames are served in the order in which they arrived, while the out queue has room; one that repeats the frame
before it in the queue is answered as that one was (R487). -/
def svcRow (ty : Nat) (s : State) (eff : Frame → State → State) : Res :=
  match s.x.svc.rx with
  | f :: t => act (f.ty = ty && mode s != mOff && mode s != mQuench && decide (s.x.svc.out.length < 8)) s <|
      match repeated s f with
      | some r => queueReply (setSvc s { s.x.svc with rx := t }) r
      | none => eff f (setSvc s { s.x.svc with rx := t })
  | [] => .next s

/-- ACK with CODE 0x00, or with another code of the type's own rules. -/
def ackOk (s : State) (f : Frame) : State := replyTo s f 0x83 (ackPay 0 0)

/-! ### CMD (R488) -/

/-- A data opcode of a CMD, decided at once (R128, R131, R403): the ending, and the pages of a HEALTH_READ. -/
def cmdData (s : State) (b : Nat) : Ending × List Byte :=
  let no := fun c d => ((⟨c, d, none, 0⟩ : Ending), ([] : List Byte))
  let o := bits b 0 8
  let n := blkField b 16 4
  let a := bits (blkField b 56 8) 0 8
  if o = 0 || 0x0B ≤ o then no 0x10 0
  else if o != 0x0A then no 0x13 2
  else if !flag s HELM_ADMIN_SRC then no 0x13 3
  else if !dataMode s then no 0x13 2
  else if blkField b 4 2 != 0 then no 0x11 4
  else if 15 < n || 255 < a + n then no 0x11 16
  else (⟨0, 0, none, 0⟩, (List.range (n + 1)).flatMap fun k => healthPage s (bindOf s (adminCtx s)).tenant true (a + k))

/-- A CMD is accepted. -/
def runCmd (f : Frame) (s : State) : State :=
  let s := wake (addWrap (setSvc s { s.x.svc with cmd := some f }) SVC_STAT_SEQ 1)
  let b := leNat (f.pay.take 64)
  if 0x80 ≤ bits b 0 8 && bits b 0 8 ≤ 0x8F then toHelm s 9999 b (f.pay.drop 64) 0
  else
    let (e, out) := cmdData s b
    let s := if out.isEmpty then s else stamped s srcHealth
    replyTo (setSvc s { s.x.svc with cmd := none }) f 0x81 (cmdRecord s b e ++ out)

/-- CMD. -/
def execCmd (s : State) : Res :=
  svcRow 1 s fun f s => if s.x.svc.cmd.isSome then nak (logEv s 18 1 []) f.seq 4 0xFF else runCmd f s

/-! ### Registers and mailboxes (R489, R494 to R496) -/

/-- A range within the register families, aligned, of 1 to 64 words. -/
def rangeOk (off n : Nat) : Bool :=
  off % 8 = 0 && 1 ≤ n && n ≤ 64 && 0x01000000 ≤ off && off + 8 * n ≤ 0x01130000

/-- REG_RD. -/
def execRegRd (s : State) : Res :=
  svcRow 2 s fun f s =>
    let (off, n) := regRange f
    if !rangeOk off n then nak s f.seq 2 0
    else
      let r := (List.range n).foldl (fun (a : List Byte × State) i =>
        (a.1 ++ leBytes 8 (readWord a.2 (off + 8 * i)), readEffect a.2 (off + 8 * i) 8)) ([], s)
      replyTo r.2 f 0x82 r.1

/-- REG_WR. -/
def execRegWr (s : State) : Res :=
  svcRow 3 s fun f s =>
    let (off, n) := regRange f
    if !rangeOk off n then nak s f.seq 2 0
    else if !flag s HELM_ADMIN_SRC && !((List.range n).all fun i => famOf (off + 8 * i) = 18) then nak s f.seq 5 0
    else ackOk ((List.range n).foldl (fun s i => writeWord s (off + 8 * i) (oLe f.pay (8 + 8 * i) 8)) s) f

/-- MBX_SEND; a number above 63 names no mailbox (DEDUCED, log 51). -/
def execMbxSend (s : State) : Res :=
  svcRow 4 s fun f s =>
    let n := oLe f.pay 0 1
    if 63 < n then nak s f.seq 2 0 else ackOk (sendMsg s n (svcId s) srcMbx (f.pay.drop 8)) f

/-- MBX_RECV. -/
def execMbxRecv (s : State) : Res :=
  svcRow 5 s fun f s =>
    if (box s 2).full then replyTo (takeBox s 2) f 0x85 (msgBytes (box s 2)) else nak s f.seq 6 0

/-- MBX_ACK. -/
def execMbxAck (s : State) : Res :=
  svcRow 6 s fun f s => ackOk (ackBox s 2 (oLe f.pay 0 2) (svcId s)) f

/-! ### Images (R471, R472, R490) -/

/-- IMG_DATA: answered OK once received; after a failure, and where intake is refused, INTAKE. `diffs` are the sectors whose read-back
differed, and how often. -/
def execImgData (diffs : List (Nat × Nat)) (s : State) : Res :=
  svcRow 7 s fun f s =>
    let bad := intakeFailed s || intakeBusy s
    let s := intakeData s f.pay diffs
    if bad then nak s f.seq 7 (getF s IMG_INTAKE_RESULT) else ackOk s f

/-- IMG_END. With no intake open it is answered with the last RESULT (DEDUCED, log 51). -/
def execImgEnd (s : State) : Res :=
  svcRow 8 s fun f s =>
    let on := s.x.img.intake.isSome
    let s := intakeEnd (setImg s { s.x.img with frameAt := s.clk.refNs })
    if on && getF s IMG_INTAKE_RESULT = 2 then replyTo s f 0x83 (ackPay 0 2) else nak s f.seq 7 (getF s IMG_INTAKE_RESULT)

end Sys2Proof.Machine
end

