-- ==== Sys2Proof/Machine/Swage.lean ====
section
/-! DEFINITION. The Swage script instructions, polls and timers (R289, R296 to R298). -/
namespace Sys2Proof.Machine
open Sys2Proof

/-- A Swage row: when the script holding the bus of `ch` is at word `w`, its effect, and the bus settles. -/
def swage (ch w : Nat) (s : State) (eff : Nat → Strike → Script → State) : Res :=
  match runsWord s ch w with
  | some (i, k, x) => .next (settleCh (eff i k x) ch)
  | none => act false s s

/-- A word, or none where a field does not fit. -/
def swWord (ok : Bool) (w : Nat) : Nat := if ok then w else 2 ^ 32

/-- A walk ends: the RETRY entry runs with row 0 and the defaults are restored (R300). -/
def restoreRow (s : State) (i : Nat) (k : Strike) : State :=
  match retryEntry s k.entry with
  | some e => grantBus (beginScript s i k .restore e 0) k.chan
  | none => readDone s i k

/-- What END does for a strike (R290, R296, R299, R300, R301). Slots that no DIN read are not decoded (DEDUCED, log 116). -/
def endScript (s0 : State) (i : Nat) (k : Strike) (x : Script) (code : Nat) (dec : Bool) : State :=
  let s := spendTime s0 k x (code != 0)
  match x.job with
  | .suspend =>
    if code = 0 then grantBus (setStrike s i (some { k with script := none, suspended := some (x.pollAt.getD s.clk.refNs) })) k.chan
    else leave s i { k with code := 8 } .finish
  | .resume =>
    if code = 0 then
      let f := k.frozen.map fun y => { y with timer := y.timer.map fun tm => (tm.1 + s.clk.refNs, tm.2) }
      grantBus (denyReads (setStrike s i (some { k with script := f, frozen := none, suspended := none, busyFrom := s.clk.refNs })) k.die) k.chan
    else leave s i { k with code := 8 } .finish
  | .restore => readDone s i k
  | .retry => if code = 0 then grantBus (beginScript s i k .main k.entry 0) k.chan else restoreRow s i k
  | .soft =>
    if !dec then (if k.walking then restoreRow s i k else readDone s i k)
    else if x.dins = 0 then enterWalk s i k
    else grantBus (setStrike s i (some { k with phase := .soft, script := none })) k.chan
  | .main =>
    if k.cls = 0 then
      if k.raw then
        (if dec && x.dins != 0 then leave s i { k with slots := k.slots.map fun _ => some 0 } .finish else readDone s i k)
      else if dec then
        (if x.dins = 0 then afterHard s i k else grantBus (setStrike s i (some { k with phase := .hard, script := none })) k.chan)
      else if k.walking then restoreRow s i k
      else readDone s i k
    else leave s i { k with code := code } .finish

/-- END (R296, R298 cause 7). -/
def execSwageEnd (ch code : Nat) (dec : Bool) (s : State) : Res :=
  swage ch (swWord (code < 16) (code + 16 * b2n dec)) s fun i k x =>
    if endOk (eCls s x.entry) code dec then endScript s i k x code dec else scriptFault s i k x x.pc 7

/-- CMD: one command cycle; the first of a run starts its die time (R288). -/
def execSwageCmd (ch byte : Nat) (s : State) : Res :=
  swage ch (swWord (byte < 256) (0x10000000 + byte)) s fun i k x =>
    stepScript (drive s ch 0 [byte]) i k { x with cmdAt := x.cmdAt.or (some s.clk.refNs) } (x.pc + 1)

/-- The low `n` bytes of a value. -/
def lowBytes (n v : Nat) : List Nat := (leBytes n v).map (·.toNat)

/-- The address cycles of ADDR (R296). -/
def addrBytes (s : State) (k : Strike) (x : Script) (ncyc src reg pln : Nat) : List Nat :=
  let row := (mget 0 x.v 0 + pln * 2 ^ getF s (CH_ROWFMT_PAGE_W k.chan)) % 2 ^ 32
  match src with
  | 0 => lowBytes ncyc (mget 0 x.v 1)
  | 1 => lowBytes ncyc row
  | 2 => lowBytes 2 (mget 0 x.v 1) ++ lowBytes (ncyc - 2) row
  | _ => lowBytes ncyc (mget 0 x.v reg)

def execSwageAddr (ch ncyc src reg pln : Nat) (s : State) : Res :=
  swage ch (swWord (ncyc < 8 && src < 4 && reg < 8 && pln < 4) (0x20000000 + ncyc + 16 * src + 256 * reg + 2048 * pln)) s
    fun i k x => stepScript (drive s ch 1 (addrBytes s k x ncyc src reg pln)) i k x (x.pc + 1)

/-- A FLUSH thread's strike reads a write-buffer frame. -/
def flushesWb (s : State) (k : Strike) : Bool :=
  (th s k.t).role = 2 && (match bufAt s k.h with | some b => b.wb | none => false)

/-- The eight frames of a plane as a program reads them: what the codes find, and whether one is lost (R271, R273). A write-buffer frame so
lost is the FLUSH role's logbook event, and stays mapped (R272; DEDUCED, log 149). -/
def doutCheck (s : State) (k : Strike) (pln : Nat) (errs : List (Nat × MErr)) : Bool × State :=
  (List.range 8).foldl (fun (r : Bool × State) j =>
    if r.1 then r else
    match strikeFrame r.2 k (k.frame + 8 * pln + j) with
    | some (d, m) =>
      let q := pairCheck r.2 d m j errs 3
      if q.1 && flushesWb s k then (true, logEv q.2 7 3 []) else q
    | none => r) (false, s)

/-- DOUT (R292, R296): frames of plane p + PLN, encoded, or register bytes. On an uncorrectable error in a frame of the buffer the
script ends and the outcome is BUSERR (R271). A PLN past the entry's planes is a value outside those listed. -/
def execSwageDout (ch src reg cnt pln : Nat) (errs : List (Nat × MErr)) (s : State) : Res :=
  swage ch (swWord (src < 2 && reg < 8 && cnt < 4 && pln < 4) (0x30000000 + src + 4 * reg + 32 * cnt + 128 * pln)) s fun i k x =>
    if src = 1 then stepScript (drive s ch 2 (lowBytes (cnt + 1) (mget 0 x.v reg))) i k x (x.pc + 1)
    else if eCls s x.entry != 1 then scriptFault s i k x x.pc 6
    else if eParam s k.entry ≤ pln then scriptFault s i k x x.pc 1
    else match doutCheck s k pln errs with
    | (true, s) => leave (spendTime s k x) i { k with code := 10 } .finish
    | (false, s) =>
      let got := (List.range 8).foldl (fun m j => mset [] m (8 * pln + j) (getFrame s k (k.frame + 8 * pln + j))) k.got
      stepScript s i { k with got := got } x (x.pc + 1)

/-- DIN (R296): slots to the decoder, or to frames on a RAW strike, or bytes into a register. `data` is what the die sends:
4,160 bytes for each slot of a RAW read, or the register's bytes. -/
def execSwageDin (ch dst reg cnt : Nat) (data : List Nat) (s : State) : Res :=
  swage ch (swWord (dst < 2 && reg < 8 && cnt < 4) (0x40000000 + dst + 4 * reg + 32 * cnt)) s fun i k x =>
    let c := eCls s x.entry
    if dst = 1 then
      let b := padTo 0 (cnt + 1) (data.map (BitVec.ofNat 8))
      stepScript s i k { x with v := mset 0 x.v reg (leNat b) } (x.pc + 1)
    else if c != 0 && c != 4 && c != 5 then scriptFault s i k x x.pc 6
    else
      let x := { x with dins := x.dins + 1 }
      let k := { k with col := mget 0 x.v 1 }
      if k.raw && x.job = .main then
        let b := data.map (BitVec.ofNat 8)
        let s := (List.range (k.nslot + 1)).foldl (fun s j =>
          putFrame s k (k.frame + j) (padTo 0 4160 ((b.drop (4160 * j)).take 4160))) s
        stepScript s i k x (x.pc + 1)
      else stepScript s i k x (x.pc + 1)

/-- The row address that follows status command 0x78 (R296). -/
def statusAddr (s : State) (k : Strike) (x : Script) (scmd : Nat) : List Nat :=
  if scmd = 0x78 then lowBytes (getF s (CH_ROWFMT_RCYC k.chan)) (mget 0 x.v 0) else []

/-- WAITRDY: yields the bus and polls. -/
def execSwageWaitrdy (ch scmd b : Nat) (s : State) : Res :=
  swage ch (swWord (scmd < 256 && b < 8) (0x50000000 + scmd + 256 * b)) s fun i k x =>
    let k := if k.cls = 2 && x.job = .main then { k with busyFrom := s.clk.refNs } else k
    yieldBus s i k { x with pc := x.pc + 1, wait := some (scmd, b), ready := none }

/-- STATUS: one status read into v7, its command a command cycle (R288). -/
def execSwageStatus (ch scmd status : Nat) (s : State) : Res :=
  swage ch (swWord (scmd < 256) (0x60000000 + scmd)) s fun i k x =>
    stepScript (drive (drive s ch 0 [scmd]) ch 1 (statusAddr s k x scmd)) i k
      { x with v := mset 0 x.v 7 (status % 256), cmdAt := x.cmdAt.or (some s.clk.refNs) } (x.pc + 1)

/-- TEST: the flag F from a register's low byte. -/
def execSwageTest (ch reg mask : Nat) (all : Bool) (s : State) : Res :=
  swage ch (swWord (reg < 8 && mask < 256) (0x70000000 + reg + 256 * mask + 65536 * b2n all)) s fun i k x =>
    let v := (mget 0 x.v reg % 256) &&& mask
    stepScript s i k { x with f := if all then v = mask else v != 0 } (x.pc + 1)

/-- BRANCH: always, when F = 1, or when F = 0; a taken branch out of the code region is a fault. -/
def execSwageBranch (ch cond target : Nat) (s : State) : Res :=
  swage ch (swWord (cond < 3 && target < 2 ^ 14) (0x80000000 + cond * 2 ^ 26 + target)) s fun i k x =>
    let taken := cond = 0 || (cond = 1 && x.f) || (cond = 2 && !x.f)
    if !taken then stepScript s i k x (x.pc + 1)
    else if inCode target then stepScript s i k x target
    else scriptFault s i k x x.pc 4

/-- CALL: the stack is 4 deep. -/
def execSwageCall (ch target : Nat) (s : State) : Res :=
  swage ch (swWord (target < 2 ^ 14) (0x90000000 + target)) s fun i k x =>
    if 4 ≤ x.stack.length then scriptFault s i k x x.pc 2
    else if !inCode target then scriptFault s i k x x.pc 4
    else stepScript s i k { x with stack := (x.pc + 1) :: x.stack } target

def execSwageRet (ch : Nat) (s : State) : Res :=
  swage ch 0xA0000000 s fun i k x =>
    match x.stack with
    | [] => scriptFault s i k x x.pc 3
    | a :: t => stepScript s i k { x with stack := t } a

/-- The length of a timer unit in ns (R296). -/
def timerUnit (u : Nat) : Nat := 100 * 10 ^ u

/-- TIMER: sets or cancels the script's one timer. -/
def execSwageTimer (ch unit count target : Nat) (s : State) : Res :=
  swage ch (swWord (unit < 4 && count < 4096 && target < 2 ^ 14) (0xB0000000 + unit * 2 ^ 26 + count * 2 ^ 14 + target)) s
    fun i k x =>
      if count = 0 then stepScript s i k { x with timer := none } (x.pc + 1)
      else if !inCode target then scriptFault s i k x x.pc 4
      else stepScript s i k { x with timer := some (s.clk.refNs + count * timerUnit unit, target) } (x.pc + 1)

/-- Strikes of a channel whose scripts poll their die: in WAITRDY, not yet ready, and no poll within POLL_NS (R289). -/
def pollers (s : State) (ch : Nat) : List Nat :=
  (strikesWhere s fun k => k.chan = ch && (match k.script with
    | some x => x.wait.isSome && x.ready.isNone && (match x.pollAt with
      | some a => decide (a + getF s (CH_TIMING_POLL_NS ch) ≤ s.clk.refNs)
      | none => true)
    | none => false)).map Prod.fst

/-- The next to be polled, round robin. -/
def nextPoll (s : State) (ch : Nat) : Option Nat :=
  let l := pollers s ch
  match argMin id (l.filter fun i => decide (mget 0 s.ch.polled ch ≤ i)) with
  | some i => some i
  | none => argMin id l

/-- STATUS_POLL: a poll between bus holders with the script's status command; the status goes to v7, and a script whose bit is 1 is
ready (R289, R296). -/
def execStatusPoll (i status : Nat) (el : Elapse) (s0 : State) : Res :=
  let s := elapse s0 el
  match strikeAt s i with
  | none => .next s
  | some k =>
    match k.script with
    | none => .next s
    | some x =>
      match x.wait with
      | none => .next s
      | some (scmd, b) =>
        act (drivers s k.chan && (busHolder s k.chan).isNone && nextPoll s k.chan = some i) s <|
          let c := k.chan
          let s := drive (drive (clearBus s c) c 0 [scmd]) c 1 (statusAddr s k x scmd)
          let s := { s with ch := { s.ch with polled := mset 0 s.ch.polled c (i + 1) } }
          let x := { x with v := mset 0 x.v 7 (status % 256), pollAt := some s.clk.refNs, cmdAt := x.cmdAt.or (some s.clk.refNs)
                            ready := if bit (status % 256) b then some s.order else none }
          settleCh (grantBus (setStrike (tick s) i (some { k with script := some x })) c) c

/-- SCRIPT_TIMER_EXPIRY: any WAITRDY stops, the timer cancels itself, and the script goes on at TARGET (R297). -/
def execScriptTimerExpiry (i : Nat) (el : Elapse) (s0 : State) : Res :=
  let s := elapse s0 el
  match strikeAt s i with
  | none => .next s
  | some k =>
    match k.script with
    | none => .next s
    | some x =>
      match x.timer with
      | none => .next s
      | some (at0, target) =>
        act (at0 ≤ s.clk.refNs) s <|
          let s := addSat s (CH_ERR_TIMEOUT k.chan) 1
          let x := { x with timer := none, wait := none, ready := none, pc := target }
          settleCh (grantBus (setStrike s i (some { k with script := some x, timedOut := true })) k.chan) k.chan

end Sys2Proof.Machine
end

