-- ==== Sys2Proof/Machine/Dispatch.lean ====
section
/-! DEFINITION. The dispatch of every command to its meaning. -/
namespace Sys2Proof.Machine
open Sys2Proof

/-- The effect of a command on everything but the queue: one arm per row of spec/opcode_table.json. -/
def exec (i : Instr) (s : State) : Host.Outcome State Fault Refusal :=
  match i with
  | .powerOn vin => Sys2Proof.Machine.execPowerOn vin s
  | .vinBelowReset v => Sys2Proof.Machine.execVinBelowReset v s
  | .rstNReset ns low => Sys2Proof.Machine.execRstNReset ns low s
  | .stagedImageCopy reprog => Sys2Proof.Machine.execStagedImageCopy reprog s
  | .settingsRestore badA badB fault kat seals el => Sys2Proof.Machine.execSettingsRestore badA badB fault kat seals el s
  | .dramTrain el => Sys2Proof.Machine.execDramTrain el s
  | .roleSettle ownIn => Sys2Proof.Machine.execRoleSettle ownIn s
  | .flashDiscovery found train tprog endur => Sys2Proof.Machine.execFlashDiscovery found train tprog endur s
  | .mapCheckpointLoad newest previous => Sys2Proof.Machine.execMapCheckpointLoad newest previous s
  | .journalReplay badRec src => Sys2Proof.Machine.execJournalReplay badRec src s
  | .kindleComplete => Sys2Proof.Machine.execKindleComplete s
  | .validRecountDone => Sys2Proof.Machine.execValidRecountDone s
  | .vinWarning mv => Sys2Proof.Machine.execVinWarning mv s
  | .pfailNLow ns taken => Sys2Proof.Machine.execPfailNLow ns taken s
  | .d3hotEntry m => Sys2Proof.Machine.execD3hotEntry m s
  | .quench el => Sys2Proof.Machine.execQuench el s
  | .quenchPeerAckTimeout el => Sys2Proof.Machine.execQuenchPeerAckTimeout el s
  | .quenchReturn => Sys2Proof.Machine.execQuenchReturn s
  | .quenchToSafe => Sys2Proof.Machine.execQuenchToSafe s
  | .holdSample mv el => Sys2Proof.Machine.execHoldSample mv el s
  | .vinSample mv el => Sys2Proof.Machine.execVinSample mv el s
  | .thermalCompare tc el => Sys2Proof.Machine.execThermalCompare tc el s
  | .temperatureSample tc el => Sys2Proof.Machine.execTemperatureSample tc el s
  | .lifeHourCount tc => Sys2Proof.Machine.execLifeHourCount tc s
  | .safeEntry cause fails => Sys2Proof.Machine.execSafeEntry cause fails s
  | .chrTick hi lo el => Sys2Proof.Machine.execChrTick hi lo el s
  | .deadReckoningEntry el => Sys2Proof.Machine.execDeadReckoningEntry el s
  | .slewComplete el => Sys2Proof.Machine.execSlewComplete el s
  | .almanacScan el => Sys2Proof.Machine.execAlmanacScan el s
  | .watch => Sys2Proof.Machine.execWatch s
  | .refill => Sys2Proof.Machine.execRefill s
  | .snapshot => Sys2Proof.Machine.execSnapshot s
  | .lodestar => Sys2Proof.Machine.execLodestar s
  | .scrub => Sys2Proof.Machine.execScrub s
  | .patrol => Sys2Proof.Machine.execPatrol s
  | .swap => Sys2Proof.Machine.execSwap s
  | .activate => Sys2Proof.Machine.execActivate s
  | .post => Sys2Proof.Machine.execPost s
  | .channelBudgetReset el => Sys2Proof.Machine.execChannelBudgetReset el s
  | .swapatReached el => Sys2Proof.Machine.execSwapatReached el s
  | .helmDisagreement core => Sys2Proof.Machine.execHelmDisagreement core s
  | .taskRegisterWrite p form c block whole poison => Sys2Proof.Machine.execTaskRegisterWrite p form c block whole poison s
  | .ctxAbortWrite p c seq => Sys2Proof.Machine.execCtxAbortWrite p c seq s
  | .dispatch t => Sys2Proof.Machine.execDispatch t s
  | .slotGrant q => Sys2Proof.Machine.execSlotGrant q s
  | .quantumExpiry t => Sys2Proof.Machine.execQuantumExpiry t s
  | .waitTimeout t el => Sys2Proof.Machine.execWaitTimeout t el s
  | .lockHoldTimeout t el => Sys2Proof.Machine.execLockHoldTimeout t el s
  | .runLimitTimeout t => Sys2Proof.Machine.execRunLimitTimeout t s
  | .threadFault t x => Sys2Proof.Machine.execThreadFault t x s
  | .commandCompletion c x => Sys2Proof.Machine.execCommandCompletion c x s
  | .read c x => Sys2Proof.Machine.execRead c x s
  | .write c x => Sys2Proof.Machine.execWrite c x s
  | .writeZeroes c el => Sys2Proof.Machine.execWriteZeroes c el s
  | .trim c el => Sys2Proof.Machine.execTrim c el s
  | .flush => Sys2Proof.Machine.execFlush s
  | .flushAnswer idx => Sys2Proof.Machine.execFlushAnswer idx s
  | .verify c x => Sys2Proof.Machine.execVerify c x s
  | .compare c x => Sys2Proof.Machine.execCompare c x s
  | .compareAndWrite c x => Sys2Proof.Machine.execCompareAndWrite c x s
  | .copy c x => Sys2Proof.Machine.execCopy c x s
  | .healthRead c x => Sys2Proof.Machine.execHealthRead c x s
  | .volumeCreate => Sys2Proof.Machine.execVolumeCreate s
  | .volumeDelete => Sys2Proof.Machine.execVolumeDelete s
  | .volumeDeleteDrained => Sys2Proof.Machine.execVolumeDeleteDrained s
  | .contextBind pb => Sys2Proof.Machine.execContextBind pb s
  | .contextUnbind => Sys2Proof.Machine.execContextUnbind s
  | .keyLoadLoad pb partner => Sys2Proof.Machine.execKeyLoadLoad pb partner s
  | .keyLoadRetire pb partner => Sys2Proof.Machine.execKeyLoadRetire pb partner s
  | .keyLoadErase pb partner => Sys2Proof.Machine.execKeyLoadErase pb partner s
  | .setPowerRun => Sys2Proof.Machine.execSetPowerRun s
  | .setPowerBanked => Sys2Proof.Machine.execSetPowerBanked s
  | .bankedEntryDone => Sys2Proof.Machine.execBankedEntryDone s
  | .setModeRun => Sys2Proof.Machine.execSetModeRun s
  | .setModeService => Sys2Proof.Machine.execSetModeService s
  | .setModeSafe => Sys2Proof.Machine.execSetModeSafe s
  | .setModeRestart => Sys2Proof.Machine.execSetModeRestart s
  | .requestedChangeDrained => Sys2Proof.Machine.execRequestedChangeDrained s
  | .setTime => Sys2Proof.Machine.execSetTime s
  | .almanacSet pb => Sys2Proof.Machine.execAlmanacSet pb s
  | .shapeChangeReshape pb => Sys2Proof.Machine.execShapeChangeReshape pb s
  | .shapeChangeAdmit pb => Sys2Proof.Machine.execShapeChangeAdmit pb s
  | .shapeChangeRelease pb => Sys2Proof.Machine.execShapeChangeRelease pb s
  | .shapeChangeFail pb => Sys2Proof.Machine.execShapeChangeFail pb s
  | .shapeChangeReform pb => Sys2Proof.Machine.execShapeChangeReform pb s
  | .reshapeHandover e => Sys2Proof.Machine.execReshapeHandover e s
  | .reshapeSwitch => Sys2Proof.Machine.execReshapeSwitch s
  | .swapRole => Sys2Proof.Machine.execSwapRole s
  | .attest pb => Sys2Proof.Machine.execAttest pb s
  | .format => Sys2Proof.Machine.execFormat s
  | .settingsWipe => Sys2Proof.Machine.execSettingsWipe s
  | .quotaSet pb => Sys2Proof.Machine.execQuotaSet pb s
  | .logClear => Sys2Proof.Machine.execLogClear s
  | .enroll pb => Sys2Proof.Machine.execEnroll pb s
  | .pageRequestResponse p idx r => Sys2Proof.Machine.execPageRequestResponse p idx r s
  | .pageRequestTimeout p idx el => Sys2Proof.Machine.execPageRequestTimeout p idx el s
  | .atsInvalidation p tag r => Sys2Proof.Machine.execAtsInvalidation p tag r s
  | .dmaReadError d e => Sys2Proof.Machine.execDmaReadError d e s
  | .dmaCompletionTimeout d el => Sys2Proof.Machine.execDmaCompletionTimeout d el s
  | .portDown p => Sys2Proof.Machine.execPortDown p s
  | .portTrained p rate width flit l0p => Sys2Proof.Machine.execPortTrained p rate width flit l0p s
  | .poisonedPostedWrite w => Sys2Proof.Machine.execPoisonedPostedWrite w s
  | .registerWrite p bar2 off size v => Sys2Proof.Machine.execRegisterWrite p bar2 off size v s
  | .registerReadClear p sp off size e => Sys2Proof.Machine.execRegisterReadClear p sp off size e s
  | .malformedRequest p r => Sys2Proof.Machine.execMalformedRequest p r s
  | .helmAdminWrite v => Sys2Proof.Machine.execHelmAdminWrite v s
  | .safeCauseClear v => Sys2Proof.Machine.execSafeCauseClear v s
  | .tickEnWrite v => Sys2Proof.Machine.execTickEnWrite v s
  | .mapOpWrite v => Sys2Proof.Machine.execMapOpWrite v s
  | .mcDisable q en => Sys2Proof.Machine.execMcDisable q en s
  | .sliceDrained q => Sys2Proof.Machine.execSliceDrained q s
  | .scratchpadConversion q n => Sys2Proof.Machine.execScratchpadConversion q n s
  | .wayReenable q w => Sys2Proof.Machine.execWayReenable q w s
  | .ceTableClear => Sys2Proof.Machine.execCeTableClear s
  | .roleSuspClear v => Sys2Proof.Machine.execRoleSuspClear v s
  | .clrmin => Sys2Proof.Machine.execClrmin s
  | .force => Sys2Proof.Machine.execForce s
  | .resync => Sys2Proof.Machine.execResync s
  | .swapcan => Sys2Proof.Machine.execSwapcan s
  | .manual => Sys2Proof.Machine.execManual s
  | .logWindowAutoincRead p half => Sys2Proof.Machine.execLogWindowAutoincRead p half s
  | .logTrigger => Sys2Proof.Machine.execLogTrigger s
  | .logInterrupt el => Sys2Proof.Machine.execLogInterrupt el s
  | .add t rd rs1 rs2 => Sys2Proof.Machine.execAdd t rd rs1 rs2 s
  | .sub t rd rs1 rs2 => Sys2Proof.Machine.execSub t rd rs1 rs2 s
  | .and t rd rs1 rs2 => Sys2Proof.Machine.execAnd t rd rs1 rs2 s
  | .or t rd rs1 rs2 => Sys2Proof.Machine.execOr t rd rs1 rs2 s
  | .xor t rd rs1 rs2 => Sys2Proof.Machine.execXor t rd rs1 rs2 s
  | .shl t rd rs1 rs2 => Sys2Proof.Machine.execShl t rd rs1 rs2 s
  | .shr t rd rs1 rs2 => Sys2Proof.Machine.execShr t rd rs1 rs2 s
  | .sra t rd rs1 rs2 => Sys2Proof.Machine.execSra t rd rs1 rs2 s
  | .mul t rd rs1 rs2 => Sys2Proof.Machine.execMul t rd rs1 rs2 s
  | .slt t rd rs1 rs2 => Sys2Proof.Machine.execSlt t rd rs1 rs2 s
  | .sltu t rd rs1 rs2 => Sys2Proof.Machine.execSltu t rd rs1 rs2 s
  | .ext t rd rs1 lsb width => Sys2Proof.Machine.execExt t rd rs1 lsb width s
  | .ins t rd rs1 lsb width => Sys2Proof.Machine.execIns t rd rs1 lsb width s
  | .mfs t rd sel => Sys2Proof.Machine.execMfs t rd sel s
  | .addi t rd rs1 imm => Sys2Proof.Machine.execAddi t rd rs1 imm s
  | .andi t rd rs1 imm => Sys2Proof.Machine.execAndi t rd rs1 imm s
  | .ori t rd rs1 imm => Sys2Proof.Machine.execOri t rd rs1 imm s
  | .xori t rd rs1 imm => Sys2Proof.Machine.execXori t rd rs1 imm s
  | .shli t rd rs1 imm => Sys2Proof.Machine.execShli t rd rs1 imm s
  | .shri t rd rs1 imm => Sys2Proof.Machine.execShri t rd rs1 imm s
  | .sltiu t rd rs1 imm => Sys2Proof.Machine.execSltiu t rd rs1 imm s
  | .lih t rd rs1 imm => Sys2Proof.Machine.execLih t rd rs1 imm s
  | .br t cond rs1 rs2 imm => Sys2Proof.Machine.execBr t cond rs1 rs2 imm s
  | .jal t rd imm => Sys2Proof.Machine.execJal t rd imm s
  | .jalr t rd rs1 imm => Sys2Proof.Machine.execJalr t rd rs1 imm s
  | .ldl t size rd rs1 imm e => Sys2Proof.Machine.execLdl t size rd rs1 imm e s
  | .stl t size rs2 rs1 imm => Sys2Proof.Machine.execStl t size rs2 rs1 imm s
  | .lds t size rd rs1 imm e => Sys2Proof.Machine.execLds t size rd rs1 imm e s
  | .sts t size rs2 rs1 imm => Sys2Proof.Machine.execSts t size rs2 rs1 imm s
  | .ldp t size rd rs1 imm => Sys2Proof.Machine.execLdp t size rd rs1 imm s
  | .ldb t size rd rs1 rs2 imm e => Sys2Proof.Machine.execLdb t size rd rs1 rs2 imm e s
  | .stb t size rs2 rs1 rd m => Sys2Proof.Machine.execStb t size rs2 rs1 rd m s
  | .ldd t size rd rs1 imm e => Sys2Proof.Machine.execLdd t size rd rs1 imm e s
  | .std t size rs2 rs1 m => Sys2Proof.Machine.execStd t size rs2 rs1 m s
  | .vlbn t rd rs1 rs2 c src => Sys2Proof.Machine.execVlbn t rd rs1 rs2 c src s
  | .mlook t rd rs1 e => Sys2Proof.Machine.execMlook t rd rs1 e s
  | .mgen t rd rs1 e => Sys2Proof.Machine.execMgen t rd rs1 e s
  | .mgnew t rd => Sys2Proof.Machine.execMgnew t rd s
  | .mset t rd rs1 rs2 frame slot act rel wb => Sys2Proof.Machine.execMset t rd rs1 rs2 frame slot act rel wb s
  | .mcommit t rd slot last e => Sys2Proof.Machine.execMcommit t rd slot last e s
  | .mdrop t slot => Sys2Proof.Machine.execMdrop t slot s
  | .mrel t => Sys2Proof.Machine.execMrel t s
  | .lockb t rs1 => Sys2Proof.Machine.execLockb t rs1 s
  | .unlock t rs1 => Sys2Proof.Machine.execUnlock t rs1 s
  | .balloc t rd pool wb => Sys2Proof.Machine.execBalloc t rd pool wb s
  | .bfree t rs1 => Sys2Proof.Machine.execBfree t rs1 s
  | .bshare t rs1 rs2 give => Sys2Proof.Machine.execBshare t rs1 rs2 give s
  | .btake t rd => Sys2Proof.Machine.execBtake t rd s
  | .strike t rd rs1 rs2 entry frame rb flim limit raw nslot => Sys2Proof.Machine.execStrike t rd rs1 rs2 entry frame rb flim limit raw nslot s
  | .mwait t rd rs1 => Sys2Proof.Machine.execMwait t rd rs1 s
  | .mwany t rd => Sys2Proof.Machine.execMwany t rd s
  | .mpoll t rd rs1 => Sys2Proof.Machine.execMpoll t rd rs1 s
  | .xin t rd rs1 => Sys2Proof.Machine.execXin t rd rs1 s
  | .xout t rd rs1 => Sys2Proof.Machine.execXout t rd rs1 s
  | .xcopy t rd rs1 => Sys2Proof.Machine.execXcopy t rd rs1 s
  | .xwait t rd rs1 => Sys2Proof.Machine.execXwait t rd rs1 s
  | .xpoll t rd rs1 => Sys2Proof.Machine.execXpoll t rd rs1 s
  | .cenc t rd rs1 => Sys2Proof.Machine.execCenc t rd rs1 s
  | .cdec t rd rs1 => Sys2Proof.Machine.execCdec t rd rs1 s
  | .pxopen t rd rs1 => Sys2Proof.Machine.execPxopen t rd rs1 s
  | .pxadd t rd rs1 rs2 frame mem => Sys2Proof.Machine.execPxadd t rd rs1 rs2 frame mem s
  | .pxclose t rd rs1 rs2 frame => Sys2Proof.Machine.execPxclose t rd rs1 rs2 frame s
  | .pxreb t rd rs1 => Sys2Proof.Machine.execPxreb t rd rs1 s
  | .tnow t rd => Sys2Proof.Machine.execTnow t rd s
  | .tflags t rd => Sys2Proof.Machine.execTflags t rd s
  | .twait t rs1 => Sys2Proof.Machine.execTwait t rs1 s
  | .timeDeadline t el => Sys2Proof.Machine.execTimeDeadline t el s
  | .qchg t rs1 rs2 imm => Sys2Proof.Machine.execQchg t rs1 rs2 imm s
  | .msend t rs1 rs2 => Sys2Proof.Machine.execMsend t rs1 rs2 s
  | .mrecv t rd rs1 rs2 => Sys2Proof.Machine.execMrecv t rd rs1 rs2 s
  | .mack t rs1 rs2 => Sys2Proof.Machine.execMack t rs1 rs2 s
  | .mhelm t rs1 => Sys2Proof.Machine.execMhelm t rs1 s
  | .helmCommandAnswer x => Sys2Proof.Machine.execHelmCommandAnswer x s
  | .done t rs1 rs2 => Sys2Proof.Machine.execDone t rs1 rs2 s
  | .yield t => Sys2Proof.Machine.execYield t s
  | .fault t imm => Sys2Proof.Machine.execFault t imm s
  | .undefinedInstruction f => Sys2Proof.Machine.execUndefinedInstruction f s
  | .mapFill line e => Sys2Proof.Machine.execMapFill line e s
  | .writeThroughDrain x => Sys2Proof.Machine.execWriteThroughDrain x s
  | .journalTailSpace g => Sys2Proof.Machine.execJournalTailSpace g s
  | .overlaySpaceFreed => Sys2Proof.Machine.execOverlaySpaceFreed s
  | .checkpointRootUpdate x jseg => Sys2Proof.Machine.execCheckpointRootUpdate x jseg s
  | .transferEnd t n data pis errs reads => Sys2Proof.Machine.execTransferEnd t n data pis errs reads s
  | .cipherTransferEnd t n x => Sys2Proof.Machine.execCipherTransferEnd t n x s
  | .strikeStart ch => Sys2Proof.Machine.execStrikeStart ch s
  | .swageEnd ch code dec => Sys2Proof.Machine.execSwageEnd ch code dec s
  | .swageCmd ch byte => Sys2Proof.Machine.execSwageCmd ch byte s
  | .swageAddr ch ncyc src reg pln => Sys2Proof.Machine.execSwageAddr ch ncyc src reg pln s
  | .swageDout ch src reg cnt pln errs => Sys2Proof.Machine.execSwageDout ch src reg cnt pln errs s
  | .swageDin ch dst reg cnt data => Sys2Proof.Machine.execSwageDin ch dst reg cnt data s
  | .swageWaitrdy ch scmd b => Sys2Proof.Machine.execSwageWaitrdy ch scmd b s
  | .swageStatus ch scmd status => Sys2Proof.Machine.execSwageStatus ch scmd status s
  | .swageTest ch reg mask all => Sys2Proof.Machine.execSwageTest ch reg mask all s
  | .swageBranch ch cond target => Sys2Proof.Machine.execSwageBranch ch cond target s
  | .swageCall ch target => Sys2Proof.Machine.execSwageCall ch target s
  | .swageRet ch => Sys2Proof.Machine.execSwageRet ch s
  | .swageTimer ch unit count target => Sys2Proof.Machine.execSwageTimer ch unit count target s
  | .statusPoll idx status el => Sys2Proof.Machine.execStatusPoll idx status el s
  | .scriptTimerExpiry idx el => Sys2Proof.Machine.execScriptTimerExpiry idx el s
  | .hardDecode idx res => Sys2Proof.Machine.execHardDecode idx res s
  | .softDecode idx res => Sys2Proof.Machine.execSoftDecode idx res s
  | .readRetryRow idx => Sys2Proof.Machine.execReadRetryRow idx s
  | .strikeOutcome idx => Sys2Proof.Machine.execStrikeOutcome idx s
  | .parityRebuild idx reads => Sys2Proof.Machine.execParityRebuild idx reads s
  | .eraseSuspend die el => Sys2Proof.Machine.execEraseSuspend die el s
  | .eraseResume die el => Sys2Proof.Machine.execEraseResume die el s
  | .channelRetrain ch r el => Sys2Proof.Machine.execChannelRetrain ch r el s
  | .helmRequestService => Sys2Proof.Machine.execHelmRequestService s
  | .reqOpen t => Sys2Proof.Machine.execReqOpen t s
  | .reqClose t => Sys2Proof.Machine.execReqClose t s
  | .reqGc t => Sys2Proof.Machine.execReqGc t s
  | .reqRelease t => Sys2Proof.Machine.execReqRelease t s
  | .reqErase t => Sys2Proof.Machine.execReqErase t s
  | .reqPatrol t => Sys2Proof.Machine.execReqPatrol t s
  | .spareAssign => Sys2Proof.Machine.execSpareAssign s
  | .dramScrubStep errs el => Sys2Proof.Machine.execDramScrubStep errs el s
  | .sramScrub q corr unc el => Sys2Proof.Machine.execSramScrub q corr unc el s
  | .leaseExpiry el => Sys2Proof.Machine.execLeaseExpiry el s
  | .interlockDetect => Sys2Proof.Machine.execInterlockDetect s
  | .ownershipAcquire in1 in2 el => Sys2Proof.Machine.execOwnershipAcquire in1 in2 el s
  | .ownershipRetry el => Sys2Proof.Machine.execOwnershipRetry el s
  | .takeover take => Sys2Proof.Machine.execTakeover take s
  | .takeoverWithheld => Sys2Proof.Machine.execTakeoverWithheld s
  | .salvageEnd el => Sys2Proof.Machine.execSalvageEnd el s
  | .mapSegmentLoad seg => Sys2Proof.Machine.execMapSegmentLoad seg s
  | .hbSend el => Sys2Proof.Machine.execHbSend el s
  | .partnerAbsent noAck el => Sys2Proof.Machine.execPartnerAbsent noAck el s
  | .pairHb m jseq jend ceil sth => Sys2Proof.Machine.execPairHb m jseq jend ceil sth s
  | .pairJrec r => Sys2Proof.Machine.execPairJrec r s
  | .pairRoot round jend => Sys2Proof.Machine.execPairRoot round jend s
  | .pairSif idx e => Sys2Proof.Machine.execPairSif idx e s
  | .pairMedc c => Sys2Proof.Machine.execPairMedc c s
  | .pairCfg c => Sys2Proof.Machine.execPairCfg c s
  | .pairSlot idx x => Sys2Proof.Machine.execPairSlot idx x s
  | .pairKey o => Sys2Proof.Machine.execPairKey o s
  | .pairLode idx w => Sys2Proof.Machine.execPairLode idx w s
  | .pairSalv m => Sys2Proof.Machine.execPairSalv m s
  | .pairSwap done jseq take => Sys2Proof.Machine.execPairSwap done jseq take s
  | .pairMbx pos isAck dst out sender flags stamp body => Sys2Proof.Machine.execPairMbx pos isAck dst out sender flags stamp body s
  | .pairAck kind n => Sys2Proof.Machine.execPairAck kind n s
  | .lodestarRecompute => Sys2Proof.Machine.execLodestarRecompute s
  | .resyncComplete => Sys2Proof.Machine.execResyncComplete s
  | .selfTestCycle qpass dram links ilock el => Sys2Proof.Machine.execSelfTestCycle qpass dram links ilock el s
  | .swapOverdue el => Sys2Proof.Machine.execSwapOverdue el s
  | .swapBufferDrained => Sys2Proof.Machine.execSwapBufferDrained s
  | .swapDrainTimeout el => Sys2Proof.Machine.execSwapDrainTimeout el s
  | .cascadePartReceive c off tot block => Sys2Proof.Machine.execCascadePartReceive c off tot block s
  | .cascadeReady c u pos appended => Sys2Proof.Machine.execCascadeReady c u pos appended s
  | .cascadeGo c u => Sys2Proof.Machine.execCascadeGo c u s
  | .cascadeAbandon c u abort => Sys2Proof.Machine.execCascadeAbandon c u abort s
  | .cascadePartEnd c pos off cls detail offset result => Sys2Proof.Machine.execCascadePartEnd c pos off cls detail offset result s
  | .positionTimeout pos taken el => Sys2Proof.Machine.execPositionTimeout pos taken el s
  | .cascadeAdminTimeout silent el => Sys2Proof.Machine.execCascadeAdminTimeout silent el s
  | .imgQgo go helm desc buf => Sys2Proof.Machine.execImgQgo go helm desc buf s
  | .descriptorStart n => Sys2Proof.Machine.execDescriptorStart n s
  | .descriptorEnd n => Sys2Proof.Machine.execDescriptorEnd n s
  | .descriptorTimeout n junk el => Sys2Proof.Machine.execDescriptorTimeout n junk el s
  | .imgWpWrite k v => Sys2Proof.Machine.execImgWpWrite k v s
  | .intakeTimeout el => Sys2Proof.Machine.execIntakeTimeout el s
  | .activationNotice mb => Sys2Proof.Machine.execActivationNotice mb s
  | .activationAnswer el => Sys2Proof.Machine.execActivationAnswer el s
  | .activatedNotice pos => Sys2Proof.Machine.execActivatedNotice pos s
  | .svcStatus => Sys2Proof.Machine.execSvcStatus s
  | .svcWriteFrame b => Sys2Proof.Machine.execSvcWriteFrame b s
  | .svcReadFrame n => Sys2Proof.Machine.execSvcReadFrame n s
  | .cmd => Sys2Proof.Machine.execCmd s
  | .regRd => Sys2Proof.Machine.execRegRd s
  | .regWr => Sys2Proof.Machine.execRegWr s
  | .mbxSend => Sys2Proof.Machine.execMbxSend s
  | .mbxRecv => Sys2Proof.Machine.execMbxRecv s
  | .mbxAck => Sys2Proof.Machine.execMbxAck s
  | .imgData diffs => Sys2Proof.Machine.execImgData diffs s
  | .imgEnd => Sys2Proof.Machine.execImgEnd s
  | .mbxCtlSend n => Sys2Proof.Machine.execMbxCtlSend n s
  | .mbxCtlTake n => Sys2Proof.Machine.execMbxCtlTake n s
  | .mbxCtlAck n code => Sys2Proof.Machine.execMbxCtlAck n code s
  | .tstStart => Sys2Proof.Machine.execTstStart s
  | .tstStop bits errs => Sys2Proof.Machine.execTstStop bits errs s
  | .testRunEnd bits errs el => Sys2Proof.Machine.execTestRunEnd bits errs el s
  | .checkerLockLost bits errs => Sys2Proof.Machine.execCheckerLockLost bits errs s
  | .bypass => Sys2Proof.Machine.execBypass s
  | .idcode => Sys2Proof.Machine.execIdcode s
  | .samplePreload => Sys2Proof.Machine.execSamplePreload s
  | .extest ownIn => Sys2Proof.Machine.execExtest ownIn s
  | .extestPulse => Sys2Proof.Machine.execExtestPulse s
  | .extestTrain => Sys2Proof.Machine.execExtestTrain s
  | .clamp => Sys2Proof.Machine.execClamp s
  | .highz => Sys2Proof.Machine.execHighz s
  | .checkerLock => Sys2Proof.Machine.execCheckerLock s
  | .powerWarningRelease mv pfHigh el => Sys2Proof.Machine.execPowerWarningRelease mv pfHigh el s
  | .pairLinkDown x => Sys2Proof.Machine.execPairLinkDown x s
  | .cascadeLinkDown n => Sys2Proof.Machine.execCascadeLinkDown n s
  | .cascadeLinkUp n lcaps => Sys2Proof.Machine.execCascadeLinkUp n lcaps s
  | .translationCompletion d meta_ x => Sys2Proof.Machine.execTranslationCompletion d meta_ x s
  | .atsEnable p on => Sys2Proof.Machine.execAtsEnable p on s
  | .correctableLinkError p => Sys2Proof.Machine.execCorrectableLinkError p s
  | .tapReset => Sys2Proof.Machine.execTapReset s

end Sys2Proof.Machine
end

