-- ==== Sys2Proof/Safety.lean ====
section
/-! DEFINITION. The terms the statements are made in: which registers, threads and parts of the state a command leaves alone, and
what it means that an Anvil instruction issues, retires, faults or begins to wait. -/
namespace Sys2Proof.Safety
open Sys2Proof Sys2Proof.Machine

/-- Every register field but those listed reads the same in both states. -/
def RegsKept (but : List Fld) (s u : State) : Prop :=
  ∀ f : Fld, (∀ g ∈ but, (f.key == g.key && f.ret == g.ret) = false) → getF u f = getF s f

/-- Every thread but `t` is as it was. -/
def ThreadsKept (t : Nat) (s u : State) : Prop := ∀ m, m ≠ t → th u m = th s m

/-- Every context page but `c` is as it was. -/
def ContextsKept (c : Nat) (s u : State) : Prop := ∀ m, m ≠ c → cx u m = cx s m

/-- The ANV_ISSUE count to which the instructions of thread `t` add (R19). -/
def issueFld (t : Nat) : Fld := if isHost t then ANV_ISSUE_H_COUNT (quadOf t) else ANV_ISSUE_I_COUNT (quadOf t)

/-- From `s` to `u` thread `t` issued one instruction that changed nothing but its own record, as `x` gives it, and the count of
issued instructions (R148, R171). -/
structure Issued (s u : State) (t : Nat) (x : Thread) : Prop where
  thread : th u t = x
  threads : ThreadsKept t s u
  count : getF u (issueFld t) = (getF s (issueFld t) + 1) % 2 ^ (issueFld t).w
  regs : RegsKept [issueFld t] s u
  frame : u = { s with thr := u.thr, vf := u.vf }

/-- The record of a thread that moved past an instruction (R152, R167, R171). -/
def advanced (x : Thread) : Thread := { x with pc := x.pc + 8, issued := x.issued + 1, runIssued := x.runIssued + 1 }

/-- The instruction of thread `t` retired with `v` in `rd`: `rd` alone takes a value, g0 none (R171, R184). -/
structure Retired (s u : State) (t rd : Nat) (v : W64) : Prop where
  dest : rd ≠ 0 → gr u t rd = v
  others : ∀ r, r = 0 ∨ r ≠ rd → gr u t r = gr s t r
  issued : Issued s u t { advanced (th s t) with g := (th u t).g }

/-- The instruction of thread `t` faulted: the class, the code and the pc are recorded, and nothing else changes (R168 step 1). -/
structure Faulted (s u : State) (t cls code : Nat) : Prop where
  thread : th u t = { th s t with st := .faulted, why := .none, cont := .nothing, faultValid := true, faultCls := cls,
                                  faultCode := code, faultPc := (th s t).pc % 2 ^ 23, faultImm := 0 }
  threads : ThreadsKept t s u
  frame : u = { s with thr := u.thr }

/-- The record of a thread that moved past an instruction and waits (R146, R155). -/
def waiting (s : State) (x : Thread) (w : Why) (arg : Nat) (k : Cont) : Thread :=
  { advanced x with st := w.state, why := w, lastWhy := w, arg := arg, sinceNow := s.clk.now, sinceRef := s.clk.refNs,
                    waitAt := s.order, cont := k, waited := true, runIssued := 0 }

/-- Every access of a lookup's lines hits: the state after them (R189, R236). -/
def hits (s : State) (t : Nat) : List Nat → Option State
  | [] => some s
  | l :: rest =>
    if s.map.toLoad.contains (segOf (64 * l)) then none else
    match access s t l with
    | (.hit, s') => hits s' t rest
    | _ => none

/-- The helm takes up the request `r` of opcode `o` in one of `modes`, its configuration not frozen (R128, R130, R131). -/
def asked (s : State) (r : HelmReq) (o : Nat) (modes : List Nat) : Prop :=
  nextReq s = some r ∧ reqOpc r = o ∧ s.boot.image = true ∧ mode s ≠ mOff ∧ inMode s modes = true ∧ flag s CAS_STAT_FROZEN = false

/-- A request's OPC-specific fields: ARG0 valid as `a0` says, ARG1 as `a1`, and its common fields aligned (R128, R130). -/
def fieldsOk (r : HelmReq) (need : Option Nat) : Prop := fieldCheck r true true need = none

/-- The instruction word that an Anvil command stands for, with the thread that issues it (R174, R184 to R200). -/
def anvilWord : Instr → Option (Nat × Nat)
  | .add t rd rs1 rs2 => some (t, aw 0x01 rd rs1 rs2 0 0)
  | .sub t rd rs1 rs2 => some (t, aw 0x02 rd rs1 rs2 0 0)
  | .and t rd rs1 rs2 => some (t, aw 0x03 rd rs1 rs2 0 0)
  | .or t rd rs1 rs2 => some (t, aw 0x04 rd rs1 rs2 0 0)
  | .xor t rd rs1 rs2 => some (t, aw 0x05 rd rs1 rs2 0 0)
  | .shl t rd rs1 rs2 => some (t, aw 0x06 rd rs1 rs2 0 0)
  | .shr t rd rs1 rs2 => some (t, aw 0x07 rd rs1 rs2 0 0)
  | .sra t rd rs1 rs2 => some (t, aw 0x08 rd rs1 rs2 0 0)
  | .mul t rd rs1 rs2 => some (t, aw 0x09 rd rs1 rs2 0 0)
  | .slt t rd rs1 rs2 => some (t, aw 0x0A rd rs1 rs2 0 0)
  | .sltu t rd rs1 rs2 => some (t, aw 0x0B rd rs1 rs2 0 0)
  | .ext t rd rs1 lsb width => some (t, aw 0x0C rd rs1 0 0 (lsb + 64 * (width - 1)))
  | .ins t rd rs1 lsb width => some (t, aw 0x0D rd rs1 0 0 (lsb + 64 * (width - 1)))
  | .mfs t rd sel => some (t, aw 0x0E rd 0 0 0 sel)
  | .addi t rd rs1 imm => some (t, aw 0x11 rd rs1 0 0 imm)
  | .andi t rd rs1 imm => some (t, aw 0x13 rd rs1 0 0 imm)
  | .ori t rd rs1 imm => some (t, aw 0x14 rd rs1 0 0 imm)
  | .xori t rd rs1 imm => some (t, aw 0x15 rd rs1 0 0 imm)
  | .shli t rd rs1 imm => some (t, aw 0x16 rd rs1 0 0 imm)
  | .shri t rd rs1 imm => some (t, aw 0x17 rd rs1 0 0 imm)
  | .sltiu t rd rs1 imm => some (t, aw 0x1B rd rs1 0 0 imm)
  | .lih t rd rs1 imm => some (t, aw 0x1F rd rs1 0 0 imm)
  | .br t cond rs1 rs2 imm => some (t, aw 0x20 0 rs1 rs2 cond imm)
  | .jal t rd imm => some (t, aw 0x21 rd 0 0 0 imm)
  | .jalr t rd rs1 imm => some (t, aw 0x22 rd rs1 0 0 imm)
  | .ldl t size rd rs1 imm _ => some (t, aw 0x30 rd rs1 0 size imm)
  | .stl t size rs2 rs1 imm => some (t, aw 0x31 0 rs1 rs2 size imm)
  | .lds t size rd rs1 imm _ => some (t, aw 0x34 rd rs1 0 size imm)
  | .sts t size rs2 rs1 imm => some (t, aw 0x35 0 rs1 rs2 size imm)
  | .ldp t size rd rs1 imm => some (t, aw 0x36 rd rs1 0 size imm)
  | .ldb t size rd rs1 rs2 imm _ => some (t, aw 0x40 rd rs1 rs2 size imm)
  | .stb t size rs2 rs1 rd ⟨imm, _⟩ => some (t, aw 0x41 rd rs1 rs2 size imm)
  | .ldd t size rd rs1 imm _ => some (t, aw 0x42 rd rs1 0 size imm)
  | .std t size rs2 rs1 ⟨imm, _⟩ => some (t, aw 0x43 0 rs1 rs2 size imm)
  | .vlbn t rd rs1 rs2 c src => some (t, aw 0x50 rd rs1 rs2 (b2n c + 2 * b2n src) 0)
  | .mlook t rd rs1 _ => some (t, aw 0x51 rd rs1 0 0 0)
  | .mgen t rd rs1 _ => some (t, aw 0x52 rd rs1 0 0 0)
  | .mgnew t rd => some (t, aw 0x53 rd 0 0 0 0)
  | .mset t rd rs1 rs2 frame slot act rel wb => some (t, aw 0x54 rd rs1 rs2 (slot + 4 * act + 16 * b2n rel + 32 * b2n wb) frame)
  | .mcommit t rd slot last _ => some (t, aw 0x55 rd 0 0 (slot + 4 * b2n last) 0)
  | .mdrop t slot => some (t, aw 0x56 0 0 0 slot 0)
  | .mrel t => some (t, aw 0x57 0 0 0 0 0)
  | .lockb t rs1 => some (t, aw 0x60 0 rs1 0 0 0)
  | .unlock t rs1 => some (t, aw 0x61 0 rs1 0 0 0)
  | .balloc t rd pool wb => some (t, aw 0x70 rd 0 0 (pool + 4 * b2n wb) 0)
  | .bfree t rs1 => some (t, aw 0x71 0 rs1 0 0 0)
  | .bshare t rs1 rs2 give => some (t, aw 0x72 0 rs1 rs2 (b2n give) 0)
  | .btake t rd => some (t, aw 0x73 rd 0 0 0 0)
  | .strike t rd rs1 rs2 entry frame rb flim limit raw nslot =>
    some (t, aw 0x80 rd rs1 rs2 (b2n rb + 2 * b2n flim + 4 * b2n limit + 8 * b2n raw + 16 * nslot) (entry + 2 ^ 16 * frame))
  | .mwait t rd rs1 => some (t, aw 0x81 rd rs1 0 0 0)
  | .mwany t rd => some (t, aw 0x82 rd 0 0 0 0)
  | .mpoll t rd rs1 => some (t, aw 0x83 rd rs1 0 0 0)
  | .xin t rd rs1 => some (t, aw 0x90 rd rs1 0 0 0)
  | .xout t rd rs1 => some (t, aw 0x91 rd rs1 0 0 0)
  | .xcopy t rd rs1 => some (t, aw 0x92 rd rs1 0 0 0)
  | .xwait t rd rs1 => some (t, aw 0x93 rd rs1 0 0 0)
  | .xpoll t rd rs1 => some (t, aw 0x94 rd rs1 0 0 0)
  | .cenc t rd rs1 => some (t, aw 0xA0 rd rs1 0 0 0)
  | .cdec t rd rs1 => some (t, aw 0xA1 rd rs1 0 0 0)
  | .pxopen t rd rs1 => some (t, aw 0xB0 rd rs1 0 0 0)
  | .pxadd t rd rs1 rs2 frame mem => some (t, aw 0xB1 rd rs1 rs2 0 (frame + 256 * mem))
  | .pxclose t rd rs1 rs2 frame => some (t, aw 0xB2 rd rs1 rs2 0 frame)
  | .pxreb t rd rs1 => some (t, aw 0xB3 rd rs1 0 0 0)
  | .tnow t rd => some (t, aw 0xC0 rd 0 0 0 0)
  | .tflags t rd => some (t, aw 0xC1 rd 0 0 0 0)
  | .twait t rs1 => some (t, aw 0xC2 0 rs1 0 0 0)
  | .qchg t rs1 rs2 imm => some (t, aw 0xC3 0 rs1 rs2 0 imm)
  | .msend t rs1 rs2 => some (t, aw 0xD0 0 rs1 rs2 0 0)
  | .mrecv t rd rs1 rs2 => some (t, aw 0xD1 rd rs1 rs2 0 0)
  | .mack t rs1 rs2 => some (t, aw 0xD2 0 rs1 rs2 0 0)
  | .mhelm t rs1 => some (t, aw 0xD3 0 rs1 0 0 0)
  | .done t rs1 rs2 => some (t, aw 0xE0 0 rs1 rs2 0 0)
  | .yield t => some (t, aw 0xE8 0 0 0 0 0)
  | .fault t imm => some (t, aw 0xEF 0 0 0 0 imm)
  | _ => none

/-- An Anvil command without what the memory it reads is found to hold: its word alone. -/
def plain : Instr → Instr
  | .ldl t size rd rs1 imm _ => .ldl t size rd rs1 imm .ok
  | .lds t size rd rs1 imm _ => .lds t size rd rs1 imm .ok
  | .ldb t size rd rs1 rs2 imm _ => .ldb t size rd rs1 rs2 imm .ok
  | .ldd t size rd rs1 imm _ => .ldd t size rd rs1 imm .ok
  | .stb t size rs2 rs1 rd ⟨imm, _⟩ => .stb t size rs2 rs1 rd ⟨imm, .ok⟩
  | .std t size rs2 rs1 ⟨imm, _⟩ => .std t size rs2 rs1 ⟨imm, .ok⟩
  | .mlook t rd rs1 _ => .mlook t rd rs1 []
  | .mgen t rd rs1 _ => .mgen t rd rs1 []
  | .mcommit t rd slot last _ => .mcommit t rd slot last []
  | c => c

end Sys2Proof.Safety
end

