-- ==== Sys2Proof/WellFormed.lean ====
section
/-! DEFINITION. Well-formed commands: every operand lies in the range that the spec gives the thing it names. The meanings are
total without it: an operand out of range names nothing, and its command has no effect. -/
namespace Sys2Proof.WellFormed
open Sys2Proof

/-- Thread numbers: 4,096 host contexts and 512 internal threads (R18). -/
def threads : Nat := 4608
/-- Context pages (R109). -/
def contexts : Nat := 4096
/-- Host ports A and B (R88). -/
def ports : Nat := 2
/-- General registers (R171). -/
def registers : Nat := 32
/-- Flash channels (R276). -/
def channels : Nat := 32
/-- Global die indices: 32 channels of 16 packages of 16 dies (R276). -/
def dies : Nat := 8192

/-- Every operand of the list is below the bound. -/
def below (b : Nat) (l : List Nat) : Bool := l.all fun v => decide (v < b)

/-- No correction removes more than 1 ns in each µs (R41). -/
def elapse (e : Elapse) : Bool := decide (e.corr ≤ e.ns / 1000)

/-- A bit field of a 64-bit register is at least one bit wide (R184). -/
def span (lsb width : Nat) : Bool := decide (lsb < 64) && decide (1 ≤ width)

/-- A checkpoint round's map image is in the canonical form of a byte map. -/
def image (r : Option Round) : Bool :=
  match r with
  | some r => decide ((r.image.map Prod.fst).Pairwise (· < ·)) && r.image.all fun e => e.2 != 0
  | none => true

end Sys2Proof.WellFormed

namespace Sys2Proof
open WellFormed

/-- The operands of a command lie in their ranges. -/
def Instr.wf : Instr → Bool
  | .powerOn _ | .vinBelowReset _ | .rstNReset _ _ | .stagedImageCopy _ | .roleSettle _ | .flashDiscovery _ _ _ _
  | .mapCheckpointLoad _ _ | .journalReplay _ _ | .kindleComplete | .validRecountDone | .vinWarning _ | .pfailNLow _ _
  | .quenchReturn | .quenchToSafe | .lifeHourCount _ | .watch | .refill | .snapshot | .lodestar | .scrub | .patrol | .swap
  | .activate | .post | .flush | .flushAnswer _ | .volumeCreate | .volumeDelete | .volumeDeleteDrained | .contextBind _
  | .contextUnbind | .keyLoadLoad _ _ | .keyLoadRetire _ _ | .keyLoadErase _ _ | .setPowerRun | .setPowerBanked
  | .bankedEntryDone | .setModeRun | .setModeService | .setModeSafe | .setModeRestart | .requestedChangeDrained | .setTime
  | .almanacSet _ | .shapeChangeReshape _ | .shapeChangeAdmit _ | .shapeChangeRelease _ | .shapeChangeFail _
  | .shapeChangeReform _ | .reshapeHandover _ | .reshapeSwitch | .swapRole | .attest _ | .format | .settingsWipe | .quotaSet _
  | .logClear | .enroll _ | .dmaReadError _ _ | .helmAdminWrite _ | .safeCauseClear _ | .tickEnWrite _ | .mapOpWrite _
  | .ceTableClear | .roleSuspClear _ | .clrmin | .force | .resync | .swapcan | .manual | .logTrigger | .helmCommandAnswer _
  | .mapFill _ _ | .journalTailSpace _ | .overlaySpaceFreed | .checkpointRootUpdate _ _ | .hardDecode _ _ | .softDecode _ _
  | .readRetryRow _ | .strikeOutcome _ | .parityRebuild _ _ | .helmRequestService | .spareAssign | .interlockDetect
  | .takeover _ | .takeoverWithheld | .mapSegmentLoad _ | .pairHb _ _ _ _ _ | .pairJrec _ | .pairSif _ _ | .pairMedc _
  | .pairCfg _ | .pairSlot _ _ | .pairKey _ | .pairLode _ _ | .pairSalv _ | .pairSwap _ _ _ | .pairAck _ _ | .lodestarRecompute
  | .resyncComplete | .swapBufferDrained | .imgQgo _ _ _ _ | .imgWpWrite _ _ | .activationNotice _ | .svcStatus
  | .svcWriteFrame _ | .svcReadFrame _ | .cmd | .regRd | .regWr | .mbxSend | .mbxRecv | .mbxAck | .imgData _ | .imgEnd
  | .tstStart | .tstStop _ _ | .checkerLockLost _ _ | .bypass | .idcode | .samplePreload | .extest _ | .extestPulse
  | .extestTrain | .clamp | .highz | .checkerLock | .pairLinkDown _ | .cascadeLinkDown _ | .cascadeLinkUp _ _
  | .translationCompletion _ _ _ | .tapReset =>
    true
  | .settingsRestore _ _ _ _ _ el | .dramTrain el | .quench el | .quenchPeerAckTimeout el | .holdSample _ el | .vinSample _ el
  | .thermalCompare _ el | .temperatureSample _ el | .chrTick _ _ el | .deadReckoningEntry el | .slewComplete el
  | .almanacScan el | .channelBudgetReset el | .swapatReached el | .dmaCompletionTimeout _ el | .logInterrupt el
  | .scriptTimerExpiry _ el | .dramScrubStep _ el | .leaseExpiry el | .ownershipAcquire _ _ el | .ownershipRetry el
  | .salvageEnd el | .hbSend el | .partnerAbsent _ el | .selfTestCycle _ _ _ _ el | .swapOverdue el | .swapDrainTimeout el
  | .cascadeAdminTimeout _ el | .intakeTimeout el | .activationAnswer el | .testRunEnd _ _ el | .powerWarningRelease _ _ el =>
    elapse el
  | .d3hotEntry ⟨p, _⟩ | .pageRequestResponse p _ _ | .atsInvalidation p _ _ | .portDown p | .portTrained p _ _ _ _
  | .poisonedPostedWrite ⟨p, _⟩ | .registerWrite p _ _ _ _ | .registerReadClear p _ _ _ _ | .malformedRequest p _
  | .logWindowAutoincRead p _ | .atsEnable p _ | .correctableLinkError p =>
    below ports [p]
  | .safeEntry cause _ =>
    below 256 [cause]
  | .helmDisagreement core =>
    below 3 [core]
  | .taskRegisterWrite p _ c _ _ _ | .ctxAbortWrite p c _ =>
    below ports [p] && below contexts [c]
  | .dispatch t | .quantumExpiry t | .runLimitTimeout t | .threadFault t _ | .mrel t | .yield t | .undefinedInstruction ⟨t, _⟩
  | .reqOpen t | .reqClose t | .reqGc t | .reqRelease t | .reqErase t | .reqPatrol t =>
    below threads [t]
  | .slotGrant q | .mcDisable q _ | .sliceDrained q | .scratchpadConversion q _ | .writeThroughDrain ⟨q, _⟩ =>
    below 4 [q]
  | .waitTimeout t el | .lockHoldTimeout t el | .timeDeadline t el =>
    below threads [t] && elapse el
  | .writeZeroes c el | .trim c el =>
    below contexts [c] && elapse el
  | .commandCompletion c _ | .read c _ | .write c _ | .verify c _ | .compare c _
  | .compareAndWrite c _ | .copy c _ | .healthRead c _ | .cascadePartReceive c _ _ _ | .cascadeGo c _ | .cascadeAbandon c _ _ =>
    below contexts [c]
  | .pageRequestTimeout p _ el =>
    below ports [p] && elapse el
  | .wayReenable q w =>
    below 4 [q] && below 16 [w]
  | .add t rd rs1 rs2 | .sub t rd rs1 rs2 | .and t rd rs1 rs2 | .or t rd rs1 rs2 | .xor t rd rs1 rs2 | .shl t rd rs1 rs2
  | .shr t rd rs1 rs2 | .sra t rd rs1 rs2 | .mul t rd rs1 rs2 | .slt t rd rs1 rs2 | .sltu t rd rs1 rs2 | .vlbn t rd rs1 rs2 _ _
  | .mrecv t rd rs1 rs2 =>
    below threads [t] && below registers [rd, rs1, rs2]
  | .ext t rd rs1 lsb width | .ins t rd rs1 lsb width =>
    below threads [t] && below registers [rd, rs1] && below 64 [lsb] && below 65 [width] && span lsb width
  | .mfs t rd sel =>
    below threads [t] && below registers [rd] && below 4 [sel]
  | .addi t rd rs1 imm | .andi t rd rs1 imm | .ori t rd rs1 imm | .xori t rd rs1 imm | .sltiu t rd rs1 imm | .lih t rd rs1 imm
  | .jalr t rd rs1 imm =>
    below threads [t] && below registers [rd, rs1] && below (2 ^ 32) [imm]
  | .shli t rd rs1 imm | .shri t rd rs1 imm =>
    below threads [t] && below registers [rd, rs1] && below 64 [imm]
  | .br t cond rs1 rs2 imm =>
    below threads [t] && below 6 [cond] && below registers [rs1, rs2] && below (2 ^ 32) [imm]
  | .jal t rd imm =>
    below threads [t] && below registers [rd] && below (2 ^ 32) [imm]
  | .ldl t size rd rs1 imm _ | .lds t size rd rs1 imm _ | .ldp t size rd rs1 imm | .ldd t size rd rs1 imm _ =>
    below threads [t] && below 4 [size] && below registers [rd, rs1] && below (2 ^ 32) [imm]
  | .stl t size rs2 rs1 imm | .sts t size rs2 rs1 imm | .std t size rs2 rs1 ⟨imm, _⟩ =>
    below threads [t] && below 4 [size] && below registers [rs2, rs1] && below (2 ^ 32) [imm]
  | .ldb t size rd rs1 rs2 imm _ =>
    below threads [t] && below 4 [size] && below registers [rd, rs1, rs2] && below (2 ^ 32) [imm]
  | .stb t size rs2 rs1 rd ⟨imm, _⟩ =>
    below threads [t] && below 4 [size] && below registers [rs2, rs1, rd] && below (2 ^ 32) [imm]
  | .mlook t rd rs1 _ | .mgen t rd rs1 _ | .mwait t rd rs1 | .mpoll t rd rs1 | .xin t rd rs1 | .xout t rd rs1 | .xcopy t rd rs1
  | .xwait t rd rs1 | .xpoll t rd rs1 | .cenc t rd rs1 | .cdec t rd rs1 | .pxopen t rd rs1 | .pxreb t rd rs1 =>
    below threads [t] && below registers [rd, rs1]
  | .mgnew t rd | .btake t rd | .mwany t rd | .tnow t rd | .tflags t rd =>
    below threads [t] && below registers [rd]
  | .mset t rd rs1 rs2 frame slot act _ _ =>
    below threads [t] && below registers [rd, rs1, rs2] && below 256 [frame] && below 4 [slot, act]
  | .mcommit t rd slot _ _ =>
    below threads [t] && below registers [rd] && below 4 [slot]
  | .mdrop t slot =>
    below threads [t] && below 4 [slot]
  | .lockb t rs1 | .unlock t rs1 | .bfree t rs1 | .twait t rs1 | .mhelm t rs1 =>
    below threads [t] && below registers [rs1]
  | .balloc t rd pool _ =>
    below threads [t] && below registers [rd] && below 4 [pool]
  | .bshare t rs1 rs2 _ | .msend t rs1 rs2 | .mack t rs1 rs2 | .done t rs1 rs2 =>
    below threads [t] && below registers [rs1, rs2]
  | .strike t rd rs1 rs2 entry frame _ _ _ _ nslot =>
    below threads [t] && below registers [rd, rs1, rs2] && below (2 ^ 16) [entry] && below 256 [frame] && below 8 [nslot]
  | .pxadd t rd rs1 rs2 frame mem =>
    below threads [t] && below registers [rd, rs1, rs2] && below 256 [frame] && below 32 [mem]
  | .pxclose t rd rs1 rs2 frame =>
    below threads [t] && below registers [rd, rs1, rs2] && below 256 [frame]
  | .qchg t rs1 rs2 imm =>
    below threads [t] && below registers [rs1, rs2] && below (2 ^ 32) [imm]
  | .fault t imm =>
    below threads [t] && below 256 [imm]
  | .transferEnd t n _ _ _ _ | .cipherTransferEnd t n _ =>
    below threads [t] && below 16 [n]
  | .strikeStart ch | .swageAddr ch _ _ _ _ | .swageDout ch _ _ _ _ _ | .swageDin ch _ _ _ _ | .swageWaitrdy ch _ _
  | .swageTest ch _ _ _ | .swageCall ch _ | .swageRet ch | .swageTimer ch _ _ _ =>
    below channels [ch]
  | .swageEnd ch code _ =>
    below channels [ch] && below 256 [code]
  | .swageCmd ch byte =>
    below channels [ch] && below 256 [byte]
  | .swageStatus ch _ status =>
    below channels [ch] && below 256 [status]
  | .swageBranch ch cond _ =>
    below channels [ch] && below 3 [cond]
  | .statusPoll _ status el =>
    below 256 [status] && elapse el
  | .eraseSuspend die el | .eraseResume die el =>
    below dies [die] && elapse el
  | .channelRetrain ch ⟨code, _⟩ el =>
    below channels [ch] && below 256 [code] && elapse el
  | .sramScrub q _ _ el =>
    below 4 [q] && elapse el
  | .pairRoot round _ =>
    image round
  | .pairMbx pos _ _ _ _ _ _ _ | .activatedNotice pos =>
    below 5 [pos]
  | .cascadeReady c _ pos _ | .cascadePartEnd c pos _ _ _ _ _ =>
    below contexts [c] && below 5 [pos]
  | .positionTimeout pos _ el =>
    below 5 [pos] && elapse el
  | .descriptorStart n | .descriptorEnd n =>
    below 32 [n]
  | .descriptorTimeout n _ el =>
    below 32 [n] && elapse el
  | .mbxCtlSend n | .mbxCtlTake n =>
    below 64 [n]
  | .mbxCtlAck n code =>
    below 64 [n] && below 256 [code]

end Sys2Proof
end

