-- ==== Sys2Proof/Certificates/Slice0/Obligations.lean ====
section
/-! DEFINITION. The statements for the provers, one per group of commands or kind of state. -/
open Sys2Proof Sys2Proof.Machine Sys2Proof.Safety

/-- The step of the block (its form is the model's, logs 1 and 2; the commands are the rows of the opcode table, in the order in
which they arrive, R14): a step takes the oldest waiting command and is exec of it on the state with the queue's rest; with
nothing waiting the block idles; no word spells a command, as the table gives its rows no bits. -/
def Obligations.QueueStep : Prop := ∀ (s : State) (c : Instr) (rest : List Instr) (nbits w : Nat),
  (s.pending = c :: rest → step s = exec c { s with pending := rest })
  ∧ (s.pending = [] → step s = .next s)
  ∧ s.withFetchWord nbits w = s

/-- No command of the table ends the machine (R9, R60, R93, R142): each one, in every state and with every operand, gives a next
state. That a command which is not due has no effect, instead of being refused, is the model's choice (log 1). -/
def Obligations.EveryCommandCompletes : Prop := ∀ (c : Instr) (s : State), ∃ u, exec c s = .next u

/-- After reset (R12, R59, R85, R145, R248, R267, R405, R421, R461): KINDLE, step 1; each register field reads its Reset column,
an RSM field its factory value; threads are IDLE, no context is bound, DRAM and scratchpads read zero, the image store is erased
but for its manufacturing area, and nothing waits. That general registers and the store's free sectors start so is the model's
choice (log 5). -/
def Obligations.ResetValues : Prop := ∀ (f : Fld) (n a : Nat),
  let r := State.reset
  mode r = mKindle ∧ getF r HELM_MODE_PREV = 0 ∧ getF r HELM_MODE_CHANGING = 0 ∧ getF r HELM_KINDLE_STEP = 1 ∧ getF r HELM_ADMIN_SRC = 0 ∧
  getF r PWR_WARN_MV = 10500 ∧ getF r PWR_WARN_HYST = 25 ∧ getF r PWR_VIN_MIN_MV = 0xFFFF ∧ getF r CHR_STAT_UNSET = 1 ∧
  getF r f = f.dflt % 2 ^ f.w ∧ (th r n).st = .idle ∧ (∀ g, gr r n g = 0) ∧ (n ≠ adminCtx r → boundOf r n = false) ∧
  dramRd r a n = List.replicate n 0 ∧ spRd r a n = List.replicate n 0 ∧ (2 ^ 20 ≤ a → storeByte r a = 0xFF) ∧
  r.pending = [] ∧ Memory.wf r.mem

/-- Registers and memories hold what was stored (R10, R248, R264, R267): a field reads what was written, cut to its width, and
no other field changes; DRAM and scratchpad bytes read what was stored, every other byte as before; the helm's range and steps
not granted read zero and take nothing; the allocation clear zeroes its range alone; each store keeps the memory's canonical
form. -/
def Obligations.StorageLaws : Prop := ∀ (s : State) (f g : Fld) (v a c n : Nat) (b : List Byte),
  getF (setF s f v) f = v % 2 ^ f.w
  ∧ ((f.key == g.key && f.ret == g.ret) = false → getF (setF s f v) g = getF s g)
  ∧ (setF s f v).mem = s.mem
  ∧ (a < aHelm → dramRd (dramWr s a b) a b.length = b)
  ∧ (c + n ≤ a ∨ a + b.length ≤ c → dramRd (dramWr s a b) c n = dramRd s c n)
  ∧ (aHelm ≤ a → dramWr s a b = s ∧ dramRd s a n = List.replicate n 0)
  ∧ dramRd (dramClear s a n) c 1 = (if a ≤ c ∧ c < a + n then [0] else dramRd s c 1)
  ∧ (spMapped s a = true → spRd (spWr s a b) a b.length = b)
  ∧ (spMapped s a = false → spWr s a b = s ∧ spRd s a n = List.replicate n 0)
  ∧ (c + n ≤ a ∨ a + b.length ≤ c → spRd (spWr s a b) c n = spRd s c n)
  ∧ (Memory.wf s.mem → Memory.wf (dramWr s a b).mem ∧ Memory.wf (dramClear s a n).mem ∧ Memory.wf (spWr s a b).mem)

/-- The Anvil instruction words (R171, R174, R175, R184 to R200): a command acts only when its thread is to issue its word; a
defined word belongs to one command and no other; and every defined word belongs to some well-formed command. -/
def Obligations.AnvilWords : Prop :=
  (∀ c t w, c.wf = true → anvilWord c = some (t, w) → w < 2 ^ 64 ∧ wordDefined w = true ∧ ∀ s, issues s t w = false → exec c s = .next s)
  ∧ (∀ c d p, c.wf = true → d.wf = true → anvilWord c = some p → anvilWord d = some p → plain c = plain d)
  ∧ (∀ t w, t < 4608 → w < 2 ^ 64 → wordDefined w = true → ∃ c, c.wf = true ∧ anvilWord c = some (t, bareWord w))
  ∧ (∀ s t, (th s t).st = .running → (th s t).cont = .nothing → pcOk (th s t).pc = true → wordDefined (progWord s (th s t).pc) = true →
      exec (.undefinedInstruction ⟨t, false⟩) s = .next s ∧ ∃ u, exec (.undefinedInstruction ⟨t, true⟩) s = .next u ∧ Faulted s u t 0 1)

/-- The ALU instructions (R184): each writes its result to rd and changes nothing else but the thread's own pc and counts of
issued instructions; shift amounts are the low six bits of the count; ADDI sign-extends its IMM, ANDI, ORI, XORI and SLTIU
zero-extend theirs, LIH puts IMM above rs1[31:0]; EXT reads a bit field of rs1, INS replaces one of rd and keeps rd's other
bits; MFS reads a special register. g0 takes no value. -/
def Obligations.AluInstructions : Prop :=
  (∀ (s : State) (t rd rs1 rs2 : Nat),
  let a := gr s t rs1
  let b := gr s t rs2
  (issues s t (aw 0x01 rd rs1 rs2 0 0) = true → ∃ u, exec (.add t rd rs1 rs2) s = .next u ∧ Retired s u t rd (a + b))
  ∧ (issues s t (aw 0x02 rd rs1 rs2 0 0) = true → ∃ u, exec (.sub t rd rs1 rs2) s = .next u ∧ Retired s u t rd (a - b))
  ∧ (issues s t (aw 0x03 rd rs1 rs2 0 0) = true → ∃ u, exec (.and t rd rs1 rs2) s = .next u ∧ Retired s u t rd (a &&& b))
  ∧ (issues s t (aw 0x04 rd rs1 rs2 0 0) = true → ∃ u, exec (.or t rd rs1 rs2) s = .next u ∧ Retired s u t rd (a ||| b))
  ∧ (issues s t (aw 0x05 rd rs1 rs2 0 0) = true → ∃ u, exec (.xor t rd rs1 rs2) s = .next u ∧ Retired s u t rd (a ^^^ b))
  ∧ (issues s t (aw 0x06 rd rs1 rs2 0 0) = true → ∃ u, exec (.shl t rd rs1 rs2) s = .next u ∧
      Retired s u t rd (BitVec.ofNat 64 (a.toNat * 2 ^ (b.toNat % 64))))
  ∧ (issues s t (aw 0x07 rd rs1 rs2 0 0) = true → ∃ u, exec (.shr t rd rs1 rs2) s = .next u ∧
      Retired s u t rd (BitVec.ofNat 64 (a.toNat / 2 ^ (b.toNat % 64))))
  ∧ (issues s t (aw 0x08 rd rs1 rs2 0 0) = true → ∃ u, exec (.sra t rd rs1 rs2) s = .next u ∧
      Retired s u t rd (BitVec.ofInt 64 (a.toInt / 2 ^ (b.toNat % 64))))
  ∧ (issues s t (aw 0x09 rd rs1 rs2 0 0) = true → ∃ u, exec (.mul t rd rs1 rs2) s = .next u ∧
      Retired s u t rd (BitVec.ofNat 64 (a.toNat * b.toNat)))
  ∧ (issues s t (aw 0x0A rd rs1 rs2 0 0) = true → ∃ u, exec (.slt t rd rs1 rs2) s = .next u ∧
      Retired s u t rd (if a.toInt < b.toInt then 1 else 0))
  ∧ (issues s t (aw 0x0B rd rs1 rs2 0 0) = true → ∃ u, exec (.sltu t rd rs1 rs2) s = .next u ∧
      Retired s u t rd (if a.toNat < b.toNat then 1 else 0)))
  ∧
  (∀ (s : State) (t rd rs1 imm : Nat),
  let a := gr s t rs1
  (issues s t (aw 0x11 rd rs1 0 0 imm) = true → ∃ u, exec (.addi t rd rs1 imm) s = .next u ∧
      Retired s u t rd (BitVec.ofInt 64 (a.toNat + (imm : Int) - (if 2 ^ 31 ≤ imm then 2 ^ 32 else 0))))
  ∧ (issues s t (aw 0x13 rd rs1 0 0 imm) = true → ∃ u, exec (.andi t rd rs1 imm) s = .next u ∧
      Retired s u t rd (a &&& BitVec.ofNat 64 imm))
  ∧ (issues s t (aw 0x14 rd rs1 0 0 imm) = true → ∃ u, exec (.ori t rd rs1 imm) s = .next u ∧
      Retired s u t rd (a ||| BitVec.ofNat 64 imm))
  ∧ (issues s t (aw 0x15 rd rs1 0 0 imm) = true → ∃ u, exec (.xori t rd rs1 imm) s = .next u ∧
      Retired s u t rd (a ^^^ BitVec.ofNat 64 imm))
  ∧ (imm < 64 → issues s t (aw 0x16 rd rs1 0 0 imm) = true → ∃ u, exec (.shli t rd rs1 imm) s = .next u ∧
      Retired s u t rd (BitVec.ofNat 64 (a.toNat * 2 ^ imm)))
  ∧ (imm < 64 → issues s t (aw 0x17 rd rs1 0 0 imm) = true → ∃ u, exec (.shri t rd rs1 imm) s = .next u ∧
      Retired s u t rd (BitVec.ofNat 64 (a.toNat / 2 ^ imm)))
  ∧ (issues s t (aw 0x1B rd rs1 0 0 imm) = true → ∃ u, exec (.sltiu t rd rs1 imm) s = .next u ∧
      Retired s u t rd (if a.toNat < imm then 1 else 0))
  ∧ (issues s t (aw 0x1F rd rs1 0 0 imm) = true → ∃ u, exec (.lih t rd rs1 imm) s = .next u ∧
      Retired s u t rd (BitVec.ofNat 64 (imm * 2 ^ 32 + a.toNat % 2 ^ 32))))
  ∧
  (∀ (s : State) (t rd rs1 lsb width : Nat), lsb < 64 → 1 ≤ width → width ≤ 64 →
  let a := gr s t rs1
  let d := gr s t rd
  (issues s t (aw 0x0C rd rs1 0 0 (lsb + 64 * (width - 1))) = true → ∃ u v, exec (.ext t rd rs1 lsb width) s = .next u ∧
      Retired s u t rd v ∧ v.toNat = bits a.toNat lsb width)
  ∧ (issues s t (aw 0x0D rd rs1 0 0 (lsb + 64 * (width - 1))) = true → ∃ u v, exec (.ins t rd rs1 lsb width) s = .next u ∧
      Retired s u t rd v ∧
      ∀ i, i < 64 → v.getLsbD i = if lsb ≤ i ∧ i < lsb + width then a.getLsbD (i - lsb) else d.getLsbD i)
  ∧ (issues s t (aw 0x0E rd 0 0 0 0) = true → ∃ u, exec (.mfs t rd 0) s = .next u ∧
      Retired s u t rd (BitVec.ofNat 64 (th s t).pc))
  ∧ (issues s t (aw 0x0E rd 0 0 0 1) = true → ∃ u, exec (.mfs t rd 1) s = .next u ∧ Retired s u t rd (BitVec.ofNat 64 t))
  ∧ (issues s t (aw 0x0E rd 0 0 0 2) = true → ∃ u, exec (.mfs t rd 2) s = .next u ∧
      Retired s u t rd (BitVec.ofNat 64 (th s t).stamp))
  ∧ (issues s t (aw 0x0E rd 0 0 0 3) = true → ∃ u, exec (.mfs t rd 3) s = .next u ∧
      Retired s u t rd (BitVec.ofNat 64 (th s t).lastWhy.code)))

/-- Branches (R173, R185): a target misaligned or outside the program store is PROGRAM fault 0x02; otherwise the pc moves there,
JAL and JALR writing pc + 8 to rd, JALR after its target is read; a BR whose condition fails moves on. -/
def Obligations.Branches : Prop := ∀ (s : State) (t cond rd rs1 rs2 imm : Nat),
  let a := gr s t rs1
  let b := gr s t rs2
  let off : Int := (imm : Int) - (if 2 ^ 31 ≤ imm then 2 ^ 32 else 0)
  let here : W64 := BitVec.ofInt 64 ((th s t).pc + off)
  let there : W64 := BitVec.ofInt 64 (a.toNat + off)
  let taken := (cond = 0 ∧ a = b) ∨ (cond = 1 ∧ a ≠ b) ∨ (cond = 2 ∧ a.toInt < b.toInt) ∨ (cond = 3 ∧ b.toInt ≤ a.toInt)
    ∨ (cond = 4 ∧ a.toNat < b.toNat) ∨ (cond = 5 ∧ b.toNat ≤ a.toNat)
  let link : W64 := BitVec.ofNat 64 ((th s t).pc + 8)
  (cond ≤ 5 → issues s t (aw 0x20 0 rs1 rs2 cond imm) = true →
    (¬ taken → ∃ u, exec (.br t cond rs1 rs2 imm) s = .next u ∧ Issued s u t (advanced (th s t)))
    ∧ (taken → pcOk here.toNat = true → ∃ u, exec (.br t cond rs1 rs2 imm) s = .next u ∧
        Issued s u t { advanced (th s t) with pc := here.toNat })
    ∧ (taken → pcOk here.toNat = false → ∃ u, exec (.br t cond rs1 rs2 imm) s = .next u ∧ Faulted s u t 1 2))
  ∧ (issues s t (aw 0x21 rd 0 0 0 imm) = true →
    (pcOk here.toNat = true → ∃ u, exec (.jal t rd imm) s = .next u ∧
        Issued s u t { advanced ((th s t).setG rd link) with pc := here.toNat })
    ∧ (pcOk here.toNat = false → ∃ u, exec (.jal t rd imm) s = .next u ∧ Faulted s u t 1 2))
  ∧ (issues s t (aw 0x22 rd rs1 0 0 imm) = true →
    (pcOk there.toNat = true → ∃ u, exec (.jalr t rd rs1 imm) s = .next u ∧
        Issued s u t { advanced ((th s t).setG rd link) with pc := there.toNat })
    ∧ (pcOk there.toNat = false → ∃ u, exec (.jalr t rd rs1 imm) s = .next u ∧ Faulted s u t 1 2))

/-- Local-store accesses (R172, R186): rs1 + IMM mod 512; a load answers the little-endian value, a store writes exactly its
bytes; misaligned or past byte 511 is PROGRAM fault 0x0A; a word that fails its check, in a line that was written, is DATA fault
0x01, and goes on failing until it is written whole (R273). Scratchpad and program-store accesses (R166, R173, R186, R248): a
step not converted reads zero and swallows stores; STS is for system threads, ACCESS fault 0x05 otherwise; an address at or past
8 MiB of the program store reads zero. -/
def Obligations.LocalStorage : Prop :=
  (∀ (s : State) (t size rd rs1 rs2 imm : Nat) (e : MErr), size ≤ 3 →
  let a := ((gr s t rs1).toNat + imm) % 512
  let n := 2 ^ size
  let fits := a % n = 0 ∧ a + n ≤ 512
  let new := e = .uncorr ∧ a / 64 ∈ (th s t).lsValid
  let old := ∃ w ∈ (th s t).lsBad, a < 8 * w + 8 ∧ 8 * w < a + n
  (issues s t (aw 0x30 rd rs1 0 size imm) = true →
    (fits → ¬ new → ¬ old → ∃ u, exec (.ldl t size rd rs1 imm e) s = .next u ∧
      Retired s u t rd (BitVec.ofNat 64 (leNat (rdBytes (th s t).ls a n))))
    ∧ (fits → ¬ new → old → ∃ u, exec (.ldl t size rd rs1 imm e) s = .next u ∧ Faulted s u t 0 1)
    ∧ (fits → new → ∃ u, exec (.ldl t size rd rs1 imm e) s = .next u ∧
        Faulted (modTh s t fun x => { x with lsBad := sins (a / 8) x.lsBad }) u t 0 1)
    ∧ (¬ fits → ∃ u, exec (.ldl t size rd rs1 imm e) s = .next u ∧ Faulted s u t 1 0x0A))
  ∧ (issues s t (aw 0x31 0 rs1 rs2 size imm) = true →
    (fits → ∃ u, exec (.stl t size rs2 rs1 imm) s = .next u ∧
      Issued s u t { advanced (th s t) with ls := (th u t).ls, lsValid := (th u t).lsValid, lsBad := (th u t).lsBad } ∧
      a / 64 ∈ (th u t).lsValid ∧ (th u t).lsBad = (th s t).lsBad.filter (fun w => !(a ≤ 8 * w && 8 * w + 8 ≤ a + n)) ∧
      rdBytes (th u t).ls a n = leBytes n (gr s t rs2).toNat ∧
      ∀ b, b < a ∨ a + n ≤ b → mget 0 (th u t).ls b = mget 0 (th s t).ls b)
    ∧ (¬ fits → ∃ u, exec (.stl t size rs2 rs1 imm) s = .next u ∧ Faulted s u t 1 0x0A)))
  ∧
  (∀ (s : State) (t size rd rs1 rs2 imm : Nat) (e : MErr), size ≤ 3 →
  let a := ((gr s t rs1).toNat + imm) % 2 ^ 64
  let n := 2 ^ size
  let live := a / 64 ∈ s.mem.scratchValid
  (issues s t (aw 0x34 rd rs1 0 size imm) = true →
    (a % n ≠ 0 → ∃ u, exec (.lds t size rd rs1 imm e) s = .next u ∧ Faulted s u t 1 0x0A)
    ∧ (a % n = 0 → spMapped s a = false → ∃ u, exec (.lds t size rd rs1 imm e) s = .next u ∧ Retired s u t rd 0)
    ∧ (a % n = 0 → spMapped s a = true → spBad s a n = false → ¬ (e = .uncorr ∧ live) →
        ∃ u, exec (.lds t size rd rs1 imm e) s = .next u ∧
          (¬ (e = .corr ∧ live) → Retired s u t rd (BitVec.ofNat 64 (leNat (rdBytes s.mem.scratch a n)))) ∧
          (e = .corr ∧ live → Retired (wayErr s (spWay s a).1 (spWay s a).2 false) u t rd
            (BitVec.ofNat 64 (leNat (rdBytes s.mem.scratch a n)))))
    ∧ (a % n = 0 → spMapped s a = true → (spBad s a n = true ∨ (e = .uncorr ∧ live)) →
        let v := if e = .uncorr && s.mem.scratchValid.contains (a / 64) then { s with mem := { s.mem with scratchBad := sins (a / 8) s.mem.scratchBad } } else s
        ∃ u, exec (.lds t size rd rs1 imm e) s = .next u ∧
          Faulted (wayErr v (spWay s a).1 (spWay s a).2 true) u t 0 5))
  ∧ (issues s t (aw 0x35 0 rs1 rs2 size imm) = true →
    (isSys s t = false → ∃ u, exec (.sts t size rs2 rs1 imm) s = .next u ∧ Faulted s u t 2 5)
    ∧ (isSys s t = true → a % n ≠ 0 → ∃ u, exec (.sts t size rs2 rs1 imm) s = .next u ∧ Faulted s u t 1 0x0A)
    ∧ (isSys s t = true → a % n = 0 → spMapped s a = false →
        ∃ u, exec (.sts t size rs2 rs1 imm) s = .next u ∧ Issued s u t (advanced (th s t)))
    ∧ (isSys s t = true → a % n = 0 → spMapped s a = true →
        ∃ u, exec (.sts t size rs2 rs1 imm) s = .next u ∧
          Issued { s with mem := u.mem } u t (advanced (th s t)) ∧
          u.mem = { s.mem with scratch := u.mem.scratch, scratchValid := sins (a / 64) s.mem.scratchValid,
                               scratchBad := s.mem.scratchBad.filter (fun w => !(a ≤ 8 * w && 8 * w + 8 ≤ a + n)) } ∧
          rdBytes u.mem.scratch a n = leBytes n (gr s t rs2).toNat ∧
          ∀ b, b < a ∨ a + n ≤ b → mget 0 u.mem.scratch b = mget 0 s.mem.scratch b))
  ∧ (issues s t (aw 0x36 rd rs1 0 size imm) = true →
    (a % n ≠ 0 → ∃ u, exec (.ldp t size rd rs1 imm) s = .next u ∧ Faulted s u t 1 0x0A)
    ∧ (a % n = 0 → ∃ u, exec (.ldp t size rd rs1 imm) s = .next u ∧
        Retired s u t rd (if 2 ^ 23 ≤ a then 0 else BitVec.ofNat 64 (leNat (rdBytes s.prog a n))))))

/-- LDD and STD (R187, R264, R266, R271): system threads only (ACCESS fault 0x07), aligned (PROGRAM fault 0x0A). A load answers
what map reads or DRAM gives, zero in the helm's range; a line that fails its check ends it as DATA fault 0x03; a store writes
exactly its bytes, and none in the helm's range. LDB and STB (R187): the checks in their order, handle (PROGRAM 0x04), bounds
(ACCESS 0x04), alignment (PROGRAM 0x0A); then the bytes at the place the offset names are read, or exactly they are written. -/
def Obligations.DramAndBufferAccess : Prop :=
  (∀ (s : State) (t size rd rs1 rs2 imm : Nat) (e : MErr), size ≤ 3 →
  let a := ((gr s t rs1).toNat + imm) % 2 ^ 64
  let n := 2 ^ size
  let v := drainLine s (a / 64)
  (issues s t (aw 0x42 rd rs1 0 size imm) = true →
    (isSys s t = false → ∃ u, exec (.ldd t size rd rs1 imm e) s = .next u ∧ Faulted s u t 2 7)
    ∧ (isSys s t = true → a % n ≠ 0 → ∃ u, exec (.ldd t size rd rs1 imm e) s = .next u ∧ Faulted s u t 1 0x0A)
    ∧ (isSys s t = true → a % n = 0 → aHelm ≤ a → ∃ u, exec (.ldd t size rd rs1 imm e) s = .next u ∧ Retired v u t rd 0)
    ∧ (isSys s t = true → a % n = 0 → a < aHelm → e = .ok → a / 64 ∉ v.mem.bad →
        ∃ u, exec (.ldd t size rd rs1 imm e) s = .next u ∧ Retired v u t rd (BitVec.ofNat 64 (leNat (rdBytes v.mem.dram a n))))
    ∧ (isSys s t = true → a % n = 0 → a < aHelm → e = .ok → a / 64 ∈ v.mem.bad →
        ∃ u, exec (.ldd t size rd rs1 imm e) s = .next u ∧ Faulted (dramUe v (a / 64) 0) u t 0 3)
    ∧ (isSys s t = true → a % n = 0 → a < aHelm → ∀ w, dramCheck v a n e 0 = (false, w) →
        ∃ u, exec (.ldd t size rd rs1 imm e) s = .next u ∧ Retired w u t rd (BitVec.ofNat 64 (leNat (rdBytes w.mem.dram a n))))
    ∧ (isSys s t = true → a % n = 0 → a < aHelm → ∀ w, dramCheck v a n e 0 = (true, w) →
        ∃ u, exec (.ldd t size rd rs1 imm e) s = .next u ∧ Faulted w u t 0 3))
  ∧ (issues s t (aw 0x43 0 rs1 rs2 size imm) = true →
    (isSys s t = false → ∃ u, exec (.std t size rs2 rs1 ⟨imm, e⟩) s = .next u ∧ Faulted s u t 2 7)
    ∧ (isSys s t = true → a % n ≠ 0 → ∃ u, exec (.std t size rs2 rs1 ⟨imm, e⟩) s = .next u ∧ Faulted s u t 1 0x0A)
    ∧ (isSys s t = true → a % n = 0 → aHelm ≤ a →
        ∃ u, exec (.std t size rs2 rs1 ⟨imm, e⟩) s = .next u ∧ Issued s u t (advanced (th s t)))
    ∧ (isSys s t = true → a % n = 0 → a < aHelm →
        let w := dramMerge (keepCopy s (a / 64)) a n e
        ∃ u, exec (.std t size rs2 rs1 ⟨imm, e⟩) s = .next u ∧ Issued { w with mem := u.mem } u t (advanced (th s t)) ∧
          rdBytes u.mem.dram a n = leBytes n (gr s t rs2).toNat ∧ a / 64 ∈ u.mem.valid ∧
          (∀ b, b < a ∨ a + n ≤ b → mget 0 u.mem.dram b = mget 0 s.mem.dram b) ∧
          u.mem = { w.mem with dram := u.mem.dram, valid := u.mem.valid, bad := u.mem.bad })))
  ∧
  (∀ (s : State) (t size rd rs1 rs2 imm : Nat) (e : MErr), size ≤ 3 →
  let h := (gr s t rs1).toNat
  let n := 2 ^ size
  (issues s t (aw 0x40 rd rs1 rs2 size imm) = true →
    let o := ((gr s t rs2).toNat + imm) % 2 ^ 64
    (holds s t h = false → ∃ u, exec (.ldb t size rd rs1 rs2 imm e) s = .next u ∧ Faulted s u t 1 4)
    ∧ ∀ b, bufAt s h = some b → holds s t h = true →
      (bufOff b o = none → ∃ u, exec (.ldb t size rd rs1 rs2 imm e) s = .next u ∧ Faulted s u t 2 4)
      ∧ ∀ l, bufOff b o = some l →
        (o % n ≠ 0 → ∃ u, exec (.ldb t size rd rs1 rs2 imm e) s = .next u ∧ Faulted s u t 1 0x0A)
        ∧ (∀ v, o % n = 0 → locCheck s l n e 0 = (false, v) →
          ∃ u, exec (.ldb t size rd rs1 rs2 imm e) s = .next u ∧ Retired v u t rd (BitVec.ofNat 64 (leNat (locRd v l n))))
        ∧ ∀ v, o % n = 0 → locCheck s l n e 0 = (true, v) →
          ∃ u, exec (.ldb t size rd rs1 rs2 imm e) s = .next u ∧ Faulted v u t 0 (match l with | .sram _ => 2 | .dram _ => 3))
  ∧ (issues s t (aw 0x41 rd rs1 rs2 size imm) = true →
    let o := ((gr s t rd).toNat + imm) % 2 ^ 64
    (holds s t h = false → ∃ u, exec (.stb t size rs2 rs1 rd ⟨imm, e⟩) s = .next u ∧ Faulted s u t 1 4)
    ∧ ∀ b, bufAt s h = some b → holds s t h = true →
      (bufOff b o = none → ∃ u, exec (.stb t size rs2 rs1 rd ⟨imm, e⟩) s = .next u ∧ Faulted s u t 2 4)
      ∧ ∀ l, bufOff b o = some l →
        (o % n ≠ 0 → ∃ u, exec (.stb t size rs2 rs1 rd ⟨imm, e⟩) s = .next u ∧ Faulted s u t 1 0x0A)
        ∧ (o % n = 0 → ∃ u, exec (.stb t size rs2 rs1 rd ⟨imm, e⟩) s = .next u ∧
            Issued { locMerge s l n e with mem := u.mem } u t (advanced (th s t)) ∧
            u.mem = (locWr (locMerge s l n e) l (leBytes n (gr s t rs2).toNat)).mem)))

/-- BALLOC, BFREE, BSHARE and BTAKE (R188, R257, R258, R261): a served allocation answers its handle, one that finds no buffer
parks with reason BUFFER at the end of the manager's order; only a holder frees or shares, only the final owner frees a shared
buffer, a buffer is shared once; BTAKE is for system threads and takes the oldest buffer of the flush queue. -/
def Obligations.BufferInstructions : Prop := ∀ (s : State) (t rd rs1 rs2 pool : Nat) (wb give : Bool),
  let h := (gr s t rs1).toNat
  let dst := (gr s t rs2).toNat % 2 ^ 13
  (pool < 4 → issues s t (aw 0x70 rd 0 0 (pool + 4 * b2n wb) 0) = true →
    (wb = true → pool < 2 → ∃ u, exec (.balloc t rd pool wb) s = .next u ∧ Faulted s u t 1 1)
    ∧ (¬ (wb = true ∧ pool < 2) → newAlloc s t pool wb = none → let p := serveBufs s
      ∃ u, exec (.balloc t rd pool wb) s = .next u ∧
        th u t = waiting p (th p t) .buffer pool (.balloc rd pool wb) ∧ ThreadsKept t p u ∧
        u.buf = { p.buf with reqs := p.buf.reqs ++ [⟨t, pool, wb, false⟩] } ∧ RegsKept [BUF_FBCNT_PARKS, issueFld t] p u ∧
        u = { p with thr := u.thr, vf := u.vf, buf := u.buf, order := p.order + 1 })
    ∧ ∀ n v, ¬ (wb = true ∧ pool < 2) → newAlloc s t pool wb = some (n, v) → ∃ u, exec (.balloc t rd pool wb) s = .next u ∧
        Retired v u t rd (BitVec.ofNat 64 n))
  ∧ (issues s t (aw 0x71 0 rs1 0 0 0) = true →
    (holds s t h = false → ∃ u, exec (.bfree t rs1) s = .next u ∧ Faulted s u t 1 4)
    ∧ ∀ b, bufAt s h = some b → holds s t h = true →
      (b.shared = true → b.owner ≠ t → ∃ u, exec (.bfree t rs1) s = .next u ∧ Faulted s u t 1 3)
      ∧ (¬ (b.shared = true ∧ b.owner ≠ t) → ∀ k m g, namesBuf s h = some (k, m, g) → ∃ u, exec (.bfree t rs1) s = .next u ∧
          th u t = waiting s (th s t) (if m then .media else .dma) g (.bfree h) ∧ ThreadsKept t s u ∧ u.buf = s.buf)
      ∧ (¬ (b.shared = true ∧ b.owner ≠ t) → namesBuf s h = none →
          ∃ u, exec (.bfree t rs1) s = .next u ∧ Issued (freeBuf s h) u t (advanced (th (freeBuf s h) t))))
  ∧ (issues s t (aw 0x72 0 rs1 rs2 (b2n give) 0) = true →
    (holds s t h = false → ∃ u, exec (.bshare t rs1 rs2 give) s = .next u ∧ Faulted s u t 1 4)
    ∧ ∀ b, bufAt s h = some b → holds s t h = true →
      (b.shared = true → ∃ u, exec (.bshare t rs1 rs2 give) s = .next u ∧ Faulted s u t 1 3)
      ∧ (b.shared = false → dst ≠ 0x1FFF → ∃ u, exec (.bshare t rs1 rs2 give) s = .next u ∧
          bufAt u h = some { b with holders := sins dst (if give then srem t b.holders else b.holders), owner := dst, shared := true } ∧
          Issued { s with buf := u.buf } u t (advanced (th s t)) ∧ ∀ k, k ≠ h → bufAt u k = bufAt s k)
      ∧ (b.shared = false → dst = 0x1FFF → b.wb = false →
          ∃ u, exec (.bshare t rs1 rs2 give) s = .next u ∧ Faulted s u t 1 1)
      ∧ (b.shared = false → dst = 0x1FFF → b.wb = true → ∃ u v, exec (.bshare t rs1 rs2 give) s = .next u ∧
          v = toFlush (setBuf s h (some { b with holders := if give then srem t b.holders else b.holders })) h ∧
          Issued v u t (advanced (th v t))))
  ∧ (issues s t (aw 0x73 rd 0 0 0 0) = true →
    (isSys s t = false → ∃ u, exec (.btake t rd) s = .next u ∧ Faulted s u t 2 7)
    ∧ (isSys s t = true → ∀ k q, s.buf.flushq = k :: q → ∃ u, exec (.btake t rd) s = .next u ∧ u.buf.flushq = q ∧
        (∀ b, bufAt s k = some b → bufAt u k = some { b with holders := sins t b.holders, owner := t }) ∧
        (∀ m, m ≠ k → bufAt u m = bufAt s m) ∧ Retired { s with buf := u.buf } u t rd (BitVec.ofNat 64 k))
    ∧ (isSys s t = true → s.buf.flushq = [] → ∃ u, exec (.btake t rd) s = .next u ∧
        th u t = waiting s (th s t) .buffer 4 (.btake rd) ∧ u.buf.reqs = s.buf.reqs ++ [⟨t, 4, true, true⟩] ∧
        u = { s with thr := u.thr, vf := u.vf, buf := u.buf, order := s.order + 1 }))

/-- VLBN (R131 steps 3 to 6, R189): with C the mode and the VOLUME field; without C permission, READONLY and range, then the
device LBN. -/
def Obligations.VolumeToLbn : Prop := ∀ (s : State) (t rd rs1 rs2 : Nat) (c src : Bool),
  let v := (gr s t rs1).toNat % 2 ^ 16
  let n := bits (gr s t rs1).toNat 32 32
  let b := (gr s t rs2).toNat
  let e := volEnt s (v % 8192)
  let late := isHost t && (cx s t).late
  let res (x : W64) := ∃ u, exec (.vlbn t rd rs1 rs2 c src) s = .next u ∧ Retired s u t rd x
  issues s t (aw 0x50 rd rs1 rs2 (b2n c + 2 * b2n src) 0) = true →
    (c = true → (mode s ≠ mRun ∨ late = true) → res (svWord 0x13 2 none))
    ∧ (c = true → mode s = mRun → late = false → 8191 < v → res (svWord 0x11 4 none))
    ∧ (c = true → mode s = mRun → late = false → v ≤ 8191 → res 0)
    ∧ (c = false → (8191 < v ∨ volState e = 0 ∨ (isSys s t = false ∧ v ∉ (bindOf s t).vols)) → res (svWord 0x13 1 none))
    ∧ (c = false → v ≤ 8191 → (isSys s t = true ∨ v ∈ (bindOf s t).vols) → volState e = 2 → res (svWord 0x13 5 none))
    ∧ (c = false → v ≤ 8191 → (isSys s t = true ∨ v ∈ (bindOf s t).vols) → volState e ≠ 0 → volState e ≠ 2 →
        256 * volSize e ≤ b + n → res (svWord 0x12 (b2n src) none))
    ∧ (c = false → v ≤ 8191 → (isSys s t = true ∨ v ∈ (bindOf s t).vols) → volState e ≠ 0 → volState e ≠ 2 →
        b + n < 256 * volSize e → res (BitVec.ofNat 64 (256 * volBase e + b)))

/-- MLOOK, MGEN and MGNEW (R189, R190, R221, R427): no permission is ACCESS fault 0x01; a system thread past the capacity reads
zero; a billet in the commit window, or a line not cached, makes the thread wait with reason MAPMISS; otherwise MLOOK answers
the location word and holds it, MGEN the generation. MGNEW's value is greater than every generation this module or its partner
gave. -/
def Obligations.MapLookups : Prop := ∀ (s : State) (t rd rs1 : Nat) (e : List (Nat × MErr)),
  let p := spoil s e
  let l := localLbn s (gr s t rs1).toNat
  let co := (aCoarse + 8 * (l / 256)) / 64
  (issues s t (aw 0x51 rd rs1 0 0 0) = true →
    (mayLbn s t (gr s t rs1).toNat = false → ∃ u, exec (.mlook t rd rs1 e) s = .next u ∧ Faulted s u t 2 1)
    ∧ (mayLbn s t (gr s t rs1).toNat = true →
      (isSys s t = true → lcapBlocks s ≤ l → ∃ u, exec (.mlook t rd rs1 e) s = .next u ∧ Retired p u t rd 0)
      ∧ (¬ (isSys s t = true ∧ lcapBlocks s ≤ l) → inWindow s (l / 256) = true → ∃ u, exec (.mlook t rd rs1 e) s = .next u ∧
          th u t = waiting s (th s t) .mapmiss (co * 64) (.look rd l false seenWindow) ∧ ThreadsKept t s u)
      ∧ ∀ v, ¬ (isSys s t = true ∧ lcapBlocks s ≤ l) → inWindow s (l / 256) = false → hits p t (lookLines p l false) = some v →
          coState (coarseWord v (l / 256)) < 5 → (th v t).st = .running →
          ∃ u, exec (.mlook t rd rs1 e) s = .next u ∧ (th u t).held = (loadBil v (l / 256)).loc v (l % 256) :: (th v t).held ∧
            (rd ≠ 0 → gr u t rd = BitVec.ofNat 64 ((loadBil v (l / 256)).loc v (l % 256))) ∧ (th u t).pc = (th v t).pc + 8 ∧
            (∀ r, r = 0 ∨ r ≠ rd → gr u t r = gr v t r) ∧ u = { v with thr := u.thr, vf := u.vf }))
  ∧ (issues s t (aw 0x52 rd rs1 0 0 0) = true →
    (mayLbn s t (gr s t rs1).toNat = false → ∃ u, exec (.mgen t rd rs1 e) s = .next u ∧ Faulted s u t 2 1)
    ∧ (mayLbn s t (gr s t rs1).toNat = true →
      (isSys s t = true → lcapBlocks s ≤ l → ∃ u, exec (.mgen t rd rs1 e) s = .next u ∧ Retired p u t rd 0)
      ∧ ∀ v, ¬ (isSys s t = true ∧ lcapBlocks s ≤ l) → inWindow s (l / 256) = false → hits p t (lookLines p l true) = some v →
          coState (coarseWord v (l / 256)) < 5 → (th v t).st = .running →
          ∃ u, exec (.mgen t rd rs1 e) s = .next u ∧ Retired v u t rd (BitVec.ofNat 64 ((loadBil v (l / 256)).genOf (l % 256)))))
  ∧ (issues s t (aw 0x53 rd 0 0 0 0) = true → genReady s = true → ∃ u g, exec (.mgnew t rd) s = .next u ∧ s.map.genNext ≤ g ∧ s.map.genPeer < g ∧
      u.map.genNext = g + 1 ∧ g < u.map.genCeil ∧ s.map.genCeil ≤ u.map.genCeil ∧
      Retired { s with map := { s.map with genNext := g + 1, genCeil := u.map.genCeil } } u t rd (BitVec.ofNat 64 g))

/-- MSET (R189, R191): checks, then the entry is staged in the slot: it replaces one of the same block and kind, and a 257th
entry is discarded with the slot marked. MCOMMIT, MDROP and MREL (R190, R191, R211, R220, R249): the refusals of MCOMMIT in
their order, a map line that fails its check, the waits for overlay and tail space, then the record; MDROP empties a slot, MREL
gives the held locations back. -/
def Obligations.StagedCommits : Prop :=
  (∀ (s : State) (t rd rs1 rs2 frame slot k : Nat) (rel wb : Bool),
  frame < 256 → slot < 4 → k < 4 →
  issues s t (aw 0x54 rd rs1 rs2 (slot + 4 * k + 16 * b2n rel + 32 * b2n wb) frame) = true →
  let n := (gr s t rs1).toNat
  let h := (gr s t rs2).toNat
  let l := if k = 1 then localLbn s n / 256 * 256 else localLbn s n
  let x := mget Slot.empty (th s t).slots slot
  let rest := x.ents.filter fun y => !(y.lbn = l && (y.act = .coarse) = (actOf k = .coarse))
  let new : Staged := ⟨l, actOf k, stagedLoc s (actOf k) wb h frame, wb, (gr s t rd).toNat, rel⟩
  let res (p : State → Prop) := ∃ u, exec (.mset t rd rs1 rs2 frame slot k rel wb) s = .next u ∧ p u
  (mayLbn s t n = false → res fun u => Faulted s u t 2 1)
  ∧ (mayLbn s t n = true → wb = true → holds s t h = false → res fun u => Faulted s u t 1 4)
  ∧ (mayLbn s t n = true → ¬ (wb = true ∧ holds s t h = false) → isSys s t = true → lcapBlocks s ≤ localLbn s n →
      res fun u => Issued s u t (advanced (th s t)))
  ∧ (mayLbn s t n = true → ¬ (wb = true ∧ holds s t h = false) → ¬ (isSys s t = true ∧ lcapBlocks s ≤ localLbn s n) →
      (rest.length < 256 → res fun u => Issued s u t { advanced (th s t) with
          slots := mset Slot.empty (th s t).slots slot { x with ents := rest ++ [new] } })
      ∧ (256 ≤ rest.length → res fun u => Issued s u t { advanced (th s t) with
          slots := mset Slot.empty (th s t).slots slot { x with full := true } })))
  ∧
  (∀ (s : State) (t rd slot : Nat) (last : Bool) (e : List (Nat × MErr)), slot < 4 →
  let p := spoil s e
  let x := mget Slot.empty (th s t).slots slot
  let v := (commitErrs p x.ents).2
  let es := x.ents.map (entOf v)
  let locked := ∀ y ∈ x.ents, ∃ l ∈ (th s t).locks, l.1 = y.lbn / 256
  let res (p : State → Prop) := ∃ u, exec (.mcommit t rd slot last e) s = .next u ∧ p u
  (issues s t (aw 0x55 rd 0 0 (slot + 4 * b2n last) 0) = true →
    (isSys s t = false → (th s t).lastMade = true → res fun u => Retired p u t rd (svWord 0xF3 0 none))
    ∧ (¬ (isSys s t = false ∧ (th s t).lastMade = true) →
      (x.full = true → res fun u => Retired (modTh p t fun y => { y with slots := mset Slot.empty y.slots slot Slot.empty }) u t rd
          (svWord 0xF4 0 none))
      ∧ (x.full = false → ¬ locked → res fun u => Retired p u t rd (svWord 0xF2 0 none))
      ∧ (x.full = false → locked → x.ents = [] → res fun u => Retired p u t rd 0)
      ∧ (x.full = false → locked → x.ents ≠ [] → (commitErrs p x.ents).1 = true → res fun u => Faulted v u t 0 4)
      ∧ (x.full = false → locked → x.ents ≠ [] → (commitErrs p x.ents).1 = false →
        (overlayRoom v t es = false →
          res fun u => th u t = waiting v (th v t) .dma (0x100 + slot) (.commit rd slot last) ∧ ThreadsKept t v u ∧
            getF u MAP_OVL_WAIT_COUNT = satAdd MAP_OVL_WAIT_COUNT.w (getF v MAP_OVL_WAIT_COUNT) 1)
        ∧ (overlayRoom v t es = true → ringRoom v (64 + 24 * es.length) = false → let k := keepSpace v t es
          res fun u => th u t = waiting k (th k t) .dma (0x100 + slot) (.commit rd slot last) ∧ ThreadsKept t k u)
        ∧ ∀ r w b, overlayRoom v t es = true → ringRoom v (64 + 24 * es.length) = true →
          commitEnts (modTh v t fun y => { y with slots := mset Slot.empty y.slots slot Slot.empty }) t
            (((partOf v t).1 + (((es.map fun e => sysLbn v e.lbn).foldl min (2 ^ 48)) - cmdFirst v t)) / 256) last es
              = (b, r, w) →
          (b = false → res fun u => Retired w u t rd (BitVec.ofNat 64 r.nskip))
          ∧ (b = true → res fun u =>
              th u t = waiting w (th w t) .dma (0x100 + slot) (.commit rd slot last) ∧ ThreadsKept t w u))))
  ∧ (issues s t (aw 0x56 0 0 0 slot 0) = true → ∃ u, exec (.mdrop t slot) s = .next u ∧
      Issued s u t { advanced (th s t) with slots := mset Slot.empty (th s t).slots slot Slot.empty })
  ∧ (issues s t (aw 0x57 0 0 0 0 0) = true → ∃ u, exec (.mrel t) s = .next u ∧ ∃ v,
      v = serveBufs (modTh s t fun y => { y with held := [] }) ∧ Issued v u t (advanced (th v t))))

/-- LOCKB and UNLOCK (R155, R166, R167, R192, R232): locks in ascending order (PROGRAM 0x05), at most eight (0x06), of permitted
billets (ACCESS 0x01); a free lock is taken, another makes the thread park with reason LOCK; only a lock held is released
(0x08), and its longest waiter takes it. -/
def Obligations.BilletLocks : Prop := ∀ (s : State) (t rs1 : Nat),
  let i := localBil s (gr s t rs1).toNat
  let free := lockHolder s i = none ∧ inRange s i = false
  (issues s t (aw 0x60 0 rs1 0 0 0) = true →
    ((∃ l ∈ (th s t).locks, i ≤ l.1) → ∃ u, exec (.lockb t rs1) s = .next u ∧ Faulted s u t 1 5)
    ∧ ((∀ l ∈ (th s t).locks, l.1 < i) → 8 ≤ (th s t).locks.length → ∃ u, exec (.lockb t rs1) s = .next u ∧ Faulted s u t 1 6)
    ∧ ((∀ l ∈ (th s t).locks, l.1 < i) → (th s t).locks.length < 8 → mayLbn s t (256 * (gr s t rs1).toNat) = false →
        ∃ u, exec (.lockb t rs1) s = .next u ∧ Faulted s u t 2 1)
    ∧ ((∀ l ∈ (th s t).locks, l.1 < i) → (th s t).locks.length < 8 → mayLbn s t (256 * (gr s t rs1).toNat) = true → free →
        ∃ u, exec (.lockb t rs1) s = .next u ∧
          Issued s u t { advanced (th s t) with locks := (th s t).locks ++ [(i, s.clk.refNs)] })
    ∧ ((∀ l ∈ (th s t).locks, l.1 < i) → (th s t).locks.length < 8 → mayLbn s t (256 * (gr s t rs1).toNat) = true → ¬ free →
        ∃ u, exec (.lockb t rs1) s = .next u ∧ th u t = waiting s (th s t) .lock i .nothing ∧ ThreadsKept t s u))
  ∧ (issues s t (aw 0x61 0 rs1 0 0 0) = true →
    ((∀ l ∈ (th s t).locks, l.1 ≠ i) → ∃ u, exec (.unlock t rs1) s = .next u ∧ Faulted s u t 1 8)
    ∧ ((∃ l ∈ (th s t).locks, l.1 = i) → ∃ u v, exec (.unlock t rs1) s = .next u ∧
        v = grantLock (modTh s t fun x => { x with locks := x.locks.filter fun l => l.1 != i }) i ∧
        Issued v u t (advanced (th v t))))

/-- STRIKE (R193, R284, R358): handle (PROGRAM 0x04), frames (ACCESS 0x04) and permission (ACCESS 0x03) in this order; with no
tag free the thread waits with reason MEDIA and issues again; otherwise the lowest free tag is answered and the strike arrives.
MWAIT, MWANY and MPOLL (R155, R193): a tag not in use answers NOTAG; an ended strike answers its outcome word once and frees its
tag; an outstanding one makes MWAIT and MWANY wait with reason MEDIA, and MPOLL answer PENDING. -/
def Obligations.Strikes : Prop :=
  (∀ (s : State) (t rd rs1 rs2 entry frame nslot : Nat) (rb flim limit raw : Bool),
  entry < 2 ^ 16 → frame < 256 → nslot < 8 →
  issues s t (aw 0x80 rd rs1 rs2 (b2n rb + 2 * b2n flim + 4 * b2n limit + 8 * b2n raw + 16 * nslot) (entry + 2 ^ 16 * frame)) = true →
  let h := (gr s t rs2).toNat
  let need := strikeFrames s entry nslot
  let reaches := ∃ b, bufAt s h = some b ∧ t ∈ b.holders
  let fits := ∃ b, bufAt s h = some b ∧ frame + need ≤ frames b.pool
  let may := isSys s t = true ∨ (raw = false ∧ eCls s entry = 0)
  let res (p : State → Prop) := ∃ u, exec (.strike t rd rs1 rs2 entry frame rb flim limit raw nslot) s = .next u ∧ p u
  (need ≠ 0 → ¬ reaches → res fun u => Faulted s u t 1 4)
  ∧ (need ≠ 0 → reaches → ¬ fits → res fun u => Faulted s u t 2 4)
  ∧ ((need = 0 ∨ (reaches ∧ fits)) → ¬ may → res fun u => Faulted s u t 2 3)
  ∧ ((need = 0 ∨ (reaches ∧ fits)) → may → freeTag (th s t) = none → res fun u =>
      (th u t).st = .waiting ∧ (th u t).why = .media ∧ (th u t).cont = .again ∧ (th u t).pc = (th s t).pc ∧
      ThreadsKept t s u ∧ u = { s with thr := u.thr, order := s.order + 1 })
  ∧ ∀ g, (need = 0 ∨ (reaches ∧ fits)) → may → freeTag (th s t) = some g → res fun u => ∃ v k,
      k = mkStrike s t g ((gr s t rs1).toNat % 2 ^ 48) h entry frame nslot rb (takesLimit s t flim limit) raw ∧
      v = arrive (modTh s t fun x => { x with tags := mput x.tags g ⟨false, 0, 0⟩ }) k ∧
      Retired v u t rd (BitVec.ofNat 64 g))
  ∧
  (∀ (s : State) (t rd rs1 : Nat),
  let g := (gr s t rs1).toNat % 32
  let tag := (th s t).tags.find? fun e => e.1 = g
  (issues s t (aw 0x81 rd rs1 0 0 0) = true →
    (tag = none → ∃ u, exec (.mwait t rd rs1) s = .next u ∧ Retired s u t rd (BitVec.ofNat 64 (noTag g)))
    ∧ (∀ o, tag = some (g, o) → o.ended = true → ∃ u, exec (.mwait t rd rs1) s = .next u ∧
        Retired (modTh s t fun x => { x with tags := mdel x.tags g }) u t rd (BitVec.ofNat 64 o.outcome))
    ∧ (∀ o, tag = some (g, o) → o.ended = false → ∃ u, exec (.mwait t rd rs1) s = .next u ∧
        th u t = waiting s (th s t) .media g (.mwait rd g) ∧ ThreadsKept t s u))
  ∧ (issues s t (aw 0x82 rd 0 0 0 0) = true →
    (∀ k o, endedTag (th s t) = some (k, o) → ∃ u, exec (.mwany t rd) s = .next u ∧
        Retired (modTh s t fun x => { x with tags := mdel x.tags k }) u t rd (BitVec.ofNat 64 o.outcome))
    ∧ (∀ k, endedTag (th s t) = none → openTag (th s t) = some k → ∃ u, exec (.mwany t rd) s = .next u ∧
        th u t = waiting s (th s t) .media k (.mwany rd) ∧ ThreadsKept t s u)
    ∧ (endedTag (th s t) = none → openTag (th s t) = none → ∃ u, exec (.mwany t rd) s = .next u ∧
        Retired s u t rd (BitVec.ofNat 64 (noTag 0))))
  ∧ (issues s t (aw 0x83 rd rs1 0 0 0) = true →
    (tag = none → ∃ u, exec (.mpoll t rd rs1) s = .next u ∧ Retired s u t rd (BitVec.ofNat 64 (noTag g)))
    ∧ (∀ o, tag = some (g, o) → o.ended = true → ∃ u, exec (.mpoll t rd rs1) s = .next u ∧
        Retired (modTh s t fun x => { x with tags := mdel x.tags g }) u t rd (BitVec.ofNat 64 o.outcome))
    ∧ (∀ o, tag = some (g, o) → o.ended = false → ∃ u, exec (.mpoll t rd rs1) s = .next u ∧
        Retired s u t rd (BitVec.ofNat 64 (pendingWord g)))))

/-- XIN, XOUT and XCOPY (R172, R179, R181, R194, R196): a descriptor misaligned or past the local store is PROGRAM fault 0x0A; a
buffer not held PROGRAM 0x04, frames past its end ACCESS 0x04; then the transfer takes the lowest free number, or the thread
waits with reason DMA while 16 are in use. -/
def Obligations.TransferIssue : Prop := ∀ (s : State) (t rd rs1 : Nat),
  let a := (gr s t rs1).toNat % 512
  let w := (List.range 6).map fun i => leNat (rdBytes (th s t).ls (a + 8 * i) 8)
  let h := bits (w.getD 2 0) 0 32
  let src := bits (w.getD 0 0) 0 32
  let n := bits (w.getD 2 0) 40 8 + 1
  let fits := a % 8 = 0 ∧ a + 48 ≤ 512
  let ok (h f : Nat) := ∃ b, bufAt s h = some b ∧ t ∈ b.holders ∧ f + n ≤ frames b.pool
  let new (kind : XKind) (hs : List Nat) : Xfer := ⟨kind, w, hs, false, 0, none, 0⟩
  -- what holds of each: its opcode, the buffers it needs, the handles it keeps
  let tells (c : Instr) (op : Nat) (kind : XKind) (free : Prop) (hs : List Nat) : Prop := issues s t (aw op rd rs1 0 0 0) = true →
    (¬ fits → ∃ u, exec c s = .next u ∧ Faulted s u t 1 0x0A)
    ∧ (fits → holds s t h = false → ∃ u, exec c s = .next u ∧ Faulted s u t 1 4)
    ∧ (fits → holds s t h = true → ¬ ok h (bits (w.getD 2 0) 32 8) → ∃ u, exec c s = .next u ∧ Faulted s u t 2 4)
    ∧ (fits → free → freeXfer (th s t) = none → ∃ u, exec c s = .next u ∧ (th u t).st = .waiting ∧ (th u t).why = .dma ∧
        (th u t).cont = .again ∧ (th u t).pc = (th s t).pc ∧ ThreadsKept t s u ∧ u = { s with thr := u.thr, order := s.order + 1 })
    ∧ ∀ k, fits → free → freeXfer (th s t) = some k → ∃ u, exec c s = .next u ∧
        Retired (modTh s t fun x => { x with xfers := mset none x.xfers k (some (new kind hs)) }) u t rd (BitVec.ofNat 64 k)
  tells (.xin t rd rs1) 0x90 .xin (ok h (bits (w.getD 2 0) 32 8)) [h]
  ∧ tells (.xout t rd rs1) 0x91 .xout (ok h (bits (w.getD 2 0) 32 8)) [h]
  ∧ tells (.xcopy t rd rs1) 0x92 .xcopy (ok h (bits (w.getD 2 0) 32 8) ∧ ok src (bits (w.getD 0 0) 32 8)) [h, src]

/-- XWAIT and XPOLL (R155, R194): a number not in use answers NOTAG; an ended transfer answers its SV word once and frees its
number; XWAIT waits for one outstanding, with reason PAGEREQ while it stands at a page request; XPOLL answers PENDING. -/
def Obligations.TransferCollect : Prop := ∀ (s : State) (t rd rs1 : Nat),
  let n := (gr s t rs1).toNat % 16
  let drop (v : State) := modTh v t fun x => { x with xfers := mset none x.xfers n none }
  (issues s t (aw 0x93 rd rs1 0 0 0) = true →
    (xferAt (th s t) n = none → ∃ u, exec (.xwait t rd rs1) s = .next u ∧ Retired s u t rd (svWord 0xF5 0 none))
    ∧ (∀ y, xferAt (th s t) n = some y → y.ended = true → ∃ u v, exec (.xwait t rd rs1) s = .next u ∧
        Retired s v t rd (BitVec.ofNat 64 y.sv) ∧ u = drop v)
    ∧ (∀ y, xferAt (th s t) n = some y → y.ended = false → y.page = none → ∃ u, exec (.xwait t rd rs1) s = .next u ∧
        th u t = waiting s (th s t) .dma n (.xwait rd n) ∧ ThreadsKept t s u)
    ∧ (∀ y i a, xferAt (th s t) n = some y → y.ended = false → y.page = some (i, a) →
        ∃ u, exec (.xwait t rd rs1) s = .next u ∧ th u t = waiting s (th s t) .pagereq a (.xwait rd n) ∧ ThreadsKept t s u))
  ∧ (issues s t (aw 0x94 rd rs1 0 0 0) = true →
    (xferAt (th s t) n = none → ∃ u, exec (.xpoll t rd rs1) s = .next u ∧ Retired s u t rd (svWord 0xF5 0 none))
    ∧ (∀ y, xferAt (th s t) n = some y → y.ended = true → ∃ u v, exec (.xpoll t rd rs1) s = .next u ∧
        Retired s v t rd (BitVec.ofNat 64 y.sv) ∧ u = drop v)
    ∧ (∀ y, xferAt (th s t) n = some y → y.ended = false → ∃ u, exec (.xpoll t rd rs1) s = .next u ∧
        Retired s u t rd (svWord 0xF1 0 none)))

/-- CENC and CDEC (R166, R182, R195, R374): a host thread takes its tenant's key page only, a system thread one of pages 1,024
to 1,039; CENC needs a write version; then buffer, frames and SRC are checked and the transfer begins with the key page and
write version of the moment of issue. -/
def Obligations.CipherIssue : Prop := ∀ (s : State) (t rd rs1 : Nat),
  let a := (gr s t rs1).toNat % 512
  let w := (List.range 7).map fun i => leNat (rdBytes (th s t).ls (a + 8 * i) 8)
  let h := bits (w.getD 2 0) 0 32
  let f := bits (w.getD 2 0) 32 8
  let n := bits (w.getD 2 0) 40 8 + 1
  let src := w.getD 5 0
  let fits := a % 8 = 0 ∧ a + 56 ≤ 512
  let page := if isSys s t then (if bit (w.getD 6 0) 11 && 1024 ≤ bits (w.getD 6 0) 0 11 && bits (w.getD 6 0) 0 11 < 1040
    then some (bits (w.getD 6 0) 0 11) else none) else if bit (w.getD 6 0) 11 then none else some (tenantOf s t)
  let ok := ∃ b, bufAt s h = some b ∧ t ∈ b.holders ∧ f + n ≤ frames b.pool
  let new (kind : XKind) (p : Nat) : Xfer := ⟨kind, w ++ [p, (keyPage s p).wver], [h], false, 0, none, 0⟩
  -- what holds of each: its opcode, the page it may use, what SRC may be
  let tells (c : Instr) (op : Nat) (kind : XKind) (keyed srcOk : Prop) : Prop := issues s t (aw op rd rs1 0 0 0) = true →
    (¬ fits → ∃ u, exec c s = .next u ∧ Faulted s u t 1 0x0A)
    ∧ (fits → ¬ keyed → ∃ u, exec c s = .next u ∧ Faulted s u t 2 2)
    ∧ (fits → keyed → holds s t h = false → ∃ u, exec c s = .next u ∧ Faulted s u t 1 4)
    ∧ (fits → keyed → holds s t h = true → ¬ ok → ∃ u, exec c s = .next u ∧ Faulted s u t 2 4)
    ∧ (fits → keyed → ok → ¬ srcOk → ∃ u, exec c s = .next u ∧ Faulted s u t 2 4)
    ∧ ∀ k p, fits → keyed → page = some p → ok → srcOk → freeXfer (th s t) = some k → ∃ u, exec c s = .next u ∧
        Retired (modTh s t fun x => { x with xfers := mset none x.xfers k (some (new kind p)) }) u t rd (BitVec.ofNat 64 k)
  tells (.cenc t rd rs1) 0xA0 .cenc (∃ p, page = some p ∧ (keyPage s p).writable = true) True
  ∧ tells (.cdec t rd rs1) 0xA1 .cdec (∃ p, page = some p)
      (src = 0 ∨ (bits src 48 3 = 4 ∧ (isSys s t = true ∨ src ∈ (th s t).held)))

/-- PXOPEN, PXADD, PXCLOSE and PXREB (R197, R343 to R345, R349, R356): system threads only (ACCESS fault 0x07); PXOPEN answers
INVALID, waits with reason BUFFER for an accumulator, or opens the stripe; the others need the thread's own stripe handle
(PROGRAM 0x04) and a buffer held with room, and start a transfer. -/
def Obligations.ParityIssue : Prop := ∀ (s : State) (t rd rs1 rs2 frame mem : Nat), frame < 256 → mem < 32 →
  let h := (gr s t rs1).toNat
  let start (v : State) (kind : XKind) (w hs : List Nat) (k : Nat) := modTh v t fun x =>
    { x with xfers := mset none x.xfers k (some ⟨kind, w, hs, false, 0, none, 0⟩) }
  (issues s t (aw 0xB0 rd rs1 0 0 0) = true →
    (isSys s t = false → ∃ u, exec (.pxopen t rd rs1) s = .next u ∧ Faulted s u t 2 7)
    ∧ (isSys s t = true → pxOpen s t h = .invalid → ∃ u, exec (.pxopen t rd rs1) s = .next u ∧
        Retired s u t rd (svWord 0x11 0 none))
    ∧ (isSys s t = true → pxOpen s t h = .full → ∃ u, exec (.pxopen t rd rs1) s = .next u ∧
        th u t = waiting s (th s t) .buffer 5 (.pxopen rd h 0) ∧ ThreadsKept t s u ∧ RegsKept [BUF_FBCNT_PARKS, issueFld t] s u)
    ∧ ∀ k v, isSys s t = true → pxOpen s t h = .opened k v → mirrors s = false →
        ∃ u, exec (.pxopen t rd rs1) s = .next u ∧ Retired v u t rd (BitVec.ofNat 64 k))
  ∧ (issues s t (aw 0xB1 rd rs1 rs2 0 (frame + 256 * mem)) = true →
    (isSys s t = false → ∃ u, exec (.pxadd t rd rs1 rs2 frame mem) s = .next u ∧ Faulted s u t 2 7)
    ∧ (isSys s t = true → accAt s t h = none → ∃ u, exec (.pxadd t rd rs1 rs2 frame mem) s = .next u ∧ Faulted s u t 1 4)
    ∧ ∀ i a k, isSys s t = true → accAt s t h = some (i, a) → bufFault s t (gr s t rs2).toNat frame 8 = none →
        freeXfer (th s t) = some k → ∃ u, exec (.pxadd t rd rs1 rs2 frame mem) s = .next u ∧
          Retired (start s .pxadd [i, frame, mem] [(gr s t rs2).toNat] k) u t rd (BitVec.ofNat 64 k))
  ∧ (issues s t (aw 0xB2 rd rs1 rs2 0 frame) = true →
    (isSys s t = false → ∃ u, exec (.pxclose t rd rs1 rs2 frame) s = .next u ∧ Faulted s u t 2 7)
    ∧ (isSys s t = true → accAt s t h = none → ∃ u, exec (.pxclose t rd rs1 rs2 frame) s = .next u ∧ Faulted s u t 1 4)
    ∧ ∀ i a k, isSys s t = true → accAt s t h = some (i, a) →
        bufFault s t (gr s t rs2).toNat frame (8 * accPages s a) = none →
        freeXfer (th s t) = some k → ∃ u, exec (.pxclose t rd rs1 rs2 frame) s = .next u ∧
          Retired (start s .pxclose [i, frame] [(gr s t rs2).toNat] k) u t rd (BitVec.ofNat 64 k))
  ∧ (issues s t (aw 0xB3 rd rs1 0 0 0) = true →
    let b := h % 512
    let w := (List.range 2).map fun i => leNat (rdBytes (th s t).ls (b + 8 * i) 8)
    let c := w.getD 1 0
    (isSys s t = false → ∃ u, exec (.pxreb t rd rs1) s = .next u ∧ Faulted s u t 2 7)
    ∧ (isSys s t = true → ¬ (b % 8 = 0 ∧ b + 16 ≤ 512) → ∃ u, exec (.pxreb t rd rs1) s = .next u ∧ Faulted s u t 1 0x0A)
    ∧ ∀ k, isSys s t = true → b % 8 = 0 → b + 16 ≤ 512 →
        bufFault s t (bits c 0 32) (bits c 32 8) (bits c 40 3 + 1) = none → freeXfer (th s t) = some k →
        ∃ u, exec (.pxreb t rd rs1) s = .next u ∧
          Retired (start s .pxreb w [bits c 0 32] k) u t rd (BitVec.ofNat 64 k))

/-- TNOW, TFLAGS, TWAIT and QCHG (R40, R156, R198, R396): TNOW answers CHR_NOW, TFLAGS the stamp-flag byte of the thread's next
stamp; TWAIT goes on when CHR_NOW is at or past its deadline, otherwise parks with reason TIME; QCHG charges a host thread's
tenant when all three amounts fit, otherwise parks with reason QUOTA, and charges a system thread nothing. -/
def Obligations.TimeAndQuota : Prop := ∀ (s : State) (t rd rs1 rs2 imm : Nat),
  let a := (gr s t rs1).toNat
  let b := (gr s t rs2).toNat
  (issues s t (aw 0xC0 rd 0 0 0 0) = true → ∃ u, exec (.tnow t rd) s = .next u ∧ Retired s u t rd (BitVec.ofNat 64 s.clk.now))
  ∧ (issues s t (aw 0xC1 rd 0 0 0 0) = true → ∃ u, exec (.tflags t rd) s = .next u ∧
      Retired s u t rd (BitVec.ofNat 64 (getF s CHR_STAT_DR + 2 * getF s CHR_STAT_SLEW + 4 * getF s CHR_STAT_UNSET
        + if mget 0 s.clk.jumpSeen t < s.clk.steps then 8 else 0)))
  ∧ (issues s t (aw 0xC2 0 rs1 0 0 0) = true →
      (a ≤ s.clk.now → ∃ u, exec (.twait t rs1) s = .next u ∧ Issued s u t (advanced (th s t)))
      ∧ (s.clk.now < a → ∃ u, exec (.twait t rs1) s = .next u ∧ th u t = waiting s (th s t) .time a .nothing ∧ ThreadsKept t s u))
  ∧ (issues s t (aw 0xC3 0 rs1 rs2 0 imm) = true →
      (isSys s t = true → ∃ u, exec (.qchg t rs1 rs2 imm) s = .next u ∧ Issued s u t (advanced (th s t)))
      ∧ (isSys s t = false → chargeFits s t a b imm = true → ∃ u v, exec (.qchg t rs1 rs2 imm) s = .next u ∧
          v = makeCharge s t a b imm ∧ Issued v u t (advanced (th v t)))
      ∧ (isSys s t = false → chargeFits s t a b imm = false → ∃ u, exec (.qchg t rs1 rs2 imm) s = .next u ∧
          (th u t).st = .parked ∧ (th u t).why = .quota ∧ (th u t).pc = (th s t).pc + 8 ∧ ThreadsKept t s u ∧
          u.d.ten.parked = s.d.ten.parked ++ [(t, a, b, imm)]))

/-- MSEND, MRECV, MACK and MHELM (R16, R166, R172, R199, R494 to R496): who may send, receive and acknowledge (ACCESS fault
0x06, for MHELM 0x07), the local-store operands (PROGRAM 0x0A), and the effect: a message sent under the thread's identity, a
full mailbox read into local store with its SENDER as result or a park with reason MAILBOX, an acknowledgement, a command at the
end of the helm's queue with the thread parked. -/
def Obligations.MailInstructions : Prop := ∀ (s : State) (t rd rs1 rs2 : Nat),
  let n := (gr s t rs1).toNat % 64
  let a := (gr s t rs2).toNat % 512
  let d := (gr s t rs1).toNat % 512
  let mine := 4 ≤ n ∧ n < 48 ∧ getF s (MBX_CFG_RCV n) = t
  (issues s t (aw 0xD0 0 rs1 rs2 0 0) = true →
    let may := isSys s t = true ∨ (4 ≤ n ∧ n < 48 ∧ getF s (MBX_CFG_HOSTSEND n) = 1)
    (¬ may → ∃ u, exec (.msend t rs1 rs2) s = .next u ∧ Faulted s u t 2 6)
    ∧ (may → ¬ (a % 8 = 0 ∧ a + 32 ≤ 512) → ∃ u, exec (.msend t rs1 rs2) s = .next u ∧ Faulted s u t 1 0x0A)
    ∧ (may → a % 8 = 0 → a + 32 ≤ 512 → ∃ u v, exec (.msend t rs1 rs2) s = .next u ∧ Issued s v t (advanced (th s t)) ∧
        u = sendMsg v n (threadId s t) t (rdBytes (th s t).ls a 32)))
  ∧ (issues s t (aw 0xD1 rd rs1 rs2 0 0) = true →
    (¬ mine → ∃ u, exec (.mrecv t rd rs1 rs2) s = .next u ∧ Faulted s u t 2 6)
    ∧ (mine → ¬ (a % 8 = 0 ∧ a + 40 ≤ 512) → ∃ u, exec (.mrecv t rd rs1 rs2) s = .next u ∧ Faulted s u t 1 0x0A)
    ∧ (mine → a % 8 = 0 → a + 40 ≤ 512 → (box s n).full = true → ∃ u v, exec (.mrecv t rd rs1 rs2) s = .next u ∧
        Retired v u t rd (BitVec.ofNat 64 (box s n).sender) ∧ (box u n).full = false ∧
        (∀ m, m ≠ n → box u m = box s m) ∧ ThreadsKept t s v ∧
        th v t = { th s t with ls := wrBytes (th s t).ls a ((box s n).body ++ leBytes 8 (box s n).stamp) } ∧
        v = { s with thr := v.thr, d := { s.d with box := v.d.box } })
    ∧ (mine → a % 8 = 0 → a + 40 ≤ 512 → (box s n).full = false → ∃ u, exec (.mrecv t rd rs1 rs2) s = .next u ∧
        th u t = waiting s (th s t) .mailbox n (.mrecv rd n a) ∧ ThreadsKept t s u))
  ∧ (issues s t (aw 0xD2 0 rs1 rs2 0 0) = true →
    (¬ mine → ∃ u, exec (.mack t rs1 rs2) s = .next u ∧ Faulted s u t 2 6)
    ∧ (mine → ∃ u v, exec (.mack t rs1 rs2) s = .next u ∧ v = ackBox s n (gr s t rs2).toNat (threadId s t) ∧
        Issued v u t (advanced (th s t))))
  ∧ (issues s t (aw 0xD3 0 rs1 0 0 0) = true →
    (isSys s t = true → ∃ u, exec (.mhelm t rs1) s = .next u ∧ Faulted s u t 2 7)
    ∧ (isSys s t = false → ¬ (d % 8 = 0 ∧ d + 16 ≤ 512) → ∃ u, exec (.mhelm t rs1) s = .next u ∧ Faulted s u t 1 0x0A)
    ∧ (isSys s t = false → d % 8 = 0 → d + 16 ≤ 512 → ∃ u, exec (.mhelm t rs1) s = .next u ∧
        th u t = { waiting s (th s t) .mailbox 0 (.mhelm d) with withHelm := opcOf s t != 5 } ∧ ThreadsKept t s u ∧
        u.d.helm = s.d.helm ++ [⟨t, (cx s t).block, [], d, false, helmRefusal s t (bits (cx s t).block 0 8), []⟩]))

/-- DONE, YIELD, FAULT and undefined words (R146, R173, R175, R200): DONE with a lock held is PROGRAM fault 0x07, a host
thread's DONE with a CLASS outside R144 PROGRAM 0x01; otherwise it ends the command, or waits for what is outstanding; YIELD
gives the slot back; FAULT is PROGRAM 0x09 with IMM[7:0]; a pc outside the program store is PROGRAM 0x02, an undefined word
0x01. -/
def Obligations.ThreadEnds : Prop := ∀ (s : State) (t rs1 rs2 imm : Nat) (flaw : Bool),
  let st := (gr s t rs1).toNat
  (issues s t (aw 0xE0 0 rs1 rs2 0 0) = true →
    ((th s t).locks ≠ [] → ∃ u, exec (.done t rs1 rs2) s = .next u ∧ Faulted s u t 1 7)
    ∧ ((th s t).locks = [] → isHost t = true → doneClass (st % 256) = false →
        ∃ u, exec (.done t rs1 rs2) s = .next u ∧ Faulted s u t 1 1)
    ∧ ((th s t).locks = [] → isHost t = true → doneClass (st % 256) = true → openTag (th s t) = none → openXfer (th s t) = none →
        ∃ u v, exec (.done t rs1 rs2) s = .next u ∧ v = releaseAll (modTh (adv s t) t fun x => { x with runIssued := 0 }) t ∧
          th u t = { th v t with st := .done, why := .none, cont := .nothing, ending := some (endingOf st (gr s t rs2).toNat) } ∧
          ThreadsKept t v u ∧ u = { v with thr := u.thr, ctx := (commitAtDone v t).ctx })
    ∧ (∀ g, (th s t).locks = [] → ¬ (isHost t = true ∧ doneClass (st % 256) = false) → openTag (th s t) = some g →
        ∃ u, exec (.done t rs1 rs2) s = .next u ∧ (th u t).st = .waiting ∧ (th u t).why = .media ∧ (th u t).arg = g ∧
          (th u t).cont = .ending st (gr s t rs2).toNat ∧ ThreadsKept t s u))
  ∧ (issues s t (aw 0xE8 0 0 0 0 0) = true → heldBack s t = false → ∃ u w, exec (.yield t) s = .next w ∧ w = enforceL u t ∧ th w t = th u t ∧
      th u t = { advanced (th s t) with st := .ready, readyAt := s.order, runIssued := 0 } ∧ ThreadsKept t s u ∧
      u = { s with thr := u.thr, vf := u.vf, order := s.order + 1 })
  ∧ (imm < 256 → issues s t (aw 0xEF 0 0 0 0 imm) = true → ∃ u v, exec (.fault t imm) s = .next u ∧ Faulted s v t 1 9 ∧
      u = modTh v t fun x => { x with faultImm := imm })
  ∧ ((th s t).st = .running → (th s t).cont = .nothing →
      (pcOk (th s t).pc = false → ∃ u, exec (.undefinedInstruction ⟨t, flaw⟩) s = .next u ∧ Faulted s u t 1 2)
      ∧ (pcOk (th s t).pc = true → wordDefined (progWord s (th s t).pc) = false →
          ∃ u, exec (.undefinedInstruction ⟨t, flaw⟩) s = .next u ∧ Faulted s u t 1 1)
      ∧ (pcOk (th s t).pc = true → wordDefined (progWord s (th s t).pc) = true → flaw = true →
          ∃ u, exec (.undefinedInstruction ⟨t, flaw⟩) s = .next u ∧ Faulted s u t 0 1))

/-- DISPATCH, SLOT_GRANT and QUANTUM_EXPIRY (R146, R151, R152, R160, R161, R163, R165, R166): an armed thread becomes READY at
its handler with the task register block in g1 to g8, its tenant as stamp and everything else zero, an internal thread with the
system stamp at its role's handler; a free slot goes to the thread next in line, which runs; a thread whose quantum is used up
while another of its kind is ready goes back to READY. -/
def Obligations.ThreadSlots : Prop := ∀ (s : State) (t q : Nat),
  ((th s t).st = .armed → t < 4096 → anvilMode s = true → ∃ u w, exec (.dispatch t) s = .next w ∧ w = enforceL u t ∧ th w t = th u t ∧
      (th u t).st = .ready ∧ (th u t).pc = dispatchEntry s (bits (cx s t).block 0 8) ∧
      (∀ i, i < 8 → gr u t (i + 1) = BitVec.ofNat 64 (bits (cx s t).block (64 * i) 64)) ∧
      (∀ r, 9 ≤ r → gr u t r = 0) ∧ (th u t).stamp = (bindOf s t).tenant ∧ (th u t).ls = [] ∧ (th u t).role = 0 ∧
      (th u t).readyAt = s.order ∧ ThreadsKept t s u ∧
      u = { s with thr := u.thr, order := s.order + 1, strides := s.strides.filter fun e => e.1 / 8 != t })
  ∧ ((th s t).st = .armed → 4096 ≤ t → t < 4608 → anvilMode s = true → s.d.hold = 0 → ∃ u, exec (.dispatch t) s = .next u ∧
      (th u t).st = .ready ∧ (th u t).pc = bits (roleEntry s t) 0 23 ∧
      gr u t 1 = BitVec.ofNat 64 (bits (roleEntry s t) 32 32) ∧ gr u t 2 = BitVec.ofNat 64 (roleOf s t) ∧
      (∀ r, 3 ≤ r → gr u t r = 0) ∧ (th u t).stamp = 0x400 ∧ (th u t).role = roleOf s t ∧ ThreadsKept t s u ∧
      u = { s with thr := u.thr, order := s.order + 1, strides := s.strides.filter fun e => e.1 / 8 != t })
  ∧ (q < 4 → anvilMode s = true → (inQuad s q true .running).length + (inQuad s q false .running).length < 64 →
      slotTo s q = some t → (th s t).cont = .nothing → ∃ u, exec (.slotGrant q) s = .next u ∧
      th u t = { th s t with st := .running, why := .none, slotAt := s.order, issued := 0 } ∧ ThreadsKept t s u ∧
      u = { s with thr := u.thr, order := s.order + 1 })
  ∧ ((th s t).st = .running → 64 * getF s ANV_TMO_QUANTUM ≤ (th s t).issued → inQuad s (quadOf t) (isHost t) .ready ≠ [] →
      heldBack s t = false → ∃ u w, exec (.quantumExpiry t) s = .next w ∧ w = enforceL u t ∧ th w t = th u t ∧
      th u t = { th s t with st := .ready, readyAt := s.order } ∧ ThreadsKept t s u ∧
      u = { s with thr := u.thr, order := s.order + 1 })

/-- The bounds of R167, TIME_DEADLINE, THREAD_FAULT and COMMAND_COMPLETION (R138, R155, R159, R168 to R170): a wait longer than
WAIT_MS is TIMEOUT fault 0x01, a lock held longer than LOCK_MS 0x02, RUNLIM × 65,536 instructions without a wait 0x03; a
deadline reached makes its thread READY; a fault's clean-up ends the command with ABORTED_FAULT and the class, unless commit
acknowledged it; an ended command completes: its record is written, its mirror set, its context IDLE. -/
def Obligations.ThreadBounds : Prop := ∀ (s : State) (t : Nat) (el : Elapse) (x : Xlate),
  let v := elapse s el
  ((th s t).st = .waiting → 1000000 * getF s ANV_TMO_WAIT_MS < v.clk.refNs - (th s t).sinceRef →
      ∃ u, exec (.waitTimeout t el) s = .next u ∧ (th u t).st = .faulted ∧ (th u t).faultCls = 3 ∧ (th u t).faultCode = 1 ∧
        ((∀ r ∈ s.buf.reqs, r.t ≠ t) → ThreadsKept t s u))
  ∧ (((th s t).st = .ready ∨ (th s t).st = .running ∨ (th s t).st = .waiting ∨ (th s t).st = .parked) →
      (∃ l ∈ (th s t).locks, 1000000 * getF s ANV_TMO_LOCK_MS < v.clk.refNs - l.2) →
      ∃ u, exec (.lockHoldTimeout t el) s = .next u ∧ (th u t).st = .faulted ∧ (th u t).faultCls = 3 ∧ (th u t).faultCode = 2 ∧
        ((∀ r ∈ s.buf.reqs, r.t ≠ t) → ThreadsKept t s u))
  ∧ ((th s t).st = .running → 65536 * getF s ANV_TMO_RUNLIM ≤ (th s t).runIssued →
      ∃ u, exec (.runLimitTimeout t) s = .next u ∧ Faulted s u t 3 3)
  ∧ ((th s t).st = .parked → (th s t).why = .time → t ∉ s.d.held → (th s t).arg ≤ v.clk.now → heldBack v t = false →
      ∃ u w, exec (.timeDeadline t el) s = .next w ∧ w = enforceL u t ∧ th w t = th u t ∧
        th u t = { th s t with st := .ready, why := .none, cont := .nothing, readyAt := s.order } ∧ ThreadsKept t s u)
  ∧ ((th s t).st = .faulted → mustWait s t = false → isHost t = true → inParts s t = false →
      ∃ u, exec (.threadFault t x) s = .next u ∧ (th u t).st = .idle ∧
        bits (cx u t).mirror 0 16 = if (cx s t).commit then 0 else 0x41 + 256 * ((0x10 + (th s t).faultCls) % 256))
  ∧ (∀ e, isHost t = true → (th s t).st = .done → (th s t).ending = some e → mustWait s t = false → inParts s t = false →
      ∃ u, exec (.commandCompletion t x) s = .next u ∧ (th u t).st = .idle ∧ (cx u t).portGone = false ∧
        bits (cx u t).mirror 0 16 = e.cls % 256 + 256 * (e.detail % 256))

/-- CHR_TICK (R36, R37, R41, R43, R47, R58): a pulse or a gap shorter than 100 ns, and any pulse in OFF or with TICK_EN = 0, is
no candidate; a candidate outside 0.9 P to 1.1 P of the last tick is rejected and counted as a glitch; an accepted one sets the
last tick, applies a SET_TIME that awaited it, or takes the phase error and starts its correction; the second good tick ends
dead reckoning. -/
def Obligations.ChronometerTick : Prop := ∀ (s : State) (hi lo : Nat) (el : Elapse),
  let v := elapse s ⟨el.ns + (if getF s CHR_CTL_TICK_EDGE = 1 then hi else 0), el.corr⟩
  let p := 1000 * getF s CHR_TICK_PER_PERIOD_US
  let cand := mode s ≠ mOff ∧ getF s CHR_CTL_TICK_EN = 1 ∧ 100 ≤ hi ∧ 100 ≤ lo
  let good (l : Nat) := 9 * p ≤ 10 * (v.clk.now - l) ∧ 10 * (v.clk.now - l) ≤ 11 * p
  let free := v.clk.anyNext = true ∨ v.clk.lastTick = none
  (¬ cand → exec (.chrTick hi lo el) s = .next v)
  ∧ (∀ l, cand → v.clk.anyNext = false → v.clk.lastTick = some l → ¬ good l → ∃ u, exec (.chrTick hi lo el) s = .next u ∧
      getF u CHR_STAT_GLITCH = 1 ∧ getF u CHR_GLITCH_CNT_COUNT
        = min (getF s CHR_GLITCH_CNT_COUNT + 1) (2 ^ CHR_GLITCH_CNT_COUNT.w - 1) % 2 ^ CHR_GLITCH_CNT_COUNT.w ∧
      RegsKept [CHR_STAT_GLITCH, CHR_GLITCH_CNT_COUNT] v u ∧ u = { v with vf := u.vf, ret := u.ret, copyA := u.copyA, copyB := u.copyB })
  ∧ (∀ q, cand → (free ∨ ∃ l, v.clk.lastTick = some l ∧ good l) → v.clk.pend = some q →
      ∃ u, exec (.chrTick hi lo el) s = .next u ∧ u.clk.now = q.t ∧ u.clk.lastTick = some q.t ∧ u.clk.pend = none ∧
        u.clk.anyNext = false ∧ getF u CHR_STAT_UNSET = 0 ∧
        getF u CHR_ERR_LAST_ERR_NS = errField (phaseErr v) % 2 ^ CHR_ERR_LAST_ERR_NS.w)
  ∧ (cand → (free ∨ ∃ l, v.clk.lastTick = some l ∧ good l) → v.clk.pend = none → getF s CHR_STAT_DR = 0 →
      ¬ (v.clk.fromSet = true ∧ v.clk.slewRem ≠ 0) → ∃ u, exec (.chrTick hi lo el) s = .next u ∧
        u.clk = { v.clk with lastTick := some v.clk.now, anyNext := false, slewRem := phaseErr v, fromSet := false } ∧
        getF u CHR_STAT_SLEW = (if 1000 ≤ (phaseErr v).natAbs then 1 else 0) ∧
        getF u CHR_ERR_LAST_ERR_NS = errField (phaseErr v) % 2 ^ CHR_ERR_LAST_ERR_NS.w ∧
        RegsKept [CHR_STAT_SLEW, CHR_ERR_LAST_ERR_NS] v u)
  ∧ (∀ l, cand → v.clk.anyNext = false → v.clk.lastTick = some l → good l → v.clk.pend = none → getF s CHR_STAT_DR = 1 →
      ∃ u, exec (.chrTick hi lo el) s = .next u ∧ getF u CHR_STAT_DR = 0 ∧ u.clk.lastTick = some v.clk.now ∧
        u.clk.slewRem = phaseErr v)

/-- Dead reckoning, the end of a correction, TICK_EN and the almanac scan (R41, R46, R53, R55, R58): 1.5 P without an accepted
tick start dead reckoning; SLEW falls with less than 1 µs left; a write of TICK_EN stores the bit, and after a 1 the next
candidate is accepted unconditionally; a scan lists the entries due at a new millisecond, or shows LATE while the last is not
done. -/
def Obligations.ChronometerEvents : Prop := ∀ (s : State) (el : Elapse) (b : Bool),
  let v := elapse s el
  (mode s ≠ mOff → (mode s ≠ mKindle ∨ 5 ≤ getF s HELM_KINDLE_STEP) → getF s CHR_STAT_DR = 0 → v.clk.pend = none →
      3000 * getF s CHR_TICK_PER_PERIOD_US ≤ 2 * (v.clk.now - v.clk.lastTick.getD v.clk.tickBase) →
      ∃ u, exec (.deadReckoningEntry el) s = .next u ∧ getF u CHR_STAT_DR = 1 ∧ getF u CHR_STAT_DR_SEEN = 1 ∧
        u.clk.drSince = v.clk.now ∧ u.clk.lastTick = none ∧ u.clk.anyNext = true ∧ RegsKept [CHR_STAT_DR, CHR_STAT_DR_SEEN] v u)
  ∧ (v.clk.slewRem.natAbs < 1000 → ∃ u, exec (.slewComplete el) s = .next u ∧ getF u CHR_STAT_SLEW = 0 ∧
      RegsKept [CHR_STAT_SLEW] v u ∧ u.clk = v.clk)
  ∧ (regOk s 1 = true → b = true → ∃ u, exec (.tickEnWrite b) s = .next u ∧ getF u CHR_CTL_TICK_EN = 1 ∧
      u.clk = { s.clk with anyNext := true } ∧ RegsKept [CHR_CTL_TICK_EN] s u)
  ∧ (regOk s 1 = true → b = false → s.clk.pend = none → ∃ u, exec (.tickEnWrite b) s = .next u ∧ getF u CHR_CTL_TICK_EN = 0 ∧
      getF u CHR_STAT_DR = 1)
  ∧ (mode s ≠ mOff → v.clk.scanMs < v.clk.now / 1000000 → dueNow v ≠ [] → ∃ u, exec (.almanacScan el) s = .next u ∧
      getF u CHR_STAT_LATE = 1 ∧ RegsKept [CHR_STAT_LATE] v u ∧ u.clk = { v.clk with lateMs := v.clk.now / 1000000 })
  ∧ (mode s ≠ mOff → v.clk.scanMs < v.clk.now / 1000000 → dueNow v = [] →
      let late := v.clk.scanMs < v.clk.lateMs ∧ v.clk.scanMs + 1 < v.clk.now / 1000000
      let b := if late then v.clk.scanMs + 1 else v.clk.now / 1000000
      ∃ u w, exec (.almanacScan el) s = .next u ∧
      w = applyQuota { v with clk := { v.clk with scanMs := b, scanAt := if late then 1000000 * b else v.clk.now } } (1000000 * b) ∧
      u = { w with clk := { w.clk with due := scanDue w } } ∧ u.clk.scanMs = b)

/-- The almanac's rows (R48, R49, R51, R54, R55): a refill entry fires at the first boundary due; of the entries a scan lists
the first in line fires, its COUNT grown and its DUE advanced, and the action of its kind follows: WATCH, SNAPSHOT, LODESTAR,
SCRUB, PATROL, SWAP, ACTIVATE, POST; a row of another kind has no effect. A refill adds its rate to each bucket up to the
capacity; a snapshot fills the next slot of the minute ring and starts the live counters again; a swap begins to drain; an
activation makes the staged image due; a post fills its mailbox. While a change of mode is under way an ACTIVATE entry waits
(log 50). -/
def Obligations.AlmanacRows : Prop := (∀ (s : State) (i b : Nat), nextRefill s = some (i, b) →
    ∃ u, exec .refill s = .next u ∧ u = refill (fireAt (applyQuota s b) b i) ∧
      mget AlmEntry.unused u.ret.alm i = firedEntry b (s.clk.skip.contains i) (mget AlmEntry.unused s.ret.alm i) ∧
      (s.d.ten.parked = [] → s.d.ten.due = [] → MapWf Quota.none s.d.ten.force → ∀ n k, k < 3 →
        let q := quotaAt (quotaOf s n) k
        balOf u n k = if q.en then min q.cap (balOf s n k + q.rate) else balOf s n k))
  ∧ (∀ s : State, nextRefill s = none → exec .refill s = .next s)
  ∧ ∀ (s : State) (k i : Nat) (rest : List (Nat × Nat)), dueNow s = (k, i) :: rest →
  (nextRefill s).all (fun x => s.clk.scanAt < x.2) = true →
  let e := mget AlmEntry.unused s.ret.alm i
  let v := fireAt { s with clk := { s.clk with due := rest } } s.clk.scanAt i
  (mget AlmEntry.unused v.ret.alm i = firedEntry s.clk.scanAt (s.clk.skip.contains i) e ∧
    v.clk = { s.clk with due := rest, skip := s.clk.skip.filter (· != i) })
  ∧ (k = 1 → ∃ u, exec .watch s = .next u ∧ u = watch v ∧ u.ch.errw = [] ∧ u.d.roleFaults = [] ∧
      u.clk.watchMs = getF s CHR_WATCH_PERIOD_MS ∧ u.ret.now = s.clk.now ∧ getF u HELM_VOTE_MASKED = 0)
  ∧ (k = 3 → ∃ u, exec .snapshot s = .next u ∧ u = snapshot v ∧ (mode s ≠ mStandby →
      let x := mget MinSlot.blank u.rsm.slots u.rsm.newSlot
      u.rsm.newSlot = (s.rsm.newSlot + 1) % 60 ∧ u.rsm.minSeq = s.rsm.minSeq + 1 ∧ x.seq = u.rsm.minSeq ∧ x.stamp = s.clk.now ∧
      x.endMin = s.clk.now / 60000000000 ∧ x.loss = s.d.ten.loss ∧ u.d.ten.live = [] ∧ u.d.ten.loss = false))
  ∧ (k = 4 → ∃ u, exec .lodestar s = .next u ∧ getF u CAS_LSTAT_RECEIVED = 0 ∧ RegsKept [CAS_LSTAT_RECEIVED] v u)
  ∧ (k = 5 → ∃ u, exec .scrub s = .next u ∧ getF u DRM_SCRUB_LPMS = e.arg % 2 ^ DRM_SCRUB_LPMS.w ∧ RegsKept [DRM_SCRUB_LPMS] v u)
  ∧ (k = 6 → ∃ u, exec .patrol s = .next u ∧ getF u HELM_PATROL_PPS = e.arg % 2 ^ HELM_PATROL_PPS.w ∧
      RegsKept [HELM_PATROL_PPS] v u)
  ∧ (k = 7 → ∃ u, exec .swap s = .next u ∧ u = (if inPair v && isActive v && e.arg % 2 != b2n v.boot.side then swapDue v else v) ∧
      (inPair s = true → mode s = mRun → e.arg % 2 ≠ b2n s.boot.side → eligible s = true → s.x.change = none → s.x.safing = none →
        u.x = { s.x with change := some ⟨6, 9998, 1⟩ } ∧ getF u PAIR_STAT_SWAPPING = 1 ∧ getF u HELM_MODE_CHANGING = 1 ∧
        u.sent.head? = some (.pair 12 [0, s.map.jseq]) ∧ RegsKept [PAIR_STAT_SWAPPING, HELM_MODE_CHANGING] v u))
  ∧ (k = 8 → mayRestart s = true → ∃ u, exec .activate s = .next u ∧ u = activate v i e.arg ∧
      getF u IMG_ACT_WHEN = s.clk.now / 2 ^ 32 % 2 ^ IMG_ACT_WHEN.w ∧ (mode s = mRun → s.boot.casEn = false →
        (stagedOk s e.arg = false → getF u IMG_ACT_RESULT = if getF s IMG_STAGE_STATE = 2 then 9 else 8) ∧
        (stagedOk s e.arg = true → s.boot.pairEn = false → getF u IMG_STAGE_DUE = 1 ∧ getF u IMG_ACT_RESULT = 1 ∧
          u.x.change = some ⟨4, 9998, 1⟩)))
  ∧ (k = 8 → mayRestart s = false → exec .activate s = .next s)
  ∧ (k = 9 → ∃ u, exec .post s = .next u ∧ u = sendMsg v (e.arg % 64) (helmId v) srcMbx (leBytes 4 (bits e.arg 32 32)) ∧
      (e.arg % 64 < 48 → boxWaiter s (e.arg % 64) = none →
        let b := box u (e.arg % 64)
        b.full = true ∧ b.sender = helmId s ∧ b.stamp = s.clk.now ∧ b.body = padTo 0 32 (leBytes 4 (bits e.arg 32 32))))
  ∧ (k ≠ 1 → exec .watch s = .next s)

/-- Power and reset (R12, R60, R63, R64, R71, R515, R518): VIN at or above 4.5 V starts KINDLE with the straps sampled: at step
3 with a staged image due, else step 4, or SAFE with cause NO_IMAGE where no slot holds an image; VIN below 4.2 V, or a low
RST_N of 10 µs, takes the module to OFF with the cause recorded: threads, contexts, memories and buffers are as after reset,
while RSM, the flash and its journals stay, and with no PROGRAM or ERASE of it running the image store; a field whose commit was
cut short is as before it. A shorter RST_N pulse that may or may not be taken, and where a stop falls, are operands (log 4). -/
def Obligations.PowerAndReset : Prop := ∀ (s : State) (vin ns : Nat) (taken cut : Bool),
  let r := setF (setF (setF { s with pins := { s.pins with vin := vin, rstN := true }
                                     boot := { s.boot with split := s.pins.split, side := s.pins.side, cas := s.pins.cas } }
    HELM_MODE_PREV mOff) HELM_MODE_CUR mKindle) HELM_KINDLE_STEP 2
  let v := { r with ret := rsmRet r, boot := { r.boot with begun := true } }
  let gone (p : Pins) (f : Fld) (u : State) := mode u = mOff ∧ getF u f = 1 ∧ u.pins = p ∧ u.thr = [] ∧ u.ctx = [] ∧
    u.mem = Mem.reset ∧ u.slices = [] ∧ u.buf = BufMgr.reset ∧ u.rsm = s.rsm ∧ u.ck = s.ck ∧ u.sif = s.sif ∧ u.ring = s.ring ∧
    u.md.flash = s.md.flash ∧ u.keep = { s.keep with cuts := u.keep.cuts } ∧ u.pending = s.pending
  let kept (u : State) := u.ret = s.ret ∧ u.copyA = s.copyA ∧ u.copyB = s.copyB ∧ (s.x.img.queue = [] → u.store = s.store)
  (4500 ≤ vin → (mode s = mOff ∨ (mode s = mKindle ∧ s.boot.begun = false)) → s.tap ≤ 2 → ∃ u, exec (.powerOn vin) s = .next u ∧
      u.pins = v.pins ∧ u.boot.split = s.pins.split ∧ u.boot.side = s.pins.side ∧ u.boot.cas = s.pins.cas ∧ u.boot.begun = true ∧
      (bootSlot v = none → mode u = mSafe ∧ (getF v HELM_SAFE_CAUSE_CAUSE = 0 → getF u HELM_SAFE_CAUSE_CAUSE = 2)) ∧
      ∀ a n, bootSlot v = some (a, n) → mode u = mKindle ∧ u.boot.image = true ∧ getF u HELM_MODE_PREV = mOff ∧
        getF u HELM_KINDLE_STEP = if getF v IMG_STAGE_DUE = 1 then 3 else 4)
  ∧ (vin < 4500 ∨ 2 < s.tap → exec (.powerOn vin) s = .next s)
  ∧ (vin < 4200 → mode s ≠ mOff → ∃ u, exec (.vinBelowReset ⟨vin, cut⟩) s = .next u ∧
      gone { s.pins with vin := vin } HELM_RESET_CAUSE_POWER u ∧ (cut = false → kept u))
  ∧ (4200 ≤ vin → exec (.vinBelowReset ⟨vin, cut⟩) s = .next s)
  ∧ ((10000 ≤ ns ∨ (100 ≤ ns ∧ taken = true)) → mode s ≠ mOff → ∃ u, exec (.rstNReset ns ⟨taken, cut⟩) s = .next u ∧
      gone s.pins HELM_RESET_CAUSE_PIN u ∧ (cut = false → kept u))
  ∧ (ns < 100 → exec (.rstNReset ns ⟨taken, cut⟩) s = .next s)
  ∧ (cut = true → mode s ≠ mOff → ¬ (mode s = mKindle ∧ getF s HELM_KINDLE_STEP = 3) → ∃ u, exec (.rstNReset 10000 ⟨taken, cut⟩) s = .next u ∧
      u.ret = rsmRet (dropCommit s))

/-- KINDLE steps 3 to 6 and the taking of ownership (R58, R63 to R66, R70, R76, R266, R431, R474): each step in its place, and
what it leaves. -/
def Obligations.KindleFirstSteps : Prop := ∀ (s : State) (reprog : Nat) (badA badB fault ownIn in1 in2 : Bool) (kat seals : List Nat)
    (el : Elapse),
  let v := elapse s el
  (atStep s 3 = true → ∃ u, exec (.stagedImageCopy reprog) s = .next u ∧ getF u HELM_KINDLE_STEP = 4 ∧
      u = if (slotCheck s stagingSlot).isSome then toStep (romProtect (logEv (setC s IMG_STAGE_DUE 0) 15 1 [])) 4
        else toStep (romProtect (loadSlot (copyStaged s reprog) activeSlot (getF s HELM_KINDLE_SLOT))) 4)
  ∧ (atStep s 4 = true → fault = true → exec (.settingsRestore badA badB fault kat seals el) s = .next (safeArise v 8 9998))
  ∧ (atStep s 4 = true → fault = false → ∃ u, exec (.settingsRestore badA badB fault kat seals el) s = .next u ∧
      getF u HELM_KINDLE_STEP = 5 ∧ mode u = mKindle ∧ getF u CIP_STAT_KAT_DONE = 1 ∧ u.keep.qOpen = false)
  ∧ (atStep s 5 = true → ∃ u, exec (.dramTrain el) s = .next u ∧ getF u HELM_KINDLE_STEP = 6 ∧ getF u DRM_STAT_TRAINED = 1 ∧
      u.mem = { s.mem with dram := [], valid := [], bad := [] } ∧ RegsKept [HELM_KINDLE_STEP, DRM_STAT_TRAINED] v u)
  ∧ (atStep s 6 = true → s.boot.pairEn = true → (getF s PAIR_CFG_ROLE = 1 ∨ ownIn = true) →
      ∃ u, exec (.roleSettle ownIn) s = .next u ∧ getF u HELM_KINDLE_ROLE = 1 ∧ getF u HELM_KINDLE_STEP = 10)
  ∧ (atStep s 6 = true → ¬ (s.boot.pairEn = true ∧ (getF s PAIR_CFG_ROLE = 1 ∨ ownIn = true)) →
      ∃ u, exec (.roleSettle ownIn) s = .next u ∧ getF u HELM_KINDLE_ROLE = 0 ∧ getF u HELM_KINDLE_STEP = 6 ∧
        u.x.pair.acq = some ⟨1, 0, false⟩)
  ∧ (∀ a, v.x.pair.acq = some a → a.at_ = 0 → in1 = false → in2 = false → a.why = 1 →
      ∃ u, exec (.ownershipAcquire in1 in2 el) s = .next u ∧ getF u PAIR_STAT_OWN = 1 ∧ getF u HELM_KINDLE_STEP = 7 ∧
        u.x.pair.acq = none)
  ∧ (∀ a, v.x.pair.acq = some a → a.at_ = 0 → in1 = false → in2 = true → ∃ u, exec (.ownershipAcquire in1 in2 el) s = .next u ∧
      u.x.pair.acq = some ⟨a.why, v.clk.refNs + (if v.boot.side then 25000 else 5000), true⟩ ∧ u.vf = v.vf)
  ∧ (∀ a, v.x.pair.acq = some a → a.at_ ≠ 0 → a.at_ ≤ v.clk.refNs → ∃ u, exec (.ownershipRetry el) s = .next u ∧
      u = { v with x := { v.x with pair := { v.x.pair with acq := some { a with at_ := 0 } } } })

/-- KINDLE steps 7 to 10 and the end of the VALID recount (R63, R76, R228, R324, R410): discovery needs ownership; the newest
map round is loaded, else the previous one with PREV_USED, and an unreadable map is SAFE with cause MAP; the journal is replayed
up to JEND, every record then committed and applied, and a gap or a damaged record is SAFE with cause REPLAY; step 10 goes to
RUN, or as the standby to STANDBY with DRAM cleared, and stays while a power warning holds. -/
def Obligations.KindleLastSteps : Prop := ∀ (s : State) (found : List FoundDie) (train : List Nat) (tprog : List (Nat × Nat)) (endur : Nat)
    (newest previous : Bool) (badRec : Option Nat) (src : SifSrc),
  (atStep s 7 = true → getF s PAIR_STAT_OWN = 1 → ∃ u, exec (.flashDiscovery found train tprog endur) s = .next u ∧
      u = toStep (discover s found train tprog endur) 8 ∧ getF u HELM_KINDLE_STEP = 8)
  ∧ (atStep s 8 = true → s.ck.newest = none → ∃ u, exec (.mapCheckpointLoad newest previous) s = .next u ∧
      getF u HELM_KINDLE_STEP = 9 ∧ u.mem = s.mem)
  ∧ (∀ r, atStep s 8 = true → s.ck.newest = some r → newest = true → ∃ u, exec (.mapCheckpointLoad newest previous) s = .next u ∧
      getF u HELM_KINDLE_STEP = 9 ∧ ∀ a, mget 0 u.mem.dram a = if a < aRing then mget 0 r.image a else mget 0 s.mem.dram a)
  ∧ (∀ r p, atStep s 8 = true → s.ck.newest = some r → newest = false → s.ck.previous = some p → previous = true →
      ∃ u, exec (.mapCheckpointLoad newest previous) s = .next u ∧ getF u HELM_KINDLE_STEP = 9 ∧ getF u MAP_CKPT_PREV_USED = 1 ∧
        ∀ a, mget 0 u.mem.dram a = if a < aRing then mget 0 p.image a else mget 0 s.mem.dram a)
  ∧ (∀ r, atStep s 8 = true → s.ck.newest = some r → newest = false → (s.ck.previous = none ∨ previous = false) →
      exec (.mapCheckpointLoad newest previous) s = .next (safeArise s 3 9998))
  ∧ (atStep s 9 = true → (replayRecs s).2 = false → exec (.journalReplay badRec src) s = .next (safeArise s 4 9998))
  ∧ (∀ j r, atStep s 9 = true → badRec = some j → r ∈ (replayRecs s).1 → r.jseq = j →
      exec (.journalReplay badRec src) s = .next (safeArise s 4 9998))
  ∧ (atStep s 9 = true → (replayRecs s).2 = true → badRec = none → ∃ u, exec (.journalReplay badRec src) s = .next u ∧
      getF u HELM_KINDLE_STEP = 10 ∧ ∀ r ∈ u.map.recs, r.committed = true ∧ r.applied = true)
  ∧ (atStep s 10 = true → getF s HELM_KINDLE_ROLE = 1 → ∃ u, exec .kindleComplete s = .next u ∧ mode u = mStandby ∧
      u.mem.dram = [] ∧ u.mem.valid = [] ∧ u.mem.bad = [] ∧ getF u PAIR_STAT_PSTATE = 2)
  ∧ (atStep s 10 = true → getF s HELM_KINDLE_ROLE = 0 → warned s = true → s.boot.told10 = true → exec .kindleComplete s = .next s)
  ∧ (atStep s 10 = true → getF s HELM_KINDLE_ROLE = 0 → warned s = false → getF s HELM_THERM_HELD = 0 →
      ∃ u, exec .kindleComplete s = .next u ∧ mode u = mRun)
  ∧ (∀ k, (k = 3 ∨ k = 4) → mode s = mKindle → getF s HELM_SAFE_CAUSE_CAUSE = 0 → mode (safeArise s k 9998) = mSafe ∧
      getF (safeArise s k 9998) HELM_SAFE_CAUSE_CAUSE = k)
  ∧ (getF s HELM_MEDSTAT_RECOUNT = 1 → ∃ u, exec .validRecountDone s = .next u ∧ getF u HELM_MEDSTAT_RECOUNT = 0 ∧
      u = setF (recount s) HELM_MEDSTAT_RECOUNT 0)

/-- Power warnings (R104, R405 to R408, R411): VIN below WARN with VEN = 1, PFAIL_N low for 300 ns, a function entering D3hot:
shown in PWR_STAT (the port for D3hot), and in RUN, BANKED and SERVICE answered by QUENCH; VWARN falls at the release level,
PFAIL after 1 ms high. -/
def Obligations.PowerWarnings : Prop := ∀ (s : State) (mv ns p : Nat) (taken hi : Bool) (el : Elapse),
  let live := mode s = mRun ∨ mode s = mBanked ∨ mode s = mService
  (getF s PWR_WARN_VEN = 1 → mv < getF s PWR_WARN_MV → 4200 ≤ mv → live → getF s PWR_STAT_VWARN = 0 → s.x.warn = 0 →
      ∃ u, exec (.vinWarning mv) s = .next u ∧ getF u PWR_STAT_VWARN = 1 ∧ u.x = { s.x with warn := 1 } ∧
        u.pins = { s.pins with vin := mv } ∧ RegsKept [PWR_STAT_VWARN] s u ∧ u = { s with vf := u.vf, x := u.x, pins := u.pins })
  ∧ ((300 ≤ ns ∨ (100 ≤ ns ∧ taken = true)) → live → getF s PWR_STAT_PFAIL = 0 → s.x.warn = 0 →
      ∃ u, exec (.pfailNLow ns taken) s = .next u ∧ getF u PWR_STAT_PFAIL = 1 ∧ u.x = { s.x with warn := 2 } ∧
        u.pins = { s.pins with pfailN := false } ∧ RegsKept [PWR_STAT_PFAIL] s u ∧ u = { s with vf := u.vf, x := u.x, pins := u.pins })
  ∧ (ns < 100 → exec (.pfailNLow ns taken) s = .next s)
  ∧ (p ∈ ports s → (port s p).up = true → (port s p).d3hot = false → live → s.x.warn = 0 → ∃ u, exec (.d3hotEntry ⟨p, false⟩) s = .next u ∧
      port u p = { port s p with d3hot := true } ∧ (∀ q, q ≠ p → port u q = port s q) ∧ u.x = { s.x with warn := 3 } ∧
      u = { s with link := u.link, x := u.x })
  ∧ (p ∈ ports s → (port s p).up = true → (port s p).d3hot = true → ∃ u, exec (.d3hotEntry ⟨p, true⟩) s = .next u ∧
      port u p = { port s p with d3hot := false } ∧ (∀ q, q ≠ p → port u q = port s q) ∧ u = { s with link := u.link })
  ∧ (mode s ≠ mOff → getF s PWR_WARN_MV + 10 * getF s PWR_WARN_HYST ≤ mv → hi = true → 1000000 ≤ el.ns →
      ∃ u, exec (.powerWarningRelease mv hi el) s = .next u ∧ getF u PWR_STAT_VWARN = 0 ∧ getF u PWR_STAT_PFAIL = 0 ∧
        u.pins = { s.pins with vin := mv, pfailN := true } ∧ RegsKept [PWR_STAT_VWARN, PWR_STAT_PFAIL] (elapse s el) u)

/-- QUENCH (R60, R79, R411, R415, R418, R419): a warning in RUN, BANKED or SERVICE enters it with PWR_LASTQ cleared and the
count grown; each step that has done its work gives way to the next; step 4 marks it done; it returns to the mode it left, or
goes to SAFE with a held cause; records whose acknowledgement stays out 1 ms commit alone. -/
def Obligations.QuenchSteps : Prop := ∀ (s : State) (el : Elapse),
  let v := elapse s el
  (s.x.quench = none → s.x.warn ≠ 0 → (mode s = mRun ∨ mode s = mBanked ∨ mode s = mService) → ∃ u, exec (.quench el) s = .next u ∧
      mode u = mQuench ∧ u.x.quench = some ⟨mode s, 1, v.clk.refNs⟩ ∧ getF u PWR_STAT_QACTIVE = 1 ∧ getF u PWR_STAT_QSTEP = 1 ∧
      getF u PWR_LASTQ_DONE = 0 ∧ getF u PWR_LASTQ_CAUSE = s.x.warn % 2 ^ PWR_LASTQ_CAUSE.w ∧ u.keep.qOpen = true ∧
      u.x.warn = 0 ∧ u.x.change = none)
  ∧ (s.x.quench = none → s.x.warn = 0 → exec (.quench el) s = .next v)
  ∧ (∀ q, s.x.quench = some q → q.step < 4 → quenchStepDone v q = true → ∃ u, exec (.quench el) s = .next u ∧
      u.x.quench = some { q with step := q.step + 1 } ∧ getF u PWR_STAT_QSTEP = (q.step + 1) % 2 ^ PWR_STAT_QSTEP.w ∧
      getF u PWR_LASTQ_STEP = q.step % 2 ^ PWR_LASTQ_STEP.w ∧ RegsKept [PWR_STAT_QSTEP, PWR_LASTQ_STEP] v u)
  ∧ (∀ q, s.x.quench = some q → q.step = 4 → quenchStepDone v q = true → ∃ u, exec (.quench el) s = .next u ∧
      u.x.quench = some { q with step := 5 } ∧ getF u PWR_STAT_QDONE = 1 ∧ getF u PWR_LASTQ_DONE = 1 ∧
      getF u PWR_LASTQ_STEP = 4 ∧ u.keep = { v.keep with qOpen := false } ∧ u.ret.now = v.clk.now)
  ∧ (∀ q, s.x.quench = some q → q.step ≤ 4 → quenchStepDone v q = false → exec (.quench el) s = .next v)
  ∧ (∀ q, s.x.quench = some q → q.step = 5 → warned s = false →
      (getF s PWR_WARN_VEN = 1 → getF s PWR_WARN_MV + 10 * getF s PWR_WARN_HYST ≤ s.pins.vin) → s.x.heldCause = [] →
      getF s HELM_THERM_HELD = 0 → (q.frm = mRun ∨ q.frm = mBanked ∨ q.frm = mService) → ∃ u, exec .quenchReturn s = .next u ∧
      mode u = q.frm ∧ u.x.quench = none ∧ u.x.warn = 0 ∧ getF u PWR_STAT_QACTIVE = 0 ∧ getF u PWR_LASTQ_RETURNED = 1 ∧
      getF u HELM_RESET_CAUSE_BROWNOUT = 1 ∧ u.rsm.saved = none)
  ∧ (∀ q, s.x.quench = some q → q.step = 5 → s.x.heldCause ≠ [] → ∃ u, exec .quenchToSafe s = .next u ∧ mode u = mSafe ∧
      u.x.quench = none ∧ u.x.heldCause = [] ∧ getF u PWR_STAT_QACTIVE = 0 ∧ getF u HELM_SAFE_CAUSE_HELD = 0)
  ∧ (mode s = mQuench → (∃ r ∈ s.map.recs, r.committed = false ∧ r.jseq ∈ s.map.acks ∧ mget 0 s.map.sentAt r.jseq + 1000000 ≤ v.clk.refNs) →
      ∃ u, exec (.quenchPeerAckTimeout el) s = .next u ∧ getF u PWR_LASTQ_PEERLOST = 1 ∧ getF u PAIR_STAT_PSTATE = 1 ∧
        ∀ j ∈ s.map.acks, j ≤ s.map.jseq → j ∉ u.map.acks)

/-- The samples (R335, R409, R421, R523 to R525): HOLD_MV and its flag, VIN_MV and its minimum, CLRMIN, Tj with HOT and its
hysteresis, the extremes of each sensor, the life counters. -/
def Obligations.Samples : Prop := ∀ (s : State) (mv : Nat) (t : List Int) (tc : Int) (el : Elapse),
  let v := elapse s el
  (mode s ≠ mOff → getF s PWR_HCFG_EN = 1 → s.x.holdMs ≠ v.clk.refNs / 1000000 → ∃ u, exec (.holdSample mv el) s = .next u ∧
      getF u PWR_HOLD_HOLD_MV = min 65535 (mv * getF s PWR_HCFG_DIV / 16) % 2 ^ PWR_HOLD_HOLD_MV.w ∧
      (min 65535 (mv * getF s PWR_HCFG_DIV / 16) < getF s PWR_HCFG_VMIN → getF u PWR_STAT_HOLD_LOW = 1) ∧
      (getF s PWR_HCFG_VMIN < min 65535 (mv * getF s PWR_HCFG_DIV / 16) → getF u PWR_STAT_HOLD_LOW = 0) ∧
      RegsKept [PWR_HOLD_HOLD_MV, PWR_STAT_HOLD_LOW] v u)
  ∧ (mode s ≠ mOff → s.x.vinMs ≠ v.clk.refNs / 1000000 → ∃ u, exec (.vinSample mv el) s = .next u ∧
      getF u PWR_VIN_VIN_MV = min mv 65535 % 2 ^ PWR_VIN_VIN_MV.w ∧
      getF u PWR_VIN_MIN_MV = (if min mv 65535 < getF s PWR_VIN_MIN_MV then min mv 65535 % 2 ^ PWR_VIN_MIN_MV.w else getF s PWR_VIN_MIN_MV) ∧
      RegsKept [PWR_VIN_VIN_MV, PWR_VIN_MIN_MV] v u ∧ u.pins = { s.pins with vin := mv })
  ∧ (regOk s 12 = true → ∃ u, exec .clrmin s = .next u ∧ getF u PWR_VIN_MIN_MV = 0xFFFF % 2 ^ PWR_VIN_MIN_MV.w ∧
      RegsKept [PWR_VIN_MIN_MV] s u)
  ∧ (mode s ≠ mOff → s.boot.image = true → s.x.tempMs ≠ v.clk.refNs / 1000000 → tjOf t < 115 → ∃ u,
      exec (.thermalCompare t el) s = .next u ∧ u.x.tj = some (tjOf t) ∧ getF u HELM_THERM_TJ = tjBits (tjOf t) % 2 ^ HELM_THERM_TJ.w ∧
      ((getF s HELM_THERM_WARN_C : Int) ≤ tjOf t → getF u HELM_THERM_HOT = 1) ∧
      (tjOf t ≤ (getF s HELM_THERM_WARN_C : Int) - 5 → getF u HELM_THERM_HOT = 0) ∧
      RegsKept [HELM_THERM_TJ, HELM_THERM_HOT, HELM_THERM_WARNED] v u)
  ∧ (mode s ≠ mOff → s.boot.image = true → s.x.tempMs ≠ v.clk.refNs / 1000000 → 115 ≤ tjOf t → s.x.tj = none →
      mode s = mStandby → ∃ u, exec (.thermalCompare t el) s = .next u ∧ mode u = mSafe)
  ∧ (mode s ≠ mOff → s.x.tsec ≠ v.clk.refNs / 1000000000 → t.length = 8 → ∃ u, exec (.temperatureSample t el) s = .next u ∧
      u.x.tsec = v.clk.refNs / 1000000000 ∧ u.keep.tlo.length = 8 ∧ u.keep.thi.length = 8 ∧
      (∀ i, i < 8 → ∃ x, u.keep.tlo.find? (fun e => e.1 = i) = some (i, x) ∧ x ≤ t.getD i 0) ∧
      (∀ i, i < 8 → ∃ x, u.keep.thi.find? (fun e => e.1 = i) = some (i, x) ∧ t.getD i 0 ≤ x) ∧ u.vf = v.vf)
  ∧ (mode s ≠ mOff → ∃ u, exec (.lifeHourCount tc) s = .next u ∧ RegsKept [HELM_LIFE_EQH, HELM_LIFE_HOTH] s u ∧
      u.keep = { s.keep with lifeTenths := (s.keep.lifeTenths + lifeWeight tc) % 10 } ∧
      getF u HELM_LIFE_EQH = min (getF s HELM_LIFE_EQH + (s.keep.lifeTenths + lifeWeight tc) / 10) (2 ^ HELM_LIFE_EQH.w - 1) % 2 ^ HELM_LIFE_EQH.w)

/-- SAFE and the voting helm (R61, R77, R78, R80, R422, R423): a physical cause records itself and, outside the modes that hold
it, SAFE is entered: at once where nothing is to be flushed or no data moved, else once the flush is done or has failed; one
disagreeing helm core is masked, a second disagreement is cause HELM_VOTE. -/
def Obligations.SafeAndVote : Prop := ∀ (s : State) (cause core : Nat) (fails : Bool),
  (s.x.safing = none → cause = 8 → getF s HELM_SAFE_CAUSE_CAUSE = 0 → mode s = mRun → ∃ u, exec (.safeEntry cause fails) s = .next u ∧
      mode u = mSafe ∧ getF u HELM_SAFE_CAUSE_CAUSE = 8 ∧ getF u HELM_MODE_PREV = mRun ∧ u.x.safing = none ∧ u.x.change = none)
  ∧ (s.x.safing = none → cause = 6 → getF s HELM_SAFE_CAUSE_CAUSE = 0 → mode s = mRun → ∃ u, exec (.safeEntry cause fails) s = .next u ∧
      mode u = mRun ∧ getF u HELM_SAFE_CAUSE_CAUSE = 6 ∧ getF u HELM_MODE_CHANGING = 1 ∧ u.x.safing = some (6, 9998) ∧ u.d.closed = true)
  ∧ (∀ c src, s.x.safing = some (c, src) → cause ≠ 6 → cause ≠ 8 → (mode s = mRun ∨ mode s = mService) →
      (fails = true ∨ (wbOwed s = false ∧ flushing s = false ∧ tailOwed s = false)) → ∃ u, exec (.safeEntry cause fails) s = .next u ∧ mode u = mSafe ∧ u.x.safing = none ∧ getF u HELM_MODE_CHANGING = 0)
  ∧ (∀ c src, s.x.safing = some (c, src) → cause ≠ 6 → cause ≠ 8 → fails = false →
      (wbOwed s = true ∨ flushing s = true ∨ tailOwed s = true) →
      exec (.safeEntry cause fails) s = .next s)
  ∧ (mode s ≠ mOff → s.boot.image = true → core < 3 → getF s HELM_VOTE_MASKED = 0 → ∃ u, exec (.helmDisagreement core) s = .next u ∧
      getF u HELM_VOTE_MASKED = 2 ^ core ∧ getF u HELM_VOTE_LASTCORE = core ∧
      RegsKept [HELM_VOTE_EVENTS, HELM_VOTE_MASKED, HELM_VOTE_LASTCORE] s u)
  ∧ (mode s = mStandby → s.boot.image = true → core < 3 → getF s HELM_VOTE_MASKED ≠ 0 → bit (getF s HELM_VOTE_MASKED) core = false →
      getF s HELM_SAFE_CAUSE_CAUSE = 0 → ∃ u, exec (.helmDisagreement core) s = .next u ∧ mode u = mSafe ∧
      getF u HELM_SAFE_CAUSE_CAUSE = 1 ∧ getF u HELM_VOTE_MASKED = 0)

/-- The checks of a data command and HEALTH_READ (R116, R120, R131, R144, R288, R393, R396): in any mode but RUN NOT_PERMITTED
0x02, with an invalid field INVALID_FIELD and its offset, both without an effect but the end; with its checks passed and its
charge (one command, its bytes, and of each block read the nominal time of a page read) beyond the tenant's budget the thread
parks with reason QUOTA; once its records have committed it ends with the status it waits with; without such a command in the
context nothing happens. -/
def Obligations.DataChecks : Prop := ∀ (s : State) (c : Nat) (x : DataIn) (el : Elapse) (i : Instr) (o : Nat),
  (i, o) ∈ [(Instr.read c x, 1), (.write c x, 2), (.writeZeroes c el, 3), (.trim c el, 4), (.verify c x, 6), (.compare c x, 7),
    (.compareAndWrite c x, 8), (.copy c x, 9), (.healthRead c x, 0x0A)] →
  let a := if o = 3 ∨ o = 4 then elapse s el else s
  let v := { setTh (tick a) c (dispatched a c) with strides := a.strides.filter fun e => e.1 / 8 != c }
  let n := bNblk (cx s c).block + 1
  let q := if o = 1 ∨ (6 ≤ o ∧ o ≤ 9) then eNom a 0x10 * n else 0
  let ready := isHost c = true ∧ anvilMode s = true ∧ opcOf s c = o
  let ends (u : State) (e : Ending) := (th u c).st = .done ∧ (th u c).ending = some e ∧
    (s.buf.reqs = [] → (∀ y ∈ s.map.ovl, y.1 ≠ 2 ^ 64 + c) → u.mem = s.mem ∧ u.sent = s.sent)
  (¬ ready → exec i s = .next a)
  ∧ (ready → (th s c).st = .armed → mode s ≠ mRun → ∃ u, exec i s = .next u ∧ ends u ⟨0x13, 2, none, 0⟩)
  ∧ (∀ d, ready → (th s c).st = .armed → mode s = mRun → (cx s c).late = false → fieldFault (cx s c).block = some d →
      ∃ u, exec i s = .next u ∧ ends u ⟨0x11, d, none, 0⟩)
  ∧ (ready → (th s c).st = .armed → dataFault v c = none → [2, 8, 9].contains o = false → chargeFits v c 1 (4096 * n) q = false →
      ∃ u, exec i s = .next u ∧ (th u c).st = .parked ∧ (th u c).why = .quota ∧ (th u c).cont = .charged ∧
        u.d.ten.parked = s.d.ten.parked ++ [(c, 1, 4096 * n, q)] ∧ ThreadsKept c s u ∧ u.mem = s.mem ∧ u.sent = s.sent)
  ∧ (∀ st res, ready → (th s c).st = .waiting → (th s c).cont = .ending st res → (th s c).why = .dma → openTag (th s c) = none →
      openXfer (th s c) = none → recsOut s c = false → ∃ u, exec i s = .next u ∧ u = endData a c (endingOf st res) ∧ (th u c).st = .done)

/-- READ, VERIFY, COMPARE and HEALTH_READ (R119, R131, R132, R144, R258, R388, R402): block after block in order; all good ends
OK with every block delivered, checked or equal; the first that fails ends the command with its status and OFFSET, the blocks
before it done; blocks that lie in flash are read through a P0 buffer, and without one the thread parks with reason BUFFER;
while a block must wait for a commit, a stripe or a die the command stays. -/
def Obligations.DataReads : Prop := ∀ (s : State) (c : Nat) (x : DataIn),
  let b := (cx s c).block
  let n := bNblk b + 1
  let l := sysBase s (bVol b) (bSlba b)
  let goes (o : Nat) := isHost c = true ∧ anvilMode s = true ∧ opcOf s c = o ∧ (th s c).st = .ready ∧ (th s c).charged = true ∧
    (∀ st res, (th s c).cont ≠ .ending st res)
  let put (m : State) (k : Nat) (d p : List Byte) :=
    let m := send m (.hostWrite (cx m c).port (pasidOf m c) (bDaddr b + 4096 * k) d)
    if bPix b then send m (.hostWrite (cx m c).port (pasidOf m c) (bMaddr b + 16 * k) p) else m
  let block (here : Bool) (k : Nat) (a : State) (d p : List Byte) (kd : Nat) (m : State) :=
    readBlock a c k (l + k) (bSlba b + k) here x = (.ok kd d p false, m)
  let sends (a a' : State) (k : Nat) := ∃ d p kd m, block false k a d p kd m ∧ (cx m c).block = b ∧
    (kd = 0 ∨ blockCheck b (bGuard b) d p k = none) ∧ struck m c k x true = none ∧ a' = put m k d p
  let starts (w : State) := (flashPages s l n = [] ∧ w = s) ∨
    (flashPages s l n ≠ [] ∧ ∃ v, draw s c 0 1 false = (true, v) ∧ w = suspendFor v (flashPages s l n))
  let ended (o : Nat) (w u : State) (e : Ending) := u = endData w c e ∧
    ((th w c).st ≠ .faulted → opcOf w c = o → e.cls ≠ 0x50 → (th u c).st = .done ∧ (th u c).ending = some e)
  (∀ st : Nat → State, goes 1 → readable s c l n x = true → starts (st 0) → (∀ k, k < n → sends (st k) (st (k + 1)) k) →
      ∃ u, exec (.read c x) s = .next u ∧ ended 1 (st n) u ⟨0, 0, none, 0⟩)
  ∧ (∀ (st : Nat → State) (k cls det res : Nat) (m : State), goes 1 → readable s c l n x = true → starts (st 0) → k < n →
      (∀ j, j < k → sends (st j) (st (j + 1)) j) → readBlock (st k) c k (l + k) (bSlba b + k) false x = (.bad cls det res, m) →
      ∃ u, exec (.read c x) s = .next u ∧ ended 1 m u ⟨cls, det, if cls = 0x41 then none else some k, res⟩)
  ∧ (goes 1 → readable s c l n x = false → exec (.read c x) s = .next s)
  ∧ (∀ v, goes 1 → readable s c l n x = true → flashPages s l n ≠ [] → draw s c 0 1 false = (false, v) →
      ∃ u, exec (.read c x) s = .next u ∧ (th u c).st = .parked ∧ (th u c).why = .buffer ∧ u.buf.reqs = v.buf.reqs ++ [⟨c, 0, false, false⟩])
  ∧ (∀ st : Nat → State, goes 6 → readable s c l n x = true → starts (st 0) → (∀ k, k < n → ∃ d p kd, block true k (st k) d p kd (st (k + 1))) →
      ∃ u, exec (.verify c x) s = .next u ∧ ended 6 (st n) u ⟨0, 0, none, 0⟩)
  ∧ (∀ st : Nat → State, goes 7 → readable s c l n x = true → starts (st 0) →
      (∀ k, k < n → ∃ p kd, block true k (st k) (hostData x k) p kd (st (k + 1)) ∧
        (bPix b = true → p = hostPi x k) ∧ struck (st (k + 1)) c k x false = none) →
      ∃ u, exec (.compare c x) s = .next u ∧ ended 7 (st n) u ⟨0, 0, none, 0⟩)
  ∧ (∀ (st : Nat → State), goes 0x0A → st 0 = s → (∀ k, k < n → struck (st k) c k x true = none ∧ st (k + 1) =
        send (st k) (.hostWrite (cx (st k) c).port (pasidOf (st k) c) (bDaddr b + 4096 * k)
          (healthPage s (bindOf s c).tenant (c == adminCtx s) (bits (bArg b) 0 8 + k)))) →
      ∃ u, exec (.healthRead c x) s = .next u ∧ ended 0x0A (stamped (st n) srcHealth) u ⟨0, 0, none, 0⟩)
  ∧ (∀ e : Ending, e.cls ≠ 0x50 → opcOf s c ∈ [1, 6, 7, 0x0A] → (th s c).why ≠ .lock → (th s c).st ≠ .faulted → let u := endData s c e
      (th u c).st = .done ∧ (th u c).ending = some e ∧ (th u c).locks = [] ∧ (th u c).slots = [] ∧
      (s.buf.reqs = [] → (∀ y ∈ s.map.ovl, y.1 ≠ 2 ^ 64 + c) → u.mem = s.mem ∧ u.sent = s.sent))

/-- WRITE, WRITE_ZEROES, TRIM, COMPARE_AND_WRITE and COPY (R119, R121, R122, R124, R125, R134, R192, R211, R217, R220, R263): a
command inside one unit places that unit, its blocks taken from host memory, zero, unmapped or read from the source; placed, it
ends OK with its unit in RESULT, or waits with reason DMA while its record is not committed; behind another thread's lock it
parks with reason LOCK, without write-buffer space with reason BUFFER, without overlay or tail space it waits with reason DMA; a
failed block or cipher ends it with its own status. COMPARE_AND_WRITE writes nothing after a difference, and COPY reads every
block of its source before it writes one. -/
def Obligations.DataWrites : Prop := ∀ (s : State) (c : Nat) (x : DataIn) (el : Elapse),
  let b := (cx s c).block
  let n := bNblk b + 1
  let off := (partOf s c).1
  let l := sysBase s (bVol b) (bSlba b)
  let goes (o : Nat) := isHost c = true ∧ anvilMode s = true ∧ opcOf s c = o ∧ (th s c).st = .ready ∧ (th s c).charged = true ∧
    (∀ st res, (th s c).cont ≠ .ending st res)
  let one := off / 256 = (off + n - 1) / 256
  let same (a : State) := (cx a c).block = b ∧ partOf a c = partOf s c ∧ sysBase a (bVol b) (bSlba b) = l ∧ (th a c).unitAt = 0
  let puts := fun k => (Put.data (hostData x k) (if bPix b then hostPi x k else piBytes (crc64 (hostData x k)) (blkField b 20 2) (bTag b k)))
  let fine := ∀ k, k < n → struck s c k x false = none ∧ (bPix b = false ∨ blockCheck b (bGuard b) (hostData x k) (hostPi x k) k = none)
  -- what becomes of a command whose one unit is placed in state a, and whose end is e
  let unitEnds (i : Instr) (a : State) (fl : List CipherFlaw) (ps : List Put) (e : Ending) : Prop :=
    let p := placeUnit a c (off / 256) 0 l true fl ps
    (∀ v, p = (.placed, v) → (th v c).st ≠ .faulted → (th v c).why ≠ .lock → opcOf v c ∈ [2, 3, 4, 8, 9] → (∀ r ∈ v.buf.reqs, r.t ≠ c) →
        recsOut v c = false → ∃ u, exec i s = .next u ∧ (th u c).st = .done ∧ (th u c).locks = [] ∧
          (th u c).ending = some { e with result := (th v c).units % 2 ^ 64 })
    ∧ (∀ v, p = (.placed, v) → (th v c).st ≠ .faulted → (∀ r ∈ v.buf.reqs, r.t ≠ c) → recsOut v c = true →
        ∃ u, exec i s = .next u ∧ (th u c).st = .waiting ∧ (th u c).why = .dma ∧
          (th u c).cont = .ending (svWord e.cls e.detail e.offset).toNat e.result)
    ∧ (∀ v j, p = (.busy j, v) → ∃ u, exec i s = .next u ∧ (th u c).st = .parked ∧ (th u c).why = .lock ∧ (th u c).arg = j)
    ∧ (∀ v ovl, p = (.hold ovl, v) → (th v c).st ≠ .waiting → ∃ u, exec i s = .next u ∧ (th u c).st = .waiting ∧ (th u c).why = .dma)
  -- the same where the unit may hold data, which takes write-buffer buffers and the cipher
  let dataEnds (i : Instr) (a : State) (fl : List CipherFlaw) (ps : List Put) (e : Ending) : Prop :=
    let p := placeUnit a c (off / 256) 0 l true fl ps
    unitEnds i a fl ps e
    ∧ (∀ v pool, p = (.park pool, v) → ∃ u, exec i s = .next u ∧ (th u c).st = .parked ∧ (th u c).why = .buffer ∧
        u.buf.reqs = v.buf.reqs ++ [⟨c, pool, true, false⟩])
    ∧ (∀ v f, p = (.stop f, v) → (th v c).st ≠ .faulted → (∀ r ∈ v.buf.reqs, r.t ≠ c) → recsOut v c = false →
        ∃ u, exec i s = .next u ∧ (th u c).st = .done ∧ (th u c).ending.map (·.cls) = some f.cls)
  -- and of one that writes blocks it has read
  let writes (i : Instr) (a : State) (ps : List Put) (e : Ending) : Prop :=
    let v := modTh a c fun y => { y with work := some ⟨ps, e⟩ }
    one → same v → ps.length = n → dataEnds i v x.flaws ps e
  let bs := billetsOf s l n
  let src := sysBase s (bAux b) (bArg b)
  let starts (a : State) (k : Nat) (w : State) := (flashPages a k n = [] ∧ w = a) ∨
    (flashPages a k n ≠ [] ∧ ∃ v, draw a c 0 1 false = (true, v) ∧ w = suspendFor v (flashPages a k n))
  (goes 2 → one → same s → fine → dataEnds (.write c x) s x.flaws ((List.range n).map puts) ⟨0, 0, none, 0⟩)
  ∧ (goes 3 → one → same (elapse s el) → unitEnds (.writeZeroes c el) (elapse s el) [] (List.replicate n .zero) ⟨0, 0, none, 0⟩)
  ∧ (goes 4 → one → same (elapse s el) → unitEnds (.trim c el) (elapse s el) [] (List.replicate n .unmap) ⟨0, 0, none, 0⟩)
  ∧ (goes 8 → (th s c).work = none → bs.any (lockBusy s c) = false → readable s c l n x = true →
      ∀ w, starts (lockAll s c bs) l w →
      let r := compareBlocks w c x
      (∀ e, r.bad = some e → ∃ u, exec (.compareAndWrite c x) s = .next u ∧ u = endData (freeRead r.s c) c e)
      ∧ (∀ ps a, r.bad = none → hostPuts (freeRead r.s c) c x n = (.inr ps, a) → writes (.compareAndWrite c x) a ps (r.okEnd 0)))
  ∧ (goes 9 → (th s c).work = none → readable s c src n x = true → ∀ w, starts s src w →
      let r := copyBlocks w c x
      (∀ e, r.1.bad = some e → ∃ u, exec (.copy c x) s = .next u ∧ u = endData (freeRead r.1.s c) c e)
      ∧ (r.1.bad = none → writes (.copy c x) (freeRead r.1.s c) r.2 (r.1.okEnd 0)))
  ∧ (∀ (st : Nat → State) (ps : List Put), st 0 = s → ps.length = n →
      (∀ k, k < n → ∃ d p kd, readBlock (st k) c k (src + k) (bArg b + k) true x = (.ok kd d p false, st (k + 1)) ∧
        ps[k]? = some (if kd = 0 then .unmap else if kd = 1 then .zero else .data d p)) →
      copyBlocks s c x = (⟨st n, none, 0, 0⟩, ps))
  ∧ (∀ ps v, (∀ p ∈ ps, Put.isData p = false) → (billetsOf s l ps.length).any (lockBusy s c) = false → genReady s = true →
      let es := fun g => unitEnts s l g false [] ps
      commitErrs s (es 0) = (false, v) → overlayRoom v c ((es 0).map (entOf v)) = true →
      ringRoom v (64 + 24 * (es 0).length) = true →
      let w := takeGen (lockAll v c (billetsOf s l ps.length))
      let m := (commitEnts w.2 c (off / 256) true ((es w.1).map (entOf w.2))).2.2
      placeUnit s c (off / 256) 0 l true [] ps = (.placed, if recsOut m c || (th m c).work.isSome then m else dropLocks m c))

/-- The checks every admin command shares (R128 to R131): a request of another opcode is left alone, one in a mode that does not
execute its opcode is answered NOT_PERMITTED 0x04, one that would change frozen configuration NOT_PERMITTED 0x08, one with a
misaligned CADDR from a context, all else right, INVALID_FIELD 0x30; nothing but the answer changes. -/
def Obligations.AdminChecks : Prop := ∀ (s : State) (pb : ParamBuf) (i : Instr) (o : Nat) (modes : List Nat) (r : HelmReq),
  (i, o, modes) ∈ [(Instr.volumeCreate, 0x80, [mRun, mService]), (.volumeDelete, 0x81, [mRun, mService]), (.setTime, 0x86, [mRun, mService, mSafe]),
    (.almanacSet pb, 0x87, [mRun, mService]), (.swapRole, 0x89, [mRun]), (.attest pb, 0x8A, [mRun, mService, mSafe]), (.format, 0x8B, [mService]),
    (.settingsWipe, 0x8C, [mService]), (.quotaSet pb, 0x8D, [mRun, mService]), (.logClear, 0x8E, [mRun, mService, mSafe]),
    (.enroll pb, 0x8F, [mService])] → nextReq s = some r →
  (o = 0x80 ∨ o = 0x81 → helmRoom s = true) →
  let v := beginReq s r.src
  (reqOpc r ≠ o → exec i s = .next s)
  ∧ (reqOpc r = o → s.boot.image = true → mode s ≠ mOff → inMode s modes = false →
      ∃ u, exec i s = .next u ∧ u = answerHelm v r.src ⟨0x13, 4, none, 0⟩ [])
  ∧ (reqOpc r = o → s.boot.image = true → mode s ≠ mOff → inMode s modes = true → flag s CAS_STAT_FROZEN = true →
      [0x80, 0x81, 0x87, 0x8D].contains o = true → exec i s = .next (answerHelm v r.src ⟨0x13, 8, none, 0⟩ []))
  ∧ (asked s r o modes → r.src ≠ 9999 → blkField r.block 48 8 % 16 ≠ 0 → [0x86, 0x89, 0x8C, 0x8E].contains o = true →
      exec i s = .next (answerHelm v r.src ⟨0x11, 0x30, none, 0⟩ []))
  ∧ (∀ d need, (o, need) ∈ [(0x87, 32), (0x8A, 17824), (0x8D, 64), (0x8F, 24576)] → asked s r o modes →
      fieldCheck r true true (some need) = none → bufFail s r pb = some d →
      exec i s = .next (answerHelm (stopPages v r.src d) r.src ⟨0x50, d, some 0, 0⟩ []))
  ∧ (∀ e out u, u = answerHelm v r.src e out → ∃ l, u = { s with d := { s.d with helm := l } })

/-- Volumes and bindings (R114, R130, R231, R232): VOLUME_CREATE takes the lowest free range and answers its base LBN, or
NO_SPACE 0x02; an existing number is INVALID_FIELD 0x08, a size out of range 0x38. VOLUME_DELETE and FORMAT begin a range's
removal, NOT_PERMITTED 0x05 for a volume in it already; once drained the range lock and the RANGE record come, then the end.
CONTEXT_BIND writes or clears a binding, or NOT_PERMITTED 0x09 for a context in use. -/
def Obligations.VolumesAndBindings : Prop := ∀ (s : State) (r : HelmReq) (pb : ParamBuf),
  let v := beginReq s r.src
  let no (cls d : Nat) := answerHelm v r.src ⟨cls, d, none, 0⟩ []
  let n := bits (ARG0 r) 0 13
  let ten := bits (ARG0 r) 16 10
  let c := bits (ARG0 r) 0 12
  let vols := (List.range 8192).filter fun v => bit ((reqBuf r pb).getD (v / 8) 0).toNat (v % 8)
  let b : Bind := ⟨true, ten, bit (ARG1 r) 20, bits (ARG1 r) 0 20, vols⟩
  let fieldsC := fieldCheck r (volState (volEnt s n) = 0) (1 ≤ ARG1 r && ARG1 r ≤ 0xFFFFFFFF) none
  let there := fieldCheck r (volState (volEnt s n) != 0) true none
  (helmRoom s = true → asked s r 0x80 [mRun, mService] → ∀ d, fieldsC = some d → exec .volumeCreate s = .next (no 0x11 d))
  ∧ (volState (volEnt s n) ≠ 0 → fieldsC = some 8)
  ∧ (helmRoom s = true → asked s r 0x80 [mRun, mService] → fieldsC = none → freeBase v (ARG1 r) = none → exec .volumeCreate s = .next (no 0x32 2))
  ∧ (∀ a, helmRoom s = true → asked s r 0x80 [mRun, mService] → fieldsC = none → freeBase v (ARG1 r) = some a →
      ∃ u, exec .volumeCreate s = .next u ∧
        u = answerHelm (putVol v n (mkVol a (ARG1 r) ten 1 s.clk.now) true) r.src ⟨0, 0, none, 256 * a⟩ [] ∧
        ∃ y ∈ u.map.recs, y.typ = .volume ∧ y.jseq = s.map.jseq + 1 ∧ y.a = n ∧ y.b = mkVol a (ARG1 r) ten 1 s.clk.now)
  ∧ (helmRoom s = true → asked s r 0x81 [mRun, mService] → there = none → volState (volEnt s n) = 2 → exec .volumeDelete s = .next (no 0x13 5))
  ∧ (helmRoom s = false → exec .volumeCreate s = .next s ∧ exec .volumeDelete s = .next s)
  ∧ (helmRoom s = true → asked s r 0x81 [mRun, mService] → there = none → volState (volEnt s n) ≠ 2 → ∃ u, exec .volumeDelete s = .next u ∧
      u.x.deleting = s.x.deleting ++ [(n, r.src, false)] ∧
      u = setAux (putVol v n (putBits (volEnt s n) 76 2 2) false) u.x)
  ∧ (asked s r 0x8B [mService] → there = none → volState (volEnt s n) ≠ 2 → exec .format s =
      .next (setAux v { v.x with deleting := v.x.deleting ++ [(n, r.src, true)] }))
  ∧ (asked s r 0x8B [mService] → there = none → volState (volEnt s n) = 2 → exec .format s = .next (no 0x13 5))
  ∧ (∀ m src f l, s.x.deleting = (m, src, f) :: l → s.map.rangeLock = none → volDrained s m = false →
      exec .volumeDeleteDrained s = .next s)
  ∧ (∀ m src f l, s.x.deleting = (m, src, f) :: l → s.map.rangeLock ≠ none → helmPending s = false → helmRoom s = true →
      ∃ u w, exec .volumeDeleteDrained s = .next u ∧ u = answerHelm w src okEnd [] ∧ w.map.rangeLock = none ∧ w.x.deleting = l)
  ∧ (asked s r 0x82 [mRun, mService] → unbind r = false → fieldCheck r true true (some 1024) = none → bufFail s r pb = none →
      (∀ w ∈ vols, volState (volEnt s w) ≠ 0 ∧ volTenant (volEnt s w) = ten) →
      ((th s c).st ≠ .idle → exec (.contextBind pb) s = .next (no 0x13 9))
      ∧ ((th s c).st = .idle → ∃ u, exec (.contextBind pb) s = .next u ∧ bindOf u c = b ∧ (∀ m, m ≠ c → bindOf u m = bindOf s m)))
  ∧ (asked s r 0x82 [mRun, mService] → unbind r = true → fieldCheck r true true none = none →
      ((th s c).st ≠ .idle → exec .contextUnbind s = .next (no 0x13 9))
      ∧ ((th s c).st = .idle → ∃ u, exec .contextUnbind s = .next u ∧ bindOf u c = Bind.none ∧
          (∀ m, m ≠ c → bindOf u m = bindOf s m)))

/-- KEY_LOAD (R130, R376, R379, R380): kinds 1 and 2 in RUN, and kind 0 to a page that holds a version, are NOT_PERMITTED 0x04;
an object of this module, a partner being absent, is applied: LOAD writes its version and makes it the write version, RETIRE
leaves the write version alone, ERASE none; the epoch grows to the object's; a LOAD whose keys do not open, or a buffer that
spells no objects, is INVALID_FIELD 0x80; while a cipher transfer names a version that would go, the command waits. -/
def Obligations.KeyLoads : Prop := ∀ (s : State) (r : HelmReq) (pb : ParamBuf) (o : List Byte) (partner : Nat),
  nextReq s = some r → reqOpc r = 0x83 → s.boot.image = true → s.x.pair.key = none →
  let p := bits (ARG0 r) 0 11
  let v := beginReq s r.src
  let kp := keyPage s p
  -- what holds of each kind, k, and its command, i
  let tells (k : Nat) (i : Instr) : Prop := bits (ARG0 r) 16 2 = k →
    let fields := fieldCheck r (decide (p ≤ 1039)) true (some (if k = 0 then 448 else 64))
    let goes := asked s r 0x83 [mRun, mService] ∧ keyModeBad s r = false ∧ keyBusy s k p = false ∧ fields = none ∧ bufFail s r pb = none
    (keyModeBad s r = true → ∃ u, exec i s = .next u ∧ u = answerHelm v r.src ⟨0x13, 4, none, 0⟩ [])
    ∧ (mode s = mRun → k ≠ 0 → keyModeBad s r = true)
    ∧ (keyModeBad s r = false → keyBusy s k p = true → exec i s = .next s)
    ∧ (goes → keyWalk 1025 (reqBuf r pb) = none → ∃ u, exec i s = .next u ∧ u = answerHelm v r.src ⟨0x11, 0x80, none, 0⟩ [])
    ∧ (goes → keyWalk 1025 (reqBuf r pb) = some [o] → keyUid o = ownUid → mirrors s = false → keyHeadOk k p o = true →
        getF s CIP_EPOCH_EPOCH < keyEpoch o → keyFits s k p = true → ∃ u, exec i s = .next u ∧
          if k = 0 ∧ keyOpen o = none then u = answerHelm v r.src ⟨0x11, 0x80, none, 0⟩ []
          else getF u CIP_EPOCH_EPOCH = keyEpoch o % 2 ^ CIP_EPOCH_EPOCH.w ∧ (∀ m, m ≠ p → keyPage u m = keyPage s m) ∧
            (k = 0 → (keyPage u p).wset = true ∧ (keyPage u p).wver = loadVer kp ∧ (keyPage u p).ver (loadVer kp) = keyOpen o ∧
              (keyPage u p).ver (1 - loadVer kp) = kp.ver (1 - loadVer kp)) ∧
            (k = 1 → kp.wver < 2 → (keyPage u p).ver kp.wver = kp.ver kp.wver ∧ (keyPage u p).ver (1 - kp.wver) = none) ∧
            (k = 2 → (keyPage u p).a = none ∧ (keyPage u p).b = none ∧ (keyPage u p).wset = false))
  tells 0 (.keyLoadLoad pb partner) ∧ tells 1 (.keyLoadRetire pb partner) ∧ tells 2 (.keyLoadErase pb partner)

/-- Requested changes of mode (R62, R73 to R76, R82, R83): SET_POWER RUN wakes the module; SET_POWER BANKED, SET_MODE SERVICE,
SET_MODE RESTART and SETTINGS_WIPE begin to drain; SET_MODE RUN leaves SERVICE; SET_MODE SAFE is cause ADMIN; drained, each
takes effect and is answered: BANKED at once, SERVICE, and a restart's KINDLE once its completion is delivered. -/
def Obligations.ModeRequests : Prop := ∀ (s : State) (r : HelmReq),
  let v := beginReq s r.src
  let no (d : Nat) := answerHelm v r.src ⟨0x13, d, none, 0⟩ []
  let ok := fieldCheck r true true none = none
  let starts (k : Nat) (u : State) := u.x.change = some ⟨k, r.src, 1⟩ ∧ getF u HELM_MODE_CHANGING = 1 ∧ mode u = mode s ∧ u.mem = s.mem
  (asked s r 0x84 [mRun, mBanked] → target r = 3 → ok → ∃ u, exec .setPowerRun s = .next u ∧ u = answerHelm (wake v) r.src okEnd [] ∧
      mode u = mRun ∧ (mode s = mRun → u.vf = s.vf ∧ u.thr = s.thr ∧ u.mem = s.mem))
  ∧ (mode s = mRun → wake v = v)
  ∧ (asked s r 0x84 [mRun] → target r = 4 → ok → changeFree s = true → ∃ u, exec .setPowerBanked s = .next u ∧ starts 2 u ∧ u.d.hold = 1)
  ∧ (asked s r 0x84 [mRun] → target r = 4 → ok → changeFree s = false → exec .setPowerBanked s = .next (no 4))
  ∧ (asked s r 0x85 [mService] → target r = 3 → ok → changeFree s = true → serviceBusy s = false →
      ∃ u, exec .setModeRun s = .next u ∧ u = answerHelm (enterRun v) r.src okEnd [] ∧ mode u = mRun ∧ getF u HELM_MODE_PREV = mService)
  ∧ (asked s r 0x85 [mService] → target r = 3 → ok → changeFree s = true → serviceBusy s = true → exec .setModeRun s = .next (no 0x0A))
  ∧ (asked s r 0x85 [mSafe] → target r = 3 → exec .setModeRun s = .next (no 4))
  ∧ (asked s r 0x85 [mRun] → target r = 5 → ok → changeFree s = true → ∃ u, exec .setModeService s = .next u ∧ starts 1 u)
  ∧ (asked s r 0x85 [mRun, mService] → target r = 7 → ok → s.x.safing = none → ∃ u, exec .setModeSafe s = .next u ∧
      u = safeArise v 9 r.src ∧ u.x.safing = some (9, r.src) ∧ u.x.change = none ∧ mode u = mode s ∧ getF u HELM_MODE_CHANGING = 1 ∧
      u.d.closed = true ∧ (getF s HELM_SAFE_CAUSE_CAUSE = 0 → getF u HELM_SAFE_CAUSE_CAUSE = 9))
  ∧ (asked s r 0x85 [mRun, mService] → target r = 8 → ok → changeFree s = true → ∃ u, exec .setModeRestart s = .next u ∧ starts 3 u)
  ∧ (asked s r 0x85 [mSafe] → target r = 8 → ok → changeFree s = true → ∃ u, exec .setModeRestart s = .next u ∧
      u.x.change = some ⟨3, r.src, 2⟩ ∧ u = answerHelm { v with x := { v.x with change := some ⟨3, r.src, 2⟩ } } r.src okEnd [])
  ∧ (asked s r 0x8C [mService] → ok → changeFree s = true → ∃ u, exec .settingsWipe s = .next u ∧ starts 5 u)
  ∧ (∀ k, s.x.change = some k → k.kind = 2 → mode s = mRun → drained s k.src = false → exec .bankedEntryDone s = .next s)
  ∧ (∀ k, s.x.change = some k → k.kind = 2 → mode s = mRun → drained s k.src = true → strikesWhere s (fun _ => true) = [] →
      ∃ u, exec .bankedEntryDone s = .next u ∧
      mode u = mBanked ∧ u.x.change = none ∧ (∀ n, n < 32 → getF u (CH_STAT_DRV n) = 0))
  ∧ (∀ k, s.x.change = some k → k.kind = 1 → k.step ≠ 2 → mode s = mRun → drained s k.src = true → ∃ u, exec .requestedChangeDrained s = .next u ∧
      mode u = mService ∧ u.x.change = none ∧ getF u HELM_MODE_CHANGING = 0)
  ∧ (∀ k, s.x.change = some k → k.kind = 1 → k.step ≠ 2 → drained s k.src = false → exec .requestedChangeDrained s = .next s)
  ∧ (∀ k, s.x.change = some k → k.kind = 3 → k.step ≠ 2 → (mode s = mRun ∨ mode s = mService) → drained s k.src = true →
      ∃ u, exec .requestedChangeDrained s = .next u ∧
        u = answerHelm { s with x := { s.x with change := some { k with step := 2 } } } k.src okEnd [])
  ∧ (∀ k, s.x.change = some k → k.kind = 3 → k.step = 2 → (mode s = mRun ∨ mode s = mService) → delivered s k.src = true →
      commandsDone s 9998 = true → flushOver s = true → ∃ u, exec .requestedChangeDrained s = .next u ∧
      (mode u = mKindle ∨ mode u = mSafe) ∧ getF u HELM_RESET_CAUSE_RESTART = 1 ∧ u.ck = s.ck ∧ u.md.flash = s.md.flash ∧
      u.thr = [] ∧ u.ctx = [])

/-- The other admin commands once their fields are right (R42, R50, R394, R395, R442, R478, R480, R500): SET_TIME awaits a tick,
slews up to 1 s, or refuses a larger backward step 0x06; ALMANAC_SET writes its entry, or 0x07 where a fixed entry would lose
what it keeps; QUOTA_SET writes the buckets; SWAP_ROLE sets PAIR_SWAPAT where a swap may run; ATTEST returns the report and its
length; LOG_CLEAR empties the log but for its own entry; ENROLL writes the writable owner copy and its sequence number. -/
def Obligations.AdminEffects : Prop := ∀ (s : State) (r : HelmReq) (pb : ParamBuf),
  let v := beginReq s r.src
  let no (cls d : Nat) := answerHelm v r.src ⟨cls, d, none, 0⟩ []
  let ok := fieldCheck r true true none = none
  let t := ARG0 r
  let i := bits (ARG0 r) 0 8
  let n := bits (ARG0 r) 0 10
  let e := almOf (reqBuf r pb)
  let q := quotaOfBuf (reqBuf r pb)
  let o := (reqBuf r pb).take 24576
  (asked s r 0x86 [mRun, mService, mSafe] → ok →
    (getF s CHR_STAT_UNSET = 1 → getF s CHR_STAT_DR = 0 → ∃ u x, exec .setTime s = .next u ∧ u.clk.pend = some x ∧
        x.t = nearest (tickP s) t ∧ x.req = r.src ∧ u.clk.slewRem = 0 ∧ u.d.helm = v.d.helm)
    ∧ (getF s CHR_STAT_UNSET = 0 → t ≤ s.clk.now + 1000000000 → s.clk.now ≤ t + 1000000000 →
        exec .setTime s = .next (answerHelm (slewBy v ((s.clk.now : Int) - t) true) r.src okEnd []))
    ∧ (getF s CHR_STAT_UNSET = 0 → t + 1000000000 < s.clk.now → exec .setTime s = .next (no 0x13 6)))
  ∧ (asked s r 0x87 [mRun, mService] → fieldCheck r true true (some 32) = none → bufFail s r pb = none →
    (¬ (e.kind ≤ 9 ∧ e.period % 1000000 = 0) → exec (.almanacSet pb) s = .next (no 0x11 0x80))
    ∧ (e.kind ≤ 9 → e.period % 1000000 = 0 → i < 4 → fixedOk s i e = false → exec (.almanacSet pb) s = .next (no 0x13 7))
    ∧ (e.kind ≤ 9 → e.period % 1000000 = 0 → (4 ≤ i ∨ fixedOk s i e = true) → ∃ u, exec (.almanacSet pb) s = .next u ∧
        almEntry u i = e ∧ (∀ m, m ≠ i → almEntry u m = almEntry s m) ∧ e.count = 0 ∧ e.fired = false))
  ∧ (asked s r 0x8D [mRun, mService] → fieldCheck r true true (some 64) = none → bufFail s r pb = none →
    (¬ (bucketOk q.b0 = true ∧ bucketOk q.b1 = true ∧ bucketOk q.b2 = true) → exec (.quotaSet pb) s = .next (no 0x11 0x80))
    ∧ (bucketOk q.b0 = true → bucketOk q.b1 = true → bucketOk q.b2 = true → ∃ u, exec (.quotaSet pb) s = .next u ∧
        mget Quota.none u.ret.more.quota n = q ∧ ∀ m, m ≠ n → mget Quota.none u.ret.more.quota m = mget Quota.none s.ret.more.quota m))
  ∧ (asked s r 0x89 [mRun] → ok → eligible s = false → exec .swapRole s = .next (no 0x13 4))
  ∧ (asked s r 0x89 [mRun] → ok → eligible s = true → ∃ u, exec .swapRole s = .next u ∧ RegsKept [PAIR_SWAPAT_AT] s u ∧
      getF u PAIR_SWAPAT_AT = (if ARG1 r = 0 then s.clk.now else ARG1 r) % 2 ^ PAIR_SWAPAT_AT.w)
  ∧ (asked s r 0x8A [mRun, mService, mSafe] → fieldCheck r true true (some 17824) = none → bufFail s r pb = none → ∃ u b, exec (.attest pb) s = .next u ∧
      u = answerHelm (stamped v srcMisc) r.src ⟨0, 0, none, 17824⟩ (b ++ padTo 0 384 (Config.identRsaSign b) ++ padTo 0 16224 (Config.identSlhSign b))
      ∧ b = reportBody v ((reqBuf r pb).take 48) ∧ b.take 4 = leBytes 4 0x52545441)
  ∧ (asked s r 0x8A [mRun, mService, mSafe] → fieldCheck r true true (some 17824) = some 0x82 →
      exec (.attest pb) s = .next (answerHelm v r.src ⟨0x11, 0x82, none, 17824⟩ []))
  ∧ (asked s r 0x8E [mRun, mService, mSafe] → ok → ∃ u, exec .logClear s = .next u ∧ u.keep.log.length = 1 ∧ u.keep.logSeq = 1 ∧ u.trigs = [] ∧
      getF u LOG_STAT_LOST = 0 ∧ getF u LOG_STAT_FULL = 0 ∧
      (s.trigs = [] → ∀ n ∈ u.keep.log, n.trig = 96 ∧ n.detail = [s.keep.log.length, getF s LOG_STAT_LOST]))
  ∧ (asked s r 0x8F [mService] → fieldCheck r true true (some 24576) = none → bufFail s r pb = none → ∃ u, exec (.enroll pb) s = .next u ∧
      if (headCheck [3] (arbOk s (o.take 20480)) (ownerKeys s) (o.take 20480)).isSome = true
          ∨ (bodyCheck (o.take 20480) ((o.drop 20480).take (oBlen (o.take 20480)))).isSome = true then u = no 0x11 0x80
      else u.store = (storeWr (storeErase s (ownerTarget s / 4096) 16) (ownerTarget s) o).store ∧
        getF u IMG_OWNER_OSEQ = oArb o % 2 ^ IMG_OWNER_OSEQ.w ∧ getF u IMG_OWNER_OARB = 0)

/-- SHAPE_CHANGE and the steps of a reshape (R364 to R366): the checks of R365 in order, then the effect of the kind, with LCAP
computed anew; a band is handed over once the old groups have given it up, and once none is left the new groups take over. -/
def Obligations.ShapeChanges : Prop := ∀ (s : State) (r : HelmReq) (pb : ParamBuf),
  let v := beginReq s r.src
  let no (cls d : Nat) := answerHelm v r.src ⟨cls, d, none, 0⟩ []
  let b := reqBuf r pb
  let a0 := bits (ARG0 r) 0 16
  let busy (k : Nat) := s.md.reshape ≠ none ∨ ∃ g ∈ shapeGroups k a0 b, ∃ x, group s g = some x ∧ x.st = .rebuilding
  -- what holds of each kind, k, and its command, i
  let tells (k : Nat) (i : Instr) : Prop := oLe b 0 1 = k → asked s r 0x88 [mRun, mService] → fieldCheck r true true (some (shapeLen b)) = none →
    bufFail s r pb = none →
    (busy k → exec i s = .next (no 0x13 0x0A))
    ∧ (¬ busy k → shapeOk v k a0 b = false → exec i s = .next (no 0x11 0x80))
    ∧ (k = 1 → ¬ busy 1 → shapeOk v 1 a0 b = true → lcapOf (reshapeDbil v b) (getF s MAP_OP_OP) < volumesEnd v →
        exec i s = .next (no 0x32 1))
    ∧ (k = 1 → ¬ busy 1 → shapeOk v 1 a0 b = true → volumesEnd v ≤ lcapOf (reshapeDbil v b) (getF s MAP_OP_OP) →
        ∃ u, exec i s = .next u ∧ u = answerHelm (reshapeStart v b) r.src okEnd [] ∧ u.md.reshape.isSome = true)
    ∧ (k ≠ 1 → ¬ busy k → shapeOk v k a0 b = true → volumesEnd v ≤ lcapOf (dbil (shapeEffect v k a0 b)) (getF s MAP_OP_OP) →
        ∃ u, exec i s = .next u ∧ u = answerHelm (setLcap (shapeEffect v k a0 b)) r.src okEnd [])
  tells 1 (.shapeChangeReshape pb) ∧ tells 2 (.shapeChangeAdmit pb) ∧ tells 3 (.shapeChangeRelease pb) ∧ tells 4 (.shapeChangeFail pb)
  ∧ tells 5 (.shapeChangeReform pb)
  ∧ (∀ d ∈ dieList b, d ∈ (shapeEffect s 2 a0 b).ret.spares ∧ d ∈ (shapeEffect s 3 a0 b).ret.spares)
  ∧ (∀ e x, s.md.reshape = some x → e ∈ x.left → (∀ g ∈ x.olds, bandState s (g * nbe s + e) = 0 ∨ bWithdrawn (bandEnt s (g * nbe s + e)) = true) →
      ∃ u, exec (.reshapeHandover e) s = .next u ∧ u.md.reshape = some { x with left := srem e x.left })
  ∧ (∀ e x, s.md.reshape = some x → e ∉ x.left → exec (.reshapeHandover e) s = .next s)
  ∧ (∀ x, s.md.reshape = some x → x.left = [] → ∃ u, exec .reshapeSwitch s = .next u ∧ u.md.reshape = none ∧
      (∀ g ∈ x.olds, g ∉ u.ret.groups.map Prod.fst) ∧ (∀ y ∈ u.ret.redirs, y.group ∉ x.olds))
  ∧ (∀ x, s.md.reshape = some x → x.left ≠ [] → exec .reshapeSwitch s = .next s)

/-- FLUSH and the helm's answers (R16, R126, R131, R199, R448, R531): a FLUSH outside RUN is NOT_PERMITTED 0x02, with a volume
INVALID_FIELD 0x04, else the helm tracks the blocks the write buffer held at its acceptance and answers with their bytes once
each is on flash; the oldest answer reaches its handler's local store and makes it READY; an admin answer waits for records to
commit. -/
def Obligations.HelmAnswers : Prop := ∀ (s : State) (r : HelmReq) (fail : Nat),
  let v := beginReq s r.src
  let no (cls d : Nat) := answerHelm v r.src ⟨cls, d, none, 0⟩ []
  let fl := nextReq s = some r ∧ reqOpc r = 5 ∧ s.boot.image = true ∧ mode s ≠ mOff
  (fl → mode s ≠ mRun → exec .flush s = .next (no 0x13 2))
  ∧ (fl → mode s = mRun → (cx s r.src).late = false → blkField r.block 4 2 ≠ 0 → exec .flush s = .next (no 0x11 4))
  ∧ (fl → mode s = mRun → (cx s r.src).late = false → blkField r.block 4 2 = 0 → blkField r.block 48 8 % 16 = 0 →
      ∃ u, exec .flush s = .next u ∧ u = { v with x := { v.x with flushes := v.x.flushes ++ [(r.src, (cx s r.src).owed, (cx s r.src).owedN)] } })
  ∧ (∀ i src l n, s.x.flushes[i]? = some (src, l, n) → (∀ o ∈ l, flushed s o = true) → ∃ u, exec (.flushAnswer i) s = .next u ∧
      u = answerHelm { s with x := { s.x with flushes := s.x.flushes.eraseIdx i } } src ⟨0, 0, none, 4096 * n⟩ [])
  ∧ (∀ i src l n o, s.x.flushes[i]? = some (src, l, n) → o ∈ l → flushed s o = false → exec (.flushAnswer i) s = .next s)
  ∧ (∀ e a, (s.d.helm.find? fun r => r.answer.isSome) = some r → r.answer = some e → isHost r.src = true → r.out = [] →
      (th s r.src).cont = .mhelm a → (reqOpc r < 0x80 ∨ (helmPending s = false ∧ s.x.cas.wait = [])) → ∃ u w, exec (.helmCommandAnswer fail) s = .next w ∧
      w = enforceL u r.src ∧ th w r.src = th u r.src ∧ w.d.helm = u.d.helm ∧
      (th u r.src).st = .ready ∧ (th u r.src).cont = .nothing ∧ (th u r.src).ls = wrLe (th s r.src).ls a 16 (recordOf s r.src e) ∧
      ThreadsKept r.src s u ∧ u.d.helm = s.d.helm.erase r)
  ∧ (∀ e, (s.d.helm.find? fun r => r.answer.isSome) = some r → r.answer = some e → 0x80 ≤ reqOpc r → helmPending s = true →
      exec (.helmCommandAnswer fail) s = .next s)

/-- Task registers and aborts (R96, R97, R113, R142): a whole write to an open port is decided at the state word, the first of
closed, unbound, not IDLE refusing it, else latched, numbered and its thread ARMED, a DMWr being answered; a poisoned or partial
one is turned away; an abort takes the first row of R142 that matches. -/
def Obligations.TaskRegisters : Prop := ∀ (s : State) (p c block seq : Nat) (d : Bool),
  let form := if d then WForm.dmwr else .posted
  let w := Instr.taskRegisterWrite p form c block true none
  let open_ := portUp s p = true ∧ flag s (HLV_STAT_CFG_ONLY p) = false ∧ c < 4096
  let out (k : Nat) := if d then Msg.dmwr p c k :: s.sent else s.sent
  let q := seq % 2 ^ 16
  let flying := inFlight s c = true ∧ (cx s c).commit = false ∧ (th s c).withHelm = false
  let fresh := (cx s c).abPend = false ∧ ¬ ((cx s c).abOut = 0x40 ∧ (cx s c).abSeq = q ∧ inFlight s c = false)
  let abort (o det : Nat) := ∃ u, exec (.ctxAbortWrite p c seq) s = .next u ∧
    u = setCx s c { cx s c with abSeq := q, abOut := o, abDetail := det } ∧ (cx u c).abPend = (cx s c).abPend
  let refused (k : Nat) := ∃ u, exec w s = .next u ∧ cx u c = { cx s c with last := k } ∧ ContextsKept c s u ∧ u.thr = s.thr ∧ u.sent = out 1 ∧
    (d = true → getF u (HLV_REFUSED_COUNT p) = min (getF s (HLV_REFUSED_COUNT p) + 1) (2 ^ (HLV_REFUSED_COUNT p).w - 1) % 2 ^ (HLV_REFUSED_COUNT p).w)
  (open_ → s.d.closed = true → refused 3)
  ∧ (open_ → s.d.closed = false → boundOf s c = false → refused 4)
  ∧ (open_ → s.d.closed = false → boundOf s c = true → (th s c).st ≠ .idle → refused 2)
  ∧ (open_ → s.d.closed = false → boundOf s c = true → (th s c).st = .idle → mode s ≠ mBanked → flag s CAS_STAT_MASTER = false →
      ∃ u, exec w s = .next u ∧ (cx u c).block = block % 2 ^ 512 ∧ (cx u c).last = 1 ∧ (cx u c).seq = ((cx s c).seq + 1) % 2 ^ 16 ∧
        (cx u c).tag = bits (block % 2 ^ 512) 16 16 ∧ (cx u c).commit = false ∧ (cx u c).port = p ∧ (bits (block % 2 ^ 512) 0 8 = 5 → (cx u c).owed = (wbBlocks s).map fun e => .frame e.1 e.2) ∧ (th u c).st = .armed ∧
        (th u c).units = 0 ∧ ContextsKept c s u ∧ ThreadsKept c s u ∧ u.sent = out 0)
  ∧ (∀ whole poison, portUp s p = true → c < 4096 → flag s (HLV_STAT_CFG_ONLY p) = true →
      exec (.taskRegisterWrite p form c block whole poison) s = .next (if d then send s (.unsupported p) else s))
  ∧ (∀ poison, open_ → d = false → exec (.taskRegisterWrite p form c block false poison) s = .next (addSat s (HLV_MALFORMED_COUNT p) 1))
  ∧ (∀ poison, open_ → d = true → exec (.taskRegisterWrite p form c block false poison) s = .next (send s (.unsupported p)))
  ∧ (∀ hdr, open_ → exec (.taskRegisterWrite p form c block true (some hdr)) s =
      .next (logEv (if d then send s (.dmwr p c 2) else aerError s p 12 hdr) 0 11 [c]))
  ∧ (open_ → q ≠ (cx s c).seq → abort 0x11 0)
  ∧ (open_ → q = (cx s c).seq → fresh → flying → s.keep.held.any (fun h => h.1 = c) = false → partsOf s c = [] →
      ∃ u, exec (.ctxAbortWrite p c seq) s = .next u ∧ (th u c).st = .done ∧ (th u c).ending = some ⟨0x40, 0, none, 0⟩ ∧
        (cx u c).abOut = 0x40 ∧ (cx u c).abPend = true ∧ ContextsKept c s u)
  ∧ (open_ → q = (cx s c).seq → fresh → ¬ flying → ((th s c).st = .idle ∨ (th s c).st = .done ∨ (th s c).st = .faulted) → abort 0x44 1)
  ∧ (open_ → q = (cx s c).seq → fresh → inFlight s c = true → (cx s c).commit = true → abort 0x44 2)
  ∧ (open_ → q = (cx s c).seq → fresh → inFlight s c = true → (cx s c).commit = false → (th s c).withHelm = true → abort 0x44 3)

/-- Host memory and translation (R86, R101 to R103, R155, R158, R194): a translation that gives access moves a transfer and
enters the port's cache of 8,192, one that gives none stops it under a page request; the response resumes it or ends it
HOST_MEMORY_FAULT 0x01, 0x02 or 0x04 at the frame reached, its timeout after 1 s 0x03 with the index held until the response; a
failed read 0x05 to 0x07, a read unanswered for 50 ms 0x08; an invalidation is completed; with ATS disabled no translation stays
and what was stopped goes on (log 102). -/
def Obligations.HostMemory : Prop := ∀ (s : State) (p i addr len : Nat) (d : DmaPart) (y : Xfer) (el : Elapse) (on meta_ : Bool),
  let v := elapse s el
  let held (a : State) (t n w : Nat) := mget none (port a p).groups i = some (t, n, w) ∧ t ≠ 9999 ∧
    ((xferAt (th a t) n).map fun y => y.page.isSome) = some true
  let waits (a : State) (t : Nat) := (th a t).why = .dma ∨ (th a t).why = .pagereq
  let failed (a : State) (t n det : Nat) (u : State) := (∀ q ∈ a.buf.reqs, q.t ≠ t) → ∀ z, xferAt (th a t) n = some z →
    (¬ waits a t → xferAt (th u t) n = some { z with ended := true, sv := xferFail 0x50 det (z.pos / 4096), page := none }) ∧
    ∀ rd, rd ≠ 0 → waits a t → (th a t).cont = .xwait rd n → xferAt (th u t) n = none ∧ (isHost t = true → (th u t).st = .ready) ∧
      gr u t rd = svWord 0x50 det (some (z.pos / 4096))
  let at_ := min (max y.pos d.upto) (4096 * ctlCount (y.w.getD 2 0))
  let page := (if meta_ then y.w.getD 1 0 + 16 * (at_ / 4096) else y.w.getD 0 0 + at_) / 4096 * 4096
  let ats := hostXfer s d.t d.n = some y ∧ portUp s (dmaPort s d.t) = true ∧ flag s (HLV_STAT_ATS_EN (dmaPort s d.t)) = true
  (∀ t n w, portUp s p = true → i < 512 → held s t n w → (port s p).waiters = [] →
    (∃ u, exec (.pageRequestResponse p i .invalid) s = .next u ∧ failed s t n 1 u ∧ mget none (port u p).groups i = none) ∧
    (∃ u, exec (.pageRequestResponse p i .failure) s = .next u ∧ failed s t n 2 u ∧ mget none (port u p).groups i = none ∧
      (port u p).noPages = true) ∧
    (∃ u, exec (.pageRequestResponse p i (.success .noAccess)) s = .next u ∧ failed s t n 4 u ∧ mget none (port u p).groups i = none))
  ∧ (∀ t n a w, portUp s p = true → i < 512 → held s t n w → (port s p).waiters = [] → isHost t = true → (th s t).why = .pagereq →
      (th s t).arg = a → (∀ x, xferAt (th s t) n = some x → x.page.map Prod.snd = some a) → ∃ u,
      exec (.pageRequestResponse p i (.success (.access len))) s = .next u ∧ (th u t).st = .ready ∧ mget none (port u p).groups i = none ∧
        (let z := min 30 (max 12 len); (pasidOf s t, a / 2 ^ z * 2 ^ z, z) ∈ (port u p).atc) ∧ (port u p).atc.length ≤ 8192 ∧ (∀ m, m ≠ t → isHost m = true → th u m = th s m) ∧ ∀ x, xferAt (th s t) n = some x → xferAt (th u t) n = some { x with page := none })
  ∧ (∀ t n w, mget none (port v p).groups i = some (t, n, w) → v.clk.refNs < w + 1000000000 → exec (.pageRequestTimeout p i el) s = .next v)
  ∧ (∀ t n w, held v t n w → w + 1000000000 ≤ v.clk.refNs → ∃ u, exec (.pageRequestTimeout p i el) s = .next u ∧ failed v t n 3 u ∧
      mget none (port u p).groups i = some (9999, n, w))
  ∧ (∀ ds tag pasid, portUp s p = true → flag s (HLV_STAT_ATS_EN p) = true → (∀ e ∈ ds, dmaPort s e.t ≠ p ∨ hostXfer s e.t e.n = none) →
      ∃ u, exec (.atsInvalidation p tag ⟨pasid, addr, len, ds⟩) s = .next u ∧ u.sent = .invalDone p tag :: s.sent ∧ u.thr = s.thr ∧
        ∀ e, e ∈ (port u p).atc ↔ e ∈ (port s p).atc ∧ ¬ (e.1 = pasid ∧ addr < e.2.1 + 2 ^ e.2.2 ∧ e.2.1 < addr + len))
  ∧ (portUp s p = true → on = false → ∃ u, exec (.atsEnable p on) s = .next u ∧ getF u (HLV_STAT_ATS_EN p) = 0 ∧
      RegsKept [HLV_STAT_ATS_EN p] s u ∧ (port u p).waiters = [] ∧ (port u p).atc = [] ∧
      (∀ j t n w, mget none (port u p).groups j = some (t, n, w) → t = 9999) ∧
      ∀ e ∈ stoppedXfers s p, ∀ x, xferAt (th u e.1) e.2 = some x → x.page = none)
  ∧ (portUp s p = true → on = true → (port s p).waiters = [] → ∃ u, exec (.atsEnable p on) s = .next u ∧ getF u (HLV_STAT_ATS_EN p) = 1 ∧
      (port u p).noPages = false)
  ∧ (ats → (moveDma s d y).1 = true → ∀ x, exec (.translationCompletion d meta_ x) s = .next (moveDma s d y).2)
  ∧ (ats → (moveDma s d y).1 = false → ∃ u, exec (.translationCompletion d meta_ (.access len)) s = .next u ∧ u.thr = (moveDma s d y).2.thr ∧
      u.mem = (moveDma s d y).2.mem ∧
      (let z := min 30 (max 12 len); (if isHost d.t then pasidOf s d.t else 0, page / 2 ^ z * 2 ^ z, z) ∈ (port u (dmaPort s d.t)).atc) ∧
      (port u (dmaPort s d.t)).atc.length ≤ 8192)
  ∧ (ats → (moveDma s d y).1 = false → ∃ u, exec (.translationCompletion d meta_ .noAccess) s = .next u ∧
      u = pageStop (moveDma s d y).2 d.t d.n page)
  ∧ (∀ e k, (e, k) ∈ [(HostErr.ur, 5), (.ca, 6), (.poisoned, 7)] → hostXfer s d.t d.n = some y → y.kind = .xin → (moveDma s d y).1 = false →
      ∃ u, exec (.dmaReadError d e) s = .next u ∧ failed (moveDma s d y).2 d.t d.n k u)
  ∧ (hostXfer v d.t d.n = some y → y.kind = .xin → 50000000 ≤ el.ns → (moveDma v d y).1 = false →
      ∃ u, exec (.dmaCompletionTimeout d el) s = .next u ∧ failed (moveDma v d y).2 d.t d.n 8 u)

/-- The host links (R88, R89, R91, R94, R107): a port that trains shows its rate, width and FLIT mode, and takes configuration
alone at rate 0 or without FLIT; a port that goes down discards the commands short of their commit point ABORTED_FAULT 0x01 and
counts; link errors, poisoned writes and malformed TLPs enter the AER record with the first one's header (its layout and what a
port that is down keeps are the model's, logs 103 and 106); a malformed read returns zero and is counted, or Unsupported Request
with configuration alone. -/
def Obligations.HostLinks : Prop := ∀ (s : State) (p c rate width hdr : Nat) (flit l0p read : Bool),
  let cfg := rate = 0 ∨ flit = false
  (p ∈ ports s → mode s ≠ mOff → (mode s = mKindle → 6 ≤ getF s HELM_KINDLE_STEP) → rate ≤ 3 → width ∈ [1, 2, 4, 8, 16] → (width = 16 → s.boot.split = false) → s.boot.casEn = false →
    ∃ u, exec (.portTrained p rate width flit l0p) s = .next u ∧ (port u p).up = true ∧ (port u p).width = width ∧ (port u p).d3hot = false ∧
      getF u (HLV_STAT_RATE p) = (if cfg then 0 else rate) ∧ getF u (HLV_STAT_WIDTH p) = width ∧ getF u (HLV_STAT_FLIT p) = b2n flit ∧
      getF u (HLV_STAT_CFG_ONLY p) = (if cfg then 1 else 0) ∧ getF u (HLV_STAT_L0P_EN p) = b2n l0p ∧
      RegsKept [HLV_STAT_RATE p, HLV_STAT_WIDTH p, HLV_STAT_FLIT p, HLV_STAT_CFG_ONLY p, HLV_STAT_L0P_EN p] s u)
  ∧ (portUp s p = true → ∃ u, exec (.portDown p) s = .next u ∧ (port u p).up = false ∧ (∀ q, q ≠ p → (port u q).up = (port s q).up) ∧
      getF u (HLV_STAT_RATE p) = 0 ∧ getF u (HLV_STAT_WIDTH p) = 0 ∧ getF u (HLV_STAT_FLIT p) = 0 ∧ bit (port u p).aerUncorr 5 = true ∧
      (∀ f ∈ [HLV_STAT_CFG_ONLY p, HLV_STAT_L0P_EN p, HLV_STAT_ATS_EN p], getF u f = getF s f) ∧
      getF u (HLV_DOWN_COUNT p) = min (getF s (HLV_DOWN_COUNT p) + 1) (2 ^ (HLV_DOWN_COUNT p).w - 1) % 2 ^ (HLV_DOWN_COUNT p).w ∧ u.sent = s.sent)
  ∧ (portUp s p = true → portCmds s p = [c] → (cx s c).commit = false → inFlight s c = true → s.keep.held.any (fun h => h.1 = c) = false →
      ∃ u, exec (.portDown p) s = .next u ∧ (th u c).st = .done ∧ (th u c).ending = some ⟨0x41, 1, none, 0⟩ ∧ (cx u c).portGone = true)
  ∧ (portUp s p = true → ∃ u, exec (.correctableLinkError p) s = .next u ∧ bit (port u p).aerCorr 0 = true ∧
      u = setPort s p { port s p with aerCorr := (port u p).aerCorr })
  ∧ (portOpen s p = true → ∃ u, exec (.poisonedPostedWrite ⟨p, hdr⟩) s = .next u ∧ bit (port u p).aerUncorr 12 = true ∧
      ((port s p).aerUncorr = 0 → (port u p).aerHdr = hdr % 2 ^ 128) ∧ u = logEv (setPort s p (port u p)) 0 11 [])
  ∧ (portUp s p = true → ∃ u, exec (.malformedRequest p ⟨read, some hdr⟩) s = .next u ∧ bit (port u p).aerUncorr 18 = true ∧
      ((port s p).aerUncorr = 0 → (port u p).aerHdr = hdr % 2 ^ 128) ∧ u = setPort s p (port u p))
  ∧ (portUp s p = true → portOpen s p = false → exec (.malformedRequest p ⟨read, none⟩) s =
      .next (if read then send s (.unsupported p) else s))
  ∧ (portOpen s p = true → ∃ u, exec (.malformedRequest p ⟨read, none⟩) s = .next u ∧
      u.sent = (if read then Msg.readData p 0 false :: s.sent else s.sent) ∧ RegsKept [HLV_MALFORMED_COUNT p] s u ∧
      getF u (HLV_MALFORMED_COUNT p) = min (getF s (HLV_MALFORMED_COUNT p) + 1) (2 ^ (HLV_MALFORMED_COUNT p).w - 1) % 2 ^ (HLV_MALFORMED_COUNT p).w)
  ∧ (portUp s p = false → exec (.portDown p) s = .next s ∧ ∀ r, exec (.malformedRequest p r) s = .next s)

/-- Register accesses (R9, R10, R80, R86, R89, R93, R94, R108, R110, R271): a write of 4 or 8 aligned bytes to a register that
answers takes each field as its access says, RO and RC nothing, RW a value that is no reserved encoding, W1C clearing, W1S
raising; a family that does not answer, or an offset with no register, discards it; any other shape is malformed; a read returns
the word, poisoned where the memory behind it fails, and clears the RC fields it touches; with configuration alone it is an
Unsupported Request. -/
def Obligations.RegisterAccess : Prop := ∀ (s : State) (p sp off size v : Nat) (e : MErr) (d : RDef) (n k mask : Nat) (f : FDef),
  let fld : Fld := ⟨off * 64 + f.lo, f.w, f.dflt.val n k, f.ret⟩
  let m := bits mask f.lo f.w
  let x := bits v f.lo f.w &&& m
  let new := (getF s fld - (getF s fld &&& m)) ||| x
  let w := off / 8 * 8
  let sh := 8 * (off % 8)
  let fam := 0x01000000 ≤ off ∧ off < 0x01130000
  let read := Instr.registerReadClear p 0 off size e
  let plain := ¬ (off = 0x010302FC ∨ (off = 0x010302F8 ∧ size = 8))
  (portOpen s p = true → fam → regShape off size = true → regOk s (famOf off) = true → regAt w = some (d, n, k) →
    ∃ u, exec (.registerWrite p false off size v) s = .next u ∧
      u = writeReg s d n k w ((2 ^ (8 * size) - 1) * 2 ^ sh) (v % 2 ^ (8 * size) * 2 ^ sh))
  ∧ (portOpen s p = true → fam → off % 8 = 0 → regOk s (famOf off) = true → regAt off = some (d, n, k) → d.fields = [f] → f.acc = .rw →
    f.lo + f.w ≤ 64 → fieldOk f (bits v f.lo f.w) = true →
    d.base ∉ [0x01010000, 0x01001000, 0x01001030, 0x01040008, 0x01040018, 0x01050000, 0x01050010, 0x010C0020] →
      ∃ u, exec (.registerWrite p false off 8 v) s = .next u ∧ getF u fld = bits v f.lo f.w ∧ RegsKept [fld] s u ∧ u.thr = s.thr ∧ u.mem = s.mem)
  ∧ (portOpen s p = true → fam → regShape off size = true → regOk s (famOf off) = false → exec (.registerWrite p false off size v) s = .next s)
  ∧ (portOpen s p = true → fam → regShape off size = false → size ≤ 512 → exec (.registerWrite p false off size v) s = .next (malformed s p))
  ∧ (portOpen s p = true → size ≤ 512 → off < 0x0800000 → exec (.registerWrite p true off size v) s = .next (malformed s p))
  ∧ (portOpen s p = true → size ≤ 512 → 0x0800000 ≤ off →
      ∃ u, exec (.registerWrite p true off size v) s = .next u ∧ u = spWr s (off - 0x0800000) (leBytes size v) ∧ u.vf = s.vf ∧ u.thr = s.thr)
  ∧ (f.acc = .ro ∨ f.acc = .rc ∨ m = 0 → writeField s d n k off mask v f = s)
  ∧ (f.acc = .rw → m ≠ 0 → fieldOk f new = false → writeField s d n k off mask v f = s)
  ∧ (f.acc = .rw → m ≠ 0 → fieldOk f new = true → d.base ∉ [0x01010000, 0x01001000, 0x01001030, 0x01040008, 0x01050000, 0x01050010, 0x010C0020] →
      getF (writeField s d n k off mask v f) fld = new % 2 ^ f.w ∧ RegsKept [fld] s (writeField s d n k off mask v f))
  ∧ (f.acc = .w1c → m ≠ 0 → d.base ∉ [0x01000008, 0x01050018, 0x01110028, 0x01020008] →
      getF (writeField s d n k off mask v f) fld = (getF s fld - (getF s fld &&& x)) % 2 ^ f.w ∧ RegsKept [fld] s (writeField s d n k off mask v f))
  ∧ (f.acc = .w1s → m ≠ 0 → d.base ∉ [0x010F0038, 0x010F2000] →
      getF (writeField s d n k off mask v f) fld = (getF s fld ||| x) % 2 ^ f.w ∧ RegsKept [fld] s (writeField s d n k off mask v f))
  ∧ (portOpen s p = true → fam → regShape off size = true → plain → windowAt s off = none → ∃ u, exec read s = .next u ∧
      u = clearRead (send s (.readData p (bar0Read s p off size) (e == .uncorr))) off size ∧ u.thr = s.thr ∧ u.mem = s.mem)
  ∧ (∀ a, portOpen s p = true → fam → regShape off size = true → plain → windowAt s off = some a → ∃ u r, exec read s = .next u ∧
      r = dramCheck s a size e 4 ∧ u = clearRead (send r.2 (.readData p (bar0Read r.2 p off size) r.1)) off size ∧ u.thr = s.thr)
  ∧ (portOpen s p = true → 0x0800000 ≤ off → size ≤ 512 → ∃ u r, exec (.registerReadClear p 2 off size e) s = .next u ∧
      r = spCheck s (off - 0x0800000) size e ∧
      u = send r.2 (.readData p (leNat ((List.range size).map fun i => bar2Byte r.2 (off + i))) r.1))
  ∧ (portOpen s p = true → off < 0x0800000 → size ≤ 512 → exec (.registerReadClear p 2 off size e) s =
      .next (send s (.readData p (leNat ((List.range size).map fun i => bar2Byte s (off + i))) (e == .uncorr))))
  ∧ (portUp s p = true → portOpen s p = false → sp ∉ [1, 3, 4] → size ≤ 512 →
      exec (.registerReadClear p sp off size e) s = .next (send s (.unsupported p)))
  ∧ (∀ g ∈ d.fields, regOk s (famOf w) = true → regAt w = some (d, n, k) → bits ((2 ^ (8 * size) - 1) * 2 ^ sh) g.lo g.w ≠ 0 → g.acc = .rc →
      (d.fields.map (·.lo)).Nodup → getF (clearRead s off size) ⟨w * 64 + g.lo, g.w, g.dflt.val n k, g.ret⟩ = 0)
  ∧ (portOpen s p = true → 0x01000000 ≤ off → size ≤ 512 → regShape off size = false →
      exec read s = .next (if regArea off then malformed (send s (.readData p 0 false)) p else send s (.readData p 0 false)))
  ∧ (portUp s p = true → sp = 3 ∨ sp = 4 → exec (.registerReadClear p sp off size e) s =
      .next (send s (.readData p (cfgWord s p sp off) false)))
  ∧ (portUp s p = true → exec (.registerReadClear p 1 0x1C size e) s =
      .next (setF (send s (.readData p (getF s (HLV_DOWN_COUNT p)) false)) (HLV_DOWN_COUNT p) 0))

/-- Registers whose write acts (R10, R84, R85, R169, R233, R248, R250, R251, R270, R445, R492, R496): HELM_ADMIN takes its two
fields; a whole 0xFF clears SAFE_CAUSE's CAUSE; MAP_OP changes only in SERVICE with room; MC_CTL.EN, MC_SP and MC_WAYDIS act on
their slice; the CE table empties; a suspended role is allowed again; FORCE, RESYNC and SWAPCAN act on the pair; MBX_CTL sends,
takes and acknowledges. -/
def Obligations.RegisterCommands : Prop := ∀ (s : State) (v q n w c : Nat) (en : Bool),
  (regOk s 0 = true → ∃ u, exec (.helmAdminWrite v) s = .next u ∧ getF u HELM_ADMIN_SRC = bits v 0 1 ∧ getF u HELM_ADMIN_CTX = bits v 4 12 ∧
      RegsKept [HELM_ADMIN_SRC, HELM_ADMIN_CTX] s u)
  ∧ (regOk s 0 = true → ∃ u, exec (.safeCauseClear v) s = .next u ∧
      getF u HELM_SAFE_CAUSE_CAUSE = (if bits v 0 8 = 0xFF then 0 else getF s HELM_SAFE_CAUSE_CAUSE) ∧
      getF u HELM_SAFE_CAUSE_MORE = (getF s HELM_SAFE_CAUSE_MORE - (getF s HELM_SAFE_CAUSE_MORE &&& bits v 8 9)) % 2 ^ 9 ∧ mode u = mode s)
  ∧ (regOk s 4 = true → mode s ≠ mService → exec (.mapOpWrite v) s = .next (logEv s 0 9 [bits v 0 8]))
  ∧ (regOk s 4 = true → mode s = mService →
      volumesEnd s ≤ getF (setLcap (setC s MAP_OP_OP (bits v 0 8))) MAP_LCAP_BILLETS →
      ∃ u, exec (.mapOpWrite v) s = .next u ∧ getF u MAP_OP_OP = bits v 0 8 ∧ RegsKept [MAP_OP_OP, MAP_LCAP_BILLETS] s u)
  ∧ (q < 4 → regOk s 5 = true → ∃ u, exec (.mcDisable q en) s = .next u ∧ getF u (MC_CTL_EN q) = b2n en ∧ u.slices = s.slices ∧
      RegsKept [MC_CTL_EN q, MC_STAT_DRAINED q] s u)
  ∧ (q < 4 → getF s (MC_CTL_EN q) = 0 → getF s (MC_STAT_DRAINED q) = 0 → (slice s q).wtq = [] → (slice s q).fills = [] →
      ∃ u, exec (.sliceDrained q) s = .next u ∧ getF u (MC_STAT_DRAINED q) = 1 ∧ (slice u q).lines = [] ∧ RegsKept [MC_STAT_DRAINED q] s u)
  ∧ (q < 4 → (slice s q).wtq ≠ [] → exec (.sliceDrained q) s = .next s)
  ∧ (q < 4 → regOk s 5 = true → n ≤ 8 → mode s ≠ mService → exec (.scratchpadConversion q n) s = .next (logEv s 0 9 [q, n]))
  ∧ (q < 4 → regOk s 5 = true → n ≤ 8 → mode s = mService →
      ∃ u a, exec (.scratchpadConversion q n) s = .next u ∧ a = convert (setC s (MC_SP_SPWAYS q) n) q ∧ u.vf = a.vf ∧ u.slices = a.slices ∧
        u.mem = a.mem ∧ getF u (MC_SP_SPWAYS q) = n)
  ∧ (q < 4 → w < 16 → regOk s 5 = true → wayDis s q w = true → ∃ u, exec (.wayReenable q w) s = .next u ∧
      getF u (MC_WAYDIS_DIS q) = putBits (getF s (MC_WAYDIS_DIS q)) w 1 0 % 2 ^ (MC_WAYDIS_DIS q).w ∧ slice u q = (slice s q).dropWay w ∧
      RegsKept [MC_WAYDIS_DIS q] s u)
  ∧ (regOk s 7 = true → ∃ u, exec .ceTableClear s = .next u ∧ u.mem = { s.mem with ceTab := [] } ∧ getF u DRM_CESTAT_OVF = 0 ∧
      RegsKept [DRM_CESTAT_OVF] s u)
  ∧ (regOk s 17 = true → ∃ u, exec (.roleSuspClear v) s = .next u ∧ RegsKept [ANV_ROLE_SUSP_SUSP] s u ∧
      getF u ANV_ROLE_SUSP_SUSP = (getF s ANV_ROLE_SUSP_SUSP - (getF s ANV_ROLE_SUSP_SUSP &&& bits v 1 8)) % 2 ^ 8)
  ∧ (regOk s 13 = true → mode s = mStandby → ∃ u, exec .force s = .next u ∧ u.x.pair = { s.x.pair with force := true } ∧ u.vf = s.vf)
  ∧ (regOk s 13 = true → mode s ≠ mStandby → exec .force s = .next s)
  ∧ (regOk s 13 = true → inPair s = true → ∃ u, exec .resync s = .next u ∧ getF u PAIR_STAT_PSTATE = 2 ∧
      RegsKept [PAIR_STAT_PSTATE] s u)
  ∧ (regOk s 13 = true → ∃ u, exec .swapcan s = .next u ∧ getF u PAIR_SWAPAT_AT = 0 ∧ RegsKept [PAIR_SWAPAT_AT] s u)
  ∧ (n < 64 → regOk s 2 = true → ∃ u, exec (.mbxCtlSend n) s = .next u ∧
      u = sendMsg s n (hostId s) srcMbx ((List.range 4).flatMap fun k => leBytes 8 (getF s (MBX_BODY_WORD n k))) ∧
      (n < 48 → boxWaiter s n = none → (box u n).full = true ∧ (box u n).sender = hostId s ∧ (box u n).stamp = s.clk.now))
  ∧ (n < 48 → ∀ sender src body, ∃ l, l.length = 32 ∧ box (sendMsg s n sender src body) n = { box (sendMsg s n sender src body) n with
      sender := sender, stamp := s.clk.now, body := l } ∧ (boxWaiter s n = none → (box (sendMsg s n sender src body) n).full = true))
  ∧ (regOk s 2 = true → ∃ u, exec (.mbxCtlTake 1) s = .next u ∧ (box u 1).full = false ∧ (∀ m, m ≠ 1 → box u m = box s m) ∧ u.thr = s.thr)
  ∧ (n < 64 → n ≠ 1 → regOk s 2 = true → exec (.mbxCtlTake n) s = .next s ∧ exec (.mbxCtlAck n c) s = .next s)
  ∧ (regOk s 2 = true → c % 2 ^ 16 < 0xFF00 → ∃ u, exec (.mbxCtlAck 1 c) s = .next u ∧ (box u 1).ackV = true ∧ (box u 1).ackCode = c % 2 ^ 16 ∧
      (box u 1).ackBy = hostId s ∧ (box u 1).full = (box s 1).full)

/-- The logbook (R498 to R500, R503): MANUAL raises a trigger; the oldest trigger becomes an entry with the next sequence
number, its stamp and the captured registers, or is dropped where its event is not enabled, or counted as lost where 8,192
entries are held; the interrupt comes at most once a millisecond; the read that ends a window steps it. -/
def Obligations.Logbook : Prop := ∀ (s : State) (p : Nat) (el : Elapse) (x : Trig) (half : Bool),
  let v := elapse s el
  let a := if half then 0x010302FC else 0x010302F8
  let z := if half then 4 else 8
  (regOk s 3 = true → ∃ u, exec .manual s = .next u ∧ u.trigs = s.trigs ++ [⟨3, 1, [], stampOf s srcLog, false⟩] ∧ u.vf = s.vf ∧
      u.keep = s.keep)
  ∧ (s.trigs = [] → exec .logTrigger s = .next s)
  ∧ (nextTrig s = some x → logMode s = false → exec .logTrigger s = .next s)
  ∧ (nextTrig s = some x → logMode s = true → trigOn s x = false → exec .logTrigger s = .next { s with trigs := s.trigs.erase x })
  ∧ (nextTrig s = some x → logMode s = true → trigOn s x = true → 8192 ≤ s.keep.log.length → ∃ u, exec .logTrigger s = .next u ∧
      getF u LOG_STAT_FULL = 1 ∧ u.keep = s.keep ∧ RegsKept [LOG_STAT_FULL, LOG_STAT_LOST] s u ∧
      getF u LOG_STAT_LOST = min (getF s LOG_STAT_LOST + 1) (2 ^ LOG_STAT_LOST.w - 1) % 2 ^ LOG_STAT_LOST.w)
  ∧ (nextTrig s = some x → logMode s = true → trigOn s x = true → s.keep.log.length < 8192 → ∃ u e, exec .logTrigger s = .next u ∧
      u.keep = { s.keep with log := e :: s.keep.log, logSeq := s.keep.logSeq + 1 } ∧ e.trig = 32 * x.fam + x.ev ∧ e.seq = s.keep.logSeq + 1 ∧
      e.stamp = x.stamp.now ∧ e.value.length = min (getF s LOG_CTL_NREG) 16 ∧ u.trigs = s.trigs.erase x ∧ u.vf = s.vf ∧
      u.x = { s.x with unannounced := true })
  ∧ (v.x.unannounced = true → getF s LOG_CTL_IRQEN = 1 → v.x.logMs ≠ v.clk.now / 1000000 + 1 → mode s ≠ mOff →
      ∃ u, exec (.logInterrupt el) s = .next u ∧ u = event { v with x := { v.x with unannounced := false, logMs := v.clk.now / 1000000 + 1 } } 1)
  ∧ (v.x.logMs = v.clk.now / 1000000 + 1 → exec (.logInterrupt el) s = .next v)
  ∧ (regOk s 3 = true → portUp s p = true → portOpen s p = false → exec (.logWindowAutoincRead p half) s = .next (send s (.unsupported p)))
  ∧ (regOk s 3 = true → portOpen s p = true → ∃ u, exec (.logWindowAutoincRead p half) s = .next u ∧
      u.sent = .readData p (bar0Read s p a z) false :: s.sent ∧ RegsKept [LOG_CUR_INDEX] s u ∧
      getF u LOG_CUR_INDEX = (if getF s LOG_CTL_AUTOINC = 1 then (getF s LOG_CUR_INDEX + 1) % 2 ^ LOG_CUR_INDEX.w else getF s LOG_CUR_INDEX))

/-- The life of a strike (R281, R287 to R290, R299 to R303, R322, R354): it starts when the bus is free, a strike on a band
being erased ending with code 6; hard decode, soft decode and the read-retry walk settle its slots; PARITY_REBUILD solves what
is lost; its outcome word reaches its tag and its waiters; an erase is suspended for a foreground read and resumed; a channel
retrains; each millisecond sets B and clears USED. -/
def Obligations.StrikeEvents : Prop := ∀ (s : State) (ch i die : Nat) (k : Strike) (el : Elapse),
  let v := elapse s el
  let at_ := strikeAt s i = some k
  (nextStart s ch = some (i, k) → busFree s ch = true → drivers s ch = true → erasingNamed s k = true →
      exec (.strikeStart ch) s = .next (setStrike s i (some { k with phase := .finish, code := 6, slots := [] })))
  ∧ (nextStart s ch = some (i, k) → busFree s ch = true → drivers s ch = true → erasingNamed s k = false → k.fg = true →
      exec (.strikeStart ch) s = .next (settleCh (grantBus (denyReads (beginScript s i k .main k.entry 0) k.die) ch) ch))
  ∧ (nextStart s ch = some (i, k) → busFree s ch = false → exec (.strikeStart ch) s = .next s)
  ∧ (∀ r, at_ → k.phase = .hard → k.nslot = 0 → k.slots = [none] → r = SlotRead.fail →
      exec (.hardDecode i [r]) s = .next (settleCh (afterHard s i k) k.chan))
  ∧ (∀ n p, at_ → k.phase = .hard → k.nslot = 0 → k.slots = [none] → readPart s k 0 = some p → k.walking = false →
      n ≤ getF s HELM_MEDTHR_RBER →
      exec (.hardDecode i [.ok n]) s = .next (settleCh (afterHard (errInc (decoded s i 0 0) 1 n) i { k with slots := [some 0] }) k.chan))
  ∧ (at_ → k.phase = .soft → k.nslot = 0 → k.slots = [none] → exec (.softDecode i [false]) s = .next (settleCh (enterWalk s i k) k.chan))
  ∧ (∀ tb n e, at_ → k.phase = .walk → k.walking = true → walkTable s k = some (tb, n) → retryEntry s k.entry = some e →
      k.slots.all (·.isSome) = false → k.rows + 1 < n → exec (.readRetryRow i) s = .next (settleCh (grantBus
        (beginScript (addSat s (CH_RETRY_ROWS k.chan) 1) i { k with rows := k.rows + 1 } .retry e k.row) k.chan) k.chan))
  ∧ (∀ tb n e, at_ → k.phase = .walk → k.walking = true → walkTable s k = some (tb, n) → retryEntry s k.entry = some e →
      k.slots.all (·.isSome) = false → n ≤ k.rows + 1 →
      exec (.readRetryRow i) s = .next (settleCh (grantBus (beginScript s i k .restore e 0) k.chan) k.chan))
  ∧ (at_ → k.phase = .finish → exec (.strikeOutcome i) s =
      .next (wakePx (freeOrphanBuf (endTag (strikeEffects (setStrike s i none) k) k.t k.tag (outcomeWord s k)) k.h)))
  ∧ (at_ → k.phase ≠ .finish → exec (.strikeOutcome i) s = .next s)
  ∧ (∀ w, k.t ≠ 9999 → (th s k.t).why ≠ .media → (∀ m h, (th s m).cont ≠ .bfree h) → ∃ u, u = endTag s k.t k.tag w ∧ mget ⟨false, 0, 0⟩ (th u k.t).tags k.tag = ⟨true, w, s.order + 1⟩ ∧
      ThreadsKept k.t s u)
  ∧ (at_ → k.phase = .rebuild → rebuildHeld s k.ppa = true → exec (.parityRebuild i []) s = .next s)
  ∧ (∀ p w, at_ → k.phase = .rebuild → rebuildHeld s k.ppa = false → k.nslot = 0 → k.slots = [some 4] →
      w = countReads s k.ppa (ppaSlot k.ppa) (walkTable s k).isSome [] → rebuildSlot w k.ppa (ppaSlot k.ppa) [] = .ok p →
      exec (.parityRebuild i []) s = .next (setStrike (putFrame w k k.frame p) i
        (some { k with phase := .finish, slots := [some 3], reb := k.reb ||| 1 })))
  ∧ (∀ e r x, runningErase v die = some (i, k) → mode s ≠ mQuench → suspEntry v k.entry = some e → resumeEntry v k.entry = some r →
      k.script = some x → x.wait.isSome = true → x.ready = none → flag s (CH_SUSP_EN k.chan) = true → readQueued v k = true →
      getF s (CH_SUSP_MIN_US k.chan) * 1000 ≤ v.clk.refNs - k.busyFrom → k.susps < getF s (CH_SUSP_MAXSUSP k.chan) →
      ∃ y, exec (.eraseSuspend die el) s = .next (settleCh (grantBus (beginScript (addSat v (CH_SUSPCNT_SUSPENSIONS k.chan) 1) i
        { k with frozen := some y, susps := k.susps + 1 } .suspend e 0) k.chan) k.chan) ∧ y.pc = x.pc)
  ∧ (∀ e a, suspendedErase v die = some (i, k) → k.suspended = some a → resumeEntry v k.entry = some e → mode s ≠ mQuench → k.script = none →
      dieBusy v die = false → getF s (CH_SUSP_WINDOW_US k.chan) * 1000 ≤ v.clk.refNs - a →
      exec (.eraseResume die el) s = .next (settleCh (grantBus (beginScript v i k .resume e 0) k.chan) k.chan))
  ∧ (∀ code again, ch < 32 → getF s (CH_CFG_RETRAIN ch) ≠ 0 → getF s (CH_STAT_TRAINED ch) = 1 → code ≤ getF s (CH_STAT_RATE ch) →
      mget 0 v.ch.trainedAt ch + getF s (CH_CFG_RETRAIN ch) * 60000000000 ≤ v.clk.now → busHolder v ch = none →
      drivers v ch = true → ∃ u, exec (.channelRetrain ch ⟨code, again⟩ el) s = .next u ∧ getF u (CH_STAT_RATE ch) = code ∧ mget 0 u.ch.trainedAt ch = v.clk.now ∧
        (0 < code → RegsKept [CH_STAT_RATE ch, CH_ERR_TRAINFAIL ch] v u ∧ getF u (CH_ERR_TRAINFAIL ch) = if code = getF s (CH_STAT_RATE ch) ∧ again = false then
          getF s (CH_ERR_TRAINFAIL ch) else satAdd (CH_ERR_TRAINFAIL ch).w (getF s (CH_ERR_TRAINFAIL ch)) 1 % 2 ^ (CH_ERR_TRAINFAIL ch).w) ∧
        (code = 0 → code ≠ getF s (CH_STAT_RATE ch) → getF u (CH_STAT_FAILED ch) = 1 ∧ getF u (CH_STAT_TRAINED ch) = 0))
  ∧ (v.clk.budgetMs < v.clk.now / 1000000 → ∃ u, exec (.channelBudgetReset el) s = .next u ∧ u.clk.budgetMs = v.clk.now / 1000000 ∧
      ∀ n, n < 32 → getF u (CH_BUDGET_USED n) = 0 ∧ getF u (CH_BUDGET_B n) =
        getF s CHR_SHARE_NOW_SHARE * goodDies v n * 1000 / 256 % 2 ^ (CH_BUDGET_B n).w)
  ∧ (v.clk.now / 1000000 ≤ v.clk.budgetMs → exec (.channelBudgetReset el) s = .next v)

/-- The Swage instructions (R289, R296 to R298): the script that holds a channel's bus executes its word: END by class, CMD and
ADDR drive the bus, DOUT and DIN move frames or registers, WAITRDY yields, STATUS and TEST set v7 and F, BRANCH, CALL and RET
move the pc, TIMER arms the one timer; a value outside those listed, a full or empty stack, a target outside the code region or
an END not permitted is a script fault; a poll that sees its bit makes the script ready, the timer's end takes it to TARGET. -/
def Obligations.SwageInstructions : Prop := ∀ (s : State) (ch i : Nat) (k : Strike) (x : Script) (a b c d e : Nat) (es : List (Nat × MErr)) (el : Elapse),
  let runs (w : Nat) := runsWord s ch w = some (i, k, x)
  let goes (ins : Instr) (u : State) := exec ins s = .next (settleCh u ch)
  let fault (n : Nat) := scriptFault s i k x x.pc n
  let on (u : State) (y : Script) (pc : Nat) := setStrike u i (some { k with script := some { y with pc := pc, hold := x.hold + 1 } })
  let nxt (u : State) := on u x (x.pc + 1)
  let v := elapse s el
  (∀ dec, a < 16 → runs (a + 16 * b2n dec) → goes (.swageEnd ch a dec) (if endOk (eCls s x.entry) a dec then endScript s i k x a dec else fault 7))
  ∧ (a < 256 → runs (0x10000000 + a) → goes (.swageCmd ch a)
      (on (drive s ch 0 [a]) { x with cmdAt := x.cmdAt.or (some s.clk.refNs) } (x.pc + 1)))
  ∧ (a < 8 → b < 4 → c < 8 → d < 4 → runs (0x20000000 + a + 16 * b + 256 * c + 2048 * d) →
      goes (.swageAddr ch a b c d) (nxt (drive s ch 1 (addrBytes s k x a b c d))))
  ∧ (b < 8 → c < 4 → d < 4 → runs (0x30000000 + 1 + 4 * b + 32 * c + 128 * d) →
      goes (.swageDout ch 1 b c d es) (nxt (drive s ch 2 (lowBytes (c + 1) (mget 0 x.v b)))))
  ∧ (b < 8 → c < 4 → d < 4 → runs (0x30000000 + 0 + 4 * b + 32 * c + 128 * d) → eCls s x.entry ≠ 1 → goes (.swageDout ch 0 b c d es) (fault 6))
  ∧ (b < 8 → c < 4 → d < 4 → runs (0x30000000 + 0 + 4 * b + 32 * c + 128 * d) → eCls s x.entry = 1 → eParam s k.entry ≤ d →
      goes (.swageDout ch 0 b c d es) (fault 1))
  ∧ (∀ w, b < 8 → c < 4 → d < 4 → runs (0x30000000 + 0 + 4 * b + 32 * c + 128 * d) → eCls s x.entry = 1 → d < eParam s k.entry →
      doutCheck s k d es = (false, w) → ∃ got, goes (.swageDout ch 0 b c d es) (setStrike w i (some { k with
        got := got, script := some { x with pc := x.pc + 1, hold := x.hold + 1 } })) ∧
        ∀ j, j < 8 → mget [] got (8 * d + j) = getFrame w k (k.frame + 8 * d + j))
  ∧ (∀ w, b < 8 → c < 4 → d < 4 → runs (0x30000000 + 0 + 4 * b + 32 * c + 128 * d) → eCls s x.entry = 1 → d < eParam s k.entry →
      doutCheck s k d es = (true, w) → goes (.swageDout ch 0 b c d es) (leave (spendTime w k x) i { k with code := 10 } .finish))
  ∧ (∀ l, b < 8 → c < 4 → runs (0x40000000 + 1 + 4 * b + 32 * c) → goes (.swageDin ch 1 b c l)
      (on s { x with v := mset 0 x.v b (leNat (padTo 0 (c + 1) (l.map (BitVec.ofNat 8)))) } (x.pc + 1)))
  ∧ (∀ l, b < 8 → c < 4 → runs (0x40000000 + 0 + 4 * b + 32 * c) → eCls s x.entry = 0 → k.raw = false →
      goes (.swageDin ch 0 b c l) (setStrike s i (some
        { k with col := mget 0 x.v 1, script := some { x with dins := x.dins + 1, pc := x.pc + 1, hold := x.hold + 1 } })))
  ∧ (∀ l, b < 8 → c < 4 → runs (0x40000000 + 0 + 4 * b + 32 * c) → eCls s x.entry = 1 → goes (.swageDin ch 0 b c l) (fault 6))
  ∧ (a < 256 → b < 8 → runs (0x50000000 + a + 256 * b) → k.cls ≠ 2 →
      goes (.swageWaitrdy ch a b) (yieldBus s i k { x with pc := x.pc + 1, wait := some (a, b), ready := none }))
  ∧ (a < 256 → runs (0x60000000 + a) → goes (.swageStatus ch a b)
      (on (drive (drive s ch 0 [a]) ch 1 (statusAddr s k x a)) { x with v := mset 0 x.v 7 (b % 256), cmdAt := x.cmdAt.or (some s.clk.refNs) } (x.pc + 1)))
  ∧ (∀ all, a < 8 → b < 256 → runs (0x70000000 + a + 256 * b + 65536 * b2n all) → goes (.swageTest ch a b all)
      (on s { x with f := if all then (mget 0 x.v a % 256) &&& b = b else (mget 0 x.v a % 256) &&& b != 0 } (x.pc + 1)))
  ∧ (a < 3 → b < 2 ^ 14 → runs (0x80000000 + a * 2 ^ 26 + b) → goes (.swageBranch ch a b)
      (if (a = 0 ∨ (a = 1 ∧ x.f = true) ∨ (a = 2 ∧ x.f = false)) then (if inCode b then on s x b else fault 4) else nxt s))
  ∧ (a < 2 ^ 14 → runs (0x90000000 + a) → goes (.swageCall ch a)
      (if 4 ≤ x.stack.length then fault 2 else if inCode a then on s { x with stack := (x.pc + 1) :: x.stack } a else fault 4))
  ∧ (runs 0xA0000000 → x.stack = [] → goes (.swageRet ch) (fault 3))
  ∧ (∀ t l, runs 0xA0000000 → x.stack = t :: l → goes (.swageRet ch) (on s { x with stack := l } t))
  ∧ (a < 4 → b < 4096 → c < 2 ^ 14 → runs (0xB0000000 + a * 2 ^ 26 + b * 2 ^ 14 + c) → goes (.swageTimer ch a b c)
      (if b = 0 then on s { x with timer := none } (x.pc + 1) else if inCode c then
        on s { x with timer := some (s.clk.refNs + b * (100 * 10 ^ a), c) } (x.pc + 1) else fault 4))
  ∧ (∀ n, k.cls = 2 → getF (fault n) (CH_SFLOG_CAUSE k.chan) = n % 2 ^ (CH_SFLOG_CAUSE k.chan).w ∧ getF (fault n) (CH_SFLOG_VALID k.chan) = 1 ∧
      getF (fault n) (CH_SFLOG_WORD k.chan) = x.pc % 2 ^ (CH_SFLOG_WORD k.chan).w)
  ∧ (∀ z, strikeAt v i = some k → k.script = some x → x.wait = some z → x.ready = none → drivers v k.chan = true → busHolder v k.chan = none →
      nextPoll v k.chan = some i → ∃ w, exec (.statusPoll i a el) s = .next (settleCh (grantBus (setStrike w i (some { k with script := some { x with
          v := mset 0 x.v 7 (a % 256), pollAt := some v.clk.refNs, cmdAt := x.cmdAt.or (some v.clk.refNs), ready := if bit (a % 256) z.2 then some v.order else none } })) k.chan) k.chan) ∧
        w = { v with order := v.order + 1, ch := { v.ch with bus := w.ch.bus, polled := mset 0 v.ch.polled k.chan (i + 1) } } ∧
        mget [] w.ch.bus k.chan = ((0, z.1 % 256) :: (statusAddr v k x z.1).map fun y => (1, y % 256)).reverse)
  ∧ (strikeAt v i = some k → nextPoll v k.chan ≠ some i → exec (.statusPoll i a el) s = .next v)
  ∧ (∀ t, strikeAt v i = some k → k.script = some x → x.timer = some (t, e) → t ≤ v.clk.refNs →
      exec (.scriptTimerExpiry i el) s = .next (settleCh (grantBus (setStrike (addSat v (CH_ERR_TIMEOUT k.chan) 1) i (some { k with
        timedOut := true, script := some { x with timer := none, wait := none, ready := none, pc := e } })) k.chan) k.chan))

/-- Map-cache, journal, checkpoint and transfer events (R194, R211, R220, R225, R227, R239 to R241, R370): a fill arrives after
the queued writes of its line, is cached where its entry allocates, and lets its waiters go on or fault 0x04 on an error; a
drained write reaches DRAM; a written segment raises JEND; commits that waited for room go on; a round first fixes JDONE, then
becomes NEWEST once JEND reaches it; a transfer ends with the status of its last frame. -/
def Obligations.MapEvents : Prop := ∀ (s : State) (line q j p nx jseg t n : Nat) (e : MErr) (d : RoundDir) (es : List (Nat × MErr))
    (data pis : List Byte) (y : Xfer) (run : CipherRun),
  let f := fun (g : Fill) => decide (g.line = line)
  ((∀ g ∈ (slice s (line % 4)).fills, g.line ≠ line) → exec (.mapFill line e) s = .next s)
  ∧ (∀ g, (slice s (line % 4)).fills.find? f = some g → g.read = false → exec (.mapFill line e) s = .next s)
  ∧ (∀ g, (slice s (line % 4)).fills.find? f = some g → g.read = true → ∃ u v w, exec (.mapFill line e) s = .next u ∧
      v = setSlice s (line % 4) { slice s (line % 4) with fills := (slice s (line % 4)).fills.filter fun h => h.line != line } ∧
      w = (let b := (dramCheck v (64 * line) 64 e 1)
           let a := if g.pf then addWrap b.2 (MC_PFILLS_COUNT (line % 4)) 1 else b.2
           if b.1 then (if g.pf then prefetchErr a (line % 4) line else a) else if g.alloc then fillLine a (line % 4) line g else a) ∧
      u = missWaiters ((lineWaiters w line).foldl (fun s t => lineArrived s t (dramCheck v (64 * line) 64 e 1).1) w) (line % 4))
  ∧ (∀ m, (th s t).cont = m → (∀ rd lbn gen n, m ≠ .look rd lbn gen n) → lineArrived s t true = s)
  ∧ (∀ rd lbn gen m, (th s t).cont = .look rd lbn gen m → (th s t).st ≠ .running → ∃ u, u = lineArrived s t true ∧
      (th u t).cont = .spoiled ∧ (isHost t = true → (th u t).st = .ready) ∧ u.mem = s.mem)
  ∧ (∀ a l r, (slice s q).wtq = (a, l) :: r → ∃ u, exec (.writeThroughDrain ⟨q, e⟩) s = .next u ∧ (slice u q).wtq = r ∧
      u = dramWr (dramMerge (setSlice s q (Slice.issue { slice s q with wtq := r })) a l.length e) a l)
  ∧ ((slice s q).wtq = [] → exec (.writeThroughDrain ⟨q, e⟩) s = .next s)
  ∧ (s.ck.jend < j → (∀ r ∈ s.map.recs, r.jseq ≤ j → s.ck.jend < r.jseq → r.committed = true) → (∃ r ∈ s.map.recs, r.jseq = j) →
      (strikesWhere s fun k => k.cls = 1 && (th s k.t).role = 8) = [] → segBytes s j ≤ 2 ^ 20 → exec (.journalTailSpace ⟨j, p, nx⟩) s = .next (retryAll (setJend (writeSeg s j p nx) j)))
  ∧ (2 ^ 20 < segBytes s j → exec (.journalTailSpace ⟨j, p, nx⟩) s = .next s)
  ∧ (∃ g, (writeSeg s j p nx).map.segs = s.map.segs ++ [g] ∧ g.first = s.ck.jend + 1 ∧ g.last = j ∧ g.next = nx ∧
      (∀ h, s.map.segs.getLast? = some h → g.ppa = h.next) ∧ (s.map.segs = [] → g.ppa = p))
  ∧ ((setJend s j).ck.jend = j ∧ (setJend s j).map.recs = s.map.recs ∧ (setJend s j).thr = s.thr)
  ∧ (j ≤ s.ck.jend → exec (.journalTailSpace ⟨j, p, nx⟩) s = .next s)
  ∧ (∀ m x a b c, (m, x) ∈ s.thr → x.why = .dma → x.cont = .commit a b c → exec .overlaySpaceFreed s = .next (retryAll s))
  ∧ ((∀ x ∈ s.thr, x.2.why ≠ .dma) → exec .overlaySpaceFreed s = .next s)
  ∧ (∀ m js, s.map.round = some (m, js, none) → threeChannels d.dirs = true → copiesChanged s d.segs = true → s.ck.jend < s.map.jseq → ∃ u,
      exec (.checkpointRootUpdate d jseg) s = .next u ∧ u.map.round = some (m, js, some s.map.jseq) ∧ u.map.roundImage = mapImage s ∧
      u.map.roundDirs = d.dirs ∧ u.map.roundSegs = d.segs ∧ u.map.roundSif = s.sif ∧ u.ck = s.ck ∧ u.mem = s.mem)
  ∧ (∀ m js, s.map.round = some (m, js, none) → threeChannels d.dirs = false → exec (.checkpointRootUpdate d jseg) s = .next s)
  ∧ (∀ m js jd, s.map.round = some (m, js, some jd) → jd ≤ s.ck.jend → ∃ u r, exec (.checkpointRootUpdate d jseg) s = .next u ∧
      u.ck.newest = some r ∧ u.ck.previous = s.ck.newest ∧ r.num = m ∧ r.jstart = js ∧ r.jdone = jd ∧ r.dirs = s.map.roundDirs ∧
      r.dir = newDir s ∧ r.sif = s.map.roundSif ∧ r.image = s.ring.foldl (fun m e => wrBytes m e.1 e.2) s.map.roundImage ∧ u.map.round = none ∧ u.ring = [] ∧ getF u MAP_CKPT_ACTIVE = 0)
  ∧ (∀ m js jd, s.map.round = some (m, js, some jd) → s.ck.jend < jd → exec (.checkpointRootUpdate d jseg) s = .next s)
  ∧ (liveXfer s t n = some y → (y.kind = .xin ∨ y.kind = .xout) → ∀ r v, moveTo s t y y.pos (4096 * ctlCount (y.w.getD 2 0)) data pis es = (r, v) →
      exec (.transferEnd t n data pis es []) s = .next (endXfer v t n (r.getD 0)))
  ∧ (liveXfer s t n = some y → y.kind = .xcopy → exec (.transferEnd t n data pis es []) s =
      .next (endXfer (copyFrames s y es).2 t n ((copyFrames s y es).1.getD 0)))
  ∧ (liveXfer s t n = some y → y.kind = .pxadd → exec (.transferEnd t n data pis es []) s =
      .next (endXfer (pxaddEnd s y es).2 t n ((pxaddEnd s y es).1.getD 0)))
  ∧ (∀ l, liveXfer s t n = some y → y.kind = .pxreb → exec (.transferEnd t n data pis es l) s =
      .next (if rebuildHeld s (bits (y.w.getD 0 0) 0 48) then s else endXfer (pxrebEnd s y l).2 t n ((pxrebEnd s y l).1.getD 0)))
  ∧ (liveXfer s t n = some y → y.kind = .pxclose → exec (.transferEnd t n data pis es []) s = .next (endXfer (pxcloseEnd s y) t n 0))
  ∧ (liveXfer s t n = some y → (y.kind = .cenc ∨ y.kind = .cdec) → exec (.transferEnd t n data pis es []) s = .next s ∧
      exec (.cipherTransferEnd t n run) s = .next (endXfer (cipherFrames s t y run).2 t n ((cipherFrames s t y run).1.getD 0)))
  ∧ (liveXfer s t n = none → exec (.transferEnd t n data pis es []) s = .next s ∧ exec (.cipherTransferEnd t n run) s = .next s)
  ∧ (∀ v, (th s t).why ≠ .dma → (th s t).why ≠ .pagereq → xferAt (th s t) n = some y → xferAt (th (endXfer s t n v) t) n =
      some { y with ended := true, sv := v, page := none } ∧ ((∀ m h, (th s m).cont ≠ .bfree h) → ThreadsKept t s (endXfer s t n v)))

/-- The helm's media work (R269, R270, R273, R314 to R316, R328, R357, R359): the pending slot of the lowest thread is served
when no answer of the helm awaits the partner, each request with its own rule, and answered; a DEGRADED group takes a spare;
DRAM scrub steps once a millisecond through its lines, SRAM scrub once in 10 s. -/
def Obligations.MediaRequests : Prop := ∀ (s : State) (t b q corr : Nat) (errs : List (Nat × MErr)) (el : Elapse),
  let v := elapse s el
  let turn (r : Nat) := firstPending s = some t ∧ helmFree s = true ∧ bits (slotWord s t) 0 4 = r
  let band := bits (slotWord s t) 32 20
  let e := bandEnt s band
  let own := bandExists s band = true ∧ bOwner e = t ∧ bWithdrawn e = false
  (∀ r, turn r → exec .helmRequestService s = .next (wakePx (serveSlot s t)))
  ∧ (firstPending s = none → exec .helmRequestService s = .next s)
  ∧ (firstPending s = some t → helmFree s = false → exec .helmRequestService s = .next s ∧ exec (.reqOpen t) s = .next s)
  ∧ (turn 1 → group s (bits (slotWord s t) 16 16) = none → exec (.reqOpen t) s = .next (refuse s t 5))
  ∧ (turn 1 → group s (bits (slotWord s t) 16 16) ≠ none → openable s (bits (slotWord s t) 16 16) = [] →
      exec (.reqOpen t) s = .next (refuse s t 4))
  ∧ (turn 1 → group s (bits (slotWord s t) 16 16) ≠ none → argMin (fun b => bECount (bandEnt s b) * 2 ^ 20 + b) (openable s (bits (slotWord s t) 16 16)) = some b →
      ringFull s = false → ∃ u, exec (.reqOpen t) s = .next u ∧ u = grant { s with md := { s.md with openSeq := s.md.openSeq + 1 } } t b
        (putBits (putBits (putBits (bandEnt s b) 0 3 1) 64 13 t) 77 12 0))
  ∧ (turn 2 → bandState s band = 1 → own → ringFull s = false → exec (.reqClose t) s = .next (grant (orphanBand s band) t band
      (putBits (bandWith (orphanBand s band) band 2 noOwner) 5 1 1)))
  ∧ (turn 2 → bandState s band = 1 → own → ringFull s = true → exec (.reqClose t) s = .next (refuse s t 3))
  ∧ (turn 2 → bandState s band ≠ 1 → exec (.reqClose t) s = .next (refuse s t 2))
  ∧ (turn 3 → bandExists s band = false → exec (.reqGc t) s = .next (refuse s t 5))
  ∧ (turn 3 → bandExists s band = true → bWithdrawn e = false → bandState s band = 2 → ringFull s = false →
      exec (.reqGc t) s = .next (grant s t band (bandWith s band 3 t)))
  ∧ (turn 4 → bandState s band = 3 → own → ringFull s = false → (th s t).role ≠ 4 →
      exec (.reqRelease t) s = .next (grant s t band (bandWith s band 2 noOwner)))
  ∧ (turn 4 → bandState s band = 3 → own → ringFull s = false → (th s t).role = 4 → mirrors s = false →
      exec (.reqRelease t) s = .next (markRebuilt (grant s t band (bandWith s band 2 noOwner)) band))
  ∧ (turn 4 → bandState s band = 3 → own → ringFull s = false → (th s t).role = 4 → mirrors s = true → ∃ u,
      u = grant s t band (bandWith s band 2 noOwner) ∧ exec (.reqRelease t) s = .next { u with md := { u.md with awaitMark := some band } })
  ∧ (turn 4 → bandState s band ≠ 3 → exec (.reqRelease t) s = .next (refuse s t 2))
  ∧ (turn 5 → bandState s band = 3 → own → bandValid s band = 0 → bandHeld s band = false → getF s HELM_MEDSTAT_RECOUNT = 0 → ringFull s = false →
      exec (.reqErase t) s = .next (wakePx (grant (enterErasing s band) t band (bandWith s band 4 t))))
  ∧ (turn 5 → bandState s band = 3 → own → bandValid s band ≠ 0 → exec (.reqErase t) s = .next (wakePx (refuse s t 3)))
  ∧ (turn 6 → getF s HELM_PATROL_PPS = 0 → exec (.reqPatrol t) s = .next (refuse s t 4))
  ∧ (∀ p, turn 6 → getF s HELM_PATROL_PPS ≠ 0 →
      argMin id ((patrolPages s).filter fun p => s.md.patrolBand * 2 ^ 12 + s.md.patrolPage ≤ p) = some p → ∃ u w, exec (.reqPatrol t) s = .next u ∧
      u = answer w t 1 (p / 2 ^ 12) (p % 2 ^ 12) (max s.clk.now s.md.patrolAt) ∧ w.md.patrolBand = (p + 1) / 2 ^ 12 ∧
      w.md.patrolPage = (p + 1) % 2 ^ 12)
  ∧ (bits (slotWord s t) 0 4 = 1 → exec (.reqGc t) s = .next s ∧ exec (.reqRelease t) s = .next s ∧ exec (.reqPatrol t) s = .next s)
  ∧ (∀ n, refuse s t n = dramWr s (aSlots + 16 * (t - 4096)) (leBytes 8 (putBits (slotWord s t) 4 4 n) ++ leBytes 8 0))
  ∧ (mirrors s = false → ∀ new, ∃ u, u = grant s t b new ∧ u.ring = s.ring ++ [(aBand + 16 * b,
      leBytes 16 (if bits new 0 3 = bandState s b then new else putBits new 96 32 (s.clk.now / 2 ^ 32)))] ∧ u.sent = s.sent)
  ∧ (mirrors s = true → ∀ new, ∃ u, u = grant s t b new ∧ u.mem = s.mem ∧ u.md.await.isSome = true)
  ∧ (∀ u, ((groupNums s).filter fun g => match group s g with | some x => x.st = .degraded | none => false).findSome? (assignSpare s) = some u →
      exec .spareAssign s = .next u)
  ∧ ((∀ g x, group s g = some x → x.st ≠ .degraded) → exec .spareAssign s = .next s)
  ∧ (scrubMode v = true → s.d.scrubMs < v.clk.now / 1000000 → ∃ u, exec (.dramScrubStep errs el) s = .next u ∧
      u.d.scrubMs = v.clk.now / 1000000 ∧ getF u DRM_SCRUBPOS_LINE = (getF s DRM_SCRUBPOS_LINE + getF s DRM_SCRUB_LPMS) % 2 ^ 31 ∧ u.mem.dram = s.mem.dram)
  ∧ (v.clk.now / 1000000 ≤ s.d.scrubMs → exec (.dramScrubStep errs el) s = .next v)
  ∧ (∀ unc, q < 4 → mget 0 s.d.sramAt q + 10000000000 ≤ v.clk.refNs → ∃ u, exec (.sramScrub q corr unc el) s = .next u ∧
      mget 0 u.d.sramAt q = v.clk.refNs ∧ getF u (DRM_SRAMCNT_CORR q) = min (getF s (DRM_SRAMCNT_CORR q) + corr) (2 ^ (DRM_SRAMCNT_CORR q).w - 1) % 2 ^ (DRM_SRAMCNT_CORR q).w)

/-- Messages of the pair (R401, R425 to R428, R434, R435, R440, R444, R445, R453 to R456, R496): HB goes out every 50 µs and
shows the partner's part; mirrors take records, roots, stripes, media changes, slots and configuration at a standby and are
acknowledged; an acknowledgement commits what waited; a silent partner is ABSENT and its acknowledgements are no longer awaited;
the lodestar is recomputed and compared; a resynchronisation ends in SYNC. -/
def Obligations.PairMessages : Prop := ∀ (s : State) (el : Elapse) (m j jend ceil sth i n : Nat) (r : JRec) (noAck a b c : Bool) (l : List Nat),
  let v := elapse s el
  let acks (u : State) (kd x : Nat) := u.sent.head? = some (.pair 13 [kd, x])
  let late := absentAfter s
  let top := max s.map.genNext (s.map.genPeer + 1)
  let slot (k : Nat) := Msg.pair 11 ([1, k, b2n ((frameLines k).any s.mem.bad.contains)] ++
    toNats (dramRd s (aWb + 4096 * k) 4096 ++ dramRd s (aWbMeta + 64 * k) 64))
  (inPair s = true → s.x.pair.hbTx + 50000 ≤ v.clk.refNs → ∃ u g, exec (.hbSend el) s = .next u ∧ u.x.pair.hbTx = v.clk.refNs ∧
      u.sent = .pair 1 [mode s, s.map.jseq, s.ck.jend, g, sthWord s] :: s.sent ∧ u.map.genCeil = g ∧ u.vf = v.vf ∧
      g = if s.map.genCeil < top + 2 ^ 23 then max s.map.genCeil top + 2 ^ 24 else s.map.genCeil)
  ∧ (v.clk.refNs < s.x.pair.hbTx + 50000 → exec (.hbSend el) s = .next v)
  ∧ (inPair s = true → ∃ u, exec (.pairHb m j jend ceil sth) s = .next u ∧ u.x.pair.pmode = m ∧ u.x.pair.pjseq = j ∧ u.x.pair.hbRx = s.clk.refNs ∧
      u.map.genPeer = max s.map.genPeer ceil ∧ acks u 1 0 ∧ getF u PAIR_PEERH_QPASS = bits sth 0 4 ∧
      getF u PAIR_STAT_PSTATE = (if getF s PAIR_STAT_PSTATE = 1 ∧ mode s ≠ mQuench then 2 else getF s PAIR_STAT_PSTATE) ∧
      (getF s PAIR_STAT_OWN = 0 → u.pins.ownIn = [mRun, mBanked, mService, mQuench].contains m))
  ∧ (mirrorHere s = true → r.jseq ≠ 0 → ∃ u, exec (.pairJrec r) s = .next u ∧ acks u 2 r.jseq ∧ (∃ x ∈ u.x.pair.mirror, x.jseq = r.jseq) ∧
      (∀ x ∈ s.x.pair.mirror, x ∈ u.x.pair.mirror) ∧ u.map.recs = s.map.recs ∧
      ((∀ x ∈ s.x.pair.mirror, x.jseq ≠ r.jseq) → u.mem = (ringStore s r).mem ∧ u.map.ringPos = s.map.ringPos + (recBytes r).length))
  ∧ (mirrorHere s = true → r.jseq = 0 → ∃ u, exec (.pairJrec r) s = .next u ∧ (r.thread, r.unit, r) ∈ u.keep.held ∧ u.sent = s.sent)
  ∧ (mirrorHere s = true → ∃ u, exec (.pairRoot none jend) s = .next u ∧ u.ck = { s.ck with jend := jend } ∧
      u.x.pair.mirror = (s.x.pair.mirror.filter fun r => decide (jend < r.jseq)) ∧ acks u 3 0)
  ∧ (∀ x o, mirrorHere s = true → s.ck.newest = some o → x.num ≠ o.num → ∃ u, exec (.pairRoot (some x) jend) s = .next u ∧
      u.ck.newest = some x ∧ u.ck.previous = some o ∧ u.ck.jend = jend ∧ u.ring = [] ∧ acks u 3 0)
  ∧ (∀ e, mirrorHere s = true → ∃ u, exec (.pairSif i e) s = .next u ∧ mget none u.sif i = e.map (fun x => { x with acked := true, prev := x.st }) ∧ acks u 4 i)
  ∧ (∀ ad d, mirrorHere s = true → ∃ u, exec (.pairMedc (.write ad d)) s = .next u ∧ u.ring = s.ring ++ [(ad, d)] ∧ acks u 5 0)
  ∧ (∀ g sp rd, mirrorHere s = true → ∃ u, exec (.pairMedc (.tables g sp rd)) s = .next u ∧ u.ret.groups = g ∧ u.ret.spares = sp ∧
      u.ret.redirs = rd ∧ acks u 5 0)
  ∧ (∀ e, mirrorHere s = true → subordinate s = false → ∃ u, exec (.pairCfg (.bind i e)) s = .next u ∧ bindOf u i = e ∧ acks u 6 0)
  ∧ (∀ q, subordinate s = true → ∃ u, exec (.pairCfg (.quota n q a)) s = .next u ∧ mget Quota.none u.ret.more.quota n = q ∧
      u.d.ten.due = s.d.ten.due ++ [(n, a, s.clk.now, q)] ∧ u.sent.head? = some (.cascade 0 13 [7, s.boot.cas]))
  ∧ (∀ e, mirrorHere s = true → subordinate s = false → ∃ u, exec (.pairCfg (.alm i e)) s = .next u ∧ almEntry u i = e ∧ acks u 6 0)
  ∧ (∀ q, mirrorHere s = true → subordinate s = false → ∃ u, exec (.pairCfg (.quota n q a)) s = .next u ∧
      mget Quota.none u.ret.more.quota n = q ∧ acks u 6 0)
  ∧ (∀ x, mirrorHere s = true → i < 60 → exec (.pairSlot i x) s = .next (ack (putSlot s i { x with mirror := true }) 7 0))
  ∧ (∀ e, mirrorHere s = false → exec (.pairJrec r) s = .next s ∧ exec (.pairSif i e) s = .next s ∧ exec (.pairRoot none jend) s = .next s)
  ∧ (∀ o, mode s = mStandby → s.boot.pairEn = true → s.boot.image = true → subordinate s = false →
      keyBusy s (oLe o 6 1) (oLe o 8 2) = false → ∃ u ok, exec (.pairKey o) s = .next u ∧ u = send (if ok then applyKey s o else s) (.pair 13 [8, b2n ok]) ∧
        (ok = true ↔ oLe o 6 1 ≤ 2 ∧ oLe o 8 2 ≤ 1039 ∧ keyUid o = ownUid ∧ keyOk s (oLe o 6 1) (oLe o 8 2) o = true ∧
          keyFits s (oLe o 6 1) (oLe o 8 2) = true))
  ∧ (inPair s = true → exec (.pairAck 2 n) s = .next (commitUpTo s n) ∧ exec (.pairAck 5 n) s = .next (landAwait s) ∧
      exec (.pairAck 4 n) s = .next (wakePx (openAcked (sifAck s n) (· = n))) ∧ exec (.pairAck 1 n) s = .next { s with map := { s.map with genAck := s.map.genCeil } } ∧
      exec (.pairAck 8 n) s = .next (keyAnswered s (n = 1)) ∧ exec (.pairAck 7 n) s = .next s)
  ∧ (∀ d, s.md.await = some d → (landAwait s).md.await = none)
  ∧ (∀ sender fl st body, inPair s = true → m < 48 → exec (.pairMbx 4 false m n sender fl st body) s =
      .next (storeMsg s m sender fl st body (some (n, 4))))
  ∧ (∀ sender fl st body, inPair s = true → m < 64 → exec (.pairMbx 4 true m n sender fl st body) s = .next (ackReg s m st sender))
  ∧ (inPair s = true → flag s DRM_STAT_TRAINED = true → ∃ u, exec (.pairSalv (.request l)) s = .next u ∧ u.sent = (l.map slot).reverse ++ s.sent ∧
      u = { s with sent := u.sent })
  ∧ (∀ d x, s.x.pair.step = 5 → n ∈ s.x.pair.salv → ∃ u, exec (.pairSalv (.frame n d x true)) s = .next u ∧
      u.x.pair.salv = srem n s.x.pair.salv ∧ u.x.pair.lost = n :: s.x.pair.lost ∧ (∀ a ∈ frameLines n, a ∈ u.mem.bad) ∧ u.mem.dram = s.mem.dram ∧
      getF u PAIR_LOST_FRAMES = min (getF s PAIR_LOST_FRAMES + 1) (2 ^ PAIR_LOST_FRAMES.w - 1) % 2 ^ PAIR_LOST_FRAMES.w)
  ∧ (∀ d x, s.x.pair.step = 5 → n ∈ s.x.pair.salv → ∃ u, exec (.pairSalv (.frame n d x false)) s = .next u ∧
      u.x.pair.salv = srem n s.x.pair.salv ∧ u.mem = (dramWr (dramWr s (aWb + 4096 * n) (padTo 0 4096 d)) (aWbMeta + 64 * n) (padTo 0 64 x)).mem ∧
      getF u PAIR_LOST_SALVAGED = min (getF s PAIR_LOST_SALVAGED + 1) (2 ^ PAIR_LOST_SALVAGED.w - 1) % 2 ^ PAIR_LOST_SALVAGED.w)
  ∧ (inPair s = true → 2 ≤ getF s PAIR_STAT_PSTATE → (s.x.pair.hbRx + late ≤ v.clk.refNs ∨ (noAck = true ∧ late ≤ el.ns)) →
      ∃ u w, exec (.partnerAbsent noAck el) s = .next u ∧ getF w PAIR_STAT_PSTATE = 1 ∧ w.map = s.map ∧
        u = keyAnswered (openAcked (sifUnmirrored (landAwait (commitUpTo w w.map.jseq))) fun _ => true) true)
  ∧ (inPair s = true → ∃ u, exec (.pairLinkDown ⟨a, n⟩) s = .next u ∧ RegsKept [PAIR_LINK_DOWN, PAIR_LINK_RETRY] s u ∧
      getF u PAIR_LINK_DOWN = (if a then min (getF s PAIR_LINK_DOWN + 1) (2 ^ PAIR_LINK_DOWN.w - 1) % 2 ^ PAIR_LINK_DOWN.w
        else getF s PAIR_LINK_DOWN) ∧
      getF u PAIR_LINK_RETRY = min (getF s PAIR_LINK_RETRY + n) (2 ^ PAIR_LINK_RETRY.w - 1) % 2 ^ PAIR_LINK_RETRY.w)
  ∧ (s.boot.image = true → mode s ≠ mOff → ∃ u, exec .lodestarRecompute s = .next u ∧
      ∀ k, k < 6 → getF u (CAS_LODE_WORD k) = (lodeWords s).getD k 0 % 2 ^ (CAS_LODE_WORD k).w)
  ∧ (inPair s = true → l ≠ ownLode s → ∃ u, exec (.pairLode 8 l) s = .next u ∧ u.x.pair.lode = l ∧ getF u PAIR_STAT_LODEMIS = 1 ∧
      getF u CAS_STAT_FROZEN = 1 ∧ acks u 9 0)
  ∧ (inPair s = true → l = ownLode s → ∃ u, exec (.pairLode 8 l) s = .next u ∧ getF u PAIR_STAT_LODEMIS = 0 ∧ acks u 9 0)
  ∧ (getF s CAS_STAT_MASTER = 1 → i < 8 → i ≠ 2 * s.boot.cas + b2n (mode s == mStandby) → ∃ u, exec (.pairLode i l) s = .next u ∧
      mget [] u.x.cas.peers i = l ∧ bit (getF u CAS_LSTAT_RECEIVED) i = true ∧ bit (getF u CAS_LSTAT_MISMATCH) i = (l != ownLode s))
  ∧ (inPair s = true → getF s PAIR_STAT_PSTATE = 2 → mode s ≠ mQuench → (isActive s = true ∨ mode s = mStandby) → ∃ u, exec .resyncComplete s = .next u ∧
      getF u PAIR_STAT_PSTATE = 3 ∧ u.x.resync = false ∧ u.mem = s.mem)
  ∧ (mirrorHere s = true → stestOff s = false → s.x.pair.testAt + 600000000000 ≤ v.clk.refNs → n < 16 → ∃ u,
      exec (.selfTestCycle n a b c el) s = .next u ∧ getF u PAIR_STH_QPASS = n ∧ getF u PAIR_STH_DRAM = b2n a ∧ getF u PAIR_STH_LINKS = b2n b ∧
        getF u PAIR_STH_ILOCK = b2n c ∧ getF u PAIR_STH_VALID = 1 ∧ u.x.pair.testAt = v.clk.refNs)
  ∧ (inPair s = true → isActive s = true → 30 * 86400000000000 < v.clk.now - getF s PAIR_LASTACT_NOW →
      s.x.pair.odDay ≠ v.clk.now / 86400000000000 + 1 → ∃ u, exec (.swapOverdue el) s = .next u ∧ u.vf = v.vf ∧
        u.x.pair.odDay = v.clk.now / 86400000000000 + 1)

/-- Ownership, takeover and the planned swap (R430, R432, R436 to R444): a lease not renewed releases the flash; OWN_IN found
asserted is cause INTERLOCK; an eligible or forced standby begins a takeover, another withholds it; with ownership it takes the
flash and asks for salvage, and once every frame came, or 700 ms passed, enters RUN; a segment read back becomes current; a swap
is skipped or drains, closes, discards at its time-out, and the partners change roles. -/
def Obligations.OwnershipAndSwap : Prop := ∀ (s : State) (t : TakeIn) (el : Elapse) (seg j : Nat),
  let v := elapse s el
  let own := getF s PAIR_STAT_OWN = 1
  (own → ms (getF s PAIR_CFG_LEASE_MS) ≤ el.ns → ∃ u, exec (.leaseExpiry el) s = .next u ∧ u = releaseOwn v ∧ getF u PAIR_STAT_OWN = 0)
  ∧ (el.ns < ms (getF s PAIR_CFG_LEASE_MS) → exec (.leaseExpiry el) s = .next v)
  ∧ (s.boot.image = true → mode s = mRun → own → driving s = true → s.x.pair.acq = none → getF s HELM_SAFE_CAUSE_CAUSE = 0 → ∃ u,
      exec .interlockDetect s = .next u ∧ mode u = mSafe ∧ getF u HELM_SAFE_CAUSE_CAUSE = 7)
  ∧ (freeStandby s = true → (eligible s = true ∨ s.x.pair.force = true) → ∃ u, exec (.takeover t) s = .next u ∧ u.x.pair.step = 1 ∧
      getF u HELM_MODE_CHANGING = 1 ∧ u.pins = { s.pins with ownIn := false } ∧ mode u = mode s)
  ∧ (freeStandby s = true → eligible s = false → s.x.pair.force = false → exec (.takeover t) s = .next s)
  ∧ (s.x.pair.step = 4 → own → ∃ u w, exec (.takeover t) s = .next u ∧ w = takeFlash s t ∧ u.x.pair.step = 5 ∧ u.x.pair.salv = namedFrames w ∧
      getF u PAIR_STAT_SALVAGE = 1 ∧ u.sent = .pair 11 (0 :: namedFrames w) :: w.sent ∧ u.mem = w.mem)
  ∧ (freeStandby s = true → eligible s = false → s.x.pair.force = false → ∃ u, exec .takeoverWithheld s = .next u ∧
      u.pins = { s.pins with ownIn := false } ∧ u.vf = s.vf ∧ u.x = s.x)
  ∧ (v.x.pair.step = 5 → mode s = mStandby → (v.x.pair.salv = [] ∨ v.x.pair.salvAt + 700000000 ≤ v.clk.refNs) → exec (.salvageEnd el) s = .next
      (becomeActive (reportLost (loseFrames (queueFrames v (namedFrames v)) v.x.pair.salv) (v.x.pair.lost ++ v.x.pair.salv)) 1))
  ∧ (mode s ≠ mStandby → exec (.salvageEnd el) s = .next v)
  ∧ (v.x.pair.step = 5 → v.x.pair.salv ≠ [] → v.clk.refNs < v.x.pair.salvAt + 700000000 → exec (.salvageEnd el) s = .next v)
  ∧ (seg ∈ s.map.toLoad → ∃ u, exec (.mapSegmentLoad seg) s = .next u ∧ u.map.toLoad = srem seg s.map.toLoad ∧
      (srem seg s.map.toLoad = [] → getF u PAIR_STAT_MAPLOAD = 0) ∧
      (threadsWhere s (fun _ x => x.why = .mapmiss) = [] → RegsKept [PAIR_STAT_MAPLOAD] s u))
  ∧ (seg ∉ s.map.toLoad → exec (.mapSegmentLoad seg) s = .next s)
  ∧ (inPair s = true → isActive s = true → getF s PAIR_SWAPAT_AT ≠ 0 → getF s PAIR_SWAPAT_AT ≤ v.clk.now →
      exec (.swapatReached el) s = .next (swapDue (setF v PAIR_SWAPAT_AT 0)))
  ∧ (eligible s = false → swapDue s = event (logEv s 13 3 []) 4)
  ∧ (eligible s = true → mode s = mRun → s.x.change = none → s.x.safing = none → ∃ u, u = swapDue s ∧ u.x.change = some ⟨6, 9998, 1⟩ ∧
      getF u PAIR_STAT_SWAPPING = 1 ∧ u.sent = .pair 12 [0, s.map.jseq] :: s.sent)
  ∧ (swapAt s 1 = true → wbUsed s ≤ getF s PAIR_CFG_SWWB_MIB → ∃ u, exec .swapBufferDrained s = .next u ∧ u.d = { s.d with closed := true } ∧
      u.x.change = some ⟨6, 9998, 2⟩ ∧ u.x.pair.stepAt = s.clk.refNs)
  ∧ (swapAt s 1 = true → getF s PAIR_CFG_SWWB_MIB < wbUsed s → exec .swapBufferDrained s = .next s)
  ∧ (swapAt v 2 = true → v.x.pair.stepAt + ms (getF s PAIR_CFG_SWDRAIN_MS) ≤ v.clk.refNs →
      exec (.swapDrainTimeout el) s = .next (discardAll v 9998 0x43 1))
  ∧ (∀ k, s.x.change = some k → k.kind = 6 → k.step = 2 → swapFlushed s = true → ∃ u, exec .requestedChangeDrained s = .next u ∧
      mode u = mStandby ∧ getF u PAIR_CFG_ROLE = 1 ∧ u.mem.dram = [] ∧ u.x.change = none ∧ getF u PAIR_STAT_SWAPPING = 0)
  ∧ (mirrorHere s = true → s.x.pair.step = 0 → ∃ u, exec (.pairSwap false j t) s = .next u ∧ getF u PAIR_STAT_SWAPPING = 1 ∧
      RegsKept [PAIR_STAT_SWAPPING] s u)
  ∧ (mirrorHere s = true → s.x.pair.step = 0 → getF s PAIR_STAT_SWAPPING = 1 → ∃ u, exec (.pairSwap true j t) s = .next u ∧
      u.x.pair.step = 6 ∧ u.x.pair.pjseq = j ∧ getF u HELM_MODE_CHANGING = 1)
  ∧ (s.x.pair.step = 8 → own → exec (.pairSwap true j t) s = .next (becomeActive (takeFlash s t) 2))

/-- The cascade (R446 to R452): a part arrives at a position and its thread starts; its end reaches the master; a unit on two
positions commits when each is READY, by an intent and GO, or is abandoned; an abort discards the part; a silent position's
parts end; an admin change ends its wait; links go down and come up with the capacities of the positions. -/
def Obligations.Cascade : Prop := ∀ (s : State) (c off tot block u pos n : Nat) (el : Elapse) (lcaps silent : List Nat) (r : JRec),
  let v := elapse s el
  let master := getF s CAS_STAT_MASTER = 1
  let it := s.keep.intents.find? fun x => x.1 = c && x.2 % 64 = u
  (subordinate s = true → isHost c = true → (th s c).st = .idle → ∃ m, exec (.cascadePartReceive c off tot block) s = .next m ∧ (th m c).st = .armed ∧
      (th m c).cut = none ∧ (th m c).units = 0 ∧ cx m c = { cx s c with
        seq := ((cx s c).seq + 1) % 2 ^ 16, tag := bits block 16 16, last := 1, port := 0, portGone := false, late := false, owed := owedNow s block, owedN := (owedNow s block).length, block := block, commit := !(partsOf s c).isEmpty && (cx s c).commit } ∧
      mget none m.x.cas.here c = some (off + 2 ^ 16 * tot) ∧ ThreadsKept c s m ∧ ContextsKept c s m ∧ m.sent = s.sent)
  ∧ (subordinate s = false → exec (.cascadePartReceive c off tot block) s = .next s)
  ∧ (∀ e w, pos = s.boot.cas → isHost c = true → mget none s.x.cas.here c = some w → (th s c).ending = some e → (th s c).st = .done → mustWait s c = false →
      flag s CAS_STAT_MASTER = false → (s.keep.held.any fun h => h.1 = c) = false → ∃ m, exec (.cascadePartEnd c pos off 0 0 none 0) s = .next m ∧ (th m c).st = .idle ∧ (th m c).ending = none ∧
        .cascade 0 5 ([c, pos, w % 2 ^ 16, e.cls, e.detail, resultOf (cleanUp s c) c e] ++ e.offset.toList) ∈ m.sent)
  ∧ (∀ res, pos ≠ s.boot.cas → master → (∃ x ∈ partsOf s c, x.pos = pos ∧ x.off = off ∧ x.sent = true ∧ x.done = none) →
      ∃ m w, exec (.cascadePartEnd c pos off 0 0 none res) s = .next m ∧ m = joinParts (sendParts (abandonUnits w c) c) c ∧
        (∀ x ∈ partsOf w c, x.pos = pos → x.off = off → x.sent = true → x.done ≠ none))
  ∧ (master → pos < 4 → u < 64 → it ≠ none → ∃ m, exec (.cascadeReady c u pos false) s = .next m ∧ m = sendGo (hearFrom s pos) c u (2 ^ pos) 3)
  ∧ (master → pos < 4 → u < 64 → it = none → unitParts (hearFrom s pos) c u = [] → partsOf (hearFrom s pos) c = [] →
      exec (.cascadeReady c u pos false) s = .next (sendGo (setParts (hearFrom s pos) c []) c u (2 ^ pos) 4))
  ∧ (∀ x y, master → pos < 4 → u < 64 → it = none → partsOf s c = [x, y] → unitParts s c u = [x, y] → x.pos = pos → y.pos ≠ pos →
      u ∈ y.ready → ∃ m, exec (.cascadeReady c u pos false) s = .next m ∧
        m.keep.intents = s.keep.intents ++ [(c, u + 64 * putBits (putBits 0 pos 1 1) y.pos 1 1)] ∧ (pos ≠ s.boot.cas → .cascade pos 3 [c, u] ∈ m.sent))
  ∧ (master → pos < 4 → u < 64 → s.keep.intents = [(c, u + 64 * 2 ^ pos)] → ∃ m, exec (.cascadeReady c u pos true) s = .next m ∧ m.keep.intents = [])
  ∧ (∀ x b w, heldRec s c u = some r → isActive s = true → heldRoom s c u r = true → flag s CAS_STAT_MASTER = false →
      placeRec (unheld s c u) r (2 ^ 65 + 64 * c + u) = (x, b, w) →
      exec (.cascadeGo c u) s = .next (send (if b then w else wakeCommit w x) (.cascade 0 3 [c, u, s.boot.cas])))
  ∧ (heldRec s c u = none → exec (.cascadeGo c u) s = .next s ∧ exec (.cascadeAbandon c u false) s = .next s)
  ∧ (partHere s c = true → (cx s c).commit = false → exec (.cascadeAbandon c u true) s = .next (discard s c 0x40 0 none))
  ∧ (heldRec s c u = some r → it = none → (inFlight s c = false ∨ partHere s c = false) → ∃ m, exec (.cascadeAbandon c u false) s = .next m ∧
      heldRec m c u = none ∧ m.thr = s.thr)
  ∧ (heldRec s c u = some r → it = none → inFlight s c = true → partHere s c = true → ∃ m, exec (.cascadeAbandon c u false) s = .next m ∧
      heldRec m c u = none ∧ (th m c).st = .done ∧ (th m c).ending = some ⟨0, 0, none, (th s c).units⟩)
  ∧ (master → pos < 4 → pos ≠ s.boot.cas → ms (getF s CAS_CFG_TMO_MS) ≤ el.ns → s.x.cas.parts = [] → ∃ m,
      exec (.positionTimeout pos false el) s = .next m ∧ getF m CAS_STAT_UP = putBits (getF s CAS_STAT_UP) pos 1 0 % 2 ^ CAS_STAT_UP.w ∧
      RegsKept [CAS_STAT_UP] v m)
  ∧ (master → pos < 4 → pos ≠ s.boot.cas → s.x.cas.parts = [] → exec (.positionTimeout pos true el) s = .next v)
  ∧ (∀ x taken, master → pos < 4 → pos ≠ s.boot.cas → (taken = true ∨ ms (getF s CAS_CFG_TMO_MS) ≤ el.ns) → s.x.cas.parts = [(c, [x])] →
      x.pos = pos → x.done = none → x.ready = [] → (cx s c).abPend = false → (th s c).cut = none → ∃ m g,
      exec (.positionTimeout pos taken el) s = .next m ∧ (th m c).st = .done ∧ (th m c).ending = some ⟨0x43, 1, none, g⟩ ∧ partsOf m c = [])
  ∧ (v.x.cas.wait ≠ [] → ∃ m, exec (.cascadeAdminTimeout [] el) s = .next m ∧ m.x.cas.wait = [] ∧ m.trigs = v.trigs)
  ∧ (silent ≠ [] → v.clk.refNs < v.x.cas.waitAt + 100000000 → exec (.cascadeAdminTimeout silent el) s = .next v)
  ∧ (s.boot.casEn = true → s.boot.image = true → n < 2 → ∃ m, exec (.cascadeLinkDown n) s = .next m ∧ RegsKept [CAS_STAT_PORTS] s m ∧
      getF m CAS_STAT_PORTS = putBits (getF s CAS_STAT_PORTS) n 1 0 % 2 ^ CAS_STAT_PORTS.w)
  ∧ (s.boot.casEn = true → s.boot.image = true → n < 2 → lcaps.length = casN s → ∃ m, exec (.cascadeLinkUp n lcaps) s = .next m ∧
      m = showPositions (setF s CAS_STAT_PORTS (putBits (getF s CAS_STAT_PORTS) n 1 1)) lcaps ∧ m.x = s.x)

/-- The image store (R462 to R465, R471, R472, R475, R476): a submission queues a descriptor; one that starts runs or ends with
the first status that fails; READ, PROGRAM and ERASE touch the buffer, the words or the sector they name and no other byte; a
time-out leaves one sector undefined; protection only grows; an intake silent for 10 s is abandoned; the notices of an
activation make the image due, refuse, or restart. -/
def Obligations.Images : Prop := ∀ (s : State) (n k v go ver : Nat) (el : Elapse) (desc buf junk : List Byte),
  let w := elapse s el
  let stat (u : State) (x : Nat) := descStatus u n = x ∧ bit (getF u IMG_QDONE_DONE) n = true ∧ (∀ q ∈ u.x.img.queue, q.n ≠ n)
  (regOk s 15 = true → 24 ≤ n → n < 32 → descStatus s n ≠ 1 → descStatus s n ≠ 2 → ∃ u q, exec (.imgQgo (2 ^ n) false desc buf) s = .next u ∧
      descStatus u n = 1 ∧ u.x.img.queue = s.x.img.queue ++ [q] ∧ q.n = n ∧ q.running = false ∧ u = { s with x := u.x })
  ∧ ((∀ m, 24 ≤ m → m < 32 → bit go m = false) → exec (.imgQgo go false desc buf) s = .next s)
  ∧ (intakeRuns s = true → n < 24 → descStatus (helmGo s 0 desc buf) n = 0 → ∃ u, exec (.imgQgo (2 ^ n) true desc buf) s = .next u ∧
      descStatus u n = 1 ∧ u = { s with x := u.x })
  ∧ (intakeRuns s = false → exec (.imgQgo go true desc buf) s = .next s)
  ∧ (mayStart s n = none → exec (.descriptorStart n) s = .next s)
  ∧ (∀ q st, n < 32 → mayStart s n = some q → descCheck s q = some st → ∃ u, exec (.descriptorStart n) s = .next u ∧ stat u st ∧ u.store = s.store)
  ∧ (∀ q, mayStart s n = some q → descCheck s q = none → ∃ u, exec (.descriptorStart n) s = .next u ∧ descStatus u n = 2 ∧
      (∃ r ∈ u.x.img.queue, r.n = n ∧ r.running = true ∧ r.start = s.clk.refNs) ∧ u = { s with x := u.x })
  ∧ (∀ q, n < 32 → descRuns s n = some q → q.op = 1 → ∃ u, exec (.descriptorEnd n) s = .next u ∧ stat u 0x10 ∧ u.store = s.store ∧
      rdBytes u.x.img.xbuf q.buf (8 * q.count) = storeRd s q.addr (8 * q.count))
  ∧ (∀ q, n < 32 → descRuns s n = some q → q.op = 2 → ∃ u, exec (.descriptorEnd n) s = .next u ∧ stat u 0x10 ∧ u.x.img.xbuf = s.x.img.xbuf ∧
      (∀ a, a < q.addr ∨ q.addr + 8 * q.count ≤ a → storeByte u a = storeByte s a) ∧
      (256 * 4096 ≤ q.addr → storeRd u q.addr (8 * q.count) = rdBytes s.x.img.xbuf q.buf (8 * q.count)))
  ∧ (∀ q, n < 32 → descRuns s n = some q → q.op = 3 → ∃ u, exec (.descriptorEnd n) s = .next u ∧ stat u 0x10 ∧ u.x.img.xbuf = s.x.img.xbuf ∧
      (∀ a, a / 4096 ≠ q.addr / 4096 → storeByte u a = storeByte s a) ∧
      (∀ a, 256 ≤ a / 4096 → a / 4096 = q.addr / 4096 → storeByte u a = 0xFF))
  ∧ (descRuns s n = none → exec (.descriptorEnd n) s = .next s ∧ exec (.descriptorTimeout n junk el) s = .next w)
  ∧ (∀ q, n < 32 → descRuns s n = some q → 3 * descMax q ≤ 2 * (w.clk.refNs - q.start) → ∃ u, exec (.descriptorTimeout n junk el) s = .next u ∧
      stat u 0x15 ∧ (∀ a, a / 4096 ≠ q.addr / 4096 → storeByte u a = storeByte s a) ∧ (q.op = 1 → u.store = s.store) ∧
      getF u IMG_ERR_TIMEOUT = min (getF s IMG_ERR_TIMEOUT + 1) (2 ^ IMG_ERR_TIMEOUT.w - 1) % 2 ^ IMG_ERR_TIMEOUT.w)
  ∧ (∀ q, descRuns s n = some q → 2 * (w.clk.refNs - q.start) < 3 * descMax q → exec (.descriptorTimeout n junk el) s = .next w)
  ∧ (regOk s 15 = true → k < 1024 → ∃ u, exec (.imgWpWrite k v) s = .next u ∧ getF u (IMG_WP_WP k) = (getF s (IMG_WP_WP k) ||| v % 2 ^ 64) ∧
      RegsKept [IMG_WP_WP k] s u ∧ u = { s with vf := u.vf })
  ∧ (s.x.img.intake ≠ none → 10000000000 ≤ w.clk.refNs - s.x.img.frameAt → ∃ u, exec (.intakeTimeout el) s = .next u ∧ u.x.img.intake = none ∧
      getF u IMG_INTAKE_RESULT = 0x21 ∧ getF u SVC_STAT_INTAKE = 0 ∧ u.store = s.store)
  ∧ (w.clk.refNs - s.x.img.frameAt < 10000000000 → exec (.intakeTimeout el) s = .next w)
  ∧ (noticeIn s 3 = some (1, ver) → s.boot.pairEn = true → mode s = mStandby → stagedOk s ver = true → ∃ u, exec (.activationNotice 3) s = .next u ∧
      getF u IMG_STAGE_DUE = 1 ∧ getF u IMG_ACT_RESULT = 2 ∧ u.x.pair.actv = 3 ∧ (box u 3).full = false ∧ (box u 3).ackCode = 0 ∧ mode u = mStandby)
  ∧ (noticeIn s 3 = some (1, ver) → s.boot.pairEn = true → mode s = mStandby → stagedOk s ver = false →
      exec (.activationNotice 3) s = .next (ackBox (takeBox s 3) 3 1 (helmId s)))
  ∧ (noticeIn s 3 = none → exec (.activationNotice 3) s = .next s)
  ∧ (s.x.pair.actv = 1 → mayRestart s = true → (box s 51).ackV = true → (box s 51).ackCode = 0 → ∃ u, exec (.activationAnswer el) s = .next u ∧
      u = markFired (dueRestart (setActv w 2)) ∧ getF u IMG_STAGE_DUE = 1 ∧ getF u HELM_MODE_CHANGING = 1)
  ∧ (s.x.pair.actv = 1 → mayRestart s = true → ((box s 51).ackV = true ∧ (box s 51).ackCode ≠ 0 ∨ (box s 51).ackV = false ∧ s.x.pair.actvAt + 1000000000 ≤ w.clk.refNs) →
      ∃ u, exec (.activationAnswer el) s = .next u ∧ u.x.pair.actv = 0 ∧ getF u IMG_ACT_RESULT = 10 ∧ getF u IMG_STAGE_DUE = getF s IMG_STAGE_DUE)
  ∧ (s.x.pair.actv = 1 → (box s 51).ackV = false → w.clk.refNs < s.x.pair.actvAt + 1000000000 → exec (.activationAnswer el) s = .next w)
  ∧ (4 ≤ n → noticeIn s 3 = some (2, ver) → isActive s = true → mayRestart s = true → s.x.pair.actv = 3 → getF s IMG_STAGE_DUE = 1 → ∃ u,
      exec (.activatedNotice n) s = .next u ∧ u = dueRestart (ackBox (takeBox s 3) 3 0 (helmId s)) ∧ getF u HELM_MODE_CHANGING = 1 ∧
      getF u IMG_STAGE_DUE = 1)
  ∧ (n < 4 → s.x.pair.actv ≠ 20 + n → exec (.activatedNotice n) s = .next s)

/-- The service port (R484, R486 to R490, R495): the status word; a received frame is discarded for want of room, or answered by
the code of the first check that fails, or repeated, or queued; replies are read whole; each type answers as its rules give. -/
def Obligations.ServicePort : Prop := ∀ (s : State) (f : Frame) (rest : List Frame) (b : List Byte) (n off : Nat) (diffs : List (Nat × Nat)),
  let room := b.length ≤ rxFree s ∧ s.x.svc.out.length < 8
  let seq := oLe b 4 2
  let crc := oLe b (b.length - 4) 4
  let good := formatOk b = true ∧ crc32 (b.take (b.length - 4)) = crc
  let fr : Frame := ⟨oLe b 2 1, seq, crc, (b.drop 16).take (oLe b 8 4)⟩
  let due (ty : Nat) := s.x.svc.rx = f :: rest ∧ f.ty = ty ∧ mode s ≠ mOff ∧ mode s ≠ mQuench ∧ s.x.svc.out.length < 8
  let served (ty : Nat) := due ty ∧ repeated s f = none
  let t := setSvc s { s.x.svc with rx := rest }
  (mode s ≠ mOff → exec .svcStatus s = .next (send s (.svcOut (leBytes 4 (svcStatus s)))))
  ∧ (mode s ≠ mOff → ¬ room → ∃ u, exec (.svcWriteFrame b) s = .next u ∧ RegsKept [SVC_ERR_OVERFLOW] s u ∧ u = { s with vf := u.vf } ∧
      getF u SVC_ERR_OVERFLOW = min (getF s SVC_ERR_OVERFLOW + 1) (2 ^ SVC_ERR_OVERFLOW.w - 1) % 2 ^ SVC_ERR_OVERFLOW.w)
  ∧ (mode s ≠ mOff → room → formatOk b = false → ∃ u, exec (.svcWriteFrame b) s = .next u ∧ u.x.svc.out = s.x.svc.out ++ [frameOf 0x83 seq (ackPay 2 0)] ∧
      u.x.svc.rx = s.x.svc.rx ∧ getF u SVC_ERR_FORMAT = min (getF s SVC_ERR_FORMAT + 1) (2 ^ SVC_ERR_FORMAT.w - 1) % 2 ^ SVC_ERR_FORMAT.w)
  ∧ (mode s ≠ mOff → room → formatOk b = true → crc32 (b.take (b.length - 4)) ≠ crc → ∃ u, exec (.svcWriteFrame b) s = .next u ∧
      u.x.svc.out = s.x.svc.out ++ [frameOf 0x83 seq (ackPay 1 0)] ∧ u.x.svc.rx = s.x.svc.rx ∧
      getF u SVC_ERR_CRC = min (getF s SVC_ERR_CRC + 1) (2 ^ SVC_ERR_CRC.w - 1) % 2 ^ SVC_ERR_CRC.w)
  ∧ (mode s = mQuench → room → good → ∃ u, exec (.svcWriteFrame b) s = .next u ∧ u.x.svc.out = s.x.svc.out ++ [frameOf 0x83 seq (ackPay 4 6)] ∧
      u.x.svc.rx = s.x.svc.rx)
  ∧ (mode s ≠ mOff → mode s ≠ mQuench → s.boot.image = false → romServes fr = false → room → good → ∃ u, exec (.svcWriteFrame b) s = .next u ∧
      u.x.svc.out = s.x.svc.out ++ [frameOf 0x83 seq (ackPay 8 0)] ∧ u.x.svc.rx = s.x.svc.rx)
  ∧ (mode s ≠ mOff → mode s ≠ mQuench → (s.boot.image = true ∨ romServes fr = true) → room → good → s.x.svc.last = none →
      exec (.svcWriteFrame b) s = .next (setSvc s { s.x.svc with rx := s.x.svc.rx ++ [fr] }))
  ∧ (∀ r, mode s ≠ mOff → mode s ≠ mQuench → (s.boot.image = true ∨ romServes fr = true) → room → good → s.x.svc.last = some (seq, crc, r) →
      exec (.svcWriteFrame b) s = .next (queueReply s r))
  ∧ (mode s ≠ mOff → s.x.svc.out = [] → exec (.svcReadFrame n) s = .next (send s (.svcOut (List.replicate n 0))))
  ∧ (∀ h l, mode s ≠ mOff → s.x.svc.out = h :: l → ∃ u, exec (.svcReadFrame n) s = .next u ∧ u.sent = .svcOut (padTo 0 n h) :: s.sent ∧
      u.x.svc.out = (if h.length ≤ n then l else h :: l))
  ∧ (∀ r, s.x.svc.last = some (f.seq, f.crc, r) → (due 1 → exec .cmd s = .next (queueReply t r)) ∧ (due 2 → exec .regRd s = .next (queueReply t r)) ∧
      (due 3 → exec .regWr s = .next (queueReply t r)) ∧ (due 4 → exec .mbxSend s = .next (queueReply t r)) ∧
      (due 5 → exec .mbxRecv s = .next (queueReply t r)) ∧ (due 6 → exec .mbxAck s = .next (queueReply t r)) ∧
      (due 7 → exec (.imgData diffs) s = .next (queueReply t r)) ∧ (due 8 → exec .imgEnd s = .next (queueReply t r)))
  ∧ (served 7 → intakeBusy s = true → intakeFailed s = false → ∃ u, exec (.imgData diffs) s = .next u ∧ u.store = s.store ∧
      getF u IMG_INTAKE_RESULT = 0x22 ∧ u.x.svc.out = s.x.svc.out ++ [frameOf 0x83 f.seq (ackPay 7 0x22)])
  ∧ (served 1 → s.x.svc.cmd ≠ none → ∃ u, exec .cmd s = .next u ∧ u.x.svc.out = s.x.svc.out ++ [frameOf 0x83 f.seq (ackPay 4 0xFF)] ∧
      u.x.svc.cmd = s.x.svc.cmd)
  ∧ (served 1 → s.x.svc.cmd = none → mode s ≠ mBanked → 0x80 ≤ leNat (f.pay.take 64) % 256 → leNat (f.pay.take 64) % 256 ≤ 0x8F → ∃ u r,
      exec .cmd s = .next u ∧ u.x.svc.cmd = some f ∧ getF u SVC_STAT_SEQ = (getF s SVC_STAT_SEQ + 1) % 2 ^ SVC_STAT_SEQ.w ∧
      u.d.helm = s.d.helm ++ [r] ∧ r.src = 9999 ∧ r.block = leNat (f.pay.take 64) ∧ u.x.svc.out = s.x.svc.out)
  ∧ (served 1 → s.x.svc.cmd = none → mode s ≠ mBanked → leNat (f.pay.take 64) % 256 < 0x80 → ∃ u r, exec .cmd s = .next u ∧ u.x.svc.cmd = none ∧
      u.x.svc.out = s.x.svc.out ++ [r] ∧ u.d = s.d)
  ∧ (served 2 → rangeOk (regRange f).1 (regRange f).2 = false → ∃ u, exec .regRd s = .next u ∧
      u.x.svc.out = s.x.svc.out ++ [frameOf 0x83 f.seq (ackPay 2 0)])
  ∧ (served 2 → regRange f = (off, 1) → rangeOk off 1 = true →
      exec .regRd s = .next (replyTo (readEffect t off 8) f 0x82 (leBytes 8 (readWord t off))))
  ∧ (served 3 → rangeOk (regRange f).1 (regRange f).2 = false → ∃ u, exec .regWr s = .next u ∧
      u.x.svc.out = s.x.svc.out ++ [frameOf 0x83 f.seq (ackPay 2 0)])
  ∧ (served 3 → regRange f = (off, 1) → rangeOk off 1 = true → getF s HELM_ADMIN_SRC = 0 → famOf off ≠ 18 → ∃ u, exec .regWr s = .next u ∧
      u.x.svc.out = s.x.svc.out ++ [frameOf 0x83 f.seq (ackPay 5 0)] ∧ RegsKept [SVC_LAST_CODE] s u)
  ∧ (served 3 → regRange f = (off, 1) → rangeOk off 1 = true → (getF s HELM_ADMIN_SRC = 1 ∨ famOf off = 18) →
      exec .regWr s = .next (replyTo (writeWord t off (oLe f.pay 8 8)) f 0x83 (ackPay 0 0)))
  ∧ (served 4 → oLe f.pay 0 1 ≤ 63 →
      exec .mbxSend s = .next (replyTo (sendMsg t (oLe f.pay 0 1) (svcId t) srcMbx (f.pay.drop 8)) f 0x83 (ackPay 0 0)))
  ∧ (served 5 → (box s 2).full = true → ∃ u, exec .mbxRecv s = .next u ∧ (box u 2).full = false ∧
      u.x.svc.out = s.x.svc.out ++ [frameOf 0x85 f.seq (msgBytes (box s 2))])
  ∧ (served 5 → (box s 2).full = false → ∃ u, exec .mbxRecv s = .next u ∧ u.d = s.d ∧
      u.x.svc.out = s.x.svc.out ++ [frameOf 0x83 f.seq (ackPay 6 0)])
  ∧ (served 6 → oLe f.pay 0 2 < 0xFF00 → ∃ u, exec .mbxAck s = .next u ∧ (box u 2).ackV = true ∧ (box u 2).ackCode = oLe f.pay 0 2 ∧
      (box u 2).ackBy = svcId s)
  ∧ (served 7 → intakeFailed s = false → intakeBusy s = false →
      exec (.imgData diffs) s = .next (replyTo (intakeData t f.pay diffs) f 0x83 (ackPay 0 0)))
  ∧ (served 7 → intakeFailed s = true → s.x.img.intake ≠ none → ∃ u, exec (.imgData diffs) s = .next u ∧ u.store = s.store ∧
      u.x.svc.out = s.x.svc.out ++ [frameOf 0x83 f.seq (ackPay 7 (getF s IMG_INTAKE_RESULT))])
  ∧ (∀ i, served 8 → s.x.img.intake = some i → i.failed = false → i.phase = 5 → ∃ u, exec .imgEnd s = .next u ∧ u.x.img.intake = none ∧
      getF u IMG_STAGE_STATE = 2 ∧ getF u IMG_STAGE_VER_VERSION = i.ver % 2 ^ IMG_STAGE_VER_VERSION.w ∧ getF u IMG_STAGE_OWNPACK = 1 ∧
      getF u IMG_INTAKE_RESULT = 2 ∧ u.x.svc.out = s.x.svc.out ++ [frameOf 0x83 f.seq (ackPay 0 2)])
  ∧ (∀ i, served 8 → s.x.img.intake = some i → i.failed = true → getF s IMG_INTAKE_RESULT ≠ 2 → ∃ u, exec .imgEnd s = .next u ∧ u.x.img.intake = none ∧
      u.store = s.store ∧ u.x.svc.out = s.x.svc.out ++ [frameOf 0x83 f.seq (ackPay 7 (getF s IMG_INTAKE_RESULT))])

/-- Link tests and the TAP (R504 to R507): a start runs or is refused and counts from zero; the checker counts while it holds
lock and gives it up after 64 errors; a run ends at STOP or after DUR_MS; an instruction other than BYPASS, IDCODE and
SAMPLE/PRELOAD holds the core die in reset, having released the flash. -/
def Obligations.TestsAndTap : Prop := ∀ (s : State) (b e : Nat) (el : Elapse) (own : Bool),
  let w := elapse s el
  let cnt (f : Fld) (d : Nat) := min (getF s f + d) (2 ^ f.w - 1) % 2 ^ f.w
  let held (u : State) := mode u = mOff ∧ (mode s ≠ mOff → getF u PAIR_STAT_OWN = 0)
  (regOk s 16 = true → getF s TST_STAT_RUN = 0 → testMode s (getF s TST_SEL_UNIT) (getF s TST_CTL_MODE) = true →
      testDur s (getF s TST_SEL_UNIT) (getF s TST_CTL_MODE) (getF s TST_CTL_DUR_MS) = true → ∃ u, exec .tstStart s = .next u ∧
      getF u TST_STAT_RUN = 1 ∧ getF u TST_STAT_LOCK = 0 ∧ getF u TST_STAT_RELOCK = 0 ∧ getF u TST_ERR_ERRORS = 0 ∧ getF u TST_BITS_BITS = 0 ∧
      u.x = { s.x with tst := some ⟨s.clk.refNs, getF s TST_SEL_UNIT⟩ } ∧
      RegsKept [TST_STAT_RUN, TST_STAT_LOCK, TST_STAT_RELOCK, TST_ERR_ERRORS, TST_BITS_BITS] s u)
  ∧ (regOk s 16 = true → (getF s TST_STAT_RUN = 1 ∨ testMode s (getF s TST_SEL_UNIT) (getF s TST_CTL_MODE) = false) → ∃ u, exec .tstStart s = .next u ∧
      getF u TST_STAT_REFUSED = 1 ∧ RegsKept [TST_STAT_REFUSED] s u ∧ u = { s with vf := u.vf })
  ∧ (regOk s 16 = true → getF s TST_STAT_RUN = 1 → getF s TST_STAT_LOCK = 1 → ∃ u, exec (.tstStop b e) s = .next u ∧ getF u TST_STAT_RUN = 0 ∧
      getF u TST_BITS_BITS = cnt TST_BITS_BITS b ∧ getF u TST_ERR_ERRORS = cnt TST_ERR_ERRORS e ∧ u.x = { s.x with tst := none } ∧
      RegsKept [TST_STAT_RUN, TST_BITS_BITS, TST_ERR_ERRORS] s u)
  ∧ (regOk s 16 = true → getF s TST_STAT_RUN = 1 → getF s TST_STAT_LOCK = 0 → ∃ u, exec (.tstStop b e) s = .next u ∧ getF u TST_STAT_RUN = 0 ∧
      RegsKept [TST_STAT_RUN] s u)
  ∧ (∀ x, s.x.tst = some x → getF s TST_STAT_RUN = 1 → getF s TST_STAT_LOCK = 1 → getF s TST_CTL_DUR_MS ≠ 0 →
      x.at_ + ms (getF s TST_CTL_DUR_MS) ≤ w.clk.refNs → ∃ u, exec (.testRunEnd b e el) s = .next u ∧ getF u TST_STAT_RUN = 0 ∧
      getF u TST_STAT_ABORT = getF s TST_STAT_ABORT ∧ getF u TST_BITS_BITS = cnt TST_BITS_BITS b ∧ getF u TST_ERR_ERRORS = cnt TST_ERR_ERRORS e)
  ∧ (∀ x, s.x.tst = some x → w.clk.refNs < x.at_ + ms (getF s TST_CTL_DUR_MS) → exec (.testRunEnd b e el) s = .next w)
  ∧ (getF s TST_STAT_RUN = 1 → ∃ u, exec .checkerLock s = .next u ∧ getF u TST_STAT_LOCK = 1 ∧ RegsKept [TST_STAT_LOCK] s u ∧ u = { s with vf := u.vf })
  ∧ (getF s TST_STAT_RUN = 1 → getF s TST_STAT_LOCK = 1 → 64 ≤ b → 64 ≤ e → ∃ u, exec (.checkerLockLost b e) s = .next u ∧ getF u TST_STAT_LOCK = 0 ∧
      getF u TST_STAT_RELOCK = cnt TST_STAT_RELOCK 1 ∧ getF u TST_BITS_BITS = cnt TST_BITS_BITS b ∧ getF u TST_ERR_ERRORS = cnt TST_ERR_ERRORS e ∧
      getF u TST_STAT_RUN = 1 ∧ u.x = s.x)
  ∧ (e < 64 → exec (.checkerLockLost b e) s = .next s)
  ∧ exec .bypass s = .next { s with tap := 0 }
  ∧ exec .idcode s = .next (send { s with tap := 1 } (.tdo 0xB04A09EB))
  ∧ exec .samplePreload s = .next { s with tap := 2 }
  ∧ exec .tapReset s = .next { s with tap := 1 }
  ∧ (∃ u, exec (.extest own) s = .next u ∧ u.tap = 3 ∧ u.pins.ownIn = own ∧ held u)
  ∧ (∃ u, exec .extestPulse s = .next u ∧ u.tap = 4 ∧ held u)
  ∧ (∃ u, exec .extestTrain s = .next u ∧ u.tap = 5 ∧ held u)
  ∧ (∃ u, exec .clamp s = .next u ∧ u.tap = 6 ∧ held u)
  ∧ (∃ u, exec .highz s = .next u ∧ u.tap = 7 ∧ held u)
end

