-- ==== Sys2Proof/Laws/Maps.lean ====
section
/-! SUPPORT. Sparse maps: what a read gives after a write, and that every operation keeps the canonical form. -/
namespace Sys2Proof.Machine

variable {α : Type}

theorem mget_mdel_same (d : α) (m : NMap α) (i : Nat) : mget d (mdel m i) i = d := by
  induction m with
  | nil => rfl
  | cons e t ih =>
    obtain ⟨k, v⟩ := e
    by_cases h : i = k
    · simpa [mdel, h] using h ▸ ih
    · simpa [mdel, mget, h] using ih

theorem mget_mdel_other (d : α) (m : NMap α) {i j : Nat} (h : j ≠ i) : mget d (mdel m i) j = mget d m j := by
  induction m with
  | nil => rfl
  | cons e t ih =>
    obtain ⟨k, v⟩ := e
    by_cases hk : i = k
    · subst hk; simpa [mdel, mget, h] using ih
    · by_cases hj : j = k
      · simp [mdel, mget, hk, hj]
      · simpa [mdel, mget, hk, hj] using ih

theorem mget_mput_same (d : α) (m : NMap α) (i : Nat) (x : α) : mget d (mput m i x) i = x := by
  induction m with
  | nil => simp [mput, mget]
  | cons e t ih =>
    obtain ⟨k, v⟩ := e
    simp only [mput]
    split
    · simp [mget]
    · split
      · simp [mget]
      · rename_i _ hk; simpa [mget, hk] using ih

theorem mget_mput_other (d : α) (m : NMap α) {i j : Nat} (x : α) (h : j ≠ i) : mget d (mput m i x) j = mget d m j := by
  induction m with
  | nil => simp [mput, mget, h]
  | cons e t ih =>
    obtain ⟨k, v⟩ := e
    simp only [mput]
    split
    · simp [mget, h]
    · split
      · rename_i _ hk; subst hk; simp [mget, h]
      · by_cases hj : j = k <;> simp [mget, hj, ih]

/-- A read of the key just written gives what was written. -/
@[simp] theorem mget_mset_same [DecidableEq α] (d : α) (m : NMap α) (i : Nat) (x : α) : mget d (mset d m i x) i = x := by
  unfold mset
  split
  · rename_i h; rw [mget_mdel_same, h]
  · exact mget_mput_same d m i x

/-- A write of one key leaves every other key alone. -/
theorem mget_mset_other [DecidableEq α] (d : α) (m : NMap α) {i j : Nat} (x : α) (h : j ≠ i) {d' : α} :
    mget d' (mset d m i x) j = mget d' m j := by
  unfold mset
  split
  · exact mget_mdel_other d' m h
  · exact mget_mput_other d' m x h

theorem mget_mset [DecidableEq α] (d : α) (m : NMap α) (i j : Nat) (x : α) :
    mget d (mset d m i x) j = if j = i then x else mget d m j := by
  split
  · rename_i h; rw [h, mget_mset_same]
  · rename_i h; exact mget_mset_other d m x h

theorem mem_mdel {m : NMap α} {i : Nat} {e : Nat × α} (h : e ∈ mdel m i) : e ∈ m := by
  induction m with
  | nil => exact h
  | cons a t ih =>
    obtain ⟨k, v⟩ := a
    simp only [mdel] at h
    split at h
    · exact List.mem_cons_of_mem _ (ih h)
    · rcases List.mem_cons.1 h with rfl | h
      · exact List.mem_cons_self
      · exact List.mem_cons_of_mem _ (ih h)

theorem mem_mput {m : NMap α} {i : Nat} {x : α} {e : Nat × α} (h : e ∈ mput m i x) : e = (i, x) ∨ e ∈ m := by
  induction m with
  | nil => exact .inl (by simpa [mput] using h)
  | cons a t ih =>
    obtain ⟨k, v⟩ := a
    simp only [mput] at h
    split at h
    · simpa using h
    · split at h
      · rcases List.mem_cons.1 h with h | h
        · exact .inl h
        · exact .inr (List.mem_cons_of_mem _ h)
      · rcases List.mem_cons.1 h with rfl | h
        · exact .inr List.mem_cons_self
        · exact (ih h).imp id (List.mem_cons_of_mem _)

theorem wf_mdel {d : α} {m : NMap α} (i : Nat) (h : MapWf d m) : MapWf d (mdel m i) := by
  refine ⟨?_, fun e he => h.2 e (mem_mdel he)⟩
  have h1 := h.1
  clear h
  induction m with
  | nil => exact h1
  | cons a t ih =>
    obtain ⟨k, v⟩ := a
    simp only [List.map_cons, List.pairwise_cons] at h1
    simp only [mdel]
    split
    · exact ih h1.2
    · simp only [List.map_cons, List.pairwise_cons]
      refine ⟨fun b hb => ?_, ih h1.2⟩
      obtain ⟨e, he, rfl⟩ := List.mem_map.1 hb
      exact h1.1 _ (List.mem_map.2 ⟨e, mem_mdel he, rfl⟩)

theorem wf_mput {d : α} {m : NMap α} (i : Nat) {x : α} (hx : x ≠ d) (h : MapWf d m) : MapWf d (mput m i x) := by
  refine ⟨?_, fun e he => ?_⟩
  · have h1 := h.1
    clear h
    induction m with
    | nil => simp [mput]
    | cons a t ih =>
      obtain ⟨k, v⟩ := a
      have h1' := h1
      simp only [List.map_cons, List.pairwise_cons] at h1
      simp only [mput]
      split
      · rename_i hk
        simp only [List.map_cons, List.pairwise_cons]
        refine ⟨fun b hb => ?_, ?_⟩
        · rcases List.mem_cons.1 hb with rfl | hb
          · exact hk
          · exact lt_trans hk (h1.1 b hb)
        · exact h1
      · split
        · rename_i _ hk
          subst hk
          simpa using h1
        · rename_i hk hk'
          simp only [List.map_cons, List.pairwise_cons]
          refine ⟨fun b hb => ?_, ih h1.2⟩
          obtain ⟨e, he, rfl⟩ := List.mem_map.1 hb
          rcases mem_mput he with rfl | he
          · show k < i; omega
          · exact h1.1 _ (List.mem_map.2 ⟨e, he, rfl⟩)
  · rcases mem_mput he with rfl | he
    · exact hx
    · exact h.2 e he

/-- A write keeps the canonical form. -/
theorem wf_mset [DecidableEq α] {d : α} {m : NMap α} (i : Nat) (x : α) (h : MapWf d m) : MapWf d (mset d m i x) := by
  unfold mset
  split
  · exact wf_mdel i h
  · rename_i hx; exact wf_mput i hx h

theorem wf_filter {d : α} {m : NMap α} (p : Nat × α → Bool) (h : MapWf d m) : MapWf d (m.filter p) :=
  ⟨h.1.sublist (List.Sublist.map _ (List.filter_sublist (l := m))), fun e he => h.2 e (List.mem_filter.1 he).1⟩

/-- Storing bytes keeps the canonical form. -/
theorem wf_wrBytes {m : NMap Byte} (a : Nat) (l : List Byte) (h : MapWf 0 m) : MapWf 0 (wrBytes m a l) := by
  induction l generalizing m a with
  | nil => exact h
  | cons b t ih => exact ih (a + 1) (wf_mset a b h)

theorem wf_wrLe {m : NMap Byte} (a n v : Nat) (h : MapWf 0 m) : MapWf 0 (wrLe m a n v) := wf_wrBytes a _ h

theorem wf_clrBytes {m : NMap Byte} (a n : Nat) (h : MapWf 0 m) : MapWf 0 (clrBytes m a n) := wf_filter _ h

/-- Two maps in canonical form that read the same at every key are equal. -/
theorem wf_ext {d : α} {m n : NMap α} (hm : MapWf d m) (hn : MapWf d n) (h : ∀ i, mget d m i = mget d n i) : m = n := by
  have low : ∀ {l : NMap α} {i : Nat}, (∀ e ∈ l, i < e.1) → mget d l i = d := by
    intro l i
    induction l with
    | nil => intro _; rfl
    | cons a t ih =>
      intro hl
      have := hl a List.mem_cons_self
      have hne : ¬ i = a.1 := by omega
      obtain ⟨k, v⟩ := a
      simp only [mget]
      rw [if_neg hne]
      exact ih fun e he => hl e (List.mem_cons_of_mem _ he)
  induction m generalizing n with
  | nil =>
    cases n with
    | nil => rfl
    | cons a t =>
      have := h a.1
      obtain ⟨k, v⟩ := a
      exact absurd (by simpa [mget] using this.symm) (hn.2 (k, v) List.mem_cons_self)
  | cons a t ih =>
    obtain ⟨k, v⟩ := a
    cases n with
    | nil => exact absurd (by simpa [mget] using h k) (hm.2 (k, v) List.mem_cons_self)
    | cons b u =>
      obtain ⟨k', v'⟩ := b
      have hp := hm.1; have hq := hn.1
      simp only [List.map_cons, List.pairwise_cons] at hp hq
      have lt_t : ∀ e ∈ t, k < e.1 := fun e he => hp.1 _ (List.mem_map.2 ⟨e, he, rfl⟩)
      have lt_u : ∀ e ∈ u, k' < e.1 := fun e he => hq.1 _ (List.mem_map.2 ⟨e, he, rfl⟩)
      have hk : k = k' := by
        rcases lt_trichotomy k k' with hlt | heq | hgt
        · have h1 := h k
          rw [low (l := (k', v') :: u) (fun e he => by
            rcases List.mem_cons.1 he with rfl | he
            · exact hlt
            · exact lt_trans hlt (lt_u e he))] at h1
          exact absurd (by simpa [mget] using h1) (hm.2 (k, v) List.mem_cons_self)
        · exact heq
        · have h1 := h k'
          rw [low (l := (k, v) :: t) (fun e he => by
            rcases List.mem_cons.1 he with rfl | he
            · exact hgt
            · exact lt_trans hgt (lt_t e he))] at h1
          exact absurd (by simpa [mget] using h1.symm) (hn.2 (k', v') List.mem_cons_self)
      subst hk
      have hv : v = v' := by simpa [mget] using h k
      subst hv
      have htail : t = u := by
        refine ih ⟨hp.2, fun e he => hm.2 e (List.mem_cons_of_mem _ he)⟩
          ⟨hq.2, fun e he => hn.2 e (List.mem_cons_of_mem _ he)⟩ fun i => ?_
        by_cases hi : i = k
        · subst hi; rw [low lt_t, low lt_u]
        · simpa [mget, hi] using h i
      rw [htail]

/-! ### Bytes -/

theorem mget_wrBytes_below (m : NMap Byte) (a b : Nat) (l : List Byte) (h : b < a) : mget 0 (wrBytes m a l) b = mget 0 m b := by
  induction l generalizing m a with
  | nil => rfl
  | cons x t ih =>
    simp only [wrBytes]
    rw [ih _ (a + 1) (by omega), mget_mset_other _ _ _ (by omega)]

theorem mget_wrBytes_above (m : NMap Byte) (a b : Nat) (l : List Byte) (h : a + l.length ≤ b) :
    mget 0 (wrBytes m a l) b = mget 0 m b := by
  induction l generalizing m a with
  | nil => rfl
  | cons x t ih =>
    simp only [List.length_cons] at h
    simp only [wrBytes]
    rw [ih _ (a + 1) (by omega), mget_mset_other _ _ _ (by omega)]

theorem rdBytes_length (m : NMap Byte) (a n : Nat) : (rdBytes m a n).length = n := by
  induction n generalizing a with
  | zero => rfl
  | succ n ih => simp [rdBytes, ih]

/-- Bytes read back are the bytes stored. -/
@[simp] theorem rdBytes_wrBytes (m : NMap Byte) (a : Nat) (l : List Byte) : rdBytes (wrBytes m a l) a l.length = l := by
  induction l generalizing m a with
  | nil => rfl
  | cons x t ih =>
    simp only [wrBytes, List.length_cons, rdBytes]
    rw [mget_wrBytes_below _ _ _ _ (by omega), mget_mset_same, ih]

@[simp] theorem leBytes_length (n v : Nat) : (leBytes n v).length = n := by
  induction n generalizing v with
  | zero => rfl
  | succ n ih => simp [leBytes, ih]

/-- A number survives its own bytes, cut to their width. -/
theorem leNat_leBytes (n v : Nat) : leNat (leBytes n v) = v % 256 ^ n := by
  induction n generalizing v with
  | zero => simp [leBytes, leNat, Nat.mod_one]
  | succ n ih =>
    simp only [leBytes, leNat, ih, BitVec.toNat_ofNat]
    rw [show 256 ^ (n + 1) = 256 * 256 ^ n from by rw [pow_succ, Nat.mul_comm], Nat.mod_mul]

end Sys2Proof.Machine
end

