-- ==== Sys2Proof/Laws/State.lean ====
section
/-! SUPPORT. What each named operation on the state leaves alone, field by field, and what it changes. -/
namespace Sys2Proof.Machine
open Sys2Proof

variable (s : State)

theorem foldl_field {β γ : Type} (p : State → γ) (f : State → β → State) (h : ∀ s b, p (f s b) = p s) (l : List β) (s : State) :
    p (l.foldl f s) = p s := by
  induction l generalizing s with
  | nil => rfl
  | cons b t ih => rw [List.foldl_cons, ih, h]


/-! ### send -/

@[simp] theorem send_vf (m : Msg) : (send s m).vf = s.vf := rfl
@[simp] theorem send_ret (m : Msg) : (send s m).ret = s.ret := rfl
@[simp] theorem send_copyA (m : Msg) : (send s m).copyA = s.copyA := rfl
@[simp] theorem send_copyB (m : Msg) : (send s m).copyB = s.copyB := rfl
@[simp] theorem send_pins (m : Msg) : (send s m).pins = s.pins := rfl
@[simp] theorem send_clk (m : Msg) : (send s m).clk = s.clk := rfl
@[simp] theorem send_boot (m : Msg) : (send s m).boot = s.boot := rfl
@[simp] theorem send_link (m : Msg) : (send s m).link = s.link := rfl
@[simp] theorem send_prog (m : Msg) : (send s m).prog = s.prog := rfl
@[simp] theorem send_ctx (m : Msg) : (send s m).ctx = s.ctx := rfl
@[simp] theorem send_thr (m : Msg) : (send s m).thr = s.thr := rfl
@[simp] theorem send_mem (m : Msg) : (send s m).mem = s.mem := rfl
@[simp] theorem send_buf (m : Msg) : (send s m).buf = s.buf := rfl
@[simp] theorem send_slices (m : Msg) : (send s m).slices = s.slices := rfl
@[simp] theorem send_strides (m : Msg) : (send s m).strides = s.strides := rfl
@[simp] theorem send_map (m : Msg) : (send s m).map = s.map := rfl
@[simp] theorem send_ck (m : Msg) : (send s m).ck = s.ck := rfl
@[simp] theorem send_ch (m : Msg) : (send s m).ch = s.ch := rfl
@[simp] theorem send_md (m : Msg) : (send s m).md = s.md := rfl
@[simp] theorem send_sif (m : Msg) : (send s m).sif = s.sif := rfl
@[simp] theorem send_ring (m : Msg) : (send s m).ring = s.ring := rfl
@[simp] theorem send_trigs (m : Msg) : (send s m).trigs = s.trigs := rfl
@[simp] theorem send_order (m : Msg) : (send s m).order = s.order := rfl
@[simp] theorem send_d (m : Msg) : (send s m).d = s.d := rfl
@[simp] theorem send_rsm (m : Msg) : (send s m).rsm = s.rsm := rfl
@[simp] theorem send_x (m : Msg) : (send s m).x = s.x := rfl
@[simp] theorem send_keep (m : Msg) : (send s m).keep = s.keep := rfl
@[simp] theorem send_store (m : Msg) : (send s m).store = s.store := rfl
@[simp] theorem send_tap (m : Msg) : (send s m).tap = s.tap := rfl
@[simp] theorem send_pending (m : Msg) : (send s m).pending = s.pending := rfl

/-! ### setTh -/

@[simp] theorem setTh_vf (t : Nat) (y : Thread) : (setTh s t y).vf = s.vf := rfl
@[simp] theorem setTh_ret (t : Nat) (y : Thread) : (setTh s t y).ret = s.ret := rfl
@[simp] theorem setTh_copyA (t : Nat) (y : Thread) : (setTh s t y).copyA = s.copyA := rfl
@[simp] theorem setTh_copyB (t : Nat) (y : Thread) : (setTh s t y).copyB = s.copyB := rfl
@[simp] theorem setTh_pins (t : Nat) (y : Thread) : (setTh s t y).pins = s.pins := rfl
@[simp] theorem setTh_clk (t : Nat) (y : Thread) : (setTh s t y).clk = s.clk := rfl
@[simp] theorem setTh_boot (t : Nat) (y : Thread) : (setTh s t y).boot = s.boot := rfl
@[simp] theorem setTh_link (t : Nat) (y : Thread) : (setTh s t y).link = s.link := rfl
@[simp] theorem setTh_prog (t : Nat) (y : Thread) : (setTh s t y).prog = s.prog := rfl
@[simp] theorem setTh_ctx (t : Nat) (y : Thread) : (setTh s t y).ctx = s.ctx := rfl
@[simp] theorem setTh_mem (t : Nat) (y : Thread) : (setTh s t y).mem = s.mem := rfl
@[simp] theorem setTh_buf (t : Nat) (y : Thread) : (setTh s t y).buf = s.buf := rfl
@[simp] theorem setTh_slices (t : Nat) (y : Thread) : (setTh s t y).slices = s.slices := rfl
@[simp] theorem setTh_strides (t : Nat) (y : Thread) : (setTh s t y).strides = s.strides := rfl
@[simp] theorem setTh_map (t : Nat) (y : Thread) : (setTh s t y).map = s.map := rfl
@[simp] theorem setTh_ck (t : Nat) (y : Thread) : (setTh s t y).ck = s.ck := rfl
@[simp] theorem setTh_ch (t : Nat) (y : Thread) : (setTh s t y).ch = s.ch := rfl
@[simp] theorem setTh_md (t : Nat) (y : Thread) : (setTh s t y).md = s.md := rfl
@[simp] theorem setTh_sif (t : Nat) (y : Thread) : (setTh s t y).sif = s.sif := rfl
@[simp] theorem setTh_ring (t : Nat) (y : Thread) : (setTh s t y).ring = s.ring := rfl
@[simp] theorem setTh_trigs (t : Nat) (y : Thread) : (setTh s t y).trigs = s.trigs := rfl
@[simp] theorem setTh_order (t : Nat) (y : Thread) : (setTh s t y).order = s.order := rfl
@[simp] theorem setTh_d (t : Nat) (y : Thread) : (setTh s t y).d = s.d := rfl
@[simp] theorem setTh_rsm (t : Nat) (y : Thread) : (setTh s t y).rsm = s.rsm := rfl
@[simp] theorem setTh_x (t : Nat) (y : Thread) : (setTh s t y).x = s.x := rfl
@[simp] theorem setTh_keep (t : Nat) (y : Thread) : (setTh s t y).keep = s.keep := rfl
@[simp] theorem setTh_store (t : Nat) (y : Thread) : (setTh s t y).store = s.store := rfl
@[simp] theorem setTh_tap (t : Nat) (y : Thread) : (setTh s t y).tap = s.tap := rfl
@[simp] theorem setTh_sent (t : Nat) (y : Thread) : (setTh s t y).sent = s.sent := rfl
@[simp] theorem setTh_pending (t : Nat) (y : Thread) : (setTh s t y).pending = s.pending := rfl

/-! ### modTh -/

@[simp] theorem modTh_vf (t : Nat) (f : Thread → Thread) : (modTh s t f).vf = s.vf := rfl
@[simp] theorem modTh_ret (t : Nat) (f : Thread → Thread) : (modTh s t f).ret = s.ret := rfl
@[simp] theorem modTh_copyA (t : Nat) (f : Thread → Thread) : (modTh s t f).copyA = s.copyA := rfl
@[simp] theorem modTh_copyB (t : Nat) (f : Thread → Thread) : (modTh s t f).copyB = s.copyB := rfl
@[simp] theorem modTh_pins (t : Nat) (f : Thread → Thread) : (modTh s t f).pins = s.pins := rfl
@[simp] theorem modTh_clk (t : Nat) (f : Thread → Thread) : (modTh s t f).clk = s.clk := rfl
@[simp] theorem modTh_boot (t : Nat) (f : Thread → Thread) : (modTh s t f).boot = s.boot := rfl
@[simp] theorem modTh_link (t : Nat) (f : Thread → Thread) : (modTh s t f).link = s.link := rfl
@[simp] theorem modTh_prog (t : Nat) (f : Thread → Thread) : (modTh s t f).prog = s.prog := rfl
@[simp] theorem modTh_ctx (t : Nat) (f : Thread → Thread) : (modTh s t f).ctx = s.ctx := rfl
@[simp] theorem modTh_mem (t : Nat) (f : Thread → Thread) : (modTh s t f).mem = s.mem := rfl
@[simp] theorem modTh_buf (t : Nat) (f : Thread → Thread) : (modTh s t f).buf = s.buf := rfl
@[simp] theorem modTh_slices (t : Nat) (f : Thread → Thread) : (modTh s t f).slices = s.slices := rfl
@[simp] theorem modTh_strides (t : Nat) (f : Thread → Thread) : (modTh s t f).strides = s.strides := rfl
@[simp] theorem modTh_map (t : Nat) (f : Thread → Thread) : (modTh s t f).map = s.map := rfl
@[simp] theorem modTh_ck (t : Nat) (f : Thread → Thread) : (modTh s t f).ck = s.ck := rfl
@[simp] theorem modTh_ch (t : Nat) (f : Thread → Thread) : (modTh s t f).ch = s.ch := rfl
@[simp] theorem modTh_md (t : Nat) (f : Thread → Thread) : (modTh s t f).md = s.md := rfl
@[simp] theorem modTh_sif (t : Nat) (f : Thread → Thread) : (modTh s t f).sif = s.sif := rfl
@[simp] theorem modTh_ring (t : Nat) (f : Thread → Thread) : (modTh s t f).ring = s.ring := rfl
@[simp] theorem modTh_trigs (t : Nat) (f : Thread → Thread) : (modTh s t f).trigs = s.trigs := rfl
@[simp] theorem modTh_order (t : Nat) (f : Thread → Thread) : (modTh s t f).order = s.order := rfl
@[simp] theorem modTh_d (t : Nat) (f : Thread → Thread) : (modTh s t f).d = s.d := rfl
@[simp] theorem modTh_rsm (t : Nat) (f : Thread → Thread) : (modTh s t f).rsm = s.rsm := rfl
@[simp] theorem modTh_x (t : Nat) (f : Thread → Thread) : (modTh s t f).x = s.x := rfl
@[simp] theorem modTh_keep (t : Nat) (f : Thread → Thread) : (modTh s t f).keep = s.keep := rfl
@[simp] theorem modTh_store (t : Nat) (f : Thread → Thread) : (modTh s t f).store = s.store := rfl
@[simp] theorem modTh_tap (t : Nat) (f : Thread → Thread) : (modTh s t f).tap = s.tap := rfl
@[simp] theorem modTh_sent (t : Nat) (f : Thread → Thread) : (modTh s t f).sent = s.sent := rfl
@[simp] theorem modTh_pending (t : Nat) (f : Thread → Thread) : (modTh s t f).pending = s.pending := rfl

/-! ### setCx -/

@[simp] theorem setCx_vf (c : Nat) (y : Ctx) : (setCx s c y).vf = s.vf := rfl
@[simp] theorem setCx_ret (c : Nat) (y : Ctx) : (setCx s c y).ret = s.ret := rfl
@[simp] theorem setCx_copyA (c : Nat) (y : Ctx) : (setCx s c y).copyA = s.copyA := rfl
@[simp] theorem setCx_copyB (c : Nat) (y : Ctx) : (setCx s c y).copyB = s.copyB := rfl
@[simp] theorem setCx_pins (c : Nat) (y : Ctx) : (setCx s c y).pins = s.pins := rfl
@[simp] theorem setCx_clk (c : Nat) (y : Ctx) : (setCx s c y).clk = s.clk := rfl
@[simp] theorem setCx_boot (c : Nat) (y : Ctx) : (setCx s c y).boot = s.boot := rfl
@[simp] theorem setCx_link (c : Nat) (y : Ctx) : (setCx s c y).link = s.link := rfl
@[simp] theorem setCx_prog (c : Nat) (y : Ctx) : (setCx s c y).prog = s.prog := rfl
@[simp] theorem setCx_thr (c : Nat) (y : Ctx) : (setCx s c y).thr = s.thr := rfl
@[simp] theorem setCx_mem (c : Nat) (y : Ctx) : (setCx s c y).mem = s.mem := rfl
@[simp] theorem setCx_buf (c : Nat) (y : Ctx) : (setCx s c y).buf = s.buf := rfl
@[simp] theorem setCx_slices (c : Nat) (y : Ctx) : (setCx s c y).slices = s.slices := rfl
@[simp] theorem setCx_strides (c : Nat) (y : Ctx) : (setCx s c y).strides = s.strides := rfl
@[simp] theorem setCx_map (c : Nat) (y : Ctx) : (setCx s c y).map = s.map := rfl
@[simp] theorem setCx_ck (c : Nat) (y : Ctx) : (setCx s c y).ck = s.ck := rfl
@[simp] theorem setCx_ch (c : Nat) (y : Ctx) : (setCx s c y).ch = s.ch := rfl
@[simp] theorem setCx_md (c : Nat) (y : Ctx) : (setCx s c y).md = s.md := rfl
@[simp] theorem setCx_sif (c : Nat) (y : Ctx) : (setCx s c y).sif = s.sif := rfl
@[simp] theorem setCx_ring (c : Nat) (y : Ctx) : (setCx s c y).ring = s.ring := rfl
@[simp] theorem setCx_trigs (c : Nat) (y : Ctx) : (setCx s c y).trigs = s.trigs := rfl
@[simp] theorem setCx_order (c : Nat) (y : Ctx) : (setCx s c y).order = s.order := rfl
@[simp] theorem setCx_d (c : Nat) (y : Ctx) : (setCx s c y).d = s.d := rfl
@[simp] theorem setCx_rsm (c : Nat) (y : Ctx) : (setCx s c y).rsm = s.rsm := rfl
@[simp] theorem setCx_x (c : Nat) (y : Ctx) : (setCx s c y).x = s.x := rfl
@[simp] theorem setCx_keep (c : Nat) (y : Ctx) : (setCx s c y).keep = s.keep := rfl
@[simp] theorem setCx_store (c : Nat) (y : Ctx) : (setCx s c y).store = s.store := rfl
@[simp] theorem setCx_tap (c : Nat) (y : Ctx) : (setCx s c y).tap = s.tap := rfl
@[simp] theorem setCx_sent (c : Nat) (y : Ctx) : (setCx s c y).sent = s.sent := rfl
@[simp] theorem setCx_pending (c : Nat) (y : Ctx) : (setCx s c y).pending = s.pending := rfl

/-! ### modCx -/

@[simp] theorem modCx_vf (c : Nat) (f : Ctx → Ctx) : (modCx s c f).vf = s.vf := rfl
@[simp] theorem modCx_ret (c : Nat) (f : Ctx → Ctx) : (modCx s c f).ret = s.ret := rfl
@[simp] theorem modCx_copyA (c : Nat) (f : Ctx → Ctx) : (modCx s c f).copyA = s.copyA := rfl
@[simp] theorem modCx_copyB (c : Nat) (f : Ctx → Ctx) : (modCx s c f).copyB = s.copyB := rfl
@[simp] theorem modCx_pins (c : Nat) (f : Ctx → Ctx) : (modCx s c f).pins = s.pins := rfl
@[simp] theorem modCx_clk (c : Nat) (f : Ctx → Ctx) : (modCx s c f).clk = s.clk := rfl
@[simp] theorem modCx_boot (c : Nat) (f : Ctx → Ctx) : (modCx s c f).boot = s.boot := rfl
@[simp] theorem modCx_link (c : Nat) (f : Ctx → Ctx) : (modCx s c f).link = s.link := rfl
@[simp] theorem modCx_prog (c : Nat) (f : Ctx → Ctx) : (modCx s c f).prog = s.prog := rfl
@[simp] theorem modCx_thr (c : Nat) (f : Ctx → Ctx) : (modCx s c f).thr = s.thr := rfl
@[simp] theorem modCx_mem (c : Nat) (f : Ctx → Ctx) : (modCx s c f).mem = s.mem := rfl
@[simp] theorem modCx_buf (c : Nat) (f : Ctx → Ctx) : (modCx s c f).buf = s.buf := rfl
@[simp] theorem modCx_slices (c : Nat) (f : Ctx → Ctx) : (modCx s c f).slices = s.slices := rfl
@[simp] theorem modCx_strides (c : Nat) (f : Ctx → Ctx) : (modCx s c f).strides = s.strides := rfl
@[simp] theorem modCx_map (c : Nat) (f : Ctx → Ctx) : (modCx s c f).map = s.map := rfl
@[simp] theorem modCx_ck (c : Nat) (f : Ctx → Ctx) : (modCx s c f).ck = s.ck := rfl
@[simp] theorem modCx_ch (c : Nat) (f : Ctx → Ctx) : (modCx s c f).ch = s.ch := rfl
@[simp] theorem modCx_md (c : Nat) (f : Ctx → Ctx) : (modCx s c f).md = s.md := rfl
@[simp] theorem modCx_sif (c : Nat) (f : Ctx → Ctx) : (modCx s c f).sif = s.sif := rfl
@[simp] theorem modCx_ring (c : Nat) (f : Ctx → Ctx) : (modCx s c f).ring = s.ring := rfl
@[simp] theorem modCx_trigs (c : Nat) (f : Ctx → Ctx) : (modCx s c f).trigs = s.trigs := rfl
@[simp] theorem modCx_order (c : Nat) (f : Ctx → Ctx) : (modCx s c f).order = s.order := rfl
@[simp] theorem modCx_d (c : Nat) (f : Ctx → Ctx) : (modCx s c f).d = s.d := rfl
@[simp] theorem modCx_rsm (c : Nat) (f : Ctx → Ctx) : (modCx s c f).rsm = s.rsm := rfl
@[simp] theorem modCx_x (c : Nat) (f : Ctx → Ctx) : (modCx s c f).x = s.x := rfl
@[simp] theorem modCx_keep (c : Nat) (f : Ctx → Ctx) : (modCx s c f).keep = s.keep := rfl
@[simp] theorem modCx_store (c : Nat) (f : Ctx → Ctx) : (modCx s c f).store = s.store := rfl
@[simp] theorem modCx_tap (c : Nat) (f : Ctx → Ctx) : (modCx s c f).tap = s.tap := rfl
@[simp] theorem modCx_sent (c : Nat) (f : Ctx → Ctx) : (modCx s c f).sent = s.sent := rfl
@[simp] theorem modCx_pending (c : Nat) (f : Ctx → Ctx) : (modCx s c f).pending = s.pending := rfl

/-! ### setPort -/

@[simp] theorem setPort_vf (p : Nat) (y : Port) : (setPort s p y).vf = s.vf := rfl
@[simp] theorem setPort_ret (p : Nat) (y : Port) : (setPort s p y).ret = s.ret := rfl
@[simp] theorem setPort_copyA (p : Nat) (y : Port) : (setPort s p y).copyA = s.copyA := rfl
@[simp] theorem setPort_copyB (p : Nat) (y : Port) : (setPort s p y).copyB = s.copyB := rfl
@[simp] theorem setPort_pins (p : Nat) (y : Port) : (setPort s p y).pins = s.pins := rfl
@[simp] theorem setPort_clk (p : Nat) (y : Port) : (setPort s p y).clk = s.clk := rfl
@[simp] theorem setPort_boot (p : Nat) (y : Port) : (setPort s p y).boot = s.boot := rfl
@[simp] theorem setPort_prog (p : Nat) (y : Port) : (setPort s p y).prog = s.prog := rfl
@[simp] theorem setPort_ctx (p : Nat) (y : Port) : (setPort s p y).ctx = s.ctx := rfl
@[simp] theorem setPort_thr (p : Nat) (y : Port) : (setPort s p y).thr = s.thr := rfl
@[simp] theorem setPort_mem (p : Nat) (y : Port) : (setPort s p y).mem = s.mem := rfl
@[simp] theorem setPort_buf (p : Nat) (y : Port) : (setPort s p y).buf = s.buf := rfl
@[simp] theorem setPort_slices (p : Nat) (y : Port) : (setPort s p y).slices = s.slices := rfl
@[simp] theorem setPort_strides (p : Nat) (y : Port) : (setPort s p y).strides = s.strides := rfl
@[simp] theorem setPort_map (p : Nat) (y : Port) : (setPort s p y).map = s.map := rfl
@[simp] theorem setPort_ck (p : Nat) (y : Port) : (setPort s p y).ck = s.ck := rfl
@[simp] theorem setPort_ch (p : Nat) (y : Port) : (setPort s p y).ch = s.ch := rfl
@[simp] theorem setPort_md (p : Nat) (y : Port) : (setPort s p y).md = s.md := rfl
@[simp] theorem setPort_sif (p : Nat) (y : Port) : (setPort s p y).sif = s.sif := rfl
@[simp] theorem setPort_ring (p : Nat) (y : Port) : (setPort s p y).ring = s.ring := rfl
@[simp] theorem setPort_trigs (p : Nat) (y : Port) : (setPort s p y).trigs = s.trigs := rfl
@[simp] theorem setPort_order (p : Nat) (y : Port) : (setPort s p y).order = s.order := rfl
@[simp] theorem setPort_d (p : Nat) (y : Port) : (setPort s p y).d = s.d := rfl
@[simp] theorem setPort_rsm (p : Nat) (y : Port) : (setPort s p y).rsm = s.rsm := rfl
@[simp] theorem setPort_x (p : Nat) (y : Port) : (setPort s p y).x = s.x := rfl
@[simp] theorem setPort_keep (p : Nat) (y : Port) : (setPort s p y).keep = s.keep := rfl
@[simp] theorem setPort_store (p : Nat) (y : Port) : (setPort s p y).store = s.store := rfl
@[simp] theorem setPort_tap (p : Nat) (y : Port) : (setPort s p y).tap = s.tap := rfl
@[simp] theorem setPort_sent (p : Nat) (y : Port) : (setPort s p y).sent = s.sent := rfl
@[simp] theorem setPort_pending (p : Nat) (y : Port) : (setPort s p y).pending = s.pending := rfl

/-! ### tick -/

@[simp] theorem tick_vf : (tick s).vf = s.vf := rfl
@[simp] theorem tick_ret : (tick s).ret = s.ret := rfl
@[simp] theorem tick_copyA : (tick s).copyA = s.copyA := rfl
@[simp] theorem tick_copyB : (tick s).copyB = s.copyB := rfl
@[simp] theorem tick_pins : (tick s).pins = s.pins := rfl
@[simp] theorem tick_clk : (tick s).clk = s.clk := rfl
@[simp] theorem tick_boot : (tick s).boot = s.boot := rfl
@[simp] theorem tick_link : (tick s).link = s.link := rfl
@[simp] theorem tick_prog : (tick s).prog = s.prog := rfl
@[simp] theorem tick_ctx : (tick s).ctx = s.ctx := rfl
@[simp] theorem tick_thr : (tick s).thr = s.thr := rfl
@[simp] theorem tick_mem : (tick s).mem = s.mem := rfl
@[simp] theorem tick_buf : (tick s).buf = s.buf := rfl
@[simp] theorem tick_slices : (tick s).slices = s.slices := rfl
@[simp] theorem tick_strides : (tick s).strides = s.strides := rfl
@[simp] theorem tick_map : (tick s).map = s.map := rfl
@[simp] theorem tick_ck : (tick s).ck = s.ck := rfl
@[simp] theorem tick_ch : (tick s).ch = s.ch := rfl
@[simp] theorem tick_md : (tick s).md = s.md := rfl
@[simp] theorem tick_sif : (tick s).sif = s.sif := rfl
@[simp] theorem tick_ring : (tick s).ring = s.ring := rfl
@[simp] theorem tick_trigs : (tick s).trigs = s.trigs := rfl
@[simp] theorem tick_d : (tick s).d = s.d := rfl
@[simp] theorem tick_rsm : (tick s).rsm = s.rsm := rfl
@[simp] theorem tick_x : (tick s).x = s.x := rfl
@[simp] theorem tick_keep : (tick s).keep = s.keep := rfl
@[simp] theorem tick_store : (tick s).store = s.store := rfl
@[simp] theorem tick_tap : (tick s).tap = s.tap := rfl
@[simp] theorem tick_sent : (tick s).sent = s.sent := rfl
@[simp] theorem tick_pending : (tick s).pending = s.pending := rfl

/-! ### stamped -/

@[simp] theorem stamped_vf (n : Nat) : (stamped s n).vf = s.vf := rfl
@[simp] theorem stamped_ret (n : Nat) : (stamped s n).ret = s.ret := rfl
@[simp] theorem stamped_copyA (n : Nat) : (stamped s n).copyA = s.copyA := rfl
@[simp] theorem stamped_copyB (n : Nat) : (stamped s n).copyB = s.copyB := rfl
@[simp] theorem stamped_pins (n : Nat) : (stamped s n).pins = s.pins := rfl
@[simp] theorem stamped_boot (n : Nat) : (stamped s n).boot = s.boot := rfl
@[simp] theorem stamped_link (n : Nat) : (stamped s n).link = s.link := rfl
@[simp] theorem stamped_prog (n : Nat) : (stamped s n).prog = s.prog := rfl
@[simp] theorem stamped_ctx (n : Nat) : (stamped s n).ctx = s.ctx := rfl
@[simp] theorem stamped_thr (n : Nat) : (stamped s n).thr = s.thr := rfl
@[simp] theorem stamped_mem (n : Nat) : (stamped s n).mem = s.mem := rfl
@[simp] theorem stamped_buf (n : Nat) : (stamped s n).buf = s.buf := rfl
@[simp] theorem stamped_slices (n : Nat) : (stamped s n).slices = s.slices := rfl
@[simp] theorem stamped_strides (n : Nat) : (stamped s n).strides = s.strides := rfl
@[simp] theorem stamped_map (n : Nat) : (stamped s n).map = s.map := rfl
@[simp] theorem stamped_ck (n : Nat) : (stamped s n).ck = s.ck := rfl
@[simp] theorem stamped_ch (n : Nat) : (stamped s n).ch = s.ch := rfl
@[simp] theorem stamped_md (n : Nat) : (stamped s n).md = s.md := rfl
@[simp] theorem stamped_sif (n : Nat) : (stamped s n).sif = s.sif := rfl
@[simp] theorem stamped_ring (n : Nat) : (stamped s n).ring = s.ring := rfl
@[simp] theorem stamped_trigs (n : Nat) : (stamped s n).trigs = s.trigs := rfl
@[simp] theorem stamped_order (n : Nat) : (stamped s n).order = s.order := rfl
@[simp] theorem stamped_d (n : Nat) : (stamped s n).d = s.d := rfl
@[simp] theorem stamped_rsm (n : Nat) : (stamped s n).rsm = s.rsm := rfl
@[simp] theorem stamped_x (n : Nat) : (stamped s n).x = s.x := rfl
@[simp] theorem stamped_keep (n : Nat) : (stamped s n).keep = s.keep := rfl
@[simp] theorem stamped_store (n : Nat) : (stamped s n).store = s.store := rfl
@[simp] theorem stamped_tap (n : Nat) : (stamped s n).tap = s.tap := rfl
@[simp] theorem stamped_sent (n : Nat) : (stamped s n).sent = s.sent := rfl
@[simp] theorem stamped_pending (n : Nat) : (stamped s n).pending = s.pending := rfl

/-! ### raise -/

@[simp] theorem raise_vf (t c e : Nat) : (raise s t c e).vf = s.vf := rfl
@[simp] theorem raise_ret (t c e : Nat) : (raise s t c e).ret = s.ret := rfl
@[simp] theorem raise_copyA (t c e : Nat) : (raise s t c e).copyA = s.copyA := rfl
@[simp] theorem raise_copyB (t c e : Nat) : (raise s t c e).copyB = s.copyB := rfl
@[simp] theorem raise_pins (t c e : Nat) : (raise s t c e).pins = s.pins := rfl
@[simp] theorem raise_clk (t c e : Nat) : (raise s t c e).clk = s.clk := rfl
@[simp] theorem raise_boot (t c e : Nat) : (raise s t c e).boot = s.boot := rfl
@[simp] theorem raise_link (t c e : Nat) : (raise s t c e).link = s.link := rfl
@[simp] theorem raise_prog (t c e : Nat) : (raise s t c e).prog = s.prog := rfl
@[simp] theorem raise_ctx (t c e : Nat) : (raise s t c e).ctx = s.ctx := rfl
@[simp] theorem raise_mem (t c e : Nat) : (raise s t c e).mem = s.mem := rfl
@[simp] theorem raise_buf (t c e : Nat) : (raise s t c e).buf = s.buf := rfl
@[simp] theorem raise_slices (t c e : Nat) : (raise s t c e).slices = s.slices := rfl
@[simp] theorem raise_strides (t c e : Nat) : (raise s t c e).strides = s.strides := rfl
@[simp] theorem raise_map (t c e : Nat) : (raise s t c e).map = s.map := rfl
@[simp] theorem raise_ck (t c e : Nat) : (raise s t c e).ck = s.ck := rfl
@[simp] theorem raise_ch (t c e : Nat) : (raise s t c e).ch = s.ch := rfl
@[simp] theorem raise_md (t c e : Nat) : (raise s t c e).md = s.md := rfl
@[simp] theorem raise_sif (t c e : Nat) : (raise s t c e).sif = s.sif := rfl
@[simp] theorem raise_ring (t c e : Nat) : (raise s t c e).ring = s.ring := rfl
@[simp] theorem raise_trigs (t c e : Nat) : (raise s t c e).trigs = s.trigs := rfl
@[simp] theorem raise_order (t c e : Nat) : (raise s t c e).order = s.order := rfl
@[simp] theorem raise_d (t c e : Nat) : (raise s t c e).d = s.d := rfl
@[simp] theorem raise_rsm (t c e : Nat) : (raise s t c e).rsm = s.rsm := rfl
@[simp] theorem raise_x (t c e : Nat) : (raise s t c e).x = s.x := rfl
@[simp] theorem raise_keep (t c e : Nat) : (raise s t c e).keep = s.keep := rfl
@[simp] theorem raise_store (t c e : Nat) : (raise s t c e).store = s.store := rfl
@[simp] theorem raise_tap (t c e : Nat) : (raise s t c e).tap = s.tap := rfl
@[simp] theorem raise_sent (t c e : Nat) : (raise s t c e).sent = s.sent := rfl
@[simp] theorem raise_pending (t c e : Nat) : (raise s t c e).pending = s.pending := rfl

/-! ### wait -/

@[simp] theorem wait_vf (t : Nat) (w : Why) (a : Nat) (k : Cont) : (wait s t w a k).vf = s.vf := rfl
@[simp] theorem wait_ret (t : Nat) (w : Why) (a : Nat) (k : Cont) : (wait s t w a k).ret = s.ret := rfl
@[simp] theorem wait_copyA (t : Nat) (w : Why) (a : Nat) (k : Cont) : (wait s t w a k).copyA = s.copyA := rfl
@[simp] theorem wait_copyB (t : Nat) (w : Why) (a : Nat) (k : Cont) : (wait s t w a k).copyB = s.copyB := rfl
@[simp] theorem wait_pins (t : Nat) (w : Why) (a : Nat) (k : Cont) : (wait s t w a k).pins = s.pins := rfl
@[simp] theorem wait_clk (t : Nat) (w : Why) (a : Nat) (k : Cont) : (wait s t w a k).clk = s.clk := rfl
@[simp] theorem wait_boot (t : Nat) (w : Why) (a : Nat) (k : Cont) : (wait s t w a k).boot = s.boot := rfl
@[simp] theorem wait_link (t : Nat) (w : Why) (a : Nat) (k : Cont) : (wait s t w a k).link = s.link := rfl
@[simp] theorem wait_prog (t : Nat) (w : Why) (a : Nat) (k : Cont) : (wait s t w a k).prog = s.prog := rfl
@[simp] theorem wait_ctx (t : Nat) (w : Why) (a : Nat) (k : Cont) : (wait s t w a k).ctx = s.ctx := rfl
@[simp] theorem wait_mem (t : Nat) (w : Why) (a : Nat) (k : Cont) : (wait s t w a k).mem = s.mem := rfl
@[simp] theorem wait_buf (t : Nat) (w : Why) (a : Nat) (k : Cont) : (wait s t w a k).buf = s.buf := rfl
@[simp] theorem wait_slices (t : Nat) (w : Why) (a : Nat) (k : Cont) : (wait s t w a k).slices = s.slices := rfl
@[simp] theorem wait_strides (t : Nat) (w : Why) (a : Nat) (k : Cont) : (wait s t w a k).strides = s.strides := rfl
@[simp] theorem wait_map (t : Nat) (w : Why) (a : Nat) (k : Cont) : (wait s t w a k).map = s.map := rfl
@[simp] theorem wait_ck (t : Nat) (w : Why) (a : Nat) (k : Cont) : (wait s t w a k).ck = s.ck := rfl
@[simp] theorem wait_ch (t : Nat) (w : Why) (a : Nat) (k : Cont) : (wait s t w a k).ch = s.ch := rfl
@[simp] theorem wait_md (t : Nat) (w : Why) (a : Nat) (k : Cont) : (wait s t w a k).md = s.md := rfl
@[simp] theorem wait_sif (t : Nat) (w : Why) (a : Nat) (k : Cont) : (wait s t w a k).sif = s.sif := rfl
@[simp] theorem wait_ring (t : Nat) (w : Why) (a : Nat) (k : Cont) : (wait s t w a k).ring = s.ring := rfl
@[simp] theorem wait_trigs (t : Nat) (w : Why) (a : Nat) (k : Cont) : (wait s t w a k).trigs = s.trigs := rfl
@[simp] theorem wait_d (t : Nat) (w : Why) (a : Nat) (k : Cont) : (wait s t w a k).d = s.d := rfl
@[simp] theorem wait_rsm (t : Nat) (w : Why) (a : Nat) (k : Cont) : (wait s t w a k).rsm = s.rsm := rfl
@[simp] theorem wait_x (t : Nat) (w : Why) (a : Nat) (k : Cont) : (wait s t w a k).x = s.x := rfl
@[simp] theorem wait_keep (t : Nat) (w : Why) (a : Nat) (k : Cont) : (wait s t w a k).keep = s.keep := rfl
@[simp] theorem wait_store (t : Nat) (w : Why) (a : Nat) (k : Cont) : (wait s t w a k).store = s.store := rfl
@[simp] theorem wait_tap (t : Nat) (w : Why) (a : Nat) (k : Cont) : (wait s t w a k).tap = s.tap := rfl
@[simp] theorem wait_sent (t : Nat) (w : Why) (a : Nat) (k : Cont) : (wait s t w a k).sent = s.sent := rfl
@[simp] theorem wait_pending (t : Nat) (w : Why) (a : Nat) (k : Cont) : (wait s t w a k).pending = s.pending := rfl

/-! ### logEv -/

@[simp] theorem logEv_vf (a b : Nat) (l : List Nat) : (logEv s a b l).vf = s.vf := rfl
@[simp] theorem logEv_ret (a b : Nat) (l : List Nat) : (logEv s a b l).ret = s.ret := rfl
@[simp] theorem logEv_copyA (a b : Nat) (l : List Nat) : (logEv s a b l).copyA = s.copyA := rfl
@[simp] theorem logEv_copyB (a b : Nat) (l : List Nat) : (logEv s a b l).copyB = s.copyB := rfl
@[simp] theorem logEv_pins (a b : Nat) (l : List Nat) : (logEv s a b l).pins = s.pins := rfl
@[simp] theorem logEv_boot (a b : Nat) (l : List Nat) : (logEv s a b l).boot = s.boot := rfl
@[simp] theorem logEv_link (a b : Nat) (l : List Nat) : (logEv s a b l).link = s.link := rfl
@[simp] theorem logEv_prog (a b : Nat) (l : List Nat) : (logEv s a b l).prog = s.prog := rfl
@[simp] theorem logEv_ctx (a b : Nat) (l : List Nat) : (logEv s a b l).ctx = s.ctx := rfl
@[simp] theorem logEv_thr (a b : Nat) (l : List Nat) : (logEv s a b l).thr = s.thr := rfl
@[simp] theorem logEv_mem (a b : Nat) (l : List Nat) : (logEv s a b l).mem = s.mem := rfl
@[simp] theorem logEv_buf (a b : Nat) (l : List Nat) : (logEv s a b l).buf = s.buf := rfl
@[simp] theorem logEv_slices (a b : Nat) (l : List Nat) : (logEv s a b l).slices = s.slices := rfl
@[simp] theorem logEv_strides (a b : Nat) (l : List Nat) : (logEv s a b l).strides = s.strides := rfl
@[simp] theorem logEv_map (a b : Nat) (l : List Nat) : (logEv s a b l).map = s.map := rfl
@[simp] theorem logEv_ck (a b : Nat) (l : List Nat) : (logEv s a b l).ck = s.ck := rfl
@[simp] theorem logEv_ch (a b : Nat) (l : List Nat) : (logEv s a b l).ch = s.ch := rfl
@[simp] theorem logEv_md (a b : Nat) (l : List Nat) : (logEv s a b l).md = s.md := rfl
@[simp] theorem logEv_sif (a b : Nat) (l : List Nat) : (logEv s a b l).sif = s.sif := rfl
@[simp] theorem logEv_ring (a b : Nat) (l : List Nat) : (logEv s a b l).ring = s.ring := rfl
@[simp] theorem logEv_order (a b : Nat) (l : List Nat) : (logEv s a b l).order = s.order := rfl
@[simp] theorem logEv_d (a b : Nat) (l : List Nat) : (logEv s a b l).d = s.d := rfl
@[simp] theorem logEv_rsm (a b : Nat) (l : List Nat) : (logEv s a b l).rsm = s.rsm := rfl
@[simp] theorem logEv_x (a b : Nat) (l : List Nat) : (logEv s a b l).x = s.x := rfl
@[simp] theorem logEv_keep (a b : Nat) (l : List Nat) : (logEv s a b l).keep = s.keep := rfl
@[simp] theorem logEv_store (a b : Nat) (l : List Nat) : (logEv s a b l).store = s.store := rfl
@[simp] theorem logEv_tap (a b : Nat) (l : List Nat) : (logEv s a b l).tap = s.tap := rfl
@[simp] theorem logEv_sent (a b : Nat) (l : List Nat) : (logEv s a b l).sent = s.sent := rfl
@[simp] theorem logEv_pending (a b : Nat) (l : List Nat) : (logEv s a b l).pending = s.pending := rfl

/-! ### setAux -/

@[simp] theorem setAux_vf (y : Aux) : (setAux s y).vf = s.vf := rfl
@[simp] theorem setAux_ret (y : Aux) : (setAux s y).ret = s.ret := rfl
@[simp] theorem setAux_copyA (y : Aux) : (setAux s y).copyA = s.copyA := rfl
@[simp] theorem setAux_copyB (y : Aux) : (setAux s y).copyB = s.copyB := rfl
@[simp] theorem setAux_pins (y : Aux) : (setAux s y).pins = s.pins := rfl
@[simp] theorem setAux_clk (y : Aux) : (setAux s y).clk = s.clk := rfl
@[simp] theorem setAux_boot (y : Aux) : (setAux s y).boot = s.boot := rfl
@[simp] theorem setAux_link (y : Aux) : (setAux s y).link = s.link := rfl
@[simp] theorem setAux_prog (y : Aux) : (setAux s y).prog = s.prog := rfl
@[simp] theorem setAux_ctx (y : Aux) : (setAux s y).ctx = s.ctx := rfl
@[simp] theorem setAux_thr (y : Aux) : (setAux s y).thr = s.thr := rfl
@[simp] theorem setAux_mem (y : Aux) : (setAux s y).mem = s.mem := rfl
@[simp] theorem setAux_buf (y : Aux) : (setAux s y).buf = s.buf := rfl
@[simp] theorem setAux_slices (y : Aux) : (setAux s y).slices = s.slices := rfl
@[simp] theorem setAux_strides (y : Aux) : (setAux s y).strides = s.strides := rfl
@[simp] theorem setAux_map (y : Aux) : (setAux s y).map = s.map := rfl
@[simp] theorem setAux_ck (y : Aux) : (setAux s y).ck = s.ck := rfl
@[simp] theorem setAux_ch (y : Aux) : (setAux s y).ch = s.ch := rfl
@[simp] theorem setAux_md (y : Aux) : (setAux s y).md = s.md := rfl
@[simp] theorem setAux_sif (y : Aux) : (setAux s y).sif = s.sif := rfl
@[simp] theorem setAux_ring (y : Aux) : (setAux s y).ring = s.ring := rfl
@[simp] theorem setAux_trigs (y : Aux) : (setAux s y).trigs = s.trigs := rfl
@[simp] theorem setAux_order (y : Aux) : (setAux s y).order = s.order := rfl
@[simp] theorem setAux_d (y : Aux) : (setAux s y).d = s.d := rfl
@[simp] theorem setAux_rsm (y : Aux) : (setAux s y).rsm = s.rsm := rfl
@[simp] theorem setAux_keep (y : Aux) : (setAux s y).keep = s.keep := rfl
@[simp] theorem setAux_store (y : Aux) : (setAux s y).store = s.store := rfl
@[simp] theorem setAux_tap (y : Aux) : (setAux s y).tap = s.tap := rfl
@[simp] theorem setAux_sent (y : Aux) : (setAux s y).sent = s.sent := rfl
@[simp] theorem setAux_pending (y : Aux) : (setAux s y).pending = s.pending := rfl

/-! ### commit -/

@[simp] theorem commit_vf : (commit s).vf = s.vf := by unfold commit; dsimp only; split <;> rfl
@[simp] theorem commit_ret : (commit s).ret = s.ret := by unfold commit; dsimp only; split <;> rfl
@[simp] theorem commit_pins : (commit s).pins = s.pins := by unfold commit; dsimp only; split <;> rfl
@[simp] theorem commit_clk : (commit s).clk = s.clk := by unfold commit; dsimp only; split <;> rfl
@[simp] theorem commit_boot : (commit s).boot = s.boot := by unfold commit; dsimp only; split <;> rfl
@[simp] theorem commit_link : (commit s).link = s.link := by unfold commit; dsimp only; split <;> rfl
@[simp] theorem commit_prog : (commit s).prog = s.prog := by unfold commit; dsimp only; split <;> rfl
@[simp] theorem commit_ctx : (commit s).ctx = s.ctx := by unfold commit; dsimp only; split <;> rfl
@[simp] theorem commit_thr : (commit s).thr = s.thr := by unfold commit; dsimp only; split <;> rfl
@[simp] theorem commit_mem : (commit s).mem = s.mem := by unfold commit; dsimp only; split <;> rfl
@[simp] theorem commit_buf : (commit s).buf = s.buf := by unfold commit; dsimp only; split <;> rfl
@[simp] theorem commit_slices : (commit s).slices = s.slices := by unfold commit; dsimp only; split <;> rfl
@[simp] theorem commit_strides : (commit s).strides = s.strides := by unfold commit; dsimp only; split <;> rfl
@[simp] theorem commit_map : (commit s).map = s.map := by unfold commit; dsimp only; split <;> rfl
@[simp] theorem commit_ck : (commit s).ck = s.ck := by unfold commit; dsimp only; split <;> rfl
@[simp] theorem commit_ch : (commit s).ch = s.ch := by unfold commit; dsimp only; split <;> rfl
@[simp] theorem commit_md : (commit s).md = s.md := by unfold commit; dsimp only; split <;> rfl
@[simp] theorem commit_sif : (commit s).sif = s.sif := by unfold commit; dsimp only; split <;> rfl
@[simp] theorem commit_ring : (commit s).ring = s.ring := by unfold commit; dsimp only; split <;> rfl
@[simp] theorem commit_trigs : (commit s).trigs = s.trigs := by unfold commit; dsimp only; split <;> rfl
@[simp] theorem commit_order : (commit s).order = s.order := by unfold commit; dsimp only; split <;> rfl
@[simp] theorem commit_d : (commit s).d = s.d := by unfold commit; dsimp only; split <;> rfl
@[simp] theorem commit_rsm : (commit s).rsm = s.rsm := by unfold commit; dsimp only; split <;> rfl
@[simp] theorem commit_x : (commit s).x = s.x := by unfold commit; dsimp only; split <;> rfl
@[simp] theorem commit_keep : (commit s).keep = s.keep := by unfold commit; dsimp only; split <;> rfl
@[simp] theorem commit_store : (commit s).store = s.store := by unfold commit; dsimp only; split <;> rfl
@[simp] theorem commit_tap : (commit s).tap = s.tap := by unfold commit; dsimp only; split <;> rfl
@[simp] theorem commit_sent : (commit s).sent = s.sent := by unfold commit; dsimp only; split <;> rfl
@[simp] theorem commit_pending : (commit s).pending = s.pending := by unfold commit; dsimp only; split <;> rfl

/-! ### setF -/

@[simp] theorem setF_pins (f : Fld) (v : Nat) : (setF s f v).pins = s.pins := by unfold setF; split <;> simp
@[simp] theorem setF_clk (f : Fld) (v : Nat) : (setF s f v).clk = s.clk := by unfold setF; split <;> simp
@[simp] theorem setF_boot (f : Fld) (v : Nat) : (setF s f v).boot = s.boot := by unfold setF; split <;> simp
@[simp] theorem setF_link (f : Fld) (v : Nat) : (setF s f v).link = s.link := by unfold setF; split <;> simp
@[simp] theorem setF_prog (f : Fld) (v : Nat) : (setF s f v).prog = s.prog := by unfold setF; split <;> simp
@[simp] theorem setF_ctx (f : Fld) (v : Nat) : (setF s f v).ctx = s.ctx := by unfold setF; split <;> simp
@[simp] theorem setF_thr (f : Fld) (v : Nat) : (setF s f v).thr = s.thr := by unfold setF; split <;> simp
@[simp] theorem setF_mem (f : Fld) (v : Nat) : (setF s f v).mem = s.mem := by unfold setF; split <;> simp
@[simp] theorem setF_buf (f : Fld) (v : Nat) : (setF s f v).buf = s.buf := by unfold setF; split <;> simp
@[simp] theorem setF_slices (f : Fld) (v : Nat) : (setF s f v).slices = s.slices := by unfold setF; split <;> simp
@[simp] theorem setF_strides (f : Fld) (v : Nat) : (setF s f v).strides = s.strides := by unfold setF; split <;> simp
@[simp] theorem setF_map (f : Fld) (v : Nat) : (setF s f v).map = s.map := by unfold setF; split <;> simp
@[simp] theorem setF_ck (f : Fld) (v : Nat) : (setF s f v).ck = s.ck := by unfold setF; split <;> simp
@[simp] theorem setF_ch (f : Fld) (v : Nat) : (setF s f v).ch = s.ch := by unfold setF; split <;> simp
@[simp] theorem setF_md (f : Fld) (v : Nat) : (setF s f v).md = s.md := by unfold setF; split <;> simp
@[simp] theorem setF_sif (f : Fld) (v : Nat) : (setF s f v).sif = s.sif := by unfold setF; split <;> simp
@[simp] theorem setF_ring (f : Fld) (v : Nat) : (setF s f v).ring = s.ring := by unfold setF; split <;> simp
@[simp] theorem setF_trigs (f : Fld) (v : Nat) : (setF s f v).trigs = s.trigs := by unfold setF; split <;> simp
@[simp] theorem setF_order (f : Fld) (v : Nat) : (setF s f v).order = s.order := by unfold setF; split <;> simp
@[simp] theorem setF_d (f : Fld) (v : Nat) : (setF s f v).d = s.d := by unfold setF; split <;> simp
@[simp] theorem setF_rsm (f : Fld) (v : Nat) : (setF s f v).rsm = s.rsm := by unfold setF; split <;> simp
@[simp] theorem setF_x (f : Fld) (v : Nat) : (setF s f v).x = s.x := by unfold setF; split <;> simp
@[simp] theorem setF_keep (f : Fld) (v : Nat) : (setF s f v).keep = s.keep := by unfold setF; split <;> simp
@[simp] theorem setF_store (f : Fld) (v : Nat) : (setF s f v).store = s.store := by unfold setF; split <;> simp
@[simp] theorem setF_tap (f : Fld) (v : Nat) : (setF s f v).tap = s.tap := by unfold setF; split <;> simp
@[simp] theorem setF_sent (f : Fld) (v : Nat) : (setF s f v).sent = s.sent := by unfold setF; split <;> simp
@[simp] theorem setF_pending (f : Fld) (v : Nat) : (setF s f v).pending = s.pending := by unfold setF; split <;> simp

/-! ### setC -/

@[simp] theorem setC_pins (f : Fld) (v : Nat) : (setC s f v).pins = s.pins := by simp [setC]
@[simp] theorem setC_clk (f : Fld) (v : Nat) : (setC s f v).clk = s.clk := by simp [setC]
@[simp] theorem setC_boot (f : Fld) (v : Nat) : (setC s f v).boot = s.boot := by simp [setC]
@[simp] theorem setC_link (f : Fld) (v : Nat) : (setC s f v).link = s.link := by simp [setC]
@[simp] theorem setC_prog (f : Fld) (v : Nat) : (setC s f v).prog = s.prog := by simp [setC]
@[simp] theorem setC_ctx (f : Fld) (v : Nat) : (setC s f v).ctx = s.ctx := by simp [setC]
@[simp] theorem setC_thr (f : Fld) (v : Nat) : (setC s f v).thr = s.thr := by simp [setC]
@[simp] theorem setC_mem (f : Fld) (v : Nat) : (setC s f v).mem = s.mem := by simp [setC]
@[simp] theorem setC_buf (f : Fld) (v : Nat) : (setC s f v).buf = s.buf := by simp [setC]
@[simp] theorem setC_slices (f : Fld) (v : Nat) : (setC s f v).slices = s.slices := by simp [setC]
@[simp] theorem setC_strides (f : Fld) (v : Nat) : (setC s f v).strides = s.strides := by simp [setC]
@[simp] theorem setC_map (f : Fld) (v : Nat) : (setC s f v).map = s.map := by simp [setC]
@[simp] theorem setC_ck (f : Fld) (v : Nat) : (setC s f v).ck = s.ck := by simp [setC]
@[simp] theorem setC_ch (f : Fld) (v : Nat) : (setC s f v).ch = s.ch := by simp [setC]
@[simp] theorem setC_md (f : Fld) (v : Nat) : (setC s f v).md = s.md := by simp [setC]
@[simp] theorem setC_sif (f : Fld) (v : Nat) : (setC s f v).sif = s.sif := by simp [setC]
@[simp] theorem setC_ring (f : Fld) (v : Nat) : (setC s f v).ring = s.ring := by simp [setC]
@[simp] theorem setC_trigs (f : Fld) (v : Nat) : (setC s f v).trigs = s.trigs := by simp [setC]
@[simp] theorem setC_order (f : Fld) (v : Nat) : (setC s f v).order = s.order := by simp [setC]
@[simp] theorem setC_d (f : Fld) (v : Nat) : (setC s f v).d = s.d := by simp [setC]
@[simp] theorem setC_rsm (f : Fld) (v : Nat) : (setC s f v).rsm = s.rsm := by simp [setC]
@[simp] theorem setC_x (f : Fld) (v : Nat) : (setC s f v).x = s.x := by simp [setC]
@[simp] theorem setC_keep (f : Fld) (v : Nat) : (setC s f v).keep = s.keep := by simp [setC]
@[simp] theorem setC_store (f : Fld) (v : Nat) : (setC s f v).store = s.store := by simp [setC]
@[simp] theorem setC_tap (f : Fld) (v : Nat) : (setC s f v).tap = s.tap := by simp [setC]
@[simp] theorem setC_sent (f : Fld) (v : Nat) : (setC s f v).sent = s.sent := by simp [setC]
@[simp] theorem setC_pending (f : Fld) (v : Nat) : (setC s f v).pending = s.pending := by simp [setC]

/-! ### addSat -/

@[simp] theorem addSat_pins (f : Fld) (v : Nat) : (addSat s f v).pins = s.pins := by simp [addSat]
@[simp] theorem addSat_clk (f : Fld) (v : Nat) : (addSat s f v).clk = s.clk := by simp [addSat]
@[simp] theorem addSat_boot (f : Fld) (v : Nat) : (addSat s f v).boot = s.boot := by simp [addSat]
@[simp] theorem addSat_link (f : Fld) (v : Nat) : (addSat s f v).link = s.link := by simp [addSat]
@[simp] theorem addSat_prog (f : Fld) (v : Nat) : (addSat s f v).prog = s.prog := by simp [addSat]
@[simp] theorem addSat_ctx (f : Fld) (v : Nat) : (addSat s f v).ctx = s.ctx := by simp [addSat]
@[simp] theorem addSat_thr (f : Fld) (v : Nat) : (addSat s f v).thr = s.thr := by simp [addSat]
@[simp] theorem addSat_mem (f : Fld) (v : Nat) : (addSat s f v).mem = s.mem := by simp [addSat]
@[simp] theorem addSat_buf (f : Fld) (v : Nat) : (addSat s f v).buf = s.buf := by simp [addSat]
@[simp] theorem addSat_slices (f : Fld) (v : Nat) : (addSat s f v).slices = s.slices := by simp [addSat]
@[simp] theorem addSat_strides (f : Fld) (v : Nat) : (addSat s f v).strides = s.strides := by simp [addSat]
@[simp] theorem addSat_map (f : Fld) (v : Nat) : (addSat s f v).map = s.map := by simp [addSat]
@[simp] theorem addSat_ck (f : Fld) (v : Nat) : (addSat s f v).ck = s.ck := by simp [addSat]
@[simp] theorem addSat_ch (f : Fld) (v : Nat) : (addSat s f v).ch = s.ch := by simp [addSat]
@[simp] theorem addSat_md (f : Fld) (v : Nat) : (addSat s f v).md = s.md := by simp [addSat]
@[simp] theorem addSat_sif (f : Fld) (v : Nat) : (addSat s f v).sif = s.sif := by simp [addSat]
@[simp] theorem addSat_ring (f : Fld) (v : Nat) : (addSat s f v).ring = s.ring := by simp [addSat]
@[simp] theorem addSat_trigs (f : Fld) (v : Nat) : (addSat s f v).trigs = s.trigs := by simp [addSat]
@[simp] theorem addSat_order (f : Fld) (v : Nat) : (addSat s f v).order = s.order := by simp [addSat]
@[simp] theorem addSat_d (f : Fld) (v : Nat) : (addSat s f v).d = s.d := by simp [addSat]
@[simp] theorem addSat_rsm (f : Fld) (v : Nat) : (addSat s f v).rsm = s.rsm := by simp [addSat]
@[simp] theorem addSat_x (f : Fld) (v : Nat) : (addSat s f v).x = s.x := by simp [addSat]
@[simp] theorem addSat_keep (f : Fld) (v : Nat) : (addSat s f v).keep = s.keep := by simp [addSat]
@[simp] theorem addSat_store (f : Fld) (v : Nat) : (addSat s f v).store = s.store := by simp [addSat]
@[simp] theorem addSat_tap (f : Fld) (v : Nat) : (addSat s f v).tap = s.tap := by simp [addSat]
@[simp] theorem addSat_sent (f : Fld) (v : Nat) : (addSat s f v).sent = s.sent := by simp [addSat]
@[simp] theorem addSat_pending (f : Fld) (v : Nat) : (addSat s f v).pending = s.pending := by simp [addSat]

/-! ### addWrap -/

@[simp] theorem addWrap_pins (f : Fld) (v : Nat) : (addWrap s f v).pins = s.pins := by simp [addWrap]
@[simp] theorem addWrap_clk (f : Fld) (v : Nat) : (addWrap s f v).clk = s.clk := by simp [addWrap]
@[simp] theorem addWrap_boot (f : Fld) (v : Nat) : (addWrap s f v).boot = s.boot := by simp [addWrap]
@[simp] theorem addWrap_link (f : Fld) (v : Nat) : (addWrap s f v).link = s.link := by simp [addWrap]
@[simp] theorem addWrap_prog (f : Fld) (v : Nat) : (addWrap s f v).prog = s.prog := by simp [addWrap]
@[simp] theorem addWrap_ctx (f : Fld) (v : Nat) : (addWrap s f v).ctx = s.ctx := by simp [addWrap]
@[simp] theorem addWrap_thr (f : Fld) (v : Nat) : (addWrap s f v).thr = s.thr := by simp [addWrap]
@[simp] theorem addWrap_mem (f : Fld) (v : Nat) : (addWrap s f v).mem = s.mem := by simp [addWrap]
@[simp] theorem addWrap_buf (f : Fld) (v : Nat) : (addWrap s f v).buf = s.buf := by simp [addWrap]
@[simp] theorem addWrap_slices (f : Fld) (v : Nat) : (addWrap s f v).slices = s.slices := by simp [addWrap]
@[simp] theorem addWrap_strides (f : Fld) (v : Nat) : (addWrap s f v).strides = s.strides := by simp [addWrap]
@[simp] theorem addWrap_map (f : Fld) (v : Nat) : (addWrap s f v).map = s.map := by simp [addWrap]
@[simp] theorem addWrap_ck (f : Fld) (v : Nat) : (addWrap s f v).ck = s.ck := by simp [addWrap]
@[simp] theorem addWrap_ch (f : Fld) (v : Nat) : (addWrap s f v).ch = s.ch := by simp [addWrap]
@[simp] theorem addWrap_md (f : Fld) (v : Nat) : (addWrap s f v).md = s.md := by simp [addWrap]
@[simp] theorem addWrap_sif (f : Fld) (v : Nat) : (addWrap s f v).sif = s.sif := by simp [addWrap]
@[simp] theorem addWrap_ring (f : Fld) (v : Nat) : (addWrap s f v).ring = s.ring := by simp [addWrap]
@[simp] theorem addWrap_trigs (f : Fld) (v : Nat) : (addWrap s f v).trigs = s.trigs := by simp [addWrap]
@[simp] theorem addWrap_order (f : Fld) (v : Nat) : (addWrap s f v).order = s.order := by simp [addWrap]
@[simp] theorem addWrap_d (f : Fld) (v : Nat) : (addWrap s f v).d = s.d := by simp [addWrap]
@[simp] theorem addWrap_rsm (f : Fld) (v : Nat) : (addWrap s f v).rsm = s.rsm := by simp [addWrap]
@[simp] theorem addWrap_x (f : Fld) (v : Nat) : (addWrap s f v).x = s.x := by simp [addWrap]
@[simp] theorem addWrap_keep (f : Fld) (v : Nat) : (addWrap s f v).keep = s.keep := by simp [addWrap]
@[simp] theorem addWrap_store (f : Fld) (v : Nat) : (addWrap s f v).store = s.store := by simp [addWrap]
@[simp] theorem addWrap_tap (f : Fld) (v : Nat) : (addWrap s f v).tap = s.tap := by simp [addWrap]
@[simp] theorem addWrap_sent (f : Fld) (v : Nat) : (addWrap s f v).sent = s.sent := by simp [addWrap]
@[simp] theorem addWrap_pending (f : Fld) (v : Nat) : (addWrap s f v).pending = s.pending := by simp [addWrap]

/-! ### elapse -/

theorem elapseSlew_ret (n : Nat) (s : State) : (if n < 1000 then setF s CHR_STAT_SLEW 0 else s).ret = s.ret := by
  split <;> rfl
theorem elapseSlew_copyA (n : Nat) (s : State) : (if n < 1000 then setF s CHR_STAT_SLEW 0 else s).copyA = s.copyA := by
  split <;> rfl
theorem elapseSlew_copyB (n : Nat) (s : State) : (if n < 1000 then setF s CHR_STAT_SLEW 0 else s).copyB = s.copyB := by
  split <;> rfl
theorem elapseSlew_pins (n : Nat) (s : State) : (if n < 1000 then setF s CHR_STAT_SLEW 0 else s).pins = s.pins := by
  split <;> simp
theorem elapseSlew_boot (n : Nat) (s : State) : (if n < 1000 then setF s CHR_STAT_SLEW 0 else s).boot = s.boot := by
  split <;> simp
theorem elapseSlew_link (n : Nat) (s : State) : (if n < 1000 then setF s CHR_STAT_SLEW 0 else s).link = s.link := by
  split <;> simp
theorem elapseSlew_prog (n : Nat) (s : State) : (if n < 1000 then setF s CHR_STAT_SLEW 0 else s).prog = s.prog := by
  split <;> simp
theorem elapseSlew_ctx (n : Nat) (s : State) : (if n < 1000 then setF s CHR_STAT_SLEW 0 else s).ctx = s.ctx := by
  split <;> simp
theorem elapseSlew_thr (n : Nat) (s : State) : (if n < 1000 then setF s CHR_STAT_SLEW 0 else s).thr = s.thr := by
  split <;> simp
theorem elapseSlew_mem (n : Nat) (s : State) : (if n < 1000 then setF s CHR_STAT_SLEW 0 else s).mem = s.mem := by
  split <;> simp
theorem elapseSlew_buf (n : Nat) (s : State) : (if n < 1000 then setF s CHR_STAT_SLEW 0 else s).buf = s.buf := by
  split <;> simp
theorem elapseSlew_slices (n : Nat) (s : State) : (if n < 1000 then setF s CHR_STAT_SLEW 0 else s).slices = s.slices := by
  split <;> simp
theorem elapseSlew_strides (n : Nat) (s : State) : (if n < 1000 then setF s CHR_STAT_SLEW 0 else s).strides = s.strides := by
  split <;> simp
theorem elapseSlew_map (n : Nat) (s : State) : (if n < 1000 then setF s CHR_STAT_SLEW 0 else s).map = s.map := by
  split <;> simp
theorem elapseSlew_ck (n : Nat) (s : State) : (if n < 1000 then setF s CHR_STAT_SLEW 0 else s).ck = s.ck := by
  split <;> simp
theorem elapseSlew_ch (n : Nat) (s : State) : (if n < 1000 then setF s CHR_STAT_SLEW 0 else s).ch = s.ch := by
  split <;> simp
theorem elapseSlew_md (n : Nat) (s : State) : (if n < 1000 then setF s CHR_STAT_SLEW 0 else s).md = s.md := by
  split <;> simp
theorem elapseSlew_sif (n : Nat) (s : State) : (if n < 1000 then setF s CHR_STAT_SLEW 0 else s).sif = s.sif := by
  split <;> simp
theorem elapseSlew_ring (n : Nat) (s : State) : (if n < 1000 then setF s CHR_STAT_SLEW 0 else s).ring = s.ring := by
  split <;> simp
theorem elapseSlew_trigs (n : Nat) (s : State) : (if n < 1000 then setF s CHR_STAT_SLEW 0 else s).trigs = s.trigs := by
  split <;> simp
theorem elapseSlew_order (n : Nat) (s : State) : (if n < 1000 then setF s CHR_STAT_SLEW 0 else s).order = s.order := by
  split <;> simp
theorem elapseSlew_d (n : Nat) (s : State) : (if n < 1000 then setF s CHR_STAT_SLEW 0 else s).d = s.d := by
  split <;> simp
theorem elapseSlew_rsm (n : Nat) (s : State) : (if n < 1000 then setF s CHR_STAT_SLEW 0 else s).rsm = s.rsm := by
  split <;> simp
theorem elapseSlew_x (n : Nat) (s : State) : (if n < 1000 then setF s CHR_STAT_SLEW 0 else s).x = s.x := by
  split <;> simp
theorem elapseSlew_keep (n : Nat) (s : State) : (if n < 1000 then setF s CHR_STAT_SLEW 0 else s).keep = s.keep := by
  split <;> simp
theorem elapseSlew_store (n : Nat) (s : State) : (if n < 1000 then setF s CHR_STAT_SLEW 0 else s).store = s.store := by
  split <;> simp
theorem elapseSlew_tap (n : Nat) (s : State) : (if n < 1000 then setF s CHR_STAT_SLEW 0 else s).tap = s.tap := by
  split <;> simp
theorem elapseSlew_sent (n : Nat) (s : State) : (if n < 1000 then setF s CHR_STAT_SLEW 0 else s).sent = s.sent := by
  split <;> simp
theorem elapseSlew_pending (n : Nat) (s : State) : (if n < 1000 then setF s CHR_STAT_SLEW 0 else s).pending = s.pending := by
  split <;> simp

@[simp] theorem elapse_ret (e : Elapse) : (elapse s e).ret = s.ret := by
  unfold elapse; dsimp only; split
  · rfl
  · exact elapseSlew_ret _ _
@[simp] theorem elapse_copyA (e : Elapse) : (elapse s e).copyA = s.copyA := by
  unfold elapse; dsimp only; split
  · rfl
  · exact elapseSlew_copyA _ _
@[simp] theorem elapse_copyB (e : Elapse) : (elapse s e).copyB = s.copyB := by
  unfold elapse; dsimp only; split
  · rfl
  · exact elapseSlew_copyB _ _
@[simp] theorem elapse_pins (e : Elapse) : (elapse s e).pins = s.pins := by
  unfold elapse; dsimp only; split
  · rfl
  · exact elapseSlew_pins _ _
@[simp] theorem elapse_boot (e : Elapse) : (elapse s e).boot = s.boot := by
  unfold elapse; dsimp only; split
  · rfl
  · exact elapseSlew_boot _ _
@[simp] theorem elapse_link (e : Elapse) : (elapse s e).link = s.link := by
  unfold elapse; dsimp only; split
  · rfl
  · exact elapseSlew_link _ _
@[simp] theorem elapse_prog (e : Elapse) : (elapse s e).prog = s.prog := by
  unfold elapse; dsimp only; split
  · rfl
  · exact elapseSlew_prog _ _
@[simp] theorem elapse_ctx (e : Elapse) : (elapse s e).ctx = s.ctx := by
  unfold elapse; dsimp only; split
  · rfl
  · exact elapseSlew_ctx _ _
@[simp] theorem elapse_thr (e : Elapse) : (elapse s e).thr = s.thr := by
  unfold elapse; dsimp only; split
  · rfl
  · exact elapseSlew_thr _ _
@[simp] theorem elapse_mem (e : Elapse) : (elapse s e).mem = s.mem := by
  unfold elapse; dsimp only; split
  · rfl
  · exact elapseSlew_mem _ _
@[simp] theorem elapse_buf (e : Elapse) : (elapse s e).buf = s.buf := by
  unfold elapse; dsimp only; split
  · rfl
  · exact elapseSlew_buf _ _
@[simp] theorem elapse_slices (e : Elapse) : (elapse s e).slices = s.slices := by
  unfold elapse; dsimp only; split
  · rfl
  · exact elapseSlew_slices _ _
@[simp] theorem elapse_strides (e : Elapse) : (elapse s e).strides = s.strides := by
  unfold elapse; dsimp only; split
  · rfl
  · exact elapseSlew_strides _ _
@[simp] theorem elapse_map (e : Elapse) : (elapse s e).map = s.map := by
  unfold elapse; dsimp only; split
  · rfl
  · exact elapseSlew_map _ _
@[simp] theorem elapse_ck (e : Elapse) : (elapse s e).ck = s.ck := by
  unfold elapse; dsimp only; split
  · rfl
  · exact elapseSlew_ck _ _
@[simp] theorem elapse_ch (e : Elapse) : (elapse s e).ch = s.ch := by
  unfold elapse; dsimp only; split
  · rfl
  · exact elapseSlew_ch _ _
@[simp] theorem elapse_md (e : Elapse) : (elapse s e).md = s.md := by
  unfold elapse; dsimp only; split
  · rfl
  · exact elapseSlew_md _ _
@[simp] theorem elapse_sif (e : Elapse) : (elapse s e).sif = s.sif := by
  unfold elapse; dsimp only; split
  · rfl
  · exact elapseSlew_sif _ _
@[simp] theorem elapse_ring (e : Elapse) : (elapse s e).ring = s.ring := by
  unfold elapse; dsimp only; split
  · rfl
  · exact elapseSlew_ring _ _
@[simp] theorem elapse_trigs (e : Elapse) : (elapse s e).trigs = s.trigs := by
  unfold elapse; dsimp only; split
  · rfl
  · exact elapseSlew_trigs _ _
@[simp] theorem elapse_order (e : Elapse) : (elapse s e).order = s.order := by
  unfold elapse; dsimp only; split
  · rfl
  · exact elapseSlew_order _ _
@[simp] theorem elapse_d (e : Elapse) : (elapse s e).d = s.d := by
  unfold elapse; dsimp only; split
  · rfl
  · exact elapseSlew_d _ _
@[simp] theorem elapse_rsm (e : Elapse) : (elapse s e).rsm = s.rsm := by
  unfold elapse; dsimp only; split
  · rfl
  · exact elapseSlew_rsm _ _
@[simp] theorem elapse_x (e : Elapse) : (elapse s e).x = s.x := by
  unfold elapse; dsimp only; split
  · rfl
  · exact elapseSlew_x _ _
@[simp] theorem elapse_keep (e : Elapse) : (elapse s e).keep = s.keep := by
  unfold elapse; dsimp only; split
  · rfl
  · exact elapseSlew_keep _ _
@[simp] theorem elapse_store (e : Elapse) : (elapse s e).store = s.store := by
  unfold elapse; dsimp only; split
  · rfl
  · exact elapseSlew_store _ _
@[simp] theorem elapse_tap (e : Elapse) : (elapse s e).tap = s.tap := by
  unfold elapse; dsimp only; split
  · rfl
  · exact elapseSlew_tap _ _
@[simp] theorem elapse_sent (e : Elapse) : (elapse s e).sent = s.sent := by
  unfold elapse; dsimp only; split
  · rfl
  · exact elapseSlew_sent _ _
@[simp] theorem elapse_pending (e : Elapse) : (elapse s e).pending = s.pending := by
  unfold elapse; dsimp only; split
  · rfl
  · exact elapseSlew_pending _ _

/-! ### holdPark -/

@[simp] theorem holdPark_vf (t : Nat) : (holdPark s t).vf = s.vf := rfl
@[simp] theorem holdPark_ret (t : Nat) : (holdPark s t).ret = s.ret := rfl
@[simp] theorem holdPark_copyA (t : Nat) : (holdPark s t).copyA = s.copyA := rfl
@[simp] theorem holdPark_copyB (t : Nat) : (holdPark s t).copyB = s.copyB := rfl
@[simp] theorem holdPark_pins (t : Nat) : (holdPark s t).pins = s.pins := rfl
@[simp] theorem holdPark_clk (t : Nat) : (holdPark s t).clk = s.clk := rfl
@[simp] theorem holdPark_boot (t : Nat) : (holdPark s t).boot = s.boot := rfl
@[simp] theorem holdPark_link (t : Nat) : (holdPark s t).link = s.link := rfl
@[simp] theorem holdPark_prog (t : Nat) : (holdPark s t).prog = s.prog := rfl
@[simp] theorem holdPark_ctx (t : Nat) : (holdPark s t).ctx = s.ctx := rfl
@[simp] theorem holdPark_mem (t : Nat) : (holdPark s t).mem = s.mem := rfl
@[simp] theorem holdPark_buf (t : Nat) : (holdPark s t).buf = s.buf := rfl
@[simp] theorem holdPark_slices (t : Nat) : (holdPark s t).slices = s.slices := rfl
@[simp] theorem holdPark_strides (t : Nat) : (holdPark s t).strides = s.strides := rfl
@[simp] theorem holdPark_map (t : Nat) : (holdPark s t).map = s.map := rfl
@[simp] theorem holdPark_ck (t : Nat) : (holdPark s t).ck = s.ck := rfl
@[simp] theorem holdPark_ch (t : Nat) : (holdPark s t).ch = s.ch := rfl
@[simp] theorem holdPark_md (t : Nat) : (holdPark s t).md = s.md := rfl
@[simp] theorem holdPark_sif (t : Nat) : (holdPark s t).sif = s.sif := rfl
@[simp] theorem holdPark_ring (t : Nat) : (holdPark s t).ring = s.ring := rfl
@[simp] theorem holdPark_trigs (t : Nat) : (holdPark s t).trigs = s.trigs := rfl
@[simp] theorem holdPark_order (t : Nat) : (holdPark s t).order = s.order := rfl
@[simp] theorem holdPark_rsm (t : Nat) : (holdPark s t).rsm = s.rsm := rfl
@[simp] theorem holdPark_x (t : Nat) : (holdPark s t).x = s.x := rfl
@[simp] theorem holdPark_keep (t : Nat) : (holdPark s t).keep = s.keep := rfl
@[simp] theorem holdPark_store (t : Nat) : (holdPark s t).store = s.store := rfl
@[simp] theorem holdPark_tap (t : Nat) : (holdPark s t).tap = s.tap := rfl
@[simp] theorem holdPark_sent (t : Nat) : (holdPark s t).sent = s.sent := rfl
@[simp] theorem holdPark_pending (t : Nat) : (holdPark s t).pending = s.pending := rfl

/-! ### giveBack, preempt, enforceL -/

@[simp] theorem giveBack_vf (t : Nat) : (giveBack s t).vf = s.vf := by unfold giveBack; dsimp only; split <;> simp
@[simp] theorem giveBack_ret (t : Nat) : (giveBack s t).ret = s.ret := by unfold giveBack; dsimp only; split <;> simp
@[simp] theorem giveBack_copyA (t : Nat) : (giveBack s t).copyA = s.copyA := by unfold giveBack; dsimp only; split <;> simp
@[simp] theorem giveBack_copyB (t : Nat) : (giveBack s t).copyB = s.copyB := by unfold giveBack; dsimp only; split <;> simp
@[simp] theorem giveBack_pins (t : Nat) : (giveBack s t).pins = s.pins := by unfold giveBack; dsimp only; split <;> simp
@[simp] theorem giveBack_clk (t : Nat) : (giveBack s t).clk = s.clk := by unfold giveBack; dsimp only; split <;> simp
@[simp] theorem giveBack_boot (t : Nat) : (giveBack s t).boot = s.boot := by unfold giveBack; dsimp only; split <;> simp
@[simp] theorem giveBack_link (t : Nat) : (giveBack s t).link = s.link := by unfold giveBack; dsimp only; split <;> simp
@[simp] theorem giveBack_prog (t : Nat) : (giveBack s t).prog = s.prog := by unfold giveBack; dsimp only; split <;> simp
@[simp] theorem giveBack_ctx (t : Nat) : (giveBack s t).ctx = s.ctx := by unfold giveBack; dsimp only; split <;> simp
@[simp] theorem giveBack_mem (t : Nat) : (giveBack s t).mem = s.mem := by unfold giveBack; dsimp only; split <;> simp
@[simp] theorem giveBack_buf (t : Nat) : (giveBack s t).buf = s.buf := by unfold giveBack; dsimp only; split <;> simp
@[simp] theorem giveBack_slices (t : Nat) : (giveBack s t).slices = s.slices := by unfold giveBack; dsimp only; split <;> simp
@[simp] theorem giveBack_strides (t : Nat) : (giveBack s t).strides = s.strides := by unfold giveBack; dsimp only; split <;> simp
@[simp] theorem giveBack_map (t : Nat) : (giveBack s t).map = s.map := by unfold giveBack; dsimp only; split <;> simp
@[simp] theorem giveBack_ck (t : Nat) : (giveBack s t).ck = s.ck := by unfold giveBack; dsimp only; split <;> simp
@[simp] theorem giveBack_ch (t : Nat) : (giveBack s t).ch = s.ch := by unfold giveBack; dsimp only; split <;> simp
@[simp] theorem giveBack_md (t : Nat) : (giveBack s t).md = s.md := by unfold giveBack; dsimp only; split <;> simp
@[simp] theorem giveBack_sif (t : Nat) : (giveBack s t).sif = s.sif := by unfold giveBack; dsimp only; split <;> simp
@[simp] theorem giveBack_ring (t : Nat) : (giveBack s t).ring = s.ring := by unfold giveBack; dsimp only; split <;> simp
@[simp] theorem giveBack_trigs (t : Nat) : (giveBack s t).trigs = s.trigs := by unfold giveBack; dsimp only; split <;> simp
@[simp] theorem giveBack_rsm (t : Nat) : (giveBack s t).rsm = s.rsm := by unfold giveBack; dsimp only; split <;> simp
@[simp] theorem giveBack_x (t : Nat) : (giveBack s t).x = s.x := by unfold giveBack; dsimp only; split <;> simp
@[simp] theorem giveBack_keep (t : Nat) : (giveBack s t).keep = s.keep := by unfold giveBack; dsimp only; split <;> simp
@[simp] theorem giveBack_store (t : Nat) : (giveBack s t).store = s.store := by unfold giveBack; dsimp only; split <;> simp
@[simp] theorem giveBack_tap (t : Nat) : (giveBack s t).tap = s.tap := by unfold giveBack; dsimp only; split <;> simp
@[simp] theorem giveBack_sent (t : Nat) : (giveBack s t).sent = s.sent := by unfold giveBack; dsimp only; split <;> simp
@[simp] theorem giveBack_pending (t : Nat) : (giveBack s t).pending = s.pending := by unfold giveBack; dsimp only; split <;> simp

@[simp] theorem enforceL_vf (t : Nat) : (enforceL s t).vf = s.vf := by
  unfold enforceL preempt; dsimp only; split
  · split
    · rfl
    · exact foldl_field (·.vf) _ (fun s (b : Nat × Nat) => giveBack_vf s b.2) _ s
  · rfl
@[simp] theorem enforceL_ret (t : Nat) : (enforceL s t).ret = s.ret := by
  unfold enforceL preempt; dsimp only; split
  · split
    · rfl
    · exact foldl_field (·.ret) _ (fun s (b : Nat × Nat) => giveBack_ret s b.2) _ s
  · rfl
@[simp] theorem enforceL_copyA (t : Nat) : (enforceL s t).copyA = s.copyA := by
  unfold enforceL preempt; dsimp only; split
  · split
    · rfl
    · exact foldl_field (·.copyA) _ (fun s (b : Nat × Nat) => giveBack_copyA s b.2) _ s
  · rfl
@[simp] theorem enforceL_copyB (t : Nat) : (enforceL s t).copyB = s.copyB := by
  unfold enforceL preempt; dsimp only; split
  · split
    · rfl
    · exact foldl_field (·.copyB) _ (fun s (b : Nat × Nat) => giveBack_copyB s b.2) _ s
  · rfl
@[simp] theorem enforceL_pins (t : Nat) : (enforceL s t).pins = s.pins := by
  unfold enforceL preempt; dsimp only; split
  · split
    · rfl
    · exact foldl_field (·.pins) _ (fun s (b : Nat × Nat) => giveBack_pins s b.2) _ s
  · rfl
@[simp] theorem enforceL_clk (t : Nat) : (enforceL s t).clk = s.clk := by
  unfold enforceL preempt; dsimp only; split
  · split
    · rfl
    · exact foldl_field (·.clk) _ (fun s (b : Nat × Nat) => giveBack_clk s b.2) _ s
  · rfl
@[simp] theorem enforceL_boot (t : Nat) : (enforceL s t).boot = s.boot := by
  unfold enforceL preempt; dsimp only; split
  · split
    · rfl
    · exact foldl_field (·.boot) _ (fun s (b : Nat × Nat) => giveBack_boot s b.2) _ s
  · rfl
@[simp] theorem enforceL_link (t : Nat) : (enforceL s t).link = s.link := by
  unfold enforceL preempt; dsimp only; split
  · split
    · rfl
    · exact foldl_field (·.link) _ (fun s (b : Nat × Nat) => giveBack_link s b.2) _ s
  · rfl
@[simp] theorem enforceL_prog (t : Nat) : (enforceL s t).prog = s.prog := by
  unfold enforceL preempt; dsimp only; split
  · split
    · rfl
    · exact foldl_field (·.prog) _ (fun s (b : Nat × Nat) => giveBack_prog s b.2) _ s
  · rfl
@[simp] theorem enforceL_ctx (t : Nat) : (enforceL s t).ctx = s.ctx := by
  unfold enforceL preempt; dsimp only; split
  · split
    · rfl
    · exact foldl_field (·.ctx) _ (fun s (b : Nat × Nat) => giveBack_ctx s b.2) _ s
  · rfl
@[simp] theorem enforceL_mem (t : Nat) : (enforceL s t).mem = s.mem := by
  unfold enforceL preempt; dsimp only; split
  · split
    · rfl
    · exact foldl_field (·.mem) _ (fun s (b : Nat × Nat) => giveBack_mem s b.2) _ s
  · rfl
@[simp] theorem enforceL_buf (t : Nat) : (enforceL s t).buf = s.buf := by
  unfold enforceL preempt; dsimp only; split
  · split
    · rfl
    · exact foldl_field (·.buf) _ (fun s (b : Nat × Nat) => giveBack_buf s b.2) _ s
  · rfl
@[simp] theorem enforceL_slices (t : Nat) : (enforceL s t).slices = s.slices := by
  unfold enforceL preempt; dsimp only; split
  · split
    · rfl
    · exact foldl_field (·.slices) _ (fun s (b : Nat × Nat) => giveBack_slices s b.2) _ s
  · rfl
@[simp] theorem enforceL_strides (t : Nat) : (enforceL s t).strides = s.strides := by
  unfold enforceL preempt; dsimp only; split
  · split
    · rfl
    · exact foldl_field (·.strides) _ (fun s (b : Nat × Nat) => giveBack_strides s b.2) _ s
  · rfl
@[simp] theorem enforceL_map (t : Nat) : (enforceL s t).map = s.map := by
  unfold enforceL preempt; dsimp only; split
  · split
    · rfl
    · exact foldl_field (·.map) _ (fun s (b : Nat × Nat) => giveBack_map s b.2) _ s
  · rfl
@[simp] theorem enforceL_ck (t : Nat) : (enforceL s t).ck = s.ck := by
  unfold enforceL preempt; dsimp only; split
  · split
    · rfl
    · exact foldl_field (·.ck) _ (fun s (b : Nat × Nat) => giveBack_ck s b.2) _ s
  · rfl
@[simp] theorem enforceL_ch (t : Nat) : (enforceL s t).ch = s.ch := by
  unfold enforceL preempt; dsimp only; split
  · split
    · rfl
    · exact foldl_field (·.ch) _ (fun s (b : Nat × Nat) => giveBack_ch s b.2) _ s
  · rfl
@[simp] theorem enforceL_md (t : Nat) : (enforceL s t).md = s.md := by
  unfold enforceL preempt; dsimp only; split
  · split
    · rfl
    · exact foldl_field (·.md) _ (fun s (b : Nat × Nat) => giveBack_md s b.2) _ s
  · rfl
@[simp] theorem enforceL_sif (t : Nat) : (enforceL s t).sif = s.sif := by
  unfold enforceL preempt; dsimp only; split
  · split
    · rfl
    · exact foldl_field (·.sif) _ (fun s (b : Nat × Nat) => giveBack_sif s b.2) _ s
  · rfl
@[simp] theorem enforceL_ring (t : Nat) : (enforceL s t).ring = s.ring := by
  unfold enforceL preempt; dsimp only; split
  · split
    · rfl
    · exact foldl_field (·.ring) _ (fun s (b : Nat × Nat) => giveBack_ring s b.2) _ s
  · rfl
@[simp] theorem enforceL_trigs (t : Nat) : (enforceL s t).trigs = s.trigs := by
  unfold enforceL preempt; dsimp only; split
  · split
    · rfl
    · exact foldl_field (·.trigs) _ (fun s (b : Nat × Nat) => giveBack_trigs s b.2) _ s
  · rfl
@[simp] theorem enforceL_rsm (t : Nat) : (enforceL s t).rsm = s.rsm := by
  unfold enforceL preempt; dsimp only; split
  · split
    · rfl
    · exact foldl_field (·.rsm) _ (fun s (b : Nat × Nat) => giveBack_rsm s b.2) _ s
  · rfl
@[simp] theorem enforceL_x (t : Nat) : (enforceL s t).x = s.x := by
  unfold enforceL preempt; dsimp only; split
  · split
    · rfl
    · exact foldl_field (·.x) _ (fun s (b : Nat × Nat) => giveBack_x s b.2) _ s
  · rfl
@[simp] theorem enforceL_keep (t : Nat) : (enforceL s t).keep = s.keep := by
  unfold enforceL preempt; dsimp only; split
  · split
    · rfl
    · exact foldl_field (·.keep) _ (fun s (b : Nat × Nat) => giveBack_keep s b.2) _ s
  · rfl
@[simp] theorem enforceL_store (t : Nat) : (enforceL s t).store = s.store := by
  unfold enforceL preempt; dsimp only; split
  · split
    · rfl
    · exact foldl_field (·.store) _ (fun s (b : Nat × Nat) => giveBack_store s b.2) _ s
  · rfl
@[simp] theorem enforceL_tap (t : Nat) : (enforceL s t).tap = s.tap := by
  unfold enforceL preempt; dsimp only; split
  · split
    · rfl
    · exact foldl_field (·.tap) _ (fun s (b : Nat × Nat) => giveBack_tap s b.2) _ s
  · rfl
@[simp] theorem enforceL_sent (t : Nat) : (enforceL s t).sent = s.sent := by
  unfold enforceL preempt; dsimp only; split
  · split
    · rfl
    · exact foldl_field (·.sent) _ (fun s (b : Nat × Nat) => giveBack_sent s b.2) _ s
  · rfl
@[simp] theorem enforceL_pending (t : Nat) : (enforceL s t).pending = s.pending := by
  unfold enforceL preempt; dsimp only; split
  · split
    · rfl
    · exact foldl_field (·.pending) _ (fun s (b : Nat × Nat) => giveBack_pending s b.2) _ s
  · rfl

/-! ### toReady -/

@[simp] theorem toReady_vf (t : Nat) : (toReady s t).vf = s.vf := by unfold toReady; dsimp only; split <;> simp
@[simp] theorem toReady_ret (t : Nat) : (toReady s t).ret = s.ret := by unfold toReady; dsimp only; split <;> simp
@[simp] theorem toReady_copyA (t : Nat) : (toReady s t).copyA = s.copyA := by unfold toReady; dsimp only; split <;> simp
@[simp] theorem toReady_copyB (t : Nat) : (toReady s t).copyB = s.copyB := by unfold toReady; dsimp only; split <;> simp
@[simp] theorem toReady_pins (t : Nat) : (toReady s t).pins = s.pins := by unfold toReady; dsimp only; split <;> simp
@[simp] theorem toReady_clk (t : Nat) : (toReady s t).clk = s.clk := by unfold toReady; dsimp only; split <;> simp
@[simp] theorem toReady_boot (t : Nat) : (toReady s t).boot = s.boot := by unfold toReady; dsimp only; split <;> simp
@[simp] theorem toReady_link (t : Nat) : (toReady s t).link = s.link := by unfold toReady; dsimp only; split <;> simp
@[simp] theorem toReady_prog (t : Nat) : (toReady s t).prog = s.prog := by unfold toReady; dsimp only; split <;> simp
@[simp] theorem toReady_ctx (t : Nat) : (toReady s t).ctx = s.ctx := by unfold toReady; dsimp only; split <;> simp
@[simp] theorem toReady_mem (t : Nat) : (toReady s t).mem = s.mem := by unfold toReady; dsimp only; split <;> simp
@[simp] theorem toReady_buf (t : Nat) : (toReady s t).buf = s.buf := by unfold toReady; dsimp only; split <;> simp
@[simp] theorem toReady_slices (t : Nat) : (toReady s t).slices = s.slices := by unfold toReady; dsimp only; split <;> simp
@[simp] theorem toReady_strides (t : Nat) : (toReady s t).strides = s.strides := by unfold toReady; dsimp only; split <;> simp
@[simp] theorem toReady_map (t : Nat) : (toReady s t).map = s.map := by unfold toReady; dsimp only; split <;> simp
@[simp] theorem toReady_ck (t : Nat) : (toReady s t).ck = s.ck := by unfold toReady; dsimp only; split <;> simp
@[simp] theorem toReady_ch (t : Nat) : (toReady s t).ch = s.ch := by unfold toReady; dsimp only; split <;> simp
@[simp] theorem toReady_md (t : Nat) : (toReady s t).md = s.md := by unfold toReady; dsimp only; split <;> simp
@[simp] theorem toReady_sif (t : Nat) : (toReady s t).sif = s.sif := by unfold toReady; dsimp only; split <;> simp
@[simp] theorem toReady_ring (t : Nat) : (toReady s t).ring = s.ring := by unfold toReady; dsimp only; split <;> simp
@[simp] theorem toReady_trigs (t : Nat) : (toReady s t).trigs = s.trigs := by unfold toReady; dsimp only; split <;> simp
@[simp] theorem toReady_rsm (t : Nat) : (toReady s t).rsm = s.rsm := by unfold toReady; dsimp only; split <;> simp
@[simp] theorem toReady_x (t : Nat) : (toReady s t).x = s.x := by unfold toReady; dsimp only; split <;> simp
@[simp] theorem toReady_keep (t : Nat) : (toReady s t).keep = s.keep := by unfold toReady; dsimp only; split <;> simp
@[simp] theorem toReady_store (t : Nat) : (toReady s t).store = s.store := by unfold toReady; dsimp only; split <;> simp
@[simp] theorem toReady_tap (t : Nat) : (toReady s t).tap = s.tap := by unfold toReady; dsimp only; split <;> simp
@[simp] theorem toReady_sent (t : Nat) : (toReady s t).sent = s.sent := by unfold toReady; dsimp only; split <;> simp
@[simp] theorem toReady_pending (t : Nat) : (toReady s t).pending = s.pending := by unfold toReady; dsimp only; split <;> simp

/-! ### releaseWith -/

@[simp] theorem releaseWith_vf (t r : Nat) (v : W64) : (releaseWith s t r v).vf = s.vf := by simp [releaseWith]
@[simp] theorem releaseWith_ret (t r : Nat) (v : W64) : (releaseWith s t r v).ret = s.ret := by simp [releaseWith]
@[simp] theorem releaseWith_copyA (t r : Nat) (v : W64) : (releaseWith s t r v).copyA = s.copyA := by simp [releaseWith]
@[simp] theorem releaseWith_copyB (t r : Nat) (v : W64) : (releaseWith s t r v).copyB = s.copyB := by simp [releaseWith]
@[simp] theorem releaseWith_pins (t r : Nat) (v : W64) : (releaseWith s t r v).pins = s.pins := by simp [releaseWith]
@[simp] theorem releaseWith_clk (t r : Nat) (v : W64) : (releaseWith s t r v).clk = s.clk := by simp [releaseWith]
@[simp] theorem releaseWith_boot (t r : Nat) (v : W64) : (releaseWith s t r v).boot = s.boot := by simp [releaseWith]
@[simp] theorem releaseWith_link (t r : Nat) (v : W64) : (releaseWith s t r v).link = s.link := by simp [releaseWith]
@[simp] theorem releaseWith_prog (t r : Nat) (v : W64) : (releaseWith s t r v).prog = s.prog := by simp [releaseWith]
@[simp] theorem releaseWith_ctx (t r : Nat) (v : W64) : (releaseWith s t r v).ctx = s.ctx := by simp [releaseWith]
@[simp] theorem releaseWith_mem (t r : Nat) (v : W64) : (releaseWith s t r v).mem = s.mem := by simp [releaseWith]
@[simp] theorem releaseWith_buf (t r : Nat) (v : W64) : (releaseWith s t r v).buf = s.buf := by simp [releaseWith]
@[simp] theorem releaseWith_slices (t r : Nat) (v : W64) : (releaseWith s t r v).slices = s.slices := by simp [releaseWith]
@[simp] theorem releaseWith_strides (t r : Nat) (v : W64) : (releaseWith s t r v).strides = s.strides := by simp [releaseWith]
@[simp] theorem releaseWith_map (t r : Nat) (v : W64) : (releaseWith s t r v).map = s.map := by simp [releaseWith]
@[simp] theorem releaseWith_ck (t r : Nat) (v : W64) : (releaseWith s t r v).ck = s.ck := by simp [releaseWith]
@[simp] theorem releaseWith_ch (t r : Nat) (v : W64) : (releaseWith s t r v).ch = s.ch := by simp [releaseWith]
@[simp] theorem releaseWith_md (t r : Nat) (v : W64) : (releaseWith s t r v).md = s.md := by simp [releaseWith]
@[simp] theorem releaseWith_sif (t r : Nat) (v : W64) : (releaseWith s t r v).sif = s.sif := by simp [releaseWith]
@[simp] theorem releaseWith_ring (t r : Nat) (v : W64) : (releaseWith s t r v).ring = s.ring := by simp [releaseWith]
@[simp] theorem releaseWith_trigs (t r : Nat) (v : W64) : (releaseWith s t r v).trigs = s.trigs := by simp [releaseWith]
@[simp] theorem releaseWith_rsm (t r : Nat) (v : W64) : (releaseWith s t r v).rsm = s.rsm := by simp [releaseWith]
@[simp] theorem releaseWith_x (t r : Nat) (v : W64) : (releaseWith s t r v).x = s.x := by simp [releaseWith]
@[simp] theorem releaseWith_keep (t r : Nat) (v : W64) : (releaseWith s t r v).keep = s.keep := by simp [releaseWith]
@[simp] theorem releaseWith_store (t r : Nat) (v : W64) : (releaseWith s t r v).store = s.store := by simp [releaseWith]
@[simp] theorem releaseWith_tap (t r : Nat) (v : W64) : (releaseWith s t r v).tap = s.tap := by simp [releaseWith]
@[simp] theorem releaseWith_sent (t r : Nat) (v : W64) : (releaseWith s t r v).sent = s.sent := by simp [releaseWith]
@[simp] theorem releaseWith_pending (t r : Nat) (v : W64) : (releaseWith s t r v).pending = s.pending := by simp [releaseWith]

/-! ### counted -/

@[simp] theorem counted_pins (t : Nat) : (counted s t).pins = s.pins := by simp [counted]
@[simp] theorem counted_clk (t : Nat) : (counted s t).clk = s.clk := by simp [counted]
@[simp] theorem counted_boot (t : Nat) : (counted s t).boot = s.boot := by simp [counted]
@[simp] theorem counted_link (t : Nat) : (counted s t).link = s.link := by simp [counted]
@[simp] theorem counted_prog (t : Nat) : (counted s t).prog = s.prog := by simp [counted]
@[simp] theorem counted_ctx (t : Nat) : (counted s t).ctx = s.ctx := by simp [counted]
@[simp] theorem counted_mem (t : Nat) : (counted s t).mem = s.mem := by simp [counted]
@[simp] theorem counted_buf (t : Nat) : (counted s t).buf = s.buf := by simp [counted]
@[simp] theorem counted_slices (t : Nat) : (counted s t).slices = s.slices := by simp [counted]
@[simp] theorem counted_strides (t : Nat) : (counted s t).strides = s.strides := by simp [counted]
@[simp] theorem counted_map (t : Nat) : (counted s t).map = s.map := by simp [counted]
@[simp] theorem counted_ck (t : Nat) : (counted s t).ck = s.ck := by simp [counted]
@[simp] theorem counted_ch (t : Nat) : (counted s t).ch = s.ch := by simp [counted]
@[simp] theorem counted_md (t : Nat) : (counted s t).md = s.md := by simp [counted]
@[simp] theorem counted_sif (t : Nat) : (counted s t).sif = s.sif := by simp [counted]
@[simp] theorem counted_ring (t : Nat) : (counted s t).ring = s.ring := by simp [counted]
@[simp] theorem counted_trigs (t : Nat) : (counted s t).trigs = s.trigs := by simp [counted]
@[simp] theorem counted_order (t : Nat) : (counted s t).order = s.order := by simp [counted]
@[simp] theorem counted_d (t : Nat) : (counted s t).d = s.d := by simp [counted]
@[simp] theorem counted_rsm (t : Nat) : (counted s t).rsm = s.rsm := by simp [counted]
@[simp] theorem counted_x (t : Nat) : (counted s t).x = s.x := by simp [counted]
@[simp] theorem counted_keep (t : Nat) : (counted s t).keep = s.keep := by simp [counted]
@[simp] theorem counted_store (t : Nat) : (counted s t).store = s.store := by simp [counted]
@[simp] theorem counted_tap (t : Nat) : (counted s t).tap = s.tap := by simp [counted]
@[simp] theorem counted_sent (t : Nat) : (counted s t).sent = s.sent := by simp [counted]
@[simp] theorem counted_pending (t : Nat) : (counted s t).pending = s.pending := by simp [counted]

/-! ### adv -/

@[simp] theorem adv_pins (t : Nat) : (adv s t).pins = s.pins := by simp [adv]
@[simp] theorem adv_clk (t : Nat) : (adv s t).clk = s.clk := by simp [adv]
@[simp] theorem adv_boot (t : Nat) : (adv s t).boot = s.boot := by simp [adv]
@[simp] theorem adv_link (t : Nat) : (adv s t).link = s.link := by simp [adv]
@[simp] theorem adv_prog (t : Nat) : (adv s t).prog = s.prog := by simp [adv]
@[simp] theorem adv_ctx (t : Nat) : (adv s t).ctx = s.ctx := by simp [adv]
@[simp] theorem adv_mem (t : Nat) : (adv s t).mem = s.mem := by simp [adv]
@[simp] theorem adv_buf (t : Nat) : (adv s t).buf = s.buf := by simp [adv]
@[simp] theorem adv_slices (t : Nat) : (adv s t).slices = s.slices := by simp [adv]
@[simp] theorem adv_strides (t : Nat) : (adv s t).strides = s.strides := by simp [adv]
@[simp] theorem adv_map (t : Nat) : (adv s t).map = s.map := by simp [adv]
@[simp] theorem adv_ck (t : Nat) : (adv s t).ck = s.ck := by simp [adv]
@[simp] theorem adv_ch (t : Nat) : (adv s t).ch = s.ch := by simp [adv]
@[simp] theorem adv_md (t : Nat) : (adv s t).md = s.md := by simp [adv]
@[simp] theorem adv_sif (t : Nat) : (adv s t).sif = s.sif := by simp [adv]
@[simp] theorem adv_ring (t : Nat) : (adv s t).ring = s.ring := by simp [adv]
@[simp] theorem adv_trigs (t : Nat) : (adv s t).trigs = s.trigs := by simp [adv]
@[simp] theorem adv_order (t : Nat) : (adv s t).order = s.order := by simp [adv]
@[simp] theorem adv_d (t : Nat) : (adv s t).d = s.d := by simp [adv]
@[simp] theorem adv_rsm (t : Nat) : (adv s t).rsm = s.rsm := by simp [adv]
@[simp] theorem adv_x (t : Nat) : (adv s t).x = s.x := by simp [adv]
@[simp] theorem adv_keep (t : Nat) : (adv s t).keep = s.keep := by simp [adv]
@[simp] theorem adv_store (t : Nat) : (adv s t).store = s.store := by simp [adv]
@[simp] theorem adv_tap (t : Nat) : (adv s t).tap = s.tap := by simp [adv]
@[simp] theorem adv_sent (t : Nat) : (adv s t).sent = s.sent := by simp [adv]
@[simp] theorem adv_pending (t : Nat) : (adv s t).pending = s.pending := by simp [adv]

/-! ### retire -/

@[simp] theorem retire_pins (t r : Nat) (v : W64) : (retire s t r v).pins = s.pins := by simp [retire]
@[simp] theorem retire_clk (t r : Nat) (v : W64) : (retire s t r v).clk = s.clk := by simp [retire]
@[simp] theorem retire_boot (t r : Nat) (v : W64) : (retire s t r v).boot = s.boot := by simp [retire]
@[simp] theorem retire_link (t r : Nat) (v : W64) : (retire s t r v).link = s.link := by simp [retire]
@[simp] theorem retire_prog (t r : Nat) (v : W64) : (retire s t r v).prog = s.prog := by simp [retire]
@[simp] theorem retire_ctx (t r : Nat) (v : W64) : (retire s t r v).ctx = s.ctx := by simp [retire]
@[simp] theorem retire_mem (t r : Nat) (v : W64) : (retire s t r v).mem = s.mem := by simp [retire]
@[simp] theorem retire_buf (t r : Nat) (v : W64) : (retire s t r v).buf = s.buf := by simp [retire]
@[simp] theorem retire_slices (t r : Nat) (v : W64) : (retire s t r v).slices = s.slices := by simp [retire]
@[simp] theorem retire_strides (t r : Nat) (v : W64) : (retire s t r v).strides = s.strides := by simp [retire]
@[simp] theorem retire_map (t r : Nat) (v : W64) : (retire s t r v).map = s.map := by simp [retire]
@[simp] theorem retire_ck (t r : Nat) (v : W64) : (retire s t r v).ck = s.ck := by simp [retire]
@[simp] theorem retire_ch (t r : Nat) (v : W64) : (retire s t r v).ch = s.ch := by simp [retire]
@[simp] theorem retire_md (t r : Nat) (v : W64) : (retire s t r v).md = s.md := by simp [retire]
@[simp] theorem retire_sif (t r : Nat) (v : W64) : (retire s t r v).sif = s.sif := by simp [retire]
@[simp] theorem retire_ring (t r : Nat) (v : W64) : (retire s t r v).ring = s.ring := by simp [retire]
@[simp] theorem retire_trigs (t r : Nat) (v : W64) : (retire s t r v).trigs = s.trigs := by simp [retire]
@[simp] theorem retire_order (t r : Nat) (v : W64) : (retire s t r v).order = s.order := by simp [retire]
@[simp] theorem retire_d (t r : Nat) (v : W64) : (retire s t r v).d = s.d := by simp [retire]
@[simp] theorem retire_rsm (t r : Nat) (v : W64) : (retire s t r v).rsm = s.rsm := by simp [retire]
@[simp] theorem retire_x (t r : Nat) (v : W64) : (retire s t r v).x = s.x := by simp [retire]
@[simp] theorem retire_keep (t r : Nat) (v : W64) : (retire s t r v).keep = s.keep := by simp [retire]
@[simp] theorem retire_store (t r : Nat) (v : W64) : (retire s t r v).store = s.store := by simp [retire]
@[simp] theorem retire_tap (t r : Nat) (v : W64) : (retire s t r v).tap = s.tap := by simp [retire]
@[simp] theorem retire_sent (t r : Nat) (v : W64) : (retire s t r v).sent = s.sent := by simp [retire]
@[simp] theorem retire_pending (t r : Nat) (v : W64) : (retire s t r v).pending = s.pending := by simp [retire]

/-! ### msixOn -/

@[simp] theorem msixOn_vf (p v : Nat) : (msixOn s p v).vf = s.vf := by unfold msixOn; split <;> rfl
@[simp] theorem msixOn_ret (p v : Nat) : (msixOn s p v).ret = s.ret := by unfold msixOn; split <;> rfl
@[simp] theorem msixOn_copyA (p v : Nat) : (msixOn s p v).copyA = s.copyA := by unfold msixOn; split <;> rfl
@[simp] theorem msixOn_copyB (p v : Nat) : (msixOn s p v).copyB = s.copyB := by unfold msixOn; split <;> rfl
@[simp] theorem msixOn_pins (p v : Nat) : (msixOn s p v).pins = s.pins := by unfold msixOn; split <;> rfl
@[simp] theorem msixOn_clk (p v : Nat) : (msixOn s p v).clk = s.clk := by unfold msixOn; split <;> rfl
@[simp] theorem msixOn_boot (p v : Nat) : (msixOn s p v).boot = s.boot := by unfold msixOn; split <;> rfl
@[simp] theorem msixOn_prog (p v : Nat) : (msixOn s p v).prog = s.prog := by unfold msixOn; split <;> rfl
@[simp] theorem msixOn_ctx (p v : Nat) : (msixOn s p v).ctx = s.ctx := by unfold msixOn; split <;> rfl
@[simp] theorem msixOn_thr (p v : Nat) : (msixOn s p v).thr = s.thr := by unfold msixOn; split <;> rfl
@[simp] theorem msixOn_mem (p v : Nat) : (msixOn s p v).mem = s.mem := by unfold msixOn; split <;> rfl
@[simp] theorem msixOn_buf (p v : Nat) : (msixOn s p v).buf = s.buf := by unfold msixOn; split <;> rfl
@[simp] theorem msixOn_slices (p v : Nat) : (msixOn s p v).slices = s.slices := by unfold msixOn; split <;> rfl
@[simp] theorem msixOn_strides (p v : Nat) : (msixOn s p v).strides = s.strides := by unfold msixOn; split <;> rfl
@[simp] theorem msixOn_map (p v : Nat) : (msixOn s p v).map = s.map := by unfold msixOn; split <;> rfl
@[simp] theorem msixOn_ck (p v : Nat) : (msixOn s p v).ck = s.ck := by unfold msixOn; split <;> rfl
@[simp] theorem msixOn_ch (p v : Nat) : (msixOn s p v).ch = s.ch := by unfold msixOn; split <;> rfl
@[simp] theorem msixOn_md (p v : Nat) : (msixOn s p v).md = s.md := by unfold msixOn; split <;> rfl
@[simp] theorem msixOn_sif (p v : Nat) : (msixOn s p v).sif = s.sif := by unfold msixOn; split <;> rfl
@[simp] theorem msixOn_ring (p v : Nat) : (msixOn s p v).ring = s.ring := by unfold msixOn; split <;> rfl
@[simp] theorem msixOn_trigs (p v : Nat) : (msixOn s p v).trigs = s.trigs := by unfold msixOn; split <;> rfl
@[simp] theorem msixOn_order (p v : Nat) : (msixOn s p v).order = s.order := by unfold msixOn; split <;> rfl
@[simp] theorem msixOn_d (p v : Nat) : (msixOn s p v).d = s.d := by unfold msixOn; split <;> rfl
@[simp] theorem msixOn_rsm (p v : Nat) : (msixOn s p v).rsm = s.rsm := by unfold msixOn; split <;> rfl
@[simp] theorem msixOn_x (p v : Nat) : (msixOn s p v).x = s.x := by unfold msixOn; split <;> rfl
@[simp] theorem msixOn_keep (p v : Nat) : (msixOn s p v).keep = s.keep := by unfold msixOn; split <;> rfl
@[simp] theorem msixOn_store (p v : Nat) : (msixOn s p v).store = s.store := by unfold msixOn; split <;> rfl
@[simp] theorem msixOn_tap (p v : Nat) : (msixOn s p v).tap = s.tap := by unfold msixOn; split <;> rfl
@[simp] theorem msixOn_pending (p v : Nat) : (msixOn s p v).pending = s.pending := by unfold msixOn; split <;> rfl

/-! ### event -/

@[simp] theorem event_vf (v : Nat) : (event s v).vf = s.vf := by
  unfold event; exact foldl_field (·.vf) _ (fun s p => by split <;> simp) _ s
@[simp] theorem event_ret (v : Nat) : (event s v).ret = s.ret := by
  unfold event; exact foldl_field (·.ret) _ (fun s p => by split <;> simp) _ s
@[simp] theorem event_copyA (v : Nat) : (event s v).copyA = s.copyA := by
  unfold event; exact foldl_field (·.copyA) _ (fun s p => by split <;> simp) _ s
@[simp] theorem event_copyB (v : Nat) : (event s v).copyB = s.copyB := by
  unfold event; exact foldl_field (·.copyB) _ (fun s p => by split <;> simp) _ s
@[simp] theorem event_pins (v : Nat) : (event s v).pins = s.pins := by
  unfold event; exact foldl_field (·.pins) _ (fun s p => by split <;> simp) _ s
@[simp] theorem event_clk (v : Nat) : (event s v).clk = s.clk := by
  unfold event; exact foldl_field (·.clk) _ (fun s p => by split <;> simp) _ s
@[simp] theorem event_boot (v : Nat) : (event s v).boot = s.boot := by
  unfold event; exact foldl_field (·.boot) _ (fun s p => by split <;> simp) _ s
@[simp] theorem event_prog (v : Nat) : (event s v).prog = s.prog := by
  unfold event; exact foldl_field (·.prog) _ (fun s p => by split <;> simp) _ s
@[simp] theorem event_ctx (v : Nat) : (event s v).ctx = s.ctx := by
  unfold event; exact foldl_field (·.ctx) _ (fun s p => by split <;> simp) _ s
@[simp] theorem event_thr (v : Nat) : (event s v).thr = s.thr := by
  unfold event; exact foldl_field (·.thr) _ (fun s p => by split <;> simp) _ s
@[simp] theorem event_mem (v : Nat) : (event s v).mem = s.mem := by
  unfold event; exact foldl_field (·.mem) _ (fun s p => by split <;> simp) _ s
@[simp] theorem event_buf (v : Nat) : (event s v).buf = s.buf := by
  unfold event; exact foldl_field (·.buf) _ (fun s p => by split <;> simp) _ s
@[simp] theorem event_slices (v : Nat) : (event s v).slices = s.slices := by
  unfold event; exact foldl_field (·.slices) _ (fun s p => by split <;> simp) _ s
@[simp] theorem event_strides (v : Nat) : (event s v).strides = s.strides := by
  unfold event; exact foldl_field (·.strides) _ (fun s p => by split <;> simp) _ s
@[simp] theorem event_map (v : Nat) : (event s v).map = s.map := by
  unfold event; exact foldl_field (·.map) _ (fun s p => by split <;> simp) _ s
@[simp] theorem event_ck (v : Nat) : (event s v).ck = s.ck := by
  unfold event; exact foldl_field (·.ck) _ (fun s p => by split <;> simp) _ s
@[simp] theorem event_ch (v : Nat) : (event s v).ch = s.ch := by
  unfold event; exact foldl_field (·.ch) _ (fun s p => by split <;> simp) _ s
@[simp] theorem event_md (v : Nat) : (event s v).md = s.md := by
  unfold event; exact foldl_field (·.md) _ (fun s p => by split <;> simp) _ s
@[simp] theorem event_sif (v : Nat) : (event s v).sif = s.sif := by
  unfold event; exact foldl_field (·.sif) _ (fun s p => by split <;> simp) _ s
@[simp] theorem event_ring (v : Nat) : (event s v).ring = s.ring := by
  unfold event; exact foldl_field (·.ring) _ (fun s p => by split <;> simp) _ s
@[simp] theorem event_trigs (v : Nat) : (event s v).trigs = s.trigs := by
  unfold event; exact foldl_field (·.trigs) _ (fun s p => by split <;> simp) _ s
@[simp] theorem event_order (v : Nat) : (event s v).order = s.order := by
  unfold event; exact foldl_field (·.order) _ (fun s p => by split <;> simp) _ s
@[simp] theorem event_d (v : Nat) : (event s v).d = s.d := by
  unfold event; exact foldl_field (·.d) _ (fun s p => by split <;> simp) _ s
@[simp] theorem event_rsm (v : Nat) : (event s v).rsm = s.rsm := by
  unfold event; exact foldl_field (·.rsm) _ (fun s p => by split <;> simp) _ s
@[simp] theorem event_x (v : Nat) : (event s v).x = s.x := by
  unfold event; exact foldl_field (·.x) _ (fun s p => by split <;> simp) _ s
@[simp] theorem event_keep (v : Nat) : (event s v).keep = s.keep := by
  unfold event; exact foldl_field (·.keep) _ (fun s p => by split <;> simp) _ s
@[simp] theorem event_store (v : Nat) : (event s v).store = s.store := by
  unfold event; exact foldl_field (·.store) _ (fun s p => by split <;> simp) _ s
@[simp] theorem event_tap (v : Nat) : (event s v).tap = s.tap := by
  unfold event; exact foldl_field (·.tap) _ (fun s p => by split <;> simp) _ s
@[simp] theorem event_pending (v : Nat) : (event s v).pending = s.pending := by
  unfold event; exact foldl_field (·.pending) _ (fun s p => by split <;> simp) _ s

/-! ### answerHelm -/

@[simp] theorem answerHelm_vf (n : Nat) (e : Ending) (o : List Byte) : (answerHelm s n e o).vf = s.vf := rfl
@[simp] theorem answerHelm_ret (n : Nat) (e : Ending) (o : List Byte) : (answerHelm s n e o).ret = s.ret := rfl
@[simp] theorem answerHelm_copyA (n : Nat) (e : Ending) (o : List Byte) : (answerHelm s n e o).copyA = s.copyA := rfl
@[simp] theorem answerHelm_copyB (n : Nat) (e : Ending) (o : List Byte) : (answerHelm s n e o).copyB = s.copyB := rfl
@[simp] theorem answerHelm_pins (n : Nat) (e : Ending) (o : List Byte) : (answerHelm s n e o).pins = s.pins := rfl
@[simp] theorem answerHelm_clk (n : Nat) (e : Ending) (o : List Byte) : (answerHelm s n e o).clk = s.clk := rfl
@[simp] theorem answerHelm_boot (n : Nat) (e : Ending) (o : List Byte) : (answerHelm s n e o).boot = s.boot := rfl
@[simp] theorem answerHelm_link (n : Nat) (e : Ending) (o : List Byte) : (answerHelm s n e o).link = s.link := rfl
@[simp] theorem answerHelm_prog (n : Nat) (e : Ending) (o : List Byte) : (answerHelm s n e o).prog = s.prog := rfl
@[simp] theorem answerHelm_ctx (n : Nat) (e : Ending) (o : List Byte) : (answerHelm s n e o).ctx = s.ctx := rfl
@[simp] theorem answerHelm_thr (n : Nat) (e : Ending) (o : List Byte) : (answerHelm s n e o).thr = s.thr := rfl
@[simp] theorem answerHelm_mem (n : Nat) (e : Ending) (o : List Byte) : (answerHelm s n e o).mem = s.mem := rfl
@[simp] theorem answerHelm_buf (n : Nat) (e : Ending) (o : List Byte) : (answerHelm s n e o).buf = s.buf := rfl
@[simp] theorem answerHelm_slices (n : Nat) (e : Ending) (o : List Byte) : (answerHelm s n e o).slices = s.slices := rfl
@[simp] theorem answerHelm_strides (n : Nat) (e : Ending) (o : List Byte) : (answerHelm s n e o).strides = s.strides := rfl
@[simp] theorem answerHelm_map (n : Nat) (e : Ending) (o : List Byte) : (answerHelm s n e o).map = s.map := rfl
@[simp] theorem answerHelm_ck (n : Nat) (e : Ending) (o : List Byte) : (answerHelm s n e o).ck = s.ck := rfl
@[simp] theorem answerHelm_ch (n : Nat) (e : Ending) (o : List Byte) : (answerHelm s n e o).ch = s.ch := rfl
@[simp] theorem answerHelm_md (n : Nat) (e : Ending) (o : List Byte) : (answerHelm s n e o).md = s.md := rfl
@[simp] theorem answerHelm_sif (n : Nat) (e : Ending) (o : List Byte) : (answerHelm s n e o).sif = s.sif := rfl
@[simp] theorem answerHelm_ring (n : Nat) (e : Ending) (o : List Byte) : (answerHelm s n e o).ring = s.ring := rfl
@[simp] theorem answerHelm_trigs (n : Nat) (e : Ending) (o : List Byte) : (answerHelm s n e o).trigs = s.trigs := rfl
@[simp] theorem answerHelm_order (n : Nat) (e : Ending) (o : List Byte) : (answerHelm s n e o).order = s.order := rfl
@[simp] theorem answerHelm_rsm (n : Nat) (e : Ending) (o : List Byte) : (answerHelm s n e o).rsm = s.rsm := rfl
@[simp] theorem answerHelm_x (n : Nat) (e : Ending) (o : List Byte) : (answerHelm s n e o).x = s.x := rfl
@[simp] theorem answerHelm_keep (n : Nat) (e : Ending) (o : List Byte) : (answerHelm s n e o).keep = s.keep := rfl
@[simp] theorem answerHelm_store (n : Nat) (e : Ending) (o : List Byte) : (answerHelm s n e o).store = s.store := rfl
@[simp] theorem answerHelm_tap (n : Nat) (e : Ending) (o : List Byte) : (answerHelm s n e o).tap = s.tap := rfl
@[simp] theorem answerHelm_sent (n : Nat) (e : Ending) (o : List Byte) : (answerHelm s n e o).sent = s.sent := rfl
@[simp] theorem answerHelm_pending (n : Nat) (e : Ending) (o : List Byte) : (answerHelm s n e o).pending = s.pending := rfl

/-! ### What they change -/

@[simp] theorem th_setTh_same (t : Nat) (y : Thread) : th (setTh s t y) t = y := by simp [th, setTh]
theorem th_setTh_other {t u : Nat} (y : Thread) (h : u ≠ t) : th (setTh s t y) u = th s u := by
  simp [th, setTh, mget_mset_other _ _ _ h]
@[simp] theorem th_modTh_same (t : Nat) (f : Thread → Thread) : th (modTh s t f) t = f (th s t) := by simp [modTh]
theorem th_modTh_other {t u : Nat} (f : Thread → Thread) (h : u ≠ t) : th (modTh s t f) u = th s u := th_setTh_other s _ h
@[simp] theorem cx_setCx_same (c : Nat) (y : Ctx) : cx (setCx s c y) c = y := by simp [cx, setCx]
theorem cx_setCx_other {c e : Nat} (y : Ctx) (h : e ≠ c) : cx (setCx s c y) e = cx s e := by
  simp [cx, setCx, mget_mset_other _ _ _ h]
@[simp] theorem cx_modCx_same (c : Nat) (f : Ctx → Ctx) : cx (modCx s c f) c = f (cx s c) := by simp [modCx]
theorem cx_modCx_other {c e : Nat} (f : Ctx → Ctx) (h : e ≠ c) : cx (modCx s c f) e = cx s e := cx_setCx_other s _ h
@[simp] theorem port_setPort_same (p : Nat) (y : Port) : port (setPort s p y) p = y := by simp [port, setPort]
theorem port_setPort_other {p q : Nat} (y : Port) (h : q ≠ p) : port (setPort s p y) q = port s q := by
  simp [port, setPort, mget_mset_other _ _ _ h]

/-- A stored field reads what was stored, cut to its width. -/
@[simp] theorem getF_setF_same (f : Fld) (v : Nat) : getF (setF s f v) f = v % 2 ^ f.w := by
  unfold getF setF
  by_cases h : f.ret = true <;> simp [h, commit]
  split <;> simp

/-- A field of another key, or of the other store, keeps its value. -/
theorem getF_setF_other {f g : Fld} (v : Nat) (h : (g.key == f.key && g.ret == f.ret) = false) : getF (setF s f v) g = getF s g := by
  simp only [Bool.and_eq_false_iff, beq_eq_false_iff_ne, ne_eq] at h
  unfold getF setF
  by_cases hf : f.ret = true <;> by_cases hg : g.ret = true <;> simp [hf, hg, commit] at h ⊢
  · split <;> simp [mget_mset_other _ _ _ h]
  · split <;> rfl
  · rw [mget_mset_other _ _ _ h]

@[simp] theorem getF_setC_same (f : Fld) (v : Nat) : getF (setC s f v) f = v % 2 ^ f.w := getF_setF_same s f v
theorem getF_setC_other {f g : Fld} (v : Nat) (h : (g.key == f.key && g.ret == f.ret) = false) : getF (setC s f v) g = getF s g :=
  getF_setF_other s v h

/-- A field never reads wider than it is. -/
theorem getF_lt (s : State) (f : Fld) : getF s f < 2 ^ f.w := Nat.mod_lt _ (Nat.two_pow_pos _)

/-- Register fields read the same in two states whose stores agree. -/
theorem getF_congr {s t : State} (f : Fld) (h1 : t.vf = s.vf) (h2 : t.ret = s.ret) : getF t f = getF s f := by
  unfold getF; rw [h1, h2]

@[simp] theorem getF_send (m : Msg) (f : Fld) : getF (send s m) f = getF s f := rfl
@[simp] theorem getF_setTh (t : Nat) (y : Thread) (f : Fld) : getF (setTh s t y) f = getF s f := rfl
@[simp] theorem getF_modTh (t : Nat) (g : Thread → Thread) (f : Fld) : getF (modTh s t g) f = getF s f := rfl
@[simp] theorem getF_modCx (c : Nat) (g : Ctx → Ctx) (f : Fld) : getF (modCx s c g) f = getF s f := rfl
@[simp] theorem getF_setCx (c : Nat) (y : Ctx) (f : Fld) : getF (setCx s c y) f = getF s f := rfl
@[simp] theorem getF_setPort (p : Nat) (y : Port) (f : Fld) : getF (setPort s p y) f = getF s f := rfl
@[simp] theorem getF_tick (f : Fld) : getF (tick s) f = getF s f := rfl
@[simp] theorem getF_logEv (a b : Nat) (l : List Nat) (f : Fld) : getF (logEv s a b l) f = getF s f := rfl
@[simp] theorem getF_setAux (y : Aux) (f : Fld) : getF (setAux s y) f = getF s f := rfl
@[simp] theorem getF_raise (t c e : Nat) (f : Fld) : getF (raise s t c e) f = getF s f := rfl
@[simp] theorem getF_commit (f : Fld) : getF (commit s) f = getF s f := getF_congr f (by simp) (by simp)
theorem elapseSlew_getF (n : Nat) (s : State) (f : Fld) (h : (f.key == CHR_STAT_SLEW.key && f.ret == CHR_STAT_SLEW.ret) = false) :
    getF (if n < 1000 then setF s CHR_STAT_SLEW 0 else s) f = getF s f := by
  split
  · exact getF_setF_other s _ h
  · rfl

/-- Time alone changes one register field, CHR_STAT.SLEW, which falls when less than 1 µs of a slew is left (R41). -/
theorem getF_elapse (e : Elapse) (f : Fld) (h : (f.key == CHR_STAT_SLEW.key && f.ret == CHR_STAT_SLEW.ret) = false) :
    getF (elapse s e) f = getF s f := by
  unfold elapse; dsimp only; split
  · rfl
  · exact elapseSlew_getF _ _ f h
@[simp] theorem getF_event (v : Nat) (f : Fld) : getF (event s v) f = getF s f := getF_congr f (by simp) (by simp)
@[simp] theorem getF_toReady (t : Nat) (f : Fld) : getF (toReady s t) f = getF s f := getF_congr f (by simp) (by simp)
@[simp] theorem getF_answerHelm (n : Nat) (e : Ending) (o : List Byte) (f : Fld) : getF (answerHelm s n e o) f = getF s f := rfl
@[simp] theorem mode_elapse (e : Elapse) : mode (elapse s e) = mode s := getF_elapse s e _ (by decide)

/-- g0 reads zero (R171). -/
@[simp] theorem gr_zero (t : Nat) : gr s t 0 = 0 := rfl

theorem Thread.getG_setG (y : Thread) (r q : Nat) (v : W64) (h : q ≠ 0) :
    mget 0#64 (y.setG r v).g q = if q = r then v else mget 0#64 y.g q := by
  unfold Thread.setG
  by_cases hr : r = 0
  · simp [hr, h]
  · simp only [hr, if_false]
    exact mget_mset 0#64 y.g r q v

@[simp] theorem th_addWrap (f : Fld) (n u : Nat) : th (addWrap s f n) u = th s u := by simp [th]
@[simp] theorem th_setF (f : Fld) (n u : Nat) : th (setF s f n) u = th s u := by simp [th]

/-- What an instruction that retires with `v` in `rd` does (R171, R184): the destination alone, and the pc. -/
theorem gr_retire (t rd q : Nat) (v : W64) : gr (retire s t rd v) t q = if q = rd ∧ q ≠ 0 then v else gr s t q := by
  by_cases h : q = 0
  · simp [h]
  · simp only [gr, h, if_false, retire, adv, counted, ne_eq, not_false_eq_true, and_true, th_addWrap, th_modTh_same]
    exact Thread.getG_setG (th s t) rd q v h

@[simp] theorem pc_retire (t rd : Nat) (v : W64) : (th (retire s t rd v) t).pc = (th s t).pc + 8 := by
  simp [retire, adv, counted, Thread.setG]; split <;> rfl
theorem th_retire_other {t u : Nat} (rd : Nat) (v : W64) (h : u ≠ t) : th (retire s t rd v) u = th s u := by
  simp [retire, adv, counted, th_modTh_other _ _ h]

end Sys2Proof.Machine
end

