-- ==== Sys2Proof/Laws/Anvil.lean ====
section
/-! SUPPORT. What the shared operations of Anvil instructions do: issue, retirement, fault, wait. -/
namespace Sys2Proof.Machine
open Sys2Proof Sys2Proof.Safety

variable (s : State)

theorem issueFld_ret (t : Nat) : (issueFld t).ret = false := by unfold issueFld; split <;> rfl

theorem regsKept_setF (f : Fld) (v : Nat) : RegsKept [f] s (setF s f v) := fun _ h =>
  getF_setF_other s v (h f (List.mem_singleton.2 rfl))

theorem regsKept_of {s u : State} (l : List Fld) (h1 : u.vf = s.vf) (h2 : u.ret = s.ret) : RegsKept l s u := fun f _ =>
  getF_congr f h1 h2

theorem threadsKept_modTh (t : Nat) (f : Thread → Thread) : ThreadsKept t s (modTh s t f) := fun _ h => th_modTh_other s f h

/-- `counted` is the record's two counts and one register field. -/
theorem counted_eq (t : Nat) : counted s t =
    setF (modTh s t fun x => { x with issued := x.issued + 1, runIssued := x.runIssued + 1 }) (issueFld t)
      (getF s (issueFld t) + 1) := by
  unfold counted addWrap issueFld; rfl

theorem setF_frame {f : Fld} (h : f.ret = false) (v : Nat) : setF s f v = { s with vf := (setF s f v).vf } := by
  unfold setF; rw [h]; rfl

/-- Moving past an instruction after a change `f` of the thread's own record. -/
theorem issued_adv (t : Nat) (f : Thread → Thread) : Issued s (adv (modTh s t f) t) t (advanced (f (th s t))) where
  thread := by rw [adv, counted_eq]; simp [advanced]
  threads m hm := by rw [adv, counted_eq]; simp [th_modTh_other _ _ hm]
  count := by rw [adv, counted_eq]; simp
  regs g hg := by rw [adv, counted_eq, getF_setF_other _ _ (hg _ (List.mem_singleton.2 rfl))]; simp
  frame := by rw [adv, counted_eq, setF_frame _ (issueFld_ret t)]; simp

theorem issued_adv' (t : Nat) : Issued s (adv s t) t (advanced (th s t)) where
  thread := by rw [adv, counted_eq]; simp [advanced]
  threads m hm := by rw [adv, counted_eq]; simp [th_modTh_other _ _ hm]
  count := by rw [adv, counted_eq]; simp
  regs g hg := by rw [adv, counted_eq, getF_setF_other _ _ (hg _ (List.mem_singleton.2 rfl))]; simp
  frame := by rw [adv, counted_eq, setF_frame _ (issueFld_ret t)]; simp

/-- An instruction that retires writes its destination alone, and moves on. -/
theorem retired_retire (t rd : Nat) (v : W64) : Retired s (retire s t rd v) t rd v where
  dest h := by rw [gr_retire]; simp [h]
  others r h := by rw [gr_retire]; split <;> simp_all
  issued := by
    have h := issued_adv s t (fun x => x.setG rd v)
    have e : advanced ((th s t).setG rd v) = { advanced (th s t) with g := (th (retire s t rd v) t).g } := by
      have := h.thread
      unfold retire
      rw [this]
      unfold Thread.setG advanced
      split <;> rfl
    exact e ▸ h

theorem faulted_raise (t c k : Nat) (h : (th s t).st = .running) : Faulted s (raise s t c k) t c k where
  thread := by simp [raise, Thread.atPc, h]
  threads m hm := by simp [raise, th_modTh_other _ _ hm]
  frame := rfl

theorem next_act {c : Bool} {s t : State} (h : c = true) : act c s t = .next t := by simp [act, h]

theorem issues_running {s : State} {t w : Nat} (h : issues s t w = true) : (th s t).st = .running := by
  simp [issues] at h; exact h.1.1.1

end Sys2Proof.Machine
end

