-- ==== Sys2Proof/Laws/Memory.lean ====
section
/-! SUPPORT. Every store to a byte memory keeps its canonical form. -/
namespace Sys2Proof.Machine
open Sys2Proof

theorem wf_memReset : Memory.wf State.reset.mem := by decide

theorem wf_dramWr {s : State} (a : Nat) (b : List Byte) (h : Memory.wf s.mem) : Memory.wf (dramWr s a b).mem := by
  unfold dramWr
  split
  · exact h
  · exact ⟨wf_wrBytes a b h.1, h.2⟩

theorem wf_dramClear {s : State} (a n : Nat) (h : Memory.wf s.mem) : Memory.wf (dramClear s a n).mem :=
  ⟨wf_clrBytes a n h.1, h.2⟩

theorem wf_spWr {s : State} (a : Nat) (b : List Byte) (h : Memory.wf s.mem) : Memory.wf (spWr s a b).mem := by
  unfold spWr
  split
  · exact ⟨h.1, h.2.1, wf_wrBytes a b h.2.2⟩
  · exact h

theorem wf_locWr {s : State} (l : Loc) (b : List Byte) (h : Memory.wf s.mem) : Memory.wf (locWr s l b).mem := by
  cases l with
  | sram a => exact ⟨h.1, wf_wrBytes a b h.2.1, h.2.2⟩
  | dram a => exact wf_dramWr a b h

theorem wf_clearBuf {s : State} (b : Buf) (h : Memory.wf s.mem) : Memory.wf (clearBuf s b).mem := by
  unfold clearBuf
  split
  · exact wf_dramClear _ _ (wf_dramClear _ _ h)
  · exact ⟨h.1, wf_clrBytes _ _ (wf_clrBytes _ _ h.2.1), h.2.2⟩
  · exact h

end Sys2Proof.Machine
end

