-- ==== Sys2Proof/Tests/Slice0.lean ====
section
/-! SUPPORT. Tests: for every statement, states and operands that meet the hypotheses of each of its clauses (one conjunct a clause,
in the order of the clauses), well-formedness refusing each operand out of its range, and single commands on small states with
results worked out by hand from the spec. -/
namespace Sys2Proof.Tests
set_option Elab.async false
open Sys2Proof Sys2Proof.Machine Sys2Proof.Safety
theorem some_wit {α : Type} {o : Option α} (h : o.isSome = true) : o = some (o.get h) := (Option.some_get h).symm
theorem some_get3 {o : Option (Nat × Nat × Nat)} (h : o.isSome = true) : o = some ((o.get h).1, (o.get h).2.1, (o.get h).2.2) := (Option.some_get h).symm
theorem pair_wit {α β : Type} (e : α × β) : e = (e.1, e.2) := rfl
theorem triple_wit {α β γ : Type} (e : α × β × γ) : e = (e.1, e.2.1, e.2.2) := rfl
theorem fst_wit {α β : Type} {e : α × β} {c : α} (h : e.1 = c) : e = (c, e.2) := by subst h; rfl
theorem cons_wit {α : Type} {l : List α} (h : l ≠ []) : l = l.head h :: l.tail := (List.cons_head_tail h).symm
/-- The thread does not stand at its end. -/
def isEnding : Cont → Bool
  | .ending _ _ => true
  | _ => false
theorem not_ending {k : Cont} (h : isEnding k = false) : ∀ a b, k ≠ .ending a b := by rintro a b rfl; cases h
/-- The thread does not stand at BFREE. -/
def isBfree : Cont → Bool
  | .bfree _ => true
  | _ => false
theorem mget_mem {α : Type} (d : α) (l : NMap α) (i : Nat) : mget d l i = d ∨ (i, mget d l i) ∈ l := by
  induction l with
  | nil => exact .inl rfl
  | cons e t ih =>
    obtain ⟨k, v⟩ := e
    by_cases h : i = k
    · subst h; exact .inr (by simp [mget])
    · exact ih.imp (by simp [mget, h]) (by simp [mget, h])
theorem not_bfree {s : State} (h : (s.thr.all fun e => !isBfree e.2.cont) = true) : ∀ m g, (th s m).cont ≠ .bfree g := by
  intro m g hc
  rcases mget_mem Thread.idle s.thr m with hd | hm
  · rw [th, hd] at hc; cases hc
  · have := List.all_eq_true.mp h _ hm
    rw [th] at hc; simp [hc, isBfree] at this
theorem not_degraded {s : State} (h : (s.ret.groups.all fun e => e.2.all fun x => decide (x.st ≠ .degraded)) = true) :
    ∀ g x, group s g = some x → x.st ≠ .degraded := by
  intro g x hg
  rcases mget_mem none s.ret.groups g with hd | hm
  · rw [group, hd] at hg; cases hg
  · have := List.all_eq_true.mp h _ hm
    rw [group] at hg; simpa [hg] using this
/-- The thread waits at no map look-up. -/
def isLook : Cont → Bool
  | .look _ _ _ _ => true
  | _ => false
theorem not_look {k : Cont} (h : isLook k = false) : ∀ a b c d, k ≠ .look a b c d := by rintro a b c d rfl; cases h
theorem some_all {α : Type} {o : Option α} {p : α → Prop} [DecidablePred p] (h : (o.all fun x => decide (p x)) = true) : ∀ x, o = some x → p x := by
  rintro x rfl; simpa using h
/-- Which answer PXOPEN's search gives, and its parts. -/
def pxKind : PxRes → Nat
  | .invalid => 0
  | .full => 1
  | .opened _ _ => 2
def pxTab : PxRes → Nat
  | .opened k _ => k
  | _ => 0
def pxNew : PxRes → State
  | .opened _ s => s
  | _ => State.reset
theorem px_invalid {r : PxRes} (h : pxKind r = 0) : r = .invalid := by cases r <;> simp_all [pxKind]
theorem px_full {r : PxRes} (h : pxKind r = 1) : r = .full := by cases r <;> simp_all [pxKind]
theorem px_opened {r : PxRes} (h : pxKind r = 2) : r = .opened (pxTab r) (pxNew r) := by cases r <;> simp_all [pxKind, pxTab, pxNew]
/-- The part a rebuild gives. -/
def rebuiltPart : Rebuilt → List Byte
  | .ok p => p
  | _ => []
def isRebuilt : Rebuilt → Bool
  | .ok _ => true
  | _ => false
theorem rebuilt_ok {r : Rebuilt} (h : isRebuilt r = true) : r = .ok (rebuiltPart r) := by cases r <;> simp_all [isRebuilt, rebuiltPart]
/-- What a block read answers, and its parts. -/
def blkOk : BlkRes → Bool
  | .ok _ _ _ reb => !reb
  | _ => false
def blkKind : BlkRes → Nat
  | .ok k _ _ _ => k
  | _ => 0
def blkD : BlkRes → List Byte
  | .ok _ d _ _ => d
  | _ => []
def blkP : BlkRes → List Byte
  | .ok _ _ p _ => p
  | _ => []
theorem blk_ok {r : BlkRes × State} {kd : Nat} {d p : List Byte} {m : State} (h : blkOk r.1 = true) (hk : blkKind r.1 = kd)
    (hd : blkD r.1 = d) (hp : blkP r.1 = p) (hm : r.2 = m) : r = (.ok kd d p false, m) := by
  obtain ⟨b, s⟩ := r
  cases b <;> simp_all [blkOk, blkKind, blkD, blkP]
def blkBad : BlkRes → Option (Nat × Nat × Nat)
  | .bad c d r => some (c, d, r)
  | _ => none
theorem blk_bad {r : BlkRes × State} {c d k : Nat} {m : State} (h : blkBad r.1 = some (c, d, k)) (hm : r.2 = m) : r = (.bad c d k, m) := by
  obtain ⟨b, s⟩ := r
  cases b <;> simp_all [blkBad]
/-- What the placing of a unit answers, in numbers. -/
def unitKind : UnitRes → Nat × Nat × Option Ending
  | .placed => (0, 0, none)
  | .stop e => (1, 0, some e)
  | .fault => (2, 0, none)
  | .park p => (3, p, none)
  | .hold o => (4, b2n o, none)
  | .busy i => (5, i, none)
  | .gen => (6, 0, none)
theorem unit_wit {e : UnitRes × State} {r : UnitRes} (h : unitKind e.1 = unitKind r) : e = (r, e.2) := by
  obtain ⟨a, s⟩ := e
  suffices a = r by rw [this]
  cases a <;> cases r <;> simp_all [unitKind]
  rename_i a b
  cases a <;> cases b <;> simp_all [b2n]
/-- The kind of an answer alone, and its number. -/
def unitNat : UnitRes → Nat
  | .placed => 0
  | .stop _ => 1
  | .fault => 2
  | .park p => 3 + 8 * p
  | .hold o => 4 + 8 * b2n o
  | .busy i => 5 + 8 * i
  | .gen => 6
theorem unitNat_inj {a r : UnitRes} (hr : unitNat r ≠ 1) (h : unitNat a = unitNat r) : a = r := by
  rcases a with _ | _ | _ | _ | (_ | _) | _ | _ <;> rcases r with _ | _ | _ | _ | (_ | _) | _ | _ <;>
    simp only [unitNat, b2n, if_true, if_false, Bool.false_eq_true, ne_eq, not_true_eq_false, not_false_eq_true] at h hr <;> first | rfl | contradiction | omega | (congr 1; omega)
theorem unit_at {s : State} {c u v k l m : Nat} {b : Bool} {fl : List CipherFlaw} {ps : List Put} {r : UnitRes} (hu : u = v) (hl : l = m)
    (hr : unitNat r ≠ 1) (h : unitNat (placeUnit s c v k m b fl ps).1 = unitNat r) : placeUnit s c u k l b fl ps = (r, (placeUnit s c v k m b fl ps).2) := by
  subst hu hl
  rw [← unitNat_inj hr h]
theorem right_wit {α β γ : Type} {e : Sum α β × γ} (h : e.1.isRight = true) : e = (.inr (e.1.getRight h), e.2) := by
  obtain ⟨a, c⟩ := e
  cases a <;> simp_all
theorem lt_one {n : Nat} {P : Nat → Prop} (h : n = 1) (p : P 0) : ∀ k < n, P k := by
  intro k hk
  obtain rfl : k = 0 := by omega
  exact p
theorem lt_zero {P : Nat → Prop} : ∀ k < 0, P k := fun k h => absurd h (Nat.not_lt_zero k)
/-- With no map word in memory, no volume is created, and a new one begins at billet 0 if it fits. -/
theorem volsUsed_none {s : State} (h : s.mem.dram = []) (h' : s.slices = []) : volsUsed s = [] := by
  have b : ∀ a, mapByte s a = 0 := by intro a; simp [mapByte, slice, h, h', mget, Slice.empty]
  have z : ∀ n, leNat (List.replicate n (0 : Byte)) = 0 := by
    intro n; induction n with
    | zero => rfl
    | succ n ih => simpa [List.replicate_succ, leNat] using ih
  have e : ∀ v, volEnt s v = 0 := by
    intro v
    have : mapBytes s (aVol + 32 * v) 32 = List.replicate 32 0 := by simp [mapBytes, b]
    rw [volEnt, mapLe, this, z]
  rw [volsUsed, List.filter_eq_nil_iff]
  intro v _
  rw [e]; decide
theorem freeBase_none {s : State} {n : Nat} (h : s.mem.dram = []) (h' : s.slices = []) (hn : volCap s < n) : freeBase s n = none := by
  simp [freeBase, volsUsed_none h h', argMin, Nat.not_le.mpr hn]
theorem freeBase_some {s : State} {n : Nat} (h : s.mem.dram = []) (h' : s.slices = []) (hn : n ≤ volCap s) : freeBase s n = some 0 := by
  simp [freeBase, volsUsed_none h h', argMin, hn]
theorem volumesEnd_none {s : State} (n : Nat) (h : s.mem.dram = []) (h' : s.slices = []) : volumesEnd s ≤ n := by
  simp [volumesEnd, volsUsed_none h h']
theorem max_ge (l : List Nat) : ∀ (a x : Nat), x ≤ a ∨ x ∈ l → x ≤ l.foldl max a := by
  induction l with
  | nil => intro a x h; simpa using h
  | cons y t ih =>
    intro a x h
    refine ih _ _ ?_
    rcases h with h | h
    · exact .inl (le_max_of_le_left h)
    · rcases List.mem_cons.mp h with rfl | h
      · exact .inl (le_max_right _ _)
      · exact .inr h
theorem volumesEnd_ge {s : State} (v n : Nat) (hv : v < 8192) (h : volState (volEnt s v) ≠ 0) (hc : s.boot.casEn = false)
    (hz : volSize (volEnt s v) ≠ 0) (hn : n < volBase (volEnt s v) + volSize (volEnt s v)) : n < volumesEnd s := by
  refine lt_of_lt_of_le hn (max_ge _ _ _ (.inr (List.mem_map.mpr ⟨v, ?_, by simp [localRange, hc, hz]⟩)))
  exact List.mem_filter.mpr ⟨List.mem_range.mpr hv, by simpa using h⟩
theorem ring_full {s : State} {x : Nat × List Byte} (h : s.ring = List.replicate 131072 x) : ringFull s = true := by
  rw [ringFull, h, List.length_replicate]; rfl
/-- A bitmap of volume 1 alone. -/
theorem only_vol1 {l : List Byte} {P : Nat → Prop} (h : l = padTo 0 1024 [2]) (p : P 1) :
    ∀ w ∈ (List.range 8192).filter (fun v => bit (BitVec.toNat (l.getD (v / 8) 0)) (v % 8)), P w := by
  subst h
  intro w hw
  obtain ⟨-, hb⟩ := List.mem_filter.mp hw
  by_cases h0 : w / 8 = 0
  · rw [h0] at hb
    have : w < 8 := by omega
    interval_cases w <;> first | exact p | exact absurd hb (by decide)
  · exfalso
    have z : ∀ n i, (padTo (0 : Byte) n []).getD i 0 = 0 := by
      intro n; induction n with
      | zero => intro i; rfl
      | succ n ih => intro i; cases i with
        | zero => rfl
        | succ i => exact ih i
    have : (padTo (0 : Byte) 1024 [2]).getD (w / 8) 0 = 0 := by
      obtain ⟨k, hk⟩ : ∃ k, w / 8 = k + 1 := ⟨w / 8 - 1, by omega⟩
      rw [hk]; exact z 1023 k
    rw [this] at hb
    simp [bit] at hb
/-- The module in mode `m` with an image running. -/
def inM (m : Nat) : State := { setF State.reset HELM_MODE_CUR m with boot := { Boot.reset with begun := true, image := true } }
/-- Registers of a sample thread. -/
def regs0 : NMap W64 := [(1, 5), (2, 7), (3, 9), (4, 0xFFFFFFFFFFFFFFFF), (5, 64)]
def runner : Thread := { Thread.idle with st := .running, g := regs0 }
/-- Thread `t` is `x`, with the word `w` at address 0 of the program. -/
def issue (b : State) (t : Nat) (x : Thread) (w : Nat) : State := { setTh b t x with prog := wrLe [] 0 8 w }
def sysT (x : Thread) : Thread := { x with stamp := 0x400 }
def withG (x : Thread) (r : Nat) (v : W64) : Thread := { x with g := mset 0 x.g r v }
/-- A host thread and an internal thread with these registers. -/
def hostT (g : List (Nat × Nat)) : Thread := { Thread.idle with st := .running, g := g.foldl (fun m e => mset 0 m e.1 (BitVec.ofNat 64 e.2)) [] }
def swT (g : List (Nat × Nat)) : Thread := { hostT g with stamp := 0x400 }
/-- REFCLK time and CHR_NOW at `n`. -/
def tm (n : Nat) (b : State) : State := { b with clk := { b.clk with now := n, refNs := n } }

/-! buffers -/
def h1 : Nat := mkHandle 1 false 0
def h2 : Nat := mkHandle 2 false 0
def h3 : Nat := mkHandle 3 false 0
def hw : Nat := mkHandle 2 true 0
def hs : Nat := mkHandle 0 false 5
def tbuf (pool idx : Nat) (wb : Bool) (holders : List Nat) : Buf := ⟨pool, wb, idx, holders, holders.headD 0x1FFF, 1 < holders.length⟩
/-- Thread 1 holds a P1, a P2, a P3 and a write-buffer P2 buffer, and shares a P0 with thread 2. -/
def withB (b : State) : State :=
  { b with buf := { b.buf with bufs := [(hs, some { tbuf 0 5 false [1, 2] with owner := 2 }), (h1, some (tbuf 1 0 false [1])),
      (h2, some (tbuf 2 0 false [1])), (h3, some (tbuf 3 0 false [1])), (hw, some (tbuf 2 0 true [1]))], split := [0] } }
/-- The same, the shared buffer with other holders than thread 1. -/
def withB7 (b : State) : State :=
  { b with buf := { b.buf with bufs := [(hs, some { tbuf 0 5 false [7, 2] with owner := 2 }), (h1, some (tbuf 1 0 false [1])),
      (h3, some (tbuf 3 0 false [1]))] } }
/-- Buffers in use: every general one, held by thread 2. -/
def allBufs : NMap (Option Buf) :=
  [(0, 4096), (1, 2560), (2, 65536), (3, 19456)].flatMap fun e => (List.range e.2).map fun i => (mkHandle e.1 false i, some (tbuf e.1 i false [2]))
theorem lowFree_none {l : List Nat} {a n : Nat} (h : ∀ i < a + n, i ∈ l) : lowFree l a n = none := by
  rw [lowFree, List.find?_eq_none]
  intro i hi
  obtain ⟨j, hj, rfl⟩ := List.mem_map.mp hi
  have := List.mem_range.mp hj
  simpa using h (a + j) (by omega)
theorem used_all {s : State} (h : s.buf.bufs = allBufs) {p n i : Nat} (hp : (p, n) ∈ [(0, 4096), (1, 2560), (2, 65536), (3, 19456)]) (hi : i < n) :
    i ∈ usedIdx s p false := by
  rw [usedIdx, h, List.mem_filterMap]
  refine ⟨(mkHandle p false i, some (tbuf p i false [2])), List.mem_flatMap.mpr ⟨(p, n), hp, List.mem_map.mpr ⟨i, List.mem_range.mpr hi, rfl⟩⟩, ?_⟩
  simp [tbuf]
/-- Without a free general buffer thread 1 gets none to read through. -/
theorem draw_none {s : State} (h : s.buf.bufs = allBufs) (hr : s.buf.reqs = []) : draw s 1 0 1 false = (false, s) := by
  have hf : ∀ p ∈ List.range 4, freeIn s (quadOf 1) p = none := by
    intro p hp
    have hp := List.mem_range.mp hp
    have q : quadOf 1 = 0 := rfl
    interval_cases p <;> simp only [freeIn, q]
    · rw [lowFree_none fun i hi => used_all h (n := 4096) (by simp) (by omega)]; rfl
    · rw [lowFree_none fun i hi => used_all h (n := 2560) (by simp) (by omega)]; rfl
    · rw [lowFree_none fun i hi => used_all h (n := 65536) (by simp) (by omega)]
    · rw [lowFree_none fun i hi => used_all h (n := 19456) (by simp) (by omega)]
  have hs : serveBufs s = s := by simp [serveBufs, servePass, hr]
  have hg : grants s 1 0 false = [] := by
    rw [grants, h, List.filterMap_eq_nil_iff]
    intro e he
    obtain ⟨⟨p, n⟩, -, hm⟩ := List.mem_flatMap.mp he
    obtain ⟨i, -, rfl⟩ := List.mem_map.mp hm
    simp [tbuf]
  have ht : tryAlloc s 1 0 false = none := by
    simp only [tryAlloc, Bool.false_and, Bool.false_eq_true, if_false]
    rw [List.filter_eq_nil_iff.mpr fun p hp => by simp [hf p hp]]
    rfl
  have hn : newAlloc s 1 0 false = none := by rw [newAlloc, hs, ht]
  rw [draw, hg]
  simp [hn, hs]
def badMem (b : State) : State := { b with mem := { b.mem with bad := [64 * 3, aP2 / 64], sramBad := [4194304 / 64] } }
def desc (ws : List Nat) (a : Nat) : NMap Byte := (ws.zipIdx).foldl (fun m w => wrLe m (a + 8 * w.2) 8 w.1) []
def xf (k : XKind) (w : List Nat) : Xfer := ⟨k, w, [], false, 0, none, 0⟩
def full16 : NMap (Option Xfer) := (List.range 16).map fun i => (i, some (xf .xin []))

/-! volumes, geometry, keys -/
/-- Volume 1: two billets from billet 4; volume 2 is being deleted; context 1 is bound to tenant 3. -/
def vols (b : State) : State :=
  let b := dramWrLe (dramWrLe b (aVol + 32) 32 (mkVol 4 2 3 1 0)) (aVol + 64) 32 (mkVol 6 2 3 2 0)
  { b with ret := { b.ret with bind := [(1, ⟨true, 3, false, 0, [0, 1, 2, 3]⟩)] } }
def lcap (b : State) (n : Nat) : State := setF b MAP_LCAP_BILLETS n
def geom (eblks : Nat) (b : State) : State := setF (setF (setF (setF b MAP_GEOM_PLANES 4) MAP_GEOM_PAGES 97) MAP_GEOM_EBLKS eblks) MAP_LCAP_BILLETS 100
def oneGroup (b : State) : State := { b with ret := { b.ret with groups := [(0, some ⟨.healthy, 1, [0, 256, 512, 768], [], false, 0, []⟩)] } }
def ks0 : KeySet := ⟨List.replicate 32 1, List.replicate 32 2, List.replicate 32 3⟩
/-- Lines `ls` present in their slices. -/
def cached (b : State) (ls : List Nat) : State :=
  ls.foldl (fun b l => setSlice b (l % 4) { slice b (l % 4) with lines := mput (slice b (l % 4)).lines l (some ⟨3, 0⟩) }) b
/-- A record of one FINE entry, or of none. -/
def recE (j : Nat) (es : List JEnt) : JRec := ⟨.map, es, j, ⟨0, 0⟩, 0, 1, 0, 0, 0, false, 0, 0, true, false⟩
def ent0 : JEnt := ⟨4 * 256 + 3, .fine, false, false, 9, 0⟩

/-! commands -/
def blk (opc vol flags slba nblk arg : Nat) : Nat := opc + vol * 2 ^ 32 + flags * 2 ^ 48 + slba * 2 ^ 64 + nblk * 2 ^ 128 + arg * 2 ^ 448
def ablk (opc a0 a1 plen caddr : Nat) : Nat := opc + a0 * 2 ^ 64 + plen * 2 ^ 128 + caddr * 2 ^ 384 + a1 * 2 ^ 448
def rq (src blk : Nat) (ps : List Byte) : HelmReq := ⟨src, blk, ps, 8, false, none, []⟩
def ask (b : State) (r : HelmReq) : State := { b with d := { b.d with helm := [r] } }
def latch (b : State) (block : Nat) (x : Thread) : State := setTh (setCx b 1 { Ctx.reset with block := block, seq := 1 }) 1 x
def rdy : Thread := { Thread.idle with st := .ready, charged := true, stamp := 3 }
def x0 : DataIn := ⟨[], [], [], none, [], []⟩
def pb0 : ParamBuf := ⟨[], 0⟩
def upA (b : State) : State := setPort b 0 { Port.reset with up := true }

/-! flash and groups -/
def mem0 : List Nat := (List.range 9).map (256 * ·)
def fitted (b : State) : State := (List.range 10).foldl (fun s c => setF s (CH_DIEMAP_FITTED c 0) 3) b
def grp (st : GSt) (b : State) : State :=
  { fitted (geom 14 b) with ret := { (geom 14 b).ret with groups := [(0, some ⟨st, 1, mem0, [], false, 0, []⟩)], spares := [2304] } }

/-! script store: entry 0 READ (read-retry table 0, retry entry 3), 1 PROGRAM, 2 ERASE (suspend 4, resume 5), 6 READ of table 1 -/
def st0 : NMap Byte :=
  let w (m : NMap Byte) (e v : Nat) := wrLe m (8 * e) 8 v
  let m := w [] 0 (0x410 + 2 ^ 19 + 0 * 2 ^ 24 + 3 * 2 ^ 40 + 100 * 2 ^ 48)
  let m := w m 1 (0x420 + 2 ^ 16 + 2 ^ 19 + 2 ^ 20)
  let m := w m 2 (0x430 + 2 * 2 ^ 16 + 2 ^ 19 + 2 ^ 20 + 4 * 2 ^ 32 + 5 * 2 ^ 40)
  let m := w m 3 (0x440 + 5 * 2 ^ 16 + 2 ^ 19)
  let m := w m 4 (0x450 + 6 * 2 ^ 16 + 2 ^ 19)
  let m := w m 5 (0x460 + 7 * 2 ^ 16 + 2 ^ 19)
  let m := w m 6 (0x410 + 2 ^ 19 + 1 * 2 ^ 24 + 3 * 2 ^ 40 + 100 * 2 ^ 48)
  let m := (List.range 3).foldl (fun m r => wrLe m (0x800 + 8 * r) 8 (2 ^ 40 + r)) m
  (List.range 2).foldl (fun m r => wrLe m (0x900 + 8 * r) 8 (2 ^ 40 + r)) m
def code (m : NMap Byte) (a w : Nat) : NMap Byte := wrLe m (4 * a) 4 w
def chan0 (b : State) : State :=
  setF (setF (setF (setF (setF (setF b (CH_STAT_DRV 0) 1) (CH_STAT_TRAINED 0) 1) (CH_STAT_RATE 0) 3) (CH_DIEMAP_FITTED 0 0) 3) (CH_SUSP_EN 0) 1) (CH_SUSP_MAXSUSP 0) 4
def base : State := let b := geom 14 (chan0 (withB (inM 3))); { b with ch := { b.ch with store := st0 } }
def stk (entry cls ppa : Nat) (ph : SPhase) : Strike :=
  { t := 1, tag := 4, ppa := ppa, entry := entry, cls := cls, h := h1, frame := 0, rb := false, limit := false, raw := false, nslot := 0,
    fg := true, at_ := 0, denied := false, phase := ph, script := none, frozen := none, slots := if cls = 0 then [none] else [], got := [],
    code := 0, reb := 0, col := 0, walking := false, row := 0, rows := 0, susps := 0, suspended := none, busyFrom := 0, timedOut := false }
def scr (e pc : Nat) : Script := ⟨.main, e, pc, [], [], false, none, none, none, true, 0, 0, none, none⟩
def puts (b : State) (l : List Strike) : State := { b with ch := { b.ch with strikes := l.zipIdx.map fun x => (x.2, some x.1), nextId := l.length } }
def r1 : Strike := stk 0 0 (5 * 2 ^ 15 + 3 * 8) .queued
def er : Strike := stk 2 2 (6 * 2 ^ 15) .script
def wt : Script := { scr 2 0x430 with wait := some (0x70, 6), bus := false, timer := some (9000, 0x430) }

/-! ### AluInstructions -/
/-- Meets the hypotheses of each clause of Obligations.AluInstructions (part 1). -/
theorem witness_AluInstructions_1 :
    (∃ (s : State) (t : Nat) (rd : Nat) (rs1 : Nat) (rs2 : Nat), issues s t (aw 1 rd rs1 rs2 0 0) = true) ∧
    (∃ (s : State) (t : Nat) (rd : Nat) (rs1 : Nat) (rs2 : Nat), issues s t (aw 2 rd rs1 rs2 0 0) = true) ∧
    (∃ (s : State) (t : Nat) (rd : Nat) (rs1 : Nat) (rs2 : Nat), issues s t (aw 3 rd rs1 rs2 0 0) = true) ∧
    (∃ (s : State) (t : Nat) (rd : Nat) (rs1 : Nat) (rs2 : Nat), issues s t (aw 4 rd rs1 rs2 0 0) = true) ∧
    (∃ (s : State) (t : Nat) (rd : Nat) (rs1 : Nat) (rs2 : Nat), issues s t (aw 5 rd rs1 rs2 0 0) = true) ∧
    (∃ (s : State) (t : Nat) (rd : Nat) (rs1 : Nat) (rs2 : Nat), issues s t (aw 6 rd rs1 rs2 0 0) = true) ∧
    (∃ (s : State) (t : Nat) (rd : Nat) (rs1 : Nat) (rs2 : Nat), issues s t (aw 7 rd rs1 rs2 0 0) = true) ∧
    (∃ (s : State) (t : Nat) (rd : Nat) (rs1 : Nat) (rs2 : Nat), issues s t (aw 8 rd rs1 rs2 0 0) = true) ∧
    (∃ (s : State) (t : Nat) (rd : Nat) (rs1 : Nat) (rs2 : Nat), issues s t (aw 9 rd rs1 rs2 0 0) = true) ∧
    (∃ (s : State) (t : Nat) (rd : Nat) (rs1 : Nat) (rs2 : Nat), issues s t (aw 10 rd rs1 rs2 0 0) = true) ∧
    (∃ (s : State) (t : Nat) (rd : Nat) (rs1 : Nat) (rs2 : Nat), issues s t (aw 11 rd rs1 rs2 0 0) = true) ∧
    (∃ (s : State) (t : Nat) (rd : Nat) (rs1 : Nat) (imm : Nat), issues s t (aw 17 rd rs1 0 0 imm) = true) ∧
    (∃ (s : State) (t : Nat) (rd : Nat) (rs1 : Nat) (imm : Nat), issues s t (aw 19 rd rs1 0 0 imm) = true) :=
  ⟨⟨issue (inM 3) 1 runner (aw (0 + 1) 1 2 3 0 0), 1, 1, 2, 3, by decide +kernel⟩,
    ⟨issue (inM 3) 1 runner (aw (1 + 1) 1 2 3 0 0), 1, 1, 2, 3, by decide +kernel⟩,
    ⟨issue (inM 3) 1 runner (aw (2 + 1) 1 2 3 0 0), 1, 1, 2, 3, by decide +kernel⟩,
    ⟨issue (inM 3) 1 runner (aw (3 + 1) 1 2 3 0 0), 1, 1, 2, 3, by decide +kernel⟩,
    ⟨issue (inM 3) 1 runner (aw (4 + 1) 1 2 3 0 0), 1, 1, 2, 3, by decide +kernel⟩,
    ⟨issue (inM 3) 1 runner (aw (5 + 1) 1 2 3 0 0), 1, 1, 2, 3, by decide +kernel⟩,
    ⟨issue (inM 3) 1 runner (aw (6 + 1) 1 2 3 0 0), 1, 1, 2, 3, by decide +kernel⟩,
    ⟨issue (inM 3) 1 runner (aw (7 + 1) 1 2 3 0 0), 1, 1, 2, 3, by decide +kernel⟩,
    ⟨issue (inM 3) 1 runner (aw (8 + 1) 1 2 3 0 0), 1, 1, 2, 3, by decide +kernel⟩,
    ⟨issue (inM 3) 1 runner (aw (9 + 1) 1 2 3 0 0), 1, 1, 2, 3, by decide +kernel⟩,
    ⟨issue (inM 3) 1 runner (aw (10 + 1) 1 2 3 0 0), 1, 1, 2, 3, by decide +kernel⟩,
    ⟨issue (inM 3) 1 runner (aw 17 1 2 0 0 5), 1, 1, 2, 5, by decide +kernel⟩,
    ⟨issue (inM 3) 1 runner (aw 19 1 2 0 0 5), 1, 1, 2, 5, by decide +kernel⟩⟩
/-- Meets the hypotheses of each clause of Obligations.AluInstructions (part 2). -/
theorem witness_AluInstructions_2 :
    (∃ (s : State) (t : Nat) (rd : Nat) (rs1 : Nat) (imm : Nat), issues s t (aw 20 rd rs1 0 0 imm) = true) ∧
    (∃ (s : State) (t : Nat) (rd : Nat) (rs1 : Nat) (imm : Nat), issues s t (aw 21 rd rs1 0 0 imm) = true) ∧
    (∃ (s : State) (t : Nat) (rd : Nat) (rs1 : Nat) (imm : Nat), imm < 64 ∧ issues s t (aw 22 rd rs1 0 0 imm) = true) ∧
    (∃ (s : State) (t : Nat) (rd : Nat) (rs1 : Nat) (imm : Nat), imm < 64 ∧ issues s t (aw 23 rd rs1 0 0 imm) = true) ∧
    (∃ (s : State) (t : Nat) (rd : Nat) (rs1 : Nat) (imm : Nat), issues s t (aw 27 rd rs1 0 0 imm) = true) ∧
    (∃ (s : State) (t : Nat) (rd : Nat) (rs1 : Nat) (imm : Nat), issues s t (aw 31 rd rs1 0 0 imm) = true) ∧
    (∃ (s : State) (t : Nat) (rd : Nat) (rs1 : Nat) (lsb : Nat) (width : Nat), lsb < 64 ∧ 1 ≤ width ∧ width ≤ 64 ∧ issues s t (aw 12 rd rs1 0 0 (lsb + 64 * (width - 1))) = true) ∧
    (∃ (s : State) (t : Nat) (rd : Nat) (rs1 : Nat) (lsb : Nat) (width : Nat), lsb < 64 ∧ 1 ≤ width ∧ width ≤ 64 ∧ issues s t (aw 13 rd rs1 0 0 (lsb + 64 * (width - 1))) = true) ∧
    (∃ (s : State) (t : Nat) (rd : Nat) (lsb : Nat) (width : Nat), lsb < 64 ∧ 1 ≤ width ∧ width ≤ 64 ∧ issues s t (aw 14 rd 0 0 0 0) = true) ∧
    (∃ (s : State) (t : Nat) (rd : Nat) (lsb : Nat) (width : Nat), lsb < 64 ∧ 1 ≤ width ∧ width ≤ 64 ∧ issues s t (aw 14 rd 0 0 0 1) = true) ∧
    (∃ (s : State) (t : Nat) (rd : Nat) (lsb : Nat) (width : Nat), lsb < 64 ∧ 1 ≤ width ∧ width ≤ 64 ∧ issues s t (aw 14 rd 0 0 0 2) = true) ∧
    (∃ (s : State) (t : Nat) (rd : Nat) (lsb : Nat) (width : Nat), lsb < 64 ∧ 1 ≤ width ∧ width ≤ 64 ∧ issues s t (aw 14 rd 0 0 0 3) = true) :=
  ⟨⟨issue (inM 3) 1 runner (aw 20 1 2 0 0 5), 1, 1, 2, 5, by decide +kernel⟩,
    ⟨issue (inM 3) 1 runner (aw 21 1 2 0 0 5), 1, 1, 2, 5, by decide +kernel⟩,
    ⟨issue (inM 3) 1 runner (aw 22 1 2 0 0 5), 1, 1, 2, 5, by decide +kernel, by decide +kernel⟩,
    ⟨issue (inM 3) 1 runner (aw 23 1 2 0 0 5), 1, 1, 2, 5, by decide +kernel, by decide +kernel⟩,
    ⟨issue (inM 3) 1 runner (aw 27 1 2 0 0 5), 1, 1, 2, 5, by decide +kernel⟩,
    ⟨issue (inM 3) 1 runner (aw 31 1 2 0 0 5), 1, 1, 2, 5, by decide +kernel⟩,
    ⟨issue (inM 3) 1 runner (aw 12 1 2 0 0 (3 + 64 * 7)), 1, 1, 2, 3, 8, by decide +kernel, by decide +kernel, by decide +kernel, (by decide +kernel)⟩,
    ⟨issue (inM 3) 1 runner (aw 13 1 2 0 0 (3 + 64 * 7)), 1, 1, 2, 3, 8, by decide +kernel, by decide +kernel, by decide +kernel, (by decide +kernel)⟩,
    ⟨issue (inM 3) 1 runner (aw 14 1 0 0 0 0), 1, 1, 3, 8, by decide +kernel, by decide +kernel, by decide +kernel, (by decide +kernel)⟩,
    ⟨issue (inM 3) 1 runner (aw 14 1 0 0 0 1), 1, 1, 3, 8, by decide +kernel, by decide +kernel, by decide +kernel, (by decide +kernel)⟩,
    ⟨issue (inM 3) 1 runner (aw 14 1 0 0 0 2), 1, 1, 3, 8, by decide +kernel, by decide +kernel, by decide +kernel, (by decide +kernel)⟩,
    ⟨issue (inM 3) 1 runner (aw 14 1 0 0 0 3), 1, 1, 3, 8, by decide +kernel, by decide +kernel, by decide +kernel, (by decide +kernel)⟩⟩

/-! ### Branches -/
namespace Branches
def run (w : Nat) (f : Thread → Thread) : State := setTh { State.reset with prog := wrLe [] 0 8 w } 1 (f { Thread.idle with st := .running, g := [(2, 7), (3, 9)] })
end Branches
/-- Meets the hypotheses of each clause of Obligations.Branches. -/
theorem witness_Branches :
    (∃ (s : State) (t : Nat) (cond : Nat) (rs1 : Nat) (rs2 : Nat) (imm : Nat), cond ≤ 5 ∧ issues s t (aw 32 0 rs1 rs2 cond imm) = true ∧ (¬(cond = 0 ∧ gr s t rs1 = gr s t rs2 ∨ cond = 1 ∧ gr s t rs1 ≠ gr s t rs2 ∨ cond = 2 ∧ BitVec.toInt (gr s t rs1) < BitVec.toInt (gr s t rs2) ∨ cond = 3 ∧ BitVec.toInt (gr s t rs2) ≤ BitVec.toInt (gr s t rs1) ∨ cond = 4 ∧ BitVec.toNat (gr s t rs1) < BitVec.toNat (gr s t rs2) ∨ cond = 5 ∧ BitVec.toNat (gr s t rs2) ≤ BitVec.toNat (gr s t rs1)))) ∧
    (∃ (s : State) (t : Nat) (cond : Nat) (rs1 : Nat) (rs2 : Nat) (imm : Nat), cond ≤ 5 ∧ issues s t (aw 32 0 rs1 rs2 cond imm) = true ∧ (cond = 0 ∧ gr s t rs1 = gr s t rs2 ∨ cond = 1 ∧ gr s t rs1 ≠ gr s t rs2 ∨ cond = 2 ∧ BitVec.toInt (gr s t rs1) < BitVec.toInt (gr s t rs2) ∨ cond = 3 ∧ BitVec.toInt (gr s t rs2) ≤ BitVec.toInt (gr s t rs1) ∨ cond = 4 ∧ BitVec.toNat (gr s t rs1) < BitVec.toNat (gr s t rs2) ∨ cond = 5 ∧ BitVec.toNat (gr s t rs2) ≤ BitVec.toNat (gr s t rs1)) ∧ pcOk (BitVec.ofInt 64 (↑(th s t).pc + (↑imm - if 2 ^ 31 ≤ imm then 2 ^ 32 else 0))).toNat = true) ∧
    (∃ (s : State) (t : Nat) (cond : Nat) (rs1 : Nat) (rs2 : Nat) (imm : Nat), cond ≤ 5 ∧ issues s t (aw 32 0 rs1 rs2 cond imm) = true ∧ (cond = 0 ∧ gr s t rs1 = gr s t rs2 ∨ cond = 1 ∧ gr s t rs1 ≠ gr s t rs2 ∨ cond = 2 ∧ BitVec.toInt (gr s t rs1) < BitVec.toInt (gr s t rs2) ∨ cond = 3 ∧ BitVec.toInt (gr s t rs2) ≤ BitVec.toInt (gr s t rs1) ∨ cond = 4 ∧ BitVec.toNat (gr s t rs1) < BitVec.toNat (gr s t rs2) ∨ cond = 5 ∧ BitVec.toNat (gr s t rs2) ≤ BitVec.toNat (gr s t rs1)) ∧ pcOk (BitVec.ofInt 64 (↑(th s t).pc + (↑imm - if 2 ^ 31 ≤ imm then 2 ^ 32 else 0))).toNat = false) ∧
    (∃ (s : State) (t : Nat) (rd : Nat) (imm : Nat), issues s t (aw 33 rd 0 0 0 imm) = true ∧ pcOk (BitVec.ofInt 64 (↑(th s t).pc + (↑imm - if 2 ^ 31 ≤ imm then 2 ^ 32 else 0))).toNat = true) ∧
    (∃ (s : State) (t : Nat) (rd : Nat) (imm : Nat), issues s t (aw 33 rd 0 0 0 imm) = true ∧ pcOk (BitVec.ofInt 64 (↑(th s t).pc + (↑imm - if 2 ^ 31 ≤ imm then 2 ^ 32 else 0))).toNat = false) ∧
    (∃ (s : State) (t : Nat) (rd : Nat) (rs1 : Nat) (imm : Nat), issues s t (aw 34 rd rs1 0 0 imm) = true ∧ pcOk (BitVec.ofInt 64 (↑(BitVec.toNat (gr s t rs1)) + (↑imm - if 2 ^ 31 ≤ imm then 2 ^ 32 else 0))).toNat = true) ∧
    (∃ (s : State) (t : Nat) (rd : Nat) (rs1 : Nat) (imm : Nat), issues s t (aw 34 rd rs1 0 0 imm) = true ∧ pcOk (BitVec.ofInt 64 (↑(BitVec.toNat (gr s t rs1)) + (↑imm - if 2 ^ 31 ≤ imm then 2 ^ 32 else 0))).toNat = false) :=
  ⟨⟨Branches.run (aw 32 0 2 3 0 8) id, 1, 0, 2, 3, 8, by decide +kernel, by decide +kernel, by decide +kernel⟩,
    ⟨Branches.run (aw 32 0 2 3 1 8) id, 1, 1, 2, 3, 8, by decide +kernel, by decide +kernel, by decide +kernel, (by decide +kernel)⟩,
    ⟨Branches.run (aw 32 0 2 3 1 4) id, 1, 1, 2, 3, 4, by decide +kernel, by decide +kernel, by decide +kernel, (by decide +kernel)⟩,
    ⟨Branches.run (aw 33 1 0 0 0 8) id, 1, 1, 8, by decide +kernel, by decide +kernel⟩,
    ⟨Branches.run (aw 33 1 0 0 0 4) id, 1, 1, 4, by decide +kernel, by decide +kernel⟩,
    ⟨Branches.run (aw 34 0 2 0 0 9) id, 1, 0, 2, 9, by decide +kernel, by decide +kernel⟩,
    ⟨Branches.run (aw 34 0 2 0 0 8) id, 1, 0, 2, 8, by decide +kernel, by decide +kernel⟩⟩

/-! ### LocalStorage -/
namespace LocalStorage
def ls : NMap Byte := [(0, 1), (7, 9), (8, 3), (12, 255), (511, 8)]
def sp (b : State) : State := { setSlice b 0 { Slice.empty with spWays := [15] } with mem := { b.mem with scratch := [(7, 1), (8, 4), (15, 3)] } }
end LocalStorage
/-- Meets the hypotheses of each clause of Obligations.LocalStorage. -/
theorem witness_LocalStorage :
    (∃ (s : State) (t : Nat) (size : Nat) (rd : Nat) (rs1 : Nat) (imm : Nat) (e : MErr), size ≤ 3 ∧ issues s t (aw 48 rd rs1 0 size imm) = true ∧ ((BitVec.toNat (gr s t rs1) + imm) % 512 % 2 ^ size = 0 ∧ (BitVec.toNat (gr s t rs1) + imm) % 512 + 2 ^ size ≤ 512) ∧ (¬(e = MErr.uncorr ∧ (BitVec.toNat (gr s t rs1) + imm) % 512 / 64 ∈ (th s t).lsValid)) ∧ (¬∃ w ∈ (th s t).lsBad, (BitVec.toNat (gr s t rs1) + imm) % 512 < 8 * w + 8 ∧ 8 * w < (BitVec.toNat (gr s t rs1) + imm) % 512 + 2 ^ size)) ∧
    (∃ (s : State) (t : Nat) (size : Nat) (rd : Nat) (rs1 : Nat) (imm : Nat) (e : MErr), size ≤ 3 ∧ issues s t (aw 48 rd rs1 0 size imm) = true ∧ ((BitVec.toNat (gr s t rs1) + imm) % 512 % 2 ^ size = 0 ∧ (BitVec.toNat (gr s t rs1) + imm) % 512 + 2 ^ size ≤ 512) ∧ (¬(e = MErr.uncorr ∧ (BitVec.toNat (gr s t rs1) + imm) % 512 / 64 ∈ (th s t).lsValid)) ∧ (∃ w ∈ (th s t).lsBad, (BitVec.toNat (gr s t rs1) + imm) % 512 < 8 * w + 8 ∧ 8 * w < (BitVec.toNat (gr s t rs1) + imm) % 512 + 2 ^ size)) ∧
    (∃ (s : State) (t : Nat) (size : Nat) (rd : Nat) (rs1 : Nat) (imm : Nat) (e : MErr), size ≤ 3 ∧ issues s t (aw 48 rd rs1 0 size imm) = true ∧ ((BitVec.toNat (gr s t rs1) + imm) % 512 % 2 ^ size = 0 ∧ (BitVec.toNat (gr s t rs1) + imm) % 512 + 2 ^ size ≤ 512) ∧ (e = MErr.uncorr ∧ (BitVec.toNat (gr s t rs1) + imm) % 512 / 64 ∈ (th s t).lsValid)) ∧
    (∃ (s : State) (t : Nat) (size : Nat) (rd : Nat) (rs1 : Nat) (imm : Nat), size ≤ 3 ∧ issues s t (aw 48 rd rs1 0 size imm) = true ∧ (¬((BitVec.toNat (gr s t rs1) + imm) % 512 % 2 ^ size = 0 ∧ (BitVec.toNat (gr s t rs1) + imm) % 512 + 2 ^ size ≤ 512))) ∧
    (∃ (s : State) (t : Nat) (size : Nat) (rs1 : Nat) (rs2 : Nat) (imm : Nat), size ≤ 3 ∧ issues s t (aw 49 0 rs1 rs2 size imm) = true ∧ ((BitVec.toNat (gr s t rs1) + imm) % 512 % 2 ^ size = 0 ∧ (BitVec.toNat (gr s t rs1) + imm) % 512 + 2 ^ size ≤ 512)) ∧
    (∃ (s : State) (t : Nat) (size : Nat) (rs1 : Nat) (rs2 : Nat) (imm : Nat), size ≤ 3 ∧ issues s t (aw 49 0 rs1 rs2 size imm) = true ∧ (¬((BitVec.toNat (gr s t rs1) + imm) % 512 % 2 ^ size = 0 ∧ (BitVec.toNat (gr s t rs1) + imm) % 512 + 2 ^ size ≤ 512))) ∧
    (∃ (s : State) (t : Nat) (size : Nat) (rd : Nat) (rs1 : Nat) (imm : Nat), size ≤ 3 ∧ issues s t (aw 52 rd rs1 0 size imm) = true ∧ (BitVec.toNat (gr s t rs1) + imm) % 2 ^ 64 % 2 ^ size ≠ 0) ∧
    (∃ (s : State) (t : Nat) (size : Nat) (rd : Nat) (rs1 : Nat) (imm : Nat), size ≤ 3 ∧ issues s t (aw 52 rd rs1 0 size imm) = true ∧ (BitVec.toNat (gr s t rs1) + imm) % 2 ^ 64 % 2 ^ size = 0 ∧ spMapped s ((BitVec.toNat (gr s t rs1) + imm) % 2 ^ 64) = false) ∧
    (∃ (s : State) (t : Nat) (size : Nat) (rd : Nat) (rs1 : Nat) (imm : Nat) (e : MErr), size ≤ 3 ∧ issues s t (aw 52 rd rs1 0 size imm) = true ∧ (BitVec.toNat (gr s t rs1) + imm) % 2 ^ 64 % 2 ^ size = 0 ∧ spMapped s ((BitVec.toNat (gr s t rs1) + imm) % 2 ^ 64) = true ∧ spBad s ((BitVec.toNat (gr s t rs1) + imm) % 2 ^ 64) (2 ^ size) = false ∧ (¬(e = MErr.uncorr ∧ (BitVec.toNat (gr s t rs1) + imm) % 2 ^ 64 / 64 ∈ s.mem.scratchValid))) ∧
    (∃ (s : State) (t : Nat) (size : Nat) (rd : Nat) (rs1 : Nat) (imm : Nat) (e : MErr), size ≤ 3 ∧ issues s t (aw 52 rd rs1 0 size imm) = true ∧ (BitVec.toNat (gr s t rs1) + imm) % 2 ^ 64 % 2 ^ size = 0 ∧ spMapped s ((BitVec.toNat (gr s t rs1) + imm) % 2 ^ 64) = true ∧ (spBad s ((BitVec.toNat (gr s t rs1) + imm) % 2 ^ 64) (2 ^ size) = true ∨ e = MErr.uncorr ∧ (BitVec.toNat (gr s t rs1) + imm) % 2 ^ 64 / 64 ∈ s.mem.scratchValid)) ∧
    (∃ (s : State) (t : Nat) (size : Nat) (rs1 : Nat) (rs2 : Nat) (imm : Nat), size ≤ 3 ∧ issues s t (aw 53 0 rs1 rs2 size imm) = true ∧ isSys s t = false) ∧
    (∃ (s : State) (t : Nat) (size : Nat) (rs1 : Nat) (rs2 : Nat) (imm : Nat), size ≤ 3 ∧ issues s t (aw 53 0 rs1 rs2 size imm) = true ∧ isSys s t = true ∧ (BitVec.toNat (gr s t rs1) + imm) % 2 ^ 64 % 2 ^ size ≠ 0) ∧
    (∃ (s : State) (t : Nat) (size : Nat) (rs1 : Nat) (rs2 : Nat) (imm : Nat), size ≤ 3 ∧ issues s t (aw 53 0 rs1 rs2 size imm) = true ∧ isSys s t = true ∧ (BitVec.toNat (gr s t rs1) + imm) % 2 ^ 64 % 2 ^ size = 0 ∧ spMapped s ((BitVec.toNat (gr s t rs1) + imm) % 2 ^ 64) = false) ∧
    (∃ (s : State) (t : Nat) (size : Nat) (rs1 : Nat) (rs2 : Nat) (imm : Nat), size ≤ 3 ∧ issues s t (aw 53 0 rs1 rs2 size imm) = true ∧ isSys s t = true ∧ (BitVec.toNat (gr s t rs1) + imm) % 2 ^ 64 % 2 ^ size = 0 ∧ spMapped s ((BitVec.toNat (gr s t rs1) + imm) % 2 ^ 64) = true) ∧
    (∃ (s : State) (t : Nat) (size : Nat) (rd : Nat) (rs1 : Nat) (imm : Nat), size ≤ 3 ∧ issues s t (aw 54 rd rs1 0 size imm) = true ∧ (BitVec.toNat (gr s t rs1) + imm) % 2 ^ 64 % 2 ^ size ≠ 0) ∧
    (∃ (s : State) (t : Nat) (size : Nat) (rd : Nat) (rs1 : Nat) (imm : Nat), size ≤ 3 ∧ issues s t (aw 54 rd rs1 0 size imm) = true ∧ (BitVec.toNat (gr s t rs1) + imm) % 2 ^ 64 % 2 ^ size = 0) :=
  ⟨⟨((issue (inM 3) 1 ({ runner with ls := LocalStorage.ls, lsValid := [0, 7] }) (aw 48 1 2 0 0 0))), 1, 0, 1, 2, 0, MErr.ok, by decide +kernel, by decide +kernel, ⟨by decide +kernel, (by decide +kernel)⟩, by decide +kernel, by decide +kernel⟩,
    ⟨((issue (inM 3) 1 ({ runner with ls := LocalStorage.ls, lsBad := [0, 1, 63] }) (aw 48 1 2 0 0 0))), 1, 0, 1, 2, 0, MErr.ok, by decide +kernel, by decide +kernel, ⟨by decide +kernel, (by decide +kernel)⟩, by decide +kernel, by decide +kernel⟩,
    ⟨((issue (inM 3) 1 ({ runner with ls := LocalStorage.ls, lsValid := [0, 7] }) (aw 48 1 2 0 0 0))), 1, 0, 1, 2, 0, MErr.uncorr, by decide +kernel, by decide +kernel, ⟨by decide +kernel, (by decide +kernel)⟩, ⟨by decide +kernel, by decide +kernel⟩⟩,
    ⟨((issue (inM 3) 1 ({ runner with ls := LocalStorage.ls, lsValid := [0, 7] }) (aw 48 1 2 0 1 0))), 1, 1, 1, 2, 0, by decide +kernel, by decide +kernel, by decide +kernel⟩,
    ⟨((issue (inM 3) 1 ({ runner with ls := LocalStorage.ls, lsValid := [0, 7] }) (aw 49 0 2 3 0 0))), 1, 0, 2, 3, 0, by decide +kernel, by decide +kernel, ⟨by decide +kernel, (by decide +kernel)⟩⟩,
    ⟨((issue (inM 3) 1 ({ runner with ls := LocalStorage.ls, lsValid := [0, 7] }) (aw 49 0 2 3 1 0))), 1, 1, 2, 3, 0, by decide +kernel, by decide +kernel, by decide +kernel⟩,
    ⟨((issue (inM 3) 1 ({ runner with ls := LocalStorage.ls, lsValid := [0, 7] }) (aw 52 1 2 0 1 0))), 1, 1, 1, 2, 0, by decide +kernel, by decide +kernel, by decide +kernel⟩,
    ⟨((issue (inM 3) 1 ({ runner with ls := LocalStorage.ls, lsValid := [0, 7] }) (aw 52 1 2 0 0 0))), 1, 0, 1, 2, 0, by decide +kernel, by decide +kernel, by decide +kernel, (by decide +kernel)⟩,
    ⟨((issue (LocalStorage.sp (inM 3)) 1 ({ runner with ls := LocalStorage.ls, lsValid := [0, 7] }) (aw 52 1 2 0 0 0))), 1, 0, 1, 2, 0, MErr.ok, by decide +kernel, by decide +kernel, by decide +kernel, (by decide +kernel), by decide +kernel, by decide +kernel⟩,
    ⟨((issue ({ (LocalStorage.sp (inM 3)) with mem := { ((LocalStorage.sp (inM 3)).mem) with scratchBad := [1] } }) 1 ({ runner with ls := LocalStorage.ls, lsValid := [0, 7] }) (aw 52 1 2 0 0 1))), 1, 0, 1, 2, 1, MErr.ok, by decide +kernel, by decide +kernel, by decide +kernel, (by decide +kernel), by decide +kernel⟩,
    ⟨((issue (inM 3) 1 ({ runner with ls := LocalStorage.ls, lsValid := [0, 7] }) (aw 53 0 2 3 0 0))), 1, 0, 2, 3, 0, by decide +kernel, by decide +kernel, by decide +kernel⟩,
    ⟨((issue (inM 3) 1 (sysT ({ runner with ls := LocalStorage.ls })) (aw 53 0 2 3 1 0))), 1, 1, 2, 3, 0, by decide +kernel, by decide +kernel, by decide +kernel, (by decide +kernel)⟩,
    ⟨((issue (inM 3) 1 (sysT ({ runner with ls := LocalStorage.ls })) (aw 53 0 2 3 0 0))), 1, 0, 2, 3, 0, by decide +kernel, by decide +kernel, by decide +kernel, (by decide +kernel), by decide +kernel⟩,
    ⟨((issue (LocalStorage.sp (inM 3)) 1 (sysT ({ runner with ls := LocalStorage.ls })) (aw 53 0 2 3 0 0))), 1, 0, 2, 3, 0, by decide +kernel, by decide +kernel, by decide +kernel, (by decide +kernel), by decide +kernel⟩,
    ⟨((issue (inM 3) 1 ({ runner with ls := LocalStorage.ls, lsValid := [0, 7] }) (aw 54 1 2 0 1 0))), 1, 1, 1, 2, 0, by decide +kernel, by decide +kernel, by decide +kernel⟩,
    ⟨((issue (inM 3) 1 ({ runner with ls := LocalStorage.ls, lsValid := [0, 7] }) (aw 54 1 2 0 0 0))), 1, 0, 1, 2, 0, by decide +kernel, by decide +kernel, by decide +kernel⟩⟩

/-! ### DramAndBufferAccess -/
/-- Meets the hypotheses of each clause of Obligations.DramAndBufferAccess. -/
theorem witness_DramAndBufferAccess :
    (∃ (s : State) (t : Nat) (size : Nat) (rd : Nat) (rs1 : Nat) (imm : Nat), size ≤ 3 ∧ issues s t (aw 66 rd rs1 0 size imm) = true ∧ isSys s t = false) ∧
    (∃ (s : State) (t : Nat) (size : Nat) (rd : Nat) (rs1 : Nat) (imm : Nat), size ≤ 3 ∧ issues s t (aw 66 rd rs1 0 size imm) = true ∧ isSys s t = true ∧ (BitVec.toNat (gr s t rs1) + imm) % 2 ^ 64 % 2 ^ size ≠ 0) ∧
    (∃ (s : State) (t : Nat) (size : Nat) (rd : Nat) (rs1 : Nat) (imm : Nat), size ≤ 3 ∧ issues s t (aw 66 rd rs1 0 size imm) = true ∧ isSys s t = true ∧ (BitVec.toNat (gr s t rs1) + imm) % 2 ^ 64 % 2 ^ size = 0 ∧ aHelm ≤ (BitVec.toNat (gr s t rs1) + imm) % 2 ^ 64) ∧
    (∃ (s : State) (t : Nat) (size : Nat) (rd : Nat) (rs1 : Nat) (imm : Nat) (e : MErr), size ≤ 3 ∧ issues s t (aw 66 rd rs1 0 size imm) = true ∧ isSys s t = true ∧ (BitVec.toNat (gr s t rs1) + imm) % 2 ^ 64 % 2 ^ size = 0 ∧ (BitVec.toNat (gr s t rs1) + imm) % 2 ^ 64 < aHelm ∧ e = MErr.ok ∧ (BitVec.toNat (gr s t rs1) + imm) % 2 ^ 64 / 64 ∉ (drainLine s ((BitVec.toNat (gr s t rs1) + imm) % 2 ^ 64 / 64)).mem.bad) ∧
    (∃ (s : State) (t : Nat) (size : Nat) (rd : Nat) (rs1 : Nat) (imm : Nat) (e : MErr), size ≤ 3 ∧ issues s t (aw 66 rd rs1 0 size imm) = true ∧ isSys s t = true ∧ (BitVec.toNat (gr s t rs1) + imm) % 2 ^ 64 % 2 ^ size = 0 ∧ (BitVec.toNat (gr s t rs1) + imm) % 2 ^ 64 < aHelm ∧ e = MErr.ok ∧ (BitVec.toNat (gr s t rs1) + imm) % 2 ^ 64 / 64 ∈ (drainLine s ((BitVec.toNat (gr s t rs1) + imm) % 2 ^ 64 / 64)).mem.bad) ∧
    (∃ (s : State) (t : Nat) (size : Nat) (rd : Nat) (rs1 : Nat) (imm : Nat) (e : MErr) (w : State), size ≤ 3 ∧ issues s t (aw 66 rd rs1 0 size imm) = true ∧ isSys s t = true ∧ (BitVec.toNat (gr s t rs1) + imm) % 2 ^ 64 % 2 ^ size = 0 ∧ (BitVec.toNat (gr s t rs1) + imm) % 2 ^ 64 < aHelm ∧ dramCheck (drainLine s ((BitVec.toNat (gr s t rs1) + imm) % 2 ^ 64 / 64)) ((BitVec.toNat (gr s t rs1) + imm) % 2 ^ 64) (2 ^ size) e 0 = (false, w)) ∧
    (∃ (s : State) (t : Nat) (size : Nat) (rd : Nat) (rs1 : Nat) (imm : Nat) (e : MErr) (w : State), size ≤ 3 ∧ issues s t (aw 66 rd rs1 0 size imm) = true ∧ isSys s t = true ∧ (BitVec.toNat (gr s t rs1) + imm) % 2 ^ 64 % 2 ^ size = 0 ∧ (BitVec.toNat (gr s t rs1) + imm) % 2 ^ 64 < aHelm ∧ dramCheck (drainLine s ((BitVec.toNat (gr s t rs1) + imm) % 2 ^ 64 / 64)) ((BitVec.toNat (gr s t rs1) + imm) % 2 ^ 64) (2 ^ size) e 0 = (true, w)) ∧
    (∃ (s : State) (t : Nat) (size : Nat) (rs1 : Nat) (rs2 : Nat) (imm : Nat), size ≤ 3 ∧ issues s t (aw 67 0 rs1 rs2 size imm) = true ∧ isSys s t = false) ∧
    (∃ (s : State) (t : Nat) (size : Nat) (rs1 : Nat) (rs2 : Nat) (imm : Nat), size ≤ 3 ∧ issues s t (aw 67 0 rs1 rs2 size imm) = true ∧ isSys s t = true ∧ (BitVec.toNat (gr s t rs1) + imm) % 2 ^ 64 % 2 ^ size ≠ 0) ∧
    (∃ (s : State) (t : Nat) (size : Nat) (rs1 : Nat) (rs2 : Nat) (imm : Nat), size ≤ 3 ∧ issues s t (aw 67 0 rs1 rs2 size imm) = true ∧ isSys s t = true ∧ (BitVec.toNat (gr s t rs1) + imm) % 2 ^ 64 % 2 ^ size = 0 ∧ aHelm ≤ (BitVec.toNat (gr s t rs1) + imm) % 2 ^ 64) ∧
    (∃ (s : State) (t : Nat) (size : Nat) (rs1 : Nat) (rs2 : Nat) (imm : Nat), size ≤ 3 ∧ issues s t (aw 67 0 rs1 rs2 size imm) = true ∧ isSys s t = true ∧ (BitVec.toNat (gr s t rs1) + imm) % 2 ^ 64 % 2 ^ size = 0 ∧ (BitVec.toNat (gr s t rs1) + imm) % 2 ^ 64 < aHelm) ∧
    (∃ (s : State) (t : Nat) (size : Nat) (rd : Nat) (rs1 : Nat) (rs2 : Nat) (imm : Nat), size ≤ 3 ∧ issues s t (aw 64 rd rs1 rs2 size imm) = true ∧ holds s t (BitVec.toNat (gr s t rs1)) = false) ∧
    (∃ (s : State) (t : Nat) (size : Nat) (rd : Nat) (rs1 : Nat) (rs2 : Nat) (imm : Nat) (b : Buf), size ≤ 3 ∧ issues s t (aw 64 rd rs1 rs2 size imm) = true ∧ bufAt s (BitVec.toNat (gr s t rs1)) = some b ∧ holds s t (BitVec.toNat (gr s t rs1)) = true ∧ bufOff b ((BitVec.toNat (gr s t rs2) + imm) % 2 ^ 64) = none) ∧
    (∃ (s : State) (t : Nat) (size : Nat) (rd : Nat) (rs1 : Nat) (rs2 : Nat) (imm : Nat) (b : Buf) (l : Loc), size ≤ 3 ∧ issues s t (aw 64 rd rs1 rs2 size imm) = true ∧ bufAt s (BitVec.toNat (gr s t rs1)) = some b ∧ holds s t (BitVec.toNat (gr s t rs1)) = true ∧ bufOff b ((BitVec.toNat (gr s t rs2) + imm) % 2 ^ 64) = some l ∧ (BitVec.toNat (gr s t rs2) + imm) % 2 ^ 64 % 2 ^ size ≠ 0) ∧
    (∃ (s : State) (t : Nat) (size : Nat) (rd : Nat) (rs1 : Nat) (rs2 : Nat) (imm : Nat) (e : MErr) (b : Buf) (l : Loc) (v : State), size ≤ 3 ∧ issues s t (aw 64 rd rs1 rs2 size imm) = true ∧ bufAt s (BitVec.toNat (gr s t rs1)) = some b ∧ holds s t (BitVec.toNat (gr s t rs1)) = true ∧ bufOff b ((BitVec.toNat (gr s t rs2) + imm) % 2 ^ 64) = some l ∧ (BitVec.toNat (gr s t rs2) + imm) % 2 ^ 64 % 2 ^ size = 0 ∧ locCheck s l (2 ^ size) e 0 = (false, v)) ∧
    (∃ (s : State) (t : Nat) (size : Nat) (rd : Nat) (rs1 : Nat) (rs2 : Nat) (imm : Nat) (e : MErr) (b : Buf) (l : Loc) (v : State), size ≤ 3 ∧ issues s t (aw 64 rd rs1 rs2 size imm) = true ∧ bufAt s (BitVec.toNat (gr s t rs1)) = some b ∧ holds s t (BitVec.toNat (gr s t rs1)) = true ∧ bufOff b ((BitVec.toNat (gr s t rs2) + imm) % 2 ^ 64) = some l ∧ (BitVec.toNat (gr s t rs2) + imm) % 2 ^ 64 % 2 ^ size = 0 ∧ locCheck s l (2 ^ size) e 0 = (true, v)) ∧
    (∃ (s : State) (t : Nat) (size : Nat) (rd : Nat) (rs1 : Nat) (rs2 : Nat) (imm : Nat), size ≤ 3 ∧ issues s t (aw 65 rd rs1 rs2 size imm) = true ∧ holds s t (BitVec.toNat (gr s t rs1)) = false) ∧
    (∃ (s : State) (t : Nat) (size : Nat) (rd : Nat) (rs1 : Nat) (rs2 : Nat) (imm : Nat) (b : Buf), size ≤ 3 ∧ issues s t (aw 65 rd rs1 rs2 size imm) = true ∧ bufAt s (BitVec.toNat (gr s t rs1)) = some b ∧ holds s t (BitVec.toNat (gr s t rs1)) = true ∧ bufOff b ((BitVec.toNat (gr s t rd) + imm) % 2 ^ 64) = none) ∧
    (∃ (s : State) (t : Nat) (size : Nat) (rd : Nat) (rs1 : Nat) (rs2 : Nat) (imm : Nat) (b : Buf) (l : Loc), size ≤ 3 ∧ issues s t (aw 65 rd rs1 rs2 size imm) = true ∧ bufAt s (BitVec.toNat (gr s t rs1)) = some b ∧ holds s t (BitVec.toNat (gr s t rs1)) = true ∧ bufOff b ((BitVec.toNat (gr s t rd) + imm) % 2 ^ 64) = some l ∧ (BitVec.toNat (gr s t rd) + imm) % 2 ^ 64 % 2 ^ size ≠ 0) ∧
    (∃ (s : State) (t : Nat) (size : Nat) (rd : Nat) (rs1 : Nat) (rs2 : Nat) (imm : Nat) (b : Buf) (l : Loc), size ≤ 3 ∧ issues s t (aw 65 rd rs1 rs2 size imm) = true ∧ bufAt s (BitVec.toNat (gr s t rs1)) = some b ∧ holds s t (BitVec.toNat (gr s t rs1)) = true ∧ bufOff b ((BitVec.toNat (gr s t rd) + imm) % 2 ^ 64) = some l ∧ (BitVec.toNat (gr s t rd) + imm) % 2 ^ 64 % 2 ^ size = 0) :=
  ⟨⟨issue (badMem (inM 3)) 1 (hostT [(2, 4096 * 3), (3, 1311768467463790320)]) (aw 66 1 2 0 0 0), 1, 0, 1, 2, 0, by decide +kernel, by decide +kernel, by decide +kernel⟩,
    ⟨issue (badMem (inM 3)) 1 (swT [(2, 4096 * 3), (3, 1311768467463790320)]) (aw 66 1 2 0 1 1), 1, 1, 1, 2, 1, by decide +kernel, by decide +kernel, by decide +kernel, (by decide +kernel)⟩,
    ⟨issue (badMem (inM 3)) 1 (swT [(2, 2 ^ 40), (3, 1311768467463790320)]) (aw 66 1 2 0 0 0), 1, 0, 1, 2, 0, by decide +kernel, by decide +kernel, by decide +kernel, (by decide +kernel), by decide +kernel⟩,
    ⟨issue (badMem (inM 3)) 1 (swT [(2, 5 * 2 ^ 30), (3, 1311768467463790320)]) (aw 66 1 2 0 0 0), 1, 0, 1, 2, 0, MErr.ok, by decide +kernel, by decide +kernel, by decide +kernel, (by decide +kernel), by decide +kernel, by decide +kernel, by decide +kernel⟩,
    ⟨issue (badMem (inM 3)) 1 (swT [(2, 4096 * 3), (3, 1311768467463790320)]) (aw 66 1 2 0 0 0), 1, 0, 1, 2, 0, MErr.ok, by decide +kernel, by decide +kernel, by decide +kernel, (by decide +kernel), by decide +kernel, by decide +kernel, by decide +kernel⟩,
    ⟨issue (badMem (inM 3)) 1 (swT [(2, 5 * 2 ^ 30), (3, 1311768467463790320)]) (aw 66 1 2 0 0 0), 1, 0, 1, 2, 0, MErr.ok, _, by decide +kernel, by decide +kernel, by decide +kernel, (by decide +kernel), by decide +kernel, fst_wit (by decide +kernel)⟩,
    ⟨issue (badMem (inM 3)) 1 (swT [(2, 4096 * 3), (3, 1311768467463790320)]) (aw 66 1 2 0 0 0), 1, 0, 1, 2, 0, MErr.ok, _, by decide +kernel, by decide +kernel, by decide +kernel, (by decide +kernel), by decide +kernel, fst_wit (by decide +kernel)⟩,
    ⟨issue (badMem (inM 3)) 1 (hostT [(2, 4096 * 3), (3, 1311768467463790320)]) (aw 67 0 2 3 0 0), 1, 0, 2, 3, 0, by decide +kernel, by decide +kernel, by decide +kernel⟩,
    ⟨issue (badMem (inM 3)) 1 (swT [(2, 4096 * 3), (3, 1311768467463790320)]) (aw 67 0 2 3 1 1), 1, 1, 2, 3, 1, by decide +kernel, by decide +kernel, by decide +kernel, (by decide +kernel)⟩,
    ⟨issue (badMem (inM 3)) 1 (swT [(2, 2 ^ 40), (3, 1311768467463790320)]) (aw 67 0 2 3 0 0), 1, 0, 2, 3, 0, by decide +kernel, by decide +kernel, by decide +kernel, (by decide +kernel), by decide +kernel⟩,
    ⟨issue (badMem (inM 3)) 1 (swT [(2, 4096 * 3), (3, 1311768467463790320)]) (aw 67 0 2 3 0 0), 1, 0, 2, 3, 0, by decide +kernel, by decide +kernel, by decide +kernel, (by decide +kernel), by decide +kernel⟩,
    ⟨issue (badMem (withB (inM 3))) 1 (hostT [(1, 0), (2, 0), (3, 0)]) (aw 64 1 2 3 0 0), 1, 0, 1, 2, 3, 0, by decide +kernel, by decide +kernel, by decide +kernel⟩,
    ⟨issue (badMem (withB (inM 3))) 1 (hostT [(1, 4096 * 16), (2, h1), (3, 4096 * 16)]) (aw 64 1 2 3 0 0), 1, 0, 1, 2, 3, 0, _, by decide +kernel, by decide +kernel, some_wit (by decide +kernel), by decide +kernel, by decide +kernel⟩,
    ⟨issue (badMem (withB (inM 3))) 1 (hostT [(1, 0), (2, h1), (3, 0)]) (aw 64 1 2 3 1 1), 1, 1, 1, 2, 3, 1, _, _, by decide +kernel, by decide +kernel, some_wit (by decide +kernel), by decide +kernel, some_wit (by decide +kernel), by decide +kernel⟩,
    ⟨issue (badMem (withB (inM 3))) 1 (hostT [(1, 0), (2, h1), (3, 0)]) (aw 64 1 2 3 0 0), 1, 0, 1, 2, 3, 0, MErr.ok, _, _, _, by decide +kernel, by decide +kernel, some_wit (by decide +kernel), by decide +kernel, some_wit (by decide +kernel), by decide +kernel, fst_wit (by decide +kernel)⟩,
    ⟨issue (badMem (withB (inM 3))) 1 (hostT [(1, 0), (2, h2), (3, 0)]) (aw 64 1 2 3 0 0), 1, 0, 1, 2, 3, 0, MErr.ok, _, _, _, by decide +kernel, by decide +kernel, some_wit (by decide +kernel), by decide +kernel, some_wit (by decide +kernel), by decide +kernel, fst_wit (by decide +kernel)⟩,
    ⟨issue (badMem (withB (inM 3))) 1 (hostT [(1, 0), (2, 0), (3, 77)]) (aw 65 1 2 3 0 0), 1, 0, 1, 2, 3, 0, by decide +kernel, by decide +kernel, by decide +kernel⟩,
    ⟨issue (badMem (withB (inM 3))) 1 (hostT [(1, 4096 * 16), (2, h1), (3, 77)]) (aw 65 1 2 3 0 0), 1, 0, 1, 2, 3, 0, _, by decide +kernel, by decide +kernel, some_wit (by decide +kernel), by decide +kernel, by decide +kernel⟩,
    ⟨issue (badMem (withB (inM 3))) 1 (hostT [(1, 0), (2, h1), (3, 77)]) (aw 65 1 2 3 1 1), 1, 1, 1, 2, 3, 1, _, _, by decide +kernel, by decide +kernel, some_wit (by decide +kernel), by decide +kernel, some_wit (by decide +kernel), by decide +kernel⟩,
    ⟨issue (badMem (withB (inM 3))) 1 (hostT [(1, 0), (2, h1), (3, 77)]) (aw 65 1 2 3 0 0), 1, 0, 1, 2, 3, 0, _, _, by decide +kernel, by decide +kernel, some_wit (by decide +kernel), by decide +kernel, some_wit (by decide +kernel), by decide +kernel⟩⟩

/-! ### BufferInstructions -/
/-- Meets the hypotheses of each clause of Obligations.BufferInstructions. -/
theorem witness_BufferInstructions :
    (∃ (s : State) (t : Nat) (rd : Nat) (pool : Nat) (wb : Bool), pool < 4 ∧ issues s t (aw 112 rd 0 0 (pool + 4 * b2n wb) 0) = true ∧ wb = true ∧ pool < 2) ∧
    (∃ (s : State) (t : Nat) (rd : Nat) (pool : Nat) (wb : Bool), pool < 4 ∧ issues s t (aw 112 rd 0 0 (pool + 4 * b2n wb) 0) = true ∧ (¬(wb = true ∧ pool < 2)) ∧ newAlloc s t pool wb = none) ∧
    (∃ (s : State) (t : Nat) (rd : Nat) (pool : Nat) (wb : Bool) (n : Nat) (v : State), pool < 4 ∧ issues s t (aw 112 rd 0 0 (pool + 4 * b2n wb) 0) = true ∧ (¬(wb = true ∧ pool < 2)) ∧ newAlloc s t pool wb = some (n, v)) ∧
    (∃ (s : State) (t : Nat) (rs1 : Nat), issues s t (aw 113 0 rs1 0 0 0) = true ∧ holds s t (BitVec.toNat (gr s t rs1)) = false) ∧
    (∃ (s : State) (t : Nat) (rs1 : Nat) (b : Buf), issues s t (aw 113 0 rs1 0 0 0) = true ∧ bufAt s (BitVec.toNat (gr s t rs1)) = some b ∧ holds s t (BitVec.toNat (gr s t rs1)) = true ∧ b.shared = true ∧ b.owner ≠ t) ∧
    (∃ (s : State) (t : Nat) (rs1 : Nat) (b : Buf) (k : Nat) (m : Bool) (g : Nat), issues s t (aw 113 0 rs1 0 0 0) = true ∧ bufAt s (BitVec.toNat (gr s t rs1)) = some b ∧ holds s t (BitVec.toNat (gr s t rs1)) = true ∧ (¬(b.shared = true ∧ b.owner ≠ t)) ∧ namesBuf s (BitVec.toNat (gr s t rs1)) = some (k, m, g)) ∧
    (∃ (s : State) (t : Nat) (rs1 : Nat) (b : Buf), issues s t (aw 113 0 rs1 0 0 0) = true ∧ bufAt s (BitVec.toNat (gr s t rs1)) = some b ∧ holds s t (BitVec.toNat (gr s t rs1)) = true ∧ (¬(b.shared = true ∧ b.owner ≠ t)) ∧ namesBuf s (BitVec.toNat (gr s t rs1)) = none) ∧
    (∃ (s : State) (t : Nat) (rs1 : Nat) (rs2 : Nat) (give : Bool), issues s t (aw 114 0 rs1 rs2 (b2n give) 0) = true ∧ holds s t (BitVec.toNat (gr s t rs1)) = false) ∧
    (∃ (s : State) (t : Nat) (rs1 : Nat) (rs2 : Nat) (give : Bool) (b : Buf), issues s t (aw 114 0 rs1 rs2 (b2n give) 0) = true ∧ bufAt s (BitVec.toNat (gr s t rs1)) = some b ∧ holds s t (BitVec.toNat (gr s t rs1)) = true ∧ b.shared = true) ∧
    (∃ (s : State) (t : Nat) (rs1 : Nat) (rs2 : Nat) (give : Bool) (b : Buf), issues s t (aw 114 0 rs1 rs2 (b2n give) 0) = true ∧ bufAt s (BitVec.toNat (gr s t rs1)) = some b ∧ holds s t (BitVec.toNat (gr s t rs1)) = true ∧ b.shared = false ∧ BitVec.toNat (gr s t rs2) % 2 ^ 13 ≠ 8191) ∧
    (∃ (s : State) (t : Nat) (rs1 : Nat) (rs2 : Nat) (wb : Bool) (give : Bool) (b : Buf), issues s t (aw 114 0 rs1 rs2 (b2n give) 0) = true ∧ bufAt s (BitVec.toNat (gr s t rs1)) = some b ∧ holds s t (BitVec.toNat (gr s t rs1)) = true ∧ b.shared = false ∧ BitVec.toNat (gr s t rs2) % 2 ^ 13 = 8191 ∧ b.wb = false) ∧
    (∃ (s : State) (t : Nat) (rs1 : Nat) (rs2 : Nat) (wb : Bool) (give : Bool) (b : Buf), issues s t (aw 114 0 rs1 rs2 (b2n give) 0) = true ∧ bufAt s (BitVec.toNat (gr s t rs1)) = some b ∧ holds s t (BitVec.toNat (gr s t rs1)) = true ∧ b.shared = false ∧ BitVec.toNat (gr s t rs2) % 2 ^ 13 = 8191 ∧ b.wb = true) ∧
    (∃ (s : State) (t : Nat) (rd : Nat), issues s t (aw 115 rd 0 0 0 0) = true ∧ isSys s t = false) ∧
    (∃ (s : State) (t : Nat) (rd : Nat) (k : Nat) (q : List Nat), issues s t (aw 115 rd 0 0 0 0) = true ∧ isSys s t = true ∧ s.buf.flushq = k :: q) ∧
    (∃ (s : State) (t : Nat) (rd : Nat), issues s t (aw 115 rd 0 0 0 0) = true ∧ isSys s t = true ∧ s.buf.flushq = []) :=
  ⟨⟨((issue (withB (inM 3)) 1 (hostT [(2, 0), (3, 7)]) (aw 112 1 0 0 (0 + 4 * 1) 0))), 1, 1, 0, true, by decide +kernel, by decide +kernel, by decide +kernel, (by decide +kernel)⟩,
    ⟨issue (setF (setF (withB (inM 3)) PAIR_STAT_SWAPPING 1) PAIR_CFG_SWWB_MIB 0) 1 (hostT []) (aw 112 1 0 0 (3 + 4) 0), 1, 1, 3, true, by decide +kernel, by decide +kernel, by decide +kernel, (by decide +kernel)⟩,
    ⟨((issue (withB (inM 3)) 1 (hostT [(2, 0), (3, 7)]) (aw 112 1 0 0 (0 + 4 * 0) 0))), 1, 1, 0, false, _, _, by decide +kernel, by decide +kernel, by decide +kernel, some_wit (by decide +kernel)⟩,
    ⟨issue (withB (inM 3)) 1 (hostT [(2, 0), (3, 7)]) (aw 113 0 2 0 0 0), 1, 2, by decide +kernel, by decide +kernel⟩,
    ⟨issue (withB (inM 3)) 1 (hostT [(2, hs), (3, 7)]) (aw 113 0 2 0 0 0), 1, 2, _, by decide +kernel, some_wit (by decide +kernel), by decide +kernel, by decide +kernel, by decide +kernel⟩,
    ⟨issue (withB (inM 3)) 1 ({ (hostT [(2, h1)]) with xfers := [(2, some ({ (xf XKind.xin []) with hs := [h1] }))] }) (aw 113 0 2 0 0 0), 1, 2, _, _, _, _, by decide +kernel, some_wit (by decide +kernel), by decide +kernel, by decide +kernel, some_wit (by decide +kernel)⟩,
    ⟨issue (withB (inM 3)) 1 (hostT [(2, h1), (3, 7)]) (aw 113 0 2 0 0 0), 1, 2, _, by decide +kernel, some_wit (by decide +kernel), by decide +kernel, by decide +kernel, by decide +kernel⟩,
    ⟨issue (withB (inM 3)) 1 (hostT [(2, 0), (3, 7)]) (aw 114 0 2 3 0 0), 1, 2, 3, false, by decide +kernel, by decide +kernel⟩,
    ⟨issue (withB (inM 3)) 1 (hostT [(2, hs), (3, 7)]) (aw 114 0 2 3 0 0), 1, 2, 3, false, _, by decide +kernel, some_wit (by decide +kernel), by decide +kernel, by decide +kernel⟩,
    ⟨issue (withB (inM 3)) 1 (hostT [(2, h1), (3, 7)]) (aw 114 0 2 3 0 0), 1, 2, 3, false, _, by decide +kernel, some_wit (by decide +kernel), by decide +kernel, by decide +kernel, by decide +kernel⟩,
    ⟨issue (withB (inM 3)) 1 (hostT [(2, h1), (3, 8191)]) (aw 114 0 2 3 0 0), 1, 2, 3, false, false, _, by decide +kernel, some_wit (by decide +kernel), by decide +kernel, by decide +kernel, by decide +kernel, (by decide +kernel)⟩,
    ⟨issue (withB (inM 3)) 1 (hostT [(2, hw), (3, 8191)]) (aw 114 0 2 3 0 0), 1, 2, 3, false, false, _, by decide +kernel, some_wit (by decide +kernel), by decide +kernel, by decide +kernel, by decide +kernel, (by decide +kernel)⟩,
    ⟨((issue (withB (inM 3)) 1 (hostT [(2, 0), (3, 7)]) (aw 115 1 0 0 0 0))), 1, 1, by decide +kernel, by decide +kernel⟩,
    ⟨(fun (b : State) => { b with buf := { (b.buf) with flushq := [hw, 9] } }) (issue (withB (inM 3)) 1 (swT [(2, 0), (3, 7)]) (aw 115 1 0 0 0 0)), 1, 1, _, _, by decide +kernel, by decide +kernel, cons_wit (by decide +kernel)⟩,
    ⟨((issue (withB (inM 3)) 1 (swT [(2, 0), (3, 7)]) (aw 115 1 0 0 0 0))), 1, 1, by decide +kernel, by decide +kernel, by decide +kernel⟩⟩

/-! ### VolumeToLbn -/
/-- Meets the hypotheses of each clause of Obligations.VolumeToLbn. -/
theorem witness_VolumeToLbn :
    (∃ (s : State) (t : Nat) (rd : Nat) (rs1 : Nat) (rs2 : Nat) (c : Bool) (src : Bool), issues s t (aw 80 rd rs1 rs2 (b2n c + 2 * b2n src) 0) = true ∧ c = true ∧ (mode s ≠ mRun ∨ (isHost t && (cx s t).late) = true)) ∧
    (∃ (s : State) (t : Nat) (rd : Nat) (rs1 : Nat) (rs2 : Nat) (c : Bool) (src : Bool), issues s t (aw 80 rd rs1 rs2 (b2n c + 2 * b2n src) 0) = true ∧ c = true ∧ mode s = mRun ∧ (isHost t && (cx s t).late) = false ∧ 8191 < BitVec.toNat (gr s t rs1) % 2 ^ 16) ∧
    (∃ (s : State) (t : Nat) (rd : Nat) (rs1 : Nat) (rs2 : Nat) (c : Bool) (src : Bool), issues s t (aw 80 rd rs1 rs2 (b2n c + 2 * b2n src) 0) = true ∧ c = true ∧ mode s = mRun ∧ (isHost t && (cx s t).late) = false ∧ BitVec.toNat (gr s t rs1) % 2 ^ 16 ≤ 8191) ∧
    (∃ (s : State) (t : Nat) (rd : Nat) (rs1 : Nat) (rs2 : Nat) (c : Bool) (src : Bool), issues s t (aw 80 rd rs1 rs2 (b2n c + 2 * b2n src) 0) = true ∧ c = false ∧ (8191 < BitVec.toNat (gr s t rs1) % 2 ^ 16 ∨ volState (volEnt s (BitVec.toNat (gr s t rs1) % 2 ^ 16 % 8192)) = 0 ∨ isSys s t = false ∧ BitVec.toNat (gr s t rs1) % 2 ^ 16 ∉ (bindOf s t).vols)) ∧
    (∃ (s : State) (t : Nat) (rd : Nat) (rs1 : Nat) (rs2 : Nat) (c : Bool) (src : Bool), issues s t (aw 80 rd rs1 rs2 (b2n c + 2 * b2n src) 0) = true ∧ c = false ∧ BitVec.toNat (gr s t rs1) % 2 ^ 16 ≤ 8191 ∧ (isSys s t = true ∨ BitVec.toNat (gr s t rs1) % 2 ^ 16 ∈ (bindOf s t).vols) ∧ volState (volEnt s (BitVec.toNat (gr s t rs1) % 2 ^ 16 % 8192)) = 2) ∧
    (∃ (s : State) (t : Nat) (rd : Nat) (rs1 : Nat) (rs2 : Nat) (c : Bool) (src : Bool), issues s t (aw 80 rd rs1 rs2 (b2n c + 2 * b2n src) 0) = true ∧ c = false ∧ BitVec.toNat (gr s t rs1) % 2 ^ 16 ≤ 8191 ∧ (isSys s t = true ∨ BitVec.toNat (gr s t rs1) % 2 ^ 16 ∈ (bindOf s t).vols) ∧ volState (volEnt s (BitVec.toNat (gr s t rs1) % 2 ^ 16 % 8192)) ≠ 0 ∧ volState (volEnt s (BitVec.toNat (gr s t rs1) % 2 ^ 16 % 8192)) ≠ 2 ∧ 256 * volSize (volEnt s (BitVec.toNat (gr s t rs1) % 2 ^ 16 % 8192)) ≤ BitVec.toNat (gr s t rs2) + bits (BitVec.toNat (gr s t rs1)) 32 32) ∧
    (∃ (s : State) (t : Nat) (rd : Nat) (rs1 : Nat) (rs2 : Nat) (c : Bool) (src : Bool), issues s t (aw 80 rd rs1 rs2 (b2n c + 2 * b2n src) 0) = true ∧ c = false ∧ BitVec.toNat (gr s t rs1) % 2 ^ 16 ≤ 8191 ∧ (isSys s t = true ∨ BitVec.toNat (gr s t rs1) % 2 ^ 16 ∈ (bindOf s t).vols) ∧ volState (volEnt s (BitVec.toNat (gr s t rs1) % 2 ^ 16 % 8192)) ≠ 0 ∧ volState (volEnt s (BitVec.toNat (gr s t rs1) % 2 ^ 16 % 8192)) ≠ 2 ∧ BitVec.toNat (gr s t rs2) + bits (BitVec.toNat (gr s t rs1)) 32 32 < 256 * volSize (volEnt s (BitVec.toNat (gr s t rs1) % 2 ^ 16 % 8192))) :=
  ⟨⟨(issue (vols (inM 5)) 1 (hostT [(2, 1 + 2 ^ 32), (3, 5)]) (aw 80 1 2 3 1 0)), 1, 1, 2, 3, true, false, by decide +kernel, by decide +kernel, by decide +kernel⟩,
    ⟨(issue (vols (inM 3)) 1 (hostT [(2, 9000 + 2 ^ 32), (3, 5)]) (aw 80 1 2 3 1 0)), 1, 1, 2, 3, true, false, by decide +kernel, by decide +kernel, by decide +kernel, (by decide +kernel), by decide +kernel⟩,
    ⟨(issue (vols (inM 3)) 1 (hostT [(2, 1 + 2 ^ 32), (3, 5)]) (aw 80 1 2 3 1 0)), 1, 1, 2, 3, true, false, by decide +kernel, by decide +kernel, by decide +kernel, (by decide +kernel), by decide +kernel⟩,
    ⟨(issue (vols (inM 3)) 1 (hostT [(2, 3 + 2 ^ 32), (3, 5)]) (aw 80 1 2 3 0 0)), 1, 1, 2, 3, false, false, by decide +kernel, by decide +kernel, by decide +kernel⟩,
    ⟨(issue (vols (inM 3)) 1 (hostT [(2, 2 + 2 ^ 32), (3, 5)]) (aw 80 1 2 3 0 0)), 1, 1, 2, 3, false, false, by decide +kernel, by decide +kernel, by decide +kernel, (by decide +kernel), by decide +kernel⟩,
    ⟨(issue (vols (inM 3)) 1 (hostT [(2, 1 + 2 ^ 32), (3, 511)]) (aw 80 1 2 3 0 0)), 1, 1, 2, 3, false, false, by decide +kernel, by decide +kernel, by decide +kernel, (by decide +kernel), by decide +kernel, by decide +kernel, by decide +kernel⟩,
    ⟨(issue (vols (inM 3)) 1 (hostT [(2, 1 + 2 ^ 32), (3, 5)]) (aw 80 1 2 3 0 0)), 1, 1, 2, 3, false, false, by decide +kernel, by decide +kernel, by decide +kernel, (by decide +kernel), by decide +kernel, by decide +kernel, by decide +kernel⟩⟩

/-! ### MapLookups -/
namespace MapLookups
def mbase (b : State) : State := lcap (vols b) 100
end MapLookups
/-- Meets the hypotheses of each clause of Obligations.MapLookups. -/
theorem witness_MapLookups :
    (∃ (s : State) (t : Nat) (rd : Nat) (rs1 : Nat), issues s t (aw 81 rd rs1 0 0 0) = true ∧ mayLbn s t (BitVec.toNat (gr s t rs1)) = false) ∧
    (∃ (s : State) (t : Nat) (rd : Nat) (rs1 : Nat), issues s t (aw 81 rd rs1 0 0 0) = true ∧ mayLbn s t (BitVec.toNat (gr s t rs1)) = true ∧ isSys s t = true ∧ lcapBlocks s ≤ localLbn s (BitVec.toNat (gr s t rs1))) ∧
    (∃ (s : State) (t : Nat) (rd : Nat) (rs1 : Nat), issues s t (aw 81 rd rs1 0 0 0) = true ∧ mayLbn s t (BitVec.toNat (gr s t rs1)) = true ∧ (¬(isSys s t = true ∧ lcapBlocks s ≤ localLbn s (BitVec.toNat (gr s t rs1)))) ∧ inWindow s (localLbn s (BitVec.toNat (gr s t rs1)) / 256) = true) ∧
    (∃ (s : State) (t : Nat) (rd : Nat) (rs1 : Nat) (e : List (Nat × MErr)) (v : State), issues s t (aw 81 rd rs1 0 0 0) = true ∧ mayLbn s t (BitVec.toNat (gr s t rs1)) = true ∧ (¬(isSys s t = true ∧ lcapBlocks s ≤ localLbn s (BitVec.toNat (gr s t rs1)))) ∧ inWindow s (localLbn s (BitVec.toNat (gr s t rs1)) / 256) = false ∧ hits (spoil s e) t (lookLines (spoil s e) (localLbn s (BitVec.toNat (gr s t rs1))) false) = some v ∧ coState (coarseWord v (localLbn s (BitVec.toNat (gr s t rs1)) / 256)) < 5 ∧ (th v t).st = TSt.running) ∧
    (∃ (s : State) (t : Nat) (rd : Nat) (rs1 : Nat), issues s t (aw 82 rd rs1 0 0 0) = true ∧ mayLbn s t (BitVec.toNat (gr s t rs1)) = false) ∧
    (∃ (s : State) (t : Nat) (rd : Nat) (rs1 : Nat), issues s t (aw 82 rd rs1 0 0 0) = true ∧ mayLbn s t (BitVec.toNat (gr s t rs1)) = true ∧ isSys s t = true ∧ lcapBlocks s ≤ localLbn s (BitVec.toNat (gr s t rs1))) ∧
    (∃ (s : State) (t : Nat) (rd : Nat) (rs1 : Nat) (e : List (Nat × MErr)) (v : State), issues s t (aw 82 rd rs1 0 0 0) = true ∧ mayLbn s t (BitVec.toNat (gr s t rs1)) = true ∧ (¬(isSys s t = true ∧ lcapBlocks s ≤ localLbn s (BitVec.toNat (gr s t rs1)))) ∧ inWindow s (localLbn s (BitVec.toNat (gr s t rs1)) / 256) = false ∧ hits (spoil s e) t (lookLines (spoil s e) (localLbn s (BitVec.toNat (gr s t rs1))) true) = some v ∧ coState (coarseWord v (localLbn s (BitVec.toNat (gr s t rs1)) / 256)) < 5 ∧ (th v t).st = TSt.running) ∧
    (∃ (s : State) (t : Nat) (rd : Nat), issues s t (aw 83 rd 0 0 0 0) = true ∧ genReady s = true) :=
  ⟨⟨(issue (MapLookups.mbase (inM 3)) 1 (hostT [(2, 100 * 256)]) (aw 81 1 2 0 0 0)), 1, 1, 2, by decide +kernel, by decide +kernel⟩,
    ⟨(issue (MapLookups.mbase (inM 3)) 1 (swT [(2, 100 * 256)]) (aw 81 1 2 0 0 0)), 1, 1, 2, by decide +kernel, by decide +kernel, by decide +kernel, (by decide +kernel)⟩,
    ⟨(issue ({ (MapLookups.mbase (inM 3)) with map := { (MapCtl.reset) with recs := [recE 1 [ent0]] } }) 1 (hostT [(2, 4 * 256 + 3)]) (aw 81 1 2 0 0 0)), 1, 1, 2, by decide +kernel, by decide +kernel, by decide +kernel, (by decide +kernel)⟩,
    ⟨(issue (cached (MapLookups.mbase (inM 3)) (lookLines (MapLookups.mbase (inM 3)) (4 * 256 + 3) false ++ lookLines (MapLookups.mbase (inM 3)) (4 * 256 + 3) true)) 1 (hostT [(2, 4 * 256 + 3)]) (aw 81 1 2 0 0 0)), 1, 1, 2, [], _, by decide +kernel, by decide +kernel, by decide +kernel, (by decide +kernel), some_wit (by decide +kernel), by decide +kernel, by decide +kernel⟩,
    ⟨(issue (MapLookups.mbase (inM 3)) 1 (hostT [(2, 100 * 256)]) (aw 82 1 2 0 0 0)), 1, 1, 2, by decide +kernel, by decide +kernel⟩,
    ⟨(issue (MapLookups.mbase (inM 3)) 1 (swT [(2, 100 * 256)]) (aw 82 1 2 0 0 0)), 1, 1, 2, by decide +kernel, by decide +kernel, by decide +kernel, (by decide +kernel)⟩,
    ⟨(issue (cached (MapLookups.mbase (inM 3)) (lookLines (MapLookups.mbase (inM 3)) (4 * 256 + 3) false ++ lookLines (MapLookups.mbase (inM 3)) (4 * 256 + 3) true)) 1 (hostT [(2, 4 * 256 + 3)]) (aw 82 1 2 0 0 0)), 1, 1, 2, [], _, by decide +kernel, by decide +kernel, by decide +kernel, (by decide +kernel), some_wit (by decide +kernel), by decide +kernel, by decide +kernel⟩,
    ⟨(issue (MapLookups.mbase (inM 3)) 1 (hostT [(2, 4 * 256 + 3)]) (aw 83 1 0 0 0 0)), 1, 1, by decide +kernel, by decide +kernel⟩⟩

/-! ### StagedCommits -/
namespace StagedCommits
def ent (l : Nat) (a : Act) : Staged := ⟨l, a, 5, false, 1, false⟩
def slots : List (NMap Slot) := [[], [(0, ⟨[ent (4 * 256) .coarse, ent 1027 .fine], false⟩)], [(0, ⟨[ent 1027 .fine], true⟩)], [(0, ⟨(List.range 256).map fun i => ent (1024 + i) .fine, false⟩)]]
def cbase : State := withB (geom 10 (vols (inM 3)))
def cth : Thread := { hostT [] with slots := slots.getD 1 [], locks := [(4, 0)] }
def big : JRec := { recE 1 [] with typ := .pad, a := 2 ^ 26 }
end StagedCommits
/-- Meets the hypotheses of each clause of Obligations.StagedCommits. -/
theorem witness_StagedCommits :
    (∃ (s : State) (t : Nat) (rd : Nat) (rs1 : Nat) (rs2 : Nat) (frame : Nat) (slot : Nat) (k : Nat) (rel : Bool) (wb : Bool), frame < 256 ∧ slot < 4 ∧ k < 4 ∧ issues s t (aw 84 rd rs1 rs2 (slot + 4 * k + 16 * b2n rel + 32 * b2n wb) frame) = true ∧ mayLbn s t (BitVec.toNat (gr s t rs1)) = false) ∧
    (∃ (s : State) (t : Nat) (rd : Nat) (rs1 : Nat) (rs2 : Nat) (frame : Nat) (slot : Nat) (k : Nat) (rel : Bool) (wb : Bool), frame < 256 ∧ slot < 4 ∧ k < 4 ∧ issues s t (aw 84 rd rs1 rs2 (slot + 4 * k + 16 * b2n rel + 32 * b2n wb) frame) = true ∧ mayLbn s t (BitVec.toNat (gr s t rs1)) = true ∧ wb = true ∧ holds s t (BitVec.toNat (gr s t rs2)) = false) ∧
    (∃ (s : State) (t : Nat) (rd : Nat) (rs1 : Nat) (rs2 : Nat) (frame : Nat) (slot : Nat) (k : Nat) (rel : Bool) (wb : Bool), frame < 256 ∧ slot < 4 ∧ k < 4 ∧ issues s t (aw 84 rd rs1 rs2 (slot + 4 * k + 16 * b2n rel + 32 * b2n wb) frame) = true ∧ mayLbn s t (BitVec.toNat (gr s t rs1)) = true ∧ (¬(wb = true ∧ holds s t (BitVec.toNat (gr s t rs2)) = false)) ∧ isSys s t = true ∧ lcapBlocks s ≤ localLbn s (BitVec.toNat (gr s t rs1))) ∧
    (∃ (s : State) (t : Nat) (rd : Nat) (rs1 : Nat) (rs2 : Nat) (frame : Nat) (slot : Nat) (k : Nat) (rel : Bool) (wb : Bool), frame < 256 ∧ slot < 4 ∧ k < 4 ∧ issues s t (aw 84 rd rs1 rs2 (slot + 4 * k + 16 * b2n rel + 32 * b2n wb) frame) = true ∧ mayLbn s t (BitVec.toNat (gr s t rs1)) = true ∧ (¬(wb = true ∧ holds s t (BitVec.toNat (gr s t rs2)) = false)) ∧ (¬(isSys s t = true ∧ lcapBlocks s ≤ localLbn s (BitVec.toNat (gr s t rs1)))) ∧ (List.filter (fun (y : Staged) => !(decide (y.lbn = if k = 1 then localLbn s (BitVec.toNat (gr s t rs1)) / 256 * 256 else localLbn s (BitVec.toNat (gr s t rs1))) && decide ((y.act = Act.coarse) = (actOf k = Act.coarse)))) (mget Slot.empty (th s t).slots slot).ents).length < 256) ∧
    (∃ (s : State) (t : Nat) (rd : Nat) (rs1 : Nat) (rs2 : Nat) (frame : Nat) (slot : Nat) (k : Nat) (rel : Bool) (wb : Bool), frame < 256 ∧ slot < 4 ∧ k < 4 ∧ issues s t (aw 84 rd rs1 rs2 (slot + 4 * k + 16 * b2n rel + 32 * b2n wb) frame) = true ∧ mayLbn s t (BitVec.toNat (gr s t rs1)) = true ∧ (¬(wb = true ∧ holds s t (BitVec.toNat (gr s t rs2)) = false)) ∧ (¬(isSys s t = true ∧ lcapBlocks s ≤ localLbn s (BitVec.toNat (gr s t rs1)))) ∧ 256 ≤ (List.filter (fun (y : Staged) => !(decide (y.lbn = if k = 1 then localLbn s (BitVec.toNat (gr s t rs1)) / 256 * 256 else localLbn s (BitVec.toNat (gr s t rs1))) && decide ((y.act = Act.coarse) = (actOf k = Act.coarse)))) (mget Slot.empty (th s t).slots slot).ents).length) ∧
    (∃ (s : State) (t : Nat) (rd : Nat) (slot : Nat) (last : Bool), slot < 4 ∧ issues s t (aw 85 rd 0 0 (slot + 4 * b2n last) 0) = true ∧ isSys s t = false ∧ (th s t).lastMade = true) ∧
    (∃ (s : State) (t : Nat) (rd : Nat) (slot : Nat) (last : Bool), slot < 4 ∧ issues s t (aw 85 rd 0 0 (slot + 4 * b2n last) 0) = true ∧ (¬(isSys s t = false ∧ (th s t).lastMade = true)) ∧ (mget Slot.empty (th s t).slots slot).full = true) ∧
    (∃ (s : State) (t : Nat) (rd : Nat) (slot : Nat) (last : Bool), slot < 4 ∧ issues s t (aw 85 rd 0 0 (slot + 4 * b2n last) 0) = true ∧ (¬(isSys s t = false ∧ (th s t).lastMade = true)) ∧ (mget Slot.empty (th s t).slots slot).full = false ∧ (¬∀ y ∈ (mget Slot.empty (th s t).slots slot).ents, ∃ l ∈ (th s t).locks, l.1 = y.lbn / 256)) ∧
    (∃ (s : State) (t : Nat) (rd : Nat) (slot : Nat) (last : Bool), slot < 4 ∧ issues s t (aw 85 rd 0 0 (slot + 4 * b2n last) 0) = true ∧ (¬(isSys s t = false ∧ (th s t).lastMade = true)) ∧ (mget Slot.empty (th s t).slots slot).full = false ∧ (∀ y ∈ (mget Slot.empty (th s t).slots slot).ents, ∃ l ∈ (th s t).locks, l.1 = y.lbn / 256) ∧ (mget Slot.empty (th s t).slots slot).ents = []) ∧
    (∃ (s : State) (t : Nat) (rd : Nat) (slot : Nat) (last : Bool) (e : List (Nat × MErr)), slot < 4 ∧ issues s t (aw 85 rd 0 0 (slot + 4 * b2n last) 0) = true ∧ (¬(isSys s t = false ∧ (th s t).lastMade = true)) ∧ (mget Slot.empty (th s t).slots slot).full = false ∧ (∀ y ∈ (mget Slot.empty (th s t).slots slot).ents, ∃ l ∈ (th s t).locks, l.1 = y.lbn / 256) ∧ (mget Slot.empty (th s t).slots slot).ents ≠ [] ∧ (commitErrs (spoil s e) (mget Slot.empty (th s t).slots slot).ents).1 = true) ∧
    (∃ (s : State) (t : Nat) (rd : Nat) (slot : Nat) (last : Bool) (e : List (Nat × MErr)), slot < 4 ∧ issues s t (aw 85 rd 0 0 (slot + 4 * b2n last) 0) = true ∧ (¬(isSys s t = false ∧ (th s t).lastMade = true)) ∧ (mget Slot.empty (th s t).slots slot).full = false ∧ (∀ y ∈ (mget Slot.empty (th s t).slots slot).ents, ∃ l ∈ (th s t).locks, l.1 = y.lbn / 256) ∧ (mget Slot.empty (th s t).slots slot).ents ≠ [] ∧ (commitErrs (spoil s e) (mget Slot.empty (th s t).slots slot).ents).1 = false ∧ overlayRoom (commitErrs (spoil s e) (mget Slot.empty (th s t).slots slot).ents).2 t (List.map (entOf (commitErrs (spoil s e) (mget Slot.empty (th s t).slots slot).ents).2) (mget Slot.empty (th s t).slots slot).ents) = false) ∧
    (∃ (s : State) (t : Nat) (rd : Nat) (slot : Nat) (last : Bool) (e : List (Nat × MErr)), slot < 4 ∧ issues s t (aw 85 rd 0 0 (slot + 4 * b2n last) 0) = true ∧ (¬(isSys s t = false ∧ (th s t).lastMade = true)) ∧ (mget Slot.empty (th s t).slots slot).full = false ∧ (∀ y ∈ (mget Slot.empty (th s t).slots slot).ents, ∃ l ∈ (th s t).locks, l.1 = y.lbn / 256) ∧ (mget Slot.empty (th s t).slots slot).ents ≠ [] ∧ (commitErrs (spoil s e) (mget Slot.empty (th s t).slots slot).ents).1 = false ∧ overlayRoom (commitErrs (spoil s e) (mget Slot.empty (th s t).slots slot).ents).2 t (List.map (entOf (commitErrs (spoil s e) (mget Slot.empty (th s t).slots slot).ents).2) (mget Slot.empty (th s t).slots slot).ents) = true ∧ ringRoom (commitErrs (spoil s e) (mget Slot.empty (th s t).slots slot).ents).2 (64 + 24 * (List.map (entOf (commitErrs (spoil s e) (mget Slot.empty (th s t).slots slot).ents).2) (mget Slot.empty (th s t).slots slot).ents).length) = false) ∧
    (∃ (s : State) (t : Nat) (rd : Nat) (slot : Nat) (last : Bool) (e : List (Nat × MErr)) (r : JRec) (w : State) (b : Bool), slot < 4 ∧ issues s t (aw 85 rd 0 0 (slot + 4 * b2n last) 0) = true ∧ (¬(isSys s t = false ∧ (th s t).lastMade = true)) ∧ (mget Slot.empty (th s t).slots slot).full = false ∧ (∀ y ∈ (mget Slot.empty (th s t).slots slot).ents, ∃ l ∈ (th s t).locks, l.1 = y.lbn / 256) ∧ (mget Slot.empty (th s t).slots slot).ents ≠ [] ∧ (commitErrs (spoil s e) (mget Slot.empty (th s t).slots slot).ents).1 = false ∧ overlayRoom (commitErrs (spoil s e) (mget Slot.empty (th s t).slots slot).ents).2 t (List.map (entOf (commitErrs (spoil s e) (mget Slot.empty (th s t).slots slot).ents).2) (mget Slot.empty (th s t).slots slot).ents) = true ∧ ringRoom (commitErrs (spoil s e) (mget Slot.empty (th s t).slots slot).ents).2 (64 + 24 * (List.map (entOf (commitErrs (spoil s e) (mget Slot.empty (th s t).slots slot).ents).2) (mget Slot.empty (th s t).slots slot).ents).length) = true ∧ commitEnts (modTh (commitErrs (spoil s e) (mget Slot.empty (th s t).slots slot).ents).2 t fun (y : Thread) => { y with slots := mset Slot.empty y.slots slot Slot.empty }) t (((partOf (commitErrs (spoil s e) (mget Slot.empty (th s t).slots slot).ents).2 t).1 + (List.foldl min (2 ^ 48) (List.map (fun (e_1 : JEnt) => sysLbn (commitErrs (spoil s e) (mget Slot.empty (th s t).slots slot).ents).2 e_1.lbn) (List.map (entOf (commitErrs (spoil s e) (mget Slot.empty (th s t).slots slot).ents).2) (mget Slot.empty (th s t).slots slot).ents)) - cmdFirst (commitErrs (spoil s e) (mget Slot.empty (th s t).slots slot).ents).2 t)) / 256) last (List.map (entOf (commitErrs (spoil s e) (mget Slot.empty (th s t).slots slot).ents).2) (mget Slot.empty (th s t).slots slot).ents) = (b, r, w) ∧ b = false) ∧
    (∃ (s : State) (t : Nat) (rd : Nat) (slot : Nat) (last : Bool) (e : List (Nat × MErr)) (r : JRec) (w : State) (b : Bool), slot < 4 ∧ issues s t (aw 85 rd 0 0 (slot + 4 * b2n last) 0) = true ∧ (¬(isSys s t = false ∧ (th s t).lastMade = true)) ∧ (mget Slot.empty (th s t).slots slot).full = false ∧ (∀ y ∈ (mget Slot.empty (th s t).slots slot).ents, ∃ l ∈ (th s t).locks, l.1 = y.lbn / 256) ∧ (mget Slot.empty (th s t).slots slot).ents ≠ [] ∧ (commitErrs (spoil s e) (mget Slot.empty (th s t).slots slot).ents).1 = false ∧ overlayRoom (commitErrs (spoil s e) (mget Slot.empty (th s t).slots slot).ents).2 t (List.map (entOf (commitErrs (spoil s e) (mget Slot.empty (th s t).slots slot).ents).2) (mget Slot.empty (th s t).slots slot).ents) = true ∧ ringRoom (commitErrs (spoil s e) (mget Slot.empty (th s t).slots slot).ents).2 (64 + 24 * (List.map (entOf (commitErrs (spoil s e) (mget Slot.empty (th s t).slots slot).ents).2) (mget Slot.empty (th s t).slots slot).ents).length) = true ∧ commitEnts (modTh (commitErrs (spoil s e) (mget Slot.empty (th s t).slots slot).ents).2 t fun (y : Thread) => { y with slots := mset Slot.empty y.slots slot Slot.empty }) t (((partOf (commitErrs (spoil s e) (mget Slot.empty (th s t).slots slot).ents).2 t).1 + (List.foldl min (2 ^ 48) (List.map (fun (e_1 : JEnt) => sysLbn (commitErrs (spoil s e) (mget Slot.empty (th s t).slots slot).ents).2 e_1.lbn) (List.map (entOf (commitErrs (spoil s e) (mget Slot.empty (th s t).slots slot).ents).2) (mget Slot.empty (th s t).slots slot).ents)) - cmdFirst (commitErrs (spoil s e) (mget Slot.empty (th s t).slots slot).ents).2 t)) / 256) last (List.map (entOf (commitErrs (spoil s e) (mget Slot.empty (th s t).slots slot).ents).2) (mget Slot.empty (th s t).slots slot).ents) = (b, r, w) ∧ b = true) ∧
    (∃ (s : State) (t : Nat) (slot : Nat), slot < 4 ∧ issues s t (aw 86 0 0 0 slot 0) = true) ∧
    (∃ (s : State) (t : Nat) (slot : Nat), slot < 4 ∧ issues s t (aw 87 0 0 0 0 0) = true) :=
  ⟨⟨issue (withB (lcap (vols (inM 3)) 100)) 1 ({ (hostT [(1, 77), (2, 300), (3, hw)]) with slots := [] }) (aw 84 1 2 3 (0 + 4 * 0 + 32 * 0) 3), 1, 1, 2, 3, 3, 0, 0, false, false, by decide +kernel, by decide +kernel, by decide +kernel, (by decide +kernel), by decide +kernel⟩,
    ⟨issue (withB (lcap (vols (inM 3)) 100)) 1 ({ (hostT [(1, 77), (2, 1027), (3, 5)]) with slots := [] }) (aw 84 1 2 3 (0 + 4 * 0 + 32 * 1) 3), 1, 1, 2, 3, 3, 0, 0, false, true, by decide +kernel, by decide +kernel, by decide +kernel, (by decide +kernel), by decide +kernel, by decide +kernel, by decide +kernel⟩,
    ⟨issue (withB (lcap (vols (inM 3)) 100)) 1 ({ (swT [(1, 77), (2, 200 * 256), (3, hw)]) with slots := [] }) (aw 84 1 2 3 (0 + 4 * 0 + 32 * 0) 3), 1, 1, 2, 3, 3, 0, 0, false, false, by decide +kernel, by decide +kernel, by decide +kernel, (by decide +kernel), by decide +kernel, by decide +kernel, by decide +kernel, (by decide +kernel)⟩,
    ⟨issue (withB (lcap (vols (inM 3)) 100)) 1 ({ (hostT [(1, 77), (2, 1027), (3, hw)]) with slots := [] }) (aw 84 1 2 3 (0 + 4 * 0 + 32 * 0) 3), 1, 1, 2, 3, 3, 0, 0, false, false, by decide +kernel, by decide +kernel, by decide +kernel, (by decide +kernel), by decide +kernel, by decide +kernel, by decide +kernel, (by decide +kernel)⟩,
    ⟨issue (withB (lcap (vols (inM 3)) 100)) 1 ({ (hostT [(1, 77), (2, 1027), (3, hw)]) with slots := [(0, { ents := List.map (fun (i : Nat) => StagedCommits.ent (1024 + i) Act.fine) (List.range 256), full := false })] }) (aw 84 1 2 3 (0 + 4 * 1 + 32 * 0) 3), 1, 1, 2, 3, 3, 0, 1, false, false, by decide +kernel, by decide +kernel, by decide +kernel, (by decide +kernel), by decide +kernel, by decide +kernel, by decide +kernel, (by decide +kernel)⟩,
    ⟨issue (id (withB (geom 10 (vols (inM 3))))) 1 ({ (hostT []) with slots := [], locks := [], lastMade := true }) (aw 85 1 0 0 (4 * 0) 0), 1, 1, 0, false, by decide +kernel, by decide +kernel, by decide +kernel, (by decide +kernel)⟩,
    ⟨issue (id (withB (geom 10 (vols (inM 3))))) 1 ({ (hostT []) with slots := [(0, { ents := [StagedCommits.ent 1027 Act.fine], full := true })], locks := [], lastMade := false }) (aw 85 1 0 0 (4 * 0) 0), 1, 1, 0, false, by decide +kernel, by decide +kernel, by decide +kernel, (by decide +kernel)⟩,
    ⟨issue (id (withB (geom 10 (vols (inM 3))))) 1 ({ (hostT []) with slots := [(0, { ents := [StagedCommits.ent (4 * 256) Act.coarse, StagedCommits.ent 1027 Act.fine], full := false })], locks := [], lastMade := false }) (aw 85 1 0 0 (4 * 0) 0), 1, 1, 0, false, by decide +kernel, by decide +kernel, by decide +kernel, (by decide +kernel), by decide +kernel⟩,
    ⟨issue (id (withB (geom 10 (vols (inM 3))))) 1 ({ (hostT []) with slots := [], locks := [], lastMade := false }) (aw 85 1 0 0 (4 * 0) 0), 1, 1, 0, false, by decide +kernel, by decide +kernel, by decide +kernel, (by decide +kernel), by decide +kernel, by decide +kernel⟩,
    ⟨(issue (cached StagedCommits.cbase (commitLines StagedCommits.cbase ((List.map Prod.snd (StagedCommits.slots.getD 1 [])).headD Slot.empty).ents)) 1 StagedCommits.cth (aw 85 1 0 0 0 0)), 1, 1, 0, false, [((aCoarse + 8 * 4) / 64, MErr.uncorr)], by decide +kernel, by decide +kernel, by decide +kernel, (by decide +kernel), by decide +kernel, by decide +kernel, by decide +kernel⟩,
    ⟨(issue (setF StagedCommits.cbase MAP_OVL_CHUNKS (2 ^ 28)) 1 StagedCommits.cth (aw 85 1 0 0 0 0)), 1, 1, 0, false, [], by decide +kernel, by decide +kernel, by decide +kernel, (by decide +kernel), by decide +kernel, by decide +kernel, by decide +kernel, (by decide +kernel)⟩,
    ⟨(issue ({ (StagedCommits.cbase) with map := { (StagedCommits.cbase.map) with recs := [StagedCommits.big] }, ck := { newest := none, previous := none, jend := 0 } }) 1 StagedCommits.cth (aw 85 1 0 0 0 0)), 1, 1, 0, false, [], by decide +kernel, by decide +kernel, by decide +kernel, (by decide +kernel), by decide +kernel, by decide +kernel, by decide +kernel, (by decide +kernel), by decide +kernel⟩,
    ⟨(issue (cached StagedCommits.cbase (commitLines StagedCommits.cbase ((List.map Prod.snd (StagedCommits.slots.getD 1 [])).headD Slot.empty).ents)) 1 StagedCommits.cth (aw 85 1 0 0 0 0)), 1, 1, 0, false, [], _, _, _, by decide +kernel, by decide +kernel, by decide +kernel, (by decide +kernel), by decide +kernel, by decide +kernel, by decide +kernel, (by decide +kernel), by decide +kernel, triple_wit _, by decide +kernel⟩,
    ⟨(issue ({ (setF StagedCommits.cbase PAIR_STAT_PSTATE 2) with boot := { (StagedCommits.cbase.boot) with pairEn := true } }) 1 StagedCommits.cth (aw 85 1 0 0 0 0)), 1, 1, 0, false, [], _, _, _, by decide +kernel, by decide +kernel, by decide +kernel, (by decide +kernel), by decide +kernel, by decide +kernel, by decide +kernel, (by decide +kernel), by decide +kernel, triple_wit _, by decide +kernel⟩,
    ⟨issue (inM 3) 1 ({ (hostT []) with slots := StagedCommits.slots.getD 1 [] }) (aw 86 0 0 0 0 0), 1, 0, by decide +kernel, by decide +kernel⟩,
    ⟨issue (withB (inM 3)) 1 ({ (hostT []) with held := [1, 2] }) (aw 87 0 0 0 0 0), 1, 0, by decide +kernel, by decide +kernel⟩⟩

/-! ### BilletLocks -/
/-- Meets the hypotheses of each clause of Obligations.BilletLocks. -/
theorem witness_BilletLocks :
    (∃ (s : State) (t : Nat) (rs1 : Nat), issues s t (aw 96 0 rs1 0 0 0) = true ∧ (∃ l ∈ (th s t).locks, localBil s (BitVec.toNat (gr s t rs1)) ≤ l.1)) ∧
    (∃ (s : State) (t : Nat) (rs1 : Nat), issues s t (aw 96 0 rs1 0 0 0) = true ∧ (∀ l ∈ (th s t).locks, l.1 < localBil s (BitVec.toNat (gr s t rs1))) ∧ 8 ≤ (th s t).locks.length) ∧
    (∃ (s : State) (t : Nat) (rs1 : Nat), issues s t (aw 96 0 rs1 0 0 0) = true ∧ (∀ l ∈ (th s t).locks, l.1 < localBil s (BitVec.toNat (gr s t rs1))) ∧ (th s t).locks.length < 8 ∧ mayLbn s t (256 * BitVec.toNat (gr s t rs1)) = false) ∧
    (∃ (s : State) (t : Nat) (rs1 : Nat), issues s t (aw 96 0 rs1 0 0 0) = true ∧ (∀ l ∈ (th s t).locks, l.1 < localBil s (BitVec.toNat (gr s t rs1))) ∧ (th s t).locks.length < 8 ∧ mayLbn s t (256 * BitVec.toNat (gr s t rs1)) = true ∧ (lockHolder s (localBil s (BitVec.toNat (gr s t rs1))) = none ∧ inRange s (localBil s (BitVec.toNat (gr s t rs1))) = false)) ∧
    (∃ (s : State) (t : Nat) (rs1 : Nat), issues s t (aw 96 0 rs1 0 0 0) = true ∧ (∀ l ∈ (th s t).locks, l.1 < localBil s (BitVec.toNat (gr s t rs1))) ∧ (th s t).locks.length < 8 ∧ mayLbn s t (256 * BitVec.toNat (gr s t rs1)) = true ∧ (¬(lockHolder s (localBil s (BitVec.toNat (gr s t rs1))) = none ∧ inRange s (localBil s (BitVec.toNat (gr s t rs1))) = false))) ∧
    (∃ (s : State) (t : Nat) (rs1 : Nat), issues s t (aw 97 0 rs1 0 0 0) = true ∧ (∀ l ∈ (th s t).locks, l.1 ≠ localBil s (BitVec.toNat (gr s t rs1)))) ∧
    (∃ (s : State) (t : Nat) (rs1 : Nat), issues s t (aw 97 0 rs1 0 0 0) = true ∧ (∃ l ∈ (th s t).locks, l.1 = localBil s (BitVec.toNat (gr s t rs1)))) :=
  ⟨⟨(issue (vols (inM 3)) 1 ({ (hostT [(2, 4)]) with locks := [(4, 0)] }) (aw 96 0 2 0 0 0)), 1, 2, by decide +kernel, by decide +kernel⟩,
    ⟨(issue (vols (inM 3)) 1 ({ (hostT [(2, 9)]) with locks := List.map (fun (i : Nat) => (i, 0)) (List.range 8) }) (aw 96 0 2 0 0 0)), 1, 2, by decide +kernel, by decide +kernel, by decide +kernel⟩,
    ⟨(issue (vols (inM 3)) 1 ({ (hostT [(2, 9)]) with locks := [] }) (aw 96 0 2 0 0 0)), 1, 2, by decide +kernel, by decide +kernel, by decide +kernel, (by decide +kernel)⟩,
    ⟨(issue (vols (inM 3)) 1 ({ (hostT [(2, 4)]) with locks := [] }) (aw 96 0 2 0 0 0)), 1, 2, by decide +kernel, by decide +kernel, by decide +kernel, (by decide +kernel), ⟨by decide +kernel, by decide +kernel⟩⟩,
    ⟨(issue (setTh (vols (inM 3)) 2 ({ (hostT []) with locks := [(4, 0), (9, 0)] })) 1 ({ (hostT [(2, 4)]) with locks := [] }) (aw 96 0 2 0 0 0)), 1, 2, by decide +kernel, by decide +kernel, by decide +kernel, (by decide +kernel), by decide +kernel⟩,
    ⟨(issue (vols (inM 3)) 1 ({ (hostT [(2, 4)]) with locks := [] }) (aw 97 0 2 0 0 0)), 1, 2, by decide +kernel, by decide +kernel⟩,
    ⟨(issue (vols (inM 3)) 1 ({ (hostT [(2, 4)]) with locks := [(4, 0)] }) (aw 97 0 2 0 0 0)), 1, 2, by decide +kernel, by decide +kernel⟩⟩

/-! ### Strikes -/
namespace Strikes
def scripts (b : State) : State := { b with ch := { b.ch with store := wrLe (wrLe (wrLe [] 0 8 (2 ^ 19 + 255 * 2 ^ 24)) 8 8 (2 ^ 16 + 2 ^ 19 + 2 ^ 20)) 16 8 (2 * 2 ^ 16 + 2 ^ 19 + 2 ^ 20) } }
def fn (rb flim limit raw : Bool) (n : Nat) := b2n rb + 2 * b2n flim + 4 * b2n limit + 8 * b2n raw + 16 * n
def full : NMap TagSt := (List.range 32).map fun i => (i, ⟨false, 0, 0⟩)
end Strikes
/-- Meets the hypotheses of each clause of Obligations.Strikes. -/
theorem witness_Strikes :
    (∃ (s : State) (t : Nat) (rd : Nat) (rs1 : Nat) (rs2 : Nat) (entry : Nat) (frame : Nat) (nslot : Nat) (rb : Bool) (flim : Bool) (limit : Bool) (raw : Bool), entry < 2 ^ 16 ∧ frame < 256 ∧ nslot < 8 ∧ issues s t (aw 128 rd rs1 rs2 (b2n rb + 2 * b2n flim + 4 * b2n limit + 8 * b2n raw + 16 * nslot) (entry + 2 ^ 16 * frame)) = true ∧ strikeFrames s entry nslot ≠ 0 ∧ (¬∃ (b : Buf), bufAt s (BitVec.toNat (gr s t rs2)) = some b ∧ t ∈ b.holders)) ∧
    (∃ (s : State) (t : Nat) (rd : Nat) (rs1 : Nat) (rs2 : Nat) (entry : Nat) (frame : Nat) (nslot : Nat) (rb : Bool) (flim : Bool) (limit : Bool) (raw : Bool), entry < 2 ^ 16 ∧ frame < 256 ∧ nslot < 8 ∧ issues s t (aw 128 rd rs1 rs2 (b2n rb + 2 * b2n flim + 4 * b2n limit + 8 * b2n raw + 16 * nslot) (entry + 2 ^ 16 * frame)) = true ∧ strikeFrames s entry nslot ≠ 0 ∧ (∃ (b : Buf), bufAt s (BitVec.toNat (gr s t rs2)) = some b ∧ t ∈ b.holders) ∧ (¬∃ (b : Buf), bufAt s (BitVec.toNat (gr s t rs2)) = some b ∧ frame + strikeFrames s entry nslot ≤ frames b.pool)) ∧
    (∃ (s : State) (t : Nat) (rd : Nat) (rs1 : Nat) (rs2 : Nat) (entry : Nat) (frame : Nat) (nslot : Nat) (rb : Bool) (flim : Bool) (limit : Bool) (raw : Bool), entry < 2 ^ 16 ∧ frame < 256 ∧ nslot < 8 ∧ issues s t (aw 128 rd rs1 rs2 (b2n rb + 2 * b2n flim + 4 * b2n limit + 8 * b2n raw + 16 * nslot) (entry + 2 ^ 16 * frame)) = true ∧ (strikeFrames s entry nslot = 0 ∨ (∃ (b : Buf), bufAt s (BitVec.toNat (gr s t rs2)) = some b ∧ t ∈ b.holders) ∧ ∃ (b : Buf), bufAt s (BitVec.toNat (gr s t rs2)) = some b ∧ frame + strikeFrames s entry nslot ≤ frames b.pool) ∧ (¬(isSys s t = true ∨ raw = false ∧ eCls s entry = 0))) ∧
    (∃ (s : State) (t : Nat) (rd : Nat) (rs1 : Nat) (rs2 : Nat) (entry : Nat) (frame : Nat) (nslot : Nat) (rb : Bool) (flim : Bool) (limit : Bool) (raw : Bool), entry < 2 ^ 16 ∧ frame < 256 ∧ nslot < 8 ∧ issues s t (aw 128 rd rs1 rs2 (b2n rb + 2 * b2n flim + 4 * b2n limit + 8 * b2n raw + 16 * nslot) (entry + 2 ^ 16 * frame)) = true ∧ (strikeFrames s entry nslot = 0 ∨ (∃ (b : Buf), bufAt s (BitVec.toNat (gr s t rs2)) = some b ∧ t ∈ b.holders) ∧ ∃ (b : Buf), bufAt s (BitVec.toNat (gr s t rs2)) = some b ∧ frame + strikeFrames s entry nslot ≤ frames b.pool) ∧ (isSys s t = true ∨ raw = false ∧ eCls s entry = 0) ∧ freeTag (th s t) = none) ∧
    (∃ (s : State) (t : Nat) (rd : Nat) (rs1 : Nat) (rs2 : Nat) (entry : Nat) (frame : Nat) (nslot : Nat) (rb : Bool) (flim : Bool) (limit : Bool) (raw : Bool) (g : Nat), entry < 2 ^ 16 ∧ frame < 256 ∧ nslot < 8 ∧ issues s t (aw 128 rd rs1 rs2 (b2n rb + 2 * b2n flim + 4 * b2n limit + 8 * b2n raw + 16 * nslot) (entry + 2 ^ 16 * frame)) = true ∧ (strikeFrames s entry nslot = 0 ∨ (∃ (b : Buf), bufAt s (BitVec.toNat (gr s t rs2)) = some b ∧ t ∈ b.holders) ∧ ∃ (b : Buf), bufAt s (BitVec.toNat (gr s t rs2)) = some b ∧ frame + strikeFrames s entry nslot ≤ frames b.pool) ∧ (isSys s t = true ∨ raw = false ∧ eCls s entry = 0) ∧ freeTag (th s t) = some g) ∧
    (∃ (s : State) (t : Nat) (rd : Nat) (rs1 : Nat), issues s t (aw 129 rd rs1 0 0 0) = true ∧ List.find? (fun (e : Nat × TagSt) => decide (e.1 = BitVec.toNat (gr s t rs1) % 32)) (th s t).tags = none) ∧
    (∃ (s : State) (t : Nat) (rd : Nat) (rs1 : Nat) (o : TagSt), issues s t (aw 129 rd rs1 0 0 0) = true ∧ List.find? (fun (e : Nat × TagSt) => decide (e.1 = BitVec.toNat (gr s t rs1) % 32)) (th s t).tags = some (BitVec.toNat (gr s t rs1) % 32, o) ∧ o.ended = true) ∧
    (∃ (s : State) (t : Nat) (rd : Nat) (rs1 : Nat) (o : TagSt), issues s t (aw 129 rd rs1 0 0 0) = true ∧ List.find? (fun (e : Nat × TagSt) => decide (e.1 = BitVec.toNat (gr s t rs1) % 32)) (th s t).tags = some (BitVec.toNat (gr s t rs1) % 32, o) ∧ o.ended = false) ∧
    (∃ (s : State) (t : Nat) (rd : Nat) (k : Nat) (o : TagSt), issues s t (aw 130 rd 0 0 0 0) = true ∧ endedTag (th s t) = some (k, o)) ∧
    (∃ (s : State) (t : Nat) (rd : Nat) (k : Nat), issues s t (aw 130 rd 0 0 0 0) = true ∧ endedTag (th s t) = none ∧ openTag (th s t) = some k) ∧
    (∃ (s : State) (t : Nat) (rd : Nat), issues s t (aw 130 rd 0 0 0 0) = true ∧ endedTag (th s t) = none ∧ openTag (th s t) = none) ∧
    (∃ (s : State) (t : Nat) (rd : Nat) (rs1 : Nat), issues s t (aw 131 rd rs1 0 0 0) = true ∧ List.find? (fun (e : Nat × TagSt) => decide (e.1 = BitVec.toNat (gr s t rs1) % 32)) (th s t).tags = none) ∧
    (∃ (s : State) (t : Nat) (rd : Nat) (rs1 : Nat) (o : TagSt), issues s t (aw 131 rd rs1 0 0 0) = true ∧ List.find? (fun (e : Nat × TagSt) => decide (e.1 = BitVec.toNat (gr s t rs1) % 32)) (th s t).tags = some (BitVec.toNat (gr s t rs1) % 32, o) ∧ o.ended = true) ∧
    (∃ (s : State) (t : Nat) (rd : Nat) (rs1 : Nat) (o : TagSt), issues s t (aw 131 rd rs1 0 0 0) = true ∧ List.find? (fun (e : Nat × TagSt) => decide (e.1 = BitVec.toNat (gr s t rs1) % 32)) (th s t).tags = some (BitVec.toNat (gr s t rs1) % 32, o) ∧ o.ended = false) :=
  ⟨⟨issue (withB7 (Strikes.scripts (inM 3))) 1 ({ (hostT [(2, 5 * 2 ^ 15 + 3), (3, hs)]) with tags := [] }) (aw 128 1 2 3 (Strikes.fn false false true false 0) (0 + 2 ^ 16 * 0)), 1, 1, 2, 3, 0, 0, 0, false, false, true, false, by decide +kernel, by decide +kernel, by decide +kernel, (by decide +kernel), by decide +kernel, by decide +kernel⟩,
    ⟨issue (withB7 (Strikes.scripts (inM 3))) 1 ({ (hostT [(2, 5 * 2 ^ 15 + 3), (3, h1)]) with tags := [] }) (aw 128 1 2 3 (Strikes.fn false false true false 7) (0 + 2 ^ 16 * 0)), 1, 1, 2, 3, 0, 0, 7, false, false, true, false, by decide +kernel, by decide +kernel, by decide +kernel, (by decide +kernel), by decide +kernel, by decide +kernel, by decide +kernel⟩,
    ⟨issue (withB7 (Strikes.scripts (inM 3))) 1 ({ (hostT [(2, 5 * 2 ^ 15 + 3), (3, h1)]) with tags := [] }) (aw 128 1 2 3 (Strikes.fn false false true true 0) (0 + 2 ^ 16 * 0)), 1, 1, 2, 3, 0, 0, 0, false, false, true, true, by decide +kernel, by decide +kernel, by decide +kernel, (by decide +kernel), by decide +kernel, by decide +kernel⟩,
    ⟨issue (withB7 (Strikes.scripts (inM 3))) 1 ({ (hostT [(2, 5 * 2 ^ 15 + 3), (3, h1)]) with tags := Strikes.full }) (aw 128 1 2 3 (Strikes.fn false false true false 0) (0 + 2 ^ 16 * 0)), 1, 1, 2, 3, 0, 0, 0, false, false, true, false, by decide +kernel, by decide +kernel, by decide +kernel, (by decide +kernel), by decide +kernel, by decide +kernel, by decide +kernel⟩,
    ⟨issue (withB7 (Strikes.scripts (inM 3))) 1 ({ (hostT [(2, 5 * 2 ^ 15 + 3), (3, h1)]) with tags := [] }) (aw 128 1 2 3 (Strikes.fn false false true false 0) (0 + 2 ^ 16 * 0)), 1, 1, 2, 3, 0, 0, 0, false, false, true, false, _, by decide +kernel, by decide +kernel, by decide +kernel, (by decide +kernel), by decide +kernel, by decide +kernel, some_wit (by decide +kernel)⟩,
    ⟨issue (inM 3) 1 ({ (hostT [(2, 3)]) with tags := [] }) (aw 129 1 (if 129 = 130 then 0 else 2) 0 0 0), 1, 1, 2, by decide +kernel, by decide +kernel⟩,
    ⟨issue (inM 3) 1 ({ (hostT [(2, 3)]) with tags := [(3, { ended := true, outcome := 77, order := 9 }), (4, { ended := false, outcome := 0, order := 0 })] }) (aw 129 1 (if 129 = 130 then 0 else 2) 0 0 0), 1, 1, 2, _, by decide +kernel, some_wit (by decide +kernel), by decide +kernel⟩,
    ⟨issue (inM 3) 1 ({ (hostT [(2, 4)]) with tags := [(3, { ended := true, outcome := 77, order := 9 }), (4, { ended := false, outcome := 0, order := 0 })] }) (aw 129 1 (if 129 = 130 then 0 else 2) 0 0 0), 1, 1, 2, _, by decide +kernel, some_wit (by decide +kernel), by decide +kernel⟩,
    ⟨issue (inM 3) 1 ({ (hostT [(2, 3)]) with tags := [(3, { ended := true, outcome := 77, order := 9 }), (4, { ended := false, outcome := 0, order := 0 })] }) (aw 130 1 (if 130 = 130 then 0 else 2) 0 0 0), 1, 1, _, _, by decide +kernel, some_wit (by decide +kernel)⟩,
    ⟨issue (inM 3) 1 ({ (hostT [(2, 3)]) with tags := [(4, { ended := false, outcome := 0, order := 0 })] }) (aw 130 1 (if 130 = 130 then 0 else 2) 0 0 0), 1, 1, _, by decide +kernel, by decide +kernel, some_wit (by decide +kernel)⟩,
    ⟨issue (inM 3) 1 ({ (hostT [(2, 3)]) with tags := [] }) (aw 130 1 (if 130 = 130 then 0 else 2) 0 0 0), 1, 1, by decide +kernel, by decide +kernel, by decide +kernel⟩,
    ⟨issue (inM 3) 1 ({ (hostT [(2, 3)]) with tags := [] }) (aw 131 1 (if 131 = 130 then 0 else 2) 0 0 0), 1, 1, 2, by decide +kernel, by decide +kernel⟩,
    ⟨issue (inM 3) 1 ({ (hostT [(2, 3)]) with tags := [(3, { ended := true, outcome := 77, order := 9 }), (4, { ended := false, outcome := 0, order := 0 })] }) (aw 131 1 (if 131 = 130 then 0 else 2) 0 0 0), 1, 1, 2, _, by decide +kernel, some_wit (by decide +kernel), by decide +kernel⟩,
    ⟨issue (inM 3) 1 ({ (hostT [(2, 4)]) with tags := [(3, { ended := true, outcome := 77, order := 9 }), (4, { ended := false, outcome := 0, order := 0 })] }) (aw 131 1 (if 131 = 130 then 0 else 2) 0 0 0), 1, 1, 2, _, by decide +kernel, some_wit (by decide +kernel), by decide +kernel⟩⟩

/-! ### TransferIssue -/
/-- Meets the hypotheses of each clause of Obligations.TransferIssue. -/
theorem witness_TransferIssue :
    (∃ (s : State) (t : Nat) (rd : Nat) (rs1 : Nat), issues s t (aw 144 rd rs1 0 0 0) = true ∧ (¬(BitVec.toNat (gr s t rs1) % 512 % 8 = 0 ∧ BitVec.toNat (gr s t rs1) % 512 + 48 ≤ 512))) ∧
    (∃ (s : State) (t : Nat) (rd : Nat) (rs1 : Nat), issues s t (aw 144 rd rs1 0 0 0) = true ∧ (BitVec.toNat (gr s t rs1) % 512 % 8 = 0 ∧ BitVec.toNat (gr s t rs1) % 512 + 48 ≤ 512) ∧ holds s t (bits ((List.map (fun (i : Nat) => leNat (rdBytes (th s t).ls (BitVec.toNat (gr s t rs1) % 512 + 8 * i) 8)) (List.range 6)).getD 2 0) 0 32) = false) ∧
    (∃ (s : State) (t : Nat) (rd : Nat) (rs1 : Nat), issues s t (aw 144 rd rs1 0 0 0) = true ∧ (BitVec.toNat (gr s t rs1) % 512 % 8 = 0 ∧ BitVec.toNat (gr s t rs1) % 512 + 48 ≤ 512) ∧ holds s t (bits ((List.map (fun (i : Nat) => leNat (rdBytes (th s t).ls (BitVec.toNat (gr s t rs1) % 512 + 8 * i) 8)) (List.range 6)).getD 2 0) 0 32) = true ∧ (¬∃ (b : Buf), bufAt s (bits ((List.map (fun (i : Nat) => leNat (rdBytes (th s t).ls (BitVec.toNat (gr s t rs1) % 512 + 8 * i) 8)) (List.range 6)).getD 2 0) 0 32) = some b ∧ t ∈ b.holders ∧ bits ((List.map (fun (i : Nat) => leNat (rdBytes (th s t).ls (BitVec.toNat (gr s t rs1) % 512 + 8 * i) 8)) (List.range 6)).getD 2 0) 32 8 + (bits ((List.map (fun (i : Nat) => leNat (rdBytes (th s t).ls (BitVec.toNat (gr s t rs1) % 512 + 8 * i) 8)) (List.range 6)).getD 2 0) 40 8 + 1) ≤ frames b.pool)) ∧
    (∃ (s : State) (t : Nat) (rd : Nat) (rs1 : Nat), issues s t (aw 144 rd rs1 0 0 0) = true ∧ (BitVec.toNat (gr s t rs1) % 512 % 8 = 0 ∧ BitVec.toNat (gr s t rs1) % 512 + 48 ≤ 512) ∧ (∃ (b : Buf), bufAt s (bits ((List.map (fun (i : Nat) => leNat (rdBytes (th s t).ls (BitVec.toNat (gr s t rs1) % 512 + 8 * i) 8)) (List.range 6)).getD 2 0) 0 32) = some b ∧ t ∈ b.holders ∧ bits ((List.map (fun (i : Nat) => leNat (rdBytes (th s t).ls (BitVec.toNat (gr s t rs1) % 512 + 8 * i) 8)) (List.range 6)).getD 2 0) 32 8 + (bits ((List.map (fun (i : Nat) => leNat (rdBytes (th s t).ls (BitVec.toNat (gr s t rs1) % 512 + 8 * i) 8)) (List.range 6)).getD 2 0) 40 8 + 1) ≤ frames b.pool) ∧ freeXfer (th s t) = none) ∧
    (∃ (s : State) (t : Nat) (rd : Nat) (rs1 : Nat) (k : Nat), issues s t (aw 144 rd rs1 0 0 0) = true ∧ (BitVec.toNat (gr s t rs1) % 512 % 8 = 0 ∧ BitVec.toNat (gr s t rs1) % 512 + 48 ≤ 512) ∧ (∃ (b : Buf), bufAt s (bits ((List.map (fun (i : Nat) => leNat (rdBytes (th s t).ls (BitVec.toNat (gr s t rs1) % 512 + 8 * i) 8)) (List.range 6)).getD 2 0) 0 32) = some b ∧ t ∈ b.holders ∧ bits ((List.map (fun (i : Nat) => leNat (rdBytes (th s t).ls (BitVec.toNat (gr s t rs1) % 512 + 8 * i) 8)) (List.range 6)).getD 2 0) 32 8 + (bits ((List.map (fun (i : Nat) => leNat (rdBytes (th s t).ls (BitVec.toNat (gr s t rs1) % 512 + 8 * i) 8)) (List.range 6)).getD 2 0) 40 8 + 1) ≤ frames b.pool) ∧ freeXfer (th s t) = some k) ∧
    (∃ (s : State) (t : Nat) (rd : Nat) (rs1 : Nat), issues s t (aw 145 rd rs1 0 0 0) = true ∧ (¬(BitVec.toNat (gr s t rs1) % 512 % 8 = 0 ∧ BitVec.toNat (gr s t rs1) % 512 + 48 ≤ 512))) ∧
    (∃ (s : State) (t : Nat) (rd : Nat) (rs1 : Nat), issues s t (aw 145 rd rs1 0 0 0) = true ∧ (BitVec.toNat (gr s t rs1) % 512 % 8 = 0 ∧ BitVec.toNat (gr s t rs1) % 512 + 48 ≤ 512) ∧ holds s t (bits ((List.map (fun (i : Nat) => leNat (rdBytes (th s t).ls (BitVec.toNat (gr s t rs1) % 512 + 8 * i) 8)) (List.range 6)).getD 2 0) 0 32) = false) ∧
    (∃ (s : State) (t : Nat) (rd : Nat) (rs1 : Nat), issues s t (aw 145 rd rs1 0 0 0) = true ∧ (BitVec.toNat (gr s t rs1) % 512 % 8 = 0 ∧ BitVec.toNat (gr s t rs1) % 512 + 48 ≤ 512) ∧ holds s t (bits ((List.map (fun (i : Nat) => leNat (rdBytes (th s t).ls (BitVec.toNat (gr s t rs1) % 512 + 8 * i) 8)) (List.range 6)).getD 2 0) 0 32) = true ∧ (¬∃ (b : Buf), bufAt s (bits ((List.map (fun (i : Nat) => leNat (rdBytes (th s t).ls (BitVec.toNat (gr s t rs1) % 512 + 8 * i) 8)) (List.range 6)).getD 2 0) 0 32) = some b ∧ t ∈ b.holders ∧ bits ((List.map (fun (i : Nat) => leNat (rdBytes (th s t).ls (BitVec.toNat (gr s t rs1) % 512 + 8 * i) 8)) (List.range 6)).getD 2 0) 32 8 + (bits ((List.map (fun (i : Nat) => leNat (rdBytes (th s t).ls (BitVec.toNat (gr s t rs1) % 512 + 8 * i) 8)) (List.range 6)).getD 2 0) 40 8 + 1) ≤ frames b.pool)) ∧
    (∃ (s : State) (t : Nat) (rd : Nat) (rs1 : Nat), issues s t (aw 145 rd rs1 0 0 0) = true ∧ (BitVec.toNat (gr s t rs1) % 512 % 8 = 0 ∧ BitVec.toNat (gr s t rs1) % 512 + 48 ≤ 512) ∧ (∃ (b : Buf), bufAt s (bits ((List.map (fun (i : Nat) => leNat (rdBytes (th s t).ls (BitVec.toNat (gr s t rs1) % 512 + 8 * i) 8)) (List.range 6)).getD 2 0) 0 32) = some b ∧ t ∈ b.holders ∧ bits ((List.map (fun (i : Nat) => leNat (rdBytes (th s t).ls (BitVec.toNat (gr s t rs1) % 512 + 8 * i) 8)) (List.range 6)).getD 2 0) 32 8 + (bits ((List.map (fun (i : Nat) => leNat (rdBytes (th s t).ls (BitVec.toNat (gr s t rs1) % 512 + 8 * i) 8)) (List.range 6)).getD 2 0) 40 8 + 1) ≤ frames b.pool) ∧ freeXfer (th s t) = none) ∧
    (∃ (s : State) (t : Nat) (rd : Nat) (rs1 : Nat) (k : Nat), issues s t (aw 145 rd rs1 0 0 0) = true ∧ (BitVec.toNat (gr s t rs1) % 512 % 8 = 0 ∧ BitVec.toNat (gr s t rs1) % 512 + 48 ≤ 512) ∧ (∃ (b : Buf), bufAt s (bits ((List.map (fun (i : Nat) => leNat (rdBytes (th s t).ls (BitVec.toNat (gr s t rs1) % 512 + 8 * i) 8)) (List.range 6)).getD 2 0) 0 32) = some b ∧ t ∈ b.holders ∧ bits ((List.map (fun (i : Nat) => leNat (rdBytes (th s t).ls (BitVec.toNat (gr s t rs1) % 512 + 8 * i) 8)) (List.range 6)).getD 2 0) 32 8 + (bits ((List.map (fun (i : Nat) => leNat (rdBytes (th s t).ls (BitVec.toNat (gr s t rs1) % 512 + 8 * i) 8)) (List.range 6)).getD 2 0) 40 8 + 1) ≤ frames b.pool) ∧ freeXfer (th s t) = some k) ∧
    (∃ (s : State) (t : Nat) (rd : Nat) (rs1 : Nat), issues s t (aw 146 rd rs1 0 0 0) = true ∧ (¬(BitVec.toNat (gr s t rs1) % 512 % 8 = 0 ∧ BitVec.toNat (gr s t rs1) % 512 + 48 ≤ 512))) ∧
    (∃ (s : State) (t : Nat) (rd : Nat) (rs1 : Nat), issues s t (aw 146 rd rs1 0 0 0) = true ∧ (BitVec.toNat (gr s t rs1) % 512 % 8 = 0 ∧ BitVec.toNat (gr s t rs1) % 512 + 48 ≤ 512) ∧ holds s t (bits ((List.map (fun (i : Nat) => leNat (rdBytes (th s t).ls (BitVec.toNat (gr s t rs1) % 512 + 8 * i) 8)) (List.range 6)).getD 2 0) 0 32) = false) ∧
    (∃ (s : State) (t : Nat) (rd : Nat) (rs1 : Nat), issues s t (aw 146 rd rs1 0 0 0) = true ∧ (BitVec.toNat (gr s t rs1) % 512 % 8 = 0 ∧ BitVec.toNat (gr s t rs1) % 512 + 48 ≤ 512) ∧ holds s t (bits ((List.map (fun (i : Nat) => leNat (rdBytes (th s t).ls (BitVec.toNat (gr s t rs1) % 512 + 8 * i) 8)) (List.range 6)).getD 2 0) 0 32) = true ∧ (¬∃ (b : Buf), bufAt s (bits ((List.map (fun (i : Nat) => leNat (rdBytes (th s t).ls (BitVec.toNat (gr s t rs1) % 512 + 8 * i) 8)) (List.range 6)).getD 2 0) 0 32) = some b ∧ t ∈ b.holders ∧ bits ((List.map (fun (i : Nat) => leNat (rdBytes (th s t).ls (BitVec.toNat (gr s t rs1) % 512 + 8 * i) 8)) (List.range 6)).getD 2 0) 32 8 + (bits ((List.map (fun (i : Nat) => leNat (rdBytes (th s t).ls (BitVec.toNat (gr s t rs1) % 512 + 8 * i) 8)) (List.range 6)).getD 2 0) 40 8 + 1) ≤ frames b.pool)) ∧
    (∃ (s : State) (t : Nat) (rd : Nat) (rs1 : Nat), issues s t (aw 146 rd rs1 0 0 0) = true ∧ (BitVec.toNat (gr s t rs1) % 512 % 8 = 0 ∧ BitVec.toNat (gr s t rs1) % 512 + 48 ≤ 512) ∧ ((∃ (b : Buf), bufAt s (bits ((List.map (fun (i : Nat) => leNat (rdBytes (th s t).ls (BitVec.toNat (gr s t rs1) % 512 + 8 * i) 8)) (List.range 6)).getD 2 0) 0 32) = some b ∧ t ∈ b.holders ∧ bits ((List.map (fun (i : Nat) => leNat (rdBytes (th s t).ls (BitVec.toNat (gr s t rs1) % 512 + 8 * i) 8)) (List.range 6)).getD 2 0) 32 8 + (bits ((List.map (fun (i : Nat) => leNat (rdBytes (th s t).ls (BitVec.toNat (gr s t rs1) % 512 + 8 * i) 8)) (List.range 6)).getD 2 0) 40 8 + 1) ≤ frames b.pool) ∧ ∃ (b : Buf), bufAt s (bits ((List.map (fun (i : Nat) => leNat (rdBytes (th s t).ls (BitVec.toNat (gr s t rs1) % 512 + 8 * i) 8)) (List.range 6)).getD 0 0) 0 32) = some b ∧ t ∈ b.holders ∧ bits ((List.map (fun (i : Nat) => leNat (rdBytes (th s t).ls (BitVec.toNat (gr s t rs1) % 512 + 8 * i) 8)) (List.range 6)).getD 0 0) 32 8 + (bits ((List.map (fun (i : Nat) => leNat (rdBytes (th s t).ls (BitVec.toNat (gr s t rs1) % 512 + 8 * i) 8)) (List.range 6)).getD 2 0) 40 8 + 1) ≤ frames b.pool) ∧ freeXfer (th s t) = none) ∧
    (∃ (s : State) (t : Nat) (rd : Nat) (rs1 : Nat) (k : Nat), issues s t (aw 146 rd rs1 0 0 0) = true ∧ (BitVec.toNat (gr s t rs1) % 512 % 8 = 0 ∧ BitVec.toNat (gr s t rs1) % 512 + 48 ≤ 512) ∧ ((∃ (b : Buf), bufAt s (bits ((List.map (fun (i : Nat) => leNat (rdBytes (th s t).ls (BitVec.toNat (gr s t rs1) % 512 + 8 * i) 8)) (List.range 6)).getD 2 0) 0 32) = some b ∧ t ∈ b.holders ∧ bits ((List.map (fun (i : Nat) => leNat (rdBytes (th s t).ls (BitVec.toNat (gr s t rs1) % 512 + 8 * i) 8)) (List.range 6)).getD 2 0) 32 8 + (bits ((List.map (fun (i : Nat) => leNat (rdBytes (th s t).ls (BitVec.toNat (gr s t rs1) % 512 + 8 * i) 8)) (List.range 6)).getD 2 0) 40 8 + 1) ≤ frames b.pool) ∧ ∃ (b : Buf), bufAt s (bits ((List.map (fun (i : Nat) => leNat (rdBytes (th s t).ls (BitVec.toNat (gr s t rs1) % 512 + 8 * i) 8)) (List.range 6)).getD 0 0) 0 32) = some b ∧ t ∈ b.holders ∧ bits ((List.map (fun (i : Nat) => leNat (rdBytes (th s t).ls (BitVec.toNat (gr s t rs1) % 512 + 8 * i) 8)) (List.range 6)).getD 0 0) 32 8 + (bits ((List.map (fun (i : Nat) => leNat (rdBytes (th s t).ls (BitVec.toNat (gr s t rs1) % 512 + 8 * i) 8)) (List.range 6)).getD 2 0) 40 8 + 1) ≤ frames b.pool) ∧ freeXfer (th s t) = some k) :=
  ⟨⟨issue (withB7 (inM 3)) 1 ({ (hostT [(2, 4)]) with ls := desc [h1 + 2 ^ 32, 77, h1 + 2 ^ 40 * 0 + 2 ^ 32, 4, 5, 6] 4, xfers := [] }) (aw 144 1 2 0 0 0), 1, 1, 2, by decide +kernel, by decide +kernel⟩,
    ⟨issue (withB7 (inM 3)) 1 ({ (hostT [(2, 0)]) with ls := desc [h1 + 2 ^ 32, 77, hs + 2 ^ 40 * 0 + 2 ^ 32, 4, 5, 6] 0, xfers := [] }) (aw 144 1 2 0 0 0), 1, 1, 2, by decide +kernel, ⟨by decide +kernel, by decide +kernel⟩, (by decide +kernel)⟩,
    ⟨issue (withB7 (inM 3)) 1 ({ (hostT [(2, 0)]) with ls := desc [h1 + 2 ^ 32, 77, h1 + 2 ^ 40 * 3 + 2 ^ 32, 4, 5, 6] 0, xfers := [] }) (aw 144 1 2 0 0 0), 1, 1, 2, by decide +kernel, ⟨by decide +kernel, by decide +kernel⟩, (by decide +kernel), by decide +kernel⟩,
    ⟨issue (withB7 (inM 3)) 1 ({ (hostT [(2, 0)]) with ls := desc [h1 + 2 ^ 32, 77, h1 + 2 ^ 40 * 0 + 2 ^ 32, 4, 5, 6] 0, xfers := full16 }) (aw 144 1 2 0 0 0), 1, 1, 2, by decide +kernel, ⟨by decide +kernel, by decide +kernel⟩, (by decide +kernel), by decide +kernel⟩,
    ⟨issue (withB7 (inM 3)) 1 ({ (hostT [(2, 0)]) with ls := desc [h1 + 2 ^ 32, 77, h1 + 2 ^ 40 * 0 + 2 ^ 32, 4, 5, 6] 0, xfers := [] }) (aw 144 1 2 0 0 0), 1, 1, 2, _, by decide +kernel, ⟨by decide +kernel, by decide +kernel⟩, (by decide +kernel), some_wit (by decide +kernel)⟩,
    ⟨issue (withB7 (inM 3)) 1 ({ (hostT [(2, 4)]) with ls := desc [h1 + 2 ^ 32, 77, h1 + 2 ^ 40 * 0 + 2 ^ 32, 4, 5, 6] 4, xfers := [] }) (aw 145 1 2 0 0 0), 1, 1, 2, by decide +kernel, by decide +kernel⟩,
    ⟨issue (withB7 (inM 3)) 1 ({ (hostT [(2, 0)]) with ls := desc [h1 + 2 ^ 32, 77, hs + 2 ^ 40 * 0 + 2 ^ 32, 4, 5, 6] 0, xfers := [] }) (aw 145 1 2 0 0 0), 1, 1, 2, by decide +kernel, ⟨by decide +kernel, by decide +kernel⟩, (by decide +kernel)⟩,
    ⟨issue (withB7 (inM 3)) 1 ({ (hostT [(2, 0)]) with ls := desc [h1 + 2 ^ 32, 77, h1 + 2 ^ 40 * 3 + 2 ^ 32, 4, 5, 6] 0, xfers := [] }) (aw 145 1 2 0 0 0), 1, 1, 2, by decide +kernel, ⟨by decide +kernel, by decide +kernel⟩, (by decide +kernel), by decide +kernel⟩,
    ⟨issue (withB7 (inM 3)) 1 ({ (hostT [(2, 0)]) with ls := desc [h1 + 2 ^ 32, 77, h1 + 2 ^ 40 * 0 + 2 ^ 32, 4, 5, 6] 0, xfers := full16 }) (aw 145 1 2 0 0 0), 1, 1, 2, by decide +kernel, ⟨by decide +kernel, by decide +kernel⟩, (by decide +kernel), by decide +kernel⟩,
    ⟨issue (withB7 (inM 3)) 1 ({ (hostT [(2, 0)]) with ls := desc [h1 + 2 ^ 32, 77, h1 + 2 ^ 40 * 0 + 2 ^ 32, 4, 5, 6] 0, xfers := [] }) (aw 145 1 2 0 0 0), 1, 1, 2, _, by decide +kernel, ⟨by decide +kernel, by decide +kernel⟩, (by decide +kernel), some_wit (by decide +kernel)⟩,
    ⟨issue (withB7 (inM 3)) 1 ({ (hostT [(2, 4)]) with ls := desc [h1 + 2 ^ 32, 77, h1 + 2 ^ 40 * 0 + 2 ^ 32, 4, 5, 6] 4, xfers := [] }) (aw 146 1 2 0 0 0), 1, 1, 2, by decide +kernel, by decide +kernel⟩,
    ⟨issue (withB7 (inM 3)) 1 ({ (hostT [(2, 0)]) with ls := desc [h1 + 2 ^ 32, 77, hs + 2 ^ 40 * 0 + 2 ^ 32, 4, 5, 6] 0, xfers := [] }) (aw 146 1 2 0 0 0), 1, 1, 2, by decide +kernel, ⟨by decide +kernel, by decide +kernel⟩, (by decide +kernel)⟩,
    ⟨issue (withB7 (inM 3)) 1 ({ (hostT [(2, 0)]) with ls := desc [h1 + 2 ^ 32, 77, h1 + 2 ^ 40 * 3 + 2 ^ 32, 4, 5, 6] 0, xfers := [] }) (aw 146 1 2 0 0 0), 1, 1, 2, by decide +kernel, ⟨by decide +kernel, by decide +kernel⟩, (by decide +kernel), by decide +kernel⟩,
    ⟨issue (withB7 (inM 3)) 1 ({ (hostT [(2, 0)]) with ls := desc [h1 + 2 ^ 32, 77, h1 + 2 ^ 40 * 0 + 2 ^ 32, 4, 5, 6] 0, xfers := full16 }) (aw 146 1 2 0 0 0), 1, 1, 2, by decide +kernel, ⟨by decide +kernel, by decide +kernel⟩, ⟨(by decide +kernel), by decide +kernel⟩, by decide +kernel⟩,
    ⟨issue (withB7 (inM 3)) 1 ({ (hostT [(2, 0)]) with ls := desc [h1 + 2 ^ 32, 77, h1 + 2 ^ 40 * 0 + 2 ^ 32, 4, 5, 6] 0, xfers := [] }) (aw 146 1 2 0 0 0), 1, 1, 2, _, by decide +kernel, ⟨by decide +kernel, by decide +kernel⟩, ⟨(by decide +kernel), by decide +kernel⟩, some_wit (by decide +kernel)⟩⟩

/-! ### TransferCollect -/
/-- Meets the hypotheses of each clause of Obligations.TransferCollect. -/
theorem witness_TransferCollect :
    (∃ (s : State) (t : Nat) (rd : Nat) (rs1 : Nat), issues s t (aw 147 rd rs1 0 0 0) = true ∧ xferAt (th s t) (BitVec.toNat (gr s t rs1) % 16) = none) ∧
    (∃ (s : State) (t : Nat) (rd : Nat) (rs1 : Nat) (y : Xfer), issues s t (aw 147 rd rs1 0 0 0) = true ∧ xferAt (th s t) (BitVec.toNat (gr s t rs1) % 16) = some y ∧ y.ended = true) ∧
    (∃ (s : State) (t : Nat) (rd : Nat) (rs1 : Nat) (y : Xfer), issues s t (aw 147 rd rs1 0 0 0) = true ∧ xferAt (th s t) (BitVec.toNat (gr s t rs1) % 16) = some y ∧ y.ended = false ∧ y.page = none) ∧
    (∃ (s : State) (t : Nat) (rd : Nat) (rs1 : Nat) (y : Xfer) (i : Nat) (a : Nat), issues s t (aw 147 rd rs1 0 0 0) = true ∧ xferAt (th s t) (BitVec.toNat (gr s t rs1) % 16) = some y ∧ y.ended = false ∧ y.page = some (i, a)) ∧
    (∃ (s : State) (t : Nat) (rd : Nat) (rs1 : Nat), issues s t (aw 148 rd rs1 0 0 0) = true ∧ xferAt (th s t) (BitVec.toNat (gr s t rs1) % 16) = none) ∧
    (∃ (s : State) (t : Nat) (rd : Nat) (rs1 : Nat) (y : Xfer), issues s t (aw 148 rd rs1 0 0 0) = true ∧ xferAt (th s t) (BitVec.toNat (gr s t rs1) % 16) = some y ∧ y.ended = true) ∧
    (∃ (s : State) (t : Nat) (rd : Nat) (rs1 : Nat) (y : Xfer), issues s t (aw 148 rd rs1 0 0 0) = true ∧ xferAt (th s t) (BitVec.toNat (gr s t rs1) % 16) = some y ∧ y.ended = false) :=
  ⟨⟨issue (inM 3) 1 ({ (hostT [(2, 3 + 16)]) with xfers := [(0, some (xf XKind.xin [])), (1, some { kind := XKind.xin, w := [], hs := [], ended := true, sv := 99, page := none, pos := 0 }), (2, some { kind := XKind.xin, w := [], hs := [], ended := false, sv := 0, page := some (4, 8192), pos := 0 })] }) (aw 147 1 2 0 0 0), 1, 1, 2, by decide +kernel, by decide +kernel⟩,
    ⟨issue (inM 3) 1 ({ (hostT [(2, 1 + 16)]) with xfers := [(0, some (xf XKind.xin [])), (1, some { kind := XKind.xin, w := [], hs := [], ended := true, sv := 99, page := none, pos := 0 }), (2, some { kind := XKind.xin, w := [], hs := [], ended := false, sv := 0, page := some (4, 8192), pos := 0 })] }) (aw 147 1 2 0 0 0), 1, 1, 2, _, by decide +kernel, some_wit (by decide +kernel), by decide +kernel⟩,
    ⟨issue (inM 3) 1 ({ (hostT [(2, 0 + 16)]) with xfers := [(0, some (xf XKind.xin [])), (1, some { kind := XKind.xin, w := [], hs := [], ended := true, sv := 99, page := none, pos := 0 }), (2, some { kind := XKind.xin, w := [], hs := [], ended := false, sv := 0, page := some (4, 8192), pos := 0 })] }) (aw 147 1 2 0 0 0), 1, 1, 2, _, by decide +kernel, some_wit (by decide +kernel), by decide +kernel, by decide +kernel⟩,
    ⟨issue (inM 3) 1 ({ (hostT [(2, 2 + 16)]) with xfers := [(0, some (xf XKind.xin [])), (1, some { kind := XKind.xin, w := [], hs := [], ended := true, sv := 99, page := none, pos := 0 }), (2, some { kind := XKind.xin, w := [], hs := [], ended := false, sv := 0, page := some (4, 8192), pos := 0 })] }) (aw 147 1 2 0 0 0), 1, 1, 2, _, _, _, by decide +kernel, some_wit (by decide +kernel), by decide +kernel, some_wit (by decide +kernel)⟩,
    ⟨issue (inM 3) 1 ({ (hostT [(2, 3 + 16)]) with xfers := [(0, some (xf XKind.xin [])), (1, some { kind := XKind.xin, w := [], hs := [], ended := true, sv := 99, page := none, pos := 0 }), (2, some { kind := XKind.xin, w := [], hs := [], ended := false, sv := 0, page := some (4, 8192), pos := 0 })] }) (aw 148 1 2 0 0 0), 1, 1, 2, by decide +kernel, by decide +kernel⟩,
    ⟨issue (inM 3) 1 ({ (hostT [(2, 1 + 16)]) with xfers := [(0, some (xf XKind.xin [])), (1, some { kind := XKind.xin, w := [], hs := [], ended := true, sv := 99, page := none, pos := 0 }), (2, some { kind := XKind.xin, w := [], hs := [], ended := false, sv := 0, page := some (4, 8192), pos := 0 })] }) (aw 148 1 2 0 0 0), 1, 1, 2, _, by decide +kernel, some_wit (by decide +kernel), by decide +kernel⟩,
    ⟨issue (inM 3) 1 ({ (hostT [(2, 0 + 16)]) with xfers := [(0, some (xf XKind.xin [])), (1, some { kind := XKind.xin, w := [], hs := [], ended := true, sv := 99, page := none, pos := 0 }), (2, some { kind := XKind.xin, w := [], hs := [], ended := false, sv := 0, page := some (4, 8192), pos := 0 })] }) (aw 148 1 2 0 0 0), 1, 1, 2, _, by decide +kernel, some_wit (by decide +kernel), by decide +kernel⟩⟩

/-! ### CipherIssue -/
namespace CipherIssue
def ks : KeySet := ⟨[], [], []⟩
def keys (b : State) : State := { b with rsm := { b.rsm with keys := [(3, ⟨some ks, none, 0, true, 0⟩), (1024, ⟨none, some ks, 1, true, 0⟩)] } }
end CipherIssue
/-- Meets the hypotheses of each clause of Obligations.CipherIssue. -/
theorem witness_CipherIssue :
    (∃ (s : State) (t : Nat) (rd : Nat) (rs1 : Nat), issues s t (aw 160 rd rs1 0 0 0) = true ∧ (¬(BitVec.toNat (gr s t rs1) % 512 % 8 = 0 ∧ BitVec.toNat (gr s t rs1) % 512 + 56 ≤ 512))) ∧
    (∃ (s : State) (t : Nat) (rd : Nat) (rs1 : Nat), issues s t (aw 160 rd rs1 0 0 0) = true ∧ (BitVec.toNat (gr s t rs1) % 512 % 8 = 0 ∧ BitVec.toNat (gr s t rs1) % 512 + 56 ≤ 512) ∧ (¬∃ (p : Nat), (if isSys s t = true then if (bit ((List.map (fun (i : Nat) => leNat (rdBytes (th s t).ls (BitVec.toNat (gr s t rs1) % 512 + 8 * i) 8)) (List.range 7)).getD 6 0) 11 && decide (1024 ≤ bits ((List.map (fun (i : Nat) => leNat (rdBytes (th s t).ls (BitVec.toNat (gr s t rs1) % 512 + 8 * i) 8)) (List.range 7)).getD 6 0) 0 11) && decide (bits ((List.map (fun (i : Nat) => leNat (rdBytes (th s t).ls (BitVec.toNat (gr s t rs1) % 512 + 8 * i) 8)) (List.range 7)).getD 6 0) 0 11 < 1040)) = true then some (bits ((List.map (fun (i : Nat) => leNat (rdBytes (th s t).ls (BitVec.toNat (gr s t rs1) % 512 + 8 * i) 8)) (List.range 7)).getD 6 0) 0 11) else none else if bit ((List.map (fun (i : Nat) => leNat (rdBytes (th s t).ls (BitVec.toNat (gr s t rs1) % 512 + 8 * i) 8)) (List.range 7)).getD 6 0) 11 = true then none else some (tenantOf s t)) = some p ∧ (keyPage s p).writable = true)) ∧
    (∃ (s : State) (t : Nat) (rd : Nat) (rs1 : Nat), issues s t (aw 160 rd rs1 0 0 0) = true ∧ (BitVec.toNat (gr s t rs1) % 512 % 8 = 0 ∧ BitVec.toNat (gr s t rs1) % 512 + 56 ≤ 512) ∧ (∃ (p : Nat), (if isSys s t = true then if (bit ((List.map (fun (i : Nat) => leNat (rdBytes (th s t).ls (BitVec.toNat (gr s t rs1) % 512 + 8 * i) 8)) (List.range 7)).getD 6 0) 11 && decide (1024 ≤ bits ((List.map (fun (i : Nat) => leNat (rdBytes (th s t).ls (BitVec.toNat (gr s t rs1) % 512 + 8 * i) 8)) (List.range 7)).getD 6 0) 0 11) && decide (bits ((List.map (fun (i : Nat) => leNat (rdBytes (th s t).ls (BitVec.toNat (gr s t rs1) % 512 + 8 * i) 8)) (List.range 7)).getD 6 0) 0 11 < 1040)) = true then some (bits ((List.map (fun (i : Nat) => leNat (rdBytes (th s t).ls (BitVec.toNat (gr s t rs1) % 512 + 8 * i) 8)) (List.range 7)).getD 6 0) 0 11) else none else if bit ((List.map (fun (i : Nat) => leNat (rdBytes (th s t).ls (BitVec.toNat (gr s t rs1) % 512 + 8 * i) 8)) (List.range 7)).getD 6 0) 11 = true then none else some (tenantOf s t)) = some p ∧ (keyPage s p).writable = true) ∧ holds s t (bits ((List.map (fun (i : Nat) => leNat (rdBytes (th s t).ls (BitVec.toNat (gr s t rs1) % 512 + 8 * i) 8)) (List.range 7)).getD 2 0) 0 32) = false) ∧
    (∃ (s : State) (t : Nat) (rd : Nat) (rs1 : Nat), issues s t (aw 160 rd rs1 0 0 0) = true ∧ (BitVec.toNat (gr s t rs1) % 512 % 8 = 0 ∧ BitVec.toNat (gr s t rs1) % 512 + 56 ≤ 512) ∧ (∃ (p : Nat), (if isSys s t = true then if (bit ((List.map (fun (i : Nat) => leNat (rdBytes (th s t).ls (BitVec.toNat (gr s t rs1) % 512 + 8 * i) 8)) (List.range 7)).getD 6 0) 11 && decide (1024 ≤ bits ((List.map (fun (i : Nat) => leNat (rdBytes (th s t).ls (BitVec.toNat (gr s t rs1) % 512 + 8 * i) 8)) (List.range 7)).getD 6 0) 0 11) && decide (bits ((List.map (fun (i : Nat) => leNat (rdBytes (th s t).ls (BitVec.toNat (gr s t rs1) % 512 + 8 * i) 8)) (List.range 7)).getD 6 0) 0 11 < 1040)) = true then some (bits ((List.map (fun (i : Nat) => leNat (rdBytes (th s t).ls (BitVec.toNat (gr s t rs1) % 512 + 8 * i) 8)) (List.range 7)).getD 6 0) 0 11) else none else if bit ((List.map (fun (i : Nat) => leNat (rdBytes (th s t).ls (BitVec.toNat (gr s t rs1) % 512 + 8 * i) 8)) (List.range 7)).getD 6 0) 11 = true then none else some (tenantOf s t)) = some p ∧ (keyPage s p).writable = true) ∧ holds s t (bits ((List.map (fun (i : Nat) => leNat (rdBytes (th s t).ls (BitVec.toNat (gr s t rs1) % 512 + 8 * i) 8)) (List.range 7)).getD 2 0) 0 32) = true ∧ (¬∃ (b : Buf), bufAt s (bits ((List.map (fun (i : Nat) => leNat (rdBytes (th s t).ls (BitVec.toNat (gr s t rs1) % 512 + 8 * i) 8)) (List.range 7)).getD 2 0) 0 32) = some b ∧ t ∈ b.holders ∧ bits ((List.map (fun (i : Nat) => leNat (rdBytes (th s t).ls (BitVec.toNat (gr s t rs1) % 512 + 8 * i) 8)) (List.range 7)).getD 2 0) 32 8 + (bits ((List.map (fun (i : Nat) => leNat (rdBytes (th s t).ls (BitVec.toNat (gr s t rs1) % 512 + 8 * i) 8)) (List.range 7)).getD 2 0) 40 8 + 1) ≤ frames b.pool)) ∧
    (∃ (s : State) (t : Nat) (rd : Nat) (rs1 : Nat) (k : Nat) (p : Nat), issues s t (aw 160 rd rs1 0 0 0) = true ∧ (BitVec.toNat (gr s t rs1) % 512 % 8 = 0 ∧ BitVec.toNat (gr s t rs1) % 512 + 56 ≤ 512) ∧ (∃ (p : Nat), (if isSys s t = true then if (bit ((List.map (fun (i : Nat) => leNat (rdBytes (th s t).ls (BitVec.toNat (gr s t rs1) % 512 + 8 * i) 8)) (List.range 7)).getD 6 0) 11 && decide (1024 ≤ bits ((List.map (fun (i : Nat) => leNat (rdBytes (th s t).ls (BitVec.toNat (gr s t rs1) % 512 + 8 * i) 8)) (List.range 7)).getD 6 0) 0 11) && decide (bits ((List.map (fun (i : Nat) => leNat (rdBytes (th s t).ls (BitVec.toNat (gr s t rs1) % 512 + 8 * i) 8)) (List.range 7)).getD 6 0) 0 11 < 1040)) = true then some (bits ((List.map (fun (i : Nat) => leNat (rdBytes (th s t).ls (BitVec.toNat (gr s t rs1) % 512 + 8 * i) 8)) (List.range 7)).getD 6 0) 0 11) else none else if bit ((List.map (fun (i : Nat) => leNat (rdBytes (th s t).ls (BitVec.toNat (gr s t rs1) % 512 + 8 * i) 8)) (List.range 7)).getD 6 0) 11 = true then none else some (tenantOf s t)) = some p ∧ (keyPage s p).writable = true) ∧ (if isSys s t = true then if (bit ((List.map (fun (i : Nat) => leNat (rdBytes (th s t).ls (BitVec.toNat (gr s t rs1) % 512 + 8 * i) 8)) (List.range 7)).getD 6 0) 11 && decide (1024 ≤ bits ((List.map (fun (i : Nat) => leNat (rdBytes (th s t).ls (BitVec.toNat (gr s t rs1) % 512 + 8 * i) 8)) (List.range 7)).getD 6 0) 0 11) && decide (bits ((List.map (fun (i : Nat) => leNat (rdBytes (th s t).ls (BitVec.toNat (gr s t rs1) % 512 + 8 * i) 8)) (List.range 7)).getD 6 0) 0 11 < 1040)) = true then some (bits ((List.map (fun (i : Nat) => leNat (rdBytes (th s t).ls (BitVec.toNat (gr s t rs1) % 512 + 8 * i) 8)) (List.range 7)).getD 6 0) 0 11) else none else if bit ((List.map (fun (i : Nat) => leNat (rdBytes (th s t).ls (BitVec.toNat (gr s t rs1) % 512 + 8 * i) 8)) (List.range 7)).getD 6 0) 11 = true then none else some (tenantOf s t)) = some p ∧ (∃ (b : Buf), bufAt s (bits ((List.map (fun (i : Nat) => leNat (rdBytes (th s t).ls (BitVec.toNat (gr s t rs1) % 512 + 8 * i) 8)) (List.range 7)).getD 2 0) 0 32) = some b ∧ t ∈ b.holders ∧ bits ((List.map (fun (i : Nat) => leNat (rdBytes (th s t).ls (BitVec.toNat (gr s t rs1) % 512 + 8 * i) 8)) (List.range 7)).getD 2 0) 32 8 + (bits ((List.map (fun (i : Nat) => leNat (rdBytes (th s t).ls (BitVec.toNat (gr s t rs1) % 512 + 8 * i) 8)) (List.range 7)).getD 2 0) 40 8 + 1) ≤ frames b.pool) ∧ True ∧ freeXfer (th s t) = some k) ∧
    (∃ (s : State) (t : Nat) (rd : Nat) (rs1 : Nat), issues s t (aw 161 rd rs1 0 0 0) = true ∧ (¬(BitVec.toNat (gr s t rs1) % 512 % 8 = 0 ∧ BitVec.toNat (gr s t rs1) % 512 + 56 ≤ 512))) ∧
    (∃ (s : State) (t : Nat) (rd : Nat) (rs1 : Nat), issues s t (aw 161 rd rs1 0 0 0) = true ∧ (BitVec.toNat (gr s t rs1) % 512 % 8 = 0 ∧ BitVec.toNat (gr s t rs1) % 512 + 56 ≤ 512) ∧ (¬∃ (p : Nat), (if isSys s t = true then if (bit ((List.map (fun (i : Nat) => leNat (rdBytes (th s t).ls (BitVec.toNat (gr s t rs1) % 512 + 8 * i) 8)) (List.range 7)).getD 6 0) 11 && decide (1024 ≤ bits ((List.map (fun (i : Nat) => leNat (rdBytes (th s t).ls (BitVec.toNat (gr s t rs1) % 512 + 8 * i) 8)) (List.range 7)).getD 6 0) 0 11) && decide (bits ((List.map (fun (i : Nat) => leNat (rdBytes (th s t).ls (BitVec.toNat (gr s t rs1) % 512 + 8 * i) 8)) (List.range 7)).getD 6 0) 0 11 < 1040)) = true then some (bits ((List.map (fun (i : Nat) => leNat (rdBytes (th s t).ls (BitVec.toNat (gr s t rs1) % 512 + 8 * i) 8)) (List.range 7)).getD 6 0) 0 11) else none else if bit ((List.map (fun (i : Nat) => leNat (rdBytes (th s t).ls (BitVec.toNat (gr s t rs1) % 512 + 8 * i) 8)) (List.range 7)).getD 6 0) 11 = true then none else some (tenantOf s t)) = some p)) ∧
    (∃ (s : State) (t : Nat) (rd : Nat) (rs1 : Nat), issues s t (aw 161 rd rs1 0 0 0) = true ∧ (BitVec.toNat (gr s t rs1) % 512 % 8 = 0 ∧ BitVec.toNat (gr s t rs1) % 512 + 56 ≤ 512) ∧ (∃ (p : Nat), (if isSys s t = true then if (bit ((List.map (fun (i : Nat) => leNat (rdBytes (th s t).ls (BitVec.toNat (gr s t rs1) % 512 + 8 * i) 8)) (List.range 7)).getD 6 0) 11 && decide (1024 ≤ bits ((List.map (fun (i : Nat) => leNat (rdBytes (th s t).ls (BitVec.toNat (gr s t rs1) % 512 + 8 * i) 8)) (List.range 7)).getD 6 0) 0 11) && decide (bits ((List.map (fun (i : Nat) => leNat (rdBytes (th s t).ls (BitVec.toNat (gr s t rs1) % 512 + 8 * i) 8)) (List.range 7)).getD 6 0) 0 11 < 1040)) = true then some (bits ((List.map (fun (i : Nat) => leNat (rdBytes (th s t).ls (BitVec.toNat (gr s t rs1) % 512 + 8 * i) 8)) (List.range 7)).getD 6 0) 0 11) else none else if bit ((List.map (fun (i : Nat) => leNat (rdBytes (th s t).ls (BitVec.toNat (gr s t rs1) % 512 + 8 * i) 8)) (List.range 7)).getD 6 0) 11 = true then none else some (tenantOf s t)) = some p) ∧ holds s t (bits ((List.map (fun (i : Nat) => leNat (rdBytes (th s t).ls (BitVec.toNat (gr s t rs1) % 512 + 8 * i) 8)) (List.range 7)).getD 2 0) 0 32) = false) ∧
    (∃ (s : State) (t : Nat) (rd : Nat) (rs1 : Nat), issues s t (aw 161 rd rs1 0 0 0) = true ∧ (BitVec.toNat (gr s t rs1) % 512 % 8 = 0 ∧ BitVec.toNat (gr s t rs1) % 512 + 56 ≤ 512) ∧ (∃ (p : Nat), (if isSys s t = true then if (bit ((List.map (fun (i : Nat) => leNat (rdBytes (th s t).ls (BitVec.toNat (gr s t rs1) % 512 + 8 * i) 8)) (List.range 7)).getD 6 0) 11 && decide (1024 ≤ bits ((List.map (fun (i : Nat) => leNat (rdBytes (th s t).ls (BitVec.toNat (gr s t rs1) % 512 + 8 * i) 8)) (List.range 7)).getD 6 0) 0 11) && decide (bits ((List.map (fun (i : Nat) => leNat (rdBytes (th s t).ls (BitVec.toNat (gr s t rs1) % 512 + 8 * i) 8)) (List.range 7)).getD 6 0) 0 11 < 1040)) = true then some (bits ((List.map (fun (i : Nat) => leNat (rdBytes (th s t).ls (BitVec.toNat (gr s t rs1) % 512 + 8 * i) 8)) (List.range 7)).getD 6 0) 0 11) else none else if bit ((List.map (fun (i : Nat) => leNat (rdBytes (th s t).ls (BitVec.toNat (gr s t rs1) % 512 + 8 * i) 8)) (List.range 7)).getD 6 0) 11 = true then none else some (tenantOf s t)) = some p) ∧ holds s t (bits ((List.map (fun (i : Nat) => leNat (rdBytes (th s t).ls (BitVec.toNat (gr s t rs1) % 512 + 8 * i) 8)) (List.range 7)).getD 2 0) 0 32) = true ∧ (¬∃ (b : Buf), bufAt s (bits ((List.map (fun (i : Nat) => leNat (rdBytes (th s t).ls (BitVec.toNat (gr s t rs1) % 512 + 8 * i) 8)) (List.range 7)).getD 2 0) 0 32) = some b ∧ t ∈ b.holders ∧ bits ((List.map (fun (i : Nat) => leNat (rdBytes (th s t).ls (BitVec.toNat (gr s t rs1) % 512 + 8 * i) 8)) (List.range 7)).getD 2 0) 32 8 + (bits ((List.map (fun (i : Nat) => leNat (rdBytes (th s t).ls (BitVec.toNat (gr s t rs1) % 512 + 8 * i) 8)) (List.range 7)).getD 2 0) 40 8 + 1) ≤ frames b.pool)) ∧
    (∃ (s : State) (t : Nat) (rd : Nat) (rs1 : Nat), issues s t (aw 161 rd rs1 0 0 0) = true ∧ (BitVec.toNat (gr s t rs1) % 512 % 8 = 0 ∧ BitVec.toNat (gr s t rs1) % 512 + 56 ≤ 512) ∧ (∃ (p : Nat), (if isSys s t = true then if (bit ((List.map (fun (i : Nat) => leNat (rdBytes (th s t).ls (BitVec.toNat (gr s t rs1) % 512 + 8 * i) 8)) (List.range 7)).getD 6 0) 11 && decide (1024 ≤ bits ((List.map (fun (i : Nat) => leNat (rdBytes (th s t).ls (BitVec.toNat (gr s t rs1) % 512 + 8 * i) 8)) (List.range 7)).getD 6 0) 0 11) && decide (bits ((List.map (fun (i : Nat) => leNat (rdBytes (th s t).ls (BitVec.toNat (gr s t rs1) % 512 + 8 * i) 8)) (List.range 7)).getD 6 0) 0 11 < 1040)) = true then some (bits ((List.map (fun (i : Nat) => leNat (rdBytes (th s t).ls (BitVec.toNat (gr s t rs1) % 512 + 8 * i) 8)) (List.range 7)).getD 6 0) 0 11) else none else if bit ((List.map (fun (i : Nat) => leNat (rdBytes (th s t).ls (BitVec.toNat (gr s t rs1) % 512 + 8 * i) 8)) (List.range 7)).getD 6 0) 11 = true then none else some (tenantOf s t)) = some p) ∧ (∃ (b : Buf), bufAt s (bits ((List.map (fun (i : Nat) => leNat (rdBytes (th s t).ls (BitVec.toNat (gr s t rs1) % 512 + 8 * i) 8)) (List.range 7)).getD 2 0) 0 32) = some b ∧ t ∈ b.holders ∧ bits ((List.map (fun (i : Nat) => leNat (rdBytes (th s t).ls (BitVec.toNat (gr s t rs1) % 512 + 8 * i) 8)) (List.range 7)).getD 2 0) 32 8 + (bits ((List.map (fun (i : Nat) => leNat (rdBytes (th s t).ls (BitVec.toNat (gr s t rs1) % 512 + 8 * i) 8)) (List.range 7)).getD 2 0) 40 8 + 1) ≤ frames b.pool) ∧ (¬((List.map (fun (i : Nat) => leNat (rdBytes (th s t).ls (BitVec.toNat (gr s t rs1) % 512 + 8 * i) 8)) (List.range 7)).getD 5 0 = 0 ∨ bits ((List.map (fun (i : Nat) => leNat (rdBytes (th s t).ls (BitVec.toNat (gr s t rs1) % 512 + 8 * i) 8)) (List.range 7)).getD 5 0) 48 3 = 4 ∧ (isSys s t = true ∨ (List.map (fun (i : Nat) => leNat (rdBytes (th s t).ls (BitVec.toNat (gr s t rs1) % 512 + 8 * i) 8)) (List.range 7)).getD 5 0 ∈ (th s t).held)))) ∧
    (∃ (s : State) (t : Nat) (rd : Nat) (rs1 : Nat) (k : Nat) (p : Nat), issues s t (aw 161 rd rs1 0 0 0) = true ∧ (BitVec.toNat (gr s t rs1) % 512 % 8 = 0 ∧ BitVec.toNat (gr s t rs1) % 512 + 56 ≤ 512) ∧ (∃ (p : Nat), (if isSys s t = true then if (bit ((List.map (fun (i : Nat) => leNat (rdBytes (th s t).ls (BitVec.toNat (gr s t rs1) % 512 + 8 * i) 8)) (List.range 7)).getD 6 0) 11 && decide (1024 ≤ bits ((List.map (fun (i : Nat) => leNat (rdBytes (th s t).ls (BitVec.toNat (gr s t rs1) % 512 + 8 * i) 8)) (List.range 7)).getD 6 0) 0 11) && decide (bits ((List.map (fun (i : Nat) => leNat (rdBytes (th s t).ls (BitVec.toNat (gr s t rs1) % 512 + 8 * i) 8)) (List.range 7)).getD 6 0) 0 11 < 1040)) = true then some (bits ((List.map (fun (i : Nat) => leNat (rdBytes (th s t).ls (BitVec.toNat (gr s t rs1) % 512 + 8 * i) 8)) (List.range 7)).getD 6 0) 0 11) else none else if bit ((List.map (fun (i : Nat) => leNat (rdBytes (th s t).ls (BitVec.toNat (gr s t rs1) % 512 + 8 * i) 8)) (List.range 7)).getD 6 0) 11 = true then none else some (tenantOf s t)) = some p) ∧ (if isSys s t = true then if (bit ((List.map (fun (i : Nat) => leNat (rdBytes (th s t).ls (BitVec.toNat (gr s t rs1) % 512 + 8 * i) 8)) (List.range 7)).getD 6 0) 11 && decide (1024 ≤ bits ((List.map (fun (i : Nat) => leNat (rdBytes (th s t).ls (BitVec.toNat (gr s t rs1) % 512 + 8 * i) 8)) (List.range 7)).getD 6 0) 0 11) && decide (bits ((List.map (fun (i : Nat) => leNat (rdBytes (th s t).ls (BitVec.toNat (gr s t rs1) % 512 + 8 * i) 8)) (List.range 7)).getD 6 0) 0 11 < 1040)) = true then some (bits ((List.map (fun (i : Nat) => leNat (rdBytes (th s t).ls (BitVec.toNat (gr s t rs1) % 512 + 8 * i) 8)) (List.range 7)).getD 6 0) 0 11) else none else if bit ((List.map (fun (i : Nat) => leNat (rdBytes (th s t).ls (BitVec.toNat (gr s t rs1) % 512 + 8 * i) 8)) (List.range 7)).getD 6 0) 11 = true then none else some (tenantOf s t)) = some p ∧ (∃ (b : Buf), bufAt s (bits ((List.map (fun (i : Nat) => leNat (rdBytes (th s t).ls (BitVec.toNat (gr s t rs1) % 512 + 8 * i) 8)) (List.range 7)).getD 2 0) 0 32) = some b ∧ t ∈ b.holders ∧ bits ((List.map (fun (i : Nat) => leNat (rdBytes (th s t).ls (BitVec.toNat (gr s t rs1) % 512 + 8 * i) 8)) (List.range 7)).getD 2 0) 32 8 + (bits ((List.map (fun (i : Nat) => leNat (rdBytes (th s t).ls (BitVec.toNat (gr s t rs1) % 512 + 8 * i) 8)) (List.range 7)).getD 2 0) 40 8 + 1) ≤ frames b.pool) ∧ ((List.map (fun (i : Nat) => leNat (rdBytes (th s t).ls (BitVec.toNat (gr s t rs1) % 512 + 8 * i) 8)) (List.range 7)).getD 5 0 = 0 ∨ bits ((List.map (fun (i : Nat) => leNat (rdBytes (th s t).ls (BitVec.toNat (gr s t rs1) % 512 + 8 * i) 8)) (List.range 7)).getD 5 0) 48 3 = 4 ∧ (isSys s t = true ∨ (List.map (fun (i : Nat) => leNat (rdBytes (th s t).ls (BitVec.toNat (gr s t rs1) % 512 + 8 * i) 8)) (List.range 7)).getD 5 0 ∈ (th s t).held)) ∧ freeXfer (th s t) = some k) :=
  ⟨⟨have x := hostT [(2, 4)]; issue (CipherIssue.keys (withB7 (inM 3))) 1 { x with ls := desc [0, 77, h1 + 2 ^ 40 * 0 + 2 ^ 32, 4, 5, 0, 0] 4, stamp := x.stamp + 3, xfers := [] } (aw 160 1 2 0 0 0), 1, 1, 2, by decide +kernel, by decide +kernel⟩,
    ⟨have x := hostT [(2, 8)]; issue (CipherIssue.keys (withB7 (inM 3))) 1 { x with ls := desc [0, 77, h1 + 2 ^ 40 * 0 + 2 ^ 32, 4, 5, 0, 2048 + 1024] 8, stamp := x.stamp + 3, xfers := [] } (aw 160 1 2 0 0 0), 1, 1, 2, by decide +kernel, ⟨by decide +kernel, by decide +kernel⟩, (by decide +kernel)⟩,
    ⟨have x := hostT [(2, 8)]; issue (CipherIssue.keys (withB7 (inM 3))) 1 { x with ls := desc [0, 77, hs + 2 ^ 40 * 0 + 2 ^ 32, 4, 5, 0, 0] 8, stamp := x.stamp + 3, xfers := [] } (aw 160 1 2 0 0 0), 1, 1, 2, by decide +kernel, ⟨by decide +kernel, by decide +kernel⟩, (by decide +kernel), by decide +kernel⟩,
    ⟨have x := hostT [(2, 8)]; issue (CipherIssue.keys (withB7 (inM 3))) 1 { x with ls := desc [0, 77, h1 + 2 ^ 40 * 3 + 2 ^ 32, 4, 5, 0, 0] 8, stamp := x.stamp + 3, xfers := [] } (aw 160 1 2 0 0 0), 1, 1, 2, by decide +kernel, ⟨by decide +kernel, by decide +kernel⟩, (by decide +kernel), by decide +kernel, by decide +kernel⟩,
    ⟨have x := hostT [(2, 8)]; issue (CipherIssue.keys (withB7 (inM 3))) 1 { x with ls := desc [0, 77, h1 + 2 ^ 40 * 0 + 2 ^ 32, 4, 5, 0, 0] 8, stamp := x.stamp + 3, xfers := [] } (aw 160 1 2 0 0 0), 1, 1, 2, _, _, by decide +kernel, ⟨by decide +kernel, by decide +kernel⟩, (by decide +kernel), some_wit (by decide +kernel), by decide +kernel, by decide +kernel, some_wit (by decide +kernel)⟩,
    ⟨have x := hostT [(2, 4)]; issue (CipherIssue.keys (withB7 (inM 3))) 1 { x with ls := desc [0, 77, h1 + 2 ^ 40 * 0 + 2 ^ 32, 4, 5, 0, 0] 4, stamp := x.stamp + 3, xfers := [] } (aw 161 1 2 0 0 0), 1, 1, 2, by decide +kernel, by decide +kernel⟩,
    ⟨have x := hostT [(2, 8)]; issue (CipherIssue.keys (withB7 (inM 3))) 1 { x with ls := desc [0, 77, h1 + 2 ^ 40 * 0 + 2 ^ 32, 4, 5, 0, 2048 + 1024] 8, stamp := x.stamp + 3, xfers := [] } (aw 161 1 2 0 0 0), 1, 1, 2, by decide +kernel, ⟨by decide +kernel, by decide +kernel⟩, mt Option.isSome_iff_exists.mpr (by decide +kernel)⟩,
    ⟨have x := hostT [(2, 8)]; issue (CipherIssue.keys (withB7 (inM 3))) 1 { x with ls := desc [0, 77, hs + 2 ^ 40 * 0 + 2 ^ 32, 4, 5, 0, 0] 8, stamp := x.stamp + 3, xfers := [] } (aw 161 1 2 0 0 0), 1, 1, 2, by decide +kernel, ⟨by decide +kernel, by decide +kernel⟩, Option.isSome_iff_exists.mp (by decide +kernel), by decide +kernel⟩,
    ⟨have x := hostT [(2, 8)]; issue (CipherIssue.keys (withB7 (inM 3))) 1 { x with ls := desc [0, 77, h1 + 2 ^ 40 * 3 + 2 ^ 32, 4, 5, 0, 0] 8, stamp := x.stamp + 3, xfers := [] } (aw 161 1 2 0 0 0), 1, 1, 2, by decide +kernel, ⟨by decide +kernel, by decide +kernel⟩, Option.isSome_iff_exists.mp (by decide +kernel), by decide +kernel, by decide +kernel⟩,
    ⟨have x := hostT [(2, 8)]; issue (CipherIssue.keys (withB7 (inM 3))) 1 { x with ls := desc [0, 77, h1 + 2 ^ 40 * 0 + 2 ^ 32, 4, 5, 7, 0] 8, stamp := x.stamp + 3, xfers := [] } (aw 161 1 2 0 0 0), 1, 1, 2, by decide +kernel, ⟨by decide +kernel, by decide +kernel⟩, Option.isSome_iff_exists.mp (by decide +kernel), by decide +kernel, by decide +kernel⟩,
    ⟨have x := hostT [(2, 8)]; issue (CipherIssue.keys (withB7 (inM 3))) 1 { x with ls := desc [0, 77, h1 + 2 ^ 40 * 0 + 2 ^ 32, 4, 5, 0, 0] 8, stamp := x.stamp + 3, xfers := [] } (aw 161 1 2 0 0 0), 1, 1, 2, _, _, by decide +kernel, ⟨by decide +kernel, by decide +kernel⟩, Option.isSome_iff_exists.mp (by decide +kernel), some_wit (by decide +kernel), by decide +kernel, by decide +kernel, some_wit (by decide +kernel)⟩⟩

/-! ### ParityIssue -/
namespace ParityIssue
def pgrp (b : State) : State := oneGroup (geom 20 b)
def band (b : State) : State := dramWrLe b (aBand + 16) 16 (1 + 2 ^ 64)
def accs (b : State) (q : Nat) : State := { b with md := { b.md with accs := (List.range 32).map fun i => (32 * q + i, some ⟨1, i, 0, 0, [], []⟩) } }
end ParityIssue
/-- Meets the hypotheses of each clause of Obligations.ParityIssue. -/
theorem witness_ParityIssue :
    (∃ (s : State) (t : Nat) (rd : Nat) (rs1 : Nat) (frame : Nat) (mem : Nat), frame < 256 ∧ mem < 32 ∧ issues s t (aw 176 rd rs1 0 0 0) = true ∧ isSys s t = false) ∧
    (∃ (s : State) (t : Nat) (rd : Nat) (rs1 : Nat) (frame : Nat) (mem : Nat), frame < 256 ∧ mem < 32 ∧ issues s t (aw 176 rd rs1 0 0 0) = true ∧ isSys s t = true ∧ pxOpen s t (BitVec.toNat (gr s t rs1)) = PxRes.invalid) ∧
    (∃ (s : State) (t : Nat) (rd : Nat) (rs1 : Nat) (frame : Nat) (mem : Nat), frame < 256 ∧ mem < 32 ∧ issues s t (aw 176 rd rs1 0 0 0) = true ∧ isSys s t = true ∧ pxOpen s t (BitVec.toNat (gr s t rs1)) = PxRes.full) ∧
    (∃ (s : State) (t : Nat) (rd : Nat) (rs1 : Nat) (frame : Nat) (mem : Nat) (k : Nat) (v : State), frame < 256 ∧ mem < 32 ∧ issues s t (aw 176 rd rs1 0 0 0) = true ∧ isSys s t = true ∧ pxOpen s t (BitVec.toNat (gr s t rs1)) = PxRes.opened k v ∧ mirrors s = false) ∧
    (∃ (s : State) (t : Nat) (rd : Nat) (rs1 : Nat) (rs2 : Nat) (frame : Nat) (mem : Nat), frame < 256 ∧ mem < 32 ∧ issues s t (aw 177 rd rs1 rs2 0 (frame + 256 * mem)) = true ∧ isSys s t = false) ∧
    (∃ (s : State) (t : Nat) (rd : Nat) (rs1 : Nat) (rs2 : Nat) (frame : Nat) (mem : Nat), frame < 256 ∧ mem < 32 ∧ issues s t (aw 177 rd rs1 rs2 0 (frame + 256 * mem)) = true ∧ isSys s t = true ∧ accAt s t (BitVec.toNat (gr s t rs1)) = none) ∧
    (∃ (s : State) (t : Nat) (rd : Nat) (rs1 : Nat) (rs2 : Nat) (frame : Nat) (mem : Nat) (i : Nat) (a : ParAcc) (k : Nat), frame < 256 ∧ mem < 32 ∧ issues s t (aw 177 rd rs1 rs2 0 (frame + 256 * mem)) = true ∧ isSys s t = true ∧ accAt s t (BitVec.toNat (gr s t rs1)) = some (i, a) ∧ bufFault s t (BitVec.toNat (gr s t rs2)) frame 8 = none ∧ freeXfer (th s t) = some k) ∧
    (∃ (s : State) (t : Nat) (rd : Nat) (rs1 : Nat) (rs2 : Nat) (frame : Nat) (mem : Nat), frame < 256 ∧ mem < 32 ∧ issues s t (aw 178 rd rs1 rs2 0 frame) = true ∧ isSys s t = false) ∧
    (∃ (s : State) (t : Nat) (rd : Nat) (rs1 : Nat) (rs2 : Nat) (frame : Nat) (mem : Nat), frame < 256 ∧ mem < 32 ∧ issues s t (aw 178 rd rs1 rs2 0 frame) = true ∧ isSys s t = true ∧ accAt s t (BitVec.toNat (gr s t rs1)) = none) ∧
    (∃ (s : State) (t : Nat) (rd : Nat) (rs1 : Nat) (rs2 : Nat) (frame : Nat) (mem : Nat) (i : Nat) (a : ParAcc) (k : Nat), frame < 256 ∧ mem < 32 ∧ issues s t (aw 178 rd rs1 rs2 0 frame) = true ∧ isSys s t = true ∧ accAt s t (BitVec.toNat (gr s t rs1)) = some (i, a) ∧ bufFault s t (BitVec.toNat (gr s t rs2)) frame (8 * accPages s a) = none ∧ freeXfer (th s t) = some k) ∧
    (∃ (s : State) (t : Nat) (rd : Nat) (rs1 : Nat) (frame : Nat) (mem : Nat), frame < 256 ∧ mem < 32 ∧ issues s t (aw 179 rd rs1 0 0 0) = true ∧ isSys s t = false) ∧
    (∃ (s : State) (t : Nat) (rd : Nat) (rs1 : Nat) (frame : Nat) (mem : Nat), frame < 256 ∧ mem < 32 ∧ issues s t (aw 179 rd rs1 0 0 0) = true ∧ isSys s t = true ∧ (¬(BitVec.toNat (gr s t rs1) % 512 % 8 = 0 ∧ BitVec.toNat (gr s t rs1) % 512 + 16 ≤ 512))) ∧
    (∃ (s : State) (t : Nat) (rd : Nat) (rs1 : Nat) (frame : Nat) (mem : Nat) (k : Nat), frame < 256 ∧ mem < 32 ∧ issues s t (aw 179 rd rs1 0 0 0) = true ∧ isSys s t = true ∧ BitVec.toNat (gr s t rs1) % 512 % 8 = 0 ∧ BitVec.toNat (gr s t rs1) % 512 + 16 ≤ 512 ∧ bufFault s t (bits ((List.map (fun (i : Nat) => leNat (rdBytes (th s t).ls (BitVec.toNat (gr s t rs1) % 512 + 8 * i) 8)) (List.range 2)).getD 1 0) 0 32) (bits ((List.map (fun (i : Nat) => leNat (rdBytes (th s t).ls (BitVec.toNat (gr s t rs1) % 512 + 8 * i) 8)) (List.range 2)).getD 1 0) 32 8) (bits ((List.map (fun (i : Nat) => leNat (rdBytes (th s t).ls (BitVec.toNat (gr s t rs1) % 512 + 8 * i) 8)) (List.range 2)).getD 1 0) 40 3 + 1) = none ∧ freeXfer (th s t) = some k) :=
  ⟨⟨(issue (ParityIssue.band (ParityIssue.pgrp (withB7 (inM 3)))) 1 (hostT [(2, 1 * 2 ^ 16 + 2 ^ 32)]) (aw 176 1 2 0 0 0)), 1, 1, 2, 0, 2, by decide +kernel, by decide +kernel, by decide +kernel, (by decide +kernel)⟩,
    ⟨(issue (ParityIssue.band (ParityIssue.pgrp (withB7 (inM 3)))) 1 (swT [(2, 7 * 2 ^ 16)]) (aw 176 1 2 0 0 0)), 1, 1, 2, 0, 2, by decide +kernel, by decide +kernel, by decide +kernel, (by decide +kernel), px_invalid (by decide +kernel)⟩,
    ⟨(issue (ParityIssue.accs (ParityIssue.band (ParityIssue.pgrp (withB7 (inM 3)))) 0) 1 (swT [(2, 1 * 2 ^ 16 + 2 ^ 32)]) (aw 176 1 2 0 0 0)), 1, 1, 2, 0, 2, by decide +kernel, by decide +kernel, by decide +kernel, (by decide +kernel), px_full (by decide +kernel)⟩,
    ⟨(issue (ParityIssue.band (ParityIssue.pgrp (withB7 (inM 3)))) 1 (swT [(2, 1 * 2 ^ 16 + 2 ^ 32)]) (aw 176 1 2 0 0 0)), 1, 1, 2, 0, 2, _, _, by decide +kernel, by decide +kernel, by decide +kernel, (by decide +kernel), px_opened (by decide +kernel), by decide +kernel⟩,
    ⟨(issue (ParityIssue.band (ParityIssue.pgrp (withB7 (inM 3)))) 1 (hostT [(2, 2 ^ 32 * 1 + 1), (3, h1)]) (aw 177 1 2 3 0 (0 + 256 * 2))), 1, 1, 2, 3, 0, 2, by decide +kernel, by decide +kernel, by decide +kernel, (by decide +kernel)⟩,
    ⟨(issue (ParityIssue.band (ParityIssue.pgrp (withB7 (inM 3)))) 1 (swT [(2, 2 ^ 32 * 1 + 1), (3, h1)]) (aw 177 1 2 3 0 (0 + 256 * 2))), 1, 1, 2, 3, 0, 2, by decide +kernel, by decide +kernel, by decide +kernel, (by decide +kernel), by decide +kernel⟩,
    ⟨(issue (ParityIssue.accs (ParityIssue.band (ParityIssue.pgrp (withB7 (inM 3)))) 0) 1 (swT [(2, 2 ^ 32 * 1 + 1), (3, h3)]) (aw 177 1 2 3 0 (0 + 256 * 2))), 1, 1, 2, 3, 0, 2, _, _, _, by decide +kernel, by decide +kernel, by decide +kernel, (by decide +kernel), some_wit (by decide +kernel), by decide +kernel, some_wit (by decide +kernel)⟩,
    ⟨(issue (ParityIssue.band (ParityIssue.pgrp (withB7 (inM 3)))) 1 (hostT [(2, 2 ^ 32 * 1 + 1), (3, h1)]) (aw 178 1 2 3 0 0)), 1, 1, 2, 3, 0, 2, by decide +kernel, by decide +kernel, by decide +kernel, (by decide +kernel)⟩,
    ⟨(issue (ParityIssue.band (ParityIssue.pgrp (withB7 (inM 3)))) 1 (swT [(2, 2 ^ 32 * 1 + 1), (3, h1)]) (aw 178 1 2 3 0 0)), 1, 1, 2, 3, 0, 2, by decide +kernel, by decide +kernel, by decide +kernel, (by decide +kernel), by decide +kernel⟩,
    ⟨(issue (ParityIssue.accs (ParityIssue.band (ParityIssue.pgrp (withB7 (inM 3)))) 0) 1 (swT [(2, 2 ^ 32 * 1 + 1), (3, h3)]) (aw 178 1 2 3 0 0)), 1, 1, 2, 3, 0, 2, _, _, _, by decide +kernel, by decide +kernel, by decide +kernel, (by decide +kernel), some_wit (by decide +kernel), by decide +kernel, some_wit (by decide +kernel)⟩,
    ⟨(issue (ParityIssue.band (ParityIssue.pgrp (withB7 (inM 3)))) 1 ({ (hostT [(2, 8)]) with ls := desc [5, h1 + 2 ^ 32] 8 }) (aw 179 1 2 0 0 0)), 1, 1, 2, 0, 2, by decide +kernel, by decide +kernel, by decide +kernel, (by decide +kernel)⟩,
    ⟨(issue (ParityIssue.band (ParityIssue.pgrp (withB7 (inM 3)))) 1 ({ (swT [(2, 4)]) with ls := desc [5, h1 + 2 ^ 32] 4 }) (aw 179 1 2 0 0 0)), 1, 1, 2, 0, 2, by decide +kernel, by decide +kernel, by decide +kernel, (by decide +kernel), by decide +kernel⟩,
    ⟨(issue (ParityIssue.band (ParityIssue.pgrp (withB7 (inM 3)))) 1 ({ (swT [(2, 8)]) with ls := desc [5, h1 + 2 ^ 32] 8 }) (aw 179 1 2 0 0 0)), 1, 1, 2, 0, 2, _, by decide +kernel, by decide +kernel, by decide +kernel, (by decide +kernel), by decide +kernel, by decide +kernel, by decide +kernel, some_wit (by decide +kernel)⟩⟩

/-! ### TimeAndQuota -/
namespace TimeAndQuota
def q (b : State) : State := { b with clk := { b.clk with now := 1000, steps := 2 }, d := { b.d with ten := { b.d.ten with force := [(3, ⟨⟨true, 5, 100⟩, ⟨false, 0, 0⟩, ⟨true, 1, 20⟩⟩)], bal := [(12, 50), (14, 20)] } } }
end TimeAndQuota
/-- Meets the hypotheses of each clause of Obligations.TimeAndQuota. -/
theorem witness_TimeAndQuota :
    (∃ (s : State) (t : Nat) (rd : Nat), issues s t (aw 192 rd 0 0 0 0) = true) ∧
    (∃ (s : State) (t : Nat) (rd : Nat), issues s t (aw 193 rd 0 0 0 0) = true) ∧
    (∃ (s : State) (t : Nat) (rs1 : Nat), issues s t (aw 194 0 rs1 0 0 0) = true ∧ BitVec.toNat (gr s t rs1) ≤ s.clk.now) ∧
    (∃ (s : State) (t : Nat) (rs1 : Nat), issues s t (aw 194 0 rs1 0 0 0) = true ∧ s.clk.now < BitVec.toNat (gr s t rs1)) ∧
    (∃ (s : State) (t : Nat) (rs1 : Nat) (rs2 : Nat) (imm : Nat), issues s t (aw 195 0 rs1 rs2 0 imm) = true ∧ isSys s t = true) ∧
    (∃ (s : State) (t : Nat) (rs1 : Nat) (rs2 : Nat) (imm : Nat), issues s t (aw 195 0 rs1 rs2 0 imm) = true ∧ isSys s t = false ∧ chargeFits s t (BitVec.toNat (gr s t rs1)) (BitVec.toNat (gr s t rs2)) imm = true) ∧
    (∃ (s : State) (t : Nat) (rs1 : Nat) (rs2 : Nat) (imm : Nat), issues s t (aw 195 0 rs1 rs2 0 imm) = true ∧ isSys s t = false ∧ chargeFits s t (BitVec.toNat (gr s t rs1)) (BitVec.toNat (gr s t rs2)) imm = false) :=
  ⟨⟨have x := hostT [(2, 10), (3, 0)]; issue (TimeAndQuota.q (inM 3)) 1 { x with stamp := x.stamp + 3 } (aw 192 1 0 0 0 0), 1, 1, by decide +kernel⟩,
    ⟨have x := hostT [(2, 10), (3, 0)]; issue (TimeAndQuota.q (inM 3)) 1 { x with stamp := x.stamp + 3 } (aw 193 1 0 0 0 0), 1, 1, by decide +kernel⟩,
    ⟨have x := hostT [(2, 10), (3, 0)]; issue (TimeAndQuota.q (inM 3)) 1 { x with stamp := x.stamp + 3 } (aw 194 0 2 0 0 0), 1, 2, by decide +kernel, by decide +kernel⟩,
    ⟨have x := hostT [(2, 5000), (3, 0)]; issue (TimeAndQuota.q (inM 3)) 1 { x with stamp := x.stamp + 3 } (aw 194 0 2 0 0 0), 1, 2, by decide +kernel, by decide +kernel⟩,
    ⟨have x := swT [(2, 10), (3, 0)]; issue (TimeAndQuota.q (inM 3)) 1 { x with stamp := x.stamp + 3 } (aw 195 0 2 3 0 0), 1, 2, 3, 0, by decide +kernel, by decide +kernel⟩,
    ⟨have x := hostT [(2, 10), (3, 0)]; issue (TimeAndQuota.q (inM 3)) 1 { x with stamp := x.stamp + 3 } (aw 195 0 2 3 0 0), 1, 2, 3, 0, by decide +kernel, by decide +kernel, by decide +kernel⟩,
    ⟨have x := hostT [(2, 60), (3, 0)]; issue (TimeAndQuota.q (inM 3)) 1 { x with stamp := x.stamp + 3 } (aw 195 0 2 3 0 0), 1, 2, 3, 0, by decide +kernel, by decide +kernel, by decide +kernel⟩⟩

/-! ### MailInstructions -/
namespace MailInstructions
def mb (b : State) : State := setF (setF b (MBX_CFG_RCV 5) 1) (MBX_CFG_HOSTSEND 6) 1
def boxes (b : State) : State := setBox (mb b) 5 ⟨true, false, 0x20001, 0, 99, List.replicate 32 7, none, false, 0, 0⟩
end MailInstructions
/-- Meets the hypotheses of each clause of Obligations.MailInstructions. -/
theorem witness_MailInstructions :
    (∃ (s : State) (t : Nat) (rs1 : Nat) (rs2 : Nat), issues s t (aw 208 0 rs1 rs2 0 0) = true ∧ (¬(isSys s t = true ∨ 4 ≤ BitVec.toNat (gr s t rs1) % 64 ∧ BitVec.toNat (gr s t rs1) % 64 < 48 ∧ getF s (MBX_CFG_HOSTSEND (BitVec.toNat (gr s t rs1) % 64)) = 1))) ∧
    (∃ (s : State) (t : Nat) (rs1 : Nat) (rs2 : Nat), issues s t (aw 208 0 rs1 rs2 0 0) = true ∧ (isSys s t = true ∨ 4 ≤ BitVec.toNat (gr s t rs1) % 64 ∧ BitVec.toNat (gr s t rs1) % 64 < 48 ∧ getF s (MBX_CFG_HOSTSEND (BitVec.toNat (gr s t rs1) % 64)) = 1) ∧ (¬(BitVec.toNat (gr s t rs2) % 512 % 8 = 0 ∧ BitVec.toNat (gr s t rs2) % 512 + 32 ≤ 512))) ∧
    (∃ (s : State) (t : Nat) (rs1 : Nat) (rs2 : Nat), issues s t (aw 208 0 rs1 rs2 0 0) = true ∧ (isSys s t = true ∨ 4 ≤ BitVec.toNat (gr s t rs1) % 64 ∧ BitVec.toNat (gr s t rs1) % 64 < 48 ∧ getF s (MBX_CFG_HOSTSEND (BitVec.toNat (gr s t rs1) % 64)) = 1) ∧ BitVec.toNat (gr s t rs2) % 512 % 8 = 0 ∧ BitVec.toNat (gr s t rs2) % 512 + 32 ≤ 512) ∧
    (∃ (s : State) (t : Nat) (rd : Nat) (rs1 : Nat) (rs2 : Nat), issues s t (aw 209 rd rs1 rs2 0 0) = true ∧ (¬(4 ≤ BitVec.toNat (gr s t rs1) % 64 ∧ BitVec.toNat (gr s t rs1) % 64 < 48 ∧ getF s (MBX_CFG_RCV (BitVec.toNat (gr s t rs1) % 64)) = t))) ∧
    (∃ (s : State) (t : Nat) (rd : Nat) (rs1 : Nat) (rs2 : Nat), issues s t (aw 209 rd rs1 rs2 0 0) = true ∧ (4 ≤ BitVec.toNat (gr s t rs1) % 64 ∧ BitVec.toNat (gr s t rs1) % 64 < 48 ∧ getF s (MBX_CFG_RCV (BitVec.toNat (gr s t rs1) % 64)) = t) ∧ (¬(BitVec.toNat (gr s t rs2) % 512 % 8 = 0 ∧ BitVec.toNat (gr s t rs2) % 512 + 40 ≤ 512))) ∧
    (∃ (s : State) (t : Nat) (rd : Nat) (rs1 : Nat) (rs2 : Nat), issues s t (aw 209 rd rs1 rs2 0 0) = true ∧ (4 ≤ BitVec.toNat (gr s t rs1) % 64 ∧ BitVec.toNat (gr s t rs1) % 64 < 48 ∧ getF s (MBX_CFG_RCV (BitVec.toNat (gr s t rs1) % 64)) = t) ∧ BitVec.toNat (gr s t rs2) % 512 % 8 = 0 ∧ BitVec.toNat (gr s t rs2) % 512 + 40 ≤ 512 ∧ (box s (BitVec.toNat (gr s t rs1) % 64)).full = true) ∧
    (∃ (s : State) (t : Nat) (rd : Nat) (rs1 : Nat) (rs2 : Nat), issues s t (aw 209 rd rs1 rs2 0 0) = true ∧ (4 ≤ BitVec.toNat (gr s t rs1) % 64 ∧ BitVec.toNat (gr s t rs1) % 64 < 48 ∧ getF s (MBX_CFG_RCV (BitVec.toNat (gr s t rs1) % 64)) = t) ∧ BitVec.toNat (gr s t rs2) % 512 % 8 = 0 ∧ BitVec.toNat (gr s t rs2) % 512 + 40 ≤ 512 ∧ (box s (BitVec.toNat (gr s t rs1) % 64)).full = false) ∧
    (∃ (s : State) (t : Nat) (rs1 : Nat) (rs2 : Nat), issues s t (aw 210 0 rs1 rs2 0 0) = true ∧ (¬(4 ≤ BitVec.toNat (gr s t rs1) % 64 ∧ BitVec.toNat (gr s t rs1) % 64 < 48 ∧ getF s (MBX_CFG_RCV (BitVec.toNat (gr s t rs1) % 64)) = t))) ∧
    (∃ (s : State) (t : Nat) (rs1 : Nat) (rs2 : Nat), issues s t (aw 210 0 rs1 rs2 0 0) = true ∧ (4 ≤ BitVec.toNat (gr s t rs1) % 64 ∧ BitVec.toNat (gr s t rs1) % 64 < 48 ∧ getF s (MBX_CFG_RCV (BitVec.toNat (gr s t rs1) % 64)) = t)) ∧
    (∃ (s : State) (t : Nat) (rs1 : Nat), issues s t (aw 211 0 rs1 0 0 0) = true ∧ isSys s t = true) ∧
    (∃ (s : State) (t : Nat) (rs1 : Nat), issues s t (aw 211 0 rs1 0 0 0) = true ∧ isSys s t = false ∧ (¬(BitVec.toNat (gr s t rs1) % 512 % 8 = 0 ∧ BitVec.toNat (gr s t rs1) % 512 + 16 ≤ 512))) ∧
    (∃ (s : State) (t : Nat) (rs1 : Nat), issues s t (aw 211 0 rs1 0 0 0) = true ∧ isSys s t = false ∧ BitVec.toNat (gr s t rs1) % 512 % 8 = 0 ∧ BitVec.toNat (gr s t rs1) % 512 + 16 ≤ 512) :=
  ⟨⟨(issue (MailInstructions.mb (inM 3)) 1 (hostT [(2, 5), (3, 8)]) (aw 208 0 2 3 0 0)), 1, 2, 3, by decide +kernel, by decide +kernel⟩,
    ⟨(issue (MailInstructions.mb (inM 3)) 1 (hostT [(2, 6), (3, 4)]) (aw 208 0 2 3 0 0)), 1, 2, 3, by decide +kernel, by decide +kernel, by decide +kernel⟩,
    ⟨(issue (MailInstructions.mb (inM 3)) 1 (hostT [(2, 6), (3, 8)]) (aw 208 0 2 3 0 0)), 1, 2, 3, by decide +kernel, by decide +kernel, by decide +kernel, (by decide +kernel)⟩,
    ⟨(issue (MailInstructions.mb (inM 3)) 1 (hostT [(2, 6), (3, 8)]) (aw 209 1 2 3 0 0)), 1, 1, 2, 3, by decide +kernel, by decide +kernel⟩,
    ⟨(issue (MailInstructions.mb (inM 3)) 1 (hostT [(2, 5), (3, 4)]) (aw 209 1 2 3 0 0)), 1, 1, 2, 3, by decide +kernel, ⟨by decide +kernel, by decide +kernel, (by decide +kernel)⟩, by decide +kernel⟩,
    ⟨(issue (MailInstructions.boxes (inM 3)) 1 (hostT [(2, 5), (3, 8)]) (aw 209 1 2 3 0 0)), 1, 1, 2, 3, by decide +kernel, ⟨by decide +kernel, by decide +kernel, (by decide +kernel)⟩, by decide +kernel, by decide +kernel, by decide +kernel⟩,
    ⟨(issue (MailInstructions.mb (inM 3)) 1 (hostT [(2, 5), (3, 8)]) (aw 209 1 2 3 0 0)), 1, 1, 2, 3, by decide +kernel, ⟨by decide +kernel, by decide +kernel, (by decide +kernel)⟩, by decide +kernel, by decide +kernel, by decide +kernel⟩,
    ⟨(issue (MailInstructions.mb (inM 3)) 1 (hostT [(2, 6), (3, 8)]) (aw 210 0 2 3 0 0)), 1, 2, 3, by decide +kernel, by decide +kernel⟩,
    ⟨(issue (MailInstructions.mb (inM 3)) 1 (hostT [(2, 5), (3, 8)]) (aw 210 0 2 3 0 0)), 1, 2, 3, by decide +kernel, ⟨by decide +kernel, by decide +kernel, (by decide +kernel)⟩⟩,
    ⟨(issue (MailInstructions.mb (inM 3)) 1 (swT [(2, 5), (3, 8)]) (aw 211 0 3 0 0 0)), 1, 3, by decide +kernel, by decide +kernel⟩,
    ⟨(issue (MailInstructions.mb (inM 3)) 1 (hostT [(2, 5), (3, 4)]) (aw 211 0 3 0 0 0)), 1, 3, by decide +kernel, by decide +kernel, by decide +kernel⟩,
    ⟨(issue (MailInstructions.mb (inM 3)) 1 (hostT [(2, 5), (3, 8)]) (aw 211 0 3 0 0 0)), 1, 3, by decide +kernel, by decide +kernel, by decide +kernel, (by decide +kernel)⟩⟩

/-! ### ThreadEnds -/
/-- Meets the hypotheses of each clause of Obligations.ThreadEnds. -/
theorem witness_ThreadEnds :
    (∃ (s : State) (t : Nat) (rs1 : Nat) (rs2 : Nat), issues s t (aw 224 0 rs1 rs2 0 0) = true ∧ (th s t).locks ≠ []) ∧
    (∃ (s : State) (t : Nat) (rs1 : Nat) (rs2 : Nat), issues s t (aw 224 0 rs1 rs2 0 0) = true ∧ (th s t).locks = [] ∧ isHost t = true ∧ doneClass (BitVec.toNat (gr s t rs1) % 256) = false) ∧
    (∃ (s : State) (t : Nat) (rs1 : Nat) (rs2 : Nat), issues s t (aw 224 0 rs1 rs2 0 0) = true ∧ (th s t).locks = [] ∧ isHost t = true ∧ doneClass (BitVec.toNat (gr s t rs1) % 256) = true ∧ openTag (th s t) = none ∧ openXfer (th s t) = none) ∧
    (∃ (s : State) (t : Nat) (rs1 : Nat) (rs2 : Nat) (g : Nat), issues s t (aw 224 0 rs1 rs2 0 0) = true ∧ (th s t).locks = [] ∧ (¬(isHost t = true ∧ doneClass (BitVec.toNat (gr s t rs1) % 256) = false)) ∧ openTag (th s t) = some g) ∧
    (∃ (s : State) (t : Nat), issues s t (aw 232 0 0 0 0 0) = true ∧ heldBack s t = false) ∧
    (∃ (s : State) (t : Nat) (imm : Nat), imm < 256 ∧ issues s t (aw 239 0 0 0 0 imm) = true) ∧
    (∃ (s : State) (t : Nat), (th s t).st = TSt.running ∧ (th s t).cont = Cont.nothing ∧ pcOk (th s t).pc = false) ∧
    (∃ (s : State) (t : Nat), (th s t).st = TSt.running ∧ (th s t).cont = Cont.nothing ∧ pcOk (th s t).pc = true ∧ wordDefined (progWord s (th s t).pc) = false) ∧
    (∃ (s : State) (t : Nat) (flaw : Bool), (th s t).st = TSt.running ∧ (th s t).cont = Cont.nothing ∧ pcOk (th s t).pc = true ∧ wordDefined (progWord s (th s t).pc) = true ∧ flaw = true) :=
  ⟨⟨{ (issue (inM 3) 1 ({ (hostT [(2, 0), (3, 9)]) with pc := 0, tags := [], xfers := [], locks := [(3, 0)] }) (aw 224 0 2 3 0 0)) with prog := wrLe (wrLe [] 0 8 (aw 224 0 2 3 0 0)) 8 8 (aw 224 0 2 3 0 0) }, 1, 2, 3, by decide +kernel, by decide +kernel⟩,
    ⟨{ (issue (inM 3) 1 ({ (hostT [(2, 153), (3, 9)]) with pc := 0, tags := [], xfers := [], locks := [] }) (aw 224 0 2 3 0 0)) with prog := wrLe (wrLe [] 0 8 (aw 224 0 2 3 0 0)) 8 8 (aw 224 0 2 3 0 0) }, 1, 2, 3, by decide +kernel, by decide +kernel, by decide +kernel, (by decide +kernel)⟩,
    ⟨{ (issue (inM 3) 1 ({ (hostT [(2, 0), (3, 9)]) with pc := 0, tags := [], xfers := [], locks := [] }) (aw 224 0 2 3 0 0)) with prog := wrLe (wrLe [] 0 8 (aw 224 0 2 3 0 0)) 8 8 (aw 224 0 2 3 0 0) }, 1, 2, 3, by decide +kernel, by decide +kernel, by decide +kernel, (by decide +kernel), by decide +kernel, by decide +kernel⟩,
    ⟨{ (issue (inM 3) 1 ({ (hostT [(2, 0), (3, 9)]) with pc := 0, tags := [(3, { ended := false, outcome := 0, order := 0 })], xfers := [], locks := [] }) (aw 224 0 2 3 0 0)) with prog := wrLe (wrLe [] 0 8 (aw 224 0 2 3 0 0)) 8 8 (aw 224 0 2 3 0 0) }, 1, 2, 3, _, by decide +kernel, by decide +kernel, by decide +kernel, some_wit (by decide +kernel)⟩,
    ⟨{ (issue (inM 3) 1 ({ (hostT [(2, 0), (3, 9)]) with pc := 0, tags := [], xfers := [], locks := [] }) (aw 232 0 0 0 0 0)) with prog := wrLe (wrLe [] 0 8 (aw 232 0 0 0 0 0)) 8 8 (aw 232 0 0 0 0 0) }, 1, by decide +kernel, by decide +kernel⟩,
    ⟨{ (issue (inM 3) 1 ({ (hostT [(2, 0), (3, 9)]) with pc := 0, tags := [], xfers := [], locks := [] }) (aw 239 0 0 0 0 200)) with prog := wrLe (wrLe [] 0 8 (aw 239 0 0 0 0 200)) 8 8 (aw 239 0 0 0 0 200) }, 1, 200, by decide +kernel, by decide +kernel⟩,
    ⟨{ (issue (inM 3) 1 ({ (hostT [(2, 0), (3, 9)]) with pc := 4, tags := [], xfers := [], locks := [] }) (aw 224 0 2 3 0 0)) with prog := wrLe (wrLe [] 0 8 (aw 224 0 2 3 0 0)) 8 8 (aw 224 0 2 3 0 0) }, 1, by decide +kernel, by decide +kernel, by decide +kernel⟩,
    ⟨{ (issue (inM 3) 1 ({ (hostT [(2, 0), (3, 9)]) with pc := 0, tags := [], xfers := [], locks := [] }) 8608480567731124087) with prog := wrLe (wrLe [] 0 8 8608480567731124087) 8 8 8608480567731124087 }, 1, by decide +kernel, by decide +kernel, by decide +kernel, (by decide +kernel)⟩,
    ⟨{ (issue (inM 3) 1 ({ (hostT [(2, 0), (3, 9)]) with pc := 0, tags := [], xfers := [], locks := [] }) (aw 224 0 2 3 0 0)) with prog := wrLe (wrLe [] 0 8 (aw 224 0 2 3 0 0)) 8 8 (aw 224 0 2 3 0 0) }, 1, true, by decide +kernel, by decide +kernel, by decide +kernel, (by decide +kernel), by decide +kernel⟩⟩

/-! ### ThreadSlots -/
namespace ThreadSlots
def progT (b : State) : State := { b with prog := wrLe (wrLe (wrLe [] 0 8 (2 ^ 23 + 0x2000)) 8 8 (2 ^ 23 + 0x1000)) 0x800 8 (2 ^ 23 + 0x3000 + 3 * 2 ^ 24 + 7 * 2 ^ 32) }
def bnd (b : State) : State := { b with ret := { b.ret with bind := [(1, ⟨true, 3, false, 0, [1, 2]⟩), (2, ⟨true, 4, false, 0, [1, 2]⟩)] } }
def lat (b : State) (c blk : Nat) : State := setCx b c { Ctx.reset with block := blk, seq := 1 }
def wh (b : State) (st : TSt) (t : Nat) (x : Thread) : State := setTh b t { x with st := st }
def t : List Nat := [1, 4096, 4097, 2]
end ThreadSlots
/-- Meets the hypotheses of each clause of Obligations.ThreadSlots. -/
theorem witness_ThreadSlots :
    (∃ (s : State) (t : Nat), (th s t).st = TSt.armed ∧ t < 4096 ∧ anvilMode s = true) ∧
    (∃ (s : State) (t : Nat), (th s t).st = TSt.armed ∧ 4096 ≤ t ∧ t < 4608 ∧ anvilMode s = true ∧ s.d.hold = 0) ∧
    (∃ (s : State) (t : Nat) (q : Nat), q < 4 ∧ anvilMode s = true ∧ (inQuad s q true TSt.running).length + (inQuad s q false TSt.running).length < 64 ∧ slotTo s q = some t ∧ (th s t).cont = Cont.nothing) ∧
    (∃ (s : State) (t : Nat), (th s t).st = TSt.running ∧ 64 * getF s ANV_TMO_QUANTUM ≤ (th s t).issued ∧ inQuad s (quadOf t) (isHost t) TSt.ready ≠ [] ∧ heldBack s t = false) :=
  ⟨⟨((ThreadSlots.wh (ThreadSlots.lat (ThreadSlots.bnd (ThreadSlots.progT (inM 3))) 1 (1 + 5 * 2 ^ 64)) TSt.armed 1 Thread.idle)), 1, by decide +kernel, by decide +kernel, by decide +kernel⟩,
    ⟨((ThreadSlots.wh (ThreadSlots.bnd (ThreadSlots.progT (inM 3))) TSt.armed 4096 Thread.idle)), 4096, by decide +kernel, by decide +kernel, by decide +kernel, (by decide +kernel), by decide +kernel⟩,
    ⟨((ThreadSlots.wh (ThreadSlots.bnd (ThreadSlots.progT (inM 3))) TSt.ready 1 ({ (hostT []) with readyAt := 4 }))), 1, 0, by decide +kernel, by decide +kernel, by decide +kernel, (by decide +kernel), by decide +kernel⟩,
    ⟨((ThreadSlots.wh (ThreadSlots.wh (ThreadSlots.bnd (ThreadSlots.progT (inM 3))) TSt.running 1 ({ (hostT []) with issued := 64 * 300 })) TSt.ready 2 ({ (hostT []) with readyAt := 3 }))), 1, by decide +kernel, by decide +kernel, by decide +kernel, (by decide +kernel)⟩⟩

/-! ### ThreadBounds -/
namespace ThreadBounds
def bnd (b : State) : State := { b with ret := { b.ret with bind := [(1, ⟨true, 3, false, 0, [1, 2]⟩), (2, ⟨true, 4, false, 0, [1, 2]⟩)] } }
def lat (b : State) (c blk : Nat) : State := setCx b c { Ctx.reset with block := blk, seq := 1 }
def wh (b : State) (st : TSt) (t : Nat) (x : Thread) : State := setTh b t { x with st := st }
def t0 (n : Nat) (b : State) : State := tm n b
end ThreadBounds
/-- Meets the hypotheses of each clause of Obligations.ThreadBounds. -/
theorem witness_ThreadBounds :
    (∃ (s : State) (t : Nat) (el : Elapse), (th s t).st = TSt.waiting ∧ 1000000 * getF s ANV_TMO_WAIT_MS < (elapse s el).clk.refNs - (th s t).sinceRef) ∧
    (∃ (s : State) (t : Nat) (el : Elapse), ((th s t).st = TSt.ready ∨ (th s t).st = TSt.running ∨ (th s t).st = TSt.waiting ∨ (th s t).st = TSt.parked) ∧ (∃ l ∈ (th s t).locks, 1000000 * getF s ANV_TMO_LOCK_MS < (elapse s el).clk.refNs - l.2)) ∧
    (∃ (s : State) (t : Nat), (th s t).st = TSt.running ∧ 65536 * getF s ANV_TMO_RUNLIM ≤ (th s t).runIssued) ∧
    (∃ (s : State) (t : Nat) (el : Elapse), (th s t).st = TSt.parked ∧ (th s t).why = Why.time ∧ t ∉ s.d.held ∧ (th s t).arg ≤ (elapse s el).clk.now ∧ heldBack (elapse s el) t = false) ∧
    (∃ (s : State) (t : Nat), (th s t).st = TSt.faulted ∧ mustWait s t = false ∧ isHost t = true ∧ inParts s t = false) ∧
    (∃ (s : State) (t : Nat) (e : Ending), isHost t = true ∧ (th s t).st = TSt.done ∧ (th s t).ending = some e ∧ mustWait s t = false ∧ inParts s t = false) :=
  ⟨⟨ThreadBounds.wh (setF (setF (ThreadBounds.lat (ThreadBounds.t0 1000000000000 (ThreadBounds.bnd (inM 3))) 1 119) ANV_TMO_WAIT_MS 10) ANV_TMO_LOCK_MS 10) TSt.waiting 1 ({ (hostT []) with why := Why.dma, arg := 5, sinceRef := 0, cont := Cont.nothing, locks := [], runIssued := 65536 * 70000, ending := some { cls := 19, detail := 2, offset := none, result := 0 }, faultCls := 2 }), 1, { ns := 0, corr := 0 }, by decide +kernel, by decide +kernel⟩,
    ⟨ThreadBounds.wh (setF (setF (ThreadBounds.lat (ThreadBounds.t0 1000000000000 (ThreadBounds.bnd (inM 3))) 1 119) ANV_TMO_WAIT_MS 10) ANV_TMO_LOCK_MS 10) TSt.waiting 1 ({ (hostT []) with why := Why.dma, arg := 5, sinceRef := 0, cont := Cont.nothing, locks := [(4, 0)], runIssued := 65536 * 70000, ending := some { cls := 19, detail := 2, offset := none, result := 0 }, faultCls := 2 }), 1, { ns := 0, corr := 0 }, by decide +kernel, by decide +kernel⟩,
    ⟨ThreadBounds.wh (setF (setF (ThreadBounds.lat (ThreadBounds.t0 1000000000000 (ThreadBounds.bnd (inM 3))) 1 119) ANV_TMO_WAIT_MS 10) ANV_TMO_LOCK_MS 10) TSt.running 1 ({ (hostT []) with why := Why.dma, arg := 5, sinceRef := 0, cont := Cont.nothing, locks := [], runIssued := 65536 * 70000, ending := some { cls := 19, detail := 2, offset := none, result := 0 }, faultCls := 2 }), 1, by decide +kernel, by decide +kernel⟩,
    ⟨ThreadBounds.wh (setF (setF (ThreadBounds.lat (ThreadBounds.t0 1000000000000 (ThreadBounds.bnd (inM 3))) 1 119) ANV_TMO_WAIT_MS 10) ANV_TMO_LOCK_MS 10) TSt.parked 1 ({ (hostT []) with why := Why.time, arg := 5, sinceRef := 0, cont := Cont.nothing, locks := [], runIssued := 65536 * 70000, ending := some { cls := 19, detail := 2, offset := none, result := 0 }, faultCls := 2 }), 1, { ns := 0, corr := 0 }, by decide +kernel, by decide +kernel, by decide +kernel, (by decide +kernel), by decide +kernel⟩,
    ⟨ThreadBounds.wh (setF (setF (ThreadBounds.lat (ThreadBounds.t0 1000000000000 (ThreadBounds.bnd (inM 3))) 1 119) ANV_TMO_WAIT_MS 10) ANV_TMO_LOCK_MS 10) TSt.faulted 1 ({ (hostT []) with why := Why.dma, arg := 5, sinceRef := 0, cont := Cont.nothing, locks := [], runIssued := 65536 * 70000, ending := some { cls := 19, detail := 2, offset := none, result := 0 }, faultCls := 2 }), 1, by decide +kernel, by decide +kernel, by decide +kernel, (by decide +kernel)⟩,
    ⟨ThreadBounds.wh (setF (setF (ThreadBounds.lat (ThreadBounds.t0 1000000000000 (ThreadBounds.bnd (inM 3))) 1 119) ANV_TMO_WAIT_MS 10) ANV_TMO_LOCK_MS 10) TSt.done 1 ({ (hostT []) with why := Why.dma, arg := 5, sinceRef := 0, cont := Cont.nothing, locks := [], runIssued := 65536 * 70000, ending := some { cls := 19, detail := 2, offset := none, result := 0 }, faultCls := 2 }), 1, _, by decide +kernel, by decide +kernel, some_wit (by decide +kernel), by decide +kernel, by decide +kernel⟩⟩

/-! ### ChronometerTick -/
/-- Meets the hypotheses of each clause of Obligations.ChronometerTick. -/
theorem witness_ChronometerTick :
    (∃ (s : State) (hi : Nat) (lo : Nat), (¬(mode s ≠ mOff ∧ getF s CHR_CTL_TICK_EN = 1 ∧ 100 ≤ hi ∧ 100 ≤ lo))) ∧
    (∃ (s : State) (hi : Nat) (lo : Nat) (el : Elapse) (l : Nat), (mode s ≠ mOff ∧ getF s CHR_CTL_TICK_EN = 1 ∧ 100 ≤ hi ∧ 100 ≤ lo) ∧ (elapse s { el with ns := el.ns + if getF s CHR_CTL_TICK_EDGE = 1 then hi else 0 }).clk.anyNext = false ∧ (elapse s { el with ns := el.ns + if getF s CHR_CTL_TICK_EDGE = 1 then hi else 0 }).clk.lastTick = some l ∧ (¬(9 * (1000 * getF s CHR_TICK_PER_PERIOD_US) ≤ 10 * ((elapse s { el with ns := el.ns + if getF s CHR_CTL_TICK_EDGE = 1 then hi else 0 }).clk.now - l) ∧ 10 * ((elapse s { el with ns := el.ns + if getF s CHR_CTL_TICK_EDGE = 1 then hi else 0 }).clk.now - l) ≤ 11 * (1000 * getF s CHR_TICK_PER_PERIOD_US)))) ∧
    (∃ (s : State) (hi : Nat) (lo : Nat) (el : Elapse) (q : SetPend), (mode s ≠ mOff ∧ getF s CHR_CTL_TICK_EN = 1 ∧ 100 ≤ hi ∧ 100 ≤ lo) ∧ (((elapse s { el with ns := el.ns + if getF s CHR_CTL_TICK_EDGE = 1 then hi else 0 }).clk.anyNext = true ∨ (elapse s { el with ns := el.ns + if getF s CHR_CTL_TICK_EDGE = 1 then hi else 0 }).clk.lastTick = none) ∨ ∃ (l : Nat), (elapse s { el with ns := el.ns + if getF s CHR_CTL_TICK_EDGE = 1 then hi else 0 }).clk.lastTick = some l ∧ 9 * (1000 * getF s CHR_TICK_PER_PERIOD_US) ≤ 10 * ((elapse s { el with ns := el.ns + if getF s CHR_CTL_TICK_EDGE = 1 then hi else 0 }).clk.now - l) ∧ 10 * ((elapse s { el with ns := el.ns + if getF s CHR_CTL_TICK_EDGE = 1 then hi else 0 }).clk.now - l) ≤ 11 * (1000 * getF s CHR_TICK_PER_PERIOD_US)) ∧ (elapse s { el with ns := el.ns + if getF s CHR_CTL_TICK_EDGE = 1 then hi else 0 }).clk.pend = some q) ∧
    (∃ (s : State) (hi : Nat) (lo : Nat) (el : Elapse), (mode s ≠ mOff ∧ getF s CHR_CTL_TICK_EN = 1 ∧ 100 ≤ hi ∧ 100 ≤ lo) ∧ (((elapse s { el with ns := el.ns + if getF s CHR_CTL_TICK_EDGE = 1 then hi else 0 }).clk.anyNext = true ∨ (elapse s { el with ns := el.ns + if getF s CHR_CTL_TICK_EDGE = 1 then hi else 0 }).clk.lastTick = none) ∨ ∃ (l : Nat), (elapse s { el with ns := el.ns + if getF s CHR_CTL_TICK_EDGE = 1 then hi else 0 }).clk.lastTick = some l ∧ 9 * (1000 * getF s CHR_TICK_PER_PERIOD_US) ≤ 10 * ((elapse s { el with ns := el.ns + if getF s CHR_CTL_TICK_EDGE = 1 then hi else 0 }).clk.now - l) ∧ 10 * ((elapse s { el with ns := el.ns + if getF s CHR_CTL_TICK_EDGE = 1 then hi else 0 }).clk.now - l) ≤ 11 * (1000 * getF s CHR_TICK_PER_PERIOD_US)) ∧ (elapse s { el with ns := el.ns + if getF s CHR_CTL_TICK_EDGE = 1 then hi else 0 }).clk.pend = none ∧ getF s CHR_STAT_DR = 0 ∧ (¬((elapse s { el with ns := el.ns + if getF s CHR_CTL_TICK_EDGE = 1 then hi else 0 }).clk.fromSet = true ∧ (elapse s { el with ns := el.ns + if getF s CHR_CTL_TICK_EDGE = 1 then hi else 0 }).clk.slewRem ≠ 0))) ∧
    (∃ (s : State) (hi : Nat) (lo : Nat) (el : Elapse) (l : Nat), (mode s ≠ mOff ∧ getF s CHR_CTL_TICK_EN = 1 ∧ 100 ≤ hi ∧ 100 ≤ lo) ∧ (elapse s { el with ns := el.ns + if getF s CHR_CTL_TICK_EDGE = 1 then hi else 0 }).clk.anyNext = false ∧ (elapse s { el with ns := el.ns + if getF s CHR_CTL_TICK_EDGE = 1 then hi else 0 }).clk.lastTick = some l ∧ (9 * (1000 * getF s CHR_TICK_PER_PERIOD_US) ≤ 10 * ((elapse s { el with ns := el.ns + if getF s CHR_CTL_TICK_EDGE = 1 then hi else 0 }).clk.now - l) ∧ 10 * ((elapse s { el with ns := el.ns + if getF s CHR_CTL_TICK_EDGE = 1 then hi else 0 }).clk.now - l) ≤ 11 * (1000 * getF s CHR_TICK_PER_PERIOD_US)) ∧ (elapse s { el with ns := el.ns + if getF s CHR_CTL_TICK_EDGE = 1 then hi else 0 }).clk.pend = none ∧ getF s CHR_STAT_DR = 1) :=
  ⟨⟨(fun (b : State) => have b := setF (setF b CHR_CTL_TICK_EN 0) CHR_STAT_DR 0; { b with clk := { (b.clk) with now := 1000000000 + 3500, refNs := 1000000000, slewRem := 5000, fromSet := false, lastTick := none, anyNext := true, pend := none } }) (inM 3), 99, 99, by decide +kernel⟩,
    ⟨(fun (b : State) => have b := setF (setF b CHR_CTL_TICK_EN 1) CHR_STAT_DR 0; { b with clk := { (b.clk) with now := 1000000000 + 3500, refNs := 1000000000, slewRem := 5000, fromSet := false, lastTick := (some 1000000000), anyNext := false, pend := none } }) (inM 3), 100, 100, { ns := 1000, corr := 0 }, _, ⟨by decide +kernel, by decide +kernel, by decide +kernel, (by decide +kernel)⟩, by decide +kernel, some_wit (by decide +kernel), by decide +kernel⟩,
    ⟨(fun (b : State) => have b := setF (setF b CHR_CTL_TICK_EN 1) CHR_STAT_DR 0; { b with clk := { (b.clk) with now := 1000000000 + 3500, refNs := 1000000000, slewRem := 5000, fromSet := false, lastTick := none, anyNext := true, pend := some { t := 777000000, acceptedAt := 5, edge := 6, req := 9999 } } }) (inM 3), 100, 100, { ns := 1000, corr := 0 }, _, ⟨by decide +kernel, by decide +kernel, by decide +kernel, (by decide +kernel)⟩, by decide +kernel, some_wit (by decide +kernel)⟩,
    ⟨(fun (b : State) => have b := setF (setF b CHR_CTL_TICK_EN 1) CHR_STAT_DR 0; { b with clk := { (b.clk) with now := 1000000000 + 3500, refNs := 1000000000, slewRem := 5000, fromSet := false, lastTick := none, anyNext := true, pend := none } }) (inM 3), 100, 100, { ns := 1000, corr := 0 }, ⟨by decide +kernel, by decide +kernel, by decide +kernel, (by decide +kernel)⟩, by decide +kernel, by decide +kernel, by decide +kernel, (by decide +kernel)⟩,
    ⟨(fun (b : State) => have b := setF (setF b CHR_CTL_TICK_EN 1) CHR_STAT_DR 1; { b with clk := { (b.clk) with now := 1000000000 + 3500, refNs := 1000000000, slewRem := 5000, fromSet := false, lastTick := (some 0), anyNext := false, pend := none } }) (inM 3), 100, 100, { ns := 1000, corr := 0 }, _, ⟨by decide +kernel, by decide +kernel, by decide +kernel, (by decide +kernel)⟩, by decide +kernel, some_wit (by decide +kernel), ⟨by decide +kernel, by decide +kernel⟩, by decide +kernel, (by decide +kernel)⟩⟩

/-! ### ChronometerEvents -/
/-- Meets the hypotheses of each clause of Obligations.ChronometerEvents. -/
theorem witness_ChronometerEvents :
    (∃ (s : State) (el : Elapse), mode s ≠ mOff ∧ (mode s ≠ mKindle ∨ 5 ≤ getF s HELM_KINDLE_STEP) ∧ getF s CHR_STAT_DR = 0 ∧ (elapse s el).clk.pend = none ∧ 3000 * getF s CHR_TICK_PER_PERIOD_US ≤ 2 * ((elapse s el).clk.now - (elapse s el).clk.lastTick.getD (elapse s el).clk.tickBase)) ∧
    (∃ (s : State) (el : Elapse), (elapse s el).clk.slewRem.natAbs < 1000) ∧
    (∃ (s : State) (b : Bool), regOk s 1 = true ∧ b = true) ∧
    (∃ (s : State) (b : Bool), regOk s 1 = true ∧ b = false ∧ s.clk.pend = none) ∧
    (∃ (s : State) (el : Elapse), mode s ≠ mOff ∧ (elapse s el).clk.scanMs < (elapse s el).clk.now / 1000000 ∧ dueNow (elapse s el) ≠ []) ∧
    (∃ (s : State) (el : Elapse), mode s ≠ mOff ∧ (elapse s el).clk.scanMs < (elapse s el).clk.now / 1000000 ∧ dueNow (elapse s el) = []) :=
  ⟨⟨(fun (b : State) => have b := setF b CHR_STAT_DR 0; { b with clk := { (b.clk) with now := 999999, slewRem := 500, lastTick := none, due := [], scanAt := 100000000 } }) (inM 3), { ns := 3000000000, corr := 0 }, by decide +kernel, by decide +kernel, by decide +kernel, (by decide +kernel), by decide +kernel⟩,
    ⟨(fun (b : State) => have b := setF b CHR_STAT_DR 0; { b with clk := { (b.clk) with now := 999999, slewRem := 500, lastTick := none, due := [], scanAt := 100000000 } }) (inM 3), { ns := 0, corr := 0 }, by decide +kernel⟩,
    ⟨(fun (b : State) => have b := setF b CHR_STAT_DR 0; { b with clk := { (b.clk) with now := 999999, slewRem := 500, lastTick := none, due := [], scanAt := 100000000 } }) (inM 3), true, by decide +kernel, by decide +kernel⟩,
    ⟨(fun (b : State) => have b := setF b CHR_STAT_DR 0; { b with clk := { (b.clk) with now := 999999, slewRem := 500, lastTick := none, due := [], scanAt := 100000000 } }) (inM 3), false, by decide +kernel, by decide +kernel, by decide +kernel⟩,
    ⟨(fun (b : State) => have b := setF b CHR_STAT_DR 0; { b with clk := { (b.clk) with now := 999999, slewRem := 500, lastTick := none, due := [(1, 0)], scanAt := 100000000 } }) (inM 3), { ns := 1000000, corr := 0 }, by decide +kernel, by decide +kernel, by decide +kernel⟩,
    ⟨(fun (b : State) => have b := setF b CHR_STAT_DR 0; { b with clk := { (b.clk) with now := 999999, slewRem := 500, lastTick := none, due := [], scanAt := 100000000 } }) (inM 3), { ns := 1000000, corr := 0 }, by decide +kernel, by decide +kernel, by decide +kernel⟩⟩

/-! ### AlmanacRows -/
/-- Meets the hypotheses of each clause of Obligations.AlmanacRows. -/
theorem witness_AlmanacRows :
    (∃ (s : State) (i : Nat) (b : Nat), nextRefill s = some (i, b)) ∧
    (∃ (s : State), nextRefill s = none) ∧
    (∃ (s : State) (k : Nat) (i : Nat) (rest : List (Nat × Nat)), dueNow s = (k, i) :: rest ∧ Option.all (fun (x : Nat × Nat) => decide (s.clk.scanAt < x.2)) (nextRefill s) = true ∧ k = 1) ∧
    (∃ (s : State) (k : Nat) (i : Nat) (rest : List (Nat × Nat)), dueNow s = (k, i) :: rest ∧ Option.all (fun (x : Nat × Nat) => decide (s.clk.scanAt < x.2)) (nextRefill s) = true ∧ k = 3) ∧
    (∃ (s : State) (k : Nat) (i : Nat) (rest : List (Nat × Nat)), dueNow s = (k, i) :: rest ∧ Option.all (fun (x : Nat × Nat) => decide (s.clk.scanAt < x.2)) (nextRefill s) = true ∧ k = 4) ∧
    (∃ (s : State) (k : Nat) (i : Nat) (rest : List (Nat × Nat)), dueNow s = (k, i) :: rest ∧ Option.all (fun (x : Nat × Nat) => decide (s.clk.scanAt < x.2)) (nextRefill s) = true ∧ k = 5) ∧
    (∃ (s : State) (k : Nat) (i : Nat) (rest : List (Nat × Nat)), dueNow s = (k, i) :: rest ∧ Option.all (fun (x : Nat × Nat) => decide (s.clk.scanAt < x.2)) (nextRefill s) = true ∧ k = 6) ∧
    (∃ (s : State) (k : Nat) (i : Nat) (rest : List (Nat × Nat)), dueNow s = (k, i) :: rest ∧ Option.all (fun (x : Nat × Nat) => decide (s.clk.scanAt < x.2)) (nextRefill s) = true ∧ k = 7) ∧
    (∃ (s : State) (k : Nat) (i : Nat) (rest : List (Nat × Nat)), dueNow s = (k, i) :: rest ∧ Option.all (fun (x : Nat × Nat) => decide (s.clk.scanAt < x.2)) (nextRefill s) = true ∧ k = 8 ∧ mayRestart s = true) ∧
    (∃ (s : State) (k : Nat) (i : Nat) (rest : List (Nat × Nat)), dueNow s = (k, i) :: rest ∧ Option.all (fun (x : Nat × Nat) => decide (s.clk.scanAt < x.2)) (nextRefill s) = true ∧ k = 8 ∧ mayRestart s = false) ∧
    (∃ (s : State) (k : Nat) (i : Nat) (rest : List (Nat × Nat)), dueNow s = (k, i) :: rest ∧ Option.all (fun (x : Nat × Nat) => decide (s.clk.scanAt < x.2)) (nextRefill s) = true ∧ k = 9) ∧
    (∃ (s : State) (k : Nat) (i : Nat) (rest : List (Nat × Nat)), dueNow s = (k, i) :: rest ∧ Option.all (fun (x : Nat × Nat) => decide (s.clk.scanAt < x.2)) (nextRefill s) = true ∧ k ≠ 1) :=
  ⟨⟨(fun (b : State) => { b with ret := { (b.ret) with alm := mput b.ret.alm 200 { due := 100, period := 7000, arg := 5, kind := 0, rank := 0, en := true, needset := false, fired := false, count := 4 } }, clk := { (b.clk) with now := 5000000, due := [(0, 200), (2, 1)], scanAt := 5000000 } }) (inM 3), _, _, some_wit (by decide +kernel)⟩,
    ⟨(fun (b : State) => { b with ret := { (b.ret) with alm := mput b.ret.alm 200 { due := 100, period := 7000, arg := 5, kind := 0, rank := 0, en := true, needset := false, fired := false, count := 4 } }, clk := { (b.clk) with now := 5000000, due := [(0, 200), (2, 1)], scanAt := 5000000 } }) ({ (inM 3) with ret := { ((inM 3).ret) with alm := [] }, x := { ((inM 3).x) with change := some { kind := 4, src := 9998, step := 2 } } }), by decide +kernel⟩,
    ⟨(fun (b : State) => { b with ret := { (b.ret) with alm := mput b.ret.alm 200 { due := 100, period := 7000, arg := 5, kind := 1, rank := 0, en := true, needset := false, fired := false, count := 4 } }, clk := { (b.clk) with now := 5000000, due := [(1, 200), (2, 1)], scanAt := 5000000 } }) ({ (inM 3) with ret := { ((inM 3).ret) with alm := [] }, x := { ((inM 3).x) with change := some { kind := 4, src := 9998, step := 2 } } }), _, _, _, cons_wit (by decide +kernel), by decide +kernel, by decide +kernel⟩,
    ⟨(fun (b : State) => { b with ret := { (b.ret) with alm := mput b.ret.alm 200 { due := 100, period := 7000, arg := 5, kind := 3, rank := 0, en := true, needset := false, fired := false, count := 4 } }, clk := { (b.clk) with now := 5000000, due := [(3, 200), (2, 1)], scanAt := 5000000 } }) ({ (inM 3) with ret := { ((inM 3).ret) with alm := [] }, x := { ((inM 3).x) with change := some { kind := 4, src := 9998, step := 2 } } }), _, _, _, cons_wit (by decide +kernel), by decide +kernel, by decide +kernel⟩,
    ⟨(fun (b : State) => { b with ret := { (b.ret) with alm := mput b.ret.alm 200 { due := 100, period := 7000, arg := 5, kind := 4, rank := 0, en := true, needset := false, fired := false, count := 4 } }, clk := { (b.clk) with now := 5000000, due := [(4, 200), (2, 1)], scanAt := 5000000 } }) ({ (inM 3) with ret := { ((inM 3).ret) with alm := [] }, x := { ((inM 3).x) with change := some { kind := 4, src := 9998, step := 2 } } }), _, _, _, cons_wit (by decide +kernel), by decide +kernel, by decide +kernel⟩,
    ⟨(fun (b : State) => { b with ret := { (b.ret) with alm := mput b.ret.alm 200 { due := 100, period := 7000, arg := 5, kind := 5, rank := 0, en := true, needset := false, fired := false, count := 4 } }, clk := { (b.clk) with now := 5000000, due := [(5, 200), (2, 1)], scanAt := 5000000 } }) ({ (inM 3) with ret := { ((inM 3).ret) with alm := [] }, x := { ((inM 3).x) with change := some { kind := 4, src := 9998, step := 2 } } }), _, _, _, cons_wit (by decide +kernel), by decide +kernel, by decide +kernel⟩,
    ⟨(fun (b : State) => { b with ret := { (b.ret) with alm := mput b.ret.alm 200 { due := 100, period := 7000, arg := 5, kind := 6, rank := 0, en := true, needset := false, fired := false, count := 4 } }, clk := { (b.clk) with now := 5000000, due := [(6, 200), (2, 1)], scanAt := 5000000 } }) ({ (inM 3) with ret := { ((inM 3).ret) with alm := [] }, x := { ((inM 3).x) with change := some { kind := 4, src := 9998, step := 2 } } }), _, _, _, cons_wit (by decide +kernel), by decide +kernel, by decide +kernel⟩,
    ⟨(fun (b : State) => { b with ret := { (b.ret) with alm := mput b.ret.alm 200 { due := 100, period := 7000, arg := 5, kind := 7, rank := 0, en := true, needset := false, fired := false, count := 4 } }, clk := { (b.clk) with now := 5000000, due := [(7, 200), (2, 1)], scanAt := 5000000 } }) ({ (inM 3) with ret := { ((inM 3).ret) with alm := [] }, x := { ((inM 3).x) with change := some { kind := 4, src := 9998, step := 2 } } }), _, _, _, cons_wit (by decide +kernel), by decide +kernel, by decide +kernel⟩,
    ⟨(fun (b : State) => { b with ret := { (b.ret) with alm := mput b.ret.alm 200 { due := 100, period := 7000, arg := 5, kind := 8, rank := 0, en := true, needset := false, fired := false, count := 4 } }, clk := { (b.clk) with now := 5000000, due := [(8, 200), (2, 1)], scanAt := 5000000 } }) ({ (inM 3) with ret := { ((inM 3).ret) with alm := [] } }), _, _, _, cons_wit (by decide +kernel), by decide +kernel, by decide +kernel, by decide +kernel⟩,
    ⟨(fun (b : State) => { b with ret := { (b.ret) with alm := mput b.ret.alm 200 { due := 100, period := 7000, arg := 5, kind := 8, rank := 0, en := true, needset := false, fired := false, count := 4 } }, clk := { (b.clk) with now := 5000000, due := [(8, 200), (2, 1)], scanAt := 5000000 } }) ({ (inM 3) with ret := { ((inM 3).ret) with alm := [] }, x := { ((inM 3).x) with change := some { kind := 4, src := 9998, step := 2 } } }), _, _, _, cons_wit (by decide +kernel), by decide +kernel, by decide +kernel, by decide +kernel⟩,
    ⟨(fun (b : State) => { b with ret := { (b.ret) with alm := mput b.ret.alm 200 { due := 100, period := 7000, arg := 5, kind := 9, rank := 0, en := true, needset := false, fired := false, count := 4 } }, clk := { (b.clk) with now := 5000000, due := [(9, 200), (2, 1)], scanAt := 5000000 } }) ({ (inM 3) with ret := { ((inM 3).ret) with alm := [] }, x := { ((inM 3).x) with change := some { kind := 4, src := 9998, step := 2 } } }), _, _, _, cons_wit (by decide +kernel), by decide +kernel, by decide +kernel⟩,
    ⟨(fun (b : State) => { b with ret := { (b.ret) with alm := mput b.ret.alm 200 { due := 100, period := 7000, arg := 5, kind := 0, rank := 0, en := true, needset := false, fired := false, count := 4 } }, clk := { (b.clk) with now := 5000000, due := [(0, 200), (2, 1)], scanAt := 5000000 } }) ({ (inM 3) with ret := { ((inM 3).ret) with alm := [] }, x := { ((inM 3).x) with change := some { kind := 4, src := 9998, step := 2 } } }), _, _, _, cons_wit (by decide +kernel), by decide +kernel, by decide +kernel⟩⟩

/-! ### PowerAndReset -/
/-- Meets the hypotheses of each clause of Obligations.PowerAndReset. -/
theorem witness_PowerAndReset :
    (∃ (s : State) (vin : Nat), 4500 ≤ vin ∧ (mode s = mOff ∨ mode s = mKindle ∧ s.boot.begun = false) ∧ s.tap ≤ 2) ∧
    (∃ (s : State) (vin : Nat), (vin < 4500 ∨ 2 < s.tap)) ∧
    (∃ (s : State) (vin : Nat), vin < 4200 ∧ mode s ≠ mOff) ∧
    (∃ (vin : Nat), 4200 ≤ vin) ∧
    (∃ (s : State) (ns : Nat) (taken : Bool), (10000 ≤ ns ∨ 100 ≤ ns ∧ taken = true) ∧ mode s ≠ mOff) ∧
    (∃ (ns : Nat), ns < 100) ∧
    (∃ (s : State) (cut : Bool), cut = true ∧ mode s ≠ mOff ∧ (¬(mode s = mKindle ∧ getF s HELM_KINDLE_STEP = 3))) :=
  ⟨⟨inM 0, 4500, by decide +kernel, by decide +kernel, by decide +kernel⟩,
    ⟨inM 3, 0, by decide +kernel⟩,
    ⟨inM 3, 0, by decide +kernel, by decide +kernel⟩,
    ⟨4200, by decide +kernel⟩,
    ⟨inM 3, 100, true, by decide +kernel, by decide +kernel⟩,
    ⟨0, by decide +kernel⟩,
    ⟨inM 3, true, by decide +kernel, by decide +kernel, by decide +kernel⟩⟩

/-! ### KindleFirstSteps -/
namespace KindleFirstSteps
def k (n : Nat) : State := storeWr (storeWr (setF { inM 1 with boot := { (inM 1).boot with pairEn := n % 2 == 0 } } HELM_KINDLE_STEP n) (activeSlot + 32) (List.replicate 8 0)) (stagingSlot + 32) (List.replicate 8 0)
end KindleFirstSteps
/-- Meets the hypotheses of each clause of Obligations.KindleFirstSteps. -/
theorem witness_KindleFirstSteps :
    (∃ (s : State), atStep s 3 = true) ∧
    (∃ (s : State) (fault : Bool), atStep s 4 = true ∧ fault = true) ∧
    (∃ (s : State) (fault : Bool), atStep s 4 = true ∧ fault = false) ∧
    (∃ (s : State), atStep s 5 = true) ∧
    (∃ (s : State) (ownIn : Bool), atStep s 6 = true ∧ s.boot.pairEn = true ∧ (getF s PAIR_CFG_ROLE = 1 ∨ ownIn = true)) ∧
    (∃ (s : State) (ownIn : Bool), atStep s 6 = true ∧ (¬(s.boot.pairEn = true ∧ (getF s PAIR_CFG_ROLE = 1 ∨ ownIn = true)))) ∧
    (∃ (s : State) (in1 : Bool) (in2 : Bool) (el : Elapse) (a : Acquire), (elapse s el).x.pair.acq = some a ∧ a.at_ = 0 ∧ in1 = false ∧ in2 = false ∧ a.why = 1) ∧
    (∃ (s : State) (in1 : Bool) (in2 : Bool) (el : Elapse) (a : Acquire), (elapse s el).x.pair.acq = some a ∧ a.at_ = 0 ∧ in1 = false ∧ in2 = true) ∧
    (∃ (s : State) (el : Elapse) (a : Acquire), (elapse s el).x.pair.acq = some a ∧ a.at_ ≠ 0 ∧ a.at_ ≤ (elapse s el).clk.refNs) :=
  ⟨⟨KindleFirstSteps.k 3, by decide +kernel⟩,
    ⟨KindleFirstSteps.k 4, true, by decide +kernel, by decide +kernel⟩,
    ⟨KindleFirstSteps.k 4, false, by decide +kernel, by decide +kernel⟩,
    ⟨KindleFirstSteps.k 5, by decide +kernel⟩,
    ⟨KindleFirstSteps.k 6, true, by decide +kernel, by decide +kernel, by decide +kernel⟩,
    ⟨KindleFirstSteps.k 6, false, by decide +kernel, by decide +kernel⟩,
    ⟨{ (KindleFirstSteps.k 3) with x := { ((KindleFirstSteps.k 3).x) with pair := { ((KindleFirstSteps.k 3).x.pair) with acq := some { why := 1, at_ := 0, retry := false } } } }, false, false, { ns := 1000, corr := 0 }, _, some_wit (by decide +kernel), by decide +kernel, by decide +kernel, by decide +kernel, (by decide +kernel)⟩,
    ⟨{ (KindleFirstSteps.k 3) with x := { ((KindleFirstSteps.k 3).x) with pair := { ((KindleFirstSteps.k 3).x.pair) with acq := some { why := 1, at_ := 0, retry := false } } } }, false, true, { ns := 1000, corr := 0 }, _, some_wit (by decide +kernel), by decide +kernel, by decide +kernel, by decide +kernel⟩,
    ⟨{ (KindleFirstSteps.k 3) with x := { ((KindleFirstSteps.k 3).x) with pair := { ((KindleFirstSteps.k 3).x.pair) with acq := some { why := 1, at_ := 500, retry := true } } } }, { ns := 1000, corr := 0 }, _, some_wit (by decide +kernel), by decide +kernel, by decide +kernel⟩⟩

/-! ### KindleLastSteps -/
namespace KindleLastSteps
def kk (n r : Nat) : State := setF (setF (setF (inM 1) HELM_KINDLE_STEP n) HELM_KINDLE_ROLE r) PAIR_STAT_OWN 1
def rd : Round := ⟨1, 1, 0, [], 0, 5, [(200, 7)], [], []⟩
def rc (j : Nat) : JRec := recE j []
end KindleLastSteps
/-- Meets the hypotheses of each clause of Obligations.KindleLastSteps. -/
theorem witness_KindleLastSteps :
    (∃ (s : State), atStep s 7 = true ∧ getF s PAIR_STAT_OWN = 1) ∧
    (∃ (s : State) (newest : Bool), atStep s 8 = true ∧ s.ck.newest = none) ∧
    (∃ (s : State) (newest : Bool) (r : Round), atStep s 8 = true ∧ s.ck.newest = some r ∧ newest = true) ∧
    (∃ (s : State) (newest : Bool) (previous : Bool) (r : Round) (p : Round), atStep s 8 = true ∧ s.ck.newest = some r ∧ newest = false ∧ s.ck.previous = some p ∧ previous = true) ∧
    (∃ (s : State) (newest : Bool) (previous : Bool) (r : Round), atStep s 8 = true ∧ s.ck.newest = some r ∧ newest = false ∧ (s.ck.previous = none ∨ previous = false)) ∧
    (∃ (s : State), atStep s 9 = true ∧ (replayRecs s).2 = false) ∧
    (∃ (s : State) (badRec : Option Nat) (j : Nat) (r : JRec), atStep s 9 = true ∧ badRec = some j ∧ r ∈ (replayRecs s).1 ∧ r.jseq = j) ∧
    (∃ (s : State) (badRec : Option Nat), atStep s 9 = true ∧ (replayRecs s).2 = true ∧ badRec = none) ∧
    (∃ (s : State), atStep s 10 = true ∧ getF s HELM_KINDLE_ROLE = 1) ∧
    (∃ (s : State), atStep s 10 = true ∧ getF s HELM_KINDLE_ROLE = 0 ∧ warned s = true ∧ s.boot.told10 = true) ∧
    (∃ (s : State), atStep s 10 = true ∧ getF s HELM_KINDLE_ROLE = 0 ∧ warned s = false ∧ getF s HELM_THERM_HELD = 0) ∧
    (∃ (s : State) (k : Nat), (k = 3 ∨ k = 4) ∧ mode s = mKindle ∧ getF s HELM_SAFE_CAUSE_CAUSE = 0) ∧
    (∃ (s : State), getF s HELM_MEDSTAT_RECOUNT = 1) :=
  ⟨⟨KindleLastSteps.kk 7 0, by decide +kernel, by decide +kernel⟩,
    ⟨have b := KindleLastSteps.kk 8 0; setF { b with boot := { (b.boot) with told10 := true }, map := { (b.map) with recs := [], jseq := 2 }, ck := { newest := none, previous := none, jend := 0 }, x := { (b.x) with warn := 0 } } HELM_MEDSTAT_RECOUNT 0, false, by decide +kernel, by decide +kernel⟩,
    ⟨have b := KindleLastSteps.kk 8 0; setF { b with boot := { (b.boot) with told10 := true }, map := { (b.map) with recs := [], jseq := 2 }, ck := { newest := some KindleLastSteps.rd, previous := none, jend := 0 }, x := { (b.x) with warn := 0 } } HELM_MEDSTAT_RECOUNT 0, true, _, by decide +kernel, some_wit (by decide +kernel), by decide +kernel⟩,
    ⟨have b := KindleLastSteps.kk 8 0; setF { b with boot := { (b.boot) with told10 := true }, map := { (b.map) with recs := [], jseq := 2 }, ck := { newest := some KindleLastSteps.rd, previous := some ({ (KindleLastSteps.rd) with image := [(300, 8)] }), jend := 2 }, x := { (b.x) with warn := 0 } } HELM_MEDSTAT_RECOUNT 0, false, true, _, _, by decide +kernel, some_wit (by decide +kernel), by decide +kernel, some_wit (by decide +kernel), by decide +kernel⟩,
    ⟨have b := KindleLastSteps.kk 8 0; setF { b with boot := { (b.boot) with told10 := true }, map := { (b.map) with recs := [], jseq := 2 }, ck := { newest := some KindleLastSteps.rd, previous := none, jend := 0 }, x := { (b.x) with warn := 0 } } HELM_MEDSTAT_RECOUNT 0, false, false, _, by decide +kernel, some_wit (by decide +kernel), by decide +kernel, by decide +kernel⟩,
    ⟨have b := KindleLastSteps.kk 9 0; setF { b with boot := { (b.boot) with told10 := true }, map := { (b.map) with recs := [], jseq := 2 }, ck := { newest := some KindleLastSteps.rd, previous := some ({ (KindleLastSteps.rd) with image := [(300, 8)] }), jend := 2 }, x := { (b.x) with warn := 0 } } HELM_MEDSTAT_RECOUNT 0, by decide +kernel, by decide +kernel⟩,
    ⟨{ (setF (KindleLastSteps.kk 9 0) PAIR_STAT_OWN 1) with map := { ((KindleLastSteps.kk 9 0).map) with recs := [KindleLastSteps.rc 1], jseq := 1 }, ck := { newest := some KindleLastSteps.rd, previous := none, jend := 1 } }, some 1, 1, KindleLastSteps.rc 1, by decide +kernel, rfl, by decide +kernel, by decide +kernel⟩,
    ⟨{ (setF (KindleLastSteps.kk 9 0) PAIR_STAT_OWN 1) with map := { ((KindleLastSteps.kk 9 0).map) with recs := [KindleLastSteps.rc 1], jseq := 1 }, ck := { newest := some KindleLastSteps.rd, previous := none, jend := 1 } }, none, by decide +kernel, by decide +kernel, by decide +kernel⟩,
    ⟨have b := KindleLastSteps.kk 10 1; setF { b with boot := { (b.boot) with told10 := true }, map := { (b.map) with recs := [], jseq := 2 }, ck := { newest := none, previous := none, jend := 0 }, x := { (b.x) with warn := 0 } } HELM_MEDSTAT_RECOUNT 0, by decide +kernel, by decide +kernel⟩,
    ⟨setF (setF ({ (KindleLastSteps.kk 10 0) with boot := { ((KindleLastSteps.kk 10 0).boot) with told10 := true } }) PWR_WARN_VEN 1) PWR_STAT_VWARN 1, by decide +kernel, by decide +kernel, by decide +kernel, (by decide +kernel)⟩,
    ⟨have b := KindleLastSteps.kk 10 0; setF { b with boot := { (b.boot) with told10 := true }, map := { (b.map) with recs := [], jseq := 2 }, ck := { newest := none, previous := none, jend := 0 }, x := { (b.x) with warn := 0 } } HELM_MEDSTAT_RECOUNT 0, by decide +kernel, by decide +kernel, by decide +kernel, (by decide +kernel)⟩,
    ⟨{ (setF (KindleLastSteps.kk 9 0) PAIR_STAT_OWN 1) with map := { ((KindleLastSteps.kk 9 0).map) with recs := [KindleLastSteps.rc 1], jseq := 1 }, ck := { newest := some KindleLastSteps.rd, previous := none, jend := 1 } }, 3, by decide +kernel, by decide +kernel, by decide +kernel⟩,
    ⟨have b := KindleLastSteps.kk 8 0; setF { b with boot := { (b.boot) with told10 := true }, map := { (b.map) with recs := [], jseq := 2 }, ck := { newest := none, previous := none, jend := 0 }, x := { (b.x) with warn := 1 } } HELM_MEDSTAT_RECOUNT 1, by decide +kernel⟩⟩

/-! ### PowerWarnings -/
/-- Meets the hypotheses of each clause of Obligations.PowerWarnings. -/
theorem witness_PowerWarnings :
    (∃ (s : State) (mv : Nat), getF s PWR_WARN_VEN = 1 ∧ mv < getF s PWR_WARN_MV ∧ 4200 ≤ mv ∧ (mode s = mRun ∨ mode s = mBanked ∨ mode s = mService) ∧ getF s PWR_STAT_VWARN = 0 ∧ s.x.warn = 0) ∧
    (∃ (s : State) (ns : Nat) (taken : Bool), (300 ≤ ns ∨ 100 ≤ ns ∧ taken = true) ∧ (mode s = mRun ∨ mode s = mBanked ∨ mode s = mService) ∧ getF s PWR_STAT_PFAIL = 0 ∧ s.x.warn = 0) ∧
    (∃ (ns : Nat), ns < 100) ∧
    (∃ (s : State) (p : Nat), p ∈ ports s ∧ (port s p).up = true ∧ (port s p).d3hot = false ∧ (mode s = mRun ∨ mode s = mBanked ∨ mode s = mService) ∧ s.x.warn = 0) ∧
    (∃ (s : State) (p : Nat), p ∈ ports s ∧ (port s p).up = true ∧ (port s p).d3hot = true) ∧
    (∃ (s : State) (mv : Nat) (ns : Nat) (hi : Bool) (el : Elapse), mode s ≠ mOff ∧ getF s PWR_WARN_MV + 10 * getF s PWR_WARN_HYST ≤ mv ∧ hi = true ∧ 1000000 ≤ el.ns) :=
  ⟨⟨(upA (setF (inM 3) PWR_WARN_VEN 1)), 4200, by decide +kernel, by decide +kernel, by decide +kernel, (by decide +kernel), by decide +kernel, by decide +kernel⟩,
    ⟨(upA (setF (inM 3) PWR_WARN_VEN 0)), 100, true, by decide +kernel, by decide +kernel, by decide +kernel, (by decide +kernel)⟩,
    ⟨0, by decide +kernel⟩,
    ⟨(upA (setF (inM 3) PWR_WARN_VEN 0)), 0, by decide +kernel, by decide +kernel, by decide +kernel, (by decide +kernel), by decide +kernel⟩,
    ⟨(setPort (setF (inM 3) PWR_WARN_VEN 0) 0 ({ (Port.reset) with up := true, d3hot := true })), 0, by decide +kernel, by decide +kernel, by decide +kernel⟩,
    ⟨(upA (setF (inM 3) PWR_WARN_VEN 0)), 12000, 0, true, { ns := 2000000, corr := 0 }, by decide +kernel, by decide +kernel, by decide +kernel, (by decide +kernel)⟩⟩

/-! ### QuenchSteps -/
namespace QuenchSteps
def qq (n f : Nat) (b : State) : State := { b with x := { b.x with quench := some ⟨f, n, 0⟩ } }
def late (b : State) : State := { b with map := { b.map with acks := [4], recs := [{ recE 4 [] with committed := false }] } }
end QuenchSteps
/-- Meets the hypotheses of each clause of Obligations.QuenchSteps. -/
theorem witness_QuenchSteps :
    (∃ (s : State), s.x.quench = none ∧ s.x.warn ≠ 0 ∧ (mode s = mRun ∨ mode s = mBanked ∨ mode s = mService)) ∧
    (∃ (s : State), s.x.quench = none ∧ s.x.warn = 0) ∧
    (∃ (s : State) (el : Elapse) (q : Quench), s.x.quench = some q ∧ q.step < 4 ∧ quenchStepDone (elapse s el) q = true) ∧
    (∃ (s : State) (el : Elapse) (q : Quench), s.x.quench = some q ∧ q.step = 4 ∧ quenchStepDone (elapse s el) q = true) ∧
    (∃ (s : State) (el : Elapse) (q : Quench), s.x.quench = some q ∧ q.step ≤ 4 ∧ quenchStepDone (elapse s el) q = false) ∧
    (∃ (s : State) (q : Quench), s.x.quench = some q ∧ q.step = 5 ∧ warned s = false ∧ (getF s PWR_WARN_VEN = 1 → getF s PWR_WARN_MV + 10 * getF s PWR_WARN_HYST ≤ s.pins.vin) ∧ s.x.heldCause = [] ∧ getF s HELM_THERM_HELD = 0 ∧ (q.frm = mRun ∨ q.frm = mBanked ∨ q.frm = mService)) ∧
    (∃ (s : State) (q : Quench), s.x.quench = some q ∧ q.step = 5 ∧ s.x.heldCause ≠ []) ∧
    (∃ (s : State) (el : Elapse), mode s = mQuench ∧ (∃ r ∈ s.map.recs, r.committed = false ∧ r.jseq ∈ s.map.acks ∧ mget 0 s.map.sentAt r.jseq + 1000000 ≤ (elapse s el).clk.refNs)) :=
  ⟨⟨(fun (b : State) => { b with x := { (b.x) with warn := 1 } }) (inM 3), by decide +kernel, by decide +kernel, by decide +kernel⟩,
    ⟨((inM 3)), by decide +kernel, by decide +kernel⟩,
    ⟨QuenchSteps.qq (0 + 1) 4 (inM 6), { ns := 2000000, corr := 0 }, _, some_wit (by decide +kernel), by decide +kernel, by decide +kernel⟩,
    ⟨QuenchSteps.qq (3 + 1) 4 (inM 6), { ns := 2000000, corr := 0 }, _, some_wit (by decide +kernel), by decide +kernel, by decide +kernel⟩,
    ⟨setTh (QuenchSteps.qq 1 3 (inM 6)) 1 ({ (hostT []) with st := TSt.done }), { ns := 2000000, corr := 0 }, _, some_wit (by decide +kernel), by decide +kernel, by decide +kernel⟩,
    ⟨QuenchSteps.qq (4 + 1) 4 (inM 6), _, some_wit (by decide +kernel), by decide +kernel, by decide +kernel, by decide +kernel, (by decide +kernel), by decide +kernel, by decide +kernel⟩,
    ⟨{ (QuenchSteps.qq (4 + 1) 4 (inM 6)) with x := { ((QuenchSteps.qq (4 + 1) 4 (inM 6)).x) with heldCause := [1] } }, _, some_wit (by decide +kernel), by decide +kernel, by decide +kernel⟩,
    ⟨QuenchSteps.late (inM 6), { ns := 2000000, corr := 0 }, by decide +kernel, by decide +kernel⟩⟩

/-! ### Samples -/
/-- Meets the hypotheses of each clause of Obligations.Samples. -/
theorem witness_Samples :
    (∃ (s : State) (el : Elapse), mode s ≠ mOff ∧ getF s PWR_HCFG_EN = 1 ∧ s.x.holdMs ≠ (elapse s el).clk.refNs / 1000000) ∧
    (∃ (s : State) (el : Elapse), mode s ≠ mOff ∧ s.x.vinMs ≠ (elapse s el).clk.refNs / 1000000) ∧
    (∃ (s : State), regOk s 12 = true) ∧
    (∃ (s : State) (t : List ℤ) (el : Elapse), mode s ≠ mOff ∧ s.boot.image = true ∧ s.x.tempMs ≠ (elapse s el).clk.refNs / 1000000 ∧ tjOf t < 115) ∧
    (∃ (s : State) (t : List ℤ) (el : Elapse), mode s ≠ mOff ∧ s.boot.image = true ∧ s.x.tempMs ≠ (elapse s el).clk.refNs / 1000000 ∧ 115 ≤ tjOf t ∧ s.x.tj = none ∧ mode s = mStandby) ∧
    (∃ (s : State) (t : List ℤ) (el : Elapse), mode s ≠ mOff ∧ s.x.tsec ≠ (elapse s el).clk.refNs / 1000000000 ∧ t.length = 8) ∧
    (∃ (s : State), mode s ≠ mOff) :=
  ⟨⟨(setF (setF (setF (tm 5000000000 (inM 3)) PWR_HCFG_EN 1) PWR_HCFG_DIV 32) PWR_HCFG_VMIN 9000), { ns := 2000000, corr := 0 }, by decide +kernel, by decide +kernel, by decide +kernel⟩,
    ⟨(tm 5000000000 (inM 3)), { ns := 2000000, corr := 0 }, by decide +kernel, by decide +kernel⟩,
    ⟨(tm 5000000000 (inM 3)), by decide +kernel⟩,
    ⟨(tm 5000000000 (inM 3)), [20, 30, 40, 50, 60, 70, 80, 90], { ns := 2000000, corr := 0 }, by decide +kernel, by decide +kernel, by decide +kernel, (by decide +kernel)⟩,
    ⟨(tm 5000000000 (inM 2)), [120, 0, 0, 0, 0, 0, 0, 0], { ns := 2000000, corr := 0 }, by decide +kernel, by decide +kernel, by decide +kernel, (by decide +kernel), by decide +kernel, by decide +kernel⟩,
    ⟨(tm 5000000000 (inM 3)), [20, 30, 40, 50, 60, 70, 80, 90], { ns := 2000000, corr := 0 }, by decide +kernel, by decide +kernel, by decide +kernel⟩,
    ⟨(tm 5000000000 (inM 3)), by decide +kernel⟩⟩

/-! ### SafeAndVote -/
namespace SafeAndVote
def owed (b : State) : State := { b with map := { b.map with recs := [{ recE 4 [{ ent0 with target := 4 * 2 ^ 44 }] with applied := true }] }, buf := { b.buf with bufs := [(77, some { tbuf 2 0 true [] with shared := true })] } }
def sf (b : State) : State := { b with x := { b.x with safing := some (6, 9998) } }
end SafeAndVote
/-- Meets the hypotheses of each clause of Obligations.SafeAndVote. -/
theorem witness_SafeAndVote :
    (∃ (s : State) (cause : Nat), s.x.safing = none ∧ cause = 8 ∧ getF s HELM_SAFE_CAUSE_CAUSE = 0 ∧ mode s = mRun) ∧
    (∃ (s : State) (cause : Nat), s.x.safing = none ∧ cause = 6 ∧ getF s HELM_SAFE_CAUSE_CAUSE = 0 ∧ mode s = mRun) ∧
    (∃ (s : State) (cause : Nat) (fails : Bool) (c : Nat) (src : Nat), s.x.safing = some (c, src) ∧ cause ≠ 6 ∧ cause ≠ 8 ∧ (mode s = mRun ∨ mode s = mService) ∧ (fails = true ∨ wbOwed s = false ∧ flushing s = false ∧ tailOwed s = false)) ∧
    (∃ (s : State) (cause : Nat) (fails : Bool) (c : Nat) (src : Nat), s.x.safing = some (c, src) ∧ cause ≠ 6 ∧ cause ≠ 8 ∧ fails = false ∧ (wbOwed s = true ∨ flushing s = true ∨ tailOwed s = true)) ∧
    (∃ (s : State) (core : Nat), mode s ≠ mOff ∧ s.boot.image = true ∧ core < 3 ∧ getF s HELM_VOTE_MASKED = 0) ∧
    (∃ (s : State) (core : Nat), mode s = mStandby ∧ s.boot.image = true ∧ core < 3 ∧ getF s HELM_VOTE_MASKED ≠ 0 ∧ bit (getF s HELM_VOTE_MASKED) core = false ∧ getF s HELM_SAFE_CAUSE_CAUSE = 0) :=
  ⟨⟨((inM 3)), 8, by decide +kernel, by decide +kernel, by decide +kernel, (by decide +kernel)⟩,
    ⟨((inM 3)), 6, by decide +kernel, by decide +kernel, by decide +kernel, (by decide +kernel)⟩,
    ⟨((SafeAndVote.sf (inM 3))), 0, false, _, _, some_wit (by decide +kernel), by decide +kernel, by decide +kernel, by decide +kernel, (by decide +kernel)⟩,
    ⟨((SafeAndVote.sf (SafeAndVote.owed (inM 3)))), 0, false, _, _, some_wit (by decide +kernel), by decide +kernel, by decide +kernel, by decide +kernel, (by decide +kernel)⟩,
    ⟨((inM 3)), 0, by decide +kernel, by decide +kernel, by decide +kernel, (by decide +kernel)⟩,
    ⟨(setF (inM 2) HELM_VOTE_MASKED 2), 0, by decide +kernel, by decide +kernel, by decide +kernel, (by decide +kernel), by decide +kernel, by decide +kernel⟩⟩

/-! ### DataChecks -/
namespace DataChecks
def dbase : State := setF ({ oneGroup (geom 20 (vols (inM 3))) with rsm := { (inM 3).rsm with keys := [(3, ⟨some ks0, none, 0, true, 0⟩)] } }) BUF_WB_CUR 2
def q20 (b : State) : State := { b with d := { b.d with ten := { b.d.ten with force := [(3, ⟨⟨true, 5, 100⟩, ⟨false, 0, 0⟩, ⟨true, 1, 20⟩⟩)], bal := [] } } }
end DataChecks
/-- Meets the hypotheses of each clause of Obligations.DataChecks. -/
theorem witness_DataChecks :
    (∃ (s : State) (c : Nat) (x : DataIn) (el : Elapse) (i : Instr) (o : Nat), (i, o) ∈ [(Instr.read c x, 1), (Instr.write c x, 2), (Instr.writeZeroes c el, 3), (Instr.trim c el, 4), (Instr.verify c x, 6), (Instr.compare c x, 7), (Instr.compareAndWrite c x, 8), (Instr.copy c x, 9), (Instr.healthRead c x, 10)] ∧ (¬(isHost c = true ∧ anvilMode s = true ∧ opcOf s c = o))) ∧
    (∃ (s : State) (c : Nat) (x : DataIn) (el : Elapse) (i : Instr) (o : Nat), (i, o) ∈ [(Instr.read c x, 1), (Instr.write c x, 2), (Instr.writeZeroes c el, 3), (Instr.trim c el, 4), (Instr.verify c x, 6), (Instr.compare c x, 7), (Instr.compareAndWrite c x, 8), (Instr.copy c x, 9), (Instr.healthRead c x, 10)] ∧ (isHost c = true ∧ anvilMode s = true ∧ opcOf s c = o) ∧ (th s c).st = TSt.armed ∧ mode s ≠ mRun) ∧
    (∃ (s : State) (c : Nat) (x : DataIn) (el : Elapse) (i : Instr) (o : Nat) (d : Nat), (i, o) ∈ [(Instr.read c x, 1), (Instr.write c x, 2), (Instr.writeZeroes c el, 3), (Instr.trim c el, 4), (Instr.verify c x, 6), (Instr.compare c x, 7), (Instr.compareAndWrite c x, 8), (Instr.copy c x, 9), (Instr.healthRead c x, 10)] ∧ (isHost c = true ∧ anvilMode s = true ∧ opcOf s c = o) ∧ (th s c).st = TSt.armed ∧ mode s = mRun ∧ (cx s c).late = false ∧ fieldFault (cx s c).block = some d) ∧
    (∃ (s : State) (c : Nat) (x : DataIn) (el : Elapse) (i : Instr) (o : Nat), (i, o) ∈ [(Instr.read c x, 1), (Instr.write c x, 2), (Instr.writeZeroes c el, 3), (Instr.trim c el, 4), (Instr.verify c x, 6), (Instr.compare c x, 7), (Instr.compareAndWrite c x, 8), (Instr.copy c x, 9), (Instr.healthRead c x, 10)] ∧ (isHost c = true ∧ anvilMode s = true ∧ opcOf s c = o) ∧ (th s c).st = TSt.armed ∧ (dataFault { (setTh (tick (if o = 3 ∨ o = 4 then elapse s el else s)) c (dispatched (if o = 3 ∨ o = 4 then elapse s el else s) c)) with strides := List.filter (fun (e : Nat × Stride) => e.1 / 8 != c) (if o = 3 ∨ o = 4 then elapse s el else s).strides } c = none) ∧ [2, 8, 9].contains o = false ∧ (chargeFits { (setTh (tick (if o = 3 ∨ o = 4 then elapse s el else s)) c (dispatched (if o = 3 ∨ o = 4 then elapse s el else s) c)) with strides := List.filter (fun (e : Nat × Stride) => e.1 / 8 != c) (if o = 3 ∨ o = 4 then elapse s el else s).strides } c 1 (4096 * (bNblk (cx s c).block + 1)) (if o = 1 ∨ 6 ≤ o ∧ o ≤ 9 then eNom (if o = 3 ∨ o = 4 then elapse s el else s) 16 * (bNblk (cx s c).block + 1) else 0) = false)) ∧
    (∃ (s : State) (c : Nat) (x : DataIn) (el : Elapse) (i : Instr) (o : Nat) (st : Nat) (res : Nat), (i, o) ∈ [(Instr.read c x, 1), (Instr.write c x, 2), (Instr.writeZeroes c el, 3), (Instr.trim c el, 4), (Instr.verify c x, 6), (Instr.compare c x, 7), (Instr.compareAndWrite c x, 8), (Instr.copy c x, 9), (Instr.healthRead c x, 10)] ∧ (isHost c = true ∧ anvilMode s = true ∧ opcOf s c = o) ∧ (th s c).st = TSt.waiting ∧ (th s c).cont = Cont.ending st res ∧ (th s c).why = Why.dma ∧ openTag (th s c) = none ∧ openXfer (th s c) = none ∧ recsOut s c = false) :=
  ⟨⟨(latch DataChecks.dbase (blk 1 1 0 0 0 0) ({ (Thread.idle) with st := TSt.armed })), 1, x0, { ns := 0, corr := 0 }, Instr.write 1 x0, 2, by decide +kernel, by decide +kernel⟩,
    ⟨((latch (setF DataChecks.dbase HELM_MODE_CUR 5) (blk 1 1 0 0 0 0) ({ (Thread.idle) with st := TSt.armed }))), 1, x0, { ns := 0, corr := 0 }, Instr.read 1 x0, 1, by decide +kernel, ⟨by decide +kernel, by decide +kernel, (by decide +kernel)⟩, by decide +kernel, by decide +kernel⟩,
    ⟨(latch DataChecks.dbase (blk 1 9000 0 0 0 0) ({ (Thread.idle) with st := TSt.armed })), 1, x0, { ns := 0, corr := 0 }, Instr.read 1 x0, 1, _, by decide +kernel, ⟨by decide +kernel, by decide +kernel, (by decide +kernel)⟩, by decide +kernel, by decide +kernel, by decide +kernel, some_wit (by decide +kernel)⟩,
    ⟨((latch (DataChecks.q20 DataChecks.dbase) (blk 1 1 0 0 0 0) ({ (Thread.idle) with st := TSt.armed }))), 1, x0, { ns := 0, corr := 0 }, Instr.read 1 x0, 1, by decide +kernel, ⟨by decide +kernel, by decide +kernel, (by decide +kernel)⟩, by decide +kernel, by decide +kernel, by decide +kernel, (by decide +kernel)⟩,
    ⟨(latch DataChecks.dbase (blk 1 1 0 0 0 0) ({ rdy with st := TSt.waiting, why := Why.dma, cont := Cont.ending 119 5 })), 1, x0, { ns := 0, corr := 0 }, Instr.read 1 x0, 1, 119, 5, by decide +kernel, ⟨by decide +kernel, by decide +kernel, (by decide +kernel)⟩, by decide +kernel, by decide +kernel, by decide +kernel, (by decide +kernel), by decide +kernel, by decide +kernel⟩⟩

/-! ### DataReads -/
namespace DataReads
def dbase : State := setF ({ oneGroup (geom 20 (vols (inM 3))) with rsm := { (inM 3).rsm with keys := [(3, ⟨some ks0, none, 0, true, 0⟩)] } }) BUF_WB_CUR 2
def wb (b : State) : State := dramWrLe b (aCoarse + 8 * 4) 8 (2 * 2 ^ 34 + 2 ^ 33)
/-- The states of a command of one block: its own, then `m`. -/
def two (s m : State) (k : Nat) : State := if k = 0 then s else m
/-- A READ of a block in flash, every general buffer in use. -/
def noBuf : State :=
  let b := latch (dramWrLe (chan0 dbase) (aCoarse + 8 * 4) 8 (2 * 2 ^ 34)) (blk 1 1 0 0 0 0) rdy
  { b with buf := { b.buf with bufs := allBufs } }
end DataReads
set_option maxRecDepth 10000 in
/-- Meets the hypotheses of each clause of Obligations.DataReads. -/
theorem witness_DataReads :
    (∃ (s : State) (c : Nat) (x : DataIn) (st : Nat → State), (isHost c = true ∧ anvilMode s = true ∧ opcOf s c = 1 ∧ (th s c).st = TSt.ready ∧ (th s c).charged = true ∧ ∀ (st res : Nat), (th s c).cont ≠ Cont.ending st res) ∧ readable s c (sysBase s (bVol (cx s c).block) (bSlba (cx s c).block)) (bNblk (cx s c).block + 1) x = true ∧ (flashPages s (sysBase s (bVol (cx s c).block) (bSlba (cx s c).block)) (bNblk (cx s c).block + 1) = [] ∧ st 0 = s ∨ flashPages s (sysBase s (bVol (cx s c).block) (bSlba (cx s c).block)) (bNblk (cx s c).block + 1) ≠ [] ∧ ∃ (v : State), draw s c 0 1 false = (true, v) ∧ st 0 = suspendFor v (flashPages s (sysBase s (bVol (cx s c).block) (bSlba (cx s c).block)) (bNblk (cx s c).block + 1))) ∧ (∀ k < bNblk (cx s c).block + 1, ∃ (d : List Byte) (p : List Byte) (kd : Nat) (m : State), readBlock (st k) c k (sysBase s (bVol (cx s c).block) (bSlba (cx s c).block) + k) (bSlba (cx s c).block + k) false x = (BlkRes.ok kd d p false, m) ∧ (cx m c).block = (cx s c).block ∧ (kd = 0 ∨ blockCheck (cx s c).block (bGuard (cx s c).block) d p k = none) ∧ struck m c k x true = none ∧ st (k + 1) = if bPix (cx s c).block = true then send (send m (Msg.hostWrite (cx m c).port (pasidOf m c) (bDaddr (cx s c).block + 4096 * k) d)) (Msg.hostWrite (cx (send m (Msg.hostWrite (cx m c).port (pasidOf m c) (bDaddr (cx s c).block + 4096 * k) d)) c).port (pasidOf (send m (Msg.hostWrite (cx m c).port (pasidOf m c) (bDaddr (cx s c).block + 4096 * k) d)) c) (bMaddr (cx s c).block + 16 * k) p) else send m (Msg.hostWrite (cx m c).port (pasidOf m c) (bDaddr (cx s c).block + 4096 * k) d))) ∧
    (∃ (s : State) (c : Nat) (x : DataIn) (st : Nat → State) (k : Nat) (cls : Nat) (det : Nat) (res : Nat) (m : State), (isHost c = true ∧ anvilMode s = true ∧ opcOf s c = 1 ∧ (th s c).st = TSt.ready ∧ (th s c).charged = true ∧ ∀ (st res : Nat), (th s c).cont ≠ Cont.ending st res) ∧ readable s c (sysBase s (bVol (cx s c).block) (bSlba (cx s c).block)) (bNblk (cx s c).block + 1) x = true ∧ (flashPages s (sysBase s (bVol (cx s c).block) (bSlba (cx s c).block)) (bNblk (cx s c).block + 1) = [] ∧ st 0 = s ∨ flashPages s (sysBase s (bVol (cx s c).block) (bSlba (cx s c).block)) (bNblk (cx s c).block + 1) ≠ [] ∧ ∃ (v : State), draw s c 0 1 false = (true, v) ∧ st 0 = suspendFor v (flashPages s (sysBase s (bVol (cx s c).block) (bSlba (cx s c).block)) (bNblk (cx s c).block + 1))) ∧ k < bNblk (cx s c).block + 1 ∧ (∀ j < k, ∃ (d : List Byte) (p : List Byte) (kd : Nat) (m : State), readBlock (st j) c j (sysBase s (bVol (cx s c).block) (bSlba (cx s c).block) + j) (bSlba (cx s c).block + j) false x = (BlkRes.ok kd d p false, m) ∧ (cx m c).block = (cx s c).block ∧ (kd = 0 ∨ blockCheck (cx s c).block (bGuard (cx s c).block) d p j = none) ∧ struck m c j x true = none ∧ st (j + 1) = if bPix (cx s c).block = true then send (send m (Msg.hostWrite (cx m c).port (pasidOf m c) (bDaddr (cx s c).block + 4096 * j) d)) (Msg.hostWrite (cx (send m (Msg.hostWrite (cx m c).port (pasidOf m c) (bDaddr (cx s c).block + 4096 * j) d)) c).port (pasidOf (send m (Msg.hostWrite (cx m c).port (pasidOf m c) (bDaddr (cx s c).block + 4096 * j) d)) c) (bMaddr (cx s c).block + 16 * j) p) else send m (Msg.hostWrite (cx m c).port (pasidOf m c) (bDaddr (cx s c).block + 4096 * j) d)) ∧ readBlock (st k) c k (sysBase s (bVol (cx s c).block) (bSlba (cx s c).block) + k) (bSlba (cx s c).block + k) false x = (BlkRes.bad cls det res, m)) ∧
    (∃ (s : State) (c : Nat) (x : DataIn), (isHost c = true ∧ anvilMode s = true ∧ opcOf s c = 1 ∧ (th s c).st = TSt.ready ∧ (th s c).charged = true ∧ ∀ (st res : Nat), (th s c).cont ≠ Cont.ending st res) ∧ readable s c (sysBase s (bVol (cx s c).block) (bSlba (cx s c).block)) (bNblk (cx s c).block + 1) x = false) ∧
    (∃ (s : State) (c : Nat) (x : DataIn) (v : State), (isHost c = true ∧ anvilMode s = true ∧ opcOf s c = 1 ∧ (th s c).st = TSt.ready ∧ (th s c).charged = true ∧ ∀ (st res : Nat), (th s c).cont ≠ Cont.ending st res) ∧ readable s c (sysBase s (bVol (cx s c).block) (bSlba (cx s c).block)) (bNblk (cx s c).block + 1) x = true ∧ flashPages s (sysBase s (bVol (cx s c).block) (bSlba (cx s c).block)) (bNblk (cx s c).block + 1) ≠ [] ∧ draw s c 0 1 false = (false, v)) ∧
    (∃ (s : State) (c : Nat) (x : DataIn) (st : Nat → State), (isHost c = true ∧ anvilMode s = true ∧ opcOf s c = 6 ∧ (th s c).st = TSt.ready ∧ (th s c).charged = true ∧ ∀ (st res : Nat), (th s c).cont ≠ Cont.ending st res) ∧ readable s c (sysBase s (bVol (cx s c).block) (bSlba (cx s c).block)) (bNblk (cx s c).block + 1) x = true ∧ (flashPages s (sysBase s (bVol (cx s c).block) (bSlba (cx s c).block)) (bNblk (cx s c).block + 1) = [] ∧ st 0 = s ∨ flashPages s (sysBase s (bVol (cx s c).block) (bSlba (cx s c).block)) (bNblk (cx s c).block + 1) ≠ [] ∧ ∃ (v : State), draw s c 0 1 false = (true, v) ∧ st 0 = suspendFor v (flashPages s (sysBase s (bVol (cx s c).block) (bSlba (cx s c).block)) (bNblk (cx s c).block + 1))) ∧ (∀ k < bNblk (cx s c).block + 1, ∃ (d : List Byte) (p : List Byte) (kd : Nat), readBlock (st k) c k (sysBase s (bVol (cx s c).block) (bSlba (cx s c).block) + k) (bSlba (cx s c).block + k) true x = (BlkRes.ok kd d p false, st (k + 1)))) ∧
    (∃ (s : State) (c : Nat) (x : DataIn) (st : Nat → State), (isHost c = true ∧ anvilMode s = true ∧ opcOf s c = 7 ∧ (th s c).st = TSt.ready ∧ (th s c).charged = true ∧ ∀ (st res : Nat), (th s c).cont ≠ Cont.ending st res) ∧ readable s c (sysBase s (bVol (cx s c).block) (bSlba (cx s c).block)) (bNblk (cx s c).block + 1) x = true ∧ (flashPages s (sysBase s (bVol (cx s c).block) (bSlba (cx s c).block)) (bNblk (cx s c).block + 1) = [] ∧ st 0 = s ∨ flashPages s (sysBase s (bVol (cx s c).block) (bSlba (cx s c).block)) (bNblk (cx s c).block + 1) ≠ [] ∧ ∃ (v : State), draw s c 0 1 false = (true, v) ∧ st 0 = suspendFor v (flashPages s (sysBase s (bVol (cx s c).block) (bSlba (cx s c).block)) (bNblk (cx s c).block + 1))) ∧ (∀ k < bNblk (cx s c).block + 1, ∃ (p : List Byte) (kd : Nat), readBlock (st k) c k (sysBase s (bVol (cx s c).block) (bSlba (cx s c).block) + k) (bSlba (cx s c).block + k) true x = (BlkRes.ok kd (hostData x k) p false, st (k + 1)) ∧ (bPix (cx s c).block = true → p = hostPi x k) ∧ struck (st (k + 1)) c k x false = none)) ∧
    (∃ (s : State) (c : Nat) (x : DataIn) (st : Nat → State), (isHost c = true ∧ anvilMode s = true ∧ opcOf s c = 10 ∧ (th s c).st = TSt.ready ∧ (th s c).charged = true ∧ ∀ (st res : Nat), (th s c).cont ≠ Cont.ending st res) ∧ st 0 = s ∧ (∀ k < bNblk (cx s c).block + 1, struck (st k) c k x true = none ∧ st (k + 1) = send (st k) (Msg.hostWrite (cx (st k) c).port (pasidOf (st k) c) (bDaddr (cx s c).block + 4096 * k) (healthPage s (bindOf s c).tenant (c == adminCtx s) (bits (bArg (cx s c).block) 0 8 + k))))) ∧
    (∃ (s : State) (c : Nat) (e : Ending), e.cls ≠ 80 ∧ opcOf s c ∈ [1, 6, 7, 10] ∧ (th s c).why ≠ Why.lock ∧ (th s c).st ≠ TSt.faulted ∧ s.buf.reqs = [] ∧ (∀ y ∈ s.map.ovl, y.1 ≠ 2 ^ 64 + c)) :=
  ⟨⟨latch DataReads.dbase (blk 1 1 0 0 0 0) rdy, 1, x0, DataReads.two (latch DataReads.dbase (blk 1 1 0 0 0 0) rdy) (send (readBlock (latch DataReads.dbase (blk 1 1 0 0 0 0) rdy) 1 0 (sysBase (latch DataReads.dbase (blk 1 1 0 0 0 0) rdy) 1 0 + 0) 0 false x0).2 (.hostWrite (cx (readBlock (latch DataReads.dbase (blk 1 1 0 0 0 0) rdy) 1 0 (sysBase (latch DataReads.dbase (blk 1 1 0 0 0 0) rdy) 1 0 + 0) 0 false x0).2 1).port (pasidOf (readBlock (latch DataReads.dbase (blk 1 1 0 0 0 0) rdy) 1 0 (sysBase (latch DataReads.dbase (blk 1 1 0 0 0 0) rdy) 1 0 + 0) 0 false x0).2 1) 0 (blkD (readBlock (latch DataReads.dbase (blk 1 1 0 0 0 0) rdy) 1 0 (sysBase (latch DataReads.dbase (blk 1 1 0 0 0 0) rdy) 1 0 + 0) 0 false x0).1))), ⟨by decide +kernel, by decide +kernel, by decide +kernel, (by decide +kernel), by decide +kernel, not_ending (by decide +kernel)⟩, by decide +kernel, .inl ⟨by decide +kernel, rfl⟩, lt_one (by decide +kernel) ⟨_, _, _, _, blk_ok (by decide +kernel) rfl rfl rfl rfl, by decide +kernel, by decide +kernel, by decide +kernel, (by decide +kernel)⟩⟩,
    ⟨(latch ({ (DataReads.wb DataReads.dbase) with mem := { ((DataReads.wb DataReads.dbase).mem) with bad := [aWb / 64] } }) (blk 1 1 0 0 0 0) rdy), 1, x0, DataReads.two (latch ({ (DataReads.wb DataReads.dbase) with mem := { ((DataReads.wb DataReads.dbase).mem) with bad := [aWb / 64] } }) (blk 1 1 0 0 0 0) rdy) (latch ({ (DataReads.wb DataReads.dbase) with mem := { ((DataReads.wb DataReads.dbase).mem) with bad := [aWb / 64] } }) (blk 1 1 0 0 0 0) rdy), 0, _, _, _, _, ⟨by decide +kernel, by decide +kernel, by decide +kernel, (by decide +kernel), by decide +kernel, not_ending (by decide +kernel)⟩, by decide +kernel, .inl ⟨by decide +kernel, rfl⟩, by decide +kernel, lt_zero, blk_bad (some_get3 (by decide +kernel)) rfl⟩,
    ⟨(latch ({ (DataReads.dbase) with map := { (DataReads.dbase.map) with recs := [{ (recE 4 [ent0]) with committed := false }] } }) (blk 1 1 0 0 0 0) rdy), 1, x0, ⟨by decide +kernel, by decide +kernel, by decide +kernel, (by decide +kernel), by decide +kernel, not_ending (by decide +kernel)⟩, by decide +kernel⟩,
    ⟨DataReads.noBuf, 1, x0, _, ⟨by decide +kernel, by decide +kernel, by decide +kernel, (by decide +kernel), by decide +kernel, not_ending (by decide +kernel)⟩, by decide +kernel, by decide +kernel, draw_none rfl rfl⟩,
    ⟨latch DataReads.dbase (blk 6 1 0 0 0 0) rdy, 1, x0, DataReads.two (latch DataReads.dbase (blk 6 1 0 0 0 0) rdy) ((readBlock (latch DataReads.dbase (blk 6 1 0 0 0 0) rdy) 1 0 (sysBase (latch DataReads.dbase (blk 6 1 0 0 0 0) rdy) 1 0 + 0) 0 true x0).2), ⟨by decide +kernel, by decide +kernel, by decide +kernel, (by decide +kernel), by decide +kernel, not_ending (by decide +kernel)⟩, by decide +kernel, .inl ⟨by decide +kernel, rfl⟩, lt_one (by decide +kernel) ⟨_, _, _, blk_ok (by decide +kernel) rfl rfl rfl (by decide +kernel)⟩⟩,
    ⟨latch DataReads.dbase (blk 7 1 0 0 0 0) rdy, 1, x0, DataReads.two (latch DataReads.dbase (blk 7 1 0 0 0 0) rdy) ((readBlock (latch DataReads.dbase (blk 7 1 0 0 0 0) rdy) 1 0 (sysBase (latch DataReads.dbase (blk 7 1 0 0 0 0) rdy) 1 0 + 0) 0 true x0).2), ⟨by decide +kernel, by decide +kernel, by decide +kernel, (by decide +kernel), by decide +kernel, not_ending (by decide +kernel)⟩, by decide +kernel, .inl ⟨by decide +kernel, rfl⟩, lt_one (by decide +kernel) ⟨_, _, blk_ok (by decide +kernel) rfl (by decide +kernel) rfl (by decide +kernel), by decide +kernel, by decide +kernel⟩⟩,
    ⟨latch DataReads.dbase (blk 10 1 0 0 0 0) rdy, 1, x0, DataReads.two (latch DataReads.dbase (blk 10 1 0 0 0 0) rdy) (send (latch DataReads.dbase (blk 10 1 0 0 0 0) rdy) (.hostWrite 0 (pasidOf (latch DataReads.dbase (blk 10 1 0 0 0 0) rdy) 1) 0 (healthPage (latch DataReads.dbase (blk 10 1 0 0 0 0) rdy) (bindOf (latch DataReads.dbase (blk 10 1 0 0 0 0) rdy) 1).tenant (1 == adminCtx (latch DataReads.dbase (blk 10 1 0 0 0 0) rdy)) 0))), ⟨by decide +kernel, by decide +kernel, by decide +kernel, (by decide +kernel), by decide +kernel, not_ending (by decide +kernel)⟩, rfl, lt_one (by decide +kernel) ⟨by decide +kernel, rfl⟩⟩,
    ⟨latch DataReads.dbase (blk 1 1 0 0 0 0) rdy, 1, { cls := 36, detail := 0, offset := some 4, result := 9 }, by decide +kernel, by decide +kernel, by decide +kernel, (by decide +kernel), by decide +kernel, by decide +kernel⟩⟩

/-! ### DataWrites -/
namespace DataWrites
def dbase : State := setF ({ oneGroup (geom 20 (vols (inM 3))) with rsm := { (inM 3).rsm with keys := [(3, ⟨some ks0, none, 0, true, 0⟩)] } }) BUF_WB_CUR 2
def zeroed (b : State) : State := dramWrLe b (aCoarse + 8 * 4) 8 (1 * 2 ^ 34)
def held (b : State) : State := { b with keep := { b.keep with held := [(1, 0, { recE 4 [] with committed := false })] } }
def busy (b : State) : State := setTh b 2 { hostT [] with locks := [(4, 0)] }
def fullR (b : State) : State := { b with map := { b.map with recs := [{ recE 1 [] with typ := .pad, a := 2 ^ 26, applied := true }] } }
def down (b : State) : State := setF b CIP_STAT_QDOWN 15
def noWb (b : State) : State := setF b BUF_WB_CUR 0
def lk (z : State) : State := lockAll z 1 (billetsOf z (sysBase z 1 0) 1)
def wb (b : State) : State := dramWrLe b (aCoarse + 8 * 4) 8 (2 * 2 ^ 34 + 2 ^ 33)
def sb : State := latch { wb dbase with mem := { (wb dbase).mem with bad := [aWb / 64] } } (blk 9 1 0 0 0 0 + 2 ^ 240) rdy
/-- The states of a command of one block: its own, then `m`. -/
def two (s m : State) (k : Nat) : State := if k = 0 then s else m
end DataWrites
set_option maxRecDepth 40000 in
/-- Meets the hypotheses of each clause of Obligations.DataWrites (part 1). -/
theorem witness_DataWrites_1 :
    (∃ (s : State) (c : Nat) (x : DataIn) (v : State) (j : Nat), (isHost c = true ∧ anvilMode s = true ∧ opcOf s c = 2 ∧ (th s c).st = TSt.ready ∧ (th s c).charged = true ∧ ∀ (st res : Nat), (th s c).cont ≠ Cont.ending st res) ∧ (partOf s c).1 / 256 = ((partOf s c).1 + (bNblk (cx s c).block + 1) - 1) / 256 ∧ ((cx s c).block = (cx s c).block ∧ partOf s c = partOf s c ∧ sysBase s (bVol (cx s c).block) (bSlba (cx s c).block) = sysBase s (bVol (cx s c).block) (bSlba (cx s c).block) ∧ (th s c).unitAt = 0) ∧ (∀ k < bNblk (cx s c).block + 1, struck s c k x false = none ∧ (bPix (cx s c).block = false ∨ blockCheck (cx s c).block (bGuard (cx s c).block) (hostData x k) (hostPi x k) k = none)) ∧ placeUnit s c ((partOf s c).1 / 256) 0 (sysBase s (bVol (cx s c).block) (bSlba (cx s c).block)) true x.flaws (List.map (fun (k : Nat) => Put.data (hostData x k) (if bPix (cx s c).block = true then hostPi x k else piBytes (crc64 (hostData x k)) (blkField (cx s c).block 20 2) (bTag (cx s c).block k))) (List.range (bNblk (cx s c).block + 1))) = (UnitRes.busy j, v)) ∧
    (∃ (s : State) (c : Nat) (x : DataIn) (v : State) (ovl : Bool), (isHost c = true ∧ anvilMode s = true ∧ opcOf s c = 2 ∧ (th s c).st = TSt.ready ∧ (th s c).charged = true ∧ ∀ (st res : Nat), (th s c).cont ≠ Cont.ending st res) ∧ (partOf s c).1 / 256 = ((partOf s c).1 + (bNblk (cx s c).block + 1) - 1) / 256 ∧ ((cx s c).block = (cx s c).block ∧ partOf s c = partOf s c ∧ sysBase s (bVol (cx s c).block) (bSlba (cx s c).block) = sysBase s (bVol (cx s c).block) (bSlba (cx s c).block) ∧ (th s c).unitAt = 0) ∧ (∀ k < bNblk (cx s c).block + 1, struck s c k x false = none ∧ (bPix (cx s c).block = false ∨ blockCheck (cx s c).block (bGuard (cx s c).block) (hostData x k) (hostPi x k) k = none)) ∧ placeUnit s c ((partOf s c).1 / 256) 0 (sysBase s (bVol (cx s c).block) (bSlba (cx s c).block)) true x.flaws (List.map (fun (k : Nat) => Put.data (hostData x k) (if bPix (cx s c).block = true then hostPi x k else piBytes (crc64 (hostData x k)) (blkField (cx s c).block 20 2) (bTag (cx s c).block k))) (List.range (bNblk (cx s c).block + 1))) = (UnitRes.hold ovl, v) ∧ (th v c).st ≠ TSt.waiting) ∧
    (∃ (s : State) (c : Nat) (x : DataIn) (v : State) (pool : Nat), (isHost c = true ∧ anvilMode s = true ∧ opcOf s c = 2 ∧ (th s c).st = TSt.ready ∧ (th s c).charged = true ∧ ∀ (st res : Nat), (th s c).cont ≠ Cont.ending st res) ∧ (partOf s c).1 / 256 = ((partOf s c).1 + (bNblk (cx s c).block + 1) - 1) / 256 ∧ ((cx s c).block = (cx s c).block ∧ partOf s c = partOf s c ∧ sysBase s (bVol (cx s c).block) (bSlba (cx s c).block) = sysBase s (bVol (cx s c).block) (bSlba (cx s c).block) ∧ (th s c).unitAt = 0) ∧ (∀ k < bNblk (cx s c).block + 1, struck s c k x false = none ∧ (bPix (cx s c).block = false ∨ blockCheck (cx s c).block (bGuard (cx s c).block) (hostData x k) (hostPi x k) k = none)) ∧ placeUnit s c ((partOf s c).1 / 256) 0 (sysBase s (bVol (cx s c).block) (bSlba (cx s c).block)) true x.flaws (List.map (fun (k : Nat) => Put.data (hostData x k) (if bPix (cx s c).block = true then hostPi x k else piBytes (crc64 (hostData x k)) (blkField (cx s c).block 20 2) (bTag (cx s c).block k))) (List.range (bNblk (cx s c).block + 1))) = (UnitRes.park pool, v)) ∧
    (∃ (s : State) (c : Nat) (x : DataIn) (v : State) (f : Ending), (isHost c = true ∧ anvilMode s = true ∧ opcOf s c = 2 ∧ (th s c).st = TSt.ready ∧ (th s c).charged = true ∧ ∀ (st res : Nat), (th s c).cont ≠ Cont.ending st res) ∧ (partOf s c).1 / 256 = ((partOf s c).1 + (bNblk (cx s c).block + 1) - 1) / 256 ∧ ((cx s c).block = (cx s c).block ∧ partOf s c = partOf s c ∧ sysBase s (bVol (cx s c).block) (bSlba (cx s c).block) = sysBase s (bVol (cx s c).block) (bSlba (cx s c).block) ∧ (th s c).unitAt = 0) ∧ (∀ k < bNblk (cx s c).block + 1, struck s c k x false = none ∧ (bPix (cx s c).block = false ∨ blockCheck (cx s c).block (bGuard (cx s c).block) (hostData x k) (hostPi x k) k = none)) ∧ placeUnit s c ((partOf s c).1 / 256) 0 (sysBase s (bVol (cx s c).block) (bSlba (cx s c).block)) true x.flaws (List.map (fun (k : Nat) => Put.data (hostData x k) (if bPix (cx s c).block = true then hostPi x k else piBytes (crc64 (hostData x k)) (blkField (cx s c).block 20 2) (bTag (cx s c).block k))) (List.range (bNblk (cx s c).block + 1))) = (UnitRes.stop f, v) ∧ (th v c).st ≠ TSt.faulted ∧ (∀ r ∈ v.buf.reqs, r.t ≠ c) ∧ recsOut v c = false) ∧
    (∃ (s : State) (c : Nat) (el : Elapse) (v : State), (isHost c = true ∧ anvilMode s = true ∧ opcOf s c = 3 ∧ (th s c).st = TSt.ready ∧ (th s c).charged = true ∧ ∀ (st res : Nat), (th s c).cont ≠ Cont.ending st res) ∧ (partOf s c).1 / 256 = ((partOf s c).1 + (bNblk (cx s c).block + 1) - 1) / 256 ∧ ((cx (elapse s el) c).block = (cx s c).block ∧ partOf (elapse s el) c = partOf s c ∧ sysBase (elapse s el) (bVol (cx s c).block) (bSlba (cx s c).block) = sysBase s (bVol (cx s c).block) (bSlba (cx s c).block) ∧ (th (elapse s el) c).unitAt = 0) ∧ placeUnit (elapse s el) c ((partOf s c).1 / 256) 0 (sysBase s (bVol (cx s c).block) (bSlba (cx s c).block)) true [] (List.replicate (bNblk (cx s c).block + 1) Put.zero) = (UnitRes.placed, v) ∧ (th v c).st ≠ TSt.faulted ∧ (th v c).why ≠ Why.lock ∧ opcOf v c ∈ [2, 3, 4, 8, 9] ∧ (∀ r ∈ v.buf.reqs, r.t ≠ c) ∧ recsOut v c = false) ∧
    (∃ (s : State) (c : Nat) (el : Elapse) (v : State), (isHost c = true ∧ anvilMode s = true ∧ opcOf s c = 3 ∧ (th s c).st = TSt.ready ∧ (th s c).charged = true ∧ ∀ (st res : Nat), (th s c).cont ≠ Cont.ending st res) ∧ (partOf s c).1 / 256 = ((partOf s c).1 + (bNblk (cx s c).block + 1) - 1) / 256 ∧ ((cx (elapse s el) c).block = (cx s c).block ∧ partOf (elapse s el) c = partOf s c ∧ sysBase (elapse s el) (bVol (cx s c).block) (bSlba (cx s c).block) = sysBase s (bVol (cx s c).block) (bSlba (cx s c).block) ∧ (th (elapse s el) c).unitAt = 0) ∧ placeUnit (elapse s el) c ((partOf s c).1 / 256) 0 (sysBase s (bVol (cx s c).block) (bSlba (cx s c).block)) true [] (List.replicate (bNblk (cx s c).block + 1) Put.zero) = (UnitRes.placed, v) ∧ (th v c).st ≠ TSt.faulted ∧ (∀ r ∈ v.buf.reqs, r.t ≠ c) ∧ recsOut v c = true) ∧
    (∃ (s : State) (c : Nat) (el : Elapse) (v : State) (j : Nat), (isHost c = true ∧ anvilMode s = true ∧ opcOf s c = 3 ∧ (th s c).st = TSt.ready ∧ (th s c).charged = true ∧ ∀ (st res : Nat), (th s c).cont ≠ Cont.ending st res) ∧ (partOf s c).1 / 256 = ((partOf s c).1 + (bNblk (cx s c).block + 1) - 1) / 256 ∧ ((cx (elapse s el) c).block = (cx s c).block ∧ partOf (elapse s el) c = partOf s c ∧ sysBase (elapse s el) (bVol (cx s c).block) (bSlba (cx s c).block) = sysBase s (bVol (cx s c).block) (bSlba (cx s c).block) ∧ (th (elapse s el) c).unitAt = 0) ∧ placeUnit (elapse s el) c ((partOf s c).1 / 256) 0 (sysBase s (bVol (cx s c).block) (bSlba (cx s c).block)) true [] (List.replicate (bNblk (cx s c).block + 1) Put.zero) = (UnitRes.busy j, v)) ∧
    (∃ (s : State) (c : Nat) (el : Elapse) (v : State) (ovl : Bool), (isHost c = true ∧ anvilMode s = true ∧ opcOf s c = 3 ∧ (th s c).st = TSt.ready ∧ (th s c).charged = true ∧ ∀ (st res : Nat), (th s c).cont ≠ Cont.ending st res) ∧ (partOf s c).1 / 256 = ((partOf s c).1 + (bNblk (cx s c).block + 1) - 1) / 256 ∧ ((cx (elapse s el) c).block = (cx s c).block ∧ partOf (elapse s el) c = partOf s c ∧ sysBase (elapse s el) (bVol (cx s c).block) (bSlba (cx s c).block) = sysBase s (bVol (cx s c).block) (bSlba (cx s c).block) ∧ (th (elapse s el) c).unitAt = 0) ∧ placeUnit (elapse s el) c ((partOf s c).1 / 256) 0 (sysBase s (bVol (cx s c).block) (bSlba (cx s c).block)) true [] (List.replicate (bNblk (cx s c).block + 1) Put.zero) = (UnitRes.hold ovl, v) ∧ (th v c).st ≠ TSt.waiting) ∧
    (∃ (s : State) (c : Nat) (el : Elapse) (v : State), (isHost c = true ∧ anvilMode s = true ∧ opcOf s c = 4 ∧ (th s c).st = TSt.ready ∧ (th s c).charged = true ∧ ∀ (st res : Nat), (th s c).cont ≠ Cont.ending st res) ∧ (partOf s c).1 / 256 = ((partOf s c).1 + (bNblk (cx s c).block + 1) - 1) / 256 ∧ ((cx (elapse s el) c).block = (cx s c).block ∧ partOf (elapse s el) c = partOf s c ∧ sysBase (elapse s el) (bVol (cx s c).block) (bSlba (cx s c).block) = sysBase s (bVol (cx s c).block) (bSlba (cx s c).block) ∧ (th (elapse s el) c).unitAt = 0) ∧ placeUnit (elapse s el) c ((partOf s c).1 / 256) 0 (sysBase s (bVol (cx s c).block) (bSlba (cx s c).block)) true [] (List.replicate (bNblk (cx s c).block + 1) Put.unmap) = (UnitRes.placed, v) ∧ (th v c).st ≠ TSt.faulted ∧ (th v c).why ≠ Why.lock ∧ opcOf v c ∈ [2, 3, 4, 8, 9] ∧ (∀ r ∈ v.buf.reqs, r.t ≠ c) ∧ recsOut v c = false) ∧
    (∃ (s : State) (c : Nat) (el : Elapse) (v : State), (isHost c = true ∧ anvilMode s = true ∧ opcOf s c = 4 ∧ (th s c).st = TSt.ready ∧ (th s c).charged = true ∧ ∀ (st res : Nat), (th s c).cont ≠ Cont.ending st res) ∧ (partOf s c).1 / 256 = ((partOf s c).1 + (bNblk (cx s c).block + 1) - 1) / 256 ∧ ((cx (elapse s el) c).block = (cx s c).block ∧ partOf (elapse s el) c = partOf s c ∧ sysBase (elapse s el) (bVol (cx s c).block) (bSlba (cx s c).block) = sysBase s (bVol (cx s c).block) (bSlba (cx s c).block) ∧ (th (elapse s el) c).unitAt = 0) ∧ placeUnit (elapse s el) c ((partOf s c).1 / 256) 0 (sysBase s (bVol (cx s c).block) (bSlba (cx s c).block)) true [] (List.replicate (bNblk (cx s c).block + 1) Put.unmap) = (UnitRes.placed, v) ∧ (th v c).st ≠ TSt.faulted ∧ (∀ r ∈ v.buf.reqs, r.t ≠ c) ∧ recsOut v c = true) ∧
    (∃ (s : State) (c : Nat) (el : Elapse) (v : State) (j : Nat), (isHost c = true ∧ anvilMode s = true ∧ opcOf s c = 4 ∧ (th s c).st = TSt.ready ∧ (th s c).charged = true ∧ ∀ (st res : Nat), (th s c).cont ≠ Cont.ending st res) ∧ (partOf s c).1 / 256 = ((partOf s c).1 + (bNblk (cx s c).block + 1) - 1) / 256 ∧ ((cx (elapse s el) c).block = (cx s c).block ∧ partOf (elapse s el) c = partOf s c ∧ sysBase (elapse s el) (bVol (cx s c).block) (bSlba (cx s c).block) = sysBase s (bVol (cx s c).block) (bSlba (cx s c).block) ∧ (th (elapse s el) c).unitAt = 0) ∧ placeUnit (elapse s el) c ((partOf s c).1 / 256) 0 (sysBase s (bVol (cx s c).block) (bSlba (cx s c).block)) true [] (List.replicate (bNblk (cx s c).block + 1) Put.unmap) = (UnitRes.busy j, v)) ∧
    (∃ (s : State) (c : Nat) (el : Elapse) (v : State) (ovl : Bool), (isHost c = true ∧ anvilMode s = true ∧ opcOf s c = 4 ∧ (th s c).st = TSt.ready ∧ (th s c).charged = true ∧ ∀ (st res : Nat), (th s c).cont ≠ Cont.ending st res) ∧ (partOf s c).1 / 256 = ((partOf s c).1 + (bNblk (cx s c).block + 1) - 1) / 256 ∧ ((cx (elapse s el) c).block = (cx s c).block ∧ partOf (elapse s el) c = partOf s c ∧ sysBase (elapse s el) (bVol (cx s c).block) (bSlba (cx s c).block) = sysBase s (bVol (cx s c).block) (bSlba (cx s c).block) ∧ (th (elapse s el) c).unitAt = 0) ∧ placeUnit (elapse s el) c ((partOf s c).1 / 256) 0 (sysBase s (bVol (cx s c).block) (bSlba (cx s c).block)) true [] (List.replicate (bNblk (cx s c).block + 1) Put.unmap) = (UnitRes.hold ovl, v) ∧ (th v c).st ≠ TSt.waiting) :=
  ⟨⟨(latch (DataWrites.busy DataWrites.dbase) (blk 2 1 0 0 0 0) rdy), 1, x0, _, 4, ⟨by decide +kernel, by decide +kernel, by decide +kernel, (by decide +kernel), by decide +kernel, not_ending (by decide +kernel)⟩, by decide +kernel, ⟨by decide +kernel, by decide +kernel, (by decide +kernel), by decide +kernel⟩, by decide +kernel, unit_wit (by decide +kernel)⟩,
    ⟨(latch (DataWrites.fullR DataWrites.dbase) (blk 2 1 0 0 0 0) rdy), 1, x0, _, false, ⟨by decide +kernel, by decide +kernel, by decide +kernel, (by decide +kernel), by decide +kernel, not_ending (by decide +kernel)⟩, by decide +kernel, ⟨by decide +kernel, by decide +kernel, (by decide +kernel), by decide +kernel⟩, by decide +kernel, unit_at (v := 0) (m := 1024) (by decide +kernel) (by decide +kernel) (by decide) (by decide +kernel), by decide +kernel⟩,
    ⟨(latch (DataWrites.noWb DataWrites.dbase) (blk 2 1 0 0 0 0) rdy), 1, x0, _, 2, ⟨by decide +kernel, by decide +kernel, by decide +kernel, (by decide +kernel), by decide +kernel, not_ending (by decide +kernel)⟩, by decide +kernel, ⟨by decide +kernel, by decide +kernel, (by decide +kernel), by decide +kernel⟩, by decide +kernel, unit_wit (by decide +kernel)⟩,
    ⟨(latch (DataWrites.down DataWrites.dbase) (blk 2 1 0 0 0 0) rdy), 1, x0, _, failBlk 0x41 0x10 0 0, ⟨by decide +kernel, by decide +kernel, by decide +kernel, (by decide +kernel), by decide +kernel, not_ending (by decide +kernel)⟩, by decide +kernel, ⟨by decide +kernel, by decide +kernel, (by decide +kernel), by decide +kernel⟩, by decide +kernel, unit_wit (by decide +kernel), by decide +kernel, by decide +kernel, by decide +kernel⟩,
    ⟨latch DataWrites.dbase (blk 3 1 0 0 0 0) rdy, 1, { ns := 0, corr := 0 }, _, ⟨by decide +kernel, by decide +kernel, by decide +kernel, (by decide +kernel), by decide +kernel, not_ending (by decide +kernel)⟩, by decide +kernel, ⟨by decide +kernel, by decide +kernel, (by decide +kernel), by decide +kernel⟩, unit_wit (by decide +kernel), by decide +kernel, by decide +kernel, by decide +kernel, (by decide +kernel), by decide +kernel⟩,
    ⟨(latch (DataWrites.held DataWrites.dbase) (blk 3 1 0 0 0 0) rdy), 1, { ns := 0, corr := 0 }, _, ⟨by decide +kernel, by decide +kernel, by decide +kernel, (by decide +kernel), by decide +kernel, not_ending (by decide +kernel)⟩, by decide +kernel, ⟨by decide +kernel, by decide +kernel, (by decide +kernel), by decide +kernel⟩, unit_wit (by decide +kernel), by decide +kernel, by decide +kernel, by decide +kernel⟩,
    ⟨(latch (DataWrites.busy DataWrites.dbase) (blk 3 1 0 0 0 0) rdy), 1, { ns := 0, corr := 0 }, _, 4, ⟨by decide +kernel, by decide +kernel, by decide +kernel, (by decide +kernel), by decide +kernel, not_ending (by decide +kernel)⟩, by decide +kernel, ⟨by decide +kernel, by decide +kernel, (by decide +kernel), by decide +kernel⟩, unit_wit (by decide +kernel)⟩,
    ⟨(latch (DataWrites.fullR DataWrites.dbase) (blk 3 1 0 0 0 0) rdy), 1, { ns := 0, corr := 0 }, _, false, ⟨by decide +kernel, by decide +kernel, by decide +kernel, (by decide +kernel), by decide +kernel, not_ending (by decide +kernel)⟩, by decide +kernel, ⟨by decide +kernel, by decide +kernel, (by decide +kernel), by decide +kernel⟩, unit_wit (by decide +kernel), by decide +kernel⟩,
    ⟨latch DataWrites.dbase (blk 4 1 0 0 0 0) rdy, 1, { ns := 0, corr := 0 }, _, ⟨by decide +kernel, by decide +kernel, by decide +kernel, (by decide +kernel), by decide +kernel, not_ending (by decide +kernel)⟩, by decide +kernel, ⟨by decide +kernel, by decide +kernel, (by decide +kernel), by decide +kernel⟩, unit_wit (by decide +kernel), by decide +kernel, by decide +kernel, by decide +kernel, (by decide +kernel), by decide +kernel⟩,
    ⟨(latch (DataWrites.held DataWrites.dbase) (blk 4 1 0 0 0 0) rdy), 1, { ns := 0, corr := 0 }, _, ⟨by decide +kernel, by decide +kernel, by decide +kernel, (by decide +kernel), by decide +kernel, not_ending (by decide +kernel)⟩, by decide +kernel, ⟨by decide +kernel, by decide +kernel, (by decide +kernel), by decide +kernel⟩, unit_wit (by decide +kernel), by decide +kernel, by decide +kernel, by decide +kernel⟩,
    ⟨(latch (DataWrites.busy DataWrites.dbase) (blk 4 1 0 0 0 0) rdy), 1, { ns := 0, corr := 0 }, _, 4, ⟨by decide +kernel, by decide +kernel, by decide +kernel, (by decide +kernel), by decide +kernel, not_ending (by decide +kernel)⟩, by decide +kernel, ⟨by decide +kernel, by decide +kernel, (by decide +kernel), by decide +kernel⟩, unit_wit (by decide +kernel)⟩,
    ⟨(latch (DataWrites.fullR DataWrites.dbase) (blk 4 1 0 0 0 0) rdy), 1, { ns := 0, corr := 0 }, _, false, ⟨by decide +kernel, by decide +kernel, by decide +kernel, (by decide +kernel), by decide +kernel, not_ending (by decide +kernel)⟩, by decide +kernel, ⟨by decide +kernel, by decide +kernel, (by decide +kernel), by decide +kernel⟩, unit_wit (by decide +kernel), by decide +kernel⟩⟩
set_option maxRecDepth 40000 in
/-- Meets the hypotheses of each clause of Obligations.DataWrites (part 2). -/
theorem witness_DataWrites_2 :
    (∃ (s : State) (c : Nat) (x : DataIn) (w : State) (e : Ending), (isHost c = true ∧ anvilMode s = true ∧ opcOf s c = 8 ∧ (th s c).st = TSt.ready ∧ (th s c).charged = true ∧ ∀ (st res : Nat), (th s c).cont ≠ Cont.ending st res) ∧ (th s c).work = none ∧ (billetsOf s (sysBase s (bVol (cx s c).block) (bSlba (cx s c).block)) (bNblk (cx s c).block + 1)).any (lockBusy s c) = false ∧ readable s c (sysBase s (bVol (cx s c).block) (bSlba (cx s c).block)) (bNblk (cx s c).block + 1) x = true ∧ (flashPages (lockAll s c (billetsOf s (sysBase s (bVol (cx s c).block) (bSlba (cx s c).block)) (bNblk (cx s c).block + 1))) (sysBase s (bVol (cx s c).block) (bSlba (cx s c).block)) (bNblk (cx s c).block + 1) = [] ∧ w = lockAll s c (billetsOf s (sysBase s (bVol (cx s c).block) (bSlba (cx s c).block)) (bNblk (cx s c).block + 1)) ∨ flashPages (lockAll s c (billetsOf s (sysBase s (bVol (cx s c).block) (bSlba (cx s c).block)) (bNblk (cx s c).block + 1))) (sysBase s (bVol (cx s c).block) (bSlba (cx s c).block)) (bNblk (cx s c).block + 1) ≠ [] ∧ ∃ (v : State), draw (lockAll s c (billetsOf s (sysBase s (bVol (cx s c).block) (bSlba (cx s c).block)) (bNblk (cx s c).block + 1))) c 0 1 false = (true, v) ∧ w = suspendFor v (flashPages (lockAll s c (billetsOf s (sysBase s (bVol (cx s c).block) (bSlba (cx s c).block)) (bNblk (cx s c).block + 1))) (sysBase s (bVol (cx s c).block) (bSlba (cx s c).block)) (bNblk (cx s c).block + 1))) ∧ (compareBlocks w c x).bad = some e) ∧
    (∃ (s : State) (c : Nat) (x : DataIn) (w : State) (ps : List Put) (a : State) (v : State) (ovl : Bool), (isHost c = true ∧ anvilMode s = true ∧ opcOf s c = 8 ∧ (th s c).st = TSt.ready ∧ (th s c).charged = true ∧ ∀ (st res : Nat), (th s c).cont ≠ Cont.ending st res) ∧ (th s c).work = none ∧ (billetsOf s (sysBase s (bVol (cx s c).block) (bSlba (cx s c).block)) (bNblk (cx s c).block + 1)).any (lockBusy s c) = false ∧ readable s c (sysBase s (bVol (cx s c).block) (bSlba (cx s c).block)) (bNblk (cx s c).block + 1) x = true ∧ (flashPages (lockAll s c (billetsOf s (sysBase s (bVol (cx s c).block) (bSlba (cx s c).block)) (bNblk (cx s c).block + 1))) (sysBase s (bVol (cx s c).block) (bSlba (cx s c).block)) (bNblk (cx s c).block + 1) = [] ∧ w = lockAll s c (billetsOf s (sysBase s (bVol (cx s c).block) (bSlba (cx s c).block)) (bNblk (cx s c).block + 1)) ∨ flashPages (lockAll s c (billetsOf s (sysBase s (bVol (cx s c).block) (bSlba (cx s c).block)) (bNblk (cx s c).block + 1))) (sysBase s (bVol (cx s c).block) (bSlba (cx s c).block)) (bNblk (cx s c).block + 1) ≠ [] ∧ ∃ (v : State), draw (lockAll s c (billetsOf s (sysBase s (bVol (cx s c).block) (bSlba (cx s c).block)) (bNblk (cx s c).block + 1))) c 0 1 false = (true, v) ∧ w = suspendFor v (flashPages (lockAll s c (billetsOf s (sysBase s (bVol (cx s c).block) (bSlba (cx s c).block)) (bNblk (cx s c).block + 1))) (sysBase s (bVol (cx s c).block) (bSlba (cx s c).block)) (bNblk (cx s c).block + 1))) ∧ (compareBlocks w c x).bad = none ∧ hostPuts (freeRead (compareBlocks w c x).s c) c x (bNblk (cx s c).block + 1) = (Sum.inr ps, a) ∧ (partOf s c).1 / 256 = ((partOf s c).1 + (bNblk (cx s c).block + 1) - 1) / 256 ∧ ((cx (modTh a c fun (y : Thread) => { y with work := some { puts := ps, ending := (compareBlocks w c x).okEnd 0 } }) c).block = (cx s c).block ∧ partOf (modTh a c fun (y : Thread) => { y with work := some { puts := ps, ending := (compareBlocks w c x).okEnd 0 } }) c = partOf s c ∧ sysBase (modTh a c fun (y : Thread) => { y with work := some { puts := ps, ending := (compareBlocks w c x).okEnd 0 } }) (bVol (cx s c).block) (bSlba (cx s c).block) = sysBase s (bVol (cx s c).block) (bSlba (cx s c).block) ∧ (th (modTh a c fun (y : Thread) => { y with work := some { puts := ps, ending := (compareBlocks w c x).okEnd 0 } }) c).unitAt = 0) ∧ ps.length = bNblk (cx s c).block + 1 ∧ placeUnit (modTh a c fun (y : Thread) => { y with work := some { puts := ps, ending := (compareBlocks w c x).okEnd 0 } }) c ((partOf s c).1 / 256) 0 (sysBase s (bVol (cx s c).block) (bSlba (cx s c).block)) true x.flaws ps = (UnitRes.hold ovl, v) ∧ (th v c).st ≠ TSt.waiting) ∧
    (∃ (s : State) (c : Nat) (x : DataIn) (w : State) (ps : List Put) (a : State) (v : State) (pool : Nat), (isHost c = true ∧ anvilMode s = true ∧ opcOf s c = 8 ∧ (th s c).st = TSt.ready ∧ (th s c).charged = true ∧ ∀ (st res : Nat), (th s c).cont ≠ Cont.ending st res) ∧ (th s c).work = none ∧ (billetsOf s (sysBase s (bVol (cx s c).block) (bSlba (cx s c).block)) (bNblk (cx s c).block + 1)).any (lockBusy s c) = false ∧ readable s c (sysBase s (bVol (cx s c).block) (bSlba (cx s c).block)) (bNblk (cx s c).block + 1) x = true ∧ (flashPages (lockAll s c (billetsOf s (sysBase s (bVol (cx s c).block) (bSlba (cx s c).block)) (bNblk (cx s c).block + 1))) (sysBase s (bVol (cx s c).block) (bSlba (cx s c).block)) (bNblk (cx s c).block + 1) = [] ∧ w = lockAll s c (billetsOf s (sysBase s (bVol (cx s c).block) (bSlba (cx s c).block)) (bNblk (cx s c).block + 1)) ∨ flashPages (lockAll s c (billetsOf s (sysBase s (bVol (cx s c).block) (bSlba (cx s c).block)) (bNblk (cx s c).block + 1))) (sysBase s (bVol (cx s c).block) (bSlba (cx s c).block)) (bNblk (cx s c).block + 1) ≠ [] ∧ ∃ (v : State), draw (lockAll s c (billetsOf s (sysBase s (bVol (cx s c).block) (bSlba (cx s c).block)) (bNblk (cx s c).block + 1))) c 0 1 false = (true, v) ∧ w = suspendFor v (flashPages (lockAll s c (billetsOf s (sysBase s (bVol (cx s c).block) (bSlba (cx s c).block)) (bNblk (cx s c).block + 1))) (sysBase s (bVol (cx s c).block) (bSlba (cx s c).block)) (bNblk (cx s c).block + 1))) ∧ (compareBlocks w c x).bad = none ∧ hostPuts (freeRead (compareBlocks w c x).s c) c x (bNblk (cx s c).block + 1) = (Sum.inr ps, a) ∧ (partOf s c).1 / 256 = ((partOf s c).1 + (bNblk (cx s c).block + 1) - 1) / 256 ∧ ((cx (modTh a c fun (y : Thread) => { y with work := some { puts := ps, ending := (compareBlocks w c x).okEnd 0 } }) c).block = (cx s c).block ∧ partOf (modTh a c fun (y : Thread) => { y with work := some { puts := ps, ending := (compareBlocks w c x).okEnd 0 } }) c = partOf s c ∧ sysBase (modTh a c fun (y : Thread) => { y with work := some { puts := ps, ending := (compareBlocks w c x).okEnd 0 } }) (bVol (cx s c).block) (bSlba (cx s c).block) = sysBase s (bVol (cx s c).block) (bSlba (cx s c).block) ∧ (th (modTh a c fun (y : Thread) => { y with work := some { puts := ps, ending := (compareBlocks w c x).okEnd 0 } }) c).unitAt = 0) ∧ ps.length = bNblk (cx s c).block + 1 ∧ placeUnit (modTh a c fun (y : Thread) => { y with work := some { puts := ps, ending := (compareBlocks w c x).okEnd 0 } }) c ((partOf s c).1 / 256) 0 (sysBase s (bVol (cx s c).block) (bSlba (cx s c).block)) true x.flaws ps = (UnitRes.park pool, v)) ∧
    (∃ (s : State) (c : Nat) (x : DataIn) (w : State) (ps : List Put) (a : State) (v : State) (f : Ending), (isHost c = true ∧ anvilMode s = true ∧ opcOf s c = 8 ∧ (th s c).st = TSt.ready ∧ (th s c).charged = true ∧ ∀ (st res : Nat), (th s c).cont ≠ Cont.ending st res) ∧ (th s c).work = none ∧ (billetsOf s (sysBase s (bVol (cx s c).block) (bSlba (cx s c).block)) (bNblk (cx s c).block + 1)).any (lockBusy s c) = false ∧ readable s c (sysBase s (bVol (cx s c).block) (bSlba (cx s c).block)) (bNblk (cx s c).block + 1) x = true ∧ (flashPages (lockAll s c (billetsOf s (sysBase s (bVol (cx s c).block) (bSlba (cx s c).block)) (bNblk (cx s c).block + 1))) (sysBase s (bVol (cx s c).block) (bSlba (cx s c).block)) (bNblk (cx s c).block + 1) = [] ∧ w = lockAll s c (billetsOf s (sysBase s (bVol (cx s c).block) (bSlba (cx s c).block)) (bNblk (cx s c).block + 1)) ∨ flashPages (lockAll s c (billetsOf s (sysBase s (bVol (cx s c).block) (bSlba (cx s c).block)) (bNblk (cx s c).block + 1))) (sysBase s (bVol (cx s c).block) (bSlba (cx s c).block)) (bNblk (cx s c).block + 1) ≠ [] ∧ ∃ (v : State), draw (lockAll s c (billetsOf s (sysBase s (bVol (cx s c).block) (bSlba (cx s c).block)) (bNblk (cx s c).block + 1))) c 0 1 false = (true, v) ∧ w = suspendFor v (flashPages (lockAll s c (billetsOf s (sysBase s (bVol (cx s c).block) (bSlba (cx s c).block)) (bNblk (cx s c).block + 1))) (sysBase s (bVol (cx s c).block) (bSlba (cx s c).block)) (bNblk (cx s c).block + 1))) ∧ (compareBlocks w c x).bad = none ∧ hostPuts (freeRead (compareBlocks w c x).s c) c x (bNblk (cx s c).block + 1) = (Sum.inr ps, a) ∧ (partOf s c).1 / 256 = ((partOf s c).1 + (bNblk (cx s c).block + 1) - 1) / 256 ∧ ((cx (modTh a c fun (y : Thread) => { y with work := some { puts := ps, ending := (compareBlocks w c x).okEnd 0 } }) c).block = (cx s c).block ∧ partOf (modTh a c fun (y : Thread) => { y with work := some { puts := ps, ending := (compareBlocks w c x).okEnd 0 } }) c = partOf s c ∧ sysBase (modTh a c fun (y : Thread) => { y with work := some { puts := ps, ending := (compareBlocks w c x).okEnd 0 } }) (bVol (cx s c).block) (bSlba (cx s c).block) = sysBase s (bVol (cx s c).block) (bSlba (cx s c).block) ∧ (th (modTh a c fun (y : Thread) => { y with work := some { puts := ps, ending := (compareBlocks w c x).okEnd 0 } }) c).unitAt = 0) ∧ ps.length = bNblk (cx s c).block + 1 ∧ placeUnit (modTh a c fun (y : Thread) => { y with work := some { puts := ps, ending := (compareBlocks w c x).okEnd 0 } }) c ((partOf s c).1 / 256) 0 (sysBase s (bVol (cx s c).block) (bSlba (cx s c).block)) true x.flaws ps = (UnitRes.stop f, v) ∧ (th v c).st ≠ TSt.faulted ∧ (∀ r ∈ v.buf.reqs, r.t ≠ c) ∧ recsOut v c = false) ∧
    (∃ (s : State) (c : Nat) (x : DataIn) (w : State) (e : Ending), (isHost c = true ∧ anvilMode s = true ∧ opcOf s c = 9 ∧ (th s c).st = TSt.ready ∧ (th s c).charged = true ∧ ∀ (st res : Nat), (th s c).cont ≠ Cont.ending st res) ∧ (th s c).work = none ∧ readable s c (sysBase s (bAux (cx s c).block) (bArg (cx s c).block)) (bNblk (cx s c).block + 1) x = true ∧ (flashPages s (sysBase s (bAux (cx s c).block) (bArg (cx s c).block)) (bNblk (cx s c).block + 1) = [] ∧ w = s ∨ flashPages s (sysBase s (bAux (cx s c).block) (bArg (cx s c).block)) (bNblk (cx s c).block + 1) ≠ [] ∧ ∃ (v : State), draw s c 0 1 false = (true, v) ∧ w = suspendFor v (flashPages s (sysBase s (bAux (cx s c).block) (bArg (cx s c).block)) (bNblk (cx s c).block + 1))) ∧ (copyBlocks w c x).1.bad = some e) ∧
    (∃ (s : State) (c : Nat) (x : DataIn) (w : State) (v : State), (isHost c = true ∧ anvilMode s = true ∧ opcOf s c = 9 ∧ (th s c).st = TSt.ready ∧ (th s c).charged = true ∧ ∀ (st res : Nat), (th s c).cont ≠ Cont.ending st res) ∧ (th s c).work = none ∧ readable s c (sysBase s (bAux (cx s c).block) (bArg (cx s c).block)) (bNblk (cx s c).block + 1) x = true ∧ (flashPages s (sysBase s (bAux (cx s c).block) (bArg (cx s c).block)) (bNblk (cx s c).block + 1) = [] ∧ w = s ∨ flashPages s (sysBase s (bAux (cx s c).block) (bArg (cx s c).block)) (bNblk (cx s c).block + 1) ≠ [] ∧ ∃ (v : State), draw s c 0 1 false = (true, v) ∧ w = suspendFor v (flashPages s (sysBase s (bAux (cx s c).block) (bArg (cx s c).block)) (bNblk (cx s c).block + 1))) ∧ (copyBlocks w c x).1.bad = none ∧ (partOf s c).1 / 256 = ((partOf s c).1 + (bNblk (cx s c).block + 1) - 1) / 256 ∧ ((cx (modTh (freeRead (copyBlocks w c x).1.s c) c fun (y : Thread) => { y with work := some { puts := (copyBlocks w c x).2, ending := (copyBlocks w c x).1.okEnd 0 } }) c).block = (cx s c).block ∧ partOf (modTh (freeRead (copyBlocks w c x).1.s c) c fun (y : Thread) => { y with work := some { puts := (copyBlocks w c x).2, ending := (copyBlocks w c x).1.okEnd 0 } }) c = partOf s c ∧ sysBase (modTh (freeRead (copyBlocks w c x).1.s c) c fun (y : Thread) => { y with work := some { puts := (copyBlocks w c x).2, ending := (copyBlocks w c x).1.okEnd 0 } }) (bVol (cx s c).block) (bSlba (cx s c).block) = sysBase s (bVol (cx s c).block) (bSlba (cx s c).block) ∧ (th (modTh (freeRead (copyBlocks w c x).1.s c) c fun (y : Thread) => { y with work := some { puts := (copyBlocks w c x).2, ending := (copyBlocks w c x).1.okEnd 0 } }) c).unitAt = 0) ∧ (copyBlocks w c x).2.length = bNblk (cx s c).block + 1 ∧ placeUnit (modTh (freeRead (copyBlocks w c x).1.s c) c fun (y : Thread) => { y with work := some { puts := (copyBlocks w c x).2, ending := (copyBlocks w c x).1.okEnd 0 } }) c ((partOf s c).1 / 256) 0 (sysBase s (bVol (cx s c).block) (bSlba (cx s c).block)) true x.flaws (copyBlocks w c x).2 = (UnitRes.placed, v) ∧ (th v c).st ≠ TSt.faulted ∧ (th v c).why ≠ Why.lock ∧ opcOf v c ∈ [2, 3, 4, 8, 9] ∧ (∀ r ∈ v.buf.reqs, r.t ≠ c) ∧ recsOut v c = false) ∧
    (∃ (s : State) (c : Nat) (x : DataIn) (w : State) (v : State), (isHost c = true ∧ anvilMode s = true ∧ opcOf s c = 9 ∧ (th s c).st = TSt.ready ∧ (th s c).charged = true ∧ ∀ (st res : Nat), (th s c).cont ≠ Cont.ending st res) ∧ (th s c).work = none ∧ readable s c (sysBase s (bAux (cx s c).block) (bArg (cx s c).block)) (bNblk (cx s c).block + 1) x = true ∧ (flashPages s (sysBase s (bAux (cx s c).block) (bArg (cx s c).block)) (bNblk (cx s c).block + 1) = [] ∧ w = s ∨ flashPages s (sysBase s (bAux (cx s c).block) (bArg (cx s c).block)) (bNblk (cx s c).block + 1) ≠ [] ∧ ∃ (v : State), draw s c 0 1 false = (true, v) ∧ w = suspendFor v (flashPages s (sysBase s (bAux (cx s c).block) (bArg (cx s c).block)) (bNblk (cx s c).block + 1))) ∧ (copyBlocks w c x).1.bad = none ∧ (partOf s c).1 / 256 = ((partOf s c).1 + (bNblk (cx s c).block + 1) - 1) / 256 ∧ ((cx (modTh (freeRead (copyBlocks w c x).1.s c) c fun (y : Thread) => { y with work := some { puts := (copyBlocks w c x).2, ending := (copyBlocks w c x).1.okEnd 0 } }) c).block = (cx s c).block ∧ partOf (modTh (freeRead (copyBlocks w c x).1.s c) c fun (y : Thread) => { y with work := some { puts := (copyBlocks w c x).2, ending := (copyBlocks w c x).1.okEnd 0 } }) c = partOf s c ∧ sysBase (modTh (freeRead (copyBlocks w c x).1.s c) c fun (y : Thread) => { y with work := some { puts := (copyBlocks w c x).2, ending := (copyBlocks w c x).1.okEnd 0 } }) (bVol (cx s c).block) (bSlba (cx s c).block) = sysBase s (bVol (cx s c).block) (bSlba (cx s c).block) ∧ (th (modTh (freeRead (copyBlocks w c x).1.s c) c fun (y : Thread) => { y with work := some { puts := (copyBlocks w c x).2, ending := (copyBlocks w c x).1.okEnd 0 } }) c).unitAt = 0) ∧ (copyBlocks w c x).2.length = bNblk (cx s c).block + 1 ∧ placeUnit (modTh (freeRead (copyBlocks w c x).1.s c) c fun (y : Thread) => { y with work := some { puts := (copyBlocks w c x).2, ending := (copyBlocks w c x).1.okEnd 0 } }) c ((partOf s c).1 / 256) 0 (sysBase s (bVol (cx s c).block) (bSlba (cx s c).block)) true x.flaws (copyBlocks w c x).2 = (UnitRes.placed, v) ∧ (th v c).st ≠ TSt.faulted ∧ (∀ r ∈ v.buf.reqs, r.t ≠ c) ∧ recsOut v c = true) ∧
    (∃ (s : State) (c : Nat) (x : DataIn) (w : State) (v : State) (j : Nat), (isHost c = true ∧ anvilMode s = true ∧ opcOf s c = 9 ∧ (th s c).st = TSt.ready ∧ (th s c).charged = true ∧ ∀ (st res : Nat), (th s c).cont ≠ Cont.ending st res) ∧ (th s c).work = none ∧ readable s c (sysBase s (bAux (cx s c).block) (bArg (cx s c).block)) (bNblk (cx s c).block + 1) x = true ∧ (flashPages s (sysBase s (bAux (cx s c).block) (bArg (cx s c).block)) (bNblk (cx s c).block + 1) = [] ∧ w = s ∨ flashPages s (sysBase s (bAux (cx s c).block) (bArg (cx s c).block)) (bNblk (cx s c).block + 1) ≠ [] ∧ ∃ (v : State), draw s c 0 1 false = (true, v) ∧ w = suspendFor v (flashPages s (sysBase s (bAux (cx s c).block) (bArg (cx s c).block)) (bNblk (cx s c).block + 1))) ∧ (copyBlocks w c x).1.bad = none ∧ (partOf s c).1 / 256 = ((partOf s c).1 + (bNblk (cx s c).block + 1) - 1) / 256 ∧ ((cx (modTh (freeRead (copyBlocks w c x).1.s c) c fun (y : Thread) => { y with work := some { puts := (copyBlocks w c x).2, ending := (copyBlocks w c x).1.okEnd 0 } }) c).block = (cx s c).block ∧ partOf (modTh (freeRead (copyBlocks w c x).1.s c) c fun (y : Thread) => { y with work := some { puts := (copyBlocks w c x).2, ending := (copyBlocks w c x).1.okEnd 0 } }) c = partOf s c ∧ sysBase (modTh (freeRead (copyBlocks w c x).1.s c) c fun (y : Thread) => { y with work := some { puts := (copyBlocks w c x).2, ending := (copyBlocks w c x).1.okEnd 0 } }) (bVol (cx s c).block) (bSlba (cx s c).block) = sysBase s (bVol (cx s c).block) (bSlba (cx s c).block) ∧ (th (modTh (freeRead (copyBlocks w c x).1.s c) c fun (y : Thread) => { y with work := some { puts := (copyBlocks w c x).2, ending := (copyBlocks w c x).1.okEnd 0 } }) c).unitAt = 0) ∧ (copyBlocks w c x).2.length = bNblk (cx s c).block + 1 ∧ placeUnit (modTh (freeRead (copyBlocks w c x).1.s c) c fun (y : Thread) => { y with work := some { puts := (copyBlocks w c x).2, ending := (copyBlocks w c x).1.okEnd 0 } }) c ((partOf s c).1 / 256) 0 (sysBase s (bVol (cx s c).block) (bSlba (cx s c).block)) true x.flaws (copyBlocks w c x).2 = (UnitRes.busy j, v)) ∧
    (∃ (s : State) (c : Nat) (x : DataIn) (w : State) (v : State) (ovl : Bool), (isHost c = true ∧ anvilMode s = true ∧ opcOf s c = 9 ∧ (th s c).st = TSt.ready ∧ (th s c).charged = true ∧ ∀ (st res : Nat), (th s c).cont ≠ Cont.ending st res) ∧ (th s c).work = none ∧ readable s c (sysBase s (bAux (cx s c).block) (bArg (cx s c).block)) (bNblk (cx s c).block + 1) x = true ∧ (flashPages s (sysBase s (bAux (cx s c).block) (bArg (cx s c).block)) (bNblk (cx s c).block + 1) = [] ∧ w = s ∨ flashPages s (sysBase s (bAux (cx s c).block) (bArg (cx s c).block)) (bNblk (cx s c).block + 1) ≠ [] ∧ ∃ (v : State), draw s c 0 1 false = (true, v) ∧ w = suspendFor v (flashPages s (sysBase s (bAux (cx s c).block) (bArg (cx s c).block)) (bNblk (cx s c).block + 1))) ∧ (copyBlocks w c x).1.bad = none ∧ (partOf s c).1 / 256 = ((partOf s c).1 + (bNblk (cx s c).block + 1) - 1) / 256 ∧ ((cx (modTh (freeRead (copyBlocks w c x).1.s c) c fun (y : Thread) => { y with work := some { puts := (copyBlocks w c x).2, ending := (copyBlocks w c x).1.okEnd 0 } }) c).block = (cx s c).block ∧ partOf (modTh (freeRead (copyBlocks w c x).1.s c) c fun (y : Thread) => { y with work := some { puts := (copyBlocks w c x).2, ending := (copyBlocks w c x).1.okEnd 0 } }) c = partOf s c ∧ sysBase (modTh (freeRead (copyBlocks w c x).1.s c) c fun (y : Thread) => { y with work := some { puts := (copyBlocks w c x).2, ending := (copyBlocks w c x).1.okEnd 0 } }) (bVol (cx s c).block) (bSlba (cx s c).block) = sysBase s (bVol (cx s c).block) (bSlba (cx s c).block) ∧ (th (modTh (freeRead (copyBlocks w c x).1.s c) c fun (y : Thread) => { y with work := some { puts := (copyBlocks w c x).2, ending := (copyBlocks w c x).1.okEnd 0 } }) c).unitAt = 0) ∧ (copyBlocks w c x).2.length = bNblk (cx s c).block + 1 ∧ placeUnit (modTh (freeRead (copyBlocks w c x).1.s c) c fun (y : Thread) => { y with work := some { puts := (copyBlocks w c x).2, ending := (copyBlocks w c x).1.okEnd 0 } }) c ((partOf s c).1 / 256) 0 (sysBase s (bVol (cx s c).block) (bSlba (cx s c).block)) true x.flaws (copyBlocks w c x).2 = (UnitRes.hold ovl, v) ∧ (th v c).st ≠ TSt.waiting) ∧
    (∃ (s : State) (c : Nat) (x : DataIn) (st : Nat → State) (ps : List Put), st 0 = s ∧ ps.length = bNblk (cx s c).block + 1 ∧ (∀ k < bNblk (cx s c).block + 1, ∃ (d : List Byte) (p : List Byte) (kd : Nat), readBlock (st k) c k (sysBase s (bAux (cx s c).block) (bArg (cx s c).block) + k) (bArg (cx s c).block + k) true x = (BlkRes.ok kd d p false, st (k + 1)) ∧ ps[k]? = some (if kd = 0 then Put.unmap else if kd = 1 then Put.zero else Put.data d p))) ∧
    (∃ (s : State) (c : Nat) (ps : List Put) (v : State), (∀ p ∈ ps, p.isData = false) ∧ (billetsOf s (sysBase s (bVol (cx s c).block) (bSlba (cx s c).block)) ps.length).any (lockBusy s c) = false ∧ genReady s = true ∧ commitErrs s (unitEnts s (sysBase s (bVol (cx s c).block) (bSlba (cx s c).block)) 0 false [] ps) = (false, v) ∧ overlayRoom v c (List.map (entOf v) (unitEnts s (sysBase s (bVol (cx s c).block) (bSlba (cx s c).block)) 0 false [] ps)) = true ∧ ringRoom v (64 + 24 * (unitEnts s (sysBase s (bVol (cx s c).block) (bSlba (cx s c).block)) 0 false [] ps).length) = true) :=
  ⟨⟨latch (DataWrites.zeroed DataWrites.dbase) (blk 8 1 0 0 0 0) rdy, 1, { (x0) with data := [1] }, DataWrites.lk (latch (DataWrites.zeroed DataWrites.dbase) (blk 8 1 0 0 0 0) rdy), _, ⟨by decide +kernel, by decide +kernel, by decide +kernel, (by decide +kernel), by decide +kernel, not_ending (by decide +kernel)⟩, by decide +kernel, by decide +kernel, by decide +kernel, .inl ⟨by decide +kernel, rfl⟩, some_wit (by decide +kernel)⟩,
    ⟨(latch (DataWrites.zeroed (DataWrites.fullR DataWrites.dbase)) (blk 8 1 0 0 0 0) rdy), 1, x0, DataWrites.lk ((latch (DataWrites.zeroed (DataWrites.fullR DataWrites.dbase)) (blk 8 1 0 0 0 0) rdy)), _, _, _, false, ⟨by decide +kernel, by decide +kernel, by decide +kernel, (by decide +kernel), by decide +kernel, not_ending (by decide +kernel)⟩, by decide +kernel, by decide +kernel, by decide +kernel, .inl ⟨by decide +kernel, rfl⟩, by decide +kernel, right_wit (by decide +kernel), by decide +kernel, ⟨by decide +kernel, by decide +kernel, (by decide +kernel), by decide +kernel⟩, by decide +kernel, unit_at (v := 0) (m := 1024) (by decide +kernel) (by decide +kernel) (by decide) (by decide +kernel), by decide +kernel⟩,
    ⟨(latch (DataWrites.zeroed (DataWrites.noWb DataWrites.dbase)) (blk 8 1 0 0 0 0) rdy), 1, x0, DataWrites.lk ((latch (DataWrites.zeroed (DataWrites.noWb DataWrites.dbase)) (blk 8 1 0 0 0 0) rdy)), _, _, _, 2, ⟨by decide +kernel, by decide +kernel, by decide +kernel, (by decide +kernel), by decide +kernel, not_ending (by decide +kernel)⟩, by decide +kernel, by decide +kernel, by decide +kernel, .inl ⟨by decide +kernel, rfl⟩, by decide +kernel, right_wit (by decide +kernel), by decide +kernel, ⟨by decide +kernel, by decide +kernel, (by decide +kernel), by decide +kernel⟩, by decide +kernel, unit_wit (by decide +kernel)⟩,
    ⟨(latch (DataWrites.zeroed (DataWrites.down DataWrites.dbase)) (blk 8 1 0 0 0 0) rdy), 1, x0, DataWrites.lk ((latch (DataWrites.zeroed (DataWrites.down DataWrites.dbase)) (blk 8 1 0 0 0 0) rdy)), _, _, _, failBlk 0x41 0x10 0 0, ⟨by decide +kernel, by decide +kernel, by decide +kernel, (by decide +kernel), by decide +kernel, not_ending (by decide +kernel)⟩, by decide +kernel, by decide +kernel, by decide +kernel, .inl ⟨by decide +kernel, rfl⟩, by decide +kernel, right_wit (by decide +kernel), by decide +kernel, ⟨by decide +kernel, by decide +kernel, (by decide +kernel), by decide +kernel⟩, by decide +kernel, unit_wit (by decide +kernel), by decide +kernel, by decide +kernel, by decide +kernel⟩,
    ⟨DataWrites.sb, 1, x0, DataWrites.sb, _, ⟨by decide +kernel, by decide +kernel, by decide +kernel, (by decide +kernel), by decide +kernel, not_ending (by decide +kernel)⟩, by decide +kernel, by decide +kernel, .inl ⟨by decide +kernel, rfl⟩, some_wit (by decide +kernel)⟩,
    ⟨latch DataWrites.dbase (blk 9 1 0 0 0 (2 ^ 8)) rdy, 1, x0, latch DataWrites.dbase (blk 9 1 0 0 0 (2 ^ 8)) rdy, _, ⟨by decide +kernel, by decide +kernel, by decide +kernel, (by decide +kernel), by decide +kernel, not_ending (by decide +kernel)⟩, by decide +kernel, by decide +kernel, .inl ⟨by decide +kernel, rfl⟩, by decide +kernel, by decide +kernel, ⟨by decide +kernel, (by decide +kernel), by decide +kernel, by decide +kernel⟩, by decide +kernel, unit_wit (by decide +kernel), by decide +kernel, by decide +kernel, by decide +kernel, (by decide +kernel), by decide +kernel⟩,
    ⟨(latch (DataWrites.held DataWrites.dbase) (blk 9 1 0 0 0 (2 ^ 8)) rdy), 1, x0, (latch (DataWrites.held DataWrites.dbase) (blk 9 1 0 0 0 (2 ^ 8)) rdy), _, ⟨by decide +kernel, by decide +kernel, by decide +kernel, (by decide +kernel), by decide +kernel, not_ending (by decide +kernel)⟩, by decide +kernel, by decide +kernel, .inl ⟨by decide +kernel, rfl⟩, by decide +kernel, by decide +kernel, ⟨by decide +kernel, (by decide +kernel), by decide +kernel, by decide +kernel⟩, by decide +kernel, unit_wit (by decide +kernel), by decide +kernel, by decide +kernel, by decide +kernel⟩,
    ⟨(latch (DataWrites.busy DataWrites.dbase) (blk 9 1 0 0 0 (2 ^ 8)) rdy), 1, x0, (latch (DataWrites.busy DataWrites.dbase) (blk 9 1 0 0 0 (2 ^ 8)) rdy), _, 4, ⟨by decide +kernel, by decide +kernel, by decide +kernel, (by decide +kernel), by decide +kernel, not_ending (by decide +kernel)⟩, by decide +kernel, by decide +kernel, .inl ⟨by decide +kernel, rfl⟩, by decide +kernel, by decide +kernel, ⟨by decide +kernel, (by decide +kernel), by decide +kernel, by decide +kernel⟩, by decide +kernel, unit_wit (by decide +kernel)⟩,
    ⟨(latch (DataWrites.fullR DataWrites.dbase) (blk 9 1 0 0 0 (2 ^ 8)) rdy), 1, x0, (latch (DataWrites.fullR DataWrites.dbase) (blk 9 1 0 0 0 (2 ^ 8)) rdy), _, false, ⟨by decide +kernel, by decide +kernel, by decide +kernel, (by decide +kernel), by decide +kernel, not_ending (by decide +kernel)⟩, by decide +kernel, by decide +kernel, .inl ⟨by decide +kernel, rfl⟩, by decide +kernel, by decide +kernel, ⟨by decide +kernel, (by decide +kernel), by decide +kernel, by decide +kernel⟩, by decide +kernel, unit_wit (by decide +kernel), by decide +kernel⟩,
    ⟨latch DataWrites.dbase (blk 9 1 0 0 0 (2 ^ 8)) rdy, 1, x0, DataWrites.two (latch DataWrites.dbase (blk 9 1 0 0 0 (2 ^ 8)) rdy) (readBlock (latch DataWrites.dbase (blk 9 1 0 0 0 (2 ^ 8)) rdy) 1 0 (sysBase (latch DataWrites.dbase (blk 9 1 0 0 0 (2 ^ 8)) rdy) 0 256 + 0) 256 true x0).2, [Put.unmap], by decide +kernel, by decide +kernel, lt_one (by decide +kernel) ⟨_, _, 0, blk_ok (by decide +kernel) (by decide +kernel) rfl rfl (by decide +kernel), rfl⟩⟩,
    ⟨latch DataWrites.dbase (blk 9 1 0 0 0 (2 ^ 8)) rdy, 1, [Put.zero], _, by decide +kernel, by decide +kernel, by decide +kernel, fst_wit (by decide +kernel), by decide +kernel, by decide +kernel⟩⟩

/-! ### AdminChecks -/
namespace AdminChecks
def frz (b : State) : State := setF b CAS_STAT_FROZEN 1
end AdminChecks
/-- Meets the hypotheses of each clause of Obligations.AdminChecks. -/
theorem witness_AdminChecks :
    (∃ (s : State) (pb : ParamBuf) (i : Instr) (o : Nat) (modes : List Nat) (r : HelmReq), (i, o, modes) ∈ [(Instr.volumeCreate, 128, [mRun, mService]), (Instr.volumeDelete, 129, [mRun, mService]), (Instr.setTime, 134, [mRun, mService, mSafe]), (Instr.almanacSet pb, 135, [mRun, mService]), (Instr.swapRole, 137, [mRun]), (Instr.attest pb, 138, [mRun, mService, mSafe]), (Instr.format, 139, [mService]), (Instr.settingsWipe, 140, [mService]), (Instr.quotaSet pb, 141, [mRun, mService]), (Instr.logClear, 142, [mRun, mService, mSafe]), (Instr.enroll pb, 143, [mService])] ∧ nextReq s = some r ∧ (o = 128 ∨ o = 129 → helmRoom s = true) ∧ reqOpc r ≠ o) ∧
    (∃ (s : State) (pb : ParamBuf) (i : Instr) (o : Nat) (modes : List Nat) (r : HelmReq), (i, o, modes) ∈ [(Instr.volumeCreate, 128, [mRun, mService]), (Instr.volumeDelete, 129, [mRun, mService]), (Instr.setTime, 134, [mRun, mService, mSafe]), (Instr.almanacSet pb, 135, [mRun, mService]), (Instr.swapRole, 137, [mRun]), (Instr.attest pb, 138, [mRun, mService, mSafe]), (Instr.format, 139, [mService]), (Instr.settingsWipe, 140, [mService]), (Instr.quotaSet pb, 141, [mRun, mService]), (Instr.logClear, 142, [mRun, mService, mSafe]), (Instr.enroll pb, 143, [mService])] ∧ nextReq s = some r ∧ (o = 128 ∨ o = 129 → helmRoom s = true) ∧ reqOpc r = o ∧ s.boot.image = true ∧ mode s ≠ mOff ∧ inMode s modes = false) ∧
    (∃ (s : State) (pb : ParamBuf) (i : Instr) (o : Nat) (modes : List Nat) (r : HelmReq), (i, o, modes) ∈ [(Instr.volumeCreate, 128, [mRun, mService]), (Instr.volumeDelete, 129, [mRun, mService]), (Instr.setTime, 134, [mRun, mService, mSafe]), (Instr.almanacSet pb, 135, [mRun, mService]), (Instr.swapRole, 137, [mRun]), (Instr.attest pb, 138, [mRun, mService, mSafe]), (Instr.format, 139, [mService]), (Instr.settingsWipe, 140, [mService]), (Instr.quotaSet pb, 141, [mRun, mService]), (Instr.logClear, 142, [mRun, mService, mSafe]), (Instr.enroll pb, 143, [mService])] ∧ nextReq s = some r ∧ (o = 128 ∨ o = 129 → helmRoom s = true) ∧ reqOpc r = o ∧ s.boot.image = true ∧ mode s ≠ mOff ∧ inMode s modes = true ∧ flag s CAS_STAT_FROZEN = true ∧ [128, 129, 135, 141].contains o = true) ∧
    (∃ (s : State) (pb : ParamBuf) (i : Instr) (o : Nat) (modes : List Nat) (r : HelmReq), (i, o, modes) ∈ [(Instr.volumeCreate, 128, [mRun, mService]), (Instr.volumeDelete, 129, [mRun, mService]), (Instr.setTime, 134, [mRun, mService, mSafe]), (Instr.almanacSet pb, 135, [mRun, mService]), (Instr.swapRole, 137, [mRun]), (Instr.attest pb, 138, [mRun, mService, mSafe]), (Instr.format, 139, [mService]), (Instr.settingsWipe, 140, [mService]), (Instr.quotaSet pb, 141, [mRun, mService]), (Instr.logClear, 142, [mRun, mService, mSafe]), (Instr.enroll pb, 143, [mService])] ∧ nextReq s = some r ∧ (o = 128 ∨ o = 129 → helmRoom s = true) ∧ asked s r o modes ∧ r.src ≠ 9999 ∧ blkField r.block 48 8 % 16 ≠ 0 ∧ [134, 137, 140, 142].contains o = true) ∧
    (∃ (s : State) (pb : ParamBuf) (i : Instr) (o : Nat) (modes : List Nat) (r : HelmReq) (d : Nat) (need : Nat), (i, o, modes) ∈ [(Instr.volumeCreate, 128, [mRun, mService]), (Instr.volumeDelete, 129, [mRun, mService]), (Instr.setTime, 134, [mRun, mService, mSafe]), (Instr.almanacSet pb, 135, [mRun, mService]), (Instr.swapRole, 137, [mRun]), (Instr.attest pb, 138, [mRun, mService, mSafe]), (Instr.format, 139, [mService]), (Instr.settingsWipe, 140, [mService]), (Instr.quotaSet pb, 141, [mRun, mService]), (Instr.logClear, 142, [mRun, mService, mSafe]), (Instr.enroll pb, 143, [mService])] ∧ nextReq s = some r ∧ (o = 128 ∨ o = 129 → helmRoom s = true) ∧ (o, need) ∈ [(135, 32), (138, 17824), (141, 64), (143, 24576)] ∧ asked s r o modes ∧ fieldCheck r true true (some need) = none ∧ bufFail s r pb = some d) ∧
    (∃ (s : State) (pb : ParamBuf) (i : Instr) (o : Nat) (modes : List Nat) (r : HelmReq) (e : Ending) (out : List Byte) (u : State), (i, o, modes) ∈ [(Instr.volumeCreate, 128, [mRun, mService]), (Instr.volumeDelete, 129, [mRun, mService]), (Instr.setTime, 134, [mRun, mService, mSafe]), (Instr.almanacSet pb, 135, [mRun, mService]), (Instr.swapRole, 137, [mRun]), (Instr.attest pb, 138, [mRun, mService, mSafe]), (Instr.format, 139, [mService]), (Instr.settingsWipe, 140, [mService]), (Instr.quotaSet pb, 141, [mRun, mService]), (Instr.logClear, 142, [mRun, mService, mSafe]), (Instr.enroll pb, 143, [mService])] ∧ nextReq s = some r ∧ (o = 128 ∨ o = 129 → helmRoom s = true) ∧ u = answerHelm (beginReq s r.src) r.src e out) :=
  ⟨⟨ask (inM 3) (rq 1 (ablk 135 9 0 32 0) []), pb0, Instr.volumeCreate, 128, [mRun, mService], _, by decide +kernel, some_wit (by decide +kernel), by decide +kernel, by decide +kernel⟩,
    ⟨(ask (lcap (inM 7) 1000) (rq 9999 (ablk 128 9 0 0 8) [])), pb0, Instr.volumeCreate, 128, [mRun, mService], _, by decide +kernel, some_wit (by decide +kernel), by decide +kernel, by decide +kernel, by decide +kernel, (by decide +kernel), by decide +kernel⟩,
    ⟨(ask (AdminChecks.frz (inM 3)) (rq 9999 (ablk 128 9 0 0 8) [])), pb0, Instr.volumeCreate, 128, [mRun, mService], _, by decide +kernel, some_wit (by decide +kernel), by decide +kernel, by decide +kernel, by decide +kernel, (by decide +kernel), by decide +kernel, by decide +kernel, by decide +kernel⟩,
    ⟨(ask (lcap (inM 3) 1000) (rq 1 (ablk 134 9 0 0 8) [])), pb0, Instr.setTime, 134, [mRun, mService, mSafe], _, by decide +kernel, some_wit (by decide +kernel), by decide +kernel, by unfold asked; decide +kernel, by decide +kernel, by decide +kernel, by decide +kernel⟩,
    ⟨ask (inM 3) (rq 1 (ablk 135 9 0 32 0) []), { (pb0) with fail := 6 }, Instr.almanacSet ({ pb0 with fail := 6 }), 135, [mRun, mService], _, _, 32, by decide +kernel, some_wit (by decide +kernel), by decide +kernel, by decide +kernel, by unfold asked; decide +kernel, by decide +kernel, some_wit (by decide +kernel)⟩,
    ⟨ask (inM 3) (rq 1 (ablk 135 9 0 32 0) []), pb0, Instr.volumeCreate, 128, [mRun, mService], _, { cls := 1, detail := 2, offset := none, result := 3 }, [], _, by decide +kernel, some_wit (by decide +kernel), by decide +kernel, rfl⟩⟩

/-! ### VolumesAndBindings -/
/-- Meets the hypotheses of each clause of Obligations.VolumesAndBindings. -/
theorem witness_VolumesAndBindings :
    (∃ (s : State) (r : HelmReq) (d : Nat), helmRoom s = true ∧ asked s r 128 [mRun, mService] ∧ fieldCheck r (decide (volState (volEnt s (bits (ARG0 r) 0 13)) = 0)) (decide (1 ≤ ARG1 r) && decide (ARG1 r ≤ 4294967295)) none = some d) ∧
    (∃ (s : State) (r : HelmReq), volState (volEnt s (bits (ARG0 r) 0 13)) ≠ 0) ∧
    (∃ (s : State) (r : HelmReq), helmRoom s = true ∧ asked s r 128 [mRun, mService] ∧ fieldCheck r (decide (volState (volEnt s (bits (ARG0 r) 0 13)) = 0)) (decide (1 ≤ ARG1 r) && decide (ARG1 r ≤ 4294967295)) none = none ∧ freeBase (beginReq s r.src) (ARG1 r) = none) ∧
    (∃ (s : State) (r : HelmReq) (a : Nat), helmRoom s = true ∧ asked s r 128 [mRun, mService] ∧ fieldCheck r (decide (volState (volEnt s (bits (ARG0 r) 0 13)) = 0)) (decide (1 ≤ ARG1 r) && decide (ARG1 r ≤ 4294967295)) none = none ∧ freeBase (beginReq s r.src) (ARG1 r) = some a) ∧
    (∃ (s : State) (r : HelmReq), helmRoom s = true ∧ asked s r 129 [mRun, mService] ∧ fieldCheck r (volState (volEnt s (bits (ARG0 r) 0 13)) != 0) true none = none ∧ volState (volEnt s (bits (ARG0 r) 0 13)) = 2) ∧
    (∃ (s : State), helmRoom s = false) ∧
    (∃ (s : State) (r : HelmReq), helmRoom s = true ∧ asked s r 129 [mRun, mService] ∧ fieldCheck r (volState (volEnt s (bits (ARG0 r) 0 13)) != 0) true none = none ∧ volState (volEnt s (bits (ARG0 r) 0 13)) ≠ 2) ∧
    (∃ (s : State) (r : HelmReq), asked s r 139 [mService] ∧ fieldCheck r (volState (volEnt s (bits (ARG0 r) 0 13)) != 0) true none = none ∧ volState (volEnt s (bits (ARG0 r) 0 13)) ≠ 2) ∧
    (∃ (s : State) (r : HelmReq), asked s r 139 [mService] ∧ fieldCheck r (volState (volEnt s (bits (ARG0 r) 0 13)) != 0) true none = none ∧ volState (volEnt s (bits (ARG0 r) 0 13)) = 2) ∧
    (∃ (s : State) (m : Nat) (src : Nat) (f : Bool) (l : List (Nat × Nat × Bool)), s.x.deleting = (m, src, f) :: l ∧ s.map.rangeLock = none ∧ volDrained s m = false) ∧
    (∃ (s : State) (m : Nat) (src : Nat) (f : Bool) (l : List (Nat × Nat × Bool)), s.x.deleting = (m, src, f) :: l ∧ s.map.rangeLock ≠ none ∧ helmPending s = false ∧ helmRoom s = true) ∧
    (∃ (s : State) (r : HelmReq) (pb : ParamBuf), asked s r 130 [mRun, mService] ∧ unbind r = false ∧ fieldCheck r true true (some 1024) = none ∧ bufFail s r pb = none ∧ (∀ w ∈ List.filter (fun (v : Nat) => bit (BitVec.toNat ((reqBuf r pb).getD (v / 8) 0)) (v % 8)) (List.range 8192), volState (volEnt s w) ≠ 0 ∧ volTenant (volEnt s w) = bits (ARG0 r) 16 10) ∧ (th s (bits (ARG0 r) 0 12)).st ≠ TSt.idle) ∧
    (∃ (s : State) (r : HelmReq) (pb : ParamBuf), asked s r 130 [mRun, mService] ∧ unbind r = false ∧ fieldCheck r true true (some 1024) = none ∧ bufFail s r pb = none ∧ (∀ w ∈ List.filter (fun (v : Nat) => bit (BitVec.toNat ((reqBuf r pb).getD (v / 8) 0)) (v % 8)) (List.range 8192), volState (volEnt s w) ≠ 0 ∧ volTenant (volEnt s w) = bits (ARG0 r) 16 10) ∧ (th s (bits (ARG0 r) 0 12)).st = TSt.idle) ∧
    (∃ (s : State) (r : HelmReq), asked s r 130 [mRun, mService] ∧ unbind r = true ∧ fieldCheck r true true none = none ∧ (th s (bits (ARG0 r) 0 12)).st ≠ TSt.idle) ∧
    (∃ (s : State) (r : HelmReq), asked s r 130 [mRun, mService] ∧ unbind r = true ∧ fieldCheck r true true none = none ∧ (th s (bits (ARG0 r) 0 12)).st = TSt.idle) :=
  ⟨⟨ask (lcap (vols (inM 3)) 100) (rq 9999 (ablk 128 1 5 0 0) (if bits (ablk 128 1 5 0 0) 0 8 = 130 then [2] ++ List.replicate 1023 0 else [])), rq 9999 (ablk 128 1 5 0 0) (if bits (ablk 128 1 5 0 0) 0 8 = 130 then [2] ++ List.replicate 1023 0 else []), _, by decide +kernel, by unfold asked; decide +kernel, some_wit (by decide +kernel)⟩,
    ⟨ask (lcap (vols (inM 3)) 100) (rq 9999 (ablk 128 3 5 0 0) (if bits (ablk 128 3 5 0 0) 0 8 = 130 then [2] ++ List.replicate 1023 0 else [])), rq 9999 (ablk 128 1 5 0 0) (if bits (ablk 128 1 5 0 0) 0 8 = 130 then [2] ++ List.replicate 1023 0 else []), by decide +kernel⟩,
    ⟨ask (lcap (inM 3) 100) (rq 9999 (ablk 128 3 500 0 0) []), rq 9999 (ablk 128 3 500 0 0) [], by decide +kernel, by unfold asked; decide +kernel, by decide +kernel, freeBase_none rfl rfl (by decide +kernel)⟩,
    ⟨ask (lcap (inM 3) 100) (rq 9999 (ablk 128 3 5 0 0) []), rq 9999 (ablk 128 3 5 0 0) [], _, by decide +kernel, by unfold asked; decide +kernel, by decide +kernel, freeBase_some rfl rfl (by decide +kernel)⟩,
    ⟨ask (lcap (vols (inM 3)) 100) (rq 9999 (ablk 129 2 0 0 0) (if bits (ablk 129 2 0 0 0) 0 8 = 130 then [2] ++ List.replicate 1023 0 else [])), rq 9999 (ablk 129 2 0 0 0) (if bits (ablk 129 2 0 0 0) 0 8 = 130 then [2] ++ List.replicate 1023 0 else []), by decide +kernel, by unfold asked; decide +kernel, by decide +kernel, by decide +kernel⟩,
    ⟨{ (inM 3) with map := { ((inM 3).map) with recs := [{ (recE 1 []) with typ := JTyp.pad, a := 2 ^ 26, applied := true }] } }, by decide +kernel⟩,
    ⟨ask (lcap (vols (inM 3)) 100) (rq 9999 (ablk 129 1 0 0 0) (if bits (ablk 129 1 0 0 0) 0 8 = 130 then [2] ++ List.replicate 1023 0 else [])), rq 9999 (ablk 129 1 0 0 0) (if bits (ablk 129 1 0 0 0) 0 8 = 130 then [2] ++ List.replicate 1023 0 else []), by decide +kernel, by unfold asked; decide +kernel, by decide +kernel, by decide +kernel⟩,
    ⟨ask (lcap (vols (inM 5)) 100) (rq 9999 (ablk 139 1 0 0 0) (if bits (ablk 139 1 0 0 0) 0 8 = 130 then [2] ++ List.replicate 1023 0 else [])), rq 9999 (ablk 139 1 0 0 0) (if bits (ablk 139 1 0 0 0) 0 8 = 130 then [2] ++ List.replicate 1023 0 else []), by unfold asked; decide +kernel, by decide +kernel, by decide +kernel⟩,
    ⟨ask (lcap (vols (inM 5)) 100) (rq 9999 (ablk 139 2 0 0 0) (if bits (ablk 139 2 0 0 0) 0 8 = 130 then [2] ++ List.replicate 1023 0 else [])), rq 9999 (ablk 139 2 0 0 0) (if bits (ablk 139 2 0 0 0) 0 8 = 130 then [2] ++ List.replicate 1023 0 else []), by unfold asked; decide +kernel, by decide +kernel, by decide +kernel⟩,
    ⟨setTh ({ (vols (inM 3)) with x := { ((inM 3).x) with deleting := [(1, 9999, false)] } }) 7 ({ (hostT []) with locks := [(4, 0)] }), _, _, _, _, cons_wit (by decide +kernel), by decide +kernel, by decide +kernel⟩,
    ⟨{ (vols (inM 3)) with map := { (MapCtl.reset) with rangeLock := some (4, 2) }, x := { ((inM 3).x) with deleting := [(1, 9999, false)] } }, _, _, _, _, cons_wit (by decide +kernel), by decide +kernel, by decide +kernel, by decide +kernel⟩,
    ⟨setTh (ask (lcap (vols (inM 3)) 100) (rq 1 (ablk 130 (7 + 3 * 2 ^ 16) 0 1024 16) [])) 7 (hostT []), rq 1 (ablk 130 (7 + 3 * 2 ^ 16) 0 1024 16) [], ⟨[2], 0⟩, by unfold asked; decide +kernel, by decide +kernel, by decide +kernel, by decide +kernel, only_vol1 rfl (by decide +kernel), by decide +kernel⟩,
    ⟨ask (lcap (vols (inM 3)) 100) (rq 1 (ablk 130 (7 + 3 * 2 ^ 16) 0 1024 16) []), rq 1 (ablk 130 (7 + 3 * 2 ^ 16) 0 1024 16) [], ⟨[2], 0⟩, by unfold asked; decide +kernel, by decide +kernel, by decide +kernel, by decide +kernel, only_vol1 rfl (by decide +kernel), by decide +kernel⟩,
    ⟨setTh (ask (lcap (vols (inM 3)) 100) (rq 9999 (ablk 130 (7 + 2 ^ 31) 0 0 0) (if bits (ablk 130 (7 + 2 ^ 31) 0 0 0) 0 8 = 130 then [2] ++ List.replicate 1023 0 else []))) 7 (hostT []), rq 9999 (ablk 130 (7 + 2 ^ 31) 0 0 0) (if bits (ablk 130 (7 + 2 ^ 31) 0 0 0) 0 8 = 130 then [2] ++ List.replicate 1023 0 else []), by unfold asked; decide +kernel, by decide +kernel, by decide +kernel, by decide +kernel⟩,
    ⟨ask (lcap (vols (inM 3)) 100) (rq 9999 (ablk 130 (7 + 2 ^ 31) 0 0 0) (if bits (ablk 130 (7 + 2 ^ 31) 0 0 0) 0 8 = 130 then [2] ++ List.replicate 1023 0 else [])), rq 9999 (ablk 130 (7 + 2 ^ 31) 0 0 0) (if bits (ablk 130 (7 + 2 ^ 31) 0 0 0) 0 8 = 130 then [2] ++ List.replicate 1023 0 else []), by unfold asked; decide +kernel, by decide +kernel, by decide +kernel, by decide +kernel⟩⟩

/-! ### KeyLoads -/
namespace KeyLoads
def kobj (k p e n : Nat) : List Byte := leBytes 4 0x4B504F31 ++ leBytes 2 1 ++ leBytes 1 k ++ leBytes 1 0 ++ leBytes 2 p ++ leBytes 2 0 ++ leBytes 4 n ++ ((List.range 16).map fun i => Config.mfgByte (20480 + 816 + i)) ++ leBytes 4 e ++ List.replicate (n - 36) 0
def kk : List Nat := [0, 1, 2]
def ks : KeySet := ⟨[], [], []⟩
def k : List Nat := kk
def i : List Instr := [.keyLoadLoad pb0 5, .keyLoadRetire pb0 5, .keyLoadErase pb0 5]
def busyK (k : Nat) (b : State) : State := setTh b 1 { hostT [] with xfers := [(0, some (xf .cenc [0, 0, 0, 0, 0, 0, 0, 3, 1]))] }
end KeyLoads
set_option maxRecDepth 10000 in
/-- Meets the hypotheses of each clause of Obligations.KeyLoads. -/
theorem witness_KeyLoads :
    (∃ (s : State) (r : HelmReq), nextReq s = some r ∧ reqOpc r = 131 ∧ s.boot.image = true ∧ s.x.pair.key = none ∧ bits (ARG0 r) 16 2 = 0 ∧ keyModeBad s r = true) ∧
    (∃ (s : State) (r : HelmReq) (pb : ParamBuf), nextReq s = some r ∧ reqOpc r = 131 ∧ s.boot.image = true ∧ s.x.pair.key = none ∧ bits (ARG0 r) 16 2 = 0 ∧ (asked s r 131 [mRun, mService] ∧ keyModeBad s r = false ∧ keyBusy s 0 (bits (ARG0 r) 0 11) = false ∧ fieldCheck r (decide (bits (ARG0 r) 0 11 ≤ 1039)) true (some (if 0 = 0 then 448 else 64)) = none ∧ bufFail s r pb = none) ∧ keyWalk 1025 (reqBuf r pb) = none) ∧
    (∃ (s : State) (r : HelmReq) (pb : ParamBuf) (o : List Byte), nextReq s = some r ∧ reqOpc r = 131 ∧ s.boot.image = true ∧ s.x.pair.key = none ∧ bits (ARG0 r) 16 2 = 0 ∧ (asked s r 131 [mRun, mService] ∧ keyModeBad s r = false ∧ keyBusy s 0 (bits (ARG0 r) 0 11) = false ∧ fieldCheck r (decide (bits (ARG0 r) 0 11 ≤ 1039)) true (some (if 0 = 0 then 448 else 64)) = none ∧ bufFail s r pb = none) ∧ keyWalk 1025 (reqBuf r pb) = some [o] ∧ keyUid o = ownUid ∧ mirrors s = false ∧ keyHeadOk 0 (bits (ARG0 r) 0 11) o = true ∧ getF s CIP_EPOCH_EPOCH < keyEpoch o ∧ keyFits s 0 (bits (ARG0 r) 0 11) = true) ∧
    (∃ (s : State) (r : HelmReq), nextReq s = some r ∧ reqOpc r = 131 ∧ s.boot.image = true ∧ s.x.pair.key = none ∧ bits (ARG0 r) 16 2 = 1 ∧ keyModeBad s r = true) ∧
    (∃ (s : State) (r : HelmReq), nextReq s = some r ∧ reqOpc r = 131 ∧ s.boot.image = true ∧ s.x.pair.key = none ∧ bits (ARG0 r) 16 2 = 1 ∧ mode s = mRun ∧ 1 ≠ 0) ∧
    (∃ (s : State) (r : HelmReq), nextReq s = some r ∧ reqOpc r = 131 ∧ s.boot.image = true ∧ s.x.pair.key = none ∧ bits (ARG0 r) 16 2 = 1 ∧ keyModeBad s r = false ∧ keyBusy s 1 (bits (ARG0 r) 0 11) = true) ∧
    (∃ (s : State) (r : HelmReq) (pb : ParamBuf), nextReq s = some r ∧ reqOpc r = 131 ∧ s.boot.image = true ∧ s.x.pair.key = none ∧ bits (ARG0 r) 16 2 = 1 ∧ (asked s r 131 [mRun, mService] ∧ keyModeBad s r = false ∧ keyBusy s 1 (bits (ARG0 r) 0 11) = false ∧ fieldCheck r (decide (bits (ARG0 r) 0 11 ≤ 1039)) true (some (if 1 = 0 then 448 else 64)) = none ∧ bufFail s r pb = none) ∧ keyWalk 1025 (reqBuf r pb) = none) ∧
    (∃ (s : State) (r : HelmReq) (pb : ParamBuf) (o : List Byte), nextReq s = some r ∧ reqOpc r = 131 ∧ s.boot.image = true ∧ s.x.pair.key = none ∧ bits (ARG0 r) 16 2 = 1 ∧ (asked s r 131 [mRun, mService] ∧ keyModeBad s r = false ∧ keyBusy s 1 (bits (ARG0 r) 0 11) = false ∧ fieldCheck r (decide (bits (ARG0 r) 0 11 ≤ 1039)) true (some (if 1 = 0 then 448 else 64)) = none ∧ bufFail s r pb = none) ∧ keyWalk 1025 (reqBuf r pb) = some [o] ∧ keyUid o = ownUid ∧ mirrors s = false ∧ keyHeadOk 1 (bits (ARG0 r) 0 11) o = true ∧ getF s CIP_EPOCH_EPOCH < keyEpoch o ∧ keyFits s 1 (bits (ARG0 r) 0 11) = true) ∧
    (∃ (s : State) (r : HelmReq), nextReq s = some r ∧ reqOpc r = 131 ∧ s.boot.image = true ∧ s.x.pair.key = none ∧ bits (ARG0 r) 16 2 = 2 ∧ keyModeBad s r = true) ∧
    (∃ (s : State) (r : HelmReq), nextReq s = some r ∧ reqOpc r = 131 ∧ s.boot.image = true ∧ s.x.pair.key = none ∧ bits (ARG0 r) 16 2 = 2 ∧ mode s = mRun ∧ 2 ≠ 0) ∧
    (∃ (s : State) (r : HelmReq), nextReq s = some r ∧ reqOpc r = 131 ∧ s.boot.image = true ∧ s.x.pair.key = none ∧ bits (ARG0 r) 16 2 = 2 ∧ keyModeBad s r = false ∧ keyBusy s 2 (bits (ARG0 r) 0 11) = true) ∧
    (∃ (s : State) (r : HelmReq) (pb : ParamBuf), nextReq s = some r ∧ reqOpc r = 131 ∧ s.boot.image = true ∧ s.x.pair.key = none ∧ bits (ARG0 r) 16 2 = 2 ∧ (asked s r 131 [mRun, mService] ∧ keyModeBad s r = false ∧ keyBusy s 2 (bits (ARG0 r) 0 11) = false ∧ fieldCheck r (decide (bits (ARG0 r) 0 11 ≤ 1039)) true (some (if 2 = 0 then 448 else 64)) = none ∧ bufFail s r pb = none) ∧ keyWalk 1025 (reqBuf r pb) = none) ∧
    (∃ (s : State) (r : HelmReq) (pb : ParamBuf) (o : List Byte), nextReq s = some r ∧ reqOpc r = 131 ∧ s.boot.image = true ∧ s.x.pair.key = none ∧ bits (ARG0 r) 16 2 = 2 ∧ (asked s r 131 [mRun, mService] ∧ keyModeBad s r = false ∧ keyBusy s 2 (bits (ARG0 r) 0 11) = false ∧ fieldCheck r (decide (bits (ARG0 r) 0 11 ≤ 1039)) true (some (if 2 = 0 then 448 else 64)) = none ∧ bufFail s r pb = none) ∧ keyWalk 1025 (reqBuf r pb) = some [o] ∧ keyUid o = ownUid ∧ mirrors s = false ∧ keyHeadOk 2 (bits (ARG0 r) 0 11) o = true ∧ getF s CIP_EPOCH_EPOCH < keyEpoch o ∧ keyFits s 2 (bits (ARG0 r) 0 11) = true) :=
  ⟨⟨have b := KeyLoads.kobj 0 3 9 (if 0 = 0 then 448 else 64); ask ({ (inM 3) with rsm := { ((inM 3).rsm) with keys := [(3, { a := some KeyLoads.ks, b := none, wver := 0, wset := true, epoch := 0 })] } }) (rq 9999 (ablk 131 (3 + 0 * 2 ^ 16) 0 b.length 0) (if 1 = 1 then b else List.replicate b.length 1)), _, some_wit (by decide +kernel), by decide +kernel, by decide +kernel, by decide +kernel, (by decide +kernel), by decide +kernel⟩,
    ⟨have b := KeyLoads.kobj 0 3 9 (if 0 = 0 then 448 else 64); ask ({ (inM 3) with rsm := { ((inM 3).rsm) with keys := [(3, { a := none, b := none, wver := 0, wset := false, epoch := 0 })] } }) (rq 9999 (ablk 131 (3 + 0 * 2 ^ 16) 0 b.length 0) (if 0 = 1 then b else List.replicate b.length 1)), _, pb0, some_wit (by decide +kernel), by decide +kernel, by decide +kernel, by decide +kernel, (by decide +kernel), ⟨by unfold asked; decide +kernel, by decide +kernel, by decide +kernel, by decide +kernel, (by decide +kernel)⟩, by decide +kernel⟩,
    ⟨ask { (inM 3) with rsm := { (inM 3).rsm with keys := [(3, { a := none, b := none, wver := 0, wset := false, epoch := 0 })] } } (rq 1 (ablk 131 (3 + 0 * 2 ^ 16) 0 448 16) []), rq 1 (ablk 131 (3 + 0 * 2 ^ 16) 0 448 16) [], ⟨KeyLoads.kobj 0 3 9 448, 0⟩, KeyLoads.kobj 0 3 9 448, rfl, by decide +kernel, by decide +kernel, by decide +kernel, (by decide +kernel), ⟨by unfold asked; decide +kernel, by decide +kernel, by decide +kernel, by decide +kernel, (by decide +kernel)⟩, rfl, rfl, by decide +kernel, by decide +kernel, by decide +kernel, (by decide +kernel)⟩,
    ⟨have b := KeyLoads.kobj 1 3 9 (if 1 = 0 then 448 else 64); ask ({ (inM 3) with rsm := { ((inM 3).rsm) with keys := [(3, { a := none, b := none, wver := 0, wset := false, epoch := 0 })] } }) (rq 9999 (ablk 131 (3 + 1 * 2 ^ 16) 0 b.length 0) (if 1 = 1 then b else List.replicate b.length 1)), _, some_wit (by decide +kernel), by decide +kernel, by decide +kernel, by decide +kernel, (by decide +kernel), by decide +kernel⟩,
    ⟨have b := KeyLoads.kobj 1 3 9 (if 1 = 0 then 448 else 64); ask ({ (inM 3) with rsm := { ((inM 3).rsm) with keys := [(3, { a := none, b := none, wver := 0, wset := false, epoch := 0 })] } }) (rq 9999 (ablk 131 (3 + 1 * 2 ^ 16) 0 b.length 0) (if 1 = 1 then b else List.replicate b.length 1)), _, some_wit (by decide +kernel), by decide +kernel, by decide +kernel, by decide +kernel, (by decide +kernel), by decide +kernel, by decide +kernel⟩,
    ⟨KeyLoads.busyK 1 (ask ({ (inM 5) with rsm := { ((inM 5).rsm) with keys := [(3, { a := some KeyLoads.ks, b := none, wver := 0, wset := true, epoch := 0 })] } }) (rq 9999 (ablk 131 (3 + 1 * 2 ^ 16) 0 64 0) (KeyLoads.kobj 1 3 9 64))), _, some_wit (by decide +kernel), by decide +kernel, by decide +kernel, by decide +kernel, (by decide +kernel), by decide +kernel, by decide +kernel⟩,
    ⟨have b := KeyLoads.kobj 1 3 9 (if 1 = 0 then 448 else 64); ask ({ (inM 5) with rsm := { ((inM 5).rsm) with keys := [(3, { a := none, b := none, wver := 0, wset := false, epoch := 0 })] } }) (rq 9999 (ablk 131 (3 + 1 * 2 ^ 16) 0 b.length 0) (if 0 = 1 then b else List.replicate b.length 1)), _, pb0, some_wit (by decide +kernel), by decide +kernel, by decide +kernel, by decide +kernel, (by decide +kernel), ⟨by unfold asked; decide +kernel, by decide +kernel, by decide +kernel, by decide +kernel, (by decide +kernel)⟩, by decide +kernel⟩,
    ⟨ask { (inM 5) with rsm := { (inM 5).rsm with keys := [(3, { a := some KeyLoads.ks, b := none, wver := 0, wset := true, epoch := 0 })] } } (rq 1 (ablk 131 (3 + 1 * 2 ^ 16) 0 64 16) []), rq 1 (ablk 131 (3 + 1 * 2 ^ 16) 0 64 16) [], ⟨KeyLoads.kobj 1 3 9 64, 0⟩, KeyLoads.kobj 1 3 9 64, rfl, by decide +kernel, by decide +kernel, by decide +kernel, (by decide +kernel), ⟨by unfold asked; decide +kernel, by decide +kernel, by decide +kernel, by decide +kernel, (by decide +kernel)⟩, rfl, rfl, by decide +kernel, by decide +kernel, by decide +kernel, (by decide +kernel)⟩,
    ⟨have b := KeyLoads.kobj 2 3 9 (if 2 = 0 then 448 else 64); ask ({ (inM 3) with rsm := { ((inM 3).rsm) with keys := [(3, { a := none, b := none, wver := 0, wset := false, epoch := 0 })] } }) (rq 9999 (ablk 131 (3 + 2 * 2 ^ 16) 0 b.length 0) (if 1 = 1 then b else List.replicate b.length 1)), _, some_wit (by decide +kernel), by decide +kernel, by decide +kernel, by decide +kernel, (by decide +kernel), by decide +kernel⟩,
    ⟨have b := KeyLoads.kobj 2 3 9 (if 2 = 0 then 448 else 64); ask ({ (inM 3) with rsm := { ((inM 3).rsm) with keys := [(3, { a := none, b := none, wver := 0, wset := false, epoch := 0 })] } }) (rq 9999 (ablk 131 (3 + 2 * 2 ^ 16) 0 b.length 0) (if 1 = 1 then b else List.replicate b.length 1)), _, some_wit (by decide +kernel), by decide +kernel, by decide +kernel, by decide +kernel, (by decide +kernel), by decide +kernel, by decide +kernel⟩,
    ⟨KeyLoads.busyK 2 (ask ({ (inM 5) with rsm := { ((inM 5).rsm) with keys := [(3, { a := some KeyLoads.ks, b := none, wver := 0, wset := true, epoch := 0 })] } }) (rq 9999 (ablk 131 (3 + 2 * 2 ^ 16) 0 64 0) (KeyLoads.kobj 2 3 9 64))), _, some_wit (by decide +kernel), by decide +kernel, by decide +kernel, by decide +kernel, (by decide +kernel), by decide +kernel, by decide +kernel⟩,
    ⟨have b := KeyLoads.kobj 2 3 9 (if 2 = 0 then 448 else 64); ask ({ (inM 5) with rsm := { ((inM 5).rsm) with keys := [(3, { a := none, b := none, wver := 0, wset := false, epoch := 0 })] } }) (rq 9999 (ablk 131 (3 + 2 * 2 ^ 16) 0 b.length 0) (if 0 = 1 then b else List.replicate b.length 1)), _, pb0, some_wit (by decide +kernel), by decide +kernel, by decide +kernel, by decide +kernel, (by decide +kernel), ⟨by unfold asked; decide +kernel, by decide +kernel, by decide +kernel, by decide +kernel, (by decide +kernel)⟩, by decide +kernel⟩,
    ⟨ask { (inM 5) with rsm := { (inM 5).rsm with keys := [(3, { a := none, b := none, wver := 0, wset := false, epoch := 0 })] } } (rq 1 (ablk 131 (3 + 2 * 2 ^ 16) 0 64 16) []), rq 1 (ablk 131 (3 + 2 * 2 ^ 16) 0 64 16) [], ⟨KeyLoads.kobj 2 3 9 64, 0⟩, KeyLoads.kobj 2 3 9 64, rfl, by decide +kernel, by decide +kernel, by decide +kernel, (by decide +kernel), ⟨by unfold asked; decide +kernel, by decide +kernel, by decide +kernel, by decide +kernel, (by decide +kernel)⟩, rfl, rfl, by decide +kernel, by decide +kernel, by decide +kernel, (by decide +kernel)⟩⟩

/-! ### ModeRequests -/
namespace ModeRequests
def ch (k st : Nat) (b : State) : State := { b with x := { b.x with change := some ⟨k, 9998, st⟩ } }
def fmt (b : State) : State := { b with x := { b.x with deleting := [(1, 9999, true)] } }
end ModeRequests
/-- Meets the hypotheses of each clause of Obligations.ModeRequests. -/
theorem witness_ModeRequests :
    (∃ (s : State) (r : HelmReq), asked s r 132 [mRun, mBanked] ∧ target r = 3 ∧ fieldCheck r true true none = none) ∧
    (∃ (s : State), mode s = mRun) ∧
    (∃ (s : State) (r : HelmReq), asked s r 132 [mRun] ∧ target r = 4 ∧ fieldCheck r true true none = none ∧ changeFree s = true) ∧
    (∃ (s : State) (r : HelmReq), asked s r 132 [mRun] ∧ target r = 4 ∧ fieldCheck r true true none = none ∧ changeFree s = false) ∧
    (∃ (s : State) (r : HelmReq), asked s r 133 [mService] ∧ target r = 3 ∧ fieldCheck r true true none = none ∧ changeFree s = true ∧ serviceBusy s = false) ∧
    (∃ (s : State) (r : HelmReq), asked s r 133 [mService] ∧ target r = 3 ∧ fieldCheck r true true none = none ∧ changeFree s = true ∧ serviceBusy s = true) ∧
    (∃ (s : State) (r : HelmReq), asked s r 133 [mSafe] ∧ target r = 3) ∧
    (∃ (s : State) (r : HelmReq), asked s r 133 [mRun] ∧ target r = 5 ∧ fieldCheck r true true none = none ∧ changeFree s = true) ∧
    (∃ (s : State) (r : HelmReq), asked s r 133 [mRun, mService] ∧ target r = 7 ∧ fieldCheck r true true none = none ∧ s.x.safing = none) ∧
    (∃ (s : State) (r : HelmReq), asked s r 133 [mRun, mService] ∧ target r = 8 ∧ fieldCheck r true true none = none ∧ changeFree s = true) ∧
    (∃ (s : State) (r : HelmReq), asked s r 133 [mSafe] ∧ target r = 8 ∧ fieldCheck r true true none = none ∧ changeFree s = true) ∧
    (∃ (s : State) (r : HelmReq), asked s r 140 [mService] ∧ fieldCheck r true true none = none ∧ changeFree s = true) ∧
    (∃ (s : State) (k : Change), s.x.change = some k ∧ k.kind = 2 ∧ mode s = mRun ∧ drained s k.src = false) ∧
    (∃ (s : State) (k : Change), s.x.change = some k ∧ k.kind = 2 ∧ mode s = mRun ∧ drained s k.src = true ∧ (strikesWhere s fun (x : Strike) => true) = []) ∧
    (∃ (s : State) (k : Change), s.x.change = some k ∧ k.kind = 1 ∧ k.step ≠ 2 ∧ mode s = mRun ∧ drained s k.src = true) ∧
    (∃ (s : State) (k : Change), s.x.change = some k ∧ k.kind = 1 ∧ k.step ≠ 2 ∧ drained s k.src = false) ∧
    (∃ (s : State) (k : Change), s.x.change = some k ∧ k.kind = 3 ∧ k.step ≠ 2 ∧ (mode s = mRun ∨ mode s = mService) ∧ drained s k.src = true) ∧
    (∃ (s : State) (k : Change), s.x.change = some k ∧ k.kind = 3 ∧ k.step = 2 ∧ (mode s = mRun ∨ mode s = mService) ∧ delivered s k.src = true ∧ commandsDone s 9998 = true ∧ flushOver s = true) :=
  ⟨⟨ask (inM 3) (rq 9999 (ablk 132 3 0 0 0) []), rq 9999 (ablk 132 3 0 0 0) [], by unfold asked; decide +kernel, by decide +kernel, by decide +kernel⟩,
    ⟨ask (inM 3) (rq 9999 (ablk 132 3 0 0 0) []), by decide +kernel⟩,
    ⟨ask (inM 3) (rq 9999 (ablk 132 4 0 0 0) []), rq 9999 (ablk 132 4 0 0 0) [], by unfold asked; decide +kernel, by decide +kernel, by decide +kernel, by decide +kernel⟩,
    ⟨ask (ModeRequests.ch 2 1 (inM 3)) (rq 9999 (ablk 132 4 0 0 0) []), rq 9999 (ablk 132 4 0 0 0) [], by unfold asked; decide +kernel, by decide +kernel, by decide +kernel, by decide +kernel⟩,
    ⟨ask (inM 5) (rq 9999 (ablk 133 3 0 0 0) []), rq 9999 (ablk 133 3 0 0 0) [], by unfold asked; decide +kernel, by decide +kernel, by decide +kernel, by decide +kernel, (by decide +kernel)⟩,
    ⟨ask (ModeRequests.fmt (inM 5)) (rq 9999 (ablk 133 3 0 0 0) []), rq 9999 (ablk 133 3 0 0 0) [], by unfold asked; decide +kernel, by decide +kernel, by decide +kernel, by decide +kernel, (by decide +kernel)⟩,
    ⟨ask (inM 7) (rq 9999 (ablk 133 3 0 0 0) []), rq 9999 (ablk 133 3 0 0 0) [], by unfold asked; decide +kernel, by decide +kernel⟩,
    ⟨ask (inM 3) (rq 9999 (ablk 133 5 0 0 0) []), rq 9999 (ablk 133 5 0 0 0) [], by unfold asked; decide +kernel, by decide +kernel, by decide +kernel, by decide +kernel⟩,
    ⟨ask (inM 3) (rq 9999 (ablk 133 7 0 0 0) []), rq 9999 (ablk 133 7 0 0 0) [], by unfold asked; decide +kernel, by decide +kernel, by decide +kernel, by decide +kernel⟩,
    ⟨ask (inM 3) (rq 9999 (ablk 133 8 0 0 0) []), rq 9999 (ablk 133 8 0 0 0) [], by unfold asked; decide +kernel, by decide +kernel, by decide +kernel, by decide +kernel⟩,
    ⟨ask (inM 7) (rq 9999 (ablk 133 8 0 0 0) []), rq 9999 (ablk 133 8 0 0 0) [], by unfold asked; decide +kernel, by decide +kernel, by decide +kernel, by decide +kernel⟩,
    ⟨ask (inM 5) (rq 9999 (ablk 140 0 0 0 0) []), rq 9999 (ablk 140 0 0 0 0) [], by unfold asked; decide +kernel, by decide +kernel, by decide +kernel⟩,
    ⟨setTh (ModeRequests.ch 2 1 (inM 3)) 7 (hostT []), _, some_wit (by decide +kernel), by decide +kernel, by decide +kernel, by decide +kernel⟩,
    ⟨ask (ModeRequests.ch 2 1 (inM 3)) (rq 9999 (ablk 132 3 0 0 0) []), _, some_wit (by decide +kernel), by decide +kernel, by decide +kernel, by decide +kernel, (by decide +kernel)⟩,
    ⟨ModeRequests.ch 1 1 (inM 3), _, some_wit (by decide +kernel), by decide +kernel, by decide +kernel, by decide +kernel, (by decide +kernel)⟩,
    ⟨setTh (ModeRequests.ch 1 1 (inM 3)) 7 (hostT []), _, some_wit (by decide +kernel), by decide +kernel, by decide +kernel, by decide +kernel⟩,
    ⟨ModeRequests.ch 3 1 (inM 3), _, some_wit (by decide +kernel), by decide +kernel, by decide +kernel, by decide +kernel, (by decide +kernel)⟩,
    ⟨ModeRequests.ch 3 2 (inM 3), _, some_wit (by decide +kernel), by decide +kernel, by decide +kernel, by decide +kernel, (by decide +kernel), by decide +kernel, by decide +kernel⟩⟩

/-! ### AdminEffects -/
namespace AdminEffects
def tms : List HelmReq := [5000000000 , 10500000000, 9800000000].map fun t => rq 9999 (ablk 0x86 t 0 0 0) []
def setts : List State := tms.flatMap fun r => [0, 1].flatMap fun u => [0,1].map fun d => ask (setF (setF (tm 10000000000 (inM 3)) CHR_STAT_UNSET u) CHR_STAT_DR d) r
def al (k p e : Nat) (due : Nat) : List Byte := leBytes 8 due ++ leBytes 8 p ++ leBytes 8 0 ++ leBytes 1 k ++ leBytes 1 0 ++ leBytes 1 e ++ List.replicate 5 0
def alms : List State := [(11, 1000000), (4, 1000000), (1, 100000000), (3, 7)].flatMap fun kp => [0, 5].map fun i => ask (inM 3) (rq 9999 (ablk 0x87 i 0 32 0) (al kp.1 kp.2 1 kp.2))
def qb (r c : Nat) (f : Nat) : List Byte := leBytes 8 r ++ leBytes 8 c ++ leBytes 8 0 ++ leBytes 8 0 ++ leBytes 8 0 ++ leBytes 8 0 ++ leBytes 1 f ++ List.replicate 15 0
def qs : List State := [(5, 10, 1), (5, 1, 1), (5, 10, 0)].map fun x => ask (inM 3) (rq 9999 (ablk 0x8D 3 0 64 0) (qb x.1 x.2.1 x.2.2))
def elig (b : State) : State := { setF (setF b PAIR_STAT_PSTATE 3) PAIR_CFG_STEST 0 with boot := { b.boot with pairEn := true } }
def others : List State := [ask (inM 3) (rq 9999 (ablk 0x89 0 0 0 0) []), ask (elig (tm 70 (inM 3))) (rq 9999 (ablk 0x89 0 0 0 0) []), ask (elig (inM 3)) (rq 9999 (ablk 0x89 0 900 0 0) []),
  ask (inM 7) (rq 1 (ablk 138 0 0 17824 16) []), ask (inM 7) (rq 1 (ablk 138 0 0 60 16) []), ask (inM 7) (rq 9999 (ablk 0x8E 0 0 0 0) []), ask (inM 5) (rq 1 (ablk 143 0 0 24576 16) [])]
def s : List State := setts ++ alms ++ qs ++ others
def r : List HelmReq := s.filterMap fun s => s.d.helm.head?
end AdminEffects
/-- Meets the hypotheses of each clause of Obligations.AdminEffects. -/
theorem witness_AdminEffects :
    (∃ (s : State) (r : HelmReq), asked s r 134 [mRun, mService, mSafe] ∧ fieldCheck r true true none = none ∧ getF s CHR_STAT_UNSET = 1 ∧ getF s CHR_STAT_DR = 0) ∧
    (∃ (s : State) (r : HelmReq), asked s r 134 [mRun, mService, mSafe] ∧ fieldCheck r true true none = none ∧ getF s CHR_STAT_UNSET = 0 ∧ ARG0 r ≤ s.clk.now + 1000000000 ∧ s.clk.now ≤ ARG0 r + 1000000000) ∧
    (∃ (s : State) (r : HelmReq), asked s r 134 [mRun, mService, mSafe] ∧ fieldCheck r true true none = none ∧ getF s CHR_STAT_UNSET = 0 ∧ ARG0 r + 1000000000 < s.clk.now) ∧
    (∃ (s : State) (r : HelmReq) (pb : ParamBuf), asked s r 135 [mRun, mService] ∧ fieldCheck r true true (some 32) = none ∧ bufFail s r pb = none ∧ (¬((almOf (reqBuf r pb)).kind ≤ 9 ∧ (almOf (reqBuf r pb)).period % 1000000 = 0))) ∧
    (∃ (s : State) (r : HelmReq) (pb : ParamBuf), asked s r 135 [mRun, mService] ∧ fieldCheck r true true (some 32) = none ∧ bufFail s r pb = none ∧ (almOf (reqBuf r pb)).kind ≤ 9 ∧ (almOf (reqBuf r pb)).period % 1000000 = 0 ∧ bits (ARG0 r) 0 8 < 4 ∧ fixedOk s (bits (ARG0 r) 0 8) (almOf (reqBuf r pb)) = false) ∧
    (∃ (s : State) (r : HelmReq) (pb : ParamBuf), asked s r 135 [mRun, mService] ∧ fieldCheck r true true (some 32) = none ∧ bufFail s r pb = none ∧ (almOf (reqBuf r pb)).kind ≤ 9 ∧ (almOf (reqBuf r pb)).period % 1000000 = 0 ∧ (4 ≤ bits (ARG0 r) 0 8 ∨ fixedOk s (bits (ARG0 r) 0 8) (almOf (reqBuf r pb)) = true)) ∧
    (∃ (s : State) (r : HelmReq) (pb : ParamBuf), asked s r 141 [mRun, mService] ∧ fieldCheck r true true (some 64) = none ∧ bufFail s r pb = none ∧ (¬(bucketOk (quotaOfBuf (reqBuf r pb)).b0 = true ∧ bucketOk (quotaOfBuf (reqBuf r pb)).b1 = true ∧ bucketOk (quotaOfBuf (reqBuf r pb)).b2 = true))) ∧
    (∃ (s : State) (r : HelmReq) (pb : ParamBuf), asked s r 141 [mRun, mService] ∧ fieldCheck r true true (some 64) = none ∧ bufFail s r pb = none ∧ bucketOk (quotaOfBuf (reqBuf r pb)).b0 = true ∧ bucketOk (quotaOfBuf (reqBuf r pb)).b1 = true ∧ bucketOk (quotaOfBuf (reqBuf r pb)).b2 = true) ∧
    (∃ (s : State) (r : HelmReq), asked s r 137 [mRun] ∧ fieldCheck r true true none = none ∧ eligible s = false) ∧
    (∃ (s : State) (r : HelmReq), asked s r 137 [mRun] ∧ fieldCheck r true true none = none ∧ eligible s = true) ∧
    (∃ (s : State) (r : HelmReq) (pb : ParamBuf), asked s r 138 [mRun, mService, mSafe] ∧ fieldCheck r true true (some 17824) = none ∧ bufFail s r pb = none) ∧
    (∃ (s : State) (r : HelmReq), asked s r 138 [mRun, mService, mSafe] ∧ fieldCheck r true true (some 17824) = some 130) ∧
    (∃ (s : State) (r : HelmReq), asked s r 142 [mRun, mService, mSafe] ∧ fieldCheck r true true none = none) ∧
    (∃ (s : State) (r : HelmReq) (pb : ParamBuf), asked s r 143 [mService] ∧ fieldCheck r true true (some 24576) = none ∧ bufFail s r pb = none) :=
  ⟨⟨ask (setF (setF (tm 10000000000 (inM 3)) CHR_STAT_UNSET 1) CHR_STAT_DR 0) (rq 9999 (ablk 134 5000000000 0 0 0) []), (fun (t : Nat) => rq 9999 (ablk 134 t 0 0 0) []) 5000000000, by unfold asked; decide +kernel, by decide +kernel, by decide +kernel, by decide +kernel⟩,
    ⟨ask (setF (setF (tm 10000000000 (inM 3)) CHR_STAT_UNSET 0) CHR_STAT_DR 0) (rq 9999 (ablk 134 10500000000 0 0 0) []), (fun (t : Nat) => rq 9999 (ablk 134 t 0 0 0) []) 10500000000, by unfold asked; decide +kernel, by decide +kernel, by decide +kernel, by decide +kernel, (by decide +kernel)⟩,
    ⟨ask (setF (setF (tm 10000000000 (inM 3)) CHR_STAT_UNSET 0) CHR_STAT_DR 0) (rq 9999 (ablk 134 5000000000 0 0 0) []), (fun (t : Nat) => rq 9999 (ablk 134 t 0 0 0) []) 5000000000, by unfold asked; decide +kernel, by decide +kernel, by decide +kernel, by decide +kernel⟩,
    ⟨ask (inM 3) (rq 9999 (ablk 135 0 0 32 0) (AdminEffects.al 11 1000000 1 1000000)), rq 9999 (ablk 135 0 0 32 0) (AdminEffects.al 11 1000000 1 1000000), pb0, by unfold asked; decide +kernel, by decide +kernel, by decide +kernel, by decide +kernel⟩,
    ⟨ask (inM 3) (rq 9999 (ablk 135 0 0 32 0) (AdminEffects.al 4 1000000 1 1000000)), rq 9999 (ablk 135 0 0 32 0) (AdminEffects.al 4 1000000 1 1000000), pb0, by unfold asked; decide +kernel, by decide +kernel, by decide +kernel, by decide +kernel, (by decide +kernel), by decide +kernel, by decide +kernel⟩,
    ⟨ask (inM 3) (rq 9999 (ablk 135 5 0 32 0) (AdminEffects.al 4 1000000 1 1000000)), rq 9999 (ablk 135 5 0 32 0) (AdminEffects.al 4 1000000 1 1000000), pb0, by unfold asked; decide +kernel, by decide +kernel, by decide +kernel, by decide +kernel, (by decide +kernel), by decide +kernel⟩,
    ⟨ask (inM 3) (rq 9999 (ablk 141 3 0 64 0) (AdminEffects.qb 5 1 1)), rq 9999 (ablk 141 3 0 64 0) (AdminEffects.qb 5 1 1), pb0, by unfold asked; decide +kernel, by decide +kernel, by decide +kernel, by decide +kernel⟩,
    ⟨ask (inM 3) (rq 9999 (ablk 141 3 0 64 0) (AdminEffects.qb 5 10 1)), rq 9999 (ablk 141 3 0 64 0) (AdminEffects.qb 5 10 1), pb0, by unfold asked; decide +kernel, by decide +kernel, by decide +kernel, by decide +kernel, (by decide +kernel), by decide +kernel⟩,
    ⟨ask (inM 3) (rq 9999 (ablk 137 0 0 0 0) []), rq 9999 (ablk 137 0 0 0 0) [], by unfold asked; decide +kernel, by decide +kernel, by decide +kernel⟩,
    ⟨ask (AdminEffects.elig (tm 70 (inM 3))) (rq 9999 (ablk 137 0 0 0 0) []), rq 9999 (ablk 137 0 0 0 0) [], by unfold asked; decide +kernel, by decide +kernel, by decide +kernel⟩,
    ⟨ask (inM 7) (rq 1 (ablk 138 0 0 17824 16) []), rq 1 (ablk 138 0 0 17824 16) [], pb0, by unfold asked; decide +kernel, by decide +kernel, by decide +kernel⟩,
    ⟨ask (inM 7) (rq 1 (ablk 138 0 0 60 16) []), rq 1 (ablk 138 0 0 60 16) [], by unfold asked; decide +kernel, by decide +kernel⟩,
    ⟨ask (inM 7) (rq 9999 (ablk 142 0 0 0 0) []), rq 9999 (ablk 142 0 0 0 0) [], by unfold asked; decide +kernel, by decide +kernel⟩,
    ⟨ask (inM 5) (rq 1 (ablk 143 0 0 24576 16) []), rq 1 (ablk 143 0 0 24576 16) [], pb0, by unfold asked; decide +kernel, by decide +kernel, by decide +kernel⟩⟩

/-! ### ShapeChanges -/
namespace ShapeChanges
def i : List Instr := [.shapeChangeReshape pb0, .shapeChangeAdmit pb0, .shapeChangeRelease pb0, .shapeChangeFail pb0, .shapeChangeReform pb0]
def k : List Nat := [1, 2, 3, 4, 5]
def sd (k : Nat) (l : List Nat) : List Byte := leBytes 2 k ++ leBytes 2 0 ++ leBytes 2 l.length ++ leBytes 2 0 ++ l.flatMap (leBytes 2)
def rec (l : List Nat) : List Byte := leBytes 1 l.length ++ leBytes 1 0 ++ List.replicate 6 0 ++ ((List.range 32).flatMap fun i => leBytes 2 (l.getD i 0xFFFF))
def rsd (olds : List Nat) (l : List (List Nat)) : List Byte := leBytes 2 1 ++ leBytes 2 olds.length ++ leBytes 2 l.length ++ leBytes 2 0 ++ padTo 0 (ceilDiv (2 * olds.length) 8 * 8) (olds.flatMap (leBytes 2)) ++ l.flatMap rec
def new9 : List Nat := (List.range 9).map (256 * ·)
def rqs : List HelmReq := [(rsd [0] [new9], 0), (rsd [0] [[0, 256, 512, 768, 1024, 1280, 1536, 1792]], 0), (rsd [0] [new9], 1), (sd 2 [1], 0xFFFF), (sd 2 [1], 3), (sd 3 [2304], 0xFFFF), (sd 3 [1], 0xFFFF), (sd 4 [1], 0xFFFF), (sd 4 [77], 0xFFFF), (sd 5 [], 0), (sd 5 [], 1)].map fun x => rq 9999 (ablk 0x88 x.2 0 x.1.length 0) x.1
def more (b : State) : State := { setF b (CH_DIEFAIL_FAILED 9 0) 1 with md := { b.md with unused := [1] } }
def rs : Reshape := ⟨[0], [1], [0, 1], 5⟩
end ShapeChanges
/-- Meets the hypotheses of each clause of Obligations.ShapeChanges (part 1). -/
theorem witness_ShapeChanges_1 :
    (∃ (s : State) (r : HelmReq) (pb : ParamBuf), oLe (reqBuf r pb) 0 1 = 1 ∧ asked s r 136 [mRun, mService] ∧ fieldCheck r true true (some (shapeLen (reqBuf r pb))) = none ∧ bufFail s r pb = none ∧ (s.md.reshape ≠ none ∨ ∃ g ∈ shapeGroups 1 (bits (ARG0 r) 0 16) (reqBuf r pb), ∃ (x : Sys2Proof.Group), group s g = some x ∧ x.st = GSt.rebuilding)) ∧
    (∃ (s : State) (r : HelmReq) (pb : ParamBuf), oLe (reqBuf r pb) 0 1 = 1 ∧ asked s r 136 [mRun, mService] ∧ fieldCheck r true true (some (shapeLen (reqBuf r pb))) = none ∧ bufFail s r pb = none ∧ (¬(s.md.reshape ≠ none ∨ ∃ g ∈ shapeGroups 1 (bits (ARG0 r) 0 16) (reqBuf r pb), ∃ (x : Sys2Proof.Group), group s g = some x ∧ x.st = GSt.rebuilding)) ∧ shapeOk (beginReq s r.src) 1 (bits (ARG0 r) 0 16) (reqBuf r pb) = false) ∧
    (∃ (s : State) (r : HelmReq) (pb : ParamBuf), oLe (reqBuf r pb) 0 1 = 1 ∧ asked s r 136 [mRun, mService] ∧ fieldCheck r true true (some (shapeLen (reqBuf r pb))) = none ∧ bufFail s r pb = none ∧ 1 = 1 ∧ (¬(s.md.reshape ≠ none ∨ ∃ g ∈ shapeGroups 1 (bits (ARG0 r) 0 16) (reqBuf r pb), ∃ (x : Sys2Proof.Group), group s g = some x ∧ x.st = GSt.rebuilding)) ∧ shapeOk (beginReq s r.src) 1 (bits (ARG0 r) 0 16) (reqBuf r pb) = true ∧ lcapOf (reshapeDbil (beginReq s r.src) (reqBuf r pb)) (getF s MAP_OP_OP) < volumesEnd (beginReq s r.src)) ∧
    (∃ (s : State) (r : HelmReq) (pb : ParamBuf), oLe (reqBuf r pb) 0 1 = 1 ∧ asked s r 136 [mRun, mService] ∧ fieldCheck r true true (some (shapeLen (reqBuf r pb))) = none ∧ bufFail s r pb = none ∧ 1 = 1 ∧ (¬(s.md.reshape ≠ none ∨ ∃ g ∈ shapeGroups 1 (bits (ARG0 r) 0 16) (reqBuf r pb), ∃ (x : Sys2Proof.Group), group s g = some x ∧ x.st = GSt.rebuilding)) ∧ shapeOk (beginReq s r.src) 1 (bits (ARG0 r) 0 16) (reqBuf r pb) = true ∧ volumesEnd (beginReq s r.src) ≤ lcapOf (reshapeDbil (beginReq s r.src) (reqBuf r pb)) (getF s MAP_OP_OP)) ∧
    (∃ (s : State) (r : HelmReq) (pb : ParamBuf), oLe (reqBuf r pb) 0 1 = 2 ∧ asked s r 136 [mRun, mService] ∧ fieldCheck r true true (some (shapeLen (reqBuf r pb))) = none ∧ bufFail s r pb = none ∧ (s.md.reshape ≠ none ∨ ∃ g ∈ shapeGroups 2 (bits (ARG0 r) 0 16) (reqBuf r pb), ∃ (x : Sys2Proof.Group), group s g = some x ∧ x.st = GSt.rebuilding)) ∧
    (∃ (s : State) (r : HelmReq) (pb : ParamBuf), oLe (reqBuf r pb) 0 1 = 2 ∧ asked s r 136 [mRun, mService] ∧ fieldCheck r true true (some (shapeLen (reqBuf r pb))) = none ∧ bufFail s r pb = none ∧ (¬(s.md.reshape ≠ none ∨ ∃ g ∈ shapeGroups 2 (bits (ARG0 r) 0 16) (reqBuf r pb), ∃ (x : Sys2Proof.Group), group s g = some x ∧ x.st = GSt.rebuilding)) ∧ shapeOk (beginReq s r.src) 2 (bits (ARG0 r) 0 16) (reqBuf r pb) = false) ∧
    (∃ (s : State) (r : HelmReq) (pb : ParamBuf), oLe (reqBuf r pb) 0 1 = 2 ∧ asked s r 136 [mRun, mService] ∧ fieldCheck r true true (some (shapeLen (reqBuf r pb))) = none ∧ bufFail s r pb = none ∧ 2 ≠ 1 ∧ (¬(s.md.reshape ≠ none ∨ ∃ g ∈ shapeGroups 2 (bits (ARG0 r) 0 16) (reqBuf r pb), ∃ (x : Sys2Proof.Group), group s g = some x ∧ x.st = GSt.rebuilding)) ∧ shapeOk (beginReq s r.src) 2 (bits (ARG0 r) 0 16) (reqBuf r pb) = true ∧ volumesEnd (beginReq s r.src) ≤ lcapOf (dbil (shapeEffect (beginReq s r.src) 2 (bits (ARG0 r) 0 16) (reqBuf r pb))) (getF s MAP_OP_OP)) ∧
    (∃ (s : State) (r : HelmReq) (pb : ParamBuf), oLe (reqBuf r pb) 0 1 = 3 ∧ asked s r 136 [mRun, mService] ∧ fieldCheck r true true (some (shapeLen (reqBuf r pb))) = none ∧ bufFail s r pb = none ∧ (s.md.reshape ≠ none ∨ ∃ g ∈ shapeGroups 3 (bits (ARG0 r) 0 16) (reqBuf r pb), ∃ (x : Sys2Proof.Group), group s g = some x ∧ x.st = GSt.rebuilding)) ∧
    (∃ (s : State) (r : HelmReq) (pb : ParamBuf), oLe (reqBuf r pb) 0 1 = 3 ∧ asked s r 136 [mRun, mService] ∧ fieldCheck r true true (some (shapeLen (reqBuf r pb))) = none ∧ bufFail s r pb = none ∧ (¬(s.md.reshape ≠ none ∨ ∃ g ∈ shapeGroups 3 (bits (ARG0 r) 0 16) (reqBuf r pb), ∃ (x : Sys2Proof.Group), group s g = some x ∧ x.st = GSt.rebuilding)) ∧ shapeOk (beginReq s r.src) 3 (bits (ARG0 r) 0 16) (reqBuf r pb) = false) ∧
    (∃ (s : State) (r : HelmReq) (pb : ParamBuf), oLe (reqBuf r pb) 0 1 = 3 ∧ asked s r 136 [mRun, mService] ∧ fieldCheck r true true (some (shapeLen (reqBuf r pb))) = none ∧ bufFail s r pb = none ∧ 3 ≠ 1 ∧ (¬(s.md.reshape ≠ none ∨ ∃ g ∈ shapeGroups 3 (bits (ARG0 r) 0 16) (reqBuf r pb), ∃ (x : Sys2Proof.Group), group s g = some x ∧ x.st = GSt.rebuilding)) ∧ shapeOk (beginReq s r.src) 3 (bits (ARG0 r) 0 16) (reqBuf r pb) = true ∧ volumesEnd (beginReq s r.src) ≤ lcapOf (dbil (shapeEffect (beginReq s r.src) 3 (bits (ARG0 r) 0 16) (reqBuf r pb))) (getF s MAP_OP_OP)) ∧
    (∃ (s : State) (r : HelmReq) (pb : ParamBuf), oLe (reqBuf r pb) 0 1 = 4 ∧ asked s r 136 [mRun, mService] ∧ fieldCheck r true true (some (shapeLen (reqBuf r pb))) = none ∧ bufFail s r pb = none ∧ (s.md.reshape ≠ none ∨ ∃ g ∈ shapeGroups 4 (bits (ARG0 r) 0 16) (reqBuf r pb), ∃ (x : Sys2Proof.Group), group s g = some x ∧ x.st = GSt.rebuilding)) :=
  ⟨⟨ask (ShapeChanges.more (grp GSt.rebuilding (inM 3))) (rq 9999 (ablk 136 0 0 (ShapeChanges.rsd [0] [ShapeChanges.new9]).length 0) (ShapeChanges.rsd [0] [ShapeChanges.new9])), rq 9999 (ablk 136 0 0 (ShapeChanges.rsd [0] [ShapeChanges.new9]).length 0) (ShapeChanges.rsd [0] [ShapeChanges.new9]), pb0, by decide +kernel, by unfold asked; decide +kernel, by decide +kernel, by decide +kernel, by decide +kernel⟩,
    ⟨ask (ShapeChanges.more (grp GSt.offline (inM 3))) (rq 9999 (ablk 136 0 0 (ShapeChanges.rsd [0] [ShapeChanges.new9]).length 0) (ShapeChanges.rsd [0] [ShapeChanges.new9])), rq 9999 (ablk 136 0 0 (ShapeChanges.rsd [0] [ShapeChanges.new9]).length 0) (ShapeChanges.rsd [0] [ShapeChanges.new9]), pb0, by decide +kernel, by unfold asked; decide +kernel, by decide +kernel, by decide +kernel, by decide +kernel, (by decide +kernel)⟩,
    ⟨ask (ShapeChanges.more (grp GSt.healthy (dramWrLe (inM 3) (aVol + 32) 32 (mkVol 2000 20 3 1 0)))) (ShapeChanges.rqs.getD 1 (rq 0 0 [])), rq 9999 (ablk 136 0 0 (ShapeChanges.rsd [0] [[0, 256, 512, 768, 1024, 1280, 1536, 1792]]).length 0) (ShapeChanges.rsd [0] [[0, 256, 512, 768, 1024, 1280, 1536, 1792]]), pb0, by decide +kernel, by unfold asked; decide +kernel, by decide +kernel, by decide +kernel, by decide +kernel, (by decide +kernel), by decide +kernel, volumesEnd_ge 1 _ (by decide) (by decide +kernel) (by decide +kernel) (by decide +kernel) (by decide +kernel)⟩,
    ⟨ask (ShapeChanges.more (grp GSt.healthy (inM 3))) (rq 9999 (ablk 136 0 0 (ShapeChanges.rsd [0] [ShapeChanges.new9]).length 0) (ShapeChanges.rsd [0] [ShapeChanges.new9])), rq 9999 (ablk 136 0 0 (ShapeChanges.rsd [0] [ShapeChanges.new9]).length 0) (ShapeChanges.rsd [0] [ShapeChanges.new9]), pb0, by decide +kernel, by unfold asked; decide +kernel, by decide +kernel, by decide +kernel, by decide +kernel, (by decide +kernel), by decide +kernel, volumesEnd_none _ rfl rfl⟩,
    ⟨ask ({ (ShapeChanges.more (grp GSt.healthy (inM 3))) with md := { ((ShapeChanges.more (grp GSt.healthy (inM 3))).md) with reshape := some ShapeChanges.rs } }) (ShapeChanges.rqs.getD 3 (rq 0 0 [])), rq 9999 (ablk 136 65535 0 (ShapeChanges.sd 2 [1]).length 0) (ShapeChanges.sd 2 [1]), pb0, by decide +kernel, by unfold asked; decide +kernel, by decide +kernel, by decide +kernel, by decide +kernel⟩,
    ⟨ask (ShapeChanges.more (grp GSt.healthy (inM 3))) (rq 9999 (ablk 136 3 0 (ShapeChanges.sd 2 [1]).length 0) (ShapeChanges.sd 2 [1])), rq 9999 (ablk 136 3 0 (ShapeChanges.sd 2 [1]).length 0) (ShapeChanges.sd 2 [1]), pb0, by decide +kernel, by unfold asked; decide +kernel, by decide +kernel, by decide +kernel, by decide +kernel, (by decide +kernel)⟩,
    ⟨ask (ShapeChanges.more (grp GSt.healthy (inM 3))) (rq 9999 (ablk 136 65535 0 (ShapeChanges.sd 2 [1]).length 0) (ShapeChanges.sd 2 [1])), rq 9999 (ablk 136 65535 0 (ShapeChanges.sd 2 [1]).length 0) (ShapeChanges.sd 2 [1]), pb0, by decide +kernel, by unfold asked; decide +kernel, by decide +kernel, by decide +kernel, by decide +kernel, (by decide +kernel), by decide +kernel, volumesEnd_none _ rfl rfl⟩,
    ⟨ask ({ (ShapeChanges.more (grp GSt.healthy (inM 3))) with md := { ((ShapeChanges.more (grp GSt.healthy (inM 3))).md) with reshape := some ShapeChanges.rs } }) (ShapeChanges.rqs.getD 5 (rq 0 0 [])), rq 9999 (ablk 136 65535 0 (ShapeChanges.sd 3 [2304]).length 0) (ShapeChanges.sd 3 [2304]), pb0, by decide +kernel, by unfold asked; decide +kernel, by decide +kernel, by decide +kernel, by decide +kernel⟩,
    ⟨ask (ShapeChanges.more (grp GSt.healthy (inM 3))) (rq 9999 (ablk 136 65535 0 (ShapeChanges.sd 3 [1]).length 0) (ShapeChanges.sd 3 [1])), rq 9999 (ablk 136 65535 0 (ShapeChanges.sd 3 [1]).length 0) (ShapeChanges.sd 3 [1]), pb0, by decide +kernel, by unfold asked; decide +kernel, by decide +kernel, by decide +kernel, by decide +kernel, (by decide +kernel)⟩,
    ⟨ask (ShapeChanges.more (grp GSt.healthy (inM 3))) (rq 9999 (ablk 136 65535 0 (ShapeChanges.sd 3 [2304]).length 0) (ShapeChanges.sd 3 [2304])), rq 9999 (ablk 136 65535 0 (ShapeChanges.sd 3 [2304]).length 0) (ShapeChanges.sd 3 [2304]), pb0, by decide +kernel, by unfold asked; decide +kernel, by decide +kernel, by decide +kernel, by decide +kernel, (by decide +kernel), by decide +kernel, volumesEnd_none _ rfl rfl⟩,
    ⟨ask ({ (ShapeChanges.more (grp GSt.healthy (inM 3))) with md := { ((ShapeChanges.more (grp GSt.healthy (inM 3))).md) with reshape := some ShapeChanges.rs } }) (ShapeChanges.rqs.getD 7 (rq 0 0 [])), rq 9999 (ablk 136 65535 0 (ShapeChanges.sd 4 [1]).length 0) (ShapeChanges.sd 4 [1]), pb0, by decide +kernel, by unfold asked; decide +kernel, by decide +kernel, by decide +kernel, by decide +kernel⟩⟩
/-- Meets the hypotheses of each clause of Obligations.ShapeChanges (part 2). -/
theorem witness_ShapeChanges_2 :
    (∃ (s : State) (r : HelmReq) (pb : ParamBuf), oLe (reqBuf r pb) 0 1 = 4 ∧ asked s r 136 [mRun, mService] ∧ fieldCheck r true true (some (shapeLen (reqBuf r pb))) = none ∧ bufFail s r pb = none ∧ (¬(s.md.reshape ≠ none ∨ ∃ g ∈ shapeGroups 4 (bits (ARG0 r) 0 16) (reqBuf r pb), ∃ (x : Sys2Proof.Group), group s g = some x ∧ x.st = GSt.rebuilding)) ∧ shapeOk (beginReq s r.src) 4 (bits (ARG0 r) 0 16) (reqBuf r pb) = false) ∧
    (∃ (s : State) (r : HelmReq) (pb : ParamBuf), oLe (reqBuf r pb) 0 1 = 4 ∧ asked s r 136 [mRun, mService] ∧ fieldCheck r true true (some (shapeLen (reqBuf r pb))) = none ∧ bufFail s r pb = none ∧ 4 ≠ 1 ∧ (¬(s.md.reshape ≠ none ∨ ∃ g ∈ shapeGroups 4 (bits (ARG0 r) 0 16) (reqBuf r pb), ∃ (x : Sys2Proof.Group), group s g = some x ∧ x.st = GSt.rebuilding)) ∧ shapeOk (beginReq s r.src) 4 (bits (ARG0 r) 0 16) (reqBuf r pb) = true ∧ volumesEnd (beginReq s r.src) ≤ lcapOf (dbil (shapeEffect (beginReq s r.src) 4 (bits (ARG0 r) 0 16) (reqBuf r pb))) (getF s MAP_OP_OP)) ∧
    (∃ (s : State) (r : HelmReq) (pb : ParamBuf), oLe (reqBuf r pb) 0 1 = 5 ∧ asked s r 136 [mRun, mService] ∧ fieldCheck r true true (some (shapeLen (reqBuf r pb))) = none ∧ bufFail s r pb = none ∧ (s.md.reshape ≠ none ∨ ∃ g ∈ shapeGroups 5 (bits (ARG0 r) 0 16) (reqBuf r pb), ∃ (x : Sys2Proof.Group), group s g = some x ∧ x.st = GSt.rebuilding)) ∧
    (∃ (s : State) (r : HelmReq) (pb : ParamBuf), oLe (reqBuf r pb) 0 1 = 5 ∧ asked s r 136 [mRun, mService] ∧ fieldCheck r true true (some (shapeLen (reqBuf r pb))) = none ∧ bufFail s r pb = none ∧ (¬(s.md.reshape ≠ none ∨ ∃ g ∈ shapeGroups 5 (bits (ARG0 r) 0 16) (reqBuf r pb), ∃ (x : Sys2Proof.Group), group s g = some x ∧ x.st = GSt.rebuilding)) ∧ shapeOk (beginReq s r.src) 5 (bits (ARG0 r) 0 16) (reqBuf r pb) = false) ∧
    (∃ (s : State) (r : HelmReq) (pb : ParamBuf), oLe (reqBuf r pb) 0 1 = 5 ∧ asked s r 136 [mRun, mService] ∧ fieldCheck r true true (some (shapeLen (reqBuf r pb))) = none ∧ bufFail s r pb = none ∧ 5 ≠ 1 ∧ (¬(s.md.reshape ≠ none ∨ ∃ g ∈ shapeGroups 5 (bits (ARG0 r) 0 16) (reqBuf r pb), ∃ (x : Sys2Proof.Group), group s g = some x ∧ x.st = GSt.rebuilding)) ∧ shapeOk (beginReq s r.src) 5 (bits (ARG0 r) 0 16) (reqBuf r pb) = true ∧ volumesEnd (beginReq s r.src) ≤ lcapOf (dbil (shapeEffect (beginReq s r.src) 5 (bits (ARG0 r) 0 16) (reqBuf r pb))) (getF s MAP_OP_OP)) ∧
    (∃ (r : HelmReq) (pb : ParamBuf) (d : Nat), d ∈ dieList (reqBuf r pb)) ∧
    (∃ (s : State) (e : Nat) (x : Reshape), s.md.reshape = some x ∧ e ∈ x.left ∧ (∀ g ∈ x.olds, bandState s (g * nbe s + e) = 0 ∨ bWithdrawn (bandEnt s (g * nbe s + e)) = true)) ∧
    (∃ (s : State) (e : Nat) (x : Reshape), s.md.reshape = some x ∧ e ∉ x.left) ∧
    (∃ (s : State) (x : Reshape), s.md.reshape = some x ∧ x.left = []) ∧
    (∃ (s : State) (x : Reshape), s.md.reshape = some x ∧ x.left ≠ []) :=
  ⟨⟨ask (ShapeChanges.more (grp GSt.healthy (inM 3))) (rq 9999 (ablk 136 65535 0 (ShapeChanges.sd 4 [77]).length 0) (ShapeChanges.sd 4 [77])), rq 9999 (ablk 136 65535 0 (ShapeChanges.sd 4 [77]).length 0) (ShapeChanges.sd 4 [77]), pb0, by decide +kernel, by unfold asked; decide +kernel, by decide +kernel, by decide +kernel, by decide +kernel, (by decide +kernel)⟩,
    ⟨ask (ShapeChanges.more (grp GSt.healthy (inM 3))) (rq 9999 (ablk 136 65535 0 (ShapeChanges.sd 4 [1]).length 0) (ShapeChanges.sd 4 [1])), rq 9999 (ablk 136 65535 0 (ShapeChanges.sd 4 [1]).length 0) (ShapeChanges.sd 4 [1]), pb0, by decide +kernel, by unfold asked; decide +kernel, by decide +kernel, by decide +kernel, by decide +kernel, (by decide +kernel), by decide +kernel, volumesEnd_none _ rfl rfl⟩,
    ⟨ask (ShapeChanges.more (grp GSt.rebuilding (inM 3))) (rq 9999 (ablk 136 0 0 (ShapeChanges.sd 5 []).length 0) (ShapeChanges.sd 5 [])), rq 9999 (ablk 136 0 0 (ShapeChanges.sd 5 []).length 0) (ShapeChanges.sd 5 []), pb0, by decide +kernel, by unfold asked; decide +kernel, by decide +kernel, by decide +kernel, by decide +kernel⟩,
    ⟨ask (ShapeChanges.more (grp GSt.healthy (inM 3))) (rq 9999 (ablk 136 0 0 (ShapeChanges.sd 5 []).length 0) (ShapeChanges.sd 5 [])), rq 9999 (ablk 136 0 0 (ShapeChanges.sd 5 []).length 0) (ShapeChanges.sd 5 []), pb0, by decide +kernel, by unfold asked; decide +kernel, by decide +kernel, by decide +kernel, by decide +kernel, (by decide +kernel)⟩,
    ⟨ask (ShapeChanges.more (grp GSt.offline (inM 3))) (rq 9999 (ablk 136 0 0 (ShapeChanges.sd 5 []).length 0) (ShapeChanges.sd 5 [])), rq 9999 (ablk 136 0 0 (ShapeChanges.sd 5 []).length 0) (ShapeChanges.sd 5 []), pb0, by decide +kernel, by unfold asked; decide +kernel, by decide +kernel, by decide +kernel, by decide +kernel, (by decide +kernel), by decide +kernel, volumesEnd_none _ rfl rfl⟩,
    ⟨rq 9999 (ablk 136 0xFFFF 0 10 0) (ShapeChanges.sd 2 [1]), pb0, 1, by decide +kernel⟩,
    ⟨ask ({ (ShapeChanges.more (grp GSt.healthy (inM 3))) with md := { ((ShapeChanges.more (grp GSt.healthy (inM 3))).md) with reshape := some ShapeChanges.rs } }) (ShapeChanges.rqs.getD 3 (rq 0 0 [])), 0, _, some_wit (by decide +kernel), by decide +kernel, by decide +kernel⟩,
    ⟨ask ({ (ShapeChanges.more (grp GSt.healthy (inM 3))) with md := { ((ShapeChanges.more (grp GSt.healthy (inM 3))).md) with reshape := some ShapeChanges.rs } }) (ShapeChanges.rqs.getD 3 (rq 0 0 [])), 5, _, some_wit (by decide +kernel), by decide +kernel⟩,
    ⟨{ (grp GSt.healthy (inM 3)) with md := { (Media.reset) with reshape := some ({ (ShapeChanges.rs) with left := [] }) } }, _, some_wit (by decide +kernel), by decide +kernel⟩,
    ⟨ask ({ (ShapeChanges.more (grp GSt.healthy (inM 3))) with md := { ((ShapeChanges.more (grp GSt.healthy (inM 3))).md) with reshape := some ShapeChanges.rs } }) (ShapeChanges.rqs.getD 3 (rq 0 0 [])), _, some_wit (by decide +kernel), by decide +kernel⟩⟩

/-! ### HelmAnswers -/
namespace HelmAnswers
def rec (t : JTyp) : JRec := { recE 4 [] with typ := t, committed := false }
end HelmAnswers
/-- Meets the hypotheses of each clause of Obligations.HelmAnswers. -/
theorem witness_HelmAnswers :
    (∃ (s : State) (r : HelmReq), (nextReq s = some r ∧ reqOpc r = 5 ∧ s.boot.image = true ∧ mode s ≠ mOff) ∧ mode s ≠ mRun) ∧
    (∃ (s : State) (r : HelmReq), (nextReq s = some r ∧ reqOpc r = 5 ∧ s.boot.image = true ∧ mode s ≠ mOff) ∧ mode s = mRun ∧ (cx s r.src).late = false ∧ blkField r.block 4 2 ≠ 0) ∧
    (∃ (s : State) (r : HelmReq), (nextReq s = some r ∧ reqOpc r = 5 ∧ s.boot.image = true ∧ mode s ≠ mOff) ∧ mode s = mRun ∧ (cx s r.src).late = false ∧ blkField r.block 4 2 = 0 ∧ blkField r.block 48 8 % 16 = 0) ∧
    (∃ (s : State) (i : Nat) (src : Nat) (l : List Owed) (n : Nat), s.x.flushes[i]? = some (src, l, n) ∧ (∀ o ∈ l, flushed s o = true)) ∧
    (∃ (s : State) (i : Nat) (src : Nat) (l : List Owed) (n : Nat) (o : Owed), s.x.flushes[i]? = some (src, l, n) ∧ o ∈ l ∧ flushed s o = false) ∧
    (∃ (s : State) (r : HelmReq) (e : Ending) (a : Nat), List.find? (fun (r : HelmReq) => r.answer.isSome) s.d.helm = some r ∧ r.answer = some e ∧ isHost r.src = true ∧ r.out = [] ∧ (th s r.src).cont = Cont.mhelm a ∧ (reqOpc r < 128 ∨ helmPending s = false ∧ s.x.cas.wait = [])) ∧
    (∃ (s : State) (r : HelmReq) (e : Ending), List.find? (fun (r : HelmReq) => r.answer.isSome) s.d.helm = some r ∧ r.answer = some e ∧ 128 ≤ reqOpc r ∧ helmPending s = true) :=
  ⟨⟨ask (vols (inM 5)) (rq 9999 (ablk 5 0 0 0 0) []), rq 9999 (ablk 5 0 0 0 0) [], ⟨by decide +kernel, by decide +kernel, by decide +kernel, (by decide +kernel)⟩, by decide +kernel⟩,
    ⟨ask (vols (inM 3)) (rq 9999 (ablk 5 0 0 0 0 + 2 ^ 32) []), rq 9999 (ablk 5 0 0 0 0 + 2 ^ 32) [], ⟨by decide +kernel, by decide +kernel, by decide +kernel, (by decide +kernel)⟩, by decide +kernel, by decide +kernel, by decide +kernel⟩,
    ⟨ask (vols (inM 3)) (rq 9999 (ablk 5 0 0 0 0) []), rq 9999 (ablk 5 0 0 0 0) [], ⟨by decide +kernel, by decide +kernel, by decide +kernel, (by decide +kernel)⟩, by decide +kernel, by decide +kernel, by decide +kernel, (by decide +kernel)⟩,
    ⟨{ dramWrLe (inM 3) (aCoarse + 8 * 4) 8 (2 * 2 ^ 34 + 2 ^ 33) with x := { (inM 3).x with flushes := [(9999, [], 1)] } }, 0, 9999, [], 1, by decide +kernel, by decide +kernel⟩,
    ⟨{ dramWrLe (inM 3) (aCoarse + 8 * 4) 8 (2 * 2 ^ 34 + 2 ^ 33) with x := { (inM 3).x with flushes := [(9999, [Owed.frame 1027 3], 1)] } }, 0, 9999, [Owed.frame 1027 3], 1, Owed.frame 1027 3, by decide +kernel, by decide +kernel, by decide +kernel⟩,
    ⟨setTh ({ (ask (inM 3) ({ (rq 1 (ablk 5 0 0 0 0) []) with running := true, answer := some { cls := 0, detail := 0, offset := none, result := 7 } })) with map := { (MapCtl.reset) with recs := [HelmAnswers.rec JTyp.volume] } }) 1 ({ (hostT []) with st := TSt.parked, cont := Cont.mhelm 8 }), { (rq 1 (ablk 5 0 0 0 0) []) with running := true, answer := some { cls := 0, detail := 0, offset := none, result := 7 } }, _, 8, by decide +kernel, some_wit (by decide +kernel), by decide +kernel, by decide +kernel, by decide +kernel, (by decide +kernel)⟩,
    ⟨setTh ({ (ask (inM 3) ({ (rq 1 (ablk 134 0 0 0 0) []) with running := true, answer := some { cls := 0, detail := 0, offset := none, result := 7 } })) with map := { (MapCtl.reset) with recs := [HelmAnswers.rec JTyp.volume] } }) 1 ({ (hostT []) with st := TSt.parked, cont := Cont.mhelm 8 }), { (rq 1 (ablk 134 0 0 0 0) []) with running := true, answer := some { cls := 0, detail := 0, offset := none, result := 7 } }, _, by decide +kernel, some_wit (by decide +kernel), by decide +kernel, by decide +kernel⟩⟩

/-! ### TaskRegisters -/
namespace TaskRegisters
def d : List Bool := [false, true]
def bnd (b : State) : State := { b with ret := { b.ret with bind := [(1, ⟨true, 3, false, 0, [1, 2]⟩)] }, d := { b.d with closed := false } }
end TaskRegisters
/-- Meets the hypotheses of each clause of Obligations.TaskRegisters. -/
theorem witness_TaskRegisters :
    (∃ (s : State) (p : Nat) (c : Nat) (d : Bool), (portUp s p = true ∧ flag s (HLV_STAT_CFG_ONLY p) = false ∧ c < 4096) ∧ s.d.closed = true) ∧
    (∃ (s : State) (p : Nat) (c : Nat) (d : Bool), (portUp s p = true ∧ flag s (HLV_STAT_CFG_ONLY p) = false ∧ c < 4096) ∧ s.d.closed = false ∧ boundOf s c = false) ∧
    (∃ (s : State) (p : Nat) (c : Nat) (d : Bool), (portUp s p = true ∧ flag s (HLV_STAT_CFG_ONLY p) = false ∧ c < 4096) ∧ s.d.closed = false ∧ boundOf s c = true ∧ (th s c).st ≠ TSt.idle) ∧
    (∃ (s : State) (p : Nat) (c : Nat) (d : Bool), (portUp s p = true ∧ flag s (HLV_STAT_CFG_ONLY p) = false ∧ c < 4096) ∧ s.d.closed = false ∧ boundOf s c = true ∧ (th s c).st = TSt.idle ∧ mode s ≠ mBanked ∧ flag s CAS_STAT_MASTER = false) ∧
    (∃ (s : State) (p : Nat) (c : Nat), portUp s p = true ∧ c < 4096 ∧ flag s (HLV_STAT_CFG_ONLY p) = true) ∧
    (∃ (s : State) (p : Nat) (c : Nat) (d : Bool), (portUp s p = true ∧ flag s (HLV_STAT_CFG_ONLY p) = false ∧ c < 4096) ∧ d = false) ∧
    (∃ (s : State) (p : Nat) (c : Nat) (d : Bool), (portUp s p = true ∧ flag s (HLV_STAT_CFG_ONLY p) = false ∧ c < 4096) ∧ d = true) ∧
    (∃ (s : State) (p : Nat) (c : Nat), (portUp s p = true ∧ flag s (HLV_STAT_CFG_ONLY p) = false ∧ c < 4096)) ∧
    (∃ (s : State) (p : Nat) (c : Nat) (seq : Nat), (portUp s p = true ∧ flag s (HLV_STAT_CFG_ONLY p) = false ∧ c < 4096) ∧ seq % 2 ^ 16 ≠ (cx s c).seq) ∧
    (∃ (s : State) (p : Nat) (c : Nat) (seq : Nat), (portUp s p = true ∧ flag s (HLV_STAT_CFG_ONLY p) = false ∧ c < 4096) ∧ seq % 2 ^ 16 = (cx s c).seq ∧ ((cx s c).abPend = false ∧ ¬((cx s c).abOut = 64 ∧ (cx s c).abSeq = seq % 2 ^ 16 ∧ inFlight s c = false)) ∧ (inFlight s c = true ∧ (cx s c).commit = false ∧ (th s c).withHelm = false) ∧ (s.keep.held.any fun (h : Nat × Nat × JRec) => decide (h.1 = c)) = false ∧ partsOf s c = []) ∧
    (∃ (s : State) (p : Nat) (c : Nat) (seq : Nat), (portUp s p = true ∧ flag s (HLV_STAT_CFG_ONLY p) = false ∧ c < 4096) ∧ seq % 2 ^ 16 = (cx s c).seq ∧ ((cx s c).abPend = false ∧ ¬((cx s c).abOut = 64 ∧ (cx s c).abSeq = seq % 2 ^ 16 ∧ inFlight s c = false)) ∧ (¬(inFlight s c = true ∧ (cx s c).commit = false ∧ (th s c).withHelm = false)) ∧ ((th s c).st = TSt.idle ∨ (th s c).st = TSt.done ∨ (th s c).st = TSt.faulted)) ∧
    (∃ (s : State) (p : Nat) (c : Nat) (seq : Nat), (portUp s p = true ∧ flag s (HLV_STAT_CFG_ONLY p) = false ∧ c < 4096) ∧ seq % 2 ^ 16 = (cx s c).seq ∧ ((cx s c).abPend = false ∧ ¬((cx s c).abOut = 64 ∧ (cx s c).abSeq = seq % 2 ^ 16 ∧ inFlight s c = false)) ∧ inFlight s c = true ∧ (cx s c).commit = true) ∧
    (∃ (s : State) (p : Nat) (c : Nat) (seq : Nat), (portUp s p = true ∧ flag s (HLV_STAT_CFG_ONLY p) = false ∧ c < 4096) ∧ seq % 2 ^ 16 = (cx s c).seq ∧ ((cx s c).abPend = false ∧ ¬((cx s c).abOut = 64 ∧ (cx s c).abSeq = seq % 2 ^ 16 ∧ inFlight s c = false)) ∧ inFlight s c = true ∧ (cx s c).commit = false ∧ (th s c).withHelm = true) :=
  ⟨⟨upA (inM 3), 0, 1, false, ⟨by decide +kernel, by decide +kernel, by decide +kernel⟩, (by decide +kernel)⟩,
    ⟨{ (upA (inM 3)) with d := { ((inM 3).d) with closed := false } }, 0, 1, false, ⟨by decide +kernel, by decide +kernel, by decide +kernel⟩, (by decide +kernel), by decide +kernel⟩,
    ⟨setCx (setTh (TaskRegisters.bnd (upA (inM 3))) 1 ({ (hostT []) with st := TSt.done, withHelm := false })) 1 ({ (Ctx.reset) with commit := false }), 0, 1, false, ⟨by decide +kernel, by decide +kernel, by decide +kernel⟩, (by decide +kernel), by decide +kernel, by decide +kernel⟩,
    ⟨TaskRegisters.bnd (upA (inM 3)), 0, 1, false, ⟨by decide +kernel, by decide +kernel, by decide +kernel⟩, (by decide +kernel), by decide +kernel, by decide +kernel, by decide +kernel, (by decide +kernel)⟩,
    ⟨setF (TaskRegisters.bnd (upA (inM 3))) (HLV_STAT_CFG_ONLY 0) 1, 0, 1, by decide +kernel, by decide +kernel, by decide +kernel⟩,
    ⟨{ (upA (inM 3)) with d := { ((inM 3).d) with closed := false } }, 0, 1, false, ⟨by decide +kernel, by decide +kernel, by decide +kernel⟩, (by decide +kernel)⟩,
    ⟨{ (upA (inM 3)) with d := { ((inM 3).d) with closed := false } }, 0, 1, true, ⟨by decide +kernel, by decide +kernel, by decide +kernel⟩, (by decide +kernel)⟩,
    ⟨{ (upA (inM 3)) with d := { ((inM 3).d) with closed := false } }, 0, 1, ⟨by decide +kernel, by decide +kernel, by decide +kernel⟩⟩,
    ⟨{ (upA (inM 3)) with d := { ((inM 3).d) with closed := false } }, 0, 1, 1, ⟨by decide +kernel, by decide +kernel, by decide +kernel⟩, (by decide +kernel)⟩,
    ⟨setCx (setTh (TaskRegisters.bnd (upA (inM 3))) 1 ({ (hostT []) with st := TSt.running, withHelm := false })) 1 ({ (Ctx.reset) with commit := false }), 0, 1, 0, ⟨by decide +kernel, by decide +kernel, by decide +kernel⟩, (by decide +kernel), ⟨by decide +kernel, by decide +kernel⟩, ⟨by decide +kernel, (by decide +kernel), by decide +kernel⟩, by decide +kernel, by decide +kernel⟩,
    ⟨{ (upA (inM 3)) with d := { ((inM 3).d) with closed := false } }, 0, 1, 0, ⟨by decide +kernel, by decide +kernel, by decide +kernel⟩, (by decide +kernel), ⟨by decide +kernel, by decide +kernel⟩, by decide +kernel, (by decide +kernel)⟩,
    ⟨setCx (setTh (TaskRegisters.bnd (upA (inM 3))) 1 ({ (hostT []) with st := TSt.running, withHelm := false })) 1 ({ (Ctx.reset) with commit := true }), 0, 1, 0, ⟨by decide +kernel, by decide +kernel, by decide +kernel⟩, (by decide +kernel), ⟨by decide +kernel, by decide +kernel⟩, by decide +kernel, (by decide +kernel)⟩,
    ⟨setCx (setTh (TaskRegisters.bnd (upA (inM 3))) 1 ({ (hostT []) with st := TSt.running, withHelm := true })) 1 ({ (Ctx.reset) with commit := false }), 0, 1, 0, ⟨by decide +kernel, by decide +kernel, by decide +kernel⟩, (by decide +kernel), ⟨by decide +kernel, by decide +kernel⟩, by decide +kernel, (by decide +kernel), by decide +kernel⟩⟩

/-! ### HostMemory -/
namespace HostMemory
def y0 (k : XKind) (pg : Option (Nat × Nat)) : Xfer := { xf k [8192, 99, h1 + 2 ^ 40 * 2, 0, 0, 0] with hs := [h1], page := pg }
end HostMemory
/-- Meets the hypotheses of each clause of Obligations.HostMemory. -/
theorem witness_HostMemory :
    (∃ (s : State) (p : Nat) (i : Nat) (y : Xfer) (t : Nat) (n : Nat) (w : Nat), portUp s p = true ∧ i < 512 ∧ (mget none (port s p).groups i = some (t, n, w) ∧ t ≠ 9999 ∧ Option.map (fun (y : Xfer) => y.page.isSome) (xferAt (th s t) n) = some true) ∧ (port s p).waiters = []) ∧
    (∃ (s : State) (p : Nat) (i : Nat) (y : Xfer) (t : Nat) (n : Nat) (a : Nat) (w : Nat), portUp s p = true ∧ i < 512 ∧ (mget none (port s p).groups i = some (t, n, w) ∧ t ≠ 9999 ∧ Option.map (fun (y : Xfer) => y.page.isSome) (xferAt (th s t) n) = some true) ∧ (port s p).waiters = [] ∧ isHost t = true ∧ (th s t).why = Why.pagereq ∧ (th s t).arg = a ∧ (∀ (x : Xfer), xferAt (th s t) n = some x → Option.map Prod.snd x.page = some a)) ∧
    (∃ (s : State) (p : Nat) (i : Nat) (el : Elapse) (t : Nat) (n : Nat) (w : Nat), mget none (port (elapse s el) p).groups i = some (t, n, w) ∧ (elapse s el).clk.refNs < w + 1000000000) ∧
    (∃ (s : State) (p : Nat) (i : Nat) (y : Xfer) (el : Elapse) (t : Nat) (n : Nat) (w : Nat), (mget none (port (elapse s el) p).groups i = some (t, n, w) ∧ t ≠ 9999 ∧ Option.map (fun (y : Xfer) => y.page.isSome) (xferAt (th (elapse s el) t) n) = some true) ∧ w + 1000000000 ≤ (elapse s el).clk.refNs) ∧
    (∃ (s : State) (p : Nat) (ds : List DmaPart), portUp s p = true ∧ flag s (HLV_STAT_ATS_EN p) = true ∧ (∀ e ∈ ds, dmaPort s e.t ≠ p ∨ hostXfer s e.t e.n = none)) ∧
    (∃ (s : State) (p : Nat) (on : Bool), portUp s p = true ∧ on = false) ∧
    (∃ (s : State) (p : Nat) (on : Bool), portUp s p = true ∧ on = true ∧ (port s p).waiters = []) ∧
    (∃ (s : State) (d : DmaPart) (y : Xfer), (hostXfer s d.t d.n = some y ∧ portUp s (dmaPort s d.t) = true ∧ flag s (HLV_STAT_ATS_EN (dmaPort s d.t)) = true) ∧ (moveDma s d y).1 = false) ∧
    (∃ (s : State) (d : DmaPart) (y : Xfer), (hostXfer s d.t d.n = some y ∧ portUp s (dmaPort s d.t) = true ∧ flag s (HLV_STAT_ATS_EN (dmaPort s d.t)) = true) ∧ (moveDma s d y).1 = false) ∧
    (∃ (s : State) (d : DmaPart) (y : Xfer) (e : HostErr) (k : Nat), (e, k) ∈ [(HostErr.ur, 5), (HostErr.ca, 6), (HostErr.poisoned, 7)] ∧ hostXfer s d.t d.n = some y ∧ y.kind = XKind.xin ∧ (moveDma s d y).1 = false) ∧
    (∃ (s : State) (d : DmaPart) (y : Xfer) (el : Elapse), hostXfer (elapse s el) d.t d.n = some y ∧ y.kind = XKind.xin ∧ 50000000 ≤ el.ns ∧ (moveDma (elapse s el) d y).1 = false) :=
  ⟨⟨have th := { (hostT []) with st := TSt.parked, why := Why.pagereq, arg := 8192, cont := Cont.xwait 1 2, xfers := [(2, some (HostMemory.y0 XKind.xin (some (4, 8192))))] }; have b := setTh (withB (upA (inM 3))) 1 th; have b := setPort b 0 ({ (port b 0) with groups := [(4, some (1, 2, 0))] }); setF b (HLV_STAT_ATS_EN 0) 0, 0, 4, HostMemory.y0 XKind.xin none, 1, 2, _, by decide +kernel, by decide +kernel, ⟨some_wit (by decide +kernel), by decide +kernel, by decide +kernel⟩, by decide +kernel⟩,
    ⟨have th := { (hostT []) with st := TSt.parked, why := Why.pagereq, arg := 8192, cont := Cont.xwait 1 2, xfers := [(2, some (HostMemory.y0 XKind.xin (some (4, 8192))))] }; have b := setTh (withB (upA (inM 3))) 1 th; have b := setPort b 0 ({ (port b 0) with groups := [(4, some (1, 2, 0))] }); setF b (HLV_STAT_ATS_EN 0) 0, 0, 4, HostMemory.y0 XKind.xin none, 1, 2, 8192, _, by decide +kernel, by decide +kernel, ⟨some_wit (by decide +kernel), by decide +kernel, by decide +kernel⟩, by decide +kernel, (by decide +kernel), by decide +kernel, by decide +kernel, some_all (by decide +kernel)⟩,
    ⟨have th := { (hostT []) with st := TSt.parked, why := Why.pagereq, arg := 8192, cont := Cont.xwait 1 2, xfers := [(2, some (HostMemory.y0 XKind.xin (some (4, 8192))))] }; have b := setTh (withB (upA (inM 3))) 1 th; have b := setPort b 0 ({ (port b 0) with groups := [(4, some (1, 2, 0))] }); setF b (HLV_STAT_ATS_EN 0) 0, 0, 4, { ns := 0, corr := 0 }, _, _, _, some_wit (by decide +kernel), by decide +kernel⟩,
    ⟨have th := { (hostT []) with st := TSt.parked, why := Why.pagereq, arg := 8192, cont := Cont.xwait 1 2, xfers := [(2, some (HostMemory.y0 XKind.xin (some (4, 8192))))] }; have b := setTh (withB (upA (inM 3))) 1 th; have b := setPort b 0 ({ (port b 0) with groups := [(4, some (1, 2, 0))] }); setF b (HLV_STAT_ATS_EN 0) 0, 0, 4, HostMemory.y0 XKind.xin none, { ns := 1000000000, corr := 0 }, 1, 2, _, ⟨some_wit (by decide +kernel), by decide +kernel, by decide +kernel⟩, by decide +kernel⟩,
    ⟨have th := { (hostT []) with st := TSt.waiting, why := Why.dma, arg := 2, cont := Cont.xwait 1 2, xfers := [(2, some (HostMemory.y0 XKind.xin none))] }; have b := setTh (withB (upA (inM 3))) 1 th; have b := b; setF b (HLV_STAT_ATS_EN 0) 1, 0, [], by decide +kernel, by decide +kernel, by decide +kernel⟩,
    ⟨have th := { (hostT []) with st := TSt.waiting, why := Why.dma, arg := 2, cont := Cont.xwait 1 2, xfers := [(2, some (HostMemory.y0 XKind.xin none))] }; have b := setTh (withB (upA (inM 3))) 1 th; have b := b; setF b (HLV_STAT_ATS_EN 0) 0, 0, false, by decide +kernel, by decide +kernel⟩,
    ⟨have th := { (hostT []) with st := TSt.waiting, why := Why.dma, arg := 2, cont := Cont.xwait 1 2, xfers := [(2, some (HostMemory.y0 XKind.xin none))] }; have b := setTh (withB (upA (inM 3))) 1 th; have b := b; setF b (HLV_STAT_ATS_EN 0) 0, 0, true, by decide +kernel, by decide +kernel, by decide +kernel⟩,
    ⟨have th := { (hostT []) with st := TSt.waiting, why := Why.dma, arg := 2, cont := Cont.xwait 1 2, xfers := [(2, some (HostMemory.y0 XKind.xin none))] }; have b := setTh (withB (upA (inM 3))) 1 th; have b := b; setF b (HLV_STAT_ATS_EN 0) 1, { t := 1, n := 2, upto := 100, data := List.replicate 100 7, pis := [], errs := [] }, HostMemory.y0 XKind.xin none, ⟨by decide +kernel, by decide +kernel, by decide +kernel⟩, (by decide +kernel)⟩,
    ⟨have th := { (hostT []) with st := TSt.waiting, why := Why.dma, arg := 2, cont := Cont.xwait 1 2, xfers := [(2, some (HostMemory.y0 XKind.xin none))] }; have b := setTh (withB (upA (inM 3))) 1 th; have b := b; setF b (HLV_STAT_ATS_EN 0) 1, { t := 1, n := 2, upto := 100, data := List.replicate 100 7, pis := [], errs := [] }, HostMemory.y0 XKind.xin none, ⟨by decide +kernel, by decide +kernel, by decide +kernel⟩, (by decide +kernel)⟩,
    ⟨have th := { (hostT []) with st := TSt.waiting, why := Why.dma, arg := 2, cont := Cont.xwait 1 2, xfers := [(2, some (HostMemory.y0 XKind.xin none))] }; have b := setTh (withB (upA (inM 3))) 1 th; have b := b; setF b (HLV_STAT_ATS_EN 0) 0, { t := 1, n := 2, upto := 100, data := List.replicate 100 7, pis := [], errs := [] }, HostMemory.y0 XKind.xin none, HostErr.ur, 5, by decide +kernel, by decide +kernel, by decide +kernel, (by decide +kernel)⟩,
    ⟨have th := { (hostT []) with st := TSt.waiting, why := Why.dma, arg := 2, cont := Cont.xwait 1 2, xfers := [(2, some (HostMemory.y0 XKind.xin none))] }; have b := setTh (withB (upA (inM 3))) 1 th; have b := b; setF b (HLV_STAT_ATS_EN 0) 0, { t := 1, n := 2, upto := 100, data := List.replicate 100 7, pis := [], errs := [] }, HostMemory.y0 XKind.xin none, { ns := 50000000, corr := 0 }, by decide +kernel, by decide +kernel, by decide +kernel, (by decide +kernel)⟩⟩

/-! ### HostLinks -/
/-- Meets the hypotheses of each clause of Obligations.HostLinks. -/
theorem witness_HostLinks :
    (∃ (s : State) (p : Nat) (rate : Nat) (width : Nat), p ∈ ports s ∧ mode s ≠ mOff ∧ (mode s = mKindle → 6 ≤ getF s HELM_KINDLE_STEP) ∧ rate ≤ 3 ∧ width ∈ [1, 2, 4, 8, 16] ∧ (width = 16 → s.boot.split = false) ∧ s.boot.casEn = false) ∧
    (∃ (s : State) (p : Nat), portUp s p = true) ∧
    (∃ (s : State) (p : Nat) (c : Nat), portUp s p = true ∧ portCmds s p = [c] ∧ (cx s c).commit = false ∧ inFlight s c = true ∧ (s.keep.held.any fun (h : Nat × Nat × JRec) => decide (h.1 = c)) = false) ∧
    (∃ (s : State) (p : Nat), portUp s p = true) ∧
    (∃ (s : State) (p : Nat), portOpen s p = true) ∧
    (∃ (s : State) (p : Nat), portUp s p = true) ∧
    (∃ (s : State) (p : Nat), portUp s p = true ∧ portOpen s p = false) ∧
    (∃ (s : State) (p : Nat), portOpen s p = true) :=
  ⟨⟨setF (upA (inM 3)) (HLV_STAT_CFG_ONLY 0) 1, 0, 0, 16, by decide +kernel, by decide +kernel, by decide +kernel, (by decide +kernel), by decide +kernel, by decide +kernel, by decide +kernel⟩,
    ⟨setF (upA (inM 3)) (HLV_STAT_CFG_ONLY 0) 1, 0, by decide +kernel⟩,
    ⟨setTh (upA (inM 3)) 1 ({ (hostT []) with st := TSt.ready }), 0, 1, by decide +kernel, by decide +kernel, by decide +kernel, (by decide +kernel), by decide +kernel⟩,
    ⟨setF (upA (inM 3)) (HLV_STAT_CFG_ONLY 0) 1, 0, by decide +kernel⟩,
    ⟨upA (inM 3), 0, by decide +kernel⟩,
    ⟨setF (upA (inM 3)) (HLV_STAT_CFG_ONLY 0) 1, 0, by decide +kernel⟩,
    ⟨setF (upA (inM 3)) (HLV_STAT_CFG_ONLY 0) 1, 0, by decide +kernel, by decide +kernel⟩,
    ⟨upA (inM 3), 0, by decide +kernel⟩⟩

/-! ### RegisterAccess -/
namespace RegisterAccess
def dd (off : Nat) : RDef × Nat × Nat := (regAt off).getD (⟨0, 1, 0, 1, 0, []⟩, 0, 0)
end RegisterAccess
/-- Meets the hypotheses of each clause of Obligations.RegisterAccess. -/
theorem witness_RegisterAccess :
    (∃ (s : State) (p : Nat) (off : Nat) (size : Nat) (d : RDef) (n : Nat) (k : Nat), portOpen s p = true ∧ (16777216 ≤ off ∧ off < 18022400) ∧ regShape off size = true ∧ regOk s (famOf off) = true ∧ regAt (off / 8 * 8) = some (d, n, k)) ∧
    (∃ (s : State) (p : Nat) (off : Nat) (v : Nat) (d : RDef) (n : Nat) (k : Nat) (f : FDef), portOpen s p = true ∧ (16777216 ≤ off ∧ off < 18022400) ∧ off % 8 = 0 ∧ regOk s (famOf off) = true ∧ regAt off = some (d, n, k) ∧ d.fields = [f] ∧ f.acc = Acc.rw ∧ f.lo + f.w ≤ 64 ∧ fieldOk f (bits v f.lo f.w) = true ∧ d.base ∉ [16842752, 16781312, 16781360, 17039368, 17039384, 17104896, 17104912, 17563680]) ∧
    (∃ (s : State) (p : Nat) (off : Nat) (size : Nat), portOpen s p = true ∧ (16777216 ≤ off ∧ off < 18022400) ∧ regShape off size = true ∧ regOk s (famOf off) = false) ∧
    (∃ (s : State) (p : Nat) (off : Nat) (size : Nat), portOpen s p = true ∧ (16777216 ≤ off ∧ off < 18022400) ∧ regShape off size = false ∧ size ≤ 512) ∧
    (∃ (s : State) (p : Nat) (off : Nat) (size : Nat), portOpen s p = true ∧ size ≤ 512 ∧ off < 8388608) ∧
    (∃ (s : State) (p : Nat) (off : Nat) (size : Nat), portOpen s p = true ∧ size ≤ 512 ∧ 8388608 ≤ off) ∧
    (∃ (mask : Nat) (f : FDef), (f.acc = Acc.ro ∨ f.acc = Acc.rc ∨ bits mask f.lo f.w = 0)) ∧
    (∃ (s : State) (off : Nat) (v : Nat) (n : Nat) (k : Nat) (mask : Nat) (f : FDef), f.acc = Acc.rw ∧ bits mask f.lo f.w ≠ 0 ∧ fieldOk f (getF s { f with key := off * 64 + f.lo, dflt := f.dflt.val n k } - (getF s { f with key := off * 64 + f.lo, dflt := f.dflt.val n k } &&& bits mask f.lo f.w) ||| bits v f.lo f.w &&& bits mask f.lo f.w) = false) ∧
    (∃ (s : State) (off : Nat) (v : Nat) (d : RDef) (n : Nat) (k : Nat) (mask : Nat) (f : FDef), f.acc = Acc.rw ∧ bits mask f.lo f.w ≠ 0 ∧ fieldOk f (getF s { f with key := off * 64 + f.lo, dflt := f.dflt.val n k } - (getF s { f with key := off * 64 + f.lo, dflt := f.dflt.val n k } &&& bits mask f.lo f.w) ||| bits v f.lo f.w &&& bits mask f.lo f.w) = true ∧ d.base ∉ [16842752, 16781312, 16781360, 17039368, 17104896, 17104912, 17563680]) ∧
    (∃ (d : RDef) (mask : Nat) (f : FDef), f.acc = Acc.w1c ∧ bits mask f.lo f.w ≠ 0 ∧ d.base ∉ [16777224, 17104920, 17891368, 16908296]) ∧
    (∃ (d : RDef) (mask : Nat) (f : FDef), f.acc = Acc.w1s ∧ bits mask f.lo f.w ≠ 0 ∧ d.base ∉ [17760312, 17768448]) ∧
    (∃ (s : State) (p : Nat) (off : Nat) (size : Nat), portOpen s p = true ∧ (16777216 ≤ off ∧ off < 18022400) ∧ regShape off size = true ∧ (¬(off = 16974588 ∨ off = 16974584 ∧ size = 8)) ∧ windowAt s off = none) ∧
    (∃ (s : State) (p : Nat) (off : Nat) (size : Nat) (a : Nat), portOpen s p = true ∧ (16777216 ≤ off ∧ off < 18022400) ∧ regShape off size = true ∧ (¬(off = 16974588 ∨ off = 16974584 ∧ size = 8)) ∧ windowAt s off = some a) ∧
    (∃ (s : State) (p : Nat) (off : Nat) (size : Nat), portOpen s p = true ∧ 8388608 ≤ off ∧ size ≤ 512) ∧
    (∃ (s : State) (p : Nat) (off : Nat) (size : Nat), portOpen s p = true ∧ off < 8388608 ∧ size ≤ 512) ∧
    (∃ (s : State) (p : Nat) (sp : Nat) (size : Nat), portUp s p = true ∧ portOpen s p = false ∧ sp ∉ [1, 3, 4] ∧ size ≤ 512) ∧
    (∃ (s : State) (off : Nat) (size : Nat) (d : RDef) (n : Nat) (k : Nat) (g : FDef), g ∈ d.fields ∧ regOk s (famOf (off / 8 * 8)) = true ∧ regAt (off / 8 * 8) = some (d, n, k) ∧ bits ((2 ^ (8 * size) - 1) * 2 ^ (8 * (off % 8))) g.lo g.w ≠ 0 ∧ g.acc = Acc.rc ∧ (List.map (fun (x : FDef) => x.lo) d.fields).Nodup) ∧
    (∃ (s : State) (p : Nat) (off : Nat) (size : Nat), portOpen s p = true ∧ 16777216 ≤ off ∧ size ≤ 512 ∧ regShape off size = false) ∧
    (∃ (s : State) (p : Nat) (sp : Nat), portUp s p = true ∧ (sp = 3 ∨ sp = 4)) ∧
    (∃ (s : State) (p : Nat), portUp s p = true) :=
  ⟨⟨upA (inM 3), 0, 16842792, 4, (RegisterAccess.dd 16842792).1, 0, 0, by decide +kernel, ⟨by decide +kernel, by decide +kernel⟩, (by decide +kernel), by decide +kernel, by decide +kernel⟩,
    ⟨upA (inM 3), 0, 16781376, 0, (RegisterAccess.dd 16781376).1, 0, 0, { lo := 0, w := 20, acc := Acc.rw, dflt := Dflt.num 0, ret := false, view := false, vlo := 0, vhi := 1048575, vst := 1 }, by decide +kernel, ⟨by decide +kernel, by decide +kernel⟩, (by decide +kernel), by decide +kernel, by decide +kernel, by decide +kernel, (by decide +kernel), by decide +kernel, by decide +kernel, by decide +kernel⟩,
    ⟨upA ({ (inM 7) with boot := Boot.reset }), 0, 16842792, 4, by decide +kernel, ⟨by decide +kernel, by decide +kernel⟩, (by decide +kernel), by decide +kernel⟩,
    ⟨upA (inM 3), 0, 16842792, 7, by decide +kernel, ⟨by decide +kernel, by decide +kernel⟩, (by decide +kernel), by decide +kernel⟩,
    ⟨upA (inM 3), 0, 256, 4, by decide +kernel, by decide +kernel, by decide +kernel⟩,
    ⟨upA (inM 3), 0, 16777224, 8, by decide +kernel, by decide +kernel, by decide +kernel⟩,
    ⟨0, { lo := 0, w := 20, acc := Acc.rw, dflt := Dflt.num 0, ret := false, view := false, vlo := 0, vhi := 1048575, vst := 1 }, by decide +kernel⟩,
    ⟨upA (inM 3), 16777224, 0, 0, 0, 18446744073709551615, { lo := 0, w := 20, acc := Acc.rw, dflt := Dflt.num 1000000, ret := true, view := false, vlo := 1000, vhi := 1000000, vst := 1 }, by decide +kernel, by decide +kernel, by decide +kernel⟩,
    ⟨upA (inM 3), 16777224, 0, (RegisterAccess.dd 16781376).1, 0, 0, 18446744073709551615, { lo := 0, w := 20, acc := Acc.rw, dflt := Dflt.num 0, ret := false, view := false, vlo := 0, vhi := 1048575, vst := 1 }, by decide +kernel, by decide +kernel, by decide +kernel, (by decide +kernel)⟩,
    ⟨(RegisterAccess.dd 16781376).1, 18446744073709551615, { lo := 0, w := 8, acc := Acc.w1c, dflt := Dflt.num 0, ret := true, view := false, vlo := 0, vhi := 255, vst := 1 }, by decide +kernel, by decide +kernel, by decide +kernel⟩,
    ⟨(RegisterAccess.dd 16781376).1, 18446744073709551615, { lo := 0, w := 32, acc := Acc.w1s, dflt := Dflt.num 0, ret := false, view := true, vlo := 0, vhi := 4294967295, vst := 1 }, by decide +kernel, by decide +kernel, by decide +kernel⟩,
    ⟨upA (inM 3), 0, 16777224, 8, by decide +kernel, ⟨by decide +kernel, by decide +kernel⟩, (by decide +kernel), by decide +kernel, by decide +kernel⟩,
    ⟨upA (inM 3), 0, 17039624, 4, _, by decide +kernel, ⟨by decide +kernel, by decide +kernel⟩, (by decide +kernel), by decide +kernel, some_wit (by decide +kernel)⟩,
    ⟨upA (inM 3), 0, 16777224, 8, by decide +kernel, by decide +kernel, by decide +kernel⟩,
    ⟨upA (inM 3), 0, 256, 4, by decide +kernel, by decide +kernel, by decide +kernel⟩,
    ⟨setF (upA (inM 3)) (HLV_STAT_CFG_ONLY 0) 1, 0, 0, 4, by decide +kernel, by decide +kernel, by decide +kernel, (by decide +kernel)⟩,
    ⟨upA (inM 3), 16842792, 4, (RegisterAccess.dd 16842792).1, 0, 0, ⟨0, 32, .rc, .num 0, false, false, 0, 4294967295, 1⟩, by decide +kernel, by decide +kernel, by decide +kernel, (by decide +kernel), by decide +kernel, by decide +kernel⟩,
    ⟨upA (inM 3), 0, 16842792, 7, by decide +kernel, by decide +kernel, by decide +kernel, (by decide +kernel)⟩,
    ⟨upA (inM 3), 0, 3, by decide +kernel, by decide +kernel⟩,
    ⟨upA (inM 3), 0, by decide +kernel⟩⟩

/-! ### RegisterCommands -/
/-- Meets the hypotheses of each clause of Obligations.RegisterCommands. -/
theorem witness_RegisterCommands :
    (∃ (s : State), regOk s 0 = true) ∧
    (∃ (s : State), regOk s 0 = true) ∧
    (∃ (s : State), regOk s 4 = true ∧ mode s ≠ mService) ∧
    (∃ (s : State) (v : Nat), regOk s 4 = true ∧ mode s = mService ∧ volumesEnd s ≤ getF (setLcap (setC s MAP_OP_OP (bits v 0 8))) MAP_LCAP_BILLETS) ∧
    (∃ (s : State) (q : Nat), q < 4 ∧ regOk s 5 = true) ∧
    (∃ (s : State) (q : Nat), q < 4 ∧ getF s (MC_CTL_EN q) = 0 ∧ getF s (MC_STAT_DRAINED q) = 0 ∧ (slice s q).wtq = [] ∧ (slice s q).fills = []) ∧
    (∃ (s : State) (q : Nat), q < 4 ∧ (slice s q).wtq ≠ []) ∧
    (∃ (s : State) (q : Nat) (n : Nat), q < 4 ∧ regOk s 5 = true ∧ n ≤ 8 ∧ mode s ≠ mService) ∧
    (∃ (s : State) (q : Nat) (n : Nat), q < 4 ∧ regOk s 5 = true ∧ n ≤ 8 ∧ mode s = mService) ∧
    (∃ (s : State) (q : Nat) (w : Nat), q < 4 ∧ w < 16 ∧ regOk s 5 = true ∧ wayDis s q w = true) ∧
    (∃ (s : State), regOk s 7 = true) ∧
    (∃ (s : State), regOk s 17 = true) ∧
    (∃ (s : State), regOk s 13 = true ∧ mode s = mStandby) ∧
    (∃ (s : State), regOk s 13 = true ∧ mode s ≠ mStandby) ∧
    (∃ (s : State), regOk s 13 = true ∧ inPair s = true) ∧
    (∃ (s : State), regOk s 13 = true) ∧
    (∃ (s : State) (n : Nat), n < 64 ∧ regOk s 2 = true) ∧
    (∃ (s : State), regOk s 2 = true) ∧
    (∃ (s : State) (n : Nat), n < 64 ∧ n ≠ 1 ∧ regOk s 2 = true) ∧
    (∃ (s : State) (c : Nat), regOk s 2 = true ∧ c % 2 ^ 16 < 65280) :=
  ⟨⟨(setF (setF (inM 3) (MC_WAYDIS_DIS 0) 8) (MC_CTL_EN 1) 0), by decide +kernel⟩,
    ⟨(setF (setF (inM 3) (MC_WAYDIS_DIS 0) 8) (MC_CTL_EN 1) 0), by decide +kernel⟩,
    ⟨(setF (setF (inM 3) (MC_WAYDIS_DIS 0) 8) (MC_CTL_EN 1) 0), by decide +kernel, by decide +kernel⟩,
    ⟨(setF (setF (inM 5) (MC_WAYDIS_DIS 0) 8) (MC_CTL_EN 1) 0), 0, by decide +kernel, by decide +kernel, volumesEnd_none _ rfl rfl⟩,
    ⟨(setF (setF (inM 3) (MC_WAYDIS_DIS 0) 8) (MC_CTL_EN 1) 0), 0, by decide +kernel, by decide +kernel⟩,
    ⟨(setF (setF (inM 3) (MC_WAYDIS_DIS 0) 8) (MC_CTL_EN 1) 0), 1, by decide +kernel, by decide +kernel, by decide +kernel, (by decide +kernel), by decide +kernel⟩,
    ⟨(fun (b : State) => { (setF (setF b (MC_CTL_EN 0) 0) PAIR_STAT_PSTATE 3) with boot := { (b.boot) with pairEn := true }, slices := [(0, { (Slice.empty) with wtq := [(8, [1])] })] }) (inM 3), 0, by decide +kernel, by decide +kernel⟩,
    ⟨(setF (setF (inM 3) (MC_WAYDIS_DIS 0) 8) (MC_CTL_EN 1) 0), 0, 0, by decide +kernel, by decide +kernel, by decide +kernel, (by decide +kernel)⟩,
    ⟨(setF (setF (inM 5) (MC_WAYDIS_DIS 0) 8) (MC_CTL_EN 1) 0), 0, 0, by decide +kernel, by decide +kernel, by decide +kernel, (by decide +kernel)⟩,
    ⟨(setF (setF (inM 3) (MC_WAYDIS_DIS 0) 8) (MC_CTL_EN 1) 0), 0, 3, by decide +kernel, by decide +kernel, by decide +kernel, (by decide +kernel)⟩,
    ⟨(setF (setF (inM 3) (MC_WAYDIS_DIS 0) 8) (MC_CTL_EN 1) 0), by decide +kernel⟩,
    ⟨(setF (setF (inM 3) (MC_WAYDIS_DIS 0) 8) (MC_CTL_EN 1) 0), by decide +kernel⟩,
    ⟨(setF (setF (inM 2) (MC_WAYDIS_DIS 0) 8) (MC_CTL_EN 1) 0), by decide +kernel, by decide +kernel⟩,
    ⟨(setF (setF (inM 3) (MC_WAYDIS_DIS 0) 8) (MC_CTL_EN 1) 0), by decide +kernel, by decide +kernel⟩,
    ⟨(fun (b : State) => { (setF (setF b (MC_CTL_EN 0) 0) PAIR_STAT_PSTATE 3) with boot := { (b.boot) with pairEn := true }, slices := [(0, { (Slice.empty) with wtq := [(8, [1])] })] }) (inM 3), by decide +kernel, by decide +kernel⟩,
    ⟨(setF (setF (inM 3) (MC_WAYDIS_DIS 0) 8) (MC_CTL_EN 1) 0), by decide +kernel⟩,
    ⟨(setF (setF (inM 3) (MC_WAYDIS_DIS 0) 8) (MC_CTL_EN 1) 0), 0, by decide +kernel, by decide +kernel⟩,
    ⟨(setF (setF (inM 3) (MC_WAYDIS_DIS 0) 8) (MC_CTL_EN 1) 0), by decide +kernel⟩,
    ⟨(setF (setF (inM 3) (MC_WAYDIS_DIS 0) 8) (MC_CTL_EN 1) 0), 0, by decide +kernel, by decide +kernel, by decide +kernel⟩,
    ⟨(setF (setF (inM 3) (MC_WAYDIS_DIS 0) 8) (MC_CTL_EN 1) 0), 0, by decide +kernel, by decide +kernel⟩⟩

/-! ### Logbook -/
namespace Logbook
def en (b : State) : State := setF (setF b (LOG_EN_EN 3) 3) (LOG_EN_EN 0) 0
end Logbook
/-- Meets the hypotheses of each clause of Obligations.Logbook. -/
theorem witness_Logbook :
    (∃ (s : State), regOk s 3 = true) ∧
    (∃ (s : State), s.trigs = []) ∧
    (∃ (s : State) (x : Trig), nextTrig s = some x ∧ logMode s = false) ∧
    (∃ (s : State) (x : Trig), nextTrig s = some x ∧ logMode s = true ∧ trigOn s x = false) ∧
    (∃ (s : State) (x : Trig), nextTrig s = some x ∧ logMode s = true ∧ trigOn s x = true ∧ 8192 ≤ s.keep.log.length) ∧
    (∃ (s : State) (x : Trig), nextTrig s = some x ∧ logMode s = true ∧ trigOn s x = true ∧ s.keep.log.length < 8192) ∧
    (∃ (s : State) (el : Elapse) (x : Trig), (elapse s el).x.unannounced = true ∧ getF s LOG_CTL_IRQEN = 1 ∧ (elapse s el).x.logMs ≠ (elapse s el).clk.now / 1000000 + 1 ∧ mode s ≠ mOff) ∧
    (∃ (s : State) (el : Elapse) (x : Trig), (elapse s el).x.logMs = (elapse s el).clk.now / 1000000 + 1) ∧
    (∃ (s : State) (p : Nat), regOk s 3 = true ∧ portUp s p = true ∧ portOpen s p = false) ∧
    (∃ (s : State) (p : Nat), regOk s 3 = true ∧ portOpen s p = true) :=
  ⟨⟨(fun (b : State) => have b := setF (setF (Logbook.en (upA b)) LOG_CTL_IRQEN 1) LOG_CTL_AUTOINC 0; { b with trigs := [], x := { (b.x) with logMs := 0, unannounced := true }, keep := { (b.keep) with log := [] } }) (inM 3), by decide +kernel⟩,
    ⟨(fun (b : State) => have b := setF (setF (Logbook.en (upA b)) LOG_CTL_IRQEN 1) LOG_CTL_AUTOINC 0; { b with trigs := [], x := { (b.x) with logMs := 0, unannounced := true }, keep := { (b.keep) with log := [] } }) (inM 3), by decide +kernel⟩,
    ⟨(fun (b : State) => have b := setF (setF (Logbook.en (upA b)) LOG_CTL_IRQEN 1) LOG_CTL_AUTOINC 0; { b with trigs := [{ fam := 3, ev := 1, detail := [], stamp := { now := 0, flags := 0 }, held := false }], x := { (b.x) with logMs := 0, unannounced := true }, keep := { (b.keep) with log := [] } }) (inM 0), { fam := 3, ev := 1, detail := [], stamp := { now := 0, flags := 0 }, held := false }, by decide +kernel, by decide +kernel⟩,
    ⟨(fun (b : State) => have b := setF (setF (Logbook.en (upA b)) LOG_CTL_IRQEN 1) LOG_CTL_AUTOINC 0; { b with trigs := [{ fam := 0, ev := 9, detail := [1], stamp := { now := 0, flags := 0 }, held := false }], x := { (b.x) with logMs := 0, unannounced := true }, keep := { (b.keep) with log := [] } }) (inM 3), { fam := 0, ev := 9, detail := [1], stamp := { now := 0, flags := 0 }, held := false }, by decide +kernel, by decide +kernel, by decide +kernel⟩,
    ⟨(fun (b : State) => have b := setF (setF (Logbook.en (upA b)) LOG_CTL_IRQEN 1) LOG_CTL_AUTOINC 0; { b with trigs := [{ fam := 3, ev := 1, detail := [], stamp := { now := 0, flags := 0 }, held := false }], x := { (b.x) with logMs := 0, unannounced := true }, keep := { (b.keep) with log := List.replicate 8192 { trig := 0, flags := 0, nreg := 0, seq := 0, stamp := 0, detail := [], value := [], offset := [] } } }) (inM 3), { fam := 3, ev := 1, detail := [], stamp := { now := 0, flags := 0 }, held := false }, by decide +kernel, by decide +kernel, by decide +kernel, (by decide +kernel)⟩,
    ⟨(fun (b : State) => have b := setF (setF (Logbook.en (upA b)) LOG_CTL_IRQEN 1) LOG_CTL_AUTOINC 0; { b with trigs := [{ fam := 3, ev := 1, detail := [], stamp := { now := 0, flags := 0 }, held := false }], x := { (b.x) with logMs := 0, unannounced := true }, keep := { (b.keep) with log := [] } }) (inM 3), { fam := 3, ev := 1, detail := [], stamp := { now := 0, flags := 0 }, held := false }, by decide +kernel, by decide +kernel, by decide +kernel, (by decide +kernel)⟩,
    ⟨(fun (b : State) => have b := setF (setF (Logbook.en (upA b)) LOG_CTL_IRQEN 1) LOG_CTL_AUTOINC 0; { b with trigs := [], x := { (b.x) with logMs := 0, unannounced := true }, keep := { (b.keep) with log := [] } }) (inM 3), { ns := 0, corr := 0 }, { fam := 3, ev := 1, detail := [], stamp := { now := 0, flags := 0 }, held := false }, by decide +kernel, by decide +kernel, by decide +kernel, (by decide +kernel)⟩,
    ⟨(fun (b : State) => have b := setF (setF (Logbook.en (upA b)) LOG_CTL_IRQEN 1) LOG_CTL_AUTOINC 0; { b with trigs := [], x := { (b.x) with logMs := 1, unannounced := true }, keep := { (b.keep) with log := [] } }) (inM 3), { ns := 0, corr := 0 }, { fam := 3, ev := 1, detail := [], stamp := { now := 0, flags := 0 }, held := false }, by decide +kernel⟩,
    ⟨setF (upA (inM 3)) (HLV_STAT_CFG_ONLY 0) 1, 0, by decide +kernel, by decide +kernel, by decide +kernel⟩,
    ⟨(fun (b : State) => have b := setF (setF (Logbook.en (upA b)) LOG_CTL_IRQEN 1) LOG_CTL_AUTOINC 0; { b with trigs := [], x := { (b.x) with logMs := 0, unannounced := true }, keep := { (b.keep) with log := [] } }) (inM 3), 0, by decide +kernel, by decide +kernel⟩⟩

/-! ### StrikeEvents -/
namespace StrikeEvents
def slotdat (b : State) : State := { b with md := { b.md with flash := [(5 * 2 ^ 15 + 3 * 8, List.replicate 4160 1)] } }
def g2 (b : State) : State := { b with ret := { b.ret with groups := [(0, some ⟨.healthy, 1, [0, 256], [], false, 0, []⟩)] }, md := { b.md with flash := [(256 * 2 ^ 31 + 1 * 2 ^ 15 + 5 * 8, List.replicate 4160 1)] } }
def sif2 (b : State) : State := { b with sif := [(0, some ⟨1, 0, 5, 2, false, false, 0, 0, 0, 0, true, 2⟩)] }
def rbs : Strike := { r1 with ppa := 2 ^ 15 + 5 * 8, phase := .rebuild, slots := [some 4] }
end StrikeEvents
set_option maxRecDepth 10000 in
/-- Meets the hypotheses of each clause of Obligations.StrikeEvents. -/
theorem witness_StrikeEvents :
    (∃ (s : State) (ch : Nat) (i : Nat) (k : Strike), nextStart s ch = some (i, k) ∧ busFree s ch = true ∧ drivers s ch = true ∧ erasingNamed s k = true) ∧
    (∃ (s : State) (ch : Nat) (i : Nat) (k : Strike), nextStart s ch = some (i, k) ∧ busFree s ch = true ∧ drivers s ch = true ∧ erasingNamed s k = false ∧ k.fg = true) ∧
    (∃ (s : State) (ch : Nat) (i : Nat) (k : Strike), nextStart s ch = some (i, k) ∧ busFree s ch = false) ∧
    (∃ (s : State) (i : Nat) (k : Strike) (r : SlotRead), strikeAt s i = some k ∧ k.phase = SPhase.hard ∧ k.nslot = 0 ∧ k.slots = [none] ∧ r = SlotRead.fail) ∧
    (∃ (s : State) (i : Nat) (k : Strike) (n : Nat) (p : List Byte), strikeAt s i = some k ∧ k.phase = SPhase.hard ∧ k.nslot = 0 ∧ k.slots = [none] ∧ readPart s k 0 = some p ∧ k.walking = false ∧ n ≤ getF s HELM_MEDTHR_RBER) ∧
    (∃ (s : State) (i : Nat) (k : Strike), strikeAt s i = some k ∧ k.phase = SPhase.soft ∧ k.nslot = 0 ∧ k.slots = [none]) ∧
    (∃ (s : State) (i : Nat) (k : Strike) (tb : Nat) (n : Nat) (e : Nat), strikeAt s i = some k ∧ k.phase = SPhase.walk ∧ k.walking = true ∧ walkTable s k = some (tb, n) ∧ retryEntry s k.entry = some e ∧ (k.slots.all fun (x : Option Nat) => x.isSome) = false ∧ k.rows + 1 < n) ∧
    (∃ (s : State) (i : Nat) (k : Strike) (tb : Nat) (n : Nat) (e : Nat), strikeAt s i = some k ∧ k.phase = SPhase.walk ∧ k.walking = true ∧ walkTable s k = some (tb, n) ∧ retryEntry s k.entry = some e ∧ (k.slots.all fun (x : Option Nat) => x.isSome) = false ∧ n ≤ k.rows + 1) ∧
    (∃ (s : State) (i : Nat) (k : Strike), strikeAt s i = some k ∧ k.phase = SPhase.finish) ∧
    (∃ (s : State) (i : Nat) (k : Strike), strikeAt s i = some k ∧ k.phase ≠ SPhase.finish) ∧
    (∃ (s : State) (k : Strike), k.t ≠ 9999 ∧ (th s k.t).why ≠ Why.media ∧ (∀ (m h : Nat), (th s m).cont ≠ Cont.bfree h)) ∧
    (∃ (s : State) (i : Nat) (k : Strike), strikeAt s i = some k ∧ k.phase = SPhase.rebuild ∧ rebuildHeld s k.ppa = true) ∧
    (∃ (s : State) (i : Nat) (k : Strike) (p : List Byte) (w : State), strikeAt s i = some k ∧ k.phase = SPhase.rebuild ∧ rebuildHeld s k.ppa = false ∧ k.nslot = 0 ∧ k.slots = [some 4] ∧ w = countReads s k.ppa (ppaSlot k.ppa) (walkTable s k).isSome [] ∧ rebuildSlot w k.ppa (ppaSlot k.ppa) [] = Rebuilt.ok p) ∧
    (∃ (s : State) (i : Nat) (die : Nat) (k : Strike) (el : Elapse) (e : Nat) (r : Nat) (x : Script), runningErase (elapse s el) die = some (i, k) ∧ mode s ≠ mQuench ∧ suspEntry (elapse s el) k.entry = some e ∧ resumeEntry (elapse s el) k.entry = some r ∧ k.script = some x ∧ x.wait.isSome = true ∧ x.ready = none ∧ flag s (CH_SUSP_EN k.chan) = true ∧ readQueued (elapse s el) k = true ∧ getF s (CH_SUSP_MIN_US k.chan) * 1000 ≤ (elapse s el).clk.refNs - k.busyFrom ∧ k.susps < getF s (CH_SUSP_MAXSUSP k.chan)) ∧
    (∃ (s : State) (i : Nat) (die : Nat) (k : Strike) (el : Elapse) (e : Nat) (a : Nat), suspendedErase (elapse s el) die = some (i, k) ∧ k.suspended = some a ∧ resumeEntry (elapse s el) k.entry = some e ∧ mode s ≠ mQuench ∧ k.script = none ∧ dieBusy (elapse s el) die = false ∧ getF s (CH_SUSP_WINDOW_US k.chan) * 1000 ≤ (elapse s el).clk.refNs - a) ∧
    (∃ (s : State) (ch : Nat) (el : Elapse) (code : Nat), ch < 32 ∧ getF s (CH_CFG_RETRAIN ch) ≠ 0 ∧ getF s (CH_STAT_TRAINED ch) = 1 ∧ code ≤ getF s (CH_STAT_RATE ch) ∧ mget 0 (elapse s el).ch.trainedAt ch + getF s (CH_CFG_RETRAIN ch) * 60000000000 ≤ (elapse s el).clk.now ∧ busHolder (elapse s el) ch = none ∧ drivers (elapse s el) ch = true) ∧
    (∃ (s : State) (el : Elapse), (elapse s el).clk.budgetMs < (elapse s el).clk.now / 1000000) ∧
    (∃ (s : State) (el : Elapse), (elapse s el).clk.now / 1000000 ≤ (elapse s el).clk.budgetMs) :=
  ⟨⟨puts base [{ (er) with suspended := some 0 }, { (r1) with ppa := 6 * 2 ^ 15 }], 0, _, _, some_wit (by decide +kernel), by decide +kernel, by decide +kernel, by decide +kernel⟩,
    ⟨puts base [r1], 0, _, _, some_wit (by decide +kernel), by decide +kernel, by decide +kernel, by decide +kernel, (by decide +kernel)⟩,
    ⟨puts base [{ (er) with ppa := 6 * 2 ^ 15 + 2 ^ 31, script := some (scr 2 1072) }, r1], 0, _, _, some_wit (by decide +kernel), by decide +kernel⟩,
    ⟨puts base [{ (r1) with phase := SPhase.hard }], 0, _, _, some_wit (by decide +kernel), by decide +kernel, by decide +kernel, by decide +kernel, rfl⟩,
    ⟨puts (StrikeEvents.slotdat base) [{ (r1) with phase := SPhase.hard }], 0, _, 3, _, some_wit (by decide +kernel), by decide +kernel, by decide +kernel, by decide +kernel, some_wit (by decide +kernel), by decide +kernel, by decide +kernel⟩,
    ⟨puts base [{ (r1) with phase := SPhase.soft }], 0, _, some_wit (by decide +kernel), by decide +kernel, by decide +kernel, by decide +kernel⟩,
    ⟨puts base [{ (r1) with phase := SPhase.walk, walking := true, row := 1 }], 0, _, _, _, _, some_wit (by decide +kernel), by decide +kernel, by decide +kernel, some_wit (by decide +kernel), some_wit (by decide +kernel), by decide +kernel, by decide +kernel⟩,
    ⟨puts base [{ (r1) with phase := SPhase.walk, walking := true, row := 1, rows := 2 }], 0, _, _, _, _, some_wit (by decide +kernel), by decide +kernel, by decide +kernel, some_wit (by decide +kernel), some_wit (by decide +kernel), by decide +kernel, by decide +kernel⟩,
    ⟨puts base [{ (r1) with phase := SPhase.finish, slots := [some 0] }], 0, _, some_wit (by decide +kernel), by decide +kernel⟩,
    ⟨puts (StrikeEvents.g2 base) [StrikeEvents.rbs], 0, _, some_wit (by decide +kernel), by decide +kernel⟩,
    ⟨puts (StrikeEvents.g2 base) [StrikeEvents.rbs], StrikeEvents.rbs, by decide +kernel, by decide +kernel, not_bfree (by decide +kernel)⟩,
    ⟨puts (StrikeEvents.sif2 (StrikeEvents.g2 base)) [StrikeEvents.rbs], 0, _, some_wit (by decide +kernel), by decide +kernel, by decide +kernel⟩,
    ⟨puts (StrikeEvents.g2 base) [StrikeEvents.rbs], 0, _, _, _, some_wit (by decide +kernel), by decide +kernel, by decide +kernel, by decide +kernel, (by decide +kernel), rfl, rebuilt_ok (by decide +kernel)⟩,
    ⟨puts base [{ (er) with script := some wt }, r1], _, 0, _, { ns := 90000000000000, corr := 0 }, _, _, _, some_wit (by decide +kernel), by decide +kernel, some_wit (by decide +kernel), some_wit (by decide +kernel), some_wit (by decide +kernel), by decide +kernel, by decide +kernel, by decide +kernel, (by decide +kernel), by decide +kernel, by decide +kernel⟩,
    ⟨puts base [{ (er) with suspended := some 0 }, { (r1) with ppa := 6 * 2 ^ 15 }], _, 0, _, { ns := 90000000000000, corr := 0 }, _, _, some_wit (by decide +kernel), some_wit (by decide +kernel), some_wit (by decide +kernel), by decide +kernel, by decide +kernel, by decide +kernel, (by decide +kernel)⟩,
    ⟨puts base [{ (er) with suspended := some 0 }, { (r1) with ppa := 6 * 2 ^ 15 }], 0, { ns := 90000000000000, corr := 0 }, 2, by decide +kernel, by decide +kernel, by decide +kernel, (by decide +kernel), by decide +kernel, by decide +kernel, by decide +kernel⟩,
    ⟨puts base [{ (er) with suspended := some 0 }, { (r1) with ppa := 6 * 2 ^ 15 }], { ns := 90000000000000, corr := 0 }, by decide +kernel⟩,
    ⟨puts (StrikeEvents.g2 base) [StrikeEvents.rbs], { ns := 0, corr := 0 }, by decide +kernel⟩⟩

/-! ### SwageInstructions -/
namespace SwageInstructions
def ch : List Nat := [0]
def z : List (Nat × Nat) := [(0x70, 6), (0x70, 4)]
def r1 : Strike := { Tests.r1 with phase := .script }
def p1 : Strike := stk 1 1 (6 * 2 ^ 15) .script
def wds : List Nat := [0, 16, 3, 0x10000001, 0x20000001 + 16, 0x30000001, 0x30000000, 0x30000000 + 4 * 0 + 128 * 2, 0x40000001, 0x40000000, 0x50000070 + 256, 0x60000070, 0x70000001 + 256, 0x70000001 + 256 + 65536, 0x80000000 + 0x411, 0x84000000 + 0x411, 0x80000000, 0x90000411, 0x90000001, 0xA0000000, 0xB0000000 + 1 * 2 ^ 14 + 0x412, 0xB0000000 + 0x412, 0xB0000000 + 2 ^ 14]
def wa (w : Nat) (k : Strike) (x : Script) : State := { puts base [{ k with script := some x }] with ch := { (puts base [{ k with script := some x }]).ch with store := code st0 x.pc w } }
def sts : List State := (wds.flatMap fun w => [(r1, scr 0 0x410), (p1, scr 1 0x420), (er, scr 2 0x430)].flatMap fun kx => [[], [0x422]].map fun stak => wa w kx.1 { kx.2 with stack := stak })
  ++ [(0x70, 6), (0x70, 4)].flatMap fun z => [none, some (50, 0x430)].map fun tm => puts base [{ er with script := some { scr 2 0x430 with wait := some z, bus := false, timer := tm } }]
def cur : List State := (sts.drop 102).take 1
def k : List Strike := cur.flatMap fun s => s.ch.strikes.filterMap (·.2)
def x : List Script := k.filterMap (·.script)
def s : List State := cur
end SwageInstructions
set_option maxRecDepth 10000 in
/-- Meets the hypotheses of each clause of Obligations.SwageInstructions (part 1). -/
theorem witness_SwageInstructions_1 :
    (∃ (s : State) (ch : Nat) (i : Nat) (k : Strike) (x : Script) (a : Nat) (dec : Bool), a < 16 ∧ runsWord s ch (a + 16 * b2n dec) = some (i, k, x)) ∧
    (∃ (s : State) (ch : Nat) (i : Nat) (k : Strike) (x : Script) (a : Nat), a < 256 ∧ runsWord s ch (268435456 + a) = some (i, k, x)) ∧
    (∃ (s : State) (ch : Nat) (i : Nat) (k : Strike) (x : Script) (a : Nat) (b : Nat) (c : Nat) (d : Nat), a < 8 ∧ b < 4 ∧ c < 8 ∧ d < 4 ∧ runsWord s ch (536870912 + a + 16 * b + 256 * c + 2048 * d) = some (i, k, x)) ∧
    (∃ (s : State) (ch : Nat) (i : Nat) (k : Strike) (x : Script) (b : Nat) (c : Nat) (d : Nat), b < 8 ∧ c < 4 ∧ d < 4 ∧ runsWord s ch (805306368 + 1 + 4 * b + 32 * c + 128 * d) = some (i, k, x)) ∧
    (∃ (s : State) (ch : Nat) (i : Nat) (k : Strike) (x : Script) (b : Nat) (c : Nat) (d : Nat), b < 8 ∧ c < 4 ∧ d < 4 ∧ runsWord s ch (805306368 + 0 + 4 * b + 32 * c + 128 * d) = some (i, k, x) ∧ eCls s x.entry ≠ 1) ∧
    (∃ (s : State) (ch : Nat) (i : Nat) (k : Strike) (x : Script) (b : Nat) (c : Nat) (d : Nat), b < 8 ∧ c < 4 ∧ d < 4 ∧ runsWord s ch (805306368 + 0 + 4 * b + 32 * c + 128 * d) = some (i, k, x) ∧ eCls s x.entry = 1 ∧ eParam s k.entry ≤ d) ∧
    (∃ (s : State) (ch : Nat) (i : Nat) (k : Strike) (x : Script) (b : Nat) (c : Nat) (d : Nat) (es : List (Nat × MErr)) (w : State), b < 8 ∧ c < 4 ∧ d < 4 ∧ runsWord s ch (805306368 + 0 + 4 * b + 32 * c + 128 * d) = some (i, k, x) ∧ eCls s x.entry = 1 ∧ d < eParam s k.entry ∧ doutCheck s k d es = (false, w)) ∧
    (∃ (s : State) (ch : Nat) (i : Nat) (k : Strike) (x : Script) (b : Nat) (c : Nat) (d : Nat) (es : List (Nat × MErr)) (w : State), b < 8 ∧ c < 4 ∧ d < 4 ∧ runsWord s ch (805306368 + 0 + 4 * b + 32 * c + 128 * d) = some (i, k, x) ∧ eCls s x.entry = 1 ∧ d < eParam s k.entry ∧ doutCheck s k d es = (true, w)) ∧
    (∃ (s : State) (ch : Nat) (i : Nat) (k : Strike) (x : Script) (b : Nat) (c : Nat), b < 8 ∧ c < 4 ∧ runsWord s ch (1073741824 + 1 + 4 * b + 32 * c) = some (i, k, x)) ∧
    (∃ (s : State) (ch : Nat) (i : Nat) (k : Strike) (x : Script) (b : Nat) (c : Nat), b < 8 ∧ c < 4 ∧ runsWord s ch (1073741824 + 0 + 4 * b + 32 * c) = some (i, k, x) ∧ eCls s x.entry = 0 ∧ k.raw = false) ∧
    (∃ (s : State) (ch : Nat) (i : Nat) (k : Strike) (x : Script) (b : Nat) (c : Nat), b < 8 ∧ c < 4 ∧ runsWord s ch (1073741824 + 0 + 4 * b + 32 * c) = some (i, k, x) ∧ eCls s x.entry = 1) ∧
    (∃ (s : State) (ch : Nat) (i : Nat) (k : Strike) (x : Script) (a : Nat) (b : Nat), a < 256 ∧ b < 8 ∧ runsWord s ch (1342177280 + a + 256 * b) = some (i, k, x) ∧ k.cls ≠ 2) :=
  ⟨⟨SwageInstructions.wa 0 er ({ (scr 2 1072) with stack := [] }), 0, 0, { er with script := some ({ (scr 2 1072) with stack := [] }) }, ({ (scr 2 1072) with stack := [] }), 0, false, by decide +kernel, by decide +kernel⟩,
    ⟨SwageInstructions.wa 268435457 SwageInstructions.r1 ({ (scr 0 1040) with stack := [] }), 0, 0, { SwageInstructions.r1 with script := some ({ (scr 0 1040) with stack := [] }) }, ({ (scr 0 1040) with stack := [] }), 1, by decide +kernel, by decide +kernel⟩,
    ⟨SwageInstructions.wa (536870913 + 16) SwageInstructions.r1 ({ (scr 0 1040) with stack := [] }), 0, 0, { SwageInstructions.r1 with script := some ({ (scr 0 1040) with stack := [] }) }, ({ (scr 0 1040) with stack := [] }), 1, 1, 0, 0, by decide +kernel, by decide +kernel, by decide +kernel, (by decide +kernel), by decide +kernel⟩,
    ⟨SwageInstructions.wa 805306369 SwageInstructions.r1 ({ (scr 0 1040) with stack := [] }), 0, 0, { SwageInstructions.r1 with script := some ({ (scr 0 1040) with stack := [] }) }, ({ (scr 0 1040) with stack := [] }), 0, 0, 0, by decide +kernel, by decide +kernel, by decide +kernel, (by decide +kernel)⟩,
    ⟨SwageInstructions.wa 805306368 SwageInstructions.r1 ({ (scr 0 1040) with stack := [] }), 0, 0, { SwageInstructions.r1 with script := some ({ (scr 0 1040) with stack := [] }) }, ({ (scr 0 1040) with stack := [] }), 0, 0, 0, by decide +kernel, by decide +kernel, by decide +kernel, (by decide +kernel), by decide +kernel⟩,
    ⟨SwageInstructions.wa (805306368 + 4 * 0 + 128 * 2) SwageInstructions.p1 ({ (scr 1 1056) with stack := [] }), 0, 0, { SwageInstructions.p1 with script := some ({ (scr 1 1056) with stack := [] }) }, ({ (scr 1 1056) with stack := [] }), 0, 0, 2, by decide +kernel, by decide +kernel, by decide +kernel, (by decide +kernel), by decide +kernel, by decide +kernel⟩,
    ⟨SwageInstructions.wa 805306368 SwageInstructions.p1 ({ (scr 1 1056) with stack := [] }), 0, 0, { SwageInstructions.p1 with script := some ({ (scr 1 1056) with stack := [] }) }, ({ (scr 1 1056) with stack := [] }), 0, 0, 0, [], _, by decide +kernel, by decide +kernel, by decide +kernel, (by decide +kernel), by decide +kernel, by decide +kernel, fst_wit (by decide +kernel)⟩,
    ⟨{ SwageInstructions.wa 805306368 SwageInstructions.p1 (scr 1 1056) with mem := { (inM 3).mem with sramBad := [524288] } }, 0, 0, { SwageInstructions.p1 with script := some (scr 1 1056) }, (scr 1 1056), 0, 0, 0, [], _, by decide +kernel, by decide +kernel, by decide +kernel, (by decide +kernel), by decide +kernel, by decide +kernel, fst_wit (by decide +kernel)⟩,
    ⟨SwageInstructions.wa 1073741825 SwageInstructions.r1 ({ (scr 0 1040) with stack := [] }), 0, 0, { SwageInstructions.r1 with script := some ({ (scr 0 1040) with stack := [] }) }, ({ (scr 0 1040) with stack := [] }), 0, 0, by decide +kernel, by decide +kernel, by decide +kernel⟩,
    ⟨SwageInstructions.wa 1073741824 SwageInstructions.r1 ({ (scr 0 1040) with stack := [] }), 0, 0, { SwageInstructions.r1 with script := some ({ (scr 0 1040) with stack := [] }) }, ({ (scr 0 1040) with stack := [] }), 0, 0, by decide +kernel, by decide +kernel, by decide +kernel, (by decide +kernel), by decide +kernel⟩,
    ⟨SwageInstructions.wa 1073741824 SwageInstructions.p1 ({ (scr 1 1056) with stack := [] }), 0, 0, { SwageInstructions.p1 with script := some ({ (scr 1 1056) with stack := [] }) }, ({ (scr 1 1056) with stack := [] }), 0, 0, by decide +kernel, by decide +kernel, by decide +kernel, (by decide +kernel)⟩,
    ⟨SwageInstructions.wa (1342177392 + 256) SwageInstructions.r1 ({ (scr 0 1040) with stack := [] }), 0, 0, { SwageInstructions.r1 with script := some ({ (scr 0 1040) with stack := [] }) }, ({ (scr 0 1040) with stack := [] }), 112, 1, by decide +kernel, by decide +kernel, by decide +kernel, (by decide +kernel)⟩⟩
set_option maxRecDepth 10000 in
/-- Meets the hypotheses of each clause of Obligations.SwageInstructions (part 2). -/
theorem witness_SwageInstructions_2 :
    (∃ (s : State) (ch : Nat) (i : Nat) (k : Strike) (x : Script) (a : Nat), a < 256 ∧ runsWord s ch (1610612736 + a) = some (i, k, x)) ∧
    (∃ (s : State) (ch : Nat) (i : Nat) (k : Strike) (x : Script) (a : Nat) (b : Nat) (all : Bool), a < 8 ∧ b < 256 ∧ runsWord s ch (1879048192 + a + 256 * b + 65536 * b2n all) = some (i, k, x)) ∧
    (∃ (s : State) (ch : Nat) (i : Nat) (k : Strike) (x : Script) (a : Nat) (b : Nat), a < 3 ∧ b < 2 ^ 14 ∧ runsWord s ch (2147483648 + a * 2 ^ 26 + b) = some (i, k, x)) ∧
    (∃ (s : State) (ch : Nat) (i : Nat) (k : Strike) (x : Script) (a : Nat), a < 2 ^ 14 ∧ runsWord s ch (2415919104 + a) = some (i, k, x)) ∧
    (∃ (s : State) (ch : Nat) (i : Nat) (k : Strike) (x : Script), runsWord s ch 2684354560 = some (i, k, x) ∧ x.stack = []) ∧
    (∃ (s : State) (ch : Nat) (i : Nat) (k : Strike) (x : Script) (t : Nat) (l : List Nat), runsWord s ch 2684354560 = some (i, k, x) ∧ x.stack = t :: l) ∧
    (∃ (s : State) (ch : Nat) (i : Nat) (k : Strike) (x : Script) (a : Nat) (b : Nat) (c : Nat), a < 4 ∧ b < 4096 ∧ c < 2 ^ 14 ∧ runsWord s ch (2952790016 + a * 2 ^ 26 + b * 2 ^ 14 + c) = some (i, k, x)) ∧
    (∃ (k : Strike), k.cls = 2) ∧
    (∃ (s : State) (i : Nat) (k : Strike) (x : Script) (el : Elapse) (z : Nat × Nat), strikeAt (elapse s el) i = some k ∧ k.script = some x ∧ x.wait = some z ∧ x.ready = none ∧ drivers (elapse s el) k.chan = true ∧ busHolder (elapse s el) k.chan = none ∧ nextPoll (elapse s el) k.chan = some i) ∧
    (∃ (s : State) (i : Nat) (k : Strike) (el : Elapse), strikeAt (elapse s el) i = some k ∧ nextPoll (elapse s el) k.chan ≠ some i) ∧
    (∃ (s : State) (i : Nat) (k : Strike) (x : Script) (e : Nat) (el : Elapse) (t : Nat), strikeAt (elapse s el) i = some k ∧ k.script = some x ∧ x.timer = some (t, e) ∧ t ≤ (elapse s el).clk.refNs) :=
  ⟨⟨SwageInstructions.wa 1610612848 SwageInstructions.r1 ({ (scr 0 1040) with stack := [] }), 0, 0, { SwageInstructions.r1 with script := some ({ (scr 0 1040) with stack := [] }) }, ({ (scr 0 1040) with stack := [] }), 112, by decide +kernel, by decide +kernel⟩,
    ⟨SwageInstructions.wa (1879048193 + 256) SwageInstructions.r1 ({ (scr 0 1040) with stack := [] }), 0, 0, { SwageInstructions.r1 with script := some ({ (scr 0 1040) with stack := [] }) }, ({ (scr 0 1040) with stack := [] }), 1, 1, false, by decide +kernel, by decide +kernel, by decide +kernel⟩,
    ⟨SwageInstructions.wa 2147483648 SwageInstructions.r1 ({ (scr 0 1040) with stack := [] }), 0, 0, { SwageInstructions.r1 with script := some ({ (scr 0 1040) with stack := [] }) }, ({ (scr 0 1040) with stack := [] }), 0, 0, by decide +kernel, by decide +kernel, by decide +kernel⟩,
    ⟨SwageInstructions.wa 2415920145 SwageInstructions.r1 ({ (scr 0 1040) with stack := [] }), 0, 0, { SwageInstructions.r1 with script := some ({ (scr 0 1040) with stack := [] }) }, ({ (scr 0 1040) with stack := [] }), 1041, by decide +kernel, by decide +kernel⟩,
    ⟨SwageInstructions.wa 2684354560 SwageInstructions.r1 ({ (scr 0 1040) with stack := [] }), 0, 0, { SwageInstructions.r1 with script := some ({ (scr 0 1040) with stack := [] }) }, ({ (scr 0 1040) with stack := [] }), by decide +kernel, by decide +kernel⟩,
    ⟨SwageInstructions.wa 2684354560 SwageInstructions.r1 ({ (scr 0 1040) with stack := [1058] }), 0, 0, { SwageInstructions.r1 with script := some ({ (scr 0 1040) with stack := [1058] }) }, ({ (scr 0 1040) with stack := [1058] }), _, _, by decide +kernel, cons_wit (by decide +kernel)⟩,
    ⟨SwageInstructions.wa (2952790016 + 1 * 2 ^ 14 + 1042) SwageInstructions.r1 ({ (scr 0 1040) with stack := [] }), 0, 0, { SwageInstructions.r1 with script := some ({ (scr 0 1040) with stack := [] }) }, ({ (scr 0 1040) with stack := [] }), 0, 1, 1042, by decide +kernel, by decide +kernel, by decide +kernel, (by decide +kernel)⟩,
    ⟨er, by decide +kernel⟩,
    ⟨puts base [{ (er) with script := some ({ (scr 2 1072) with timer := none, wait := some (112, 6), bus := false }) }], 0, _, { (scr 2 1072) with timer := none, wait := some (112, 6), bus := false }, { ns := 0, corr := 0 }, (112, 6), some_wit (by decide +kernel), by decide +kernel, by decide +kernel, by decide +kernel, (by decide +kernel), by decide +kernel, by decide +kernel⟩,
    ⟨SwageInstructions.wa 0 er ({ (scr 2 1072) with stack := [] }), 0, _, { ns := 0, corr := 0 }, some_wit (by decide +kernel), by decide +kernel⟩,
    ⟨puts base [{ (er) with script := some ({ (scr 2 1072) with timer := some (50, 1072), wait := some (112, 6), bus := false }) }], 0, _, { (scr 2 1072) with timer := some (50, 1072), wait := some (112, 6), bus := false }, 1072, { ns := 90000, corr := 0 }, 50, some_wit (by decide +kernel), by decide +kernel, by decide +kernel, by decide +kernel⟩⟩

/-! ### MapEvents -/
namespace MapEvents
def j : List Nat := [0, 4]
def y0 (k : XKind) : Xfer := { xf k [8192, 99, h1 + 2 ^ 40 * 2, 0, 0, 0, 0, 0, 0] with hs := [h1] }
def rc (j : Nat) : JRec := recE j []
end MapEvents
/-- Meets the hypotheses of each clause of Obligations.MapEvents (part 1). -/
theorem witness_MapEvents_1 :
    (∃ (s : State) (line : Nat), (∀ g ∈ (slice s (line % 4)).fills, g.line ≠ line)) ∧
    (∃ (s : State) (line : Nat) (g : Fill), List.find? (fun (g : Fill) => decide (g.line = line)) (slice s (line % 4)).fills = some g ∧ g.read = false) ∧
    (∃ (s : State) (line : Nat) (g : Fill), List.find? (fun (g : Fill) => decide (g.line = line)) (slice s (line % 4)).fills = some g ∧ g.read = true) ∧
    (∃ (s : State) (t : Nat) (n : Nat) (m : Machine.Cont), (th s t).cont = m ∧ (∀ (rd lbn : Nat) (gen : Bool) (n : Nat), m ≠ Cont.look rd lbn gen n)) ∧
    (∃ (s : State) (t : Nat) (rd : Nat) (lbn : Nat) (gen : Bool) (m : Nat), (th s t).cont = Cont.look rd lbn gen m ∧ (th s t).st ≠ TSt.running) ∧
    (∃ (s : State) (q : Nat) (a : Nat) (l : List Byte) (r : List (Nat × List Byte)), (slice s q).wtq = (a, l) :: r) ∧
    (∃ (s : State) (q : Nat), (slice s q).wtq = []) ∧
    (∃ (s : State) (j : Nat) (t : Nat), s.ck.jend < j ∧ (∀ r ∈ s.map.recs, r.jseq ≤ j → s.ck.jend < r.jseq → r.committed = true) ∧ (∃ r ∈ s.map.recs, r.jseq = j) ∧ (strikesWhere s fun (k : Strike) => decide (k.cls = 1) && decide ((th s k.t).role = 8)) = [] ∧ segBytes s j ≤ 2 ^ 20) ∧
    (∃ (s : State) (j : Nat), 2 ^ 20 < segBytes s j) ∧
    (∃ (s : State) (j : Nat), j ≤ s.ck.jend) ∧
    (∃ (s : State) (m : Nat) (x : Thread) (a : Nat) (b : Nat) (c : Bool), (m, x) ∈ s.thr ∧ x.why = Why.dma ∧ x.cont = Cont.commit a b c) ∧
    (∃ (s : State), (∀ x ∈ s.thr, x.2.why ≠ Why.dma)) :=
  ⟨⟨{ (inM 3) with map := { (MapCtl.reset) with recs := [{ (recE 4 []) with typ := JTyp.pad, a := 2 ^ 21 }], jseq := 4 } }, 2, by decide +kernel⟩,
    ⟨{ (inM 3) with slices := [(2, { (Slice.empty) with wtq := [(160, [1, 2])], fills := [{ line := 2, stream := false, pf := true, alloc := false, read := false }] })] }, 2, _, some_wit (by decide +kernel), by decide +kernel⟩,
    ⟨{ (inM 3) with slices := [(2, { (Slice.empty) with fills := [{ line := 2, stream := false, pf := false, alloc := true, read := true }] })] }, 2, _, some_wit (by decide +kernel), by decide +kernel⟩,
    ⟨{ (inM 3) with map := { (MapCtl.reset) with recs := [{ (recE 4 []) with typ := JTyp.pad, a := 2 ^ 21 }], jseq := 4 } }, 1, 2, _, rfl, not_look (by decide +kernel)⟩,
    ⟨setTh (lcap (vols (inM 3)) 100) 1 ({ (hostT []) with st := TSt.waiting, why := Why.mapmiss, arg := 128, cont := Cont.look 1 300 false 0 }), 1, 1, 300, false, 0, by decide +kernel, by decide +kernel⟩,
    ⟨{ (inM 3) with slices := [(2, { (Slice.empty) with wtq := [(160, [1, 2])] })] }, 2, _, _, _, cons_wit (by decide +kernel)⟩,
    ⟨{ (inM 3) with map := { (MapCtl.reset) with recs := [{ (recE 4 []) with typ := JTyp.pad, a := 2 ^ 21 }], jseq := 4 } }, 2, by decide +kernel⟩,
    ⟨{ (inM 3) with map := { (MapCtl.reset) with recs := [MapEvents.rc 4], jseq := 4 } }, 4, 1, by decide +kernel, by decide +kernel, by decide +kernel, (by decide +kernel), by decide +kernel⟩,
    ⟨{ (inM 3) with map := { (MapCtl.reset) with recs := [{ (recE 4 []) with typ := JTyp.pad, a := 2 ^ 21 }], jseq := 4 } }, 4, by decide +kernel⟩,
    ⟨{ (inM 3) with map := { (MapCtl.reset) with recs := [{ (recE 4 []) with typ := JTyp.pad, a := 2 ^ 21 }], jseq := 4 } }, 0, by decide +kernel⟩,
    ⟨setTh (inM 3) 1 { hostT [] with st := .waiting, why := .dma, cont := .commit 1 0 false }, 1, { hostT [] with st := .waiting, why := .dma, cont := .commit 1 0 false }, 1, 0, false, by decide +kernel, by decide +kernel, by decide +kernel⟩,
    ⟨{ (inM 3) with map := { (MapCtl.reset) with recs := [{ (recE 4 []) with typ := JTyp.pad, a := 2 ^ 21 }], jseq := 4 } }, by decide +kernel⟩⟩
/-- Meets the hypotheses of each clause of Obligations.MapEvents (part 2). -/
theorem witness_MapEvents_2 :
    (∃ (s : State) (d : RoundDir) (m : Nat) (js : Nat), s.map.round = some (m, js, none) ∧ threeChannels d.dirs = true ∧ copiesChanged s d.segs = true ∧ s.ck.jend < s.map.jseq) ∧
    (∃ (s : State) (d : RoundDir) (m : Nat) (js : Nat), s.map.round = some (m, js, none) ∧ threeChannels d.dirs = false) ∧
    (∃ (s : State) (m : Nat) (js : Nat) (jd : Nat), s.map.round = some (m, js, some jd) ∧ jd ≤ s.ck.jend) ∧
    (∃ (s : State) (m : Nat) (js : Nat) (jd : Nat), s.map.round = some (m, js, some jd) ∧ s.ck.jend < jd) ∧
    (∃ (s : State) (t : Nat) (n : Nat) (es : List (Nat × MErr)) (data : List Byte) (pis : List Byte) (y : Xfer) (r : Option Nat) (v : State), liveXfer s t n = some y ∧ (y.kind = XKind.xin ∨ y.kind = XKind.xout) ∧ moveTo s t y y.pos (4096 * ctlCount (y.w.getD 2 0)) data pis es = (r, v)) ∧
    (∃ (s : State) (t : Nat) (n : Nat) (y : Xfer), liveXfer s t n = some y ∧ y.kind = XKind.xcopy) ∧
    (∃ (s : State) (t : Nat) (n : Nat) (y : Xfer), liveXfer s t n = some y ∧ y.kind = XKind.pxadd) ∧
    (∃ (s : State) (t : Nat) (n : Nat) (y : Xfer), liveXfer s t n = some y ∧ y.kind = XKind.pxreb) ∧
    (∃ (s : State) (t : Nat) (n : Nat) (y : Xfer), liveXfer s t n = some y ∧ y.kind = XKind.pxclose) ∧
    (∃ (s : State) (t : Nat) (n : Nat) (y : Xfer), liveXfer s t n = some y ∧ (y.kind = XKind.cenc ∨ y.kind = XKind.cdec)) ∧
    (∃ (s : State) (t : Nat) (n : Nat), liveXfer s t n = none) ∧
    (∃ (s : State) (t : Nat) (n : Nat) (y : Xfer), (th s t).why ≠ Why.dma ∧ (th s t).why ≠ Why.pagereq ∧ xferAt (th s t) n = some y ∧ (∀ (m h : Nat), (th s m).cont ≠ Cont.bfree h)) :=
  ⟨⟨{ (inM 3) with map := { (MapCtl.reset) with recs := [MapEvents.rc 4], jseq := 4, round := some (5, 1, none) } }, { dirs := [7, 256 * 2 ^ 31, 512 * 2 ^ 31], segs := [] }, 5, 1, by decide +kernel, by decide +kernel, by decide +kernel, (by decide +kernel)⟩,
    ⟨{ (inM 3) with map := { (MapCtl.reset) with recs := [MapEvents.rc 4], jseq := 4, round := some (5, 1, none) } }, { dirs := [7], segs := [] }, 5, 1, by decide +kernel, by decide +kernel⟩,
    ⟨{ (inM 3) with map := { (MapCtl.reset) with recs := [MapEvents.rc 4], jseq := 4, round := some (5, 1, some 4) }, ck := { newest := none, previous := none, jend := 4 } }, 5, 1, 4, by decide +kernel, by decide +kernel⟩,
    ⟨{ (inM 3) with map := { (MapCtl.reset) with recs := [MapEvents.rc 4], jseq := 4, round := some (5, 1, some 9) }, ck := { newest := none, previous := none, jend := 4 } }, 5, 1, 9, by decide +kernel, by decide +kernel⟩,
    ⟨setTh (withB (inM 3)) 1 ({ (hostT []) with st := TSt.running, xfers := [(2, some (MapEvents.y0 XKind.xin))] }), 1, 2, [], List.replicate 8192 7, [], MapEvents.y0 XKind.xin, _, _, by decide +kernel, by decide +kernel, pair_wit _⟩,
    ⟨setTh (withB (inM 3)) 1 ({ (hostT []) with st := TSt.running, xfers := [(2, some (MapEvents.y0 XKind.xcopy))] }), 1, 2, MapEvents.y0 XKind.xcopy, by decide +kernel, by decide +kernel⟩,
    ⟨setTh (withB (inM 3)) 1 ({ (hostT []) with st := TSt.running, xfers := [(2, some (MapEvents.y0 XKind.pxadd))] }), 1, 2, MapEvents.y0 XKind.pxadd, by decide +kernel, by decide +kernel⟩,
    ⟨setTh (withB (inM 3)) 1 ({ (hostT []) with st := TSt.running, xfers := [(2, some (MapEvents.y0 XKind.pxreb))] }), 1, 2, MapEvents.y0 XKind.pxreb, by decide +kernel, by decide +kernel⟩,
    ⟨setTh (withB (inM 3)) 1 ({ (hostT []) with st := TSt.running, xfers := [(2, some (MapEvents.y0 XKind.pxclose))] }), 1, 2, MapEvents.y0 XKind.pxclose, by decide +kernel, by decide +kernel⟩,
    ⟨setTh (withB (inM 3)) 1 ({ (hostT []) with st := TSt.running, xfers := [(2, some (MapEvents.y0 XKind.cenc))] }), 1, 2, MapEvents.y0 XKind.cenc, by decide +kernel, by decide +kernel⟩,
    ⟨{ (inM 3) with map := { (MapCtl.reset) with recs := [{ (recE 4 []) with typ := JTyp.pad, a := 2 ^ 21 }], jseq := 4 } }, 1, 2, by decide +kernel⟩,
    ⟨setTh (withB (inM 3)) 1 ({ (hostT []) with st := TSt.running, xfers := [(2, some (MapEvents.y0 XKind.xin))] }), 1, 2, MapEvents.y0 XKind.xin, by decide +kernel, by decide +kernel, by decide +kernel, not_bfree (by decide +kernel)⟩⟩

/-! ### MediaRequests -/
namespace MediaRequests
def b : List Nat := [0, 1]
def slotw (b : State) (rq g band : Nat) : State := dramWrLe b (aSlots + 32) 8 (rq + 2 ^ 16 * g + 2 ^ 32 * band)
def bd (b : State) (n st own valid : Nat) : State := dramWrLe b (aBand + 16 * n) 16 (st + 2 ^ 32 * valid + 2 ^ 64 * own)
def gb : State := let b := bd (bd (bd (grp .healthy (inM 3)) 0 0 noOwner 0) 1 0 noOwner 0) 2 0 noOwner 0; b
def pairOn (b : State) : State := { setF b PAIR_STAT_PSTATE 2 with boot := { b.boot with pairEn := true } }
def deg (b : State) : State := { b with ret := { b.ret with groups := [(0, some ⟨.degraded, 1, mem0, [3], false, 0, []⟩)], spares := [2304] } }
def flashA (b : State) : State := { b with md := { b.md with flash := [(1 * 2 ^ 15 + 5 * 8, List.replicate 4160 1)] } }
def full (b : State) : State := { b with ring := List.replicate 131072 (0, []) }
def reb (b : State) : State := setTh b 4098 { swT [] with st := .waiting, role := 4, why := .dma }
end MediaRequests
/-- Meets the hypotheses of each clause of Obligations.MediaRequests (part 1). -/
theorem witness_MediaRequests_1 :
    (∃ (s : State) (t : Nat) (r : Nat), (firstPending s = some t ∧ helmFree s = true ∧ bits (slotWord s t) 0 4 = r)) ∧
    (∃ (s : State), firstPending s = none) ∧
    (∃ (s : State) (t : Nat), firstPending s = some t ∧ helmFree s = false) ∧
    (∃ (s : State) (t : Nat), (firstPending s = some t ∧ helmFree s = true ∧ bits (slotWord s t) 0 4 = 1) ∧ group s (bits (slotWord s t) 16 16) = none) ∧
    (∃ (s : State) (t : Nat), (firstPending s = some t ∧ helmFree s = true ∧ bits (slotWord s t) 0 4 = 1) ∧ group s (bits (slotWord s t) 16 16) ≠ none ∧ openable s (bits (slotWord s t) 16 16) = []) ∧
    (∃ (s : State) (t : Nat) (b : Nat), (firstPending s = some t ∧ helmFree s = true ∧ bits (slotWord s t) 0 4 = 1) ∧ group s (bits (slotWord s t) 16 16) ≠ none ∧ argMin (fun (b : Nat) => bECount (bandEnt s b) * 2 ^ 20 + b) (openable s (bits (slotWord s t) 16 16)) = some b ∧ ringFull s = false) ∧
    (∃ (s : State) (t : Nat), (firstPending s = some t ∧ helmFree s = true ∧ bits (slotWord s t) 0 4 = 2) ∧ bandState s (bits (slotWord s t) 32 20) = 1 ∧ (bandExists s (bits (slotWord s t) 32 20) = true ∧ bOwner (bandEnt s (bits (slotWord s t) 32 20)) = t ∧ bWithdrawn (bandEnt s (bits (slotWord s t) 32 20)) = false) ∧ ringFull s = false) ∧
    (∃ (s : State) (t : Nat), (firstPending s = some t ∧ helmFree s = true ∧ bits (slotWord s t) 0 4 = 2) ∧ bandState s (bits (slotWord s t) 32 20) = 1 ∧ (bandExists s (bits (slotWord s t) 32 20) = true ∧ bOwner (bandEnt s (bits (slotWord s t) 32 20)) = t ∧ bWithdrawn (bandEnt s (bits (slotWord s t) 32 20)) = false) ∧ ringFull s = true) ∧
    (∃ (s : State) (t : Nat), (firstPending s = some t ∧ helmFree s = true ∧ bits (slotWord s t) 0 4 = 2) ∧ bandState s (bits (slotWord s t) 32 20) ≠ 1) ∧
    (∃ (s : State) (t : Nat), (firstPending s = some t ∧ helmFree s = true ∧ bits (slotWord s t) 0 4 = 3) ∧ bandExists s (bits (slotWord s t) 32 20) = false) ∧
    (∃ (s : State) (t : Nat), (firstPending s = some t ∧ helmFree s = true ∧ bits (slotWord s t) 0 4 = 3) ∧ bandExists s (bits (slotWord s t) 32 20) = true ∧ bWithdrawn (bandEnt s (bits (slotWord s t) 32 20)) = false ∧ bandState s (bits (slotWord s t) 32 20) = 2 ∧ ringFull s = false) ∧
    (∃ (s : State) (t : Nat), (firstPending s = some t ∧ helmFree s = true ∧ bits (slotWord s t) 0 4 = 4) ∧ bandState s (bits (slotWord s t) 32 20) = 3 ∧ (bandExists s (bits (slotWord s t) 32 20) = true ∧ bOwner (bandEnt s (bits (slotWord s t) 32 20)) = t ∧ bWithdrawn (bandEnt s (bits (slotWord s t) 32 20)) = false) ∧ ringFull s = false ∧ (th s t).role ≠ 4) ∧
    (∃ (s : State) (t : Nat), (firstPending s = some t ∧ helmFree s = true ∧ bits (slotWord s t) 0 4 = 4) ∧ bandState s (bits (slotWord s t) 32 20) = 3 ∧ (bandExists s (bits (slotWord s t) 32 20) = true ∧ bOwner (bandEnt s (bits (slotWord s t) 32 20)) = t ∧ bWithdrawn (bandEnt s (bits (slotWord s t) 32 20)) = false) ∧ ringFull s = false ∧ (th s t).role = 4 ∧ mirrors s = false) :=
  ⟨⟨MediaRequests.slotw MediaRequests.gb 1 5 0, 4098, 1, ⟨by decide +kernel, by decide +kernel, by decide +kernel⟩⟩,
    ⟨MediaRequests.pairOn MediaRequests.gb, by decide +kernel⟩,
    ⟨{ (MediaRequests.slotw MediaRequests.gb 1 0 0) with md := { (MediaRequests.gb.md) with await := some [] } }, 4098, by decide +kernel, by decide +kernel⟩,
    ⟨MediaRequests.slotw MediaRequests.gb 1 5 0, 4098, ⟨by decide +kernel, by decide +kernel, by decide +kernel⟩, (by decide +kernel)⟩,
    ⟨MediaRequests.slotw (MediaRequests.bd (MediaRequests.bd MediaRequests.gb 0 2 noOwner 0) 1 2 noOwner 0) 1 0 0, 4098, ⟨by decide +kernel, by decide +kernel, by decide +kernel⟩, (by decide +kernel), by decide +kernel⟩,
    ⟨MediaRequests.slotw MediaRequests.gb 1 0 0, 4098, 0, ⟨by decide +kernel, by decide +kernel, by decide +kernel⟩, (by decide +kernel), by decide +kernel, by decide +kernel⟩,
    ⟨MediaRequests.slotw (MediaRequests.bd MediaRequests.gb 1 1 4098 0) 2 0 1, 4098, ⟨by decide +kernel, by decide +kernel, by decide +kernel⟩, (by decide +kernel), ⟨by decide +kernel, by decide +kernel, by decide +kernel⟩, (by decide +kernel)⟩,
    ⟨MediaRequests.full (MediaRequests.slotw (MediaRequests.bd MediaRequests.gb 1 1 4098 0) 2 0 1), 4098, ⟨by decide +kernel, by decide +kernel, by decide +kernel⟩, (by decide +kernel), ⟨by decide +kernel, by decide +kernel, by decide +kernel⟩, (by decide +kernel)⟩,
    ⟨MediaRequests.slotw MediaRequests.gb 2 0 1, 4098, ⟨by decide +kernel, by decide +kernel, by decide +kernel⟩, (by decide +kernel)⟩,
    ⟨MediaRequests.slotw MediaRequests.gb 3 0 900, 4098, ⟨by decide +kernel, by decide +kernel, by decide +kernel⟩, (by decide +kernel)⟩,
    ⟨MediaRequests.slotw (MediaRequests.bd MediaRequests.gb 1 2 noOwner 5) 3 0 1, 4098, ⟨by decide +kernel, by decide +kernel, by decide +kernel⟩, (by decide +kernel), by decide +kernel, by decide +kernel, by decide +kernel⟩,
    ⟨MediaRequests.slotw (MediaRequests.bd MediaRequests.gb 1 3 4098 0) 4 0 1, 4098, ⟨by decide +kernel, by decide +kernel, by decide +kernel⟩, (by decide +kernel), ⟨by decide +kernel, by decide +kernel, by decide +kernel⟩, (by decide +kernel), by decide +kernel⟩,
    ⟨MediaRequests.reb (MediaRequests.slotw (MediaRequests.bd MediaRequests.gb 1 3 4098 0) 4 0 1), 4098, ⟨by decide +kernel, by decide +kernel, by decide +kernel⟩, (by decide +kernel), ⟨by decide +kernel, by decide +kernel, by decide +kernel⟩, (by decide +kernel), by decide +kernel, by decide +kernel⟩⟩
/-- Meets the hypotheses of each clause of Obligations.MediaRequests (part 2). -/
theorem witness_MediaRequests_2 :
    (∃ (s : State) (t : Nat), (firstPending s = some t ∧ helmFree s = true ∧ bits (slotWord s t) 0 4 = 4) ∧ bandState s (bits (slotWord s t) 32 20) = 3 ∧ (bandExists s (bits (slotWord s t) 32 20) = true ∧ bOwner (bandEnt s (bits (slotWord s t) 32 20)) = t ∧ bWithdrawn (bandEnt s (bits (slotWord s t) 32 20)) = false) ∧ ringFull s = false ∧ (th s t).role = 4 ∧ mirrors s = true) ∧
    (∃ (s : State) (t : Nat), (firstPending s = some t ∧ helmFree s = true ∧ bits (slotWord s t) 0 4 = 4) ∧ bandState s (bits (slotWord s t) 32 20) ≠ 3) ∧
    (∃ (s : State) (t : Nat), (firstPending s = some t ∧ helmFree s = true ∧ bits (slotWord s t) 0 4 = 5) ∧ bandState s (bits (slotWord s t) 32 20) = 3 ∧ (bandExists s (bits (slotWord s t) 32 20) = true ∧ bOwner (bandEnt s (bits (slotWord s t) 32 20)) = t ∧ bWithdrawn (bandEnt s (bits (slotWord s t) 32 20)) = false) ∧ bandValid s (bits (slotWord s t) 32 20) = 0 ∧ bandHeld s (bits (slotWord s t) 32 20) = false ∧ getF s HELM_MEDSTAT_RECOUNT = 0 ∧ ringFull s = false) ∧
    (∃ (s : State) (t : Nat), (firstPending s = some t ∧ helmFree s = true ∧ bits (slotWord s t) 0 4 = 5) ∧ bandState s (bits (slotWord s t) 32 20) = 3 ∧ (bandExists s (bits (slotWord s t) 32 20) = true ∧ bOwner (bandEnt s (bits (slotWord s t) 32 20)) = t ∧ bWithdrawn (bandEnt s (bits (slotWord s t) 32 20)) = false) ∧ bandValid s (bits (slotWord s t) 32 20) ≠ 0) ∧
    (∃ (s : State) (t : Nat), (firstPending s = some t ∧ helmFree s = true ∧ bits (slotWord s t) 0 4 = 6) ∧ getF s HELM_PATROL_PPS = 0) ∧
    (∃ (s : State) (t : Nat) (p : Nat), (firstPending s = some t ∧ helmFree s = true ∧ bits (slotWord s t) 0 4 = 6) ∧ getF s HELM_PATROL_PPS ≠ 0 ∧ argMin id (List.filter (fun (p : Nat) => decide (s.md.patrolBand * 2 ^ 12 + s.md.patrolPage ≤ p)) (patrolPages s)) = some p) ∧
    (∃ (s : State) (t : Nat), bits (slotWord s t) 0 4 = 1) ∧
    (∃ (s : State) (u : State), List.findSome? (assignSpare s) (List.filter (fun (g : Nat) => match group s g with | some x => decide (x.st = GSt.degraded) | none => false) (groupNums s)) = some u) ∧
    (∃ (s : State), (∀ (g : Nat) (x : Sys2Proof.Group), group s g = some x → x.st ≠ GSt.degraded)) ∧
    (∃ (s : State) (el : Elapse), scrubMode (elapse s el) = true ∧ s.d.scrubMs < (elapse s el).clk.now / 1000000) ∧
    (∃ (s : State) (el : Elapse), (elapse s el).clk.now / 1000000 ≤ s.d.scrubMs) ∧
    (∃ (s : State) (q : Nat) (el : Elapse), q < 4 ∧ mget 0 s.d.sramAt q + 10000000000 ≤ (elapse s el).clk.refNs) :=
  ⟨⟨MediaRequests.reb (MediaRequests.pairOn (MediaRequests.slotw (MediaRequests.bd MediaRequests.gb 1 3 4098 0) 4 0 1)), 4098, ⟨by decide +kernel, by decide +kernel, by decide +kernel⟩, (by decide +kernel), ⟨by decide +kernel, by decide +kernel, by decide +kernel⟩, (by decide +kernel), by decide +kernel, by decide +kernel⟩,
    ⟨MediaRequests.slotw MediaRequests.gb 4 0 1, 4098, ⟨by decide +kernel, by decide +kernel, by decide +kernel⟩, (by decide +kernel)⟩,
    ⟨MediaRequests.slotw (MediaRequests.bd MediaRequests.gb 1 3 4098 0) 5 0 1, 4098, ⟨by decide +kernel, by decide +kernel, by decide +kernel⟩, (by decide +kernel), ⟨by decide +kernel, by decide +kernel, by decide +kernel⟩, (by decide +kernel), by decide +kernel, by decide +kernel, by decide +kernel⟩,
    ⟨MediaRequests.slotw (MediaRequests.bd MediaRequests.gb 1 3 4098 7) 5 0 1, 4098, ⟨by decide +kernel, by decide +kernel, by decide +kernel⟩, (by decide +kernel), ⟨by decide +kernel, by decide +kernel, by decide +kernel⟩, (by decide +kernel)⟩,
    ⟨MediaRequests.slotw (setF MediaRequests.gb HELM_PATROL_PPS 0) 6 0 0, 4098, ⟨by decide +kernel, by decide +kernel, by decide +kernel⟩, (by decide +kernel)⟩,
    ⟨MediaRequests.slotw (MediaRequests.flashA (setF (MediaRequests.bd MediaRequests.gb 1 2 noOwner 0) HELM_PATROL_PPS 10)) 6 0 0, 4098, _, ⟨by decide +kernel, by decide +kernel, by decide +kernel⟩, (by decide +kernel), some_wit (by decide +kernel)⟩,
    ⟨MediaRequests.slotw MediaRequests.gb 1 5 0, 4098, by decide +kernel⟩,
    ⟨MediaRequests.deg MediaRequests.gb, _, some_wit (by decide +kernel)⟩,
    ⟨MediaRequests.slotw MediaRequests.gb 1 5 0, not_degraded (by decide +kernel)⟩,
    ⟨MediaRequests.slotw MediaRequests.gb 1 5 0, { ns := 10000000000, corr := 0 }, by decide +kernel, by decide +kernel⟩,
    ⟨MediaRequests.slotw MediaRequests.gb 1 5 0, { ns := 0, corr := 0 }, by decide +kernel⟩,
    ⟨MediaRequests.slotw MediaRequests.gb 1 5 0, 1, { ns := 10000000000, corr := 0 }, by decide +kernel, by decide +kernel⟩⟩

/-! ### PairMessages -/
namespace PairMessages
def n : List Nat := [0, 1, 4]
def rr (js : Nat) : JRec := { recE js [ent0] with committed := false }
def b : List Bool := [false]
def pr (b : State) (n : Nat) : State := { setF (setF b PAIR_STAT_PSTATE n) PAIR_CFG_STEST 1 with boot := { b.boot with pairEn := true } }
def rd0 : Round := ⟨6, 1, 4, [], 0, 5, [(300, 7)], [], []⟩
def cas (b : State) (p : Nat) : State := setF { b with boot := { b.boot with casEn := true, cas := p } } CAS_CFG_NPOS 1
end PairMessages
/-- Meets the hypotheses of each clause of Obligations.PairMessages (part 1). -/
theorem witness_PairMessages_1 :
    (∃ (s : State) (el : Elapse), inPair s = true ∧ s.x.pair.hbTx + 50000 ≤ (elapse s el).clk.refNs) ∧
    (∃ (s : State) (el : Elapse), (elapse s el).clk.refNs < s.x.pair.hbTx + 50000) ∧
    (∃ (s : State), inPair s = true) ∧
    (∃ (s : State) (r : JRec), mirrorHere s = true ∧ r.jseq ≠ 0) ∧
    (∃ (s : State) (r : JRec), mirrorHere s = true ∧ r.jseq = 0) ∧
    (∃ (s : State), mirrorHere s = true) ∧
    (∃ (s : State) (x : Round) (o : Round), mirrorHere s = true ∧ s.ck.newest = some o ∧ x.num ≠ o.num) ∧
    (∃ (s : State), mirrorHere s = true) ∧
    (∃ (s : State), mirrorHere s = true) ∧
    (∃ (s : State), mirrorHere s = true) ∧
    (∃ (s : State), mirrorHere s = true ∧ subordinate s = false) ∧
    (∃ (s : State), subordinate s = true) ∧
    (∃ (s : State), mirrorHere s = true ∧ subordinate s = false) ∧
    (∃ (s : State), mirrorHere s = true ∧ subordinate s = false) ∧
    (∃ (s : State) (i : Nat), mirrorHere s = true ∧ i < 60) ∧
    (∃ (s : State), mirrorHere s = false) ∧
    (∃ (s : State) (o : List Byte), mode s = mStandby ∧ s.boot.pairEn = true ∧ s.boot.image = true ∧ subordinate s = false ∧ keyBusy s (oLe o 6 1) (oLe o 8 2) = false) :=
  ⟨⟨PairMessages.pr (inM 2) 1, { ns := 600000000000, corr := 0 }, by decide +kernel, by decide +kernel⟩,
    ⟨PairMessages.cas (inM 3) 1, { ns := 0, corr := 0 }, by decide +kernel⟩,
    ⟨PairMessages.pr (inM 2) 1, by decide +kernel⟩,
    ⟨PairMessages.pr (inM 2) 1, PairMessages.rr 5, by decide +kernel, by decide +kernel⟩,
    ⟨PairMessages.pr (inM 2) 1, PairMessages.rr 0, by decide +kernel, by decide +kernel⟩,
    ⟨PairMessages.pr (inM 2) 1, by decide +kernel⟩,
    ⟨{ (PairMessages.pr (inM 2) 2) with ck := { newest := some PairMessages.rd0, previous := none, jend := 2 }, ring := [(1, [2])], x := { ((PairMessages.pr (inM 2) 2).x) with pair := { (Pair.reset) with mirror := [PairMessages.rr 3, PairMessages.rr 9] } } }, { num := 7, jstart := 1, jdone := 4, dirs := [], jseg := 0, stampNow := 5, image := [(200, 7)], sif := [], dir := [] }, _, by decide +kernel, some_wit (by decide +kernel), by decide +kernel⟩,
    ⟨PairMessages.pr (inM 2) 1, by decide +kernel⟩,
    ⟨PairMessages.pr (inM 2) 1, by decide +kernel⟩,
    ⟨PairMessages.pr (inM 2) 1, by decide +kernel⟩,
    ⟨PairMessages.pr (inM 2) 1, by decide +kernel, by decide +kernel⟩,
    ⟨PairMessages.cas (inM 3) 1, by decide +kernel⟩,
    ⟨PairMessages.pr (inM 2) 1, by decide +kernel, by decide +kernel⟩,
    ⟨PairMessages.pr (inM 2) 1, by decide +kernel, by decide +kernel⟩,
    ⟨PairMessages.pr (inM 2) 1, 2, by decide +kernel, by decide +kernel⟩,
    ⟨PairMessages.cas (inM 3) 1, by decide +kernel⟩,
    ⟨PairMessages.pr (inM 2) 1, [1, 2, 3], by decide +kernel, by decide +kernel, by decide +kernel, (by decide +kernel), by decide +kernel⟩⟩
/-- Meets the hypotheses of each clause of Obligations.PairMessages (part 2). -/
theorem witness_PairMessages_2 :
    (∃ (s : State), inPair s = true) ∧
    (∃ (s : State) (d : List (Nat × List Byte)), s.md.await = some d) ∧
    (∃ (s : State) (m : Nat), inPair s = true ∧ m < 48) ∧
    (∃ (s : State) (m : Nat), inPair s = true ∧ m < 64) ∧
    (∃ (s : State), inPair s = true ∧ flag s DRM_STAT_TRAINED = true) ∧
    (∃ (s : State) (n : Nat) (x : List Byte), s.x.pair.step = 5 ∧ n ∈ s.x.pair.salv) ∧
    (∃ (s : State) (n : Nat) (x : List Byte), s.x.pair.step = 5 ∧ n ∈ s.x.pair.salv) ∧
    (∃ (s : State) (el : Elapse) (noAck : Bool), inPair s = true ∧ 2 ≤ getF s PAIR_STAT_PSTATE ∧ (s.x.pair.hbRx + absentAfter s ≤ (elapse s el).clk.refNs ∨ noAck = true ∧ absentAfter s ≤ el.ns)) ∧
    (∃ (s : State), inPair s = true) ∧
    (∃ (s : State), s.boot.image = true ∧ mode s ≠ mOff) ∧
    (∃ (s : State) (l : List Nat), inPair s = true ∧ l ≠ ownLode s) ∧
    (∃ (s : State) (l : List Nat), inPair s = true ∧ l = ownLode s) ∧
    (∃ (s : State) (i : Nat), getF s CAS_STAT_MASTER = 1 ∧ i < 8 ∧ i ≠ 2 * s.boot.cas + b2n (mode s == mStandby)) ∧
    (∃ (s : State), inPair s = true ∧ getF s PAIR_STAT_PSTATE = 2 ∧ mode s ≠ mQuench ∧ (isActive s = true ∨ mode s = mStandby)) ∧
    (∃ (s : State) (el : Elapse) (n : Nat), mirrorHere s = true ∧ stestOff s = false ∧ s.x.pair.testAt + 600000000000 ≤ (elapse s el).clk.refNs ∧ n < 16) ∧
    (∃ (s : State) (el : Elapse), inPair s = true ∧ isActive s = true ∧ 30 * 86400000000000 < (elapse s el).clk.now - getF s PAIR_LASTACT_NOW ∧ s.x.pair.odDay ≠ (elapse s el).clk.now / 86400000000000 + 1) :=
  ⟨⟨PairMessages.pr (inM 2) 1, by decide +kernel⟩,
    ⟨{ (PairMessages.pr (inM 3) 3) with md := { ((inM 3).md) with await := some [(aBand, [1])] } }, _, some_wit (by decide +kernel)⟩,
    ⟨PairMessages.pr (inM 2) 1, 3, by decide +kernel, by decide +kernel⟩,
    ⟨PairMessages.pr (inM 2) 1, 3, by decide +kernel, by decide +kernel⟩,
    ⟨setF ({ (PairMessages.pr (inM 2) 3) with x := { ((inM 2).x) with pair := { (Pair.reset) with step := 5, salv := [1, 4] } } }) DRM_STAT_TRAINED 1, by decide +kernel, by decide +kernel⟩,
    ⟨setF ({ (PairMessages.pr (inM 2) 3) with x := { ((inM 2).x) with pair := { (Pair.reset) with step := 5, salv := [1, 4] } } }) DRM_STAT_TRAINED 1, 1, [], by decide +kernel, by decide +kernel⟩,
    ⟨setF ({ (PairMessages.pr (inM 2) 3) with x := { ((inM 2).x) with pair := { (Pair.reset) with step := 5, salv := [1, 4] } } }) DRM_STAT_TRAINED 1, 1, [], by decide +kernel, by decide +kernel⟩,
    ⟨{ (PairMessages.pr (inM 2) 2) with ck := { newest := some PairMessages.rd0, previous := none, jend := 2 }, ring := [(1, [2])], x := { ((PairMessages.pr (inM 2) 2).x) with pair := { (Pair.reset) with mirror := [PairMessages.rr 3, PairMessages.rr 9] } } }, { ns := 600000000000, corr := 0 }, true, by decide +kernel, by decide +kernel, by decide +kernel⟩,
    ⟨PairMessages.pr (inM 2) 1, by decide +kernel⟩,
    ⟨PairMessages.cas (inM 3) 1, by decide +kernel, by decide +kernel⟩,
    ⟨PairMessages.pr (inM 2) 1, [], by decide +kernel, by decide +kernel⟩,
    ⟨PairMessages.pr (inM 2) 1, List.replicate 6 0, by decide +kernel, by decide +kernel⟩,
    ⟨setF (PairMessages.cas (inM 3) 0) CAS_STAT_MASTER 1, 2, by decide +kernel, by decide +kernel, by decide +kernel⟩,
    ⟨{ (PairMessages.pr (inM 2) 2) with ck := { newest := some PairMessages.rd0, previous := none, jend := 2 }, ring := [(1, [2])], x := { ((PairMessages.pr (inM 2) 2).x) with pair := { (Pair.reset) with mirror := [PairMessages.rr 3, PairMessages.rr 9] } } }, by decide +kernel, by decide +kernel, by decide +kernel, (by decide +kernel)⟩,
    ⟨PairMessages.pr (inM 2) 1, { ns := 600000000000, corr := 0 }, 0, by decide +kernel, by decide +kernel, by decide +kernel, (by decide +kernel)⟩,
    ⟨tm (31 * 86400000000000) (PairMessages.pr (inM 3) 2), { ns := 0, corr := 0 }, by decide +kernel, by decide +kernel, by decide +kernel, (by decide +kernel)⟩⟩

/-! ### OwnershipAndSwap -/
namespace OwnershipAndSwap
def pr (b : State) : State := { setF (setF b PAIR_STAT_PSTATE 3) PAIR_CFG_STEST 0 with boot := { b.boot with pairEn := true } }
def ps (b : State) (f : Pair → Pair) : State := { b with x := { b.x with pair := f b.x.pair } }
def ow (b : State) : State := setF b PAIR_STAT_OWN 1
def ch (n : Nat) (b : State) : State := { b with x := { b.x with change := some ⟨6, 9998, n⟩ } }
def wbu (b0 : State) : State := let b := setF b0 BUF_WB_CUR 1; { b with buf := { b.buf with bufs := (List.range 2).map fun i => (mkHandle 2 true i, some ⟨2, true, i, [], 0x1FFF, true⟩), split := [0] } }
end OwnershipAndSwap
/-- Meets the hypotheses of each clause of Obligations.OwnershipAndSwap (part 1). -/
theorem witness_OwnershipAndSwap_1 :
    (∃ (s : State) (el : Elapse), getF s PAIR_STAT_OWN = 1 ∧ ms (getF s PAIR_CFG_LEASE_MS) ≤ el.ns) ∧
    (∃ (s : State) (el : Elapse), el.ns < ms (getF s PAIR_CFG_LEASE_MS)) ∧
    (∃ (s : State), s.boot.image = true ∧ mode s = mRun ∧ getF s PAIR_STAT_OWN = 1 ∧ driving s = true ∧ s.x.pair.acq = none ∧ getF s HELM_SAFE_CAUSE_CAUSE = 0) ∧
    (∃ (s : State), freeStandby s = true ∧ (eligible s = true ∨ s.x.pair.force = true)) ∧
    (∃ (s : State), freeStandby s = true ∧ eligible s = false ∧ s.x.pair.force = false) ∧
    (∃ (s : State), s.x.pair.step = 4 ∧ getF s PAIR_STAT_OWN = 1) ∧
    (∃ (s : State), freeStandby s = true ∧ eligible s = false ∧ s.x.pair.force = false) ∧
    (∃ (s : State) (el : Elapse), (elapse s el).x.pair.step = 5 ∧ mode s = mStandby ∧ ((elapse s el).x.pair.salv = [] ∨ (elapse s el).x.pair.salvAt + 700000000 ≤ (elapse s el).clk.refNs)) ∧
    (∃ (s : State), mode s ≠ mStandby) ∧
    (∃ (s : State) (el : Elapse), (elapse s el).x.pair.step = 5 ∧ (elapse s el).x.pair.salv ≠ [] ∧ (elapse s el).clk.refNs < (elapse s el).x.pair.salvAt + 700000000) ∧
    (∃ (s : State) (seg : Nat), seg ∈ s.map.toLoad) :=
  ⟨⟨OwnershipAndSwap.ow (inM 3), { ns := 1000000000, corr := 0 }, by decide +kernel, by decide +kernel⟩,
    ⟨OwnershipAndSwap.ow (inM 3), { ns := 0, corr := 0 }, by decide +kernel⟩,
    ⟨setF (OwnershipAndSwap.ow (inM 3)) (CH_STAT_DRV 3) 1, by decide +kernel, by decide +kernel, by decide +kernel, (by decide +kernel), by decide +kernel, by decide +kernel⟩,
    ⟨OwnershipAndSwap.pr (inM 2), by decide +kernel, by decide +kernel⟩,
    ⟨setF (OwnershipAndSwap.pr (inM 2)) PAIR_STAT_PSTATE 1, by decide +kernel, by decide +kernel, by decide +kernel⟩,
    ⟨OwnershipAndSwap.ow (OwnershipAndSwap.ps (OwnershipAndSwap.pr (inM 2)) fun (p : Pair) => { p with step := 4 }), by decide +kernel, by decide +kernel⟩,
    ⟨setF (OwnershipAndSwap.pr (inM 2)) PAIR_STAT_PSTATE 1, by decide +kernel, by decide +kernel, by decide +kernel⟩,
    ⟨OwnershipAndSwap.ps (OwnershipAndSwap.pr (inM 2)) fun (p : Pair) => { p with step := 5 }, { ns := 0, corr := 0 }, by decide +kernel, by decide +kernel, by decide +kernel⟩,
    ⟨OwnershipAndSwap.ow (inM 3), by decide +kernel⟩,
    ⟨OwnershipAndSwap.ps (OwnershipAndSwap.pr (inM 2)) fun (p : Pair) => { p with step := 5, salv := [3] }, { ns := 0, corr := 0 }, by decide +kernel, by decide +kernel, by decide +kernel⟩,
    ⟨{ (OwnershipAndSwap.pr (inM 3)) with map := { (MapCtl.reset) with toLoad := [5] } }, 5, by decide +kernel⟩⟩
/-- Meets the hypotheses of each clause of Obligations.OwnershipAndSwap (part 2). -/
theorem witness_OwnershipAndSwap_2 :
    (∃ (s : State) (seg : Nat), seg ∉ s.map.toLoad) ∧
    (∃ (s : State) (el : Elapse), inPair s = true ∧ isActive s = true ∧ getF s PAIR_SWAPAT_AT ≠ 0 ∧ getF s PAIR_SWAPAT_AT ≤ (elapse s el).clk.now) ∧
    (∃ (s : State), eligible s = false) ∧
    (∃ (s : State), eligible s = true ∧ mode s = mRun ∧ s.x.change = none ∧ s.x.safing = none) ∧
    (∃ (s : State), swapAt s 1 = true ∧ wbUsed s ≤ getF s PAIR_CFG_SWWB_MIB) ∧
    (∃ (s : State), swapAt s 1 = true ∧ getF s PAIR_CFG_SWWB_MIB < wbUsed s) ∧
    (∃ (s : State) (el : Elapse), swapAt (elapse s el) 2 = true ∧ (elapse s el).x.pair.stepAt + ms (getF s PAIR_CFG_SWDRAIN_MS) ≤ (elapse s el).clk.refNs) ∧
    (∃ (s : State) (k : Change), s.x.change = some k ∧ k.kind = 6 ∧ k.step = 2 ∧ swapFlushed s = true) ∧
    (∃ (s : State), mirrorHere s = true ∧ s.x.pair.step = 0) ∧
    (∃ (s : State), mirrorHere s = true ∧ s.x.pair.step = 0 ∧ getF s PAIR_STAT_SWAPPING = 1) ∧
    (∃ (s : State), s.x.pair.step = 8 ∧ getF s PAIR_STAT_OWN = 1) :=
  ⟨⟨OwnershipAndSwap.ow (inM 3), 5, by decide +kernel⟩,
    ⟨setF (tm 10 (OwnershipAndSwap.pr (inM 3))) PAIR_SWAPAT_AT 5, { ns := 0, corr := 0 }, by decide +kernel, by decide +kernel, by decide +kernel, (by decide +kernel)⟩,
    ⟨OwnershipAndSwap.ow (inM 3), by decide +kernel⟩,
    ⟨{ (OwnershipAndSwap.pr (inM 3)) with map := { (MapCtl.reset) with toLoad := [5] } }, by decide +kernel, by decide +kernel, by decide +kernel, (by decide +kernel)⟩,
    ⟨OwnershipAndSwap.ch 1 (OwnershipAndSwap.pr (inM 3)), by decide +kernel, by decide +kernel⟩,
    ⟨OwnershipAndSwap.ch 1 (setF (OwnershipAndSwap.wbu (OwnershipAndSwap.pr (inM 3))) PAIR_CFG_SWWB_MIB 0), by decide +kernel, by decide +kernel⟩,
    ⟨OwnershipAndSwap.ch 2 (OwnershipAndSwap.pr (inM 3)), { ns := 1000000000, corr := 0 }, by decide +kernel, by decide +kernel⟩,
    ⟨OwnershipAndSwap.ch 2 (OwnershipAndSwap.pr (inM 3)), _, some_wit (by decide +kernel), by decide +kernel, by decide +kernel, by decide +kernel⟩,
    ⟨OwnershipAndSwap.pr (inM 2), by decide +kernel, by decide +kernel⟩,
    ⟨setF (OwnershipAndSwap.pr (inM 2)) PAIR_STAT_SWAPPING 1, by decide +kernel, by decide +kernel, by decide +kernel⟩,
    ⟨OwnershipAndSwap.ow (OwnershipAndSwap.ps (OwnershipAndSwap.pr (inM 2)) fun (p : Pair) => { p with step := 8 }), by decide +kernel, by decide +kernel⟩⟩

/-! ### Cascade -/
namespace Cascade
def rr (js : Nat) : JRec := { recE js [ent0] with committed := false }
def cas (b : State) (p np : Nat) : State := setF { b with boot := { b.boot with casEn := true, cas := p } } CAS_CFG_NPOS np
def mst (b : State) : State := setF (cas b 0 1) CAS_STAT_MASTER 1
def sub (b : State) : State := cas b 1 1
def cs (b : State) (f : Cas → Cas) : State := { b with x := { b.x with cas := f b.x.cas } }
end Cascade
/-- Meets the hypotheses of each clause of Obligations.Cascade. -/
theorem witness_Cascade :
    (∃ (s : State) (c : Nat), subordinate s = true ∧ isHost c = true ∧ (th s c).st = TSt.idle) ∧
    (∃ (s : State), subordinate s = false) ∧
    (∃ (s : State) (c : Nat) (pos : Nat) (e : Ending) (w : Nat), pos = s.boot.cas ∧ isHost c = true ∧ mget none s.x.cas.here c = some w ∧ (th s c).ending = some e ∧ (th s c).st = TSt.done ∧ mustWait s c = false ∧ flag s CAS_STAT_MASTER = false ∧ (s.keep.held.any fun (h : Nat × Nat × JRec) => decide (h.1 = c)) = false) ∧
    (∃ (s : State) (c : Nat) (off : Nat) (pos : Nat), pos ≠ s.boot.cas ∧ getF s CAS_STAT_MASTER = 1 ∧ (∃ x ∈ partsOf s c, x.pos = pos ∧ x.off = off ∧ x.sent = true ∧ x.done = none)) ∧
    (∃ (s : State) (c : Nat) (u : Nat) (pos : Nat), getF s CAS_STAT_MASTER = 1 ∧ pos < 4 ∧ u < 64 ∧ List.find? (fun (x : Nat × Nat) => decide (x.1 = c) && decide (x.2 % 64 = u)) s.keep.intents ≠ none) ∧
    (∃ (s : State) (c : Nat) (u : Nat) (pos : Nat), getF s CAS_STAT_MASTER = 1 ∧ pos < 4 ∧ u < 64 ∧ List.find? (fun (x : Nat × Nat) => decide (x.1 = c) && decide (x.2 % 64 = u)) s.keep.intents = none ∧ unitParts (hearFrom s pos) c u = [] ∧ partsOf (hearFrom s pos) c = []) ∧
    (∃ (s : State) (c : Nat) (u : Nat) (pos : Nat) (x : CPart) (y : CPart), getF s CAS_STAT_MASTER = 1 ∧ pos < 4 ∧ u < 64 ∧ List.find? (fun (x : Nat × Nat) => decide (x.1 = c) && decide (x.2 % 64 = u)) s.keep.intents = none ∧ partsOf s c = [x, y] ∧ unitParts s c u = [x, y] ∧ x.pos = pos ∧ y.pos ≠ pos ∧ u ∈ y.ready) ∧
    (∃ (s : State) (c : Nat) (u : Nat) (pos : Nat), getF s CAS_STAT_MASTER = 1 ∧ pos < 4 ∧ u < 64 ∧ s.keep.intents = [(c, u + 64 * 2 ^ pos)]) ∧
    (∃ (s : State) (c : Nat) (u : Nat) (r : JRec) (x : JRec) (b : Bool) (w : State), heldRec s c u = some r ∧ isActive s = true ∧ heldRoom s c u r = true ∧ flag s CAS_STAT_MASTER = false ∧ placeRec (unheld s c u) r (2 ^ 65 + 64 * c + u) = (x, b, w)) ∧
    (∃ (s : State) (c : Nat) (u : Nat), heldRec s c u = none) ∧
    (∃ (s : State) (c : Nat), partHere s c = true ∧ (cx s c).commit = false) ∧
    (∃ (s : State) (c : Nat) (u : Nat) (r : JRec), heldRec s c u = some r ∧ List.find? (fun (x : Nat × Nat) => decide (x.1 = c) && decide (x.2 % 64 = u)) s.keep.intents = none ∧ (inFlight s c = false ∨ partHere s c = false)) ∧
    (∃ (s : State) (c : Nat) (u : Nat) (r : JRec), heldRec s c u = some r ∧ List.find? (fun (x : Nat × Nat) => decide (x.1 = c) && decide (x.2 % 64 = u)) s.keep.intents = none ∧ inFlight s c = true ∧ partHere s c = true) ∧
    (∃ (s : State) (pos : Nat) (el : Elapse), getF s CAS_STAT_MASTER = 1 ∧ pos < 4 ∧ pos ≠ s.boot.cas ∧ ms (getF s CAS_CFG_TMO_MS) ≤ el.ns ∧ s.x.cas.parts = []) ∧
    (∃ (s : State) (pos : Nat), getF s CAS_STAT_MASTER = 1 ∧ pos < 4 ∧ pos ≠ s.boot.cas ∧ s.x.cas.parts = []) ∧
    (∃ (s : State) (c : Nat) (pos : Nat) (el : Elapse) (x : CPart) (taken : Bool), getF s CAS_STAT_MASTER = 1 ∧ pos < 4 ∧ pos ≠ s.boot.cas ∧ (taken = true ∨ ms (getF s CAS_CFG_TMO_MS) ≤ el.ns) ∧ s.x.cas.parts = [(c, [x])] ∧ x.pos = pos ∧ x.done = none ∧ x.ready = [] ∧ (cx s c).abPend = false ∧ (th s c).cut = none) ∧
    (∃ (s : State) (el : Elapse), (elapse s el).x.cas.wait ≠ []) ∧
    (∃ (s : State) (el : Elapse) (silent : List Nat), silent ≠ [] ∧ (elapse s el).clk.refNs < (elapse s el).x.cas.waitAt + 100000000) ∧
    (∃ (s : State) (n : Nat), s.boot.casEn = true ∧ s.boot.image = true ∧ n < 2) ∧
    (∃ (s : State) (n : Nat) (lcaps : List Nat), s.boot.casEn = true ∧ s.boot.image = true ∧ n < 2 ∧ lcaps.length = casN s) :=
  ⟨⟨Cascade.sub (inM 3), 1, by decide +kernel, by decide +kernel, by decide +kernel⟩,
    ⟨inM 3, by decide +kernel⟩,
    ⟨setTh (Cascade.cs (Cascade.sub (inM 3)) fun (k : Cas) => { k with here := [(1, some (0 + 65536 * 256))] }) 1 ({ (hostT []) with st := TSt.done, ending := some { cls := 0, detail := 0, offset := none, result := 5 } }), 1, 1, _, _, by decide +kernel, by decide +kernel, some_wit (by decide +kernel), some_wit (by decide +kernel), by decide +kernel, by decide +kernel, by decide +kernel, (by decide +kernel)⟩,
    ⟨Cascade.cs (Cascade.mst (inM 3)) fun (k : Cas) => { k with parts := [(1, [{ pos := 1, off := 0, nblk := 4, block := 0, sent := true, ready := [], done := none }])] }, 1, 0, 1, by decide +kernel, by decide +kernel, by decide +kernel⟩,
    ⟨{ (Cascade.mst (inM 3)) with keep := { (Keep.blank) with intents := [(1, 0)] } }, 1, 0, 0, by decide +kernel, by decide +kernel, by decide +kernel, (by decide +kernel)⟩,
    ⟨Cascade.mst (inM 3), 1, 0, 0, by decide +kernel, by decide +kernel, by decide +kernel, (by decide +kernel), by decide +kernel, by decide +kernel⟩,
    ⟨Cascade.cs (Cascade.mst (inM 3)) fun (k : Cas) => { k with parts := [(1, [{ pos := 0, off := 0, nblk := 4, block := 0, sent := true, ready := [], done := none }, { pos := 1, off := 4, nblk := 4, block := 0, sent := true, ready := [0], done := none }])] }, 1, 0, 0, { pos := 0, off := 0, nblk := 4, block := 0, sent := true, ready := [], done := none }, { pos := 1, off := 4, nblk := 4, block := 0, sent := true, ready := [0], done := none }, by decide +kernel, by decide +kernel, by decide +kernel, (by decide +kernel), by decide +kernel, by decide +kernel, by decide +kernel, (by decide +kernel), by decide +kernel⟩,
    ⟨{ (Cascade.mst (inM 3)) with keep := { (Keep.blank) with intents := [(1, 64)] } }, 1, 0, 0, by decide +kernel, by decide +kernel, by decide +kernel, (by decide +kernel)⟩,
    ⟨{ (setTh (Cascade.cs (Cascade.sub (inM 3)) fun (k : Cas) => { k with here := [(1, some (0 + 65536 * 256))] }) 1 ({ (hostT []) with st := TSt.running })) with keep := { (Keep.blank) with held := [(1, 0, Cascade.rr 0)] } }, 1, 0, Cascade.rr 0, _, _, _, by decide +kernel, by decide +kernel, by decide +kernel, (by decide +kernel), triple_wit _⟩,
    ⟨Cascade.sub (inM 3), 1, 0, by decide +kernel⟩,
    ⟨setTh (Cascade.cs (Cascade.sub (inM 3)) fun (k : Cas) => { k with here := [(1, some (0 + 65536 * 256))] }) 1 ({ (hostT []) with st := TSt.done, ending := some { cls := 0, detail := 0, offset := none, result := 5 } }), 1, by decide +kernel, by decide +kernel⟩,
    ⟨{ (Cascade.sub (inM 3)) with keep := { (Keep.blank) with held := [(1, 0, Cascade.rr 0)] } }, 1, 0, Cascade.rr 0, by decide +kernel, by decide +kernel, by decide +kernel⟩,
    ⟨{ (setTh (Cascade.cs (Cascade.sub (inM 3)) fun (k : Cas) => { k with here := [(1, some (0 + 65536 * 256))] }) 1 ({ (hostT []) with st := TSt.running })) with keep := { (Keep.blank) with held := [(1, 0, Cascade.rr 0)] } }, 1, 0, Cascade.rr 0, by decide +kernel, by decide +kernel, by decide +kernel, (by decide +kernel)⟩,
    ⟨{ (Cascade.mst (inM 3)) with keep := { (Keep.blank) with intents := [(1, 0)] } }, 1, { ns := 100000000, corr := 0 }, by decide +kernel, by decide +kernel, by decide +kernel, (by decide +kernel), by decide +kernel⟩,
    ⟨{ (Cascade.mst (inM 3)) with keep := { (Keep.blank) with intents := [(1, 0)] } }, 1, by decide +kernel, by decide +kernel, by decide +kernel, (by decide +kernel)⟩,
    ⟨Cascade.cs (Cascade.mst (inM 3)) fun (k : Cas) => { k with parts := [(1, [{ pos := 1, off := 0, nblk := 4, block := 0, sent := true, ready := [], done := none }])] }, 1, 1, { ns := 0, corr := 0 }, { pos := 1, off := 0, nblk := 4, block := 0, sent := true, ready := [], done := none }, true, by decide +kernel, by decide +kernel, by decide +kernel, (by decide +kernel), by decide +kernel, by decide +kernel, by decide +kernel, (by decide +kernel), by decide +kernel, by decide +kernel⟩,
    ⟨Cascade.cs (Cascade.mst (inM 3)) fun (k : Cas) => { k with wait := [1], waitAt := 0 }, { ns := 0, corr := 0 }, by decide +kernel⟩,
    ⟨Cascade.sub (inM 3), { ns := 0, corr := 0 }, [1], by decide +kernel, by decide +kernel⟩,
    ⟨Cascade.sub (inM 3), 0, by decide +kernel, by decide +kernel, by decide +kernel⟩,
    ⟨Cascade.sub (inM 3), 0, [5, 7], by decide +kernel, by decide +kernel, by decide +kernel, (by decide +kernel)⟩⟩

/-! ### Images -/
namespace Images
def n : List Nat := [3, 4, 24]
def v : List Nat := [5]
def ver : List Nat := [7]
def buf : List (List Byte) := [[]]
def im (b : State) (f : Img → Img) : State := { b with x := { b.x with img := f b.x.img } }
def q (n op cnt addr buf : Nat) (run : Bool) : QDesc := ⟨n, op, cnt, addr, buf, false, run, 0⟩
def itk : Intake := ⟨2, [], 0, 5, 0, 0, 0, false, false⟩
def pr (b : State) (n : Nat) : State := { setF b PAIR_STAT_PSTATE n with boot := { b.boot with pairEn := true } }
def ntc (b : State) (code ver : Nat) : State := { b with d := { b.d with box := [(3, { Mbox.empty with full := true, sender := 2 ^ 13 + 2 ^ 16, body := leBytes 8 code ++ leBytes 8 ver })] } }
def stg (b : State) (v : Nat) : State := setF (setF b IMG_STAGE_STATE 2) IMG_STAGE_VER_VERSION v
def act (b : State) (n : Nat) : State := { b with x := { b.x with pair := { b.x.pair with actv := n } } }
def ansr (b : State) (v : Bool) (c : Nat) : State := { b with d := { b.d with box := [(51, { Mbox.empty with ackV := v, ackCode := c })] } }
def A : Nat := 4096 * 1024
end Images
/-- Meets the hypotheses of each clause of Obligations.Images (part 1). -/
theorem witness_Images_1 :
    (∃ (s : State) (n : Nat), regOk s 15 = true ∧ 24 ≤ n ∧ n < 32 ∧ descStatus s n ≠ 1 ∧ descStatus s n ≠ 2) ∧
    (∃ (go : Nat), (∀ (m : Nat), 24 ≤ m → m < 32 → bit go m = false)) ∧
    (∃ (s : State) (n : Nat) (desc : List Byte) (buf : List Byte), intakeRuns s = true ∧ n < 24 ∧ descStatus (helmGo s 0 desc buf) n = 0) ∧
    (∃ (s : State), intakeRuns s = false) ∧
    (∃ (s : State) (n : Nat), mayStart s n = none) ∧
    (∃ (s : State) (n : Nat) (q : QDesc) (st : Nat), n < 32 ∧ mayStart s n = some q ∧ descCheck s q = some st) ∧
    (∃ (s : State) (n : Nat) (q : QDesc), mayStart s n = some q ∧ descCheck s q = none) ∧
    (∃ (s : State) (n : Nat) (q : QDesc), n < 32 ∧ descRuns s n = some q ∧ q.op = 1) ∧
    (∃ (s : State) (n : Nat) (q : QDesc), n < 32 ∧ descRuns s n = some q ∧ q.op = 2) ∧
    (∃ (s : State) (n : Nat) (q : QDesc), n < 32 ∧ descRuns s n = some q ∧ q.op = 3) ∧
    (∃ (s : State) (n : Nat), descRuns s n = none) ∧
    (∃ (s : State) (n : Nat) (el : Elapse) (q : QDesc), n < 32 ∧ descRuns s n = some q ∧ 3 * descMax q ≤ 2 * ((elapse s el).clk.refNs - q.start)) :=
  ⟨⟨inM 3, 24, by decide +kernel, by decide +kernel, by decide +kernel, (by decide +kernel), by decide +kernel⟩,
    ⟨8, by decide +kernel⟩,
    ⟨Images.im (inM 5) fun (x : Img) => { x with intake := some Images.itk }, 3, [], [], by decide +kernel, by decide +kernel, by decide +kernel⟩,
    ⟨inM 3, by decide +kernel⟩,
    ⟨inM 3, 3, by decide +kernel⟩,
    ⟨Images.im (inM 3) fun (x : Img) => { x with queue := [Images.q 24 2 1 Images.A 12288 false] }, 24, _, _, by decide +kernel, some_wit (by decide +kernel), some_wit (by decide +kernel)⟩,
    ⟨Images.im (inM 3) fun (x : Img) => { x with queue := [Images.q 3 2 1 Images.A 8 false] }, 3, _, some_wit (by decide +kernel), by decide +kernel⟩,
    ⟨Images.im (inM 3) fun (x : Img) => { x with queue := [Images.q 3 1 2 Images.A 8 true] }, 3, _, by decide +kernel, some_wit (by decide +kernel), by decide +kernel⟩,
    ⟨Images.im (inM 3) fun (x : Img) => { x with xbuf := wrBytes [] 8 [1, 2, 3], queue := [Images.q 3 2 1 Images.A 8 true] }, 3, _, by decide +kernel, some_wit (by decide +kernel), by decide +kernel⟩,
    ⟨Images.im (inM 3) fun (x : Img) => { x with queue := [Images.q 3 3 0 Images.A 0 true] }, 3, _, by decide +kernel, some_wit (by decide +kernel), by decide +kernel⟩,
    ⟨inM 3, 3, by decide +kernel⟩,
    ⟨Images.im (inM 3) fun (x : Img) => { x with queue := [Images.q 3 1 2 Images.A 8 true] }, 3, { ns := 10000000000, corr := 0 }, _, by decide +kernel, some_wit (by decide +kernel), by decide +kernel⟩⟩
/-- Meets the hypotheses of each clause of Obligations.Images (part 2). -/
theorem witness_Images_2 :
    (∃ (s : State) (n : Nat) (el : Elapse) (q : QDesc), descRuns s n = some q ∧ 2 * ((elapse s el).clk.refNs - q.start) < 3 * descMax q) ∧
    (∃ (s : State) (k : Nat), regOk s 15 = true ∧ k < 1024) ∧
    (∃ (s : State) (el : Elapse), s.x.img.intake ≠ none ∧ 10000000000 ≤ (elapse s el).clk.refNs - s.x.img.frameAt) ∧
    (∃ (s : State) (el : Elapse), (elapse s el).clk.refNs - s.x.img.frameAt < 10000000000) ∧
    (∃ (s : State) (ver : Nat), noticeIn s 3 = some (1, ver) ∧ s.boot.pairEn = true ∧ mode s = mStandby ∧ stagedOk s ver = true) ∧
    (∃ (s : State) (ver : Nat), noticeIn s 3 = some (1, ver) ∧ s.boot.pairEn = true ∧ mode s = mStandby ∧ stagedOk s ver = false) ∧
    (∃ (s : State), noticeIn s 3 = none) ∧
    (∃ (s : State), s.x.pair.actv = 1 ∧ mayRestart s = true ∧ (box s 51).ackV = true ∧ (box s 51).ackCode = 0) ∧
    (∃ (s : State) (el : Elapse), s.x.pair.actv = 1 ∧ mayRestart s = true ∧ ((box s 51).ackV = true ∧ (box s 51).ackCode ≠ 0 ∨ (box s 51).ackV = false ∧ s.x.pair.actvAt + 1000000000 ≤ (elapse s el).clk.refNs)) ∧
    (∃ (s : State) (el : Elapse), s.x.pair.actv = 1 ∧ (box s 51).ackV = false ∧ (elapse s el).clk.refNs < s.x.pair.actvAt + 1000000000) ∧
    (∃ (s : State) (n : Nat) (ver : Nat), 4 ≤ n ∧ noticeIn s 3 = some (2, ver) ∧ isActive s = true ∧ mayRestart s = true ∧ s.x.pair.actv = 3 ∧ getF s IMG_STAGE_DUE = 1) ∧
    (∃ (s : State) (n : Nat), n < 4 ∧ s.x.pair.actv ≠ 20 + n) :=
  ⟨⟨Images.im (inM 3) fun (x : Img) => { x with queue := [Images.q 3 1 2 Images.A 8 true] }, 3, { ns := 0, corr := 0 }, _, some_wit (by decide +kernel), by decide +kernel⟩,
    ⟨inM 3, 1023, by decide +kernel, by decide +kernel⟩,
    ⟨Images.im (inM 5) fun (x : Img) => { x with intake := some Images.itk }, { ns := 10000000000, corr := 0 }, by decide +kernel, by decide +kernel⟩,
    ⟨inM 3, { ns := 0, corr := 0 }, by decide +kernel⟩,
    ⟨Images.ntc (Images.stg (Images.pr (inM 2) 3) 7) 1 7, 7, by decide +kernel, by decide +kernel, by decide +kernel, (by decide +kernel)⟩,
    ⟨Images.ntc (Images.stg (Images.pr (inM 2) 3) 6) 1 7, 7, by decide +kernel, by decide +kernel, by decide +kernel, (by decide +kernel)⟩,
    ⟨inM 3, by decide +kernel⟩,
    ⟨Images.ansr (Images.act (Images.pr (inM 3) 3) 1) true 0, by decide +kernel, by decide +kernel, by decide +kernel, (by decide +kernel)⟩,
    ⟨Images.ansr (Images.act (Images.pr (inM 3) 3) 1) true 1, { ns := 0, corr := 0 }, by decide +kernel, by decide +kernel, by decide +kernel⟩,
    ⟨Images.ansr (Images.act (Images.pr (inM 3) 3) 1) false 0, { ns := 0, corr := 0 }, by decide +kernel, by decide +kernel, by decide +kernel⟩,
    ⟨setF (Images.ntc (Images.act (Images.pr (inM 3) 3) 3) 2 7) IMG_STAGE_DUE 1, 4, 7, by decide +kernel, by decide +kernel, by decide +kernel, (by decide +kernel), by decide +kernel, by decide +kernel⟩,
    ⟨inM 3, 3, by decide +kernel, by decide +kernel⟩⟩

/-! ### ServicePort -/
namespace ServicePort
def fr0 (ty : Nat) (p : List Byte) : List Byte := let h := leBytes 2 0x4656 ++ leBytes 1 ty ++ [0] ++ leBytes 2 7 ++ leBytes 2 0 ++ leBytes 4 p.length ++ leBytes 4 0 ++ p; h ++ leBytes 4 (crc32 h)
def bad (l : List Byte) : List Byte := l.dropLast ++ [l.getLastD 0 + 1]
def b : List (List Byte) := [fr0 5 [], bad (fr0 5 []), [1, 2, 3], fr0 8 []]
def sv (b : State) (g : Svc → Svc) : State := { b with x := { b.x with svc := g b.x.svc } }
def itk (ph : Nat) (fl : Bool) : Intake := ⟨ph, [], 0, 5, 0, 0, 0, true, fl⟩
def im (b : State) (i : Intake) : State := { b with x := { b.x with img := { b.x.img with intake := some i } } }
end ServicePort
/-- Meets the hypotheses of each clause of Obligations.ServicePort (part 1). -/
theorem witness_ServicePort_1 :
    (∃ (s : State), mode s ≠ mOff) ∧
    (∃ (s : State) (b : List Byte), mode s ≠ mOff ∧ (¬(b.length ≤ rxFree s ∧ s.x.svc.out.length < 8))) ∧
    (∃ (s : State) (b : List Byte), mode s ≠ mOff ∧ (b.length ≤ rxFree s ∧ s.x.svc.out.length < 8) ∧ formatOk b = false) ∧
    (∃ (s : State) (b : List Byte), mode s ≠ mOff ∧ (b.length ≤ rxFree s ∧ s.x.svc.out.length < 8) ∧ formatOk b = true ∧ crc32 (List.take (b.length - 4) b) ≠ oLe b (b.length - 4) 4) ∧
    (∃ (s : State) (b : List Byte), mode s = mQuench ∧ (b.length ≤ rxFree s ∧ s.x.svc.out.length < 8) ∧ (formatOk b = true ∧ crc32 (List.take (b.length - 4) b) = oLe b (b.length - 4) 4)) ∧
    (∃ (s : State) (b : List Byte), mode s ≠ mOff ∧ mode s ≠ mQuench ∧ s.boot.image = false ∧ romServes { ty := oLe b 2 1, seq := oLe b 4 2, crc := oLe b (b.length - 4) 4, pay := List.take (oLe b 8 4) (List.drop 16 b) } = false ∧ (b.length ≤ rxFree s ∧ s.x.svc.out.length < 8) ∧ (formatOk b = true ∧ crc32 (List.take (b.length - 4) b) = oLe b (b.length - 4) 4)) ∧
    (∃ (s : State) (b : List Byte), mode s ≠ mOff ∧ mode s ≠ mQuench ∧ (s.boot.image = true ∨ romServes { ty := oLe b 2 1, seq := oLe b 4 2, crc := oLe b (b.length - 4) 4, pay := List.take (oLe b 8 4) (List.drop 16 b) } = true) ∧ (b.length ≤ rxFree s ∧ s.x.svc.out.length < 8) ∧ (formatOk b = true ∧ crc32 (List.take (b.length - 4) b) = oLe b (b.length - 4) 4) ∧ s.x.svc.last = none) ∧
    (∃ (s : State) (b : List Byte) (r : List Byte), mode s ≠ mOff ∧ mode s ≠ mQuench ∧ (s.boot.image = true ∨ romServes { ty := oLe b 2 1, seq := oLe b 4 2, crc := oLe b (b.length - 4) 4, pay := List.take (oLe b 8 4) (List.drop 16 b) } = true) ∧ (b.length ≤ rxFree s ∧ s.x.svc.out.length < 8) ∧ (formatOk b = true ∧ crc32 (List.take (b.length - 4) b) = oLe b (b.length - 4) 4) ∧ s.x.svc.last = some (oLe b 4 2, oLe b (b.length - 4) 4, r)) ∧
    (∃ (s : State), mode s ≠ mOff ∧ s.x.svc.out = []) ∧
    (∃ (s : State) (h : List Byte) (l : List (List Byte)), mode s ≠ mOff ∧ s.x.svc.out = h :: l) ∧
    (∃ (s : State) (f : Frame) (rest : List Frame) (r : List Byte), s.x.svc.last = some (f.seq, f.crc, r) ∧ (s.x.svc.rx = f :: rest ∧ f.ty = 1 ∧ mode s ≠ mOff ∧ mode s ≠ mQuench ∧ s.x.svc.out.length < 8)) ∧
    (∃ (s : State) (f : Frame) (rest : List Frame) (r : List Byte), s.x.svc.last = some (f.seq, f.crc, r) ∧ (s.x.svc.rx = f :: rest ∧ f.ty = 2 ∧ mode s ≠ mOff ∧ mode s ≠ mQuench ∧ s.x.svc.out.length < 8)) ∧
    (∃ (s : State) (f : Frame) (rest : List Frame) (r : List Byte), s.x.svc.last = some (f.seq, f.crc, r) ∧ (s.x.svc.rx = f :: rest ∧ f.ty = 3 ∧ mode s ≠ mOff ∧ mode s ≠ mQuench ∧ s.x.svc.out.length < 8)) ∧
    (∃ (s : State) (f : Frame) (rest : List Frame) (r : List Byte), s.x.svc.last = some (f.seq, f.crc, r) ∧ (s.x.svc.rx = f :: rest ∧ f.ty = 4 ∧ mode s ≠ mOff ∧ mode s ≠ mQuench ∧ s.x.svc.out.length < 8)) ∧
    (∃ (s : State) (f : Frame) (rest : List Frame) (r : List Byte), s.x.svc.last = some (f.seq, f.crc, r) ∧ (s.x.svc.rx = f :: rest ∧ f.ty = 5 ∧ mode s ≠ mOff ∧ mode s ≠ mQuench ∧ s.x.svc.out.length < 8)) ∧
    (∃ (s : State) (f : Frame) (rest : List Frame) (r : List Byte), s.x.svc.last = some (f.seq, f.crc, r) ∧ (s.x.svc.rx = f :: rest ∧ f.ty = 6 ∧ mode s ≠ mOff ∧ mode s ≠ mQuench ∧ s.x.svc.out.length < 8)) ∧
    (∃ (s : State) (f : Frame) (rest : List Frame) (r : List Byte), s.x.svc.last = some (f.seq, f.crc, r) ∧ (s.x.svc.rx = f :: rest ∧ f.ty = 7 ∧ mode s ≠ mOff ∧ mode s ≠ mQuench ∧ s.x.svc.out.length < 8)) ∧
    (∃ (s : State) (f : Frame) (rest : List Frame) (r : List Byte), s.x.svc.last = some (f.seq, f.crc, r) ∧ (s.x.svc.rx = f :: rest ∧ f.ty = 8 ∧ mode s ≠ mOff ∧ mode s ≠ mQuench ∧ s.x.svc.out.length < 8)) :=
  ⟨⟨inM 3, by decide +kernel⟩,
    ⟨ServicePort.sv (inM 3) fun (v : Svc) => { v with out := List.replicate 8 [1, 2, 3, 4, 5] }, ServicePort.fr0 5 [], by decide +kernel, by decide +kernel⟩,
    ⟨inM 3, [1, 2, 3], by decide +kernel, ⟨by decide +kernel, by decide +kernel⟩, (by decide +kernel)⟩,
    ⟨inM 3, ServicePort.bad (ServicePort.fr0 5 []), by decide +kernel, ⟨by decide +kernel, by decide +kernel⟩, (by decide +kernel), by decide +kernel⟩,
    ⟨inM 6, ServicePort.fr0 5 [], by decide +kernel, ⟨by decide +kernel, by decide +kernel⟩, ⟨(by decide +kernel), by decide +kernel⟩⟩,
    ⟨{ (State.reset) with boot := { (Boot.reset) with begun := true } }, ServicePort.fr0 5 [], by decide +kernel, by decide +kernel, by decide +kernel, (by decide +kernel), ⟨by decide +kernel, by decide +kernel⟩, ⟨by decide +kernel, (by decide +kernel)⟩⟩,
    ⟨inM 3, ServicePort.fr0 5 [], by decide +kernel, by decide +kernel, by decide +kernel, ⟨(by decide +kernel), by decide +kernel⟩, ⟨by decide +kernel, by decide +kernel⟩, (by decide +kernel)⟩,
    ⟨ServicePort.sv (inM 3) fun (v : Svc) => { v with last := some (7, oLe (ServicePort.fr0 5 []) ((ServicePort.fr0 5 []).length - 4) 4, [9, 9]) }, ServicePort.fr0 5 [], _, by decide +kernel, by decide +kernel, by decide +kernel, ⟨(by decide +kernel), by decide +kernel⟩, ⟨by decide +kernel, by decide +kernel⟩, some_wit (by decide +kernel)⟩,
    ⟨inM 3, by decide +kernel, by decide +kernel⟩,
    ⟨ServicePort.sv (inM 3) fun (v : Svc) => { v with out := List.replicate 8 [1, 2, 3, 4, 5] }, _, _, by decide +kernel, cons_wit (by decide +kernel)⟩,
    ⟨ServicePort.sv (inM 3) fun (v : Svc) => { v with rx := [{ ty := 1, seq := 7, crc := 0, pay := leBytes 64 133 }], last := some (7, 0, [9]) }, { ty := 1, seq := 7, crc := 0, pay := leBytes 64 133 }, [], [9], by decide +kernel, ⟨by decide +kernel, by decide +kernel, (by decide +kernel), by decide +kernel, by decide +kernel⟩⟩,
    ⟨ServicePort.sv (inM 3) fun (v : Svc) => { v with rx := [{ ty := 2, seq := 7, crc := 0, pay := leBytes 4 16777216 ++ leBytes 4 1 }], last := some (7, 0, [9]) }, { ty := 2, seq := 7, crc := 0, pay := leBytes 4 16777216 ++ leBytes 4 1 }, [], [9], by decide +kernel, ⟨by decide +kernel, by decide +kernel, (by decide +kernel), by decide +kernel, by decide +kernel⟩⟩,
    ⟨ServicePort.sv (inM 3) fun (v : Svc) => { v with rx := [{ ty := 3, seq := 7, crc := 0, pay := leBytes 8 16777216 ++ leBytes 8 1 }], last := some (7, 0, [9]) }, { ty := 3, seq := 7, crc := 0, pay := leBytes 8 16777216 ++ leBytes 8 1 }, [], [9], by decide +kernel, ⟨by decide +kernel, by decide +kernel, (by decide +kernel), by decide +kernel, by decide +kernel⟩⟩,
    ⟨ServicePort.sv (inM 3) fun (v : Svc) => { v with rx := [{ ty := 4, seq := 7, crc := 0, pay := leBytes 8 5 ++ List.replicate 32 9 }], last := some (7, 0, [9]) }, { ty := 4, seq := 7, crc := 0, pay := leBytes 8 5 ++ List.replicate 32 9 }, [], [9], by decide +kernel, ⟨by decide +kernel, by decide +kernel, (by decide +kernel), by decide +kernel, by decide +kernel⟩⟩,
    ⟨ServicePort.sv (inM 3) fun (v : Svc) => { v with rx := [{ ty := 5, seq := 7, crc := 0, pay := [] }], last := some (7, 0, [9]) }, { ty := 5, seq := 7, crc := 0, pay := [] }, [], [9], by decide +kernel, ⟨by decide +kernel, by decide +kernel, (by decide +kernel), by decide +kernel, by decide +kernel⟩⟩,
    ⟨ServicePort.sv (inM 3) fun (v : Svc) => { v with rx := [{ ty := 6, seq := 7, crc := 0, pay := leBytes 8 3 }], last := some (7, 0, [9]) }, { ty := 6, seq := 7, crc := 0, pay := leBytes 8 3 }, [], [9], by decide +kernel, ⟨by decide +kernel, by decide +kernel, (by decide +kernel), by decide +kernel, by decide +kernel⟩⟩,
    ⟨ServicePort.sv (inM 3) fun (v : Svc) => { v with rx := [{ ty := 7, seq := 7, crc := 0, pay := [1, 2] }], last := some (7, 0, [9]) }, { ty := 7, seq := 7, crc := 0, pay := [1, 2] }, [], [9], by decide +kernel, ⟨by decide +kernel, by decide +kernel, (by decide +kernel), by decide +kernel, by decide +kernel⟩⟩,
    ⟨ServicePort.sv (inM 3) fun (v : Svc) => { v with rx := [{ ty := 8, seq := 7, crc := 0, pay := [] }], last := some (7, 0, [9]) }, { ty := 8, seq := 7, crc := 0, pay := [] }, [], [9], by decide +kernel, ⟨by decide +kernel, by decide +kernel, (by decide +kernel), by decide +kernel, by decide +kernel⟩⟩⟩
/-- Meets the hypotheses of each clause of Obligations.ServicePort (part 2). -/
theorem witness_ServicePort_2 :
    (∃ (s : State) (f : Frame) (rest : List Frame), ((s.x.svc.rx = f :: rest ∧ f.ty = 7 ∧ mode s ≠ mOff ∧ mode s ≠ mQuench ∧ s.x.svc.out.length < 8) ∧ repeated s f = none) ∧ intakeBusy s = true ∧ intakeFailed s = false) ∧
    (∃ (s : State) (f : Frame) (rest : List Frame), ((s.x.svc.rx = f :: rest ∧ f.ty = 1 ∧ mode s ≠ mOff ∧ mode s ≠ mQuench ∧ s.x.svc.out.length < 8) ∧ repeated s f = none) ∧ s.x.svc.cmd ≠ none) ∧
    (∃ (s : State) (f : Frame) (rest : List Frame), ((s.x.svc.rx = f :: rest ∧ f.ty = 1 ∧ mode s ≠ mOff ∧ mode s ≠ mQuench ∧ s.x.svc.out.length < 8) ∧ repeated s f = none) ∧ s.x.svc.cmd = none ∧ mode s ≠ mBanked ∧ 128 ≤ leNat (List.take 64 f.pay) % 256 ∧ leNat (List.take 64 f.pay) % 256 ≤ 143) ∧
    (∃ (s : State) (f : Frame) (rest : List Frame), ((s.x.svc.rx = f :: rest ∧ f.ty = 1 ∧ mode s ≠ mOff ∧ mode s ≠ mQuench ∧ s.x.svc.out.length < 8) ∧ repeated s f = none) ∧ s.x.svc.cmd = none ∧ mode s ≠ mBanked ∧ leNat (List.take 64 f.pay) % 256 < 128) ∧
    (∃ (s : State) (f : Frame) (rest : List Frame), ((s.x.svc.rx = f :: rest ∧ f.ty = 2 ∧ mode s ≠ mOff ∧ mode s ≠ mQuench ∧ s.x.svc.out.length < 8) ∧ repeated s f = none) ∧ rangeOk (regRange f).1 (regRange f).2 = false) ∧
    (∃ (s : State) (f : Frame) (rest : List Frame) (off : Nat), ((s.x.svc.rx = f :: rest ∧ f.ty = 2 ∧ mode s ≠ mOff ∧ mode s ≠ mQuench ∧ s.x.svc.out.length < 8) ∧ repeated s f = none) ∧ regRange f = (off, 1) ∧ rangeOk off 1 = true) ∧
    (∃ (s : State) (f : Frame) (rest : List Frame), ((s.x.svc.rx = f :: rest ∧ f.ty = 3 ∧ mode s ≠ mOff ∧ mode s ≠ mQuench ∧ s.x.svc.out.length < 8) ∧ repeated s f = none) ∧ rangeOk (regRange f).1 (regRange f).2 = false) ∧
    (∃ (s : State) (f : Frame) (rest : List Frame) (off : Nat), ((s.x.svc.rx = f :: rest ∧ f.ty = 3 ∧ mode s ≠ mOff ∧ mode s ≠ mQuench ∧ s.x.svc.out.length < 8) ∧ repeated s f = none) ∧ regRange f = (off, 1) ∧ rangeOk off 1 = true ∧ getF s HELM_ADMIN_SRC = 0 ∧ famOf off ≠ 18) ∧
    (∃ (s : State) (f : Frame) (rest : List Frame) (off : Nat), ((s.x.svc.rx = f :: rest ∧ f.ty = 3 ∧ mode s ≠ mOff ∧ mode s ≠ mQuench ∧ s.x.svc.out.length < 8) ∧ repeated s f = none) ∧ regRange f = (off, 1) ∧ rangeOk off 1 = true ∧ (getF s HELM_ADMIN_SRC = 1 ∨ famOf off = 18)) ∧
    (∃ (s : State) (f : Frame) (rest : List Frame), ((s.x.svc.rx = f :: rest ∧ f.ty = 4 ∧ mode s ≠ mOff ∧ mode s ≠ mQuench ∧ s.x.svc.out.length < 8) ∧ repeated s f = none) ∧ oLe f.pay 0 1 ≤ 63) ∧
    (∃ (s : State) (f : Frame) (rest : List Frame), ((s.x.svc.rx = f :: rest ∧ f.ty = 5 ∧ mode s ≠ mOff ∧ mode s ≠ mQuench ∧ s.x.svc.out.length < 8) ∧ repeated s f = none) ∧ (box s 2).full = true) ∧
    (∃ (s : State) (f : Frame) (rest : List Frame), ((s.x.svc.rx = f :: rest ∧ f.ty = 5 ∧ mode s ≠ mOff ∧ mode s ≠ mQuench ∧ s.x.svc.out.length < 8) ∧ repeated s f = none) ∧ (box s 2).full = false) ∧
    (∃ (s : State) (f : Frame) (rest : List Frame), ((s.x.svc.rx = f :: rest ∧ f.ty = 6 ∧ mode s ≠ mOff ∧ mode s ≠ mQuench ∧ s.x.svc.out.length < 8) ∧ repeated s f = none) ∧ oLe f.pay 0 2 < 65280) ∧
    (∃ (s : State) (f : Frame) (rest : List Frame), ((s.x.svc.rx = f :: rest ∧ f.ty = 7 ∧ mode s ≠ mOff ∧ mode s ≠ mQuench ∧ s.x.svc.out.length < 8) ∧ repeated s f = none) ∧ intakeFailed s = false ∧ intakeBusy s = false) ∧
    (∃ (s : State) (f : Frame) (rest : List Frame), ((s.x.svc.rx = f :: rest ∧ f.ty = 7 ∧ mode s ≠ mOff ∧ mode s ≠ mQuench ∧ s.x.svc.out.length < 8) ∧ repeated s f = none) ∧ intakeFailed s = true ∧ s.x.img.intake ≠ none) ∧
    (∃ (s : State) (f : Frame) (rest : List Frame) (i : Intake), ((s.x.svc.rx = f :: rest ∧ f.ty = 8 ∧ mode s ≠ mOff ∧ mode s ≠ mQuench ∧ s.x.svc.out.length < 8) ∧ repeated s f = none) ∧ s.x.img.intake = some i ∧ i.failed = false ∧ i.phase = 5) ∧
    (∃ (s : State) (f : Frame) (rest : List Frame) (i : Intake), ((s.x.svc.rx = f :: rest ∧ f.ty = 8 ∧ mode s ≠ mOff ∧ mode s ≠ mQuench ∧ s.x.svc.out.length < 8) ∧ repeated s f = none) ∧ s.x.img.intake = some i ∧ i.failed = true ∧ getF s IMG_INTAKE_RESULT ≠ 2) :=
  ⟨⟨setF (ServicePort.sv (inM 3) fun (v : Svc) => { v with rx := [{ ty := 7, seq := 7, crc := 0, pay := [1, 2] }] }) IMG_STAGE_DUE 1, { ty := 7, seq := 7, crc := 0, pay := [1, 2] }, [], ⟨⟨by decide +kernel, by decide +kernel, by decide +kernel, (by decide +kernel), by decide +kernel⟩, by decide +kernel⟩, by decide +kernel, (by decide +kernel)⟩,
    ⟨ServicePort.sv (inM 3) fun (v : Svc) => { v with rx := [{ ty := 1, seq := 7, crc := 0, pay := leBytes 64 133 }], cmd := some { ty := 1, seq := 7, crc := 0, pay := leBytes 64 133 } }, { ty := 1, seq := 7, crc := 0, pay := leBytes 64 133 }, [], ⟨⟨by decide +kernel, by decide +kernel, by decide +kernel, (by decide +kernel), by decide +kernel⟩, by decide +kernel⟩, by decide +kernel⟩,
    ⟨ServicePort.sv (inM 3) fun (v : Svc) => { v with rx := [{ ty := 1, seq := 7, crc := 0, pay := leBytes 64 133 }] }, { ty := 1, seq := 7, crc := 0, pay := leBytes 64 133 }, [], ⟨⟨by decide +kernel, by decide +kernel, by decide +kernel, (by decide +kernel), by decide +kernel⟩, by decide +kernel⟩, by decide +kernel, (by decide +kernel), by decide +kernel, by decide +kernel⟩,
    ⟨ServicePort.sv (inM 3) fun (v : Svc) => { v with rx := [{ ty := 1, seq := 7, crc := 0, pay := leBytes 64 1 }] }, { ty := 1, seq := 7, crc := 0, pay := leBytes 64 1 }, [], ⟨⟨by decide +kernel, by decide +kernel, by decide +kernel, (by decide +kernel), by decide +kernel⟩, by decide +kernel⟩, by decide +kernel, (by decide +kernel), by decide +kernel⟩,
    ⟨ServicePort.sv (inM 3) fun (v : Svc) => { v with rx := [{ ty := 2, seq := 7, crc := 0, pay := leBytes 4 4 ++ leBytes 4 1 }] }, { ty := 2, seq := 7, crc := 0, pay := leBytes 4 4 ++ leBytes 4 1 }, [], ⟨⟨by decide +kernel, by decide +kernel, by decide +kernel, (by decide +kernel), by decide +kernel⟩, by decide +kernel⟩, by decide +kernel⟩,
    ⟨ServicePort.sv (inM 3) fun (v : Svc) => { v with rx := [{ ty := 2, seq := 7, crc := 0, pay := leBytes 4 16777216 ++ leBytes 4 1 }] }, { ty := 2, seq := 7, crc := 0, pay := leBytes 4 16777216 ++ leBytes 4 1 }, [], 16777216, ⟨⟨by decide +kernel, by decide +kernel, by decide +kernel, (by decide +kernel), by decide +kernel⟩, by decide +kernel⟩, by decide +kernel, (by decide +kernel)⟩,
    ⟨ServicePort.sv (inM 3) fun (v : Svc) => { v with rx := [{ ty := 3, seq := 7, crc := 0, pay := leBytes 8 4 ++ leBytes 8 1 }] }, { ty := 3, seq := 7, crc := 0, pay := leBytes 8 4 ++ leBytes 8 1 }, [], ⟨⟨by decide +kernel, by decide +kernel, by decide +kernel, (by decide +kernel), by decide +kernel⟩, by decide +kernel⟩, by decide +kernel⟩,
    ⟨ServicePort.sv (inM 3) fun (v : Svc) => { v with rx := [{ ty := 3, seq := 7, crc := 0, pay := leBytes 8 16777216 ++ leBytes 8 1 }] }, { ty := 3, seq := 7, crc := 0, pay := leBytes 8 16777216 ++ leBytes 8 1 }, [], 16777216, ⟨⟨by decide +kernel, by decide +kernel, by decide +kernel, (by decide +kernel), by decide +kernel⟩, by decide +kernel⟩, by decide +kernel, (by decide +kernel), by decide +kernel, by decide +kernel⟩,
    ⟨setF (ServicePort.sv (inM 3) fun (v : Svc) => { v with rx := [{ ty := 3, seq := 7, crc := 0, pay := leBytes 8 16777216 ++ leBytes 8 1 }] }) HELM_ADMIN_SRC 1, { ty := 3, seq := 7, crc := 0, pay := leBytes 8 16777216 ++ leBytes 8 1 }, [], 16777216, ⟨⟨by decide +kernel, by decide +kernel, by decide +kernel, (by decide +kernel), by decide +kernel⟩, by decide +kernel⟩, by decide +kernel, (by decide +kernel), by decide +kernel⟩,
    ⟨ServicePort.sv (inM 3) fun (v : Svc) => { v with rx := [{ ty := 4, seq := 7, crc := 0, pay := leBytes 8 5 ++ List.replicate 32 9 }] }, { ty := 4, seq := 7, crc := 0, pay := leBytes 8 5 ++ List.replicate 32 9 }, [], ⟨⟨by decide +kernel, by decide +kernel, by decide +kernel, (by decide +kernel), by decide +kernel⟩, by decide +kernel⟩, by decide +kernel⟩,
    ⟨{ (ServicePort.sv (inM 3) fun (v : Svc) => { v with rx := [{ ty := 5, seq := 7, crc := 0, pay := [] }] }) with d := { ((inM 3).d) with box := [(2, { (Mbox.empty) with full := true })] } }, { ty := 5, seq := 7, crc := 0, pay := [] }, [], ⟨⟨by decide +kernel, by decide +kernel, by decide +kernel, (by decide +kernel), by decide +kernel⟩, by decide +kernel⟩, by decide +kernel⟩,
    ⟨ServicePort.sv (inM 3) fun (v : Svc) => { v with rx := [{ ty := 5, seq := 7, crc := 0, pay := [] }] }, { ty := 5, seq := 7, crc := 0, pay := [] }, [], ⟨⟨by decide +kernel, by decide +kernel, by decide +kernel, (by decide +kernel), by decide +kernel⟩, by decide +kernel⟩, by decide +kernel⟩,
    ⟨ServicePort.sv (inM 3) fun (v : Svc) => { v with rx := [{ ty := 6, seq := 7, crc := 0, pay := leBytes 8 3 }] }, { ty := 6, seq := 7, crc := 0, pay := leBytes 8 3 }, [], ⟨⟨by decide +kernel, by decide +kernel, by decide +kernel, (by decide +kernel), by decide +kernel⟩, by decide +kernel⟩, by decide +kernel⟩,
    ⟨ServicePort.sv (inM 3) fun (v : Svc) => { v with rx := [{ ty := 7, seq := 7, crc := 0, pay := [1, 2] }] }, { ty := 7, seq := 7, crc := 0, pay := [1, 2] }, [], ⟨⟨by decide +kernel, by decide +kernel, by decide +kernel, (by decide +kernel), by decide +kernel⟩, by decide +kernel⟩, by decide +kernel, (by decide +kernel)⟩,
    ⟨ServicePort.im (ServicePort.sv (inM 3) fun (v : Svc) => { v with rx := [{ ty := 7, seq := 7, crc := 0, pay := [1, 2] }] }) (ServicePort.itk 3 true), { ty := 7, seq := 7, crc := 0, pay := [1, 2] }, [], ⟨⟨by decide +kernel, by decide +kernel, by decide +kernel, (by decide +kernel), by decide +kernel⟩, by decide +kernel⟩, by decide +kernel, (by decide +kernel)⟩,
    ⟨ServicePort.im (ServicePort.sv (inM 3) fun (v : Svc) => { v with rx := [{ ty := 8, seq := 7, crc := 0, pay := [] }] }) (ServicePort.itk 5 false), { ty := 8, seq := 7, crc := 0, pay := [] }, [], _, ⟨⟨by decide +kernel, by decide +kernel, by decide +kernel, (by decide +kernel), by decide +kernel⟩, by decide +kernel⟩, some_wit (by decide +kernel), by decide +kernel, by decide +kernel⟩,
    ⟨ServicePort.im (ServicePort.sv (inM 3) fun (v : Svc) => { v with rx := [{ ty := 8, seq := 7, crc := 0, pay := [] }] }) (ServicePort.itk 3 true), { ty := 8, seq := 7, crc := 0, pay := [] }, [], _, ⟨⟨by decide +kernel, by decide +kernel, by decide +kernel, (by decide +kernel), by decide +kernel⟩, by decide +kernel⟩, some_wit (by decide +kernel), by decide +kernel, by decide +kernel⟩⟩

/-! ### TestsAndTap -/
namespace TestsAndTap
def b : List Nat := [64, 200]
def tst (b : State) : State := { b with x := { b.x with tst := some ⟨0, 16⟩ } }
def run (b : State) (l : Nat) : State := setF (setF (setF (setF (tst b) TST_STAT_RUN 1) TST_STAT_LOCK l) TST_CTL_DUR_MS 50) TST_SEL_UNIT 16
end TestsAndTap
/-- Meets the hypotheses of each clause of Obligations.TestsAndTap. -/
theorem witness_TestsAndTap :
    (∃ (s : State), regOk s 16 = true ∧ getF s TST_STAT_RUN = 0 ∧ testMode s (getF s TST_SEL_UNIT) (getF s TST_CTL_MODE) = true ∧ testDur s (getF s TST_SEL_UNIT) (getF s TST_CTL_MODE) (getF s TST_CTL_DUR_MS) = true) ∧
    (∃ (s : State), regOk s 16 = true ∧ (getF s TST_STAT_RUN = 1 ∨ testMode s (getF s TST_SEL_UNIT) (getF s TST_CTL_MODE) = false)) ∧
    (∃ (s : State), regOk s 16 = true ∧ getF s TST_STAT_RUN = 1 ∧ getF s TST_STAT_LOCK = 1) ∧
    (∃ (s : State), regOk s 16 = true ∧ getF s TST_STAT_RUN = 1 ∧ getF s TST_STAT_LOCK = 0) ∧
    (∃ (s : State) (el : Elapse) (x : Tst), s.x.tst = some x ∧ getF s TST_STAT_RUN = 1 ∧ getF s TST_STAT_LOCK = 1 ∧ getF s TST_CTL_DUR_MS ≠ 0 ∧ x.at_ + ms (getF s TST_CTL_DUR_MS) ≤ (elapse s el).clk.refNs) ∧
    (∃ (s : State) (el : Elapse) (x : Tst), s.x.tst = some x ∧ (elapse s el).clk.refNs < x.at_ + ms (getF s TST_CTL_DUR_MS)) ∧
    (∃ (s : State), getF s TST_STAT_RUN = 1) ∧
    (∃ (s : State) (b : Nat) (e : Nat), getF s TST_STAT_RUN = 1 ∧ getF s TST_STAT_LOCK = 1 ∧ 64 ≤ b ∧ 64 ≤ e) ∧
    (∃ (e : Nat), e < 64) :=
  ⟨⟨setF (setF (setF (inM 3) TST_SEL_UNIT 16) TST_CTL_MODE 1) TST_CTL_DUR_MS 50, by decide +kernel, by decide +kernel, by decide +kernel, (by decide +kernel)⟩,
    ⟨inM 3, by decide +kernel, by decide +kernel⟩,
    ⟨TestsAndTap.run (inM 3) 1, by decide +kernel, by decide +kernel, by decide +kernel⟩,
    ⟨TestsAndTap.run (inM 3) 0, by decide +kernel, by decide +kernel, by decide +kernel⟩,
    ⟨TestsAndTap.run (inM 3) 1, { ns := 50000000, corr := 0 }, _, some_wit (by decide +kernel), by decide +kernel, by decide +kernel, by decide +kernel, (by decide +kernel)⟩,
    ⟨TestsAndTap.run (inM 3) 0, { ns := 0, corr := 0 }, _, some_wit (by decide +kernel), by decide +kernel⟩,
    ⟨TestsAndTap.run (inM 3) 0, by decide +kernel⟩,
    ⟨TestsAndTap.run (inM 3) 1, 64, 64, by decide +kernel, by decide +kernel, by decide +kernel, (by decide +kernel)⟩,
    ⟨0, by decide +kernel⟩⟩

/-! ### The others -/
/-- Meets the hypotheses of each clause of Obligations.QueueStep. -/
theorem witness_QueueStep : (∃ (s : State) (c : Instr) (rest : List Instr), s.pending = c :: rest) ∧ (∃ s : State, s.pending = []) :=
  ⟨⟨{ State.reset with pending := [.watch, .cmd] }, .watch, [.cmd], rfl⟩, State.reset, rfl⟩
/-- Meets the hypotheses of each clause of Obligations.ResetValues. -/
theorem witness_ResetValues : (∃ n, n ≠ adminCtx State.reset) ∧ (∃ a : Nat, 2 ^ 20 ≤ a) := ⟨⟨4095, by decide +kernel⟩, 2 ^ 20, Nat.le_refl _⟩
/-- Meets the hypotheses of each clause of Obligations.StorageLaws, addresses at the ends of their ranges. -/
theorem witness_StorageLaws :
    (∃ f g : Fld, (f.key == g.key && f.ret == g.ret) = false) ∧ (∃ a, a < aHelm) ∧ (∃ a : Nat, aHelm ≤ a) ∧
    (∃ (a c n : Nat) (b : List Byte), c + n ≤ a ∧ b ≠ []) ∧ (∃ (a c : Nat) (b : List Byte), a + b.length ≤ c ∧ b ≠ []) ∧
    (∃ a c n : Nat, a ≤ c ∧ c < a + n) ∧ (∃ (s : State) (a : Nat), spMapped s a = true) ∧ (∃ (s : State) (a : Nat), spMapped s a = false) ∧
    (∃ s : State, Memory.wf s.mem ∧ s.mem.dram ≠ []) :=
  ⟨⟨HELM_MODE_CUR, HELM_MODE_PREV, by decide +kernel⟩, ⟨aHelm - 1, by decide +kernel⟩, ⟨aHelm, Nat.le_refl _⟩,
    ⟨8, 4, 4, [1], by decide⟩, ⟨8, 9, [1], by decide⟩, ⟨8, 8, 1, by decide⟩,
    ⟨setSlice State.reset 0 { Slice.empty with spWays := [15] }, 0, by decide +kernel⟩, ⟨State.reset, 0, by decide +kernel⟩,
    ⟨dramWr State.reset 64 [5], by decide +kernel, by decide +kernel⟩⟩
/-- Meets the hypotheses of each clause of Obligations.AnvilWords. -/
theorem witness_AnvilWords :
    (∃ (s : State) (c : Instr) (t w : Nat), c.wf = true ∧ anvilWord c = some (t, w) ∧ issues s t w = false) ∧
    (∃ (c d : Instr) (p : Nat × Nat), c.wf = true ∧ d.wf = true ∧ anvilWord c = some p ∧ anvilWord d = some p) ∧
    (∃ t w : Nat, t < 4608 ∧ w < 2 ^ 64 ∧ wordDefined w = true) ∧
    (∃ (s : State) (t : Nat), (th s t).st = .running ∧ (th s t).cont = .nothing ∧ pcOk (th s t).pc = true ∧ wordDefined (progWord s (th s t).pc) = true) :=
  ⟨⟨State.reset, .add 1 1 2 3, 1, aw 0x01 1 2 3 0 0, by decide +kernel, rfl, by decide +kernel⟩,
    ⟨.add 1 1 2 3, .add 1 1 2 3, (1, aw 0x01 1 2 3 0 0), by decide +kernel, by decide +kernel, rfl, rfl⟩,
    ⟨4607, aw 0xEF 0 0 0 0 255, by decide +kernel⟩,
    ⟨issue (inM 3) 1 (hostT []) (aw 0x01 1 2 3 0 0), 1, by decide +kernel⟩⟩

/-! Well-formedness: a term of each range that the check refuses. -/
theorem test_wf_refuses : ([.registerWrite 2 false 0 4 0, .dispatch 4608, .read 4096 x0, .mcDisable 4 true, .add 1 32 0 0, .add 1 0 32 0, .add 1 0 0 32, .slewComplete ⟨999, 1⟩,
    .ext 1 0 0 64 1, .ext 1 0 0 0 0, .ext 1 0 0 0 65, .addi 1 0 0 (2 ^ 32), .shli 1 0 0 64, .br 1 6 0 0 0] : List Instr).all (fun i => !i.wf) = true := by decide +kernel

/-! ### Single commands, results worked out by hand -/
/-- The next state of a command, or the state itself. -/
def after (i : Instr) (s : State) : State :=
  match exec i s with
  | .next u => u
  | _ => s
/-- Source: the check value that R386 states. -/
theorem test_crc64_check : crc64 ([0x31, 0x32, 0x33, 0x34, 0x35, 0x36, 0x37, 0x38, 0x39] : List Byte) = 0xAE8B14860A799888 := by decide +kernel
/-- Source: R184, 0xFFFF_FFFF_FFFF_FFFF + 5 wraps to 4. -/
theorem test_add_wraps : gr (after (.add 1 3 4 1) (issue (inM 3) 1 runner (aw 0x01 3 4 1 0 0))) 1 3 = 4 := by decide +kernel
/-- Source: R171, R184: g0 takes no value. -/
theorem test_add_g0 : gr (after (.add 1 0 1 2) (issue (inM 3) 1 runner (aw 0x01 0 1 2 0 0))) 1 0 = 0 := by decide +kernel
/-- Source: R184, 5 - 7 borrows. -/
theorem test_sub : gr (after (.sub 1 3 1 2) (issue (inM 3) 1 runner (aw 0x02 3 1 2 0 0))) 1 3 = 0xFFFFFFFFFFFFFFFE := by decide +kernel
/-- Source: R184, the shift amount is rs2[5:0], and 64 shifts by 0. -/
theorem test_shl_64 : gr (after (.shl 1 3 1 5) (issue (inM 3) 1 runner (aw 0x06 3 1 5 0 0))) 1 3 = 5 := by decide +kernel
/-- Source: R184, an arithmetic shift of -1 keeps -1. -/
theorem test_sra : gr (after (.sra 1 3 4 1) (issue (inM 3) 1 runner (aw 0x08 3 4 1 0 0))) 1 3 = 0xFFFFFFFFFFFFFFFF := by decide +kernel
/-- Source: R184, -1 is less than 5 as a signed number and not as an unsigned one. -/
theorem test_slt : gr (after (.slt 1 3 4 1) (issue (inM 3) 1 runner (aw 0x0A 3 4 1 0 0))) 1 3 = 1 ∧
    gr (after (.sltu 1 3 4 1) (issue (inM 3) 1 runner (aw 0x0B 3 4 1 0 0))) 1 3 = 0 := by decide +kernel
/-- Source: R185, R171: a JAL at 0 with rd = 3 leaves 8 there. -/
theorem test_jal_link : gr (after (.jal 1 3 16) (issue (inM 3) 1 runner (aw 0x21 3 0 0 0 16))) 1 3 = 8 := by decide +kernel
end Sys2Proof.Tests
end

section
/-! PROOFS of the statements on the scope of the model: the step, reset, storage, power, and register accesses. -/
namespace Sys2Proof.Machine
open Sys2Proof Sys2Proof.Safety

/-! ### The queue (R14, logs 1 and 2) -/

theorem step_cons {s : State} {c : Instr} {rest : List Instr} (h : s.pending = c :: rest) :
    step s = exec c { s with pending := rest } := by
  simp only [step, h]

theorem step_nil {s : State} (h : s.pending = []) : step s = .next s := by
  simp only [step, h]

/-- A command that is not due changes nothing (log 1). -/
theorem next_idle {c : Bool} {s t : State} (h : c = false) : act c s t = .next s := by simp [act, h]

/-- No word spells a command. -/
theorem withFetchWord_eq (s : State) (nbits w : Nat) : s.withFetchWord nbits w = s := rfl

/-- Settles O1: the three equations of the step. -/
theorem queueStep : Obligations.QueueStep := fun _ _ _ nbits w => ⟨step_cons, step_nil, withFetchWord_eq _ nbits w⟩

/-! ### Reset (R12, R85) -/

/-- Where nothing was written a byte map reads zero. -/
theorem rdBytes_nil (a n : Nat) : rdBytes [] a n = List.replicate n 0 := by
  induction n generalizing a with
  | zero => rfl
  | succ n ih => rw [rdBytes, ih, List.replicate_succ]; rfl

/-- After reset every field reads its Reset column, an RSM field its factory value. -/
theorem getF_reset (f : Fld) : getF State.reset f = f.dflt % 2 ^ f.w := by
  unfold getF; split <;> rfl

theorem gr_reset (t r : Nat) : gr State.reset t r = 0 := by
  unfold gr; split <;> rfl

theorem boundOf_reset {n : Nat} (h : n ≠ adminCtx State.reset) : boundOf State.reset n = false := by
  have hb : (bindOf State.reset n).bound = false := rfl
  simp [boundOf, hb, h]

theorem dramRd_reset (a n : Nat) : dramRd State.reset a n = List.replicate n 0 := by
  unfold dramRd
  split
  · rfl
  · exact rdBytes_nil a n

/-- No scratchpad step is granted after reset. -/
theorem spRd_reset (a n : Nat) : spRd State.reset a n = List.replicate n 0 := by
  unfold spRd
  split
  · exact rdBytes_nil a n
  · rfl

/-- Past the manufacturing area the image store is erased. -/
theorem storeByte_reset {a : Nat} (h : 2 ^ 20 ≤ a) : storeByte State.reset a = 0xFF := by
  unfold storeByte
  rw [if_neg (by omega)]
  rfl

/-- Settles O3: each part of the reset state by its own lemma; the named registers by `getF_reset`. -/
theorem resetValues : Obligations.ResetValues := fun f n a =>
  ⟨getF_reset _, getF_reset _, getF_reset _, getF_reset _, getF_reset _, getF_reset _, getF_reset _, getF_reset _, getF_reset _,
    getF_reset f, rfl, gr_reset n, boundOf_reset, dramRd_reset a n, spRd_reset a n, storeByte_reset, rfl, wf_memReset⟩

/-! ### Memories hold what was stored (R248, R264, R267) -/

/-- Bytes outside the stored range read as before. -/
theorem rdBytes_wrBytes_other (m : NMap Byte) {a c n : Nat} {b : List Byte} (h : c + n ≤ a ∨ a + b.length ≤ c) :
    rdBytes (wrBytes m a b) c n = rdBytes m c n := by
  induction n generalizing c with
  | zero => rfl
  | succ n ih =>
    have hc : mget 0 (wrBytes m a b) c = mget 0 m c := by
      rcases h with h | h
      · exact mget_wrBytes_below m a c b (by omega)
      · exact mget_wrBytes_above m a c b h
    rw [rdBytes, rdBytes, hc, ih (by omega)]

/-- A filter by key hides the keys it rejects and leaves the others. -/
theorem mget_filter_key {α : Type} (d : α) (m : NMap α) (p : Nat → Bool) (i : Nat) :
    mget d (m.filter fun e => p e.1) i = if p i then mget d m i else d := by
  induction m with
  | nil => simp [mget]
  | cons e t ih =>
    obtain ⟨k, v⟩ := e
    rw [List.filter_cons]
    by_cases hi : i = k
    · subst hi
      cases hp : p i <;> simp_all [mget]
    · cases hp : p k <;> simp [mget, hi, ih]

theorem mget_clrBytes (m : NMap Byte) (a n i : Nat) :
    mget 0 (clrBytes m a n) i = if a ≤ i ∧ i < a + n then 0 else mget 0 m i := by
  rw [clrBytes, mget_filter_key 0 m fun k => !(decide (a ≤ k) && decide (k < a + n))]
  by_cases h : a ≤ i ∧ i < a + n <;> simp [h]

theorem dramRd_below {s : State} {a n : Nat} (h : a < aHelm) : dramRd s a n = rdBytes s.mem.dram a n :=
  if_neg (by omega)

/-- The helm's range and past the end of DRAM read zero. -/
theorem dramRd_helm {s : State} {a n : Nat} (h : aHelm ≤ a) : dramRd s a n = List.replicate n 0 := if_pos h

theorem dramWr_helm {s : State} {a : Nat} (b : List Byte) (h : aHelm ≤ a) : dramWr s a b = s := if_pos h

theorem dramWr_dram {s : State} {a : Nat} (b : List Byte) (h : a < aHelm) :
    (dramWr s a b).mem.dram = wrBytes s.mem.dram a b := by
  unfold dramWr; rw [if_neg (by omega)]

theorem dramRd_dramWr_same {s : State} {a : Nat} (b : List Byte) (h : a < aHelm) : dramRd (dramWr s a b) a b.length = b := by
  rw [dramRd_below h, dramWr_dram b h, rdBytes_wrBytes]

theorem dramRd_dramWr_other (s : State) {a c n : Nat} {b : List Byte} (h : c + n ≤ a ∨ a + b.length ≤ c) :
    dramRd (dramWr s a b) c n = dramRd s c n := by
  rcases Nat.lt_or_ge a aHelm with ha | ha
  · rcases Nat.lt_or_ge c aHelm with hc | hc
    · rw [dramRd_below hc, dramRd_below hc, dramWr_dram b ha, rdBytes_wrBytes_other _ h]
    · rw [dramRd_helm hc, dramRd_helm hc]
  · rw [dramWr_helm b ha]

/-- The allocation clear zeroes its range and nothing else. -/
theorem dramRd_dramClear (s : State) (a n c : Nat) :
    dramRd (dramClear s a n) c 1 = if a ≤ c ∧ c < a + n then [0] else dramRd s c 1 := by
  rcases Nat.lt_or_ge c aHelm with hc | hc
  · rw [dramRd_below hc, dramRd_below hc]
    show [mget 0 (clrBytes s.mem.dram a n) c] = _
    rw [mget_clrBytes]
    split <;> rfl
  · rw [dramRd_helm hc, dramRd_helm hc]
    exact (ite_self _).symm

theorem spRd_unmapped {s : State} {a n : Nat} (h : spMapped s a = false) : spRd s a n = List.replicate n 0 := by
  simp [spRd, h]

theorem spRd_mapped {s : State} {a n : Nat} (h : spMapped s a = true) : spRd s a n = rdBytes s.mem.scratch a n := by
  simp [spRd, h]

theorem spWr_unmapped {s : State} {a : Nat} (b : List Byte) (h : spMapped s a = false) : spWr s a b = s := by
  simp [spWr, h]

theorem spWr_scratch {s : State} {a : Nat} (b : List Byte) (h : spMapped s a = true) :
    (spWr s a b).mem.scratch = wrBytes s.mem.scratch a b := by
  simp [spWr, h]

/-- A scratchpad store grants no step and takes none. -/
@[simp] theorem spMapped_spWr (s : State) (a c : Nat) (b : List Byte) : spMapped (spWr s a b) c = spMapped s c := by
  unfold spWr; split <;> rfl

theorem spRd_spWr_same {s : State} {a : Nat} (b : List Byte) (h : spMapped s a = true) : spRd (spWr s a b) a b.length = b := by
  rw [spRd_mapped (by simpa using h), spWr_scratch b h, rdBytes_wrBytes]

theorem spRd_spWr_other (s : State) {a c n : Nat} {b : List Byte} (h : c + n ≤ a ∨ a + b.length ≤ c) :
    spRd (spWr s a b) c n = spRd s c n := by
  cases ha : spMapped s a with
  | false => rw [spWr_unmapped b ha]
  | true =>
    cases hc : spMapped s c with
    | false => rw [spRd_unmapped hc, spRd_unmapped (by simpa using hc)]
    | true => rw [spRd_mapped hc, spRd_mapped (by simpa using hc), spWr_scratch b ha, rdBytes_wrBytes_other _ h]

/-- Settles O4: read after write and frame of fields, DRAM and scratchpads, by the lemma of each operation. -/
theorem storageLaws : Obligations.StorageLaws := fun s f g v a c n b =>
  ⟨getF_setF_same s f v,
    fun h => getF_setF_other s v (by rwa [BEq.comm, BEq.comm (a := g.ret)]),
    setF_mem s f v,
    dramRd_dramWr_same b,
    dramRd_dramWr_other s,
    fun h => ⟨dramWr_helm b h, dramRd_helm h⟩,
    dramRd_dramClear s a n c,
    spRd_spWr_same b,
    fun h => ⟨spWr_unmapped b h, spRd_unmapped h⟩,
    spRd_spWr_other s,
    fun h => ⟨wf_dramWr a b h, wf_dramClear a n h, wf_spWr a b h⟩⟩

/-! ### Every command gives a next state (R9, log 1)

Each row is an `act`, a `.next`, or one of the shared row forms below; the others choose between such answers by what they find. -/

/-- The command gives a next state. -/
def Completes (r : Res) : Prop := ∃ u, r = .next u

@[simp] theorem completes_next (s : State) : Completes (.next s) := ⟨s, rfl⟩

@[simp] theorem completes_act (c : Bool) (s t : State) : Completes (act c s t) := ⟨_, rfl⟩

theorem completes_ite {c : Prop} [Decidable c] {a b : Res} (ha : Completes a) (hb : Completes b) :
    Completes (if c then a else b) := by
  split <;> assumption

@[simp] theorem completes_almRow (k : Nat) (s : State) (f : Nat → State → State) : Completes (almRow k s f) := by
  unfold almRow; split <;> simp

@[simp] theorem completes_adminRow (o : Nat) (sel : HelmReq → Bool) (modes : List Nat) (field : State → HelmReq → Option Nat)
    (eff : HelmReq → State → State) (s : State) : Completes (adminRow o sel modes field eff s) := by
  unfold adminRow; split <;> simp

@[simp] theorem completes_adminBufRow (o : Nat) (pb : ParamBuf) (sel : HelmReq → Bool) (modes : List Nat)
    (field : State → HelmReq → Option Nat) (eff : HelmReq → State → State) (s : State) :
    Completes (adminBufRow o pb sel modes field eff s) := by
  unfold adminBufRow; exact completes_adminRow ..

@[simp] theorem completes_keyRow (sel : Nat → Bool) (pb : ParamBuf) (partner : Nat) (s : State) :
    Completes (keyRow sel pb partner s) := by
  refine completes_ite (completes_next _) ?_
  split
  · exact completes_next _
  · exact completes_ite (completes_act ..) (completes_ite (completes_next _) (completes_adminBufRow ..))

@[simp] theorem completes_shapeRow (sel : Nat → Bool) (pb : ParamBuf) (s : State) : Completes (shapeRow sel pb s) := by
  unfold shapeRow; exact completes_adminBufRow ..

@[simp] theorem completes_dataRow (o c : Nat) (run : State → Option State) (s : State) : Completes (dataRow o c run s) := by
  unfold dataRow
  dsimp only
  split
  · exact completes_next _
  · split <;> simp only [completes_next, completes_act]

@[simp] theorem completes_swage (ch w : Nat) (s : State) (eff : Nat → Strike → Script → State) :
    Completes (swage ch w s eff) := by
  unfold swage; split <;> simp

@[simp] theorem completes_svcRow (ty : Nat) (s : State) (eff : Frame → State → State) : Completes (svcRow ty s eff) := by
  unfold svcRow; split <;> simp

theorem completes_helmRequestService (s : State) : Completes (execHelmRequestService s) := by
  delta execHelmRequestService; split <;> simp

theorem completes_settingsRestore (badA badB fault : Bool) (kat seals : List Nat) (el : Elapse) (s : State) :
    Completes (execSettingsRestore badA badB fault kat seals el s) :=
  completes_ite (completes_next _) (completes_ite (completes_next _) (completes_next _))

theorem completes_chrTick (hi lo : Nat) (el : Elapse) (s : State) : Completes (execChrTick hi lo el s) :=
  completes_ite (completes_next _) <| completes_ite (completes_next _) <| completes_ite (completes_next _) (completes_next _)

theorem completes_cascadePartEnd (c pos off cls detail : Nat) (offset : Option Nat) (result : Nat) (s : State) :
    Completes (execCascadePartEnd c pos off cls detail offset result s) := by
  unfold execCascadePartEnd
  split
  · split <;> simp only [completes_next, completes_act]
  · exact completes_act ..

/-- No command ends the machine. An arm that `split`s answers by what it finds in the state; every arm left to the end is one
`act` or one `.next`. -/
theorem exec_completes (c : Instr) (s : State) : Completes (exec c s) := by
  cases c with
  | watch | snapshot | lodestar | scrub | patrol | swap | post => exact completes_almRow ..
  | contextUnbind | setPowerRun | setPowerBanked | setModeRun | setModeService | setModeSafe | setModeRestart | setTime | swapRole
  | format | settingsWipe | logClear =>
    simp only [exec, execContextUnbind, execSetPowerRun, execSetPowerBanked, execSetModeRun, execSetModeService, execSetModeSafe,
      execSetModeRestart, execSetTime, execSwapRole, execFormat, execSettingsWipe, execLogClear, ↓completes_adminRow]
  | contextBind | almanacSet | attest | quotaSet | enroll =>
    simp only [exec, execContextBind, execAlmanacSet, execAttest, execQuotaSet, execEnroll, ↓completes_adminBufRow]
  | keyLoadLoad | keyLoadRetire | keyLoadErase =>
    simp only [exec, execKeyLoadLoad, execKeyLoadRetire, execKeyLoadErase, ↓completes_keyRow]
  | shapeChangeReshape | shapeChangeAdmit | shapeChangeRelease | shapeChangeFail | shapeChangeReform =>
    simp only [exec, execShapeChangeReshape, execShapeChangeAdmit, execShapeChangeRelease, execShapeChangeFail,
      execShapeChangeReform, ↓completes_shapeRow]
  | read | write | writeZeroes | trim | verify | compare | compareAndWrite | copy | healthRead =>
    simp only [exec, execRead, execWrite, execWriteZeroes, execTrim, execVerify, execCompare, execCompareAndWrite, execCopy,
      execHealthRead, ↓completes_dataRow]
  | swageEnd | swageCmd | swageAddr | swageDout | swageDin | swageWaitrdy | swageStatus | swageTest | swageBranch | swageCall
  | swageRet | swageTimer =>
    simp only [exec, execSwageEnd, execSwageCmd, execSwageAddr, execSwageDout, execSwageDin, execSwageWaitrdy, execSwageStatus,
      execSwageTest, execSwageBranch, execSwageCall, execSwageRet, execSwageTimer, ↓completes_swage]
  | cmd | regRd | regWr | mbxSend | mbxRecv | mbxAck | imgData | imgEnd =>
    simp only [exec, execCmd, execRegRd, execRegWr, execMbxSend, execMbxRecv, execMbxAck, execImgData, execImgEnd,
      ↓completes_svcRow]
  | helmRequestService => exact completes_helmRequestService s
  | volumeCreate | volumeDelete =>
    simp only [exec, execVolumeCreate, execVolumeDelete]
    split <;> simp only [completes_next, completes_adminRow]
  | quench | quenchReturn | refill | activate | slotGrant | commandCompletion | flush | flushAnswer | bankedEntryDone
  | reshapeHandover | reshapeSwitch | pageRequestTimeout | dmaReadError | dmaCompletionTimeout | logTrigger | mapFill
  | cipherTransferEnd | strikeStart | hardDecode | softDecode | readRetryRow | strikeOutcome | parityRebuild
  | spareAssign | ownershipAcquire | ownershipRetry | takeover | pairCfg | pairLode | pairSalv | pairSwap | registerReadClear
  | cascadeGo | cascadeAbandon | imgQgo | testRunEnd | powerWarningRelease | translationCompletion =>
    simp only [exec, execQuench, execQuenchReturn, execRefill, execActivate, execSlotGrant, execCommandCompletion, execFlush,
      execFlushAnswer, execBankedEntryDone, execReshapeHandover, execReshapeSwitch, execPageRequestTimeout, execDmaReadError,
      execDmaCompletionTimeout, execLogTrigger, execMapFill, execCipherTransferEnd, execStrikeStart, execHardDecode,
      execSoftDecode, execReadRetryRow, execStrikeOutcome, execParityRebuild, execSpareAssign,
      execOwnershipAcquire, execOwnershipRetry, execTakeover, execPairCfg, execPairLode, execPairSalv, execPairSwap,
      execRegisterReadClear, execCascadeGo, execCascadeAbandon, execImgQgo, execTestRunEnd, execPowerWarningRelease,
      execTranslationCompletion]
    split <;> simp only [completes_next, completes_act]
  | settingsRestore => exact completes_settingsRestore ..
  | chrTick => exact completes_chrTick ..
  | cascadePartEnd => exact completes_cascadePartEnd ..
  | safeEntry | volumeDeleteDrained | requestedChangeDrained | helmCommandAnswer | undefinedInstruction | checkpointRootUpdate
  | transferEnd | statusPoll | scriptTimerExpiry | eraseSuspend | eraseResume | descriptorStart | descriptorEnd
  | descriptorTimeout | activationNotice | activatedNotice =>
    simp only [exec, execSafeEntry, execVolumeDeleteDrained, execRequestedChangeDrained, execHelmCommandAnswer,
      execUndefinedInstruction, execCheckpointRootUpdate, execTransferEnd, execStatusPoll, execScriptTimerExpiry,
      execEraseSuspend, execEraseResume, execDescriptorStart, execDescriptorEnd, execDescriptorTimeout, execActivationNotice,
      execActivatedNotice]
    repeat' split
    all_goals simp only [completes_next, completes_act]
  | _ => exact completes_next _

/-- Settles O2: the shared row forms answer a next state, and so does every other arm of `exec`. -/
theorem everyCommandCompletes : Obligations.EveryCommandCompletes := exec_completes

/-! ### A stop of the module: OFF with what a reset keeps (R12, R60, R71, R515) -/

theorem setF_ret_of {s : State} {f : Fld} (h : f.ret = false) (v : Nat) : (setF s f v).ret = s.ret := by
  rw [setF_frame s h]

theorem setF_copyA_of {s : State} {f : Fld} (h : f.ret = false) (v : Nat) : (setF s f v).copyA = s.copyA := by
  rw [setF_frame s h]

theorem setF_copyB_of {s : State} {f : Fld} (h : f.ret = false) (v : Nat) : (setF s f v).copyB = s.copyB := by
  rw [setF_frame s h]

/-- What a stop of the module never touches (R60): the RSM regions, the flash and its journals, the pins and the queue. Of `keep` the
model's count of cuts is left out. -/
def lasting (s : State) : Rsm × CkRoot × NMap (Option Sif) × List (Nat × List Byte) × NMap (List Byte) × Keep × Pins × List Instr :=
  (s.rsm, s.ck, s.sif, s.ring, s.md.flash, { s.keep with cuts := 0 }, s.pins, s.pending)

/-- The settings record with its copies, the image store and its operations. -/
def settled (s : State) : Retained × RsmCopy × RsmCopy × NMap Byte × List QDesc := (s.ret, s.copyA, s.copyB, s.store, s.x.img.queue)

@[simp] theorem lasting_setF (s : State) (f : Fld) (v : Nat) : lasting (setF s f v) = lasting s := by simp [lasting]

theorem settled_setF {s : State} {f : Fld} (h : f.ret = false) (v : Nat) : settled (setF s f v) = settled s := by
  simp [settled, setF_ret_of h, setF_copyA_of h, setF_copyB_of h]

@[simp] theorem lasting_testAbort (s : State) : lasting (testAbort s) = lasting s := by
  unfold testAbort
  split
  · simp [lasting]
  · rfl

@[simp] theorem settled_testAbort (s : State) : settled (testAbort s) = settled s := by
  unfold testAbort
  split
  · simp [settled, setF_ret_of, setF_copyA_of, setF_copyB_of, TST_STAT_RUN, TST_STAT_ABORT]
  · rfl

@[simp] theorem lasting_driversOff (s : State) : lasting (driversOff s) = lasting s := by
  have h := foldl_field lasting _ (fun s n => lasting_setF s (CH_STAT_DRV n) 0) (List.range 32) s
  simpa only [lasting, driversOff] using h

@[simp] theorem settled_driversOff (s : State) : settled (driversOff s) = settled s := by
  have h := foldl_field settled _ (fun s n => settled_setF (s := s) (f := CH_STAT_DRV n) rfl 0) (List.range 32) s
  simpa only [settled, driversOff] using h

@[simp] theorem lasting_releaseOwn (s : State) : lasting (releaseOwn s) = lasting s := by
  have h : lasting (setF (driversOff (testAbort s)) PAIR_STAT_OWN 0) = lasting s := by simp
  simpa only [lasting, releaseOwn, setAux] using h

@[simp] theorem settled_releaseOwn (s : State) : settled (releaseOwn s) = settled s := by
  have h : settled (setF (driversOff (testAbort s)) PAIR_STAT_OWN 0) = settled s := by
    rw [settled_setF rfl, settled_driversOff, settled_testAbort]
  simpa only [settled, releaseOwn, setAux] using h

theorem settled_eq {s u : State} : settled u = settled s ↔
    u.ret = s.ret ∧ u.copyA = s.copyA ∧ u.copyB = s.copyB ∧ u.store = s.store ∧ u.x.img.queue = s.x.img.queue := by
  simp only [settled, Prod.mk.injEq]

/-- Cutting off the image store's operations touches the store alone. -/
@[simp] theorem lasting_cutSectors (s : State) : lasting (cutSectors s) = lasting s := by
  unfold cutSectors
  exact foldl_field lasting _ (fun s _ => by simp only [lasting, storeWr]) _ s

@[simp] theorem cutSectors_ret (s : State) : (cutSectors s).ret = s.ret := by
  unfold cutSectors
  exact foldl_field (·.ret) _ (fun s _ => by simp only [storeWr]) _ s

@[simp] theorem cutSectors_copyA (s : State) : (cutSectors s).copyA = s.copyA := by
  unfold cutSectors
  exact foldl_field (·.copyA) _ (fun s _ => by simp only [storeWr]) _ s

@[simp] theorem cutSectors_copyB (s : State) : (cutSectors s).copyB = s.copyB := by
  unfold cutSectors
  exact foldl_field (·.copyB) _ (fun s _ => by simp only [storeWr]) _ s

/-- With no operation of the image store submitted, none is cut off. -/
theorem cutSectors_idle {s : State} (h : s.x.img.queue = []) : cutSectors s = s := by
  simp [cutSectors, h]

@[simp] theorem lasting_resetCore (s : State) : lasting (resetCore s) = lasting s := by
  rw [← lasting_cutSectors s]; simp only [lasting, resetCore]

/-- The state that a stop meets: with `cut` the copy of KINDLE step 3, or the last commit, is undone (R71, R474). -/
def cutShort (s : State) (cut : Bool) : State :=
  let copying := mode s == mKindle && getF s HELM_KINDLE_STEP = 3
  let s := if !cut then s else if copying then cutCopy s else dropCommit s
  if cut && !copying then { s with ret := rsmRet s } else s

@[simp] theorem cutShort_uncut (s : State) : cutShort s false = s := by simp [cutShort]

theorem toOff_eq {s : State} (h : mode s ≠ mOff) (cause : Fld) (cut : Bool) :
    toOff s cause cut = setF (setF (resetCore (releaseOwn (cutShort s cut))) cause 1) HELM_MODE_CUR mOff := by
  unfold toOff
  rw [if_neg (by simpa using h)]
  rfl

@[simp] theorem lasting_cutCopy (s : State) : lasting (cutCopy s) = lasting s := by
  unfold cutCopy; split
  · simp only [lasting, storeErase]
  · rfl

@[simp] theorem lasting_dropCommit (s : State) : lasting (dropCommit s) = lasting s := by
  unfold dropCommit
  dsimp only
  split
  · simp only [lasting]
  · split <;> simp only [lasting]

theorem cutShort_copying {s : State} (h : (mode s == mKindle && getF s HELM_KINDLE_STEP = 3) = true) :
    cutShort s true = cutCopy s := by
  simp [cutShort, h]

/-- Outside KINDLE step 3 a field whose commit was cut short comes back as it was (R71). -/
theorem cutShort_commit {s : State} (h : (mode s == mKindle && getF s HELM_KINDLE_STEP = 3) = false) :
    cutShort s true = { dropCommit s with ret := rsmRet (dropCommit s) } := by
  simp [cutShort, h]

@[simp] theorem lasting_cutShort (s : State) (cut : Bool) : lasting (cutShort s cut) = lasting s := by
  cases cut with
  | false => rfl
  | true =>
    cases h : (mode s == mKindle && getF s HELM_KINDLE_STEP = 3) with
    | true => rw [cutShort_copying h, lasting_cutCopy]
    | false => rw [cutShort_commit h]; rw [← lasting_dropCommit s]; simp only [lasting]

@[simp] theorem lasting_toOff {s : State} (h : mode s ≠ mOff) (cause : Fld) (cut : Bool) : lasting (toOff s cause cut) = lasting s := by
  rw [toOff_eq h]; simp

/-- `u` is OFF, as after reset but for what outlives one: nothing runs and nothing is held (R12, R60). -/
structure Emptied (s u : State) : Prop where
  off : mode u = mOff
  thr : u.thr = []
  ctx : u.ctx = []
  mem : u.mem = Mem.reset
  slices : u.slices = []
  buf : u.buf = BufMgr.reset
  lasting : lasting u = lasting s

theorem emptied_toOff {s : State} (h : mode s ≠ mOff) (cause : Fld) (cut : Bool) : Emptied s (toOff s cause cut) where
  off := by rw [toOff_eq h]; exact getF_setF_same ..
  thr := by rw [toOff_eq h]; simp [resetCore, State.reset]
  ctx := by rw [toOff_eq h]; simp [resetCore, State.reset]
  mem := by rw [toOff_eq h]; simp [resetCore, State.reset]
  slices := by rw [toOff_eq h]; simp [resetCore, State.reset]
  buf := by rw [toOff_eq h]; simp [resetCore, State.reset]
  lasting := lasting_toOff h cause cut

/-- A one-bit cause other than the mode is recorded. -/
theorem getF_toOff {s : State} (h : mode s ≠ mOff) {cause : Fld} (cut : Bool) (hw : cause.w = 1)
    (hk : (cause.key == HELM_MODE_CUR.key && cause.ret == HELM_MODE_CUR.ret) = false) : getF (toOff s cause cut) cause = 1 := by
  rw [toOff_eq h, getF_setF_other _ _ hk, getF_setF_same, hw]
  rfl

/-- A volatile cause leaves the settings record as the stop met it. -/
theorem toOff_ret {s : State} (h : mode s ≠ mOff) {cause : Fld} (cut : Bool) (hr : cause.ret = false) :
    (toOff s cause cut).ret = (cutShort s cut).ret := by
  obtain ⟨hret, -⟩ := settled_eq.1 (settled_releaseOwn (cutShort s cut))
  rw [toOff_eq h, setF_ret_of rfl, setF_ret_of hr]
  simp only [resetCore, cutSectors_ret, hret]

theorem toOff_copies {s : State} (h : mode s ≠ mOff) {cause : Fld} (hr : cause.ret = false) :
    (toOff s cause false).copyA = s.copyA ∧ (toOff s cause false).copyB = s.copyB := by
  obtain ⟨-, hA, hB, -⟩ := settled_eq.1 (settled_releaseOwn s)
  rw [toOff_eq h, cutShort_uncut, setF_copyA_of rfl, setF_copyA_of hr, setF_copyB_of rfl, setF_copyB_of hr]
  simp only [resetCore, cutSectors_copyA, cutSectors_copyB, hA, hB, and_self]

/-- The image store is as it was where no operation of it was submitted. -/
theorem toOff_store {s : State} (h : mode s ≠ mOff) (cause : Fld) (hq : s.x.img.queue = []) :
    (toOff s cause false).store = s.store := by
  obtain ⟨-, -, -, hs, hq'⟩ := settled_eq.1 (settled_releaseOwn s)
  rw [toOff_eq h, cutShort_uncut, setF_store, setF_store]
  simp only [resetCore, cutSectors_idle (hq'.trans hq), hs]

/-! ### What the freeing of threads leaves alone (R159, R168, R200)

Freeing what a thread holds touches volatile registers, memories, buffers and threads, never the pins, what start-up has
established, or the settings record in force. -/

/-- The pins, what start-up has established, and the settings record in force. -/
def startOf (s : State) : Pins × Boot × Retained := (s.pins, s.boot, s.ret)

theorem startOf_eq {s u : State} : startOf u = startOf s ↔ u.pins = s.pins ∧ u.boot = s.boot ∧ u.ret = s.ret := by
  simp only [startOf, Prod.mk.injEq]

section
variable (s : State)

@[simp] theorem startOf_with_mem (m : Mem) : startOf { s with mem := m } = startOf s := rfl
@[simp] theorem startOf_with_buf (b : BufMgr) : startOf { s with buf := b } = startOf s := rfl
@[simp] theorem startOf_with_map (m : MapCtl) : startOf { s with map := m } = startOf s := rfl
@[simp] theorem startOf_with_md (m : Media) : startOf { s with md := m } = startOf s := rfl
@[simp] theorem startOf_with_ch (c : Chans) : startOf { s with ch := c } = startOf s := rfl
@[simp] theorem startOf_with_d (d : Blocks) : startOf { s with d := d } = startOf s := rfl
@[simp] theorem startOf_with_x (x : Aux) : startOf { s with x := x } = startOf s := rfl
@[simp] theorem startOf_with_d_x (d : Blocks) (x : Aux) : startOf { s with d := d, x := x } = startOf s := rfl
@[simp] theorem startOf_with_clk_d_rsm (c : Clk) (d : Blocks) (r : Rsm) :
    startOf { s with clk := c, d := d, rsm := r } = startOf s := rfl
@[simp] theorem startOf_with_link (l : NMap Port) : startOf { s with link := l } = startOf s := rfl
@[simp] theorem startOf_with_trigs (l : List Trig) : startOf { s with trigs := l } = startOf s := rfl

theorem startOf_setF {f : Fld} (h : f.ret = false) (v : Nat) : startOf (setF s f v) = startOf s := by
  simp [startOf, setF_ret_of h]

theorem startOf_addSat {f : Fld} (h : f.ret = false) (v : Nat) : startOf (addSat s f v) = startOf s := startOf_setF s h _

@[simp] theorem startOf_setTh (t : Nat) (x : Thread) : startOf (setTh s t x) = startOf s := rfl
@[simp] theorem startOf_modTh (t : Nat) (f : Thread → Thread) : startOf (modTh s t f) = startOf s := rfl
@[simp] theorem startOf_setAux (x : Aux) : startOf (setAux s x) = startOf s := rfl
@[simp] theorem startOf_logEv (f e : Nat) (d : List Nat) : startOf (logEv s f e d) = startOf s := rfl
@[simp] theorem startOf_setTen (x : Tenancy) : startOf (setTen s x) = startOf s := rfl
@[simp] theorem startOf_setSlice (q : Nat) (x : Slice) : startOf (setSlice s q x) = startOf s := rfl
@[simp] theorem startOf_setBuf (h : Nat) (b : Option Buf) : startOf (setBuf s h b) = startOf s := rfl
@[simp] theorem startOf_answerHelm (c : Nat) (e : Ending) (o : List Byte) : startOf (answerHelm s c e o) = startOf s := rfl
@[simp] theorem startOf_event (v : Nat) : startOf (event s v) = startOf s := by simp [startOf]
@[simp] theorem startOf_toReady (t : Nat) : startOf (toReady s t) = startOf s := by simp [startOf]
@[simp] theorem startOf_releaseWith (t r : Nat) (v : W64) : startOf (releaseWith s t r v) = startOf s := by simp [startOf]
@[simp] theorem startOf_errInc (i n : Nat) : startOf (errInc s i n) = startOf s := rfl

@[simp] theorem startOf_ite {c : Prop} [Decidable c] (a b : State) :
    startOf (if c then a else b) = if c then startOf a else startOf b := apply_ite startOf c a b

/-! DRAM and the map's write-through queues -/

@[simp] theorem startOf_dramWr (a : Nat) (b : List Byte) : startOf (dramWr s a b) = startOf s := by simp [dramWr]
@[simp] theorem startOf_dramClear (a n : Nat) : startOf (dramClear s a n) = startOf s := by simp [dramClear]

@[simp] theorem startOf_ueLog (l k : Nat) : startOf (ueLog s l k) = startOf s := by
  unfold ueLog
  iterate 5 rw [startOf_setF _ rfl]

@[simp] theorem startOf_dramUe (l k : Nat) : startOf (dramUe s l k) = startOf s := by
  simp [dramUe, startOf_addSat _ (f := DRM_ECNT_UNCORR _) rfl]

@[simp] theorem startOf_dramCorr (l : Nat) : startOf (dramCorr s l) = startOf s := by
  have h : startOf (errInc (addSat s (DRM_ECNT_CORR (l % 8)) 1) 5 1) = startOf s := by
    rw [startOf_errInc, startOf_addSat _ rfl]
  unfold dramCorr
  dsimp only
  split
  · split <;> simp [h]
  · split
    · split <;> simp [h]
    · rw [startOf_setF _ rfl, h]

@[simp] theorem startOf_bitmapErr (l : Nat) : startOf (bitmapErr s l) = startOf s := by
  simp [bitmapErr, startOf_addSat _ (f := DRM_ECNT_BMERR _) rfl]

@[simp] theorem startOf_dramMerge (a n : Nat) (e : MErr) : startOf (dramMerge s a n e) = startOf s := by
  unfold dramMerge
  split
  · rfl
  · dsimp only
    split
    · simp
    · cases e <;> simp

@[simp] theorem startOf_wtDrain (q : Nat) (e : MErr) : startOf (wtDrain s q e) = startOf s := by
  unfold wtDrain; split <;> simp

@[simp] theorem startOf_mapWr (a : Nat) (b : List Byte) : startOf (mapWr s a b) = startOf s := by
  unfold mapWr
  split
  · rfl
  · simp

/-! Overlay space -/

@[simp] theorem startOf_setBit (b i : Nat) (v : Bool) : startOf (setBit s b i v) = startOf s := startOf_mapWr ..

@[simp] theorem startOf_overUpdate : startOf (overUpdate s) = startOf s := by
  simp [overUpdate, startOf_setF _ (f := MAP_OVL_OVER) rfl]

@[simp] theorem startOf_freeChunk (i : Nat) : startOf (freeChunk s i) = startOf s := by
  rw [freeChunk, startOf_setF _ rfl, startOf_setBit]

@[simp] theorem startOf_freeGroup (i : Nat) : startOf (freeGroup s i) = startOf s := by
  rw [freeGroup, startOf_setF _ rfl, startOf_setBit, startOf_setBit]

@[simp] theorem startOf_releaseOverlay (j : Nat) : startOf (releaseOverlay s j) = startOf s := by
  unfold releaseOverlay
  dsimp only
  rw [startOf_with_map, foldl_field startOf _ (fun s i => startOf_freeGroup s i),
    foldl_field startOf _ (fun s i => startOf_freeChunk s i)]

/-! Buffers -/

@[simp] theorem startOf_clearBuf (b : Buf) : startOf (clearBuf s b) = startOf s := by
  unfold clearBuf; split <;> simp

@[simp] theorem startOf_giveBuf (t p : Nat) (wb : Bool) (i : Nat) : startOf (giveBuf s t p wb i).2 = startOf s := by
  simp [giveBuf]

theorem startOf_tryAlloc {t p h : Nat} {wb : Bool} {u : State} (e : tryAlloc s t p wb = some (h, u)) : startOf u = startOf s := by
  have hgive : ∀ (v : State) p wb i, startOf v = startOf s → giveBuf v t p wb i = (h, u) → startOf u = startOf s :=
    fun v p wb i hv hg => by rw [← hv, ← startOf_giveBuf v t p wb i, hg]
  unfold tryAlloc at e
  split at e
  · cases e
  split at e
  · split at e
    · obtain ⟨i, -, hi⟩ := Option.map_eq_some_iff.1 e
      exact hgive _ _ _ _ rfl hi
    · split at e
      · exact hgive _ _ _ _ rfl (Option.some.inj e)
      · obtain ⟨i, -, hi⟩ := Option.map_eq_some_iff.1 e
        refine hgive _ _ _ _ ?_ hi
        rw [startOf_addSat _ rfl, startOf_with_buf]
  · obtain ⟨p', -, hp⟩ := Option.bind_eq_some_iff.1 e
    split at hp
    · cases hp
    · obtain ⟨i, -, hi⟩ := Option.map_eq_some_iff.1 hp
      refine hgive _ _ _ _ ?_ hi
      split
      · rfl
      · exact startOf_addSat _ rfl _

@[simp] theorem startOf_servePass : startOf (servePass s) = startOf s := by
  unfold servePass
  refine foldl_field startOf _ (fun s r => ?_) _ s
  split
  · split
    · rfl
    · dsimp only
      split <;> split <;> simp
  · split
    · rfl
    · next h u e =>
      dsimp only
      split <;> simp [startOf_tryAlloc s e]

@[simp] theorem startOf_serveBufs : startOf (serveBufs s) = startOf s := by
  unfold serveBufs
  exact foldl_field startOf _ (fun s _ => startOf_servePass s) _ s

@[simp] theorem startOf_freeBuf (h : Nat) : startOf (freeBuf s h) = startOf s := by
  unfold freeBuf; split <;> simp

@[simp] theorem startOf_toFlush (h : Nat) : startOf (toFlush s h) = startOf s := by
  unfold toFlush
  split
  · rfl
  · rw [startOf_serveBufs]; rfl

@[simp] theorem startOf_dropBufs (t : Nat) : startOf (dropBufs s t) = startOf s := by
  unfold dropBufs
  refine foldl_field startOf _ (fun s h => ?_) _ s
  split <;> simp

@[simp] theorem startOf_dropReq (t : Nat) : startOf (dropReq s t) = startOf s := by simp [dropReq]

/-! Locks, charges and the thread itself -/

@[simp] theorem startOf_grantLock (i : Nat) : startOf (grantLock s i) = startOf s := by
  unfold grantLock
  split
  · rfl
  · split
    · rfl
    · simp [takeLock]

@[simp] theorem startOf_dropLock (t i : Nat) : startOf (dropLock s t i) = startOf s := by simp [dropLock]

@[simp] theorem startOf_dropLocks (t : Nat) : startOf (dropLocks s t) = startOf s :=
  foldl_field startOf _ (fun s i => startOf_dropLock s t i) _ s

@[simp] theorem startOf_unparkCharge (t : Nat) : startOf (unparkCharge s t) = startOf s := by simp [unparkCharge, modCnt]

@[simp] theorem startOf_withdraw (t : Nat) : startOf (withdraw s t) = startOf s := by
  have h : startOf (unparkCharge (dropReq s t) t) = startOf s := by simp
  simpa only [withdraw, startOf] using h

@[simp] theorem startOf_orphanStrikes (t : Nat) : startOf (orphanStrikes s t) = startOf s := by
  unfold orphanStrikes
  rw [foldl_field startOf _ (fun s h => by split <;> simp)]
  simp

@[simp] theorem startOf_releaseAll (t : Nat) : startOf (releaseAll s t) = startOf s := by
  unfold releaseAll
  dsimp only
  rw [startOf_serveBufs, startOf_dropBufs]
  split <;> simp

@[simp] theorem startOf_cleanUp (t : Nat) : startOf (cleanUp s t) = startOf s := by simp [cleanUp]

@[simp] theorem startOf_stopInternals : startOf (stopInternals s) = startOf s := by
  unfold stopInternals
  exact foldl_field startOf _ (fun s t => by simp) _ s

end

/-! ### KINDLE begins, or SAFE with no image (R60, R64, R78) -/

/-- What a start shows to the outside: the pins, what start-up has established, and the first cause of SAFE. -/
def faceOf (s : State) : Pins × Boot × Nat := (s.pins, s.boot, getF s HELM_SAFE_CAUSE_CAUSE)

theorem faceOf_of_startOf {s u : State} (h : startOf u = startOf s) : faceOf u = faceOf s := by
  obtain ⟨hp, hb, hr⟩ := startOf_eq.1 h
  simp [faceOf, hp, hb, getF, HELM_SAFE_CAUSE_CAUSE, hr]

theorem faceOf_setF (s : State) {f : Fld}
    (h : (HELM_SAFE_CAUSE_CAUSE.key == f.key && HELM_SAFE_CAUSE_CAUSE.ret == f.ret) = false) (v : Nat) :
    faceOf (setF s f v) = faceOf s := by
  simp [faceOf, getF_setF_other s v h]

section
variable (s : State)

@[simp] theorem startOf_testAbort : startOf (testAbort s) = startOf s := by
  unfold testAbort
  split
  · dsimp only
    rw [startOf_logEv, startOf_setF _ rfl, startOf_setF _ rfl, startOf_with_x]
  · rfl

@[simp] theorem startOf_driversOff : startOf (driversOff s) = startOf s := by
  unfold driversOff
  rw [startOf_with_ch, foldl_field startOf _ fun s n => startOf_setF s (f := CH_STAT_DRV n) rfl 0]

@[simp] theorem startOf_releaseOwn : startOf (releaseOwn s) = startOf s := by
  unfold releaseOwn
  rw [startOf_setAux, startOf_setF _ rfl, startOf_driversOff, startOf_testAbort]

@[simp] theorem startOf_showWidths (narrow : Bool) : startOf (showWidths s narrow) = startOf s := by
  unfold showWidths
  refine foldl_field startOf _ (fun s p => ?_) _ s
  split
  · exact startOf_setF s rfl _
  · rfl

@[simp] theorem startOf_powerUp : startOf (powerUp s) = startOf s := by
  unfold powerUp
  split
  · rw [startOf_showWidths, startOf_setF _ rfl]
  · rfl

@[simp] theorem startOf_toMode (m : Nat) : startOf (toMode s m) = startOf s := by
  unfold toMode
  extract_lets a b
  rw [startOf_event, startOf_logEv, startOf_testAbort, startOf_with_d, startOf_setF _ rfl, startOf_setF _ rfl, startOf_setF _ rfl]

theorem faceOf_releaseTrigs : faceOf (releaseTrigs s) = faceOf s := by
  unfold releaseTrigs
  split
  · extract_lets n t
    split
    · rfl
    · exact faceOf_setF t (f := LOG_STAT_LOST) (by decide) _
  · rfl

theorem faceOf_saveNow : faceOf (saveNow s) = faceOf s := by
  simp [faceOf, saveNow, getF]

/-! The mode -/

@[simp] theorem mode_logEv (f e : Nat) (d : List Nat) : mode (logEv s f e d) = mode s := rfl
@[simp] theorem mode_event (v : Nat) : mode (event s v) = mode s := getF_event ..
@[simp] theorem mode_answerHelm (c : Nat) (e : Ending) (o : List Byte) : mode (answerHelm s c e o) = mode s := rfl
@[simp] theorem mode_with_d (d : Blocks) : mode { s with d := d } = mode s := rfl
@[simp] theorem mode_with_x (x : Aux) : mode { s with x := x } = mode s := rfl

/-- A field of another key or store leaves the mode alone. -/
theorem mode_setF {f : Fld} (h : (HELM_MODE_CUR.key == f.key && HELM_MODE_CUR.ret == f.ret) = false) (v : Nat) :
    mode (setF s f v) = mode s := getF_setF_other s v h

@[simp] theorem mode_testAbort : mode (testAbort s) = mode s := by
  unfold testAbort
  split
  · dsimp only
    rw [mode_logEv, mode_setF _ (by decide), mode_setF _ (by decide), mode_with_x]
  · rfl

/-- The mode changes to the one named. -/
theorem mode_toMode {m : Nat} (h : m < 16) : mode (toMode s m) = m := by
  unfold toMode
  dsimp only
  rw [mode_event, mode_logEv, mode_testAbort, mode_with_d, mode_setF _ (by decide)]
  exact (getF_setF_same ..).trans (Nat.mod_eq_of_lt h)

/-- SAFE entered where nothing is flushed: the mode, and what it leaves alone (R78, R80). -/
theorem mode_enterSafe (src : Nat) : mode (enterSafe s src) = mSafe := by
  unfold enterSafe
  extract_lets
  rw [mode_answerHelm, mode_logEv]
  exact mode_toMode _ (by decide)

theorem faceOf_enterSafe {s : State} (h : inMode s [mRun, mService] = false) (src : Nat) : faceOf (enterSafe s src) = faceOf s := by
  unfold enterSafe
  extract_lets _ s1 s2 s3 _ _ _ s4 _ _ s5 s6 s7
  have h1 : s1 = s := if_neg (by simp [h])
  have h2 : faceOf s2 = faceOf s := by
    rw [← h1]
    exact (apply_ite faceOf ..).trans (by rw [setC, faceOf_setF _ (by decide), ite_self])
  have h3 : faceOf s3 = faceOf s2 := by
    rw [← faceOf_releaseTrigs s2]
    exact faceOf_of_startOf (by simp [s3])
  have h5 : faceOf s5 = faceOf s3 :=
    faceOf_of_startOf ((startOf_setAux ..).trans (startOf_with_clk_d_rsm ..))
  have h7 : faceOf s7 = faceOf s5 := by
    simp only [s7, s6]
    iterate 6 rw [faceOf_setF _ (by decide)]
  have h8 : faceOf (toMode (saveNow s7) mSafe) = faceOf s7 := by
    rw [← faceOf_saveNow s7]
    exact faceOf_of_startOf (startOf_toMode ..)
  calc faceOf (answerHelm (logEv (toMode (saveNow s7) mSafe) 0 1 []) src okEnd [])
      = faceOf (toMode (saveNow s7) mSafe) := rfl
    _ = faceOf s := by rw [h8, h7, h5, h3, h2]

end

/-! ### POWER_ON (R60, R63, R64, R473, R518) -/

section
variable (s : State)

@[simp] theorem startOf_protectRange (k n : Nat) : startOf (protectRange s k n) = startOf s := by
  unfold protectRange
  exact foldl_field startOf _ (fun s _ => startOf_setF s rfl _) _ s

@[simp] theorem startOf_romProtect : startOf (romProtect s) = startOf s := by
  unfold romProtect
  dsimp only
  split <;> simp

/-- The write-protect bits lie above every field of the families before IMG_WP. -/
theorem getF_protectRange (k n : Nat) {f : Fld} (h : f.key < 0x010F2000 * 64) : getF (protectRange s k n) f = getF s f := by
  unfold protectRange
  refine foldl_field (getF · f) _ (fun s i => getF_setF_other s _ ?_) _ s
  have hk : f.key ≠ (IMG_WP_WP (k / 64 + i)).key := by
    show f.key ≠ (0x010F2000 + 8 * (k / 64 + i)) * 64 + 0
    omega
  simp [hk]

theorem getF_romProtect {f : Fld} (h : f.key < 0x010F2000 * 64) : getF (romProtect s) f = getF s f := by
  unfold romProtect
  dsimp only
  split <;> simp only [getF_protectRange _ _ _ h]

theorem mode_romProtect : mode (romProtect s) = mode s := getF_romProtect s (by decide)

theorem mode_recordCause (c : Nat) : mode (recordCause s c) = mode s := by
  unfold recordCause
  split
  · exact mode_setF s (by decide) _
  · exact mode_setF s (by decide) _

theorem recordCause_pins (c : Nat) : (recordCause s c).pins = s.pins := by
  unfold recordCause; split <;> simp

theorem recordCause_boot (c : Nat) : (recordCause s c).boot = s.boot := by
  unfold recordCause; split <;> simp

/-- The first cause of SAFE is the one shown (R77). -/
theorem getF_recordCause {s : State} (h : getF s HELM_SAFE_CAUSE_CAUSE = 0) (c : Nat) :
    getF (recordCause s c) HELM_SAFE_CAUSE_CAUSE = c % 256 := by
  unfold recordCause
  rw [if_pos h]
  exact getF_setC_same ..

/-- With no image SAFE is entered from KINDLE with cause NO_IMAGE (R64). -/
theorem noImage_face {s : State} (h : mode s = mKindle) :
    mode (noImage s) = mSafe ∧ (noImage s).pins = s.pins ∧ (noImage s).boot = s.boot ∧
      (getF s HELM_SAFE_CAUSE_CAUSE = 0 → getF (noImage s) HELM_SAFE_CAUSE_CAUSE = 2) := by
  have hm : mode (recordCause (romProtect s) 2) = mKindle := by rw [mode_recordCause, mode_romProtect, h]
  have hf : faceOf (noImage s) = faceOf (recordCause (romProtect s) 2) :=
    faceOf_enterSafe (by simp [inMode, hm, mKindle, mRun, mService]) 9998
  obtain ⟨hp, hb, hc⟩ : _ ∧ _ ∧ _ := by simpa only [faceOf, Prod.mk.injEq] using hf
  obtain ⟨hp', hb', -⟩ := startOf_eq.1 (startOf_romProtect s)
  refine ⟨mode_enterSafe _ _, ?_, ?_, fun h0 => ?_⟩
  · rw [hp, recordCause_pins, hp']
  · rw [hb, recordCause_boot, hb']
  · rw [hc, getF_recordCause ((getF_romProtect s (by decide)).trans h0)]

/-! The image of a slot is loaded -/

theorem loadSlot_pins (a n : Nat) : (loadSlot s a n).pins = s.pins := by
  unfold loadSlot
  extract_lets _ _ _ _ _ s1 s2 s3 s4
  split <;> simp [s4, s3, s2, s1]

/-- An image runs; what start-up has established before stays. -/
theorem loadSlot_boot (a n : Nat) : (loadSlot s a n).boot.image = true ∧ (loadSlot s a n).boot.split = s.boot.split ∧
    (loadSlot s a n).boot.side = s.boot.side ∧ (loadSlot s a n).boot.cas = s.boot.cas ∧ (loadSlot s a n).boot.begun = s.boot.begun := by
  unfold loadSlot
  extract_lets _ _ _ _ b s1 s2 s3 s4
  split <;> simp [s4, s3, s2, s1, b]

/-- The fields that show which image runs (R470, R473). -/
def slotFields : List Fld := [IMG_VER_VERSION, IMG_BOOT_SLOT, IMG_BOOT_OWNPACK, IMG_BOOT_OPFAIL, HELM_KINDLE_SLOT]

theorem getF_loadSlot (a n : Nat) {f : Fld} (h : ∀ g ∈ slotFields, (f.key == g.key && f.ret == g.ret) = false) :
    getF (loadSlot s a n) f = getF s f := by
  simp only [slotFields, List.forall_mem_cons] at h
  obtain ⟨h1, h2, h3, h4, h5, -⟩ := h
  unfold loadSlot
  extract_lets _ _ _ _ _ s1 s2 s3 s4
  have h4 : getF s4 f = getF s f := by
    simp only [s4, s3, s2]
    rw [getF_setF_other _ _ h5, getF_setF_other _ _ h4, getF_setF_other _ _ h3, getF_setF_other _ _ h2, getF_setF_other _ _ h1]
    exact getF_congr f (by simp only [s1]) (by simp only [s1])
  split
  · exact (getF_logEv ..).trans h4
  · exact h4

end

/-- Power is there: VIN and RST_N as POWER_ON gives them and the straps sampled (R63, R518). -/
def strapped (s : State) (vin : Nat) : State :=
  { s with pins := { s.pins with vin := vin, rstN := true }
           boot := { s.boot with split := s.pins.split, side := s.pins.side, cas := s.pins.cas } }

/-- The ROM runs on the settings record that RSM holds (R63, R70). -/
def romRunning (r : State) : State := { r with ret := rsmRet r, boot := { r.boot with begun := true } }

/-- KINDLE steps 1 and 2 before a slot is chosen: the state in which the ROM looks for an image. -/
def romLooking (s : State) : State :=
  loadQuotas (romRunning (setF (setF s HELM_MODE_CUR mKindle) HELM_KINDLE_STEP 2))

/-- The image of a slot runs, and KINDLE goes on with the staged image or with the settings. -/
def romLoaded (s : State) (a n : Nat) : State :=
  if flag (loadSlot s a n) IMG_STAGE_DUE then setF (loadSlot s a n) HELM_KINDLE_STEP 3
  else setF (romProtect (loadSlot s a n)) HELM_KINDLE_STEP 4

theorem romStart_none {s : State} (h : bootSlot (romLooking s) = none) : romStart s = noImage (romLooking s) := by
  unfold romStart
  extract_lets r src v
  have hv : v = romLooking s := by simp only [v, r, src, romLooking, romRunning]
  rw [hv, h]

theorem romStart_some {s : State} {a n : Nat} (h : bootSlot (romLooking s) = some (a, n)) :
    romStart s = romLoaded (romLooking s) a n := by
  unfold romStart
  extract_lets r src v
  have hv : v = romLooking s := by simp only [v, r, src, romLooking, romRunning]
  rw [hv, h]
  simp only [romLoaded]

/-- A volatile field depends on the volatile registers alone. -/
theorem getF_congr_vf {s t : State} {f : Fld} (hr : f.ret = false) (h : t.vf = s.vf) : getF t f = getF s f := by
  simp [getF, hr, h]

section
variable (s : State)

theorem romLooking_vf : (romLooking s).vf = (setF (setF s HELM_MODE_CUR mKindle) HELM_KINDLE_STEP 2).vf := by
  simp only [romLooking, loadQuotas, setTen, romRunning]

theorem romLooking_pins : (romLooking s).pins = s.pins := by
  simp only [romLooking, loadQuotas, setTen, romRunning, setF_pins]

theorem romLooking_boot : (romLooking s).boot = { s.boot with begun := true } := by
  simp only [romLooking, loadQuotas, setTen, romRunning, setF_boot]

theorem mode_romLooking : mode (romLooking s) = mKindle := by
  refine (getF_congr_vf rfl (romLooking_vf s)).trans ?_
  rw [getF_setF_other _ _ (by decide)]
  exact getF_setF_same ..

/-- A volatile field outside MODE and STEP is as it was when the ROM looks for an image. -/
theorem getF_romLooking {f : Fld} (hr : f.ret = false) (h1 : (f.key == HELM_MODE_CUR.key && f.ret == HELM_MODE_CUR.ret) = false)
    (h2 : (f.key == HELM_KINDLE_STEP.key && f.ret == HELM_KINDLE_STEP.ret) = false) : getF (romLooking s) f = getF s f := by
  rw [getF_congr_vf hr (romLooking_vf s), getF_setF_other _ _ h2, getF_setF_other _ _ h1]

/-! With an image loaded KINDLE goes on -/

variable (a n : Nat)

theorem romLoaded_pins : (romLoaded s a n).pins = s.pins := by
  unfold romLoaded
  split
  · rw [setF_pins, loadSlot_pins]
  · rw [setF_pins, (startOf_eq.1 (startOf_romProtect _)).1, loadSlot_pins]

theorem romLoaded_boot : (romLoaded s a n).boot = (loadSlot s a n).boot := by
  unfold romLoaded
  split
  · rw [setF_boot]
  · rw [setF_boot, (startOf_eq.1 (startOf_romProtect _)).2.1]

theorem getF_romLoaded {f : Fld} (hk : f.key < 0x010F2000 * 64)
    (hs : (f.key == HELM_KINDLE_STEP.key && f.ret == HELM_KINDLE_STEP.ret) = false)
    (h : ∀ g ∈ slotFields, (f.key == g.key && f.ret == g.ret) = false) : getF (romLoaded s a n) f = getF s f := by
  unfold romLoaded
  split
  · rw [getF_setF_other _ _ hs, getF_loadSlot _ _ _ h]
  · rw [getF_setF_other _ _ hs, getF_romProtect _ hk, getF_loadSlot _ _ _ h]

/-- A staged image due is copied next (R64, R474). -/
theorem romLoaded_step : getF (romLoaded s a n) HELM_KINDLE_STEP = if getF s IMG_STAGE_DUE = 1 then 3 else 4 := by
  have hd : flag (loadSlot s a n) IMG_STAGE_DUE = decide (getF s IMG_STAGE_DUE = 1) := by
    rw [flag, getF_loadSlot _ _ _ (by decide)]; rfl
  unfold romLoaded
  rw [hd]
  by_cases h : getF s IMG_STAGE_DUE = 1
  · simp only [h, decide_true, if_true]; exact getF_setF_same ..
  · simp only [h, decide_false, if_false, Bool.false_eq_true]; exact getF_setF_same ..

end

/-! Which slot boots depends on the image store and the settings record alone (R64) -/

theorem storeHead_congr {s t : State} (h : t.store = s.store) (a : Nat) : storeHead t a = storeHead s a := by
  simp only [storeHead, storeRd, storeByte, h]

theorem storeBody_congr {s t : State} (h : t.store = s.store) (a : Nat) : storeBody t a = storeBody s a := by
  simp only [storeBody, storeHead_congr h, storeRd, storeByte, h]

theorem arbOk_congr {s t : State} (h : t.ret = s.ret) (b : List Byte) : arbOk t b = arbOk s b := by
  unfold arbOk
  split <;> simp [getF, h, IMG_BOOT_ARB, IMG_OWNER_OARB, IMG_OWNER_OSEQ]

theorem slotCheck_congr {s t : State} (hs : t.store = s.store) (hr : t.ret = s.ret) (a : Nat) :
    slotCheck t a = slotCheck s a := by
  unfold slotCheck
  dsimp only
  rw [storeHead_congr hs, storeBody_congr hs, arbOk_congr hr]

theorem bootSlot_congr {s t : State} (hs : t.store = s.store) (hr : t.ret = s.ret) : bootSlot t = bootSlot s := by
  unfold bootSlot
  rw [slotCheck_congr hs hr, slotCheck_congr hs hr]

/-! The step -/

/-- Power has come: the straps are sampled and KINDLE has begun (R60, R63). -/
def poweredOn (s : State) (vin : Nat) : State := setF (strapped s vin) HELM_MODE_PREV mOff

theorem exec_powerOn {s : State} {vin : Nat} (hv : 4500 ≤ vin) (hm : mode s = mOff ∨ (mode s = mKindle ∧ s.boot.begun = false))
    (ht : s.tap ≤ 2) : exec (.powerOn vin) s = .next (romStart (poweredOn s vin)) := by
  have hc : (decide (4500 ≤ vin) && (mode s == mOff || (mode s == mKindle && !s.boot.begun)) && decide (s.tap ≤ 2)) = true := by
    rcases hm with hm | ⟨hm, hb⟩ <;> simp [*]
  exact next_act hc

theorem exec_powerOn_low {s : State} {vin : Nat} (h : vin < 4500 ∨ 2 < s.tap) : exec (.powerOn vin) s = .next s := by
  have hc : (decide (4500 ≤ vin) && (mode s == mOff || (mode s == mKindle && !s.boot.begun)) && decide (s.tap ≤ 2)) = false := by
    rcases h with h | h <;> simp <;> omega
  exact next_idle hc

/-! The stop of the module by the supply and by the pin -/

theorem exec_vinBelowReset {s : State} {vin : Nat} (h : vin < 4200) (cut : Bool) : exec (.vinBelowReset ⟨vin, cut⟩) s =
    .next (toOff { s with pins := { s.pins with vin := vin } } HELM_RESET_CAUSE_POWER cut) := next_act (by simpa using h)

theorem exec_rstNReset {s : State} {ns : Nat} {taken : Bool} (h : 10000 ≤ ns ∨ (100 ≤ ns ∧ taken = true)) (cut : Bool) :
    exec (.rstNReset ns ⟨taken, cut⟩) s = .next (toOff s HELM_RESET_CAUSE_PIN cut) := next_act (by simpa using h)

/-- What `lasting` keeps, field by field. -/
theorem lasting_eq {s u : State} (h : lasting u = lasting s) : u.rsm = s.rsm ∧ u.ck = s.ck ∧ u.sif = s.sif ∧ u.ring = s.ring ∧
    u.md.flash = s.md.flash ∧ u.keep = { s.keep with cuts := u.keep.cuts } ∧ u.pins = s.pins ∧ u.pending = s.pending := by
  simp only [lasting, Prod.mk.injEq] at h
  obtain ⟨hr, hc, hs, hg, hf, hk, hp, hq⟩ := h
  refine ⟨hr, hc, hs, hg, hf, ?_, hp, hq⟩
  have := congrArg (fun k : Keep => { k with cuts := u.keep.cuts }) hk
  simpa only using this

/-- The ROM's state is the one that POWER_ON leaves, its settings record read, with the quotas of that record. -/
theorem romLooking_poweredOn (s : State) (vin : Nat) : romLooking (poweredOn s vin) =
    loadQuotas (romRunning (setF (setF (setF (strapped s vin) HELM_MODE_PREV mOff) HELM_MODE_CUR mKindle) HELM_KINDLE_STEP 2)) := rfl

theorem bootSlot_loadQuotas (s : State) : bootSlot (loadQuotas s) = bootSlot s :=
  bootSlot_congr (by simp only [loadQuotas, setTen]) (by simp only [loadQuotas, setTen])

theorem getF_loadQuotas (s : State) (f : Fld) : getF (loadQuotas s) f = getF s f :=
  getF_congr f (by simp only [loadQuotas, setTen]) (by simp only [loadQuotas, setTen])

/-- No slot holds an image (R64). -/
theorem romStart_noImage {s : State} (h : bootSlot (romLooking s) = none) : mode (romStart s) = mSafe ∧
    (romStart s).pins = s.pins ∧ (romStart s).boot = { s.boot with begun := true } ∧
    (getF (romLooking s) HELM_SAFE_CAUSE_CAUSE = 0 → getF (romStart s) HELM_SAFE_CAUSE_CAUSE = 2) := by
  obtain ⟨hm, hp, hb, hc⟩ := noImage_face (mode_romLooking s)
  rw [romStart_none h]
  exact ⟨hm, hp.trans (romLooking_pins s), hb.trans (romLooking_boot s), hc⟩

/-- A slot holds an image, which runs (R64). -/
theorem romStart_image {s : State} {a n : Nat} (h : bootSlot (romLooking s) = some (a, n)) :
    mode (romStart s) = mKindle ∧ getF (romStart s) HELM_MODE_PREV = getF s HELM_MODE_PREV ∧
    getF (romStart s) HELM_KINDLE_STEP = (if getF (romLooking s) IMG_STAGE_DUE = 1 then 3 else 4) := by
  rw [romStart_some h]
  refine ⟨?_, ?_, romLoaded_step ..⟩
  · exact (getF_romLoaded _ _ _ (by decide) (by decide) (by decide)).trans (mode_romLooking s)
  · rw [getF_romLoaded _ _ _ (by decide) (by decide) (by decide), getF_romLooking _ rfl (by decide) (by decide)]

/-- What start-up has established once an image runs. -/
theorem romStart_established {s : State} {a n : Nat} (h : bootSlot (romLooking s) = some (a, n)) :
    (romStart s).pins = s.pins ∧ (romStart s).boot.image = true ∧ (romStart s).boot.split = s.boot.split ∧
    (romStart s).boot.side = s.boot.side ∧ (romStart s).boot.cas = s.boot.cas ∧ (romStart s).boot.begun = true := by
  have hb := loadSlot_boot (romLooking s) a n
  rw [romLooking_boot] at hb
  rw [romStart_some h, romLoaded_pins, romLoaded_boot, romLooking_pins]
  exact ⟨rfl, hb⟩

/-! The clauses of PowerAndReset -/

/-- What a stop leaves, with the pins as it found them. -/
theorem emptied_of_pins {s u : State} {p : Pins} (h : Emptied { s with pins := p } u) :
    mode u = mOff ∧ u.pins = p ∧ u.thr = [] ∧ u.ctx = [] ∧ u.mem = Mem.reset ∧ u.slices = [] ∧ u.buf = BufMgr.reset ∧ u.rsm = s.rsm ∧
    u.ck = s.ck ∧ u.sif = s.sif ∧ u.ring = s.ring ∧ u.md.flash = s.md.flash ∧ u.keep = { s.keep with cuts := u.keep.cuts } ∧
    u.pending = s.pending := by
  obtain ⟨hr, hc, hs, hg, hf, hk, hp, hq⟩ := lasting_eq h.lasting
  exact ⟨h.off, hp, h.thr, h.ctx, h.mem, h.slices, h.buf, hr, hc, hs, hg, hf, hk, hq⟩

/-- A stop that cuts nothing short leaves the settings record, its copies and an idle image store. -/
theorem toOff_uncut {s : State} (h : mode s ≠ mOff) {cause : Fld} (hr : cause.ret = false) :
    (toOff s cause false).ret = s.ret ∧ (toOff s cause false).copyA = s.copyA ∧ (toOff s cause false).copyB = s.copyB ∧
    (s.x.img.queue = [] → (toOff s cause false).store = s.store) := by
  obtain ⟨hA, hB⟩ := toOff_copies h hr
  refine ⟨?_, hA, hB, toOff_store h cause⟩
  rw [toOff_ret h false hr, cutShort_uncut]

/-- POWER_ON, by the slot that boots. -/
theorem romStart_poweredOn {s u : State} {vin : Nat} (hu : u = romStart (poweredOn s vin)) :
    let v := romRunning (setF (setF (setF (strapped s vin) HELM_MODE_PREV mOff) HELM_MODE_CUR mKindle) HELM_KINDLE_STEP 2)
    u.pins = v.pins ∧ u.boot.split = s.pins.split ∧ u.boot.side = s.pins.side ∧ u.boot.cas = s.pins.cas ∧ u.boot.begun = true ∧
      (bootSlot v = none → mode u = mSafe ∧ (getF v HELM_SAFE_CAUSE_CAUSE = 0 → getF u HELM_SAFE_CAUSE_CAUSE = 2)) ∧
      ∀ a n, bootSlot v = some (a, n) → mode u = mKindle ∧ u.boot.image = true ∧ getF u HELM_MODE_PREV = mOff ∧
        getF u HELM_KINDLE_STEP = if getF v IMG_STAGE_DUE = 1 then 3 else 4 := by
  intro v
  have hlook : romLooking (poweredOn s vin) = loadQuotas v := romLooking_poweredOn s vin
  have hslot : bootSlot (romLooking (poweredOn s vin)) = bootSlot v := by rw [hlook, bootSlot_loadQuotas]
  have hget : ∀ f, getF (romLooking (poweredOn s vin)) f = getF v f := fun f => by rw [hlook, getF_loadQuotas]
  have hpins : (poweredOn s vin).pins = v.pins := by simp only [poweredOn, v, romRunning, setF_pins]
  have hstraps : (poweredOn s vin).boot.split = s.pins.split ∧ (poweredOn s vin).boot.side = s.pins.side ∧
      (poweredOn s vin).boot.cas = s.pins.cas := by simp only [poweredOn, setF_boot, strapped, and_self]
  have hprev : getF (poweredOn s vin) HELM_MODE_PREV = mOff := getF_setF_same ..
  obtain ⟨hsplit, hside, hcas⟩ := hstraps
  rw [hu, ← hslot, ← hget, ← hget, ← hpins, ← hsplit, ← hside, ← hcas]
  cases h : bootSlot (romLooking (poweredOn s vin)) with
  | none =>
    obtain ⟨hm, hp, hb, hc⟩ := romStart_noImage h
    exact ⟨hp, by rw [hb], by rw [hb], by rw [hb], by rw [hb], fun _ => ⟨hm, hc⟩, fun _ _ h' => nomatch h'⟩
  | some an =>
    obtain ⟨hm, hpv, hst⟩ := romStart_image h
    obtain ⟨hp, hi, hsp, hsd, hcs, hbg⟩ := romStart_established h
    exact ⟨hp, hsp, hsd, hcs, hbg, fun h' => (nomatch h'), fun _ _ _ => ⟨hm, hi, hpv.trans hprev, hst⟩⟩

/-- Settles O28: POWER_ON by the slot that boots, the two stops by what `toOff` leaves. -/
theorem powerAndReset : Obligations.PowerAndReset := by
  unfold Obligations.PowerAndReset
  intro s vin ns taken cut r v gone kept
  refine ⟨fun hv hm ht => ⟨_, exec_powerOn hv hm ht, romStart_poweredOn rfl⟩, exec_powerOn_low, fun hv hm => ?_,
    fun hv => next_idle (by simpa using hv), fun hp hm => ?_, fun hn => next_idle (by simp; omega), fun hc hm hk => ?_⟩
  · have hm' : mode { s with pins := { s.pins with vin := vin } } ≠ mOff := hm
    obtain ⟨ho, h⟩ := emptied_of_pins (emptied_toOff hm' HELM_RESET_CAUSE_POWER cut)
    refine ⟨_, exec_vinBelowReset hv cut, ⟨ho, getF_toOff hm' cut rfl rfl, h⟩, ?_⟩
    rintro rfl
    exact toOff_uncut hm' rfl
  · obtain ⟨ho, h⟩ := emptied_of_pins (emptied_toOff hm HELM_RESET_CAUSE_PIN cut)
    refine ⟨_, exec_rstNReset hp cut, ⟨ho, getF_toOff hm cut rfl rfl, h⟩, ?_⟩
    rintro rfl
    exact toOff_uncut hm rfl
  · subst hc
    refine ⟨_, exec_rstNReset (.inl le_rfl) true, ?_⟩
    rw [toOff_ret hm true rfl, cutShort_commit (by simpa using hk)]

/-! ### One field of a written register (R10) -/

/-- A field of a register table at a word of BAR0. -/
def fieldAt (off n k : Nat) (f : FDef) : Fld := ⟨off * 64 + f.lo, f.w, f.dflt.val n k, f.ret⟩

/-- The registers whose RW fields do more than store. -/
def storeActs : List Nat := [0x01010000, 0x01001000, 0x01001030, 0x01040008, 0x01050000, 0x01050010, 0x010C0020]

theorem storeField_plain {base : Nat} (h : base ∉ storeActs) (s : State) (n lo : Nat) (f : Fld) (v : Nat) :
    storeField s base n lo f v = setF s f v := by
  unfold storeField
  split <;> simp_all [storeActs]

theorem clearField_plain {base : Nat} (h : base ∉ [0x01000008, 0x01050018, 0x01110028, 0x01020008]) (s : State) (n lo : Nat) (f : Fld)
    (x : Nat) (whole : Bool) : clearField s base n lo f x whole = setF s f (getF s f - (getF s f &&& x)) := by
  unfold clearField
  split <;> simp_all

theorem raiseField_plain {base : Nat} (h : base ∉ [0x010F0038, 0x010F2000]) (s : State) (k : Nat) (f : Fld) (x : Nat) :
    raiseField s base k f x = setF s f (getF s f ||| x) := by
  unfold raiseField
  split <;> simp_all

section
variable (s : State) (d : RDef) (n k off mask v : Nat) {f : FDef}

/-- RO and RC fields, and those that the write does not cover, keep their value. -/
theorem writeField_untouched (h : f.acc = .ro ∨ f.acc = .rc ∨ bits mask f.lo f.w = 0) : writeField s d n k off mask v f = s := by
  unfold writeField
  dsimp only
  split
  · rfl
  · next hm => rcases h with h | h | h <;> simp [h] at hm ⊢

/-- A RW field takes what the write gives where that is no reserved encoding (R9). -/
theorem writeField_rw (ha : f.acc = .rw) (hm : bits mask f.lo f.w ≠ 0) {new : Nat}
    (hnew : new = (getF s (fieldAt off n k f) - (getF s (fieldAt off n k f) &&& bits mask f.lo f.w)) ||| bits v f.lo f.w &&& bits mask f.lo f.w) :
    writeField s d n k off mask v f = if fieldOk f new then storeField s d.base n f.lo (fieldAt off n k f) new else s := by
  subst hnew
  unfold writeField
  simp only [if_neg hm, ha, fieldAt]
  rfl

theorem writeField_w1c (ha : f.acc = .w1c) (hm : bits mask f.lo f.w ≠ 0) : writeField s d n k off mask v f =
    clearField s d.base n f.lo (fieldAt off n k f) (bits v f.lo f.w &&& bits mask f.lo f.w) (bits mask f.lo f.w = 2 ^ f.w - 1) := by
  unfold writeField
  simp only [if_neg hm, ha, fieldAt]

theorem writeField_w1s (ha : f.acc = .w1s) (hm : bits mask f.lo f.w ≠ 0) : writeField s d n k off mask v f =
    raiseField s d.base k (fieldAt off n k f) (bits v f.lo f.w &&& bits mask f.lo f.w) := by
  unfold writeField
  simp only [if_neg hm, ha, fieldAt]

end

/-- A field stored takes the value, and no other register changes. -/
theorem stored (s : State) (f : Fld) (v : Nat) : getF (setF s f v) f = v % 2 ^ f.w ∧ RegsKept [f] s (setF s f v) :=
  ⟨getF_setF_same s f v, regsKept_setF s f v⟩

/-! ### A register word (R10, R71) -/

/-- What the registers, threads and memories hold: what a message or a commit leaves alone. -/
def held (s : State) : NMap Nat × Retained × NMap Thread × Mem × NMap Slice := (s.vf, s.ret, s.thr, s.mem, s.slices)

theorem held_eq {s u : State} : held u = held s ↔
    u.vf = s.vf ∧ u.ret = s.ret ∧ u.thr = s.thr ∧ u.mem = s.mem ∧ u.slices = s.slices := by
  simp only [held, Prod.mk.injEq]

theorem getF_held {s u : State} (h : held u = held s) (f : Fld) : getF u f = getF s f := by
  obtain ⟨hv, hr, -⟩ := held_eq.1 h
  exact getF_congr f hv hr

@[simp] theorem held_send (s : State) (m : Msg) : held (send s m) = held s := rfl

@[simp] theorem held_passOn (s : State) (w : List Nat) : held (passOn s w) = held s := by
  have hall (u : State) : held (if flag u CAS_STAT_MASTER then (otherPos u).foldl (fun s p => send s (.cascade p 7 w)) u else u) = held u := by
    split
    · exact foldl_field held _ (fun s p => held_send s _) _ u
    · rfl
  refine (hall _).trans ?_
  split <;> rfl

@[simp] theorem held_mirrorReg (s u : State) (off : Nat) : held (mirrorReg s u off) = held u := by
  unfold mirrorReg
  split
  · exact held_passOn u _
  · rfl

@[simp] theorem held_oneCommit (s u : State) : held (oneCommit s u) = held u := by
  unfold oneCommit
  split
  · rfl
  · simp only [held, commit_vf, commit_ret, commit_thr, commit_mem, commit_slices]

/-- A register with no field that acts: the fields' writes, then the commit and the message of a changed configuration. -/
theorem writeReg_stored {d : RDef} (hd : ∀ f ∈ d.fields, f.acc ≠ .wo) {off : Nat} (ho : off ≠ 0x01040018) {s s' : State} {n k mask v : Nat}
    (hs : s' = d.fields.foldl (fun s f => writeField s d n k off mask v f) s) :
    writeReg s d n k off mask v = if mirrored d then mirrorReg s (oneCommit s s') off else oneCommit s s' := by
  have hst : (d.fields.filter fun f => f.acc != .wo) = d.fields := List.filter_eq_self.2 fun f hf => by simp [hd f hf]
  have hwo : (d.fields.filter fun f => f.acc = .wo) = [] := List.filter_eq_nil_iff.2 fun f hf => by simp [hd f hf]
  unfold writeReg
  simp only [hst, hwo, if_neg ho, List.foldl_nil, hs]

theorem held_writeReg {d : RDef} (hd : ∀ f ∈ d.fields, f.acc ≠ .wo) {off : Nat} (ho : off ≠ 0x01040018) (s : State) (n k mask v : Nat) :
    held (writeReg s d n k off mask v) = held (d.fields.foldl (fun s f => writeField s d n k off mask v f) s) := by
  rw [writeReg_stored hd ho rfl]
  split
  · rw [held_mirrorReg, held_oneCommit]
  · rw [held_oneCommit]

/-- A write of the whole word covers each field of it. -/
theorem bits_word_mask {lo w : Nat} (h : lo + w ≤ 64) : bits (2 ^ 64 - 1) lo w = 2 ^ w - 1 := by
  apply Nat.eq_of_testBit_eq
  intro i
  simp only [bits, Nat.testBit_mod_two_pow, Nat.testBit_div_two_pow, Nat.testBit_two_pow_sub_one]
  by_cases hi : i < w <;> simp [hi]
  omega

theorem bits_word {lo w : Nat} (h : lo + w ≤ 64) (v : Nat) : bits (v % 2 ^ 64) lo w = bits v lo w := by
  apply Nat.eq_of_testBit_eq
  intro i
  simp only [bits, Nat.testBit_mod_two_pow, Nat.testBit_div_two_pow]
  by_cases hi : i < w <;> simp [hi]
  omega

/-! ### REGISTER_WRITE (R94, R110) -/

section
variable {s : State} {p off size v : Nat}

theorem size_of_regShape (h : regShape off size = true) : size = 4 ∨ size = 8 := by
  simp only [regShape, Bool.and_eq_true, Bool.or_eq_true, beq_iff_eq] at h
  exact h.1

/-- A well-shaped write to a register family. -/
theorem exec_registerWrite_fam (hp : portOpen s p = true) (hf : 0x01000000 ≤ off ∧ off < 0x01130000) (hs : regShape off size = true) :
    exec (.registerWrite p false off size v) s = .next (writeFam s off size v) := by
  have hsz : size ≤ 512 := by rcases size_of_regShape hs with h | h <;> omega
  refine (next_act (by simp [hp, hsz])).trans ?_
  rw [if_neg Bool.false_ne_true, if_neg (by omega), hs, bar0Write, if_pos hf.2]
  rfl

theorem writeFam_reg (hr : regOk s (famOf off) = true) {d : RDef} {n k : Nat} (hd : regAt (off / 8 * 8) = some (d, n, k)) :
    writeFam s off size v = writeReg s d n k (off / 8 * 8) ((2 ^ (8 * size) - 1) * 2 ^ (8 * (off % 8)))
      (v % 2 ^ (8 * size) * 2 ^ (8 * (off % 8))) := by
  unfold writeFam
  simp only [hr, hd, Bool.not_true, Bool.false_eq_true, if_false]

/-- A family that does not answer discards the write (R80, R94). -/
theorem writeFam_silent (hr : regOk s (famOf off) = false) : writeFam s off size v = s := by
  unfold writeFam
  simp only [hr, Bool.not_false, if_true]

theorem exec_registerWrite_misshaped (hp : portOpen s p = true) (hf : 0x01000000 ≤ off ∧ off < 0x01130000)
    (hs : regShape off size = false) (hsz : size ≤ 512) : exec (.registerWrite p false off size v) s = .next (malformed s p) := by
  refine (next_act (by simp [hp, hsz])).trans ?_
  rw [if_neg Bool.false_ne_true, if_neg (by omega), hs, if_pos (show (!false) = true from rfl), if_pos (by simp [regArea, hf.2])]

theorem exec_registerWrite_bar2_low (hp : portOpen s p = true) (hsz : size ≤ 512) (ho : off < 0x0800000) :
    exec (.registerWrite p true off size v) s = .next (malformed s p) := by
  refine (next_act (by simp [hp, hsz])).trans ?_
  rw [if_pos rfl, if_pos ho]

theorem exec_registerWrite_bar2 (hp : portOpen s p = true) (hsz : size ≤ 512) (ho : 0x0800000 ≤ off) :
    exec (.registerWrite p true off size v) s = .next (spWr s (off - 0x0800000) (leBytes size v)) := by
  refine (next_act (by simp [hp, hsz])).trans ?_
  rw [if_pos rfl, if_neg (by omega)]

end

/-! ### A whole word written to a single RW field -/

/-- A field of no width is never covered, and reads zero. -/
theorem getF_of_width_zero {f : Fld} (h : f.w = 0) (s : State) : getF s f = 0 := by
  have := getF_lt s f
  rw [h] at this
  omega

/-- A whole write replaces what the field holds. -/
theorem whole_write {a x w : Nat} (ha : a < 2 ^ w) (hx : x < 2 ^ w) : x = (a - (a &&& (2 ^ w - 1))) ||| x &&& (2 ^ w - 1) := by
  rw [Nat.and_two_pow_sub_one_eq_mod, Nat.and_two_pow_sub_one_eq_mod, Nat.mod_eq_of_lt ha, Nat.mod_eq_of_lt hx, Nat.sub_self, Nat.zero_or]

theorem covered {lo w : Nat} (hw : lo + w ≤ 64) (h0 : w ≠ 0) : bits (2 ^ 64 - 1) lo w ≠ 0 := by
  have := Nat.one_lt_two_pow h0
  rw [bits_word_mask hw]
  omega

section
variable {s : State} {d : RDef} {f : FDef} {n k off v : Nat}

/-- A whole write stores what it gives. -/
theorem writeField_whole (ha : f.acc = .rw) (hw : f.lo + f.w ≤ 64) (h0 : f.w ≠ 0) (hv : fieldOk f (bits v f.lo f.w) = true) :
    writeField s d n k off (2 ^ 64 - 1) (v % 2 ^ 64) f = storeField s d.base n f.lo (fieldAt off n k f) (bits v f.lo f.w) := by
  have hnew : bits v f.lo f.w = (getF s (fieldAt off n k f) - (getF s (fieldAt off n k f) &&& bits (2 ^ 64 - 1) f.lo f.w)) |||
      bits (v % 2 ^ 64) f.lo f.w &&& bits (2 ^ 64 - 1) f.lo f.w := by
    rw [bits_word_mask hw, bits_word hw]
    exact whole_write (getF_lt s (fieldAt off n k f)) (Nat.mod_lt _ (Nat.two_pow_pos _))
  rw [writeField_rw _ _ _ _ _ _ _ ha (covered hw h0) hnew, if_pos hv]

/-- A whole write clears the bits that it gives. -/
theorem writeField_whole_w1c (ha : f.acc = .w1c) (hw : f.lo + f.w ≤ 64) (h0 : f.w ≠ 0) :
    writeField s d n k off (2 ^ 64 - 1) (v % 2 ^ 64) f = clearField s d.base n f.lo (fieldAt off n k f) (bits v f.lo f.w) true := by
  have hlt : bits v f.lo f.w < 2 ^ f.w := Nat.mod_lt _ (Nat.two_pow_pos _)
  have hx : bits (v % 2 ^ 64) f.lo f.w &&& bits (2 ^ 64 - 1) f.lo f.w = bits v f.lo f.w := by
    rw [bits_word_mask hw, bits_word hw, Nat.and_two_pow_sub_one_eq_mod, Nat.mod_eq_of_lt hlt]
  rw [writeField_w1c _ _ _ _ _ _ _ ha (covered hw h0), hx, bits_word_mask hw, decide_eq_true rfl]

/-- A RW field alone in its register takes a whole value that is no reserved encoding (R10). -/
theorem writeReg_word (hd : d.fields = [f]) (ha : f.acc = .rw) (hw : f.lo + f.w ≤ 64) (hv : fieldOk f (bits v f.lo f.w) = true)
    (hb : d.base ∉ storeActs) (ho : off ≠ 0x01040018) {u : State} (hu : u = writeReg s d n k off (2 ^ 64 - 1) (v % 2 ^ 64)) :
    getF u (fieldAt off n k f) = bits v f.lo f.w ∧ RegsKept [fieldAt off n k f] s u ∧ u.thr = s.thr ∧ u.mem = s.mem := by
  have hlt : bits v f.lo f.w < 2 ^ f.w := Nat.mod_lt _ (Nat.two_pow_pos _)
  have hheld := held_writeReg (d := d) (by simp [hd, ha]) ho s n k (2 ^ 64 - 1) (v % 2 ^ 64)
  rw [hd, List.foldl_cons, List.foldl_nil, ← hu] at hheld
  have hget := getF_held hheld
  obtain ⟨-, -, ht, hm, -⟩ := held_eq.1 hheld
  unfold RegsKept
  simp only [hget, ht, hm]
  by_cases h0 : f.w = 0
  · rw [writeField_untouched _ _ _ _ _ _ _ (.inr (.inr (by rw [bits_word_mask hw, h0]; rfl))), getF_of_width_zero h0]
    exact ⟨(Nat.lt_one_iff.1 (by simpa only [h0, pow_zero] using hlt)).symm, fun _ _ => rfl, rfl, rfl⟩
  · rw [writeField_whole ha hw h0 hv, storeField_plain hb]
    obtain ⟨hg, hk⟩ := stored s (fieldAt off n k f) (bits v f.lo f.w)
    exact ⟨hg.trans (Nat.mod_eq_of_lt hlt), hk, setF_thr .., setF_mem ..⟩

end

/-! ### REGISTER_READ_CLEAR (R10, R94, R108) -/

section
variable (s : State)

/-! What a read leaves alone -/

theorem clearRead_keeps {γ : Type} (g : State → γ) (h : ∀ s f, g (setF s f 0) = g s) (off size : Nat) : g (clearRead s off size) = g s := by
  unfold clearRead
  dsimp only
  split
  · rfl
  · split
    · exact foldl_field g _ (fun s f => by split <;> simp [h]) _ s
    · rfl

@[simp] theorem clearRead_thr (off size : Nat) : (clearRead s off size).thr = s.thr := clearRead_keeps s (·.thr) (fun s f => setF_thr s f 0) ..
@[simp] theorem clearRead_mem (off size : Nat) : (clearRead s off size).mem = s.mem := clearRead_keeps s (·.mem) (fun s f => setF_mem s f 0) ..

@[simp] theorem errInc_thr (i n : Nat) : (errInc s i n).thr = s.thr := rfl

@[simp] theorem ueLog_thr (line src : Nat) : (ueLog s line src).thr = s.thr := by simp [ueLog]

@[simp] theorem dramUe_thr (line src : Nat) : (dramUe s line src).thr = s.thr := by simp [dramUe]

@[simp] theorem bitmapErr_thr (line : Nat) : (bitmapErr s line).thr = s.thr := by simp [bitmapErr]

@[simp] theorem dramCorr_thr (line : Nat) : (dramCorr s line).thr = s.thr := by
  unfold dramCorr
  dsimp only
  split
  · split <;> simp
  · split
    · split <;> simp
    · simp

/-- A read of DRAM counts and tells what it finds; no thread changes. -/
theorem dramCheck_thr (a n : Nat) (e : MErr) (src : Nat) : (dramCheck s a n e src).2.thr = s.thr := by
  unfold dramCheck
  split
  · rfl
  · extract_lets u
    have hu : u.thr = s.thr := by
      simp only [u]
      split
      · split <;> simp
      · simp
      · rfl
    split
    · exact (dramUe_thr ..).trans hu
    · split
      · exact (dramUe_thr ..).trans hu
      · exact hu

end

section
variable {s : State} {p off size : Nat} {e : MErr}

theorem portUp_of_open (h : portOpen s p = true) : portUp s p = true := by
  simp only [portOpen, Bool.and_eq_true] at h
  exact h.1

/-- The logbook window's step is no part of any other read (R500). -/
theorem readEffect_plain (h : ¬ (off = 0x010302FC ∨ (off = 0x010302F8 ∧ size = 8))) : readEffect s off size = clearRead s off size := by
  unfold readEffect
  dsimp only
  rw [if_neg]
  simp only [Bool.and_eq_true, Bool.or_eq_true, decide_eq_true_eq, not_and]
  exact fun _ => h

theorem exec_read_fam (hp : portOpen s p = true) (hf : 0x01000000 ≤ off ∧ off < 0x01130000) (hs : regShape off size = true)
    (hl : ¬ (off = 0x010302FC ∨ (off = 0x010302F8 ∧ size = 8))) {c : Bool × State} (hc : barCheck s 0 off size e = c) :
    exec (.registerReadClear p 0 off size e) s = .next (clearRead (send c.2 (.readData p (bar0Read c.2 p off size) c.1)) off size) := by
  have hsz : size ≤ 512 := by rcases size_of_regShape hs with h | h <;> omega
  refine (next_act (by simp [portUp_of_open hp, hsz])).trans ?_
  simp only [hp, hs, hc, Bool.not_true, Bool.false_eq_true, if_false, OfNat.zero_ne_ofNat]
  rw [if_pos (by simpa using hf), readEffect_plain hl]

theorem barCheck_window {a : Nat} (h : windowAt s off = some a) : barCheck s 0 off size e = dramCheck s a size e 4 := by
  simp [barCheck, h]

theorem barCheck_register (h : windowAt s off = none) : barCheck s 0 off size e = (e == .uncorr, s) := by
  simp [barCheck, h]

theorem barCheck_scratch (h : 0x0800000 ≤ off) : barCheck s 2 off size e = spCheck s (off - 0x0800000) size e := by
  rw [barCheck, if_pos rfl, if_neg (Nat.not_lt.2 h)]

theorem barCheck_bar2_low (h : off < 0x0800000) : barCheck s 2 off size e = (e == .uncorr, s) := by
  rw [barCheck, if_pos rfl, if_pos h]

theorem exec_read_bar2 (hp : portOpen s p = true) (hsz : size ≤ 512) {c : Bool × State} (hc : barCheck s 2 off size e = c) :
    exec (.registerReadClear p 2 off size e) s =
      .next (send c.2 (.readData p (leNat ((List.range size).map fun i => bar2Byte c.2 (off + i))) c.1)) := by
  refine (next_act (by simp [portUp_of_open hp, hsz])).trans ?_
  simp only [hp, hc, Bool.not_true, Bool.false_eq_true, if_false, if_true]

/-- With configuration alone a port answers Unsupported Request (R89). -/
theorem exec_read_configOnly (hu : portUp s p = true) (hp : portOpen s p = false) {sp : Nat} (hsp : sp ∉ [1, 3, 4]) (hsz : size ≤ 512) :
    exec (.registerReadClear p sp off size e) s = .next (send s (.unsupported p)) := by
  have hc : [1, 3, 4].contains sp = false := by simpa using hsp
  show execRegisterReadClear p sp off size e s = _
  unfold execRegisterReadClear
  rw [hc, if_neg Bool.false_ne_true, next_act (by simp [hu, hsz]), hp]
  rfl

theorem exec_read_misshaped (hp : portOpen s p = true) (hsz : size ≤ 512) (hs : regShape off size = false) :
    exec (.registerReadClear p 0 off size e) s =
      .next (if regArea off then malformed (send s (.readData p 0 false)) p else send s (.readData p 0 false)) := by
  refine (next_act (by simp [portUp_of_open hp, hsz])).trans ?_
  simp only [hp, hs, Bool.not_true, Bool.not_false, Bool.false_eq_true, if_false, if_true, OfNat.zero_ne_ofNat]

theorem exec_read_header {sp : Nat} (hu : portUp s p = true) (hsp : sp = 3 ∨ sp = 4) :
    exec (.registerReadClear p sp off size e) s = .next (send s (.readData p (cfgWord s p sp off) false)) := by
  rcases hsp with rfl | rfl <;> exact next_act hu

theorem exec_read_downCount (hu : portUp s p = true) : exec (.registerReadClear p 1 0x1C size e) s =
    .next (setF (send s (.readData p (getF s (HLV_DOWN_COUNT p)) false)) (HLV_DOWN_COUNT p) 0) := next_act hu

end

/-! The RC fields of a register read -/

/-- The fields of a register that are chosen are cleared one after the other. -/
def clearFields (w n k : Nat) (clears : FDef → Bool) (l : List FDef) (s : State) : State :=
  l.foldl (fun s f => if clears f then setF s (fieldAt w n k f) 0 else s) s

theorem clearRead_eq {s : State} {d : RDef} {n k off size : Nat} (hr : regOk s (famOf (off / 8 * 8)) = true)
    (hd : regAt (off / 8 * 8) = some (d, n, k)) : clearRead s off size = clearFields (off / 8 * 8) n k
      (fun f => f.acc = .rc && bits ((2 ^ (8 * size) - 1) * 2 ^ (8 * (off % 8))) f.lo f.w != 0) d.fields s := by
  unfold clearRead
  simp only [hr, hd, Bool.not_true, Bool.false_eq_true, if_false]
  rfl

section
variable {w n k : Nat} {clears : FDef → Bool} {g : FDef}

theorem getF_clearFields_other {l : List FDef} (h : g.lo ∉ l.map (·.lo)) (s : State) :
    getF (clearFields w n k clears l s) (fieldAt w n k g) = getF s (fieldAt w n k g) := by
  induction l generalizing s with
  | nil => rfl
  | cons f l ih =>
    rw [List.map_cons, List.mem_cons, not_or] at h
    obtain ⟨hf, hl⟩ := h
    refine (ih hl _).trans ?_
    dsimp only
    split
    · exact getF_setF_other s 0 (by simp [fieldAt, hf])
    · rfl

/-- A field that is cleared reads zero: no other field lies at its place. -/
theorem getF_clearFields {l : List FDef} (hl : (l.map (·.lo)).Nodup) (hg : g ∈ l) (hc : clears g = true) (s : State) :
    getF (clearFields w n k clears l s) (fieldAt w n k g) = 0 := by
  induction l generalizing s with
  | nil => simp at hg
  | cons f l ih =>
    obtain ⟨hf, hl⟩ := List.nodup_cons.1 hl
    rcases List.mem_cons.1 hg with rfl | hg
    · refine (getF_clearFields_other hf _).trans ?_
      dsimp only
      rw [if_pos hc, getF_setF_same, Nat.zero_mod]
    · exact ih hl hg _

end

theorem spWr_vf (s : State) (a : Nat) (b : List Byte) : (spWr s a b).vf = s.vf := by unfold spWr; split <;> rfl
theorem spWr_thr (s : State) (a : Nat) (b : List Byte) : (spWr s a b).thr = s.thr := by unfold spWr; split <;> rfl

/-- MAP_TEMPER lies at its own offset. -/
theorem regAt_temper : (regAt 0x01040018).map (·.1.base) = some 0x01040018 := by decide

/-- Settles O48: a write by what it does to one field, a read by what it meets and what it clears. -/
theorem registerAccess : Obligations.RegisterAccess := by
  unfold Obligations.RegisterAccess
  intro s p sp off size v e d n k mask f fld m x new w sh fam read plain
  refine ⟨fun hp hf hs hr hd => ?_, fun hp hf ha hr hd h1 hrw hw hv hb => ?_, fun hp hf hs hr => ?_,
    fun hp hf hs hsz => exec_registerWrite_misshaped hp hf hs hsz, fun hp hsz ho => exec_registerWrite_bar2_low hp hsz ho,
    fun hp hsz ho => ?_, fun h => writeField_untouched _ _ _ _ _ _ _ h, fun ha hm hx => ?_, fun ha hm hx hb => ?_, fun ha hm hb => ?_,
    fun ha hm hb => ?_, fun hp hf hs hl hw => ?_, fun a hp hf hs hl hw => ?_, fun hp ho hsz => ?_, fun hp ho hsz => ?_,
    fun hu hp hsp hsz => exec_read_configOnly hu hp hsp hsz, fun g hg hr hd hm hrc hn => ?_,
    fun hp _ hsz hs => exec_read_misshaped hp hsz hs, exec_read_header, exec_read_downCount⟩
  · exact ⟨_, exec_registerWrite_fam hp hf hs, writeFam_reg hr hd⟩
  · have hw8 : off / 8 * 8 = off := by omega
    have hacts : storeActs ⊆ [0x01010000, 0x01001000, 0x01001030, 0x01040008, 0x01040018, 0x01050000, 0x01050010, 0x010C0020] := by decide
    have hb' : d.base ∉ storeActs := fun h => hb (hacts h)
    have ho : off ≠ 0x01040018 := by
      rintro rfl
      have hbase := regAt_temper
      rw [hd, Option.map_some, Option.some.injEq] at hbase
      exact hb (by rw [show d.base = 0x01040018 from hbase]; decide)
    refine ⟨_, exec_registerWrite_fam hp hf (by simp [regShape, ha]), writeReg_word h1 hrw hw hv hb' ho ?_⟩
    rw [writeFam_reg hr (hw8.symm ▸ hd), hw8, ha]
    simp only [Nat.mul_zero, pow_zero, Nat.mul_one, Nat.reduceMul]
  · rw [exec_registerWrite_fam hp hf hs, writeFam_silent hr]
  · exact ⟨_, exec_registerWrite_bar2 hp hsz ho, rfl, spWr_vf .., spWr_thr ..⟩
  · rw [writeField_rw _ _ _ _ _ _ _ ha hm (new := new) rfl, if_neg (ne_true_of_eq_false hx)]
  · rw [writeField_rw _ _ _ _ _ _ _ ha hm (new := new) rfl, if_pos hx, storeField_plain hb]
    exact stored s fld new
  · rw [writeField_w1c _ _ _ _ _ _ _ ha hm, clearField_plain hb]
    exact stored s fld _
  · rw [writeField_w1s _ _ _ _ _ _ _ ha hm, raiseField_plain hb]
    exact stored s fld _
  · exact ⟨_, exec_read_fam hp hf hs hl (barCheck_register hw), rfl, clearRead_thr .., clearRead_mem ..⟩
  · exact ⟨_, _, exec_read_fam hp hf hs hl (barCheck_window hw), rfl, rfl, (clearRead_thr ..).trans (dramCheck_thr ..)⟩
  · exact ⟨_, _, exec_read_bar2 hp hsz (barCheck_scratch ho), rfl, rfl⟩
  · exact exec_read_bar2 hp hsz (barCheck_bar2_low ho)
  · rw [clearRead_eq hr hd]
    exact getF_clearFields hn hg (by simp only [hrc, decide_true, Bool.true_and, bne_iff_ne]; exact hm) s

/-! ### Whole words of the registers whose write acts -/

section
variable {s : State} {d : RDef} {n k off v : Nat}

theorem writeWord_reg (h8 : off % 8 = 0) (hr : regOk s (famOf off) = true) (hd : regAt off = some (d, n, k)) :
    writeWord s off v = writeReg s d n k off (2 ^ 64 - 1) (v % 2 ^ 64) := by
  have hw : off / 8 * 8 = off := by omega
  rw [writeWord, writeFam_reg hr (hw.symm ▸ hd), hw, h8]
  simp only [Nat.mul_zero, pow_zero, Nat.mul_one, Nat.reduceMul]

/-- What is written to a register with stored fields alone, but for the message of a changed configuration. -/
theorem held_writeWord (h8 : off % 8 = 0) (hr : regOk s (famOf off) = true) (hd : regAt off = some (d, n, k))
    (hf : ∀ f ∈ d.fields, f.acc ≠ .wo) (ho : off ≠ 0x01040018) :
    held (writeWord s off v) = held (d.fields.foldl (fun s f => writeField s d n k off (2 ^ 64 - 1) (v % 2 ^ 64) f) s) := by
  rw [writeWord_reg h8 hr hd, held_writeReg hf ho]

end

/-! HELM_ADMIN, HELM_SAFE_CAUSE, MAP_OP and ANV_ROLE_SUSP as the register tables have them (R85, R169, R234) -/

def adminReg : RDef :=
  ⟨0x01000018, 1, 0, 1, 0, [⟨0, 1, .rw, .num 0, true, false, 0, 1, 1⟩, ⟨4, 12, .rw, .num 0, true, false, 0, 4095, 1⟩]⟩

def safeCauseReg : RDef :=
  ⟨0x01000008, 1, 0, 1, 0, [⟨0, 8, .w1c, .num 0, true, false, 0, 255, 1⟩, ⟨8, 9, .w1c, .num 0, true, false, 0, 511, 1⟩,
    ⟨17, 1, .w1c, .num 0, true, false, 0, 1, 1⟩, ⟨18, 1, .ro, .num 0, false, false, 0, 1, 1⟩]⟩

def mapOpReg : RDef := ⟨0x01040008, 1, 0, 1, 0, [⟨0, 8, .rw, .num 24, true, false, 0, 255, 1⟩]⟩

def roleSuspReg : RDef := ⟨0x01110070, 1, 0, 1, 0, [⟨1, 8, .w1c, .num 0, true, false, 0, 255, 1⟩]⟩

theorem regAt_admin : regAt 0x01000018 = some (adminReg, 0, 0) := by decide
theorem regAt_safeCause : regAt 0x01000008 = some (safeCauseReg, 0, 0) := by decide
theorem regAt_mapOp : regAt 0x01040008 = some (mapOpReg, 0, 0) := by decide
theorem regAt_roleSusp : regAt 0x01110070 = some (roleSuspReg, 0, 0) := by decide

/-- A field all of whose values have a meaning takes any (R9). -/
theorem fieldOk_full (f : FDef) (hlo : f.vlo = 0) (hhi : f.vhi = 2 ^ f.w - 1) (hst : f.vst = 1) (v lo : Nat) :
    fieldOk f (bits v lo f.w) = true := by
  have : bits v lo f.w < 2 ^ f.w := Nat.mod_lt _ (Nat.two_pow_pos _)
  simp only [fieldOk, hlo, hhi, hst, Nat.mod_one, Bool.and_eq_true, decide_eq_true_eq]
  exact ⟨⟨Nat.zero_le _, Nat.le_sub_one_of_lt this⟩, trivial⟩

/-- A W1C field loses the bits of `x` (R10). -/
def bitsCleared (s : State) (f : Fld) (x : Nat) : State := setF s f (getF s f - (getF s f &&& x))

/-- SAFE_CAUSE.CAUSE is cleared by a whole 0xFF alone (R85). -/
def causeCleared (s : State) (x : Nat) : State := if x = 0xFF then setF s HELM_SAFE_CAUSE_CAUSE 0 else s

section
variable {s : State} (v : Nat)

/-- HELM_ADMIN takes SRC and CTX (R84). -/
theorem held_adminWord (hr : regOk s 0 = true) : held (writeWord s 0x01000018 v) =
    held (setF (setF s HELM_ADMIN_SRC (bits v 0 1)) HELM_ADMIN_CTX (bits v 4 12)) := by
  rw [held_writeWord (by decide) hr regAt_admin (by decide) (by decide)]
  simp only [adminReg, List.foldl_cons, List.foldl_nil]
  rw [writeField_whole rfl (by decide) (by decide) (fieldOk_full _ rfl rfl rfl v _), storeField_plain (by decide),
    writeField_whole rfl (by decide) (by decide) (fieldOk_full _ rfl rfl rfl v _), storeField_plain (by decide)]
  rfl

/-- HELM_SAFE_CAUSE loses CAUSE to a whole 0xFF alone, its other causes bit by bit (R85). -/
theorem held_safeCauseWord (hr : regOk s 0 = true) : held (writeWord s 0x01000008 v) =
    held (bitsCleared (bitsCleared (causeCleared s (bits v 0 8)) HELM_SAFE_CAUSE_MORE (bits v 8 9))
      HELM_SAFE_CAUSE_UNFLUSHED (bits v 17 1)) := by
  have hcause (u : State) : clearField u 0x01000008 0 0 HELM_SAFE_CAUSE_CAUSE (bits v 0 8) true = causeCleared u (bits v 0 8) := by
    simp only [clearField, causeCleared, Bool.and_true, decide_eq_true_eq]
  rw [held_writeWord (by decide) hr regAt_safeCause (by decide) (by decide)]
  simp only [safeCauseReg, List.foldl_cons, List.foldl_nil]
  rw [writeField_untouched _ _ _ _ _ _ _ (.inl rfl), writeField_whole_w1c rfl (by decide) (by decide),
    writeField_whole_w1c rfl (by decide) (by decide), writeField_whole_w1c rfl (by decide) (by decide)]
  exact congrArg (fun u => held (bitsCleared (bitsCleared u HELM_SAFE_CAUSE_MORE (bits v 8 9)) HELM_SAFE_CAUSE_UNFLUSHED (bits v 17 1)))
    (hcause s)

/-- ANV_ROLE_SUSP loses the bits written (R169). -/
theorem held_roleSuspWord (hr : regOk s 17 = true) : held (writeWord s 0x01110070 v) =
    held (bitsCleared s ANV_ROLE_SUSP_SUSP (bits v 1 8)) := by
  rw [held_writeWord (by decide) hr regAt_roleSusp (by decide) (by decide)]
  simp only [roleSuspReg, List.foldl_cons, List.foldl_nil]
  rw [writeField_whole_w1c rfl (by decide) (by decide), clearField_plain (by decide)]
  rfl

/-- MAP_OP is judged before it is stored (R233). -/
theorem mapOpWord (hr : regOk s 4 = true) : writeWord s 0x01040008 v =
    mirrorReg s (oneCommit s (mapOpWrite s (bits v 0 8))) 0x01040008 := by
  have hm : mirrored mapOpReg = true := by decide
  rw [writeWord_reg (by decide) hr regAt_mapOp, writeReg_stored (by decide) (by decide) rfl, if_pos hm]
  simp only [mapOpReg, List.foldl_cons, List.foldl_nil]
  rw [writeField_whole rfl (by decide) (by decide) (fieldOk_full _ rfl rfl rfl v _)]
  rfl

end

/-! ### Map, cache, DRAM, roles and the pair -/

section
variable {s u : State}

/-- A write that only tells of an event commits nothing, and there is no change to pass on. -/
theorem oneCommit_logEv (a b : Nat) (l : List Nat) : oneCommit s (logEv s a b l) = logEv s a b l := by
  simp only [oneCommit, logEv_copyA, logEv_copyB, beq_self_eq_true, Bool.and_self, if_true]

theorem mirrorReg_logEv (a b : Nat) (l : List Nat) (off : Nat) : mirrorReg s (logEv s a b l) off = logEv s a b l := by
  simp only [mirrorReg, retWord, getF_logEv, bne_self_eq_false, Bool.false_eq_true, if_false]

theorem regsKept_held {l : List Fld} {v : State} (h : held v = held u) (hk : RegsKept l s u) : RegsKept l s v := fun f hf =>
  (getF_held h f).trans (hk f hf)

/-- Fields stored one after the other: all others are kept. -/
theorem regsKept_setF_trans {l : List Fld} {f : Fld} (hk : RegsKept l s u) (hf : f ∈ l) (v : Nat) : RegsKept l s (setF u f v) := fun g hg =>
  (getF_setF_other u v (hg f hf)).trans (hk g hg)

theorem regsKept_refl (l : List Fld) (s : State) : RegsKept l s s := fun _ _ => rfl

/-! MAP_OP (R233) -/

variable {v : Nat}

theorem exec_mapOpWrite_kept (hr : regOk s 4 = true) (h : mode s ≠ mService) :
    exec (.mapOpWrite v) s = .next (logEv s 0 9 [bits v 0 8]) := by
  have hop : mapOpWrite s (bits v 0 8) = logEv s 0 9 [bits v 0 8] := by simp [mapOpWrite, h]
  refine (next_act hr).trans ?_
  rw [mapOpWord v hr, hop, oneCommit_logEv, mirrorReg_logEv]

theorem exec_mapOpWrite_service (hr : regOk s 4 = true) (h : mode s = mService)
    (hv : volumesEnd s ≤ getF (setLcap (setC s MAP_OP_OP (bits v 0 8))) MAP_LCAP_BILLETS) :
    ∃ u, exec (.mapOpWrite v) s = .next u ∧ held u = held (setLcap (setC s MAP_OP_OP (bits v 0 8))) := by
  have hop : mapOpWrite s (bits v 0 8) = setLcap (setC s MAP_OP_OP (bits v 0 8)) := by
    simp only [mapOpWrite, h, bne_self_eq_false, Bool.false_or, decide_eq_true_eq, if_neg (Nat.not_lt.2 hv)]
  refine ⟨_, next_act hr, ?_⟩
  rw [mapOpWord v hr, held_mirrorReg, held_oneCommit, hop]

theorem getF_setLcap {f : Fld} (h : (f.key == MAP_LCAP_BILLETS.key && f.ret == MAP_LCAP_BILLETS.ret) = false) :
    getF (setLcap s) f = getF s f := getF_setF_other s _ h

/-! MC_CTL, MC_SP and MC_WAYDIS (R248, R250, R251) -/

variable {q n w : Nat}

theorem exec_mcDisable (hq : q < 4) (hr : regOk s 5 = true) (en : Bool) :
    ∃ u, exec (.mcDisable q en) s = .next u ∧ held u = held (mcEnWrite s q en) :=
  ⟨_, next_act (by simp [hq, hr]), held_mirrorReg ..⟩

theorem mcEnWrite_effect (s : State) (q : Nat) (en : Bool) : getF (mcEnWrite s q en) (MC_CTL_EN q) = b2n en ∧
    (mcEnWrite s q en).slices = s.slices ∧ RegsKept [MC_CTL_EN q, MC_STAT_DRAINED q] s (mcEnWrite s q en) := by
  have hk (v : Nat) : RegsKept [MC_CTL_EN q, MC_STAT_DRAINED q] s (setF s (MC_CTL_EN q) v) :=
    regsKept_setF_trans (regsKept_refl _ s) (List.mem_cons_self ..) v
  have hother : ((MC_CTL_EN q).key == (MC_STAT_DRAINED q).key && (MC_CTL_EN q).ret == (MC_STAT_DRAINED q).ret) = false := by
    simp [MC_CTL_EN, MC_STAT_DRAINED]
  cases en with
  | true =>
    have hen : mcEnWrite s q true = setF (setF s (MC_CTL_EN q) 1) (MC_STAT_DRAINED q) 0 := if_pos rfl
    rw [hen, getF_setF_other _ _ hother, getF_setF_same, setF_slices, setF_slices]
    exact ⟨rfl, rfl, regsKept_setF_trans (hk 1) (by simp) 0⟩
  | false =>
    have hen : mcEnWrite s q false = setF s (MC_CTL_EN q) 0 := if_neg Bool.false_ne_true
    rw [hen, getF_setF_same, setF_slices]
    exact ⟨rfl, rfl, hk 0⟩

theorem exec_scratchpadConversion_kept (hq : q < 4) (hr : regOk s 5 = true) (hn : n ≤ 8) (h : mode s ≠ mService) :
    exec (.scratchpadConversion q n) s = .next (logEv s 0 9 [q, n]) := by
  have hsp : spWrite s q n = logEv s 0 9 [q, n] := by rw [spWrite, if_neg (by omega), if_neg h]
  refine (next_act (by simp [hq, hr])).trans ?_
  rw [hsp, mirrorReg_logEv]

theorem exec_scratchpadConversion_service (hq : q < 4) (hr : regOk s 5 = true) (hn : n ≤ 8) (h : mode s = mService) :
    ∃ u, exec (.scratchpadConversion q n) s = .next u ∧ held u = held (convert (setC s (MC_SP_SPWAYS q) n) q) := by
  have hsp : spWrite s q n = convert (setC s (MC_SP_SPWAYS q) n) q := by rw [spWrite, if_neg (by omega), if_pos h]
  refine ⟨_, next_act (by simp [hq, hr]), ?_⟩
  rw [held_mirrorReg, hsp]

/-- A conversion changes only what MC_SP shows of it. -/
theorem getF_convert_spways (s : State) (q : Nat) : getF (convert s q) (MC_SP_SPWAYS q) = getF s (MC_SP_SPWAYS q) := by
  unfold convert
  extract_lets _ _ _ _ _ _ s1 s2 s3 s4 s5
  have h5 : getF s5 (MC_SP_SPWAYS q) = getF s (MC_SP_SPWAYS q) := by
    simp only [s5, s4]
    rw [getF_setF_other _ _ (by simp [MC_SP_SPWAYS, MC_SP_SHORT]), getF_setF_other _ _ (by simp [MC_SP_SPWAYS, MC_SP_WAYS]),
      getF_setF_other _ _ (by simp [MC_SP_SPWAYS, MC_SP_STEPS])]
    exact getF_congr _ (by simp only [s3, s1, setSlice]) (by simp only [s3, s1, setSlice])
  split
  · exact (getF_logEv ..).trans h5
  · exact h5

theorem exec_wayReenable (hq : q < 4) (hw : w < 16) (hr : regOk s 5 = true) :
    exec (.wayReenable q w) s = .next (wayEnable s q w) := next_act (by simp [hq, hw, hr])

theorem slice_setSlice (s : State) (q : Nat) (x : Slice) : slice (setSlice s q x) q = x := by simp [slice, setSlice]


/-- A disabled way with its lines written back holds no line when it comes back (R250). -/
theorem wayEnable_disabled (h : wayDis s q w = true) : wayEnable s q w =
    setC (setSlice s q ((slice s q).dropWay w)) (MC_WAYDIS_DIS q) (putBits (getF s (MC_WAYDIS_DIS q)) w 1 0) := if_pos h

theorem getF_setSlice (s : State) (q : Nat) (x : Slice) (f : Fld) : getF (setSlice s q x) f = getF s f := rfl

theorem slice_setF (s : State) (f : Fld) (v q : Nat) : slice (setF s f v) q = slice s q := by simp only [slice, setF_slices]

/-- A slice that is disabled with nothing on its way is drained (R251). -/
theorem exec_sliceDrained (hq : q < 4) (he : getF s (MC_CTL_EN q) = 0) (hd : getF s (MC_STAT_DRAINED q) = 0)
    (hw : (slice s q).wtq = []) (hf : (slice s q).fills = []) :
    ∃ u, exec (.sliceDrained q) s = .next u ∧ getF u (MC_STAT_DRAINED q) = 1 ∧ (slice u q).lines = [] ∧
      RegsKept [MC_STAT_DRAINED q] s u := by
  refine ⟨_, next_act (by simp [hq, flag, he, hd, hw, hf]), getF_setF_same .., ?_, regsKept_setF _ _ _⟩
  rw [slice_setF, slice_setSlice]

theorem exec_sliceDrained_busy (hw : (slice s q).wtq ≠ []) : exec (.sliceDrained q) s = .next s := next_idle (by simp [hw])

/-! The pair (R444, R445) -/

theorem exec_force (hr : regOk s 13 = true) : exec .force s = .next (force s) := next_act hr

/-- A resynchronisation tells the cascade first, which changes nothing here. -/
theorem sendMismatched_keeps {γ : Type} (g : State → γ) (h : ∀ s m, g (send s m) = g s) (s : State) : g (sendMismatched s) = g s := by
  unfold sendMismatched
  split
  · rfl
  · exact foldl_field g _ (fun s p => foldl_field g _ (fun s w => h s _) _ s) _ s

theorem inPair_sendMismatched (s : State) : inPair (sendMismatched s) = inPair s := sendMismatched_keeps inPair (fun _ _ => rfl) s

theorem exec_resync (hr : regOk s 13 = true) (hp : inPair s = true) :
    ∃ u, exec .resync s = .next u ∧ getF u PAIR_STAT_PSTATE = 2 ∧ RegsKept [PAIR_STAT_PSTATE] s u := by
  have hre : resync s = setAux (setF (sendMismatched s) PAIR_STAT_PSTATE 2) { (sendMismatched s).x with resync := true } := by
    unfold resync
    simp only [inPair_sendMismatched, hp, if_true]
  refine ⟨_, next_act hr, ?_, fun f hf => ?_⟩
  · rw [hre, getF_setAux, getF_setF_same]
    rfl
  · rw [hre, getF_setAux, getF_setF_other _ _ (hf _ (List.mem_singleton.2 rfl))]
    exact sendMismatched_keeps (getF · f) (fun _ _ => rfl) s

end

/-! ### Mailboxes (R492 to R496) -/

section
variable (s : State)

@[simp] theorem box_setBox_same (n : Nat) (b : Mbox) : box (setBox s n b) n = b := by simp [box, setBox]

theorem box_setBox_other {n m : Nat} (b : Mbox) (h : m ≠ n) : box (setBox s n b) m = box s m := by
  simp [box, setBox, mget_mset_other _ _ _ h]

theorem box_congr {s u : State} (h : u.d.box = s.d.box) (n : Nat) : box u n = box s n := by rw [box, box, h]

/-- A thread made READY, and those it displaces, leave the mailboxes alone. -/
theorem toReady_box (t : Nat) : (toReady s t).d.box = s.d.box := by
  have hgive (s : State) (t : Nat) : (giveBack s t).d.box = s.d.box := by unfold giveBack; dsimp only; split <;> rfl
  unfold toReady
  dsimp only
  split
  · rfl
  · unfold enforceL preempt
    dsimp only
    split
    · split
      · rfl
      · exact foldl_field (·.d.box) _ (fun s (e : Nat × Nat) => hgive s e.2) _ _
    · rfl

theorem releaseWith_box (t rd : Nat) (v : W64) : (releaseWith s t rd v).d.box = s.d.box := toReady_box _ t

/-- Which thread waits for a mailbox is in the threads alone. -/
theorem boxWaiter_congr {s u : State} (h : u.thr = s.thr) (n : Nat) : boxWaiter u n = boxWaiter s n := by rw [boxWaiter, boxWaiter, h]

theorem padTo_length {α : Type} (d : α) (n : Nat) (l : List α) : (padTo d n l).length = n := by
  induction n generalizing l with
  | zero => rfl
  | succ n ih => cases l <;> simp [padTo, ih]

end

/-- A message as it stands in a mailbox that no thread waits for (R495). -/
def mailed (b : Mbox) (sender flags stamp : Nat) (body : List Byte) (back : Option (Nat × Nat)) : Mbox :=
  { b with full := true, coll := b.coll || b.full, sender := sender, flags := flags, stamp := stamp, body := padTo 0 32 body, back := back }

section
variable {s : State} {n : Nat}

/-- A stored message keeps its sender, stamp and body; it stays until it is taken where no thread waits for it (R493, R495). -/
theorem box_storeMsg (sender fl now : Nat) (body : List Byte) (back : Option (Nat × Nat)) :
    ∃ full, (boxWaiter s n = none → full = true) ∧
      box (storeMsg s n sender fl now body back) n = { mailed (box s n) sender fl now body back with full := full } := by
  unfold storeMsg
  extract_lets b s1 s2 s3
  have h1 : s1.thr = s.thr := by simp only [s1]; split <;> simp
  have h3 : s3.d = s2.d := by simp only [s3]; split <;> simp
  have ht : s3.thr = s.thr := by rw [← h1]; simp only [s3]; split <;> simp [s2, setBox]
  have hb : box s3 n = mailed (box s n) sender fl now body back :=
    (box_congr (congrArg (·.box) h3) n).trans (box_setBox_same s1 n _)
  split
  next t rd a hw =>
    refine ⟨false, fun h => ?_, ?_⟩
    · rw [boxWaiter_congr ht, h] at hw
      cases hw
    · have hrecv : box (recvInto s3 t n a) n = { box s3 n with full := false } := box_setBox_same s3 n _
      rw [hb] at hrecv
      exact (box_congr (releaseWith_box _ t rd _) n).trans hrecv
  next => exact ⟨true, fun _ => rfl, hb⟩

theorem sendMsg_local (hn : n < 48) (sender src : Nat) (body : List Byte) :
    sendMsg s n sender src body = storeMsg (stamped s src) n sender (stampFlags s src) s.clk.now body none := by
  unfold sendMsg
  exact if_pos hn

/-- A message to a local mailbox. -/
theorem box_sendMsg (hn : n < 48) (sender src : Nat) (body : List Byte) : ∃ full, (boxWaiter s n = none → full = true) ∧
    box (sendMsg s n sender src body) n =
      { mailed (box s n) sender (stampFlags s src) s.clk.now body none with full := full } := by
  rw [sendMsg_local hn]
  exact box_storeMsg (s := stamped s src) ..

theorem exec_mbxCtlTake (hr : regOk s 2 = true) : exec (.mbxCtlTake 1) s = .next (takeBox s 1) := next_act (by simp [hr])

theorem exec_mbxCtlAck (hr : regOk s 2 = true) (c : Nat) : exec (.mbxCtlAck 1 c) s = .next (ackBox s 1 c (hostId s)) :=
  next_act (by simp [hr])

/-- The acknowledge register takes a code that is not the module's own (R496). -/
theorem box_ackBox {c : Nat} (hc : c % 2 ^ 16 < 0xFF00) (who : Nat) :
    box (ackBox s n c who) n = { box s n with ackV := true, ackCode := c % 2 ^ 16, ackBy := who } := by
  unfold ackBox
  rw [if_neg (Nat.not_le.2 hc)]
  dsimp only
  split <;> exact box_setBox_same s n _

end

/-- What a write leaves of HELM_SAFE_CAUSE; the mode is another register. -/
theorem bitsCleared_safeCause (s : State) (v : Nat) :
    let u := bitsCleared (bitsCleared (causeCleared s (bits v 0 8)) HELM_SAFE_CAUSE_MORE (bits v 8 9)) HELM_SAFE_CAUSE_UNFLUSHED (bits v 17 1)
    getF u HELM_SAFE_CAUSE_CAUSE = (if bits v 0 8 = 0xFF then 0 else getF s HELM_SAFE_CAUSE_CAUSE) ∧
    getF u HELM_SAFE_CAUSE_MORE = (getF s HELM_SAFE_CAUSE_MORE - (getF s HELM_SAFE_CAUSE_MORE &&& bits v 8 9)) % 2 ^ 9 ∧
    mode u = mode s := by
  have hother {f : Fld} (h : (f.key == HELM_SAFE_CAUSE_CAUSE.key && f.ret == HELM_SAFE_CAUSE_CAUSE.ret) = false) :
      getF (causeCleared s (bits v 0 8)) f = getF s f := by
    unfold causeCleared
    split
    · exact getF_setF_other s 0 h
    · rfl
  refine ⟨?_, ?_, ?_⟩
  · rw [bitsCleared, getF_setF_other _ _ (by decide), bitsCleared, getF_setF_other _ _ (by decide), causeCleared]
    split
    · exact getF_setF_same ..
    · rfl
  · rw [bitsCleared, getF_setF_other _ _ (by decide), bitsCleared, getF_setF_same, hother (by decide)]
    rfl
  · rw [bitsCleared, mode, getF_setF_other _ _ (by decide), bitsCleared, getF_setF_other _ _ (by decide)]
    exact hother (by decide)

/-- Settles O49: each register by the word's fields, each command by the operation behind it. -/
theorem registerCommands : Obligations.RegisterCommands := by
  unfold Obligations.RegisterCommands
  intro s v q n w c en
  refine ⟨fun hr => ?_, fun hr => ?_, exec_mapOpWrite_kept, fun hr hm hv => ?_, fun hq hr => ?_, exec_sliceDrained,
    fun _ hw => exec_sliceDrained_busy hw, exec_scratchpadConversion_kept, fun hq hr hn hm => ?_, fun hq hw hr hd => ?_, fun hr => ?_,
    fun hr => ?_, fun hr hm => ?_, fun hr hm => ?_, exec_resync, fun hr => ?_, fun hn hr => ?_, fun hn sender src body => ?_,
    fun hr => ?_, fun hn h1 hr => ?_, fun hr hc => ?_⟩
  · have h := held_adminWord v hr
    have hsrc : bits v 0 1 < 2 := Nat.mod_lt _ (by decide)
    have hctx : bits v 4 12 < 2 ^ 12 := Nat.mod_lt _ (by decide)
    refine ⟨_, next_act hr, ?_, ?_, regsKept_held h (regsKept_setF_trans (regsKept_setF_trans (regsKept_refl _ s) (by decide) _) (by decide) _)⟩
    · rw [getF_held h, getF_setF_other _ _ (by decide), getF_setF_same]
      exact Nat.mod_eq_of_lt hsrc
    · rw [getF_held h, getF_setF_same]
      exact Nat.mod_eq_of_lt hctx
  · have h := held_safeCauseWord v hr
    obtain ⟨hcause, hmore, hmode⟩ := bitsCleared_safeCause s v
    exact ⟨_, next_act hr, (getF_held h _).trans hcause, (getF_held h _).trans hmore, (getF_held h _).trans hmode⟩
  · obtain ⟨u, hu, h⟩ := exec_mapOpWrite_service hr hm hv
    have hop : bits v 0 8 < 2 ^ 8 := Nat.mod_lt _ (by decide)
    refine ⟨u, hu, ?_, regsKept_held h (regsKept_setF_trans (regsKept_setF_trans (regsKept_refl _ s) (by decide) _) (by decide) _)⟩
    rw [getF_held h, getF_setLcap (by decide), getF_setC_same]
    exact Nat.mod_eq_of_lt hop
  · obtain ⟨u, hu, h⟩ := exec_mcDisable hq hr en
    obtain ⟨hen, hsl, hk⟩ := mcEnWrite_effect s q en
    obtain ⟨-, -, -, -, hslices⟩ := held_eq.1 h
    exact ⟨u, hu, (getF_held h _).trans hen, hslices.trans hsl, regsKept_held h hk⟩
  · obtain ⟨u, hu, h⟩ := exec_scratchpadConversion_service hq hr hn hm
    obtain ⟨hvf, -, -, hmem, hslices⟩ := held_eq.1 h
    refine ⟨u, _, hu, rfl, hvf, hslices, hmem, ?_⟩
    rw [getF_held h, getF_convert_spways, getF_setC_same]
    exact Nat.mod_eq_of_lt (Nat.lt_of_le_of_lt hn (show 8 < 2 ^ 4 by decide))
  · refine ⟨_, exec_wayReenable hq hw hr, ?_, ?_, ?_⟩ <;> rw [wayEnable_disabled hd]
    · exact getF_setC_same ..
    · exact (slice_setF ..).trans (slice_setSlice ..)
    · exact regsKept_setF (setSlice s q _) _ _
  · exact ⟨_, next_act hr, setF_mem .., getF_setF_same .., regsKept_setF { s with mem := { s.mem with ceTab := [] } } _ _⟩
  · have h := held_roleSuspWord v hr
    have hs := getF_setF_same s ANV_ROLE_SUSP_SUSP (getF s ANV_ROLE_SUSP_SUSP - (getF s ANV_ROLE_SUSP_SUSP &&& bits v 1 8))
    exact ⟨_, next_act hr, regsKept_held h (regsKept_setF _ _ _), (getF_held h _).trans hs⟩
  · refine ⟨_, exec_force hr, ?_⟩
    simp only [force, hm, beq_self_eq_true, if_true, setPair, setAux, and_self]
  · rw [exec_force hr, force, if_neg (by simpa using hm)]
  · exact ⟨_, next_act hr, getF_setF_same .., regsKept_setF _ _ _⟩
  · refine ⟨_, next_act (by simp [hn, hr]), rfl, fun hn' hw => ?_⟩
    obtain ⟨full, hfull, hbox⟩ := box_sendMsg (s := s) hn' (hostId s) srcMbx
      ((List.range 4).flatMap fun k => leBytes 8 (getF s (MBX_BODY_WORD n k)))
    rw [mbxSend, hbox]
    exact ⟨hfull hw, rfl, rfl⟩
  · obtain ⟨full, hfull, hbox⟩ := box_sendMsg (s := s) hn sender src body
    rw [hbox]
    exact ⟨padTo 0 32 body, padTo_length .., rfl, hfull⟩
  · refine ⟨_, exec_mbxCtlTake hr, ?_, fun m hm => box_setBox_other s _ hm, rfl⟩
    rw [takeBox, box_setBox_same]
  · exact ⟨(next_act (by simp [hn, hr])).trans (by rw [mbxTake, if_neg h1]), (next_act (by simp [hn, hr])).trans (by rw [mbxAck, if_neg h1])⟩
  · refine ⟨_, exec_mbxCtlAck hr c, ?_⟩
    rw [box_ackBox hc]
    exact ⟨rfl, rfl, rfl, rfl⟩

end Sys2Proof.Machine
end

section
/-! PROOFS of the statements on the parts of the architecture: mailbox instructions, FLUSH and the answers of the helm. -/
namespace Sys2Proof.Machine
open Sys2Proof Sys2Proof.Safety

/-! ### MRECV of a mailbox that holds a message (R493, R494) -/

/-- The receiver of a full mailbox takes its message into the local store and retires with the SENDER. -/
theorem exec_mrecv_full {s : State} {t rd rs1 rs2 n a : Nat} (hi : issues s t (aw 0xD1 rd rs1 rs2 0 0) = true)
    (hn : gn s t rs1 % 64 = n) (hr : boxRcv s t n = true) (ha : lsDesc s t rs2 40 = some a) (hf : (box s n).full = true) :
    exec (.mrecv t rd rs1 rs2) s = .next (retire (recvInto s t n a) t rd (BitVec.ofNat 64 (box s n).sender)) := by
  subst hn
  refine (next_act hi).trans ?_
  simp only [hr, ha, hf, Bool.not_true, Bool.false_eq_true, if_false, if_true]

/-- An instruction that retires leaves the valid lines of the local store as they were. -/
theorem lsValid_of_retired {s u : State} {t rd : Nat} {v : W64} (h : Retired s u t rd v) : (th u t).lsValid = (th s t).lsValid :=
  (congrArg Thread.lsValid h.issued.thread :)

/-- After reset mailbox 5 is thread 4101's (R494). It holds a message, and the thread, whose local store was never written, stands at
an MRECV of it into byte 0. -/
def receiving : State :=
  let s := setTh State.reset 4101 { Thread.idle with st := .running, g := [(2, 5)] }
  { setBox s 5 { Mbox.empty with full := true } with prog := wrLe [] 0 8 (aw 0xD1 0 2 0 0 0) }

theorem exec_mrecv_receiving : exec (.mrecv 4101 0 2 0) receiving = .next (retire (recvInto receiving 4101 5 0) 4101 0 0) :=
  exec_mrecv_full (by decide +kernel) (by decide +kernel) (by decide +kernel) (by decide +kernel) (by decide +kernel)

theorem lsValid_receiving : (th receiving 4101).lsValid = [] ∧ (th (recvInto receiving 4101 5 0) 4101).lsValid = [0] := by
  decide +kernel

/-- Refutes O21: MRECV's store makes the lines it writes valid (R273), while the clause for a full mailbox lets the store change
nothing of the thread's record but the bytes. In `receiving` line 0 becomes valid. -/
theorem not_mailInstructions : ¬ Obligations.MailInstructions := by
  unfold Obligations.MailInstructions
  intro h
  obtain ⟨-, hrecv, -⟩ := h receiving 4101 0 2 0
  obtain ⟨-, -, hfull, -⟩ := hrecv (by decide +kernel)
  obtain ⟨u, v, hu, hret, -, -, -, hv, -⟩ := hfull (by decide +kernel) (by decide +kernel) (by decide +kernel) (by decide +kernel)
  obtain rfl : _ = u := Host.Outcome.next.inj (exec_mrecv_receiving.symm.trans hu)
  have hkept : (th v 4101).lsValid = (th receiving 4101).lsValid := congrArg Thread.lsValid hv
  have hline : (th v 4101).lsValid = (th (recvInto receiving 4101 5 0) 4101).lsValid :=
    (lsValid_of_retired hret).symm.trans (lsValid_of_retired (retired_retire ..))
  obtain ⟨hnone, hzero⟩ := lsValid_receiving
  rw [hkept, hnone, hzero] at hline
  cases hline

/-! ### Host threads under the limit of their quadrant (R150, R153) -/

theorem threadsKept_holdPark (s : State) (t : Nat) : ThreadsKept t s (holdPark s t) :=
  threadsKept_modTh { s with d := { s.d with held := sins t s.d.held } } t _

theorem threadsKept_giveBack (s : State) (t : Nat) : ThreadsKept t s (giveBack s t) := fun m hm => by
  unfold giveBack
  extract_lets s'
  have hready : th s' m = th s m := threadsKept_modTh (tick s) t _ m hm
  split
  · exact (threadsKept_holdPark s' t m hm).trans hready
  · exact hready

theorem giveBack_helm (s : State) (t : Nat) : (giveBack s t).d.helm = s.d.helm := by
  unfold giveBack
  dsimp only
  split <;> rfl

/-- Whatever the giving back of an internal thread's slot keeps, the limit of a quadrant keeps: it displaces internal threads alone. -/
theorem enforceL_keeps {γ : Type} (p : State → γ) (h : ∀ s m, isHost m = false → p (giveBack s m) = p s) (s : State) (t : Nat) :
    p (enforceL s t) = p s := by
  unfold enforceL preempt
  dsimp only
  split
  · split
    · rfl
    · refine List.foldlRecOn (motive := fun u => p u = p s) _ _ rfl fun u hu e he => ?_
      obtain ⟨x, hx, rfl⟩ := List.mem_map.1 (List.mem_mergeSort.1 (List.mem_of_mem_take he))
      have hint : isHost x.1 = false := by
        simp only [inQuad, List.mem_filter, Bool.and_eq_true, decide_eq_true_eq] at hx
        obtain ⟨-, ⟨⟨-, hhost⟩, -⟩, -⟩ := hx
        exact hhost
      exact (h u _ hint).trans hu
  · rfl

theorem th_enforceL_host (s : State) (t : Nat) {m : Nat} (hm : isHost m = true) : th (enforceL s t) m = th s m :=
  enforceL_keeps (th · m) (fun s k hk => threadsKept_giveBack s k m (by rintro rfl; rw [hm] at hk; cases hk)) s t

theorem enforceL_helm (s : State) (t : Nat) : (enforceL s t).d.helm = s.d.helm :=
  enforceL_keeps (·.d.helm) (fun s k _ => giveBack_helm s k) s t

/-- A waiting thread becomes READY (R146). -/
def readied (s : State) (t : Nat) : State :=
  modTh (tick s) t fun x => { x with st := .ready, why := .none, cont := .nothing, readyAt := s.order }

@[simp] theorem th_readied_same (s : State) (t : Nat) : th (readied s t) t =
    { th s t with st := .ready, why := .none, cont := .nothing, readyAt := s.order } := th_modTh_same (tick s) t _

theorem threadsKept_readied (s : State) (t : Nat) : ThreadsKept t s (readied s t) := threadsKept_modTh (tick s) t _

@[simp] theorem ls_lsWr (s : State) (t a : Nat) (b : List Byte) : (th (lsWr s t a b) t).ls = wrBytes (th s t).ls a b :=
  congrArg Thread.ls (th_modTh_same s t _)

theorem threadsKept_lsWr (s : State) (t a : Nat) (b : List Byte) : ThreadsKept t s (lsWr s t a b) := threadsKept_modTh s t _

/-- BANKED holds no host thread back (R73). -/
theorem toReady_host (s : State) {t : Nat} (ht : isHost t = true) : toReady s t = enforceL (readied s t) t := by
  have hheld : heldBack s t = false := by simp [heldBack, ht]
  unfold toReady
  rw [hheld]
  rfl

theorem ne_svc_of_host {t : Nat} (ht : isHost t = true) : t ≠ 9999 := by
  rintro rfl
  cases ht

/-! ### FLUSH (R126, R131, R531) -/

section
variable {s : State} {r : HelmReq}

/-- The helm takes up a FLUSH as its next request. -/
theorem exec_flush_due (hn : nextReq s = some r) (ho : reqOpc r = 5) (hb : s.boot.image = true) (hm : mode s ≠ mOff) :
    exec .flush s = .next (
      let v := beginReq s r.src
      if !dataMode s || (isHost r.src && (cx s r.src).late) then answerReq v r 0x13 2
      else if blkField r.block 4 2 != 0 then answerReq v r 0x11 4
      else if blkField r.block 48 8 % 16 != 0 then answerReq v r 0x11 0x30
      else setAux v { v.x with flushes := v.x.flushes ++ [(r.src, (cx s r.src).owed, (cx s r.src).owedN)] }) := by
  show execFlush s = _
  unfold execFlush
  rw [hn]
  exact next_act (by simp [ho, hb, hm])

theorem dataMode_eq_false (h : mode s ≠ mRun) : dataMode s = false := by simpa [dataMode] using h

theorem dataMode_run (h : mode s = mRun) : dataMode s = true := by simp [dataMode, h]

theorem exec_flushAnswer {i src n : Nat} {l : List Owed} (hi : s.x.flushes[i]? = some (src, l, n)) :
    exec (.flushAnswer i) s = act (l.all (flushed s)) s
      (answerHelm (setAux s { s.x with flushes := s.x.flushes.eraseIdx i }) src ⟨0, 0, none, 4096 * n⟩ []) := by
  show execFlushAnswer i s = _
  unfold execFlushAnswer
  rw [hi]

/-! ### The oldest answer (R16, R199, R220, R448) -/

theorem exec_helmCommandAnswer {e : Ending} (hr : (s.d.helm.find? fun r => r.answer.isSome) = some r) (he : r.answer = some e) (fail : Nat) :
    exec (.helmCommandAnswer fail) s = act (!(r.src = 9999 && 8 ≤ s.x.svc.out.length)
      && !(0x80 ≤ reqOpc r && (helmPending s || !s.x.cas.wait.isEmpty))) s (deliver s r e fail) := by
  show execHelmCommandAnswer fail s = _
  unfold execHelmCommandAnswer
  rw [hr]
  dsimp only
  rw [he]

theorem exec_helmCommandAnswer_pending {e : Ending} (hr : (s.d.helm.find? fun r => r.answer.isSome) = some r) (he : r.answer = some e)
    (ho : 0x80 ≤ reqOpc r) (hp : helmPending s = true) (fail : Nat) : exec (.helmCommandAnswer fail) s = .next s :=
  (exec_helmCommandAnswer hr he fail).trans (next_idle (by simp [ho, hp]))

/-- To a handler goes any answer of FLUSH, and that of an admin command once every record and every position is done. -/
theorem exec_helmCommandAnswer_due {e : Ending} (hr : (s.d.helm.find? fun r => r.answer.isSome) = some r) (he : r.answer = some e)
    (hh : isHost r.src = true) (hdue : reqOpc r < 0x80 ∨ (helmPending s = false ∧ s.x.cas.wait = [])) (fail : Nat) :
    exec (.helmCommandAnswer fail) s = .next (deliver s r e fail) := by
  refine (exec_helmCommandAnswer hr he fail).trans (next_act ?_)
  rcases hdue with hlow | ⟨hp, hw⟩
  · simp [ne_svc_of_host hh, Nat.not_le.2 hlow]
  · simp [ne_svc_of_host hh, hp, hw]

/-- A request leaves the helm's queue. -/
def unqueued (s : State) (r : HelmReq) : State := { s with d := { s.d with helm := s.d.helm.erase r } }

/-- An answer without output reaches the local store of the handler that is parked for it (R199). -/
theorem deliver_mhelm {a : Nat} (hh : isHost r.src = true) (ho : r.out = []) (hc : (th s r.src).cont = .mhelm a) (e : Ending) (fail : Nat) :
    deliver s r e fail = toReady (lsWr (unqueued s r) r.src a (leBytes 16 (recordOf s r.src e))) r.src := by
  have hc' : (th (unqueued s r) r.src).cont = .mhelm a := hc
  unfold unqueued at hc'
  unfold deliver
  simp only [ne_svc_of_host hh, hh, ho, hc', List.isEmpty_nil, Bool.not_true, Bool.false_and, Bool.false_eq_true, if_false, if_true]
  rfl

end

/-- Settles O44: FLUSH by its checks in order, its answer by what it tracks, and the delivery of the oldest answer. -/
theorem helmAnswers : Obligations.HelmAnswers := by
  unfold Obligations.HelmAnswers
  intro s r fail
  refine ⟨?_, ?_, ?_, ?_, ?_, ?_, ?_⟩
  · rintro ⟨hn, ho, hb, hm⟩ hrun
    rw [exec_flush_due hn ho hb hm, dataMode_eq_false hrun]
    rfl
  · rintro ⟨hn, ho, hb, hm⟩ hrun hlate hvol
    rw [exec_flush_due hn ho hb hm, dataMode_run hrun, hlate]
    simp [hvol, answerReq]
  · rintro ⟨hn, ho, hb, hm⟩ hrun hlate hvol haddr
    rw [exec_flush_due hn ho hb hm, dataMode_run hrun, hlate]
    simp [hvol, haddr, setAux]
  · intro i src l n hi hl
    exact ⟨_, (exec_flushAnswer hi).trans (next_act (List.all_eq_true.2 hl)), rfl⟩
  · intro i src l n o hi ho hf
    exact (exec_flushAnswer hi).trans (next_idle (List.all_eq_false.2 ⟨o, ho, by simp [hf]⟩))
  · intro e a hr he hh ho hc hdue
    have hexec := exec_helmCommandAnswer_due hr he hh hdue fail
    rw [deliver_mhelm hh ho hc, toReady_host _ hh] at hexec
    refine ⟨_, _, hexec, rfl, th_enforceL_host _ _ hh, enforceL_helm _ _, ?_, ?_, ?_, ?_, rfl⟩
    · rw [th_readied_same]
    · rw [th_readied_same]
    · rw [th_readied_same]
      exact ls_lsWr ..
    · exact fun m hm => (threadsKept_readied _ _ m hm).trans (threadsKept_lsWr _ _ _ _ m hm)
  · intro e hr he ho hp
    exact exec_helmCommandAnswer_pending hr he ho hp fail

end Sys2Proof.Machine
end

section
/-! PROOFS of the statements on the chronometer: time instructions, ticks and dead reckoning, the almanac, the first steps of KINDLE,
and the admin commands. -/
namespace Sys2Proof.Machine
open Sys2Proof Sys2Proof.Safety

/-! ### TNOW, TFLAGS, TWAIT and QCHG (R40, R156, R198, R396) -/

section
variable (s : State) (t : Nat)

/-- The record of a thread that begins to wait (R155). -/
theorem th_wait (w : Why) (arg : Nat) (k : Cont) : th (wait s t w arg k) t =
    { th s t with st := w.state, why := w, lastWhy := w, arg := arg, sinceNow := s.clk.now, sinceRef := s.clk.refNs,
                  waitAt := s.order, cont := k, waited := true, runIssued := 0 } := th_modTh_same (tick s) t _

theorem threadsKept_wait (w : Why) (arg : Nat) (k : Cont) : ThreadsKept t s (wait s t w arg k) := fun _ hm =>
  th_modTh_other (tick s) _ hm

theorem threadsKept_trans {s v u : State} {t : Nat} (h : ThreadsKept t s v) (h' : ThreadsKept t v u) : ThreadsKept t s u :=
  fun m hm => (h' m hm).trans (h m hm)

theorem threadsKept_adv : ThreadsKept t s (adv s t) := (issued_adv' s t).threads

/-- The record of a thread whose instruction begins a wait (R146, R155). -/
theorem th_advWait (w : Why) (arg : Nat) (k : Cont) : th (advWait s t w arg k) t = waiting s (th s t) w arg k := by
  rw [advWait, th_wait, (issued_adv' s t).thread, adv_clk, adv_order]
  rfl

theorem threadsKept_advWait (w : Why) (arg : Nat) (k : Cont) : ThreadsKept t s (advWait s t w arg k) :=
  threadsKept_trans (threadsKept_adv s t) (threadsKept_wait (adv s t) t w arg k)

/-- A charge that does not fit parks its thread behind the tenant's earlier ones (R396). -/
theorem th_parkCharge (c y u : Nat) (k : Cont) : (th (parkCharge s t c y u k) t).st = .parked ∧
    (th (parkCharge s t c y u k) t).why = .quota ∧ (th (parkCharge s t c y u k) t).pc = (th s t).pc := by
  rw [parkCharge, th_wait]
  exact ⟨rfl, rfl, rfl⟩

theorem threadsKept_parkCharge (c y u : Nat) (k : Cont) : ThreadsKept t s (parkCharge s t c y u k) := fun m hm =>
  threadsKept_wait _ t _ _ k m hm

theorem parkCharge_parked (c y u : Nat) (k : Cont) : (parkCharge s t c y u k).d.ten.parked = s.d.ten.parked ++ [(t, c, y, u)] := rfl

end

section
variable {s : State} {t rs1 rs2 imm : Nat}

theorem exec_tnow {rd : Nat} (h : issues s t (aw 0xC0 rd 0 0 0 0) = true) :
    exec (.tnow t rd) s = .next (retire s t rd (BitVec.ofNat 64 s.clk.now)) := next_act h

theorem exec_tflags {rd : Nat} (h : issues s t (aw 0xC1 rd 0 0 0 0) = true) :
    exec (.tflags t rd) s = .next (retire s t rd (BitVec.ofNat 64 (stampFlags s t))) := next_act h

theorem exec_twait (h : issues s t (aw 0xC2 0 rs1 0 0 0) = true) : exec (.twait t rs1) s =
    .next (if (gr s t rs1).toNat ≤ s.clk.now then adv s t else advWait s t .time (gr s t rs1).toNat .nothing) := next_act h

theorem exec_qchg (h : issues s t (aw 0xC3 0 rs1 rs2 0 imm) = true) : exec (.qchg t rs1 rs2 imm) s =
    .next (if isSys s t then adv s t
      else if chargeFits s t (gr s t rs1).toNat ((gr s t rs2).toNat) imm then adv (makeCharge s t (gr s t rs1).toNat ((gr s t rs2).toNat) imm) t
      else parkCharge (adv s t) t (gr s t rs1).toNat ((gr s t rs2).toNat) imm .nothing) := next_act h

end

/-- The stamp-flag byte of a thread's next stamp, JUMP in bit 3 (R40). -/
theorem stampFlags_eq (s : State) (src : Nat) : stampFlags s src =
    getF s CHR_STAT_DR + 2 * getF s CHR_STAT_SLEW + 4 * getF s CHR_STAT_UNSET
      + if mget 0 s.clk.jumpSeen src < s.clk.steps then 8 else 0 := by
  unfold stampFlags b2n
  by_cases h : mget 0 s.clk.jumpSeen src < s.clk.steps <;> simp [h]

/-- Settles O20: each instruction by its effect when it issues, the waits by `th_advWait` and `th_parkCharge`. -/
theorem timeAndQuota : Obligations.TimeAndQuota := by
  intro s t rd rs1 rs2 imm
  dsimp only
  refine ⟨fun h => ⟨_, exec_tnow h, retired_retire ..⟩,
    fun h => ⟨_, exec_tflags h, stampFlags_eq s t ▸ retired_retire ..⟩,
    fun h => ⟨fun ha => ?_, fun ha => ?_⟩, fun h => ⟨fun hs => ?_, fun hs hf => ?_, fun hs hf => ?_⟩⟩
  · exact ⟨_, (exec_twait h).trans (by rw [if_pos ha]), issued_adv' s t⟩
  · exact ⟨_, (exec_twait h).trans (by rw [if_neg (Nat.not_le.2 ha)]), th_advWait .., threadsKept_advWait s t _ _ _⟩
  · exact ⟨_, (exec_qchg h).trans (by rw [if_pos hs]), issued_adv' s t⟩
  · exact ⟨_, _, (exec_qchg h).trans (by rw [if_neg (by simp [hs]), if_pos hf]), rfl, issued_adv' ..⟩
  · refine ⟨_, (exec_qchg h).trans (by rw [if_neg (by simp [hs]), if_neg (by simpa using hf)]), ?_⟩
    obtain ⟨hst, hwhy, hpc⟩ := th_parkCharge (adv s t) t (gr s t rs1).toNat ((gr s t rs2).toNat) imm .nothing
    refine ⟨hst, hwhy, hpc.trans ?_, threadsKept_trans (threadsKept_adv s t) (threadsKept_parkCharge _ t _ _ _ _), ?_⟩
    · rw [(issued_adv' s t).thread]; rfl
    · rw [parkCharge_parked, adv_d]

/-! ### Ticks (R36, R37, R41 to R47, R58) -/

section
variable (s : State)

/-- A saturating count reads the sum, stopped at the field's largest value. -/
theorem getF_addSat_same (f : Fld) (d : Nat) : getF (addSat s f d) f = min (getF s f + d) (2 ^ f.w - 1) % 2 ^ f.w :=
  getF_setF_same s f _

theorem getF_addSat_other {f g : Fld} (d : Nat) (h : (g.key == f.key && g.ret == f.ret) = false) :
    getF (addSat s f d) g = getF s g := getF_setF_other s _ h

/-- An accepted candidate is the last tick (R36). -/
def tickAccepted (s : State) : State := { s with clk := { s.clk with lastTick := some s.clk.now, anyNext := false } }

/-- A candidate lies 0.9 P to 1.1 P after the last tick `l` (R36). -/
def tickGood (s : State) (l : Nat) : Prop := 9 * tickP s ≤ 10 * (s.clk.now - l) ∧ 10 * (s.clk.now - l) ≤ 11 * tickP s

/-- What `execChrTick` meets at the active edge of a pulse `hi` ns high. -/
def atEdge (s : State) (hi : Nat) (el : Elapse) : State :=
  elapse s ⟨el.ns + (if getF s CHR_CTL_TICK_EDGE = 1 then hi else 0), el.corr⟩

/-! What a correction, a step of CHR_NOW and the end of dead reckoning leave alone -/

theorem getF_slewBy (e : Int) (b : Bool) {f : Fld} (h : (f.key == CHR_STAT_SLEW.key && f.ret == CHR_STAT_SLEW.ret) = false) :
    getF (slewBy s e b) f = getF s f := getF_setF_other _ _ h

@[simp] theorem getF_setAlm (i : Nat) (e : AlmEntry) (f : Fld) : getF (setAlm s i e) f = getF s f := by
  unfold setAlm
  dsimp only
  split <;> simp <;> rfl

@[simp] theorem setAlm_clk (i : Nat) (e : AlmEntry) : (setAlm s i e).clk = s.clk := by
  unfold setAlm
  dsimp only
  split <;> simp

theorem getF_stepTo (t : Nat) {f : Fld} (h : (f.key == CHR_STAT_SLEW.key && f.ret == CHR_STAT_SLEW.ret) = false) :
    getF (stepTo s t) f = getF s f := by
  unfold stepTo
  dsimp only
  split
  · rw [foldl_field (getF · f) _ fun s e => by split <;> simp]
    exact getF_setF_other _ _ h
  · exact getF_setF_other _ _ h

theorem stepTo_now (t : Nat) : (stepTo s t).clk.now = t := by
  unfold stepTo
  dsimp only
  split
  · rw [foldl_field (·.clk.now) _ fun s e => by split <;> simp]
    simp
  · simp

theorem stepTo_pend (t : Nat) : (stepTo s t).clk.pend = s.clk.pend := by
  unfold stepTo
  dsimp only
  split
  · rw [foldl_field (·.clk.pend) _ fun s e => by split <;> simp]
    simp [setTen]
  · simp [setTen]

/-- A pending SET_TIME that takes effect sets CHR_NOW, is pending no longer, and ends UNSET (R42, R43). -/
theorem applyPend_effect (p : SetPend) (v : Nat) :
    (applyPend s p v).clk.now = v ∧ (applyPend s p v).clk.pend = none ∧ getF (applyPend s p v) CHR_STAT_UNSET = 0 := by
  refine ⟨?_, ?_, (getF_setF_same (stepTo _ v) CHR_STAT_UNSET 0)⟩
  · simp [applyPend, timeSet, stepTo_now]
  · simp [applyPend, timeSet, stepTo_pend]

theorem getF_applyPend (p : SetPend) (v : Nat) {f : Fld} (h : (f.key == CHR_STAT_SLEW.key && f.ret == CHR_STAT_SLEW.ret) = false)
    (h' : (f.key == CHR_STAT_UNSET.key && f.ret == CHR_STAT_UNSET.ret) = false) : getF (applyPend s p v) f = getF s f := by
  simp only [applyPend, getF_answerHelm, timeSet, getF_setF_other _ _ h', getF_stepTo _ _ h]
  rfl

/-- With no correction of a SET_TIME left, the error of a tick alone is removed (R37, R41). -/
theorem tickErr_plain {s : State} (h : ¬ (s.clk.fromSet = true ∧ s.clk.slewRem ≠ 0)) :
    tickErr s false = slewBy (storeErr s) (phaseErr s) false := by
  unfold tickErr
  simp only [Bool.and_eq_true, bne_iff_ne, ne_eq] at h ⊢
  simp [h]

/-- The fix after dead reckoning replaces what is left of a correction (R47, log 29). -/
theorem tickErr_replace : tickErr s true = slewBy (storeErr s) (phaseErr s) false := by simp [tickErr]

theorem phaseErr_congr {s u : State} (hn : u.clk.now = s.clk.now) (hp : getF u CHR_TICK_PER_PERIOD_US = getF s CHR_TICK_PER_PERIOD_US) :
    phaseErr u = phaseErr s := by
  simp [phaseErr, tickP, hn, hp]

/-- A tick's error is stored and its correction begins (R37, R41). -/
theorem slewErr_effect (e : Int) : (slewBy (storeErr s) e false).clk = { s.clk with slewRem := e, fromSet := false } ∧
    getF (slewBy (storeErr s) e false) CHR_STAT_SLEW = (if 1000 ≤ e.natAbs then 1 else 0) ∧
    getF (slewBy (storeErr s) e false) CHR_ERR_LAST_ERR_NS = errField (phaseErr s) % 2 ^ CHR_ERR_LAST_ERR_NS.w ∧
    RegsKept [CHR_STAT_SLEW, CHR_ERR_LAST_ERR_NS] s (slewBy (storeErr s) e false) := by
  refine ⟨by simp [slewBy, storeErr], ?_, ?_, fun f hf => ?_⟩
  · rw [slewBy, getF_setF_same]
    by_cases h : 1000 ≤ e.natAbs <;> simp [h, b2n, CHR_STAT_SLEW]
  · rw [getF_slewBy _ _ _ (by decide), storeErr, getF_setF_same]
  · rw [getF_slewBy _ _ _ (hf _ (by simp)), storeErr, getF_setF_other _ _ (hf _ (by simp))]

/-- The second good tick ends dead reckoning and starts the fix (R47). -/
theorem leaveDr_effect : getF (leaveDr s) CHR_STAT_DR = 0 ∧ (leaveDr s).clk.lastTick = s.clk.lastTick ∧
    (leaveDr s).clk.slewRem = phaseErr s := by
  unfold leaveDr
  dsimp only
  generalize hw : event (logEv (setF s CHR_STAT_DR 0) 1 1 []) 6 = w
  have hnow : w.clk.now = s.clk.now := by rw [← hw, event_clk]; simp [logEv, stamped]
  have hlast : w.clk.lastTick = s.clk.lastTick := by rw [← hw, event_clk]; simp [logEv, stamped]
  have hdr : getF w CHR_STAT_DR = 0 := by rw [← hw, getF_event, getF_logEv, getF_setF_same]; rfl
  have hper : getF w CHR_TICK_PER_PERIOD_US = getF s CHR_TICK_PER_PERIOD_US := by
    rw [← hw, getF_event, getF_logEv, getF_setF_other _ _ (by decide)]
  rw [tickErr_replace]
  obtain ⟨hclk, -, -, hkept⟩ := slewErr_effect (if 2000 * tickP s < s.clk.now - s.clk.drSince then setF w CHR_STAT_UNSET 1 else w)
    (phaseErr (if 2000 * tickP s < s.clk.now - s.clk.drSince then setF w CHR_STAT_UNSET 1 else w))
  refine ⟨(hkept _ (by decide)).trans ?_, ?_, ?_⟩
  · split
    · rw [getF_setF_other _ _ (by decide), hdr]
    · exact hdr
  · rw [hclk]
    split <;> simp [hlast]
  · rw [hclk]
    refine phaseErr_congr ?_ ?_ <;> split
    · simp [hnow]
    · exact hnow
    · rw [getF_setF_other _ _ (by decide), hper]
    · exact hper

end

/-! The row by what the edge meets -/

section
variable {s : State} {hi lo : Nat} {el : Elapse}

theorem getF_atEdge {f : Fld} (h : (f.key == CHR_STAT_SLEW.key && f.ret == CHR_STAT_SLEW.ret) = false) :
    getF (atEdge s hi el) f = getF s f := getF_elapse s _ f h

/-- A candidate (R36): CHR_TICK is on, the pulse and the gap before it 100 ns or more. -/
def tickCandidate (s : State) (hi lo : Nat) : Prop := mode s ≠ mOff ∧ getF s CHR_CTL_TICK_EN = 1 ∧ 100 ≤ hi ∧ 100 ≤ lo

/-- Where the chronometer accepts the candidate: unconditionally, or in the window of the last tick (R36). -/
def tickAccepts (v : State) : Prop := (v.clk.anyNext = true ∨ v.clk.lastTick = none) ∨ ∃ l, v.clk.lastTick = some l ∧ tickGood v l

theorem flag_iff {f : Fld} : flag s f = true ↔ getF s f = 1 := beq_iff_eq

theorem flag_eq_false {f : Fld} (h : getF s f = 0) : flag s f = false := by simp [flag, h]

theorem mode_atEdge : mode (atEdge s hi el) = mode s := mode_elapse s _

theorem getF_atEdge_tickEn : getF (atEdge s hi el) CHR_CTL_TICK_EN = getF s CHR_CTL_TICK_EN := getF_atEdge (by decide)

/-- The row's guard: the pulse is no candidate. -/
theorem notCandidate_iff : (mode (atEdge s hi el) = mOff || !flag (atEdge s hi el) CHR_CTL_TICK_EN || hi < 100 || lo < 100) = true ↔
    ¬ tickCandidate s hi lo := by
  simp only [mode_atEdge, flag, getF_atEdge_tickEn, tickCandidate, Bool.or_eq_true, decide_eq_true_eq, Bool.not_eq_true',
    beq_eq_false_iff_ne]
  omega

theorem exec_chrTick : exec (.chrTick hi lo el) s = execChrTick hi lo el s ∧
    elapse s ⟨el.ns + (if flag s CHR_CTL_TICK_EDGE then hi else 0), el.corr⟩ = atEdge s hi el :=
  ⟨rfl, by simp only [atEdge, flag_iff]⟩

/-- A pulse that is no candidate only lets time pass. -/
theorem exec_chrTick_idle (h : ¬ tickCandidate s hi lo) : exec (.chrTick hi lo el) s = .next (atEdge s hi el) := by
  obtain ⟨he, hv⟩ := exec_chrTick (s := s) (hi := hi) (lo := lo) (el := el)
  rw [he, execChrTick, hv]
  exact if_pos (notCandidate_iff.2 h)

/-- What a candidate does at its edge (R36, R37, R43, R47): the SET_TIME that awaited the tick, the tick's error, the end of dead
reckoning, or a glitch. -/
def tickEffect (v : State) : State :=
  let u := tickAccepted v
  let good := match v.clk.lastTick with
    | some l => decide (9 * tickP v ≤ 10 * (v.clk.now - l)) && decide (10 * (v.clk.now - l) ≤ 11 * tickP v)
    | none => false
  let set := fun (late : State) => match v.clk.pend with
    | some q => tickAccepted (applyPend (storeErr u) q q.t)
    | none => if flag u CHR_STAT_DR then late else tickErr u false
  if v.clk.anyNext || v.clk.lastTick.isNone then set (storeErr u)
  else if good then set (leaveDr u)
  else setF (addSat v CHR_GLITCH_CNT_COUNT 1) CHR_STAT_GLITCH 1

theorem exec_chrTick_candidate (h : tickCandidate s hi lo) :
    exec (.chrTick hi lo el) s = .next (tickEffect (atEdge s hi el)) := by
  obtain ⟨he, hs⟩ := exec_chrTick (s := s) (hi := hi) (lo := lo) (el := el)
  rw [he, execChrTick, hs]
  generalize hv : atEdge s hi el = v
  rw [if_neg (by rw [← hv, notCandidate_iff]; exact not_not_intro h), tickEffect, apply_ite Host.Outcome.next, apply_ite Host.Outcome.next]
  rfl

section
variable {v : State} {l : Nat}

theorem tickEffect_glitch (ha : v.clk.anyNext = false) (hl : v.clk.lastTick = some l) (hg : ¬ tickGood v l) :
    tickEffect v = setF (addSat v CHR_GLITCH_CNT_COUNT 1) CHR_STAT_GLITCH 1 := by
  rw [tickGood, not_and] at hg
  simp [tickEffect, ha, hl]
  omega

theorem tickEffect_pend {q : SetPend} (hc : tickAccepts v) (hp : v.clk.pend = some q) :
    tickEffect v = tickAccepted (applyPend (storeErr (tickAccepted v)) q q.t) := by
  rcases hc with hc | ⟨l, hl, hlo, hhi⟩
  · simp [tickEffect, hc, hp]
  · simp [tickEffect, hl, hlo, hhi, hp]

theorem tickEffect_locked (hc : tickAccepts v) (hp : v.clk.pend = none) (hd : flag (tickAccepted v) CHR_STAT_DR = false) :
    tickEffect v = tickErr (tickAccepted v) false := by
  rcases hc with hc | ⟨l, hl, hlo, hhi⟩
  · simp [tickEffect, hc, hp, hd]
  · simp [tickEffect, hl, hlo, hhi, hp, hd]

theorem tickEffect_second (ha : v.clk.anyNext = false) (hl : v.clk.lastTick = some l) (hg : tickGood v l) (hp : v.clk.pend = none)
    (hd : flag (tickAccepted v) CHR_STAT_DR = true) : tickEffect v = leaveDr (tickAccepted v) := by
  simp [tickEffect, ha, hl, hg.1, hg.2, hp, hd]

end
end

/-- A stored glitch changes its flag and its count alone. -/
theorem glitch_effect (v : State) : getF (setF (addSat v CHR_GLITCH_CNT_COUNT 1) CHR_STAT_GLITCH 1) CHR_STAT_GLITCH = 1 ∧
    getF (setF (addSat v CHR_GLITCH_CNT_COUNT 1) CHR_STAT_GLITCH 1) CHR_GLITCH_CNT_COUNT
      = min (getF v CHR_GLITCH_CNT_COUNT + 1) (2 ^ CHR_GLITCH_CNT_COUNT.w - 1) % 2 ^ CHR_GLITCH_CNT_COUNT.w ∧
    RegsKept [CHR_STAT_GLITCH, CHR_GLITCH_CNT_COUNT] v (setF (addSat v CHR_GLITCH_CNT_COUNT 1) CHR_STAT_GLITCH 1) := by
  refine ⟨getF_setF_same .., ?_, fun f hf => ?_⟩
  · rw [getF_setF_other _ _ (by decide), getF_addSat_same]
  · rw [getF_setF_other _ _ (hf _ (by simp)), getF_addSat_other _ _ (hf _ (by simp))]

/-- Settles O25: the row by what the edge meets, then the effect of each outcome. -/
theorem chronometerTick : Obligations.ChronometerTick := by
  intro s hi lo el v p cand good free
  have hv : atEdge s hi el = v := rfl
  have hp : tickP v = p := congrArg (1000 * ·) (getF_atEdge (s := s) (hi := hi) (el := el) (f := CHR_TICK_PER_PERIOD_US) (by decide))
  have hgood : ∀ l, tickGood v l ↔ good l := fun l => by rw [tickGood, hp]
  have hacc : (free ∨ ∃ l, v.clk.lastTick = some l ∧ good l) → tickAccepts v := fun h =>
    h.imp_right fun ⟨l, hl, hg⟩ => ⟨l, hl, (hgood l).2 hg⟩
  have hexec : cand → exec (.chrTick hi lo el) s = .next (tickEffect v) := exec_chrTick_candidate
  have hdr : getF (tickAccepted v) CHR_STAT_DR = getF s CHR_STAT_DR := getF_atEdge (hi := hi) (el := el) (by decide)
  have herr : phaseErr (tickAccepted v) = phaseErr v := rfl
  refine ⟨exec_chrTick_idle, fun l hc ha hl hg => ?_, fun q hc hf hq => ?_, fun hc hf hn hd hs => ?_, fun l hc ha hl hg hn hd => ?_⟩
  · obtain ⟨hglitch, hcount, hkept⟩ := glitch_effect v
    refine ⟨_, (hexec hc).trans (by rw [tickEffect_glitch ha hl (by rwa [hgood])]), hglitch, ?_, hkept, ?_⟩
    · rw [hcount, ← hv, getF_atEdge (by decide)]
    · rw [setF_frame _ (f := CHR_STAT_GLITCH) rfl, addSat, setF_frame _ (f := CHR_GLITCH_CNT_COUNT) rfl]
  · obtain ⟨hnow, hpend, hset⟩ := applyPend_effect (storeErr (tickAccepted v)) q q.t
    refine ⟨_, (hexec hc).trans (congrArg _ (tickEffect_pend (hacc hf) hq)), ?_⟩
    refine ⟨hnow, congrArg some hnow, hpend, rfl, hset, ?_⟩
    show getF (applyPend _ q q.t) _ = _
    rw [getF_applyPend _ _ _ (by decide) (by decide), storeErr, getF_setF_same, herr]
  · obtain ⟨hclk, hslew, hlast, hkept⟩ := slewErr_effect (tickAccepted v) (phaseErr v)
    refine ⟨_, (hexec hc).trans ?_, hclk, hslew, hlast, hkept⟩
    rw [tickEffect_locked (hacc hf) hn (flag_eq_false (hdr.trans hd)), tickErr_plain (s := tickAccepted v) hs, herr]
  · obtain ⟨hdr0, hlast, hrem⟩ := leaveDr_effect (tickAccepted v)
    refine ⟨_, (hexec hc).trans ?_, hdr0, hlast, hrem⟩
    rw [tickEffect_second ha hl ((hgood l).2 hg) hn (flag_iff.2 (hdr.trans hd))]

/-! ### Dead reckoning, the end of a correction, TICK_EN and the almanac's scan (R41, R46, R53, R55, R58) -/

section
variable {s : State}

/-- The clock with the next candidate accepted unconditionally, `since` the start of dead reckoning (R36, R46). -/
def awaitingTick (s : State) : State := { s with clk := { s.clk with anyNext := true, lastTick := none, drSince := s.clk.now } }

/-- Dead reckoning begins: shown, remembered, recorded and signalled (R46). -/
theorem enterDr_begins (hd : getF s CHR_STAT_DR = 0) (hp : s.clk.pend = none) : enterDr s =
    event (logEv (setF (setF (awaitingTick s) CHR_STAT_DR 1) CHR_STAT_DR_SEEN 1) 1 0 []) 6 := by
  have hf : flag s CHR_STAT_DR = false := flag_eq_false hd
  have hf' : ¬ flag (awaitingTick s) CHR_STAT_DR = true := by rw [show flag (awaitingTick s) CHR_STAT_DR = false from hf]; decide
  have hp' : (event (logEv (setF (setF (awaitingTick s) CHR_STAT_DR 1) CHR_STAT_DR_SEEN 1) 1 0 []) 6).clk.pend = none := by
    rw [event_clk]
    simpa [logEv, stamped, awaitingTick] using hp
  unfold enterDr
  simp only [hf, Bool.false_eq_true, if_false]
  refine (if_neg hf').trans ?_
  split
  next q hq => exact absurd (hp'.symm.trans hq) (by simp)
  next => rfl

theorem regsKept_enterDr (hd : getF s CHR_STAT_DR = 0) (hp : s.clk.pend = none) :
    RegsKept [CHR_STAT_DR, CHR_STAT_DR_SEEN] s (enterDr s) := fun f hf => by
  rw [enterDr_begins hd hp, getF_event, getF_logEv, getF_setF_other _ _ (hf _ (by simp)), getF_setF_other _ _ (hf _ (by simp))]
  rfl

theorem getF_enterDr_dr (hd : getF s CHR_STAT_DR = 0) (hp : s.clk.pend = none) : getF (enterDr s) CHR_STAT_DR = 1 := by
  rw [enterDr_begins hd hp, getF_event, getF_logEv, getF_setF_other _ _ (by decide), getF_setF_same]
  rfl

theorem getF_enterDr_seen (hd : getF s CHR_STAT_DR = 0) (hp : s.clk.pend = none) : getF (enterDr s) CHR_STAT_DR_SEEN = 1 := by
  rw [enterDr_begins hd hp, getF_event, getF_logEv, getF_setF_same]
  rfl

theorem enterDr_clk (hd : getF s CHR_STAT_DR = 0) (hp : s.clk.pend = none) : (enterDr s).clk.drSince = s.clk.now ∧
    (enterDr s).clk.lastTick = none ∧ (enterDr s).clk.anyNext = true := by
  rw [enterDr_begins hd hp, event_clk]
  simp [logEv, stamped, awaitingTick]

/-- DEAD_RECKONING_ENTRY where it is due (R46). -/
theorem exec_deadReckoningEntry {el : Elapse} (hm : mode s ≠ mOff) (hk : mode s ≠ mKindle ∨ 5 ≤ getF s HELM_KINDLE_STEP)
    (hd : getF s CHR_STAT_DR = 0) (ht : 3000 * getF s CHR_TICK_PER_PERIOD_US
      ≤ 2 * ((elapse s el).clk.now - (elapse s el).clk.lastTick.getD (elapse s el).clk.tickBase)) :
    exec (.deadReckoningEntry el) s = .next (enterDr (elapse s el)) := by
  have hstep : getF (elapse s el) HELM_KINDLE_STEP = getF s HELM_KINDLE_STEP := getF_elapse s el _ (by decide)
  have hper : getF (elapse s el) CHR_TICK_PER_PERIOD_US = getF s CHR_TICK_PER_PERIOD_US := getF_elapse s el _ (by decide)
  have hdr : flag (elapse s el) CHR_STAT_DR = false := flag_eq_false ((getF_elapse s el _ (by decide)).trans hd)
  have ht' : 3 * tickP (elapse s el) ≤ 2 * ((elapse s el).clk.now - (elapse s el).clk.lastTick.getD (elapse s el).clk.tickBase) := by
    rw [tickP, hper]
    omega
  show Host.Outcome.next (if _ then _ else _) = _
  rw [if_pos]
  simpa [hm, hstep, hdr, ht'] using hk

theorem exec_slewComplete {el : Elapse} (h : (elapse s el).clk.slewRem.natAbs < 1000) :
    exec (.slewComplete el) s = .next (setF (elapse s el) CHR_STAT_SLEW 0) := congrArg Host.Outcome.next (if_pos h)

theorem exec_tickEnWrite (h : regOk s 1 = true) (b : Bool) : exec (.tickEnWrite b) s = .next (tickEnWrite s b) := next_act h

/-- With TICK_EN cleared the module is in dead reckoning (R46, R58). -/
theorem tickEnWrite_off (hp : s.clk.pend = none) : getF (tickEnWrite s false) CHR_CTL_TICK_EN = 0 ∧
    getF (tickEnWrite s false) CHR_STAT_DR = 1 := by
  unfold tickEnWrite
  have hen : getF (setF s CHR_CTL_TICK_EN (b2n false)) CHR_CTL_TICK_EN = 0 := getF_setF_same ..
  have hp' : (setF s CHR_CTL_TICK_EN (b2n false)).clk.pend = none := by rw [setF_clk, hp]
  simp only [Bool.false_eq_true, if_false]
  split
  next h => exact ⟨hen, flag_iff.1 h⟩
  next h =>
    have hd : getF (setF s CHR_CTL_TICK_EN (b2n false)) CHR_STAT_DR = 0 := by
      have hlt := getF_lt (setF s CHR_CTL_TICK_EN (b2n false)) CHR_STAT_DR
      rw [flag_iff] at h
      simp only [CHR_STAT_DR] at h hlt ⊢
      omega
    exact ⟨(regsKept_enterDr hd hp' _ (by decide)).trans hen, getF_enterDr_dr hd hp'⟩

/-! The scan (R53, R55, R395) -/

@[simp] theorem setTen_clk (x : Tenancy) : (setTen s x).clk = s.clk := rfl
@[simp] theorem setBal_clk (n b v : Nat) : (setBal s n b v).clk = s.clk := rfl

theorem applyQuota_clk (now : Nat) : (applyQuota s now).clk = s.clk := by
  unfold applyQuota
  dsimp only
  rw [setTen_clk, foldl_field (·.clk) _ fun s d => ?_]
  rw [setTen_clk, foldl_field (·.clk) _ fun s b => setBal_clk ..]

theorem exec_almanacScan_late {el : Elapse} (hm : mode s ≠ mOff) (hs : (elapse s el).clk.scanMs < (elapse s el).clk.now / 1000000)
    (hd : dueNow (elapse s el) ≠ []) : exec (.almanacScan el) s =
      .next (setF { elapse s el with clk := { (elapse s el).clk with lateMs := (elapse s el).clk.now / 1000000 } } CHR_STAT_LATE 1) := by
  show Host.Outcome.next (if _ then _ else if _ then _ else _) = _
  rw [if_neg (by simpa [hm] using hs), if_pos (by simpa using hd)]

/-- A scan of millisecond `b`, with the entries due at `at_` listed (R53, R395). -/
def scanned (v : State) (b at_ : Nat) : State :=
  let w := applyQuota { v with clk := { v.clk with scanMs := b, scanAt := at_ } } (1000000 * b)
  { w with clk := { w.clk with due := scanDue w } }

theorem scanned_scanMs (v : State) (b at_ : Nat) : (scanned v b at_).clk.scanMs = b := by
  show (applyQuota _ _).clk.scanMs = b
  rw [applyQuota_clk]

theorem exec_almanacScan {el : Elapse} (hm : mode s ≠ mOff) (hs : (elapse s el).clk.scanMs < (elapse s el).clk.now / 1000000)
    (hd : dueNow (elapse s el) = []) {b at_ : Nat}
    (hb : (if (elapse s el).clk.scanMs < (elapse s el).clk.lateMs then (elapse s el).clk.scanMs + 1
      else (elapse s el).clk.now / 1000000) = b)
    (hat : (if b < (elapse s el).clk.now / 1000000 then b * 1000000 else (elapse s el).clk.now) = at_) :
    exec (.almanacScan el) s = .next (scanned (elapse s el) b at_) := by
  show Host.Outcome.next (if _ then _ else if _ then _ else _) = _
  rw [if_neg (by simpa [hm] using hs), if_neg (by simp [hd]), hb, scanned, Nat.mul_comm 1000000 b]
  subst hat
  rfl

end

/-- Settles O26: each row where it is due, with what it leaves alone. -/
theorem chronometerEvents : Obligations.ChronometerEvents := by
  intro s el b v
  have hdr {f : Fld} (h : (f.key == CHR_STAT_SLEW.key && f.ret == CHR_STAT_SLEW.ret) = false) : getF v f = getF s f := getF_elapse s el f h
  refine ⟨fun hm hk hd hp ht => ?_, fun h => ?_, fun hr hb => ?_, fun hr hb hp => ?_, fun hm hs hd => ?_, fun hm hs hd => ?_⟩
  · have hd' : getF v CHR_STAT_DR = 0 := (hdr (by decide)).trans hd
    obtain ⟨hsince, hlast, hany⟩ := enterDr_clk hd' hp
    exact ⟨_, exec_deadReckoningEntry hm hk hd ht, getF_enterDr_dr hd' hp, getF_enterDr_seen hd' hp, hsince, hlast, hany,
      regsKept_enterDr hd' hp⟩
  · exact ⟨_, exec_slewComplete h, getF_setF_same .., regsKept_setF _ _ _, setF_clk ..⟩
  · subst hb
    refine ⟨_, exec_tickEnWrite hr true, getF_setF_same s CHR_CTL_TICK_EN 1, ?_, regsKept_setF s CHR_CTL_TICK_EN 1⟩
    simp [tickEnWrite]
  · subst hb
    exact ⟨_, exec_tickEnWrite hr false, tickEnWrite_off hp⟩
  · exact ⟨_, exec_almanacScan_late hm hs hd, getF_setF_same .., regsKept_setF _ _ _, setF_clk ..⟩
  · intro late b'
    have hb : (if v.clk.scanMs < v.clk.lateMs then v.clk.scanMs + 1 else v.clk.now / 1000000) = b' := by
      simp only [b', late]
      split <;> split <;> omega
    have hat : (if b' < v.clk.now / 1000000 then b' * 1000000 else v.clk.now) = if late then 1000000 * b' else v.clk.now := by
      simp only [b', late]
      split <;> split <;> omega
    exact ⟨_, _, exec_almanacScan hm hs hd hb hat, rfl, rfl, scanned_scanMs ..⟩

/-! ### Admin commands once their fields are right (R42, R50, R394, R395, R442, R478, R480, R500) -/

section
variable {s : State} {r : HelmReq} {o : Nat} {modes : List Nat} {sel : HelmReq → Bool} {field : State → HelmReq → Option Nat}
  {eff : HelmReq → State → State} {pb : ParamBuf}

/-- The row of a request that the helm takes up: refused on a field, or its effect. -/
theorem adminRow_asked (h : asked s r o modes) (hs : sel r = true) : adminRow o sel modes field eff s =
    .next (match field (beginReq s r.src) r with
      | some d => answerHelm (beginReq s r.src) r.src ⟨0x11, d, none, if o = 0x8A && d = 0x82 then 17824 else 0⟩ []
      | none => eff r (beginReq s r.src)) := by
  obtain ⟨hr, ho, hi, hm, hmode, hf⟩ := h
  have hmode' : inMode (beginReq s r.src) modes = true := hmode
  have hf' : flag (beginReq s r.src) CAS_STAT_FROZEN = false := hf
  have hm' : (mode s != mOff) = true := bne_iff_ne.2 hm
  unfold adminRow
  simp only [hr, act, ho, hs, hi, hm', hmode', hf', decide_true, Bool.and_self, Bool.not_true, Bool.false_eq_true, if_false,
    Bool.false_and, if_true] <;> rfl

theorem adminRow_effect (h : asked s r o modes) (hs : sel r = true) (hf : field (beginReq s r.src) r = none) :
    adminRow o sel modes field eff s = .next (eff r (beginReq s r.src)) := by
  rw [adminRow_asked h hs, hf]

theorem adminRow_refuse (h : asked s r o modes) (hs : sel r = true) {d : Nat} (hf : field (beginReq s r.src) r = some d) :
    adminRow o sel modes field eff s =
      .next (answerHelm (beginReq s r.src) r.src ⟨0x11, d, none, if o = 0x8A && d = 0x82 then 17824 else 0⟩ []) := by
  rw [adminRow_asked h hs, hf]

/-- A parameter buffer that host memory gives is judged and used (R118). -/
theorem adminBufRow_effect (h : asked s r o modes) (hs : sel r = true) (hb : bufFail s r pb = none)
    (hf : field (beginReq s r.src) r = none) : adminBufRow o pb sel modes field eff s = .next (eff r (beginReq s r.src)) := by
  have hb' : bufFail (beginReq s r.src) r pb = none := hb
  unfold adminBufRow
  rw [adminRow_effect h hs (by simp [hb', hf]), hb']

theorem adminBufRow_refuse (h : asked s r o modes) (hs : sel r = true) {d : Nat} (hb : bufFail s r pb = none ∨ d ≠ 0x80)
    (hf : field (beginReq s r.src) r = some d) : adminBufRow o pb sel modes field eff s =
      .next (answerHelm (beginReq s r.src) r.src ⟨0x11, d, none, if o = 0x8A && d = 0x82 then 17824 else 0⟩ []) := by
  unfold adminBufRow
  refine adminRow_refuse h hs ?_
  rw [hf]
  refine if_neg ?_
  rcases hb with hb | hb
  · have hb' : bufFail (beginReq s r.src) r pb = none := hb
    simp [hb']
  · simp [hb]

end

/-! What each of them does -/

section
variable (s : State)

/-- A SET_TIME awaits the edge at `edge` (R42, R43): what was left of a correction goes. -/
def timeAwaited (src t edge : Nat) : State :=
  setF { s with clk := { s.clk with pend := some ⟨nearest (tickP s) t, s.clk.now, edge, src⟩, slewRem := 0, fromSet := false } }
    CHR_STAT_SLEW 0

/-- Until the time was set, a SET_TIME outside dead reckoning awaits a tick (R42). -/
theorem setTime_unset {s : State} (hu : getF s CHR_STAT_UNSET = 1) (hd : getF s CHR_STAT_DR = 0) (src t : Nat) :
    ∃ edge, setTime s src t = timeAwaited s src t edge := by
  unfold setTime
  simp only [flag_iff.2 hu, flag_eq_false hd, if_true, Bool.false_eq_true, if_false]
  exact ⟨_, rfl⟩

theorem setTime_slew {s : State} {t : Nat} (hu : getF s CHR_STAT_UNSET = 0) (h : t ≤ s.clk.now + 1000000000)
    (h' : s.clk.now ≤ t + 1000000000) (src : Nat) :
    setTime s src t = answerHelm (slewBy s ((s.clk.now : Int) - t) true) src okEnd [] := by
  unfold setTime
  simp [flag_eq_false hu, h, h']

theorem setTime_refuse {s : State} {t : Nat} (hu : getF s CHR_STAT_UNSET = 0) (h : t + 1000000000 < s.clk.now) (src : Nat) :
    setTime s src t = answerHelm s src ⟨0x13, 6, none, 0⟩ [] := by
  unfold setTime
  simp only [flag_eq_false hu, Bool.false_eq_true, if_false]
  rw [if_neg (by simp; omega), if_neg (by omega)]

/-- A change passed on leaves the settings record as it was written. -/
theorem passOn_ret (w : List Nat) : (passOn s w).ret = s.ret := by
  have h : (if mirrors s then send s (.pair 6 w) else s).ret = s.ret := by split <;> rfl
  unfold passOn
  dsimp only
  generalize (if mirrors s then send s (.pair 6 w) else s) = u at h
  split
  · rw [foldl_field (·.ret) _ fun s p => send_ret .., h]
  · exact h

theorem passOnWait_ret (w : List Nat) : (passOnWait s w).ret = s.ret := by
  unfold passOnWait
  dsimp only
  split <;> simp [passOn_ret]

/-- The logbook with only the entry of its own clearing (R500). -/
theorem clearLog_effect : ∃ e, (clearLog s).keep.log = [e] ∧ (clearLog s).keep.logSeq = 1 ∧ (clearLog s).trigs = [] ∧
    getF (clearLog s) LOG_STAT_LOST = 0 ∧ getF (clearLog s) LOG_STAT_FULL = 0 ∧
    (s.trigs = [] → e.trig = 96 ∧ e.detail = [s.keep.log.length, getF s LOG_STAT_LOST]) := by
  unfold clearLog
  dsimp only
  generalize hv : (List.range s.trigs.length).foldl (fun s _ => writeNext s) s = v
  have hnil : s.trigs = [] → v = s := fun h => by rw [← hv, h]; rfl
  unfold writeEntry
  simp only [trigOn, stamped, BEq.rfl, Bool.and_self, Bool.true_or, Bool.not_true, Bool.false_eq_true, if_false, List.length_nil,
    Nat.reduceLeDiff]
  refine ⟨_, rfl, rfl, by simp, ?_, ?_, fun h => ⟨rfl, ?_⟩⟩
  · show getF (setF (setC (setC v LOG_STAT_FULL 0) LOG_STAT_LOST 0) LOG_CUR_INDEX 0) LOG_STAT_LOST = 0
    rw [getF_setF_other _ _ (by decide), getF_setC_same]
    rfl
  · show getF (setF (setC (setC v LOG_STAT_FULL 0) LOG_STAT_LOST 0) LOG_CUR_INDEX 0) LOG_STAT_FULL = 0
    rw [getF_setF_other _ _ (by decide), getF_setC_other _ _ (by decide), getF_setC_same]
    rfl
  · rw [← hnil h]

end

/-! The rows -/

section
variable {s : State} {r : HelmReq} {pb : ParamBuf}

theorem exec_setTime (h : asked s r 0x86 [mRun, mService, mSafe]) (hf : fieldCheck r true true none = none) :
    exec .setTime s = .next (setTime (beginReq s r.src) r.src (ARG0 r)) := by
  show execSetTime s = _
  exact adminRow_effect h rfl hf

/-- What the buffer of an ALMANAC_SET spells has a kind and a period of whole milliseconds (R50). -/
theorem exec_almanacSet_content (h : asked s r 0x87 [mRun, mService]) (hf : fieldCheck r true true (some 32) = none)
    (hb : bufFail s r pb = none) (hk : ¬ ((almOf (reqBuf r pb)).kind ≤ 9 ∧ (almOf (reqBuf r pb)).period % 1000000 = 0)) :
    exec (.almanacSet pb) s = .next (answerReq (beginReq s r.src) r 0x11 0x80) := by
  show execAlmanacSet pb s = _
  refine adminBufRow_refuse h rfl (.inl hb) ?_
  rw [hf]
  exact if_neg (by simpa using hk)

/-- The entry that an ALMANAC_SET names, written as its buffer spells it and passed on (R50). -/
def almanacWritten (v : State) (r : HelmReq) (pb : ParamBuf) : State :=
  let i := bits (ARG0 r) 0 8
  let e := almOf (reqBuf r pb)
  passOnWait (commit { v with ret := { v.ret with alm := mset AlmEntry.unused v.ret.alm i e } }) (cfgWords (.alm i e))

theorem exec_almanacSet (h : asked s r 0x87 [mRun, mService]) (hf : fieldCheck r true true (some 32) = none)
    (hb : bufFail s r pb = none) (hk : (almOf (reqBuf r pb)).kind ≤ 9) (hp : (almOf (reqBuf r pb)).period % 1000000 = 0) :
    exec (.almanacSet pb) s = .next (
      if bits (ARG0 r) 0 8 < 4 && !fixedOk (beginReq s r.src) (bits (ARG0 r) 0 8) (almOf (reqBuf r pb)) then answerReq (beginReq s r.src) r 0x13 7
      else answerReq (almanacWritten (beginReq s r.src) r pb) r 0 0) := by
  show execAlmanacSet pb s = _
  refine adminBufRow_effect h rfl hb ?_
  rw [hf]
  exact if_pos (by simp [hk, hp])

theorem almEntry_answerReq (v : State) (cls d m : Nat) : almEntry (answerReq v r cls d) m = almEntry v m := rfl

theorem answerReq_ret (v : State) (cls d : Nat) : (answerReq v r cls d).ret = v.ret := rfl

theorem almEntry_almanacWritten (v : State) (r : HelmReq) (pb : ParamBuf) (m : Nat) : almEntry (almanacWritten v r pb) m =
    if m = bits (ARG0 r) 0 8 then almOf (reqBuf r pb) else almEntry v m := by
  unfold almEntry almanacWritten
  rw [passOnWait_ret, commit_ret]
  exact mget_mset ..

theorem exec_quotaSet_content (h : asked s r 0x8D [mRun, mService]) (hf : fieldCheck r true true (some 64) = none)
    (hb : bufFail s r pb = none) (hk : ¬ (bucketOk (quotaOfBuf (reqBuf r pb)).b0 = true ∧ bucketOk (quotaOfBuf (reqBuf r pb)).b1 = true ∧
      bucketOk (quotaOfBuf (reqBuf r pb)).b2 = true)) :
    exec (.quotaSet pb) s = .next (answerReq (beginReq s r.src) r 0x11 0x80) := by
  show execQuotaSet pb s = _
  refine adminBufRow_refuse h rfl (.inl hb) ?_
  rw [hf]
  exact if_neg (by simpa [and_assoc] using hk)

/-- The buckets that a QUOTA_SET names, recorded as its buffer spells them and passed on (R394, R395). -/
def quotaWritten (v : State) (r : HelmReq) (pb : ParamBuf) : State :=
  let n := bits (ARG0 r) 0 10
  let fill := bit (oLe (reqBuf r pb) 48 1) 3
  passOnWait (recordQuota v n (quotaOfBuf (reqBuf r pb)) fill) (cfgWords (.quota n (quotaOfBuf (reqBuf r pb)) fill))

theorem exec_quotaSet (h : asked s r 0x8D [mRun, mService]) (hf : fieldCheck r true true (some 64) = none)
    (hb : bufFail s r pb = none) (h0 : bucketOk (quotaOfBuf (reqBuf r pb)).b0 = true) (h1 : bucketOk (quotaOfBuf (reqBuf r pb)).b1 = true)
    (h2 : bucketOk (quotaOfBuf (reqBuf r pb)).b2 = true) :
    exec (.quotaSet pb) s = .next (answerReq (quotaWritten (beginReq s r.src) r pb) r 0 0) := by
  show execQuotaSet pb s = _
  refine adminBufRow_effect h rfl hb ?_
  rw [hf]
  exact if_pos (by simp [h0, h1, h2])

theorem quota_quotaWritten (v : State) (r : HelmReq) (pb : ParamBuf) (m : Nat) :
    mget Quota.none (quotaWritten v r pb).ret.more.quota m =
      if m = bits (ARG0 r) 0 10 then quotaOfBuf (reqBuf r pb) else mget Quota.none v.ret.more.quota m := by
  unfold quotaWritten
  rw [passOnWait_ret]
  unfold recordQuota
  dsimp only [setTen]
  rw [commit_ret]
  exact mget_mset ..

theorem exec_swapRole (h : asked s r 0x89 [mRun]) (hf : fieldCheck r true true none = none) : exec .swapRole s = .next (
    if !eligible s then answerReq (beginReq s r.src) r 0x13 4
    else answerReq (setF (beginReq s r.src) PAIR_SWAPAT_AT (if ARG1 r = 0 then s.clk.now else ARG1 r)) r 0 0) := by
  show execSwapRole s = _
  exact adminRow_effect h rfl hf

theorem exec_attest (h : asked s r 0x8A [mRun, mService, mSafe]) (hf : fieldCheck r true true (some 17824) = none)
    (hb : bufFail s r pb = none) {b : List Byte} (hr : b = reportBody (beginReq s r.src) ((reqBuf r pb).take 48)) :
    exec (.attest pb) s = .next (answerHelm (stamped (beginReq s r.src) srcMisc) r.src ⟨0, 0, none, 17824⟩
      (b ++ padTo 0 384 (Config.identRsaSign b) ++ padTo 0 16224 (Config.identSlhSign b))) := by
  subst hr
  show execAttest pb s = _
  exact adminBufRow_effect h rfl hb hf

/-- A buffer too small for the report is answered with the length it needs (R480). -/
theorem exec_attest_short (h : asked s r 0x8A [mRun, mService, mSafe]) (hf : fieldCheck r true true (some 17824) = some 0x82) :
    exec (.attest pb) s = .next (answerHelm (beginReq s r.src) r.src ⟨0x11, 0x82, none, 17824⟩ []) := by
  show execAttest pb s = _
  exact adminBufRow_refuse h rfl (.inr (by decide)) hf

/-- Every report begins with its magic (R480). -/
theorem reportBody_magic (v : State) (nonce : List Byte) : (reportBody v nonce).take 4 = leBytes 4 0x52545441 := by
  unfold reportBody
  simp only [List.append_assoc]
  exact List.take_left' (leBytes_length ..)

theorem exec_logClear (h : asked s r 0x8E [mRun, mService, mSafe]) (hf : fieldCheck r true true none = none) :
    exec .logClear s = .next (answerReq (clearLog (beginReq s r.src)) r 0 0) := by
  show execLogClear s = _
  exact adminRow_effect h rfl hf

/-- The content of an ENROLL is no enrolment for this module (R466 to R470, R478). -/
def enrollBad (s : State) (o : List Byte) : Bool :=
  (headCheck [3] (arbOk s (o.take 20480)) (ownerKeys s) (o.take 20480)).isSome
    || (bodyCheck (o.take 20480) ((o.drop 20480).take (oBlen (o.take 20480)))).isSome

/-- The owner copy written, and its sequence number in force (R478). -/
def enrolled (v : State) (o : List Byte) : State :=
  setC (setC (storeWr (storeErase v (ownerTarget v / 4096) 16) (ownerTarget v) o) IMG_OWNER_OSEQ (oArb o)) IMG_OWNER_OARB 0

theorem ownerKeys_congr {s t : State} (h : t.store = s.store) : ownerKeys t = ownerKeys s := by
  unfold ownerKeys ownerCopy ownerValid
  simp only [storeHead_congr h, storeBody_congr h]

theorem enrollBad_congr {s t : State} (hs : t.store = s.store) (hr : t.ret = s.ret) (o : List Byte) : enrollBad t o = enrollBad s o := by
  rw [enrollBad, enrollBad, arbOk_congr hr, ownerKeys_congr hs]

theorem enrollBad_iff (s : State) (o : List Byte) : enrollBad s o = true ↔
    (headCheck [3] (arbOk s (o.take 20480)) (ownerKeys s) (o.take 20480)).isSome = true
      ∨ (bodyCheck (o.take 20480) ((o.drop 20480).take (oBlen (o.take 20480)))).isSome = true := Bool.or_eq_true_iff

/-- The copy, then its two fields (R478). -/
theorem enrolled_effect (v : State) (o : List Byte) : (enrolled v o).store =
      (storeWr (storeErase v (ownerTarget v / 4096) 16) (ownerTarget v) o).store ∧
    getF (enrolled v o) IMG_OWNER_OSEQ = oArb o % 2 ^ IMG_OWNER_OSEQ.w ∧ getF (enrolled v o) IMG_OWNER_OARB = 0 := by
  unfold enrolled
  refine ⟨by simp, ?_, getF_setC_same ..⟩
  rw [getF_setC_other _ _ (by decide), getF_setC_same]

/-- ENROLL judges its buffer's content past the common fields (R478). -/
theorem exec_enroll (h : asked s r 0x8F [mService]) (hf : fieldCheck r true true (some 24576) = none)
    (hb : bufFail s r pb = none) : (enrollBad s ((reqBuf r pb).take 24576) = true →
      exec (.enroll pb) s = .next (answerReq (beginReq s r.src) r 0x11 0x80))
    ∧ (enrollBad s ((reqBuf r pb).take 24576) = false →
      exec (.enroll pb) s = .next (answerReq (enrolled (beginReq s r.src) ((reqBuf r pb).take 24576)) r 0 0)) := by
  rw [← enrollBad_congr (s := s) (t := beginReq s r.src) rfl rfl]
  refine ⟨fun hk => ?_, fun hk => ?_⟩
  · show execEnroll pb s = _
    refine adminBufRow_refuse h rfl (.inl hb) ?_
    rw [hf]
    exact if_pos hk
  · show execEnroll pb s = _
    refine adminBufRow_effect h rfl hb ?_
    rw [hf]
    exact if_neg (Bool.eq_false_iff.1 hk)

end

/-- Settles O42: each row by `adminRow_asked`, then the command's own effect. -/
theorem adminEffects : Obligations.AdminEffects := by
  intro s r pb v no ok t i n e q o
  refine ⟨fun ha hok => ⟨fun hu hd => ?_, fun hu h h' => ?_, fun hu h => ?_⟩, fun ha hf hb => ⟨fun hk => ?_, fun hk hp hi hx => ?_, fun hk hp hx => ?_⟩,
    fun ha hf hb => ⟨fun hk => ?_, fun h0 h1 h2 => ?_⟩, fun ha hok hel => ?_, fun ha hok hel => ?_, fun ha hf hb => ?_, fun ha hf => ?_,
    fun ha hok => ?_, fun ha hf hb => ?_⟩
  · obtain ⟨edge, he⟩ := setTime_unset (s := v) hu hd r.src t
    refine ⟨_, _, (exec_setTime ha hok).trans (congrArg _ he), congrArg _ (setF_clk ..), rfl, rfl, ?_, ?_⟩
    · simp [timeAwaited]
    · simp [timeAwaited]
  · exact (exec_setTime ha hok).trans (congrArg _ (setTime_slew (s := v) hu h h' r.src))
  · exact (exec_setTime ha hok).trans (congrArg _ (setTime_refuse (s := v) hu h r.src))
  · exact exec_almanacSet_content ha hf hb hk
  · have hx' : fixedOk v i e = false := hx
    refine (exec_almanacSet ha hf hb hk hp).trans (congrArg _ (if_pos ?_))
    rw [show fixedOk _ _ _ = false from hx', decide_eq_true (show bits (ARG0 r) 0 8 < 4 from hi)]
    rfl
  · refine ⟨_, (exec_almanacSet ha hf hb hk hp).trans (congrArg _ (if_neg ?_)), ?_, fun m hm => ?_, rfl, rfl⟩
    · have hx' : 4 ≤ i ∨ fixedOk v i e = true := hx
      simp only [Bool.and_eq_true, decide_eq_true_eq, Bool.not_eq_true', not_and, Bool.not_eq_false]
      exact fun hi => hx'.resolve_left (Nat.not_le.2 hi)
    · rw [almEntry_answerReq, almEntry_almanacWritten, if_pos rfl]
    · rw [almEntry_answerReq, almEntry_almanacWritten, if_neg hm]
      rfl
  · exact exec_quotaSet_content ha hf hb hk
  · refine ⟨_, exec_quotaSet ha hf hb h0 h1 h2, ?_, fun m hm => ?_⟩
    · rw [answerReq_ret, quota_quotaWritten, if_pos rfl]
    · rw [answerReq_ret, quota_quotaWritten, if_neg hm]
      rfl
  · exact (exec_swapRole ha hok).trans (congrArg _ (if_pos (by simp [hel])))
  · exact ⟨_, (exec_swapRole ha hok).trans (congrArg _ (if_neg (by simp [hel]))), regsKept_setF v _ _, getF_setF_same v ..⟩
  · exact ⟨_, _, exec_attest ha hf hb rfl, rfl, rfl, reportBody_magic ..⟩
  · exact exec_attest_short ha hf
  · obtain ⟨x, hlog, hseq, htr, hlost, hfull, hown⟩ := clearLog_effect v
    refine ⟨_, exec_logClear ha hok, congrArg List.length hlog, hseq, htr, hlost, hfull, fun hs m hm => ?_⟩
    obtain rfl : m = x := List.mem_singleton.1 (hlog ▸ hm)
    exact hown hs
  · obtain ⟨hbad, hgood⟩ := exec_enroll ha hf hb
    cases hk : enrollBad s o with
    | true => exact ⟨_, hbad hk, by rw [if_pos ((enrollBad_iff s o).1 hk)]; rfl⟩
    | false =>
      obtain ⟨hstore, hseq, harb⟩ := enrolled_effect v o
      refine ⟨_, hgood hk, ?_⟩
      rw [if_neg fun h => Bool.eq_false_iff.1 hk ((enrollBad_iff s o).2 h)]
      exact ⟨hstore, hseq, harb⟩

/-! ### KINDLE steps 3 to 6 and the taking of ownership (R58, R63 to R66, R70, R266, R431, R474) -/

section
variable (s : State)

/-! The mode stands through step 4: every field written lies above HELM_MODE.CUR -/

theorem mode_setF_above {f : Fld} (h : HELM_MODE_CUR.key < f.key) (v : Nat) : mode (setF s f v) = mode s :=
  mode_setF s (by simp [Nat.ne_of_lt h]) v

theorem mode_foldl_setF (l : List (Fld × Nat)) (h : ∀ x ∈ l, HELM_MODE_CUR.key < x.1.key) :
    mode (l.foldl (fun s x => setF s x.1 x.2) s) = mode s := by
  induction l generalizing s with
  | nil => rfl
  | cons x l ih =>
    rw [List.foldl_cons, ih _ fun y hy => h y (List.mem_cons_of_mem _ hy)]
    exact mode_setF_above s (h x List.mem_cons_self) _

theorem mode_with_ch (c : Chans) : mode { s with ch := c } = mode s := rfl

theorem mode_with_clk (c : Clk) : mode { s with clk := c } = mode s := rfl
theorem mode_with_ret (r : Retained) : mode { s with ret := r } = mode s := rfl
theorem mode_with_copies (a b : RsmCopy) : mode { s with copyA := a, copyB := b } = mode s := rfl
theorem mode_loadQuotas : mode (loadQuotas s) = mode s := getF_loadQuotas ..
theorem mode_with_boot_clk (b : Boot) (c : Clk) : mode { s with boot := b, clk := c } = mode s := rfl

theorem mode_loadScripts : mode (loadScripts s) = mode s := by
  unfold loadScripts loadParams
  rw [foldl_field mode _ fun s n => mode_foldl_setF s _ ?_]
  · exact mode_with_ch ..
  · simp only [List.forall_mem_cons, HELM_MODE_CUR, CH_ROWFMT_PAGE_W, CH_ROWFMT_PLANE_W, CH_ROWFMT_BLK_W, CH_ROWFMT_LUN_W,
      CH_ROWFMT_RCYC, CH_ROWFMT_IFACE, CH_SLOT_SLOTB, CH_TIMING_TCA_NS, CH_TIMING_POLL_NS, List.not_mem_nil, false_imp_iff,
      implies_true, and_true]
    omega

theorem mode_releaseTrigs : mode (releaseTrigs s) = mode s := by
  unfold releaseTrigs
  split
  · dsimp only
    split
    · rfl
    · exact mode_setF_above _ (by decide) _
  · rfl

theorem mode_applyPend (p : SetPend) (v : Nat) : mode (applyPend s p v) = mode s := getF_applyPend s p v (by decide) (by decide)

theorem mode_enterDr : mode (enterDr s) = mode s := by
  unfold enterDr
  extract_lets _ v w
  have hw : mode w = mode s := by
    simp only [w, mode_event, mode_logEv]
    rw [mode_setF_above _ (by decide), mode_setF_above _ (by decide)]
    rfl
  split
  · rfl
  · split
    · exact (mode_applyPend ..).trans hw
    · exact hw

theorem mode_convert (q : Nat) : mode (convert s q) = mode s := by
  unfold convert
  extract_lets _ _ _ _ _ _ s1 s2 s3 s4 s5
  have h5 : mode s5 = mode s := by
    simp only [s5, s4]
    rw [mode_setF_above _ (by simp only [HELM_MODE_CUR, MC_SP_SHORT]; omega), mode_setF_above _ (by simp only [HELM_MODE_CUR, MC_SP_WAYS]; omega),
      mode_setF_above _ (by simp only [HELM_MODE_CUR, MC_SP_STEPS]; omega)]
    exact getF_congr _ (by simp only [s3, s1, setSlice]) (by simp only [s3, s1, setSlice])
  split
  · exact (mode_logEv ..).trans h5
  · exact h5

theorem mode_kindleSettings : mode (kindleSettings s) = mode s := by
  unfold kindleSettings
  extract_lets v
  have hv : mode v = mode s := by
    simp only [v]
    rw [foldl_field mode _ fun s q => mode_convert s q]
    exact mode_setF_above s (by decide) _
  exact (mode_with_boot_clk v _ _).trans hv

theorem mode_sealFails (l : List Nat) : mode (l.foldl sealFail s) = mode s := foldl_field mode sealFail (fun _ _ => rfl) l s

theorem mode_katFail (c : Nat) : mode (katFail s c) = mode s := by
  unfold katFail
  dsimp only
  rw [mode_logEv]
  refine mode_setF_above s ?_ _
  split
  · simp only [HELM_MODE_CUR, CIP_ENGDIS_DIS]; omega
  · split
    · simp only [HELM_MODE_CUR, CIP_ENGDIS_TWKDIS]; omega
    · split
      · simp only [HELM_MODE_CUR, CIP_ENGDIS_TAGDIS]; omega
      · simp only [HELM_MODE_CUR, CIP_ENGDIS_GRDDIS]; omega

theorem runKat_effect (l : List Nat) : mode (runKat s l) = mode s ∧ getF (runKat s l) CIP_STAT_KAT_DONE = 1 := by
  unfold runKat
  dsimp only
  generalize hk : List.foldl katFail s _ = k
  have hm : mode k = mode s := by rw [← hk]; exact foldl_field mode _ (fun s c => mode_katFail s c) _ s
  split
  · exact ⟨by rw [mode_setF_above _ (by decide), mode_setF_above _ (by decide), hm], getF_setF_same ..⟩
  · exact ⟨by rw [mode_event, mode_setF_above _ (by decide), mode_setF_above _ (by decide), hm], (getF_event ..).trans (getF_setF_same ..)⟩

/-- A QUENCH that the power loss cut short is counted and recorded (R419). -/
def quenchCounted (s : State) : State :=
  if s.keep.qOpen then
    logEv (addSat { s with keep := { s.keep with qOpen := false }, rsm := { s.rsm with saved := none }, boot := { s.boot with tell5 := true } }
      PWR_CNT_INCOMPLETE 1) 12 2 [getF s PWR_LASTQ_STEP]
  else s

theorem quenchCounted_effect : mode (quenchCounted s) = mode s ∧ getF (quenchCounted s) CIP_STAT_KAT_DONE = getF s CIP_STAT_KAT_DONE ∧
    (quenchCounted s).keep.qOpen = false := by
  unfold quenchCounted
  split
  · refine ⟨?_, ?_, by simp⟩
    · rw [mode_logEv, addSat, mode_setF_above _ (by decide)]; rfl
    · rw [getF_logEv, getF_addSat_other _ _ (by decide)]; rfl
  · next h => exact ⟨rfl, rfl, by simpa using h⟩

/-- The settings record is read from its copies, and the chronometer resumes (R39, R46, R70). -/
def settingsRead (s : State) (badA badB : Bool) : State :=
  let s := { s with copyA := if badA then RsmCopy.blank else crcChecked s.copyA
                    copyB := if badB then RsmCopy.blank else crcChecked s.copyB }
  let none_ := (bestCopy s).isNone
  let s := setF (resumeClock (loadQuotas { loadScripts s with ret := rsmRet s })) HELM_KINDLE_FACTORY (b2n none_)
  let s := releaseTrigs s
  if none_ then logEv (commit s) 0 2 [] else s

theorem mode_settingsRead (badA badB : Bool) : mode (settingsRead s badA badB) = mode s := by
  unfold settingsRead
  extract_lets s1 none_ _ s2 s3
  have h3 : mode s3 = mode s := by
    simp only [s3, s2]
    rw [mode_releaseTrigs, mode_setF_above _ (by decide), resumeClock, mode_setF_above _ (by decide)]
    rw [mode_with_clk, mode_loadQuotas, mode_with_ret, mode_loadScripts]
    exact mode_with_copies ..
  split
  · exact (mode_logEv ..).trans ((getF_commit ..).trans h3)
  · exact h3

/-- Step 4 past the settings record: dead reckoning with TICK_EN = 0, the settings of this KINDLE, the tests (R58, R372, R375, R419). -/
def settingsRestored (s : State) (badA badB : Bool) (kat seals : List Nat) : State :=
  let w := settingsRead s badA badB
  quenchCounted (runKat ((seals.filter (· < 2080)).foldl sealFail
    (kindleSettings (if flag w CHR_CTL_TICK_EN then w else enterDr w))) kat)

theorem settingsRestored_effect (badA badB : Bool) (kat seals : List Nat) :
    mode (settingsRestored s badA badB kat seals) = mode s ∧ getF (settingsRestored s badA badB kat seals) CIP_STAT_KAT_DONE = 1 ∧
    (settingsRestored s badA badB kat seals).keep.qOpen = false := by
  unfold settingsRestored
  extract_lets w
  obtain ⟨hm, hk, hq⟩ := quenchCounted_effect (runKat ((seals.filter (· < 2080)).foldl sealFail
    (kindleSettings (if flag w CHR_CTL_TICK_EN then w else enterDr w))) kat)
  obtain ⟨hm', hk'⟩ := runKat_effect ((seals.filter (· < 2080)).foldl sealFail
    (kindleSettings (if flag w CHR_CTL_TICK_EN then w else enterDr w))) kat
  refine ⟨?_, hk.trans hk', hq⟩
  rw [hm, hm', mode_sealFails, mode_kindleSettings]
  split
  · exact mode_settingsRead ..
  · exact (mode_enterDr _).trans (mode_settingsRead ..)

end

/-! Roles and ownership (R65, R66, R431) -/

section
variable (s : State)

/-- The cascade's part shows in CAS_STAT alone. -/
theorem getF_casRole (a : Bool) {f : Fld} (h : ∀ g ∈ [CAS_STAT_MASTER, CAS_STAT_UP, CAS_STAT_PORTS], (f.key == g.key && f.ret == g.ret) = false) :
    getF (casRole s a) f = getF s f := by
  simp only [List.forall_mem_cons] at h
  obtain ⟨hm, hu, hp, -⟩ := h
  unfold casRole
  split
  · rfl
  · rw [getF_setF_other _ _ hp, getF_setF_other _ _ hu, getF_setF_other _ _ hm]

theorem casRole_x (a : Bool) : (casRole s a).x = s.x := by
  unfold casRole
  split <;> simp

theorem getF_beginAcquire (why : Nat) (f : Fld) : getF (beginAcquire s why) f = getF s f := rfl

/-- Enabling drivers writes CH_STAT alone beside PAIR_STAT.OWN. -/
theorem getF_driversOn_own : getF (driversOn s) PAIR_STAT_OWN = 1 := by
  unfold driversOn
  rw [foldl_field (getF · PAIR_STAT_OWN) _ fun s n => ?_]
  · exact getF_setF_same ..
  · split
    · rfl
    · exact getF_setF_other s _ (by simp only [PAIR_STAT_OWN, CH_STAT_DRV, Bool.and_eq_false_iff, beq_eq_false_iff_ne]; omega)

theorem driversOn_x : (driversOn s).x = s.x := by
  unfold driversOn
  rw [foldl_field (·.x) _ fun s n => by split <;> simp]
  simp

/-- Ownership held for KINDLE: shown, nothing acquired any more, and step 7 follows (R66). -/
theorem owned_kindle : getF (owned s 1) PAIR_STAT_OWN = 1 ∧ getF (owned s 1) HELM_KINDLE_STEP = 7 ∧ (owned s 1).x.pair.acq = none := by
  unfold owned toStep
  simp only [if_true]
  refine ⟨?_, getF_setF_same .., ?_⟩
  · exact (getF_setF_other _ _ (by decide)).trans (getF_driversOn_own _)
  · rw [setF_x, driversOn_x]
    rfl

end

/-! The rows -/

section
variable {s : State} {el : Elapse}

theorem atStep_elapse (s : State) (el : Elapse) (n : Nat) : atStep (elapse s el) n = atStep s n := by
  rw [atStep, atStep, mode_elapse, elapse_boot, getF_elapse s el _ (by decide)]

theorem exec_stagedImageCopy (h : atStep s 3 = true) (reprog : Nat) : exec (.stagedImageCopy reprog) s = .next (
    if (slotCheck s stagingSlot).isSome then toStep (romProtect (logEv (setC s IMG_STAGE_DUE 0) 15 1 [])) 4
    else toStep (romProtect (loadSlot (copyStaged s reprog) activeSlot (getF s HELM_KINDLE_SLOT))) 4) := next_act h

theorem exec_settingsRestore (h : atStep s 4 = true) (badA badB fault : Bool) (kat seals : List Nat) :
    exec (.settingsRestore badA badB fault kat seals el) s = .next (
      if fault then safeArise (elapse s el) 8 9998 else toStep (settingsRestored (elapse s el) badA badB kat seals) 5) := by
  show execSettingsRestore badA badB fault kat seals el s = _
  unfold execSettingsRestore
  rw [if_neg (by rw [atStep_elapse, h]; decide), apply_ite Host.Outcome.next]
  rfl

/-- DRAM is trained, and every line reads zero (R63, R266). -/
def dramTrained (v : State) : State :=
  toStep (setF { v with mem := { v.mem with dram := [], valid := [], bad := [] } } DRM_STAT_TRAINED 1) 6

theorem exec_dramTrain (h : atStep s 5 = true) : exec (.dramTrain el) s = .next (dramTrained (elapse s el)) :=
  next_act ((atStep_elapse s el 5).trans h)

theorem regsKept_dramTrained (v : State) : RegsKept [HELM_KINDLE_STEP, DRM_STAT_TRAINED] v (dramTrained v) := fun f hf => by
  unfold dramTrained toStep
  rw [getF_setF_other _ _ (hf _ (by simp)), getF_setF_other _ _ (hf _ (by simp))]
  rfl

/-- The level of OWN_IN seen at step 6, PSTATE of a module that KINDLE has not paired yet, and the cascade's part (R65, R446). -/
def roleSeen (s : State) (ownIn standby : Bool) : State :=
  casRole (setF { s with pins := { s.pins with ownIn := ownIn } } PAIR_STAT_PSTATE (b2n s.boot.pairEn)) (!standby)

theorem roleSeen_x (ownIn standby : Bool) : (roleSeen s ownIn standby).x = s.x := by
  rw [roleSeen, casRole_x, setF_x]

theorem getF_roleSeen_step (ownIn standby : Bool) : getF (roleSeen s ownIn standby) HELM_KINDLE_STEP = getF s HELM_KINDLE_STEP := by
  rw [roleSeen, getF_casRole _ _ (by decide), getF_setF_other _ _ (by decide)]
  rfl

theorem exec_roleSettle (h : atStep s 6 = true) (ownIn : Bool) {standby : Bool}
    (hs : (s.boot.pairEn && (flag s PAIR_CFG_ROLE || ownIn)) = standby) : exec (.roleSettle ownIn) s = .next (
      if standby then settleStandby (roleSeen s ownIn standby)
      else beginAcquire (setF (roleSeen s ownIn standby) HELM_KINDLE_ROLE 0) 1) := by
  show execRoleSettle ownIn s = _
  unfold execRoleSettle
  extract_lets _ v w b u
  have hb : b = standby := by
    rw [← hs]
    simp only [b, w, flag, setF_boot, getF_setF_other v _ (show (PAIR_CFG_ROLE.key == PAIR_STAT_PSTATE.key && _) = false by decide)]
    rfl
  rw [next_act h, ← hb]
  rfl

/-- Acquisition with OWN_IN low at step 3 of R431 (`in1`). -/
theorem exec_ownershipAcquire {v : State} (hv : elapse s el = v) {a : Acquire} (ha : v.x.pair.acq = some a) (h0 : a.at_ = 0) (in2 : Bool) :
    exec (.ownershipAcquire false in2 el) s = .next (
      if in2 then { v with pins := { v.pins with ownIn := in2 }
                           x := { v.x with pair := { v.x.pair with acq := some ⟨a.why, v.clk.refNs + (if v.boot.side then 25000 else 5000), true⟩ } } }
      else owned { v with pins := { v.pins with ownIn := in2 } } a.why) := by
  show execOwnershipAcquire false in2 el s = _
  unfold execOwnershipAcquire
  rw [hv]
  simp only [ha, h0, decide_true]
  exact next_act rfl

theorem exec_ownershipRetry {v : State} (hv : elapse s el = v) {a : Acquire} (ha : v.x.pair.acq = some a) (h0 : a.at_ ≠ 0)
    (hd : a.at_ ≤ v.clk.refNs) : exec (.ownershipRetry el) s =
      .next { v with x := { v.x with pair := { v.x.pair with acq := some { a with at_ := 0 } } } } := by
  show execOwnershipRetry el s = _
  unfold execOwnershipRetry
  rw [hv]
  simp only [ha]
  exact next_act (by simp [h0, hd])

end

theorem step_of_atStep {s : State} {n : Nat} (h : atStep s n = true) : mode s = mKindle ∧ getF s HELM_KINDLE_STEP = n := by
  simp only [atStep, Bool.and_eq_true, beq_iff_eq] at h
  exact ⟨h.1.1, h.2⟩

/-- Settles O29: each row at its step, then what it leaves. -/
theorem kindleFirstSteps : Obligations.KindleFirstSteps := by
  intro s reprog badA badB fault ownIn in1 in2 kat seals el v
  refine ⟨fun h => ?_, fun h hf => ?_, fun h hf => ?_, fun h => ?_, fun h hp hr => ?_, fun h hn => ?_, fun a ha h0 h1 h2 hw => ?_,
    fun a ha h0 h1 h2 => ?_, fun a ha h0 hd => ?_⟩
  · refine ⟨_, exec_stagedImageCopy h reprog, ?_, rfl⟩
    split <;> exact getF_setF_same ..
  · exact (exec_settingsRestore h badA badB fault kat seals).trans (congrArg _ (if_pos hf))
  · obtain ⟨hm, hk, hq⟩ := settingsRestored_effect v badA badB kat seals
    refine ⟨_, (exec_settingsRestore h badA badB fault kat seals).trans (congrArg _ (if_neg (by simp [hf]))), getF_setF_same .., ?_, ?_, ?_⟩
    · exact (mode_setF_above _ (by decide) _).trans (hm.trans ((mode_elapse s el).trans (step_of_atStep h).1))
    · exact (getF_setF_other _ _ (by decide)).trans hk
    · rw [toStep, setF_keep, hq]
  · refine ⟨_, exec_dramTrain h, getF_setF_same .., ?_, ?_, regsKept_dramTrained v⟩
    · exact (getF_setF_other _ _ (by decide)).trans (getF_setF_same ..)
    · simp [dramTrained, toStep]
  · have hs : (s.boot.pairEn && (flag s PAIR_CFG_ROLE || ownIn)) = true := by simpa [hp, flag] using hr
    refine ⟨_, (exec_roleSettle h ownIn hs).trans (congrArg _ (if_pos rfl)), ?_, getF_setF_same ..⟩
    exact (getF_setF_other _ _ (by decide)).trans (getF_setF_same ..)
  · have hs : (s.boot.pairEn && (flag s PAIR_CFG_ROLE || ownIn)) = false := by
      rw [Bool.eq_false_iff]
      simpa [flag] using hn
    refine ⟨_, (exec_roleSettle h ownIn hs).trans (congrArg _ (if_neg Bool.false_ne_true)), ?_, ?_, rfl⟩
    · exact (getF_beginAcquire ..).trans (getF_setF_same ..)
    · rw [getF_beginAcquire]
      exact (getF_setF_other _ _ (by decide)).trans ((getF_roleSeen_step ..).trans (step_of_atStep h).2)
  · subst h1 h2
    refine ⟨_, (exec_ownershipAcquire rfl ha h0 false).trans (congrArg _ (if_neg Bool.false_ne_true)), ?_⟩
    rw [hw]
    exact owned_kindle _
  · subst h1 h2
    exact ⟨_, (exec_ownershipAcquire rfl ha h0 true).trans (congrArg _ (if_pos rfl)), rfl, rfl⟩
  · exact ⟨_, exec_ownershipRetry rfl ha h0 hd, rfl⟩
/-! ### The almanac's rows (R48 to R57) -/

/-! #### What WATCH leaves and the work tied to it keeps -/

/-- What a watch boundary starts again (R51): the window counts of dies and roles, the period that timing uses, CHR_NOW as saved,
the masked core. -/
def watched (s : State) : Nat × NMap Nat × NMap Nat × Nat × Nat :=
  (s.ret.now, s.ch.errw, s.d.roleFaults, s.clk.watchMs, getF s HELM_VOTE_MASKED)

section
variable (s : State)

@[simp] theorem watched_with_mem (m : Mem) : watched { s with mem := m } = watched s := rfl
@[simp] theorem watched_with_map (m : MapCtl) : watched { s with map := m } = watched s := rfl
@[simp] theorem watched_with_md (m : Media) : watched { s with md := m } = watched s := rfl
@[simp] theorem watched_with_buf (b : BufMgr) : watched { s with buf := b } = watched s := rfl
@[simp] theorem watched_with_strides (x : NMap Stride) : watched { s with strides := x } = watched s := rfl
@[simp] theorem watched_with_ctx_x (c : NMap Ctx) (x : Aux) : watched { s with ctx := c, x := x } = watched s := rfl
@[simp] theorem watched_setSlice (q : Nat) (x : Slice) : watched (setSlice s q x) = watched s := rfl
@[simp] theorem watched_modTh (t : Nat) (f : Thread → Thread) : watched (modTh s t f) = watched s := rfl
@[simp] theorem watched_modCx (c : Nat) (f : Ctx → Ctx) : watched (modCx s c f) = watched s := rfl
@[simp] theorem watched_tick : watched (tick s) = watched s := rfl
@[simp] theorem watched_logEv (f e : Nat) (d : List Nat) : watched (logEv s f e d) = watched s := rfl
@[simp] theorem watched_errInc (i n : Nat) : watched (errInc s i n) = watched s := rfl
@[simp] theorem watched_send (m : Msg) : watched (send s m) = watched s := rfl
@[simp] theorem watched_event (v : Nat) : watched (event s v) = watched s := by simp [watched]
@[simp] theorem watched_stamped (n : Nat) : watched (stamped s n) = watched s := rfl

theorem ret_now_setF (f : Fld) (v : Nat) : (setF s f v).ret.now = s.ret.now := by
  unfold setF; split <;> simp

theorem watched_setF {f : Fld} (h : HELM_VOTE_MASKED.key < f.key) (v : Nat) : watched (setF s f v) = watched s := by
  simp [watched, ret_now_setF, getF_setF_other s v (f := f) (g := HELM_VOTE_MASKED) (by simp [Nat.ne_of_lt h])]

@[simp] theorem watched_ite {c : Prop} [Decidable c] (a b : State) :
    watched (if c then a else b) = if c then watched a else watched b := apply_ite watched c a b
end
section
variable (s : State)

/-! DRAM and the map's write-through queues -/

@[simp] theorem watched_dramWr (a : Nat) (b : List Byte) : watched (dramWr s a b) = watched s := by simp [dramWr]

@[simp] theorem watched_ueLog (l k : Nat) : watched (ueLog s l k) = watched s := by
  unfold ueLog
  iterate 5 rw [watched_setF _ (by decide)]

@[simp] theorem watched_dramCorrected (k : Nat) : watched (addSat s (DRM_ECNT_CORR k) 1) = watched s :=
  watched_setF s (by simp only [HELM_VOTE_MASKED, DRM_ECNT_CORR]; omega) _

@[simp] theorem watched_dramUncorrected (k : Nat) : watched (addSat s (DRM_ECNT_UNCORR k) 1) = watched s :=
  watched_setF s (by simp only [HELM_VOTE_MASKED, DRM_ECNT_UNCORR]; omega) _

@[simp] theorem watched_dramBitmapErr (k : Nat) : watched (addSat s (DRM_ECNT_BMERR k) 1) = watched s :=
  watched_setF s (by simp only [HELM_VOTE_MASKED, DRM_ECNT_BMERR]; omega) _

@[simp] theorem watched_dramUe (l k : Nat) : watched (dramUe s l k) = watched s := by
  simp [dramUe]

@[simp] theorem watched_dramCorr (l : Nat) : watched (dramCorr s l) = watched s := by
  have h : watched (errInc (addSat s (DRM_ECNT_CORR (l % 8)) 1) 5 1) = watched s := by
    rw [watched_errInc, watched_dramCorrected]
  unfold dramCorr
  dsimp only
  split
  · split
    · rw [watched_event, watched_logEv, watched_with_mem, h]
    · rw [watched_with_mem, h]
  · split
    · split
      · rw [watched_event, watched_logEv, watched_with_mem, h]
      · rw [watched_with_mem, h]
    · rw [watched_setF _ (by decide), h]

@[simp] theorem watched_bitmapErr (l : Nat) : watched (bitmapErr s l) = watched s := by
  simp [bitmapErr]

@[simp] theorem watched_dramMerge (a n : Nat) (e : MErr) : watched (dramMerge s a n e) = watched s := by
  unfold dramMerge
  split
  · rfl
  · dsimp only
    split
    · simp
    · cases e <;> simp

@[simp] theorem watched_wtDrain (q : Nat) (e : MErr) : watched (wtDrain s q e) = watched s := by
  unfold wtDrain; split <;> simp

@[simp] theorem watched_mapWr (a : Nat) (b : List Byte) : watched (mapWr s a b) = watched s := by
  unfold mapWr
  split
  · rfl
  · simp

@[simp] theorem watched_mapWrLe (a n v : Nat) : watched (mapWrLe s a n v) = watched s := watched_mapWr ..

/-! Overlay space -/

@[simp] theorem watched_setBit (b i : Nat) (v : Bool) : watched (setBit s b i v) = watched s := watched_mapWr ..

@[simp] theorem watched_overUpdate : watched (overUpdate s) = watched s := by
  simp [overUpdate, watched_setF _ (f := MAP_OVL_OVER) (by decide)]

@[simp] theorem watched_newChunk : watched (newChunk s).2 = watched s := by
  rw [newChunk, watched_setF _ (by decide), watched_setBit]

@[simp] theorem watched_newGroup : watched (newGroup s).2 = watched s := by
  rw [newGroup, watched_setF _ (by decide), watched_setBit]

@[simp] theorem watched_takeChunk (j : Nat) : watched (takeChunk s j).2 = watched s := by
  unfold takeChunk; split <;> simp

@[simp] theorem watched_takeGroup (j : Nat) : watched (takeGroup s j).2 = watched s := by
  unfold takeGroup; split <;> simp

@[simp] theorem watched_freeChunk (i : Nat) : watched (freeChunk s i) = watched s := by
  rw [freeChunk, watched_setF _ (by decide), watched_setBit]

@[simp] theorem watched_freeGroup (i : Nat) : watched (freeGroup s i) = watched s := by
  rw [freeGroup, watched_setF _ (by decide), watched_setBit, watched_setBit]

@[simp] theorem watched_releaseOverlay (j : Nat) : watched (releaseOverlay s j) = watched s := by
  unfold releaseOverlay
  dsimp only
  rw [watched_with_map, foldl_field watched _ (fun s i => watched_freeGroup s i),
    foldl_field watched _ (fun s i => watched_freeChunk s i)]

theorem watched_taken {α : Type} (f : State → Nat × State) (h : ∀ s, watched (f s).2 = watched s) (l : List α) (c : List Nat) :
    watched (l.foldl (fun (p : List Nat × State) _ => let (x, s) := f p.2; (p.1 ++ [x], s)) (c, s)).2 = watched s := by
  induction l generalizing c s with
  | nil => rfl
  | cons a l ih => rw [List.foldl_cons, ih, h]

@[simp] theorem watched_reserveOverlay (j : Nat) (n : Nat × Nat) : watched (reserveOverlay s j n) = watched s := by
  unfold reserveOverlay
  dsimp only
  rw [watched_with_map, watched_taken _ newGroup watched_newGroup, watched_taken _ newChunk watched_newChunk]

@[simp] theorem watched_moveOverlay (k j : Nat) : watched (moveOverlay s k j) = watched s := rfl

/-! A billet changes -/

@[simp] theorem watched_dropGroup (g : Nat) : watched (dropGroup s g) = watched s := by
  unfold dropGroup
  rw [watched_freeGroup, foldl_field watched _ fun s n => by dsimp only; split <;> simp]

theorem watched_storeFine (j g : Nat) (x : Nat × Fine) : watched (storeFine j s g x) = watched s := by
  unfold storeFine
  dsimp only
  split <;> simp

@[simp] theorem watched_retireFines (g : Nat) (b : Bil) : watched (retireFines s g b) = watched s := by
  unfold retireFines
  dsimp only
  rw [foldl_field watched _ fun s n => by split <;> simp, foldl_field watched _ fun s k => by split <;> simp]

@[simp] theorem watched_storeFines (j g : Nat) (l : List (Nat × Fine)) :
    watched (l.foldl (fun s x => storeFine j s g x) s) = watched s :=
  foldl_field watched _ (fun s x => watched_storeFine s j g x) l s

@[simp] theorem watched_storeBil (j a i : Nat) (b : Bil) (touched : Bool) : watched (storeBil j a s i b touched) = watched s := by
  unfold storeBil
  simp only [watched_overUpdate, watched_ite, watched_mapWrLe, watched_setBit, watched_dropGroup, watched_storeFines,
    watched_retireFines, ite_self, apply_ite Prod.snd, watched_mapWr, watched_takeGroup]

theorem watched_moveCounts (b b' : Bil) : watched (moveCounts s b b') = watched s := by
  unfold moveCounts
  refine foldl_field watched _ (fun s k => ?_) _ s
  dsimp only
  split
  · rfl
  · split <;> split <;> simp [bandCount, setBandEnt, dramWrLe]

@[simp] theorem watched_changeBil (j a i : Nat) (b b' : Bil) (touched : Bool) :
    watched (changeBil j a s i b b' touched) = watched s := by
  rw [changeBil, watched_storeBil, watched_moveCounts, noteOwed, watched_with_ctx_x]

theorem watched_applyBil (r : JRec) (i : Nat) : watched (applyBil r s i) = watched s := by simp [applyBil]

@[simp] theorem watched_applyRec (r : JRec) : watched (applyRec s r) = watched s := by
  unfold applyRec
  split
  · exact foldl_field watched _ (fun s i => watched_applyBil s r i) _ s
  · exact foldl_field watched _ (fun s n => by simp) _ s
  · exact watched_mapWrLe ..
  · rfl
  · rfl
end
section
variable (s : State)

/-! Lookups that go on as a record commits -/

@[simp] theorem watched_wayWindow (q w v : Nat) : watched (setF s (MC_ERRCNT_WATCH q w) v) = watched s :=
  watched_setF s (by simp only [HELM_VOTE_MASKED, MC_ERRCNT_WATCH]; omega) _

@[simp] theorem watched_wayUncorrected (q w : Nat) : watched (addSat s (MC_ERRCNT_UNCORR q w) 1) = watched s :=
  watched_setF s (by simp only [HELM_VOTE_MASKED, MC_ERRCNT_UNCORR]; omega) _

@[simp] theorem watched_wayCorrected (q w : Nat) : watched (addSat s (MC_ERRCNT_CORR q w) 1) = watched s :=
  watched_setF s (by simp only [HELM_VOTE_MASKED, MC_ERRCNT_CORR]; omega) _

@[simp] theorem watched_wayFloor (q v : Nat) : watched (setF s (MC_STAT_FLOOR q) v) = watched s :=
  watched_setF s (by simp only [HELM_VOTE_MASKED, MC_STAT_FLOOR]; omega) _

@[simp] theorem watched_wayDisabled (q v : Nat) : watched (setC s (MC_WAYDIS_DIS q) v) = watched s :=
  watched_setF s (by simp only [HELM_VOTE_MASKED, MC_WAYDIS_DIS]; omega) _

@[simp] theorem watched_hitCounted (q : Nat) : watched (addWrap s (MC_HITS_COUNT q) 1) = watched s :=
  watched_setF s (by simp only [HELM_VOTE_MASKED, MC_HITS_COUNT]; omega) _

@[simp] theorem watched_victimHitCounted (q : Nat) : watched (addWrap s (MC_VHITS_COUNT q) 1) = watched s :=
  watched_setF s (by simp only [HELM_VOTE_MASKED, MC_VHITS_COUNT]; omega) _

@[simp] theorem watched_missCounted (q : Nat) : watched (addWrap s (MC_MISSES_COUNT q) 1) = watched s :=
  watched_setF s (by simp only [HELM_VOTE_MASKED, MC_MISSES_COUNT]; omega) _

@[simp] theorem watched_hostIssueCounted (q : Nat) : watched (addWrap s (ANV_ISSUE_H_COUNT q) 1) = watched s :=
  watched_setF s (by simp only [HELM_VOTE_MASKED, ANV_ISSUE_H_COUNT]; omega) _

@[simp] theorem watched_internalIssueCounted (q : Nat) : watched (addWrap s (ANV_ISSUE_I_COUNT q) 1) = watched s :=
  watched_setF s (by simp only [HELM_VOTE_MASKED, ANV_ISSUE_I_COUNT]; omega) _

@[simp] theorem watched_wayErr (q w : Nat) (unc : Bool) : watched (wayErr s q w unc) = watched s := by simp [wayErr]

@[simp] theorem watched_loseCopy (l : Nat) (unc : Bool) : watched (loseCopy s l unc) = watched s := by
  unfold loseCopy
  dsimp only
  split <;> simp

@[simp] theorem watched_missTake (q l : Nat) (str pf : Bool) : watched (missTake s q l str pf) = watched s := by simp [missTake]

@[simp] theorem watched_strideStep (t l : Nat) : watched (strideStep s t l) = watched s := by
  unfold strideStep
  simp only [watched_ite]
  split
  · rfl
  · rw [foldl_field watched _ fun s k => by simp [prefetch]]
    simp

@[simp] theorem watched_access (t l : Nat) : watched (access s t l).2 = watched s := by
  unfold access
  dsimp only
  split
  · split <;> simp
  · split
    · split <;> simp
    · simp

@[simp] theorem watched_raise (t c k : Nat) : watched (raise s t c k) = watched s := rfl

@[simp] theorem watched_holdPark (t : Nat) : watched (holdPark s t) = watched s := rfl

@[simp] theorem watched_giveBack (t : Nat) : watched (giveBack s t) = watched s := by simp [giveBack]

@[simp] theorem watched_preempt (q : Nat) : watched (preempt s q) = watched s := by
  unfold preempt
  split
  · rfl
  · exact foldl_field watched _ (fun s (e : Nat × Nat) => watched_giveBack s e.2) _ s

@[simp] theorem watched_toReady (t : Nat) : watched (toReady s t) = watched s := by simp [toReady, enforceL]

@[simp] theorem watched_releaseWith (t r : Nat) (v : W64) : watched (releaseWith s t r v) = watched s := by simp [releaseWith]

@[simp] theorem watched_adv (t : Nat) : watched (adv s t) = watched s := by
  unfold adv counted
  dsimp only
  split
  · rw [watched_hostIssueCounted, watched_modTh, watched_modTh]
  · rw [watched_internalIssueCounted, watched_modTh, watched_modTh]

@[simp] theorem watched_retire (t r : Nat) (v : W64) : watched (retire s t r v) = watched s := by simp [retire]

@[simp] theorem watched_lookWait (t a : Nat) (k : Cont) : watched (lookWait s t a k) = watched s := by
  simp [lookWait, advWait, wait]

@[simp] theorem watched_lookFault (t : Nat) : watched (lookFault s t) = watched s := by simp [lookFault]

@[simp] theorem watched_lookDone (t rd lbn : Nat) (gen : Bool) : watched (lookDone s t rd lbn gen) = watched s := by
  simp [lookDone]

@[simp] theorem watched_lookGo (t rd lbn : Nat) (gen : Bool) (n : Nat) (l : List Nat) :
    watched (lookGo s t rd lbn gen n l) = watched s := by
  induction l generalizing n s with
  | nil => exact watched_lookDone ..
  | cons a l ih =>
    have ha : watched (access s t a).2 = watched s := watched_access s t a
    unfold lookGo
    split
    · exact watched_lookWait ..
    · split <;> simp_all

@[simp] theorem watched_look (t rd lbn : Nat) (gen : Bool) (n : Nat) : watched (look s t rd lbn gen n) = watched s := by
  simp [look]

@[simp] theorem watched_wakeWindow : watched (wakeWindow s) = watched s := by
  unfold wakeWindow
  refine foldl_field watched _ (fun s t => ?_) _ s
  split <;> simp

/-! A record takes its place and commits -/

@[simp] theorem watched_commitRec (j : Nat) : watched (commitRec s j) = watched s := by
  unfold commitRec
  split
  · rfl
  · simp [watched_setF _ (f := MAP_JSEQ_LAST) (by decide)]

@[simp] theorem watched_commitEffects (r : JRec) : watched (commitEffects s r) = watched s := by
  simp [commitEffects, commitWhole]

@[simp] theorem watched_commitApply (j : Nat) : watched (commitApply s j) = watched s := by
  unfold commitApply
  split
  · rfl
  · simp

@[simp] theorem watched_jstat : watched (jstat s) = watched s := by
  simp [jstat, watched_setF _ (f := MAP_JSTAT_TAIL_KIB) (by decide), watched_setF _ (f := MAP_JSTAT_SINCE_MIB) (by decide),
    watched_setF _ (f := MAP_JSTAT_OVERLIM) (by decide)]

@[simp] theorem watched_ringStore (r : JRec) : watched (ringStore s r) = watched s := by
  unfold ringStore
  extract_lets b pos head v
  rw [watched_with_map, watched_dramWr, watched_dramWr]

theorem watched_append (r : JRec) : watched (append s r).2 = watched s := by
  unfold append
  extract_lets r' v _ w
  have hw : watched w = watched s := by
    rw [watched_jstat, watched_stamped, watched_with_map, watched_ringStore]
  rw [watched_ite, watched_send, hw, ite_self]

theorem watched_placeOne (r : JRec) (k : Nat) : watched (placeOne s r k).2.2 = watched s := by
  unfold placeOne
  generalize hv : append s r = v
  have ha : watched v.2 = watched s := hv ▸ watched_append s r
  obtain ⟨r', v⟩ := v
  dsimp -zeta only
  extract_lets w
  have hw : watched w = watched s := by
    rw [watched_ite, watched_moveOverlay, watched_overUpdate, watched_reserveOverlay, ite_self]
    exact ha
  split
  · exact hw
  · rw [watched_commitApply, hw]

theorem watched_startRound : watched (startRound s) = watched s := by
  unfold startRound
  split
  · rfl
  · extract_lets n t
    generalize hp : placeOne s _ 0 = p
    have hw : watched p.2.2 = watched s := hp ▸ watched_placeOne ..
    obtain ⟨r, b, v⟩ := p
    dsimp -zeta only
    rw [watched_with_map, watched_setF _ (by decide)]
    exact hw

theorem watched_dueRound : watched (dueRound s) = watched s := by
  unfold dueRound
  rw [watched_ite, watched_startRound, ite_self]

theorem watched_armAll : watched (armAll s) = watched s :=
  foldl_field watched _ (fun s t => by simp [armInternal]) _ s
end
section
variable (s : State)

/-! The share of R52 takes effect -/

@[simp] theorem watched_dramClear (a n : Nat) : watched (dramClear s a n) = watched s := by simp [dramClear]

@[simp] theorem watched_setBuf (h : Nat) (b : Option Buf) : watched (setBuf s h b) = watched s := rfl

@[simp] theorem watched_giveBuf (t p : Nat) (wb : Bool) (i : Nat) : watched (giveBuf s t p wb i).2 = watched s := by
  unfold giveBuf clearBuf
  dsimp only
  rw [watched_setBuf]
  split <;> simp

@[simp] theorem watched_fellBack : watched (addSat s BUF_FBCNT_COUNT 1) = watched s := watched_setF s (by decide) _

theorem watched_tryAlloc {t p h : Nat} {wb : Bool} {u : State} (e : tryAlloc s t p wb = some (h, u)) : watched u = watched s := by
  have hgive : ∀ (v : State) p wb i, watched v = watched s → giveBuf v t p wb i = (h, u) → watched u = watched s :=
    fun v p wb i hv hg => by rw [← hv, ← watched_giveBuf v t p wb i, hg]
  unfold tryAlloc at e
  split at e
  · cases e
  split at e
  · split at e
    · obtain ⟨i, -, hi⟩ := Option.map_eq_some_iff.1 e
      exact hgive _ _ _ _ rfl hi
    · split at e
      · exact hgive _ _ _ _ rfl (Option.some.inj e)
      · obtain ⟨i, -, hi⟩ := Option.map_eq_some_iff.1 e
        exact hgive _ _ _ _ (by rw [watched_fellBack, watched_with_buf]) hi
  · obtain ⟨p', -, hp⟩ := Option.bind_eq_some_iff.1 e
    split at hp
    · cases hp
    · obtain ⟨i, -, hi⟩ := Option.map_eq_some_iff.1 hp
      exact hgive _ _ _ _ (by rw [watched_ite, watched_fellBack, ite_self]) hi

@[simp] theorem watched_servePass : watched (servePass s) = watched s := by
  unfold servePass
  refine foldl_field watched _ (fun s r => ?_) _ s
  split
  · split
    · rfl
    · dsimp only
      split <;> split <;> simp
  · split
    · rfl
    · next h u e =>
      dsimp only
      split <;> simp [watched_tryAlloc s e]

theorem watched_applyShare : watched (applyShare s) = watched s := by
  unfold applyShare setCaps serveBufs
  extract_lets sh v w x
  rw [foldl_field watched _ fun s _ => watched_servePass s, watched_setF _ (by decide), watched_setF _ (by decide),
    foldl_field watched _ watched_preempt, foldl_field watched _ fun s q => watched_setF s (by
      simp only [HELM_VOTE_MASKED, ANV_QSTAT_INTSLOTS]; omega) _, watched_setF _ (by decide)]

theorem preempt_ret (q : Nat) : (preempt s q).ret = s.ret := by
  unfold preempt
  split
  · rfl
  · exact foldl_field State.ret _ (fun s (e : Nat × Nat) => giveBack_ret s e.2) _ s

theorem applyShare_ret : (applyShare s).ret = s.ret := by
  unfold applyShare setCaps
  extract_lets sh v w x
  have hs : ∀ s : State, (serveBufs s).ret = s.ret := fun s => (startOf_eq.1 (startOf_serveBufs s)).2.2
  rw [hs, setF_ret_of (by rfl), setF_ret_of (by rfl), foldl_field State.ret _ preempt_ret,
    foldl_field State.ret _ fun s q => setF_ret_of (by rfl) _, setF_ret_of (by rfl)]

/-! #### WATCH (R51) -/

theorem getF_of_ret {f : Fld} (hf : f.ret = true) {s u : State} (h : u.ret = s.ret) : getF u f = getF s f := by
  simp [getF, hf, h]

/-- The window counts of the ways of map control start again (R51). -/
def wayCountsCleared (s : State) : State :=
  (List.range 4).foldl (fun s q => (List.range 16).foldl (fun s w => setF s (MC_ERRCNT_WATCH q w) 0) s) s

theorem wayCountsCleared_field {γ : Type} (p : State → γ) (h : ∀ s q w, p (setF s (MC_ERRCNT_WATCH q w) 0) = p s) :
    p (wayCountsCleared s) = p s :=
  foldl_field p _ (fun s q => foldl_field p _ (fun s w => h s q w) _ s) _ s

/-- The window counts of dies and roles start again (R51). -/
def windowsCleared (s : State) : State := { s with ch := { s.ch with errw := [] }, d := { s.d with roleFaults := [] } }

/-- The state of a watch boundary once CHR_NOW is saved and the share is taken (R39, R51, R52). -/
def watchShared (s : State) : State := addWrap (applyShare (saveNow (windowsCleared (wayCountsCleared s)))) CHR_SHARE_NOW_WATCH_SEQ 1

theorem watchShared_effect : (watchShared s).ret.now = s.clk.now ∧ (watchShared s).ch.errw = [] ∧ (watchShared s).d.roleFaults = [] ∧
    getF (watchShared s) CHR_WATCH_PERIOD_MS = getF s CHR_WATCH_PERIOD_MS := by
  have hc : (wayCountsCleared s).clk = s.clk := wayCountsCleared_field s State.clk fun s q w => setF_clk ..
  have hp : getF (wayCountsCleared s) CHR_WATCH_PERIOD_MS = getF s CHR_WATCH_PERIOD_MS :=
    wayCountsCleared_field s (getF · CHR_WATCH_PERIOD_MS) fun s q w =>
      getF_setF_other s 0 (by simp [CHR_WATCH_PERIOD_MS, MC_ERRCNT_WATCH])
  unfold watchShared
  generalize wayCountsCleared s = v at hc hp ⊢
  have hw : watched (addWrap (applyShare (saveNow (windowsCleared v))) CHR_SHARE_NOW_WATCH_SEQ 1) =
      watched (saveNow (windowsCleared v)) := by
    rw [addWrap, watched_setF _ (by decide), watched_applyShare]
  have hret : (addWrap (applyShare (saveNow (windowsCleared v))) CHR_SHARE_NOW_WATCH_SEQ 1).ret = (saveNow (windowsCleared v)).ret := by
    rw [addWrap, setF_ret_of (by rfl), applyShare_ret]
  simp only [watched, Prod.mk.injEq] at hw
  obtain ⟨hn, hce, hdr, -⟩ := hw
  refine ⟨hn.trans ?_, hce.trans ?_, hdr.trans ?_, (getF_of_ret (by rfl) hret).trans ?_⟩
  · rw [saveNow, commit_ret, ← hc, windowsCleared]
  · rw [saveNow, commit_ch, windowsCleared]
  · rw [saveNow, commit_d, windowsCleared]
  · rw [saveNow, getF_commit]
    exact hp

/-- No core is masked any more (R51, R457). -/
def unmasked (s : State) : State :=
  if getF s HELM_VOTE_MASKED != 0 then addWrap (setF s HELM_VOTE_MASKED 0) HELM_VOTE_RESYNCS 1 else s

theorem unmasked_effect : watched (unmasked s) = (s.ret.now, s.ch.errw, s.d.roleFaults, s.clk.watchMs, 0) ∧
    getF (unmasked s) CHR_WATCH_PERIOD_MS = getF s CHR_WATCH_PERIOD_MS := by
  unfold unmasked
  split
  · constructor
    · rw [addWrap, watched_setF _ (by decide)]
      simp [watched, ret_now_setF, getF_setF_same]
    · rw [addWrap, getF_setF_other _ _ (by decide), getF_setF_other _ _ (by decide)]
  · next h =>
    have h0 : getF s HELM_VOTE_MASKED = 0 := by simpa using h
    exact ⟨by rw [watched, h0], rfl⟩

@[simp] theorem watched_commit : watched (commit s) = watched s := by simp [watched]

theorem watched_setAlm (i : Nat) (e : AlmEntry) : watched (setAlm s i e) = watched s := by
  unfold setAlm
  extract_lets _ v
  have hv : watched v = watched s := watched_commit _
  rw [watched_ite, watched_send, hv, ite_self]

theorem watched_with_clk (c : Clk) : watched { s with clk := c } =
    (s.ret.now, s.ch.errw, s.d.roleFaults, c.watchMs, getF s HELM_VOTE_MASKED) := rfl

theorem watched_watch : watched (watch s) = (s.clk.now, [], [], getF s CHR_WATCH_PERIOD_MS, 0) := by
  unfold watch
  extract_lets _ _ _ _ _ v w _ x e p y
  have hv : v = watchShared s := rfl
  have hw : w = unmasked v := rfl
  have hx : watched x = _ := watched_with_clk w _
  have hy : watched y = watched x := by rw [watched_ite, watched_setAlm, ite_self]
  obtain ⟨hn, he, hr, hp⟩ := watchShared_effect s
  obtain ⟨hu, hup⟩ := unmasked_effect v
  rw [watched_dueRound, watched_ite, watched_armAll, ite_self, hy, hx, hw, hup]
  simp only [watched, Prod.mk.injEq] at hu ⊢
  obtain ⟨hun, hue, hur, -, hum⟩ := hu
  rw [hun, hue, hur, hum, hv, hn, he, hr, hp]
  exact ⟨rfl, rfl, rfl, rfl, rfl⟩
end
/-! #### The entry first in line -/

section
variable {s : State} {k i : Nat} {rest : List (Nat × Nat)}

/-- The state in which the entry first in line has fired (R48, R53). -/
def firstFired (s : State) (rest : List (Nat × Nat)) (i : Nat) : State :=
  fireAt { s with clk := { s.clk with due := rest } } s.clk.scanAt i

theorem almEntry_setAlm (s : State) (i : Nat) (e : AlmEntry) : almEntry (setAlm s i e) i = e := by
  unfold setAlm almEntry
  extract_lets _ v
  have hv : v.ret.alm = mset AlmEntry.unused s.ret.alm i e := by simp [v]
  rw [apply_ite State.ret, send_ret, ite_self, hv, mget_mset_same]

theorem almEntry_fireAt (s : State) (now i : Nat) :
    almEntry (fireAt s now i) i = firedEntry now (s.clk.skip.contains i) (almEntry s i) := almEntry_setAlm ..

/-- Storing an entry leaves all but the almanac, its copies in RSM and the message to the partner. -/
theorem setAlm_field {γ : Type} (p : State → γ) (hr : ∀ s r, p { s with ret := r } = p s) (hc : ∀ s, p (commit s) = p s)
    (hs : ∀ s m, p (send s m) = p s) (s : State) (i : Nat) (e : AlmEntry) : p (setAlm s i e) = p s := by
  unfold setAlm
  extract_lets _ v
  have hv : p v = p s := (hc _).trans (hr ..)
  split
  · rw [hs, hv]
  · exact hv

theorem firstFired_field {γ : Type} (p : State → γ) (hk : ∀ s c, p { s with clk := c } = p s)
    (hr : ∀ s r, p { s with ret := r } = p s) (hc : ∀ s, p (commit s) = p s)
    (hs : ∀ s m, p (send s m) = p s) : p (firstFired s rest i) = p s := by
  unfold firstFired fireAt
  extract_lets e
  rw [setAlm_field p hr hc hs, hk, hk]

@[simp] theorem firstFired_boot : (firstFired s rest i).boot = s.boot := firstFired_field State.boot (by simp) (by simp) (by simp) (by simp)
@[simp] theorem firstFired_map : (firstFired s rest i).map = s.map := firstFired_field State.map (by simp) (by simp) (by simp) (by simp)
@[simp] theorem firstFired_x : (firstFired s rest i).x = s.x := firstFired_field State.x (by simp) (by simp) (by simp) (by simp)
@[simp] theorem firstFired_d : (firstFired s rest i).d = s.d := firstFired_field State.d (by simp) (by simp) (by simp) (by simp)
@[simp] theorem firstFired_rsm : (firstFired s rest i).rsm = s.rsm := firstFired_field State.rsm (by simp) (by simp) (by simp) (by simp)
@[simp] theorem firstFired_thr : (firstFired s rest i).thr = s.thr := firstFired_field State.thr (by simp) (by simp) (by simp) (by simp)

@[simp] theorem getF_firstFired (f : Fld) : getF (firstFired s rest i) f = getF s f := by
  unfold firstFired fireAt
  rw [getF_setAlm]
  exact getF_congr f rfl rfl

@[simp] theorem mode_firstFired : mode (firstFired s rest i) = mode s := getF_firstFired ..

@[simp] theorem firstFired_clk : (firstFired s rest i).clk = { s.clk with due := rest, skip := s.clk.skip.filter (· != i) } := by
  unfold firstFired fireAt
  rw [setAlm_clk]

theorem almEntry_firstFired : almEntry (firstFired s rest i) i = firedEntry s.clk.scanAt (s.clk.skip.contains i) (almEntry s i) :=
  almEntry_fireAt ..

/-- The entry first in line fires when no refill is due before it (R53, R54). -/
theorem fire_first (hd : dueNow s = (k, i) :: rest) (hr : (nextRefill s).all (fun x => s.clk.scanAt < x.2) = true) :
    fire s k = some (i, (almEntry s i).arg, firstFired s rest i) := by
  unfold fire
  rw [hd]
  refine if_pos ?_
  cases h : nextRefill s with
  | none => simp
  | some x => simpa [h] using hr

theorem fire_other {m : Nat} (hd : dueNow s = (k, i) :: rest) (hm : k ≠ m) : fire s m = none := by
  unfold fire
  rw [hd]
  exact if_neg (by simp [hm])

theorem almRow_first (hd : dueNow s = (k, i) :: rest) (hr : (nextRefill s).all (fun x => s.clk.scanAt < x.2) = true)
    (f : Nat → State → State) : almRow k s f = .next (f (almEntry s i).arg (firstFired s rest i)) := by
  rw [almRow, fire_first hd hr]

theorem almRow_other {m : Nat} (hd : dueNow s = (k, i) :: rest) (hm : k ≠ m) (f : Nat → State → State) : almRow m s f = .next s := by
  rw [almRow, fire_other hd hm]
end

/-! #### SNAPSHOT, LODESTAR, SWAP and POST -/

section
variable (s : State)

theorem putSlot_next (i : Nat) {x : MinSlot} (h : s.rsm.minSeq < x.seq) :
    putSlot s i x = { s with rsm := { s.rsm with slots := mset MinSlot.blank s.rsm.slots i x, newSlot := i, minSeq := x.seq } } := by
  rw [putSlot, if_pos h]

theorem snapshot_effect (hm : mode s ≠ mStandby) :
    (snapshot s).rsm.newSlot = (s.rsm.newSlot + 1) % 60 ∧ (snapshot s).rsm.minSeq = s.rsm.minSeq + 1 ∧
    (snapshot s).d.ten.live = [] ∧ (snapshot s).d.ten.loss = false ∧
    let x := mget MinSlot.blank (snapshot s).rsm.slots (snapshot s).rsm.newSlot
    x.seq = s.rsm.minSeq + 1 ∧ x.stamp = s.clk.now ∧ x.endMin = s.clk.now / 60000000000 ∧ x.loss = s.d.ten.loss := by
  unfold snapshot
  rw [if_neg (by simpa using hm)]
  extract_lets i x v _ w y
  have hv : v.rsm = { s.rsm with slots := mset MinSlot.blank s.rsm.slots i x, newSlot := i, minSeq := x.seq } := by
    simp only [v, stamped]
    rw [putSlot_next s i (Nat.lt_succ_self _)]
  have hr : (if mirrors w then send w (.pair 7 (slotWords i x)) else w).rsm = v.rsm := by split <;> rfl
  have hd : (if mirrors w then send w (.pair 7 (slotWords i x)) else w).d = w.d := by split <;> rfl
  have hy : y = x := by
    simp only [y]
    rw [hr, hv, mget_mset_same]
  rw [hr, hd, hv, hy]
  exact ⟨rfl, rfl, rfl, rfl, rfl, rfl, rfl, rfl⟩

/-- A new exchange of Lodestar digests begins (R454). -/
def lodeBegun (s : State) : State :=
  let s := setF s CAS_LSTAT_RECEIVED 0
  let s := if inPair s then send s (.pair 9 (ownLode s)) else s
  if s.boot.casEn && s.boot.cas != 0 then send s (.cascade 0 9 (ownLode s)) else s

theorem getF_lodeBegun (f : Fld) : getF (lodeBegun s) f = getF (setF s CAS_LSTAT_RECEIVED 0) f := by
  unfold lodeBegun
  extract_lets v w
  have hw : getF w f = getF v f := by simp only [w]; split <;> rfl
  split
  · exact hw
  · exact hw

/-- A swap that may run begins: the module drains and tells its partner (R442, R443 step 1). -/
theorem swapDue_begins (he : eligible s = true) (hm : mode s = mRun) (hc : s.x.change = none) (hs : s.x.safing = none) :
    swapDue s = send (setF (startChange s 6 9998) PAIR_STAT_SWAPPING 1) (.pair 12 [0, s.map.jseq]) := by
  unfold swapDue
  have hw : (if mode s == mBanked && eligible s then wake s else s) = s := if_neg (by simp [hm, mRun, mBanked])
  rw [hw]
  exact if_neg (by simp [he, hm, hc, hs])

theorem swapBegun_effect (w : List Nat) :
    let u := send (setF (startChange s 6 9998) PAIR_STAT_SWAPPING 1) (.pair 12 w)
    u.x = { s.x with change := some ⟨6, 9998, 1⟩ } ∧ getF u PAIR_STAT_SWAPPING = 1 ∧ getF u HELM_MODE_CHANGING = 1 ∧
      u.sent.head? = some (.pair 12 w) ∧ RegsKept [PAIR_STAT_SWAPPING, HELM_MODE_CHANGING] s u := by
  unfold startChange
  refine ⟨by simp [setAux], ?_, ?_, rfl, fun f hf => ?_⟩
  · rw [getF_send, getF_setF_same]; rfl
  · rw [getF_send, getF_setF_other _ _ (by decide), getF_setF_same]; rfl
  · rw [getF_send, getF_setF_other _ _ (hf _ (by simp)), getF_setF_other _ _ (hf _ (by simp)), getF_setAux]

theorem eligible_congr {s u : State} (hb : u.boot = s.boot) (hg : ∀ f, getF u f = getF s f) : eligible u = eligible s := by
  unfold eligible stestOff flag mode
  simp only [hb, hg]

theorem inPair_congr {s u : State} (hb : u.boot = s.boot) (hg : ∀ f, getF u f = getF s f) : inPair u = inPair s := by
  simp only [inPair, mode, hb, hg]

theorem helmId_congr {s u : State} (hb : u.boot = s.boot) : helmId u = helmId s := by simp only [helmId, senderId, hb]
end
/-! #### REFILL (R55, R395, R396) -/

section
variable (s : State)

theorem payB_ret (n b c : Nat) : (payB s n b c).ret = s.ret := by
  unfold payB; split <;> rfl

theorem makeCharge_ret (t c y u : Nat) : (makeCharge s t c y u).ret = s.ret := by
  show (payB (payB (payB s _ 0 c) _ 1 y) _ 2 u).ret = s.ret
  rw [payB_ret, payB_ret, payB_ret]

theorem unparkCharge_ret (t : Nat) : (unparkCharge s t).ret = s.ret := (startOf_eq.1 (startOf_unparkCharge s t)).2.2

theorem serveCharges_ret (l : List (Nat × Nat × Nat × Nat)) (stop : List Nat) : (serveCharges l stop s).ret = s.ret := by
  induction l generalizing stop s with
  | nil => rfl
  | cons p l ih =>
    obtain ⟨t, c, y, u⟩ := p
    unfold serveCharges
    extract_lets n
    split
    · rw [ih, modTh_ret]
    · split
      · rw [ih, modTh_ret]
      · rw [ih, modTh_ret, toReady_ret, makeCharge_ret, unparkCharge_ret]

/-- Bucket `b` of tenant `n` takes its rate, up to its capacity (R396). -/
def refillBucket (n : Nat) (s : State) (b : Nat) : State :=
  let k := quotaAt (quotaOf s n) b
  if k.en then setBal s n b (min k.cap (balOf s n b + k.rate)) else s

def refillTenant (s : State) (n : Nat) : State := [0, 1, 2].foldl (refillBucket n) s

theorem refill_eq : refill s =
    serveCharges ((quotaTenants s).foldl refillTenant s).d.ten.parked [] ((quotaTenants s).foldl refillTenant s) := rfl

/-- What a refill leaves of a bucket. -/
def refilled (s : State) (n b : Nat) : Nat :=
  let k := quotaAt (quotaOf s n) b
  if k.en then min k.cap (balOf s n b + k.rate) else balOf s n b

theorem refillBucket_field {γ : Type} (p : State → γ) (h : ∀ s n b v, p (setBal s n b v) = p s) (n b : Nat) :
    p (refillBucket n s b) = p s := by
  unfold refillBucket
  extract_lets k
  split
  · exact h ..
  · rfl

theorem refillTenant_field {γ : Type} (p : State → γ) (h : ∀ s n b v, p (setBal s n b v) = p s) (n : Nat) :
    p (refillTenant s n) = p s := foldl_field p _ (fun s b => refillBucket_field s p h n b) _ s

theorem refill_ret : (refill s).ret = s.ret := by
  rw [refill_eq, serveCharges_ret]
  exact foldl_field State.ret _ (fun s n => refillTenant_field s State.ret (fun _ _ _ _ => rfl) n) _ s

theorem balOf_setBal {n b m k : Nat} (hb : b < 4) (hk : k < 4) (v : Nat) :
    balOf (setBal s n b v) m k = if m = n ∧ k = b then v else balOf s m k := by
  show mget 0 (mset 0 s.d.ten.bal (4 * n + b) v) (4 * m + k) = _
  rw [mget_mset]
  exact if_congr (by omega) rfl rfl

theorem balOf_refillBucket {n b m k : Nat} (hb : b < 4) (hk : k < 4) :
    balOf (refillBucket n s b) m k = if m = n ∧ k = b then refilled s m k else balOf s m k := by
  unfold refillBucket
  extract_lets q
  split
  · next he =>
    rw [balOf_setBal s hb hk]
    refine if_ctx_congr Iff.rfl (fun h => ?_) fun _ => rfl
    rw [refilled, h.1, h.2, if_pos he]
  · next he =>
    split
    · next h => rw [refilled, h.1, h.2, if_neg he]
    · rfl

theorem quotaOf_refillBucket (n b m : Nat) : quotaOf (refillBucket n s b) m = quotaOf s m :=
  refillBucket_field s (quotaOf · m) (fun _ _ _ _ => rfl) n b

theorem refilled_refillBucket {n b m k : Nat} (hb : b < 4) (hk : k < 4) (h : ¬ (m = n ∧ k = b)) :
    refilled (refillBucket n s b) m k = refilled s m k := by
  rw [refilled, quotaOf_refillBucket, balOf_refillBucket s hb hk, if_neg h]
  rfl

theorem balOf_refillBuckets {n m k : Nat} (l : List Nat) (hl : l.Nodup) (hb : ∀ b ∈ l, b < 4) (hk : k < 4) :
    balOf (l.foldl (refillBucket n) s) m k = if m = n ∧ k ∈ l then refilled s m k else balOf s m k := by
  induction l generalizing s with
  | nil => simp
  | cons b l ih =>
    obtain ⟨hbl, hl⟩ := List.nodup_cons.1 hl
    have hb4 : b < 4 := hb b List.mem_cons_self
    rw [List.foldl_cons, ih _ hl fun x hx => hb x (List.mem_cons_of_mem _ hx)]
    by_cases hkl : m = n ∧ k ∈ l
    · have hne : ¬ (m = n ∧ k = b) := fun h => hbl (h.2 ▸ hkl.2)
      rw [if_pos hkl, if_pos ⟨hkl.1, List.mem_cons_of_mem _ hkl.2⟩, refilled_refillBucket s hb4 hk hne]
    · rw [if_neg hkl, balOf_refillBucket s hb4 hk]
      refine if_congr ?_ rfl rfl
      rw [List.mem_cons]
      exact ⟨fun h => ⟨h.1, .inl h.2⟩, fun h => ⟨h.1, h.2.resolve_right fun hm => hkl ⟨h.1, hm⟩⟩⟩

theorem balOf_refillTenant {n m k : Nat} (hk : k < 3) :
    balOf (refillTenant s n) m k = if m = n then refilled s m k else balOf s m k := by
  rw [refillTenant, balOf_refillBuckets s _ (by decide) (by decide) (by omega)]
  refine if_congr (and_iff_left ?_) rfl rfl
  simp only [List.mem_cons, List.not_mem_nil, or_false]
  omega

theorem quotaOf_refillTenant (n m : Nat) : quotaOf (refillTenant s n) m = quotaOf s m :=
  refillTenant_field s (quotaOf · m) (fun _ _ _ _ => rfl) n

theorem balOf_refillTenants {m k : Nat} (l : List Nat) (hl : l.Nodup) (hk : k < 3) :
    balOf (l.foldl refillTenant s) m k = if m ∈ l then refilled s m k else balOf s m k := by
  induction l generalizing s with
  | nil => simp
  | cons n l ih =>
    obtain ⟨hnl, hl⟩ := List.nodup_cons.1 hl
    rw [List.foldl_cons, ih _ hl, refilled, quotaOf_refillTenant, balOf_refillTenant s hk]
    by_cases hmn : m = n
    · rw [hmn, if_neg hnl, if_pos List.mem_cons_self, if_pos rfl]
    · rw [if_neg hmn]
      exact if_congr (by rw [List.mem_cons, or_iff_right hmn]) rfl rfl

theorem mget_of_notMem {α : Type} (d : α) {m : NMap α} {i : Nat} (h : i ∉ m.map Prod.fst) : mget d m i = d := by
  induction m with
  | nil => rfl
  | cons e m ih =>
    rw [List.map_cons, List.mem_cons, not_or] at h
    exact (if_neg h.1).trans (ih h.2)

/-- With nothing parked a refill adds its rate to every bucket in force, up to the capacity (R396). -/
theorem balOf_refill (hp : s.d.ten.parked = []) (hw : MapWf Quota.none s.d.ten.force) {n k : Nat} (hk : k < 3) :
    balOf (refill s) n k = refilled s n k := by
  have hparked : ((quotaTenants s).foldl refillTenant s).d.ten.parked = [] :=
    (foldl_field (fun s => s.d.ten.parked) _ (fun s n =>
      refillTenant_field s (fun s => s.d.ten.parked) (fun _ _ _ _ => rfl) n) _ s).trans hp
  have hnodup : (quotaTenants s).Nodup := hw.1.imp Nat.ne_of_lt
  rw [refill_eq, hparked, serveCharges, balOf_refillTenants s _ hnodup hk]
  split
  · rfl
  · next hn =>
    have hq : quotaOf s n = Quota.none := mget_of_notMem _ hn
    have hoff : (quotaAt Quota.none k).en = false := by unfold quotaAt; split <;> rfl
    rw [refilled, hq, hoff]
    rfl

theorem setTen_ret (x : Tenancy) : (setTen s x).ret = s.ret := rfl
theorem setBal_ret (n b v : Nat) : (setBal s n b v).ret = s.ret := rfl

theorem applyQuota_ret (now : Nat) : (applyQuota s now).ret = s.ret := by
  unfold applyQuota
  dsimp only
  rw [setTen_ret, foldl_field (·.ret) _ fun s d => ?_]
  rw [setTen_ret, foldl_field (·.ret) _ fun s b => setBal_ret ..]

theorem applyQuota_of_due_nil (hd : s.d.ten.due = []) (now : Nat) : applyQuota s now = setTen s { s.d.ten with due := [] } := by
  simp [applyQuota, hd]

end
/-! #### ACTIVATE (R49, R475, R476) -/

section
variable (s : State)

theorem discardAll_ret (src cls detail : Nat) : (discardAll s src cls detail).ret = s.ret := by
  unfold discardAll
  extract_lets v
  have hd : ∀ (s : State) c, (discard s c cls detail none).ret = s.ret := fun s c => by
    unfold discard
    split
    · rfl
    · exact (startOf_eq.1 (startOf_withdraw s c)).2.2
  have hv : v.ret = s.ret := foldl_field State.ret _ hd _ s
  split
  · exact hv
  · exact hv

theorem holdThreads_ret (n : Nat) : (holdThreads s n).ret = s.ret := by
  unfold holdThreads
  rw [foldl_field State.ret _ holdPark_ret]

theorem unhold_ret : (unhold s).ret = s.ret := by
  unfold unhold
  extract_lets l _ v
  exact foldl_field State.ret _ (fun s t => modTh_ret (tick s) t _) l v

theorem beginSafe_ret (c src : Nat) : (beginSafe s c src).ret = s.ret := by
  unfold beginSafe
  extract_lets v
  rw [setF_ret_of (by rfl), setAux_ret, holdThreads_ret]
  exact discardAll_ret ..

theorem enterRun_ret : (enterRun s).ret = s.ret := by
  unfold enterRun
  extract_lets v _ w _ x
  have hv : v.ret = s.ret := (startOf_eq.1 (startOf_toMode s mRun)).2.2
  have hw : w.ret = v.ret := by simp only [w]; split <;> rfl
  have hx : x.ret = w.ret := by
    simp only [x]
    split
    · exact event_ret ..
    · rfl
  rw [← hv, ← hw, ← hx]
  split
  · rw [beginSafe_ret, setF_ret_of (by rfl)]
  · rfl

/-- Waking touches nothing retained (R75). -/
theorem wake_ret : (wake s).ret = s.ret := by
  unfold wake
  split
  · rfl
  · extract_lets v
    have hv : v.ret = s.ret := foldl_field State.ret _ (fun s n => by
      split
      · rfl
      · exact setF_ret_of (by rfl) _) _ s
    rw [enterRun_ret, unhold_ret, (startOf_eq.1 (startOf_powerUp v)).2.2, hv]

theorem wake_awake (h : mode s ≠ mBanked) : wake s = s := if_pos (bne_iff_ne.2 h)

/-- The time an ACTIVATE entry fired stands once stored. -/
theorem when_setC {f : Fld} (h : IMG_ACT_WHEN.key ≠ f.key) (v : Nat) : getF (setC s f v) IMG_ACT_WHEN = getF s IMG_ACT_WHEN :=
  getF_setF_other s v (by simp [h])

theorem when_of_ret {s u : State} (h : u.ret = s.ret) : getF u IMG_ACT_WHEN = getF s IMG_ACT_WHEN := getF_of_ret (by rfl) h

theorem when_notStaged : getF (notStaged s) IMG_ACT_WHEN = getF s IMG_ACT_WHEN := by
  unfold notStaged notMade
  rw [getF_event, getF_logEv, when_setC _ (by decide)]
  rfl

theorem when_dueRestart : getF (dueRestart s) IMG_ACT_WHEN = getF s IMG_ACT_WHEN := by
  unfold dueRestart startChange
  extract_lets v
  have hv : getF v IMG_ACT_WHEN = getF s IMG_ACT_WHEN := (when_setC _ (by decide) _).trans (when_of_ret (wake_ret s))
  rw [← hv]
  split
  · rw [getF_setF_other _ _ (by decide), getF_setAux]
  · rw [getF_setF_other _ _ (by decide), getF_setAux]

theorem when_notice {mb : Nat} (h : 48 ≤ mb) (code ver : Nat) : getF (notice s mb code ver) IMG_ACT_WHEN = getF s IMG_ACT_WHEN := by
  unfold notice sendMsg
  rw [if_neg (Nat.not_lt.2 h)]
  split
  · rfl
  · split <;> rfl

theorem when_activateOwn (ver : Nat) : getF (activateOwn s ver) IMG_ACT_WHEN = getF s IMG_ACT_WHEN := by
  unfold activateOwn
  split
  · exact when_notStaged s
  · split
    · rw [when_notice _ (by decide), when_setC _ (by decide)]
      rfl
    · rw [when_setC _ (by decide), when_dueRestart]

theorem when_activateNext (ps : List Nat) (ver : Nat) : getF (activateNext s ps ver) IMG_ACT_WHEN = getF s IMG_ACT_WHEN := by
  unfold activateNext
  split
  · exact when_activateOwn s ver
  · rw [when_notice _ (by omega), when_setC _ (by decide)]
    rfl

/-- The module is awake, and the activation of the version that entry `i` names is noted with its time (R476, R482). -/
def activating (s : State) (i ver : Nat) : State :=
  let v := setC (wake s) IMG_ACT_WHEN (s.clk.now / 2 ^ 32)
  setPair v { v.x.pair with actvVer := ver + 2 ^ 64 * (i + 1) }

theorem activate_eq (i ver : Nat) : activate s i ver =
    let v := activating s i ver
    if !v.boot.casEn then activateOwn v ver
    else if !flag v CAS_STAT_MASTER then v
    else if !stagedOk v ver then notStaged v
    else activateNext v (actPositions v) ver := rfl

theorem getF_setPair (p : Pair) (f : Fld) : getF (setPair s p) f = getF s f := rfl

theorem getF_activating {f : Fld} (h : (f.key == IMG_ACT_WHEN.key && f.ret == IMG_ACT_WHEN.ret) = false) (i ver : Nat) :
    getF (activating s i ver) f = getF (wake s) f := by
  unfold activating
  rw [getF_setPair, getF_setC_other _ _ h]

theorem when_activating (i ver : Nat) : getF (activating s i ver) IMG_ACT_WHEN = s.clk.now / 2 ^ 32 % 2 ^ IMG_ACT_WHEN.w := by
  unfold activating
  rw [getF_setPair, getF_setC_same]

theorem activating_boot (i ver : Nat) : (activating s i ver).boot = (wake s).boot := by
  unfold activating
  rw [setPair, setAux_boot, setC_boot]

theorem when_activate (i ver : Nat) : getF (activate s i ver) IMG_ACT_WHEN = s.clk.now / 2 ^ 32 % 2 ^ IMG_ACT_WHEN.w := by
  rw [activate_eq, ← when_activating s i ver]
  extract_lets v
  split
  · exact when_activateOwn v ver
  · split
    · rfl
    · split
      · exact when_notStaged v
      · exact when_activateNext v _ ver

/-- A single module in RUN whose image is not the one named keeps running (R475). -/
theorem result_notStaged : getF (notStaged s) IMG_ACT_RESULT = if getF s IMG_STAGE_STATE = 2 then 9 else 8 := by
  unfold notStaged notMade
  rw [getF_event, getF_logEv, setC, getF_setF_same]
  split <;> rfl

/-- A restart drains in RUN (R83, R475). -/
theorem dueRestart_run (h : mode s = mRun) : dueRestart s = startChange (setC s IMG_STAGE_DUE 1) 4 9998 := by
  unfold dueRestart
  rw [wake_awake s (by rw [h]; decide)]
  have hm : mode (setC s IMG_STAGE_DUE 1) = mRun := (mode_setF s (by decide) 1).trans h
  extract_lets v
  exact if_neg (by rw [hm]; decide)

theorem activateOwn_staged {ver : Nat} (hs : stagedOk s ver = true) (hp : s.boot.pairEn = false) :
    activateOwn s ver = setC (dueRestart s) IMG_ACT_RESULT 1 := by
  unfold activateOwn
  rw [if_neg (by simp [hs]), if_neg (by simp [hp])]

theorem activateOwn_restarts {ver : Nat} (hm : mode s = mRun) (hs : stagedOk s ver = true) (hp : s.boot.pairEn = false) :
    getF (activateOwn s ver) IMG_STAGE_DUE = 1 ∧ getF (activateOwn s ver) IMG_ACT_RESULT = 1 ∧
    (activateOwn s ver).x.change = some ⟨4, 9998, 1⟩ := by
  rw [activateOwn_staged s hs hp, dueRestart_run s hm, setC, startChange]
  refine ⟨?_, ?_, ?_⟩
  · rw [getF_setF_other _ _ (by decide), getF_setF_other _ _ (by decide), getF_setAux, setC, getF_setF_same]; rfl
  · rw [getF_setF_same]; rfl
  · simp [setAux]

/-- In RUN, with no cascade, the module activates its own image at once. -/
theorem activate_run (hm : mode s = mRun) (hc : s.boot.casEn = false) (i ver : Nat) :
    activate s i ver = activateOwn (activating s i ver) ver := by
  have hw : wake s = s := wake_awake s (by rw [hm]; decide)
  rw [activate_eq]
  exact if_pos (by simp [activating_boot, hw, hc])

theorem stagedOk_activating (hm : mode s = mRun) (i ver : Nat) : stagedOk (activating s i ver) ver = stagedOk s ver := by
  rw [stagedOk, stagedOk, getF_activating s (by decide), getF_activating s (by decide), wake_awake s (by rw [hm]; decide)]

/-- A single module in RUN: RESULT says why nothing is activated, or the module restarts (R475). -/
theorem activate_run_effect (hm : mode s = mRun) (hc : s.boot.casEn = false) (i ver : Nat) :
    (stagedOk s ver = false → getF (activate s i ver) IMG_ACT_RESULT = if getF s IMG_STAGE_STATE = 2 then 9 else 8) ∧
    (stagedOk s ver = true → s.boot.pairEn = false → getF (activate s i ver) IMG_STAGE_DUE = 1 ∧
      getF (activate s i ver) IMG_ACT_RESULT = 1 ∧ (activate s i ver).x.change = some ⟨4, 9998, 1⟩) := by
  have hw : wake s = s := wake_awake s (by rw [hm]; decide)
  have hg : ∀ {f : Fld}, (f.key == IMG_ACT_WHEN.key && f.ret == IMG_ACT_WHEN.ret) = false → getF (activating s i ver) f = getF s f :=
    fun h => (getF_activating s h i ver).trans (by rw [hw])
  rw [activate_run s hm hc]
  refine ⟨fun hs => ?_, fun hs hp => ?_⟩
  · rw [activateOwn, if_pos (by rw [stagedOk_activating s hm, hs]; rfl), result_notStaged, hg (by decide)]
  · exact activateOwn_restarts _ ((hg (by decide)).trans hm) ((stagedOk_activating s hm i ver).trans hs)
      ((congrArg Boot.pairEn (activating_boot s i ver)).trans (by rw [hw, hp]))

end
/-! #### The rows by their kinds -/

section
variable {s : State} {i : Nat} {rest : List (Nat × Nat)}

theorem exec_refill {b : Nat} (h : nextRefill s = some (i, b)) : exec .refill s = .next (refill (fireAt (applyQuota s b) b i)) := by
  show execRefill s = _
  rw [execRefill, h]

theorem exec_refill_none (h : nextRefill s = none) : exec .refill s = .next s := by
  show execRefill s = _
  rw [execRefill, h]

theorem fireAt_d (s : State) (now i : Nat) : (fireAt s now i).d = s.d :=
  setAlm_field State.d (fun _ _ => rfl) commit_d send_d ..

/-- A refill stores the fired entry, and with nothing parked and no QUOTA_SET to apply grows the buckets in force (R55, R396). -/
theorem refill_effect (s : State) (b i : Nat) :
    almEntry (refill (fireAt (applyQuota s b) b i)) i = firedEntry b (s.clk.skip.contains i) (almEntry s i) ∧
    (s.d.ten.parked = [] → s.d.ten.due = [] → MapWf Quota.none s.d.ten.force → ∀ n k, k < 3 →
      balOf (refill (fireAt (applyQuota s b) b i)) n k = refilled s n k) := by
  constructor
  · have hr : (refill (fireAt (applyQuota s b) b i)).ret = (fireAt (applyQuota s b) b i).ret := refill_ret _
    rw [almEntry, hr]
    refine (almEntry_fireAt (applyQuota s b) b i).trans ?_
    rw [applyQuota_clk, almEntry, almEntry, applyQuota_ret]
  · intro hp hd hw n k hk
    have hten : (fireAt (applyQuota s b) b i).d.ten = { s.d.ten with due := [] } := by
      rw [fireAt_d, applyQuota_of_due_nil s hd]
      rfl
    rw [balOf_refill _ (by rw [hten]; exact hp) (by rw [hten]; exact hw) hk]
    have hq : quotaOf (fireAt (applyQuota s b) b i) n = quotaOf s n := by rw [quotaOf, hten]; rfl
    have hb : balOf (fireAt (applyQuota s b) b i) n k = balOf s n k := by rw [balOf, hten]; rfl
    rw [refilled, hq, hb]
    rfl

theorem exec_activate (hd : dueNow s = (8, i) :: rest) (hr : (nextRefill s).all (fun x => s.clk.scanAt < x.2) = true) :
    exec .activate s = act (mayRestart s) s (activate (firstFired s rest i) i (almEntry s i).arg) := by
  show execActivate s = _
  rw [execActivate, fire_first hd hr]

theorem firstFired_now : (firstFired s rest i).clk.now = s.clk.now := by rw [firstFired_clk]

theorem stagedOk_firstFired (ver : Nat) : stagedOk (firstFired s rest i) ver = stagedOk s ver := by
  rw [stagedOk, stagedOk, getF_firstFired, getF_firstFired]

/-- The SWAP entry of the other member begins the swap where one may run (R442, R443). -/
theorem swapRow_begins {arg : Nat} (hp : inPair s = true) (hm : mode s = mRun) (ha : arg % 2 ≠ b2n s.boot.side)
    (hel : eligible s = true) (hc : s.x.change = none) (hs : s.x.safing = none) :
    (let v := firstFired s rest i
      if inPair v && isActive v && arg % 2 != b2n v.boot.side then swapDue v else v) =
    send (setF (startChange (firstFired s rest i) 6 9998) PAIR_STAT_SWAPPING 1) (.pair 12 [0, s.map.jseq]) := by
  have hm' : mode (firstFired s rest i) = mRun := mode_firstFired.trans hm
  have hact : isActive (firstFired s rest i) = true := by
    rw [isActive, inMode, hm']
    decide
  have hp' : inPair (firstFired s rest i) = true := (inPair_congr firstFired_boot fun _ => getF_firstFired _).trans hp
  have hel' : eligible (firstFired s rest i) = true := (eligible_congr firstFired_boot fun _ => getF_firstFired _).trans hel
  extract_lets v
  rw [if_pos (by simp [v, hp', hact, ha]), swapDue_begins v hel' hm' (by simp [v, hc]) (by simp [v, hs])]
  simp only [v, firstFired_map]

/-- A post of the helm fills the mailbox its ARG names (R49, R493). -/
theorem box_post {arg : Nat} (hn : arg % 64 < 48) (hw : boxWaiter s (arg % 64) = none) :
    let b := box (sendMsg (firstFired s rest i) (arg % 64) (helmId (firstFired s rest i)) srcMbx (leBytes 4 (bits arg 32 32))) (arg % 64)
    b.full = true ∧ b.sender = helmId s ∧ b.stamp = s.clk.now ∧ b.body = padTo 0 32 (leBytes 4 (bits arg 32 32)) := by
  obtain ⟨full, hfull, hb⟩ := box_sendMsg (s := firstFired s rest i) hn (helmId (firstFired s rest i)) srcMbx
    (leBytes 4 (bits arg 32 32))
  rw [hb]
  refine ⟨hfull ?_, helmId_congr firstFired_boot, firstFired_now, rfl⟩
  rw [boxWaiter_congr firstFired_thr, hw]

end

/-- Settles O27: the row of the kind first in line, each by what its action leaves. -/
theorem almanacRows : Obligations.AlmanacRows := by
  unfold Obligations.AlmanacRows
  refine ⟨fun s i b h => ?_, fun s h => exec_refill_none h, fun s k i rest hd hr => ?_⟩
  · obtain ⟨he, hb⟩ := refill_effect s b i
    exact ⟨_, exec_refill h, rfl, he, hb⟩
  intro e v
  have hv : v = firstFired s rest i := rfl
  have he : e = almEntry s i := rfl
  clear_value v e
  subst hv he
  refine ⟨⟨almEntry_firstFired, firstFired_clk⟩, fun hk => ?_, fun hk => ?_, fun hk => ?_, fun hk => ?_, fun hk => ?_, fun hk => ?_,
    fun hk hm => ?_, fun hk hm => ?_, fun hk => ?_, fun hk => almRow_other hd hk _⟩ <;> subst hk
  · have hw := watched_watch (firstFired s rest i)
    rw [firstFired_clk, getF_firstFired] at hw
    simp only [watched, Prod.mk.injEq] at hw
    obtain ⟨hn, herr, hrole, hms, hvote⟩ := hw
    exact ⟨_, almRow_first hd hr _, rfl, herr, hrole, hms, hn, hvote⟩
  · refine ⟨_, almRow_first hd hr _, rfl, fun hm => ?_⟩
    obtain ⟨hslot, hseq, hlive, hloss, hx⟩ := snapshot_effect (firstFired s rest i) (by rwa [mode_firstFired])
    rw [firstFired_rsm, firstFired_clk, firstFired_d] at *
    obtain ⟨hxs, hxt, hxe, hxl⟩ := hx
    exact ⟨hslot, hseq, hxs.trans hseq.symm, hxt, hxe, hxl, hlive, hloss⟩
  · exact ⟨lodeBegun _, almRow_first hd hr _, (getF_lodeBegun ..).trans (getF_setF_same ..),
      fun f hf => (getF_lodeBegun ..).trans (regsKept_setF _ CAS_LSTAT_RECEIVED 0 f hf)⟩
  · exact ⟨_, almRow_first hd hr _, getF_setF_same .., regsKept_setF _ _ _⟩
  · exact ⟨_, almRow_first hd hr _, getF_setF_same .., regsKept_setF _ _ _⟩
  · refine ⟨_, almRow_first hd hr _, rfl, fun hp hm ha hel hc hs => ?_⟩
    rw [swapRow_begins hp hm ha hel hc hs]
    obtain ⟨hx, hsw, hch, hsent, hk⟩ := swapBegun_effect (firstFired s rest i) [0, s.map.jseq]
    rw [firstFired_x] at hx
    exact ⟨hx, hsw, hch, hsent, hk⟩
  · refine ⟨_, (exec_activate hd hr).trans (next_act hm), rfl, ?_, fun hrun hcas => ?_⟩
    · rw [when_activate, firstFired_now]
    · obtain ⟨hno, hyes⟩ := activate_run_effect (firstFired s rest i) (mode_firstFired.trans hrun)
        ((congrArg Boot.casEn firstFired_boot).trans hcas) i (almEntry s i).arg
      rw [stagedOk_firstFired, getF_firstFired] at hno
      rw [stagedOk_firstFired, firstFired_boot] at hyes
      exact ⟨hno, hyes⟩
  · exact (exec_activate hd hr).trans (next_idle hm)
  · exact ⟨_, almRow_first hd hr _, rfl, fun hn hw => box_post hn hw⟩

end Sys2Proof.Machine
end
section
/-! PROOFS of the statements on modes and start-up: the last steps of KINDLE, QUENCH, SAFE and the voting helm, requested changes of
mode. -/
namespace Sys2Proof.Machine
open Sys2Proof Sys2Proof.Safety

/-! ### What the freeing of threads, commits, lookups and the share leave alone (R52, R159, R168, R200, R220)

They write registers of the families CHR to DRM, of map control's ways and of the issue counts. `aside` names the registers that none
of them writes: all of HELM, and past DRM and below the links the retained ones and those that lie at no byte boundary of their
word. -/

/-- The key of a register that the work of threads never writes, in the settings record (`ret`) or not. -/
def aside (ret : Bool) (k : Nat) : Bool := 
  k < 0x01010000 * 64 || (0x01080000 * 64 ≤ k && k < 0x10000000 * 64 && (ret || k % 8 != 0))

/-- A register of the HELM family. -/
@[reducible] def Fld.ofHelm (f : Fld) : Prop := f.key < 0x01010000 * 64

theorem aside_between {ret : Bool} {k : Nat} (h : 0x01010000 * 64 ≤ k) (h' : k < 0x01080000 * 64) : aside ret k = false := by
  simp [aside, h, h']

theorem aside_above {ret : Bool} {k : Nat} (h : 0x10000000 * 64 ≤ k) : aside ret k = false := by
  simp only [aside, Bool.or_eq_false_iff, Bool.and_eq_false_iff, decide_eq_false_iff_not]
  omega

/-- What the work of threads leaves alone: the registers aside, what RSM keeps, what is under way beside the FLUSHes that the helm
tracks and the volumes it deletes, CLOSED, and the acknowledgements awaited. -/
structure Spared where
  regs : NMap Nat
  record : NMap Nat
  keep : Keep
  rsm : Rsm
  x : Aux
  closed : Bool
  acks : List Nat

def spared (s : State) : Spared where
  regs := s.vf.filter fun e => aside false e.1
  record := s.ret.fields.filter fun e => aside true e.1
  keep := s.keep
  rsm := s.rsm
  x := { s.x with flushes := [], deleting := [] }
  closed := s.d.closed
  acks := s.map.acks

theorem filter_mdel {α : Type} (m : NMap α) {p : Nat → Bool} {i : Nat} (h : p i = false) :
    (mdel m i).filter (fun e => p e.1) = m.filter fun e => p e.1 := by
  induction m with
  | nil => rfl
  | cons e t ih =>
    obtain ⟨k, v⟩ := e
    by_cases hi : i = k
    · subst hi; simp [mdel, h, ih]
    · simp [mdel, hi, List.filter_cons, ih]

theorem filter_mput {α : Type} (m : NMap α) {p : Nat → Bool} {i : Nat} (x : α) (h : p i = false) :
    (mput m i x).filter (fun e => p e.1) = m.filter fun e => p e.1 := by
  induction m with
  | nil => simp [mput, h]
  | cons e t ih =>
    obtain ⟨k, v⟩ := e
    unfold mput
    split
    · simp [List.filter_cons, h]
    · split
      · next hi => subst hi; simp [h]
      · simp [List.filter_cons, ih]

/-- A write at a key that the filter rejects does not show. -/
theorem filter_mset {α : Type} [DecidableEq α] (d : α) (m : NMap α) {p : Nat → Bool} {i : Nat} (x : α) (h : p i = false) :
    (mset d m i x).filter (fun e => p e.1) = m.filter fun e => p e.1 := by
  unfold mset
  split
  · exact filter_mdel m h
  · exact filter_mput m x h

/-- A register aside reads the same where the same was left alone. -/
theorem getF_of_spared {s u : State} (h : spared u = spared s) {f : Fld} (hf : aside f.ret f.key = true) : getF u f = getF s f := by
  have hread : ∀ (ret : Bool) (m : NMap Nat), aside ret f.key = true →
      mget f.dflt (m.filter fun e => aside ret e.1) f.key = mget f.dflt m f.key := fun ret m ha => by
    rw [mget_filter_key _ _ (aside ret), if_pos ha]
  unfold getF
  cases hr : f.ret <;> rw [hr] at hf
  · have hv : u.vf.filter (fun e => aside false e.1) = s.vf.filter fun e => aside false e.1 := congrArg Spared.regs h
    simp only [Bool.false_eq_true, if_false]
    rw [← hread _ u.vf hf, hv, hread _ _ hf]
  · have hv : u.ret.fields.filter (fun e => aside true e.1) = s.ret.fields.filter fun e => aside true e.1 := congrArg Spared.record h
    simp only [if_true]
    rw [← hread _ u.ret.fields hf, hv, hread _ _ hf]

theorem getF_helm_of_spared {s u : State} (h : spared u = spared s) {f : Fld} (hf : f.ofHelm) : getF u f = getF s f :=
  getF_of_spared h (by simp only [aside, show f.key < 0x01010000 * 64 from hf, decide_true, Bool.true_or])

theorem change_of_spared {s u : State} (h : spared u = spared s) : u.x.change = s.x.change := (congrArg (fun p : Spared => p.x.change) h :)
theorem quench_of_spared {s u : State} (h : spared u = spared s) : u.x.quench = s.x.quench := (congrArg (fun p : Spared => p.x.quench) h :)
theorem warn_of_spared {s u : State} (h : spared u = spared s) : u.x.warn = s.x.warn := (congrArg (fun p : Spared => p.x.warn) h :)
theorem closed_of_spared {s u : State} (h : spared u = spared s) : u.d.closed = s.d.closed := congrArg Spared.closed h
theorem keep_of_spared {s u : State} (h : spared u = spared s) : u.keep = s.keep := congrArg Spared.keep h
theorem rsm_of_spared {s u : State} (h : spared u = spared s) : u.rsm = s.rsm := congrArg Spared.rsm h

theorem mode_of_spared {s u : State} (h : spared u = spared s) : mode u = mode s := getF_of_spared h (by decide)

section
variable (s : State)

theorem spared_commit : spared (commit s) = spared s := by unfold commit; dsimp only; split <;> rfl

theorem spared_setF {g : Fld} (h : aside g.ret g.key = false) (v : Nat) : spared (setF s g v) = spared s := by
  unfold setF
  cases hr : g.ret <;> rw [hr] at h
  · simp only [Bool.false_eq_true, if_false, spared, filter_mset _ _ _ h]
  · rw [if_pos rfl, spared_commit]
    simp only [spared, filter_mset _ _ _ h]

/-- A register past HELM at a byte boundary of its word: every counter is one. -/
theorem spared_counter {g : Fld} (hr : g.ret = false) (h : 0x01010000 * 64 ≤ g.key) (h8 : g.key % 8 = 0) (v : Nat) :
    spared (setF s g v) = spared s := spared_setF s (by simp [aside, hr, h8, h]) v

@[simp] theorem spared_with_mem (m : Mem) : spared { s with mem := m } = spared s := rfl
@[simp] theorem spared_with_md (m : Media) : spared { s with md := m } = spared s := rfl
@[simp] theorem spared_with_buf (b : BufMgr) : spared { s with buf := b } = spared s := rfl
@[simp] theorem spared_with_ch (c : Chans) : spared { s with ch := c } = spared s := rfl
@[simp] theorem spared_with_link (l : NMap Port) : spared { s with link := l } = spared s := rfl
@[simp] theorem spared_with_strides (x : NMap Stride) : spared { s with strides := x } = spared s := rfl
@[simp] theorem spared_with_ovl (o : NMap (List Nat × List Nat)) : spared { s with map := { s.map with ovl := o } } = spared s := rfl
@[simp] theorem spared_with_recs (l : List JRec) : spared { s with map := { s.map with recs := l } } = spared s := rfl
@[simp] theorem spared_setSlice (q : Nat) (x : Slice) : spared (setSlice s q x) = spared s := rfl
@[simp] theorem spared_setTh (t : Nat) (x : Thread) : spared (setTh s t x) = spared s := rfl
@[simp] theorem spared_modTh (t : Nat) (f : Thread → Thread) : spared (modTh s t f) = spared s := rfl
@[simp] theorem spared_modCx (c : Nat) (f : Ctx → Ctx) : spared (modCx s c f) = spared s := rfl
@[simp] theorem spared_tick : spared (tick s) = spared s := rfl
@[simp] theorem spared_logEv (f e : Nat) (d : List Nat) : spared (logEv s f e d) = spared s := rfl
@[simp] theorem spared_errInc (i n : Nat) : spared (errInc s i n) = spared s := rfl
@[simp] theorem spared_setBuf (h : Nat) (b : Option Buf) : spared (setBuf s h b) = spared s := rfl
@[simp] theorem spared_setTen (x : Tenancy) : spared (setTen s x) = spared s := rfl
@[simp] theorem spared_raise (t c k : Nat) : spared (raise s t c k) = spared s := rfl
@[simp] theorem spared_holdPark (t : Nat) : spared (holdPark s t) = spared s := rfl
@[simp] theorem spared_answerHelm (c : Nat) (e : Ending) (o : List Byte) : spared (answerHelm s c e o) = spared s := rfl
@[simp] theorem spared_event (v : Nat) : spared (event s v) = spared s := by simp [spared]

@[simp] theorem spared_ite {c : Prop} [Decidable c] (a b : State) :
    spared (if c then a else b) = if c then spared a else spared b := apply_ite spared c a b

/-! DRAM and the map's write-through queues -/

@[simp] theorem spared_dramWr (a : Nat) (b : List Byte) : spared (dramWr s a b) = spared s := by simp [dramWr]
@[simp] theorem spared_dramClear (a n : Nat) : spared (dramClear s a n) = spared s := by simp [dramClear]

@[simp] theorem spared_ueLog (l k : Nat) : spared (ueLog s l k) = spared s := by
  unfold ueLog
  iterate 5 rw [spared_setF _ (by decide)]

@[simp] theorem spared_dramCorrected (k : Nat) : spared (addSat s (DRM_ECNT_CORR k) 1) = spared s :=
  spared_counter s rfl (by simp only [DRM_ECNT_CORR]; omega) (by simp only [DRM_ECNT_CORR]; omega) _

@[simp] theorem spared_dramUncorrected (k : Nat) : spared (addSat s (DRM_ECNT_UNCORR k) 1) = spared s :=
  spared_counter s rfl (by simp only [DRM_ECNT_UNCORR]; omega) (by simp only [DRM_ECNT_UNCORR]; omega) _

@[simp] theorem spared_dramBitmapErr (k : Nat) : spared (addSat s (DRM_ECNT_BMERR k) 1) = spared s :=
  spared_counter s rfl (by simp only [DRM_ECNT_BMERR]; omega) (by simp only [DRM_ECNT_BMERR]; omega) _

@[simp] theorem spared_dramUe (l k : Nat) : spared (dramUe s l k) = spared s := by
  simp [dramUe]

@[simp] theorem spared_dramCorr (l : Nat) : spared (dramCorr s l) = spared s := by
  have h : spared (errInc (addSat s (DRM_ECNT_CORR (l % 8)) 1) 5 1) = spared s := by
    rw [spared_errInc, spared_dramCorrected]
  unfold dramCorr
  dsimp only
  split
  · split
    · rw [spared_event, spared_logEv, spared_with_mem, h]
    · rw [spared_with_mem, h]
  · split
    · split
      · rw [spared_event, spared_logEv, spared_with_mem, h]
      · rw [spared_with_mem, h]
    · rw [spared_setF _ (by decide), h]

@[simp] theorem spared_bitmapErr (l : Nat) : spared (bitmapErr s l) = spared s := by
  simp [bitmapErr]

@[simp] theorem spared_dramMerge (a n : Nat) (e : MErr) : spared (dramMerge s a n e) = spared s := by
  unfold dramMerge
  split
  · rfl
  · dsimp only
    split
    · simp
    · cases e <;> simp

@[simp] theorem spared_wtDrain (q : Nat) (e : MErr) : spared (wtDrain s q e) = spared s := by
  unfold wtDrain; split <;> simp

@[simp] theorem spared_mapWr (a : Nat) (b : List Byte) : spared (mapWr s a b) = spared s := by
  unfold mapWr
  split
  · rfl
  · simp

@[simp] theorem spared_mapWrLe (a n v : Nat) : spared (mapWrLe s a n v) = spared s := spared_mapWr ..

/-! Overlay space -/

@[simp] theorem spared_setBit (b i : Nat) (v : Bool) : spared (setBit s b i v) = spared s := spared_mapWr ..

@[simp] theorem spared_overUpdate : spared (overUpdate s) = spared s := by
  simp [overUpdate, spared_setF _ (g := MAP_OVL_OVER) (by decide)]

@[simp] theorem spared_newChunk : spared (newChunk s).2 = spared s := by
  rw [newChunk, spared_setF _ (by decide), spared_setBit]

@[simp] theorem spared_newGroup : spared (newGroup s).2 = spared s := by
  rw [newGroup, spared_setF _ (by decide), spared_setBit]

@[simp] theorem spared_takeChunk (j : Nat) : spared (takeChunk s j).2 = spared s := by
  unfold takeChunk; split <;> simp

@[simp] theorem spared_takeGroup (j : Nat) : spared (takeGroup s j).2 = spared s := by
  unfold takeGroup; split <;> simp

@[simp] theorem spared_freeChunk (i : Nat) : spared (freeChunk s i) = spared s := by
  rw [freeChunk, spared_setF _ (by decide), spared_setBit]

@[simp] theorem spared_freeGroup (i : Nat) : spared (freeGroup s i) = spared s := by
  rw [freeGroup, spared_setF _ (by decide), spared_setBit, spared_setBit]

@[simp] theorem spared_releaseOverlay (j : Nat) : spared (releaseOverlay s j) = spared s := by
  unfold releaseOverlay
  dsimp only
  rw [spared_with_ovl, foldl_field spared _ (fun s i => spared_freeGroup s i),
    foldl_field spared _ (fun s i => spared_freeChunk s i)]

/-! A billet changes -/

@[simp] theorem spared_dropGroup (g : Nat) : spared (dropGroup s g) = spared s := by
  unfold dropGroup
  rw [spared_freeGroup, foldl_field spared _ fun s n => by dsimp only; split <;> simp]

theorem spared_storeFine (j g : Nat) (x : Nat × Fine) : spared (storeFine j s g x) = spared s := by
  unfold storeFine
  dsimp only
  split <;> simp

@[simp] theorem spared_retireFines (g : Nat) (b : Bil) : spared (retireFines s g b) = spared s := by
  unfold retireFines
  dsimp only
  rw [foldl_field spared _ fun s n => by split <;> simp, foldl_field spared _ fun s k => by split <;> simp]

@[simp] theorem spared_storeFines (j g : Nat) (l : List (Nat × Fine)) :
    spared (l.foldl (fun s x => storeFine j s g x) s) = spared s :=
  foldl_field spared _ (fun s x => spared_storeFine s j g x) l s

@[simp] theorem spared_storeBil (j a i : Nat) (b : Bil) (touched : Bool) : spared (storeBil j a s i b touched) = spared s := by
  unfold storeBil
  simp only [spared_overUpdate, spared_ite, spared_mapWrLe, spared_setBit, spared_dropGroup, spared_storeFines,
    spared_retireFines, ite_self, apply_ite Prod.snd, spared_mapWr, spared_takeGroup]

theorem spared_noteOwed (i : Nat) (b b' : Bil) : spared (noteOwed s i b b') = spared s := rfl

theorem spared_moveCounts (b b' : Bil) : spared (moveCounts s b b') = spared s := by
  unfold moveCounts
  refine foldl_field spared _ (fun s k => ?_) _ s
  dsimp only
  split
  · rfl
  · split <;> split <;> simp [bandCount, setBandEnt, dramWrLe]

@[simp] theorem spared_changeBil (j a i : Nat) (b b' : Bil) (touched : Bool) :
    spared (changeBil j a s i b b' touched) = spared s := by
  rw [changeBil, spared_storeBil, spared_moveCounts, spared_noteOwed]

theorem spared_applyBil (r : JRec) (i : Nat) : spared (applyBil r s i) = spared s := by simp [applyBil]

@[simp] theorem spared_applyRec (r : JRec) : spared (applyRec s r) = spared s := by
  unfold applyRec
  split
  · exact foldl_field spared _ (fun s i => spared_applyBil s r i) _ s
  · exact foldl_field spared _ (fun s n => by simp) _ s
  · exact spared_mapWrLe ..
  · rfl
  · rfl

/-! Lookups that go on as a record commits. A way belongs to one of the four quadrants. -/

@[simp] theorem spared_wayWindow (q w v : Nat) : spared (setF s (MC_ERRCNT_WATCH q w) v) = spared s :=
  spared_counter s rfl (by simp only [MC_ERRCNT_WATCH]; omega) (by simp only [MC_ERRCNT_WATCH]; omega) _

@[simp] theorem spared_wayUncorrected (q w : Nat) : spared (addSat s (MC_ERRCNT_UNCORR q w) 1) = spared s :=
  spared_counter s rfl (by simp only [MC_ERRCNT_UNCORR]; omega) (by simp only [MC_ERRCNT_UNCORR]; omega) _

@[simp] theorem spared_wayCorrected (q w : Nat) : spared (addSat s (MC_ERRCNT_CORR q w) 1) = spared s :=
  spared_counter s rfl (by simp only [MC_ERRCNT_CORR]; omega) (by simp only [MC_ERRCNT_CORR]; omega) _

theorem spared_wayFloor {q : Nat} (h : q < 4) (v : Nat) : spared (setF s (MC_STAT_FLOOR q) v) = spared s :=
  spared_setF s (aside_between (by simp only [MC_STAT_FLOOR]; omega) (by simp only [MC_STAT_FLOOR]; omega)) _

theorem spared_wayDisabled {q : Nat} (h : q < 4) (v : Nat) : spared (setC s (MC_WAYDIS_DIS q) v) = spared s :=
  spared_setF s (aside_between (by simp only [MC_WAYDIS_DIS]; omega) (by simp only [MC_WAYDIS_DIS]; omega)) _

@[simp] theorem spared_hitCounted (q : Nat) : spared (addWrap s (MC_HITS_COUNT q) 1) = spared s :=
  spared_counter s rfl (by simp only [MC_HITS_COUNT]; omega) (by simp only [MC_HITS_COUNT]; omega) _

@[simp] theorem spared_victimHitCounted (q : Nat) : spared (addWrap s (MC_VHITS_COUNT q) 1) = spared s :=
  spared_counter s rfl (by simp only [MC_VHITS_COUNT]; omega) (by simp only [MC_VHITS_COUNT]; omega) _

@[simp] theorem spared_missCounted (q : Nat) : spared (addWrap s (MC_MISSES_COUNT q) 1) = spared s :=
  spared_counter s rfl (by simp only [MC_MISSES_COUNT]; omega) (by simp only [MC_MISSES_COUNT]; omega) _

@[simp] theorem spared_hostIssueCounted (q : Nat) : spared (addWrap s (ANV_ISSUE_H_COUNT q) 1) = spared s :=
  spared_counter s rfl (by simp only [ANV_ISSUE_H_COUNT]; omega) (by simp only [ANV_ISSUE_H_COUNT]; omega) _

@[simp] theorem spared_internalIssueCounted (q : Nat) : spared (addWrap s (ANV_ISSUE_I_COUNT q) 1) = spared s :=
  spared_counter s rfl (by simp only [ANV_ISSUE_I_COUNT]; omega) (by simp only [ANV_ISSUE_I_COUNT]; omega) _

@[simp] theorem spared_issueSlots (q v : Nat) : spared (setF s (ANV_QSTAT_INTSLOTS q) v) = spared s :=
  spared_counter s rfl (by simp only [ANV_QSTAT_INTSLOTS]; omega) (by simp only [ANV_QSTAT_INTSLOTS]; omega) _

theorem spared_wayErr {q : Nat} (h : q < 4) (w : Nat) (unc : Bool) : spared (wayErr s q w unc) = spared s := by
  simp [wayErr, spared_wayFloor _ h, spared_wayDisabled _ h]

@[simp] theorem spared_loseCopy (l : Nat) (unc : Bool) : spared (loseCopy s l unc) = spared s := by
  unfold loseCopy
  dsimp only
  split
  · rw [spared_wayErr _ (Nat.mod_lt _ (by decide)), spared_setSlice]
  · exact spared_setSlice ..

@[simp] theorem spared_missTake (q l : Nat) (str pf : Bool) : spared (missTake s q l str pf) = spared s := by simp [missTake]

@[simp] theorem spared_strideStep (t l : Nat) : spared (strideStep s t l) = spared s := by
  unfold strideStep
  simp only [spared_ite]
  split
  · rfl
  · rw [foldl_field spared _ fun s k => by simp [prefetch]]
    simp

@[simp] theorem spared_access (t l : Nat) : spared (access s t l).2 = spared s := by
  unfold access
  dsimp only
  split
  · split <;> simp
  · split
    · split <;> simp
    · simp

@[simp] theorem spared_giveBack (t : Nat) : spared (giveBack s t) = spared s := by simp [giveBack]

@[simp] theorem spared_preempt (q : Nat) : spared (preempt s q) = spared s := by
  unfold preempt
  split
  · rfl
  · exact foldl_field spared _ (fun s (e : Nat × Nat) => spared_giveBack s e.2) _ s

@[simp] theorem spared_toReady (t : Nat) : spared (toReady s t) = spared s := by simp [toReady, enforceL]

@[simp] theorem spared_releaseWith (t r : Nat) (v : W64) : spared (releaseWith s t r v) = spared s := by simp [releaseWith]

@[simp] theorem spared_adv (t : Nat) : spared (adv s t) = spared s := by
  unfold adv counted
  dsimp only
  split
  · rw [spared_hostIssueCounted, spared_modTh, spared_modTh]
  · rw [spared_internalIssueCounted, spared_modTh, spared_modTh]

@[simp] theorem spared_retire (t r : Nat) (v : W64) : spared (retire s t r v) = spared s := by simp [retire]

@[simp] theorem spared_lookWait (t a : Nat) (k : Cont) : spared (lookWait s t a k) = spared s := by
  simp [lookWait, advWait, wait]

@[simp] theorem spared_lookFault (t : Nat) : spared (lookFault s t) = spared s := by simp [lookFault]

@[simp] theorem spared_lookDone (t rd lbn : Nat) (gen : Bool) : spared (lookDone s t rd lbn gen) = spared s := by
  simp [lookDone]

@[simp] theorem spared_lookGo (t rd lbn : Nat) (gen : Bool) (n : Nat) (l : List Nat) :
    spared (lookGo s t rd lbn gen n l) = spared s := by
  induction l generalizing n s with
  | nil => exact spared_lookDone ..
  | cons a l ih =>
    have ha : spared (access s t a).2 = spared s := spared_access s t a
    unfold lookGo
    split
    · exact spared_lookWait ..
    · split <;> simp_all

@[simp] theorem spared_look (t rd lbn : Nat) (gen : Bool) (n : Nat) : spared (look s t rd lbn gen n) = spared s := by
  simp [look]

@[simp] theorem spared_wakeWindow : spared (wakeWindow s) = spared s := by
  unfold wakeWindow
  refine foldl_field spared _ (fun s t => ?_) _ s
  split <;> simp

/-! A record takes its place and commits -/

@[simp] theorem spared_commitRec (j : Nat) : spared (commitRec s j) = spared s := by
  unfold commitRec
  split
  · rfl
  · simp [spared_setF _ (g := MAP_JSEQ_LAST) (by decide)]

@[simp] theorem spared_commitEffects (r : JRec) : spared (commitEffects s r) = spared s := by
  simp [commitEffects, commitWhole]

@[simp] theorem spared_commitApply (j : Nat) : spared (commitApply s j) = spared s := by
  unfold commitApply
  split
  · rfl
  · simp

/-! Buffers -/

@[simp] theorem spared_fellBack : spared (addSat s BUF_FBCNT_COUNT 1) = spared s := spared_setF s (by decide) _

@[simp] theorem spared_clearBuf (b : Buf) : spared (clearBuf s b) = spared s := by
  unfold clearBuf; split <;> simp

@[simp] theorem spared_giveBuf (t p : Nat) (wb : Bool) (i : Nat) : spared (giveBuf s t p wb i).2 = spared s := by
  simp [giveBuf]

theorem spared_tryAlloc {t p h : Nat} {wb : Bool} {u : State} (e : tryAlloc s t p wb = some (h, u)) : spared u = spared s := by
  have hgive : ∀ (v : State) p wb i, spared v = spared s → giveBuf v t p wb i = (h, u) → spared u = spared s :=
    fun v p wb i hv hg => by rw [← hv, ← spared_giveBuf v t p wb i, hg]
  unfold tryAlloc at e
  split at e
  · cases e
  split at e
  · split at e
    · obtain ⟨i, -, hi⟩ := Option.map_eq_some_iff.1 e
      exact hgive _ _ _ _ rfl hi
    · split at e
      · exact hgive _ _ _ _ rfl (Option.some.inj e)
      · obtain ⟨i, -, hi⟩ := Option.map_eq_some_iff.1 e
        refine hgive _ _ _ _ ?_ hi
        rw [spared_fellBack, spared_with_buf]
  · obtain ⟨p', -, hp⟩ := Option.bind_eq_some_iff.1 e
    split at hp
    · cases hp
    · obtain ⟨i, -, hi⟩ := Option.map_eq_some_iff.1 hp
      refine hgive _ _ _ _ ?_ hi
      split
      · rfl
      · exact spared_fellBack _

@[simp] theorem spared_servePass : spared (servePass s) = spared s := by
  unfold servePass
  refine foldl_field spared _ (fun s r => ?_) _ s
  split
  · split
    · rfl
    · dsimp only
      split <;> split <;> simp
  · split
    · rfl
    · next h u e =>
      dsimp only
      split <;> simp [spared_tryAlloc s e]

@[simp] theorem spared_serveBufs : spared (serveBufs s) = spared s := by
  unfold serveBufs
  exact foldl_field spared _ (fun s _ => spared_servePass s) _ s

@[simp] theorem spared_freeBuf (h : Nat) : spared (freeBuf s h) = spared s := by
  unfold freeBuf; split <;> simp

@[simp] theorem spared_toFlush (h : Nat) : spared (toFlush s h) = spared s := by
  unfold toFlush
  split
  · rfl
  · rw [spared_serveBufs]; rfl

@[simp] theorem spared_dropBufs (t : Nat) : spared (dropBufs s t) = spared s := by
  unfold dropBufs
  refine foldl_field spared _ (fun s h => ?_) _ s
  split <;> simp

@[simp] theorem spared_dropReq (t : Nat) : spared (dropReq s t) = spared s := by simp [dropReq]

/-! Locks, charges and the thread itself -/

@[simp] theorem spared_grantLock (i : Nat) : spared (grantLock s i) = spared s := by
  unfold grantLock
  split
  · rfl
  · split
    · rfl
    · simp [takeLock]

@[simp] theorem spared_dropLock (t i : Nat) : spared (dropLock s t i) = spared s := by simp [dropLock]

@[simp] theorem spared_dropLocks (t : Nat) : spared (dropLocks s t) = spared s :=
  foldl_field spared _ (fun s i => spared_dropLock s t i) _ s

@[simp] theorem spared_unparkCharge (t : Nat) : spared (unparkCharge s t) = spared s := by simp [unparkCharge, modCnt]

@[simp] theorem spared_withdraw (t : Nat) : spared (withdraw s t) = spared s :=
  (show spared (withdraw s t) = spared (unparkCharge (dropReq s t) t) from rfl).trans (by simp)

@[simp] theorem spared_orphanStrikes (t : Nat) : spared (orphanStrikes s t) = spared s := by
  unfold orphanStrikes
  rw [foldl_field spared _ (fun s h => by split <;> simp)]
  simp

@[simp] theorem spared_releaseAll (t : Nat) : spared (releaseAll s t) = spared s := by
  unfold releaseAll
  dsimp only
  rw [spared_serveBufs, spared_dropBufs]
  split <;> simp

@[simp] theorem spared_cleanUp (t : Nat) : spared (cleanUp s t) = spared s := by simp [cleanUp]

@[simp] theorem spared_stopInternals : spared (stopInternals s) = spared s := by
  unfold stopInternals
  exact foldl_field spared _ (fun s t => by simp) _ s

/-! Discards, holds, the share, the commits that end a wait -/

@[simp] theorem spared_discard (c cls detail : Nat) (off : Option Nat) : spared (discard s c cls detail off) = spared s := by
  simp [discard]

theorem spared_discardAll (src cls detail : Nat) : spared (discardAll s src cls detail) = spared s := by
  unfold discardAll
  dsimp only
  rw [spared_ite, spared_answerHelm, ite_self, foldl_field spared _ fun s c => spared_discard s c cls detail none]

theorem spared_holdThreads (n : Nat) : spared (holdThreads s n) = spared s :=
  (foldl_field spared _ spared_holdPark _ _).trans rfl

theorem spared_unhold : spared (unhold s) = spared s :=
  (foldl_field spared _ (fun s t => by simp) _ _).trans rfl

theorem spared_applyShare : spared (applyShare s) = spared s := by
  unfold applyShare setCaps
  extract_lets sh v w x
  rw [spared_serveBufs, spared_setF _ (by decide), spared_setF _ (by decide), foldl_field spared _ spared_preempt,
    foldl_field spared _ fun s q => spared_issueSlots .., spared_setF _ (by decide)]

theorem spared_wakeCommit (r : JRec) : spared (wakeCommit s r) = spared s := by
  unfold wakeCommit
  split
  · rfl
  · split <;> simp

/-- What commits up to a number only drops acknowledgements awaited. -/
theorem spared_commitUpTo (j : Nat) : spared (commitUpTo s j) = { spared s with acks := s.map.acks.filter fun x => decide (j < x) } := by
  unfold commitUpTo
  extract_lets l
  rw [foldl_field spared _ fun s r => by rw [spared_wakeCommit, spared_commitApply]]
  rfl

/-! Quadrants, DRAM and links down and up (R73, R75) -/

@[simp] theorem spared_showWidths (narrow : Bool) : spared (showWidths s narrow) = spared s := by
  unfold showWidths
  refine foldl_field spared _ (fun s p => ?_) _ s
  split
  · exact spared_setF s (aside_above (by simp only [HLV_STAT_WIDTH]; omega)) _
  · rfl

@[simp] theorem spared_powerUp : spared (powerUp s) = spared s := by
  unfold powerUp
  split
  · rw [spared_showWidths, spared_setF _ (by decide)]
  · rfl

theorem spared_powerDown : spared (powerDown s) = spared s := by
  unfold powerDown emptySlices drainSlices
  dsimp only
  rw [spared_showWidths, spared_setF _ (by decide), spared_with_mem, foldl_field spared _ fun s q => spared_setSlice s ..,
    foldl_field spared _ fun s q => foldl_field spared _ (fun s _ => spared_wtDrain s q .ok) _ s]

end
end Sys2Proof.Machine
end
section
/-! PROOFS. What a change of mode writes, and what the HELM family keeps over the release of ownership and links. -/
namespace Sys2Proof.Machine
open Sys2Proof Sys2Proof.Safety

/-! ### The mode changes (R59, R61, R78, R80, R104, R505) -/

/-- A register past the HELM family leaves that family alone. -/
theorem getF_setF_past (s : State) {f g : Fld} (hf : f.ofHelm) (hg : 0x01010000 * 64 ≤ g.key) (v : Nat) :
    getF (setF s g v) f = getF s f :=
  getF_setF_other s v (by simp [Nat.ne_of_lt (Nat.lt_of_lt_of_le (show f.key < 0x01010000 * 64 from hf) hg)])

theorem RegsKept.trans {l : List Fld} {s u v : State} (h : RegsKept l s u) (h' : RegsKept l u v) : RegsKept l s v :=
  fun f hf => (h' f hf).trans (h f hf)

section
variable (s : State)

/-- What a change of mode writes: HELM_MODE, and the test run that ends (R85, R505). -/
def modeFields : List Fld := [HELM_MODE_PREV, HELM_MODE_CUR, HELM_MODE_SINCE, TST_STAT_RUN, TST_STAT_ABORT]

theorem regsKept_testAbort : RegsKept modeFields s (testAbort s) := by
  unfold testAbort
  split
  · exact regsKept_setF_trans (regsKept_setF_trans (regsKept_of _ rfl rfl) (by simp [modeFields]) _) (by simp [modeFields]) _
  · exact regsKept_refl _ s

theorem regsKept_toMode (m : Nat) : RegsKept modeFields s (toMode s m) := by
  unfold toMode
  extract_lets v w
  have hw : RegsKept modeFields s w :=
    regsKept_setF_trans (regsKept_setF_trans (regsKept_setF_trans (regsKept_refl _ s) (by simp [modeFields]) _)
      (by simp [modeFields]) _) (by simp [modeFields]) _
  exact fun f hf => (getF_event ..).trans ((regsKept_testAbort _ f hf).trans (hw f hf))

/-- A change of mode notes the mode left (R85). -/
theorem getF_toMode_prev (m : Nat) : getF (toMode s m) HELM_MODE_PREV = mode s % 2 ^ HELM_MODE_PREV.w := by
  unfold toMode
  extract_lets v w
  have hw : getF w HELM_MODE_PREV = mode s % 2 ^ HELM_MODE_PREV.w := by
    simp only [w, v]
    rw [getF_setF_other _ _ (by decide), getF_setF_other _ _ (by decide), getF_setF_same]
  rw [getF_event, getF_logEv, ← hw]
  unfold testAbort
  split
  · exact (getF_setF_other _ _ (by decide)).trans (getF_setF_other _ _ (by decide))
  · rfl

/-- Of what is under way a change of mode ends a test run alone. -/
def Aux.testless (x : Aux) : Aux := { x with tst := none }

theorem change_of_testless {x y : Aux} (h : y.testless = x.testless) : y.change = x.change := (congrArg Aux.change h :)
theorem quench_of_testless {x y : Aux} (h : y.testless = x.testless) : y.quench = x.quench := (congrArg Aux.quench h :)
theorem warn_of_testless {x y : Aux} (h : y.testless = x.testless) : y.warn = x.warn := (congrArg Aux.warn h :)

theorem testAbort_x : (testAbort s).x.testless = s.x.testless := by
  unfold testAbort
  split
  · simp [Aux.testless]
  · rfl

theorem toMode_x (m : Nat) : (toMode s m).x.testless = s.x.testless := by
  unfold toMode
  extract_lets v w
  rw [event_x, logEv_x, testAbort_x]
  simp [w, v]

/-! Ownership, drivers and links -/

section
variable {f : Fld} (hf : f.ofHelm)
include hf

theorem getF_testAbort : getF (testAbort s) f = getF s f := by
  unfold testAbort
  split
  · exact (getF_setF_past _ hf (by decide) _).trans (getF_setF_past _ hf (by decide) _)
  · rfl

theorem getF_driversSet (l : List Nat) (v : Nat) : getF (l.foldl (fun s n => setF s (CH_STAT_DRV n) v) s) f = getF s f :=
  foldl_field (getF · f) _ (fun s n => getF_setF_past s hf (by simp only [CH_STAT_DRV]; omega) _) _ s

theorem getF_driversOff : getF (driversOff s) f = getF s f := by
  unfold driversOff
  extract_lets v
  have hv : getF v f = getF s f := getF_driversSet s hf _ 0
  clear_value v
  exact hv

theorem getF_releaseOwn : getF (releaseOwn s) f = getF s f := by
  unfold releaseOwn
  rw [getF_setAux, getF_setF_past _ hf (by decide), getF_driversOff _ hf, getF_testAbort _ hf]

theorem getF_releaseTrigs : getF (releaseTrigs s) f = getF s f := by
  unfold releaseTrigs
  split
  · dsimp only
    split
    · rfl
    · exact getF_setF_past _ hf (by decide) _
  · rfl

end

theorem getF_saveNow (f : Fld) : getF (saveNow s) f = getF s f := getF_commit ..

end
end Sys2Proof.Machine
end
section
/-! PROOFS. The entry to SAFE, stage by stage: what it ends, what it shows, what HELM keeps. -/
namespace Sys2Proof.Machine
open Sys2Proof Sys2Proof.Safety

section
variable (s : State)

/-- Nothing is under way that a mode's end leaves behind (R61, R78). -/
structure Settled (x : Aux) : Prop where
  change : x.change = none
  safing : x.safing = none
  quench : x.quench = none
  held : x.heldCause = []
  warn : x.warn = 0

theorem Settled.of_testless {x y : Aux} (h : y.testless = x.testless) (hx : Settled x) : Settled y where
  change := (change_of_testless h).trans hx.change
  safing := (congrArg Aux.safing h :).trans hx.safing
  quench := (quench_of_testless h).trans hx.quench
  held := (congrArg Aux.heldCause h :).trans hx.held
  warn := (warn_of_testless h).trans hx.warn

/-- Commands in flight are discarded as the entry to SAFE begins, and what is not flushed is told (R61, R78). -/
def safeDiscarded (s : State) (src : Nat) : State :=
  let s := if inMode s [mRun, mService] then discardAll { s with d := { s.d with closed := true } } src 0x41 2 else s
  if wbOwed s || tailOwed s then setC s HELM_SAFE_CAUSE_UNFLUSHED 1 else s

/-- Internal threads, ownership and the links before the entry to SAFE (R61, R75, R430, R498). -/
def safeReleased (s : State) : State := powerUp (releaseOwn (stopInternals (releaseTrigs s)))

/-- What is under way ends with the entry to SAFE (R61, R78). -/
def safeCleared (s : State) : State :=
  let s := { s with d := { s.d with hold := 0, held := [] }, clk := { s.clk with due := [] }
                    rsm := { s.rsm with saved := if inMode s [mKindle, mStandby] then s.rsm.saved else none } }
  setAux s { s.x with change := none, safing := none, quench := none, heldCause := [], warn := 0
                      pair := { s.x.pair with step := 0, salv := [], lost := [] } }

/-- The registers that show it (R78, R79). -/
def safeShown (s : State) : State :=
  let s := setF (setF (setF s HELM_MODE_CHANGING 0) HELM_SAFE_CAUSE_HELD 0) PWR_STAT_QACTIVE 0
  setF (setF (setF s PWR_STAT_QSTEP 0) PWR_STAT_QDONE 0) PAIR_STAT_SWAPPING 0

theorem enterSafe_eq (src : Nat) : enterSafe s src =
    answerHelm (logEv (toMode (saveNow (safeShown (safeCleared (safeReleased (safeDiscarded s src))))) mSafe) 0 1 []) src okEnd [] := by
  simp only [enterSafe, safeShown, safeCleared, safeReleased, safeDiscarded]

theorem getF_safeDiscarded (src : Nat) {f : Fld} (hf : f.ofHelm)
    (hu : (f.key == HELM_SAFE_CAUSE_UNFLUSHED.key && f.ret == HELM_SAFE_CAUSE_UNFLUSHED.ret) = false) :
    getF (safeDiscarded s src) f = getF s f := by
  unfold safeDiscarded
  extract_lets _ v
  have hv : getF v f = getF s f := by
    simp only [v]
    split
    · exact getF_helm_of_spared (spared_discardAll ..) hf
    · rfl
  split
  · exact (getF_setC_other _ _ hu).trans hv
  · exact hv

theorem getF_safeReleased {f : Fld} (hf : f.ofHelm) : getF (safeReleased s) f = getF s f := by
  rw [safeReleased, getF_helm_of_spared (spared_powerUp _) hf, getF_releaseOwn _ hf, getF_helm_of_spared (spared_stopInternals _) hf, getF_releaseTrigs _ hf]

theorem getF_safeCleared (f : Fld) : getF (safeCleared s) f = getF s f := rfl

theorem safeCleared_settled : Settled (safeCleared s).x := ⟨rfl, rfl, rfl, rfl, rfl⟩

theorem safeShown_x : (safeShown s).x = s.x := by simp only [safeShown, setF_x]

theorem getF_safeShown {f : Fld} (hf : f.ofHelm) (hc : (f.key == HELM_MODE_CHANGING.key && f.ret == HELM_MODE_CHANGING.ret) = false)
    (hh : (f.key == HELM_SAFE_CAUSE_HELD.key && f.ret == HELM_SAFE_CAUSE_HELD.ret) = false) : getF (safeShown s) f = getF s f := by
  unfold safeShown
  dsimp only
  iterate 4 rw [getF_setF_past _ hf (by decide)]
  rw [getF_setF_other _ _ hh, getF_setF_other _ _ hc]

theorem safeShown_zero : getF (safeShown s) HELM_MODE_CHANGING = 0 ∧ getF (safeShown s) HELM_SAFE_CAUSE_HELD = 0 ∧
    getF (safeShown s) PWR_STAT_QACTIVE = 0 := by
  unfold safeShown
  dsimp only
  refine ⟨?_, ?_, ?_⟩
  · iterate 5 rw [getF_setF_other _ _ (by decide)]
    exact getF_setF_same ..
  · iterate 4 rw [getF_setF_other _ _ (by decide)]
    exact getF_setF_same ..
  · iterate 3 rw [getF_setF_other _ _ (by decide)]
    exact getF_setF_same ..

theorem saveNow_x : (saveNow s).x = s.x := commit_x _

section
variable (src : Nat)

theorem getF_enterSafe_shown (f : Fld) (h : ∀ g ∈ modeFields, (f.key == g.key && f.ret == g.ret) = false) :
    getF (enterSafe s src) f = getF (safeShown (safeCleared (safeReleased (safeDiscarded s src)))) f := by
  rw [enterSafe_eq, getF_answerHelm, getF_logEv, regsKept_toMode _ _ f h, getF_saveNow]

/-- HELM keeps what the entry to SAFE does not write. -/
theorem getF_enterSafe {f : Fld} (hf : f.ofHelm) (h : ∀ g ∈ modeFields ++ [HELM_MODE_CHANGING, HELM_SAFE_CAUSE_UNFLUSHED, HELM_SAFE_CAUSE_HELD],
    (f.key == g.key && f.ret == g.ret) = false) : getF (enterSafe s src) f = getF s f := by
  rw [getF_enterSafe_shown _ _ _ fun g hg => h g (List.mem_append_left _ hg), getF_safeShown _ hf (h _ (by simp)) (h _ (by simp)),
    getF_safeCleared, getF_safeReleased _ hf, getF_safeDiscarded _ _ hf (h _ (by simp))]

theorem getF_enterSafe_prev : getF (enterSafe s src) HELM_MODE_PREV = mode s % 2 ^ HELM_MODE_PREV.w := by
  rw [enterSafe_eq, getF_answerHelm, getF_logEv, getF_toMode_prev, mode, getF_saveNow, getF_safeShown _ (by decide) (by decide) (by decide),
    getF_safeCleared, getF_safeReleased _ (by decide), getF_safeDiscarded _ _ (by decide) (by decide), mode]

/-- SAFE is entered: no change of mode is under way, no cause is held, QUENCH is over (R61, R78, R79). -/
theorem enterSafe_effect : Settled (enterSafe s src).x ∧ getF (enterSafe s src) HELM_MODE_CHANGING = 0 ∧
    getF (enterSafe s src) HELM_SAFE_CAUSE_HELD = 0 ∧ getF (enterSafe s src) PWR_STAT_QACTIVE = 0 := by
  obtain ⟨hc, hh, hq⟩ := safeShown_zero (safeCleared (safeReleased (safeDiscarded s src)))
  refine ⟨?_, ?_, ?_, ?_⟩
  · refine (safeCleared_settled (safeReleased (safeDiscarded s src))).of_testless ?_
    rw [enterSafe_eq, answerHelm_x, logEv_x, toMode_x, saveNow_x, safeShown_x]
  · rw [getF_enterSafe_shown _ _ _ (by decide), hc]
  · rw [getF_enterSafe_shown _ _ _ (by decide), hh]
  · rw [getF_enterSafe_shown _ _ _ (by decide), hq]

end
end
end Sys2Proof.Machine
end
section
/-! PROOFS. SAFE and the voting helm. -/
namespace Sys2Proof.Machine
open Sys2Proof Sys2Proof.Safety

/-! ### A cause of SAFE arises (R77, R78, R85) -/

section
variable (s : State)

theorem recordCause_x (c : Nat) : (recordCause s c).x = s.x := by
  unfold recordCause; split <;> exact setC_x ..

theorem getF_recordCause_other (c : Nat) {f : Fld} (h : ∀ g ∈ [HELM_SAFE_CAUSE_CAUSE, HELM_SAFE_CAUSE_MORE],
    (f.key == g.key && f.ret == g.ret) = false) : getF (recordCause s c) f = getF s f := by
  unfold recordCause
  split
  · exact getF_setC_other _ _ (h _ (by simp))
  · exact getF_setC_other _ _ (h _ (by simp))

section
variable (c src : Nat)

/-- The flush of a SAFE entry begins: CHANGING and CLOSED, with HELM's other registers as they were (R78). -/
theorem beginSafe_effect : (beginSafe s c src).x.safing = some (c, src) ∧ (beginSafe s c src).x.change = none ∧
    (beginSafe s c src).d.closed = true ∧ getF (beginSafe s c src) HELM_MODE_CHANGING = 1 := by
  unfold beginSafe
  extract_lets _ v
  have hc : v.d.closed = true := closed_of_spared (spared_discardAll ..)
  refine ⟨by rw [setF_x]; rfl, by rw [setF_x]; rfl, ?_, getF_setF_same ..⟩
  rw [setF_d]
  exact (closed_of_spared (spared_holdThreads v 1)).trans hc

theorem getF_beginSafe {f : Fld} (hf : f.ofHelm) (h : (f.key == HELM_MODE_CHANGING.key && f.ret == HELM_MODE_CHANGING.ret) = false) :
    getF (beginSafe s c src) f = getF s f := by
  unfold beginSafe
  extract_lets _ v
  have hv : getF v f = getF s f := getF_helm_of_spared (spared_discardAll ..) hf
  rw [getF_setF_other _ _ h, getF_setAux, getF_helm_of_spared (spared_holdThreads v 1) hf, hv]

/-- In RUN or SERVICE a cause for which nothing is flushed enters SAFE at once (R78). -/
theorem safeArise_at_once {s : State} (h : mode s = mRun ∨ mode s = mService) (hc : noFlush c = true) :
    safeArise s c src = enterSafe (recordCause s c) (safingSrc (recordCause s c) src) := by
  unfold safeArise
  obtain h | h := h <;> simp [h, hc, mRun, mService, mOff, mSafe, mBanked, mQuench]

/-- In RUN or SERVICE any other cause begins to flush, unless an entry already does (R78). -/
theorem safeArise_flush {s : State} (h : mode s = mRun ∨ mode s = mService) (hc : noFlush c = false) (hs : s.x.safing = none) :
    safeArise s c src = beginSafe (recordCause s c) c src := by
  unfold safeArise
  obtain h | h := h <;> simp [h, hc, recordCause_x, hs, mRun, mService, mOff, mSafe, mBanked, mQuench]

/-- Where no data moves, SAFE is entered at once (R78). -/
theorem safeArise_still {s : State} (h : mode s = mKindle ∨ mode s = mStandby) :
    safeArise s c src = enterSafe (recordCause s c) src := by
  unfold safeArise
  obtain h | h := h <;> simp [h, mKindle, mStandby, mRun, mService, mOff, mSafe, mBanked, mQuench]

end

theorem flushOver_iff : flushOver s = true ↔ wbOwed s = false ∧ flushing s = false ∧ tailOwed s = false := by
  simp [flushOver, and_assoc]

/-! ### SAFE_ENTRY and HELM_DISAGREEMENT (R78, R422, R423) -/

variable {s} {cause : Nat} {fails : Bool}

/-- A physical cause arises with no entry under way (R77). -/
theorem exec_safeEntry_arises (h : s.x.safing = none) (hc : cause = 6 ∨ cause = 8) :
    exec (.safeEntry cause fails) s = .next (safeArise s cause 9998) := by
  show execSafeEntry cause fails s = _
  unfold execSafeEntry
  rw [h]
  exact next_act (by obtain h | h := hc <;> simp [h])

/-- The entry whose flush is under way ends once nothing is left to flush, or the flush fails (R78, R530). -/
theorem exec_safeEntry_ends {c src : Nat} (h : s.x.safing = some (c, src)) (h6 : cause ≠ 6) (h8 : cause ≠ 8) :
    exec (.safeEntry cause fails) s = act (inMode s [mRun, mService] && (fails || flushOver s)) s (enterSafe s src) := by
  show execSafeEntry cause fails s = _
  unfold execSafeEntry
  rw [h]
  simp [h6, h8]

theorem exec_helmDisagreement {core : Nat} (hm : mode s ≠ mOff) (hi : s.boot.image = true) (hc : core < 3)
    (hb : bit (getF s HELM_VOTE_MASKED) core = false) :
    exec (.helmDisagreement core) s = .next (
      let v := addSat s HELM_VOTE_EVENTS 1
      if getF s HELM_VOTE_MASKED = 0 then logEv (setF (setF v HELM_VOTE_MASKED (2 ^ core)) HELM_VOTE_LASTCORE core) 0 3 []
      else safeArise (setF (logEv v 0 3 []) HELM_VOTE_MASKED 0) 1 9998) := by
  show execHelmDisagreement core s = _
  unfold execHelmDisagreement
  extract_lets m v
  rw [next_act (by simp [hm, hi, hb, m]; omega)]
  by_cases h0 : getF s HELM_VOTE_MASKED = 0
  · rw [if_pos h0, if_neg (by simp [m, h0]; omega)]
  · rw [if_neg h0, if_pos (by simp [m, h0])]

/-- Settles O34: a physical cause at once or after the flush, the end of the flush, and the two disagreements of a core. -/
theorem safeAndVote : Obligations.SafeAndVote := by
  intro s cause core fails
  refine ⟨fun hs hc h0 hm => ?_, fun hs hc h0 hm => ?_, fun c src hs h6 h8 hm hf => ?_, fun c src hs h6 h8 hf ho => ?_,
    fun hm hi hc h0 => ?_, fun hm hi hc hk hb h0 => ?_⟩
  · subst hc
    refine ⟨_, (exec_safeEntry_arises hs (.inr rfl)).trans (congrArg _ (safeArise_at_once _ _ (.inl hm) rfl)), mode_enterSafe .., ?_, ?_, ?_⟩
    · rw [getF_enterSafe _ _ (by decide) (by decide), getF_recordCause h0]
    · rw [getF_enterSafe_prev, mode_recordCause, hm]
      decide
    · obtain ⟨⟨hch, hsf, -, -, -⟩, -⟩ := enterSafe_effect (recordCause s 8) (safingSrc (recordCause s 8) 9998)
      exact ⟨hsf, hch⟩
  · subst hc
    obtain ⟨hsf, hch, hcl, hcg⟩ := beginSafe_effect (recordCause s 6) 6 9998
    refine ⟨_, (exec_safeEntry_arises hs (.inl rfl)).trans (congrArg _ (safeArise_flush _ _ (.inl hm) rfl hs)), ?_, ?_, hcg, hsf, hcl⟩
    · rw [mode, getF_beginSafe _ _ _ (by decide) (by decide), ← mode, mode_recordCause, hm]
    · rw [getF_beginSafe _ _ _ (by decide) (by decide), getF_recordCause h0]
  · obtain ⟨⟨-, hsf, -, -, -⟩, hcg, -⟩ := enterSafe_effect s src
    refine ⟨_, (exec_safeEntry_ends hs h6 h8).trans (next_act ?_), mode_enterSafe .., hsf, hcg⟩
    have hin : inMode s [mRun, mService] = true := by simpa [inMode] using hm
    have hover : fails = true ∨ flushOver s = true := hf.imp_right (flushOver_iff s).2
    simpa [hin] using hover
  · refine (exec_safeEntry_ends hs h6 h8).trans (next_idle ?_)
    have hover : flushOver s = false := by
      rw [Bool.eq_false_iff, ne_eq, flushOver_iff]
      rintro ⟨h1, h2, h3⟩
      simp [h1, h2, h3] at ho
    simp [hf, hover]
  · refine ⟨_, (exec_helmDisagreement hm hi hc (by simp [h0, bit])).trans (congrArg _ (if_pos h0)), ?_, ?_, ?_⟩
    · rw [getF_logEv, getF_setF_other _ _ (by decide), getF_setF_same]
      exact Nat.mod_eq_of_lt (Nat.pow_lt_pow_right (by decide) hc)
    · rw [getF_logEv, getF_setF_same]
      exact Nat.mod_eq_of_lt (by simp [HELM_VOTE_LASTCORE]; omega)
    · exact regsKept_setF_trans (regsKept_setF_trans (regsKept_setF_trans (regsKept_refl _ s) (by simp) _) (by simp) _) (by simp) _
  · have hv : mode (setF (logEv (addSat s HELM_VOTE_EVENTS 1) 0 3 []) HELM_VOTE_MASKED 0) = mStandby := by
      rw [mode_setF _ (by decide), mode_logEv, addSat, mode_setF _ (by decide), hm]
    refine ⟨_, (exec_helmDisagreement (by rw [hm]; decide) hi hc hb).trans
      (congrArg _ ((if_neg hk).trans (safeArise_still _ _ (.inr hv)))), mode_enterSafe .., ?_, ?_⟩
    · rw [getF_enterSafe _ _ (by decide) (by decide), getF_recordCause]
      rw [getF_setF_other _ _ (by decide), getF_logEv, getF_addSat_other _ _ (by decide), h0]
    · rw [getF_enterSafe _ _ (by decide) (by decide), getF_recordCause_other _ _ (by decide), getF_setF_same]
      rfl

end
end Sys2Proof.Machine
end
section
/-! PROOFS. Requested changes of mode: RUN entered, the rows of the requests, BANKED. -/
namespace Sys2Proof.Machine
open Sys2Proof Sys2Proof.Safety

/-! ### RUN is entered, the module wakes (R60, R75, R524) -/

section
variable (s : State)

/-- RUN is entered: HELM is as the change of mode leaves it, but for a held THERMAL cause that takes effect (R524). -/
theorem getF_enterRun {f : Fld} (hf : f.ofHelm) (h : ∀ g ∈ [HELM_MODE_CHANGING, HELM_THERM_HELD],
    (f.key == g.key && f.ret == g.ret) = false) : getF (enterRun s) f = getF (toMode s mRun) f := by
  unfold enterRun
  extract_lets v _ w _ x
  have hw : getF w f = getF v f := by
    simp only [w]
    split
    · exact getF_setAux ..
    · rfl
  have hx : getF x f = getF v f := by
    rw [← hw]
    clear_value w
    simp only [x]
    split
    · exact getF_event ..
    · rfl
  clear_value x
  rw [← hx]
  split
  · rw [getF_beginSafe _ _ _ hf (h _ (by simp)), getF_setF_other _ _ (h _ (by simp))]
  · rfl

theorem mode_enterRun : mode (enterRun s) = mRun := (getF_enterRun s (by decide) (by decide)).trans (mode_toMode s (by decide))

theorem getF_enterRun_prev : getF (enterRun s) HELM_MODE_PREV = mode s % 2 ^ HELM_MODE_PREV.w :=
  (getF_enterRun s (by decide) (by decide)).trans (getF_toMode_prev s mRun)

/-- From BANKED the module wakes into RUN (R75). -/
theorem mode_wake (h : mode s = mRun ∨ mode s = mBanked) : mode (wake s) = mRun := by
  obtain h | h := h
  · rw [wake_awake s (by rw [h]; decide), h]
  · unfold wake
    rw [if_neg (by simp [h])]
    exact mode_enterRun _

/-! ### Requested changes begin (R62, R73, R76, R82, R83) -/

/-- A requested change drains in the mode that stands. -/
theorem startChange_effect (kind src : Nat) : (startChange s kind src).x.change = some ⟨kind, src, 1⟩ ∧
    getF (startChange s kind src) HELM_MODE_CHANGING = 1 ∧ mode (startChange s kind src) = mode s ∧
    (startChange s kind src).mem = s.mem := by
  unfold startChange
  refine ⟨?_, getF_setF_same .., mode_setF _ (by decide) _, ?_⟩
  · rw [setF_x]; rfl
  · rw [setF_mem]; rfl

theorem holdThreads_effect (n : Nat) : (holdThreads s n).mem = s.mem ∧ (holdThreads s n).d.hold = n :=
  ⟨foldl_field State.mem holdPark (fun _ _ => rfl) _ _, foldl_field (fun s => s.d.hold) holdPark (fun _ _ => rfl) _ _⟩

end

/-! ### The rows of the requests -/

section
variable {s : State} {r : HelmReq}

theorem asked_of_subset {o : Nat} {modes more : List Nat} (h : asked s r o modes) (hm : ∀ m ∈ modes, m ∈ more) : asked s r o more := by
  obtain ⟨hr, ho, hi, hoff, hmode, hz⟩ := h
  refine ⟨hr, ho, hi, hoff, ?_, hz⟩
  simp only [inMode, List.contains_iff_mem] at hmode ⊢
  exact hm _ hmode

theorem mode_of_asked {o m : Nat} (h : asked s r o [m]) : mode s = m := by
  obtain ⟨-, -, -, -, hmode, -⟩ := h
  simpa [inMode] using hmode

theorem mode_of_asked_pair {o m n : Nat} (h : asked s r o [m, n]) : mode s = m ∨ mode s = n := by
  obtain ⟨-, -, -, -, hmode, -⟩ := h
  simpa [inMode] using hmode

theorem mode_beginReq (s : State) (src : Nat) : mode (beginReq s src) = mode s := rfl

theorem changeFree_iff : changeFree s = true ↔ s.x.change = none ∧ s.x.safing = none := by simp [changeFree]

theorem exec_setPowerRun (h : asked s r 0x84 [mRun, mBanked]) (ht : target r = 3) (hf : fieldCheck r true true none = none) :
    exec .setPowerRun s = .next (answerHelm (wake (beginReq s r.src)) r.src okEnd []) := by
  show execSetPowerRun s = _
  exact adminRow_effect h (by simp [ht]) (by rw [ht]; exact hf)

theorem exec_setPowerBanked (h : asked s r 0x84 [mRun]) (ht : target r = 4) (hf : fieldCheck r true true none = none) :
    exec .setPowerBanked s = .next (if changeFree s then holdThreads (startChange (beginReq s r.src) 2 r.src) 1
      else answerHelm (beginReq s r.src) r.src ⟨0x13, 4, none, 0⟩ []) := by
  show execSetPowerBanked s = _
  exact adminRow_effect h (by simp [ht]) hf

theorem exec_setModeRun_service (h : asked s r 0x85 [mService]) (ht : target r = 3) (hf : fieldCheck r true true none = none)
    (hc : changeFree s = true) : exec .setModeRun s = .next (
      if serviceBusy s then answerHelm (beginReq s r.src) r.src ⟨0x13, 0x0A, none, 0⟩ []
      else answerHelm (enterRun (beginReq s r.src)) r.src okEnd []) := by
  have hm : mode (beginReq s r.src) = mService := (mode_beginReq s _).trans (mode_of_asked h)
  have hc' : changeFree (beginReq s r.src) = true := hc
  show execSetModeRun s = _
  refine (adminRow_effect (asked_of_subset h (by simp)) (by simp [ht]) ?_).trans ?_
  · simp only [hm, ht]
    exact hf
  · simp only [hm, hc']
    rfl

/-- From SAFE no SET_MODE leads back to RUN (R61). -/
theorem exec_setModeRun_safe (h : asked s r 0x85 [mSafe]) (ht : target r = 3) :
    exec .setModeRun s = .next (answerHelm (beginReq s r.src) r.src ⟨0x13, 4, none, 0⟩ []) := by
  have hm : mode (beginReq s r.src) = mSafe := (mode_beginReq s _).trans (mode_of_asked h)
  show execSetModeRun s = _
  refine (adminRow_effect (asked_of_subset h (by simp)) (by simp [ht]) ?_).trans ?_
  · simp only [hm]
    rfl
  · simp only [hm]
    rfl

theorem exec_setModeService (h : asked s r 0x85 [mRun]) (ht : target r = 5) (hf : fieldCheck r true true none = none)
    (hc : changeFree s = true) : exec .setModeService s = .next (startChange (beginReq s r.src) 1 r.src) := by
  show execSetModeService s = _
  exact (adminRow_effect h (by simp [ht]) hf).trans (congrArg _ (if_pos hc))

theorem exec_setModeSafe (h : asked s r 0x85 [mRun, mService]) (ht : target r = 7) (hf : fieldCheck r true true none = none)
    (hs : s.x.safing = none) : exec .setModeSafe s = .next (safeArise (beginReq s r.src) 9 r.src) := by
  show execSetModeSafe s = _
  refine (adminRow_effect h (by simp [ht]) hf).trans (congrArg _ (if_neg ?_))
  have hs' : (beginReq s r.src).x.safing = none := hs
  simp [hs']

theorem exec_setModeRestart {m : List Nat} (h : asked s r 0x85 m) (hm : ∀ n ∈ m, n ∈ [mRun, mService, mSafe]) (ht : target r = 8)
    (hf : fieldCheck r true true none = none) (hc : changeFree s = true) : exec .setModeRestart s = .next (
      let v := beginReq s r.src
      if mode s = mSafe then answerHelm { v with x := { v.x with change := some ⟨3, r.src, 2⟩ } } r.src okEnd []
      else startChange v 3 r.src) := by
  have hc' : changeFree (beginReq s r.src) = true := hc
  have hmode : mode (beginReq s r.src) = mode s := rfl
  show execSetModeRestart s = _
  refine (adminRow_effect (asked_of_subset h hm) (by simp [ht]) hf).trans ?_
  simp only [hc', hmode, Bool.not_true, Bool.false_eq_true, if_false, beq_iff_eq]
  rfl

theorem exec_settingsWipe (h : asked s r 0x8C [mService]) (hf : fieldCheck r true true none = none)
    (hc : changeFree s = true) : exec .settingsWipe s = .next (startChange (beginReq s r.src) 5 r.src) := by
  show execSettingsWipe s = _
  exact (adminRow_effect h rfl hf).trans (congrArg _ (if_pos hc))

end

/-! ### BANKED is entered (R59, R73, R74) -/

section
variable (s : State)

theorem spared_finishReq (src : Nat) (e : Ending) : spared (finishReq s src e) = spared s := by
  unfold finishReq
  split
  · dsimp only
    split
    · rfl
    · rw [spared_modTh, spared_cleanUp]; rfl
  · rfl

/-- The drivers of all channels are off (R73). -/
theorem getF_driversZero {l : List Nat} {n : Nat} (h : n ∈ l) :
    getF (l.foldl (fun s n => setF s (CH_STAT_DRV n) 0) s) (CH_STAT_DRV n) = 0 := by
  induction l using List.reverseRecOn with
  | nil => cases h
  | append_singleton l m ih =>
    rw [List.foldl_append, List.foldl_cons, List.foldl_nil]
    by_cases hm : n = m
    · rw [hm]; exact getF_setF_same ..
    · rw [getF_setF_other _ _ (by simp [CH_STAT_DRV, hm])]
      exact ih (by simpa [hm] using h)

/-- The channels idle, threads held, drivers off: the state in which the quadrants go down (R73). -/
def bankedReady (s : State) : State := (List.range 32).foldl (fun s n => setF s (CH_STAT_DRV n) 0) (holdThreads (endChange s) 2)

theorem bankedReady_change : (bankedReady s).x.change = none := by
  have h : (bankedReady s).x = (holdThreads (endChange s) 2).x := foldl_field State.x _ (fun s n => setF_x ..) _ _
  rw [h]
  refine (change_of_spared (spared_holdThreads (endChange s) 2)).trans ?_
  show (endChange s).x.change = none
  rw [endChange, setF_x]
  rfl

theorem exec_bankedEntryDone {k : Change} (h : s.x.change = some k) (hk : k.kind = 2) (hm : mode s = mRun) :
    exec .bankedEntryDone s = act (drained s k.src && (strikesWhere s fun _ => true).isEmpty) s
      (finishReq (toMode (powerDown (bankedReady s)) mBanked) k.src okEnd) := by
  show execBankedEntryDone s = _
  unfold execBankedEntryDone
  rw [h]
  simp only [hk, hm, decide_true, Bool.true_and, beq_self_eq_true, Bool.and_true]
  rfl

/-- With no change under way and every driver off the quadrants go down: BANKED (R73, R74). -/
theorem banked_effect {s : State} (hc : s.x.change = none) (hd : ∀ n, n < 32 → getF s (CH_STAT_DRV n) = 0) (src : Nat) :
    let u := finishReq (toMode (powerDown s) mBanked) src okEnd
    mode u = mBanked ∧ u.x.change = none ∧ ∀ n, n < 32 → getF u (CH_STAT_DRV n) = 0 := by
  intro u
  refine ⟨(mode_of_spared (spared_finishReq ..)).trans (mode_toMode _ (by decide)), ?_, fun n hn => ?_⟩
  · calc u.x.change = (toMode (powerDown s) mBanked).x.change := change_of_spared (spared_finishReq ..)
      _ = (powerDown s).x.change := change_of_testless (toMode_x (powerDown s) mBanked)
      _ = s.x.change := change_of_spared (spared_powerDown s)
      _ = none := hc
  · have ha : aside (CH_STAT_DRV n).ret (CH_STAT_DRV n).key = true := by
      unfold aside CH_STAT_DRV
      simp
      omega
    have hmode : ∀ g ∈ modeFields, ((CH_STAT_DRV n).key == g.key && (CH_STAT_DRV n).ret == g.ret) = false := by
      simp only [modeFields, List.forall_mem_cons, CH_STAT_DRV, HELM_MODE_PREV, HELM_MODE_CUR, HELM_MODE_SINCE, TST_STAT_RUN, TST_STAT_ABORT,
        List.not_mem_nil, false_imp_iff, implies_true, and_true, Bool.and_true, beq_eq_false_iff_ne, beq_self_eq_true]
      omega
    calc getF u (CH_STAT_DRV n) = getF (toMode (powerDown s) mBanked) (CH_STAT_DRV n) := getF_of_spared (spared_finishReq ..) ha
      _ = getF (powerDown s) (CH_STAT_DRV n) := regsKept_toMode _ _ _ hmode
      _ = getF s (CH_STAT_DRV n) := getF_of_spared (spared_powerDown s) ha
      _ = 0 := hd n hn

theorem bankedReady_drivers {n : Nat} (h : n < 32) : getF (bankedReady s) (CH_STAT_DRV n) = 0 := getF_driversZero _ (List.mem_range.2 h)

end
end Sys2Proof.Machine
end
section
/-! PROOFS. Requested changes of mode: the restart, and what a drained change does. -/
namespace Sys2Proof.Machine
open Sys2Proof Sys2Proof.Safety

/-! ### A restart (R12, R64, R83) -/

/-- The checkpoint root and flash, which a restart keeps, and the threads and contexts, which it ends. -/
def worked (s : State) : CkRoot × NMap (List Byte) × NMap Thread × NMap Ctx := (s.ck, s.md.flash, s.thr, s.ctx)

section
variable (s : State)

theorem thr_of_worked {s u : State} (h : worked u = worked s) : u.thr = s.thr := (congrArg (fun p => p.2.2.1) h :)

theorem worked_answerHelm (c : Nat) (e : Ending) (o : List Byte) : worked (answerHelm s c e o) = worked s := rfl
@[simp] theorem worked_setF (f : Fld) (v : Nat) : worked (setF s f v) = worked s := by simp [worked]
@[simp] theorem worked_event (v : Nat) : worked (event s v) = worked s := by simp [worked]
@[simp] theorem worked_logEv (f e : Nat) (d : List Nat) : worked (logEv s f e d) = worked s := rfl
@[simp] theorem worked_saveNow : worked (saveNow s) = worked s := by simp [worked, saveNow]
@[simp] theorem worked_recordCause (c : Nat) : worked (recordCause s c) = worked s := by
  unfold recordCause; split <;> exact worked_setF ..

theorem worked_intakeAbandon : worked (intakeAbandon s) = worked s := by
  unfold intakeAbandon
  split
  · rfl
  · rw [worked_logEv, worked_setF, setIntake, worked_setF, worked_setF]; rfl

@[simp] theorem worked_testAbort : worked (testAbort s) = worked s := by
  unfold testAbort
  split
  · dsimp only
    rw [worked_logEv, worked_setF, worked_setF]; rfl
  · rfl

@[simp] theorem worked_driversOff : worked (driversOff s) = worked s := by
  have h := foldl_field worked _ (fun s n => worked_setF s (CH_STAT_DRV n) 0) (List.range 32) s
  simpa only [worked, driversOff] using h

@[simp] theorem worked_releaseOwn : worked (releaseOwn s) = worked s := by
  have h : worked (setF (driversOff (testAbort s)) PAIR_STAT_OWN 0) = worked s := by simp
  simpa only [worked, releaseOwn, setAux] using h

@[simp] theorem worked_powerUp : worked (powerUp s) = worked s := by
  unfold powerUp showWidths
  split
  · rw [foldl_field worked _ fun s p => by split <;> simp, worked_setF]
  · rfl

@[simp] theorem worked_releaseTrigs : worked (releaseTrigs s) = worked s := by
  unfold releaseTrigs
  split
  · dsimp only
    split
    · rfl
    · exact worked_setF ..
  · rfl

@[simp] theorem worked_toMode (m : Nat) : worked (toMode s m) = worked s := by
  unfold toMode
  extract_lets v w
  have hw : worked w = worked s := by simp [w, v]
  rw [worked_event, worked_logEv, worked_testAbort]
  exact hw

theorem stopInternals_none (h : s.thr = []) : stopInternals s = s := by simp [stopInternals, threadsWhere, h]

theorem worked_safeDiscarded {s : State} (hm : inMode s [mRun, mService] = false) (src : Nat) : worked (safeDiscarded s src) = worked s := by
  unfold safeDiscarded
  extract_lets _ v
  have hv : v = s := if_neg (by simp [hm])
  rw [hv]
  split
  · exact worked_setF ..
  · rfl

theorem worked_safeCleared : worked (safeCleared s) = worked s := rfl

theorem worked_safeShown : worked (safeShown s) = worked s := by simp [safeShown]

/-- With no thread and no data in flight the entry to SAFE frees nothing. -/
theorem worked_enterSafe {s : State} (hm : inMode s [mRun, mService] = false) (ht : s.thr = []) (src : Nat) :
    worked (enterSafe s src) = worked s := by
  have hd := worked_safeDiscarded hm src
  have ht' : (releaseTrigs (safeDiscarded s src)).thr = [] := (thr_of_worked ((worked_releaseTrigs _).trans hd)).trans ht
  have hr : worked (safeReleased (safeDiscarded s src)) = worked s := by
    rw [safeReleased, worked_powerUp, worked_releaseOwn, stopInternals_none _ ht', worked_releaseTrigs, hd]
  rw [enterSafe_eq, worked_answerHelm, worked_logEv, worked_toMode, worked_saveNow, worked_safeShown, worked_safeCleared, hr]

@[simp] theorem worked_romProtect : worked (romProtect s) = worked s := by
  have hp : ∀ (s : State) k n, worked (protectRange s k n) = worked s := fun s k n =>
    foldl_field worked _ (fun s _ => worked_setF ..) _ s
  unfold romProtect
  dsimp only
  split <;> simp [hp]

theorem worked_loadSlot (a n : Nat) : worked (loadSlot s a n) = worked s := by
  unfold loadSlot
  extract_lets _ _ _ _ _ s1 s2 s3 s4
  have h : worked s4 = worked s := by
    simp only [s4, s3, s2, worked_setF]
    rfl
  split
  · exact (worked_logEv ..).trans h
  · exact h

theorem worked_romLooking : worked (romLooking s) = worked s := by
  show worked (romRunning (setF (setF s HELM_MODE_CUR mKindle) HELM_KINDLE_STEP 2)) = worked s
  exact (worked_setF ..).trans (worked_setF ..)

theorem worked_noImage {s : State} (hm : mode s = mKindle) (ht : s.thr = []) : worked (noImage s) = worked s := by
  have hw : worked (recordCause (romProtect s) 2) = worked s := by rw [worked_recordCause, worked_romProtect]
  have hm' : mode (recordCause (romProtect s) 2) = mKindle := by rw [mode_recordCause, mode_romProtect, hm]
  rw [noImage, worked_enterSafe (by simp [inMode, hm', mKindle, mRun, mService]) ((thr_of_worked hw).trans ht), hw]

theorem worked_romLoaded (a n : Nat) : worked (romLoaded s a n) = worked s := by
  rw [← worked_loadSlot s a n]
  unfold romLoaded
  split
  · exact worked_setF ..
  · exact (worked_setF ..).trans (worked_romProtect _)

/-- KINDLE begins with no thread: nothing of it is freed, and nothing of flash is touched. -/
theorem worked_romStart (ht : s.thr = []) : worked (romStart s) = worked s := by
  have hl := worked_romLooking s
  cases h : bootSlot (romLooking s) with
  | none => rw [romStart_none h, worked_noImage (mode_romLooking s) ((thr_of_worked hl).trans ht), hl]
  | some e => rw [romStart_some (a := e.1) (n := e.2) h, worked_romLoaded, hl]

theorem mode_romStart : mode (romStart s) = mKindle ∨ mode (romStart s) = mSafe := by
  cases h : bootSlot (romLooking s) with
  | none => exact .inr (romStart_noImage h).1
  | some e => exact .inl (romStart_image (a := e.1) (n := e.2) h).1

/-- The start keeps the cause of the reset. -/
theorem getF_romStart_restart : getF (romStart s) HELM_RESET_CAUSE_RESTART = getF s HELM_RESET_CAUSE_RESTART := by
  rw [← getF_romLooking s (f := HELM_RESET_CAUSE_RESTART) rfl (by decide) (by decide)]
  cases h : bootSlot (romLooking s) with
  | none =>
    rw [romStart_none h, noImage, getF_enterSafe _ _ (by decide) (by decide), getF_recordCause_other _ _ (by decide),
      getF_romProtect _ (by decide)]
  | some e => rw [romStart_some (a := e.1) (n := e.2) h, getF_romLoaded _ _ _ (by decide) (by decide) (by decide)]

/-- The core die as a restart resets it: RSM saved, ownership released (R83). -/
def restartReady (s : State) : State := event (let v := releaseOwn (saveNow (intakeAbandon s))
  { v with rsm := { v.rsm with saved := if mode v == mSafe && [mKindle, mStandby].contains (getF v HELM_MODE_PREV) then v.rsm.saved
                                        else some v.d.ten.live } }) 0

theorem restart_eq (cause : Fld) : restart s cause false =
    romStart (setF (setF (resetCore (restartReady s)) cause 1) HELM_MODE_PREV (mode (restartReady s))) := by
  simp only [restart, restartReady, Bool.false_eq_true, if_false]

theorem worked_restartReady : worked (restartReady s) = worked s := by
  unfold restartReady
  extract_lets v
  have hv : worked v = worked s := by rw [worked_releaseOwn, worked_saveNow, worked_intakeAbandon]
  clear_value v
  rw [worked_event]
  exact hv

theorem resetCore_thr : (resetCore s).thr = [] := by simp [resetCore, State.reset]
theorem resetCore_ctx : (resetCore s).ctx = [] := by simp [resetCore, State.reset]

theorem worked_resetCore : worked (resetCore s) = (s.ck, s.md.flash, [], []) := by
  obtain ⟨-, hck, -, -, hfl, -⟩ := lasting_eq (lasting_resetCore s)
  simp only [worked, hck, hfl, resetCore_thr, resetCore_ctx]

/-- A restart keeps the checkpoint root and flash, ends every thread and context, and shows its cause (R12, R83, R85). -/
theorem restart_effect {s u : State} (hu : u = restart s HELM_RESET_CAUSE_RESTART false) :
    (mode u = mKindle ∨ mode u = mSafe) ∧ getF u HELM_RESET_CAUSE_RESTART = 1 ∧ u.ck = s.ck ∧ u.md.flash = s.md.flash ∧
      u.thr = [] ∧ u.ctx = [] := by
  rw [restart_eq] at hu
  have hready := worked_restartReady s
  generalize restartReady s = v at hready hu
  have hcore := worked_resetCore v
  generalize resetCore v = w at hcore hu
  have hstart : worked (setF (setF w HELM_RESET_CAUSE_RESTART 1) HELM_MODE_PREV (mode v)) = worked w := by rw [worked_setF, worked_setF]
  have ht : w.thr = [] := (congrArg (fun p => p.2.2.1) hcore :)
  have hw : worked u = (v.ck, v.md.flash, [], []) := by
    rw [hu, worked_romStart _ ((thr_of_worked hstart).trans ht), hstart, hcore]
  simp only [worked, Prod.mk.injEq] at hready hw
  obtain ⟨hck, hfl, -, -⟩ := hready
  obtain ⟨hck', hfl', hthr, hctx⟩ := hw
  refine ⟨by rw [hu]; exact mode_romStart _, ?_, hck'.trans hck, hfl'.trans hfl, hthr, hctx⟩
  rw [hu, getF_romStart_restart, getF_setF_other _ _ (by decide), getF_setF_same]
  rfl

/-! ### REQUESTED_CHANGE_DRAINED (R62, R82, R83) -/

section
variable {s : State} {k : Change} (h : s.x.change = some k)
include h

theorem exec_drained_first (hk : k.kind ≠ 2 ∧ k.kind ≠ 6) (hs : k.step ≠ 2) :
    exec .requestedChangeDrained s = act (inMode s [mRun, mService, mSafe] && drained s k.src) s (
      if k.kind = 1 then answerHelm (endChange (toMode s mService)) k.src okEnd []
      else answerHelm { s with x := { s.x with change := some { k with step := 2 } } } k.src okEnd []) := by
  obtain ⟨h2, h6⟩ := hk
  show execRequestedChangeDrained s = _
  unfold execRequestedChangeDrained
  rw [h]
  simp only [h2, h6, hs, if_false]
  rfl

/-- Its answer delivered, a restart takes effect (R83). -/
theorem exec_drained_restart (hk : k.kind = 3) (hs : k.step = 2) (hm : inMode s [mRun, mService, mSafe] = true)
    (hd : delivered s k.src = true) (hc : commandsDone s 9998 = true) (hf : flushOver s = true) :
    exec .requestedChangeDrained s = .next (restart s HELM_RESET_CAUSE_RESTART false) := by
  show execRequestedChangeDrained s = _
  unfold execRequestedChangeDrained
  rw [h]
  simp only [hk, hs, Nat.reduceEqDiff, if_false, if_true]
  exact next_act (by simp [hm, hd, hc, hf])

end

theorem service_effect (src : Nat) :
    let u := answerHelm (endChange (toMode s mService)) src okEnd []
    mode u = mService ∧ u.x.change = none ∧ getF u HELM_MODE_CHANGING = 0 := by
  refine ⟨?_, ?_, ?_⟩
  · rw [mode_answerHelm, endChange, mode_setF _ (by decide)]
    exact mode_toMode s (by decide)
  · rw [answerHelm_x, endChange, setF_x]
    rfl
  · rw [getF_answerHelm, endChange, getF_setF_same]
    rfl

end

/-- Settles O41: each request's row, then the drained change's effect. -/
theorem modeRequests : Obligations.ModeRequests := by
  intro s r v no ok starts
  have hv : mode v = mode s := rfl
  have hstart (k : Nat) : starts k (startChange v k r.src) := startChange_effect v k r.src
  refine ⟨fun ha ht hf => ?_, fun hm => ?_, fun ha ht hf hc => ?_, fun ha ht hf hc => ?_, fun ha ht hf hc hb => ?_,
    fun ha ht hf hc hb => ?_, fun ha ht => ?_, fun ha ht hf hc => ?_, fun ha ht hf hs => ?_, fun ha ht hf hc => ?_,
    fun ha ht hf hc => ?_, fun ha hf hc => ?_, fun k h hk hm hd => ?_, fun k h hk hm hd hs => ?_, fun k h hk hs hm hd => ?_,
    fun k h hk hs hd => ?_, fun k h hk hs hm hd => ?_, fun k h hk hs hm hd hc hf => ?_⟩
  · refine ⟨_, exec_setPowerRun ha ht hf, rfl, ?_, fun hm => ?_⟩
    · exact (mode_answerHelm ..).trans <| mode_wake v (by rw [hv]; exact mode_of_asked_pair ha)
    · rw [wake_awake v (by rw [hv, hm]; decide)]
      exact ⟨rfl, rfl, rfl⟩
  · exact wake_awake v (by rw [hv, hm]; decide)
  · obtain ⟨hx, hg, hmode, hmem⟩ := hstart 2
    have hk := spared_holdThreads (startChange v 2 r.src) 1
    obtain ⟨hmem', hhold⟩ := holdThreads_effect (startChange v 2 r.src) 1
    have he : exec .setPowerBanked s = .next (holdThreads (startChange v 2 r.src) 1) := by
      rw [exec_setPowerBanked ha ht hf, if_pos hc]
    exact ⟨_, he, ⟨(change_of_spared hk).trans hx,
      (getF_helm_of_spared hk (by decide)).trans hg, (mode_of_spared hk).trans hmode, hmem'.trans hmem⟩, hhold⟩
  · exact (exec_setPowerBanked ha ht hf).trans (congrArg _ (if_neg (by simp [hc])))
  · refine ⟨_, (exec_setModeRun_service ha ht hf hc).trans (congrArg _ (if_neg (by simp [hb]))), rfl,
      (mode_answerHelm ..).trans (mode_enterRun v), ?_⟩
    exact (getF_answerHelm ..).trans <| (getF_enterRun_prev v).trans (by rw [hv, mode_of_asked ha]; decide)
  · exact (exec_setModeRun_service ha ht hf hc).trans (congrArg _ (if_pos hb))
  · exact exec_setModeRun_safe ha ht
  · exact ⟨_, exec_setModeService ha ht hf hc, hstart 1⟩
  · obtain ⟨hsf, hch, hcl, hcg⟩ := beginSafe_effect (recordCause v 9) 9 r.src
    have hu : safeArise v 9 r.src = beginSafe (recordCause v 9) 9 r.src := safeArise_flush 9 r.src (by rw [hv]; exact mode_of_asked_pair ha) rfl hs
    refine ⟨_, exec_setModeSafe ha ht hf hs, rfl, ?_⟩
    rw [hu]
    refine ⟨hsf, hch, ?_, hcg, hcl, fun h0 => ?_⟩
    · exact (getF_beginSafe _ _ _ (by decide) (by decide)).trans (mode_recordCause v 9)
    · exact (getF_beginSafe _ _ _ (by decide) (by decide)).trans (getF_recordCause (s := v) h0 9)
  · have hm : mode s ≠ mSafe := by
      obtain hm | hm := mode_of_asked_pair ha <;> rw [hm] <;> decide
    exact ⟨_, (exec_setModeRestart ha (by simp) ht hf hc).trans (congrArg _ (if_neg hm)), hstart 3⟩
  · exact ⟨_, (exec_setModeRestart ha (by simp) ht hf hc).trans (congrArg _ (if_pos (mode_of_asked ha))), rfl, rfl⟩
  · exact ⟨_, exec_settingsWipe ha hf hc, hstart 5⟩
  · exact (exec_bankedEntryDone s h hk hm).trans (next_idle (by simp [hd]))
  · exact ⟨_, (exec_bankedEntryDone s h hk hm).trans (next_act (by simp [hd, hs])),
      banked_effect (bankedReady_change s) (fun n hn => bankedReady_drivers s hn) k.src⟩
  · refine ⟨_, (exec_drained_first h (by simp [hk]) hs).trans ((next_act ?_).trans (congrArg _ (if_pos hk))), service_effect s k.src⟩
    simp [hd, inMode, hm]
  · exact (exec_drained_first h (by simp [hk]) hs).trans (next_idle (by simp [hd]))
  · refine ⟨_, (exec_drained_first h (by simp [hk]) hs).trans ((next_act ?_).trans (congrArg _ (if_neg (by simp [hk])))), rfl⟩
    obtain hm | hm := hm <;> simp [hd, inMode, hm]
  · refine ⟨_, exec_drained_restart h hk hs ?_ hd hc hf, restart_effect rfl⟩
    obtain hm | hm := hm <;> simp [inMode, hm]

end Sys2Proof.Machine
end
section
/-! PROOFS. QUENCH: its entry, its steps, its end. -/
namespace Sys2Proof.Machine
open Sys2Proof Sys2Proof.Safety

/-! ### QUENCH is entered (R60, R104, R411, R414) -/

/-- What the entry to QUENCH shows and the discards that follow it keep: the mode, the step, the record of R419, what is under way. -/
def quenchFace (s : State) : (Nat × Nat × Nat × Nat × Nat) × Option Quench × Nat × Option Change :=
  ((mode s, getF s PWR_STAT_QACTIVE, getF s PWR_STAT_QSTEP, getF s PWR_LASTQ_DONE, getF s PWR_LASTQ_CAUSE), s.x.quench, s.x.warn, s.x.change)

theorem quenchFace_of_spared {s u : State} (h : spared u = spared s) : quenchFace u = quenchFace s := by
  simp only [quenchFace, mode_of_spared h, getF_of_spared h (f := PWR_STAT_QACTIVE) (by decide), getF_of_spared h (f := PWR_STAT_QSTEP) (by decide),
    getF_of_spared h (f := PWR_LASTQ_DONE) (by decide), getF_of_spared h (f := PWR_LASTQ_CAUSE) (by decide), quench_of_spared h, warn_of_spared h,
    change_of_spared h]

section
variable (s : State)

/-- The registers of `quenchFace` lie below those of the image store. -/
theorem quenchFace_setF {f : Fld} (h : 0x010F0000 * 64 ≤ f.key) (v : Nat) : quenchFace (setF s f v) = quenchFace s := by
  have hk : ∀ g : Fld, g.key < 0x010F0000 * 64 → getF (setF s f v) g = getF s g := fun g hg =>
    getF_setF_other s v (by simp [Nat.ne_of_lt (Nat.lt_of_lt_of_le hg h)])
  simp only [quenchFace, mode, hk _ (show HELM_MODE_CUR.key < _ by decide), hk _ (show PWR_STAT_QACTIVE.key < _ by decide),
    hk _ (show PWR_STAT_QSTEP.key < _ by decide), hk _ (show PWR_LASTQ_DONE.key < _ by decide), hk _ (show PWR_LASTQ_CAUSE.key < _ by decide), setF_x]

theorem quenchFace_logEv (f e : Nat) (d : List Nat) : quenchFace (logEv s f e d) = quenchFace s := rfl
theorem quenchFace_setImg (i : Img) : quenchFace (setImg s i) = quenchFace s := rfl
theorem quenchFace_with_keep (k : Keep) : quenchFace { s with keep := k } = quenchFace s := rfl

theorem quenchFace_intakeAbandon : quenchFace (intakeAbandon s) = quenchFace s := by
  unfold intakeAbandon
  split
  · rfl
  · rw [quenchFace_logEv, quenchFace_setF _ (by decide), setIntake, quenchFace_setF _ (by decide), quenchFace_setF _ (by decide),
      quenchFace_setImg]

theorem quenchFace_addSat {f : Fld} (h : 0x010F0000 * 64 ≤ f.key) (n : Nat) : quenchFace (addSat s f n) = quenchFace s := quenchFace_setF s h _

theorem quenchFace_setDesc (n st : Nat) : quenchFace (setDesc s n st) = quenchFace s := quenchFace_setImg ..

theorem quenchFace_descEnd (n st : Nat) : quenchFace (descEnd s n st) = quenchFace s := by
  unfold descEnd
  extract_lets v w x y
  have hy : quenchFace y = quenchFace s := (quenchFace_setF _ (by decide) _).trans ((quenchFace_setImg ..).trans (quenchFace_setDesc s n st))
  clear_value y
  split
  · exact (quenchFace_addSat y (by decide) 1).trans hy
  · split
    · exact (quenchFace_addSat y (by decide) 1).trans hy
    · split
      · exact (quenchFace_addSat y (by decide) 1).trans hy
      · exact hy

theorem quenchFace_descAbandon : quenchFace (descAbandon s) = quenchFace s := by
  unfold descAbandon
  exact foldl_field quenchFace (fun s (q : QDesc) => descEnd s q.n 0x16) (fun s q => quenchFace_descEnd s q.n 0x16) _ s

/-- The record of the last QUENCH begins anew (R419). -/
def quenchNoted (s : State) : State :=
  let s := setC (setC (setC s PWR_LASTQ_DONE 0) PWR_LASTQ_STEP 0) PWR_LASTQ_CAUSE s.x.warn
  let s := setC (setC (setC s PWR_LASTQ_RETURNED 0) PWR_LASTQ_PEERLOST 0) PWR_LASTQ_DUR_US 0
  addSat (setC s PWR_LASTQ_STAMP_NOW s.clk.now) PWR_CNT_QUENCHES 1

/-- QUENCH is the mode, its first step in progress, from the mode `frm` (R411). -/
def quenchBegun (s : State) (frm : Nat) : State :=
  let s := setAux { s with clk := { s.clk with due := [] } }
    { s.x with quench := some ⟨frm, 1, s.clk.refNs⟩, warn := 0, change := none, safing := none }
  let s := setF (setF (setF (setF s HELM_MODE_CHANGING 0) PAIR_STAT_SWAPPING 0) PWR_STAT_QACTIVE 1) PWR_STAT_QSTEP 1
  event (logEv (toMode s mQuench) 12 0 []) 3

/-- The request of a BANKED entry that QUENCH abandons (R414). -/
def bankedAsker (s : State) : Option Nat := match s.x.change with | some k => if k.kind = 2 then some k.src else none | none => none

/-- Work is discarded (step 1 of R411): the abandoned request, commands, submitted descriptors, the intake. -/
def quenchDropped (s : State) (banked : Option Nat) : State :=
  let s := match banked with | some c => discard s c 0x42 2 none | none => s
  let s := match s.x.svc.cmd, banked with
    | some _, some 9999 => answerHelm s 9999 ⟨0x42, 2, none, 0⟩ []
    | _, _ => s
  intakeAbandon (descAbandon (discardAll s 9998 0x42 1))

theorem quenchEntry_eq : quenchEntry s =
    let v := holdSafing s
    let u := quenchDropped (quenchBegun (quenchNoted v) (mode v)) (bankedAsker v)
    holdThreads { u with keep := { u.keep with qOpen := true } } (if mode v = mBanked then 2 else 1) := by
  unfold quenchEntry
  extract_lets a b c d e f _ _ _ _ k _ _ n _ _ q
  have hn : n = quenchDropped k c := rfl
  have hk : k = quenchBegun f b := rfl
  have hf : f = quenchNoted a := by simp only [f, e, d, quenchNoted]
  have hq : q = n := by rw [hn, hk, hf]; rfl
  clear_value q n
  subst hq
  rfl

theorem holdSafing_kept : mode (holdSafing s) = mode s ∧ (holdSafing s).x.warn = s.x.warn ∧ (holdSafing s).clk = s.clk := by
  unfold holdSafing
  split
  · exact ⟨mode_setF _ (by decide) _, by rw [setF_x], setF_clk ..⟩
  · exact ⟨mode_setF _ (by decide) _, rfl, (setF_clk ..)⟩
  · exact ⟨rfl, rfl, rfl⟩

theorem quenchNoted_effect : getF (quenchNoted s) PWR_LASTQ_DONE = 0 ∧ getF (quenchNoted s) PWR_LASTQ_CAUSE = s.x.warn % 2 ^ PWR_LASTQ_CAUSE.w ∧
    (quenchNoted s).clk = s.clk := by
  unfold quenchNoted
  extract_lets v w
  have hw : getF w PWR_LASTQ_DONE = 0 ∧ getF w PWR_LASTQ_CAUSE = s.x.warn % 2 ^ PWR_LASTQ_CAUSE.w := by
    simp only [w, v]
    refine ⟨?_, ?_⟩
    · iterate 5 rw [getF_setC_other _ _ (by decide)]
      exact getF_setC_same ..
    · iterate 3 rw [getF_setC_other _ _ (by decide)]
      exact getF_setC_same ..
  refine ⟨?_, ?_, by simp [w, v]⟩
  · rw [getF_addSat_other _ _ (by decide), getF_setC_other _ _ (by decide), hw.1]
  · rw [getF_addSat_other _ _ (by decide), getF_setC_other _ _ (by decide), hw.2]

theorem quenchFace_quenchBegun (frm : Nat) : quenchFace (quenchBegun s frm) =
    ((mQuench, 1, 1, getF s PWR_LASTQ_DONE, getF s PWR_LASTQ_CAUSE), some ⟨frm, 1, s.clk.refNs⟩, 0, none) := by
  unfold quenchBegun
  extract_lets _ _ v w
  have hx : w.x = v.x := by simp only [w, setF_x]
  have hq : getF w PWR_STAT_QACTIVE = 1 ∧ getF w PWR_STAT_QSTEP = 1 :=
    ⟨(getF_setF_other _ _ (by decide)).trans (getF_setF_same ..), getF_setF_same ..⟩
  have hr : RegsKept [HELM_MODE_CHANGING, PAIR_STAT_SWAPPING, PWR_STAT_QACTIVE, PWR_STAT_QSTEP] v w :=
    regsKept_setF_trans (regsKept_setF_trans (regsKept_setF_trans (regsKept_setF_trans (regsKept_refl _ v) (by simp) _)
      (by simp) _) (by simp) _) (by simp) _
  have hm (f : Fld) (h : ∀ g ∈ modeFields, (f.key == g.key && f.ret == g.ret) = false) :
      getF (event (logEv (toMode w mQuench) 12 0 []) 3) f = getF w f :=
    (getF_event ..).trans (regsKept_toMode w mQuench f h)
  have ht : (event (logEv (toMode w mQuench) 12 0 []) 3).x.testless = v.x.testless := by
    rw [event_x, logEv_x, toMode_x, hx]
  simp only [quenchFace, Prod.mk.injEq]
  refine ⟨⟨?_, ?_, ?_, ?_, ?_⟩, quench_of_testless ht, warn_of_testless ht, change_of_testless ht⟩
  · rw [mode_event, mode_logEv, mode_toMode _ (by decide)]
  · rw [hm _ (by decide), hq.1]
  · rw [hm _ (by decide), hq.2]
  · rw [hm _ (by decide), hr _ (by decide)]; rfl
  · rw [hm _ (by decide), hr _ (by decide)]; rfl

theorem quenchFace_quenchDropped (banked : Option Nat) : quenchFace (quenchDropped s banked) = quenchFace s := by
  unfold quenchDropped
  extract_lets v w
  have hv : spared v = spared s := by
    simp only [v]
    split
    · exact spared_discard ..
    · rfl
  have hw : spared w = spared s := by
    rw [← hv]
    simp only [w]
    split <;> rfl
  rw [quenchFace_intakeAbandon, quenchFace_descAbandon, quenchFace_of_spared (spared_discardAll ..), quenchFace_of_spared hw]

/-- QUENCH is entered, its record begun, nothing else under way (R60, R411, R419). -/
theorem quenchEntry_effect : quenchFace (quenchEntry s) =
    ((mQuench, 1, 1, 0, s.x.warn % 2 ^ PWR_LASTQ_CAUSE.w), some ⟨mode s, 1, s.clk.refNs⟩, 0, none) ∧ (quenchEntry s).keep.qOpen = true := by
  obtain ⟨hm, hw, hc⟩ := holdSafing_kept s
  obtain ⟨hd, hca, hclk⟩ := quenchNoted_effect (holdSafing s)
  rw [quenchEntry_eq]
  extract_lets v u _
  have hu : quenchFace u = ((mQuench, 1, 1, 0, s.x.warn % 2 ^ PWR_LASTQ_CAUSE.w), some ⟨mode s, 1, s.clk.refNs⟩, 0, none) := by
    simp only [u, v]
    rw [quenchFace_quenchDropped, quenchFace_quenchBegun, hd, hca, hclk, hw, hm, hc]
  clear_value u
  refine ⟨?_, ?_⟩
  · rw [quenchFace_of_spared (spared_holdThreads ..), quenchFace_with_keep, hu]
  · rw [keep_of_spared (spared_holdThreads ..)]

/-! ### The steps of QUENCH and its end (R60, R411, R418, R419) -/

section
variable {q : Quench}

/-- The step that ends and the live counters are in RSM (R400, R419). -/
def quenchStepSaved (s : State) (q : Quench) : State := setC { s with rsm := { s.rsm with saved := some s.d.ten.live } } PWR_LASTQ_STEP q.step

theorem quenchAdvance_early (h : q.step < 4) : quenchAdvance s q =
    setF (setAux (quenchStepSaved s q) { (quenchStepSaved s q).x with quench := some { q with step := q.step + 1 } }) PWR_STAT_QSTEP (q.step + 1) :=
  if_pos h

/-- QUENCH is closed: CHR_NOW saved and its duration noted (R419). -/
def quenchTimed (s : State) (q : Quench) : State :=
  let w := { s with keep := { s.keep with qOpen := false } }
  setC (saveNow w) PWR_LASTQ_DUR_US (min ((w.clk.refNs - q.at_) / 1000) (2 ^ 32 - 1))

theorem quenchAdvance_last (h : ¬ q.step < 4) : quenchAdvance s q =
    setF (setC (setAux (quenchTimed (quenchStepSaved s q) q) { (quenchTimed (quenchStepSaved s q) q).x with quench := some { q with step := 5 } })
      PWR_LASTQ_DONE 1) PWR_STAT_QDONE 1 :=
  if_neg h

theorem quenchTimed_kept : (quenchTimed s q).keep = { s.keep with qOpen := false } ∧ (quenchTimed s q).ret.now = s.clk.now ∧
    RegsKept [PWR_LASTQ_DUR_US] s (quenchTimed s q) := by
  unfold quenchTimed
  extract_lets _ w
  refine ⟨?_, ?_, fun f hf => ?_⟩
  · simp only [w, setC_keep, saveNow, commit_keep]
  · exact (ret_now_setF (saveNow w) _ _).trans (by simp only [w, saveNow, commit_ret])
  · exact (getF_setC_other _ _ (hf _ (by simp))).trans (getF_saveNow ..)

theorem regsKept_quenchStepSaved : RegsKept [PWR_LASTQ_STEP] s (quenchStepSaved s q) := fun f hf => getF_setC_other _ _ (hf _ (by simp))

/-- A step gives way to the next. -/
theorem quenchAdvance_effect_early (h : q.step < 4) {u : State} (hu : u = quenchAdvance s q) :
    u.x.quench = some { q with step := q.step + 1 } ∧ getF u PWR_STAT_QSTEP = (q.step + 1) % 2 ^ PWR_STAT_QSTEP.w ∧
      getF u PWR_LASTQ_STEP = q.step % 2 ^ PWR_LASTQ_STEP.w ∧ RegsKept [PWR_STAT_QSTEP, PWR_LASTQ_STEP] s u := by
  rw [quenchAdvance_early s h] at hu
  have hs : getF (quenchStepSaved s q) PWR_LASTQ_STEP = q.step % 2 ^ PWR_LASTQ_STEP.w := getF_setC_same ..
  have hk : RegsKept [PWR_LASTQ_STEP] s (quenchStepSaved s q) := regsKept_quenchStepSaved s
  subst hu
  generalize quenchStepSaved s q = v at hs hk ⊢
  refine ⟨?_, getF_setF_same .., ?_, fun f hf => ?_⟩
  · rw [setF_x]; rfl
  · rw [getF_setF_other _ _ (by decide), getF_setAux, hs]
  · rw [getF_setF_other _ _ (hf _ (by simp)), getF_setAux, hk f (by simpa using hf _ (by simp))]

/-- With step 4 QUENCH is done: CHR_NOW saved, DONE and STEP in the record (R411, R419). -/
theorem quenchAdvance_effect_last (h : q.step = 4) {u : State} (hu : u = quenchAdvance s q) :
    u.x.quench = some { q with step := 5 } ∧ getF u PWR_STAT_QDONE = 1 ∧ getF u PWR_LASTQ_DONE = 1 ∧
      getF u PWR_LASTQ_STEP = 4 ∧ u.keep = { s.keep with qOpen := false } ∧ u.ret.now = s.clk.now := by
  rw [quenchAdvance_last s (by omega)] at hu
  have hs : getF (quenchStepSaved s q) PWR_LASTQ_STEP = 4 := (getF_setC_same ..).trans (by rw [h]; rfl)
  have hkeep : (quenchStepSaved s q).keep = s.keep := setC_keep ..
  have hclk : (quenchStepSaved s q).clk = s.clk := setC_clk ..
  obtain ⟨hk, hn, hr⟩ := quenchTimed_kept (quenchStepSaved s q) (q := q)
  have hstep : getF (quenchTimed (quenchStepSaved s q) q) PWR_LASTQ_STEP = 4 := (hr _ (by decide)).trans hs
  rw [hkeep] at hk
  rw [hclk] at hn
  generalize quenchTimed (quenchStepSaved s q) q = y at hstep hk hn hu
  subst hu
  refine ⟨?_, getF_setF_same .., ?_, ?_, ?_, ?_⟩
  · rw [setF_x, setC_x]; rfl
  · exact (getF_setF_other _ _ (by decide)).trans (getF_setC_same ..)
  · rw [getF_setF_other _ _ (by decide), getF_setC_other _ _ (by decide), getF_setAux, hstep]
  · rw [setF_keep, setC_keep]; exact hk
  · rw [ret_now_setF, setC, ret_now_setF]; exact hn

end

/-- All that a change of mode writes is its own registers: what is under way but for a test run stays, and RSM (R59, R104). -/
structure ModeOnly (s u : State) : Prop where
  regs : RegsKept modeFields s u
  x : u.x.testless = s.x.testless
  rsm : u.rsm = s.rsm

theorem toMode_rsm (m : Nat) : (toMode s m).rsm = s.rsm := by
  have ht : ∀ s : State, (testAbort s).rsm = s.rsm := fun s => (lasting_eq (lasting_testAbort s)).1
  unfold toMode
  extract_lets v w
  rw [event_rsm, logEv_rsm, ht]
  simp [w, v]

theorem modeOnly_toMode (m : Nat) : ModeOnly s (toMode s m) := ⟨regsKept_toMode s m, toMode_x s m, toMode_rsm s m⟩

theorem warned_congr {s u : State} (h : ∀ f ∈ [PWR_WARN_VEN, PWR_STAT_VWARN, PWR_STAT_PFAIL], getF u f = getF s f) : warned u = warned s := by
  simp only [List.forall_mem_cons] at h
  obtain ⟨h1, h2, h3, -⟩ := h
  simp only [warned, flag, h1, h2, h3]

/-- With no warning and no held THERMAL cause, entering RUN is the change of mode and, for the power-up, an announcement (R419). -/
theorem modeOnly_enterRun {s : State} (hw : warned s = false) (ht : getF s HELM_THERM_HELD = 0) :
    ModeOnly s (enterRun s) ∧ mode (enterRun s) = mRun := by
  refine ⟨?_, mode_enterRun s⟩
  unfold enterRun
  extract_lets v _ w _ y
  have hmv : ModeOnly s v := modeOnly_toMode s mRun
  clear_value v
  obtain ⟨hr, hx, hs⟩ := hmv
  have hv : w = v := if_neg (by
    have h : warned v = warned s := warned_congr fun f hf => hr f (by
      simp only [List.mem_cons, List.not_mem_nil, or_false] at hf
      obtain rfl | rfl | rfl := hf <;> decide)
    simp [h, hw])
  have hy : ModeOnly s y := by
    clear_value w
    subst hv
    simp only [y]
    split
    · exact ⟨fun f hf => (getF_event ..).trans (hr f hf), by rw [event_x]; exact hx, by rw [event_rsm]; exact hs⟩
    · exact ⟨hr, hx, hs⟩
  clear_value y
  rw [if_neg (by rw [flag_eq_false ((hy.regs _ (by decide)).trans ht)]; decide)]
  exact hy

theorem getF_unhold (f : Fld) : getF (unhold s) f = getF s f := by
  unfold unhold
  extract_lets l _ v
  exact foldl_field (getF · f) (fun s t => modTh (tick s) t fun x => { x with st := .ready, why := .none, readyAt := s.order })
    (fun s t => getF_modTh (tick s) t _ f) l v

/-- QUENCH is over and its return noted; with the partner lost, the pair is not in step (R415, R418, R419). -/
def quenchLeft (s : State) : State :=
  let s := quenchOver s
  let s := { s with rsm := { s.rsm with saved := none } }
  let s := setF (setC (addSat s PWR_CNT_BROWNOUTS 1) PWR_LASTQ_RETURNED 1) HELM_RESET_CAUSE_BROWNOUT 1
  if flag s PWR_LASTQ_PEERLOST && s.boot.pairEn then setF s PAIR_STAT_PSTATE 2 else s

/-- The mode that QUENCH was entered from (R418). -/
def quenchBack (s : State) (frm : Nat) : State :=
  if frm = mBanked then toMode s mBanked else applyShare (if frm = mRun then enterRun (unhold s) else toMode (unhold s) frm)

theorem exec_quenchReturn {q : Quench} (h : s.x.quench = some q) :
    exec .quenchReturn s = act (mayReturn s && s.x.heldCause.isEmpty) s (logEv (quenchBack (quenchLeft s) q.frm) 12 1 []) := by
  show execQuenchReturn s = _
  unfold execQuenchReturn
  rw [h]
  rfl

/-- What the end of QUENCH shows (R418, R419). -/
structure QuenchLeft (s : State) : Prop where
  quench : s.x.quench = none
  warn : s.x.warn = 0
  active : getF s PWR_STAT_QACTIVE = 0
  returned : getF s PWR_LASTQ_RETURNED = 1
  brownout : getF s HELM_RESET_CAUSE_BROWNOUT = 1
  saved : s.rsm.saved = none

theorem QuenchLeft.of_spared {s u : State} (h : QuenchLeft s) (hu : spared u = spared s) : QuenchLeft u where
  quench := (quench_of_spared hu).trans h.quench
  warn := (warn_of_spared hu).trans h.warn
  active := (getF_of_spared hu (by decide)).trans h.active
  returned := (getF_of_spared hu (by decide)).trans h.returned
  brownout := (getF_of_spared hu (by decide)).trans h.brownout
  saved := by rw [rsm_of_spared hu]; exact h.saved

theorem QuenchLeft.of_modeOnly {s u : State} (h : QuenchLeft s) (hu : ModeOnly s u) : QuenchLeft u where
  quench := (quench_of_testless hu.x).trans h.quench
  warn := (warn_of_testless hu.x).trans h.warn
  active := (hu.regs _ (by decide)).trans h.active
  returned := (hu.regs _ (by decide)).trans h.returned
  brownout := (hu.regs _ (by decide)).trans h.brownout
  saved := by rw [hu.rsm]; exact h.saved

theorem quenchOver_effect : (quenchOver s).x.quench = none ∧ (quenchOver s).x.warn = 0 ∧ getF (quenchOver s) PWR_STAT_QACTIVE = 0 := by
  unfold quenchOver
  refine ⟨by simp only [setF_x]; rfl, by simp only [setF_x]; rfl, ?_⟩
  rw [getF_setF_other _ _ (by decide), getF_setF_other _ _ (by decide), getF_setF_same]
  rfl

/-- The registers that the end of QUENCH writes (R418, R419). -/
def leftFields : List Fld := [PWR_STAT_QACTIVE, PWR_STAT_QSTEP, PWR_STAT_QDONE, PWR_CNT_BROWNOUTS, PWR_LASTQ_RETURNED, HELM_RESET_CAUSE_BROWNOUT,
  PAIR_STAT_PSTATE]

theorem regsKept_quenchOver : RegsKept leftFields s (quenchOver s) := fun f hf => by
  unfold quenchOver
  rw [getF_setF_other _ _ (hf _ (by simp [leftFields])), getF_setF_other _ _ (hf _ (by simp [leftFields])),
    getF_setF_other _ _ (hf _ (by simp [leftFields])), getF_setAux]

theorem quenchLeft_effect : QuenchLeft (quenchLeft s) ∧ RegsKept leftFields s (quenchLeft s) := by
  obtain ⟨hq, hw, ha⟩ := quenchOver_effect s
  have hr := regsKept_quenchOver s
  unfold quenchLeft
  extract_lets v _ w y
  have hy : QuenchLeft y := by
    refine ⟨by simp only [y, setF_x, setC_x, addSat_x]; exact hq, by simp only [y, setF_x, setC_x, addSat_x]; exact hw, ?_, ?_, getF_setF_same ..,
      by simp only [y, setF_rsm, setC_rsm, addSat_rsm, w]⟩
    · exact (getF_setF_other _ _ (by decide)).trans ((getF_setC_other _ _ (by decide)).trans ((getF_addSat_other _ _ (by decide)).trans ha))
    · exact (getF_setF_other _ _ (by decide)).trans (getF_setC_same ..)
  have hry : RegsKept leftFields s y :=
    regsKept_setF_trans (regsKept_setF_trans (regsKept_setF_trans (s := s) (u := w) hr (by simp [leftFields]) _) (by simp [leftFields]) _)
      (by simp [leftFields]) _
  clear_value y
  split
  · refine ⟨⟨by rw [setF_x]; exact hy.quench, by rw [setF_x]; exact hy.warn, ?_, ?_, ?_, by rw [setF_rsm]; exact hy.saved⟩,
      regsKept_setF_trans hry (by simp [leftFields]) _⟩
    · exact (getF_setF_other _ _ (by decide)).trans hy.active
    · exact (getF_setF_other _ _ (by decide)).trans hy.returned
    · exact (getF_setF_other _ _ (by decide)).trans hy.brownout
  · exact ⟨hy, hry⟩

theorem quenchBack_run : quenchBack s mRun = applyShare (enterRun (unhold s)) := by simp [quenchBack, mRun, mBanked]
theorem quenchBack_banked : quenchBack s mBanked = toMode s mBanked := if_pos rfl
theorem quenchBack_service : quenchBack s mService = applyShare (toMode (unhold s) mService) := by simp [quenchBack, mRun, mBanked, mService]

/-- QUENCH returns to the mode it left (R418). -/
theorem quenchBack_effect {s : State} (h : QuenchLeft s) (hw : warned s = false) (ht : getF s HELM_THERM_HELD = 0) {frm : Nat}
    (hf : frm = mRun ∨ frm = mBanked ∨ frm = mService) : QuenchLeft (quenchBack s frm) ∧ mode (quenchBack s frm) = frm := by
  have hu : QuenchLeft (unhold s) := h.of_spared (spared_unhold s)
  have hwu : warned (unhold s) = false := (warned_congr fun f _ => getF_unhold s f).trans hw
  have htu : getF (unhold s) HELM_THERM_HELD = 0 := (getF_unhold s _).trans ht
  obtain rfl | rfl | rfl := hf
  · obtain ⟨hr, hm⟩ := modeOnly_enterRun hwu htu
    rw [quenchBack_run, mode_of_spared (spared_applyShare _)]
    exact ⟨(hu.of_modeOnly hr).of_spared (spared_applyShare _), hm⟩
  · rw [quenchBack_banked]
    exact ⟨h.of_modeOnly (modeOnly_toMode s mBanked), mode_toMode s (by decide)⟩
  · rw [quenchBack_service, mode_of_spared (spared_applyShare _)]
    exact ⟨(hu.of_modeOnly (modeOnly_toMode _ mService)).of_spared (spared_applyShare _), mode_toMode _ (by decide)⟩

end
end Sys2Proof.Machine
end
section
/-! PROOFS. Records commit without the partner, and the rows of QUENCH. -/
namespace Sys2Proof.Machine
open Sys2Proof Sys2Proof.Safety

/-! ### Records commit without the partner (R349, R415, R428) -/

section
variable (s : State)

/-! Groups, accumulators and stripes in flight are none of what the work of threads leaves alone -/

theorem spared_send (m : Msg) : spared (send s m) = spared s := rfl
theorem spared_with_sif (l : NMap (Option Sif)) : spared { s with sif := l } = spared s := rfl
theorem spared_with_groups (g : NMap (Option Group)) : spared { s with ret := { s.ret with groups := g } } = spared s := rfl
theorem spared_with_redirs (l : List Redir) : spared { s with ret := { s.ret with redirs := l } } = spared s := rfl
theorem spared_with_spares (d : List Nat) (l : List Redir) :
    spared { s with ret := { s.ret with spares := d, redirs := l } } = spared s := rfl

theorem spared_qbudUpdate : spared (qbudUpdate s) = spared s := by
  unfold qbudUpdate
  split
  · rfl
  · extract_lets rf t ms short was v
    have hv : spared v = spared s := by
      simp only [v]
      rw [spared_setF _ (by decide), spared_setF _ (by decide), spared_setF _ (by decide)]
    split
    · rw [spared_event, spared_logEv, hv]
    · exact hv

theorem spared_setGroup (g : Nat) (x : Option Group) : spared (setGroup s g x) = spared s := by
  unfold setGroup ringNote ringPut
  rw [spared_dramWr, spared_ite, spared_send, ite_self]
  exact (spared_commit _).trans (spared_with_groups s _)

theorem spared_groupTo (g : Nat) (x : Group) (st : GSt) : spared (groupTo s g x st) = spared s := by
  unfold groupTo
  extract_lets v w
  have hv : spared v = spared s := spared_setGroup ..
  have hw : spared w = spared s := by
    simp only [w]
    split
    · rw [spared_setF _ (by decide), spared_setF _ (by decide), spared_setF _ (by decide), hv]
    · exact hv
  rw [spared_qbudUpdate, spared_event, spared_logEv, hw]

theorem spared_assignSpare {g : Nat} {u : State} (h : assignSpare s g = some u) : spared u = spared s := by
  unfold assignSpare at h
  split at h
  · cases h
  · extract_lets running at h
    split at h
    · cases h
    · split at h
      · cases h
      · split at h
        · cases h
        · rw [← Option.some.inj h, spared_groupTo, spared_with_spares]

theorem spared_markRebuilt (b : Nat) : spared (markRebuilt s b) = spared s := by
  unfold markRebuilt
  dsimp only
  split
  · rfl
  · split
    · rfl
    · split
      · split
        · rw [spared_groupTo, spared_with_redirs]
        · split
          · next h => exact (spared_assignSpare _ h).trans rfl
          · rw [spared_groupTo, spared_with_redirs]
      · rw [spared_commit, spared_with_groups]

theorem spared_setSif (i : Nat) (x : Option Sif) : spared (setSif s i x) = spared s := by
  unfold setSif
  split
  · rfl
  · rfl

theorem spared_sifAck (i : Nat) : spared (sifAck s i) = spared s := by
  unfold sifAck
  split
  · rfl
  · extract_lets v
    split
    · split
      · exact spared_setSif ..
      · rfl
    · rfl

theorem spared_pxOpen {t g h : Nat} {u : State} (e : pxOpen s t g = .opened h u) : spared u = spared s := by
  unfold pxOpen at e
  extract_lets g0 e0 pl pg b at e
  split at e
  · cases e
  · split at e
    · cases e
    · extract_lets q fr need at e
      split at e
      · extract_lets at e
        split at e
        · cases e
        · cases e
          exact spared_setSif ..
      · cases e

theorem spared_wakePx : spared (wakePx s) = spared s := by
  unfold wakePx
  refine foldl_field spared _ (fun s t => ?_) _ s
  split
  · split
    · exact spared_releaseWith ..
    · rfl
    · next h =>
      split
      · rw [spared_modTh, spared_toReady, spared_pxOpen _ h]
      · rw [spared_releaseWith, spared_pxOpen _ h]
  · rfl

theorem spared_sifUnmirrored : spared (sifUnmirrored s) = spared s := by
  unfold sifUnmirrored
  rw [spared_wakePx]
  exact foldl_field spared _ (fun s (e : Nat × Option Sif) => spared_sifAck s e.1) _ s

theorem spared_landWrite (a : Nat) (d : List Byte) : spared (landWrite s a d) = spared s := by
  unfold landWrite; split <;> exact spared_dramWr ..

theorem spared_landAwait : spared (landAwait s) = spared s := by
  unfold landAwait
  split
  · extract_lets m _ v
    have hv : spared v = spared s := foldl_field spared _ (fun s (e : Nat × List Byte) => spared_landWrite s e.1 e.2) _ _
    rw [spared_wakePx, ← hv]
    clear_value m v
    cases m with
    | some b => exact spared_markRebuilt v b
    | none => rfl
  · rfl

theorem spared_openAcked (p : Nat → Bool) : spared (openAcked s p) = spared s := by
  unfold openAcked
  refine foldl_field spared _ (fun s t => ?_) _ s
  split
  · split
    · split <;> rfl
    · rfl
  · rfl

/-! A key load answered, and the partner given up -/

/-- What a partner declared absent shows, and the acknowledgements awaited. -/
def peerFace (s : State) : Nat × Nat × List Nat := (getF s PAIR_STAT_PSTATE, getF s PWR_LASTQ_PEERLOST, s.map.acks)

theorem peerFace_of_spared {s u : State} (h : spared u = spared s) : peerFace u = peerFace s := by
  have ha : u.map.acks = s.map.acks := congrArg Spared.acks h
  simp only [peerFace, getF_of_spared h (f := PAIR_STAT_PSTATE) (by decide), getF_of_spared h (f := PWR_LASTQ_PEERLOST) (by decide), ha]

theorem peerFace_setF {f : Fld} (h : (PAIR_STAT_PSTATE.key == f.key && PAIR_STAT_PSTATE.ret == f.ret) = false)
    (h' : (PWR_LASTQ_PEERLOST.key == f.key && PWR_LASTQ_PEERLOST.ret == f.ret) = false) (v : Nat) : peerFace (setF s f v) = peerFace s := by
  simp only [peerFace, getF_setF_other s v h, getF_setF_other s v h', setF_map]

theorem peerFace_newLode : peerFace (newLode s) = peerFace s :=
  foldl_field peerFace _ (fun s k => peerFace_setF s (by simp [PAIR_STAT_PSTATE, CAS_LODE_WORD]; omega) (by simp [PWR_LASTQ_PEERLOST, CAS_LODE_WORD]) _) _ s

theorem peerFace_setKeyPage (p : Nat) (k : KeyPage) : peerFace (setKeyPage s p k) = peerFace s := rfl

theorem peerFace_applyKey (o : List Byte) : peerFace (applyKey s o) = peerFace s := by
  unfold applyKey
  extract_lets
  rw [peerFace_newLode, addWrap, peerFace_setF _ (by decide) (by decide), setC, peerFace_setF _ (by decide) (by decide), peerFace_setKeyPage]

theorem peerFace_answerHelm (c : Nat) (e : Ending) (o : List Byte) : peerFace (answerHelm s c e o) = peerFace s := rfl

theorem peerFace_keyAnswered (ok : Bool) : peerFace (keyAnswered s ok) = peerFace s := by
  unfold keyAnswered
  split
  · rfl
  · extract_lets done
    split
    · rfl
    · split
      · rfl
      · rw [peerFace_answerHelm]
        split
        · rfl
        · exact peerFace_applyKey ..

theorem peerFace_event (v : Nat) : peerFace (event s v) = peerFace s := peerFace_of_spared (spared_event s v)
theorem peerFace_logEv (f e : Nat) (d : List Nat) : peerFace (logEv s f e d) = peerFace s := rfl

theorem peerFace_swapCalledOff : peerFace (swapCalledOff s) = peerFace s := by
  unfold swapCalledOff
  split
  · exact peerFace_setF s (by decide) (by decide) 0
  · rfl

theorem swapCalledOff_map : (swapCalledOff s).map = s.map := by
  unfold swapCalledOff; split <;> simp

/-- What commits up to a number changes the acknowledgements awaited alone. -/
theorem peerFace_commitUpTo (j : Nat) : peerFace (commitUpTo s j) =
    (getF s PAIR_STAT_PSTATE, getF s PWR_LASTQ_PEERLOST, s.map.acks.filter fun x => decide (j < x)) := by
  have hu : spared (commitUpTo s j) = spared { s with map := { s.map with acks := s.map.acks.filter fun x => decide (j < x) } } := spared_commitUpTo s j
  rw [peerFace_of_spared hu]
  rfl

/-- The partner is given up: PSTATE, in QUENCH the record, and no acknowledgement is awaited up to the last record (R415, R428). -/
theorem declareAbsent_effect (hm : mode s = mQuench) (ha : s.map.acks ≠ []) :
    peerFace (declareAbsent s) = (1, 1, s.map.acks.filter fun x => decide (s.map.jseq < x)) := by
  unfold declareAbsent
  extract_lets v w
  have hv : v = setC s PWR_LASTQ_PEERLOST 1 := if_pos (by simp [hm, ha])
  obtain ⟨hw, hj⟩ : peerFace w = (1, 1, s.map.acks) ∧ w.map.jseq = s.map.jseq := by
    simp only [w]
    rw [peerFace_swapCalledOff, swapCalledOff_map, peerFace_event, peerFace_logEv, addSat, peerFace_setF _ (by decide) (by decide)]
    refine ⟨?_, by simp [hv]⟩
    simp only [peerFace, Prod.mk.injEq]
    refine ⟨getF_setF_same .., ?_, by simp [hv]⟩
    rw [getF_setF_other _ _ (by decide), hv, getF_setC_same]
    rfl
  clear_value w
  have hc := spared_commitUpTo w w.map.jseq
  simp only [peerFace, Prod.mk.injEq] at hw
  obtain ⟨hp, hl, hacks⟩ := hw
  rw [peerFace_keyAnswered, peerFace_of_spared (spared_openAcked ..), peerFace_of_spared (spared_sifUnmirrored _),
    peerFace_of_spared (spared_landAwait _), peerFace_commitUpTo, hp, hl, hacks, hj]

/-! ### The rows of QUENCH (R411, R415, R418) -/

section
variable {s : State} {el : Elapse} {v : State}

theorem exec_quench_enters (hv : elapse s el = v) (h : v.x.quench = none) :
    exec (.quench el) s = act (v.x.warn != 0 && inMode v [mRun, mBanked, mService]) v (quenchEntry v) := by
  show execQuench el s = _
  unfold execQuench
  rw [hv]
  simp only [h]

theorem exec_quench_steps (hv : elapse s el = v) {q : Quench} (h : v.x.quench = some q) :
    exec (.quench el) s = act (decide (q.step ≤ 4) && quenchStepDone v q) v (quenchAdvance v q) := by
  show execQuench el s = _
  unfold execQuench
  rw [hv]
  simp only [h]

/-- The acknowledgement of a record stays out 1 ms (R415). -/
theorem exec_quenchPeerAckTimeout (hv : elapse s el = v) (hm : mode v = mQuench) {r : JRec} (hr : r ∈ v.map.recs) (hc : r.committed = false)
    (ha : r.jseq ∈ v.map.acks) (ht : mget 0 v.map.sentAt r.jseq + 1000000 ≤ v.clk.refNs) :
    exec (.quenchPeerAckTimeout el) s = .next (declareAbsent v) := by
  show execQuenchPeerAckTimeout el s = _
  unfold execQuenchPeerAckTimeout
  rw [hv]
  refine next_act ?_
  have hmem : r ∈ v.map.recs.filter fun r => !r.committed && v.map.acks.contains r.jseq && decide (mget 0 v.map.sentAt r.jseq + 1000000 ≤ v.clk.refNs) :=
    List.mem_filter.2 ⟨hr, by simp [hc, ha, ht]⟩
  have he : (v.map.recs.filter fun r => !r.committed && v.map.acks.contains r.jseq &&
      decide (mget 0 v.map.sentAt r.jseq + 1000000 ≤ v.clk.refNs)).isEmpty = false := List.isEmpty_eq_false_iff.2 (List.ne_nil_of_mem hmem)
  rw [hm, he]
  rfl

theorem exec_quenchToSafe {q : Quench} (h : s.x.quench = some q) (hs : q.step = 5) (hh : s.x.heldCause ≠ []) :
    exec .quenchToSafe s = .next (enterSafe s 9998) := by
  show execQuenchToSafe s = _
  exact next_act (by simp [h, hs, hh])

theorem mayReturn_of {q : Quench} (h : s.x.quench = some q) (hs : q.step = 5) (hw : warned s = false)
    (hr : getF s PWR_WARN_VEN = 1 → getF s PWR_WARN_MV + 10 * getF s PWR_WARN_HYST ≤ s.pins.vin) : mayReturn s = true := by
  unfold mayReturn releaseMv
  rw [h]
  simp only [hs, hw, beq_self_eq_true, Bool.not_false, Bool.and_self, Bool.true_and, Bool.or_eq_true, Bool.not_eq_true', decide_eq_true_eq]
  by_cases hven : getF s PWR_WARN_VEN = 1
  · exact .inr (hr hven)
  · exact .inl (by simp [flag, hven])

end

end

/-- Settles O32: entry and steps by `quenchEntry_effect` and `quenchAdvance`, the return by what QUENCH leaves, SAFE, and the partner
given up. -/
theorem quenchSteps : Obligations.QuenchSteps := by
  intro s el v
  have hx : v.x = s.x := elapse_x s el
  have hm : mode v = mode s := mode_elapse s el
  have hmap : v.map = s.map := elapse_map s el
  have hv : elapse s el = v := rfl
  clear_value v
  refine ⟨fun hq hw hmode => ?_, fun hq hw => ?_, fun q hq hs hd => ?_, fun q hq hs hd => ?_, fun q hq hs hd => ?_,
    fun q hq hs hw hr hh ht hf => ?_, fun q hq hs hh => ?_, fun hmode hr => ?_⟩
  · have hin : inMode v [mRun, mBanked, mService] = true := by simpa [inMode, hm] using hmode
    have he : exec (.quench el) s = .next (quenchEntry v) :=
      (exec_quench_enters hv (by rw [hx, hq])).trans (next_act (by simp [hin, hx, hw]))
    obtain ⟨hface, hopen⟩ := quenchEntry_effect v
    generalize quenchEntry v = u at he hface hopen
    simp only [quenchFace, Prod.mk.injEq, hx, hm] at hface
    obtain ⟨⟨hu, hact, hstep, hdone, hcause⟩, hquench, hwarn, hchange⟩ := hface
    exact ⟨u, he, hu, hquench, hact, hstep, hdone, hcause, hopen, hwarn, hchange⟩
  · exact (exec_quench_enters hv (by rw [hx, hq])).trans (next_idle (by simp [hx, hw]))
  · exact ⟨_, (exec_quench_steps hv (by rw [hx, hq])).trans (next_act (by simp [hd]; omega)), quenchAdvance_effect_early v hs rfl⟩
  · exact ⟨_, (exec_quench_steps hv (by rw [hx, hq])).trans (next_act (by simp [hd]; omega)), quenchAdvance_effect_last v hs rfl⟩
  · exact (exec_quench_steps hv (by rw [hx, hq])).trans (next_idle (by simp [hd]))
  · obtain ⟨hleft, hkept⟩ := quenchLeft_effect s
    have hwl : warned (quenchLeft s) = false := (warned_congr fun f hf => hkept f (by
      simp only [List.mem_cons, List.not_mem_nil, or_false] at hf
      obtain rfl | rfl | rfl := hf <;> decide)).trans hw
    obtain ⟨hb, hbm⟩ := quenchBack_effect hleft hwl ((hkept _ (by decide)).trans ht) hf
    refine ⟨_, (exec_quenchReturn s hq).trans (next_act ?_), hbm, hb.quench, hb.warn, hb.active, hb.returned, hb.brownout, hb.saved⟩
    simp [mayReturn_of hq hs hw hr, hh]
  · obtain ⟨hset, -, hheld, hact⟩ := enterSafe_effect s 9998
    exact ⟨_, exec_quenchToSafe hq hs hh, mode_enterSafe .., hset.quench, hset.held, hact, hheld⟩
  · obtain ⟨r, hrec, hc, ha, ht⟩ := hr
    have hface := declareAbsent_effect v (hm.trans hmode) (List.ne_nil_of_mem (hmap ▸ ha))
    simp only [peerFace, Prod.mk.injEq, hmap] at hface
    obtain ⟨hp, hl, hacks⟩ := hface
    refine ⟨_, exec_quenchPeerAckTimeout hv (hm.trans hmode) (hmap ▸ hrec) hc (hmap ▸ ha) (by rw [hmap]; exact ht), hl, hp, fun j hj hle hmem => ?_⟩
    rw [hacks] at hmem
    have hgt := of_decide_eq_true (List.mem_filter.1 hmem).2
    omega

end Sys2Proof.Machine
end
section
/-! PROOFS. KINDLE from discovery to RUN or STANDBY. -/
namespace Sys2Proof.Machine
open Sys2Proof Sys2Proof.Safety

/-! ### Step 8: a round is loaded (R228, R229) -/

/-- One memory below an address, another from it on. -/
theorem mget_joined {α : Type} (d : α) (l m : NMap α) (a i : Nat) :
    mget d ((l.filter fun e => e.1 < a) ++ m.filter fun e => a ≤ e.1) i = if i < a then mget d l i else mget d m i := by
  have hm : mget d (m.filter fun e => a ≤ e.1) i = if i < a then d else mget d m i := by
    rw [mget_filter_key d m fun k => a ≤ k]
    by_cases h : i < a
    · rw [if_pos h, if_neg (by simpa using h)]
    · rw [if_neg h, if_pos (by simpa using h)]
  induction l with
  | nil => exact hm
  | cons e l ih =>
    obtain ⟨k, v⟩ := e
    rw [List.filter_cons]
    by_cases hi : i = k
    · subst hi
      by_cases hk : i < a
      · simp [hk, mget]
      · simp [hk, ih]
    · have hskip : mget d ((k, v) :: l) i = mget d l i := by simp [mget, hi]
      by_cases hk : k < a
      · simp only [hk, decide_true, if_true, List.cons_append, mget, hi, if_false, ih]
      · simp only [hk, decide_false, Bool.false_eq_true, if_false, hskip, ih]

section
variable (s : State)

theorem armInternal_mem (t : Nat) : (armInternal s t).mem = s.mem := by
  unfold armInternal; dsimp only; split <;> rfl

theorem armCheckpoint_mem : (armCheckpoint s).mem = s.mem := by
  unfold armCheckpoint
  exact foldl_field State.mem armInternal armInternal_mem _ s

theorem countOverlay_mem : (countOverlay s).mem = s.mem := by simp [countOverlay]

theorem countMapped_mem : (countMapped s).mem = s.mem := rfl

/-- A round's map regions are in DRAM, the tail ring and what lies above it as they were (R204, R228). -/
theorem loadRound_dram (r : Round) (at_ a : Nat) :
    mget 0 (loadRound s r at_).mem.dram a = if a < aRing then mget 0 r.image a else mget 0 s.mem.dram a := by
  unfold loadRound
  extract_lets img _ m
  rw [countMapped_mem, armCheckpoint_mem, countOverlay_mem]
  exact mget_joined 0 r.image s.mem.dram aRing a

theorem toStep_mem (n : Nat) : (toStep s n).mem = s.mem := setF_mem ..

theorem getF_toStep (n : Nat) (h : n < 16) : getF (toStep s n) HELM_KINDLE_STEP = n := (getF_setF_same ..).trans (Nat.mod_eq_of_lt h)

/-! ### Step 9: no record of the map is touched beyond the replay (R311, R318, R350) -/

theorem dramWr_map (a : Nat) (b : List Byte) : (dramWr s a b).map = s.map := by
  unfold dramWr; dsimp only; split <;> rfl

theorem setSif_map (i : Nat) (x : Option Sif) : (setSif s i x).map = s.map := by
  unfold setSif; split <;> rfl

theorem setBandEnt_map (b v : Nat) : (setBandEnt s b v).map = s.map := by rw [setBandEnt, dramWrLe, dramWr_map]

theorem setRefresh_map (b : Nat) : (setRefresh s b).map = s.map := by
  unfold setRefresh
  split
  · rfl
  · exact setBandEnt_map ..

theorem ringPut_map (a : Nat) (b : List Byte) : (ringPut s a b).map = s.map := by
  unfold ringPut
  rw [dramWr_map]
  split <;> rfl

theorem bandSet_map (b v : Nat) : (bandSet s b v).map = s.map := by
  unfold bandSet
  exact ringPut_map ..

theorem orphan_map (i : Nat) : (orphan s i).map = s.map := by
  unfold orphan
  split
  · rfl
  · split
    · rfl
    · rw [addSat_map, setRefresh_map, setSif_map]

theorem applyRing_map : (applyRing s).map = s.map := by
  have hf : (freshSpares s).map = s.map := by
    unfold freshSpares
    split
    · rfl
    · exact foldl_field State.map _ (fun s d => foldl_field State.map _ (fun s p => dramWr_map s _ _) _ s) _ s
  rw [← hf]
  exact foldl_field State.map (fun s (e : Nat × List Byte) => dramWr s e.1 e.2) (fun s e => dramWr_map s e.1 e.2) _ _

theorem recoverSif_map (src : SifSrc) : (recoverSif s src).map = s.map := by
  unfold recoverSif
  extract_lets put v w
  have hv : v.map = s.map := by
    simp only [v]
    split
    · rfl
    · split
      · exact setF_map ..
      · rfl
    · refine (foldl_field State.map _ (fun s b => ?_) _ _).trans (setF_map ..)
      split
      · split
        · rw [setRefresh_map, setSif_map]
        · rfl
      · rfl
  have hw : w.map = v.map := foldl_field State.map orphan orphan_map _ v
  exact hw.trans hv

theorem dramClear_map (a n : Nat) : (dramClear s a n).map = s.map := rfl

/-- A band's entry at step 9 (R318): no owner, OPEN becomes FULL and SHORT, ERASING becomes GC_SOURCE. -/
def recoverBand (s : State) (b : Nat) : State :=
  let e := bandEnt s b
  let e := putBits e 64 13 noOwner
  let e := if bits e 0 3 = 1 then putBits (putBits e 0 3 2) 5 1 1 else if bits e 0 3 = 4 then putBits e 0 3 3 else e
  if e = bandEnt s b then s else if bits e 0 3 = bandState s b then setBandEnt s b e else bandSet s b e

theorem recoverBand_map (b : Nat) : (recoverBand s b).map = s.map := by
  unfold recoverBand
  extract_lets e0 e1 e
  clear_value e
  split
  · rfl
  · split
    · exact setBandEnt_map ..
    · exact bandSet_map ..

theorem recoverMedia_eq : recoverMedia s =
    setF (dramClear ((allBands s).foldl recoverBand s) aSlots 8192) HELM_MEDSTAT_RECOUNT 1 := rfl

theorem recoverMedia_map : (recoverMedia s).map = s.map := by
  rw [recoverMedia_eq, setF_map, dramClear_map]
  exact foldl_field State.map recoverBand recoverBand_map _ s

theorem overUpdate_map : (overUpdate s).map = s.map := by
  unfold overUpdate
  extract_lets
  split
  · exact setF_map ..
  · split
    · exact setF_map ..
    · rfl

theorem jstat_map : (jstat s).map = s.map := by
  unfold jstat
  extract_lets since v
  have hv : v.map = s.map := by simp [v]
  split
  · rw [event_map, logEv_map, setF_map, hv]
  · exact hv

theorem lcapBound_map : (lcapBound s).map = s.map := by
  unfold lcapBound
  extract_lets v e
  have hv : v.map = s.map := setF_map ..
  split
  · rw [event_map, logEv_map, setF_map, hv]
  · exact hv

/-- The journal replayed: its records applied, then every record committed (R228). -/
def replayed (s : State) (l : List JRec) : State :=
  let v := l.foldl applyRec s
  { v with map := { v.map with recs := v.map.recs.map fun (r : JRec) => { r with committed := true, applied := true } } }

/-- The media region and the stripes in flight follow, and the journal's registers show it (R318, R350). -/
def mediaRecovered (s : State) (src : SifSrc) : State :=
  let v := recoverMedia (recoverSif (applyRing s) src)
  lcapBound (jstat (setF (overUpdate v) MAP_JSEQ_LAST v.map.jseq))

theorem mediaRecovered_map (src : SifSrc) : (mediaRecovered s src).map = s.map := by
  unfold mediaRecovered
  extract_lets v
  rw [lcapBound_map, jstat_map, setF_map, overUpdate_map, recoverMedia_map, recoverSif_map, applyRing_map]

theorem replayed_all (l : List JRec) : ∀ r ∈ (replayed s l).map.recs, r.committed = true ∧ r.applied = true := by
  intro r hr
  obtain ⟨x, -, rfl⟩ := List.mem_map.1 hr
  exact ⟨rfl, rfl⟩

/-! ### Step 10: RUN or STANDBY (R63, R163, R397, R450, R476) -/

theorem spared_armInternal (t : Nat) : spared (armInternal s t) = spared s := by
  unfold armInternal; dsimp only; split <;> rfl

theorem spared_fillBuckets : spared (fillBuckets s) = spared s := by
  unfold fillBuckets
  refine (foldl_field spared _ (fun s n => foldl_field spared _ (fun s b => ?_) _ s) _ _).trans rfl
  split <;> rfl

theorem mode_beginActive : mode (beginActive s) = mode s := by
  have ha : spared (armAll (fillBuckets s)) = spared (fillBuckets s) := foldl_field spared armInternal spared_armInternal _ _
  exact mode_of_spared ((spared_applyShare _).trans (ha.trans (spared_fillBuckets s)))

theorem mode_askMaster : mode (askMaster s) = mode s :=
  mode_of_spared (foldl_field spared _ (fun s _ => spared_send s _) _ s)

/-- What a notice to the partner leaves alone: the registers and memory. -/
def noticeFace (s : State) : NMap Nat × Retained × Mem := (s.vf, s.ret, s.mem)

theorem noticeFace_notice (code ver : Nat) : noticeFace (notice s 51 code ver) = noticeFace s := by
  unfold notice sendMsg
  rw [if_neg (by decide)]
  split
  · rfl
  · split <;> rfl

theorem noticeFace_returned : noticeFace (returned s) = noticeFace s := by
  unfold returned
  split
  · exact noticeFace_notice ..
  · rfl

/-- The standby's DRAM is cleared, its mode and PSTATE stand (R63, R424). -/
theorem returned_effect {s u : State} (h : noticeFace u = noticeFace s) : mode u = mode s ∧ u.mem = s.mem ∧ ∀ f, getF u f = getF s f := by
  simp only [noticeFace, Prod.mk.injEq] at h
  obtain ⟨hv, hr, hm⟩ := h
  exact ⟨getF_congr _ hv hr, hm, fun f => getF_congr f hv hr⟩

/-- DRAM cleared and PSTATE set, as the standby leaves KINDLE (R63, R424). -/
def standbyCleared (s : State) : State :=
  setF { s with mem := { s.mem with dram := [], valid := [], bad := [] } } PAIR_STAT_PSTATE 2

theorem standbyCleared_effect : mode (standbyCleared s) = mode s ∧ (standbyCleared s).mem.dram = [] ∧ (standbyCleared s).mem.valid = [] ∧
    (standbyCleared s).mem.bad = [] ∧ getF (standbyCleared s) PAIR_STAT_PSTATE = 2 := by
  refine ⟨mode_setF _ (by decide) _, ?_, ?_, ?_, getF_setF_same ..⟩
  · rw [standbyCleared, setF_mem]
  · rw [standbyCleared, setF_mem]
  · rw [standbyCleared, setF_mem]

/-! ### The rows of steps 7 to 10 (R63, R68, R76, R228, R324) -/

section
variable {s : State}

theorem exec_flashDiscovery (h : atStep s 7 = true) (ho : getF s PAIR_STAT_OWN = 1) (found : List FoundDie) (train : List Nat)
    (tprog : List (Nat × Nat)) (endur : Nat) :
    exec (.flashDiscovery found train tprog endur) s = .next (toStep (discover s found train tprog endur) 8) := by
  have hf : flag s PAIR_STAT_OWN = true := flag_iff.2 ho
  exact next_act (by rw [h, hf]; rfl)

section
variable {newest previous : Bool} (h : atStep s 8 = true)
include h

theorem exec_mapCheckpointLoad_none (hn : s.ck.newest = none) :
    exec (.mapCheckpointLoad newest previous) s = .next (toStep (armCheckpoint s) 9) := by
  show execMapCheckpointLoad newest previous s = _
  unfold execMapCheckpointLoad
  rw [next_act h, hn]

theorem exec_mapCheckpointLoad_newest {r : Round} (hn : s.ck.newest = some r) :
    exec (.mapCheckpointLoad true previous) s = .next (toStep (loadRound s r r.stampNow) 9) := by
  show execMapCheckpointLoad true previous s = _
  unfold execMapCheckpointLoad
  rw [next_act h, hn]
  rfl

theorem exec_mapCheckpointLoad_previous {r p : Round} (hn : s.ck.newest = some r) (hp : s.ck.previous = some p) :
    exec (.mapCheckpointLoad false true) s =
      .next (toStep (logEv (setF (loadRound s p r.stampNow) MAP_CKPT_PREV_USED 1) 4 1 []) 9) := by
  show execMapCheckpointLoad false true s = _
  unfold execMapCheckpointLoad
  rw [next_act h, hn, hp]
  exact congrArg _ ((if_neg Bool.false_ne_true).trans (if_pos rfl))

/-- With no round readable the map is gone: cause MAP (R76). -/
theorem exec_mapCheckpointLoad_unreadable {r : Round} (hn : s.ck.newest = some r) (hp : s.ck.previous = none ∨ previous = false) :
    exec (.mapCheckpointLoad false previous) s = .next (safeArise s 3 9998) := by
  show execMapCheckpointLoad false previous s = _
  unfold execMapCheckpointLoad
  rw [next_act h, hn]
  obtain hp | hp := hp
  · rw [hp]; rfl
  · subst hp
    cases s.ck.previous <;> rfl

end

section
variable {badRec : Option Nat} {src : SifSrc} (h : atStep s 9 = true)
include h

theorem exec_journalReplay_gap (hg : (replayRecs s).2 = false) :
    exec (.journalReplay badRec src) s = .next (safeArise s 4 9998) := by
  show execJournalReplay badRec src s = _
  unfold execJournalReplay
  generalize replayRecs s = p at hg
  obtain ⟨l, ok⟩ := p
  have hok : ok = false := hg
  refine (next_act h).trans (congrArg _ (if_pos ?_))
  rw [hok, Bool.not_false, Bool.true_or]

/-- A record to replay fails its CRC: cause REPLAY (R76). -/
theorem exec_journalReplay_damaged {r : JRec} (hr : r ∈ (replayRecs s).1) :
    exec (.journalReplay (some r.jseq) src) s = .next (safeArise s 4 9998) := by
  show execJournalReplay (some r.jseq) src s = _
  unfold execJournalReplay
  generalize replayRecs s = p at hr
  obtain ⟨l, ok⟩ := p
  have hany : (l.any fun x => x.jseq == r.jseq) = true := List.any_eq_true.2 ⟨r, hr, beq_self_eq_true _⟩
  exact (next_act h).trans (congrArg _ (if_pos (by rw [Bool.or_eq_true]; exact .inr hany)))

theorem exec_journalReplay (hg : (replayRecs s).2 = true) :
    exec (.journalReplay none src) s = .next (toStep (mediaRecovered (replayed s (replayRecs s).1) src) 10) := by
  show execJournalReplay none src s = _
  unfold execJournalReplay
  generalize replayRecs s = p at hg
  obtain ⟨l, ok⟩ := p
  obtain rfl : ok = true := hg
  refine (next_act h).trans (congrArg _ ((if_neg (by simp)).trans ?_))
  unfold mediaRecovered replayed
  rfl

end

section
variable (h : atStep s 10 = true)
include h

/-- The standby's part of step 10 (R63, R397, R424). -/
theorem exec_kindleComplete_standby (hr : getF s HELM_KINDLE_ROLE = 1) :
    exec .kindleComplete s = .next (returned (standbyCleared (applyShare (toMode (fillBuckets (raiseArb s)) mStandby)))) := by
  have hf : flag s HELM_KINDLE_ROLE = true := flag_iff.2 hr
  show execKindleComplete s = _
  unfold execKindleComplete
  exact (next_act h).trans (congrArg _ (if_pos hf))

theorem exec_kindleComplete_active (hr : getF s HELM_KINDLE_ROLE = 0) : exec .kindleComplete s = .next (
    if warned s then if s.boot.told10 then s else logEv { s with boot := { s.boot with told10 := true } } 0 5 []
    else askMaster (beginActive (enterRun (resumeCounters (raiseArb s))))) := by
  have hf : ¬ flag s HELM_KINDLE_ROLE = true := by simp [flag_eq_false hr]
  show execKindleComplete s = _
  unfold execKindleComplete
  exact (next_act h).trans (congrArg _ (if_neg hf))

end

theorem exec_validRecountDone (h : getF s HELM_MEDSTAT_RECOUNT = 1) :
    exec .validRecountDone s = .next (setF (recount s) HELM_MEDSTAT_RECOUNT 0) := by
  show execValidRecountDone s = _
  unfold execValidRecountDone
  exact next_act (flag_iff.2 h)

end

/-- A notice to the partner leaves the standby's mode, memory and PSTATE (R63, R476). -/
theorem standby_effect (hm : mode s = mStandby) :
    let u := returned (standbyCleared s)
    mode u = mStandby ∧ u.mem.dram = [] ∧ u.mem.valid = [] ∧ u.mem.bad = [] ∧ getF u PAIR_STAT_PSTATE = 2 := by
  obtain ⟨hmode, hd, hv, hb, hp⟩ := standbyCleared_effect s
  generalize standbyCleared s = w at hmode hd hv hb hp
  obtain ⟨hu, hmem, hg⟩ := returned_effect (noticeFace_returned w)
  refine ⟨hu.trans (hmode.trans hm), ?_, ?_, ?_, (hg _).trans hp⟩
  · rw [hmem, hd]
  · rw [hmem, hv]
  · rw [hmem, hb]

end

/-- Settles O30: each step's row, then what it leaves. -/
theorem kindleLastSteps : Obligations.KindleLastSteps := by
  intro s found train tprog endur newest previous badRec src
  refine ⟨fun h ho => ?_, fun h hn => ?_, fun r h hn ht => ?_, fun r p h hn hf hp ht => ?_, fun r h hn hf hp => ?_, fun h hg => ?_,
    fun j r h hb hr hj => ?_, fun h hg hb => ?_, fun h hr => ?_, fun h hr hw ht => ?_, fun h hr hw ht => ?_, fun k hk hm h0 => ?_, fun h => ?_⟩
  · exact ⟨_, exec_flashDiscovery h ho found train tprog endur, rfl, getF_toStep _ 8 (by decide)⟩
  · exact ⟨_, exec_mapCheckpointLoad_none h hn, getF_toStep _ 9 (by decide), (toStep_mem ..).trans (armCheckpoint_mem s)⟩
  · subst ht
    refine ⟨_, exec_mapCheckpointLoad_newest h hn, getF_toStep _ 9 (by decide), fun a => ?_⟩
    rw [toStep_mem, loadRound_dram]
  · subst hf ht
    refine ⟨_, exec_mapCheckpointLoad_previous h hn hp, getF_toStep _ 9 (by decide), ?_, fun a => ?_⟩
    · rw [toStep, getF_setF_other _ _ (by decide), getF_logEv, getF_setF_same]
      rfl
    · rw [toStep_mem, logEv_mem, setF_mem, loadRound_dram]
  · subst hf
    exact exec_mapCheckpointLoad_unreadable h hn hp
  · exact exec_journalReplay_gap h hg
  · subst hb hj
    exact exec_journalReplay_damaged h hr
  · subst hb
    refine ⟨_, exec_journalReplay h hg, getF_toStep _ 10 (by decide), ?_⟩
    rw [toStep, setF_map, mediaRecovered_map]
    exact replayed_all s _
  · refine ⟨_, exec_kindleComplete_standby h hr, standby_effect _ ?_⟩
    exact (mode_of_spared (spared_applyShare _)).trans (mode_toMode _ (by decide))
  · rw [exec_kindleComplete_active h hr, if_pos hw, if_pos ht]
  · refine ⟨_, (exec_kindleComplete_active h hr).trans (congrArg _ (if_neg (by simp [hw]))), ?_⟩
    rw [mode_askMaster, mode_beginActive, mode_enterRun]
  · have hk' : k % 256 = k := by omega
    rw [safeArise_still k 9998 (.inl hm)]
    refine ⟨mode_enterSafe .., ?_⟩
    rw [getF_enterSafe _ _ (by decide) (by decide), getF_recordCause h0, hk']
  · exact ⟨_, exec_validRecountDone h, getF_setF_same .., rfl⟩

end Sys2Proof.Machine
end
section
/-! PROOFS. Power warnings, raised and released (R104, R405 to R408, R411). -/
namespace Sys2Proof.Machine
open Sys2Proof Sys2Proof.Safety

section
variable {s : State}

/-- In RUN, BANKED and SERVICE the first warning waits for QUENCH to answer it. -/
theorem powerWarning_live (hl : mode s = mRun ∨ mode s = mBanked ∨ mode s = mService) (hw : s.x.warn = 0) (cause : Nat) :
    powerWarning s cause = setAux s { s.x with warn := cause } := by
  have hin : inMode s [mRun, mBanked, mService] = true := by
    rcases hl with h | h | h <;> rw [inMode, h] <;> rfl
  rw [powerWarning, if_pos hin, if_pos hw]

theorem mode_ne_off_of_live (hl : mode s = mRun ∨ mode s = mBanked ∨ mode s = mService) : mode s ≠ mOff := by
  rcases hl with h | h | h <;> rw [h] <;> decide

/-- A pin changes, and its level shows in PWR_STAT (R406, R407). -/
def pinShown (s : State) (p : Pins) (f : Fld) (v : Nat) : State := setF { s with pins := p } f v

theorem regsKept_pinShown (s : State) (p : Pins) (f : Fld) (v : Nat) : RegsKept [f] s (pinShown s p f v) :=
  regsKept_setF { s with pins := p } f v

theorem getF_pinShown_same (s : State) (p : Pins) (f : Fld) (v : Nat) : getF (pinShown s p f v) f = v % 2 ^ f.w :=
  getF_setF_same ..

/-- A pin's warning in RUN, BANKED and SERVICE: shown, and left for QUENCH to answer. -/
theorem pinShown_warns (hl : mode s = mRun ∨ mode s = mBanked ∨ mode s = mService) (hw : s.x.warn = 0) (p : Pins) {f : Fld}
    (hr : f.ret = false) (hm : (HELM_MODE_CUR.key == f.key && HELM_MODE_CUR.ret == f.ret) = false) (cause : Nat) :
    ∃ u, powerWarning (pinShown s p f 1) cause = u ∧ getF u f = 1 % 2 ^ f.w ∧ u.x = { s.x with warn := cause } ∧ u.pins = p ∧
      RegsKept [f] s u ∧ u = { s with vf := u.vf, x := u.x, pins := u.pins } := by
  have hx : (pinShown s p f 1).x = s.x := setF_x ..
  have hmode : mode (pinShown s p f 1) = mode s := mode_setF _ hm 1
  have hu := powerWarning_live (s := pinShown s p f 1) (by rwa [hmode]) (by rwa [hx]) cause
  rw [hx] at hu
  refine ⟨_, hu, getF_pinShown_same .., rfl, setF_pins .., regsKept_pinShown s p f 1, ?_⟩
  rw [pinShown, setF_frame _ hr]
  rfl

/-! The rows -/

theorem exec_vinWarning {mv : Nat} (h : mv < getF s PWR_WARN_MV) (h0 : 4200 ≤ mv) (hm : mode s ≠ mOff) (hf : getF s PWR_STAT_VWARN = 0)
    (hv : getF s PWR_WARN_VEN = 1) :
    exec (.vinWarning mv) s = .next (powerWarning (pinShown s { s.pins with vin := mv } PWR_STAT_VWARN 1) 1) := by
  have hven : flag (pinShown s { s.pins with vin := mv } PWR_STAT_VWARN 1) PWR_WARN_VEN = true := by
    rw [flag, regsKept_pinShown _ _ _ _ _ (by decide), hv]; rfl
  exact (next_act (by simp [warnMv, h, h0, hm, flag, hf])).trans (congrArg _ (if_pos hven))

theorem exec_pfailNLow {ns : Nat} {taken : Bool} (h : 300 ≤ ns ∨ 100 ≤ ns ∧ taken = true) (hm : mode s ≠ mOff)
    (hf : getF s PWR_STAT_PFAIL = 0) :
    exec (.pfailNLow ns taken) s = .next (powerWarning (pinShown s { s.pins with pfailN := false } PWR_STAT_PFAIL 1) 2) :=
  next_act (by simp [h, hm, flag, hf])

/-- A shorter pulse is no warning (R407). -/
theorem exec_pfailNLow_short {ns : Nat} (h : ns < 100) (taken : Bool) : exec (.pfailNLow ns taken) s = .next s :=
  next_idle (by simp [show ¬ 300 ≤ ns by omega, show ¬ 100 ≤ ns by omega])

theorem exec_d3hotEntry {p : Nat} (hp : p ∈ ports s) (hu : (port s p).up = true) (hd : (port s p).d3hot = false) :
    exec (.d3hotEntry ⟨p, false⟩) s = .next (powerWarning (setPort s p { port s p with d3hot := true }) 3) :=
  next_act (by simp [hp, hu, hd])

theorem exec_d3hotEntry_back {p : Nat} (hp : p ∈ ports s) (hu : (port s p).up = true) (hd : (port s p).d3hot = true) :
    exec (.d3hotEntry ⟨p, true⟩) s = .next (setPort s p { port s p with d3hot := false }) :=
  next_act (by simp [hp, hu, hd])

/-- Both warnings that PWR_STAT shows have fallen. -/
def warningsFell (v : State) (mv : Nat) : State :=
  pinShown (pinShown v { v.pins with vin := mv } PWR_STAT_VWARN 0) { v.pins with vin := mv, pfailN := true } PWR_STAT_PFAIL 0

theorem exec_powerWarningRelease {mv : Nat} {el : Elapse} (hm : mode s ≠ mOff)
    (h : getF s PWR_WARN_MV + 10 * getF s PWR_WARN_HYST ≤ mv) (hns : 1000000 ≤ el.ns) :
    exec (.powerWarningRelease mv true el) s = .next (warningsFell (elapse s el) mv) := by
  show execPowerWarningRelease mv true el s = _
  have hmv : getF (elapse s el) PWR_WARN_MV = getF s PWR_WARN_MV := getF_elapse s el _ (by decide)
  have hhy : getF (elapse s el) PWR_WARN_HYST = getF s PWR_WARN_HYST := getF_elapse s el _ (by decide)
  have hoff : mode (elapse s el) ≠ mOff := by rwa [mode_elapse]
  unfold execPowerWarningRelease
  generalize elapse s el = v at hmv hhy hoff
  have hrel : releaseMv { v with pins := { v.pins with vin := mv } } ≤ mv := by
    show getF v PWR_WARN_MV + 10 * getF v PWR_WARN_HYST ≤ mv
    rwa [hmv, hhy]
  simp only [beq_iff_eq, hoff, if_false, if_pos hrel, hns, decide_true, Bool.and_self, if_true]
  simp only [warningsFell, pinShown, setF_pins]

theorem warningsFell_effect (v : State) (mv : Nat) :
    getF (warningsFell v mv) PWR_STAT_VWARN = 0 ∧ getF (warningsFell v mv) PWR_STAT_PFAIL = 0 ∧
      (warningsFell v mv).pins = { v.pins with vin := mv, pfailN := true } ∧
      RegsKept [PWR_STAT_VWARN, PWR_STAT_PFAIL] v (warningsFell v mv) := by
  refine ⟨?_, getF_pinShown_same .., setF_pins .., fun f hf => ?_⟩
  · exact (regsKept_pinShown _ _ _ _ _ (by decide)).trans (getF_pinShown_same ..)
  · exact (regsKept_pinShown _ _ _ _ f fun g hg => hf g (by simp_all)).trans
      (regsKept_pinShown _ _ _ _ f fun g hg => hf g (by simp_all))

end

/-- Settles O31: a pin's warning by `pinShown_warns`, the function's by its port, the release by what falls. -/
theorem powerWarnings : Obligations.PowerWarnings := by
  intro s mv ns p taken hi el
  refine ⟨fun hv h h0 hl hf hw => ?_, fun h hl hf hw => ?_, fun h => exec_pfailNLow_short h taken, fun hp hu hd hl hw => ?_,
    fun hp hu hd => ?_, fun hm h hhi hns => ?_⟩
  · rw [exec_vinWarning h h0 (mode_ne_off_of_live hl) hf hv]
    obtain ⟨u, rfl, hu⟩ := pinShown_warns hl hw { s.pins with vin := mv } (f := PWR_STAT_VWARN) rfl (by decide) 1
    exact ⟨_, rfl, hu⟩
  · rw [exec_pfailNLow h (mode_ne_off_of_live hl) hf]
    obtain ⟨u, rfl, hu⟩ := pinShown_warns hl hw { s.pins with pfailN := false } (f := PWR_STAT_PFAIL) rfl (by decide) 2
    exact ⟨_, rfl, hu⟩
  · have hq := powerWarning_live (s := setPort s p { port s p with d3hot := true }) hl hw 3
    exact ⟨_, (exec_d3hotEntry hp hu hd).trans (congrArg _ hq), port_setPort_same .., fun q hq => port_setPort_other s _ hq, rfl, rfl⟩
  · exact ⟨_, exec_d3hotEntry_back hp hu hd, port_setPort_same .., fun q hq => port_setPort_other s _ hq, rfl⟩
  · subst hhi
    obtain ⟨hvw, hpf, hpins, hk⟩ := warningsFell_effect (elapse s el) mv
    exact ⟨_, exec_powerWarningRelease hm h hns, hvw, hpf, by rw [hpins, elapse_pins], hk⟩

end Sys2Proof.Machine
end
section
/-! PROOFS. What the work of threads leaves of the face that the hosts see, and of a thread that it does not release. -/
namespace Sys2Proof.Machine
open Sys2Proof Sys2Proof.Safety

/-- The registers of the links, which lie above the families of the blocks (R86). -/
def linkRegs (s : State) : NMap Nat := s.vf.filter fun e => decide (0x10000000 * 64 ≤ e.1)

/-- What the hosts see: the registers of the links, the context pages, the ports, and the messages sent. -/
def hostFace (s : State) : NMap Nat × NMap Ctx × NMap Port × List Msg := (linkRegs s, s.ctx, s.link, s.sent)

/-- What of a thread only its own release changes: registers and continuation, and of a host thread the state. -/
def repose (t : Nat) (s : State) : NMap W64 × Cont × Option TSt :=
  ((th s t).g, (th s t).cont, if isHost t then some (th s t).st else none)

/-- From `s` to `u` threads went on: the hosts see nothing of it, no request for a buffer was added, and thread `t` has its
transfers; where `c` says that `t` is none of those released, it rests as it did. -/
structure Beside (c : Prop) (t : Nat) (s u : State) : Prop where
  host : hostFace u = hostFace s
  reqs : ∀ q ∈ u.buf.reqs, q ∈ s.buf.reqs
  xfers : (th u t).xfers = (th s t).xfers
  rest : c → repose t u = repose t s

section
variable {c : Prop} {t : Nat} {s u v : State}

theorem Beside.refl (c : Prop) (t : Nat) (s : State) : Beside c t s s := ⟨rfl, fun _ h => h, rfl, fun _ => rfl⟩

theorem Beside.trans (h : Beside c t s u) (h' : Beside c t u v) : Beside c t s v :=
  ⟨h'.host.trans h.host, fun q hq => h.reqs q (h'.reqs q hq), h'.xfers.trans h.xfers, fun hc => (h'.rest hc).trans (h.rest hc)⟩

theorem th_congr (h : u.thr = s.thr) (m : Nat) : th u m = th s m := by rw [th, th, h]

/-- What touches no thread. -/
theorem beside_of_thr (hh : hostFace u = hostFace s) (ht : u.thr = s.thr) (hq : ∀ q ∈ u.buf.reqs, q ∈ s.buf.reqs) : Beside c t s u :=
  ⟨hh, hq, by rw [th_congr ht], fun _ => by rw [repose, repose, th_congr ht]⟩

theorem beside_modTh {m : Nat} {f : Thread → Thread} (hf : ∀ x, (f x).xfers = x.xfers) (hc : c → m ≠ t) :
    Beside c t s (modTh s m f) where
  host := rfl
  reqs _ h := h
  xfers := by
    by_cases h : t = m
    · subst h; rw [th_modTh_same, hf]
    · rw [th_modTh_other _ _ h]
  rest h := by rw [repose, repose, th_modTh_other _ _ (hc h).symm]

theorem beside_foldl {β : Type} {f : State → β → State} (l : List β) (s : State)
    (h : ∀ v b, b ∈ l → Beside c t s v → Beside c t v (f v b)) : Beside c t s (l.foldl f s) :=
  List.foldlRecOn (motive := fun v => Beside c t s v) l f (.refl c t s) fun v hv b hb => hv.trans (h v b hb hv)

/-! Threads become READY (R146, R150, R153) -/

theorem beside_giveBack {m : Nat} (hm : isHost m = false) : Beside c t s (giveBack s m) where
  host := by simp [hostFace, linkRegs]
  reqs q h := by rwa [giveBack_buf] at h
  xfers := by
    by_cases h : t = m
    · subst h; unfold giveBack holdPark; dsimp only; split <;> simp only [th, tick, modTh, setTh, mget_mset_same]
    · rw [threadsKept_giveBack s m t h]
  rest _ := by
    by_cases h : t = m
    · subst h; unfold giveBack holdPark repose; dsimp only; split <;> simp [hm, th, tick, modTh, setTh]
    · rw [repose, repose, threadsKept_giveBack s m t h]

theorem beside_enforceL (m : Nat) : Beside c t s (enforceL s m) where
  host := by simp [hostFace, linkRegs]
  reqs q h := by rwa [enforceL_buf] at h
  xfers := enforceL_keeps (fun v => (th v t).xfers) (fun _ _ hk => (beside_giveBack (c := c) hk).xfers) s m
  rest hc := enforceL_keeps (repose t) (fun _ _ hk => (beside_giveBack (c := c) hk).rest hc) s m

/-- Once READY a thread rests, whether BANKED holds it back or others give way to it. -/
theorem beside_readied (c : Prop) (t m : Nat) (s : State) : Beside c t (readied s m) (toReady s m) := by
  cases hb : heldBack s m with
  | false =>
    have h : toReady s m = enforceL (readied s m) m := by unfold toReady; rw [hb]; rfl
    rw [h]
    exact beside_enforceL m
  | true =>
    have h : toReady s m = holdPark (readied s m) m := by unfold toReady; rw [hb]; rfl
    have hm : isHost m = false := by simp only [heldBack, Bool.and_eq_true, Bool.not_eq_true'] at hb; exact hb.1
    rw [h]
    refine ⟨rfl, fun q h => h, ?_, fun _ => ?_⟩
    · by_cases ht : t = m
      · subst ht; simp [holdPark, th, modTh, setTh]
      · rw [threadsKept_holdPark _ _ _ ht]
    · by_cases ht : t = m
      · subst ht; simp [repose, hm, holdPark, th, modTh, setTh]
      · rw [repose, repose, threadsKept_holdPark _ _ _ ht]

theorem beside_toReady {m : Nat} (hc : c → m ≠ t) : Beside c t s (toReady s m) := by
  have htick : Beside c t s (tick s) := beside_of_thr rfl rfl fun _ h => h
  have hready : Beside c t (tick s) (readied s m) := beside_modTh (fun _ => rfl) hc
  exact htick.trans (hready.trans (beside_readied c t m s))

theorem Thread.setG_xfers (x : Thread) (r : Nat) (w : W64) : (x.setG r w).xfers = x.xfers := by
  unfold Thread.setG; split <;> rfl

theorem beside_releaseWith {m : Nat} (hc : c → m ≠ t) (r : Nat) (w : W64) : Beside c t s (releaseWith s m r w) :=
  (beside_modTh (fun x => Thread.setG_xfers x r w) hc).trans (beside_toReady hc)

theorem beside_readyAgain {m : Nat} (hc : c → m ≠ t) : Beside c t s (readyAgain s m) :=
  (beside_toReady hc).trans (beside_modTh (f := fun x => { x with cont := (th s m).cont }) (fun _ => rfl) hc)

theorem beside_waitNext {m : Nat} (hc : c → m ≠ t) (w : Why × Nat) : Beside c t s (waitNext s m w) := beside_modTh (fun _ => rfl) hc

/-! Buffers are given, freed and passed on (R188, R254 to R262) -/

theorem hostFace_fellBack (s : State) : hostFace (addSat s BUF_FBCNT_COUNT 1) = hostFace s := by
  have hv : linkRegs (addSat s BUF_FBCNT_COUNT 1) = linkRegs s :=
    filter_mset (p := fun k => decide (0x10000000 * 64 ≤ k)) _ _ _ (by decide)
  simp only [hostFace, hv, addSat_ctx, addSat_link, addSat_sent]

theorem clearBuf_outside (s : State) (b : Buf) : hostFace (clearBuf s b) = hostFace s ∧ (clearBuf s b).thr = s.thr ∧
    (clearBuf s b).buf.reqs = s.buf.reqs := by
  unfold clearBuf; split <;> exact ⟨rfl, rfl, rfl⟩

theorem beside_giveBuf (m p : Nat) (wb : Bool) (i : Nat) : Beside c t s (giveBuf s m p wb i).2 := by
  obtain ⟨hh, ht, hq⟩ := clearBuf_outside s ⟨p, wb, i, [m], m, false⟩
  exact beside_of_thr hh ht fun q h => hq ▸ h

theorem beside_fellBack : Beside c t s (addSat s BUF_FBCNT_COUNT 1) :=
  beside_of_thr (hostFace_fellBack s) (addSat_thr ..) fun q h => by rwa [addSat_buf] at h

theorem beside_with_split (l : List Nat) : Beside c t s { s with buf := { s.buf with split := l } } :=
  beside_of_thr rfl rfl fun _ h => h

theorem beside_tryAlloc {m p h : Nat} {wb : Bool} (e : tryAlloc s m p wb = some (h, u)) : Beside c t s u := by
  have hgive : ∀ (v : State) p wb i, Beside c t s v → giveBuf v m p wb i = (h, u) → Beside c t s u :=
    fun v p wb i hv hg => by
      have hu : u = (giveBuf v m p wb i).2 := by rw [hg]
      rw [hu]
      exact hv.trans (beside_giveBuf ..)
  unfold tryAlloc at e
  split at e
  · cases e
  split at e
  · split at e
    · obtain ⟨i, -, hi⟩ := Option.map_eq_some_iff.1 e
      exact hgive _ _ _ _ (.refl ..) hi
    · split at e
      · exact hgive _ _ _ _ (.refl ..) (Option.some.inj e)
      · obtain ⟨i, -, hi⟩ := Option.map_eq_some_iff.1 e
        exact hgive _ _ _ _ ((beside_with_split _).trans beside_fellBack) hi
  · obtain ⟨p', -, hp⟩ := Option.bind_eq_some_iff.1 e
    split at hp
    · cases hp
    · obtain ⟨i, -, hi⟩ := Option.map_eq_some_iff.1 hp
      refine hgive _ _ _ _ ?_ hi
      split
      · exact .refl ..
      · exact beside_fellBack

/-- A request is met or given up. -/
theorem beside_with_reqs (p : BufReq → Bool) (l : List Nat) :
    Beside c t s { s with buf := { s.buf with flushq := l, reqs := s.buf.reqs.filter p } } :=
  beside_of_thr rfl rfl fun _ h => List.mem_of_mem_filter h

theorem beside_setBuf (h : Nat) (b : Option Buf) : Beside c t s (setBuf s h b) := beside_of_thr rfl rfl fun _ h => h

theorem beside_servePass (hc : c → ∀ q ∈ s.buf.reqs, q.t ≠ t) : Beside c t s (servePass s) := by
  unfold servePass
  refine beside_foldl _ s fun v r hr _ => ?_
  have hrt : c → r.t ≠ t := fun h => hc h r hr
  split
  · split
    · exact .refl ..
    · next h q _ =>
      refine (beside_with_reqs (· != r) q).trans ?_
      dsimp only
      split <;> split
      · exact (beside_setBuf ..).trans (beside_releaseWith hrt ..)
      · exact beside_releaseWith hrt ..
      · exact beside_setBuf ..
      · exact .refl ..
  · split
    · exact .refl ..
    · next h w e =>
      refine (beside_tryAlloc e).trans ((beside_with_reqs (· != r) w.buf.flushq).trans ?_)
      dsimp only
      split
      · exact beside_releaseWith hrt ..
      · exact beside_toReady hrt

theorem beside_serveBufs (hc : c → ∀ q ∈ s.buf.reqs, q.t ≠ t) : Beside c t s (serveBufs s) :=
  beside_foldl _ s fun _ _ _ hv => beside_servePass fun h q hq => hc h q (hv.reqs q hq)

theorem beside_freeBuf (hc : c → ∀ q ∈ s.buf.reqs, q.t ≠ t) (h : Nat) : Beside c t s (freeBuf s h) := by
  unfold freeBuf
  split
  · exact .refl ..
  · dsimp only
    have hgone := beside_setBuf (c := c) (t := t) (s := s) h none
    have hflush (v : State) (hv : Beside c t s v) (l : List Nat) :
        Beside c t s (serveBufs { v with buf := { v.buf with flushq := l } }) := by
      have hl : Beside c t v { v with buf := { v.buf with flushq := l } } := beside_of_thr rfl rfl fun _ h => h
      exact hv.trans (hl.trans (beside_serveBufs fun hh q hq => hc hh q (hv.reqs q hq)))
    refine hflush _ ?_ _
    split
    · exact hgone.trans (beside_with_split _)
    · exact hgone

theorem beside_dropReq (hc : c → ∀ q ∈ s.buf.reqs, q.t ≠ t) (m : Nat) : Beside c t s (dropReq s m) := by
  unfold dropReq
  split
  · have h1 := beside_with_reqs (c := c) (t := t) (s := s) (fun r => r.t != m) s.buf.flushq
    exact h1.trans (beside_serveBufs fun h q hq => hc h q (h1.reqs q hq))
  · exact .refl ..

theorem beside_unparkCharge (m : Nat) : Beside c t s (unparkCharge s m) := by
  unfold unparkCharge
  split
  · exact beside_of_thr rfl rfl fun _ h => h
  · exact .refl ..

/-! Threads that wait in BFREE look again (R155, R188) -/

theorem beside_bfreeStep {m : Nat} (hm : c → m ≠ t) (hc : c → ∀ q ∈ s.buf.reqs, q.t ≠ t) (h : Nat) :
    Beside c t s (bfreeStep s m h) := by
  unfold bfreeStep
  split
  · exact beside_readyAgain hm
  · split
    · exact beside_waitNext hm _
    · exact beside_waitNext hm _
    · exact (beside_freeBuf hc h).trans (beside_toReady hm)

/-- A thread that asks for no buffer and does not stand at BFREE rests. -/
theorem beside_wakeBfree (hc : c → (∀ q ∈ s.buf.reqs, q.t ≠ t) ∧ ∀ h, (th s t).cont ≠ .bfree h) : Beside c t s (wakeBfree s) := by
  refine beside_foldl _ s fun v m _ hv => ?_
  split
  · next h hk =>
    refine beside_bfreeStep (fun hh => ?_) (fun hh q hq => (hc hh).1 q (hv.reqs q hq)) h
    rintro rfl
    have hcont : (th v m).cont = (th s m).cont := congrArg (fun x => x.2.1) (hv.rest hh)
    exact (hc hh).2 h (hcont ▸ hk)
  · exact .refl ..

end

/-! ### Withdrawal as the hosts see it (R159) -/

section
variable (s : State) (t : Nat)

/-- A port once a thread is withdrawn: its places in the queue of page requests go, its indices stay taken. -/
def Port.withdrawn (t : Nat) (x : Port) : Port :=
  { x with waiters := x.waiters.filter fun w => w.1 != t
           groups := x.groups.map fun g => (g.1, g.2.map fun x => if x.1 = t then (9999, x.2) else x) }

theorem mget_mapped {α : Type} {d : α} {f : α → α} (hd : f d = d) (m : NMap α) (i : Nat) :
    mget d (m.map fun e => (e.1, f e.2)) i = f (mget d m i) := by
  induction m with
  | nil => exact hd.symm
  | cons e m ih =>
    rw [List.map_cons, mget, mget, ih]
    split <;> rfl

/-- A withdrawal ends with the thread's places at the ports. -/
theorem hostFace_withdraw : hostFace (withdraw s t) = (linkRegs s, s.ctx, s.link.map fun e => (e.1, e.2.withdrawn t), s.sent) := by
  have h : hostFace (unparkCharge (dropReq s t) t) = hostFace s :=
    ((beside_dropReq (c := False) (t := t) False.elim t).trans (beside_unparkCharge t)).host
  obtain ⟨hv, hx, hl, hs⟩ : _ ∧ _ ∧ _ ∧ _ := by simpa only [hostFace, Prod.mk.injEq] using h
  rw [← hv, ← hx, ← hl, ← hs]
  rfl

theorem linkRegs_withdraw : linkRegs (withdraw s t) = linkRegs s := congrArg Prod.fst (hostFace_withdraw s t)
theorem withdraw_ctx : (withdraw s t).ctx = s.ctx := congrArg (fun x => x.2.1) (hostFace_withdraw s t)
theorem withdraw_sent : (withdraw s t).sent = s.sent := congrArg (fun x => x.2.2.2) (hostFace_withdraw s t)

theorem port_withdraw (p : Nat) : port (withdraw s t) p = (port s p).withdrawn t := by
  have hl : (withdraw s t).link = s.link.map fun e => (e.1, e.2.withdrawn t) := congrArg (fun x => x.2.2.1) (hostFace_withdraw s t)
  rw [port, hl, mget_mapped (f := Port.withdrawn t) rfl, port]

end

end Sys2Proof.Machine
end
section
/-! PROOFS. Task registers and aborts, decided at the state word. -/
namespace Sys2Proof.Machine
open Sys2Proof Sys2Proof.Safety

/-! ### A task-register write (R96, R97, R113) -/

section
variable {s : State} {p c block : Nat}

/-- A DMWr is answered, a posted write is not (R97). -/
def answered (s : State) (d : Bool) (p c k : Nat) : State := if d then send s (.dmwr p c k) else s

/-- The form in which a task-register write arrives. -/
def formOf (d : Bool) : WForm := if d then .dmwr else .posted

theorem answered_sent (s : State) (d : Bool) (p c k : Nat) :
    (answered s d p c k).sent = if d then Msg.dmwr p c k :: s.sent else s.sent := by
  cases d <;> rfl

/-- An answer leaves all but the messages sent. -/
theorem answered_keeps {γ : Type} (g : State → γ) (h : ∀ s m, g (send s m) = g s) (s : State) (d : Bool) (p c k : Nat) :
    g (answered s d p c k) = g s := by
  cases d
  · rfl
  · exact h ..

theorem exec_taskRegisterWrite_whole (hu : portUp s p = true) (hf : flag s (HLV_STAT_CFG_ONLY p) = false) (hc : c < 4096) (d : Bool) :
    exec (.taskRegisterWrite p (formOf d) c block true none) s = .next (
      if (acceptBlock s c p (block % 2 ^ 512)).1 = 1 then acceptedBlock (answered (acceptBlock s c p (block % 2 ^ 512)).2 d p c 0) c
      else if d then addSat (answered (acceptBlock s c p (block % 2 ^ 512)).2 d p c 1) (HLV_REFUSED_COUNT p) 1
      else (acceptBlock s c p (block % 2 ^ 512)).2) := by
  refine (next_act (by simp [hu, hc])).trans ?_
  cases d <;> simp [hf, formOf, answered]

theorem exec_taskRegisterWrite_configOnly (hu : portUp s p = true) (hc : c < 4096) (hf : flag s (HLV_STAT_CFG_ONLY p) = true)
    (d whole : Bool) (poison : Option Nat) :
    exec (.taskRegisterWrite p (formOf d) c block whole poison) s = .next (if d then send s (.unsupported p) else s) := by
  refine (next_act (by simp [hu, hc])).trans ?_
  cases d <;> simp [hf, formOf]

theorem exec_taskRegisterWrite_partial (hu : portUp s p = true) (hf : flag s (HLV_STAT_CFG_ONLY p) = false) (hc : c < 4096)
    (d : Bool) (poison : Option Nat) :
    exec (.taskRegisterWrite p (formOf d) c block false poison) s =
      .next (if d then send s (.unsupported p) else addSat s (HLV_MALFORMED_COUNT p) 1) := by
  refine (next_act (by simp [hu, hc])).trans ?_
  cases d <;> simp [hf, formOf]

theorem exec_taskRegisterWrite_poisoned (hu : portUp s p = true) (hf : flag s (HLV_STAT_CFG_ONLY p) = false) (hc : c < 4096)
    (d : Bool) (hdr : Nat) :
    exec (.taskRegisterWrite p (formOf d) c block true (some hdr)) s =
      .next (logEv (if d then send s (.dmwr p c 2) else aerError s p 12 hdr) 0 11 [c]) := by
  refine (next_act (by simp [hu, hc])).trans ?_
  cases d <;> simp [hf, formOf]

/-! Acceptance (R113) -/

/-- The state word as a refused write leaves it. -/
def refusedAt (s : State) (c k : Nat) : State := setCx s c { cx s c with last := k }

theorem acceptBlock_closed (h : s.d.closed = true) : acceptBlock s c p block = (3, refusedAt s c 3) := by
  unfold acceptBlock
  dsimp only
  rw [if_pos h, refusedAt]

theorem acceptBlock_unbound (h : s.d.closed = false) (hb : boundOf s c = false) : acceptBlock s c p block = (4, refusedAt s c 4) := by
  unfold acceptBlock
  dsimp only
  rw [if_neg (by simp [h]), if_pos (by simp [hb]), refusedAt]

theorem acceptBlock_busy (h : s.d.closed = false) (hb : boundOf s c = true) (hi : (th s c).st ≠ .idle) :
    acceptBlock s c p block = (2, refusedAt s c 2) := by
  unfold acceptBlock
  dsimp only
  rw [if_neg (by simp [h]), if_neg (by simp [hb]), if_pos (by simpa using hi), refusedAt]

/-- A refusal shows in the state word; a DMWr is answered with it and counted. -/
theorem taskRegisterWrite_refused (hu : portUp s p = true) (hf : flag s (HLV_STAT_CFG_ONLY p) = false) (hc : c < 4096) (d : Bool) {k : Nat}
    (hk : k ≠ 1) (ha : acceptBlock s c p (block % 2 ^ 512) = (k, refusedAt s c k)) :
    ∃ u, exec (.taskRegisterWrite p (formOf d) c block true none) s = .next u ∧ cx u c = { cx s c with last := k } ∧
      ContextsKept c s u ∧ u.thr = s.thr ∧ u.sent = (if d then Msg.dmwr p c 1 :: s.sent else s.sent) ∧
      (d = true → getF u (HLV_REFUSED_COUNT p) =
        min (getF s (HLV_REFUSED_COUNT p) + 1) (2 ^ (HLV_REFUSED_COUNT p).w - 1) % 2 ^ (HLV_REFUSED_COUNT p).w) := by
  have hx := exec_taskRegisterWrite_whole (block := block) hu hf hc d
  rw [ha, if_neg hk] at hx
  refine ⟨_, hx, ?_⟩
  cases d with
  | false => exact ⟨cx_setCx_same .., fun m hm => cx_setCx_other s _ hm, rfl, rfl, fun h => by cases h⟩
  | true =>
    have hctx : (addSat (answered (refusedAt s c k) true p c 1) (HLV_REFUSED_COUNT p) 1).ctx = (refusedAt s c k).ctx := addSat_ctx ..
    have hcx (m : Nat) : cx (addSat (answered (refusedAt s c k) true p c 1) (HLV_REFUSED_COUNT p) 1) m = cx (refusedAt s c k) m := by
      rw [cx, hctx, cx]
    exact ⟨(hcx c).trans (cx_setCx_same ..), fun m hm => (hcx m).trans (cx_setCx_other s _ hm), addSat_thr .., addSat_sent ..,
      fun _ => getF_addSat_same ..⟩

/-- What acceptance does: the block is latched, the command numbered, its thread ARMED. -/
structure Accepted (s : State) (p c block : Nat) (u : State) : Prop where
  latched : (cx u c).block = block
  last : (cx u c).last = 1
  seq : (cx u c).seq = ((cx s c).seq + 1) % 2 ^ 16
  tag : (cx u c).tag = bits block 16 16
  commit : (cx u c).commit = false
  port : (cx u c).port = p
  owed : (cx u c).owed = owedNow s block
  armed : (th u c).st = .armed
  units : (th u c).units = 0
  contexts : ContextsKept c s u
  threads : ThreadsKept c s u
  sent : u.sent = s.sent
  regs : ∀ f, getF u f = getF s f

theorem acceptBlock_idle (h : s.d.closed = false) (hb : boundOf s c = true) (hi : (th s c).st = .idle) :
    ∃ u, acceptBlock s c p block = (1, u) ∧ Accepted s p c block u := by
  unfold acceptBlock
  dsimp only
  rw [if_neg (by simp [h]), if_neg (by simp [hb]), if_neg (by simp [hi])]
  refine ⟨_, rfl, ?_⟩
  have hcx (x : Ctx) (f : Thread → Thread) : cx (modTh (setCx s c x) c f) c = x := cx_setCx_same ..
  exact { latched := by rw [hcx], last := by rw [hcx], seq := by rw [hcx], tag := by rw [hcx], commit := by rw [hcx],
          port := by rw [hcx], owed := by rw [hcx], armed := by rw [th_modTh_same], units := by rw [th_modTh_same],
          contexts := fun m hm => cx_setCx_other s _ hm, threads := fun m hm => th_modTh_other _ _ hm,
          sent := rfl, regs := fun _ => rfl }

/-- Outside a cascade's master a command has no parts (R449). -/
theorem splitCommand_whole (h : flag s CAS_STAT_MASTER = false) : splitCommand s c = s := by
  have hs : splitOf s c = [] := by unfold splitOf; simp [h]
  unfold splitCommand
  rw [hs]
  rfl

theorem acceptedBlock_plain (hm : mode s ≠ mBanked) (h : flag s CAS_STAT_MASTER = false) : acceptedBlock s c = s := by
  rw [acceptedBlock, wake_awake _ hm]
  exact splitCommand_whole h

theorem taskRegisterWrite_accepted (hu : portUp s p = true) (hf : flag s (HLV_STAT_CFG_ONLY p) = false) (hc : c < 4096) (d : Bool)
    (h : s.d.closed = false) (hb : boundOf s c = true) (hi : (th s c).st = .idle) (hm : mode s ≠ mBanked)
    (hmast : flag s CAS_STAT_MASTER = false) :
    ∃ v, Accepted s p c (block % 2 ^ 512) v ∧
      exec (.taskRegisterWrite p (formOf d) c block true none) s = .next (answered v d p c 0) := by
  obtain ⟨v, ha, hv⟩ := acceptBlock_idle (p := p) (block := block % 2 ^ 512) h hb hi
  have hg (f : Fld) : getF (answered v d p c 0) f = getF s f :=
    (answered_keeps (getF · f) (fun _ _ => rfl) v d p c 0).trans (hv.regs f)
  refine ⟨v, hv, ?_⟩
  rw [exec_taskRegisterWrite_whole hu hf hc d, ha, if_pos rfl, acceptedBlock_plain]
  · rwa [mode, hg]
  · rwa [flag, hg]

end

/-! ### An abort (R142) -/

section
variable {s : State} {p c seq : Nat}

/-- The abort outcome as the context page shows it. -/
def abortShown (s : State) (c q o det : Nat) : State := setCx s c { cx s c with abSeq := q, abOut := o, abDetail := det }

theorem exec_ctxAbortWrite (hu : portUp s p = true) (hf : flag s (HLV_STAT_CFG_ONLY p) = false) (hc : c < 4096) :
    exec (.ctxAbortWrite p c seq) s = .next (
      if (cx (abortWrite s c (seq % 2 ^ 16)) c).abPend && !(cx s c).abPend then abortParts (abortWrite s c (seq % 2 ^ 16)) c
      else abortWrite s c (seq % 2 ^ 16)) :=
  next_act (by simp [portOpen, hu, hf, hc])

/-- A row of R142 that takes no abort shows its outcome and nothing else. -/
theorem ctxAbortWrite_notTaken (hu : portUp s p = true) (hf : flag s (HLV_STAT_CFG_ONLY p) = false) (hc : c < 4096) {o det : Nat}
    (h : abortWrite s c (seq % 2 ^ 16) = abortShown s c (seq % 2 ^ 16) o det) :
    ∃ u, exec (.ctxAbortWrite p c seq) s = .next u ∧ u = abortShown s c (seq % 2 ^ 16) o det ∧ (cx u c).abPend = (cx s c).abPend := by
  have hp : (cx (abortShown s c (seq % 2 ^ 16) o det) c).abPend = (cx s c).abPend := by rw [abortShown, cx_setCx_same]
  refine ⟨_, exec_ctxAbortWrite hu hf hc, ?_⟩
  rw [h, hp, Bool.and_not_self, if_neg Bool.false_ne_true]
  exact ⟨rfl, hp⟩

variable {q : Nat}

theorem abortWrite_otherSeq (h : q ≠ (cx s c).seq) : abortWrite s c q = abortShown s c q 0x11 0 := by
  unfold abortWrite
  dsimp only
  rw [if_pos (by simpa using h)]
  rfl

/-- The rows of R142 below the first two, for an abort that is the first of its command. -/
theorem abortWrite_fresh (h : q = (cx s c).seq) (hp : (cx s c).abPend = false)
    (hn : ¬ ((cx s c).abOut = 0x40 ∧ (cx s c).abSeq = q ∧ inFlight s c = false)) :
    abortWrite s c q =
      if inFlight s c = true ∧ (cx s c).commit = false ∧ (th s c).withHelm = false then
        modCx (discard s c 0x40 0 none) c fun y => { y with abSeq := q, abOut := 0x40, abDetail := 0, abPend := true }
      else if (th s c).st = .idle ∨ (th s c).st = .done ∨ (th s c).st = .faulted then abortShown s c q 0x44 1
      else if (cx s c).commit = true then abortShown s c q 0x44 2 else abortShown s c q 0x44 3 := by
  have h2 : ((cx s c).abPend || (decide ((cx s c).abOut = 0x40) && decide ((cx s c).abSeq = q) && !inFlight s c)) = false := by
    cases hi : inFlight s c <;> simp_all
  unfold abortWrite
  dsimp only
  rw [if_neg (by simp [h]), if_neg (by simp only [h2, Bool.false_eq_true, not_false_eq_true])]
  simp only [Bool.and_eq_true, Bool.not_eq_true', Bool.or_eq_true, decide_eq_true_eq, and_assoc, or_assoc]
  rfl

theorem st_of_inFlight (h : inFlight s c = true) : ¬ ((th s c).st = .idle ∨ (th s c).st = .done ∨ (th s c).st = .faulted) := by
  simp only [inFlight, Bool.and_eq_true, Bool.or_eq_true, decide_eq_true_eq] at h
  rintro (h' | h' | h') <;> simp [h'] at h

/-- What a discard does to a command short of its end (R133). -/
theorem discard_flying (h : inFlight s c = true) (hh : s.keep.held.any (fun h => h.1 = c) = false) (cls det : Nat) (off : Option Nat) :
    discard s c cls det off = modTh (withdraw s c) c fun x =>
      { x with st := .done, why := .none, cont := .nothing, ending := some ⟨cls, det, off, 0⟩, cut := some ⟨cls, det, off, 0⟩ } := by
  unfold discard
  rw [if_neg (by rw [h, hh, Bool.and_false]; simp)]

theorem cas_of_spared {s u : State} (h : spared u = spared s) : u.x.cas = s.x.cas := (congrArg (fun p : Spared => p.x.cas) h :)

/-- An abort before the commit point discards the command. -/
theorem ctxAbortWrite_taken (hu : portUp s p = true) (hf : flag s (HLV_STAT_CFG_ONLY p) = false) (hc : c < 4096)
    (h : seq % 2 ^ 16 = (cx s c).seq) (hp : (cx s c).abPend = false)
    (hfly : inFlight s c = true ∧ (cx s c).commit = false ∧ (th s c).withHelm = false)
    (hh : s.keep.held.any (fun h => h.1 = c) = false) (hparts : partsOf s c = []) :
    ∃ u, exec (.ctxAbortWrite p c seq) s = .next u ∧ (th u c).st = .done ∧ (th u c).ending = some ⟨0x40, 0, none, 0⟩ ∧
      (cx u c).abOut = 0x40 ∧ (cx u c).abPend = true ∧ ContextsKept c s u := by
  have hfly' := hfly
  obtain ⟨hin, -, -⟩ := hfly'
  have hw := (abortWrite_fresh h hp (by simp [hin])).trans (if_pos hfly)
  have hx := exec_ctxAbortWrite (seq := seq) hu hf hc
  rw [hw] at hx
  have hparts' : partsOf (modCx (discard s c 0x40 0 none) c fun y =>
      { y with abSeq := seq % 2 ^ 16, abOut := 0x40, abDetail := 0, abPend := true }) c = [] := by
    rw [partsOf, cas_of_spared ((spared_modCx ..).trans (spared_discard ..))]
    exact hparts
  have hctx (m : Nat) : cx (discard s c 0x40 0 none) m = cx s m := by
    rw [discard_flying hin hh]
    show mget Ctx.reset (withdraw s c).ctx m = _
    rw [withdraw_ctx]
    rfl
  rw [cx_modCx_same, hp, Bool.not_false, Bool.and_self, if_pos rfl, abortParts, hparts', if_pos List.isEmpty_nil] at hx
  refine ⟨_, hx, ?_, ?_, ?_, ?_, fun m hm => ?_⟩
  · show (th (discard s c 0x40 0 none) c).st = _
    rw [discard_flying hin hh, th_modTh_same]
  · show (th (discard s c 0x40 0 none) c).ending = _
    rw [discard_flying hin hh, th_modTh_same]
  · rw [cx_modCx_same]
  · rw [cx_modCx_same]
  · rw [cx_modCx_other _ _ hm, hctx]

end

/-- Settles O45: the first of R113's refusals that holds, else the acceptance; the first row of R142 that matches. -/
theorem taskRegisters : Obligations.TaskRegisters := by
  intro s p c block seq d form w open_ out q flying fresh abort refused
  refine ⟨fun ⟨hu, hf, hc⟩ h => ?_, fun ⟨hu, hf, hc⟩ h hb => ?_, fun ⟨hu, hf, hc⟩ h hb hi => ?_,
    fun ⟨hu, hf, hc⟩ h hb hi hm hmast => ?_,
    fun whole poison hu hc hf => exec_taskRegisterWrite_configOnly hu hc hf d whole poison,
    fun poison ⟨hu, hf, hc⟩ hd => ?_,
    fun poison ⟨hu, hf, hc⟩ hd => ?_, fun hdr ⟨hu, hf, hc⟩ => exec_taskRegisterWrite_poisoned hu hf hc d hdr,
    fun ⟨hu, hf, hc⟩ hq => ctxAbortWrite_notTaken hu hf hc (abortWrite_otherSeq hq),
    fun ⟨hu, hf, hc⟩ hq ⟨hp, _⟩ hfly hh hparts => ctxAbortWrite_taken hu hf hc hq hp hfly hh hparts,
    fun ⟨hu, hf, hc⟩ hq ⟨hp, hn⟩ hfly hst => ?_, fun ⟨hu, hf, hc⟩ hq ⟨hp, hn⟩ hin hcm => ?_,
    fun ⟨hu, hf, hc⟩ hq ⟨hp, hn⟩ hin hcm hh => ?_⟩
  · exact taskRegisterWrite_refused hu hf hc d (by decide) (acceptBlock_closed h)
  · exact taskRegisterWrite_refused hu hf hc d (by decide) (acceptBlock_unbound h hb)
  · exact taskRegisterWrite_refused hu hf hc d (by decide) (acceptBlock_busy h hb hi)
  · obtain ⟨v, hv, hx⟩ := taskRegisterWrite_accepted (block := block) hu hf hc d h hb hi hm hmast
    have hcx (m : Nat) : cx (answered v d p c 0) m = cx v m := answered_keeps (cx · m) (fun _ _ => rfl) ..
    have hth (m : Nat) : th (answered v d p c 0) m = th v m := answered_keeps (th · m) (fun _ _ => rfl) ..
    refine ⟨_, hx, ?_⟩
    rw [hcx, hth, answered_sent, hv.sent]
    refine ⟨hv.latched, hv.last, hv.seq, hv.tag, hv.commit, hv.port, fun h5 => ?_, hv.armed, hv.units,
      fun m hm => (hcx m).trans (hv.contexts m hm), fun m hm => (hth m).trans (hv.threads m hm), rfl⟩
    rw [hv.owed, owedNow, if_pos h5]
  · subst hd
    exact exec_taskRegisterWrite_partial hu hf hc false poison
  · subst hd
    exact exec_taskRegisterWrite_partial hu hf hc true poison
  · refine ctxAbortWrite_notTaken hu hf hc ?_
    rw [abortWrite_fresh hq hp hn, if_neg hfly, if_pos hst]
  · refine ctxAbortWrite_notTaken hu hf hc ?_
    rw [abortWrite_fresh hq hp hn, if_neg (by simp [hcm]), if_neg (st_of_inFlight hin), if_pos hcm]
  · refine ctxAbortWrite_notTaken hu hf hc ?_
    rw [abortWrite_fresh hq hp hn, if_neg (by simp [hh]), if_neg (st_of_inFlight hin), if_neg (by simp [hcm])]

end Sys2Proof.Machine
end
section
/-! PROOFS. Ports that train and go down, link errors, poisoned and malformed requests. -/
namespace Sys2Proof.Machine
open Sys2Proof Sys2Proof.Safety

/-! ### The AER record of a port (R107) -/

/-- A bit that was set reads set. -/
theorem bit_putBits_set (v b : Nat) : bit (putBits v b 1 1) b = true := by
  have hp : 0 < 2 ^ b := Nat.two_pow_pos b
  have hle : v / 2 ^ b % 2 ≤ v / 2 ^ b := Nat.mod_le ..
  have hv : v - v / 2 ^ b % 2 * 2 ^ b + 2 ^ b = v % 2 ^ b + 2 ^ b * (v / 2 ^ b - v / 2 ^ b % 2 + 1) := by
    have hdm := Nat.mod_add_div v (2 ^ b)
    have hmul : v / 2 ^ b % 2 * 2 ^ b ≤ v / 2 ^ b * 2 ^ b := Nat.mul_le_mul_right _ hle
    rw [Nat.mul_add, Nat.mul_one, Nat.mul_sub, Nat.mul_comm (2 ^ b) (v / 2 ^ b % 2), Nat.mul_comm (2 ^ b) (v / 2 ^ b)]
    rw [Nat.mul_comm (2 ^ b)] at hdm
    omega
  have hdiv : (v - v / 2 ^ b % 2 * 2 ^ b + 2 ^ b) / 2 ^ b = v / 2 ^ b - v / 2 ^ b % 2 + 1 := by
    rw [hv, Nat.add_mul_div_left _ _ hp, Nat.div_eq_of_lt (Nat.mod_lt _ hp), Nat.zero_add]
  simp only [bit, putBits, bits, beq_iff_eq, Nat.pow_one, Nat.one_mod, Nat.one_mul, hdiv]
  omega

section
variable {s : State} {p hdr : Nat}

theorem port_aerError (b : Nat) : port (aerError s p b hdr) p =
    { port s p with aerUncorr := putBits (port s p).aerUncorr b 1 1,
                    aerHdr := if (port s p).aerUncorr = 0 then hdr % 2 ^ 128 else (port s p).aerHdr } := port_setPort_same ..

theorem port_aerError_other {q : Nat} (h : q ≠ p) (b : Nat) : port (aerError s p b hdr) q = port s q := port_setPort_other s _ h

theorem aerError_frame (b : Nat) : aerError s p b hdr = setPort s p (port (aerError s p b hdr) p) := by
  rw [port_aerError]; rfl

/-- An uncorrectable error: its bit, and the header of the first. -/
theorem aerError_effect (b : Nat) : bit (port (aerError s p b hdr) p).aerUncorr b = true ∧
    ((port s p).aerUncorr = 0 → (port (aerError s p b hdr) p).aerHdr = hdr % 2 ^ 128) := by
  rw [port_aerError]
  exact ⟨bit_putBits_set .., fun h => if_pos h⟩

end

/-! ### A port trains (R88, R89) -/

section
variable {s : State} {p rate width : Nat} {flit l0p : Bool}

/-- The fields of a port's HLV_STAT do not meet. -/
theorem getF_setF_linkField {a b w w' d d' : Nat} (h : a ≠ b) (v : State) (p x : Nat) :
    getF (setF v ⟨(0x10000010 + 0x1000 * p) * 64 + b, w, d, false⟩ x) ⟨(0x10000010 + 0x1000 * p) * 64 + a, w', d', false⟩ =
      getF v ⟨(0x10000010 + 0x1000 * p) * 64 + a, w', d', false⟩ :=
  getF_setF_other _ _ (by simp [h])

/-- HLV_STAT as the training leaves it. -/
def statShown (s : State) (p rate width : Nat) (flit cfg l0p : Bool) : State :=
  setF (setF (setF (setF (setF s (HLV_STAT_RATE p) (if cfg then 0 else rate)) (HLV_STAT_WIDTH p) width) (HLV_STAT_FLIT p) (b2n flit))
    (HLV_STAT_CFG_ONLY p) (b2n cfg)) (HLV_STAT_L0P_EN p) (b2n l0p)

/-- A port that trained to this rate and FLIT mode takes configuration alone (R89). -/
def configAlone (rate : Nat) (flit : Bool) : Bool := decide (rate = 0) || !flit

theorem configAlone_iff : configAlone rate flit = true ↔ rate = 0 ∨ flit = false := by simp [configAlone]

theorem statShown_effect (s : State) (p : Nat) (hr : rate ≤ 3) (hw : width ≤ 16) (flit cfg l0p : Bool) :
    let u := statShown s p rate width flit cfg l0p
    getF u (HLV_STAT_RATE p) = (if cfg then 0 else rate) ∧ getF u (HLV_STAT_WIDTH p) = width ∧ getF u (HLV_STAT_FLIT p) = b2n flit ∧
      getF u (HLV_STAT_CFG_ONLY p) = b2n cfg ∧ getF u (HLV_STAT_L0P_EN p) = b2n l0p ∧
      RegsKept [HLV_STAT_RATE p, HLV_STAT_WIDTH p, HLV_STAT_FLIT p, HLV_STAT_CFG_ONLY p, HLV_STAT_L0P_EN p] s u := by
  have hb (b : Bool) : b2n b % 2 ^ 1 = b2n b := by cases b <;> rfl
  have hrate : (if cfg then 0 else rate) % 2 ^ 2 = if cfg then 0 else rate := by split <;> omega
  refine ⟨?_, ?_, ?_, ?_, getF_setF_same .. |>.trans (hb l0p), ?_⟩
  · iterate 4 refine (getF_setF_linkField (by decide) _ _ _).trans ?_
    exact (getF_setF_same ..).trans hrate
  · iterate 3 refine (getF_setF_linkField (by decide) _ _ _).trans ?_
    exact (getF_setF_same ..).trans (Nat.mod_eq_of_lt (show width < 32 by omega))
  · iterate 2 refine (getF_setF_linkField (by decide) _ _ _).trans ?_
    exact (getF_setF_same ..).trans (hb flit)
  · exact (getF_setF_linkField (by decide) _ _ _).trans ((getF_setF_same ..).trans (hb cfg))
  · exact regsKept_setF_trans (regsKept_setF_trans (regsKept_setF_trans (regsKept_setF_trans (regsKept_setF_trans (regsKept_refl _ s)
      (by simp) _) (by simp) _) (by simp) _) (by simp) _) (by simp) _

/-- The port as trained, with its registers. -/
def trained (s : State) (p rate width : Nat) (flit l0p : Bool) : State :=
  statShown (setPort s p { port s p with up := true, d3hot := false, width := width }) p rate width flit (configAlone rate flit) l0p

theorem exec_portTrained (hp : p ∈ ports s) (hm : mode s ≠ mOff) (hk : mode s = mKindle → 6 ≤ getF s HELM_KINDLE_STEP) (hr : rate ≤ 3)
    (hw : width ∈ [1, 2, 4, 8, 16]) (hs : width = 16 → s.boot.split = false) (hc : s.boot.casEn = false) :
    ∃ u, exec (.portTrained p rate width flit l0p) s = .next u ∧ port u p = port (trained s p rate width flit l0p) p ∧
      ∀ f, getF u f = getF (trained s p rate width flit l0p) f := by
  have hpast : kindlePast s 5 = true := by
    by_cases h : mode s = mKindle
    · have h6 := hk h
      simp only [kindlePast, Bool.or_eq_true, decide_eq_true_eq]
      omega
    · simp [kindlePast, h]
  have hsplit : (width != 16 || !s.boot.split) = true := by
    by_cases h : width = 16 <;> simp [h, hs]
  have hoff : (mode s != mOff) = true := bne_iff_ne.2 hm
  have hx : exec (.portTrained p rate width flit l0p) s = .next (
      if configAlone rate flit then logEv (trained s p rate width flit l0p) 0 10 [p] else trained s p rate width flit l0p) :=
    next_act (by simp only [List.contains_iff_mem.2 hp, List.contains_iff_mem.2 hw, hpast, hsplit, hr, hc, hoff, decide_true,
      Bool.not_false, Bool.true_or, Bool.and_self])
  refine ⟨_, hx, ?_⟩
  split
  · exact ⟨rfl, fun _ => rfl⟩
  · exact ⟨rfl, fun _ => rfl⟩

theorem trained_effect (s : State) (p : Nat) (hr : rate ≤ 3) (hw : width ≤ 16) (flit l0p : Bool) :
    let u := trained s p rate width flit l0p
    getF u (HLV_STAT_RATE p) = (if configAlone rate flit then 0 else rate) ∧ getF u (HLV_STAT_WIDTH p) = width ∧
      getF u (HLV_STAT_FLIT p) = b2n flit ∧ getF u (HLV_STAT_CFG_ONLY p) = b2n (configAlone rate flit) ∧
      getF u (HLV_STAT_L0P_EN p) = b2n l0p ∧
      RegsKept [HLV_STAT_RATE p, HLV_STAT_WIDTH p, HLV_STAT_FLIT p, HLV_STAT_CFG_ONLY p, HLV_STAT_L0P_EN p] s u :=
  statShown_effect _ p hr hw flit _ l0p

theorem port_trained : port (trained s p rate width flit l0p) p = { port s p with up := true, d3hot := false, width := width } := by
  simp only [port, trained, statShown, setF_link]
  exact port_setPort_same ..

end

/-! ### A port goes down (R91) -/

/-- What a port that goes down shows: the registers of the links, the messages sent, which ports are up. -/
def linkFace (s : State) : NMap Nat × List Msg × (Nat → Bool) :=
  (linkRegs s, s.sent, fun q => (port s q).up)

section
variable {s u : State} {p : Nat}

theorem linkFace_withdraw (s : State) (t : Nat) : linkFace (withdraw s t) = linkFace s := by
  have hup (q : Nat) : (port (withdraw s t) q).up = (port s q).up := by rw [port_withdraw]; rfl
  simp only [linkFace, linkRegs_withdraw, withdraw_sent, hup]

theorem linkFace_discard (s : State) (c cls det : Nat) (off : Option Nat) : linkFace (discard s c cls det off) = linkFace s := by
  unfold discard
  split
  · rfl
  · exact linkFace_withdraw s c

/-- One command of a port that went down (R91). -/
def cutOff (s : State) (c : Nat) : State :=
  let s := modCx s c fun x => { x with portGone := true }
  if (cx s c).commit then s else discard s c 0x41 1 none

theorem linkFace_cutOff (s : State) (c : Nat) : linkFace (cutOff s c) = linkFace s := by
  unfold cutOff
  dsimp only
  split
  · rfl
  · exact linkFace_discard ..

theorem getF_of_linkFace (h : linkFace u = linkFace s) {f : Fld} (hr : f.ret = false) (hk : 0x10000000 * 64 ≤ f.key) :
    getF u f = getF s f := by
  have hv : linkRegs u = linkRegs s := congrArg Prod.fst h
  have hread (v : State) : mget f.dflt (linkRegs v) f.key = mget f.dflt v.vf f.key := by
    rw [linkRegs, mget_filter_key _ _ fun k => decide (0x10000000 * 64 ≤ k), if_pos (decide_eq_true hk)]
  unfold getF
  rw [hr, if_neg Bool.false_ne_true, if_neg Bool.false_ne_true, ← hread u, hv, hread]

/-- The commands of the port are cut off. -/
def portCut (s : State) (p : Nat) : State := (portCmds s p).foldl cutOff s

theorem linkFace_portCut (s : State) (p : Nat) : linkFace (portCut s p) = linkFace s := foldl_field linkFace _ linkFace_cutOff _ s

/-- The port is down, and HLV_STAT shows no link. -/
def linkLost (v : State) (p : Nat) : State :=
  setF (setF (setF (setPort (aerError v p 5 0) p { port (aerError v p 5 0) p with up := false, d3hot := false })
    (HLV_STAT_RATE p) 0) (HLV_STAT_WIDTH p) 0) (HLV_STAT_FLIT p) 0

theorem exec_portDown (h : portUp s p = true) :
    exec (.portDown p) s = .next (addSat (linkLost (portCut s p) p) (HLV_DOWN_COUNT p) 1) := next_act h

theorem port_linkLost (v : State) (p q : Nat) : port (linkLost v p) q =
    port (setPort (aerError v p 5 0) p { port (aerError v p 5 0) p with up := false, d3hot := false }) q := by
  simp only [linkLost, port, setF_link]

theorem linkLost_up (v : State) (p : Nat) : (port (linkLost v p) p).up = false ∧ bit (port (linkLost v p) p).aerUncorr 5 = true ∧
    ∀ q, q ≠ p → port (linkLost v p) q = port v q := by
  refine ⟨?_, ?_, fun q hq => ?_⟩
  · rw [port_linkLost, port_setPort_same]
  · rw [port_linkLost, port_setPort_same]
    exact (aerError_effect 5).1
  · rw [port_linkLost, port_setPort_other _ _ hq, port_aerError_other hq]

/-- Of the link's registers RATE, WIDTH and FLIT fall. -/
theorem getF_linkLost (v : State) (p : Nat) : getF (linkLost v p) (HLV_STAT_RATE p) = 0 ∧ getF (linkLost v p) (HLV_STAT_WIDTH p) = 0 ∧
    getF (linkLost v p) (HLV_STAT_FLIT p) = 0 ∧ RegsKept [HLV_STAT_RATE p, HLV_STAT_WIDTH p, HLV_STAT_FLIT p] v (linkLost v p) := by
  refine ⟨?_, ?_, getF_setF_same .., ?_⟩
  · exact (getF_setF_linkField (by decide) ..).trans ((getF_setF_linkField (by decide) ..).trans (getF_setF_same ..))
  · exact (getF_setF_linkField (by decide) ..).trans (getF_setF_same ..)
  · have hport : RegsKept [HLV_STAT_RATE p, HLV_STAT_WIDTH p, HLV_STAT_FLIT p] v
        (setPort (aerError v p 5 0) p { port (aerError v p 5 0) p with up := false, d3hot := false }) := fun _ _ => rfl
    exact regsKept_setF_trans (regsKept_setF_trans (regsKept_setF_trans hport (by simp) _) (by simp) _) (by simp) _

theorem linkLost_sent (v : State) (p : Nat) : (linkLost v p).sent = v.sent := by simp only [linkLost, setF_sent]; rfl

/-- The registers of the links that a port going down keeps. -/
theorem getF_linkLost_kept {f : Fld} (hr : f.ret = false) (hk : 0x10000000 * 64 ≤ f.key)
    (hf : ∀ g ∈ [HLV_STAT_RATE p, HLV_STAT_WIDTH p, HLV_STAT_FLIT p], f.key ≠ g.key) : getF (linkLost (portCut s p) p) f = getF s f := by
  obtain ⟨-, -, -, hkept⟩ := getF_linkLost (portCut s p) p
  exact (hkept f fun g hg => by simp [hf g hg]).trans (getF_of_linkFace (linkFace_portCut s p) hr hk)

/-- Counting the loss leaves HLV_STAT (R91). -/
theorem getF_downCounted {k w d : Nat} (hk : k < 64) (v : State) (p : Nat) :
    getF (addSat v (HLV_DOWN_COUNT p) 1) ⟨(0x10000010 + 0x1000 * p) * 64 + k, w, d, false⟩ =
      getF v ⟨(0x10000010 + 0x1000 * p) * 64 + k, w, d, false⟩ :=
  getF_addSat_other _ 1 (by simp [HLV_DOWN_COUNT]; omega)

/-- The fields of HLV_STAT above FLIT stay (log 103). -/
theorem getF_portDown_stat {k w d : Nat} (h8 : 8 ≤ k) (hk : k < 64) (s : State) (p : Nat) :
    getF (addSat (linkLost (portCut s p) p) (HLV_DOWN_COUNT p) 1) ⟨(0x10000010 + 0x1000 * p) * 64 + k, w, d, false⟩ =
      getF s ⟨(0x10000010 + 0x1000 * p) * 64 + k, w, d, false⟩ :=
  (getF_downCounted hk ..).trans (getF_linkLost_kept rfl (by simp only; omega)
    (by simp only [HLV_STAT_RATE, HLV_STAT_WIDTH, HLV_STAT_FLIT, List.forall_mem_cons]; simp; omega))

theorem getF_portDown_count (s : State) (p : Nat) : getF (addSat (linkLost (portCut s p) p) (HLV_DOWN_COUNT p) 1) (HLV_DOWN_COUNT p) =
    min (getF s (HLV_DOWN_COUNT p) + 1) (2 ^ (HLV_DOWN_COUNT p).w - 1) % 2 ^ (HLV_DOWN_COUNT p).w := by
  rw [getF_addSat_same, getF_linkLost_kept rfl (by simp only [HLV_DOWN_COUNT]; omega)
    (by simp only [HLV_DOWN_COUNT, HLV_STAT_RATE, HLV_STAT_WIDTH, HLV_STAT_FLIT, List.forall_mem_cons]; simp; omega)]

/-- The only command of the port, short of its commit point, is discarded. -/
theorem portCut_only {c : Nat} (hc : portCmds s p = [c]) (hcm : (cx s c).commit = false) (hin : inFlight s c = true)
    (hh : s.keep.held.any (fun h => h.1 = c) = false) :
    (th (portCut s p) c).st = .done ∧ (th (portCut s p) c).ending = some ⟨0x41, 1, none, 0⟩ ∧ (cx (portCut s p) c).portGone = true := by
  have hcut : portCut s p = discard (modCx s c fun x => { x with portGone := true }) c 0x41 1 none := by
    rw [portCut, hc]
    exact if_neg (by rw [cx_modCx_same]; simp [hcm])
  have hin' : inFlight (modCx s c fun x => { x with portGone := true }) c = true := hin
  have hctx : (discard (modCx s c fun x => { x with portGone := true }) c 0x41 1 none).ctx =
      (modCx s c fun x => { x with portGone := true }).ctx := by
    rw [discard_flying hin' hh]
    exact withdraw_ctx ..
  rw [hcut]
  refine ⟨?_, ?_, ?_⟩
  · rw [discard_flying hin' hh, th_modTh_same]
  · rw [discard_flying hin' hh, th_modTh_same]
  · rw [cx, hctx]
    exact congrArg Ctx.portGone (cx_modCx_same s c _)

end

/-! ### Link errors, poisoned and malformed requests (R94, R107) -/

section
variable {s : State} {p hdr : Nat} {read : Bool}

theorem exec_correctableLinkError (h : portUp s p = true) :
    exec (.correctableLinkError p) s = .next (setPort s p { port s p with aerCorr := putBits (port s p).aerCorr 0 1 1 }) := next_act h

theorem exec_poisonedPostedWrite (h : portOpen s p = true) :
    exec (.poisonedPostedWrite ⟨p, hdr⟩) s = .next (logEv (aerError s p 12 hdr) 0 11 []) := next_act h

theorem exec_malformedRequest_tlp (h : portUp s p = true) : exec (.malformedRequest p ⟨read, some hdr⟩) s = .next (aerError s p 18 hdr) :=
  next_act h

theorem exec_malformedRequest_configOnly (h : portUp s p = true) (ho : portOpen s p = false) :
    exec (.malformedRequest p ⟨read, none⟩) s = .next (if read then send s (.unsupported p) else s) := by
  refine (next_act h).trans ?_
  dsimp only
  rw [if_neg (by simp [ho])]

/-- A read is answered with zero. -/
def zeroRead (s : State) (p : Nat) (read : Bool) : State := if read then send s (.readData p 0 false) else s

theorem exec_malformedRequest_open (ho : portOpen s p = true) :
    exec (.malformedRequest p ⟨read, none⟩) s = .next (malformed (zeroRead s p read) p) := by
  refine (next_act (portUp_of_open ho)).trans ?_
  dsimp only
  rw [if_pos ho, zeroRead]

end

/-- Settles O47: the training by what it shows, the loss of a link by what is cut off and what falls, the errors by the AER record. -/
theorem hostLinks : Obligations.HostLinks := by
  intro s p c rate width hdr flit l0p read cfg
  refine ⟨fun hp hm hk hr hw hs hc => ?_, fun hu => ?_, fun hu hc hcm hin hh => ?_, fun hu => ?_, fun ho => ?_, fun hu => ?_,
    fun hu ho => exec_malformedRequest_configOnly hu ho, fun ho => ?_, fun hu => ⟨next_idle hu, fun r => next_idle hu⟩⟩
  · have hcfg : cfg ↔ configAlone rate flit = true := configAlone_iff.symm
    have hif {α : Type} (a b : α) [Decidable cfg] : (if cfg then a else b) = if configAlone rate flit then a else b := if_congr hcfg rfl rfl
    have hw16 : width ≤ 16 := by
      simp only [List.mem_cons, List.not_mem_nil, or_false] at hw
      omega
    obtain ⟨hrate, hwid, hflit, hco, hl, hkept⟩ := trained_effect s p hr hw16 flit l0p
    obtain ⟨u, hx, hport, hreg⟩ := exec_portTrained (flit := flit) (l0p := l0p) hp hm hk hr hw hs hc
    refine ⟨u, hx, ?_⟩
    rw [port_trained] at hport
    rw [hport, hif, hif, hreg, hreg, hreg, hreg, hreg]
    refine ⟨rfl, rfl, rfl, hrate, hwid, hflit, hco.trans ?_, hl, fun f hf => (hreg f).trans (hkept f hf)⟩
    cases configAlone rate flit <;> rfl
  · have hface := linkFace_portCut s p
    obtain ⟨hdown, haer, hothers⟩ := linkLost_up (portCut s p) p
    obtain ⟨hrate, hwid, hflit, hkept⟩ := getF_linkLost (portCut s p) p
    have hport (q : Nat) : port (addSat (linkLost (portCut s p) p) (HLV_DOWN_COUNT p) 1) q = port (linkLost (portCut s p) p) q := by
      rw [port, addSat_link, port]
    refine ⟨_, exec_portDown hu, ?_, fun q hq => ?_, (getF_downCounted (by decide) ..).trans hrate,
      (getF_downCounted (by decide) ..).trans hwid,
      (getF_downCounted (by decide) ..).trans hflit, ?_, fun f hf => ?_, ?_, ?_⟩
    · rw [hport, hdown]
    · rw [hport, hothers q hq]
      exact congrFun (congrArg (fun x => x.2.2) hface) q
    · rw [hport, haer]
    · simp only [List.mem_cons, List.not_mem_nil, or_false] at hf
      rcases hf with rfl | rfl | rfl <;> exact getF_portDown_stat (by decide) (by decide) ..
    · exact getF_portDown_count s p
    · rw [addSat_sent, linkLost_sent]
      exact congrArg (fun x => x.2.1) hface
  · obtain ⟨hst, hend, hgone⟩ := portCut_only hc hcm hin hh
    have hth : th (addSat (linkLost (portCut s p) p) (HLV_DOWN_COUNT p) 1) c = th (portCut s p) c := by
      simp only [th, addSat_thr, linkLost, setF_thr]; rfl
    have hcx : cx (addSat (linkLost (portCut s p) p) (HLV_DOWN_COUNT p) 1) c = cx (portCut s p) c := by
      simp only [cx, addSat_ctx, linkLost, setF_ctx]; rfl
    refine ⟨_, exec_portDown hu, ?_⟩
    rw [hth, hcx]
    exact ⟨hst, hend, hgone⟩
  · refine ⟨_, exec_correctableLinkError hu, ?_⟩
    rw [port_setPort_same]
    exact ⟨bit_putBits_set .., rfl⟩
  · obtain ⟨hbit, hhdr⟩ := aerError_effect (s := s) (p := p) (hdr := hdr) 12
    exact ⟨_, exec_poisonedPostedWrite ho, hbit, hhdr, congrArg (logEv · 0 11 []) (aerError_frame 12)⟩
  · obtain ⟨hbit, hhdr⟩ := aerError_effect (s := s) (p := p) (hdr := hdr) 18
    exact ⟨_, exec_malformedRequest_tlp hu, hbit, hhdr, aerError_frame 18⟩
  · have hz : (zeroRead s p read).sent = (if read then Msg.readData p 0 false :: s.sent else s.sent) ∧
        ∀ f, getF (zeroRead s p read) f = getF s f := by cases read <;> exact ⟨rfl, fun _ => rfl⟩
    obtain ⟨hsent, hreg⟩ := hz
    refine ⟨_, exec_malformedRequest_open ho, ?_, fun f hf => ?_, ?_⟩
    · rw [malformed, addSat_sent, hsent]
    · exact (regsKept_setF _ _ _ f hf).trans (hreg f)
    · rw [malformed, getF_addSat_same, hreg]

end Sys2Proof.Machine
end
section
/-! PROOFS. Host memory: how a transfer ends, resumes and moves. -/
namespace Sys2Proof.Machine
open Sys2Proof Sys2Proof.Safety

/-! ### A failed DMA (R103, R132, R194) -/

/-- Thread `t` waits for a transfer, or for the page of one. -/
def waitsDma (a : State) (t : Nat) : Prop := (th a t).why = .dma ∨ (th a t).why = .pagereq

/-- Transfer `n` of thread `t` failed with detail `det` at the frame it had reached: its number holds the status, or the XWAIT of the
thread has it. -/
def XferFailed (a : State) (t n det : Nat) (u : State) : Prop :=
  (∀ q ∈ a.buf.reqs, q.t ≠ t) → ∀ z, xferAt (th a t) n = some z →
    (¬ waitsDma a t → xferAt (th u t) n = some { z with ended := true, sv := xferFail 0x50 det (z.pos / 4096), page := none }) ∧
    ∀ rd, rd ≠ 0 → waitsDma a t → (th a t).cont = .xwait rd n → xferAt (th u t) n = none ∧
      (isHost t = true → (th u t).st = .ready) ∧ gr u t rd = svWord 0x50 det (some (z.pos / 4096))

section
variable {s : State} {t n det : Nat}

/-- The transfer's number holds its end. -/
def xferEnded (s : State) (t n sv : Nat) : State :=
  modTh s t fun x => { x with xfers := mset none x.xfers n ((xferAt x n).map fun y => { y with ended := true, sv := sv, page := none }) }

theorem endXfer_eq (s : State) (t n sv : Nat) : endXfer s t n sv = wakeBfree (wakeDma (xferEnded s t n sv) t n) := rfl

theorem hostFault_eq {z : Xfer} (h : xferAt (th s t) n = some z) :
    hostFault s t n det = endXfer (setXfer s t n (some { z with page := none })) t n (xferFail 0x50 det (z.pos / 4096)) := by
  rw [hostFault, h]

theorem th_xferEnded (sv : Nat) : th (xferEnded s t n sv) t =
    { th s t with
      xfers := mset none (th s t).xfers n ((xferAt (th s t) n).map fun y => { y with ended := true, sv := sv, page := none }) } :=
  th_modTh_same ..

theorem th_setXfer (y : Option Xfer) : th (setXfer s t n y) t = { th s t with xfers := mset none (th s t).xfers n y } := th_modTh_same ..

theorem wakeDma_idle (h : ¬ waitsDma s t) : wakeDma s t n = s := by
  have hw : ((th s t).why != .dma && (th s t).why != .pagereq) = true := by simpa [waitsDma] using h
  unfold wakeDma
  exact if_pos hw

/-- XWAIT returns the status and frees the number. -/
theorem wakeDma_xwait {rd : Nat} {y : Xfer} (h : waitsDma s t) (hc : (th s t).cont = .xwait rd n) (hy : xferAt (th s t) n = some y) :
    wakeDma s t n = releaseWith (dropXfer s t n) t rd (BitVec.ofNat 64 y.sv) := by
  have hw : ¬ ((th s t).why != .dma && (th s t).why != .pagereq) = true := by
    rcases h with h | h <;> simp [h]
  unfold wakeDma
  dsimp only
  rw [if_neg hw, hc]
  dsimp only
  rw [if_pos rfl, hy]

/-- A thread released with a result is READY, or held back by BANKED where it is internal, and does not wait any more. -/
theorem releaseWith_self (s : State) (t : Nat) {rd : Nat} (hr : rd ≠ 0) (w : W64) :
    (th (releaseWith s t rd w) t).xfers = (th s t).xfers ∧ gr (releaseWith s t rd w) t rd = w ∧
      (th (releaseWith s t rd w) t).cont = .nothing ∧ (isHost t = true → (th (releaseWith s t rd w) t).st = .ready) := by
  have hb := beside_readied True t t (modTh s t fun x => x.setG rd w)
  have hrest := hb.rest trivial
  simp only [repose, th_readied_same, th_modTh_same, Prod.mk.injEq] at hrest
  obtain ⟨hg, hcont, hst⟩ := hrest
  refine ⟨hb.xfers.trans ?_, ?_, hcont, fun hh => ?_⟩
  · rw [th_readied_same, th_modTh_same, Thread.setG_xfers]
  · show gr (toReady (modTh s t fun x => x.setG rd w) t) t rd = w
    rw [gr, if_neg hr, hg, Thread.setG, if_neg hr, mget_mset_same]
  · rw [if_pos hh, if_pos hh] at hst
    exact Option.some.inj hst

/-- Where no wait is for it, a transfer that ended keeps its number with the status (R194). -/
theorem xferAt_endXfer (h : ¬ waitsDma s t) (sv : Nat) : xferAt (th (endXfer s t n sv) t) n =
    (xferAt (th s t) n).map fun y => { y with ended := true, sv := sv, page := none } := by
  have hidle : ¬ waitsDma (xferEnded s t n sv) t := by rwa [waitsDma, th_xferEnded]
  rw [endXfer_eq, wakeDma_idle hidle, xferAt, (beside_wakeBfree (c := False) (t := t) False.elim).xfers, th_xferEnded, mget_mset_same]

/-- An XWAIT has the status of its transfer, whose number is free; the thread goes on (R155, R194). -/
theorem endXfer_xwait {rd : Nat} {y : Xfer} (hq : ∀ q ∈ s.buf.reqs, q.t ≠ t) (hr : rd ≠ 0) (hw : waitsDma s t)
    (hc : (th s t).cont = .xwait rd n) (hy : xferAt (th s t) n = some y) (sv : Nat) :
    xferAt (th (endXfer s t n sv) t) n = none ∧ (isHost t = true → (th (endXfer s t n sv) t).st = .ready) ∧
      gr (endXfer s t n sv) t rd = BitVec.ofNat 64 sv := by
  have hend : xferAt (th (xferEnded s t n sv) t) n = some { y with ended := true, sv := sv, page := none } := by
    rw [th_xferEnded, hy, xferAt, mget_mset_same]
    rfl
  have hwake := wakeDma_xwait (by rwa [waitsDma, th_xferEnded]) (by rwa [th_xferEnded]) hend
  obtain ⟨hxf, hg, hcont, hst⟩ := releaseWith_self (dropXfer (xferEnded s t n sv) t n) t hr (BitVec.ofNat 64 sv)
  have hbuf : (releaseWith (dropXfer (xferEnded s t n sv) t n) t rd (BitVec.ofNat 64 sv)).buf = s.buf := toReady_buf ..
  rw [endXfer_eq, hwake]
  dsimp only
  generalize releaseWith (dropXfer (xferEnded s t n sv) t n) t rd (BitVec.ofNat 64 sv) = w at hxf hg hcont hst hbuf
  have hb : Beside True t w (wakeBfree w) := beside_wakeBfree fun _ => ⟨by rwa [hbuf], fun h => by rw [hcont]; nofun⟩
  have hrest := hb.rest trivial
  simp only [repose, Prod.mk.injEq] at hrest
  obtain ⟨hg', -, hst'⟩ := hrest
  refine ⟨?_, fun hh => ?_, ?_⟩
  · rw [xferAt, hb.xfers, hxf, dropXfer, th_modTh_same, mget_mset_same]
  · rw [if_pos hh, if_pos hh] at hst'
    exact (Option.some.inj hst').trans (hst hh)
  · rw [gr, if_neg hr, hg', ← hg, gr, if_neg hr]

/-- A DMA failed at the frame it had reached. -/
theorem hostFault_failed (s : State) (t n det : Nat) : XferFailed s t n det (hostFault s t n det) := by
  intro hq z hz
  have hth := th_setXfer (s := s) (t := t) (n := n) (some { z with page := none })
  have hx : xferAt (th (setXfer s t n (some { z with page := none })) t) n = some { z with page := none } := by
    rw [hth, xferAt, mget_mset_same]
  have hwaits : waitsDma (setXfer s t n (some { z with page := none })) t ↔ waitsDma s t := by rw [waitsDma, waitsDma, hth]
  rw [hostFault_eq hz]
  refine ⟨fun hw => ?_, fun rd hr hw hc => ?_⟩
  · rw [xferAt_endXfer (hwaits.not.2 hw), hx]
    rfl
  · obtain ⟨hnum, hst, hg⟩ := endXfer_xwait (s := setXfer s t n (some { z with page := none })) hq hr (hwaits.2 hw) (by rwa [hth]) hx
      (xferFail 0x50 det (z.pos / 4096))
    exact ⟨hnum, hst, hg.trans (by rw [xferFail, BitVec.ofNat_toNat, BitVec.setWidth_eq])⟩

/-- The hosts see nothing of the end of a transfer. -/
theorem hostFace_wakeDma (s : State) (t n : Nat) : hostFace (wakeDma s t n) = hostFace s := by
  have hready (s : State) (m : Nat) : hostFace (toReady s m) = hostFace s := (beside_toReady (c := False) (t := m) False.elim).host
  have hrel (s : State) (m r : Nat) (w : W64) : hostFace (releaseWith s m r w) = hostFace s :=
    (beside_releaseWith (c := False) (t := m) False.elim r w).host
  have hstep : hostFace (endingStep s t) = hostFace s := by
    unfold endingStep readyAgain
    split
    · exact hready s t
    · split
      · rfl
      · rfl
      · exact hready s t
  unfold wakeDma
  dsimp only
  split
  · rfl
  · split
    · split
      · split
        · exact hrel ..
        · rfl
      · rfl
    · exact hready s t
    · exact hstep
    · rfl

theorem hostFace_hostFault (s : State) (t n det : Nat) : hostFace (hostFault s t n det) = hostFace s := by
  unfold hostFault
  split
  · rw [endXfer_eq, (beside_wakeBfree (c := False) (t := t) False.elim).host, hostFace_wakeDma]
    rfl
  · rfl

theorem link_of_hostFace {u : State} (h : hostFace u = hostFace s) : u.link = s.link := congrArg (fun x => x.2.2.1) h

theorem port_hostFault (s : State) (t n det p : Nat) : port (hostFault s t n det) p = port s p := by
  rw [port, link_of_hostFace (hostFace_hostFault ..), port]

end

/-! ### Page-request indices (R101) -/

/-- The page that a transfer is stopped at. -/
def stopPage (s : State) (t n : Nat) : Nat := ((xferAt (th s t) n).bind fun y => y.page.map Prod.snd).getD 0

section
variable {s : State} {p i t n w : Nat}

theorem servePages_none (h : (port s p).waiters = []) : servePages s p = s := by rw [servePages, h]; rfl

/-- The group index is free again. -/
def indexFreed (s : State) (p i : Nat) : State := setPort s p { port s p with groups := mset none (port s p).groups i none }

/-- A stopped transfer holds the index. -/
def indexHeld (a : State) (p i t n w : Nat) : Prop := mget none (port a p).groups i = some (t, n, w) ∧ t ≠ 9999 ∧
  ((xferAt (th a t) n).map fun y => y.page.isSome) = some true

theorem endIndex_held (h : indexHeld s p i t n w) (hw : (port s p).waiters = []) {f : State → Nat → Nat → State}
    (hf : (port (f (indexFreed s p i) t n) p).waiters = (port s p).waiters) : endIndex s p i f = f (indexFreed s p i) t n := by
  obtain ⟨hg, ht, hx⟩ := h
  have hserve := servePages_none (hf.trans hw)
  unfold endIndex
  dsimp only
  rw [hg]
  dsimp only
  rw [if_neg]
  · exact hserve
  · simp only [decide_eq_true_eq, Bool.or_eq_true, ht, false_or]
    rw [show ((xferAt (th (setPort s p _) t) n).map fun y => y.page.isSome) = some true from hx]
    decide

section
variable (hu : portUp s p = true) (hi : i < 512) (hg : mget none (port s p).groups i = some (t, n, w))
include hu hi hg

theorem exec_pageRequestResponse_access (z : Nat) : exec (.pageRequestResponse p i (.success (.access z))) s =
    .next (endIndex s p i fun s t n => pageResume (cacheTrans s p t (stopPage s t n) z) t n) :=
  next_act (by simp [hu, hi, hg])

theorem exec_pageRequestResponse_noAccess : exec (.pageRequestResponse p i (.success .noAccess)) s =
    .next (endIndex s p i fun s t n => hostFault s t n 4) := next_act (by simp [hu, hi, hg])

theorem exec_pageRequestResponse_invalid : exec (.pageRequestResponse p i .invalid) s =
    .next (endIndex s p i fun s t n => hostFault s t n 1) := next_act (by simp [hu, hi, hg])

/-- A Response Failure stops page requests on the port. -/
theorem exec_pageRequestResponse_failure (ht : t ≠ 9999) : exec (.pageRequestResponse p i .failure) s =
    .next (endIndex (setPort s p { port s p with noPages := true }) p i fun s t n => hostFault s t n 2) := by
  refine (next_act (by simp [hu, hi, hg])).trans ?_
  dsimp only
  rw [if_neg (by simp [hg, ht])]

end

theorem endIndex_fault (h : indexHeld s p i t n w) (hw : (port s p).waiters = []) (det : Nat) :
    let u := endIndex s p i fun s t n => hostFault s t n det
    XferFailed s t n det u ∧ mget none (port u p).groups i = none ∧ (port u p).noPages = (port s p).noPages := by
  have hport : port (hostFault (indexFreed s p i) t n det) p = { port s p with groups := mset none (port s p).groups i none } :=
    (port_hostFault ..).trans (port_setPort_same ..)
  rw [endIndex_held h hw (by rw [hport])]
  refine ⟨hostFault_failed (indexFreed s p i) t n det, ?_, ?_⟩
  · rw [hport, mget_mset_same]
  · rw [hport]

/-- A request unanswered for 1 s (R101). -/
theorem exec_pageRequestTimeout_early {el : Elapse} {v : State} (hv : elapse s el = v) (hg : mget none (port v p).groups i = some (t, n, w))
    (h : v.clk.refNs < w + 1000000000) : exec (.pageRequestTimeout p i el) s = .next v := by
  subst hv
  show execPageRequestTimeout p i el s = _
  unfold execPageRequestTimeout
  dsimp only
  rw [hg]
  exact next_idle (by simp; omega)

theorem exec_pageRequestTimeout_late {el : Elapse} {v : State} (hv : elapse s el = v) (hh : indexHeld v p i t n w)
    (h : w + 1000000000 ≤ v.clk.refNs) : exec (.pageRequestTimeout p i el) s =
      .next (hostFault (setPort v p { port v p with groups := mset none (port v p).groups i (some (9999, n, w)) }) t n 3) := by
  subst hv
  obtain ⟨hg, ht, hx⟩ := hh
  show execPageRequestTimeout p i el s = _
  unfold execPageRequestTimeout
  dsimp only
  rw [hg]
  refine (next_act (by simp [ht, h])).trans (congrArg _ ?_)
  unfold dropIndex
  dsimp only
  rw [if_neg]
  rw [show ((xferAt (th (setPort (elapse s el) p _) t) n).map fun y => y.page.isSome) = some true from hx]
  decide

end

/-! ### The port's translations (R86) -/

/-- The translation that enters for a thread's address. -/
def transOf (s : State) (t a size : Nat) : Nat × Nat × Nat :=
  (if isHost t then pasidOf s t else 0, a / 2 ^ min 30 (max 12 size) * 2 ^ min 30 (max 12 size), min 30 (max 12 size))

theorem port_cacheTrans (s : State) (p t a size : Nat) : ∃ l, port (cacheTrans s p t a size) p = { port s p with atc := l } ∧
    transOf s t a size ∈ l ∧ l.length ≤ 8192 := by
  refine ⟨_, port_setPort_same .., ?_, ?_⟩
  · rw [List.drop_append]
    refine List.mem_append_right _ ?_
    rw [List.length_append, List.length_singleton, show ∀ k, k + 1 - 8192 - k = 0 by omega]
    exact List.mem_singleton_self _
  · rw [List.length_drop]
    omega

/-! ### A stopped transfer goes on (R101, R155, R158) -/

section
variable {s : State} {t n : Nat}

/-- The stop is taken back. -/
def unstopped (s : State) (t n : Nat) : State :=
  match xferAt (th s t) n with
  | some y => setXfer s t n (some { y with page := none })
  | none => s

/-- A thread made READY waits on where it has to. -/
def waitsOn (k : Cont) (x : Thread) : Thread := { x with cont := if k = .again then .nothing else k }

theorem pageResume_eq (s : State) (t n : Nat) : pageResume s t n =
    if (th (unstopped s t n) t).why = .pagereq ∧
        (th (unstopped s t n) t).arg = stopPage s t n then
      modTh (toReady (unstopped s t n) t) t (waitsOn (th (unstopped s t n) t).cont)
    else unstopped s t n := by
  unfold pageResume
  simp only [Bool.and_eq_true, decide_eq_true_eq]
  rfl

theorem xferAt_unstopped (m k : Nat) : xferAt (th (unstopped s t n) m) k =
    if m = t ∧ k = n then (xferAt (th s t) n).map fun y => { y with page := none } else xferAt (th s m) k := by
  unfold unstopped
  split
  · next y hy =>
    by_cases hm : m = t
    · subst hm
      rw [setXfer, th_modTh_same, xferAt, mget_mset, hy]
      simp only [true_and]
      rfl
    · rw [setXfer, th_modTh_other _ _ hm, if_neg (by simp [hm])]
  · next hy =>
    split
    · next h => rw [h.1, h.2, hy]; rfl
    · rfl

/-- What a resumption leaves: the hosts' view, the registers, and every transfer but the one that goes on. -/
theorem pageResume_outside (s : State) (t n : Nat) : hostFace (pageResume s t n) = hostFace s ∧ (pageResume s t n).vf = s.vf ∧
    (pageResume s t n).ret = s.ret ∧ ∀ m, (th (pageResume s t n) m).xfers = (th (unstopped s t n) m).xfers := by
  have hun : hostFace (unstopped s t n) = hostFace s ∧ (unstopped s t n).vf = s.vf ∧ (unstopped s t n).ret = s.ret := by
    unfold unstopped; split <;> exact ⟨rfl, rfl, rfl⟩
  obtain ⟨hh, hv, hr⟩ := hun
  rw [pageResume_eq]
  generalize unstopped s t n = u at hh hv hr
  split
  · have hb (m : Nat) : Beside False m u (modTh (toReady u t) t (waitsOn (th u t).cont)) :=
      (beside_toReady False.elim).trans (beside_modTh (fun _ => rfl) False.elim)
    exact ⟨(hb t).host.trans hh, (toReady_vf ..).trans hv, (toReady_ret ..).trans hr, fun m => (hb m).xfers⟩
  · exact ⟨hh, hv, hr, fun _ => rfl⟩

theorem pageResume_link (s : State) (t n : Nat) : (pageResume s t n).link = s.link := link_of_hostFace (pageResume_outside s t n).1

theorem getF_pageResume (s : State) (t n : Nat) (f : Fld) : getF (pageResume s t n) f = getF s f := by
  obtain ⟨-, hv, hr, -⟩ := pageResume_outside s t n
  exact getF_congr f hv hr

theorem xferAt_pageResume (s : State) (t n m k : Nat) : xferAt (th (pageResume s t n) m) k =
    if m = t ∧ k = n then (xferAt (th s t) n).map fun y => { y with page := none } else xferAt (th s m) k := by
  obtain ⟨-, -, -, hx⟩ := pageResume_outside s t n
  rw [xferAt, hx, ← xferAt_unstopped]
  rfl

/-- A host thread parked for the page is READY, and no other host thread changes. -/
theorem pageResume_host (hh : isHost t = true) (hw : (th s t).why = .pagereq)
    (ha : (th s t).arg = stopPage s t n) :
    (th (pageResume s t n) t).st = .ready ∧ ∀ m, m ≠ t → isHost m = true → th (pageResume s t n) m = th s m := by
  have hun : (th (unstopped s t n) t).why = (th s t).why ∧ (th (unstopped s t n) t).arg = (th s t).arg ∧
      ∀ m, m ≠ t → th (unstopped s t n) m = th s m := by
    unfold unstopped
    split
    · exact ⟨by rw [setXfer, th_modTh_same], by rw [setXfer, th_modTh_same], fun m hm => by rw [setXfer, th_modTh_other _ _ hm]⟩
    · exact ⟨rfl, rfl, fun _ _ => rfl⟩
  obtain ⟨huw, hua, hum⟩ := hun
  rw [pageResume_eq, if_pos ⟨huw.trans hw, hua.trans ha⟩, toReady_host _ hh]
  refine ⟨?_, fun m hm hmh => ?_⟩
  · rw [th_modTh_same, th_enforceL_host _ _ hh, th_readied_same]
    rfl
  · rw [th_modTh_other _ _ hm, th_enforceL_host _ _ hmh, threadsKept_readied _ _ _ hm, hum m hm]

end

end Sys2Proof.Machine
end
section
/-! PROOFS. Host memory: translations, page requests, ATS and read errors. -/
namespace Sys2Proof.Machine
open Sys2Proof Sys2Proof.Safety

/-! ### The bytes of a transfer move: the settings record stays (R194, R268 to R273) -/

section
variable (s : State)

@[simp] theorem startOf_send (m : Msg) : startOf (send s m) = startOf s := rfl

theorem startOf_sramCheck (a n : Nat) (e : MErr) : startOf (sramCheck s a n e).2 = startOf s := by
  unfold sramCheck
  extract_lets q live v m w
  have hv : startOf v = startOf s := by
    simp only [v]
    split
    · rw [startOf_errInc, startOf_addSat _ rfl]
    · rfl
  have hw : startOf w = startOf s := by
    rw [← hv]
    simp only [w]
    split
    · rfl
    · rfl
  split
  · rw [startOf_errInc, startOf_addSat _ rfl, hw]
  · exact hw

theorem startOf_dramCheck (a n : Nat) (e : MErr) (src : Nat) : startOf (dramCheck s a n e src).2 = startOf s := by
  unfold dramCheck
  split
  · rfl
  · extract_lets v
    have hv : startOf v = startOf s := by
      simp only [v]
      cases e with
      | corr => dsimp only; split <;> simp
      | bitmap => simp
      | ok => rfl
      | uncorr => rfl
    split
    · rw [startOf_dramUe, hv]
    · split
      · rw [startOf_dramUe, hv]
      · exact hv

theorem startOf_locCheck (l : Loc) (n : Nat) (e : MErr) (src : Nat) : startOf (locCheck s l n e src).2 = startOf s := by
  cases l with
  | sram a => exact startOf_sramCheck s a n e
  | dram a => exact startOf_dramCheck s a n e src

theorem startOf_locWr (l : Loc) (b : List Byte) : startOf (locWr s l b) = startOf s := by
  cases l with
  | sram a => rfl
  | dram a => exact startOf_dramWr s a b

theorem startOf_locMerge (l : Loc) (n : Nat) (e : MErr) : startOf (locMerge s l n e) = startOf s := by
  cases l with
  | sram a =>
    unfold locMerge
    dsimp only
    split
    · exact startOf_sramCheck ..
    · rfl
  | dram a => exact startOf_dramMerge s a n e

theorem startOf_pairCheck (dl ml : Loc) (k : Nat) (errs : List (Nat × MErr)) (src : Nat) :
    startOf (pairCheck s dl ml k errs src).2 = startOf s := by
  unfold pairCheck
  extract_lets r
  have hr : startOf r.2 = startOf s := by
    refine List.foldlRecOn (motive := fun (r : Bool × State) => startOf r.2 = startOf s) _ _ rfl fun r hr e _ => ?_
    split
    · exact hr
    · rw [startOf_locCheck, hr]
  clear_value r
  split
  · exact hr
  · have hd := startOf_locCheck r.2 dl 4096 .ok src
    split
    · next v hv => rw [hv] at hd; exact hd.trans hr
    · next v hv => rw [hv] at hd; rw [startOf_locCheck]; exact hd.trans hr

theorem startOf_storePart (b : Buf) (f k lo hi : Nat) (errs : List (Nat × MErr)) (d : List Byte) :
    startOf (storePart s b f k lo hi errs d) = startOf s := by
  unfold storePart
  dsimp only
  rw [startOf_locWr]
  split
  · split <;> simp only [startOf_locMerge]
  · split <;> simp only [startOf_locMerge]

theorem startOf_xinPart (y : Xfer) (k lo hi : Nat) (data pis : List Byte) (errs : List (Nat × MErr)) :
    startOf (xinPart s y k lo hi data pis errs).2 = startOf s := by
  unfold xinPart
  dsimp only
  split
  · rfl
  · split
    · exact startOf_storePart ..
    · have hpi (v : State) (b : Buf) (f : Nat) (p : List Byte) : startOf (setFramePi v b f p) = startOf v := startOf_locWr ..
      split
      · split <;> simp only [startOf_addSat _ (f := CIP_PIX_INGRESS) rfl, hpi, startOf_locMerge, startOf_storePart]
      · simp only [hpi, startOf_locMerge, startOf_storePart]

theorem startOf_xoutPart (t : Nat) (y : Xfer) (k lo hi : Nat) (errs : List (Nat × MErr)) :
    startOf (xoutPart s t y k lo hi errs).2 = startOf s := by
  unfold xoutPart
  extract_lets c raw
  split
  · rfl
  · next b _ =>
    have hchk : startOf (if (decide (lo = 0) && raw) = true then frameCheck s b (ctlFrame c + k) k errs else (false, s)).2 = startOf s := by
      split
      · exact startOf_pairCheck ..
      · rfl
    generalize (if (decide (lo = 0) && raw) = true then frameCheck s b (ctlFrame c + k) k errs else (false, s)) = r at hchk
    dsimp only
    split
    · exact hchk
    · split
      · rw [startOf_addSat _ rfl, hchk]
      · split
        · rw [startOf_send, startOf_send, hchk]
        · rw [startOf_send, hchk]

theorem startOf_moveTo (t : Nat) (y : Xfer) (lo hi : Nat) (data pis : List Byte) (errs : List (Nat × MErr)) :
    startOf (moveTo s t y lo hi data pis errs).2 = startOf s := by
  unfold moveTo
  refine List.foldlRecOn (motive := fun (r : Option Nat × State) => startOf r.2 = startOf s) _ _ rfl fun r hr k _ => ?_
  dsimp only
  split
  · exact hr
  · split
    · rw [startOf_xinPart, hr]
    · rw [startOf_xoutPart, hr]

/-- While a transfer goes on the bindings stand. -/
theorem moveDma_ret {d : DmaPart} {y : Xfer} (h : (moveDma s d y).1 = false) : (moveDma s d y).2.ret = s.ret := by
  have hm := startOf_moveTo s d.t y y.pos (min (max y.pos d.upto) (4096 * ctlCount (y.w.getD 2 0))) d.data d.pis d.errs
  unfold moveDma at h ⊢
  dsimp only at h ⊢
  split at h
  · cases h
  · obtain ⟨-, -, hr⟩ := startOf_eq.1 hm
    exact hr

end

/-! ### Translations (R101) -/

section
variable {s : State} {d : DmaPart} {y : Xfer} {meta_ : Bool}

/-- The page of the next byte, or of its protection information. -/
def dmaPage (d : DmaPart) (y : Xfer) (meta_ : Bool) : Nat :=
  (if meta_ then y.w.getD 1 0 + 16 * (min (max y.pos d.upto) (4096 * ctlCount (y.w.getD 2 0)) / 4096)
    else y.w.getD 0 0 + min (max y.pos d.upto) (4096 * ctlCount (y.w.getD 2 0))) / 4096 * 4096

theorem exec_translationCompletion (s : State) (d : DmaPart) (meta_ : Bool) (x : Xlate) :
    exec (.translationCompletion d meta_ x) s = execTranslationCompletion d meta_ x s := rfl

section
variable (hy : hostXfer s d.t d.n = some y) (hu : portUp s (dmaPort s d.t) = true) (ha : flag s (HLV_STAT_ATS_EN (dmaPort s d.t)) = true)
include hy hu ha

theorem exec_translationCompletion_ended (h : (moveDma s d y).1 = true) (x : Xlate) :
    exec (.translationCompletion d meta_ x) s = .next (moveDma s d y).2 := by
  rw [exec_translationCompletion, execTranslationCompletion, hy]
  refine (next_act (by simp [hu, ha])).trans ?_
  dsimp only
  rw [if_pos h]

theorem exec_translationCompletion_access (h : (moveDma s d y).1 = false) (z : Nat) :
    exec (.translationCompletion d meta_ (.access z)) s =
      .next (cacheTrans (moveDma s d y).2 (dmaPort s d.t) d.t (dmaPage d y meta_) z) := by
  rw [exec_translationCompletion, execTranslationCompletion, hy]
  refine (next_act (by simp [hu, ha])).trans ?_
  dsimp only
  rw [if_neg (by simp [h]), dmaPage]

theorem exec_translationCompletion_noAccess (h : (moveDma s d y).1 = false) :
    exec (.translationCompletion d meta_ .noAccess) s = .next (pageStop (moveDma s d y).2 d.t d.n (dmaPage d y meta_)) := by
  rw [exec_translationCompletion, execTranslationCompletion, hy]
  refine (next_act (by simp [hu, ha])).trans ?_
  dsimp only
  rw [if_neg (by simp [h]), dmaPage]

end

/-! ### Failed reads (R103) -/

theorem readFails_eq (h : (moveDma s d y).1 = false) (det : Nat) : readFails s d y det = hostFault (moveDma s d y).2 d.t d.n det := by
  unfold readFails
  dsimp only
  rw [if_neg (by simp [h])]

theorem exec_dmaReadError (hy : hostXfer s d.t d.n = some y) (hk : y.kind = .xin) (h : (moveDma s d y).1 = false) (e : HostErr) :
    exec (.dmaReadError d e) s = .next (hostFault (moveDma s d y).2 d.t d.n (hostErrDetail e)) := by
  show execDmaReadError d e s = _
  unfold execDmaReadError
  rw [hy]
  exact (next_act (by simp [hk])).trans (congrArg _ (readFails_eq h _))

theorem exec_dmaCompletionTimeout {el : Elapse} {v : State} (hv : elapse s el = v) (hy : hostXfer v d.t d.n = some y) (hk : y.kind = .xin)
    (hns : 50000000 ≤ el.ns) (h : (moveDma v d y).1 = false) :
    exec (.dmaCompletionTimeout d el) s = .next (hostFault (moveDma v d y).2 d.t d.n 8) := by
  subst hv
  show execDmaCompletionTimeout d el s = _
  unfold execDmaCompletionTimeout
  dsimp only
  rw [hy]
  exact (next_act (by simp [hk, hns])).trans (congrArg _ (readFails_eq h _))

end

/-! ### Invalidation (R102) -/

/-- The translations of a PASID that overlap a range are gone. -/
def invalidated (s : State) (p pasid addr len : Nat) : State :=
  setPort s p { port s p with atc := (port s p).atc.filter fun e =>
    !(decide (e.1 = pasid) && decide (addr < e.2.1 + 2 ^ e.2.2) && decide (e.2.1 < addr + len)) }

section
variable {s : State} {p : Nat}

theorem exec_atsInvalidation (hu : portUp s p = true) (ha : flag s (HLV_STAT_ATS_EN p) = true) {ds : List DmaPart}
    (hd : ∀ e ∈ ds, dmaPort s e.t ≠ p ∨ hostXfer s e.t e.n = none) (tag pasid addr len : Nat) :
    exec (.atsInvalidation p tag ⟨pasid, addr, len, ds⟩) s = .next (send (invalidated s p pasid addr len) (.invalDone p tag)) := by
  have hstill (f : State → DmaPart → State) (hf : ∀ e ∈ ds, f s e = s) : ds.foldl f s = s :=
    List.foldlRecOn (motive := fun v => v = s) ds f rfl fun v hv e he => by rw [hv]; exact hf e he
  show execAtsInvalidation p tag _ s = _
  unfold execAtsInvalidation
  refine (next_act (by simp [hu, ha])).trans ?_
  dsimp only
  rw [hstill _ fun e he => ?_]
  · rfl
  · rcases hd e he with h | h
    · split
      · rw [if_neg h]
      · rfl
    · rw [h]

/-! ### ATS is enabled and disabled (R101, R159) -/

/-- No page is shown for the transfer. -/
def unpaged (s : State) (m k : Nat) : Prop := ∀ x, xferAt (th s m) k = some x → x.page = none

theorem unpaged_pageResume_same (s : State) (t n : Nat) : unpaged (pageResume s t n) t n := by
  intro x hx
  rw [xferAt_pageResume, if_pos ⟨rfl, rfl⟩] at hx
  obtain ⟨y, -, rfl⟩ := Option.map_eq_some_iff.1 hx
  rfl

theorem unpaged_pageResume {m k : Nat} (h : unpaged s m k) (t n : Nat) : unpaged (pageResume s t n) m k := by
  by_cases he : m = t ∧ k = n
  · obtain ⟨rfl, rfl⟩ := he
    exact unpaged_pageResume_same s m k
  · intro x hx
    rw [xferAt_pageResume, if_neg he] at hx
    exact h x hx

/-- The transfers listed go on. -/
def resumeAll (s : State) (l : List (Nat × Nat)) : State := l.foldl (fun s y => pageResume s y.1 y.2) s

theorem unpaged_resumeAll {m k : Nat} (l : List (Nat × Nat)) (h : unpaged s m k) : unpaged (resumeAll s l) m k :=
  List.foldlRecOn (motive := fun v => unpaged v m k) l _ h fun _ hv _ _ => unpaged_pageResume hv _ _

theorem unpaged_of_resumed {l : List (Nat × Nat)} {e : Nat × Nat} (h : e ∈ l) (s : State) : unpaged (resumeAll s l) e.1 e.2 := by
  induction l generalizing s with
  | nil => cases h
  | cons a l ih =>
    rcases List.mem_cons.1 h with rfl | h
    · exact unpaged_resumeAll l (unpaged_pageResume_same s e.1 e.2)
    · exact ih h (pageResume s a.1 a.2)

theorem resumeAll_link (s : State) (l : List (Nat × Nat)) : (resumeAll s l).link = s.link :=
  foldl_field (·.link) _ (fun s (y : Nat × Nat) => pageResume_link s y.1 y.2) l s

theorem getF_resumeAll (s : State) (l : List (Nat × Nat)) (f : Fld) : getF (resumeAll s l) f = getF s f :=
  foldl_field (getF · f) _ (fun s (y : Nat × Nat) => getF_pageResume s y.1 y.2 f) l s

/-- Every index of the port is held for its response alone. -/
def portUntranslated (s : State) (p : Nat) : State :=
  setPort s p { port s p with waiters := [], atc := [], groups := (port s p).groups.map fun g => (g.1, g.2.map fun x => (9999, x.2)) }

theorem atsOff_eq (s : State) (p : Nat) : atsOff s p = resumeAll (portUntranslated s p) (stoppedXfers s p) := rfl

theorem port_atsOff (s : State) (p : Nat) : (port (atsOff s p) p).waiters = [] ∧ (port (atsOff s p) p).atc = [] ∧
    ∀ j t n w, mget none (port (atsOff s p) p).groups j = some (t, n, w) → t = 9999 := by
  have hport : port (atsOff s p) p = port (portUntranslated s p) p := by
    rw [atsOff_eq, port, resumeAll_link, port]
  rw [hport, portUntranslated, port_setPort_same]
  refine ⟨rfl, rfl, fun j t n w h => ?_⟩
  rw [mget_mapped (f := Option.map fun x : Nat × Nat × Nat => (9999, x.2)) rfl] at h
  obtain ⟨x, -, hx⟩ := Option.map_eq_some_iff.1 h
  exact (congrArg Prod.fst hx).symm

theorem getF_atsOff (s : State) (p : Nat) (f : Fld) : getF (atsOff s p) f = getF s f := getF_resumeAll (portUntranslated s p) _ f

theorem stoppedXfers_setF (s : State) (f : Fld) (v p : Nat) : stoppedXfers (setF s f v) p = stoppedXfers s p := by
  have hport : dmaPort (setF s f v) = dmaPort s := funext fun t => by rw [dmaPort, cx, setF_ctx, dmaPort, cx]
  rw [stoppedXfers, setF_thr, hport, stoppedXfers]

theorem exec_atsEnable_off (hu : portUp s p = true) : exec (.atsEnable p false) s = .next (atsOff (setF s (HLV_STAT_ATS_EN p) 0) p) :=
  next_act hu

/-- With ATS enabled page requests may go out again. -/
theorem exec_atsEnable_on (hu : portUp s p = true) (hw : (port s p).waiters = []) :
    exec (.atsEnable p true) s = .next (setPort (setF s (HLV_STAT_ATS_EN p) 1) p { port s p with noPages := false }) := by
  have hport : port (setF s (HLV_STAT_ATS_EN p) 1) p = port s p := by rw [port, setF_link, port]
  refine (next_act hu).trans (congrArg _ ?_)
  dsimp only
  rw [if_pos rfl, show setF s (HLV_STAT_ATS_EN p) (b2n true) = setF s (HLV_STAT_ATS_EN p) 1 from rfl, hport]
  exact servePages_none (by rw [port_setPort_same]; exact hw)

end

/-! ### A page request answered with access (R101, R155) -/

section
variable {s : State} {p i t n w a len : Nat}

/-- The index is freed, the translation cached, the transfer goes on. -/
def pageGranted (s : State) (p i t n a len : Nat) : State := pageResume (cacheTrans (indexFreed s p i) p t a len) t n

theorem port_pageGranted (s : State) (p i t n a len : Nat) : ∃ l, port (pageGranted s p i t n a len) p =
      { port s p with groups := mset none (port s p).groups i none, atc := l } ∧ transOf s t a len ∈ l ∧ l.length ≤ 8192 := by
  obtain ⟨l, hl, hin, hlen⟩ := port_cacheTrans (indexFreed s p i) p t a len
  refine ⟨l, ?_, hin, hlen⟩
  rw [pageGranted, port, pageResume_link]
  refine hl.trans ?_
  rw [indexFreed, port_setPort_same]

theorem exec_pageRequestResponse_granted (hu : portUp s p = true) (hi : i < 512) (hh : indexHeld s p i t n w) (hw : (port s p).waiters = [])
    (ha : stopPage s t n = a) :
    exec (.pageRequestResponse p i (.success (.access len))) s = .next (pageGranted s p i t n a len) := by
  have hgrant : pageResume (cacheTrans (indexFreed s p i) p t (stopPage (indexFreed s p i) t n) len) t n =
      pageGranted s p i t n a len := by rw [pageGranted, ← ha]; rfl
  obtain ⟨l, hl, -⟩ := port_pageGranted s p i t n a len
  have ⟨hg, _, _⟩ := hh
  rw [exec_pageRequestResponse_access hu hi hg, endIndex_held hh hw (by rw [hgrant, hl]), hgrant]

end

/-- Settles O46: each failure by `hostFault_failed`, each translation by what enters the port, ATS by what it leaves stopped. -/
theorem hostMemory : Obligations.HostMemory := by
  intro s p i addr len d y el on meta_ v held waits failed at_ page ats
  refine ⟨fun t n w hu hi hh hw => ⟨?_, ?_, ?_⟩, fun t n a w hu hi hh hw hhost hwhy harg hpage => ?_,
    fun t n w hg h => exec_pageRequestTimeout_early rfl hg h, fun t n w hh h => ?_, fun ds tag pasid hu ha hd => ?_, fun hu hon => ?_,
    fun hu hon hw => ?_, fun ⟨hy, hu, ha⟩ h x => exec_translationCompletion_ended hy hu ha h x, fun ⟨hy, hu, ha⟩ h => ?_,
    fun ⟨hy, hu, ha⟩ h => ⟨_, exec_translationCompletion_noAccess hy hu ha h, rfl⟩, fun e k hek hy hk h => ?_, fun hy hk hns h => ?_⟩
  · have ⟨hheld, _, _⟩ := hh
    obtain ⟨hf, hg, -⟩ := endIndex_fault hh hw 1
    exact ⟨_, exec_pageRequestResponse_invalid hu hi hheld, hf, hg⟩
  · have hport : port (setPort s p { port s p with noPages := true }) p = { port s p with noPages := true } := port_setPort_same ..
    obtain ⟨hheld, ht, hx⟩ := hh
    have hheld' : indexHeld (setPort s p { port s p with noPages := true }) p i t n w := ⟨by rw [hport]; exact hheld, ht, hx⟩
    obtain ⟨hf, hg, hn⟩ := endIndex_fault hheld' (by rw [hport]; exact hw) 2
    exact ⟨_, exec_pageRequestResponse_failure hu hi hheld ht, hf, hg, by rw [hn, hport]⟩
  · have ⟨hheld, _, _⟩ := hh
    obtain ⟨hf, hg, -⟩ := endIndex_fault hh hw 4
    exact ⟨_, exec_pageRequestResponse_noAccess hu hi hheld, hf, hg⟩
  · have ha : stopPage s t n = a := by
      obtain ⟨-, -, hx⟩ := hh
      obtain ⟨x, hx, -⟩ := Option.map_eq_some_iff.1 hx
      rw [stopPage, hx, Option.bind_some, hpage x hx, Option.getD_some]
    obtain ⟨l, hl, hin, hlen⟩ := port_pageGranted s p i t n a len
    obtain ⟨hst, hothers⟩ := pageResume_host (s := cacheTrans (indexFreed s p i) p t a len) (n := n) hhost hwhy (harg.trans ha.symm)
    rw [transOf, if_pos hhost] at hin
    refine ⟨_, exec_pageRequestResponse_granted hu hi hh hw ha, hst, ?_, ?_, ?_, hothers, fun x hx => ?_⟩
    · rw [hl, mget_mset_same]
    · rw [hl]; exact hin
    · rw [hl]; exact hlen
    · rw [pageGranted, xferAt_pageResume, if_pos ⟨rfl, rfl⟩]
      exact congrArg (Option.map fun y : Xfer => { y with page := none }) hx
  · refine ⟨_, exec_pageRequestTimeout_late rfl hh h, hostFault_failed (setPort v p _) t n 3, ?_⟩
    rw [port_hostFault, port_setPort_same, mget_mset_same]
  · refine ⟨_, exec_atsInvalidation hu ha hd tag pasid addr len, rfl, rfl, fun e => ?_⟩
    show e ∈ (port (invalidated s p pasid addr len) p).atc ↔ _
    rw [invalidated, port_setPort_same, List.mem_filter, Bool.not_eq_true', ← Bool.not_eq_true]
    simp only [Bool.and_eq_true, decide_eq_true_eq, and_assoc]
  · subst hon
    obtain ⟨hw, hatc, hg⟩ := port_atsOff (setF s (HLV_STAT_ATS_EN p) 0) p
    refine ⟨_, exec_atsEnable_off hu, ?_, fun f hf => ?_, hw, hatc, hg, fun e he => ?_⟩
    · rw [getF_atsOff, getF_setF_same]
      rfl
    · exact (getF_atsOff ..).trans (regsKept_setF s _ 0 f hf)
    · rw [← stoppedXfers_setF s (HLV_STAT_ATS_EN p) 0] at he
      exact unpaged_of_resumed he _
  · subst hon
    refine ⟨_, exec_atsEnable_on hu hw, ?_, ?_⟩
    · exact getF_setF_same s (HLV_STAT_ATS_EN p) 1
    · rw [port_setPort_same]
  · obtain ⟨l, hl, hin, hlen⟩ := port_cacheTrans (moveDma s d y).2 (dmaPort s d.t) d.t (dmaPage d y meta_) len
    have hpasid : pasidOf (moveDma s d y).2 d.t = pasidOf s d.t := by rw [pasidOf, bindOf, moveDma_ret s h, pasidOf, bindOf]
    rw [transOf, hpasid] at hin
    refine ⟨_, exec_translationCompletion_access hy hu ha h len, rfl, rfl, ?_, ?_⟩
    · rw [hl]; exact hin
    · rw [hl]; exact hlen
  · refine ⟨_, exec_dmaReadError hy hk h e, ?_⟩
    have hdet : hostErrDetail e = k := by
      simp only [List.mem_cons, Prod.mk.injEq, List.not_mem_nil, or_false] at hek
      rcases hek with ⟨rfl, rfl⟩ | ⟨rfl, rfl⟩ | ⟨rfl, rfl⟩ <;> rfl
    rw [hdet]
    exact hostFault_failed _ _ _ _
  · exact ⟨_, exec_dmaCompletionTimeout rfl hy hk hns h, hostFault_failed _ _ _ _⟩

end Sys2Proof.Machine
end
section
/-! PROOFS. VLBN. -/
namespace Sys2Proof.Machine
open Sys2Proof Sys2Proof.Safety

/-! ### VLBN (R131, R189) -/

section
variable {s : State} {t : Nat} {a b : Nat} {src : Bool}

theorem exec_vlbn {rd rs1 rs2 : Nat} {c : Bool} (h : issues s t (aw 0x50 rd rs1 rs2 (b2n c + 2 * b2n src) 0) = true) {v : W64}
    (hv : vlbn s t (gr s t rs1).toNat (gr s t rs2).toNat c src = v) :
    ∃ u, exec (.vlbn t rd rs1 rs2 c src) s = .next u ∧ Retired s u t rd v :=
  ⟨_, next_act h, hv ▸ retired_retire ..⟩

/-! With C: the mode, then the VOLUME field -/

theorem vlbn_mode (h : mode s ≠ mRun ∨ (isHost t && (cx s t).late) = true) : vlbn s t a b true src = svWord 0x13 2 none := by
  have hd : (!dataMode s || (isHost t && (cx s t).late)) = true := by
    rcases h with h | h
    · rw [dataMode_eq_false h]; rfl
    · rw [h, Bool.or_true]
  simp only [vlbn, if_pos, hd]

theorem vlbn_inRun (h : mode s = mRun) (hl : (isHost t && (cx s t).late) = false) :
    vlbn s t a b true src = if 8191 < a % 2 ^ 16 then svWord 0x11 4 none else 0 := by
  simp only [vlbn, dataMode_run h, hl, Bool.not_true, Bool.or_self, Bool.false_eq_true, if_true, if_false]

/-! Without C: permission, state, range -/

/-- The thread may use the volume: a system thread any, a host thread those of its binding. -/
def mayUse (s : State) (t v : Nat) : Prop := isSys s t = true ∨ v ∈ (bindOf s t).vols

theorem vlbn_denied (h : 8191 < a % 2 ^ 16 ∨ volState (volEnt s (a % 2 ^ 16 % 8192)) = 0 ∨
    (isSys s t = false ∧ a % 2 ^ 16 ∉ (bindOf s t).vols)) : vlbn s t a b false src = svWord 0x13 1 none := by
  have hd : (8191 < a % 2 ^ 16 || volState (volEnt s (a % 2 ^ 16 % 8192)) = 0 ||
      (!isSys s t && !(bindOf s t).vols.contains (a % 2 ^ 16))) = true := by
    simpa only [Bool.or_eq_true, Bool.and_eq_true, Bool.not_eq_true', decide_eq_true_eq, List.contains_eq_mem, decide_eq_false_iff_not,
      or_assoc] using h
  simp only [vlbn, Bool.false_eq_true, if_false, if_pos hd]

theorem vlbn_allowed (hv : a % 2 ^ 16 ≤ 8191) (hm : mayUse s t (a % 2 ^ 16)) (hs : volState (volEnt s (a % 2 ^ 16 % 8192)) ≠ 0) :
    vlbn s t a b false src = if volState (volEnt s (a % 2 ^ 16 % 8192)) = 2 then svWord 0x13 5 none
      else if 256 * volSize (volEnt s (a % 2 ^ 16 % 8192)) ≤ b + bits a 32 32 then svWord 0x12 (b2n src) none
      else BitVec.ofNat 64 (256 * volBase (volEnt s (a % 2 ^ 16 % 8192)) + b) := by
  have hd : ¬ (8191 < a % 2 ^ 16 || volState (volEnt s (a % 2 ^ 16 % 8192)) = 0 ||
      (!isSys s t && !(bindOf s t).vols.contains (a % 2 ^ 16))) = true := by
    simp only [Bool.or_eq_true, Bool.and_eq_true, Bool.not_eq_true', decide_eq_true_eq, List.contains_eq_mem, decide_eq_false_iff_not]
    rintro ((h | h) | ⟨h, h'⟩)
    · omega
    · exact hs h
    · rcases hm with hm | hm
      · rw [hm] at h; cases h
      · exact h' hm
  simp only [vlbn, Bool.false_eq_true, if_false, if_neg hd]

end

/-- Settles O11: the word of each check in its order, then the retirement. -/
theorem volumeToLbn : Obligations.VolumeToLbn := by
  intro s t rd rs1 rs2 c src
  dsimp only
  intro h
  refine ⟨?_, ?_, ?_, ?_, ?_, ?_, ?_⟩
  · rintro rfl hm
    exact exec_vlbn h (vlbn_mode hm)
  · rintro rfl hm hl hv
    exact exec_vlbn h (by rw [vlbn_inRun hm hl, if_pos hv])
  · rintro rfl hm hl hv
    exact exec_vlbn h (by rw [vlbn_inRun hm hl, if_neg (by omega)])
  · rintro rfl hd
    exact exec_vlbn h (vlbn_denied hd)
  · rintro rfl hv hm hs
    exact exec_vlbn h (by rw [vlbn_allowed hv hm (by omega), if_pos hs])
  · rintro rfl hv hm h0 h2 hr
    exact exec_vlbn h (by rw [vlbn_allowed hv hm h0, if_neg h2, if_pos hr])
  · rintro rfl hv hm h0 h2 hr
    exact exec_vlbn h (by rw [vlbn_allowed hv hm h0, if_neg h2, if_neg (by omega)])

end Sys2Proof.Machine
end
section
/-! PROOFS. The checks that admin commands share. -/
namespace Sys2Proof.Machine
open Sys2Proof Sys2Proof.Safety

/-! ### The row every admin command shares, check by check (R128 to R131) -/

section
variable {s : State} {r : HelmReq} {o : Nat} {modes : List Nat} {sel : HelmReq → Bool} {field : State → HelmReq → Option Nat}
  {eff : HelmReq → State → State} {pb : ParamBuf}

/-- A request that the row does not pick is left alone. -/
theorem adminRow_notPicked (hn : nextReq s = some r) (h : reqOpc r ≠ o) : adminRow o sel modes field eff s = .next s := by
  unfold adminRow
  rw [hn]
  exact next_idle (by simp [h])

/-- A request picked is judged on the mode first (R131 step 3), then on the freeze (R130). -/
theorem adminRow_picked (hn : nextReq s = some r) (ho : reqOpc r = o) (hs : sel r = true) (hi : s.boot.image = true) (hm : mode s ≠ mOff) :
    adminRow o sel modes field eff s = .next (
      if !inMode s modes then answerReq (beginReq s r.src) r 0x13 4
      else if flag s CAS_STAT_FROZEN && [0x80, 0x81, 0x82, 0x83, 0x87, 0x88, 0x8D].contains o
          && !(o = 0x83 && bits (ARG0 r) 16 2 < 3) then answerReq (beginReq s r.src) r 0x13 8
      else match field (beginReq s r.src) r with
        | some d => answerHelm (beginReq s r.src) r.src ⟨0x11, d, none, if o = 0x8A && d = 0x82 then 17824 else 0⟩ []
        | none => eff r (beginReq s r.src)) := by
  unfold adminRow
  rw [hn]
  exact next_act (by simp [ho, hs, hi, hm])

theorem adminRow_wrongMode (hn : nextReq s = some r) (ho : reqOpc r = o) (hs : sel r = true) (hi : s.boot.image = true)
    (hm : mode s ≠ mOff) (hmode : inMode s modes = false) :
    adminRow o sel modes field eff s = .next (answerReq (beginReq s r.src) r 0x13 4) := by
  rw [adminRow_picked hn ho hs hi hm, hmode]
  rfl

theorem adminRow_frozen (hn : nextReq s = some r) (ho : reqOpc r = o) (hs : sel r = true) (hi : s.boot.image = true) (hm : mode s ≠ mOff)
    (hmode : inMode s modes = true) (hf : flag s CAS_STAT_FROZEN = true) (hc : [0x80, 0x81, 0x87, 0x8D].contains o = true) :
    adminRow o sel modes field eff s = .next (answerReq (beginReq s r.src) r 0x13 8) := by
  have hc' : o = 0x80 ∨ o = 0x81 ∨ o = 0x87 ∨ o = 0x8D := by simpa using hc
  rw [adminRow_picked hn ho hs hi hm, hmode, hf]
  rcases hc' with rfl | rfl | rfl | rfl <;> rfl

/-- The parameter buffer fails before its content is judged (R118). -/
theorem adminBufRow_fails (h : asked s r o modes) (hs : sel r = true) {d : Nat} (hb : bufFail s r pb = some d)
    (hf : field (beginReq s r.src) r = none ∨ field (beginReq s r.src) r = some 0x80) : adminBufRow o pb sel modes field eff s =
      .next (answerHelm (stopPages (beginReq s r.src) r.src d) r.src ⟨0x50, d, some 0, 0⟩ []) := by
  have hb' : bufFail (beginReq s r.src) r pb = some d := hb
  unfold adminBufRow
  rw [adminRow_effect h hs, hb']
  rw [hb']
  rcases hf with hf | hf <;> rw [hf] <;> rfl

/-- A CADDR off its alignment is refused where nothing before it fails (R128). -/
theorem fieldCheck_caddr (hs : r.src ≠ 9999) (hc : blkField r.block 48 8 % 16 ≠ 0) : fieldCheck r true true none = some 0x30 := by
  unfold fieldCheck
  simp [hs, hc]

end

/-! ### The commands of the statement -/

/-- The commands of AdminChecks, their opcodes and their modes (R59, R130). -/
def checkedRows (pb : ParamBuf) : List (Instr × Nat × List Nat) :=
  [(.volumeCreate, 0x80, [mRun, mService]), (.volumeDelete, 0x81, [mRun, mService]), (.setTime, 0x86, [mRun, mService, mSafe]),
    (.almanacSet pb, 0x87, [mRun, mService]), (.swapRole, 0x89, [mRun]), (.attest pb, 0x8A, [mRun, mService, mSafe]), (.format, 0x8B, [mService]),
    (.settingsWipe, 0x8C, [mService]), (.quotaSet pb, 0x8D, [mRun, mService]), (.logClear, 0x8E, [mRun, mService, mSafe]),
    (.enroll pb, 0x8F, [mService])]

section
variable {s : State} {pb : ParamBuf} {i : Instr} {o : Nat} {modes : List Nat}

theorem exec_volumeCreate_room (h : helmRoom s = true) : exec .volumeCreate s = adminRow 0x80 anyReq [mRun, mService]
    (fun s r => fieldCheck r (volState (volEnt s (ARG0vol r)) = 0) (1 ≤ ARG1 r && ARG1 r ≤ 0xFFFFFFFF) none)
    (fun r s => match freeBase s (ARG1 r) with
      | none => answerReq s r 0x32 2
      | some b => answerHelm (putVol s (ARG0vol r) (mkVol b (ARG1 r) (bits (ARG0 r) 16 10) 1 s.clk.now) true) r.src
          ⟨0, 0, none, 256 * b⟩ []) s := if_neg (by simp [h])

theorem exec_volumeDelete_room (h : helmRoom s = true) : exec .volumeDelete s = adminRow 0x81 anyReq [mRun, mService]
    (fun s r => fieldCheck r (volState (volEnt s (ARG0vol r)) != 0) true none)
    (fun r s =>
      if volState (volEnt s (ARG0vol r)) = 2 then answerReq s r 0x13 5
      else
        let s' := putVol s (ARG0vol r) (volWith (volEnt s (ARG0vol r)) 2) false
        setAux s' { s'.x with deleting := s'.x.deleting ++ [(ARG0vol r, r.src, false)] }) s := if_neg (by simp [h])

/-- Each command is the shared row; those with no fields of their own judge the common ones alone. -/
theorem checkedRows_row (h : (i, o, modes) ∈ checkedRows pb) (hr : o = 0x80 ∨ o = 0x81 → helmRoom s = true) : ∃ field eff,
    exec i s = adminRow o anyReq modes field eff s ∧ ([0x86, 0x89, 0x8C, 0x8E].contains o = true → field = noField) := by
  simp only [checkedRows, List.mem_cons, Prod.mk.injEq, List.not_mem_nil, or_false] at h
  rcases h with ⟨rfl, rfl, rfl⟩ | ⟨rfl, rfl, rfl⟩ | ⟨rfl, rfl, rfl⟩ | ⟨rfl, rfl, rfl⟩ | ⟨rfl, rfl, rfl⟩ | ⟨rfl, rfl, rfl⟩ |
    ⟨rfl, rfl, rfl⟩ | ⟨rfl, rfl, rfl⟩ | ⟨rfl, rfl, rfl⟩ | ⟨rfl, rfl, rfl⟩ | ⟨rfl, rfl, rfl⟩
  · exact ⟨_, _, exec_volumeCreate_room (hr (.inl rfl)), fun h => absurd h (by decide)⟩
  · exact ⟨_, _, exec_volumeDelete_room (hr (.inr rfl)), fun h => absurd h (by decide)⟩
  · exact ⟨_, _, show execSetTime s = _ from rfl, fun _ => rfl⟩
  · exact ⟨_, _, (show execAlmanacSet pb s = adminBufRow 0x87 pb _ _ _ _ s from rfl).trans rfl, fun h => absurd h (by decide)⟩
  · exact ⟨_, _, show execSwapRole s = _ from rfl, fun _ => rfl⟩
  · exact ⟨_, _, (show execAttest pb s = adminBufRow 0x8A pb _ _ _ _ s from rfl).trans rfl, fun h => absurd h (by decide)⟩
  · exact ⟨_, _, show execFormat s = _ from rfl, fun h => absurd h (by decide)⟩
  · exact ⟨_, _, show execSettingsWipe s = _ from rfl, fun _ => rfl⟩
  · exact ⟨_, _, (show execQuotaSet pb s = adminBufRow 0x8D pb _ _ _ _ s from rfl).trans rfl, fun h => absurd h (by decide)⟩
  · exact ⟨_, _, show execLogClear s = _ from rfl, fun _ => rfl⟩
  · exact ⟨_, _, (show execEnroll pb s = adminBufRow 0x8F pb _ _ _ _ s from rfl).trans rfl, fun h => absurd h (by decide)⟩

/-- Nothing is refused, or the content of the parameter buffer is (R130). -/
def contentAlone (f : Option Nat) : Prop := f = none ∨ f = some 0x80

theorem contentAlone_ite {c : Prop} [Decidable c] {f g : Option Nat} (hf : contentAlone f) (hg : contentAlone g) :
    contentAlone (if c then f else g) := by
  split <;> assumption

/-- Past the common fields an opcode with a parameter buffer refuses its content alone. -/
theorem checkedRows_bufRow (h : (i, o, modes) ∈ checkedRows pb) {need : Nat}
    (hn : (o, need) ∈ [(0x87, 32), (0x8A, 17824), (0x8D, 64), (0x8F, 24576)]) : ∃ field eff,
    exec i s = adminBufRow o pb anyReq modes field eff s ∧
      ∀ v r, fieldCheck r true true (some need) = none → contentAlone (field v r) := by
  simp only [List.mem_cons, Prod.mk.injEq, List.not_mem_nil, or_false] at hn
  rcases hn with ⟨rfl, rfl⟩ | ⟨rfl, rfl⟩ | ⟨rfl, rfl⟩ | ⟨rfl, rfl⟩ <;>
    simp only [checkedRows, List.mem_cons, Prod.mk.injEq, List.not_mem_nil, or_false, Nat.reduceEqDiff, false_and, and_false, false_or,
      true_and] at h <;>
    obtain ⟨rfl, rfl⟩ := h
  · exact ⟨_, _, show execAlmanacSet pb s = _ from rfl, fun v r hf => by rw [hf]; exact contentAlone_ite (.inl rfl) (.inr rfl)⟩
  · exact ⟨_, _, show execAttest pb s = _ from rfl, fun v r hf => .inl hf⟩
  · exact ⟨_, _, show execQuotaSet pb s = _ from rfl, fun v r hf => by rw [hf]; exact contentAlone_ite (.inl rfl) (.inr rfl)⟩
  · exact ⟨_, _, show execEnroll pb s = _ from rfl, fun v r hf => by rw [hf]; exact contentAlone_ite (.inr rfl) (.inl rfl)⟩

end

/-- Settles O38: each command is the shared row, which judges a request check by check. -/
theorem adminChecks : Obligations.AdminChecks := by
  intro s pb i o modes r hi hn hr
  obtain ⟨field, eff, hrow, hcommon⟩ := checkedRows_row (s := s) hi hr
  refine ⟨fun ho => ?_, fun ho hb hm hmode => ⟨_, ?_, rfl⟩, fun ho hb hm hmode hf hc => ?_, fun ha hs hc ho => ?_,
    fun d need hneed ha hf hb => ?_, fun e out u hu => ⟨_, hu⟩⟩
  · exact hrow.trans (adminRow_notPicked hn ho)
  · exact hrow.trans (adminRow_wrongMode hn ho rfl hb hm hmode)
  · exact hrow.trans (adminRow_frozen hn ho rfl hb hm hmode hf hc)
  · have hfield : field (beginReq s r.src) r = some 0x30 := by rw [hcommon ho]; exact fieldCheck_caddr hs hc
    rw [hrow, adminRow_refuse ha rfl hfield]
    simp
  · obtain ⟨field', eff', hrow', hcontent⟩ := checkedRows_bufRow (s := s) hi hneed
    exact hrow'.trans (adminBufRow_fails ha rfl hb (hcontent _ r hf))

end Sys2Proof.Machine
end
section
/-! PROOFS. The end of a data command, and the checks before it. -/
namespace Sys2Proof.Machine
open Sys2Proof Sys2Proof.Safety

/-! ### What the end of a data command leaves where no request for a buffer is parked (R168, R200, R258) -/

section
variable {s : State}

theorem servePass_idle (h : s.buf.reqs = []) : servePass s = s := by rw [servePass, h, List.foldl_nil]

/-- With no request parked nothing is served. -/
theorem serveBufs_idle (h : s.buf.reqs = []) : serveBufs s = s :=
  List.foldlRecOn (motive := fun v => v = s) _ (fun v _ => servePass v) rfl fun v hv _ _ => by rw [hv, servePass_idle h]

/-- From `s` to `u` memories and messages are as they were, and no request for a buffer is parked. -/
structure Quiet (s u : State) : Prop where
  mem : u.mem = s.mem
  sent : u.sent = s.sent
  reqs : u.buf.reqs = []

theorem Quiet.trans {v u : State} (h : Quiet s v) (h' : Quiet v u) : Quiet s u := ⟨h'.mem.trans h.mem, h'.sent.trans h.sent, h'.reqs⟩

theorem quiet_modTh (h : s.buf.reqs = []) (t : Nat) (f : Thread → Thread) : Quiet s (modTh s t f) := ⟨rfl, rfl, h⟩

theorem quiet_setBuf (h : s.buf.reqs = []) (n : Nat) (b : Option Buf) : Quiet s (setBuf s n b) := ⟨rfl, rfl, h⟩

theorem quiet_serveBufs (h : s.buf.reqs = []) : Quiet s (serveBufs s) := by
  rw [serveBufs_idle h]
  exact ⟨rfl, rfl, h⟩

/-- A change of the flush queue, and what is served on it. -/
theorem quiet_flushq (h : s.buf.reqs = []) (l : List Nat) : Quiet s (serveBufs { s with buf := { s.buf with flushq := l } }) :=
  .trans (v := { s with buf := { s.buf with flushq := l } }) ⟨rfl, rfl, h⟩ (quiet_serveBufs h)

theorem quiet_toFlush (h : s.buf.reqs = []) (n : Nat) : Quiet s (toFlush s n) := by
  unfold toFlush
  split
  · exact ⟨rfl, rfl, h⟩
  · next b _ =>
    exact (quiet_setBuf h n (some { b with shared := true, owner := 0x1FFF })).trans
      (quiet_flushq (s := setBuf s n (some { b with shared := true, owner := 0x1FFF })) h _)

theorem quiet_freeBuf (h : s.buf.reqs = []) (n : Nat) : Quiet s (freeBuf s n) := by
  unfold freeBuf
  split
  · exact ⟨rfl, rfl, h⟩
  · next b _ =>
    have hv : Quiet s (setBuf s n none) := quiet_setBuf h n none
    dsimp only
    refine Quiet.trans ?_ (quiet_flushq ?_ _)
    · split
      · exact hv.trans ⟨rfl, rfl, h⟩
      · exact hv
    · split <;> exact h

theorem quiet_dropBufs (h : s.buf.reqs = []) (t : Nat) : Quiet s (dropBufs s t) := by
  unfold dropBufs
  refine List.foldlRecOn (motive := fun v => Quiet s v) _ _ ⟨rfl, rfl, h⟩ fun v hv n _ => hv.trans ?_
  split
  · exact ⟨rfl, rfl, hv.reqs⟩
  · split
    · exact quiet_setBuf hv.reqs ..
    · split
      · exact (quiet_setBuf hv.reqs n _).trans (quiet_toFlush (s := setBuf v n _) hv.reqs n)
      · exact quiet_freeBuf hv.reqs n

/-- A thread that keeps no overlay space is freed of what it holds. -/
theorem quiet_releaseAll (h : s.buf.reqs = []) {t : Nat} (ho : ∀ y ∈ s.map.ovl, y.1 ≠ 2 ^ 64 + t) : Quiet s (releaseAll s t) := by
  unfold releaseAll
  extract_lets v w
  have hv : Quiet s v := quiet_modTh h t _
  have hnone : ¬ (v.map.ovl.any fun e => decide (e.1 = 2 ^ 64 + t)) = true := by
    simp only [List.any_eq_true, decide_eq_true_eq, not_exists, not_and]
    exact ho
  have hw : w = v := if_neg hnone
  have hdrop : Quiet v (dropBufs w t) := by rw [hw]; exact quiet_dropBufs hv.reqs t
  exact hv.trans (hdrop.trans (quiet_serveBufs hdrop.reqs))

theorem dropLocks_none {c : Nat} (h : (th s c).locks = []) : dropLocks s c = s := by
  rw [dropLocks, h, List.map_nil, List.foldl_nil]

theorem commitAtDone_frame (c : Nat) : (commitAtDone s c).mem = s.mem ∧ (commitAtDone s c).sent = s.sent ∧
    (commitAtDone s c).buf = s.buf := by
  unfold commitAtDone
  split <;> exact ⟨rfl, rfl, rfl⟩

/-- The end of a command's thread: DONE, with the status given where it shows no units (R119, R144). -/
theorem th_endData {c : Nat} (h : (th s c).st ≠ .faulted) (e : Ending) : (th (endData s c e) c).st = .done ∧
    (showsUnits e.cls = false → (th (endData s c e) c).ending = some e) := by
  unfold endData
  rw [if_neg h]
  dsimp only
  rw [th_modTh_same]
  refine ⟨rfl, fun hu => ?_⟩
  rw [hu, Bool.and_false]
  rfl

/-- A command that holds no lock ends, with a status that is no failure of host memory. -/
theorem quiet_endData {c : Nat} (hr : s.buf.reqs = []) (ho : ∀ y ∈ s.map.ovl, y.1 ≠ 2 ^ 64 + c) (hl : (th s c).locks = [])
    (hf : (th s c).st ≠ .faulted) {e : Ending} (he : e.cls ≠ 0x50) : Quiet s (endData s c e) := by
  unfold endData
  rw [if_neg hf, if_neg he]
  dsimp only
  rw [dropLocks_none hl]
  have hall := quiet_releaseAll hr ho
  obtain ⟨hm, hs, hb⟩ := commitAtDone_frame (s := releaseAll s c) c
  have hdone : Quiet (releaseAll s c) (commitAtDone (releaseAll s c) c) := ⟨hm, hs, hb ▸ hall.reqs⟩
  exact hall.trans (hdone.trans (quiet_modTh hdone.reqs c _))

end

/-! ### The row of a whole command (R131) -/

section
variable {s : State} {o c : Nat} {run : State → Option State}

/-- A context runs a command of opcode `o` in a mode in which handlers run. -/
def rowDue (s : State) (c o : Nat) : Prop := isHost c = true ∧ anvilMode s = true ∧ opcOf s c = o

theorem dataRow_notDue (h : ¬ rowDue s c o) : dataRow o c run s = .next s := by
  unfold dataRow
  refine if_pos ?_
  rw [Bool.not_eq_true', Bool.eq_false_iff]
  intro hc
  rw [Bool.and_eq_true, Bool.and_eq_true, decide_eq_true_eq] at hc
  exact h ⟨hc.1.1, hc.1.2, hc.2⟩

/-- Checked, not yet charged: the thread as its handler is dispatched (R161, R246). -/
def rowBegun (s : State) (c : Nat) : State :=
  { setTh (tick s) c (dispatched s c) with strides := s.strides.filter fun e => e.1 / 8 != c }

theorem th_rowBegun (s : State) (c : Nat) : th (rowBegun s c) c = dispatched s c := by
  show th (setTh (tick s) c (dispatched s c)) c = _
  rw [th_setTh_same]

theorem threadsKept_rowBegun (s : State) (c : Nat) : ThreadsKept c s (rowBegun s c) := fun m hm => by
  show th (setTh (tick s) c (dispatched s c)) m = th (tick s) m
  rw [th_setTh_other _ _ hm]

theorem cond_rowDue (h : rowDue s c o) : (isHost c && anvilMode s && decide (opcOf s c = o)) = true := by
  obtain ⟨hh, hm, ho⟩ := h
  rw [hh, hm, ho]
  simp

/-- The row of an ARMED context from its checks on, `v` being the state after its dispatch (R131, R396). -/
def rowChecked (o c : Nat) (run : State → Option State) (v : State) : State :=
  match dataFault v c with
  | some e => endData v c e
  | none =>
    let n := bNblk (cx v c).block + 1
    let w := if [2, 8, 9].contains o then { v with md := { v.md with reserved := mset 0 v.md.reserved c n } } else v
    if chargeFits w c 1 (4096 * n) (mediaCharge v o n) then
      let m := modTh (makeCharge w c 1 (4096 * n) (mediaCharge v o n)) c fun x => { x with charged := true }
      (run m).getD m
    else parkCharge w c 1 (4096 * n) (mediaCharge v o n) .charged

theorem dataRow_armed (h : rowDue s c o) (ha : (th s c).st = .armed) :
    dataRow o c run s = .next (rowChecked o c run (rowBegun s c)) := by
  unfold dataRow
  dsimp only
  rw [cond_rowDue h, ha]
  rfl

theorem rowChecked_fault {v : State} {e : Ending} (hf : dataFault v c = some e) : rowChecked o c run v = endData v c e := by
  rw [rowChecked, hf]

/-- A charge that cannot be made parks the thread. -/
theorem rowChecked_parks {v : State} (hf : dataFault v c = none) (ho : [2, 8, 9].contains o = false)
    (hq : chargeFits v c 1 (4096 * (bNblk (cx v c).block + 1)) (mediaCharge v o (bNblk (cx v c).block + 1)) = false) :
    rowChecked o c run v = parkCharge v c 1 (4096 * (bNblk (cx v c).block + 1)) (mediaCharge v o (bNblk (cx v c).block + 1)) .charged := by
  rw [rowChecked, hf]
  dsimp only
  rw [ho, if_neg Bool.false_ne_true, hq, if_neg Bool.false_ne_true]

/-- The records of a command that waits for its end have committed. -/
theorem dataRow_ends (h : rowDue s c o) (hst : (th s c).st = .waiting) {st res : Nat} (hk : (th s c).cont = .ending st res)
    (hw : (th s c).why = .dma) (ht : openTag (th s c) = none) (hx : openXfer (th s c) = none) (hr : recsOut s c = false) :
    dataRow o c run s = .next (endData s c (endingOf st res)) := by
  unfold dataRow
  dsimp only
  rw [cond_rowDue h, hst, hk]
  exact next_act (by simp [hw, ht, hx, hr])

end

/-! ### O35 -/

section
variable {s a : State} {o c : Nat}

/-- `a` shows a command's row what `s` shows it: time alone has passed. -/
structure SameRow (s a : State) : Prop where
  thr : a.thr = s.thr
  ctx : a.ctx = s.ctx
  mem : a.mem = s.mem
  sent : a.sent = s.sent
  buf : a.buf = s.buf
  map : a.map = s.map
  d : a.d = s.d
  mode : mode a = mode s

theorem sameRow_ite (p : Prop) [Decidable p] (s : State) (el : Elapse) : SameRow s (if p then elapse s el else s) := by
  by_cases hp : p
  · rw [if_pos hp]
    constructor <;> simp
  · rw [if_neg hp]
    exact ⟨rfl, rfl, rfl, rfl, rfl, rfl, rfl, rfl⟩

theorem SameRow.th (h : SameRow s a) (t : Nat) : th a t = th s t := by rw [Machine.th, Machine.th, h.thr]

theorem SameRow.cx (h : SameRow s a) (c : Nat) : cx a c = cx s c := by rw [Machine.cx, Machine.cx, h.ctx]

theorem SameRow.recsOut (h : SameRow s a) (hk : a.keep = s.keep) : recsOut a c = recsOut s c := by
  rw [Machine.recsOut, Machine.recsOut, h.map, hk]

theorem SameRow.rowDue (h : SameRow s a) : rowDue a c o ↔ rowDue s c o := by
  rw [Machine.rowDue, Machine.rowDue, anvilMode, anvilMode, inMode, inMode, h.mode, opcOf, opcOf, h.cx]

/-- A check that fails ends the command with its status; nothing is written to memory and nothing sent. -/
theorem row_refused (h : SameRow s a) {e : Ending} (hu : showsUnits e.cls = false) (he : e.cls ≠ 0x50) :
    (th (endData (rowBegun a c) c e) c).st = .done ∧ (th (endData (rowBegun a c) c e) c).ending = some e ∧
    (s.buf.reqs = [] → (∀ y ∈ s.map.ovl, y.1 ≠ 2 ^ 64 + c) →
      (endData (rowBegun a c) c e).mem = s.mem ∧ (endData (rowBegun a c) c e).sent = s.sent) := by
  have hf : (th (rowBegun a c) c).st ≠ .faulted := by rw [th_rowBegun]; exact TSt.noConfusion
  have hl : (th (rowBegun a c) c).locks = [] := by rw [th_rowBegun]; rfl
  obtain ⟨hd, hend⟩ := th_endData hf e
  refine ⟨hd, hend hu, fun hr ho => ?_⟩
  have hq := quiet_endData (s := rowBegun a c) (c := c) ((congrArg BufMgr.reqs h.buf).trans hr)
    (fun y hy => ho y (by rw [← h.map]; exact hy)) hl hf he
  exact ⟨hq.mem.trans h.mem, hq.sent.trans h.sent⟩

theorem dataFault_mode (h : mode s ≠ mRun) : dataFault s c = some ⟨0x13, 2, none, 0⟩ := by
  unfold dataFault blockFault
  rw [dataMode_eq_false h]
  rfl

theorem dataFault_field {d : Nat} (h : mode s = mRun) (hl : (cx s c).late = false) (hf : fieldFault (cx s c).block = some d) :
    dataFault s c = some ⟨0x11, d, none, 0⟩ := by
  unfold dataFault blockFault
  dsimp only
  rw [dataMode_run h, hl, hf]
  rfl

theorem mediaCharge_eq (s : State) (n : Nat) (h : o ∈ [1, 2, 3, 4, 6, 7, 8, 9, 0x0A]) :
    mediaCharge s o n = if o = 1 ∨ (6 ≤ o ∧ o ≤ 9) then eNom s 0x10 * n else 0 := by
  have hiff : ([1, 6, 7, 8, 9].contains o = true) ↔ (o = 1 ∨ (6 ≤ o ∧ o ≤ 9)) := by
    revert o
    decide
  rw [mediaCharge]
  exact if_congr hiff rfl rfl

theorem parkCharge_frame (s : State) (t n y u : Nat) (k : Cont) : (parkCharge s t n y u k).mem = s.mem ∧
    (parkCharge s t n y u k).sent = s.sent ∧ (th (parkCharge s t n y u k) t).cont = k := by
  rw [parkCharge, wait_mem, wait_sent, th_wait]
  exact ⟨rfl, rfl, rfl⟩

/-- Each data command's instruction is its row, where TRIM and WRITE_ZEROES let their time pass first. -/
theorem exec_dataRow {x : DataIn} {el : Elapse} {i : Instr}
    (h : (i, o) ∈ [(Instr.read c x, 1), (.write c x, 2), (.writeZeroes c el, 3), (.trim c el, 4), (.verify c x, 6), (.compare c x, 7),
      (.compareAndWrite c x, 8), (.copy c x, 9), (.healthRead c x, 0x0A)]) (s : State) :
    o ∈ [1, 2, 3, 4, 6, 7, 8, 9, 0x0A] ∧ ∃ run, exec i s = dataRow o c run (if o = 3 ∨ o = 4 then elapse s el else s) := by
  simp only [List.mem_cons, Prod.mk.injEq, List.not_mem_nil, or_false] at h
  rcases h with ⟨rfl, rfl⟩ | ⟨rfl, rfl⟩ | ⟨rfl, rfl⟩ | ⟨rfl, rfl⟩ | ⟨rfl, rfl⟩ | ⟨rfl, rfl⟩ | ⟨rfl, rfl⟩ | ⟨rfl, rfl⟩ | ⟨rfl, rfl⟩
  · exact ⟨by decide, _, (execRead.eq_1 c x s).trans (congrArg (dataRow 1 c _) (if_neg (by decide)).symm)⟩
  · exact ⟨by decide, _, (execWrite.eq_1 c x s).trans (congrArg (dataRow 2 c _) (if_neg (by decide)).symm)⟩
  · exact ⟨by decide, _, (execWriteZeroes.eq_1 c el s).trans (congrArg (dataRow 3 c _) (if_pos (by decide)).symm)⟩
  · exact ⟨by decide, _, (execTrim.eq_1 c el s).trans (congrArg (dataRow 4 c _) (if_pos (by decide)).symm)⟩
  · exact ⟨by decide, _, (execVerify.eq_1 c x s).trans (congrArg (dataRow 6 c _) (if_neg (by decide)).symm)⟩
  · exact ⟨by decide, _, (execCompare.eq_1 c x s).trans (congrArg (dataRow 7 c _) (if_neg (by decide)).symm)⟩
  · exact ⟨by decide, _, (execCompareAndWrite.eq_1 c x s).trans (congrArg (dataRow 8 c _) (if_neg (by decide)).symm)⟩
  · exact ⟨by decide, _, (execCopy.eq_1 c x s).trans (congrArg (dataRow 9 c _) (if_neg (by decide)).symm)⟩
  · exact ⟨by decide, _, (execHealthRead.eq_1 c x s).trans (congrArg (dataRow 0x0A c _) (if_neg (by decide)).symm)⟩

end

/-- Settles O35: each clause is one path through the row of a whole command, taken in the state after its time. -/
theorem dataChecks : Obligations.DataChecks := by
  intro s c x el i o hi
  obtain ⟨ho, run, hrow⟩ := exec_dataRow hi s
  have hrest := sameRow_ite (o = 3 ∨ o = 4) s el
  have hkeep : (if o = 3 ∨ o = 4 then elapse s el else s).keep = s.keep := by split <;> simp
  generalize (if o = 3 ∨ o = 4 then elapse s el else s) = a at *
  have hcx : cx (rowBegun a c) c = cx s c := hrest.cx c
  have harmed (hr : rowDue s c o) (ha : (th s c).st = .armed) : dataRow o c run a = .next (rowChecked o c run (rowBegun a c)) :=
    dataRow_armed (hrest.rowDue.2 hr) ((congrArg Thread.st (hrest.th c)).trans ha)
  dsimp only
  rw [hrow]
  refine ⟨fun hr => dataRow_notDue (mt hrest.rowDue.1 hr), fun hr ha hm => ?_, fun d hr ha hm hl hf => ?_, fun hr ha hf hno hq => ?_,
    fun st res hr hst hk hw ht hx hro => ?_⟩
  · have hf : dataFault (rowBegun a c) c = some ⟨0x13, 2, none, 0⟩ := dataFault_mode (hrest.mode ▸ hm)
    rw [harmed hr ha, rowChecked_fault hf]
    exact ⟨_, rfl, row_refused hrest rfl (by decide)⟩
  · have hf' : dataFault (rowBegun a c) c = some ⟨0x11, d, none, 0⟩ :=
      dataFault_field (hrest.mode.trans hm) ((congrArg Ctx.late hcx).trans hl) (hcx ▸ hf)
    have hcls : (0x11 : Nat) ≠ 0x50 := by decide
    rw [harmed hr ha, rowChecked_fault hf']
    exact ⟨_, rfl, row_refused hrest rfl hcls⟩
  · have hmedia : mediaCharge a o (bNblk (cx s c).block + 1) = _ := mediaCharge_eq a _ ho
    rw [← hmedia] at hq ⊢
    have hpark : rowChecked o c run (rowBegun a c) = _ := rowChecked_parks hf hno (by rw [hcx]; exact hq)
    rw [harmed hr ha, hpark, hcx]
    obtain ⟨hst, hwhy, -⟩ := th_parkCharge (rowBegun a c) c 1 (4096 * (bNblk (cx s c).block + 1)) (mediaCharge a o (bNblk (cx s c).block + 1)) .charged
    obtain ⟨hmem, hsent, hcont⟩ := parkCharge_frame (rowBegun a c) c 1 (4096 * (bNblk (cx s c).block + 1)) (mediaCharge a o (bNblk (cx s c).block + 1)) .charged
    refine ⟨_, rfl, hst, hwhy, hcont, ?_, fun m hm => ?_, hmem.trans hrest.mem, hsent.trans hrest.sent⟩
    · rw [parkCharge_parked, ← hrest.d]
      rfl
    · rw [threadsKept_parkCharge _ _ _ _ _ _ m hm, ← hrest.th m, threadsKept_rowBegun a c m hm]
  · have hth := hrest.th c
    refine ⟨_, dataRow_ends (hrest.rowDue.2 hr) (hth.symm ▸ hst) (hth.symm ▸ hk) (hth.symm ▸ hw) (hth.symm ▸ ht) (hth.symm ▸ hx)
      ((hrest.recsOut hkeep).trans hro), rfl, (th_endData ?_ _).1⟩
    rw [hth, hst]
    decide

end Sys2Proof.Machine
end
section
/-! PROOFS. Data commands on a thread table out of its canonical form. -/
namespace Sys2Proof.Machine
open Sys2Proof Sys2Proof.Safety

/-! ### A thread table that lists a thread twice

The thread table is a list of entries, and the statements on data commands take any. One that lists a thread twice, out of the canonical
form, reads as its first entry; the search for a lock's waiters goes through every entry (R192). A thread that waits by its second
entry alone is given its own lock back as it ends. -/

/-- In RUN context 1 runs opcode `o` and holds the locks `l`. A second entry of its thread waits for the lock of billet 0. -/
def listedTwice (o : Nat) (l : List (Nat × Nat)) : State :=
  { setF State.reset HELM_MODE_CUR mRun with
    ctx := [(1, { Ctx.reset with block := o })]
    thr := [(1, { Thread.idle with st := .ready, charged := true, locks := l }), (1, { Thread.idle with why := .lock })] }

/-- The locks that a thread holds after a command. -/
def locksAfter (r : Res) (t : Nat) : List (Nat × Nat) :=
  match r with
  | .next u => (th u t).locks
  | _ => []

theorem locksAfter_next {r : Res} {u : State} (h : r = .next u) (t : Nat) : locksAfter r t = (th u t).locks := by
  rw [h, locksAfter]

/-- The end of a READ gives the lock it drops back to the same thread. -/
theorem endData_listedTwice : (th (endData (listedTwice 1 [(0, 0)]) 1 ⟨0, 0, none, 0⟩) 1).locks = [(0, 0)] := by decide +kernel

/-- Refutes O36: its last clause says that a thread that ends, its own entry not waiting for a lock, holds none. In
`listedTwice 1 [(0, 0)]`, whose thread table is out of its canonical form, it holds the lock of billet 0. -/
theorem not_dataReads : ¬ Obligations.DataReads := by
  unfold Obligations.DataReads
  intro h
  obtain ⟨-, -, -, -, -, -, -, hend⟩ := h (listedTwice 1 [(0, 0)]) 1 ⟨[], [], [], none, [], []⟩
  obtain ⟨-, -, hlocks, -⟩ := hend ⟨0, 0, none, 0⟩ (by decide) (by decide +kernel) (by decide +kernel) (by decide +kernel)
  rw [endData_listedTwice] at hlocks
  cases hlocks

/-! A TRIM of one block -/

/-- The unit of a TRIM of block 0, placed. -/
def trimPlaced : UnitRes × State := placeUnit (elapse (listedTwice 4 []) ⟨0, 0⟩) 1 0 0 0 true [] [.unmap]

/-- The unit is placed. -/
def UnitRes.isPlaced : UnitRes → Bool
  | .placed => true
  | _ => false

theorem eq_placed {r : UnitRes × State} (h : r.1.isPlaced = true) : r = (.placed, r.2) := by
  obtain ⟨a, v⟩ := r
  cases a with
  | placed => rfl
  | _ => cases h

theorem trimPlaced_placed : trimPlaced = (.placed, trimPlaced.2) := eq_placed (by decide +kernel)

theorem trimPlaced_effect : (th trimPlaced.2 1).st ≠ .faulted ∧ (th trimPlaced.2 1).why ≠ .lock ∧
    opcOf trimPlaced.2 1 ∈ [2, 3, 4, 8, 9] ∧ (∀ r ∈ trimPlaced.2.buf.reqs, r.t ≠ 1) ∧ recsOut trimPlaced.2 1 = false := by
  decide +kernel

/-- The end of the TRIM gives the lock of its billet back to the same thread. -/
theorem locksAfter_trim : locksAfter (exec (.trim 1 ⟨0, 0⟩) (listedTwice 4 [])) 1 = [(0, 0)] := by decide +kernel

/-- Refutes O37: a command whose unit is placed and committed is said to end without a lock where its own entry does not wait for
one. The TRIM of `listedTwice 4 []`, whose thread table is out of its canonical form, ends with the lock of billet 0. -/
theorem not_dataWrites : ¬ Obligations.DataWrites := by
  unfold Obligations.DataWrites
  intro h
  obtain ⟨-, -, htrim, -⟩ := h (listedTwice 4 []) 1 ⟨[], [], [], none, [], []⟩ ⟨0, 0⟩
  have hgoes : (th (listedTwice 4 []) 1).cont = .nothing := by decide +kernel
  have hends := htrim ⟨by decide +kernel, by decide +kernel, by decide +kernel, by decide +kernel, by decide +kernel,
    fun _ _ h => by rw [hgoes] at h; cases h⟩ (by decide +kernel) (by decide +kernel)
  obtain ⟨hst, hwhy, hopc, hreqs, hrecs⟩ := trimPlaced_effect
  obtain ⟨hplaced, -⟩ := hends
  obtain ⟨u, hu, -, hlocks, -⟩ := hplaced trimPlaced.2 trimPlaced_placed hst hwhy hopc hreqs hrecs
  rw [← locksAfter_next hu, locksAfter_trim] at hlocks
  cases hlocks

end Sys2Proof.Machine
end
section
/-! PROOFS. KEY_LOAD. -/
namespace Sys2Proof.Machine
open Sys2Proof Sys2Proof.Safety

/-! ### A key change as one change (R376, R380) -/

section
variable {s : State} {o : List Byte}

/-- The page that an object of KIND 0 to 2 leaves (R376, R380). -/
def changedPage (k : KeyPage) (o : List Byte) : KeyPage :=
  let k' : KeyPage :=
    if oLe o 6 1 = 0 then
      { k with a := if loadVer k = 0 then keyOpen o else k.a, b := if loadVer k = 0 then k.b else keyOpen o, wver := loadVer k, wset := true }
    else if oLe o 6 1 = 1 then { k with a := if k.wver = 0 then k.a else none, b := if k.wver = 0 then none else k.b }
    else { k with a := none, b := none, wset := false }
  { k' with epoch := keyEpoch o }

theorem newLode_ret : (newLode s).ret = s.ret :=
  foldl_field (·.ret) _ (fun _ k => setF_ret_of (f := CAS_LODE_WORD k) rfl _) _ s

theorem newLode_rsm : (newLode s).rsm = s.rsm := foldl_field (·.rsm) _ (fun s k => setF_rsm s (CAS_LODE_WORD k) _) _ s

theorem applyKey_keys : (applyKey s o).rsm.keys = mset KeyPage.empty s.rsm.keys (oLe o 8 2) (changedPage (keyPage s (oLe o 8 2)) o) := by
  unfold applyKey
  dsimp only
  rw [newLode_rsm, addWrap, setF_rsm, setC, setF_rsm]
  rfl

theorem keyPage_applyKey_same : keyPage (applyKey s o) (oLe o 8 2) = changedPage (keyPage s (oLe o 8 2)) o := by
  rw [keyPage, applyKey_keys, mget_mset_same]

theorem keyPage_applyKey_other {m : Nat} (h : m ≠ oLe o 8 2) : keyPage (applyKey s o) m = keyPage s m := by
  rw [keyPage, applyKey_keys, mget_mset_other _ _ _ h, keyPage]

theorem epoch_applyKey : getF (applyKey s o) CIP_EPOCH_EPOCH = keyEpoch o % 2 ^ CIP_EPOCH_EPOCH.w := by
  unfold applyKey
  dsimp only
  rw [getF_of_ret rfl newLode_ret, addWrap, getF_setF_other _ _ (by decide), getF_setC_same]

/-- What is passed on leaves the key pages as they are. -/
theorem passOn_rsm (s : State) (w : List Nat) : (passOn s w).rsm = s.rsm := by
  have h : (if mirrors s then send s (.pair 6 w) else s).rsm = s.rsm := by split <;> rfl
  unfold passOn
  dsimp only
  generalize (if mirrors s then send s (.pair 6 w) else s) = u at h
  split
  · rw [foldl_field (·.rsm) _ fun s p => send_rsm .., h]
  · exact h

theorem passOnWait_rsm (s : State) (w : List Nat) : (passOnWait s w).rsm = s.rsm := by
  unfold passOnWait
  dsimp only
  split <;> simp [passOn_rsm]

/-- A LOAD writes one of the two versions, which becomes the write version (R376). -/
theorem loadVer_cases (k : KeyPage) : loadVer k = 0 ∨ loadVer k = 1 := by
  unfold loadVer
  split
  · exact .inl rfl
  · split
    · split
      · exact .inl rfl
      · exact .inr rfl
    · omega

theorem changedPage_load (k : KeyPage) (h : oLe o 6 1 = 0) : (changedPage k o).wset = true ∧ (changedPage k o).wver = loadVer k ∧
    (changedPage k o).ver (loadVer k) = keyOpen o ∧ (changedPage k o).ver (1 - loadVer k) = k.ver (1 - loadVer k) := by
  unfold changedPage
  rw [if_pos h]
  rcases loadVer_cases k with hv | hv <;> rw [hv] <;> exact ⟨rfl, rfl, rfl, rfl⟩

/-- RETIRE keeps the write version alone (R376). -/
theorem changedPage_retire {k : KeyPage} (h : oLe o 6 1 = 1) (hv : k.wver < 2) :
    (changedPage k o).ver k.wver = k.ver k.wver ∧ (changedPage k o).ver (1 - k.wver) = none := by
  obtain hv | hv : k.wver = 0 ∨ k.wver = 1 := by omega
  all_goals
    simp only [changedPage, h, hv]
    exact ⟨rfl, rfl⟩

theorem changedPage_erase (k : KeyPage) (h : oLe o 6 1 = 2) : (changedPage k o).a = none ∧ (changedPage k o).b = none ∧
    (changedPage k o).wset = false := by
  unfold changedPage
  rw [h]
  exact ⟨rfl, rfl, rfl⟩

end

/-! ### The row of KEY_LOAD (R130, R379) -/

section
variable {s : State} {r : HelmReq} {pb : ParamBuf} {partner k p : Nat} {sel : Nat → Bool} {o : List Byte}

/-- With no change that waits for its transfers, the row judges the next request. -/
theorem keyRow_next (hk : s.x.pair.key = none) (hn : nextReq s = some r) (ho : reqOpc r = 0x83) (hs : sel (bits (ARG0 r) 16 2) = true) :
    keyRow sel pb partner s =
      if keyModeBad s r then act s.boot.image s (answerReq (beginReq s r.src) r 0x13 4)
      else if keyBusy s (bits (ARG0 r) 16 2) (bits (ARG0 r) 0 11) then .next s
      else adminBufRow 0x83 pb (fun r => sel (bits (ARG0 r) 16 2)) [mRun, mService]
        (fun _ r => fieldCheck r (bits (ARG0 r) 16 2 != 3 && decide (bits (ARG0 r) 0 11 ≤ 1039)) true
          (some (if bits (ARG0 r) 16 2 = 0 then 448 else 64)))
        (fun r s => if flag s CAS_STAT_FROZEN && !(((keyWalk 1025 (reqBuf r pb)).getD []).all fun o => keyUid o != ownUid) then
            answerReq s r 0x13 8
          else keyLoad r pb partner s) s := by
  unfold keyRow
  rw [hk, hn]
  dsimp only
  rw [ho, hs]
  rfl

theorem keyRow_modeBad (hk : s.x.pair.key = none) (hn : nextReq s = some r) (ho : reqOpc r = 0x83) (hs : sel (bits (ARG0 r) 16 2) = true)
    (hi : s.boot.image = true) (hb : keyModeBad s r = true) :
    keyRow sel pb partner s = .next (answerReq (beginReq s r.src) r 0x13 4) := by
  rw [keyRow_next hk hn ho hs, hb, if_pos rfl, hi]
  rfl

theorem keyRow_busy (hk : s.x.pair.key = none) (hn : nextReq s = some r) (ho : reqOpc r = 0x83) (hs : sel (bits (ARG0 r) 16 2) = true)
    (hb : keyModeBad s r = false) (hbusy : keyBusy s (bits (ARG0 r) 16 2) (bits (ARG0 r) 0 11) = true) :
    keyRow sel pb partner s = .next s := by
  rw [keyRow_next hk hn ho hs, hb, hbusy]
  rfl

/-- A request whose checks pass is carried out (R379). -/
theorem keyRow_loads (hk : s.x.pair.key = none) (ha : asked s r 0x83 [mRun, mService]) (hs : sel (bits (ARG0 r) 16 2) = true)
    (hb : keyModeBad s r = false) (hbusy : keyBusy s (bits (ARG0 r) 16 2) (bits (ARG0 r) 0 11) = false) (h3 : bits (ARG0 r) 16 2 ≠ 3)
    (hf : fieldCheck r (decide (bits (ARG0 r) 0 11 ≤ 1039)) true (some (if bits (ARG0 r) 16 2 = 0 then 448 else 64)) = none)
    (hbuf : bufFail s r pb = none) : keyRow sel pb partner s = .next (keyLoad r pb partner (beginReq s r.src)) := by
  have hf' : fieldCheck r (bits (ARG0 r) 16 2 != 3 && decide (bits (ARG0 r) 0 11 ≤ 1039)) true
      (some (if bits (ARG0 r) 16 2 = 0 then 448 else 64)) = none := by rw [bne_iff_ne.2 h3]; exact hf
  have hfrozen : flag (beginReq s r.src) CAS_STAT_FROZEN = false := ha.2.2.2.2.2
  rw [keyRow_next hk ha.1 ha.2.1 hs, hb, hbusy, if_neg Bool.false_ne_true, if_neg Bool.false_ne_true,
    adminBufRow_effect ha hs hbuf hf', hfrozen]
  rfl

theorem keyLoad_noObjects (hw : keyWalk 1025 (reqBuf r pb) = none) : keyLoad r pb partner s = answerReq s r 0x11 0x80 := by
  unfold keyLoad
  rw [hw]

/-- One object of this module, with no partner: applied where it passes steps 2 to 4 and the page takes its kind (R379). -/
theorem keyLoad_own (hw : keyWalk 1025 (reqBuf r pb) = some [o]) (hu : keyUid o = ownUid) (hm : mirrors s = false) :
    keyLoad r pb partner s =
      if !keyOk s (bits (ARG0 r) 16 2) (bits (ARG0 r) 0 11) o || !keyFits s (bits (ARG0 r) 16 2) (bits (ARG0 r) 0 11) then answerReq s r 0x11 0x80
      else answerReq (passOnWait (applyKey s o) (6 :: toNats (reqBuf r pb))) r 0 0 := by
  have hmine : [o].filter (fun o => keyUid o = ownUid) = [o] := List.filter_cons_of_pos (decide_eq_true hu)
  unfold keyLoad
  rw [hw]
  dsimp only
  rw [keyPartner, hm, hmine]
  rfl

theorem keyOk_eq (hh : keyHeadOk k p o = true) (he : getF s CIP_EPOCH_EPOCH < keyEpoch o) :
    keyOk s k p o = (k != 0 || (keyOpen o).isSome) := by
  rw [keyOk, hh, decide_eq_true he, Bool.true_and, Bool.true_and]

theorem keyHeadOk_kind (hh : keyHeadOk k p o = true) : oLe o 6 1 = k ∧ oLe o 8 2 = p := by
  simp only [keyHeadOk, Bool.and_eq_true, beq_iff_eq] at hh
  obtain ⟨⟨⟨⟨⟨⟨⟨-, -⟩, hk⟩, -⟩, hp⟩, -⟩, -⟩, -⟩ := hh
  exact ⟨hk, hp⟩

theorem answerReq_rsm (v : State) (cls d : Nat) : (answerReq v r cls d).rsm = v.rsm := rfl

/-- What the answer of an applied object leaves: the epoch, the object's page changed, every other page as it was. -/
theorem keyLoaded (w : List Nat) (hh : keyHeadOk k p o = true) :
    let u := answerReq (passOnWait (applyKey s o) w) r 0 0
    getF u CIP_EPOCH_EPOCH = keyEpoch o % 2 ^ CIP_EPOCH_EPOCH.w ∧ (∀ m, m ≠ p → keyPage u m = keyPage s m) ∧
      keyPage u p = changedPage (keyPage s p) o := by
  obtain ⟨-, rfl⟩ := keyHeadOk_kind hh
  have hkeys (m : Nat) : keyPage (answerReq (passOnWait (applyKey s o) w) r 0 0) m = keyPage (applyKey s o) m :=
    by rw [keyPage, keyPage, answerReq_rsm, passOnWait_rsm]
  have hepoch : getF (answerReq (passOnWait (applyKey s o) w) r 0 0) CIP_EPOCH_EPOCH = getF (applyKey s o) CIP_EPOCH_EPOCH :=
    getF_of_ret rfl ((answerReq_ret _ 0 0).trans (passOnWait_ret _ w))
  exact ⟨hepoch.trans epoch_applyKey, fun m hm => (hkeys m).trans (keyPage_applyKey_other hm), (hkeys _).trans keyPage_applyKey_same⟩

end

/-! ### O40 -/

/-- What KeyLoads says of one kind `k` and its instruction `i`. -/
def tellsKind (s : State) (r : HelmReq) (pb : ParamBuf) (o : List Byte) (k : Nat) (i : Instr) : Prop :=
  let p := bits (ARG0 r) 0 11
  let v := beginReq s r.src
  let kp := keyPage s p
  bits (ARG0 r) 16 2 = k →
    let fields := fieldCheck r (decide (p ≤ 1039)) true (some (if k = 0 then 448 else 64))
    let goes := asked s r 0x83 [mRun, mService] ∧ keyModeBad s r = false ∧ keyBusy s k p = false ∧ fields = none ∧ bufFail s r pb = none
    (keyModeBad s r = true → ∃ u, exec i s = .next u ∧ u = answerHelm v r.src ⟨0x13, 4, none, 0⟩ [])
    ∧ (mode s = mRun → k ≠ 0 → keyModeBad s r = true)
    ∧ (keyModeBad s r = false → keyBusy s k p = true → exec i s = .next s)
    ∧ (goes → keyWalk 1025 (reqBuf r pb) = none → ∃ u, exec i s = .next u ∧ u = answerHelm v r.src ⟨0x11, 0x80, none, 0⟩ [])
    ∧ (goes → keyWalk 1025 (reqBuf r pb) = some [o] → keyUid o = ownUid → mirrors s = false → keyHeadOk k p o = true →
        getF s CIP_EPOCH_EPOCH < keyEpoch o → keyFits s k p = true → ∃ u, exec i s = .next u ∧
          if k = 0 ∧ keyOpen o = none then u = answerHelm v r.src ⟨0x11, 0x80, none, 0⟩ []
          else getF u CIP_EPOCH_EPOCH = keyEpoch o % 2 ^ CIP_EPOCH_EPOCH.w ∧ (∀ m, m ≠ p → keyPage u m = keyPage s m) ∧
            (k = 0 → (keyPage u p).wset = true ∧ (keyPage u p).wver = loadVer kp ∧ (keyPage u p).ver (loadVer kp) = keyOpen o ∧
              (keyPage u p).ver (1 - loadVer kp) = kp.ver (1 - loadVer kp)) ∧
            (k = 1 → kp.wver < 2 → (keyPage u p).ver kp.wver = kp.ver kp.wver ∧ (keyPage u p).ver (1 - kp.wver) = none) ∧
            (k = 2 → (keyPage u p).a = none ∧ (keyPage u p).b = none ∧ (keyPage u p).wset = false))

theorem tellsKind_of_row {s : State} {r : HelmReq} {pb : ParamBuf} {o : List Byte} {partner k : Nat} {sel : Nat → Bool} {i : Instr}
    (hn : nextReq s = some r) (ho : reqOpc r = 0x83) (hi : s.boot.image = true) (hkey : s.x.pair.key = none)
    (hrow : exec i s = keyRow sel pb partner s) (hs : sel k = true) (hk : k < 3) : tellsKind s r pb o k i := by
  rintro rfl
  dsimp only
  rw [hrow]
  refine ⟨fun hb => ⟨_, keyRow_modeBad hkey hn ho hs hi hb, rfl⟩, fun hm h0 => ?_, fun hb hbusy => keyRow_busy hkey hn ho hs hb hbusy, ?_, ?_⟩
  · have hk' : bits (ARG0 r) 16 2 = 1 ∨ bits (ARG0 r) 16 2 = 2 := by omega
    rcases hk' with hk' | hk' <;> simp [keyModeBad, hm, hk']
  · rintro ⟨ha, hb, hbusy, hf, hbuf⟩ hw
    exact ⟨_, keyRow_loads hkey ha hs hb hbusy (by omega) hf hbuf, keyLoad_noObjects hw⟩
  · rintro ⟨ha, hb, hbusy, hf, hbuf⟩ hw hu hm hh he hfit
    refine ⟨_, keyRow_loads hkey ha hs hb hbusy (by omega) hf hbuf, ?_⟩
    have hm' : mirrors (beginReq s r.src) = false := hm
    have hfit' : keyFits (beginReq s r.src) (bits (ARG0 r) 16 2) (bits (ARG0 r) 0 11) = true := hfit
    have hok : keyOk (beginReq s r.src) (bits (ARG0 r) 16 2) (bits (ARG0 r) 0 11) o = _ := keyOk_eq hh he
    rw [keyLoad_own hw hu hm', hok, hfit']
    split
    · next h =>
      rw [h.1, h.2]
      rfl
    · next h =>
      have hopen : (bits (ARG0 r) 16 2 != 0 || (keyOpen o).isSome) = true := by
        rw [Bool.or_eq_true, bne_iff_ne, Option.isSome_iff_ne_none, ← not_and_or]
        exact h
      rw [hopen]
      obtain ⟨hkind, -⟩ := keyHeadOk_kind hh
      obtain ⟨hepoch, hother, hpage⟩ := keyLoaded (s := beginReq s r.src) (r := r) (6 :: toNats (reqBuf r pb)) hh
      refine ⟨hepoch, hother, fun h0 => ?_, fun h1 hv => ?_, fun h2 => ?_⟩
      · rw [if_neg (by decide), hpage]
        exact changedPage_load _ (hkind.trans h0)
      · rw [if_neg (by decide), hpage]
        exact changedPage_retire (hkind.trans h1) hv
      · rw [if_neg (by decide), hpage]
        exact changedPage_erase _ (hkind.trans h2)

/-- Settles O40: the row of KEY_LOAD kind by kind, an applied object by the page it leaves. -/
theorem keyLoads : Obligations.KeyLoads := by
  intro s r pb o partner hn ho hi hkey
  exact ⟨tellsKind_of_row hn ho hi hkey (show execKeyLoadLoad pb partner s = _ from rfl) rfl (by decide),
    tellsKind_of_row hn ho hi hkey (show execKeyLoadRetire pb partner s = _ from rfl) rfl (by decide),
    tellsKind_of_row hn ho hi hkey (show execKeyLoadErase pb partner s = _ from rfl) rfl (by decide)⟩

end Sys2Proof.Machine
end
section
/-! PROOFS. Volumes and bindings. -/
namespace Sys2Proof.Machine
open Sys2Proof Sys2Proof.Safety

/-! ### What the commit of a record leaves alone: the removals under way, the range lock, the records themselves (R220, R232) -/

/-- The removals under way, the range lock and the records. -/
def onHelm (s : State) : List (Nat × Nat × Bool) × Option (Nat × Nat) × List JRec := (s.x.deleting, s.map.rangeLock, s.map.recs)

section
variable (s : State)

theorem onHelm_of_eq {s u : State} (hx : u.x = s.x) (hm : u.map = s.map) : onHelm u = onHelm s := by rw [onHelm, hx, hm, onHelm]

@[simp] theorem onHelm_setF (f : Fld) (v : Nat) : onHelm (setF s f v) = onHelm s := onHelm_of_eq (setF_x s f v) (setF_map s f v)
@[simp] theorem onHelm_setC (f : Fld) (v : Nat) : onHelm (setC s f v) = onHelm s := onHelm_setF s f v
@[simp] theorem onHelm_addSat (f : Fld) (v : Nat) : onHelm (addSat s f v) = onHelm s := onHelm_of_eq (addSat_x s f v) (addSat_map s f v)
@[simp] theorem onHelm_addWrap (f : Fld) (v : Nat) : onHelm (addWrap s f v) = onHelm s := onHelm_setF s f _
@[simp] theorem onHelm_event (v : Nat) : onHelm (event s v) = onHelm s := onHelm_of_eq (event_x s v) (event_map s v)
@[simp] theorem onHelm_logEv (a b : Nat) (l : List Nat) : onHelm (logEv s a b l) = onHelm s := rfl
@[simp] theorem onHelm_errInc (i n : Nat) : onHelm (errInc s i n) = onHelm s := rfl
@[simp] theorem onHelm_stamped (n : Nat) : onHelm (stamped s n) = onHelm s := rfl
@[simp] theorem onHelm_send (m : Msg) : onHelm (send s m) = onHelm s := rfl
@[simp] theorem onHelm_modTh (t : Nat) (f : Thread → Thread) : onHelm (modTh s t f) = onHelm s := rfl
@[simp] theorem onHelm_modCx (c : Nat) (f : Ctx → Ctx) : onHelm (modCx s c f) = onHelm s := rfl
@[simp] theorem onHelm_raise (t c e : Nat) : onHelm (raise s t c e) = onHelm s := rfl
@[simp] theorem onHelm_tick : onHelm (tick s) = onHelm s := rfl
@[simp] theorem onHelm_setSlice (q : Nat) (x : Slice) : onHelm (setSlice s q x) = onHelm s := rfl
@[simp] theorem onHelm_with_mem (m : Mem) : onHelm { s with mem := m } = onHelm s := rfl
@[simp] theorem onHelm_with_md (m : Media) : onHelm { s with md := m } = onHelm s := rfl
@[simp] theorem onHelm_with_strides (x : NMap Stride) : onHelm { s with strides := x } = onHelm s := rfl
@[simp] theorem onHelm_with_ovl (o : NMap (List Nat × List Nat)) : onHelm { s with map := { s.map with ovl := o } } = onHelm s := rfl
theorem onHelm_with_ringPos (n : Nat) : onHelm { s with map := { s.map with ringPos := n } } = onHelm s := rfl
theorem onHelm_with_cas (c : Cas) : onHelm (setAux s { s.x with cas := c }) = onHelm s := rfl
@[simp] theorem onHelm_toReady (t : Nat) : onHelm (toReady s t) = onHelm s := onHelm_of_eq (toReady_x s t) (toReady_map s t)
@[simp] theorem onHelm_releaseWith (t r : Nat) (v : W64) : onHelm (releaseWith s t r v) = onHelm s :=
  onHelm_of_eq (releaseWith_x s t r v) (releaseWith_map s t r v)
@[simp] theorem onHelm_adv (t : Nat) : onHelm (adv s t) = onHelm s := onHelm_of_eq (adv_x s t) (adv_map s t)
@[simp] theorem onHelm_retire (t r : Nat) (v : W64) : onHelm (retire s t r v) = onHelm s := onHelm_of_eq (retire_x s t r v) (retire_map s t r v)

@[simp] theorem onHelm_ite {c : Prop} [Decidable c] (a b : State) :
    onHelm (if c then a else b) = if c then onHelm a else onHelm b := apply_ite onHelm c a b

/-! DRAM and the map's write-through queues -/

@[simp] theorem onHelm_dramWr (a : Nat) (b : List Byte) : onHelm (dramWr s a b) = onHelm s := by simp [dramWr]

@[simp] theorem onHelm_dramUe (l k : Nat) : onHelm (dramUe s l k) = onHelm s := by simp [dramUe, ueLog]

@[simp] theorem onHelm_dramCorr (l : Nat) : onHelm (dramCorr s l) = onHelm s := by
  have h : onHelm (errInc (addSat s (DRM_ECNT_CORR (l % 8)) 1) 5 1) = onHelm s := by simp
  unfold dramCorr
  dsimp only
  split
  · rw [onHelm_ite, onHelm_event, onHelm_logEv, onHelm_with_mem, ite_self, h]
  · rw [onHelm_ite, onHelm_ite, onHelm_event, onHelm_logEv, onHelm_with_mem, onHelm_setF, ite_self, ite_self, h]

@[simp] theorem onHelm_bitmapErr (l : Nat) : onHelm (bitmapErr s l) = onHelm s := by simp [bitmapErr, ueLog]

@[simp] theorem onHelm_dramMerge (a n : Nat) (e : MErr) : onHelm (dramMerge s a n e) = onHelm s := by
  cases e <;> simp [dramMerge]

@[simp] theorem onHelm_wtDrain (q : Nat) (e : MErr) : onHelm (wtDrain s q e) = onHelm s := by
  unfold wtDrain
  split <;> simp

@[simp] theorem onHelm_mapWr (a : Nat) (b : List Byte) : onHelm (mapWr s a b) = onHelm s := by simp [mapWr]

@[simp] theorem onHelm_mapWrLe (a n v : Nat) : onHelm (mapWrLe s a n v) = onHelm s := onHelm_mapWr ..

/-! Overlay space -/

@[simp] theorem onHelm_setBit (b i : Nat) (v : Bool) : onHelm (setBit s b i v) = onHelm s := onHelm_mapWr ..

@[simp] theorem onHelm_overUpdate : onHelm (overUpdate s) = onHelm s := by simp [overUpdate]

@[simp] theorem onHelm_newChunk : onHelm (newChunk s).2 = onHelm s := by simp [newChunk]

@[simp] theorem onHelm_newGroup : onHelm (newGroup s).2 = onHelm s := by simp [newGroup]

@[simp] theorem onHelm_takeChunk (j : Nat) : onHelm (takeChunk s j).2 = onHelm s := by
  unfold takeChunk
  split <;> simp

@[simp] theorem onHelm_takeGroup (j : Nat) : onHelm (takeGroup s j).2 = onHelm s := by
  unfold takeGroup
  split <;> simp

@[simp] theorem onHelm_freeChunk (i : Nat) : onHelm (freeChunk s i) = onHelm s := by simp [freeChunk]

@[simp] theorem onHelm_freeGroup (i : Nat) : onHelm (freeGroup s i) = onHelm s := by simp [freeGroup]

@[simp] theorem onHelm_releaseOverlay (j : Nat) : onHelm (releaseOverlay s j) = onHelm s := by
  unfold releaseOverlay
  dsimp only
  rw [onHelm_with_ovl, foldl_field onHelm _ onHelm_freeGroup, foldl_field onHelm _ onHelm_freeChunk]

theorem onHelm_taken {α : Type} (f : State → Nat × State) (h : ∀ s, onHelm (f s).2 = onHelm s) (l : List α) (p : List Nat × State) :
    onHelm (l.foldl (fun (p : List Nat × State) _ => let (x, s) := f p.2; (p.1 ++ [x], s)) p).2 = onHelm p.2 :=
  List.foldlRecOn (motive := fun (q : List Nat × State) => onHelm q.2 = onHelm p.2) l _ rfl fun q hq _ _ => (h q.2).trans hq

@[simp] theorem onHelm_reserveOverlay (j : Nat) (n : Nat × Nat) : onHelm (reserveOverlay s j n) = onHelm s := by
  unfold reserveOverlay
  dsimp only
  rw [onHelm_with_ovl, onHelm_taken newGroup onHelm_newGroup, onHelm_taken newChunk onHelm_newChunk]

@[simp] theorem onHelm_moveOverlay (k j : Nat) : onHelm (moveOverlay s k j) = onHelm s := rfl

/-! A billet changes -/

@[simp] theorem onHelm_dropGroup (g : Nat) : onHelm (dropGroup s g) = onHelm s := by
  unfold dropGroup
  rw [onHelm_freeGroup, foldl_field onHelm _ fun s n => by simp]

theorem onHelm_storeFine (j g : Nat) (x : Nat × Fine) : onHelm (storeFine j s g x) = onHelm s := by
  unfold storeFine
  dsimp only
  split <;> simp

@[simp] theorem onHelm_storeFines (j g : Nat) (l : List (Nat × Fine)) :
    onHelm (l.foldl (fun s x => storeFine j s g x) s) = onHelm s := foldl_field onHelm _ (fun s x => onHelm_storeFine s j g x) l s

@[simp] theorem onHelm_retireFines (g : Nat) (b : Bil) : onHelm (retireFines s g b) = onHelm s := by
  unfold retireFines
  dsimp only
  rw [foldl_field onHelm _ fun s n => by simp, foldl_field onHelm _ fun s k => by simp]

@[simp] theorem onHelm_storeBil (j a i : Nat) (b : Bil) (touched : Bool) : onHelm (storeBil j a s i b touched) = onHelm s := by
  unfold storeBil
  simp only [onHelm_overUpdate, onHelm_ite, onHelm_mapWrLe, onHelm_setBit, onHelm_dropGroup, onHelm_storeFines, onHelm_retireFines, ite_self,
    apply_ite Prod.snd, onHelm_mapWr, onHelm_takeGroup]

theorem onHelm_moveCounts (b b' : Bil) : onHelm (moveCounts s b b') = onHelm s := by
  unfold moveCounts
  refine foldl_field onHelm _ (fun s k => ?_) _ s
  dsimp only
  split
  · rfl
  · split <;> split <;> simp [bandCount, setBandEnt, dramWrLe]

@[simp] theorem onHelm_changeBil (j a i : Nat) (b b' : Bil) (touched : Bool) : onHelm (changeBil j a s i b b' touched) = onHelm s := by
  rw [changeBil, onHelm_storeBil, onHelm_moveCounts]
  rfl

@[simp] theorem onHelm_applyRec (r : JRec) : onHelm (applyRec s r) = onHelm s := by
  unfold applyRec
  split
  · exact foldl_field onHelm _ (fun s i => by simp [applyBil]) _ s
  · exact foldl_field onHelm _ (fun s n => by simp) _ s
  · exact onHelm_mapWrLe ..
  · rfl
  · rfl

/-! Lookups that go on as a record commits -/

@[simp] theorem onHelm_wayErr (q w : Nat) (unc : Bool) : onHelm (wayErr s q w unc) = onHelm s := by simp [wayErr]

@[simp] theorem onHelm_loseCopy (l : Nat) (unc : Bool) : onHelm (loseCopy s l unc) = onHelm s := by
  unfold loseCopy
  dsimp only
  split <;> simp

@[simp] theorem onHelm_missTake (q l : Nat) (str pf : Bool) : onHelm (missTake s q l str pf) = onHelm s := by simp [missTake]

@[simp] theorem onHelm_strideStep (t l : Nat) : onHelm (strideStep s t l) = onHelm s := by
  unfold strideStep
  simp only [onHelm_ite]
  split
  · rfl
  · rw [foldl_field onHelm _ fun s k => by simp [prefetch]]
    simp

@[simp] theorem onHelm_access (t l : Nat) : onHelm (access s t l).2 = onHelm s := by
  unfold access
  dsimp only
  split
  · split <;> simp
  · split
    · split <;> simp
    · simp

@[simp] theorem onHelm_lookWait (t a : Nat) (k : Cont) : onHelm (lookWait s t a k) = onHelm s := by simp [lookWait, advWait, wait]

@[simp] theorem onHelm_lookFault (t : Nat) : onHelm (lookFault s t) = onHelm s := by simp [lookFault]

@[simp] theorem onHelm_lookDone (t rd lbn : Nat) (gen : Bool) : onHelm (lookDone s t rd lbn gen) = onHelm s := by simp [lookDone]

@[simp] theorem onHelm_lookGo (t rd lbn : Nat) (gen : Bool) (n : Nat) (l : List Nat) : onHelm (lookGo s t rd lbn gen n l) = onHelm s := by
  induction l generalizing n s with
  | nil => exact onHelm_lookDone ..
  | cons a l ih =>
    have ha : onHelm (access s t a).2 = onHelm s := onHelm_access s t a
    unfold lookGo
    split
    · exact onHelm_lookWait ..
    · split <;> simp_all

@[simp] theorem onHelm_look (t rd lbn : Nat) (gen : Bool) (n : Nat) : onHelm (look s t rd lbn gen n) = onHelm s := by simp [look]

@[simp] theorem onHelm_wakeWindow : onHelm (wakeWindow s) = onHelm s := by
  unfold wakeWindow
  refine foldl_field onHelm _ (fun s t => ?_) _ s
  split <;> simp

@[simp] theorem onHelm_commitEffects (r : JRec) : onHelm (commitEffects s r) = onHelm s := by simp [commitEffects, commitWhole]


/-- Storing a record's bytes changes the ring's position alone. -/
theorem onHelm_ringStore (r : JRec) : onHelm (ringStore s r) = onHelm s := by
  unfold ringStore
  extract_lets b pos head v
  rw [onHelm_with_ringPos, onHelm_dramWr, onHelm_dramWr]

theorem onHelm_jstat : onHelm (jstat s) = onHelm s := by simp [jstat]

/-- A change passed on is a message. -/
theorem onHelm_passOn (w : List Nat) : onHelm (passOn s w) = onHelm s := by
  have h : onHelm (if mirrors s then send s (.pair 6 w) else s) = onHelm s := by simp
  unfold passOn
  dsimp only
  rw [onHelm_ite, foldl_field onHelm _ fun s p => onHelm_send .., h, ite_self]

theorem onHelm_passOnWait (w : List Nat) : onHelm (passOnWait s w) = onHelm s := by
  unfold passOnWait
  dsimp only
  rw [onHelm_ite, onHelm_with_cas, ite_self, onHelm_passOn]

theorem onHelm_grantLock (i : Nat) : onHelm (grantLock s i) = onHelm s := by
  unfold grantLock
  split
  · rfl
  · split
    · rfl
    · simp [takeLock]

end

/-! ### The helm's records (R220, R227, R229) -/

/-- From `s` to `u` the removals under way and the range lock are as they were, and each record stands, committed or not. -/
structure RecsStand (s u : State) : Prop where
  deleting : u.x.deleting = s.x.deleting
  lock : u.map.rangeLock = s.map.rangeLock
  recs : ∀ y ∈ s.map.recs, ∃ z ∈ u.map.recs, z.typ = y.typ ∧ z.jseq = y.jseq ∧ z.a = y.a ∧ z.b = y.b

theorem RecsStand.of_eq {s u : State} (h : onHelm u = onHelm s) : RecsStand s u := by
  obtain ⟨hd, hl, hr⟩ : u.x.deleting = s.x.deleting ∧ u.map.rangeLock = s.map.rangeLock ∧ u.map.recs = s.map.recs := by
    simpa only [onHelm, Prod.mk.injEq] using h
  exact ⟨hd, hl, fun y hy => ⟨y, hr ▸ hy, rfl, rfl, rfl, rfl⟩⟩

theorem RecsStand.refl (s : State) : RecsStand s s := .of_eq rfl

theorem RecsStand.trans {s v u : State} (h : RecsStand s v) (h' : RecsStand v u) : RecsStand s u where
  deleting := h'.deleting.trans h.deleting
  lock := h'.lock.trans h.lock
  recs y hy := by
    obtain ⟨z, hz, ht, hj, ha, hb⟩ := h.recs y hy
    obtain ⟨w, hw, ht', hj', ha', hb'⟩ := h'.recs z hz
    exact ⟨w, hw, ht'.trans ht, hj'.trans hj, ha'.trans ha, hb'.trans hb⟩

section
variable (s : State)

/-- The record as it is appended (R220 step 4). -/
def appended (r : JRec) : JRec := { r with jseq := s.map.jseq + 1, stamp := stampOf s srcJournal }

theorem onHelm_with_recs (l : List JRec) (n : Nat) :
    onHelm { s with map := { s.map with recs := l, jseq := n } } = (s.x.deleting, s.map.rangeLock, l) := rfl

theorem onHelm_append (r : JRec) : onHelm (append s r).2 = (s.x.deleting, s.map.rangeLock, s.map.recs ++ [appended s r]) := by
  unfold append
  extract_lets r' v _ w
  have hv : onHelm v = onHelm s := onHelm_ringStore s r'
  simp only [onHelm, Prod.mk.injEq] at hv
  obtain ⟨hd, hl, hr⟩ := hv
  have hw : onHelm w = (s.x.deleting, s.map.rangeLock, s.map.recs ++ [r']) := by
    rw [onHelm_jstat, onHelm_stamped, onHelm_with_recs, hd, hl, hr]
  rw [onHelm_ite, onHelm_send, hw, ite_self]
  rfl

theorem append_parts (r : JRec) : (append s r).2.x.deleting = s.x.deleting ∧ (append s r).2.map.rangeLock = s.map.rangeLock ∧
    (append s r).2.map.recs = s.map.recs ++ [appended s r] := by
  simpa only [onHelm, Prod.mk.injEq] using onHelm_append s r

theorem recsStand_append (r : JRec) : RecsStand s (append s r).2 := by
  obtain ⟨hd, hl, hr⟩ := append_parts s r
  exact ⟨hd, hl, fun y hy => ⟨y, hr ▸ List.mem_append_left _ hy, rfl, rfl, rfl, rfl⟩⟩

theorem appended_mem (r : JRec) : appended s r ∈ (append s r).2.map.recs := by
  obtain ⟨-, -, hr⟩ := append_parts s r
  rw [hr]
  exact List.mem_append_right _ (List.mem_singleton_self _)

/-- The state in which the record of a JSEQ counts as committed and applied. -/
def markCommitted (j : Nat) : State := { s with map := { s.map with recs := s.map.recs.map fun x =>
  if x.jseq = j then { x with committed := true, applied := true } else x } }

theorem recsStand_markCommitted (j : Nat) : RecsStand s (markCommitted s j) :=
  ⟨rfl, rfl, fun y hy => ⟨_, List.mem_map.2 ⟨y, hy, rfl⟩, by split <;> exact ⟨rfl, rfl, rfl, rfl⟩⟩⟩

theorem recsStand_commitRec (j : Nat) : RecsStand s (commitRec s j) := by
  unfold commitRec
  split
  · exact .refl s
  · next r _ =>
    refine RecsStand.trans (v := markCommitted s j) (recsStand_markCommitted s j) (.of_eq ?_)
    rw [onHelm_overUpdate, onHelm_releaseOverlay, onHelm_applyRec, onHelm_setF, markCommitted]

theorem recsStand_commitApply (j : Nat) : RecsStand s (commitApply s j) := by
  unfold commitApply
  split
  · exact .refl s
  · next r _ =>
    split
    · exact .refl s
    · exact (RecsStand.of_eq (onHelm_commitEffects s r)).trans
        ((recsStand_commitRec _ j).trans (.of_eq (onHelm_wakeWindow _)))

theorem recsStand_awaitAck (j : Nat) : RecsStand s (awaitAck s j) := .of_eq rfl

theorem recsStand_placeOne (r : JRec) (k : Nat) : RecsStand s (placeOne s r k).2.2 := by
  unfold placeOne
  generalize hv : append s r = v
  have ha : RecsStand s v.2 := hv ▸ recsStand_append s r
  obtain ⟨r', v⟩ := v
  dsimp -zeta only
  extract_lets w
  have hw : onHelm w = onHelm v := by
    rw [onHelm_ite, onHelm_moveOverlay, onHelm_overUpdate, onHelm_reserveOverlay, ite_self]
  have hsw : RecsStand s w := ha.trans (.of_eq hw)
  split
  · exact hsw.trans (recsStand_awaitAck w _)
  · exact hsw.trans (recsStand_commitApply w _)

/-- A round that starts adds its ROUND record. -/
theorem recsStand_startRound : RecsStand s (startRound s) := by
  unfold startRound
  split
  · exact .refl s
  · extract_lets n t
    generalize hp : placeOne s _ 0 = p
    have ha : RecsStand s p.2.2 := hp ▸ recsStand_placeOne ..
    obtain ⟨r, b, v⟩ := p
    dsimp -zeta only
    exact ha.trans ((RecsStand.of_eq (onHelm_setF v MAP_CKPT_ACTIVE 1)).trans (.of_eq rfl))

theorem recsStand_halfFull : RecsStand s (halfFull s) := by
  unfold halfFull
  split
  · exact recsStand_startRound s
  · exact .refl s

theorem recsStand_committed (j : Nat) : RecsStand s (halfFull (if mirrors s then awaitAck s j else commitApply s j)) := by
  refine RecsStand.trans ?_ (recsStand_halfFull _)
  split
  · exact recsStand_awaitAck s j
  · exact recsStand_commitApply s j

/-- A record of the helm stands in the journal, and nothing before it goes. -/
theorem recsStand_helmRecord (typ : JTyp) (a b : Nat) : RecsStand s (helmRecord s typ a b) ∧
    ∃ y ∈ (helmRecord s typ a b).map.recs, y.typ = typ ∧ y.jseq = s.map.jseq + 1 ∧ y.a = a ∧ y.b = b := by
  unfold helmRecord
  extract_lets r
  have ha := recsStand_append s r
  obtain ⟨z, hz, ht, hj, hza, hzb⟩ : ∃ z ∈ (append s r).2.map.recs, z.typ = typ ∧ z.jseq = s.map.jseq + 1 ∧ z.a = a ∧ z.b = b :=
    ⟨_, appended_mem s r, rfl, rfl, rfl, rfl⟩
  generalize append s r = p at ha hz ⊢
  obtain ⟨r', v⟩ := p
  have h := recsStand_committed v r'.jseq
  obtain ⟨y, hy, hyt, hyj, hya, hyb⟩ := h.recs z hz
  exact ⟨ha.trans h, y, hy, hyt.trans ht, hyj.trans hj, hya.trans hza, hyb.trans hzb⟩

/-- A volume's entry changes through a VOLUME record (R231, R232). -/
theorem recsStand_putVol (n e : Nat) (wait : Bool) : RecsStand s (putVol s n e wait) ∧
    ∃ y ∈ (putVol s n e wait).map.recs, y.typ = .volume ∧ y.jseq = s.map.jseq + 1 ∧ y.a = n ∧ y.b = e := by
  obtain ⟨hs, y, hy, ht, hj, ha, hb⟩ := recsStand_helmRecord s .volume n e
  have hpass : RecsStand (helmRecord s .volume n e) (putVol s n e wait) := by
    unfold putVol
    split
    · exact .of_eq (onHelm_passOnWait _ _)
    · exact .of_eq (onHelm_passOn _ _)
  obtain ⟨z, hz, ht', hj', ha', hb'⟩ := hpass.recs y hy
  exact ⟨hs.trans hpass, z, hz, ht'.trans ht, hj'.trans hj, ha'.trans ha, hb'.trans hb⟩

theorem onHelm_dropVol (n : Nat) : onHelm (dropVol s n) = onHelm s := by
  unfold dropVol
  rw [foldl_field onHelm _ fun s c => onHelm_passOn ..]
  exact onHelm_of_eq (commit_x _) (commit_map _)

/-- The range lock is released, and the removals are as they were (R232). -/
theorem releaseRange_lock : (releaseRange s).map.rangeLock = none ∧ (releaseRange s).x.deleting = s.x.deleting := by
  unfold releaseRange
  split
  · next h => exact ⟨h, rfl⟩
  · next a n _ =>
    extract_lets m v l
    have h : onHelm (l.dedup.foldl grantLock v) = onHelm v := foldl_field onHelm _ onHelm_grantLock _ v
    obtain ⟨hd, hl, -⟩ := RecsStand.of_eq h
    exact ⟨hl, hd⟩

/-- A removal ends: the lock is gone, and the next removal is under way (R232 steps 3 and 4). -/
theorem finishRange_answers (n src : Nat) (format : Bool) : ∃ w, finishRange s n src format = answerHelm w src okEnd [] ∧
    w.map.rangeLock = none ∧ w.x.deleting = s.x.deleting.drop 1 := by
  obtain ⟨hl, hd⟩ := releaseRange_lock s
  unfold finishRange
  extract_lets v y u w
  refine ⟨w, rfl, ?_⟩
  have hu : u.map.rangeLock = none ∧ u.x.deleting = s.x.deleting.drop 1 := ⟨hl, congrArg (List.drop 1) hd⟩
  obtain ⟨hlock, hdel⟩ := hu
  simp only [w]
  split
  · exact ⟨hlock, hdel⟩
  · obtain ⟨hput, -⟩ := recsStand_putVol u n 0 true
    have h := hput.trans (.of_eq (onHelm_dropVol _ n))
    exact ⟨h.lock.trans hlock, h.deleting.trans hdel⟩

end

/-! ### Volumes (R130, R231, R232) -/

section
variable {s : State} {r : HelmReq}

theorem fieldCheck_arg0 (a1 : Bool) (need : Option Nat) : fieldCheck r false a1 need = some 8 := rfl

theorem volEnt_beginReq (src n : Nat) : volEnt (beginReq s src) n = volEnt s n := rfl

theorem beginReq_map (src : Nat) : (beginReq s src).map = s.map := rfl

/-- VOLUME_CREATE with a free range: the entry, ACTIVE and created now, by a VOLUME record (R231). -/
theorem exec_volumeCreate_places {a : Nat} (hroom : helmRoom s = true) (h : asked s r 0x80 [mRun, mService])
    (hf : fieldCheck r (volState (volEnt s (ARG0vol r)) = 0) (1 ≤ ARG1 r && ARG1 r ≤ 0xFFFFFFFF) none = none)
    (hb : freeBase (beginReq s r.src) (ARG1 r) = some a) : exec .volumeCreate s = .next (answerHelm
      (putVol (beginReq s r.src) (ARG0vol r) (mkVol a (ARG1 r) (bits (ARG0 r) 16 10) 1 s.clk.now) true) r.src ⟨0, 0, none, 256 * a⟩ []) := by
  rw [exec_volumeCreate_room hroom, adminRow_effect h rfl hf, hb]
  rfl

theorem exec_volumeDelete_removes (hroom : helmRoom s = true) (h : asked s r 0x81 [mRun, mService])
    (hf : fieldCheck r (volState (volEnt s (ARG0vol r)) != 0) true none = none) (h2 : volState (volEnt s (ARG0vol r)) ≠ 2) :
    exec .volumeDelete s = .next (
      let w := putVol (beginReq s r.src) (ARG0vol r) (volWith (volEnt s (ARG0vol r)) 2) false
      setAux w { w.x with deleting := w.x.deleting ++ [(ARG0vol r, r.src, false)] }) := by
  rw [exec_volumeDelete_room hroom, adminRow_effect h rfl hf, volEnt_beginReq, if_neg h2]

theorem exec_volumeDelete_again (hroom : helmRoom s = true) (h : asked s r 0x81 [mRun, mService])
    (hf : fieldCheck r (volState (volEnt s (ARG0vol r)) != 0) true none = none) (h2 : volState (volEnt s (ARG0vol r)) = 2) :
    exec .volumeDelete s = .next (answerReq (beginReq s r.src) r 0x13 5) := by
  rw [exec_volumeDelete_room hroom, adminRow_effect h rfl hf, volEnt_beginReq, if_pos h2]

theorem exec_format_begins (h : asked s r 0x8B [mService])
    (hf : fieldCheck r (volState (volEnt s (ARG0vol r)) != 0) true none = none) (h2 : volState (volEnt s (ARG0vol r)) ≠ 2) :
    exec .format s = .next (setAux (beginReq s r.src)
      { (beginReq s r.src).x with deleting := (beginReq s r.src).x.deleting ++ [(ARG0vol r, r.src, true)] }) := by
  show execFormat s = _
  rw [execFormat, adminRow_effect h rfl hf, volEnt_beginReq, if_neg h2]

theorem exec_format_again (h : asked s r 0x8B [mService])
    (hf : fieldCheck r (volState (volEnt s (ARG0vol r)) != 0) true none = none) (h2 : volState (volEnt s (ARG0vol r)) = 2) :
    exec .format s = .next (answerReq (beginReq s r.src) r 0x13 5) := by
  show execFormat s = _
  rw [execFormat, adminRow_effect h rfl hf, volEnt_beginReq, if_pos h2]

/-- A removal whose range is locked ends once the helm's records have committed (R232). -/
theorem exec_volumeDeleteDrained_ends {n src : Nat} {f : Bool} {l : List (Nat × Nat × Bool)} (h : s.x.deleting = (n, src, f) :: l)
    (hl : s.map.rangeLock ≠ none) (hp : helmPending s = false) (hroom : helmRoom s = true) :
    exec .volumeDeleteDrained s = .next (finishRange s n src f) := by
  show execVolumeDeleteDrained s = _
  unfold execVolumeDeleteDrained
  rw [h]
  dsimp only
  rw [if_pos (Option.isSome_iff_ne_none.2 hl)]
  exact next_act (by rw [hp, hroom]; rfl)

/-- A removal waits while a command or a lock holds its range (R232). -/
theorem exec_volumeDeleteDrained_waits {n src : Nat} {f : Bool} {l : List (Nat × Nat × Bool)} (h : s.x.deleting = (n, src, f) :: l)
    (hl : s.map.rangeLock = none) (hd : volDrained s n = false) : exec .volumeDeleteDrained s = .next s := by
  show execVolumeDeleteDrained s = _
  unfold execVolumeDeleteDrained
  rw [h, hl]
  exact next_idle (by rw [hd]; rfl)

/-! ### Bindings (R114, R130) -/

/-- A context in use keeps its binding (R130). -/
theorem bindTo_busy {b : Bind} (h : (th s (bits (ARG0 r) 0 12)).st ≠ .idle) : bindTo s r b = answerReq s r 0x13 9 :=
  if_pos (bne_iff_ne.2 h)

/-- A binding written is the named context's, and no other's. -/
theorem bindTo_idle {b : Bind} (h : (th s (bits (ARG0 r) 0 12)).st = .idle) : bindOf (bindTo s r b) (bits (ARG0 r) 0 12) = b ∧
    ∀ m, m ≠ bits (ARG0 r) 0 12 → bindOf (bindTo s r b) m = bindOf s m := by
  have hret : (bindTo s r b).ret.bind = mset Bind.none s.ret.bind (bits (ARG0 r) 0 12) b := by
    unfold bindTo
    dsimp only
    rw [if_neg (by simp [h]), answerReq_ret, passOnWait_ret, commit_ret]
  refine ⟨?_, fun m hm => ?_⟩
  · rw [bindOf, hret, mget_mset_same]
  · rw [bindOf, hret, mget_mset_other _ _ _ hm, bindOf]

theorem exec_contextUnbind (h : asked s r 0x82 [mRun, mService]) (hu : unbind r = true) (hf : fieldCheck r true true none = none) :
    exec .contextUnbind s = .next (bindTo (beginReq s r.src) r Bind.none) :=
  (show exec .contextUnbind s = execContextUnbind s from rfl).trans (adminRow_effect h hu hf)

/-- The volumes that the bitmap of CONTEXT_BIND names. -/
def namedVols (r : HelmReq) (pb : ParamBuf) : List Nat :=
  (List.range 8192).filter fun v => bit ((reqBuf r pb).getD (v / 8) 0).toNat (v % 8)

theorem exec_contextBind {pb : ParamBuf} (h : asked s r 0x82 [mRun, mService]) (hu : unbind r = false)
    (hf : fieldCheck r true true (some 1024) = none) (hb : bufFail s r pb = none)
    (hv : ∀ w ∈ namedVols r pb, volState (volEnt s w) ≠ 0 ∧ volTenant (volEnt s w) = bits (ARG0 r) 16 10) :
    exec (.contextBind pb) s = .next (bindTo (beginReq s r.src) r
      ⟨true, bits (ARG0 r) 16 10, bit (ARG1 r) 20, bits (ARG1 r) 0 20, namedVols r pb⟩) := by
  show execContextBind pb s = _
  have hall : ((namedVols r pb).all fun v => volState (volEnt (beginReq s r.src) v) != 0 &&
      volTenant (volEnt (beginReq s r.src) v) == bits (ARG0 r) 16 10) = true := by
    rw [List.all_eq_true]
    intro w hw
    obtain ⟨h0, ht⟩ := hv w hw
    rw [Bool.and_eq_true, bne_iff_ne, beq_iff_eq]
    exact ⟨h0, ht⟩
  unfold execContextBind
  refine adminBufRow_effect h (by rw [hu]; rfl) hb ?_
  rw [hf]
  exact if_pos hall

end

/-- Settles O39: each command by its row, the records and the lock by what `RecsStand` keeps. -/
theorem volumesAndBindings : Obligations.VolumesAndBindings := by
  intro s r pb
  refine ⟨fun hroom h d hf => ?_, fun h0 => ?_, fun hroom h hf hb => ?_, fun a hroom h hf hb => ?_, fun hroom h hf h2 => ?_,
    fun hroom => ⟨if_pos (by simp [hroom]), if_pos (by simp [hroom])⟩, fun hroom h hf h2 => ?_, fun h hf h2 => ?_, fun h hf h2 => ?_,
    fun m src f l h hl hd => exec_volumeDeleteDrained_waits h hl hd, fun m src f l h hl hp hroom => ?_, fun h hu hf hb hv => ?_, fun h hu hf => ?_⟩
  · rw [exec_volumeCreate_room hroom]
    exact adminRow_refuse h rfl hf
  · rw [decide_eq_false h0]
    exact fieldCheck_arg0 ..
  · rw [exec_volumeCreate_room hroom, adminRow_effect h rfl hf, hb]
    rfl
  · obtain ⟨-, y, hy, ht, hj, hn, he⟩ :=
      recsStand_putVol (beginReq s r.src) (ARG0vol r) (mkVol a (ARG1 r) (bits (ARG0 r) 16 10) 1 s.clk.now) true
    rw [beginReq_map] at hj
    exact ⟨_, exec_volumeCreate_places hroom h hf hb, rfl, y, by rw [answerHelm_map]; exact hy, ht, hj, hn, he⟩
  · exact exec_volumeDelete_again hroom h hf h2
  · obtain ⟨hput, -⟩ := recsStand_putVol (beginReq s r.src) (ARG0vol r) (volWith (volEnt s (ARG0vol r)) 2) false
    exact ⟨_, exec_volumeDelete_removes hroom h hf h2, congrArg (· ++ [(ARG0vol r, r.src, false)]) hput.deleting, rfl⟩
  · exact exec_format_begins h hf h2
  · exact exec_format_again h hf h2
  · obtain ⟨w, hw, hlock, hdel⟩ := finishRange_answers s m src f
    exact ⟨_, w, exec_volumeDeleteDrained_ends h hl hp hroom, hw, hlock, by rw [hdel, h]; rfl⟩
  · rw [exec_contextBind h hu hf hb hv]
    exact ⟨fun hst => congrArg Host.Outcome.next (bindTo_busy (s := beginReq s r.src) hst), fun hst => ⟨_, rfl, bindTo_idle hst⟩⟩
  · rw [exec_contextUnbind h hu hf]
    exact ⟨fun hst => congrArg Host.Outcome.next (bindTo_busy (s := beginReq s r.src) hst), fun hst => ⟨_, rfl, bindTo_idle hst⟩⟩

end Sys2Proof.Machine
end
section
/-! PROOFS. Transfers: collected by XWAIT and XPOLL, begun by CENC and CDEC. -/
namespace Sys2Proof.Machine
open Sys2Proof Sys2Proof.Safety

/-! ### XWAIT and XPOLL (R155, R194) -/

section
variable {s : State} {t rd rs1 : Nat}

theorem exec_xwait_free (hi : issues s t (aw 0x93 rd rs1 0 0 0) = true) (hx : xferAt (th s t) (gn s t rs1 % 16) = none) :
    exec (.xwait t rd rs1) s = .next (retire s t rd svNotag) := by
  refine (next_act hi).trans ?_
  dsimp only
  rw [hx]

theorem exec_xwait_ended {y : Xfer} (hi : issues s t (aw 0x93 rd rs1 0 0 0) = true)
    (hx : xferAt (th s t) (gn s t rs1 % 16) = some y) (he : y.ended = true) :
    exec (.xwait t rd rs1) s = .next (dropXfer (retire s t rd (BitVec.ofNat 64 y.sv)) t (gn s t rs1 % 16)) := by
  refine (next_act hi).trans ?_
  dsimp only
  rw [hx]
  exact congrArg _ (if_pos he)

theorem exec_xwait_moving {y : Xfer} (hi : issues s t (aw 0x93 rd rs1 0 0 0) = true)
    (hx : xferAt (th s t) (gn s t rs1 % 16) = some y) (he : y.ended = false) (hp : y.page = none) :
    exec (.xwait t rd rs1) s = .next (advWait s t .dma (gn s t rs1 % 16) (.xwait rd (gn s t rs1 % 16))) := by
  refine (next_act hi).trans ?_
  dsimp only
  rw [hx]
  simp only [he, hp, Bool.false_eq_true, if_false]

theorem exec_xwait_stopped {y : Xfer} {i a : Nat} (hi : issues s t (aw 0x93 rd rs1 0 0 0) = true)
    (hx : xferAt (th s t) (gn s t rs1 % 16) = some y) (he : y.ended = false) (hp : y.page = some (i, a)) :
    exec (.xwait t rd rs1) s = .next (advWait s t .pagereq a (.xwait rd (gn s t rs1 % 16))) := by
  refine (next_act hi).trans ?_
  dsimp only
  rw [hx]
  simp only [he, hp, Bool.false_eq_true, if_false]

theorem exec_xpoll_free (hi : issues s t (aw 0x94 rd rs1 0 0 0) = true) (hx : xferAt (th s t) (gn s t rs1 % 16) = none) :
    exec (.xpoll t rd rs1) s = .next (retire s t rd svNotag) := by
  refine (next_act hi).trans ?_
  dsimp only
  rw [hx]

theorem exec_xpoll_ended {y : Xfer} (hi : issues s t (aw 0x94 rd rs1 0 0 0) = true)
    (hx : xferAt (th s t) (gn s t rs1 % 16) = some y) (he : y.ended = true) :
    exec (.xpoll t rd rs1) s = .next (dropXfer (retire s t rd (BitVec.ofNat 64 y.sv)) t (gn s t rs1 % 16)) := by
  refine (next_act hi).trans ?_
  dsimp only
  rw [hx]
  exact congrArg _ (if_pos he)

theorem exec_xpoll_pending {y : Xfer} (hi : issues s t (aw 0x94 rd rs1 0 0 0) = true)
    (hx : xferAt (th s t) (gn s t rs1 % 16) = some y) (he : y.ended = false) :
    exec (.xpoll t rd rs1) s = .next (retire s t rd svPending) := by
  refine (next_act hi).trans ?_
  dsimp only
  rw [hx]
  exact congrArg _ (if_neg (Bool.eq_false_iff.1 he))

end

/-- Settles O17: each instruction by what stands at the number it names. -/
theorem transferCollect : Obligations.TransferCollect := by
  unfold Obligations.TransferCollect
  intro s t rd rs1
  refine ⟨fun hi => ⟨fun hx => ?_, fun y hx he => ?_, fun y hx he hp => ?_, fun y i a hx he hp => ?_⟩,
    fun hi => ⟨fun hx => ?_, fun y hx he => ?_, fun y hx he => ?_⟩⟩
  · exact ⟨_, exec_xwait_free hi hx, retired_retire ..⟩
  · exact ⟨_, _, exec_xwait_ended hi hx he, retired_retire .., rfl⟩
  · exact ⟨_, exec_xwait_moving hi hx he hp, th_advWait .., threadsKept_advWait s t _ _ _⟩
  · exact ⟨_, exec_xwait_stopped hi hx he hp, th_advWait .., threadsKept_advWait s t _ _ _⟩
  · exact ⟨_, exec_xpoll_free hi hx, retired_retire ..⟩
  · exact ⟨_, _, exec_xpoll_ended hi hx he, retired_retire .., rfl⟩
  · exact ⟨_, exec_xpoll_pending hi hx he, retired_retire ..⟩

/-! ### CENC and CDEC (R166, R182, R195, R374) -/

section
variable {s : State} {t rd rs1 : Nat}

/-- A descriptor of `n` bytes at a register's address: aligned, and within the local store (R172). -/
theorem lsDesc_eq (s : State) (t r n : Nat) : lsDesc s t r n =
    if (gr s t r).toNat % 512 % 8 = 0 ∧ (gr s t r).toNat % 512 + n ≤ 512 then some ((gr s t r).toNat % 512) else none := by
  simp [lsDesc, lsAddr]

/-- A buffer operand that the thread holds, its frames within the buffer (R194). -/
def BufTaken (s : State) (t h first n : Nat) : Prop := ∃ b, bufAt s h = some b ∧ t ∈ b.holders ∧ first + n ≤ frames b.pool

theorem bufFault_taken {h first n : Nat} (hb : BufTaken s t h first n) : bufFault s t h first n = none := by
  obtain ⟨b, hb, ht, hn⟩ := hb
  simp [bufFault, holds, hb, ht, Nat.not_lt.2 hn]

theorem bufFault_unheld {h : Nat} (hh : holds s t h = false) (first n : Nat) : bufFault s t h first n = some (1, 4) := by
  simp [bufFault, hh]

theorem bufFault_short {h first n : Nat} (hh : holds s t h = true) (hb : ¬ BufTaken s t h first n) :
    bufFault s t h first n = some (2, 4) := by
  cases hat : bufAt s h with
  | none => simp [holds, hat] at hh
  | some b =>
    have hin : t ∈ b.holders := by simpa [holds, hat] using hh
    have hlt : frames b.pool < first + n := Nat.not_le.1 fun hle => hb ⟨b, hat, hin, hle⟩
    simp [bufFault, hh, hat, hlt]

theorem startXfer_free {k : Nat} (hk : freeXfer (th s t) = some k) (rd : Nat) (kind : XKind) (w hs : List Nat) :
    startXfer s t rd kind w hs =
      retire (modTh s t fun x => { x with xfers := mset none x.xfers k (some ⟨kind, w, hs, false, 0, none, 0⟩) }) t rd
        (BitVec.ofNat 64 k) := by
  rw [startXfer, hk]

/-- What SRC may be for CDEC: none, or of KIND 4 and, for a host thread, held (R182, R195). -/
@[reducible] def srcTaken (s : State) (t src : Nat) : Prop := src = 0 ∨ (bits src 48 3 = 4 ∧ (isSys s t = true ∨ src ∈ (th s t).held))

variable {op a p : Nat} {enc : Bool} {w : List Nat}

theorem issueCipher_misplaced (hi : issues s t (aw op rd rs1 0 0 0) = true) (ha : lsDesc s t rs1 56 = none) :
    issueCipher op enc t rd rs1 s = .next (raise s t 1 0x0A) := by
  refine (next_act hi).trans ?_
  rw [ha]

section
variable (hi : issues s t (aw op rd rs1 0 0 0) = true) (ha : lsDesc s t rs1 56 = some a) (hd : descWords s t a 7 = w)
include hi ha hd

theorem issueCipher_unkeyed (hk : ∀ p, keySel s t (w.getD 6 0) = some p → enc = true ∧ (keyPage s p).writable = false) :
    issueCipher op enc t rd rs1 s = .next (raise s t 2 2) := by
  refine (next_act hi).trans ?_
  rw [ha]
  dsimp only
  rw [hd]
  cases hp : keySel s t (w.getD 6 0) with
  | none => rfl
  | some p =>
    obtain ⟨he, hw⟩ := hk p hp
    exact congrArg _ (if_pos (by rw [he, hw]; rfl))

/-- With its key page a cipher instruction checks buffer and SRC, then begins its transfer. -/
theorem issueCipher_keyed (hp : keySel s t (w.getD 6 0) = some p) (hw : enc = true → (keyPage s p).writable = true) :
    issueCipher op enc t rd rs1 s = .next (
      (bufFault s t (ctlHandle (w.getD 2 0)) (ctlFrame (w.getD 2 0)) (ctlCount (w.getD 2 0))).elim
        (if enc = false ∧ ¬ srcTaken s t (w.getD 5 0) then raise s t 2 4
          else startXfer s t rd (if enc then .cenc else .cdec) (w ++ [p, (keyPage s p).wver]) [ctlHandle (w.getD 2 0)])
        fun f => raise s t f.1 f.2) := by
  refine (next_act hi).trans ?_
  have hpage : ¬ (enc && !(keyPage s p).writable) = true := by
    cases enc with
    | false => exact Bool.false_ne_true
    | true => simp [hw]
  rw [ha]
  dsimp only
  rw [hd, hp]
  dsimp only
  rw [if_neg hpage]
  cases bufFault s t (ctlHandle (w.getD 2 0)) (ctlFrame (w.getD 2 0)) (ctlCount (w.getD 2 0)) with
  | some f => rfl
  | none =>
    refine congrArg _ (if_congr ?_ rfl rfl)
    simp only [srcTaken, Bool.and_eq_true, Bool.or_eq_true, Bool.not_eq_true', bne_iff_ne, ne_eq, not_or, not_and,
      List.contains_eq_mem, decide_eq_false_iff_not, Bool.not_eq_true]
    tauto

end

/-- The clauses of a cipher instruction `c`: `keyed` says that it has its key page, `srcOk` that SRC may stand. -/
theorem cipherClauses {c : Instr} {keyed srcOk : Prop} (hc : exec c s = issueCipher op enc t rd rs1 s)
    (hd : descWords s t ((gr s t rs1).toNat % 512) 7 = w)
    (hkeyed : keyed ↔ ∃ p, keySel s t (w.getD 6 0) = some p ∧ (enc = true → (keyPage s p).writable = true))
    (hsrc : srcOk ↔ (enc = false → srcTaken s t (w.getD 5 0))) (hi : issues s t (aw op rd rs1 0 0 0) = true) :
    let fits := (gr s t rs1).toNat % 512 % 8 = 0 ∧ (gr s t rs1).toNat % 512 + 56 ≤ 512
    let h := ctlHandle (w.getD 2 0)
    let ok := BufTaken s t h (ctlFrame (w.getD 2 0)) (ctlCount (w.getD 2 0))
    (¬ fits → ∃ u, exec c s = .next u ∧ Faulted s u t 1 0x0A)
    ∧ (fits → ¬ keyed → ∃ u, exec c s = .next u ∧ Faulted s u t 2 2)
    ∧ (fits → keyed → holds s t h = false → ∃ u, exec c s = .next u ∧ Faulted s u t 1 4)
    ∧ (fits → keyed → holds s t h = true → ¬ ok → ∃ u, exec c s = .next u ∧ Faulted s u t 2 4)
    ∧ (fits → keyed → ok → ¬ srcOk → ∃ u, exec c s = .next u ∧ Faulted s u t 2 4)
    ∧ ∀ k p, fits → keyed → keySel s t (w.getD 6 0) = some p → ok → srcOk → freeXfer (th s t) = some k →
        ∃ u, exec c s = .next u ∧ Retired (modTh s t fun x => { x with xfers := mset none x.xfers k (some
          ⟨if enc then .cenc else .cdec, w ++ [p, (keyPage s p).wver], [h], false, 0, none, 0⟩) }) u t rd (BitVec.ofNat 64 k) := by
  intro fits h ok
  have hdesc (hf : fits) : lsDesc s t rs1 56 = some ((gr s t rs1).toNat % 512) := (lsDesc_eq ..).trans (if_pos hf)
  have hfault {cls code : Nat} (he : issueCipher op enc t rd rs1 s = .next (raise s t cls code)) :
      ∃ u, exec c s = .next u ∧ Faulted s u t cls code := ⟨_, hc.trans he, faulted_raise s t cls code (issues_running hi)⟩
  refine ⟨fun hf => hfault (issueCipher_misplaced hi ((lsDesc_eq ..).trans (if_neg hf))),
    fun hf hk => hfault (issueCipher_unkeyed hi (hdesc hf) hd fun p hp => ?_), fun hf hk hh => ?_, fun hf hk hh hb => ?_,
    fun hf hk hb hs => ?_, fun k p hf hk hp hb hs hx => ?_⟩
  · by_contra hno
    exact hk (hkeyed.2 ⟨p, hp, fun he => by simpa [he] using hno⟩)
  · obtain ⟨p, hp, hw⟩ := hkeyed.1 hk
    refine hfault ((issueCipher_keyed hi (hdesc hf) hd hp hw).trans ?_)
    rw [bufFault_unheld hh]
    rfl
  · obtain ⟨p, hp, hw⟩ := hkeyed.1 hk
    refine hfault ((issueCipher_keyed hi (hdesc hf) hd hp hw).trans ?_)
    rw [bufFault_short hh hb]
    rfl
  · obtain ⟨p, hp, hw⟩ := hkeyed.1 hk
    refine hfault ((issueCipher_keyed hi (hdesc hf) hd hp hw).trans ?_)
    rw [bufFault_taken hb]
    exact congrArg _ (if_pos (Classical.not_imp.1 (hsrc.not.1 hs)))
  · obtain ⟨q, hq, hw⟩ := hkeyed.1 hk
    obtain rfl : q = p := Option.some.inj (hq.symm.trans hp)
    refine ⟨_, hc.trans ((issueCipher_keyed hi (hdesc hf) hd hp hw).trans ?_), retired_retire ..⟩
    rw [bufFault_taken hb]
    exact congrArg _ ((if_neg (not_and_not_right.2 (hsrc.1 hs))).trans (startXfer_free hx ..))

end

/-- Settles O18: both instructions by `cipherClauses`, CENC with a write version and any SRC, CDEC with its SRC alone. -/
theorem cipherIssue : Obligations.CipherIssue := by
  unfold Obligations.CipherIssue
  intro s t rd rs1
  refine ⟨cipherClauses (enc := true) rfl rfl ?_ ?_, cipherClauses (enc := false) rfl rfl ?_ ?_⟩
  · exact exists_congr fun _ => and_congr_right' ⟨fun h _ => h, fun h => h rfl⟩
  · exact ⟨fun _ => nofun, fun _ => trivial⟩
  · exact exists_congr fun _ => (and_iff_left nofun).symm
  · exact ⟨fun h _ => h, fun h => h rfl⟩

end Sys2Proof.Machine
end
section
/-! PROOFS. How threads end, and how they come to run. -/
namespace Sys2Proof.Machine
open Sys2Proof Sys2Proof.Safety

/-! ### A thread that gives its slot back (R73, R146, R152) -/

section
variable (s : State) (t : Nat)

/-- The limit of a quadrant displaces no thread for itself. -/
theorem th_enforceL_self : th (enforceL s t) t = th s t := by
  cases ht : isHost t with
  | true => exact th_enforceL_host s t ht
  | false => rw [enforceL, if_neg (Bool.eq_false_iff.1 ht)]

theorem heldBack_congr {s u : State} {t : Nat} (hd : u.d.hold = s.d.hold) (hr : (th u t).role = (th s t).role) :
    heldBack u t = heldBack s t := by
  rw [heldBack, heldBack, hd, hr]

/-- A thread becomes READY with what it is to do still to do (R152). -/
def slotGiven (s : State) (t : Nat) : State := modTh (tick s) t fun x => { x with st := .ready, readyAt := s.order }

theorem th_slotGiven : th (slotGiven s t) t = { th s t with st := .ready, readyAt := s.order } := th_modTh_same (tick s) t _

theorem threadsKept_slotGiven : ThreadsKept t s (slotGiven s t) := threadsKept_modTh (tick s) t _

theorem giveBack_eq {s : State} {t : Nat} (h : heldBack s t = false) : giveBack s t = slotGiven s t :=
  if_neg (Bool.eq_false_iff.1 h)

end

/-! ### DONE, YIELD, FAULT and words that are no instruction (R146, R173, R175, R200) -/

section
variable {s : State} {t rs1 rs2 : Nat}

/-- The instruction is issued, and what the thread ran without a wait counts from 0 again (R167). -/
def runEnded (s : State) (t : Nat) : State := modTh (adv s t) t fun x => { x with runIssued := 0 }

theorem th_runEnded (s : State) (t : Nat) : th (runEnded s t) t = { advanced (th s t) with runIssued := 0 } := by
  rw [runEnded, th_modTh_same, (issued_adv' s t).thread]

theorem threadsKept_runEnded (s : State) (t : Nat) : ThreadsKept t s (runEnded s t) :=
  threadsKept_trans (threadsKept_adv s t) (threadsKept_modTh (adv s t) t _)

theorem exec_done_locked (hi : issues s t (aw 0xE0 0 rs1 rs2 0 0) = true) (hl : (th s t).locks ≠ []) :
    exec (.done t rs1 rs2) s = .next (raise s t 1 7) :=
  (next_act hi).trans (congrArg _ (if_pos (by simpa using hl)))

theorem exec_done_unlocked (hi : issues s t (aw 0xE0 0 rs1 rs2 0 0) = true) (hl : (th s t).locks = []) :
    exec (.done t rs1 rs2) s = .next (if isHost t = true ∧ doneClass ((gr s t rs1).toNat % 256) = false then raise s t 1 1
      else doneRest (runEnded s t) t (gr s t rs1).toNat (gr s t rs2).toNat) := by
  refine (next_act hi).trans (congrArg _ ((if_neg (by simp [hl])).trans (if_congr ?_ rfl rfl)))
  simp only [Bool.and_eq_true, Bool.not_eq_true', gn]

theorem doneRest_tag {g : Nat} (h : openTag (th s t) = some g) (st res : Nat) :
    doneRest s t st res = wait s t .media g (.ending st res) := by
  rw [doneRest, h]

theorem doneRest_ends (hg : openTag (th s t) = none) (hx : openXfer (th s t) = none) (st res : Nat) :
    doneRest s t st res = finishDone s t st res := by
  rw [doneRest, hg, hx]

theorem finishDone_host (ht : isHost t = true) (st res : Nat) : finishDone s t st res =
    modTh (commitAtDone (releaseAll s t) t) t fun x =>
      { x with st := .done, why := .none, cont := .nothing, ending := some (endingOf st res) } := by
  rw [finishDone, if_pos ht]

/-- The commit point of a command that commits no record shows in its context page alone (R135). -/
theorem commitAtDone_ctx (s : State) (c : Nat) : commitAtDone s c = { s with ctx := (commitAtDone s c).ctx } := by
  unfold commitAtDone
  split <;> rfl

theorem modTh_commitAtDone (s : State) (c m : Nat) (f : Thread → Thread) : modTh (commitAtDone s c) m f =
    { s with thr := (modTh (commitAtDone s c) m f).thr, ctx := (commitAtDone s c).ctx } := by
  rw [commitAtDone_ctx]
  rfl

theorem th_commitAtDone (s : State) (c m : Nat) : th (commitAtDone s c) m = th s m := by rw [commitAtDone_ctx]; rfl

theorem exec_yield_free (hi : issues s t (aw 0xE8 0 0 0 0 0) = true) (hb : heldBack s t = false) :
    exec (.yield t) s = .next (enforceL (slotGiven (runEnded s t) t) t) := by
  have hrole : (th (runEnded s t) t).role = (th s t).role := by rw [th_runEnded]; rfl
  have hheld : heldBack (runEnded s t) t = false := (heldBack_congr (u := runEnded s t) (congrArg Blocks.hold (adv_d s t)) hrole).trans hb
  rw [← giveBack_eq hheld]
  exact next_act hi

/-- What YIELD leaves: the thread table and the count of issued instructions aside, the order counter alone moves. -/
theorem slotGiven_runEnded (s : State) (t : Nat) : slotGiven (runEnded s t) t =
    { s with thr := (slotGiven (runEnded s t) t).thr, vf := (slotGiven (runEnded s t) t).vf, order := s.order + 1 } := by
  obtain ⟨m, v, hadv⟩ : ∃ m v, adv s t = { s with thr := m, vf := v } := ⟨_, _, (issued_adv' s t).frame⟩
  rw [runEnded, hadv]
  rfl

theorem exec_fault {imm : Nat} (h : imm < 256) (hi : issues s t (aw 0xEF 0 0 0 0 imm) = true) :
    exec (.fault t imm) s = .next (modTh (raise s t 1 9) t fun x => { x with faultImm := imm }) :=
  next_act (by rwa [immLt, if_pos h])

section
variable (hst : (th s t).st = .running) (hc : (th s t).cont = .nothing)
include hst hc

theorem exec_undefined_pc (hp : pcOk (th s t).pc = false) (flaw : Bool) :
    exec (.undefinedInstruction ⟨t, flaw⟩) s = .next (raise s t 1 2) :=
  if_pos (by simp [hst, hc, hp])

theorem exec_undefined_word (hp : pcOk (th s t).pc = true) (hw : wordDefined (progWord s (th s t).pc) = false) (flaw : Bool) :
    exec (.undefinedInstruction ⟨t, flaw⟩) s = .next (raise s t 1 1) :=
  (if_neg (by simp [hp])).trans (if_pos (by simp [hst, hc, hw]))

theorem exec_undefined_flaw (hp : pcOk (th s t).pc = true) (hw : wordDefined (progWord s (th s t).pc) = true) :
    exec (.undefinedInstruction ⟨t, true⟩) s = .next (raise s t 0 1) :=
  (if_neg (by simp [hp])).trans ((if_neg (by simp [hw])).trans (next_act (by simp [hst, hc])))

end

end

/-- Settles O22: DONE by its checks in order, then by what is outstanding; YIELD by the slot given back; the faults by their row. -/
theorem threadEnds : Obligations.ThreadEnds := by
  unfold Obligations.ThreadEnds
  intro s t rs1 rs2 imm flaw
  refine ⟨fun hi => ⟨fun hl => ?_, fun hl ht hcls => ?_, fun hl ht hcls hg hx => ?_, fun g hl hcls hg => ?_⟩, fun hi hb => ?_,
    fun him hi => ?_, fun hst hc => ⟨fun hp => ?_, fun hp hw => ?_, fun hp hw hf => ?_⟩⟩
  · exact ⟨_, exec_done_locked hi hl, faulted_raise s t 1 7 (issues_running hi)⟩
  · exact ⟨_, (exec_done_unlocked hi hl).trans (congrArg _ (if_pos ⟨ht, hcls⟩)), faulted_raise s t 1 1 (issues_running hi)⟩
  · have hends := doneRest_ends (s := runEnded s t) (by rw [th_runEnded]; exact hg) (by rw [th_runEnded]; exact hx)
      (gr s t rs1).toNat (gr s t rs2).toNat
    refine ⟨_, _, (exec_done_unlocked hi hl).trans (congrArg _ ((if_neg (by simp [hcls])).trans
      (hends.trans (finishDone_host ht ..)))), rfl, ?_, fun m hm => ?_, ?_⟩
    · rw [th_modTh_same, th_commitAtDone]
      rfl
    · rw [th_modTh_other _ _ hm, th_commitAtDone]
      rfl
    · exact modTh_commitAtDone ..
  · have hwait := doneRest_tag (s := runEnded s t) (by rw [th_runEnded]; exact hg) (gr s t rs1).toNat (gr s t rs2).toNat
    refine ⟨_, (exec_done_unlocked hi hl).trans (congrArg _ ((if_neg hcls).trans hwait)), ?_⟩
    rw [th_wait]
    exact ⟨rfl, rfl, rfl, rfl, threadsKept_trans (threadsKept_runEnded s t) (threadsKept_wait _ t _ _ _)⟩
  · refine ⟨_, _, exec_yield_free hi hb, rfl, th_enforceL_self .., ?_,
      threadsKept_trans (threadsKept_runEnded s t) (threadsKept_slotGiven _ t), slotGiven_runEnded s t⟩
    rw [th_slotGiven, th_runEnded, runEnded, modTh_order, adv_order]
  · exact ⟨_, _, exec_fault him hi, faulted_raise s t 1 9 (issues_running hi), rfl⟩
  · exact ⟨_, exec_undefined_pc hst hc hp flaw, faulted_raise s t 1 2 hst⟩
  · exact ⟨_, exec_undefined_word hst hc hp hw flaw, faulted_raise s t 1 1 hst⟩
  · subst hf
    exact ⟨_, exec_undefined_flaw hst hc hp hw, faulted_raise s t 0 1 hst⟩

/-! ### DISPATCH, SLOT_GRANT and QUANTUM_EXPIRY (R151, R152, R160, R161, R165) -/

/-- Registers loaded from g1 on hold the words, every other register 0. -/
theorem mget_loaded (f : Nat → W64) (n r : Nat) :
    mget 0 ((List.range n).foldl (fun g i => mset 0 g (i + 1) (f i)) []) r = if 1 ≤ r ∧ r ≤ n then f (r - 1) else 0 := by
  induction n with
  | zero => rw [if_neg (by omega)]; rfl
  | succ n ih =>
    rw [List.range_succ, List.foldl_append, List.foldl_cons, List.foldl_nil, mget_mset, ih]
    by_cases hr : r = n + 1
    · rw [if_pos hr, if_pos (by omega), hr, Nat.add_sub_cancel]
    · rw [if_neg hr]
      exact if_congr (by omega) rfl rfl

section
variable {s : State} {t q : Nat}

/-- The words that dispatch loads: the task register block, or an internal thread's argument and role (R161). -/
def taskWords (s : State) (t : Nat) : List Nat :=
  if isHost t then (List.range 8).map fun i => blkField (cx s t).block (8 * i) 8 else [bits (roleEntry s t) 32 32, roleOf s t]

theorem gr_rowBegun (s : State) (t r : Nat) : gr (rowBegun s t) t r =
    if 1 ≤ r ∧ r ≤ (taskWords s t).length then BitVec.ofNat 64 ((taskWords s t).getD (r - 1) 0) else 0 := by
  rw [gr, th_rowBegun]
  by_cases hr : r = 0
  · rw [if_pos hr, if_neg (by omega)]
  · rw [if_neg hr]
    exact mget_loaded (fun i => BitVec.ofNat 64 ((taskWords s t).getD i 0)) (taskWords s t).length r

/-- A host thread starts with the task register block in g1 to g8 (R161). -/
theorem gr_rowBegun_host (ht : isHost t = true) {i : Nat} (hi : i < 8) :
    gr (rowBegun s t) t (i + 1) = BitVec.ofNat 64 (bits (cx s t).block (64 * i) 64) := by
  rw [gr_rowBegun, taskWords, if_pos ht, if_pos (by simp; omega), Nat.add_sub_cancel, List.getD_eq_getElem _ _ (by simpa using hi),
    List.getElem_map, List.getElem_range, blkField, ← Nat.mul_assoc]

theorem gr_rowBegun_past (ht : isHost t = true) {r : Nat} (hr : 9 ≤ r) : gr (rowBegun s t) t r = 0 := by
  rw [gr_rowBegun, taskWords, if_pos ht]
  exact if_neg (by simp; omega)

/-- An internal thread starts with its argument in g1 and its role in g2 (R161). -/
theorem gr_rowBegun_internal (ht : isHost t = false) (r : Nat) : gr (rowBegun s t) t r =
    if 1 ≤ r ∧ r ≤ 2 then BitVec.ofNat 64 ([bits (roleEntry s t) 32 32, roleOf s t].getD (r - 1) 0) else 0 := by
  rw [gr_rowBegun, taskWords, if_neg (Bool.eq_false_iff.1 ht)]
  rfl

theorem th_rowBegun_host (ht : isHost t = true) : (th (rowBegun s t) t).st = .ready ∧
    (th (rowBegun s t) t).pc = dispatchEntry s (bits (cx s t).block 0 8) ∧ (th (rowBegun s t) t).stamp = (bindOf s t).tenant ∧
    (th (rowBegun s t) t).ls = [] ∧ (th (rowBegun s t) t).role = 0 ∧ (th (rowBegun s t) t).readyAt = s.order := by
  rw [th_rowBegun]
  exact ⟨rfl, if_pos ht, if_pos ht, rfl, if_pos ht, rfl⟩

theorem th_rowBegun_internal (ht : isHost t = false) : (th (rowBegun s t) t).st = .ready ∧
    (th (rowBegun s t) t).pc = bits (roleEntry s t) 0 23 ∧ (th (rowBegun s t) t).stamp = 0x400 ∧
    (th (rowBegun s t) t).role = roleOf s t := by
  have hno : ¬ isHost t = true := Bool.eq_false_iff.1 ht
  rw [th_rowBegun]
  exact ⟨rfl, if_neg hno, if_neg hno, if_neg hno⟩

theorem exec_dispatch {t : Nat} (ht : t < 4608) (ha : (th s t).st = .armed) (hm : anvilMode s = true)
    (hb : heldBack (rowBegun s t) t = false) : exec (.dispatch t) s = .next (enforceL (rowBegun s t) t) :=
  (next_act (by simp [ht, ha, hm])).trans (congrArg _ (if_neg (Bool.eq_false_iff.1 hb)))

theorem heldBack_host (ht : isHost t = true) : heldBack s t = false := by rw [heldBack, ht]; rfl

theorem heldBack_unbanked (h : s.d.hold = 0) : heldBack s t = false := by simp [heldBack, h]

theorem takeSlot_free (hk : (th s t).cont = .nothing) :
    takeSlot s t = modTh (tick s) t fun x => { x with st := .running, why := .none, slotAt := s.order, issued := 0 } := by
  unfold takeSlot
  rw [hk]

theorem exec_slotGrant (hq : q < 4) (hm : anvilMode s = true)
    (hn : (inQuad s q true .running).length + (inQuad s q false .running).length < 64) (ht : slotTo s q = some t) :
    exec (.slotGrant q) s = .next (takeSlot s t) := by
  show execSlotGrant q s = _
  unfold execSlotGrant
  rw [ht]
  exact next_act (by simp [hq, hm, hn])

theorem exec_quantumExpiry (hst : (th s t).st = .running) (hn : 64 * getF s ANV_TMO_QUANTUM ≤ (th s t).issued)
    (hr : inQuad s (quadOf t) (isHost t) .ready ≠ []) (hb : heldBack s t = false) :
    exec (.quantumExpiry t) s = .next (enforceL (slotGiven s t) t) := by
  rw [← giveBack_eq hb]
  exact next_act (by simp [hst, hr, Nat.mul_comm, hn])

end

/-- Settles O23: dispatch by the record it builds, a grant and an expiry by the thread's own change. -/
theorem threadSlots : Obligations.ThreadSlots := by
  unfold Obligations.ThreadSlots
  intro s t q
  refine ⟨fun ha ht hm => ?_, fun ha hlo ht hm hd => ?_, fun hq hm hn ht hk => ?_, fun hst hn hr hb => ?_⟩
  · have hhost : isHost t = true := decide_eq_true ht
    obtain ⟨hst, hpc, hstamp, hls, hrole, hat⟩ := th_rowBegun_host (s := s) hhost
    exact ⟨rowBegun s t, _, exec_dispatch (by omega) ha hm (heldBack_host hhost), rfl, th_enforceL_self .., hst, hpc,
      fun i hi => gr_rowBegun_host hhost hi, fun r hr => gr_rowBegun_past hhost hr, hstamp, hls, hrole, hat,
      threadsKept_rowBegun s t, rfl⟩
  · have hint : isHost t = false := decide_eq_false (by omega)
    have hfree : enforceL (rowBegun s t) t = rowBegun s t := if_neg (Bool.eq_false_iff.1 hint)
    obtain ⟨hst, hpc, hstamp, hrole⟩ := th_rowBegun_internal (s := s) hint
    exact ⟨rowBegun s t, (exec_dispatch ht ha hm (heldBack_unbanked hd)).trans (congrArg _ hfree), hst, hpc,
      gr_rowBegun_internal hint 1, gr_rowBegun_internal hint 2,
      fun r hr => (gr_rowBegun_internal hint r).trans (if_neg (by omega)), hstamp, hrole, threadsKept_rowBegun s t, rfl⟩
  · refine ⟨_, exec_slotGrant hq hm hn ht, ?_⟩
    rw [takeSlot_free hk]
    exact ⟨th_modTh_same (tick s) t _, threadsKept_modTh (tick s) t _, rfl⟩
  · exact ⟨_, _, exec_quantumExpiry hst hn hr hb, rfl, th_enforceL_self .., th_slotGiven s t, threadsKept_slotGiven s t, rfl⟩

end Sys2Proof.Machine
end
section
/-! PROOFS. The bounds of threads, and the end of a command. -/
namespace Sys2Proof.Machine
open Sys2Proof Sys2Proof.Safety

/-! ### Time and run limits (R155, R159, R167) -/

section
variable {s : State} {t : Nat}

theorem th_elapse (s : State) (el : Elapse) (m : Nat) : th (elapse s el) m = th s m := th_congr (elapse_thr s el) m

/-- With no request of its own parked, a withdrawal leaves the thread table alone (R159). -/
theorem withdraw_thr (h : ∀ r ∈ s.buf.reqs, r.t ≠ t) : (withdraw s t).thr = s.thr := by
  have hdrop : dropReq s t = s := if_neg (by simpa using h)
  show (unparkCharge (dropReq s t) t).thr = s.thr
  rw [hdrop, unparkCharge]
  split <;> rfl

/-- A fault from outside records its class and code (R167, R168 step 1). -/
theorem th_strikeDown (s : State) (t cls code : Nat) : (th (strikeDown s t cls code) t).st = .faulted ∧
    (th (strikeDown s t cls code) t).faultCls = cls ∧ (th (strikeDown s t cls code) t).faultCode = code := by
  rw [strikeDown, raise, th_modTh_same]
  exact ⟨rfl, rfl, rfl⟩

theorem threadsKept_strikeDown (h : ∀ r ∈ s.buf.reqs, r.t ≠ t) (cls code : Nat) : ThreadsKept t s (strikeDown s t cls code) :=
  fun m hm => (threadsKept_modTh (withdraw s t) t _ m hm).trans (th_congr (withdraw_thr h) m)

theorem exec_waitTimeout {el : Elapse} (hst : (th s t).st = .waiting)
    (hn : 1000000 * getF s ANV_TMO_WAIT_MS < (elapse s el).clk.refNs - (th s t).sinceRef) :
    exec (.waitTimeout t el) s = .next (strikeDown (elapse s el) t 3 1) := by
  have hms : getF (elapse s el) ANV_TMO_WAIT_MS = getF s ANV_TMO_WAIT_MS := getF_elapse s el _ (by decide)
  exact congrArg _ (if_pos (by simp [th_elapse, hst, hms, ms, Nat.mul_comm, hn]))

theorem exec_lockHoldTimeout {el : Elapse}
    (hst : (th s t).st = .ready ∨ (th s t).st = .running ∨ (th s t).st = .waiting ∨ (th s t).st = .parked)
    (hl : ∃ l ∈ (th s t).locks, 1000000 * getF s ANV_TMO_LOCK_MS < (elapse s el).clk.refNs - l.2) :
    exec (.lockHoldTimeout t el) s = .next (strikeDown (elapse s el) t 3 2) := by
  have hms : getF (elapse s el) ANV_TMO_LOCK_MS = getF s ANV_TMO_LOCK_MS := getF_elapse s el _ (by decide)
  obtain ⟨l, hin, hn⟩ := hl
  refine congrArg _ (if_pos ?_)
  rw [th_elapse, hms, Bool.and_eq_true, List.any_eq_true]
  refine ⟨by simpa [or_assoc] using hst, l, hin, decide_eq_true ?_⟩
  rwa [ms, Nat.mul_comm]

theorem exec_runLimitTimeout (hst : (th s t).st = .running) (hn : 65536 * getF s ANV_TMO_RUNLIM ≤ (th s t).runIssued) :
    exec (.runLimitTimeout t) s = .next (raise s t 3 3) :=
  next_act (by simp [hst, Nat.mul_comm, hn])

theorem toReady_free (h : heldBack s t = false) : toReady s t = enforceL (readied s t) t := if_neg (Bool.eq_false_iff.1 h)

theorem exec_timeDeadline {el : Elapse} (hst : (th s t).st = .parked) (hw : (th s t).why = .time) (hd : t ∉ s.d.held)
    (hn : (th s t).arg ≤ (elapse s el).clk.now) (hb : heldBack (elapse s el) t = false) :
    exec (.timeDeadline t el) s = .next (enforceL (readied (elapse s el) t) t) :=
  (congrArg _ (if_pos (by simp [th_elapse, hst, hw, hd, hn]))).trans (congrArg _ (toReady_free hb))

end

/-! ### What an idle thread leaves behind touches no thread and no context page (R317, R347) -/

/-- The thread table and the context pages. -/
def tables (s : State) : NMap Thread × NMap Ctx := (s.thr, s.ctx)

theorem th_of_tables {s u : State} (h : tables u = tables s) (t : Nat) : th u t = th s t := th_congr (Prod.mk.inj h).1 t

theorem cx_of_tables {s u : State} (h : tables u = tables s) (c : Nat) : cx u c = cx s c := by
  have hctx : u.ctx = s.ctx := congrArg Prod.snd h
  rw [cx, cx, hctx]

section
variable (s : State)

theorem tables_setF (f : Fld) (v : Nat) : tables (setF s f v) = tables s := by simp [tables]

theorem tables_dramWr (a : Nat) (b : List Byte) : tables (dramWr s a b) = tables s := by
  unfold dramWr; split <;> rfl

theorem tables_ringPut (a : Nat) (b : List Byte) : tables (ringPut s a b) = tables s := by
  unfold ringPut
  rw [tables_dramWr]
  split <;> rfl

theorem tables_setSif (i : Nat) (x : Option Sif) : tables (setSif s i x) = tables s := by unfold setSif; split <;> rfl

theorem tables_setRefresh (b : Nat) : tables (setRefresh s b) = tables s := by
  unfold setRefresh
  split
  · rfl
  · exact tables_dramWr ..

theorem tables_orphan (i : Nat) : tables (orphan s i) = tables s := by
  unfold orphan
  split
  · rfl
  · split
    · rfl
    · rw [addSat, tables_setF, tables_setRefresh, tables_setSif]

theorem tables_bandSet (b v : Nat) : tables (bandSet s b v) = tables s := tables_ringPut ..

theorem tables_toFull (b : Nat) (short : Bool) : tables (toFull s b short) = tables s := by
  unfold toFull
  extract_lets e v
  have hv : tables v = tables s := tables_bandSet ..
  split
  · exact (foldl_field tables orphan tables_orphan _ v).trans hv
  · exact hv

theorem tables_unownedErase (b : Nat) : tables (unownedErase s b) = tables s := by
  unfold unownedErase
  split
  · exact tables_bandSet ..
  · rfl

theorem tables_idleRelease (t : Nat) : tables (idleRelease s t) = tables s := by
  unfold idleRelease
  extract_lets v w
  have hv : tables v = tables s := 
    foldl_field tables (fun s (x : Nat × Nat) => freeAccs (orphan s x.2) x.1) (fun s x => tables_orphan s x.2) _ s
  have hw : tables w = tables v := by
    refine foldl_field tables _ (fun s b => ?_) _ v
    split
    · exact tables_toFull ..
    · exact tables_bandSet ..
    · exact tables_unownedErase ..
    · rfl
  split
  · exact hw.trans hv
  · exact (tables_dramWr ..).trans (hw.trans hv)

theorem tables_pxOpen {t g h : Nat} {u : State} (e : pxOpen s t g = .opened h u) : tables u = tables s := by
  unfold pxOpen at e
  extract_lets g0 e0 pl pg b at e
  split at e
  · cases e
  · split at e
    · cases e
    · extract_lets q fr need at e
      split at e
      · extract_lets at e
        split at e
        · cases e
        · cases e
          exact tables_setSif ..
      · cases e

theorem tables_signalCtx (c : Nat) : tables (signalCtx s c) = tables s := by
  unfold signalCtx
  split
  · simp [tables]
  · rfl

end

/-! ### Threads that wait for a stripe try again (R155, R343) -/

/-- What the release of others leaves of a thread, with the context pages. -/
def asLeft (t : Nat) (s : State) : NMap Ctx × NMap W64 × Cont × Option TSt := (s.ctx, repose t s)

section
variable {s u : State} {t : Nat}

theorem asLeft_of_tables (h : tables u = tables s) : asLeft t u = asLeft t s := by
  have hctx : u.ctx = s.ctx := congrArg Prod.snd h
  rw [asLeft, asLeft, repose, repose, th_of_tables h, hctx]

theorem asLeft_of_beside (h : Beside True t s u) : asLeft t u = asLeft t s := by
  have hctx : u.ctx = s.ctx := congrArg (fun x => x.2.1) h.host
  rw [asLeft, asLeft, hctx, h.rest trivial]

theorem cx_of_asLeft (h : asLeft t u = asLeft t s) (c : Nat) : cx u c = cx s c := by
  have hctx : u.ctx = s.ctx := congrArg Prod.fst h
  rw [cx, cx, hctx]

theorem cont_of_asLeft (h : asLeft t u = asLeft t s) : (th u t).cont = (th s t).cont := congrArg (fun x => x.2.2.1) h

theorem st_of_asLeft (ht : isHost t = true) (h : asLeft t u = asLeft t s) : (th u t).st = (th s t).st := by
  have hst := congrArg (fun x => x.2.2.2) h
  simpa [asLeft, repose, ht] using hst

theorem asLeft_wakePx (h : (th s t).cont = .nothing) : asLeft t (wakePx s) = asLeft t s := by
  unfold wakePx
  refine List.foldlRecOn (motive := fun v => asLeft t v = asLeft t s) _ _ rfl fun v hv m _ => ?_
  have hcont : (th v t).cont = .nothing := (cont_of_asLeft hv).trans h
  split
  · next rd g hm =>
    have hne : True → m ≠ t := fun _ he => by
      rw [he, hcont] at hm
      cases hm
    split
    · exact (asLeft_of_beside (beside_releaseWith hne ..)).trans hv
    · exact hv
    · next k _ hopen =>
      have hu := (asLeft_of_tables (t := t) (tables_pxOpen v hopen)).trans hv
      split
      · exact (asLeft_of_beside (beside_modTh (f := fun x => { x with cont := .pxopen rd k 1 }) (fun _ => rfl) hne)).trans
          ((asLeft_of_beside (beside_toReady hne)).trans hu)
      · exact (asLeft_of_beside (beside_releaseWith hne ..)).trans hu
  · exact hv

end

/-! ### Completion (R137, R138) -/

section
variable {s : State} {c : Nat}

/-- The low 16 bits of a record are class and detail (R137). -/
theorem bits_recordOf (s : State) (c : Nat) (e : Ending) (fail : Bool) :
    bits (recordOf s c e + (if fail then 2 ^ 63 else 0)) 0 16 = e.cls % 256 + 256 * (e.detail % 256) := by
  rw [bits, recordOf]
  cases fail <;> simp only [Bool.false_eq_true, if_false, if_true] <;> omega

theorem complete_ends (s : State) (hc : isHost c = true) (e : Ending) (x : Xlate) :
    (th (complete s c e x) c).st = .idle ∧ (cx (complete s c e x) c).portGone = false ∧
      bits (cx (complete s c e x) c).mirror 0 16 = e.cls % 256 + 256 * (e.detail % 256) := by
  unfold complete
  extract_lets r ca gone fail _ _ p _ q w v
  have hv : asLeft c (if gone then v else signalCtx v c) = asLeft c w := by
    refine asLeft_of_tables ?_
    split
    · exact tables_idleRelease w c
    · exact (tables_signalCtx v c).trans (tables_idleRelease w c)
  have hth : th w c = { th q c with st := .idle, why := .none, cont := .nothing, ending := none } := th_modTh_same q c _
  have hcont : (th w c).cont = .nothing := by rw [hth]
  have hdone := (asLeft_wakePx ((cont_of_asLeft hv).trans hcont)).trans hv
  have hcx : cx w c = cx p c := rfl
  clear_value v w
  rw [st_of_asLeft hc hdone, cx_of_asLeft hdone, hcx, hth, cx_modCx_same]
  exact ⟨rfl, rfl, bits_recordOf s c e fail⟩

/-- The freeing of a thread leaves alone whether a command runs in parts (R449). -/
theorem inParts_cleanUp (s : State) (t c : Nat) : inParts (cleanUp s t) c = inParts s c := by
  have hcas : (cleanUp s t).x.cas = s.x.cas := cas_of_spared (spared_cleanUp s t)
  rw [inParts, inParts, partHere, partHere, hcas]

theorem exec_commandCompletion {e : Ending} (hc : isHost c = true) (hst : (th s c).st = .done) (he : (th s c).ending = some e)
    (hw : mustWait s c = false) (hp : inParts s c = false) (x : Xlate) :
    exec (.commandCompletion c x) s = .next (complete (cleanUp s c) c e x) := by
  show execCommandCompletion c x s = _
  unfold execCommandCompletion
  rw [he]
  exact next_act (by simp [hc, hst, hw, hp])

/-- The count and the logbook event of a fault (R170). -/
theorem faultLogged_tables (s : State) (f : Fld) (d : List Nat) :
    tables (logEv (errInc (addSat s f 1) 15 1) 17 0 d) = tables s := tables_setF s f _

/-- A host thread's fault ends its command, is counted and enters the logbook (R168 to R170). -/
theorem exec_threadFault (hc : isHost c = true) (hst : (th s c).st = .faulted) (hw : mustWait s c = false)
    (hp : inParts s c = false) (x : Xlate) : exec (.threadFault c x) s = .next (logEv
      (errInc (addSat (complete (cleanUp s c) c (faultEnding s c) x) (faultCnt (th s c).faultCls) 1) 15 1) 17 0
      [c, (th s c).faultCls * 256 + (th s c).faultCode, (th s c).faultPc + (th s c).faultImm * 2 ^ 32]) := by
  refine (next_act (by simp [hst, hw])).trans ?_
  dsimp only
  rw [inParts_cleanUp, hp, hc]
  rfl

theorem faultEnding_low (s : State) (c : Nat) : (faultEnding s c).cls % 256 + 256 * ((faultEnding s c).detail % 256) =
    if (cx s c).commit then 0 else 0x41 + 256 * ((0x10 + (th s c).faultCls) % 256) := by
  unfold faultEnding
  split <;> rfl

end

/-- Settles O24: each bound by its row, a fault's clean-up and a completion by `complete_ends`. -/
theorem threadBounds : Obligations.ThreadBounds := by
  unfold Obligations.ThreadBounds
  intro s t el x
  refine ⟨fun hst hn => ?_, fun hst hl => ?_, fun hst hn => ?_, fun hst hw hd hn hb => ?_, fun hst hw hc hp => ?_,
    fun e hc hst he hw hp => ?_⟩
  · obtain ⟨hf, hcls, hcode⟩ := th_strikeDown (elapse s el) t 3 1
    refine ⟨_, exec_waitTimeout hst hn, hf, hcls, hcode, fun hr m hm => ?_⟩
    rw [threadsKept_strikeDown (by rwa [elapse_buf]) 3 1 m hm, th_elapse]
  · obtain ⟨hf, hcls, hcode⟩ := th_strikeDown (elapse s el) t 3 2
    refine ⟨_, exec_lockHoldTimeout hst hl, hf, hcls, hcode, fun hr m hm => ?_⟩
    rw [threadsKept_strikeDown (by rwa [elapse_buf]) 3 2 m hm, th_elapse]
  · exact ⟨_, exec_runLimitTimeout hst hn, faulted_raise s t 3 3 hst⟩
  · refine ⟨_, _, exec_timeDeadline hst hw hd hn hb, rfl, th_enforceL_self .., ?_, fun m hm => ?_⟩
    · rw [th_readied_same, th_elapse, elapse_order]
    · rw [threadsKept_readied _ t m hm, th_elapse]
  · obtain ⟨hidle, -, hlow⟩ := complete_ends (cleanUp s t) hc (faultEnding s t) x
    refine ⟨_, exec_threadFault hc hst hw hp x, ?_, ?_⟩
    · rw [th_of_tables (faultLogged_tables ..)]
      exact hidle
    · rw [cx_of_tables (faultLogged_tables ..), hlow, faultEnding_low]
  · obtain ⟨hidle, hgone, hlow⟩ := complete_ends (cleanUp s t) hc e x
    exact ⟨_, exec_commandCompletion hc hst he hw hp x, hidle, hgone, hlow⟩

end Sys2Proof.Machine
end

section
/-! PROOFS. Anvil instruction words: a defined word belongs to one command, and every command's word is defined (R174, R175). -/
namespace Sys2Proof.Machine
open Sys2Proof Sys2Proof.Safety Sys2Proof.WellFormed

/-! ### The fields of an instruction word (R174) -/

/-- The fields of an instruction word fit their places (R174). -/
structure FitsWord (op rd rs1 rs2 fn imm : Nat) : Prop where
  op : op < 256
  rd : rd < 32
  rs1 : rs1 < 32
  rs2 : rs2 < 32
  fn : fn < 512
  imm : imm < 2 ^ 32

section
variable {op rd rs1 rs2 fn imm : Nat}

theorem aw_fits (h : FitsWord op rd rs1 rs2 fn imm) :
    aw op rd rs1 rs2 fn imm = op * 2 ^ 56 + rd * 2 ^ 51 + rs1 * 2 ^ 46 + rs2 * 2 ^ 41 + fn * 2 ^ 32 + imm := by
  obtain ⟨hop, hrd, h1, h2, hfn, himm⟩ := h
  simp only [aw, hop, hrd, h1, h2, hfn, himm, decide_true, Bool.and_self, if_true]

theorem aw_lt (h : FitsWord op rd rs1 rs2 fn imm) : aw op rd rs1 rs2 fn imm < 2 ^ 64 := by
  rw [aw_fits h]
  obtain ⟨hop, hrd, h1, h2, hfn, himm⟩ := h
  omega

/-- Each field is read back from its place. -/
theorem fields_aw (h : FitsWord op rd rs1 rs2 fn imm) : let w := aw op rd rs1 rs2 fn imm
    bits w 56 8 = op ∧ bits w 51 5 = rd ∧ bits w 46 5 = rs1 ∧ bits w 41 5 = rs2 ∧ bits w 32 9 = fn ∧ bits w 0 32 = imm := by
  dsimp only
  rw [aw_fits h]
  obtain ⟨hop, hrd, h1, h2, hfn, himm⟩ := h
  simp only [bits]
  refine ⟨?_, ?_, ?_, ?_, ?_, ?_⟩ <;> omega

theorem fits_bits (w : Nat) : FitsWord (bits w 56 8) (bits w 51 5) (bits w 46 5) (bits w 41 5) (bits w 32 9) (bits w 0 32) :=
  ⟨Nat.mod_lt _ (by decide), Nat.mod_lt _ (by decide), Nat.mod_lt _ (by decide), Nat.mod_lt _ (by decide), Nat.mod_lt _ (by decide),
    Nat.mod_lt _ (by decide)⟩

theorem usedImm_le (op imm : Nat) : usedImm op imm ≤ imm := by
  unfold usedImm
  split
  · exact Nat.mod_le ..
  · split
    · exact Nat.mod_le ..
    · repeat' split
      all_goals omega

/-- A word without the bits that its operation does not use has the other fields as they were. -/
theorem bareWord_eq {w : Nat} (h : w < 2 ^ 64) : bareWord w =
    aw (bits w 56 8) (bits w 51 5) (bits w 46 5) (bits w 41 5) (bits w 32 9) (usedImm (bits w 56 8) (bits w 0 32)) := by
  have hle := usedImm_le (bits w 56 8) (bits w 0 32)
  obtain ⟨hop, hrd, h1, h2, hfn, himm⟩ := fits_bits w
  rw [aw_fits ⟨hop, hrd, h1, h2, hfn, by omega⟩, bareWord]
  generalize usedImm (bits w 56 8) (bits w 0 32) = u at *
  simp only [bits] at *
  omega

end

/-! ### The command that a word spells (R175, R184 to R200) -/

/-- The fields spell a defined instruction: operation, FN and IMM as its row has them, and a register field it does not use zero (R175). -/
def fieldsDefined (op rd rs1 rs2 fn imm : Nat) : Bool :=
  match opShape op fn imm with
  | none => false
  | some (d, a, b, ok) => ok && (d || rd == 0) && (a || rs1 == 0) && (b || rs2 == 0)

/-- The command of thread `t` that the fields of a defined word spell, the memory it reads being found sound. -/
def spelled (t op rd rs1 rs2 fn imm : Nat) : Instr :=
  match op with
  | 0x01 => .add t rd rs1 rs2
  | 0x02 => .sub t rd rs1 rs2
  | 0x03 => .and t rd rs1 rs2
  | 0x04 => .or t rd rs1 rs2
  | 0x05 => .xor t rd rs1 rs2
  | 0x06 => .shl t rd rs1 rs2
  | 0x07 => .shr t rd rs1 rs2
  | 0x08 => .sra t rd rs1 rs2
  | 0x09 => .mul t rd rs1 rs2
  | 0x0A => .slt t rd rs1 rs2
  | 0x0B => .sltu t rd rs1 rs2
  | 0x0C => .ext t rd rs1 (imm % 64) (imm / 64 + 1)
  | 0x0D => .ins t rd rs1 (imm % 64) (imm / 64 + 1)
  | 0x0E => .mfs t rd imm
  | 0x11 => .addi t rd rs1 imm
  | 0x13 => .andi t rd rs1 imm
  | 0x14 => .ori t rd rs1 imm
  | 0x15 => .xori t rd rs1 imm
  | 0x16 => .shli t rd rs1 imm
  | 0x17 => .shri t rd rs1 imm
  | 0x1B => .sltiu t rd rs1 imm
  | 0x1F => .lih t rd rs1 imm
  | 0x20 => .br t fn rs1 rs2 imm
  | 0x21 => .jal t rd imm
  | 0x22 => .jalr t rd rs1 imm
  | 0x30 => .ldl t fn rd rs1 imm .ok
  | 0x31 => .stl t fn rs2 rs1 imm
  | 0x34 => .lds t fn rd rs1 imm .ok
  | 0x35 => .sts t fn rs2 rs1 imm
  | 0x36 => .ldp t fn rd rs1 imm
  | 0x40 => .ldb t fn rd rs1 rs2 imm .ok
  | 0x41 => .stb t fn rs2 rs1 rd ⟨imm, .ok⟩
  | 0x42 => .ldd t fn rd rs1 imm .ok
  | 0x43 => .std t fn rs2 rs1 ⟨imm, .ok⟩
  | 0x50 => .vlbn t rd rs1 rs2 (bit fn 0) (bit fn 1)
  | 0x51 => .mlook t rd rs1 []
  | 0x52 => .mgen t rd rs1 []
  | 0x53 => .mgnew t rd
  | 0x54 => .mset t rd rs1 rs2 imm (fn % 4) (fn / 4 % 4) (bit fn 4) (bit fn 5)
  | 0x55 => .mcommit t rd (fn % 4) (bit fn 2) []
  | 0x56 => .mdrop t fn
  | 0x57 => .mrel t
  | 0x60 => .lockb t rs1
  | 0x61 => .unlock t rs1
  | 0x70 => .balloc t rd (fn % 4) (bit fn 2)
  | 0x71 => .bfree t rs1
  | 0x72 => .bshare t rs1 rs2 (bit fn 0)
  | 0x73 => .btake t rd
  | 0x80 => .strike t rd rs1 rs2 (imm % 2 ^ 16) (imm / 2 ^ 16) (bit fn 0) (bit fn 1) (bit fn 2) (bit fn 3) (fn / 16)
  | 0x81 => .mwait t rd rs1
  | 0x82 => .mwany t rd
  | 0x83 => .mpoll t rd rs1
  | 0x90 => .xin t rd rs1
  | 0x91 => .xout t rd rs1
  | 0x92 => .xcopy t rd rs1
  | 0x93 => .xwait t rd rs1
  | 0x94 => .xpoll t rd rs1
  | 0xA0 => .cenc t rd rs1
  | 0xA1 => .cdec t rd rs1
  | 0xB0 => .pxopen t rd rs1
  | 0xB1 => .pxadd t rd rs1 rs2 (imm % 256) (imm / 256 % 32)
  | 0xB2 => .pxclose t rd rs1 rs2 (imm % 256)
  | 0xB3 => .pxreb t rd rs1
  | 0xC0 => .tnow t rd
  | 0xC1 => .tflags t rd
  | 0xC2 => .twait t rs1
  | 0xC3 => .qchg t rs1 rs2 imm
  | 0xD0 => .msend t rs1 rs2
  | 0xD1 => .mrecv t rd rs1 rs2
  | 0xD2 => .mack t rs1 rs2
  | 0xD3 => .mhelm t rs1
  | 0xE0 => .done t rs1 rs2
  | 0xEF => .fault t imm
  | _ => .yield t

theorem b2n_le (b : Bool) : b2n b ≤ 1 := by cases b <;> decide

theorem b2n_bit (v i : Nat) : b2n (bit v i) = v / 2 ^ i % 2 := by
  unfold bit b2n
  rcases Nat.mod_two_eq_zero_or_one (v / 2 ^ i) with h | h <;> simp [h]

/-- A bit of a sum is known by the bit's value. -/
theorem bit_eq_of {v i : Nat} {b : Bool} (h : v / 2 ^ i % 2 = b2n b) : bit v i = b := by
  unfold bit
  rw [h]
  cases b <;> rfl

theorem below_one {b v : Nat} : below b [v] = true ↔ v < b := by simp [below]
theorem below_cons {b v u : Nat} {l : List Nat} : below b (v :: u :: l) = true ↔ v < b ∧ below b (u :: l) = true := by simp [below]

/-- The word of an Anvil command: its fields fit, they spell a defined instruction, and that instruction is the command. -/
structure WordOf (c : Instr) (t w op rd rs1 rs2 fn imm : Nat) : Prop where
  word : w = aw op rd rs1 rs2 fn imm
  fits : FitsWord op rd rs1 rs2 fn imm
  defined : fieldsDefined op rd rs1 rs2 fn imm = true
  back : spelled t op rd rs1 rs2 fn imm = plain c

theorem wordOf_anvilWord {c : Instr} {t w : Nat} (hc : c.wf = true) (h : anvilWord c = some (t, w)) :
    ∃ op rd rs1 rs2 fn imm, WordOf c t w op rd rs1 rs2 fn imm := by
  cases c with
  | add | sub | and | or | xor | shl | shr | sra | mul | slt | sltu | mrecv | mlook | mgen | mwait | mpoll | xin | xout | xcopy | xwait
  | xpoll | cenc | cdec | pxopen | pxreb | mgnew | btake | mwany | tnow | tflags | lockb | unlock | bfree | twait | mhelm | msend | mack
  | done | mrel | yield | addi | andi | ori | xori | sltiu | lih | jalr | jal | qchg =>
    cases h
    simp only [Instr.wf, Bool.and_eq_true, below_cons, below_one, registers] at hc
    exact ⟨_, _, _, _, _, _, rfl, by constructor <;> omega, rfl, rfl⟩
  | shli | shri | mfs | fault | br | ldl | lds | ldp | ldd | stl | sts | std | ldb | stb | mdrop =>
    cases h
    simp only [Instr.wf, Bool.and_eq_true, below_cons, below_one, registers] at hc
    exact ⟨_, _, _, _, _, _, rfl, by constructor <;> omega, by simp [fieldsDefined, opShape]; omega, rfl⟩
  | ext t rd rs1 lsb width | ins t rd rs1 lsb width =>
    cases h
    simp only [Instr.wf, Bool.and_eq_true, below_cons, below_one, registers, span, decide_eq_true_eq] at hc
    have hlsb : (lsb + 64 * (width - 1)) % 64 = lsb := by omega
    have hwidth : (lsb + 64 * (width - 1)) / 64 + 1 = width := by omega
    exact ⟨_, _, _, _, _, _, rfl, by constructor <;> omega, by simp [fieldsDefined, opShape]; omega,
      by simp only [spelled, plain, hlsb, hwidth]⟩
  | vlbn t rd rs1 rs2 c src =>
    cases h
    simp only [Instr.wf, Bool.and_eq_true, below_cons, below_one, registers] at hc
    have hle := And.intro (b2n_le c) (b2n_le src)
    have hc0 : bit (b2n c + 2 * b2n src) 0 = c := bit_eq_of (by omega)
    have hc1 : bit (b2n c + 2 * b2n src) 1 = src := bit_eq_of (by omega)
    exact ⟨_, _, _, _, _, _, rfl, by constructor <;> omega, by simp [fieldsDefined, opShape]; omega,
      by simp only [spelled, plain, hc0, hc1]⟩
  | mset t rd rs1 rs2 frame slot act rel wb =>
    cases h
    simp only [Instr.wf, Bool.and_eq_true, below_cons, below_one, registers] at hc
    have hle := And.intro (b2n_le rel) (b2n_le wb)
    have hslot : (slot + 4 * act + 16 * b2n rel + 32 * b2n wb) % 4 = slot := by omega
    have hact : (slot + 4 * act + 16 * b2n rel + 32 * b2n wb) / 4 % 4 = act := by omega
    have hrel : bit (slot + 4 * act + 16 * b2n rel + 32 * b2n wb) 4 = rel := bit_eq_of (by omega)
    have hwb : bit (slot + 4 * act + 16 * b2n rel + 32 * b2n wb) 5 = wb := bit_eq_of (by omega)
    exact ⟨_, _, _, _, _, _, rfl, by constructor <;> omega, by simp [fieldsDefined, opShape]; omega,
      by simp only [spelled, plain, hslot, hact, hrel, hwb]⟩
  | mcommit t rd n b | balloc t rd n b =>
    cases h
    simp only [Instr.wf, Bool.and_eq_true, below_one, registers] at hc
    have hle := b2n_le b
    have hn : (n + 4 * b2n b) % 4 = n := by omega
    have hb : bit (n + 4 * b2n b) 2 = b := bit_eq_of (by omega)
    exact ⟨_, _, _, _, _, _, rfl, by constructor <;> omega, by simp [fieldsDefined, opShape]; omega,
      by simp only [spelled, plain, hn, hb]⟩
  | bshare t rs1 rs2 give =>
    cases h
    simp only [Instr.wf, Bool.and_eq_true, below_cons, below_one, registers] at hc
    have hle := b2n_le give
    have hgive : bit (b2n give) 0 = give := bit_eq_of (by omega)
    exact ⟨_, _, _, _, _, _, rfl, by constructor <;> omega, by simp [fieldsDefined, opShape]; omega,
      by simp only [spelled, plain, hgive]⟩
  | strike t rd rs1 rs2 entry frame rb flim limit raw nslot =>
    cases h
    simp only [Instr.wf, Bool.and_eq_true, below_cons, below_one, registers] at hc
    obtain ⟨hle0, hle1, hle2, hle3⟩ := And.intro (b2n_le rb) (And.intro (b2n_le flim) (And.intro (b2n_le limit) (b2n_le raw)))
    have hentry : (entry + 2 ^ 16 * frame) % 2 ^ 16 = entry := by omega
    have hframe : (entry + 2 ^ 16 * frame) / 2 ^ 16 = frame := by omega
    generalize hfn : b2n rb + 2 * b2n flim + 4 * b2n limit + 8 * b2n raw + 16 * nslot = fn
    have hrb : bit fn 0 = rb := bit_eq_of (by omega)
    have hflim : bit fn 1 = flim := bit_eq_of (by omega)
    have hlimit : bit fn 2 = limit := bit_eq_of (by omega)
    have hraw : bit fn 3 = raw := bit_eq_of (by omega)
    have hnslot : fn / 16 = nslot := by omega
    exact ⟨_, _, _, _, _, _, rfl, by constructor <;> omega, by simp [fieldsDefined, opShape]; omega,
      by simp only [spelled, plain, hentry, hframe, hrb, hflim, hlimit, hraw, hnslot]⟩
  | pxadd t rd rs1 rs2 frame mem =>
    cases h
    simp only [Instr.wf, Bool.and_eq_true, below_cons, below_one, registers] at hc
    have hframe : (frame + 256 * mem) % 256 = frame := by omega
    have hmem : (frame + 256 * mem) / 256 % 32 = mem := by omega
    exact ⟨_, _, _, _, _, _, rfl, by constructor <;> omega, rfl, by simp only [spelled, plain, hframe, hmem]⟩
  | pxclose t rd rs1 rs2 frame =>
    cases h
    simp only [Instr.wf, Bool.and_eq_true, below_cons, below_one, registers] at hc
    exact ⟨_, _, _, _, _, _, rfl, by constructor <;> omega, rfl, by simp only [spelled, plain, Nat.mod_eq_of_lt hc.2]⟩
  | _ => cases h

theorem immLt_of_lt {imm n : Nat} (h : imm < n) : immLt imm n = imm := if_pos h

theorem fieldImm_of_span {lsb width : Nat} (hl : lsb < 64) (h1 : 1 ≤ width) (h2 : width ≤ 64) :
    fieldImm lsb width = lsb + 64 * (width - 1) := by
  simp [fieldImm, hl, h1, h2]

/-- A command acts only where its thread is to issue its word. -/
theorem exec_of_not_issues {c : Instr} {t w : Nat} (hc : c.wf = true) (h : anvilWord c = some (t, w)) {s : State}
    (hi : issues s t w = false) : exec c s = .next s := by
  cases c with
  | add | sub | and | or | xor | shl | shr | sra | mul | slt | sltu | mrecv | mlook | mgen | mwait | mpoll | xin | xout | xcopy | xwait
  | xpoll | cenc | cdec | pxopen | pxreb | btake | mwany | tnow | tflags | lockb | unlock | bfree | twait | mhelm | msend | mack
  | done | mrel | yield | addi | andi | ori | xori | sltiu | lih | jalr | jal | qchg | vlbn | bshare =>
    cases h
    exact next_idle hi
  | br | ldl | lds | ldp | ldd | stl | sts | std | ldb | stb | mgnew =>
    cases h
    exact next_idle (by rw [hi]; rfl)
  | shli | shri | mfs | fault | mdrop | mcommit | balloc | pxclose =>
    cases h
    simp only [Instr.wf, Bool.and_eq_true, below_cons, below_one, registers] at hc
    exact next_idle (by rw [immLt_of_lt hc.2]; exact hi)
  | ext t rd rs1 lsb width | ins t rd rs1 lsb width =>
    cases h
    simp only [Instr.wf, Bool.and_eq_true, below_cons, below_one, registers, span, decide_eq_true_eq] at hc
    exact next_idle (by rw [fieldImm_of_span (by omega) (by omega) (by omega)]; exact hi)
  | mset t rd rs1 rs2 frame slot act rel wb =>
    cases h
    simp only [Instr.wf, Bool.and_eq_true, below_cons, below_one, registers] at hc
    obtain ⟨⟨-, hframe⟩, hslot, hact⟩ := hc
    exact next_idle (by rw [immLt_of_lt hframe, immLt_of_lt hslot, immLt_of_lt hact]; exact hi)
  | strike t rd rs1 rs2 entry frame rb flim limit raw nslot =>
    cases h
    simp only [Instr.wf, Bool.and_eq_true, below_cons, below_one, registers] at hc
    obtain ⟨⟨⟨-, hentry⟩, hframe⟩, hnslot⟩ := hc
    exact next_idle (by rw [if_pos hentry, immLt_of_lt hframe, immLt_of_lt hnslot]; exact hi)
  | pxadd t rd rs1 rs2 frame mem =>
    cases h
    simp only [Instr.wf, Bool.and_eq_true, below_cons, below_one, registers] at hc
    obtain ⟨⟨-, hframe⟩, hmem⟩ := hc
    exact next_idle (by rw [if_pos hmem, immLt_of_lt hframe]; exact hi)
  | _ => cases h

theorem word_congr {t op rd rs1 rs2 fn imm rd' rs1' rs2' fn' imm' : Nat} (hd : rd = rd') (h1 : rs1 = rs1') (h2 : rs2 = rs2')
    (hf : fn = fn') (hi : imm = imm') : some (t, aw op rd rs1 rs2 fn imm) = some (t, aw op rd' rs1' rs2' fn' imm') := by
  rw [hd, h1, h2, hf, hi]

/-- The fields of a defined word spell a well-formed command: each row of the opcode table bounds FN and IMM as its command needs. -/
theorem wf_spelled {t op rd rs1 rs2 fn imm : Nat} (ht : t < threads) (hf : FitsWord op rd rs1 rs2 fn imm)
    (hd : fieldsDefined op rd rs1 rs2 fn imm = true) : (spelled t op rd rs1 rs2 fn imm).wf = true := by
  obtain ⟨-, hrd, h1, h2, hfn, himm⟩ := hf
  unfold fieldsDefined opShape at hd
  dsimp only at hd
  split at hd
  · cases hd
  · rename_i ho
    split at ho <;> cases ho
    all_goals
      simp only [Bool.and_eq_true, decide_eq_true_eq] at hd
      change (_ && _) = true
      simp only [Bool.and_eq_true, below_cons, below_one, registers, span, decide_eq_true_eq, List.all_nil, and_true]
      omega

/-- That command has the word again, but for the bits of IMM that its operation does not use. -/
theorem anvilWord_spelled {op rd rs1 rs2 fn imm : Nat} (t : Nat) (hf : FitsWord op rd rs1 rs2 fn imm)
    (hd : fieldsDefined op rd rs1 rs2 fn imm = true) :
    anvilWord (spelled t op rd rs1 rs2 fn imm) = some (t, aw op rd rs1 rs2 fn (usedImm op imm)) := by
  obtain ⟨-, -, -, -, hfn, himm⟩ := hf
  have hb0 := b2n_bit fn 0
  have hb1 := b2n_bit fn 1
  have hb2 := b2n_bit fn 2
  have hb3 := b2n_bit fn 3
  have hb4 := b2n_bit fn 4
  have hb5 := b2n_bit fn 5
  unfold fieldsDefined opShape at hd
  dsimp only at hd
  split at hd
  · cases hd
  · rename_i ho
    split at ho <;> cases ho
    all_goals
      simp only [Bool.and_eq_true, Bool.true_or, Bool.false_or, beq_iff_eq, decide_eq_true_eq] at hd
      refine word_congr ?_ ?_ ?_ ?_ ?_
      · omega
      · omega
      · omega
      · omega
      · simp [usedImm] <;> omega

theorem wordDefined_aw {op rd rs1 rs2 fn imm : Nat} (hf : FitsWord op rd rs1 rs2 fn imm) :
    wordDefined (aw op rd rs1 rs2 fn imm) = fieldsDefined op rd rs1 rs2 fn imm := by
  obtain ⟨hop, hrd, h1, h2, hfn, himm⟩ := fields_aw hf
  unfold wordDefined
  rw [hop, hrd, h1, h2, hfn, himm]
  rfl

/-- The fields of a command's word spell that command. -/
theorem spelled_anvilWord {c : Instr} {t w : Nat} (hc : c.wf = true) (h : anvilWord c = some (t, w)) :
    spelled t (bits w 56 8) (bits w 51 5) (bits w 46 5) (bits w 41 5) (bits w 32 9) (bits w 0 32) = plain c := by
  obtain ⟨op, rd, rs1, rs2, fn, imm, rfl, hf, -, hback⟩ := wordOf_anvilWord hc h
  obtain ⟨hop, hrd, h1, h2, hfn, himm⟩ := fields_aw hf
  rw [hop, hrd, h1, h2, hfn, himm, hback]

theorem exec_undefined_sound {s : State} {t : Nat} (hp : pcOk (th s t).pc = true)
    (hw : wordDefined (progWord s (th s t).pc) = true) : exec (.undefinedInstruction ⟨t, false⟩) s = .next s :=
  (if_neg (by simp [hp])).trans ((if_neg (by simp [hw])).trans (next_idle (by simp)))

/-- Settles O5: a command's word spells the command again, and the fields of a defined word spell a well-formed one. -/
theorem anvilWords : Obligations.AnvilWords := by
  refine ⟨fun c t w hc h => ?_, fun c d p hc hd hpc hpd => (spelled_anvilWord hc hpc).symm.trans (spelled_anvilWord hd hpd), fun t w ht hw hd => ?_,
    fun s t hst hc hp hw => ?_⟩
  · obtain ⟨op, rd, rs1, rs2, fn, imm, rfl, hf, hdef, -⟩ := wordOf_anvilWord hc h
    exact ⟨aw_lt hf, (wordDefined_aw hf).trans hdef, fun s hi => exec_of_not_issues hc h hi⟩
  · exact ⟨_, wf_spelled ht (fits_bits w) hd, bareWord_eq hw ▸ anvilWord_spelled t (fits_bits w) hd⟩
  · exact ⟨exec_undefined_sound hp hw, _, exec_undefined_flaw hst hc hp hw, faulted_raise s t 0 1 hst⟩

end Sys2Proof.Machine
end

section
/-! PROOFS. Anvil ALU and branch instructions (R184, R185). -/
namespace Sys2Proof.Machine
open Sys2Proof Sys2Proof.Safety Sys2Proof.WellFormed

/-! ### A word that a thread issues has fields that fit (R173, R174) -/

theorem leNat_lt (l : List Byte) : leNat l < 256 ^ l.length := by
  induction l with
  | nil => decide
  | cons b t ih =>
    have hb := b.isLt
    rw [leNat, List.length_cons, Nat.pow_succ]
    omega

theorem progWord_lt (s : State) (pc : Nat) : progWord s pc < 2 ^ 64 := by
  have h := leNat_lt (rdBytes s.prog pc 8)
  rwa [rdBytes_length] at h

theorem bareWord_lt {w : Nat} (h : w < 2 ^ 64) : bareWord w < 2 ^ 64 := by
  have hle := usedImm_le (bits w 56 8) (bits w 0 32)
  obtain ⟨hop, hrd, h1, h2, hfn, himm⟩ := fits_bits w
  rw [bareWord_eq h]
  exact aw_lt ⟨hop, hrd, h1, h2, hfn, by omega⟩

theorem fits_of_issues {s : State} {t op rd rs1 rs2 fn imm : Nat} (h : issues s t (aw op rd rs1 rs2 fn imm) = true) :
    FitsWord op rd rs1 rs2 fn imm := by
  have hlt : aw op rd rs1 rs2 fn imm < 2 ^ 64 := by
    simp only [issues, Bool.and_eq_true, beq_iff_eq] at h
    exact h.2 ▸ bareWord_lt (progWord_lt s _)
  by_contra hno
  refine absurd hlt ?_
  rw [aw, if_neg]
  · exact lt_irrefl _
  · simp only [Bool.and_eq_true, decide_eq_true_eq]
    rintro ⟨⟨⟨⟨⟨hop, hrd⟩, h1⟩, h2⟩, hfn⟩, himm⟩
    exact hno ⟨hop, hrd, h1, h2, hfn, himm⟩

/-! ### What the operations compute (R184) -/

section
variable (a b : W64)

theorem shiftLeft_eq_ofNat (k : Nat) : a <<< k = BitVec.ofNat 64 (a.toNat * 2 ^ k) := by
  rw [← Nat.shiftLeft_eq]
  exact BitVec.eq_of_toNat_eq (by simp)

theorem shiftRight_eq_ofNat (k : Nat) : a >>> k = BitVec.ofNat 64 (a.toNat / 2 ^ k) := by
  rw [← Nat.shiftRight_eq_div_pow]
  refine BitVec.eq_of_toNat_eq ?_
  rw [BitVec.toNat_ushiftRight, BitVec.toNat_ofNat, Nat.mod_eq_of_lt ((Nat.shiftRight_le ..).trans_lt a.isLt)]

theorem sshiftRight_eq_ofInt (k : Nat) : a.sshiftRight k = BitVec.ofInt 64 (a.toInt / 2 ^ k) := by
  rw [BitVec.sshiftRight, Int.shiftRight_eq_div_pow]
  rfl

theorem w1_slt : w1 (a.slt b) = if a.toInt < b.toInt then 1 else 0 := by
  simp [w1, BitVec.slt]

theorem w1_ult : w1 (a.ult b) = if a.toNat < b.toNat then 1 else 0 := by
  simp [w1, BitVec.ult]

theorem zx_of_lt {imm : Nat} (h : imm < 2 ^ 32) : zx imm = BitVec.ofNat 64 imm := by
  rw [zx, Nat.mod_eq_of_lt h]

/-- The signed number that an immediate stands for. -/
theorem sext32_eq {imm : Nat} (h : imm < 2 ^ 32) :
    sext32 imm = BitVec.ofInt 64 ((imm : Int) - if 2 ^ 31 ≤ imm then 2 ^ 32 else 0) := by
  rw [sext32, BitVec.signExtend, BitVec.toInt_eq_toNat_cond, BitVec.toNat_ofNat, Nat.mod_eq_of_lt h]
  congr 1
  split <;> split <;> omega

theorem add_sext32 {imm : Nat} (h : imm < 2 ^ 32) (n : Nat) :
    BitVec.ofNat 64 n + sext32 imm = BitVec.ofInt 64 (n + ((imm : Int) - if 2 ^ 31 ≤ imm then 2 ^ 32 else 0)) := by
  rw [sext32_eq h, BitVec.ofInt_add]
  simp

/-- EXT takes a bit field (R184). -/
theorem toNat_extField {width : Nat} (h : width ≤ 64) (lsb : Nat) : (extField a lsb width).toNat = bits a.toNat lsb width := by
  have hlt : 2 ^ width - 1 < 2 ^ 64 := by
    have := Nat.pow_le_pow_right (n := 2) (by decide) h
    have := Nat.two_pow_pos width
    omega
  rw [extField, BitVec.toNat_and, BitVec.toNat_ofNat, Nat.mod_eq_of_lt hlt, Nat.and_two_pow_sub_one_eq_mod, BitVec.toNat_ushiftRight,
    Nat.shiftRight_eq_div_pow, bits]

/-- INS replaces a bit field and keeps the other bits (R184). -/
theorem getLsbD_insField {i : Nat} (hi : i < 64) (lsb width : Nat) : (insField b a lsb width).getLsbD i =
    if lsb ≤ i ∧ i < lsb + width then a.getLsbD (i - lsb) else b.getLsbD i := by
  simp only [insField, BitVec.getLsbD_or, BitVec.getLsbD_and, BitVec.getLsbD_not, BitVec.getLsbD_shiftLeft, BitVec.getLsbD_ofNat,
    Nat.testBit_two_pow_sub_one, hi]
  by_cases hl : i < lsb
  · simp [hl, Nat.not_le.2 hl]
  · have h64 : i - lsb < 64 := by omega
    have hiff : i - lsb < width ↔ i < lsb + width := by omega
    by_cases hw : i < lsb + width <;> simp [hl, h64, hiff, hw, Nat.not_lt.1 hl]

end

/-! ### ALU instructions (R184) -/

section
variable {s : State} {t rd : Nat}

/-- What an instruction that retires in state `v` leaves. -/
theorem retires {c : Instr} {v : State} {x w : W64} (h : exec c s = .next (retire v t rd x)) (hx : x = w) :
    ∃ u, exec c s = .next u ∧ Retired v u t rd w :=
  ⟨_, h, hx ▸ retired_retire ..⟩

end

/-- Settles O6: each instruction retires with what its operation computes. -/
theorem aluInstructions : Obligations.AluInstructions := by
  refine ⟨fun s t rd rs1 rs2 => ?_, fun s t rd rs1 imm => ?_, fun s t rd rs1 lsb width hl h1 h2 => ?_⟩
  · exact ⟨fun h => retires (next_act h) rfl, fun h => retires (next_act h) rfl, fun h => retires (next_act h) rfl,
      fun h => retires (next_act h) rfl, fun h => retires (next_act h) rfl,
      fun h => retires (next_act h) (shiftLeft_eq_ofNat ..), fun h => retires (next_act h) (shiftRight_eq_ofNat ..),
      fun h => retires (next_act h) (sshiftRight_eq_ofInt ..), fun h => retires (next_act h) (BitVec.mul_def ..),
      fun h => retires (next_act h) (w1_slt ..), fun h => retires (next_act h) (w1_ult ..)⟩
  · refine ⟨fun h => retires (next_act h) ?_, fun h => retires (next_act h) ?_, fun h => retires (next_act h) ?_,
      fun h => retires (next_act h) ?_, fun hi h => retires (next_act (by rwa [immLt_of_lt hi])) (shiftLeft_eq_ofNat ..),
      fun hi h => retires (next_act (by rwa [immLt_of_lt hi])) (shiftRight_eq_ofNat ..), fun h => retires (next_act h) ?_,
      fun h => retires (next_act h) ?_⟩
    · have hadd := add_sext32 (fits_of_issues h).imm (gr s t rs1).toNat
      rwa [BitVec.ofNat_toNat, BitVec.setWidth_eq, ← add_sub_assoc] at hadd
    · rw [zx_of_lt (fits_of_issues h).imm]
    · rw [zx_of_lt (fits_of_issues h).imm]
    · rw [zx_of_lt (fits_of_issues h).imm]
    · have himm := (fits_of_issues h).imm
      refine (w1_ult ..).trans ?_
      rw [zx_of_lt himm, BitVec.toNat_ofNat, Nat.mod_eq_of_lt (by omega)]
    · rw [Nat.mod_eq_of_lt (fits_of_issues h).imm]
  · refine ⟨fun h => ⟨_, _, next_act (by rwa [fieldImm_of_span hl h1 h2]), retired_retire .., toNat_extField _ h2 lsb⟩,
      fun h => ⟨_, _, next_act (by rwa [fieldImm_of_span hl h1 h2]), retired_retire .., fun i hi => getLsbD_insField _ _ hi ..⟩,
      fun h => retires (next_act h) rfl, fun h => retires (next_act h) rfl, fun h => retires (next_act h) rfl,
      fun h => retires (next_act h) rfl⟩

/-! ### Branches (R185) -/

section
variable {s : State} {t rd rs1 rs2 imm : Nat}

/-- The conditions of BR as comparisons of the two registers. -/
theorem brCond_iff {cond : Nat} (h : cond ≤ 5) (a b : W64) : brCond cond a b = true ↔
    (cond = 0 ∧ a = b) ∨ (cond = 1 ∧ a ≠ b) ∨ (cond = 2 ∧ a.toInt < b.toInt) ∨ (cond = 3 ∧ b.toInt ≤ a.toInt)
      ∨ (cond = 4 ∧ a.toNat < b.toNat) ∨ (cond = 5 ∧ b.toNat ≤ a.toNat) := by
  interval_cases cond <;> simp [brCond, BitVec.slt, BitVec.ult]

/-- Counting an issued instruction after a change of the thread's own record. -/
theorem issued_counted {v : State} (hk : ThreadsKept t s v) (hv : v = { s with thr := v.thr }) :
    Issued s (counted v t) t { th v t with issued := (th v t).issued + 1, runIssued := (th v t).runIssued + 1 } where
  thread := by rw [counted_eq]; simp
  threads m hm := by rw [counted_eq]; simpa [th_modTh_other _ _ hm] using hk m hm
  count := by rw [counted_eq]; simp [getF_congr (s := s) (t := v) (issueFld t) (by rw [hv]) (by rw [hv])]
  regs g hg := by
    rw [counted_eq, getF_setF_other _ _ (hg _ (List.mem_singleton.2 rfl)), getF_modTh]
    exact getF_congr g (by rw [hv]) (by rw [hv])
  frame := by rw [counted_eq, setF_frame _ (issueFld_ret t), hv]; rfl

/-- A further change of the record of the thread that issued. -/
theorem issued_modTh {u : State} {x : Thread} (h : Issued s u t x) (f : Thread → Thread) : Issued s (modTh u t f) t (f x) where
  thread := by rw [th_modTh_same, h.thread]
  threads m hm := (th_modTh_other u f hm).trans (h.threads m hm)
  count := h.count
  regs := h.regs
  frame := by rw [h.frame]; rfl

/-- A branch to a good target moves the pc there. -/
theorem issued_jump {v : State} (hk : ThreadsKept t s v) (hv : v = { s with thr := v.thr }) {target : W64}
    (hp : pcOk target.toNat = true) : Issued s (jump s v t target) t { advanced (th v t) with pc := target.toNat } := by
  rw [jump, if_pos hp]
  exact issued_modTh (issued_counted hk hv) fun x => { x with pc := target.toNat }

theorem jump_bad (v : State) {target : W64} (hp : pcOk target.toNat = false) : jump s v t target = raise s t 1 2 :=
  if_neg (by simp [hp])

/-- The signed offset of a branch. -/
@[reducible] def branchOff (imm : Nat) : Int := (imm : Int) - if 2 ^ 31 ≤ imm then 2 ^ 32 else 0

theorem exec_br {cond : Nat} (hc : cond ≤ 5) (hi : issues s t (aw 0x20 0 rs1 rs2 cond imm) = true) : exec (.br t cond rs1 rs2 imm) s =
    .next (if brCond cond (gr s t rs1) (gr s t rs2) then jump s s t (BitVec.ofInt 64 ((th s t).pc + branchOff imm)) else adv s t) := by
  rw [← add_sext32 (fits_of_issues hi).imm]
  exact next_act (by simp [hi, hc])

theorem exec_jal (hi : issues s t (aw 0x21 rd 0 0 0 imm) = true) : exec (.jal t rd imm) s =
    .next (jump s (linkTo s t rd) t (BitVec.ofInt 64 ((th s t).pc + branchOff imm))) := by
  rw [← add_sext32 (fits_of_issues hi).imm]
  exact next_act hi

theorem exec_jalr (hi : issues s t (aw 0x22 rd rs1 0 0 imm) = true) : exec (.jalr t rd rs1 imm) s =
    .next (jump s (linkTo s t rd) t (BitVec.ofInt 64 ((gr s t rs1).toNat + branchOff imm))) := by
  rw [← add_sext32 (fits_of_issues hi).imm, BitVec.ofNat_toNat, BitVec.setWidth_eq]
  exact next_act hi

/-- JAL and JALR move the pc and write the link register. -/
theorem issued_jump_link {target : W64} (hp : pcOk target.toNat = true) : Issued s (jump s (linkTo s t rd) t target) t
    { advanced ((th s t).setG rd (BitVec.ofNat 64 ((th s t).pc + 8))) with pc := target.toNat } := by
  have h := issued_jump (v := linkTo s t rd) (threadsKept_modTh s t _) rfl hp
  rwa [show th (linkTo s t rd) t = (th s t).setG rd (BitVec.ofNat 64 ((th s t).pc + 8)) from th_modTh_same ..] at h

end

/-- Settles O7: a branch that is not taken moves on, a taken one to its target or to the fault. -/
theorem branches : Obligations.Branches := by
  unfold Obligations.Branches
  intro s t cond rd rs1 rs2 imm
  refine ⟨fun hc hi => ⟨fun hn => ?_, fun ht hp => ?_, fun ht hp => ?_⟩, fun hi => ⟨fun hp => ?_, fun hp => ?_⟩,
    fun hi => ⟨fun hp => ?_, fun hp => ?_⟩⟩
  · rw [← brCond_iff hc] at hn
    exact ⟨_, (exec_br hc hi).trans (congrArg _ (if_neg hn)), issued_adv' s t⟩
  · rw [← brCond_iff hc] at ht
    exact ⟨_, (exec_br hc hi).trans (congrArg _ (if_pos ht)), issued_jump (fun _ _ => rfl) rfl hp⟩
  · rw [← brCond_iff hc] at ht
    exact ⟨_, (exec_br hc hi).trans (congrArg _ ((if_pos ht).trans (jump_bad s hp))), faulted_raise s t 1 2 (issues_running hi)⟩
  · exact ⟨_, exec_jal hi, issued_jump_link hp⟩
  · exact ⟨_, (exec_jal hi).trans (congrArg _ (jump_bad _ hp)), faulted_raise s t 1 2 (issues_running hi)⟩
  · exact ⟨_, exec_jalr hi, issued_jump_link hp⟩
  · exact ⟨_, (exec_jalr hi).trans (congrArg _ (jump_bad _ hp)), faulted_raise s t 1 2 (issues_running hi)⟩

end Sys2Proof.Machine
end

section
/-! PROOFS. Anvil local-store, scratchpad and program-store instructions (R172, R173, R186, R248, R273). -/
namespace Sys2Proof.Machine
open Sys2Proof Sys2Proof.Safety Sys2Proof.WellFormed

/-! ### Aligned accesses (R172, R186) -/

/-- What an instruction that faults in state `v` leaves. -/
theorem faults {v s : State} {c : Instr} {t cls code : Nat} (h : exec c s = .next (raise v t cls code)) (hr : (th v t).st = .running) :
    ∃ u, exec c s = .next u ∧ Faulted v u t cls code := ⟨_, h, faulted_raise v t cls code hr⟩

theorem th_of_thr {s u : State} (h : u.thr = s.thr) (t : Nat) : th u t = th s t := by rw [th, h, th]

theorem mem_sins {i k : Nat} {l : List Nat} : k ∈ sins i l ↔ k = i ∨ k ∈ l := by
  induction l with
  | nil => simp [sins]
  | cons a l ih =>
    rw [sins]
    split
    · simp
    · split
      · subst i
        simp
      · rw [List.mem_cons, ih, List.mem_cons, or_left_comm]

/-- The size of an access is a power of two up to 8 (R186). -/
theorem sizeOf_eq {size : Nat} (h : size ≤ 3) : sizeOf_ size = 2 ^ size := by
  rw [sizeOf_, Nat.mod_eq_of_lt (by omega)]

/-- An aligned access lies in one word. -/
theorem within_word {size a : Nat} (h : size ≤ 3) (ha : a % 2 ^ size = 0) : 1 ≤ 2 ^ size ∧ a % 8 + 2 ^ size ≤ 8 := by
  interval_cases size <;> omega

/-- An aligned access touches one line. -/
theorem linesOf_aligned {size a : Nat} (h : size ≤ 3) (ha : a % 2 ^ size = 0) : linesOf a (2 ^ size) = [a / 64] := by
  obtain ⟨h1, h8⟩ := within_word h ha
  have hline : (a + 2 ^ size - 1) / 64 - a / 64 + 1 = 1 := by omega
  rw [linesOf, if_neg (by omega), hline]
  simp

theorem leNat_replicate_zero (n : Nat) : leNat (List.replicate n 0) = 0 := by
  induction n with
  | zero => rfl
  | succ n ih => rw [List.replicate_succ, leNat, ih]; rfl

theorem effAddr_eq (s : State) (t rs1 : Nat) {imm : Nat} (h : imm < 2 ^ 32) :
    effAddr s t rs1 imm = ((gr s t rs1).toNat + imm) % 2 ^ 64 := by
  rw [effAddr, zx_of_lt h, BitVec.toNat_add, BitVec.toNat_ofNat, Nat.mod_eq_of_lt (by omega : imm < 2 ^ 64)]

/-- An address in the local store: 512 divides 2^64, so the sum of R172 may be taken there. -/
theorem lsAddr_eq (s : State) (t r imm n : Nat) : lsAddr s t r imm n n =
    if ((gr s t r).toNat + imm) % 512 % n = 0 ∧ ((gr s t r).toNat + imm) % 512 + n ≤ 512 then some (((gr s t r).toNat + imm) % 512)
    else none := by
  have ha : (gr s t r + BitVec.ofNat 64 imm).toNat % 512 = ((gr s t r).toNat + imm) % 512 := by
    rw [BitVec.toNat_add, BitVec.toNat_ofNat]
    omega
  simp only [lsAddr, ha, Bool.and_eq_true, decide_eq_true_eq]

/-! ### LDL and STL (R172, R186, R273) -/

section
variable {s : State} {t size rd rs1 rs2 imm a : Nat} {e : MErr}

/-- A word of the local store that is to fail from now on. -/
def lsSpoiled (s : State) (t a : Nat) : State := modTh s t fun x => { x with lsBad := sins (a / 8) x.lsBad }

theorem lsCheck_old (hn : ¬ (e = .uncorr ∧ a / 64 ∈ (th s t).lsValid)) (n : Nat) :
    lsCheck s t a n e = ((th s t).lsBad.any fun w => decide (a < 8 * w + 8) && decide (8 * w < a + n), s) := by
  have hc : ¬ ((decide (e = .uncorr) && (th s t).lsValid.contains (a / 64)) = true) := by simpa using hn
  simp only [lsCheck]
  rw [if_neg hc]

theorem lsCheck_new (hn : e = .uncorr ∧ a / 64 ∈ (th s t).lsValid) {n : Nat} (h1 : 1 ≤ n) : lsCheck s t a n e = (true, lsSpoiled s t a) := by
  have hc : (decide (e = .uncorr) && (th s t).lsValid.contains (a / 64)) = true := by simpa using hn
  have hbad : (th (lsSpoiled s t a) t).lsBad.any (fun w => decide (a < 8 * w + 8) && decide (8 * w < a + n)) = true := by
    rw [lsSpoiled, th_modTh_same, List.any_eq_true]
    refine ⟨a / 8, mem_sins.2 (.inl rfl), ?_⟩
    simp only [Bool.and_eq_true, decide_eq_true_eq]
    omega
  simp only [lsCheck]
  rw [if_pos hc]
  exact Prod.ext hbad rfl

variable (hs : size ≤ 3)
include hs

theorem exec_ldl (hi : issues s t (aw 0x30 rd rs1 0 size imm) = true) : exec (.ldl t size rd rs1 imm e) s = .next (
    match lsAddr s t rs1 imm (2 ^ size) (2 ^ size) with
    | none => raise s t 1 0x0A
    | some a => match lsCheck s t a (2 ^ size) e with
      | (true, s) => raise s t 0 1
      | (false, s) => retire s t rd (BitVec.ofNat 64 (leNat (rdBytes (th s t).ls a (2 ^ size))))) := by
  rw [← sizeOf_eq hs]
  exact next_act (by simp [hi, hs])

theorem exec_stl (hi : issues s t (aw 0x31 0 rs1 rs2 size imm) = true) : exec (.stl t size rs2 rs1 imm) s = .next (
    match lsAddr s t rs1 imm (2 ^ size) (2 ^ size) with
    | none => raise s t 1 0x0A
    | some a => adv (lsWr s t a (leBytes (2 ^ size) (gr s t rs2).toNat)) t) := by
  rw [← sizeOf_eq hs]
  exact next_act (by simp [hi, hs])

end

section
variable {s : State} {t size a : Nat}

/-- What an aligned store to the local store writes, and which words pass their check again. -/
theorem issued_lsWr (hs : size ≤ 3) (ha : a % 2 ^ size = 0) (v : Nat) : let u := adv (lsWr s t a (leBytes (2 ^ size) v)) t
    Issued s u t { advanced (th s t) with ls := (th u t).ls, lsValid := (th u t).lsValid, lsBad := (th u t).lsBad } ∧
      a / 64 ∈ (th u t).lsValid ∧ (th u t).lsBad = (th s t).lsBad.filter (fun w => !(a ≤ 8 * w && 8 * w + 8 ≤ a + 2 ^ size)) ∧
      rdBytes (th u t).ls a (2 ^ size) = leBytes (2 ^ size) v ∧
      ∀ b, b < a ∨ a + 2 ^ size ≤ b → mget 0 (th u t).ls b = mget 0 (th s t).ls b := by
  intro u
  have hlen := leBytes_length (2 ^ size) v
  have hu : Issued s u t _ := issued_adv s t _
  refine ⟨?_, ?_, ?_, ?_, fun b hb => ?_⟩
  · rw [hu.thread]
    exact hu
  · rw [hu.thread]
    show a / 64 ∈ (linesOf a (leBytes (2 ^ size) v).length).foldl _ _
    rw [hlen, linesOf_aligned hs ha]
    exact mem_sins.2 (.inl rfl)
  · rw [hu.thread]
    show (th s t).lsBad.filter _ = _
    rw [hlen]
  · rw [hu.thread]
    have h := rdBytes_wrBytes (th s t).ls a (leBytes (2 ^ size) v)
    rwa [hlen] at h
  · rw [hu.thread]
    show mget 0 (wrBytes (th s t).ls a _) b = _
    rcases hb with hb | hb
    · exact mget_wrBytes_below _ a b _ hb
    · exact mget_wrBytes_above _ a b _ (by rwa [hlen])

end

/-! ### LDS, STS and LDP (R166, R173, R186, R248) -/

section
variable (s : State)

theorem slice_of_slices {s u : State} (h : u.slices = s.slices) (q : Nat) : slice u q = slice s q := by rw [slice, h, slice]

/-- A way that drops its lines is a step of the scratchpad as before. -/
theorem spWays_dropWay (x : Slice) (w : Nat) : (x.dropWay w).spWays = x.spWays := by
  unfold Slice.dropWay
  generalize x.lines.filter _ = l
  induction l generalizing x with
  | nil => rfl
  | cons e l ih => exact ih (x.drop e.1)

@[simp] theorem setSlice_thr (q : Nat) (x : Slice) : (setSlice s q x).thr = s.thr := rfl
@[simp] theorem setSlice_mem (q : Nat) (x : Slice) : (setSlice s q x).mem = s.mem := rfl
@[simp] theorem errInc_mem (i n : Nat) : (errInc s i n).mem = s.mem := rfl
@[simp] theorem errInc_slices (i n : Nat) : (errInc s i n).slices = s.slices := rfl

theorem wayErr_thr (q w : Nat) (unc : Bool) : (wayErr s q w unc).thr = s.thr := by
  unfold wayErr
  dsimp only
  repeat' split
  all_goals simp

theorem wayErr_mem (q w : Nat) (unc : Bool) : (wayErr s q w unc).mem = s.mem := by
  unfold wayErr
  dsimp only
  repeat' split
  all_goals simp

theorem spSteps_of_slices {s u : State} (h : u.slices = s.slices) (p : Nat) : spSteps u p = spSteps s p := by
  rw [spSteps, slice_of_slices h, spSteps]

theorem spSteps_setSlice {q : Nat} {x : Slice} (h : x.spWays = (slice s q).spWays) (p : Nat) :
    spSteps (setSlice s q x) p = spSteps s p := by
  by_cases hp : p = q
  · rw [hp, spSteps, slice_setSlice, h, spSteps]
  · simp [spSteps, slice, setSlice, mget_mset_other _ _ _ hp]

/-- An error in a way may take its lines, and leaves the steps of the scratchpad. -/
theorem spSteps_wayErr (q w : Nat) (unc : Bool) (p : Nat) : spSteps (wayErr s q w unc) p = spSteps s p := by
  unfold wayErr
  extract_lets thr old new v u
  have hu : u.slices = s.slices := by
    simp only [u, v]
    split <;> simp
  split
  · split
    · exact spSteps_of_slices (by simpa using hu) p
    · rename_i lost disabled _ _
      have hdrop : spSteps lost p = spSteps u p := spSteps_setSlice u (spWays_dropWay ..) p
      exact (spSteps_of_slices (by simp [disabled]) p).trans (hdrop.trans (spSteps_of_slices hu p))
  · exact spSteps_of_slices hu p

theorem spMapped_of_steps {s u : State} (h : ∀ p, spSteps u p = spSteps s p) (a : Nat) : spMapped u a = spMapped s a := by
  rw [spMapped, h, spMapped]

end

section
variable {s : State} {t size rd rs1 rs2 imm a n : Nat} {e : MErr}

/-- A word of the scratchpad that is to fail from now on. -/
@[reducible] def spSpoiled (s : State) (a : Nat) (e : MErr) : State :=
  if e = .uncorr && s.mem.scratchValid.contains (a / 64) then { s with mem := { s.mem with scratchBad := sins (a / 8) s.mem.scratchBad } }
  else s

theorem spCheck_unmapped (h : spMapped s a = false) : spCheck s a n e = (false, s) := by
  simp [spCheck, h]

/-- A read that meets no failing word; a corrected error is counted for its way. -/
theorem spCheck_passes (h : spMapped s a = true) (hb : spBad (spSpoiled s a e) a n = false) : spCheck s a n e =
    (false, if e = .corr && s.mem.scratchValid.contains (a / 64) then wayErr (spSpoiled s a e) (spWay s a).1 (spWay s a).2 false
      else spSpoiled s a e) := by
  simp only [spCheck, h]
  exact if_neg (Bool.eq_false_iff.1 hb)

theorem spCheck_fails (h : spMapped s a = true) (hb : spBad (spSpoiled s a e) a n = true) : spCheck s a n e =
    (true, wayErr (spSpoiled s a e) (spWay s a).1 (spWay s a).2 true) := by
  simp only [spCheck, h]
  exact if_pos hb

theorem spSpoiled_sound (h : ¬ (e = .uncorr ∧ a / 64 ∈ s.mem.scratchValid)) : spSpoiled s a e = s := if_neg (by simpa using h)

/-- A word that failed before, or is found to fail now, fails. -/
theorem spBad_spSpoiled (hm : spMapped s a = true) (hn : 1 ≤ n)
    (h : spBad s a n = true ∨ (e = .uncorr ∧ a / 64 ∈ s.mem.scratchValid)) : spBad (spSpoiled s a e) a n = true := by
  by_cases hnew : e = .uncorr ∧ a / 64 ∈ s.mem.scratchValid
  · rw [spSpoiled, if_pos (by simpa using hnew), spBad, Bool.and_eq_true, List.any_eq_true]
    refine ⟨hm, a / 8, mem_sins.2 (.inl rfl), ?_⟩
    simp only [Bool.and_eq_true, decide_eq_true_eq]
    omega
  · rw [spSpoiled_sound hnew]
    exact h.resolve_right hnew

theorem spSpoiled_thr (s : State) (a : Nat) (e : MErr) : (spSpoiled s a e).thr = s.thr := by
  unfold spSpoiled
  split <;> rfl

section
variable (hs : size ≤ 3)
include hs

theorem exec_lds (hi : issues s t (aw 0x34 rd rs1 0 size imm) = true) : exec (.lds t size rd rs1 imm e) s = .next (
    let a := ((gr s t rs1).toNat + imm) % 2 ^ 64
    if a % 2 ^ size ≠ 0 then raise s t 1 0x0A
    else match spCheck s a (2 ^ size) e with
      | (true, s) => raise s t 0 5
      | (false, s) => retire s t rd (BitVec.ofNat 64 (leNat (spRd s a (2 ^ size))))) := by
  rw [← sizeOf_eq hs, ← effAddr_eq s t rs1 (fits_of_issues hi).imm]
  refine (next_act (by simp [hi, hs])).trans ?_
  simp only [bne_iff_ne] <;> rfl

theorem exec_sts (hi : issues s t (aw 0x35 0 rs1 rs2 size imm) = true) : exec (.sts t size rs2 rs1 imm) s = .next (
    let a := ((gr s t rs1).toNat + imm) % 2 ^ 64
    if isSys s t = false then raise s t 2 5
    else if a % 2 ^ size ≠ 0 then raise s t 1 0x0A
    else adv (spWr s a (leBytes (2 ^ size) (gr s t rs2).toNat)) t) := by
  rw [← sizeOf_eq hs, ← effAddr_eq s t rs1 (fits_of_issues hi).imm]
  refine (next_act (by simp [hi, hs])).trans ?_
  simp only [Bool.not_eq_true', bne_iff_ne]
  rfl

theorem exec_ldp (hi : issues s t (aw 0x36 rd rs1 0 size imm) = true) : exec (.ldp t size rd rs1 imm) s = .next (
    let a := ((gr s t rs1).toNat + imm) % 2 ^ 64
    if a % 2 ^ size ≠ 0 then raise s t 1 0x0A
    else retire s t rd (if 2 ^ 23 ≤ a then 0 else BitVec.ofNat 64 (leNat (rdBytes s.prog a (2 ^ size))))) := by
  rw [← sizeOf_eq hs, ← effAddr_eq s t rs1 (fits_of_issues hi).imm]
  refine (next_act (by simp [hi, hs])).trans ?_
  simp only [bne_iff_ne]
  rfl

/-- What an aligned store to a converted step writes, and which words pass their check again. -/
theorem spWr_aligned (hm : spMapped s a = true) (ha : a % 2 ^ size = 0) (v : Nat) : let u := spWr s a (leBytes (2 ^ size) v)
    u = { s with mem := u.mem } ∧
      u.mem = { s.mem with scratch := u.mem.scratch, scratchValid := sins (a / 64) s.mem.scratchValid,
                           scratchBad := s.mem.scratchBad.filter (fun w => !(a ≤ 8 * w && 8 * w + 8 ≤ a + 2 ^ size)) } ∧
      rdBytes u.mem.scratch a (2 ^ size) = leBytes (2 ^ size) v ∧
      ∀ b, b < a ∨ a + 2 ^ size ≤ b → mget 0 u.mem.scratch b = mget 0 s.mem.scratch b := by
  intro u
  have hlen := leBytes_length (2 ^ size) v
  have hu : u = { s with mem := { s.mem with
      scratch := wrBytes s.mem.scratch a (leBytes (2 ^ size) v), scratchValid := sins (a / 64) s.mem.scratchValid,
      scratchBad := s.mem.scratchBad.filter (fun w => !(a ≤ 8 * w && 8 * w + 8 ≤ a + 2 ^ size)) } } := by
    simp only [u, spWr, hm, if_true, hlen, linesOf_aligned hs ha, List.foldl_cons, List.foldl_nil]
  have hread := rdBytes_wrBytes s.mem.scratch a (leBytes (2 ^ size) v)
  rw [hlen] at hread
  refine ⟨by rw [hu], by rw [hu], by rw [hu]; exact hread, fun b hb => ?_⟩
  rw [hu]
  rcases hb with hb | hb
  · exact mget_wrBytes_below _ a b _ hb
  · exact mget_wrBytes_above _ a b _ (by rwa [hlen])

end

end

/-- Settles O8: each access by the place it names and what the codes find there. -/
theorem localStorage : Obligations.LocalStorage := by
  refine ⟨fun s t size rd rs1 rs2 imm e hs => ?_, fun s t size rd rs1 rs2 imm e hs => ?_⟩
  · intro a n fits new old
    have haddr (h : fits) : lsAddr s t rs1 imm n n = some a := (lsAddr_eq ..).trans (if_pos h)
    have hnone (h : ¬ fits) : lsAddr s t rs1 imm n n = none := (lsAddr_eq ..).trans (if_neg h)
    have hold : old ↔ (th s t).lsBad.any (fun w => decide (a < 8 * w + 8) && decide (8 * w < a + n)) = true := by simp [old]
    refine ⟨fun hi => ⟨fun hf hn ho => ?_, fun hf hn ho => ?_, fun hf hn => ?_, fun hf => ?_⟩, fun hi => ⟨fun hf => ?_, fun hf => ?_⟩⟩
    · refine retires ((exec_ldl hs hi).trans ?_) rfl
      rw [haddr hf]
      dsimp only
      rw [lsCheck_old hn, Bool.eq_false_iff.2 (hold.not.1 ho)]
    · refine faults ((exec_ldl hs hi).trans ?_) (issues_running hi)
      rw [haddr hf]
      dsimp only
      rw [lsCheck_old hn, hold.1 ho]
    · refine faults ((exec_ldl hs hi).trans ?_) (by rw [th_modTh_same]; exact issues_running hi)
      rw [haddr hf]
      dsimp only
      rw [lsCheck_new hn (within_word hs hf.1).1]
      rfl
    · refine faults ((exec_ldl hs hi).trans ?_) (issues_running hi)
      rw [hnone hf]
    · refine ⟨_, (exec_stl hs hi).trans ?_, issued_lsWr hs hf.1 (gr s t rs2).toNat⟩
      rw [haddr hf]
    · refine faults ((exec_stl hs hi).trans ?_) (issues_running hi)
      rw [hnone hf]
  · intro a n live
    refine ⟨fun hi => ⟨fun ha => ?_, fun ha hm => ?_, fun ha hm hb hn => ?_, fun ha hm hb => ?_⟩,
      fun hi => ⟨fun hsys => ?_, fun hsys ha => ?_, fun hsys ha hm => ?_, fun hsys ha hm => ?_⟩, fun hi => ⟨fun ha => ?_, fun ha => ?_⟩⟩
    · exact faults ((exec_lds hs hi).trans (congrArg _ (if_pos ha))) (issues_running hi)
    · refine retires ((exec_lds hs hi).trans ((congrArg _ (if_neg (not_not.2 ha))).trans ?_)) rfl
      rw [spCheck_unmapped hm]
      dsimp only
      rw [spRd_unmapped hm, leNat_replicate_zero]
      rfl
    · have hpass := spCheck_passes (e := e) hm (by rwa [spSpoiled_sound hn])
      rw [spSpoiled_sound hn] at hpass
      have hload {v : State} (hv : spCheck s a n e = (false, v)) (hmem : v.mem = s.mem) (hmap : spMapped v a = true) :
          exec (.lds t size rd rs1 imm e) s = .next (retire v t rd (BitVec.ofNat 64 (leNat (rdBytes s.mem.scratch a n)))) := by
        refine (exec_lds hs hi).trans ((congrArg _ (if_neg (not_not.2 ha))).trans ?_)
        rw [hv]
        dsimp only
        rw [spRd_mapped hmap, hmem]
      by_cases hcorr : e = .corr ∧ live
      · rw [if_pos (by simpa using hcorr)] at hpass
        exact ⟨_, hload hpass (wayErr_mem ..) ((spMapped_of_steps (spSteps_wayErr s _ _ _) a).trans hm), fun hno => absurd hcorr hno,
          fun _ => retired_retire ..⟩
      · rw [if_neg (by simpa using hcorr)] at hpass
        exact ⟨_, hload hpass rfl hm, fun _ => retired_retire .., fun hyes => absurd hyes hcorr⟩
    · have hfail := spCheck_fails hm (spBad_spSpoiled hm (within_word hs ha).1 hb)
      refine faults ((exec_lds hs hi).trans ((congrArg _ (if_neg (not_not.2 ha))).trans ?_)) ?_
      · rw [hfail]
      · rw [th_of_thr ((wayErr_thr ..).trans (spSpoiled_thr s a e))]
        exact issues_running hi
    · exact faults ((exec_sts hs hi).trans (congrArg _ (if_pos hsys))) (issues_running hi)
    · exact faults ((exec_sts hs hi).trans (congrArg _ ((if_neg (by simp [hsys])).trans (if_pos ha)))) (issues_running hi)
    · refine ⟨_, (exec_sts hs hi).trans (congrArg _ ((if_neg (by simp [hsys])).trans (if_neg (not_not.2 ha)))), ?_⟩
      rw [spWr_unmapped _ hm]
      exact issued_adv' s t
    · obtain ⟨hframe, hmem, hread, hkept⟩ := spWr_aligned hs hm ha (gr s t rs2).toNat
      refine ⟨_, (exec_sts hs hi).trans (congrArg _ ((if_neg (by simp [hsys])).trans (if_neg (not_not.2 ha)))), ?_, ?_, ?_, ?_⟩
      · rw [adv_mem, ← hframe]
        exact th_of_thr (spWr_thr s a _) t ▸ issued_adv' ..
      · rw [adv_mem]
        exact hmem
      · rw [adv_mem]
        exact hread
      · rw [adv_mem]
        exact hkept
    · exact faults ((exec_ldp hs hi).trans (congrArg _ (if_pos ha))) (issues_running hi)
    · exact retires ((exec_ldp hs hi).trans (congrArg _ (if_neg (not_not.2 ha)))) rfl

end Sys2Proof.Machine
end

section
/-! PROOFS. Anvil DRAM and buffer accesses (R187, R238, R264, R266, R271). -/
namespace Sys2Proof.Machine
open Sys2Proof Sys2Proof.Safety Sys2Proof.WellFormed

/-! ### Memory accesses change no thread -/

section
variable (s : State)

@[simp] theorem dramWr_thr (a : Nat) (b : List Byte) : (dramWr s a b).thr = s.thr := by
  unfold dramWr
  split <;> rfl

@[simp] theorem dramMerge_thr (a n : Nat) (e : MErr) : (dramMerge s a n e).thr = s.thr := by
  unfold dramMerge
  split
  · rfl
  · dsimp only
    split
    · exact dramUe_thr ..
    · cases e <;> simp only [apply_ite State.thr, dramCorr_thr, dramUe_thr, bitmapErr_thr, ite_self]

@[simp] theorem wtDrain_thr (q : Nat) (e : MErr) : (wtDrain s q e).thr = s.thr := by
  unfold wtDrain
  split
  · rfl
  · rw [dramWr_thr, dramMerge_thr, setSlice_thr]

@[simp] theorem drainLine_thr (l : Nat) : (drainLine s l).thr = s.thr := by
  unfold drainLine
  refine foldl_field (·.thr) _ (fun s _ => ?_) _ s
  rw [apply_ite State.thr, wtDrain_thr, ite_self]

@[simp] theorem keepCopy_thr (l : Nat) : (keepCopy s l).thr = s.thr := by
  unfold keepCopy
  dsimp only
  split <;> rfl

@[simp] theorem keepCopy_mem (l : Nat) : (keepCopy s l).mem = s.mem := by
  unfold keepCopy
  dsimp only
  split <;> rfl

/-- The map cache holds no line of the helm's range. -/
theorem keepCopy_helm {l : Nat} (h : aHelm ≤ 64 * l + 63) : keepCopy s l = s := by
  have hend : ¬ l < mapEnd / 64 := by
    unfold aHelm at h
    unfold mapEnd
    omega
  rw [keepCopy, if_neg]
  simp [hend]

theorem sramCheck_thr (a n : Nat) (e : MErr) : (sramCheck s a n e).2.thr = s.thr := by
  unfold sramCheck
  dsimp only
  repeat' split
  all_goals simp

theorem locCheck_thr (l : Loc) (n : Nat) (e : MErr) (src : Nat) : (locCheck s l n e src).2.thr = s.thr := by
  cases l with
  | sram a => exact sramCheck_thr ..
  | dram a => exact dramCheck_thr ..

theorem locMerge_thr (l : Loc) (n : Nat) (e : MErr) : (locMerge s l n e).thr = s.thr := by
  cases l with
  | sram a => rw [locMerge, apply_ite State.thr, sramCheck_thr, ite_self]
  | dram a => exact dramMerge_thr ..

/-! ### What the codes find leaves the bytes of DRAM -/

theorem dramUe_dram (line src : Nat) : (dramUe s line src).mem.dram = s.mem.dram := by simp [dramUe, ueLog, errInc]

theorem bitmapErr_dram (line : Nat) : (bitmapErr s line).mem.dram = s.mem.dram := by simp [bitmapErr, ueLog]

theorem dramCorr_dram (line : Nat) : (dramCorr s line).mem.dram = s.mem.dram := by
  unfold dramCorr
  dsimp only
  split
  · split <;> simp
  · split
    · split <;> simp
    · simp

theorem dramMerge_dram (a n : Nat) (e : MErr) : (dramMerge s a n e).mem.dram = s.mem.dram := by
  unfold dramMerge
  split
  · rfl
  · dsimp only
    split
    · exact dramUe_dram ..
    · cases e <;> simp only [apply_ite (fun s : State => s.mem.dram), dramCorr_dram, dramUe_dram, bitmapErr_dram, ite_self]

end

/-! ### LDD and STD (R187, R238, R264, R266, R271) -/

section
variable {s : State} {t size rd rs1 rs2 imm a n : Nat} {e : MErr}

theorem dramCheck_helm {src : Nat} (h : aHelm ≤ a) : dramCheck s a n e src = (false, s) := if_pos h

/-- An aligned read that finds no new error fails where its line already fails. -/
theorem dramCheck_ok {src : Nat} (hs : size ≤ 3) (ha : a % 2 ^ size = 0) (h : a < aHelm) : dramCheck s a (2 ^ size) .ok src =
    if a / 64 ∈ s.mem.bad then (true, dramUe s (a / 64) src) else (false, s) := by
  unfold dramCheck
  rw [if_neg (by omega), linesOf_aligned hs ha]
  by_cases hbad : a / 64 ∈ s.mem.bad <;> simp [hbad]

theorem dramMerge_helm (h : aHelm ≤ a) : dramMerge s a n e = s := if_pos h

/-- A store below the helm's range: the bytes, the valid bits, and the lines that pass their check again. -/
theorem dramWr_below {b : List Byte} (h : a < aHelm) : let u := dramWr s a b
    u = { s with mem := u.mem } ∧ u.mem = { s.mem with dram := u.mem.dram, valid := u.mem.valid, bad := u.mem.bad } ∧
      u.mem.valid = (linesOf a b.length).foldl (fun v l => sins l v) s.mem.valid := by
  intro u
  have hu : u = dramWr s a b := rfl
  rw [dramWr, if_neg (by omega)] at hu
  refine ⟨?_, ?_, ?_⟩ <;> rw [hu]

section
variable (hs : size ≤ 3)
include hs

theorem exec_ldd (hi : issues s t (aw 0x42 rd rs1 0 size imm) = true) : exec (.ldd t size rd rs1 imm e) s = .next (
    let a := ((gr s t rs1).toNat + imm) % 2 ^ 64
    if isSys s t = false then raise s t 2 7
    else if a % 2 ^ size ≠ 0 then raise s t 1 0x0A
    else match dramCheck (drainLine s (a / 64)) a (2 ^ size) e 0 with
      | (true, s) => raise s t 0 3
      | (false, s) => retire s t rd (BitVec.ofNat 64 (dramLe s a (2 ^ size)))) := by
  rw [← sizeOf_eq hs, ← effAddr_eq s t rs1 (fits_of_issues hi).imm]
  refine (next_act (by simp [hi, hs])).trans ?_
  simp only [Bool.not_eq_true', bne_iff_ne] <;> rfl

theorem exec_std (hi : issues s t (aw 0x43 0 rs1 rs2 size imm) = true) : exec (.std t size rs2 rs1 ⟨imm, e⟩) s = .next (
    let a := ((gr s t rs1).toNat + imm) % 2 ^ 64
    if isSys s t = false then raise s t 2 7
    else if a % 2 ^ size ≠ 0 then raise s t 1 0x0A
    else adv (dramWr (dramMerge (keepCopy s (a / 64)) a (2 ^ size) e) a (leBytes (2 ^ size) (gr s t rs2).toNat)) t) := by
  rw [← sizeOf_eq hs, ← effAddr_eq s t rs1 (fits_of_issues hi).imm]
  refine (next_act (by simp [hi, hs])).trans ?_
  simp only [Bool.not_eq_true', bne_iff_ne]
  rfl

/-- An aligned load by a system thread: what the read of DRAM finds decides. -/
theorem exec_ldd_read (hi : issues s t (aw 0x42 rd rs1 0 size imm) = true) (hsys : isSys s t = true)
    (ha : ((gr s t rs1).toNat + imm) % 2 ^ 64 % 2 ^ size = 0) : exec (.ldd t size rd rs1 imm e) s = .next (
    let a := ((gr s t rs1).toNat + imm) % 2 ^ 64
    match dramCheck (drainLine s (a / 64)) a (2 ^ size) e 0 with
    | (true, s) => raise s t 0 3
    | (false, s) => retire s t rd (BitVec.ofNat 64 (dramLe s a (2 ^ size)))) :=
  (exec_ldd hs hi).trans (congrArg _ ((if_neg (by simp [hsys])).trans (if_neg (not_not.2 ha))))

theorem exec_std_write (hi : issues s t (aw 0x43 0 rs1 rs2 size imm) = true) (hsys : isSys s t = true)
    (ha : ((gr s t rs1).toNat + imm) % 2 ^ 64 % 2 ^ size = 0) : exec (.std t size rs2 rs1 ⟨imm, e⟩) s = .next (
    let a := ((gr s t rs1).toNat + imm) % 2 ^ 64
    adv (dramWr (dramMerge (keepCopy s (a / 64)) a (2 ^ size) e) a (leBytes (2 ^ size) (gr s t rs2).toNat)) t) :=
  (exec_std hs hi).trans (congrArg _ ((if_neg (by simp [hsys])).trans (if_neg (not_not.2 ha))))

/-! ### LDB and STB (R187, R271, R273) -/

theorem exec_ldb (hi : issues s t (aw 0x40 rd rs1 rs2 size imm) = true) : exec (.ldb t size rd rs1 rs2 imm e) s = .next (
    match bufPlace s t (gr s t rs1).toNat (((gr s t rs2).toNat + imm) % 2 ^ 64) (2 ^ size) with
    | .inl (c, k) => raise s t c k
    | .inr l =>
      match locCheck s l (2 ^ size) e 0 with
      | (true, s) => raise s t 0 (match l with | .sram _ => 2 | .dram _ => 3)
      | (false, s) => retire s t rd (BitVec.ofNat 64 (leNat (locRd s l (2 ^ size))))) := by
  rw [← sizeOf_eq hs, ← effAddr_eq s t rs2 (fits_of_issues hi).imm]
  exact next_act (by simp [hi, hs])

theorem exec_stb (hi : issues s t (aw 0x41 rd rs1 rs2 size imm) = true) : exec (.stb t size rs2 rs1 rd ⟨imm, e⟩) s = .next (
    match bufPlace s t (gr s t rs1).toNat (((gr s t rd).toNat + imm) % 2 ^ 64) (2 ^ size) with
    | .inl (c, k) => raise s t c k
    | .inr l => adv (locWr (locMerge s l (2 ^ size) e) l (leBytes (2 ^ size) (gr s t rs2).toNat)) t) := by
  rw [← sizeOf_eq hs, ← effAddr_eq s t rd (fits_of_issues hi).imm]
  exact next_act (by simp [hi, hs])

end

section
variable {h o sz : Nat} {b : Buf}

/-- A thread holds a handle: the handle names a buffer, and the buffer names the thread. -/
theorem holds_iff : holds s t h = true ↔ ∃ b, bufAt s h = some b ∧ t ∈ b.holders := by
  unfold holds
  split
  · rename_i b hb
    simp [hb]
  · rename_i hb
    simp [hb]

theorem holder_of_holds (hb : bufAt s h = some b) (hh : holds s t h = true) : t ∈ b.holders := by
  obtain ⟨b', hb', hmem⟩ := holds_iff.1 hh
  rwa [Option.some.inj (hb.symm.trans hb')]

theorem bufPlace_unheld (hh : holds s t h = false) : bufPlace s t h o sz = .inl (1, 4) := by
  unfold bufPlace
  split
  · rfl
  · rename_i b hb
    have hno : t ∉ b.holders := fun hmem => absurd (holds_iff.2 ⟨b, hb, hmem⟩) (by simp [hh])
    rw [if_pos (by simpa using hno)]

/-- In a buffer held, bounds are judged before alignment. -/
theorem bufPlace_held (hb : bufAt s h = some b) (hh : holds s t h = true) : bufPlace s t h o sz =
    match bufOff b o with
    | none => .inl (2, 4)
    | some l => if o % sz ≠ 0 then .inl (1, 0x0A) else .inr l := by
  unfold bufPlace
  rw [hb]
  dsimp only
  rw [if_neg (by simpa using holder_of_holds hb hh)]
  cases bufOff b o with
  | none => rfl
  | some l => simp only [bne_iff_ne]

end

/-- A store at a location changes a memory alone. -/
theorem locWr_frame (s : State) (l : Loc) (b : List Byte) : locWr s l b = { s with mem := (locWr s l b).mem } := by
  cases l with
  | sram a => rfl
  | dram a =>
    show dramWr s a b = { s with mem := (dramWr s a b).mem }
    by_cases ha : a < aHelm
    · exact (dramWr_below ha).1
    · rw [dramWr_helm b (by omega)]

theorem locWr_thr (s : State) (l : Loc) (b : List Byte) : (locWr s l b).thr = s.thr := by rw [locWr_frame]

end

/-- Settles O9: the checks in their order; then what the access finds, and the bytes it stores. -/
theorem dramAndBufferAccess : Obligations.DramAndBufferAccess := by
  refine ⟨fun s t size rd rs1 rs2 imm e hs => ?_, fun s t size rd rs1 rs2 imm e hs => ?_⟩
  · intro a n v
    have hrun {w : State} (hi : (th s t).st = .running) (hw : (dramCheck v a n e 0).2 = w) : (th w t).st = .running := by
      rw [th_of_thr (hw ▸ (dramCheck_thr ..).trans (drainLine_thr ..))]
      exact hi
    have hfail {w : State} (hi : issues s t (aw 0x42 rd rs1 0 size imm) = true) (hsys : isSys s t = true) (ha : a % n = 0)
        (hw : dramCheck v a n e 0 = (true, w)) : ∃ u, exec (.ldd t size rd rs1 imm e) s = .next u ∧ Faulted w u t 0 3 := by
      refine faults ((exec_ldd_read hs hi hsys ha).trans ?_) (hrun (issues_running hi) (by rw [hw]))
      dsimp only
      rw [hw]
    have hpass {w : State} (hi : issues s t (aw 0x42 rd rs1 0 size imm) = true) (hsys : isSys s t = true) (ha : a % n = 0)
        (hw : dramCheck v a n e 0 = (false, w)) {x : W64} (hx : BitVec.ofNat 64 (dramLe w a n) = x) :
        ∃ u, exec (.ldd t size rd rs1 imm e) s = .next u ∧ Retired w u t rd x := by
      refine retires ((exec_ldd_read hs hi hsys ha).trans ?_) hx
      dsimp only
      rw [hw]
    have hval (w : State) (hlt : a < aHelm) : BitVec.ofNat 64 (dramLe w a n) = BitVec.ofNat 64 (leNat (rdBytes w.mem.dram a n)) := by
      rw [dramLe, dramRd_below hlt]
    refine ⟨fun hi => ⟨fun hsys => ?_, fun hsys ha => ?_, fun hsys ha hge => ?_, fun hsys ha hlt he hbad => ?_,
      fun hsys ha hlt he hbad => ?_, fun hsys ha hlt w hw => ?_, fun hsys ha hlt w hw => ?_⟩,
      fun hi => ⟨fun hsys => ?_, fun hsys ha => ?_, fun hsys ha hge => ?_, fun hsys ha hlt => ?_⟩⟩
    · exact faults ((exec_ldd hs hi).trans (congrArg _ (if_pos hsys))) (issues_running hi)
    · exact faults ((exec_ldd hs hi).trans (congrArg _ ((if_neg (by simp [hsys])).trans (if_pos ha)))) (issues_running hi)
    · refine hpass hi hsys ha (dramCheck_helm hge) ?_
      rw [dramLe, dramRd_helm hge, leNat_replicate_zero]
      rfl
    · subst he
      exact hpass hi hsys ha ((dramCheck_ok hs ha hlt).trans (if_neg hbad)) (hval v hlt)
    · subst he
      exact hfail hi hsys ha ((dramCheck_ok hs ha hlt).trans (if_pos hbad))
    · exact hpass hi hsys ha hw (hval w hlt)
    · exact hfail hi hsys ha hw
    · exact faults ((exec_std hs hi).trans (congrArg _ (if_pos hsys))) (issues_running hi)
    · exact faults ((exec_std hs hi).trans (congrArg _ ((if_neg (by simp [hsys])).trans (if_pos ha)))) (issues_running hi)
    · refine ⟨_, exec_std_write hs hi hsys ha, ?_⟩
      dsimp only
      rw [keepCopy_helm s (by omega), dramMerge_helm hge, dramWr_helm _ hge]
      exact issued_adv' s t
    · intro w
      have hlen := leBytes_length n (gr s t rs2).toNat
      obtain ⟨hframe, hmem, hvalid⟩ := dramWr_below (s := w) (b := leBytes n (gr s t rs2).toNat) hlt
      have hdram := dramWr_dram (s := w) (leBytes n (gr s t rs2).toNat) hlt
      have hbytes : w.mem.dram = s.mem.dram := (dramMerge_dram ..).trans (by rw [keepCopy_mem])
      rw [hbytes] at hdram
      rw [hlen, linesOf_aligned hs ha] at hvalid
      refine ⟨_, exec_std_write hs hi hsys ha, ?_, ?_, ?_, fun b hb => ?_, ?_⟩
      · rw [adv_mem, ← hframe]
        have hthr : (dramWr w a (leBytes n (gr s t rs2).toNat)).thr = s.thr := by simp [w]
        exact th_of_thr hthr t ▸ issued_adv' ..
      · rw [adv_mem, hdram]
        have h := rdBytes_wrBytes s.mem.dram a (leBytes n (gr s t rs2).toNat)
        rwa [hlen] at h
      · rw [adv_mem, hvalid]
        exact mem_sins.2 (.inl rfl)
      · rw [adv_mem, hdram]
        rcases hb with hb | hb
        · exact mget_wrBytes_below _ a b _ hb
        · exact mget_wrBytes_above _ a b _ (by rwa [hlen])
      · rw [adv_mem]
        exact hmem
  · intro h n
    constructor
    · intro hi o
      refine ⟨fun hh => ?_, fun b hb hh => ⟨fun hoff => ?_, fun l hoff => ⟨fun ho => ?_, fun v ho hv => ?_, fun v ho hv => ?_⟩⟩⟩
      · refine faults ((exec_ldb hs hi).trans ?_) (issues_running hi)
        rw [bufPlace_unheld hh]
      · refine faults ((exec_ldb hs hi).trans ?_) (issues_running hi)
        rw [bufPlace_held hb hh, hoff]
      · refine faults ((exec_ldb hs hi).trans ?_) (issues_running hi)
        rw [bufPlace_held hb hh, hoff]
        dsimp only
        rw [if_pos ho]
      · refine retires ((exec_ldb hs hi).trans ?_) rfl
        rw [bufPlace_held hb hh, hoff]
        dsimp only
        rw [if_neg (not_not.2 ho)]
        dsimp only
        rw [hv]
      · have hrun : (th v t).st = .running := by
          have hthr := locCheck_thr s l n e 0
          rw [hv] at hthr
          rw [th_of_thr hthr]
          exact issues_running hi
        refine faults ((exec_ldb hs hi).trans ?_) hrun
        rw [bufPlace_held hb hh, hoff]
        dsimp only
        rw [if_neg (not_not.2 ho)]
        dsimp only
        cases l <;> rw [hv]
    · intro hi o
      refine ⟨fun hh => ?_, fun b hb hh => ⟨fun hoff => ?_, fun l hoff => ⟨fun ho => ?_, fun ho => ?_⟩⟩⟩
      · refine faults ((exec_stb hs hi).trans ?_) (issues_running hi)
        rw [bufPlace_unheld hh]
      · refine faults ((exec_stb hs hi).trans ?_) (issues_running hi)
        rw [bufPlace_held hb hh, hoff]
      · refine faults ((exec_stb hs hi).trans ?_) (issues_running hi)
        rw [bufPlace_held hb hh, hoff]
        dsimp only
        rw [if_pos ho]
      · have hexec : exec (.stb t size rs2 rs1 rd ⟨imm, e⟩) s =
            .next (adv (locWr (locMerge s l n e) l (leBytes n (gr s t rs2).toNat)) t) := by
          refine (exec_stb hs hi).trans ?_
          rw [bufPlace_held hb hh, hoff]
          dsimp only
          rw [if_neg (not_not.2 ho)]
        refine ⟨_, hexec, ?_, adv_mem ..⟩
        rw [adv_mem, ← locWr_frame]
        exact th_of_thr ((locWr_thr ..).trans (locMerge_thr ..)) t ▸ issued_adv' ..

end Sys2Proof.Machine
end

section
/-! PROOFS. Anvil buffer instructions (R188, R257, R258, R261). -/
namespace Sys2Proof.Machine
open Sys2Proof Sys2Proof.Safety Sys2Proof.WellFormed

/-! ### An instruction that begins a wait (R146, R155) -/

section
variable (s : State) (t : Nat) (w : Why) (arg : Nat) (k : Cont)

theorem wait_frame : wait s t w arg k = { s with thr := (wait s t w arg k).thr, order := s.order + 1 } := rfl

/-- A wait that an instruction begins changes its thread, its count, and the order of waits. -/
theorem advWait_frame : advWait s t w arg k =
    { s with thr := (advWait s t w arg k).thr, vf := (advWait s t w arg k).vf, order := s.order + 1 } := by
  have hadv : adv s t = { s with thr := (adv s t).thr, vf := (adv s t).vf } := (issued_adv' s t).frame
  generalize hv : adv s t = v at hadv
  rw [advWait, hv, hadv]
  rfl

theorem waiting_congr {s u : State} (hc : u.clk = s.clk) (ho : u.order = s.order) (x : Thread) (w : Why) (arg : Nat) (k : Cont) :
    waiting u x w arg k = waiting s x w arg k := by rw [waiting, hc, ho, waiting]

@[simp] theorem advWait_buf : (advWait s t w arg k).buf = s.buf := by rw [advWait_frame]

theorem regsKept_advWait : RegsKept [issueFld t] s (advWait s t w arg k) := (issued_adv' s t).regs

theorem addSat_frame {f : Fld} (h : f.ret = false) (d : Nat) : addSat s f d = { s with vf := (addSat s f d).vf } := setF_frame s h _

end

/-! ### BALLOC, BFREE, BSHARE and BTAKE -/

section
variable {s : State} {t h : Nat} {b : Buf}

@[simp] theorem bufAt_setBuf_same (s : State) (h : Nat) (x : Option Buf) : bufAt (setBuf s h x) h = x := mget_mset_same ..

theorem bufAt_setBuf_other (s : State) (x : Option Buf) {k : Nat} (hk : k ≠ h) : bufAt (setBuf s h x) k = bufAt s k :=
  mget_mset_other _ _ _ hk

theorem bufAt_of_buf {u : State} (hu : u.buf = s.buf) (k : Nat) : bufAt u k = bufAt s k := by rw [bufAt, hu, bufAt]

/-- The state in which a thread that finds no buffer begins its wait (R258). -/
def queued (s : State) (r : BufReq) : State := addSat { s with buf := { s.buf with reqs := s.buf.reqs ++ [r] } } BUF_FBCNT_PARKS 1

theorem parkBuf_eq (s : State) (t arg : Nat) (r : BufReq) (k : Cont) : parkBuf s t arg r k = advWait (queued s r) t .buffer arg k := rfl

theorem queued_frame (s : State) (r : BufReq) :
    queued s r = { s with vf := (queued s r).vf, buf := { s.buf with reqs := s.buf.reqs ++ [r] } } :=
  addSat_frame _ rfl _

/-- A thread that finds no buffer parks with reason BUFFER, and its request joins the manager's order. -/
theorem parkBuf_effect (s : State) (t arg : Nat) (r : BufReq) (k : Cont) : let u := parkBuf s t arg r k
    th u t = waiting s (th s t) .buffer arg k ∧ ThreadsKept t s u ∧ u.buf = { s.buf with reqs := s.buf.reqs ++ [r] } ∧
      RegsKept [BUF_FBCNT_PARKS, issueFld t] s u ∧ u = { s with thr := u.thr, vf := u.vf, buf := u.buf, order := s.order + 1 } := by
  intro u
  have hu : u = advWait (queued s r) t .buffer arg k := rfl
  have hq := queued_frame s r
  have hthr : (queued s r).thr = s.thr := by rw [hq]
  have hbuf : u.buf = { s.buf with reqs := s.buf.reqs ++ [r] } := by rw [hu, advWait_buf, hq]
  refine ⟨?_, fun m hm => ?_, hbuf, fun f hf => ?_, ?_⟩
  · rw [hu, th_advWait, th_of_thr hthr]
    exact waiting_congr (by rw [hq]) (by rw [hq]) ..
  · rw [hu, threadsKept_advWait (queued s r) t _ _ _ m hm, th_of_thr hthr]
  · rw [hu, regsKept_advWait (queued s r) t _ _ _ f fun g hg => hf g (List.mem_cons_of_mem _ hg), queued,
      getF_addSat_other _ _ (hf _ (List.mem_cons_self ..))]
    rfl
  · have hframe := advWait_frame (queued s r) t .buffer arg k
    rw [← hu] at hframe
    generalize queued s r = v at hq hframe
    rw [hframe, hq]

/-- What an instruction does with a buffer that its thread is to hold (R188). -/
def withHeld (s : State) (t h : Nat) (f : Buf → State) : State :=
  match bufAt s h with
  | none => raise s t 1 4
  | some b => if !b.holders.contains t then raise s t 1 4 else f b

theorem withHeld_unheld {f : Buf → State} (hh : holds s t h = false) : withHeld s t h f = raise s t 1 4 := by
  unfold withHeld
  split
  · rfl
  · rename_i b hb
    have hno : t ∉ b.holders := fun hmem => absurd (holds_iff.2 ⟨b, hb, hmem⟩) (by simp [hh])
    exact if_pos (by simpa using hno)

theorem withHeld_held {f : Buf → State} (hb : bufAt s h = some b) (hh : holds s t h = true) : withHeld s t h f = f b := by
  unfold withHeld
  rw [hb]
  exact if_neg (by simpa using holder_of_holds hb hh)

/-- A buffer that its holder shares with thread `dst`. -/
def sharedWith (s : State) (h : Nat) (b : Buf) (keep : List Nat) (dst : Nat) : State :=
  setBuf s h (some { b with holders := sins dst keep, owner := dst, shared := true })

/-- The flush queue's oldest buffer `k`, taken by thread `t`; `q` is left (R261). -/
def flushTaken (s : State) (t k : Nat) (q : List Nat) : State :=
  match bufAt s k with
  | some b => setBuf { s with buf := { s.buf with flushq := q } } k (some { b with holders := sins t b.holders, owner := t })
  | none => { s with buf := { s.buf with flushq := q } }

theorem flushTaken_frame (s : State) (t k : Nat) (q : List Nat) :
    flushTaken s t k q = { s with buf := (flushTaken s t k q).buf } ∧ (flushTaken s t k q).buf.flushq = q := by
  unfold flushTaken
  split <;> exact ⟨rfl, rfl⟩

theorem bufAt_flushTaken_same (t : Nat) (q : List Nat) (hb : bufAt s h = some b) :
    bufAt (flushTaken s t h q) h = some { b with holders := sins t b.holders, owner := t } := by
  unfold flushTaken
  rw [hb]
  exact bufAt_setBuf_same ..

theorem bufAt_flushTaken_other (t : Nat) (q : List Nat) {m : Nat} (hm : m ≠ h) : bufAt (flushTaken s t h q) m = bufAt s m := by
  unfold flushTaken
  split
  · exact bufAt_setBuf_other _ _ hm
  · rfl

end

section
variable {s : State} {t rd rs1 rs2 pool : Nat} {wb give : Bool}

theorem exec_balloc (hp : pool < 4) (hi : issues s t (aw 0x70 rd 0 0 (pool + 4 * b2n wb) 0) = true) :
    exec (.balloc t rd pool wb) s = .next (
      if wb = true ∧ pool < 2 then raise s t 1 1
      else match newAlloc s t pool wb with
        | some (h, s) => retire s t rd (BitVec.ofNat 64 h)
        | none => parkBuf (serveBufs s) t pool ⟨t, pool, wb, false⟩ (.balloc rd pool wb)) := by
  refine (next_act (by rwa [immLt_of_lt hp])).trans ?_
  simp only [Bool.and_eq_true, decide_eq_true_eq] <;> rfl

theorem exec_bfree (hi : issues s t (aw 0x71 0 rs1 0 0 0) = true) :
    exec (.bfree t rs1) s = .next (withHeld s t (gr s t rs1).toNat fun b =>
      if b.shared && b.owner != t then raise s t 1 3
      else match namesBuf s (gr s t rs1).toNat with
        | some (_, m, g) => advWait s t (if m then .media else .dma) g (.bfree (gr s t rs1).toNat)
        | none => adv (freeBuf s (gr s t rs1).toNat) t) := by
  refine (next_act hi).trans (congrArg (fun f => Host.Outcome.next (withHeld s t (gr s t rs1).toNat f)) (funext fun b => ?_))
  rw [gn]
  split
  · rfl
  · split <;> rename_i hn
    all_goals simp only [hn, if_true, Bool.false_eq_true, if_false]

theorem exec_bshare (hi : issues s t (aw 0x72 0 rs1 rs2 (b2n give) 0) = true) :
    exec (.bshare t rs1 rs2 give) s = .next (withHeld s t (gr s t rs1).toNat fun b =>
      let keep := if give then srem t b.holders else b.holders
      let dst := (gr s t rs2).toNat % 2 ^ 13
      if b.shared then raise s t 1 3
      else if dst = 0x1FFF then
        if !b.wb then raise s t 1 1
        else adv (toFlush (setBuf s (gr s t rs1).toNat (some { b with holders := keep })) (gr s t rs1).toNat) t
      else adv (sharedWith s (gr s t rs1).toNat b keep dst) t) := next_act hi

theorem exec_btake (hi : issues s t (aw 0x73 rd 0 0 0 0) = true) :
    exec (.btake t rd) s = .next (
      if isSys s t = false then raise s t 2 7
      else match s.buf.flushq with
        | k :: q => retire (flushTaken s t k q) t rd (BitVec.ofNat 64 k)
        | [] => parkBuf s t 4 ⟨t, 4, true, true⟩ (.btake rd)) := by
  refine (next_act hi).trans (congrArg _ ?_)
  simp only [Bool.not_eq_true']
  split
  · rfl
  · cases s.buf.flushq <;> rfl

end

/-- Settles O10: each instruction by who holds the buffer, and what is left of its pool and queue. -/
theorem bufferInstructions : Obligations.BufferInstructions := by
  intro s t rd rs1 rs2 pool wb give h dst
  refine ⟨fun hp hi => ⟨fun hwb hlow => ?_, fun hok hno => ?_, fun n v hok hsome => ?_⟩,
    fun hi => ⟨fun hh => ?_, fun b hb hh => ⟨fun hsh how => ?_, fun how k m g hn => ?_, fun how hn => ?_⟩⟩,
    fun hi => ⟨fun hh => ?_, fun b hb hh => ⟨fun hsh => ?_, fun hsh hd => ?_, fun hsh hd hwb => ?_, fun hsh hd hwb => ?_⟩⟩,
    fun hi => ⟨fun hsys => ?_, fun hsys k q hq => ?_, fun hsys hq => ?_⟩⟩
  · exact faults ((exec_balloc hp hi).trans (congrArg _ (if_pos ⟨hwb, hlow⟩))) (issues_running hi)
  · refine ⟨_, (exec_balloc hp hi).trans ((congrArg _ (if_neg hok)).trans ?_), parkBuf_effect (serveBufs s) t pool _ _⟩
    rw [hno]
  · refine retires ((exec_balloc hp hi).trans ((congrArg _ (if_neg hok)).trans ?_)) rfl
    rw [hsome]
  · exact faults ((exec_bfree hi).trans (congrArg _ (withHeld_unheld hh))) (issues_running hi)
  · exact faults ((exec_bfree hi).trans (congrArg _ ((withHeld_held hb hh).trans (if_pos (by simp [hsh, how]))))) (issues_running hi)
  · refine ⟨_, (exec_bfree hi).trans (congrArg _ ((withHeld_held hb hh).trans ((if_neg (by simpa using how)).trans ?_))),
      th_advWait .., threadsKept_advWait _ _ _ _ _, advWait_buf ..⟩
    rw [hn]
  · refine ⟨_, (exec_bfree hi).trans (congrArg _ ((withHeld_held hb hh).trans ((if_neg (by simpa using how)).trans ?_))), issued_adv' ..⟩
    rw [hn]
  · exact faults ((exec_bshare hi).trans (congrArg _ (withHeld_unheld hh))) (issues_running hi)
  · exact faults ((exec_bshare hi).trans (congrArg _ ((withHeld_held hb hh).trans (if_pos hsh)))) (issues_running hi)
  · refine ⟨_, (exec_bshare hi).trans (congrArg _ ((withHeld_held hb hh).trans ((if_neg (by simp [hsh])).trans (if_neg hd)))), ?_, ?_,
      fun k hk => ?_⟩
    · rw [bufAt_of_buf (adv_buf ..)]
      exact bufAt_setBuf_same ..
    · rw [adv_buf]
      exact issued_adv' (sharedWith s h b _ dst) t
    · rw [bufAt_of_buf (adv_buf ..)]
      exact bufAt_setBuf_other s _ hk
  · exact faults ((exec_bshare hi).trans (congrArg _ ((withHeld_held hb hh).trans
      ((if_neg (by simp [hsh])).trans ((if_pos hd).trans (if_pos (by simp [hwb]))))))) (issues_running hi)
  · exact ⟨_, _, (exec_bshare hi).trans (congrArg _ ((withHeld_held hb hh).trans
      ((if_neg (by simp [hsh])).trans ((if_pos hd).trans (if_neg (by simp [hwb])))))), rfl, issued_adv' ..⟩
  · exact faults ((exec_btake hi).trans (congrArg _ (if_pos hsys))) (issues_running hi)
  · obtain ⟨hframe, hleft⟩ := flushTaken_frame s t k q
    refine ⟨retire (flushTaken s t k q) t rd (BitVec.ofNat 64 k),
      (exec_btake hi).trans ((congrArg _ (if_neg (by simp [hsys]))).trans (by rw [hq])), ?_, fun b hb => ?_, fun m hm => ?_, ?_⟩
    · rw [retire_buf, hleft]
    · rw [bufAt_of_buf (retire_buf ..)]
      exact bufAt_flushTaken_same t q hb
    · rw [bufAt_of_buf (retire_buf ..)]
      exact bufAt_flushTaken_other t q hm
    · rw [retire_buf, ← hframe]
      exact retired_retire ..
  · obtain ⟨hth, -, hbuf, -, hframe⟩ := parkBuf_effect s t 4 ⟨t, 4, true, true⟩ (.btake rd)
    refine ⟨_, (exec_btake hi).trans ((congrArg _ (if_neg (by simp [hsys]))).trans (by rw [hq])), hth, ?_, hframe⟩
    rw [hbuf]

end Sys2Proof.Machine
end

section
/-! PROOFS. Billet locks (R155, R167, R192). -/
namespace Sys2Proof.Machine
open Sys2Proof Sys2Proof.Safety Sys2Proof.WellFormed

section
variable {s : State} {t rs1 : Nat}

theorem exec_lockb (hi : issues s t (aw 0x60 0 rs1 0 0 0) = true) :
    exec (.lockb t rs1) s = .next (
      let i := localBil s (gr s t rs1).toNat
      if (th s t).locks.any fun l => i ≤ l.1 then raise s t 1 5
      else if 8 ≤ (th s t).locks.length then raise s t 1 6
      else if !mayLbn s t (256 * (gr s t rs1).toNat) then raise s t 2 1
      else if (lockHolder s i).isSome || inRange s i then advWait s t .lock i .nothing
      else adv (takeLock s t i) t) := next_act hi

theorem exec_unlock (hi : issues s t (aw 0x61 0 rs1 0 0 0) = true) :
    exec (.unlock t rs1) s = .next (
      let i := localBil s (gr s t rs1).toNat
      if (th s t).locks.any fun l => l.1 = i then adv (dropLock s t i) t else raise s t 1 8) := next_act hi

end

/-- Settles O14: the checks in their order; then the lock is free, or another's. -/
theorem billetLocks : Obligations.BilletLocks := by
  intro s t rs1 i free
  have hup (h : ∀ l ∈ (th s t).locks, l.1 < i) : ¬ ((th s t).locks.any fun l => i ≤ l.1) = true := by
    simpa using fun a b hl => h (a, b) hl
  have hhas : ((th s t).locks.any fun l => l.1 = i) = true ↔ ∃ l ∈ (th s t).locks, l.1 = i := by simp
  have hbusy : ((lockHolder s i).isSome || inRange s i) = true ↔ ¬ free := by
    cases hl : lockHolder s i <;> simp [free, hl]
  refine ⟨fun hi => ⟨fun hdown => ?_, fun hasc hmany => ?_, fun hasc hfew hmay => ?_, fun hasc hfew hmay hfree => ?_,
    fun hasc hfew hmay htaken => ?_⟩, fun hi => ⟨fun hnone => ?_, fun hheld => ?_⟩⟩
  · exact faults ((exec_lockb hi).trans (congrArg _ (if_pos (by simpa using hdown)))) (issues_running hi)
  · exact faults ((exec_lockb hi).trans (congrArg _ ((if_neg (hup hasc)).trans (if_pos hmany)))) (issues_running hi)
  · exact faults ((exec_lockb hi).trans (congrArg _ ((if_neg (hup hasc)).trans ((if_neg (Nat.not_le.2 hfew)).trans (if_pos (by simp [hmay]))))))
      (issues_running hi)
  · refine ⟨_, (exec_lockb hi).trans (congrArg _ ((if_neg (hup hasc)).trans ((if_neg (Nat.not_le.2 hfew)).trans
      ((if_neg (by simp [hmay])).trans (if_neg (hbusy.not.2 (not_not.2 hfree))))))), ?_⟩
    exact issued_adv s t fun x => { x with locks := x.locks ++ [(i, s.clk.refNs)] }
  · exact ⟨_, (exec_lockb hi).trans (congrArg _ ((if_neg (hup hasc)).trans ((if_neg (Nat.not_le.2 hfew)).trans
      ((if_neg (by simp [hmay])).trans (if_pos (hbusy.2 htaken)))))), th_advWait .., threadsKept_advWait _ _ _ _ _⟩
  · exact faults ((exec_unlock hi).trans (congrArg _ (if_neg (hhas.not.2 fun ⟨l, hl, he⟩ => hnone l hl he)))) (issues_running hi)
  · exact ⟨_, _, (exec_unlock hi).trans (congrArg _ (if_pos (hhas.2 hheld))), rfl, issued_adv' ..⟩

end Sys2Proof.Machine
end

section
/-! PROOFS. Anvil media instructions (R155, R193, R284, R358). -/
namespace Sys2Proof.Machine
open Sys2Proof Sys2Proof.Safety Sys2Proof.WellFormed

/-! ### STRIKE: the checks at issue (R193, R284) -/

section
variable {s : State} {t h entry frame nslot : Nat} {raw : Bool}

/-- The thread holds the buffer that handle `h` names. -/
def Reaches (s : State) (t h : Nat) : Prop := ∃ b, bufAt s h = some b ∧ t ∈ b.holders

/-- Frames `frame` to `frame + n` lie in the buffer that handle `h` names. -/
def HasRoom (s : State) (h frame n : Nat) : Prop := ∃ b, bufAt s h = some b ∧ frame + n ≤ frames b.pool

/-- The thread may issue the strike (R193). -/
def MayStrike (s : State) (t entry : Nat) (raw : Bool) : Prop := isSys s t = true ∨ (raw = false ∧ eCls s entry = 0)

/-- What a strike's buffer has against it. -/
def frameFault (s : State) (t h frame n : Nat) : Option (Nat × Nat) :=
  if n = 0 then none else
  match bufAt s h with
  | none => some (1, 4)
  | some b => if !b.holders.contains t then some (1, 4) else if frames b.pool < frame + n then some (2, 4) else none

theorem strikeFault_eq : strikeFault s t h entry frame nslot raw =
    match frameFault s t h frame (strikeFrames s entry nslot) with
    | some f => some f
    | none => if !isSys s t && (raw || eCls s entry != 0) then some (2, 3) else none := rfl

theorem frameFault_unheld {n : Nat} (hn : n ≠ 0) (hr : ¬ Reaches s t h) : frameFault s t h frame n = some (1, 4) := by
  rw [frameFault, if_neg hn]
  cases hb : bufAt s h with
  | none => rfl
  | some b => exact if_pos (by simpa using fun hm => hr ⟨b, hb, hm⟩)

theorem frameFault_short {n : Nat} (hn : n ≠ 0) (hr : Reaches s t h) (hf : ¬ HasRoom s h frame n) :
    frameFault s t h frame n = some (2, 4) := by
  obtain ⟨b, hb, hm⟩ := hr
  rw [frameFault, if_neg hn, hb]
  exact (if_neg (by simpa using hm)).trans (if_pos (Nat.lt_of_not_le fun hle => hf ⟨b, hb, hle⟩))

theorem frameFault_none {n : Nat} (hok : n = 0 ∨ (Reaches s t h ∧ HasRoom s h frame n)) : frameFault s t h frame n = none := by
  unfold frameFault
  split
  · rfl
  · rename_i hn
    obtain ⟨⟨b, hb, hm⟩, b', hb', hf⟩ := hok.resolve_left hn
    rw [hb]
    cases hb.symm.trans hb'
    exact (if_neg (by simpa using hm)).trans (if_neg (Nat.not_lt.2 hf))

theorem strikeFault_of_frames {f : Nat × Nat} (hf : frameFault s t h frame (strikeFrames s entry nslot) = some f) :
    strikeFault s t h entry frame nslot raw = some f := by
  rw [strikeFault_eq, hf]

theorem barred_iff : (!isSys s t && (raw || eCls s entry != 0)) = true ↔ ¬ MayStrike s t entry raw := by
  simp only [MayStrike, Bool.and_eq_true, Bool.not_eq_true', Bool.or_eq_true, bne_iff_ne, ne_eq]
  cases isSys s t <;> cases raw <;> simp

theorem strikeFault_barred (hok : frameFault s t h frame (strikeFrames s entry nslot) = none) (hno : ¬ MayStrike s t entry raw) :
    strikeFault s t h entry frame nslot raw = some (2, 3) := by
  rw [strikeFault_eq, hok]
  exact if_pos (barred_iff.2 hno)

theorem strikeFault_none (hok : frameFault s t h frame (strikeFrames s entry nslot) = none) (hyes : MayStrike s t entry raw) :
    strikeFault s t h entry frame nslot raw = none := by
  rw [strikeFault_eq, hok]
  exact if_neg (barred_iff.not.2 (not_not.2 hyes))

end

section
variable {s : State} {t rd rs1 rs2 entry frame nslot : Nat} {rb flim limit raw : Bool}

theorem exec_strike (he : entry < 2 ^ 16) (hf : frame < 256) (hn : nslot < 8)
    (hi : issues s t (aw 0x80 rd rs1 rs2 (b2n rb + 2 * b2n flim + 4 * b2n limit + 8 * b2n raw + 16 * nslot)
      (entry + 2 ^ 16 * frame)) = true) :
    exec (.strike t rd rs1 rs2 entry frame rb flim limit raw nslot) s = .next (
      match strikeFault s t (gr s t rs2).toNat entry frame nslot raw with
      | some (c, d) => raise s t c d
      | none =>
        match freeTag (th s t) with
        | none => wait s t .media ((openTag (th s t)).getD 0) .again
        | some g => retire (arrive (modTh s t fun x => { x with tags := mput x.tags g ⟨false, 0, 0⟩ })
            (mkStrike s t g ((gr s t rs1).toNat % 2 ^ 48) (gr s t rs2).toNat entry frame nslot rb (takesLimit s t flim limit) raw))
            t rd (BitVec.ofNat 64 g)) :=
  next_act (by rwa [immLt_of_lt hn, if_pos he, immLt_of_lt hf])

/-! ### MWAIT, MWANY and MPOLL (R155, R193) -/

theorem exec_mwait (hi : issues s t (aw 0x81 rd rs1 0 0 0) = true) :
    exec (.mwait t rd rs1) s = .next (
      let g := (gr s t rs1).toNat % 32
      match (th s t).tags.find? (fun e => e.1 = g) with
      | none => retire s t rd (BitVec.ofNat 64 (noTag g))
      | some (_, o) => if o.ended then retire (dropTag s t g) t rd (BitVec.ofNat 64 o.outcome)
          else advWait s t .media g (.mwait rd g)) := next_act hi

theorem exec_mwany (hi : issues s t (aw 0x82 rd 0 0 0 0) = true) :
    exec (.mwany t rd) s = .next (
      match endedTag (th s t), openTag (th s t) with
      | some (g, o), _ => retire (dropTag s t g) t rd (BitVec.ofNat 64 o.outcome)
      | none, some g => advWait s t .media g (.mwany rd)
      | none, none => retire s t rd (BitVec.ofNat 64 (noTag 0))) := next_act hi

theorem exec_mpoll (hi : issues s t (aw 0x83 rd rs1 0 0 0) = true) :
    exec (.mpoll t rd rs1) s = .next (
      let g := (gr s t rs1).toNat % 32
      match (th s t).tags.find? (fun e => e.1 = g) with
      | none => retire s t rd (BitVec.ofNat 64 (noTag g))
      | some (_, o) => if o.ended then retire (dropTag s t g) t rd (BitVec.ofNat 64 o.outcome)
          else retire s t rd (BitVec.ofNat 64 (pendingWord g))) := next_act hi

end

/-- What an instruction leaves that is to be issued again when the wait ends: its thread alone waits, and its pc stays. -/
theorem wait_again (s : State) (t : Nat) (w : Why) (arg : Nat) : let u := wait s t w arg .again
    (th u t).st = w.state ∧ (th u t).why = w ∧ (th u t).cont = .again ∧ (th u t).pc = (th s t).pc ∧ ThreadsKept t s u ∧
      u = { s with thr := u.thr, order := s.order + 1 } := by
  intro u
  have hu : th u t = _ := th_wait s t w arg .again
  exact ⟨by rw [hu], by rw [hu], by rw [hu], by rw [hu], threadsKept_wait _ _ _ _ _, rfl⟩

/-- Settles O15: the checks of a strike in their order; a tag by whether it is in use and has ended. -/
theorem strikes : Obligations.Strikes := by
  refine ⟨fun s t rd rs1 rs2 entry frame nslot rb flim limit raw he hf hn hi => ?_, fun s t rd rs1 => ?_⟩
  · intro h need reaches fits may res
    have hrun := issues_running hi
    have hexec := exec_strike he hf hn hi
    have hframes (hok : need = 0 ∨ (reaches ∧ fits)) : frameFault s t h frame need = none := frameFault_none hok
    refine ⟨fun hneed hr => ?_, fun hneed hr hroom => ?_, fun hok hno => ?_, fun hok hyes hnone => ?_, fun g hok hyes hg => ?_⟩
    · refine faults (hexec.trans ?_) hrun
      rw [strikeFault_of_frames (frameFault_unheld hneed hr)]
    · refine faults (hexec.trans ?_) hrun
      rw [strikeFault_of_frames (frameFault_short hneed hr hroom)]
    · refine faults (hexec.trans ?_) hrun
      rw [strikeFault_barred (hframes hok) hno]
    · refine ⟨_, hexec.trans ?_, wait_again s t .media ((openTag (th s t)).getD 0)⟩
      rw [strikeFault_none (hframes hok) hyes, hnone]
    · refine ⟨_, hexec.trans ?_, _, _, rfl, rfl, retired_retire ..⟩
      rw [strikeFault_none (hframes hok) hyes, hg]
  · dsimp only
    refine ⟨fun hi => ⟨fun hg => ?_, fun o hg ho => ?_, fun o hg ho => ?_⟩,
      fun hi => ⟨fun k o hk => ?_, fun k hend hk => ?_, fun hend hopen => ?_⟩,
      fun hi => ⟨fun hg => ?_, fun o hg ho => ?_, fun o hg ho => ?_⟩⟩
    · refine retires ((exec_mwait hi).trans (congrArg _ ?_)) rfl
      dsimp only
      rw [hg]
    · refine retires ((exec_mwait hi).trans (congrArg _ ?_)) rfl
      dsimp only
      rw [hg]
      exact if_pos ho
    · refine ⟨_, (exec_mwait hi).trans (congrArg _ ?_), th_advWait .., threadsKept_advWait _ _ _ _ _⟩
      dsimp only
      rw [hg]
      exact if_neg (by simp [ho])
    · refine retires ((exec_mwany hi).trans ?_) rfl
      rw [hk]
      rfl
    · refine ⟨_, (exec_mwany hi).trans ?_, th_advWait .., threadsKept_advWait _ _ _ _ _⟩
      rw [hend, hk]
    · refine retires ((exec_mwany hi).trans ?_) rfl
      rw [hend, hopen]
    · refine retires ((exec_mpoll hi).trans (congrArg _ ?_)) rfl
      dsimp only
      rw [hg]
    · refine retires ((exec_mpoll hi).trans (congrArg _ ?_)) rfl
      dsimp only
      rw [hg]
      exact if_pos ho
    · refine retires ((exec_mpoll hi).trans (congrArg _ ?_)) rfl
      dsimp only
      rw [hg]
      exact if_neg (by simp [ho])

end Sys2Proof.Machine
end

section
/-! PROOFS. Transfers and parity accumulators begun by an instruction (R181, R194, R196, R197, R343 to R345, R356). -/
namespace Sys2Proof.Machine
open Sys2Proof Sys2Proof.Safety Sys2Proof.WellFormed

section
variable {s : State} {t rd rs1 rs2 : Nat}

theorem startXfer_busy (hx : freeXfer (th s t) = none) (rd : Nat) (kind : XKind) (w hs : List Nat) :
    startXfer s t rd kind w hs = wait s t .dma ((openXfer (th s t)).getD 0) .again := by
  rw [startXfer, hx]

/-! ### XIN, XOUT and XCOPY (R181, R194, R196) -/

/-- What a transfer's buffers have against it: its own, and XCOPY's source. -/
def xferFault (s : State) (t : Nat) (kind : XKind) (w : List Nat) : Option (Nat × Nat) :=
  let c := w.getD 2 0
  (bufFault s t (ctlHandle c) (ctlFrame c) (ctlCount c)).or
    (if kind = .xcopy then bufFault s t (bits (w.getD 0 0) 0 32) (bits (w.getD 0 0) 32 8) (ctlCount c) else none)

/-- The handles that a transfer keeps. -/
def xferHandles (kind : XKind) (w : List Nat) : List Nat :=
  if kind = .xcopy then [ctlHandle (w.getD 2 0), bits (w.getD 0 0) 0 32] else [ctlHandle (w.getD 2 0)]

theorem issueXfer_eq {op : Nat} {kind : XKind} (hi : issues s t (aw op rd rs1 0 0 0) = true) :
    issueXfer op kind t rd rs1 s = .next (
      match lsDesc s t rs1 48 with
      | none => raise s t 1 0x0A
      | some a =>
        match xferFault s t kind (descWords s t a 6) with
        | some (k, d) => raise s t k d
        | none => startXfer s t rd kind (descWords s t a 6) (xferHandles kind (descWords s t a 6))) := next_act hi

end

/-- Settles O16: one account of the three instructions, by what the descriptor names. -/
theorem transferIssue : Obligations.TransferIssue := by
  intro s t rd rs1 a w h src n fits ok new tells
  have hwords : descWords s t a 6 = w := rfl
  have hone {c : Instr} {op : Nat} {kind : XKind} {free : Prop} {hs : List Nat} (hc : exec c s = issueXfer op kind t rd rs1 s)
      (hhs : xferHandles kind w = hs) (hfree : free → xferFault s t kind w = none) : tells c op kind free hs := by
    intro hi
    have hrun := issues_running hi
    have hexec := hc.trans (issueXfer_eq hi)
    have hdesc (hf : fits) : lsDesc s t rs1 48 = some a := (lsDesc_eq ..).trans (if_pos hf)
    have hfirst {f : Nat × Nat} (hf : fits) (hb : bufFault s t h (bits (w.getD 2 0) 32 8) n = some f) :
        exec c s = .next (raise s t f.1 f.2) := by
      have hx : xferFault s t kind w = some f := by
        show (bufFault s t h (bits (w.getD 2 0) 32 8) n).or _ = _
        rw [hb, Option.some_or]
      rw [hexec, hdesc hf]
      dsimp only
      rw [hwords, hx]
    have hstart (hf : fits) (hb : free) : exec c s = .next (startXfer s t rd kind w hs) := by
      rw [hexec, hdesc hf]
      dsimp only
      rw [hwords, hfree hb, hhs]
    refine ⟨fun hf => faults (hexec.trans ?_) hrun, fun hf hh => faults (hfirst hf (bufFault_unheld hh ..)) hrun,
      fun hf hh hb => faults (hfirst hf (bufFault_short hh hb)) hrun, fun hf hb hx => ?_, fun k hf hb hx => ?_⟩
    · rw [lsDesc_eq, if_neg hf]
    · exact ⟨_, (hstart hf hb).trans (congrArg _ (startXfer_busy hx ..)), wait_again s t .dma ((openXfer (th s t)).getD 0)⟩
    · exact retires ((hstart hf hb).trans (congrArg _ (startXfer_free hx ..))) rfl
  have hok {h f : Nat} (hb : ok h f) : bufFault s t h f n = none := bufFault_taken hb
  refine ⟨hone rfl rfl fun hb => ?_, hone rfl rfl fun hb => ?_, hone rfl rfl fun ⟨hb, hsrc⟩ => ?_⟩
  · show (bufFault s t h (bits (w.getD 2 0) 32 8) n).or none = none
    rw [hok hb, Option.or_none]
  · show (bufFault s t h (bits (w.getD 2 0) 32 8) n).or none = none
    rw [hok hb, Option.or_none]
  · show (bufFault s t h (bits (w.getD 2 0) 32 8) n).or (bufFault s t src (bits (w.getD 0 0) 32 8) n) = none
    rw [hok hb, hok hsrc, Option.or_none]

/-! ### PXOPEN, PXADD, PXCLOSE and PXREB (R197, R343 to R345, R349, R356) -/

section
variable {s : State} {t rd rs1 rs2 frame mem : Nat}

theorem exec_pxopen (hi : issues s t (aw 0xB0 rd rs1 0 0 0) = true) : exec (.pxopen t rd rs1) s = .next (
    if !isSys s t then raise s t 2 7
    else match pxOpen s t (gr s t rs1).toNat with
      | .invalid => retire s t rd (svWord 0x11 0 none)
      | .full => advWait (addSat s BUF_FBCNT_PARKS 1) t .buffer 5 (.pxopen rd (gr s t rs1).toNat 0)
      | .opened h s' =>
        if mirrors s then modTh (adv s' t) t fun x => { x with cont := .pxopen rd h 1 } else retire s' t rd (BitVec.ofNat 64 h)) :=
  next_act hi

theorem exec_pxadd (hf : frame < 256) (hm : mem < 32) (hi : issues s t (aw 0xB1 rd rs1 rs2 0 (frame + 256 * mem)) = true) :
    exec (.pxadd t rd rs1 rs2 frame mem) s = .next (
      if !isSys s t then raise s t 2 7
      else match accAt s t (gr s t rs1).toNat, bufFault s t (gr s t rs2).toNat frame 8 with
        | none, _ => raise s t 1 4
        | _, some (c, d) => raise s t c d
        | some (i, _), none => startXfer s t rd .pxadd [i, frame, mem] [(gr s t rs2).toNat]) :=
  next_act (by rwa [if_pos hm, immLt_of_lt hf])

theorem exec_pxclose (hf : frame < 256) (hi : issues s t (aw 0xB2 rd rs1 rs2 0 frame) = true) :
    exec (.pxclose t rd rs1 rs2 frame) s = .next (
      if !isSys s t then raise s t 2 7
      else match accAt s t (gr s t rs1).toNat with
        | none => raise s t 1 4
        | some (i, a) => match bufFault s t (gr s t rs2).toNat frame (8 * accPages s a) with
          | some (c, d) => raise s t c d
          | none => startXfer s t rd .pxclose [i, frame] [(gr s t rs2).toNat]) :=
  next_act (by rwa [immLt_of_lt hf])

theorem exec_pxreb (hi : issues s t (aw 0xB3 rd rs1 0 0 0) = true) : exec (.pxreb t rd rs1) s = .next (
    if !isSys s t then raise s t 2 7
    else match lsDesc s t rs1 16 with
      | none => raise s t 1 0x0A
      | some a =>
        let c := (descWords s t a 2).getD 1 0
        match bufFault s t (bits c 0 32) (bits c 32 8) (bits c 40 3 + 1) with
        | some (k, d) => raise s t k d
        | none => startXfer s t rd .pxreb (descWords s t a 2) [bits c 0 32]) := next_act hi

/-- A thread that finds no accumulator free parks with reason BUFFER (R274). -/
theorem parks_for_accumulator (s : State) (t : Nat) (k : Cont) : let u := advWait (addSat s BUF_FBCNT_PARKS 1) t .buffer 5 k
    th u t = waiting s (th s t) .buffer 5 k ∧ ThreadsKept t s u ∧ RegsKept [BUF_FBCNT_PARKS, issueFld t] s u := by
  intro u
  have hthr : (addSat s BUF_FBCNT_PARKS 1).thr = s.thr := addSat_thr ..
  refine ⟨?_, fun m hm => ?_, fun f hf => ?_⟩
  · rw [th_advWait, th_of_thr hthr, waiting_congr (addSat_clk ..) (addSat_order ..)]
  · rw [threadsKept_advWait _ _ _ _ _ m hm, th_of_thr hthr]
  · rw [regsKept_advWait _ _ _ _ _ f fun g hg => hf g (List.mem_cons_of_mem _ hg), getF_addSat_other _ _ (hf _ (List.mem_cons_self ..))]

end

/-- Settles O19: each instruction by the thread, the stripe handle and the buffer that it names. -/
theorem parityIssue : Obligations.ParityIssue := by
  intro s t rd rs1 rs2 frame mem hf hm h start
  have huser (hsys : isSys s t = false) : (!isSys s t) = true := by simp [hsys]
  have hsystem (hsys : isSys s t = true) : ¬ (!isSys s t) = true := by simp [hsys]
  refine ⟨fun hi => ⟨fun hsys => ?_, fun hsys hx => ?_, fun hsys hx => ?_, fun k v hsys hx hmir => ?_⟩,
    fun hi => ⟨fun hsys => ?_, fun hsys ha => ?_, fun i a k hsys ha hb hx => ?_⟩,
    fun hi => ⟨fun hsys => ?_, fun hsys ha => ?_, fun i a k hsys ha hb hx => ?_⟩, fun hi => ?_⟩
  · exact faults ((exec_pxopen hi).trans (congrArg _ (if_pos (huser hsys)))) (issues_running hi)
  · refine retires ((exec_pxopen hi).trans ((congrArg _ (if_neg (hsystem hsys))).trans ?_)) rfl
    rw [hx]
  · refine ⟨_, (exec_pxopen hi).trans ((congrArg _ (if_neg (hsystem hsys))).trans ?_), parks_for_accumulator s t _⟩
    rw [hx]
  · refine retires ((exec_pxopen hi).trans ((congrArg _ (if_neg (hsystem hsys))).trans ?_)) rfl
    rw [hx]
    exact congrArg _ (if_neg (by simp [hmir]))
  · exact faults ((exec_pxadd hf hm hi).trans (congrArg _ (if_pos (huser hsys)))) (issues_running hi)
  · refine faults ((exec_pxadd hf hm hi).trans ((congrArg _ (if_neg (hsystem hsys))).trans ?_)) (issues_running hi)
    rw [ha]
  · refine retires ((exec_pxadd hf hm hi).trans ((congrArg _ (if_neg (hsystem hsys))).trans ?_)) rfl
    rw [ha, hb]
    exact congrArg _ (startXfer_free hx ..)
  · exact faults ((exec_pxclose hf hi).trans (congrArg _ (if_pos (huser hsys)))) (issues_running hi)
  · refine faults ((exec_pxclose hf hi).trans ((congrArg _ (if_neg (hsystem hsys))).trans ?_)) (issues_running hi)
    rw [ha]
  · refine retires ((exec_pxclose hf hi).trans ((congrArg _ (if_neg (hsystem hsys))).trans ?_)) rfl
    rw [ha]
    dsimp only
    rw [hb]
    exact congrArg _ (startXfer_free hx ..)
  · intro b w c
    have hdesc (hb8 : b % 8 = 0) (hb : b + 16 ≤ 512) : lsDesc s t rs1 16 = some b := (lsDesc_eq ..).trans (if_pos ⟨hb8, hb⟩)
    refine ⟨fun hsys => ?_, fun hsys hno => ?_, fun k hsys hb8 hb hbuf hx => ?_⟩
    · exact faults ((exec_pxreb hi).trans (congrArg _ (if_pos (huser hsys)))) (issues_running hi)
    · refine faults ((exec_pxreb hi).trans ((congrArg _ (if_neg (hsystem hsys))).trans ?_)) (issues_running hi)
      rw [lsDesc_eq, if_neg hno]
    · refine retires ((exec_pxreb hi).trans ((congrArg _ (if_neg (hsystem hsys))).trans ?_)) rfl
      rw [hdesc hb8 hb]
      show Host.Outcome.next (match bufFault s t (bits c 0 32) (bits c 32 8) (bits c 40 3 + 1) with
        | some (k, d) => raise s t k d
        | none => startXfer s t rd .pxreb w [bits c 0 32]) = _
      rw [hbuf]
      exact congrArg _ (startXfer_free hx ..)

end Sys2Proof.Machine
end

section
/-! PROOFS. Anvil map lookups and generations (R189, R190, R221, R427). -/
namespace Sys2Proof.Machine
open Sys2Proof Sys2Proof.Safety Sys2Proof.WellFormed

section
variable {s v : State} {t rd rs1 lbn : Nat} {gen : Bool} {e : List (Nat × MErr)}

/-- New errors in held copies change the slices alone (R237). -/
theorem spoil_frame (s : State) (e : List (Nat × MErr)) : spoil s e = { s with slices := (spoil s e).slices } := by
  unfold spoil
  induction e generalizing s with
  | nil => rfl
  | cons x e ih =>
    rw [List.foldl_cons]
    refine (ih _).trans ?_
    dsimp only
    split <;> rfl

theorem spoil_thr (s : State) (e : List (Nat × MErr)) : (spoil s e).thr = s.thr := by rw [spoil_frame]

theorem spoil_clk (s : State) (e : List (Nat × MErr)) : (spoil s e).clk = s.clk := by rw [spoil_frame]

theorem spoil_order (s : State) (e : List (Nat × MErr)) : (spoil s e).order = s.order := by rw [spoil_frame]

theorem isSys_spoil (s : State) (e : List (Nat × MErr)) (t : Nat) : isSys (spoil s e) t = isSys s t := by rw [spoil_frame]; rfl

theorem lcapBlocks_spoil (s : State) (e : List (Nat × MErr)) : lcapBlocks (spoil s e) = lcapBlocks s := by rw [spoil_frame]; rfl

theorem inWindow_spoil (s : State) (e : List (Nat × MErr)) (i : Nat) : inWindow (spoil s e) i = inWindow s i := by rw [spoil_frame]; rfl

/-! ### A lookup by what it meets (R189, R221, R236, R239) -/

/-- A system thread reads zero past the capacity. -/
theorem look_past (hp : isSys s t = true ∧ lcapBlocks s ≤ lbn) (hr : (th s t).st = .running) (n : Nat) :
    look s t rd lbn gen n = retire s t rd 0 := by
  rw [look, if_pos (by simpa using hp), if_pos hr]

/-- A billet in the commit window makes the lookup wait. -/
theorem look_window (hp : ¬ (isSys s t = true ∧ lcapBlocks s ≤ lbn)) (hw : inWindow s (lbn / 256) = true) (hr : (th s t).st = .running)
    (n : Nat) : look s t rd lbn gen n =
      advWait s t .mapmiss ((aCoarse + 8 * (lbn / 256)) / 64 * 64) (.look rd lbn gen seenWindow) := by
  rw [look, if_neg (by simpa using hp), if_pos hw, lookWait, if_pos hr]

/-- A lookup whose accesses all hit is done in the state after them. -/
theorem lookGo_hits {ls : List Nat} (h : hits s t ls = some v) (n : Nat) : lookGo s t rd lbn gen n ls = lookDone v t rd lbn gen := by
  induction ls generalizing s n with
  | nil =>
    cases h
    rfl
  | cons l ls ih =>
    unfold hits at h
    unfold lookGo
    split at h
    · cases h
    · rename_i hload
      rw [if_neg hload]
      cases hacc : access s t l with
      | mk found u =>
        rw [hacc] at h
        cases found with
        | hit => exact ih h (n + 1)
        | bad => cases h
        | miss => cases h

theorem look_hits (hp : ¬ (isSys s t = true ∧ lcapBlocks s ≤ lbn)) (hw : inWindow s (lbn / 256) = false)
    (h : hits s t (lookLines s lbn gen) = some v) : look s t rd lbn gen 0 = lookDone v t rd lbn gen := by
  rw [look, if_neg (by simpa using hp), if_neg (by simp [hw])]
  exact lookGo_hits h 0

/-- A lookup of a generation retires with it. -/
theorem lookDone_gen (hc : coState (coarseWord v (lbn / 256)) < 5) (hr : (th v t).st = .running) : lookDone v t rd lbn true =
    retire v t rd (BitVec.ofNat 64 ((loadBil v (lbn / 256)).genOf (lbn % 256))) := by
  unfold lookDone
  dsimp only
  rw [if_neg (by omega)]
  exact if_pos hr

/-- A location is held from its lookup on (R190). -/
def holding (v : State) (t w : Nat) : State := modTh v t fun x => { x with held := w :: x.held }

/-- A lookup of a location retires with it, and holds it. -/
theorem lookDone_loc (hc : coState (coarseWord v (lbn / 256)) < 5) (hr : (th v t).st = .running) : lookDone v t rd lbn false =
    let w := (loadBil v (lbn / 256)).loc v (lbn % 256)
    retire (holding v t w) t rd (BitVec.ofNat 64 w) := by
  unfold lookDone
  dsimp only
  rw [if_neg (by omega)]
  refine if_pos ?_
  rw [if_neg (by simp), th_modTh_same]
  exact hr

theorem gr_holding (w r : Nat) : gr (holding v t w) t r = gr v t r := by
  unfold gr holding
  rw [th_modTh_same]

theorem exec_mlook (hi : issues s t (aw 0x51 rd rs1 0 0 0) = true) : exec (.mlook t rd rs1 e) s = .next (
    if mayLbn s t (gr s t rs1).toNat then look (spoil s e) t rd (localLbn s (gr s t rs1).toNat) false 0 else raise s t 2 1) := next_act hi

theorem exec_mgen (hi : issues s t (aw 0x52 rd rs1 0 0 0) = true) : exec (.mgen t rd rs1 e) s = .next (
    if mayLbn s t (gr s t rs1).toNat then look (spoil s e) t rd (localLbn s (gr s t rs1).toNat) true 0 else raise s t 2 1) := next_act hi

theorem exec_mgnew (hi : issues s t (aw 0x53 rd 0 0 0 0) = true) (hg : genReady s = true) :
    exec (.mgnew t rd) s = .next (retire (takeGen s).2 t rd (BitVec.ofNat 64 (takeGen s).1)) := next_act (by simp [hi, hg])

/-- A new generation follows every one given here and by the partner, and its block is reserved (R427). -/
theorem takeGen_effect (s : State) : let g := (takeGen s).1
    let m := (takeGen s).2.map
    s.map.genNext ≤ g ∧ s.map.genPeer < g ∧ m.genNext = g + 1 ∧ g < m.genCeil ∧ s.map.genCeil ≤ m.genCeil ∧
      (takeGen s).2 = { s with map := { s.map with genNext := g + 1, genCeil := m.genCeil } } := by
  have hnext : s.map.genNext ≤ (takeGen s).1 := le_max_left ..
  have hpeer : s.map.genPeer + 1 ≤ (takeGen s).1 := le_max_right ..
  have hceil : (takeGen s).2.map.genCeil = if s.map.genCeil ≤ (takeGen s).1 then (takeGen s).1 + 2 ^ 24 else s.map.genCeil := rfl
  refine ⟨hnext, hpeer, rfl, ?_, ?_, rfl⟩
  · rw [hceil]
    split <;> omega
  · rw [hceil]
    split <;> omega

end

/-- Settles O12: a lookup by the permission, the capacity, the commit window and what its accesses meet. -/
theorem mapLookups : Obligations.MapLookups := by
  intro s t rd rs1 e p l co
  have hth : th p t = th s t := th_of_thr (spoil_thr s e) t
  have hcap : (isSys p t = true ∧ lcapBlocks p ≤ l) ↔ (isSys s t = true ∧ lcapBlocks s ≤ l) := by
    rw [isSys_spoil, lcapBlocks_spoil]
  have hrun {w : Nat} (hi : issues s t w = true) : (th p t).st = .running := hth ▸ issues_running hi
  refine ⟨fun hi => ⟨fun hno => ?_, fun hmay => ⟨fun hsys hle => ?_, fun hin hwin => ?_, fun v hin hwin hhit hco hr => ?_⟩⟩,
    fun hi => ⟨fun hno => ?_, fun hmay => ⟨fun hsys hle => ?_, fun v hin hwin hhit hco hr => ?_⟩⟩, fun hi hg => ?_⟩
  · exact faults ((exec_mlook hi).trans (congrArg _ (if_neg (by simp [hno])))) (issues_running hi)
  · exact retires ((exec_mlook hi).trans (congrArg _ ((if_pos hmay).trans (look_past (hcap.2 ⟨hsys, hle⟩) (hrun hi) 0)))) rfl
  · refine ⟨_, (exec_mlook hi).trans (congrArg _ ((if_pos hmay).trans
      (look_window (hcap.not.2 hin) ((inWindow_spoil ..).trans hwin) (hrun hi) 0))), ?_, fun m hm => ?_⟩
    · rw [th_advWait, hth]
      exact waiting_congr (spoil_clk ..) (spoil_order ..) ..
    · exact (threadsKept_advWait _ _ _ _ _ m hm).trans (th_of_thr (spoil_thr s e) m)
  · obtain ⟨hdest, hothers, hissued⟩ :=
      retired_retire (holding v t ((loadBil v (l / 256)).loc v (l % 256))) t rd (BitVec.ofNat 64 ((loadBil v (l / 256)).loc v (l % 256)))
    refine ⟨_, (exec_mlook hi).trans (congrArg _ ((if_pos hmay).trans
      ((look_hits (hcap.not.2 hin) ((inWindow_spoil ..).trans hwin) hhit).trans (lookDone_loc hco hr)))), ?_, hdest, ?_,
      fun r hne => (hothers r hne).trans (gr_holding ..), hissued.frame⟩
    · rw [hissued.thread, holding, th_modTh_same]
      rfl
    · rw [hissued.thread, holding, th_modTh_same]
      rfl
  · exact faults ((exec_mgen hi).trans (congrArg _ (if_neg (by simp [hno])))) (issues_running hi)
  · exact retires ((exec_mgen hi).trans (congrArg _ ((if_pos hmay).trans (look_past (hcap.2 ⟨hsys, hle⟩) (hrun hi) 0)))) rfl
  · exact retires ((exec_mgen hi).trans (congrArg _ ((if_pos hmay).trans
      ((look_hits (hcap.not.2 hin) ((inWindow_spoil ..).trans hwin) hhit).trans (lookDone_gen hco hr))))) rfl
  · obtain ⟨hnext, hpeer, hafter, hin, hceil, hframe⟩ := takeGen_effect s
    refine ⟨_, (takeGen s).1, exec_mgnew hi hg, hnext, hpeer, ?_, ?_, ?_, ?_⟩
    · rw [retire_map]
      exact hafter
    · rw [retire_map]
      exact hin
    · rw [retire_map]
      exact hceil
    · rw [retire_map, ← hframe]
      exact retired_retire ..

end Sys2Proof.Machine
end

section
/-! PROOFS. Anvil staging slots and their commit (R189, R190, R191, R211, R220, R249). -/
namespace Sys2Proof.Machine
open Sys2Proof Sys2Proof.Safety Sys2Proof.WellFormed

/-! ### MSET (R189, R191) -/

theorem actOf_coarse {k : Nat} (h : k < 4) : actOf k = .coarse ↔ k = 1 := by
  interval_cases k <;> decide

section
variable {s v : State} {t rd rs1 rs2 frame slot k : Nat} {rel wb last : Bool} {e : List (Nat × MErr)}

/-- A store to a staging slot, and the move past the instruction. -/
theorem issued_setSlot (s : State) (t n : Nat) (x : Slot) :
    Issued s (adv (setSlot s t n x) t) t { advanced (th s t) with slots := mset Slot.empty (th s t).slots n x } := issued_adv ..

theorem exec_mset (hf : frame < 256) (hs : slot < 4) (hk : k < 4)
    (hi : issues s t (aw 0x54 rd rs1 rs2 (slot + 4 * k + 16 * b2n rel + 32 * b2n wb) frame) = true) :
    exec (.mset t rd rs1 rs2 frame slot k rel wb) s = .next (
      let n := (gr s t rs1).toNat
      let h := (gr s t rs2).toNat
      let l := if actOf k = .coarse then localLbn s n / 256 * 256 else localLbn s n
      let x := mget Slot.empty (th s t).slots slot
      let rest := x.ents.filter fun y => !(y.lbn = l && (y.act = .coarse) = (actOf k = .coarse))
      if !mayLbn s t n then raise s t 2 1
      else if wb && !holds s t h then raise s t 1 4
      else if isSys s t && lcapBlocks s ≤ localLbn s n then adv s t
      else if 256 ≤ rest.length then adv (setSlot s t slot { x with full := true }) t
      else adv (setSlot s t slot { x with
        ents := rest ++ [⟨l, actOf k, stagedLoc s (actOf k) wb h frame, wb, (gr s t rd).toNat, rel⟩] }) t) :=
  next_act (by rwa [immLt_of_lt hf, immLt_of_lt hs, immLt_of_lt hk])

/-! ### MCOMMIT, MDROP and MREL (R190, R191, R211, R220, R249) -/

theorem loseCopy_thr (s : State) (l : Nat) (unc : Bool) : (loseCopy s l unc).thr = s.thr := by
  unfold loseCopy
  dsimp only
  split
  · rw [wayErr_thr, setSlice_thr]
  · rw [setSlice_thr]

theorem commitErrs_thr (s : State) (es : List Staged) : (commitErrs s es).2.thr = s.thr := by
  unfold commitErrs
  refine List.foldlRecOn (motive := fun p : Bool × State => p.2.thr = s.thr) _ _ rfl fun p hp l _ => ?_
  split
  · split
    · exact hp
    · exact (loseCopy_thr ..).trans hp
    · exact (loseCopy_thr ..).trans hp
  · exact (dramCheck_thr ..).trans hp

/-- A commit whose checks passed, by the room there is for it (R211, R220 steps 2 and 4). -/
def commitRoom (v : State) (t rd slot : Nat) (last : Bool) (es : List JEnt) : State :=
  if !overlayRoom v t es then advWait (addSat v MAP_OVL_WAIT_COUNT 1) t .dma (0x100 + slot) (.commit rd slot last)
  else if !ringRoom v (64 + 24 * es.length) then advWait (keepSpace v t es) t .dma (0x100 + slot) (.commit rd slot last)
  else commitSlot v t rd slot last es

theorem exec_mcommit (hs : slot < 4) (hi : issues s t (aw 0x55 rd 0 0 (slot + 4 * b2n last) 0) = true) :
    exec (.mcommit t rd slot last e) s = .next (
      let p := spoil s e
      let x := mget Slot.empty (th s t).slots slot
      if !isSys p t && (th s t).lastMade then retire p t rd (svWord 0xF3 0 none)
      else if x.full then retire (setSlot p t slot Slot.empty) t rd (svWord 0xF4 0 none)
      else if !(x.ents.all fun e => (th s t).locks.any fun l => l.1 = e.lbn / 256) then retire p t rd (svWord 0xF2 0 none)
      else if x.ents.isEmpty then retire p t rd 0
      else if (commitErrs p x.ents).1 then raise (commitErrs p x.ents).2 t 0 4
      else commitRoom (commitErrs p x.ents).2 t rd slot last (x.ents.map (entOf (commitErrs p x.ents).2))) := by
  rw [← th_of_thr (spoil_thr s e) t]
  exact next_act (by rwa [immLt_of_lt hs])

theorem exec_mdrop (hs : slot < 4) (hi : issues s t (aw 0x56 0 0 0 slot 0) = true) :
    exec (.mdrop t slot) s = .next (adv (setSlot s t slot Slot.empty) t) := next_act (by rwa [immLt_of_lt hs])

theorem exec_mrel (hi : issues s t (aw 0x57 0 0 0 0 0) = true) :
    exec (.mrel t) s = .next (adv (serveBufs (modTh s t fun x => { x with held := [] })) t) := next_act hi

/-- The count of commits that wait for overlay space is no count of issued instructions. -/
theorem ovlWait_ne_issueFld (t : Nat) :
    (MAP_OVL_WAIT_COUNT.key == (issueFld t).key && MAP_OVL_WAIT_COUNT.ret == (issueFld t).ret) = false := by
  have hkey : MAP_OVL_WAIT_COUNT.key < (issueFld t).key := by
    unfold issueFld MAP_OVL_WAIT_COUNT
    split
    · unfold ANV_ISSUE_H_COUNT
      dsimp only
      omega
    · unfold ANV_ISSUE_I_COUNT
      dsimp only
      omega
  simp [Nat.ne_of_lt hkey]

/-- A commit that finds no overlay space waits, and is counted. -/
theorem commitRoom_overlay {es : List JEnt} (ho : overlayRoom v t es = false) : let u := commitRoom v t rd slot last es
    th u t = waiting v (th v t) .dma (0x100 + slot) (.commit rd slot last) ∧ ThreadsKept t v u ∧
      getF u MAP_OVL_WAIT_COUNT = satAdd MAP_OVL_WAIT_COUNT.w (getF v MAP_OVL_WAIT_COUNT) 1 := by
  intro u
  have hu : u = advWait (addSat v MAP_OVL_WAIT_COUNT 1) t .dma (0x100 + slot) (.commit rd slot last) := if_pos (by simp [ho])
  have hthr : (addSat v MAP_OVL_WAIT_COUNT 1).thr = v.thr := addSat_thr ..
  have hkept := regsKept_advWait (addSat v MAP_OVL_WAIT_COUNT 1) t .dma (0x100 + slot) (.commit rd slot last)
  rw [hu]
  refine ⟨?_, fun m hm => (threadsKept_advWait _ _ _ _ _ m hm).trans (th_of_thr hthr m), ?_⟩
  · rw [th_advWait, th_of_thr hthr]
    exact waiting_congr (addSat_clk ..) (addSat_order ..) ..
  · rw [hkept _ fun g hg => List.mem_singleton.1 hg ▸ ovlWait_ne_issueFld t, getF_addSat_same]
    exact Nat.mod_eq_of_lt (lt_of_le_of_lt (min_le_right ..) (by decide))

/-- A commit that finds no room in the tail ring keeps its overlay space, and waits. -/
theorem commitRoom_ring {es : List JEnt} (ho : overlayRoom v t es = true) (hr : ringRoom v (64 + 24 * es.length) = false) :
    commitRoom v t rd slot last es = advWait (keepSpace v t es) t .dma (0x100 + slot) (.commit rd slot last) :=
  (if_neg (by simp [ho])).trans (if_pos (by simp [hr]))

theorem commitRoom_slot {es : List JEnt} (ho : overlayRoom v t es = true) (hr : ringRoom v (64 + 24 * es.length) = true) :
    commitRoom v t rd slot last es = commitSlot v t rd slot last es :=
  (if_neg (by simp [ho])).trans (if_neg (by simp [hr]))

/-- The unit of a record is that of its lowest block (R218). -/
def unitOf (v : State) (t : Nat) (es : List JEnt) : Nat :=
  ((partOf v t).1 + (((es.map fun e => sysLbn v e.lbn).foldl min (2 ^ 48)) - cmdFirst v t)) / 256

/-- The thread waits for its record, or retires with the entries skipped. -/
theorem commitSlot_of_ents {es : List JEnt} {b : Bool} {r : JRec} {w : State}
    (h : commitEnts (setSlot v t slot Slot.empty) t (unitOf v t es) last es = (b, r, w)) : commitSlot v t rd slot last es =
      if b then advWait w t .dma (0x100 + slot) (.commit rd slot last) else retire w t rd (BitVec.ofNat 64 r.nskip) := by
  unfold unitOf at h
  unfold commitSlot
  dsimp only
  rw [h]
  cases b <;> rfl

end

/-- Settles O13: MSET by its checks and the slot's room; MCOMMIT by the first refusal, wait or record that its slot meets. -/
theorem stagedCommits : Obligations.StagedCommits := by
  refine ⟨fun s t rd rs1 rs2 frame slot k rel wb hf hs hk hi => ?_, fun s t rd slot last e hs => ?_⟩
  · have hexec := exec_mset (rel := rel) (wb := wb) hf hs hk hi
    simp only [actOf_coarse hk] at hexec ⊢
    have hrun := issues_running hi
    have hunheld : (wb && !holds s t (gr s t rs2).toNat) = true ↔ wb = true ∧ holds s t (gr s t rs2).toNat = false := by simp
    have hpast : (isSys s t && lcapBlocks s ≤ localLbn s (gr s t rs1).toNat) = true ↔
        isSys s t = true ∧ lcapBlocks s ≤ localLbn s (gr s t rs1).toNat := by simp
    refine ⟨fun hmay => ?_, fun hmay hwb hh => ?_, fun hmay hheld hsys hcap => ?_, fun hmay hheld hin => ⟨fun hroom => ?_, fun hfull => ?_⟩⟩
    · exact faults (hexec.trans (congrArg _ (if_pos (by simp [hmay])))) hrun
    · exact faults (hexec.trans (congrArg _ ((if_neg (by simp [hmay])).trans (if_pos (hunheld.2 ⟨hwb, hh⟩))))) hrun
    · exact ⟨_, hexec.trans (congrArg _ ((if_neg (by simp [hmay])).trans ((if_neg (hunheld.not.2 hheld)).trans
        (if_pos (hpast.2 ⟨hsys, hcap⟩))))), issued_adv' ..⟩
    · exact ⟨_, hexec.trans (congrArg _ ((if_neg (by simp [hmay])).trans ((if_neg (hunheld.not.2 hheld)).trans
        ((if_neg (hpast.not.2 hin)).trans (if_neg (Nat.not_le.2 hroom)))))), issued_setSlot ..⟩
    · exact ⟨_, hexec.trans (congrArg _ ((if_neg (by simp [hmay])).trans ((if_neg (hunheld.not.2 hheld)).trans
        ((if_neg (hpast.not.2 hin)).trans (if_pos hfull))))), issued_setSlot ..⟩
  · intro p x v es locked res
    have hth : th p t = th s t := th_of_thr (spoil_thr s e) t
    have hmade : (!isSys p t && (th s t).lastMade) = true ↔ isSys s t = false ∧ (th s t).lastMade = true := by
      rw [isSys_spoil]
      simp
    have hlocked : (!(x.ents.all fun e => (th s t).locks.any fun l => l.1 = e.lbn / 256)) = true ↔ ¬ locked := by
      simp [locked]
    have hempty : x.ents.isEmpty = true ↔ x.ents = [] := List.isEmpty_iff
    refine ⟨fun hi => ?_, fun hi => ⟨_, exec_mdrop hs hi, issued_setSlot ..⟩, fun hi => ⟨_, exec_mrel hi, _, rfl, issued_adv' ..⟩⟩
    have hexec := exec_mcommit (last := last) (e := e) hs hi
    have hchecked (hm : ¬ (isSys s t = false ∧ (th s t).lastMade = true)) (hf : x.full = false) (hl : locked) (hne : x.ents ≠ []) :
        exec (.mcommit t rd slot last e) s = .next (
          if (commitErrs p x.ents).1 then raise v t 0 4 else commitRoom v t rd slot last es) :=
      hexec.trans (congrArg _ ((if_neg (hmade.not.2 hm)).trans ((if_neg (Bool.eq_false_iff.1 hf)).trans
        ((if_neg (hlocked.not.2 (not_not.2 hl))).trans (if_neg (hempty.not.2 hne))))))
    refine ⟨fun hsys hlast => ?_, fun hm => ⟨fun hfull => ?_, fun hf hl => ?_, fun hf hl he => ?_, fun hf hl hne hbad => ?_,
      fun hf hl hne hgood => ⟨fun ho => ?_, fun ho hr => ?_, fun r w b ho hr hent => ⟨fun hb => ?_, fun hb => ?_⟩⟩⟩⟩
    · exact retires (hexec.trans (congrArg _ (if_pos (hmade.2 ⟨hsys, hlast⟩)))) rfl
    · exact retires (hexec.trans (congrArg _ ((if_neg (hmade.not.2 hm)).trans (if_pos hfull)))) rfl
    · exact retires (hexec.trans (congrArg _ ((if_neg (hmade.not.2 hm)).trans ((if_neg (Bool.eq_false_iff.1 hf)).trans
        (if_pos (hlocked.2 hl)))))) rfl
    · exact retires (hexec.trans (congrArg _ ((if_neg (hmade.not.2 hm)).trans ((if_neg (Bool.eq_false_iff.1 hf)).trans
        ((if_neg (hlocked.not.2 (not_not.2 hl))).trans (if_pos (hempty.2 he))))))) rfl
    · refine faults ((hchecked hm hf hl hne).trans (congrArg _ (if_pos hbad))) ?_
      rw [th_of_thr (commitErrs_thr ..), hth]
      exact issues_running hi
    · exact ⟨_, (hchecked hm hf hl hne).trans (congrArg _ (if_neg (by simp [hgood]))), commitRoom_overlay ho⟩
    · exact ⟨_, (hchecked hm hf hl hne).trans (congrArg _ ((if_neg (by simp [hgood])).trans (commitRoom_ring ho hr))), th_advWait ..,
        threadsKept_advWait _ _ _ _ _⟩
    · have hslot : commitSlot v t rd slot last es = retire w t rd (BitVec.ofNat 64 r.nskip) :=
        (commitSlot_of_ents hent).trans (if_neg (Bool.eq_false_iff.1 hb))
      exact retires ((hchecked hm hf hl hne).trans (congrArg _ ((if_neg (by simp [hgood])).trans
        ((commitRoom_slot ho hr).trans hslot)))) rfl
    · have hslot : commitSlot v t rd slot last es = advWait w t .dma (0x100 + slot) (.commit rd slot last) :=
        (commitSlot_of_ents hent).trans (if_pos hb)
      exact ⟨_, (hchecked hm hf hl hne).trans (congrArg _ ((if_neg (by simp [hgood])).trans
        ((commitRoom_slot ho hr).trans hslot))), th_advWait .., threadsKept_advWait _ _ _ _ _⟩

end Sys2Proof.Machine
end

section
/-! PROOFS. Map-cache, journal, checkpoint and transfer events (R194, R211, R220, R225, R227, R239 to R241, R370). -/
namespace Sys2Proof.Machine
open Sys2Proof Sys2Proof.Safety Sys2Proof.WellFormed

/-! ### Fills and drains (R239, R240) -/

section
variable {s : State} {t line q : Nat} {e : MErr}

theorem exec_mapFill_absent (h : ∀ g ∈ (slice s (line % 4)).fills, g.line ≠ line) : exec (.mapFill line e) s = .next s := by
  have hnone : (slice s (line % 4)).fills.find? (fun f => f.line = line) = none := by
    rw [List.find?_eq_none]
    simpa using h
  show execMapFill line e s = .next s
  rw [execMapFill, hnone]
  rfl

theorem exec_mapFill {g : Fill} (h : (slice s (line % 4)).fills.find? (fun f => f.line = line) = some g) :
    exec (.mapFill line e) s = act g.read s (fillArrives s g e).2 := by
  show execMapFill line e s = _
  rw [execMapFill, h]

/-- The state in which a fill that arrived leaves its line, before its waiters go on. -/
def filled (v : State) (g : Fill) (e : MErr) : State :=
  let b := dramCheck v (64 * g.line) 64 e 1
  let a := if g.pf then addWrap b.2 (MC_PFILLS_COUNT (g.line % 4)) 1 else b.2
  if b.1 then (if g.pf then prefetchErr a (g.line % 4) g.line else a) else if g.alloc then fillLine a (g.line % 4) g.line g else a

/-- A fill leaves its queue, then its line is as the read left it, then its waiters go on. -/
theorem fillArrives_eq (s : State) (g : Fill) (e : MErr) : (fillArrives s g e).2 =
    let v := setSlice s (g.line % 4) { slice s (g.line % 4) with fills := (slice s (g.line % 4)).fills.filter fun h => h.line != g.line }
    let w := filled v g e
    missWaiters ((lineWaiters w g.line).foldl (fun s t => lineArrived s t (dramCheck v (64 * g.line) 64 e 1).1) w) (g.line % 4) := rfl

theorem lineArrived_other (h : ∀ rd lbn gen n, (th s t).cont ≠ .look rd lbn gen n) (bad : Bool) : lineArrived s t bad = s := by
  unfold lineArrived
  split
  · rename_i rd lbn gen n hc
    exact absurd hc (h rd lbn gen n)
  · rfl

/-- A waiting lookup whose line failed faults when its thread resumes. -/
theorem lineArrived_bad {rd lbn m : Nat} {gen : Bool} (hc : (th s t).cont = .look rd lbn gen m) (hr : (th s t).st ≠ .running) :
    lineArrived s t true = modTh (toReady s t) t fun x => { x with cont := .spoiled } := by
  unfold lineArrived lookFault
  rw [hc]
  exact if_neg hr

theorem st_toReady_host (ht : isHost t = true) : (th (toReady s t) t).st = .ready := by
  rw [toReady_host s ht, th_enforceL_host _ _ ht, th_readied_same]

/-- What the codes find in DRAM is no concern of the map-cache slices. -/
theorem dramMerge_slices (s : State) (a n : Nat) (e : MErr) : (dramMerge s a n e).slices = s.slices := by
  have hue (s : State) (l src : Nat) : (dramUe s l src).slices = s.slices := by simp [dramUe, ueLog]
  have hbitmap (s : State) (l : Nat) : (bitmapErr s l).slices = s.slices := by simp [bitmapErr, ueLog]
  have hcorr (s : State) (l : Nat) : (dramCorr s l).slices = s.slices := by
    unfold dramCorr
    dsimp only
    repeat' split
    all_goals simp
  unfold dramMerge
  split
  · rfl
  · dsimp only
    split
    · exact hue ..
    · cases e <;> simp only [apply_ite State.slices, hue, hbitmap, hcorr, ite_self]

theorem dramWr_slices (s : State) (a : Nat) (b : List Byte) : (dramWr s a b).slices = s.slices := by
  unfold dramWr
  split <;> rfl

theorem wtDrain_cons {a : Nat} {l : List Byte} {r : List (Nat × List Byte)} (h : (slice s q).wtq = (a, l) :: r) : wtDrain s q e =
    dramWr (dramMerge (setSlice s q (Slice.issue { slice s q with wtq := r })) a l.length e) a l := by
  rw [wtDrain, h]

/-- The oldest queued write leaves its queue. -/
theorem wtq_wtDrain {a : Nat} {l : List Byte} {r : List (Nat × List Byte)} (h : (slice s q).wtq = (a, l) :: r) :
    (slice (wtDrain s q e) q).wtq = r := by
  rw [wtDrain_cons h, slice_of_slices ((dramWr_slices ..).trans (dramMerge_slices ..)), slice_setSlice]
  rfl

end

/-! ### The journal and checkpoint rounds (R211, R220, R225 to R227) -/

section
variable {s : State}

theorem jstat_thr (s : State) : (jstat s).thr = s.thr := by
  unfold jstat
  extract_lets since v
  have hv : v.thr = s.thr := by simp [v]
  split
  · rw [event_thr, logEv_thr, setF_thr, hv]
  · exact hv

theorem jstat_ck (s : State) : (jstat s).ck = s.ck := by
  unfold jstat
  extract_lets since v
  have hv : v.ck = s.ck := by simp [v]
  split
  · rw [event_ck, logEv_ck, setF_ck, hv]
  · exact hv

theorem jstat_ring (s : State) : (jstat s).ring = s.ring := by
  unfold jstat
  extract_lets since v
  have hv : v.ring = s.ring := by simp [v]
  split
  · rw [event_ring, logEv_ring, setF_ring, hv]
  · exact hv

theorem getF_jstat_active (s : State) : getF (jstat s) MAP_CKPT_ACTIVE = getF s MAP_CKPT_ACTIVE := by
  unfold jstat
  extract_lets since v
  have hv : getF v MAP_CKPT_ACTIVE = getF s MAP_CKPT_ACTIVE := by
    simp only [v]
    rw [getF_setF_other _ _ (by decide), getF_setF_other _ _ (by decide)]
  split
  · rw [getF_event, getF_logEv, getF_setF_other _ _ (by decide), hv]
  · exact hv

/-- A new root reaches the partner of a module that mirrors (R425). -/
def rootTold (v : State) : State := if mirrors v then send v (.pair 3 (rootWords v)) else v

/-- The message to the partner changes none of the journal, the root and the threads. -/
theorem rootTold_effect (v : State) : (rootTold v).ck = v.ck ∧ (rootTold v).map = v.map ∧ (rootTold v).thr = v.thr ∧
    (rootTold v).ring = v.ring ∧ getF (rootTold v) MAP_CKPT_ACTIVE = getF v MAP_CKPT_ACTIVE := by
  unfold rootTold
  split
  · exact ⟨rfl, rfl, rfl, rfl, rfl⟩
  · exact ⟨rfl, rfl, rfl, rfl, rfl⟩

theorem setJend_eq (s : State) (j : Nat) : setJend s j = rootTold (jstat { s with ck := { s.ck with jend := j } }) := rfl

/-- The journal's end rises, and nothing else of the records or threads changes (R226). -/
theorem setJend_effect (s : State) (j : Nat) :
    (setJend s j).ck.jend = j ∧ (setJend s j).map.recs = s.map.recs ∧ (setJend s j).thr = s.thr := by
  obtain ⟨hck, hmap, hthr, -, -⟩ := rootTold_effect (jstat { s with ck := { s.ck with jend := j } })
  rw [setJend_eq]
  refine ⟨?_, ?_, ?_⟩
  · rw [hck, jstat_ck]
  · rw [hmap, jstat_map]
  · rw [hthr, jstat_thr]

section
variable {j p nx : Nat}

theorem exec_journalTailSpace (s : State) (j p nx : Nat) : exec (.journalTailSpace ⟨j, p, nx⟩) s =
    act (s.ck.jend < j && (strikesWhere s fun k => k.cls = 1 && (th s k.t).role = 8).isEmpty && (tailRecs s j).all (·.committed)
      && decide (segBytes s j ≤ 2 ^ 20) && s.map.recs.any fun r => r.jseq = j) s (retryAll (setJend (writeSeg s j p nx) j)) := rfl

theorem exec_journalTailSpace_written (hj : s.ck.jend < j)
    (hc : ∀ r ∈ s.map.recs, r.jseq ≤ j → s.ck.jend < r.jseq → r.committed = true) (hr : ∃ r ∈ s.map.recs, r.jseq = j)
    (hk : (strikesWhere s fun k => k.cls = 1 && (th s k.t).role = 8) = []) (hb : segBytes s j ≤ 2 ^ 20) :
    exec (.journalTailSpace ⟨j, p, nx⟩) s = .next (retryAll (setJend (writeSeg s j p nx) j)) := by
  have htail : (tailRecs s j).all (·.committed) = true := by
    rw [List.all_eq_true]
    intro r hr
    obtain ⟨hmem, hspan⟩ := List.mem_filter.1 hr
    simp only [Bool.and_eq_true, decide_eq_true_eq] at hspan
    exact hc r hmem hspan.1 hspan.2
  have hany : (s.map.recs.any fun r => r.jseq = j) = true := by simpa using hr
  rw [exec_journalTailSpace]
  refine next_act ?_
  rw [hk, htail, hany, decide_eq_true hj, decide_eq_true hb]
  rfl

theorem exec_journalTailSpace_full (hb : 2 ^ 20 < segBytes s j) : exec (.journalTailSpace ⟨j, p, nx⟩) s = .next s := by
  rw [exec_journalTailSpace]
  refine next_idle ?_
  rw [decide_eq_false (Nat.not_le.2 hb), Bool.and_false, Bool.false_and]

theorem exec_journalTailSpace_past (hj : j ≤ s.ck.jend) : exec (.journalTailSpace ⟨j, p, nx⟩) s = .next s := by
  rw [exec_journalTailSpace]
  refine next_idle ?_
  rw [decide_eq_false (Nat.not_lt.2 hj)]
  rfl

/-- A segment follows the last one, at the place that that one reserved (R227). -/
theorem writeSeg_effect (s : State) (j p nx : Nat) : ∃ g, (writeSeg s j p nx).map.segs = s.map.segs ++ [g] ∧ g.first = s.ck.jend + 1 ∧
    g.last = j ∧ g.next = nx ∧ (∀ h, s.map.segs.getLast? = some h → g.ppa = h.next) ∧ (s.map.segs = [] → g.ppa = p) := by
  refine ⟨_, rfl, rfl, rfl, rfl, fun h hlast => ?_, fun hnil => ?_⟩
  · dsimp only
    rw [hlast]
  · dsimp only
    rw [hnil]
    rfl

end

theorem exec_overlaySpaceFreed (s : State) : exec .overlaySpaceFreed s =
    act (s.thr.any fun e => e.2.why = .dma && (match e.2.cont with | .commit _ _ _ => true | _ => false)) s (retryAll s) := rfl

/-- The round that a root takes (R225 step 4). -/
def rootRound (s : State) (n js jd jseg : Nat) : Round :=
  ⟨n, js, jd, s.map.roundDirs, match s.map.segs.find? fun g => g.first ≤ js && js ≤ g.last with | some g => g.ppa | none => jseg,
    s.map.roundAt, s.ring.foldl (fun m e => wrBytes m e.1 e.2) s.map.roundImage, s.map.roundSif, newDir s⟩

/-- The root that takes a round: the round is NEWEST, and what it holds leaves the ring and the journal. -/
def rooted (s : State) (n js jd jseg : Nat) : State :=
  let keep := match s.ck.newest with | some p => p.jstart | none => js
  { s with ck := { s.ck with previous := s.ck.newest, newest := some (rootRound s n js jd jseg) }, ring := [], keep := { s.keep with fresh := false }
           map := { s.map with round := none, roundImage := [], roundSif := [], roundDirs := [], roundSegs := [], segs := s.map.segs.filter fun x => keep ≤ x.last
                               recs := s.map.recs.filter fun x => keep ≤ x.jseq } }

/-- The registers show that no round is active (R229). -/
def rootShown (v : State) : State := jstat (setF (addWrap v MAP_CKPT_ROUNDS 1) MAP_CKPT_ACTIVE 0)

theorem rootUpdate_eq (s : State) (n js jd jseg : Nat) : rootUpdate s n js jd jseg = rootTold (rootShown (rooted s n js jd jseg)) := rfl

theorem rootShown_effect (v : State) : (rootShown v).ck = v.ck ∧ (rootShown v).map = v.map ∧ (rootShown v).ring = v.ring ∧
    getF (rootShown v) MAP_CKPT_ACTIVE = 0 := by
  unfold rootShown
  refine ⟨?_, ?_, ?_, ?_⟩
  · rw [jstat_ck, setF_ck, addWrap_ck]
  · rw [jstat_map, setF_map, addWrap_map]
  · rw [jstat_ring, setF_ring, addWrap_ring]
  · rw [getF_jstat_active, getF_setF_same]
    rfl

/-- The root and the map after a round became NEWEST. -/
theorem rootUpdate_effect (s : State) (n js jd jseg : Nat) : let u := rootUpdate s n js jd jseg
    u.ck = (rooted s n js jd jseg).ck ∧ u.map = (rooted s n js jd jseg).map ∧ u.ring = [] ∧ getF u MAP_CKPT_ACTIVE = 0 := by
  intro u
  obtain ⟨hck, hmap, hring, hact⟩ := rootShown_effect (rooted s n js jd jseg)
  obtain ⟨hck', hmap', -, hring', hact'⟩ := rootTold_effect (rootShown (rooted s n js jd jseg))
  have hu : u = rootTold (rootShown (rooted s n js jd jseg)) := rootUpdate_eq ..
  rw [hu, hck', hmap', hring', hact']
  refine ⟨hck, hmap, ?_, hact⟩
  rw [hring]
  rfl

/-- The directory of a round in progress fixes JDONE (R225 step 3). -/
def roundFixed (s : State) (m js : Nat) (d : RoundDir) : State :=
  { s with map := { s.map with round := some (m, js, some s.map.jseq), roundImage := mapImage s, roundSif := s.sif, roundDirs := d.dirs,
                               roundSegs := d.segs } }

theorem exec_checkpointRootUpdate_first {m js jseg : Nat} {d : RoundDir} (h : s.map.round = some (m, js, none)) :
    exec (.checkpointRootUpdate d jseg) s = act (threeChannels d.dirs && copiesChanged s d.segs) s
      (if s.map.jseq ≤ s.ck.jend then rootUpdate (roundFixed s m js d) m js s.map.jseq jseg else roundFixed s m js d) := by
  show execCheckpointRootUpdate d jseg s = _
  unfold execCheckpointRootUpdate
  rw [h]
  rfl

theorem exec_checkpointRootUpdate_second {m js jd jseg : Nat} {d : RoundDir} (h : s.map.round = some (m, js, some jd)) :
    exec (.checkpointRootUpdate d jseg) s = .next (if jd ≤ s.ck.jend then rootUpdate s m js jd jseg else s) := by
  show execCheckpointRootUpdate d jseg s = _
  rw [execCheckpointRootUpdate, h]

end

/-! ### The ends of transfers (R194, R344, R345, R356, R370) -/

section
variable {s : State} {t n : Nat} {y : Xfer} {data pis : List Byte} {es : List (Nat × MErr)} {reads : List MRead}

theorem exec_transferEnd (hy : liveXfer s t n = some y) : exec (.transferEnd t n data pis es reads) s =
    match y.kind with
    | .cenc | .cdec => .next s
    | .xin | .xout => .next (endXfer (moveTo s t y y.pos (4096 * ctlCount (y.w.getD 2 0)) data pis es).2 t n
        ((moveTo s t y y.pos (4096 * ctlCount (y.w.getD 2 0)) data pis es).1.getD 0))
    | .xcopy => .next (endXfer (copyFrames s y es).2 t n ((copyFrames s y es).1.getD 0))
    | .pxadd => .next (endXfer (pxaddEnd s y es).2 t n ((pxaddEnd s y es).1.getD 0))
    | .pxclose => .next (endXfer (pxcloseEnd s y) t n 0)
    | .pxreb => act (!rebuildHeld s (bits (y.w.getD 0 0) 0 48)) s (endXfer (pxrebEnd s y reads).2 t n ((pxrebEnd s y reads).1.getD 0)) := by
  show execTransferEnd t n data pis es reads s = _
  simp only [execTransferEnd, hy] <;> cases y.kind <;> rfl

theorem exec_transferEnd_none (hy : liveXfer s t n = none) : exec (.transferEnd t n data pis es reads) s = .next s := by
  show execTransferEnd t n data pis es reads s = _
  rw [execTransferEnd, hy]

theorem exec_cipherTransferEnd {run : CipherRun} (hy : liveXfer s t n = some y) (hk : y.kind = .cenc ∨ y.kind = .cdec) :
    exec (.cipherTransferEnd t n run) s = .next (endXfer (cipherFrames s t y run).2 t n ((cipherFrames s t y run).1.getD 0)) := by
  show execCipherTransferEnd t n run s = _
  rw [execCipherTransferEnd, hy]
  exact next_act (by rcases hk with hk | hk <;> rw [hk] <;> rfl)

theorem exec_cipherTransferEnd_none {run : CipherRun} (hy : liveXfer s t n = none) : exec (.cipherTransferEnd t n run) s = .next s := by
  show execCipherTransferEnd t n run s = _
  rw [execCipherTransferEnd, hy]

/-- With no thread waiting in BFREE the end of an operation wakes none there. -/
theorem wakeBfree_idle (h : ∀ m k, (th s m).cont ≠ .bfree k) : wakeBfree s = s := by
  refine List.foldl_fixed' (fun m => ?_) _
  split
  · rename_i k hk
    exact absurd hk (h m k)
  · rfl

theorem threadsKept_xferEnded (s : State) (t n sv : Nat) : ThreadsKept t s (xferEnded s t n sv) := threadsKept_modTh _ _ _

/-- A transfer for which nothing waits ends in its thread's record alone. -/
theorem threadsKept_endXfer (hw : ¬ waitsDma s t) (h : ∀ m k, (th s m).cont ≠ .bfree k) (sv : Nat) : ThreadsKept t s (endXfer s t n sv) := by
  have hidle : ¬ waitsDma (xferEnded s t n sv) t := by rwa [waitsDma, th_xferEnded]
  have hcont (m k : Nat) : (th (xferEnded s t n sv) m).cont ≠ .bfree k := by
    by_cases hm : m = t
    · rw [hm, th_xferEnded]
      exact h t k
    · rw [threadsKept_xferEnded s t n sv m hm]
      exact h m k
  rw [endXfer_eq, wakeDma_idle hidle, wakeBfree_idle hcont]
  exact threadsKept_xferEnded s t n sv

end

/-- Settles O53: each event by the state it finds, through the laws above. -/
theorem mapEvents : Obligations.MapEvents := by
  intro s line q j p nx jseg t n e d es data pis y run f
  refine ⟨exec_mapFill_absent, fun g hg hr => ?_, fun g hg hr => ?_, fun m hm hno => ?_, fun rd lbn gen m hc hr => ?_, fun a l r hq => ?_,
    fun hq => next_idle (by simp [hq]), exec_journalTailSpace_written, exec_journalTailSpace_full, writeSeg_effect s j p nx,
    setJend_effect s j, exec_journalTailSpace_past, fun m x a b c hmem hwhy hcont => ?_, fun hno => ?_, fun m js hrd hdirs hsegs hend => ?_,
    fun m js hrd hdirs => ?_, fun m js jd hrd hle => ?_, fun m js jd hrd hlt => ?_, fun hy hk r v hmove => ?_, fun hy hk => ?_,
    fun hy hk => ?_, fun l hy hk => ?_, fun hy hk => ?_, fun hy hk => ?_,
    fun hy => ⟨exec_transferEnd_none hy, exec_cipherTransferEnd_none hy⟩, fun v hdma hpage hx => ?_⟩
  · rw [exec_mapFill hg, hr]
    rfl
  · have hline : g.line = line := by simpa [f] using List.find?_some hg
    subst hline
    exact ⟨_, _, _, (exec_mapFill hg).trans (next_act hr), rfl, rfl, fillArrives_eq s g e⟩
  · exact lineArrived_other (fun rd lbn gen n => hm ▸ hno rd lbn gen n) true
  · refine ⟨_, rfl, ?_, fun hh => ?_, ?_⟩
    · rw [lineArrived_bad hc hr, th_modTh_same]
    · rw [lineArrived_bad hc hr, th_modTh_same]
      exact st_toReady_host hh
    · rw [lineArrived_bad hc hr, modTh_mem, toReady_mem]
  · exact ⟨_, next_act (by simp [hq]), wtq_wtDrain hq, wtDrain_cons hq⟩
  · rw [exec_overlaySpaceFreed]
    exact next_act (List.any_eq_true.2 ⟨(m, x), hmem, by simp [hwhy, hcont]⟩)
  · rw [exec_overlaySpaceFreed]
    exact next_idle (List.any_eq_false.2 fun x hx => by simp [hno x hx])
  · refine ⟨roundFixed s m js d, ?_, rfl, rfl, rfl, rfl, rfl, rfl, rfl⟩
    rw [exec_checkpointRootUpdate_first hrd, if_neg (Nat.not_le.2 hend)]
    exact next_act (by rw [hdirs, hsegs]; rfl)
  · rw [exec_checkpointRootUpdate_first hrd]
    exact next_idle (by rw [hdirs]; rfl)
  · obtain ⟨hck, hmap, hring, hact⟩ := rootUpdate_effect s m js jd jseg
    refine ⟨_, rootRound s m js jd jseg, (exec_checkpointRootUpdate_second hrd).trans (congrArg _ (if_pos hle)), ?_, ?_, rfl, rfl, rfl, rfl,
      rfl, rfl, rfl, ?_, hring, hact⟩
    · rw [hck]
      rfl
    · rw [hck]
      rfl
    · rw [hmap]
      rfl
  · exact (exec_checkpointRootUpdate_second hrd).trans (congrArg _ (if_neg (Nat.not_le.2 hlt)))
  · rcases hk with hk | hk
    all_goals
      rw [exec_transferEnd hy, hk]
      dsimp only
      rw [hmove]
  · rw [exec_transferEnd hy, hk]
  · rw [exec_transferEnd hy, hk]
  · rw [exec_transferEnd hy, hk]
    cases rebuildHeld s (bits (y.w.getD 0 0) 0 48)
    · exact next_act rfl
    · exact next_idle rfl
  · rw [exec_transferEnd hy, hk]
  · refine ⟨?_, exec_cipherTransferEnd hy hk⟩
    rcases hk with hk | hk <;> rw [exec_transferEnd hy, hk]
  · have hw : ¬ waitsDma s t := fun h => h.elim hdma hpage
    refine ⟨?_, fun hb => threadsKept_endXfer hw hb v⟩
    rw [xferAt_endXfer hw, hx]
    rfl

end Sys2Proof.Machine
end
